-- ==== Sys2Proof/Word.lean ====
section
/-! DEFINITION. The word types of the module: bytes, and the little-endian words of R10. -/

namespace Sys2Proof

/-- One byte of a register, a queue entry, an image or a stored vector (R10). -/
abbrev Byte := BitVec 8

/-- A run of bytes, lowest address first (R10: multi-byte fields are little-endian). -/
abbrev Bytes := List Byte

/-- A 64-bit register or label word (R357, R61). -/
abbrev Word64 := BitVec 64

/-- An FP32 number as its IEEE 754 binary32 code (R152). -/
abbrev F32 := BitVec 32

end Sys2Proof
end

