-- ==== Sys2Proof/Machine/Data.lean ====
section
/-! DEFINITION. The stored data of a facet as plain data: geometry, vectors, lists, side list, graph, messages.
They stand apart from State because commands carry some of them. -/

namespace Sys2Proof

/-- An INDEXES record (R37). `storage` is the format code of R36; `vertexSize` is 0, 1, 2 or 4 (KiB). -/
structure Geometry where
  facet : Nat
  slot : Nat
  mode : Nat
  metric : Nat
  storage : Nat
  vertexSize : Nat
  sketchBits : Nat
  dims : Nat
  coarse : Nat
  fine : Nat
  degree : Nat
  sideLimit : Nat
  maxVectors : Nat
deriving DecidableEq, Repr

/-- A stored vector with its ID, label word and sketch (R51, R61, R65). Sketch bit j is bit j of `sketch` (R58). -/
structure Stored where
  id : Nat
  vec : Bytes
  label : Nat
  sketch : Nat
deriving DecidableEq, Repr

/-- One position of a list (R64): the vector, the epoch at which it was published, its tombstone bit (R68) with the epoch of
the delete that set it (R138). -/
structure Pos where
  v : Stored
  birth : Nat
  tomb : Bool
  del : Nat
deriving DecidableEq, Repr

/-- One copy of a list (R68, R142, R148): from `pub` on, queries read it; `gen` is its sketch generation, `base` the HBM byte address of its
sketch records and `mapBase` that of its page map. -/
structure ListCopy where
  pub : Nat
  gen : Nat
  pos : List Pos
  base : Nat
  mapBase : Nat
deriving DecidableEq, Repr

/-- A list: its number, the channel and die of its first unit (R203), its copies newest first. -/
structure ListDir where
  num : Nat
  bL : Option Nat
  dL : Option Nat
  copies : List ListCopy
deriving DecidableEq, Repr

/-- A side-list entry (R71, R149): append number, commit epoch, generation, void mark, tombstone bit with
the epoch of its delete; `again` marks one that a compaction move appended again (R64). -/
structure SideEnt where
  app : Nat
  v : Stored
  epoch : Nat
  gen : Nat
  void : Bool
  tomb : Bool
  del : Nat
  again : Bool
deriving DecidableEq, Repr

/-- A compaction move still above the floor epoch (R139): append numbers lo .. hi − 1 and E_m. -/
structure Move where
  lo : Nat
  hi : Nat
  em : Nat
deriving DecidableEq, Repr

/-- A graph node (R69, R70): neighbour lists as (publish epoch, neighbours, sweep), newest first, and sketches as
(publish epoch, generation, sketch), newest first, so that a query reads both as they stood at its epoch (R105, R150). -/
structure Node where
  num : Nat
  v : Stored
  nbrs : List (Nat × List Nat × Nat)
  sketches : List (Nat × Nat × Nat)
  birth : Nat
  tomb : Bool
  del : Nat
  reclaimed : Bool
deriving DecidableEq, Repr

/-- A node array (R206, R207): published at `pub`, with the published length and the entry set by epoch, newest first. -/
structure NodeArray where
  pub : Nat
  nodes : List Node
  lengths : List (Nat × Nat)
  entries : List (Nat × List Nat)
deriving DecidableEq, Repr

/-- Where a live vector lies (R73). A side location holds the append number; its side position is that modulo side_limit. -/
inductive Loc where
  | list (l pos : Nat)
  | side (app : Nat)
  | node (n : Nat)
deriving DecidableEq, Repr

/-- A projection W (R59, R189, R190): built from a seed, or learned and held as BF16 codes, row by row, with the stage-1 format into which it was
converted when its generation was installed. -/
inductive Proj where
  | seed (s : BitVec 64)
  | learned (fmt : Nat) (w : List (BitVec 16))
deriving DecidableEq, Repr

/-- A repair sweep (R145, R146): number, next graph unit, the append number up to which the side list had been moved at its
start, and the nodes tombstoned by then. -/
structure Sweep where
  num : Nat
  unit : Nat
  moved : Nat
  dead : List Nat
deriving DecidableEq, Repr

/-- A re-sketch transition (R147 to R151): the command's tag, E_s, the old generation, and the next list or the boundary b. -/
structure Transition where
  tag : Nat
  es : Nat
  old : Nat
  next : Nat
deriving DecidableEq, Repr

/-- Work that a unit or a memory does in pieces (R210, R222 to R225): `n` pieces, each of some ticks on an execution unit or flash channel and of
some byte grants on a memory resource; `entry` is the FCT_ counter of its bytes, and `die` the die and plane on which a program follows each piece. -/
structure Job where
  unit : Option Nat
  ticks : Nat
  res : Option Nat
  grants : Nat
  size : Nat
  entry : Option Nat
  die : Option (Nat × Nat)
  n : Nat
deriving DecidableEq, Repr

/-- What a slot or vertex record of a flash unit holds, as plain data: the ID, the vector, the label or append number, a node's number with its
neighbours, and the sweep field; or the sketch of a record of the tier image (R66, R70, R321). -/
structure SlotData where
  id : Nat
  vec : Bytes
  word : Nat
  nbrs : List Nat
  sweep : Nat
deriving DecidableEq, Repr

/-- Background work in progress on an index (R138, R225; log 46): the class that does it and the engine that takes its sketches, the base channel
and die of the lists whose first unit it writes (R203), the order of a renumbering (R206), the pieces still to be granted, and what was written
to each unit, by structure, list and unit. -/
structure Work where
  cls : Nat
  engine : Nat
  spots : List (Nat × Nat × Nat)
  order : List Nat
  jobs : List Job
  copies : List ((Nat × Nat × Nat) × List SlotData)
deriving DecidableEq, Repr

/-- A created index with everything it stores (R49, R50, R62 to R76). `starts` are the epochs from which the generations of re-sketches are in
use (R147), `freed` the entries that have left the side list from the unit that its head lies in (R66, R139), and `staged` the background work
whose units are being programmed, with the count that its command gave (R138; log 46): 0 a compaction move, 1 a list rewrite, 2 a graph insert,
3 a repair sweep's unit, 4 a renumbering, with its progress in `work`. -/
structure Index where
  geo : Geometry
  coarse : List Bytes
  fine : List Bytes
  projs : List (Nat × Proj)
  released : List (Nat × Nat)
  starts : List (Nat × Nat)
  gen : Nat
  pendingProj : Option (List (BitVec 16))
  lists : List ListDir
  side : List SideEnt
  freed : List SideEnt
  head : Nat
  committed : Nat
  moves : List Move
  map : List (Nat × Loc)
  cached : List Nat
  arrays : List NodeArray
  sweep : Option Sweep
  lastSweep : Nat
  sweptTo : Nat
  toReclaim : List (Nat × List Nat)
  insertedSince : Nat
  renumDeferred : Bool
  trans : Option Transition
  dropping : Option Nat
  held : Bool
  staged : Option (Nat × Nat)
  work : Option Work
deriving DecidableEq, Repr

/-- A pending delete (R74): index slot, location, commit epoch. A rewrite or renumbering gives the location a new name: the entry
under the old name serves queries below `till`, the one under the new name queries from `since` on (R142, R207). -/
structure Pend where
  slot : Nat
  loc : Loc
  epoch : Nat
  since : Nat
  till : Option Nat
deriving DecidableEq, Repr

/-- One result entry (R97): `id` none marks an empty place. -/
structure ResultEnt where
  id : Option Nat
  dist : F32
  ham : Nat
  status : Nat
deriving DecidableEq, Repr

/-- What the reading of flash gave (R323, R324): decoded after n re-reads, failed with its parity group readable,
or failed with a second unit of the group failed as well. -/
inductive ReadResult where
  | ok (rereads : Nat)
  | failed
  | lost
deriving DecidableEq, Repr

/-- How a program or erase segment ended (R133, R205, R323, R324): more segments follow, the last one ended,
the program or erase failed and the block is retired, or no spare block was left. -/
inductive SegResult where
  | more
  | done
  | failed
  | noSpare
deriving DecidableEq, Repr

/-- A query of a QUERY_CAST (R298, R303). -/
structure Cast where
  facet : Nat
  slot : Nat
  cls : Nat
  qid : Nat
  turn : Nat
  step : Nat
  dRel : Nat
  area : BitVec 256
  records : Bytes
deriving DecidableEq, Repr

/-- A CONTRIBUTION (R298): one part of a domain query's gather, for query `sub` of the cast (log 16). -/
structure Contrib where
  facet : Nat
  slot : Nat
  cls : Nat
  qid : Nat
  sub : Nat
  src : Nat
  nodes : Nat
  missing : Nat
  cause : Nat
  partialFlag : Bool
  scanned : Nat
  entries : List ResultEnt
deriving DecidableEq, Repr

/-- A committed write forwarded during a migration (R298 type 5, R311). -/
inductive MigWrite where
  | insert (epoch : Nat) (recs : List Stored)
  | delete (epoch : Nat) (ids : List Nat)
  | relabel (epoch : Nat) (recs : List Stored)
deriving DecidableEq, Repr

/-- One piece of an index in transfer (R298, R311): a unit of a list, of the side list or of the node array, by its number and in the module's own
terms, or what no unit holds: the index with its lists and array empty, and its pending deletes (log 16). -/
inductive MigPart where
  | base (ix : Index)
  | pending (ps : List Pend)
  | list (unit : Nat) (d : ListDir)
  | side (unit : Nat) (es : List SideEnt)
  | nodes (unit : Nat) (a : NodeArray)
deriving DecidableEq, Repr

/-- A message on a chord link (R298). -/
inductive ChordMsg where
  | cast (c : Cast)
  | contrib (c : Contrib)
  | gap (facet slot cls qid : Nat)
  | migUnit (facet slot : Nat) (p : MigPart)
  | migWrite (facet slot : Nat) (w : MigWrite)
  | migCtrl (facet slot phase error : Nat)
  | turnSet (turn : Nat)
deriving DecidableEq, Repr

end Sys2Proof
end

