-- ==== Sys2Proof/Syntax.lean ====
section
/-! DEFINITION. The commands of the block: one constructor for each row of spec/opcode_table.json. -/

namespace Sys2Proof

/-- A submission entry as the module fetches it (R246), less the opcode, which the row's constructor is; `badOpcode` is a value that R263
assigns to no command and that the entry holds in place of the row's (log 1). `area` is the 32-byte command-specific area: byte 0x20 of the
entry is its bits 7 to 0 (R10). -/
structure Entry where
  qp : Nat
  flags : Byte
  cid : BitVec 16
  rsv4 : BitVec 32
  dataAddr : Word64
  dataLen : BitVec 32
  rsv14 : BitVec 32
  resultAddr : Word64
  area : BitVec 256
  badOpcode : Option Byte := none
deriving DecidableEq, Repr

/-- A write to the function's configuration space (R238): the settings the table names that the host makes. -/
inductive CfgWrite where
  | ecrcGenerate (on : Bool)
  | ecrcCheck (on : Bool)
  | msixEnable (on : Bool)
  | msixMask (on : Bool)
  | maxPayload (bytes : Nat)
  | maxReadRequest (bytes : Nat)
deriving DecidableEq, Repr

/-- The two windows of R240. -/
inductive Bar where
  | bar0
  | bar2
deriving DecidableEq, Repr

/-- The filtered control inputs of R344, in the order of PWR_EDGES (R370). -/
inductive Pin where
  | modRst
  | pwrBrake
  | syncIn
deriving DecidableEq, Repr

/-- What consumes a stream block (R214, R215). -/
inductive Consumer where
  | sliver (cell : Nat)
  | walker (ctx : Nat)
  | model (tag : Nat)
  | memory (facet slot : Nat)
deriving DecidableEq, Repr

/-- A block of a consumer's stream, by its number, with the CRC that the consumer found over it (R214). -/
structure StreamBlock where
  num : Nat
  crc : BitVec 32
deriving DecidableEq, Repr

/-- A stall that the wait-for check of R217 looks at: the region, the stalled stream's sequence and facet, the buffers
it still needs, its producer, and the producer of the stream its consumer waits on. -/
structure Stall where
  region : Nat
  facet : Nat
  seq : Nat
  other : Nat
  producer : Nat
  otherProducer : Nat
  need : Nat
  otherNeed : Nat
deriving DecidableEq, Repr

/-- The part of stacked memory an uncorrectable error lies in (R319). -/
inductive StackPart where
  | cacheCopy (facet slot list : Nat)
  | scratchpad (tag : Nat)
  | tagTable
  | streamBuffer (cell : Nat)
  | mergeState (ctx : Nat)
deriving DecidableEq, Repr

/-- What a start-up finds in the parts it cannot choose (R315, R18, R273): which copies of the boot configuration can be read, which parts
fail self-test, and whether each firmware slot passes its start-up check. -/
structure BootFinds where
  copy0 : Bool
  copy1 : Bool
  cells : List Nat
  blocks : List Nat
  regions : List Nat
  fw0 : Bool
  fw1 : Bool
deriving DecidableEq, Repr

/-- The commands. One sender's queue holds them; `exec` gives each its effect. -/
inductive Instr where
  -- admin commands (R269)
  | identify (e : Entry)
  | getLog (e : Entry)
  | setFeature (e : Entry)
  | getFeature (e : Entry)
  | fwDownload (e : Entry)
  | fwCommit (e : Entry)
  | createQp (e : Entry)
  | deleteQp (e : Entry)
  | abort (e : Entry)
  | resumeQp (e : Entry)
  | loadLattice (e : Entry)
  | facetCreate (e : Entry)
  | facetDestroy (e : Entry)
  | indexCreate (e : Entry)
  | indexDrop (e : Entry)
  | evrControl (e : Entry)
  -- I/O commands (R280)
  | query (e : Entry)
  | queryBatch (e : Entry)
  | insert (e : Entry)
  | delete (e : Entry)
  | labelUpdate (e : Entry)
  | fetch (e : Entry)
  | flush (e : Entry)
  | train (e : Entry)
  | resketch (e : Entry)
  | encode (e : Entry)
  | modelLoad (e : Entry)
  -- host interface (R239 to R243, R309, R332, R357, R360)
  | sqTailDoorbell (qp : Nat) (value : BitVec 32)
  | cqHeadDoorbell (qp : Nat) (value : BitVec 32)
  | hifCtrlEnable
  | hifCtrlDisable
  | chdMigCtrlGo (value : Word64)
  | chdMigCtrlCancel (value : Word64)
  | chdMigAcceptGo (value : Word64)
  | chdMigAcceptCancel (value : Word64)
  | evrWindowCrcRead (wide : Bool)
  | registerWrite (bar : Bar) (offset size : Nat) (value : Word64)
  | functionLevelReset
  | hotReset
  | linkDown
  | hostReadCompletion (tag : Nat) (data : Bytes) (poisoned : Bool)
  | hostReadTimeout (tag : Nat)
  | msixIntervalExpiry (vector : Nat)
  | coalescingDelayExpiry (qp : Nat)
  -- time (R77, R84, R220, R347, R348)
  | batchStepBoundary
  | syncInPulse
  | syncTimeout
  | freeRunningTurn
  -- search (R81 to R120, R162 to R167)
  | tileDrain (engine : Nat)
  | sentinelShadowFinish (facet index : Nat)
  | sliverFinish (cell : Nat)
  | heapFull (cell : Nat)
  | steal (cell : Nat)
  | cellSwitch (block : Nat)
  | scanCheckpoint (ctx : Nat)
  | flashReadComplete (channel die plane : Nat) (result : ReadResult)
  | hopRound (ctx : Nat)
  -- writes and background work (R122 to R151, R205 to R207)
  | commit (tag : Nat)
  | flashSegmentStart (channel die : Nat)
  | flashSegmentSuspend (channel die : Nat)
  | flashSegmentComplete (channel die : Nat) (result : SegResult)
  | compactionMove (facet slot count : Nat)
  | listRewrite (facet slot : Nat)
  | graphInsert (facet slot count : Nat)
  | repairSweepUnit (facet slot : Nat)
  | renumbering (facet slot : Nat)
  | resketchStep (facet slot : Nat)
  | logCheckpoint (facet : Nat)
  | optimiserStep (tag : Nat)
  | promotionCycle
  | patrolScrub (hbm flash : Bool)
  | waitForCheck (stall : Stall)
  | streamBlockResend (consumer : Consumer) (block : StreamBlock)
  -- configuration, facets, power (R42, R43, R236, R261, R262, R258)
  | latticeApply (fault : Option Nat)
  | regionReshape (liveMiB : Nat) (fault : Option Nat)
  | facetScrubComplete (facet : Nat)
  | powerStateEntry
  | ps3EntryTimeout
  | keepAliveLapse (facet : Nat)
  -- faults (R17, R18, R27, R319 to R327)
  | watchdog (processor : Nat)
  | firmwareCheckIn (processor : Nat)
  | cellFenced (cell syndrome : Nat)
  | lostProgress (cell : Nat)
  | blockFenced (block cause : Nat)
  | heartbeatLapse (block : Nat)
  | regionFenced (region unit : Nat)
  | chipFatal (unit : Nat)
  | hbmRowFailure (stack channel bank row frame : Nat) (corrected : Bool)
  | frameRebuild (frame : Nat)
  | stackedUncorrectable (slice address : Nat) (part : StackPart)
  | flashUnitRebuilt (facet slot struct list unit : Nat)
  | flashBlockRetired (channel die plane block : Nat)
  | thermalState (sensor : Nat) (temp : Int)
  | thermalTrip (sensor : Nat) (temp : Int)
  | powerLimiter (mV mA : Nat)
  -- rails and reset (R339 to R342)
  | main54TurnOn
  | main54TurnOff
  | aux5TurnOn
  | aux5TurnOff
  | modRstAssert
  | modRstRelease (finds : BootFinds)
  | tierRebuild (facet : Nat)
  | pwrBrakeAssert
  | pwrBrakeRelease
  | lockOutEnd (pin : Pin)
  | secondEnd
  | freezeTimeout
  | sensorRefresh
  -- chord links (R291 to R312)
  | flit (link : Nat) (bytes : Bytes)
  | nak (link ack : Nat)
  | laneDrop (link : Nat) (symbolErrors : List Nat)
  | chordDown (link cause : Nat)
  | retrain (link : Nat)
  | trainingComplete (link lanes : Nat)
  | queryCast (link : Nat) (c : Cast)
  | contribution (link : Nat) (c : Contrib)
  | gap (qid : Nat)
  | turnSet (turn : Nat)
  | multicastSlackExpiry (qid link : Nat)
  | gatherCutoff (qid : Nat)
  | migOffer (link facet slot : Nat) (mode : Bool) (geo : Geometry) (bytesHbm bytesFlash : Nat)
  | migAccept (link : Nat)
  | migRefuse (link error : Nat)
  | migUnit (link : Nat) (part : MigPart)
  | migWrite (link : Nat) (w : MigWrite)
  | migCutOver (link : Nat)
  | migDone (link : Nat)
  | migCancel (link : Nat)
  | migrationTimeout
  -- sideband (R350 to R352)
  | setEndpointId (eid : Byte)
  | getEndpointId
  | getMctpVersionSupport (msgType : Byte)
  | getMessageTypeSupport
  | getTid
  | setTid (tid : Byte)
  | getPldmVersion (pldmType : Byte)
  | getPldmTypes
  | getPldmCommands (pldmType : Byte)
  | getPdrRepositoryInfo
  | getPdr (handle : Nat)
  | getSensorReading (sensor : Nat)
  | getStateSensorReadings (sensor : Nat)
  | getFruRecordTableMetadata
  | getFruRecordTable
  | unsupportedPldmCmd (pldmType cmd : Byte)
  | recoveryBlockWrite (offset : Nat) (bytes : Bytes)
  | recoveryStore (value : Byte)
  | recoveryStatus
  | filteredLevelChange (pin : Pin) (level : Bool)
  | misalignedRead (bar : Bar) (offset length : Nat)
  | pcieLinkUp (speed width : Nat)
  | configurationWrite (w : CfgWrite)
  | operatingDayEnd
deriving DecidableEq, Repr

end Sys2Proof
end

