-- ==== Sys2Proof/WellFormed.lean ====
section
/-! DEFINITION. Which commands name things that exist: numbers within the ranges of R12, R202, R240, R291, R326. -/

namespace Sys2Proof

/-- An entry comes from a pair 0 to 255 (R242). -/
def Entry.ok (e : Entry) : Bool := e.qp < 256

/-- Facet 0 to 63 and slot 0 to 15 (R1, R37). -/
def slotOk (facet slot : Nat) : Bool := facet < 64 && slot < 16

/-- Channel 0 to 63 with die 0 to 3 (R202). -/
def dieOk (channel die : Nat) : Bool := channel < 64 && die < 4

/-- Consumers name cells, contexts and tags that exist. -/
def Consumer.ok : Consumer → Bool
  | .sliver c => c < 4096
  | .walker x => x < 16384
  | .model t => t < 65536
  | .memory f s => slotOk f s

/-- The part of stacked memory names things that exist. -/
def StackPart.ok : StackPart → Bool
  | .cacheCopy f s l => slotOk f s && l < 1048576
  | .scratchpad t => t < 65536
  | .tagTable => true
  | .streamBuffer c => c < 4096
  | .mergeState x => x < 16384

/-- The start-up finds name cells, blocks and regions that exist. -/
def BootFinds.ok (b : BootFinds) : Bool :=
  b.cells.all (· < 4096) && b.blocks.all (· < 128) && b.regions.all (· < 8)

/-- Command codes of the PLDM commands the module supports, by type (R351; the codes are PLDM's, log 53). -/
def pldmCommands (t : Byte) : List Byte :=
  match t.toNat with
  | 0 => [1, 2, 3, 4, 5]
  | 2 => [0x11, 0x21, 0x50, 0x51]
  | 4 => [1, 2]
  | _ => []

/-- A command is well-formed when every number in it names a thing the module has. -/
def WellFormed : Instr → Bool
  | .identify e => e.ok
  | .getLog e => e.ok
  | .setFeature e => e.ok
  | .getFeature e => e.ok
  | .fwDownload e => e.ok
  | .fwCommit e => e.ok
  | .createQp e => e.ok
  | .deleteQp e => e.ok
  | .abort e => e.ok
  | .resumeQp e => e.ok
  | .loadLattice e => e.ok
  | .facetCreate e => e.ok
  | .facetDestroy e => e.ok
  | .indexCreate e => e.ok
  | .indexDrop e => e.ok
  | .evrControl e => e.ok
  | .query e => e.ok
  | .queryBatch e => e.ok
  | .insert e => e.ok
  | .delete e => e.ok
  | .labelUpdate e => e.ok
  | .fetch e => e.ok
  | .flush e => e.ok
  | .train e => e.ok
  | .resketch e => e.ok
  | .encode e => e.ok
  | .modelLoad e => e.ok
  | .sqTailDoorbell q _ => q < 256
  | .cqHeadDoorbell q _ => q < 256
  | .hifCtrlEnable => true
  | .hifCtrlDisable => true
  | .chdMigCtrlGo v => v.getLsbD 16
  | .chdMigCtrlCancel v => v.getLsbD 17
  | .chdMigAcceptGo v => v.getLsbD 16
  | .chdMigAcceptCancel v => v.getLsbD 17
  | .evrWindowCrcRead _ => true
  | .registerWrite b off size _ => (size == 1 || size == 2 || size == 4 || size == 8) &&
      off + size ≤ (match b with
        | .bar0 => 4 * 2 ^ 20
        | .bar2 => 64 * 2 ^ 20)
  | .functionLevelReset => true
  | .hotReset => true
  | .linkDown => true
  | .hostReadCompletion t _ _ => t < 65536
  | .hostReadTimeout t => t < 65536
  | .msixIntervalExpiry v => v < 256
  | .coalescingDelayExpiry q => q < 256
  | .batchStepBoundary => true
  | .syncInPulse => true
  | .syncTimeout => true
  | .freeRunningTurn => true
  | .tileDrain e => e < 8
  | .sentinelShadowFinish f _ => f < 64
  | .sliverFinish c => c < 4096
  | .heapFull c => c < 4096
  | .steal c => c < 4096
  | .cellSwitch b => b < 128
  | .scanCheckpoint x => x < 16384
  | .flashReadComplete c d p _ => dieOk c d && p < 4
  | .hopRound x => x < 16384
  | .commit t => t < 65536
  | .flashSegmentStart c d => dieOk c d
  | .flashSegmentSuspend c d => dieOk c d
  | .flashSegmentComplete c d _ => dieOk c d
  | .compactionMove f s n => slotOk f s && 0 < n
  | .listRewrite f s => slotOk f s
  | .graphInsert f s n => slotOk f s && 0 < n
  | .repairSweepUnit f s => slotOk f s
  | .renumbering f s => slotOk f s
  | .resketchStep f s => slotOk f s
  | .logCheckpoint f => f < 64
  | .optimiserStep t => t < 65536
  | .promotionCycle => true
  | .patrolScrub _ _ => true
  | .waitForCheck w => w.region < 8 && w.facet < 64
  | .streamBlockResend c _ => c.ok
  | .latticeApply _ => true
  | .regionReshape _ _ => true
  | .facetScrubComplete f => f < 64
  | .powerStateEntry => true
  | .ps3EntryTimeout => true
  | .keepAliveLapse f => f < 64
  | .watchdog p => p < 8
  | .firmwareCheckIn p => p < 8
  | .cellFenced c _ => c < 4096
  | .lostProgress c => c < 4096
  | .blockFenced b _ => b < 128
  | .heartbeatLapse b => b < 128
  | .regionFenced r _ => r < 8
  | .chipFatal _ => true
  | .hbmRowFailure st ch _ _ _ _ => st < 8 && ch < 32
  | .frameRebuild _ => true
  | .stackedUncorrectable sl _ p => sl < 8 && p.ok
  | .flashUnitRebuilt f s _ _ _ => slotOk f s
  | .flashBlockRetired c d p _ => dieOk c d && p < 4
  | .thermalState n _ => n < 10
  | .thermalTrip n _ => n < 10
  | .powerLimiter _ _ => true
  | .main54TurnOn => true
  | .main54TurnOff => true
  | .aux5TurnOn => true
  | .aux5TurnOff => true
  | .modRstAssert => true
  | .modRstRelease b => b.ok
  | .tierRebuild f => f < 64
  | .pwrBrakeAssert => true
  | .pwrBrakeRelease => true
  | .lockOutEnd _ => true
  | .secondEnd => true
  | .freezeTimeout => true
  | .sensorRefresh => true
  | .flit l bs => l < 4 && bs.length == 256
  | .nak l a => l < 4 && a < 65536
  | .laneDrop l es => l < 4 && es.length ≤ 4
  | .chordDown l _ => l < 4
  | .retrain l => l < 4
  | .trainingComplete l n => l < 4 && n ≤ 4
  | .queryCast l _ => l < 4
  | .contribution l _ => l < 4
  | .gap _ => true
  | .turnSet t => t < 2 ^ 32
  | .multicastSlackExpiry _ l => l < 4
  | .gatherCutoff _ => true
  | .migOffer l f s _ _ _ _ => l < 4 && slotOk f s
  | .migAccept l => l < 4
  | .migRefuse l _ => l < 4
  | .migUnit l _ => l < 4
  | .migWrite l _ => l < 4
  | .migCutOver l => l < 4
  | .migDone l => l < 4
  | .migCancel l => l < 4
  | .migrationTimeout => true
  | .setEndpointId _ => true
  | .getEndpointId => true
  | .getMctpVersionSupport _ => true
  | .getMessageTypeSupport => true
  | .getTid => true
  | .setTid _ => true
  | .getPldmVersion _ => true
  | .getPldmTypes => true
  | .getPldmCommands _ => true
  | .getPdrRepositoryInfo => true
  | .getPdr _ => true
  | .getSensorReading _ => true
  | .getStateSensorReadings _ => true
  | .getFruRecordTableMetadata => true
  | .getFruRecordTable => true
  | .unsupportedPldmCmd t c => !(pldmCommands t).contains c
  | .recoveryBlockWrite _ bs => 1 ≤ bs.length && bs.length ≤ 240
  | .recoveryStore _ => true
  | .recoveryStatus => true
  | .filteredLevelChange _ _ => true
  | .misalignedRead _ _ _ => true
  | .pcieLinkUp _ _ => true
  | .configurationWrite _ => true
  | .operatingDayEnd => true

end Sys2Proof
end

