-- ==== Sys2Proof/Machine/State.lean ====
section
/-! DEFINITION. The state of the module as plain data: every register, queue, buffer, mode and pin the spec gives it,
the queue of waiting commands, and the state right after reset. -/

namespace Sys2Proof.Machine

/-- Event counters kept sparse: (number, count) pairs, an unlisted number counts 0 (R358). -/
abbrev Ctr := List (Nat × Nat)

/-- Where the module stands between power-off and service (R340 to R342, R327). -/
inductive RunPhase where
  | off
  | held
  | starting
  | running
  | tripped
deriving DecidableEq, Repr

/-- One filtered control input (R344): accepted and filtered level, end of its lock-out, PWR_EDGES counts (R370), and the
edges of the running always-on second (R329). -/
structure PinSt where
  accepted : Bool
  filtered : Bool
  lockEnd : Option Nat
  acc : Nat
  rej : Nat
  secAcc : Nat
  secRej : Nat
deriving DecidableEq, Repr

/-- A power-state transition being entered (R262): its SET_FEATURE's tag, the target, the fetch time. -/
structure PsTrans where
  tag : Nat
  target : Nat
  since : Nat
deriving DecidableEq, Repr

/-- Rails, pins, power, temperatures, clocks (R326, R328, R339 to R349, R370). Times are in ns. Sensors are numbered as in R369: 0 to 7
HBM stacks, 8 compute die, 9 flash. -/
structure Board where
  main54 : Bool
  aux5 : Bool
  rst : PinSt
  brake : PinSt
  sync : PinSt
  mainPower : Bool
  phase : RunPhase
  fatal : Bool
  fatalUnit : Nat
  psNow : Nat
  psSel : Nat
  trans : Option PsTrans
  psQueue : List Nat
  woken : Bool
  coreMhz : Nat
  limiter : Bool
  overSince : Option Nat
  cleanSince : Option Nat
  limitAt : Option Nat
  mV : Nat
  mA : Nat
  auxmV : Nat
  auxmW : Nat
  temps : List Int
  thermal : List Nat
  thermalNs : Ctr
  hotLatch : Bool
  clk : Nat
  aon : Nat
  opNs : Nat
  cycles : Nat
  lastPulse : Option Nat
  locked : Bool
  inWindow : Nat
  turnStart : Nat
  syncInterval : Nat
deriving DecidableEq, Repr

/-- One record of the event recorder (R328), with the CRC written with it: a torn record keeps one that fails (R331). -/
structure EvRec where
  code : Nat
  severity : Nat
  snap : List Nat
  rpt : Nat
  offMain : Bool
  opHours : Nat
  opMs : Nat
  cycles : Nat
  subject : Nat
  seq : Nat
  crc : BitVec 32
deriving DecidableEq, Repr

/-- The event recorder and its EVR_ registers (R330 to R334). -/
structure Recorder where
  recs : List EvRec
  next : Nat
  cursor : Nat
  frozen : Bool
  freezeAt : Nat
  frozenCount : Nat
  frozenSev : Nat
  overwritten : Nat
  suppressed : Nat
  secNew : Ctr
  secSup : Ctr
  secNo : Nat
  framFault : Bool
deriving DecidableEq, Repr

/-- A DMA window (R314): base with the permission bits of R371, and length. -/
structure Window where
  base : Word64
  len : Word64
deriving DecidableEq, Repr

/-- The fence set-up, block FNC_ (R314, R371). Window w of facet f is entry 4 f + w. -/
structure Fence where
  win : List Window
  admin : List Window
  links : Nat
  caps : List Nat
  power : Nat
  current : Nat
  interval : List Nat
  keys : List (BitVec 768)
  lock : Bool
deriving DecidableEq, Repr

/-- One-time fuses (R274, R315). -/
structure Fuses where
  coravaper : BitVec 768
  hashes : List (BitVec 384)
deriving DecidableEq, Repr

/-- A firmware slot (R271, R273). -/
structure FwSlot where
  valid : Bool
  compat : Nat
  revision : Nat
deriving DecidableEq, Repr

/-- A stored copy of the boot configuration (R274, R315): its fence image, signer, signer's key and signature. -/
structure BootImage where
  fence : Fence
  signer : Nat
  key : BitVec 768
  sigR : BitVec 384
  sigS : BitVec 384
deriving DecidableEq, Repr

/-- Firmware, its staging buffer with the 4 KiB pages written to it, and the stored boot configurations (R273, R274, R315). -/
structure Firmware where
  slots : List FwSlot
  running : Nat
  selected : Nat
  staging : List Host.Cell
  pages : List Nat
  committing : Option Nat
  boot0 : Option BootImage
  boot1 : Option BootImage
deriving DecidableEq, Repr

/-- FACETS record (R37). Bit b of `mask` is block b. -/
structure FacetRec where
  facet : Nat
  scratch : Bool
  qpLimit : Nat
  mask : Nat
  hbm : Nat
  stacked : Nat
  flash : Nat
  shares : Nat
  indexLimit : Nat
  modelLimit : Nat
  drift : Nat
  action : Nat
deriving DecidableEq, Repr

/-- CELL_ROLES record (R37). -/
structure RoleRec where
  block : Nat
  roles : Nat
deriving DecidableEq, Repr

/-- ROUTES record (R37). -/
structure RouteRec where
  facet : Nat
  route : Nat
  src : Nat
  dst : Nat
  bufClass : Nat
  depth : Nat
deriving DecidableEq, Repr

/-- FORMATS record (R37). -/
structure FormatRec where
  facet : Nat
  stage : Nat
  engine : Nat
  operand : Nat
  acc : Nat
  threshold : Nat
deriving DecidableEq, Repr

/-- BUDGETS record (R37). -/
structure BudgetRec where
  facet : Nat
  cls : Nat
  engine : Nat
  flash : Nat
  deadline : Nat
  hbmPm : Nat
  flashPm : Nat
deriving DecidableEq, Repr

/-- One node of a model graph (R37, R172). -/
structure ModelNode where
  op : Nat
  format : Nat
  inA : Nat
  inB : Nat
  shape : List Nat
  woff : Nat
deriving DecidableEq, Repr

/-- A MODELS record (R37) with its bytes, which R177 compares. -/
structure ModelRec where
  facet : Nat
  slot : Nat
  weightBytes : Nat
  nodes : List ModelNode
  raw : Bytes
deriving DecidableEq, Repr

/-- A node of the merge tree (R37). -/
structure TreeNode where
  node : Nat
  parent : Nat
  childCount : Nat
  upLink : Nat
  children : List Nat
  links : List Nat
deriving DecidableEq, Repr

/-- MERGE_TREE (R37, R300). -/
structure Tree where
  domain : Nat
  count : Nat
  own : Nat
  nodes : List TreeNode
deriving DecidableEq, Repr

/-- What a configuration sets (R29), and its identity (R43). -/
structure ImageCfg where
  facets : List FacetRec
  roles : List RoleRec
  routes : List RouteRec
  formats : List FormatRec
  budgets : List BudgetRec
  indexes : List Geometry
  models : List ModelRec
  tree : Option Tree
  id : Nat
deriving DecidableEq, Repr

/-- An image slot on flash (R40): the full image and its partial images, the last validation code for the slot (R271), and how many
images of the chain the active marker covers: a partial image that was appended and not applied stands above it (R43, R45, R46). -/
structure ImgSlot where
  chain : List Bytes
  lastCode : Nat
  applied : Nat
deriving DecidableEq, Repr

/-- A LOAD_LATTICE past validation (R42, R43): what it will apply. -/
structure Load where
  tag : Nat
  image : Bytes
  cfg : ImageCfg
  part : Bool
  mask : Nat
  target : Nat
deriving DecidableEq, Repr

/-- The LAT_ block and the image slots (R40, R361). `st` is the state less a load in progress, which `load` shows. -/
structure Lat where
  st : Nat
  code : Nat
  kind : Bool
  atReset : Bool
  loads : Nat
  refused : Nat
  reshapeUs : Nat
  slots : List ImgSlot
  active : Nat
  load : Option Load
deriving DecidableEq, Repr

/-- The HIF_ block and the PCIe function (R238, R360), with the 4 KiB of the MSI-X table (R240). -/
structure Hif where
  enable : Bool
  ready : Bool
  configError : Bool
  resetBusy : Bool
  sqBase : Word64
  cqBase : Word64
  depth : Nat
  linkUp : Bool
  speed : Nat
  width : Nat
  badAccess : Nat
  doorbellInvalid : Nat
  ecrcGen : Bool
  ecrcCheck : Bool
  msixOn : Bool
  msixMask : Bool
  maxPayload : Nat
  maxRead : Nat
  msixTable : List Host.Cell
  scratch : Word64
  select : Word64
  testMode : Bool
  healthChanges : Nat
  lastMsg : List (Nat × Nat)
  pendMsg : List Nat
  /-- The fetch grant that runs: its pair and the entries fetched in it, 1 to 7 (R244). -/
  grant : Option (Nat × Nat)
deriving DecidableEq, Repr

/-- Work of a stopped command that runs to its end on a unit (R225, R234, R259): a tile of an engine, a read by its order, a segment of a die. -/
inductive Busy where
  | tile (engine : Nat)
  | read (order : Nat)
  | segment (channel die : Nat)
deriving DecidableEq, Repr

/-- A queue pair with its mirror words (R242 to R245, R250, R251, R254, R256, R257). `state`: 1 running, 2 frozen, 3 being
deleted. `causes` are the freeze causes in force. `resumer` is the RESUME_QP whose discard runs to `discardTo`, `moreResumes` those that
follow it: tail, tag, and how many entries were discarded when it was fetched. `deleters` are the DELETE_QPs that wait for the pair to go,
with their aborted and discarded counts, and `stopping` what still runs of its work (R234, R275). -/
structure Qp where
  num : Nat
  facet : Nat
  depth : Nat
  sqBase : Nat
  cqBase : Nat
  vector : Nat
  cCount : Nat
  cDelay : Nat
  sqTail : Nat
  sqHead : Nat
  cqTail : Nat
  cqHead : Nat
  phase : Bool
  state : Nat
  causes : List Nat
  inFlight : Nat
  slotTags : List (Nat × Nat)
  discardTo : Option Nat
  resumer : Option Nat
  discarded : Nat
  moreResumes : List (Nat × Nat × Nat)
  deleters : List (Nat × Nat × Nat)
  stopping : List Busy
  toSignal : Nat
  signalSince : Option Nat
deriving DecidableEq, Repr

/-- A tag state word (R252); a tag that is not listed is FREE with use 0. -/
structure TagWord where
  tag : Nat
  state : Nat
  abortHeld : Bool
  qp : Nat
  cid : Nat
  use : Nat
  status : Nat
deriving DecidableEq, Repr

/-- The commands of the opcode tables (R269, R280), and an opcode that R263 assigns to none. -/
inductive Op where
  | identify | getLog | setFeature | getFeature | fwDownload | fwCommit | createQp | deleteQp | abort | resumeQp
  | loadLattice | facetCreate | facetDestroy | indexCreate | indexDrop | evrControl
  | query | queryBatch | insert | delete | labelUpdate | fetch | flush | train | resketch | encode | modelLoad
  | other (code : Nat)
deriving DecidableEq, Repr

/-- Where a fetched command stands: its host read runs, it waits its turn, it runs, it is committed and held for durability, or an ABORT has
stopped it and its last work is running out. -/
inductive CmdPhase where
  | reading
  | turn
  | waiting
  | running
  | committed
  | ending
deriving DecidableEq, Repr

/-- A fetch record in the making (R285). -/
structure FetchRec where
  id : Nat
  status : Nat
  label : Nat
  vec : Bytes
deriving DecidableEq, Repr

/-- The 16-byte query result of R282. -/
structure QueryRes where
  filled : Nat
  cause : Nat
  s0 : Nat
  scanned : Nat
  hops : Nat
  path : Nat
  sentinel : Bool
  partialFlag : Bool
deriving DecidableEq, Repr

/-- A fetched command not yet completed (R229, R246, R252). -/
structure Cmd where
  tag : Nat
  op : Op
  qp : Nat
  cid : Nat
  facet : Nat
  seq : Nat
  at' : Nat
  flags : Nat
  rsv4 : Nat
  rsv14 : Nat
  dataAddr : Nat
  dataLen : Nat
  resultAddr : Nat
  area : BitVec 256
  phase : CmdPhase
  data : Bytes
  lock : Option (Nat × Nat)
  reads : Nat
  failedReads : List Nat
  counted : Bool
  epoch : Nat
  notFound : Nat
  firstSide : Nat
  ef : Option Nat
  /-- Wait counters already raised for the command (R72, R74). -/
  told : List Nat
  recs : List FetchRec
  left : Nat
  results : List (Nat × QueryRes)
  partialFlag : Bool
  mark : Nat
  asked : Nat
  fenced : Bool
  drain : List (Nat × Nat)
  aborters : List Nat
  /-- What has still to end before the command completes that an ABORT has stopped (R259). -/
  busy : List Busy
deriving DecidableEq, Repr

/-- An error-log entry (R268). -/
structure ErrEnt where
  seq : Nat
  time : Nat
  status : Nat
  qp : Nat
  opcode : Nat
  cid : Nat
  tag : Nat
  facet : Nat
  check : Nat
  detail : Nat
  field : Nat
  epoch : Nat
deriving DecidableEq, Repr

/-- Log records of an epoch that is not closed (R133): the epoch, the units of a write still to program, or of its epoch
record when `close` is set, and its first unit in the log. -/
structure LogWrite where
  epoch : Nat
  units : Nat
  close : Bool
  first : Nat
deriving DecidableEq, Repr

/-- A facet's state of service (R47, R74, R77, R133, R136, R166, R236, R258, R362 to R366). -/
structure Facet where
  num : Nat
  state : Nat
  cause : Nat
  epoch : Nat
  closed : Nat
  changed : Bool
  kaMs : Nat
  kaSince : Nat
  s0 : Option Nat
  s0Next : Option Nat
  forced : Bool
  rebuilt : Bool
  paused : Bool
  pend : List Pend
  pendFreed : Nat
  log : List LogWrite
  logUnits : Nat
  /-- The last log checkpoint (R136): its closed epoch, and the first log unit still held behind it. -/
  ckptEpoch : Nat
  logFrom : Nat
  window : List (Nat × Nat)
  drifted : Bool
  walkerPtr : Nat
  placePtr : Nat
  ctr : Ctr
  energyNj : Nat
  teardown : Option Nat
  destroyTag : Option Nat
  /-- The scrub in progress (R236): what is still to be zeroed in HBM and stacked memory, and the HBM and flash bytes it holds till it ends. -/
  scrub : List Job
  scrubHbm : Nat
  droppedFlash : Nat
  admission : List Nat
deriving DecidableEq, Repr

/-- A model slot (R170, R175 to R179, R192). `state`: 0 EMPTY, 1 LOADING, 2 READY. `raw`: the MODELS record it is held under (R177). -/
structure ModelSlot where
  facet : Nat
  slot : Nat
  state : Nat
  weights : Bytes
  adapterRank : Nat
  adapter : List (BitVec 16)
  newAdapter : Option (Nat × List (BitVec 16))
  prefetched : Bool
  stackedBytes : Nat
  toReady : Option Nat
  raw : Bytes
deriving DecidableEq, Repr

/-- A candidate of the first pass (R93): Hamming distance, list key, position (the append number in a side list, R71). -/
structure Cand where
  ham : Nat
  key : Nat
  pos : Nat
deriving DecidableEq, Repr

/-- A re-ranked candidate: its ID, FP32 distance, and whether its vector equals the query's (R96, R183). -/
structure Ranked where
  cand : Cand
  id : Nat
  dist : F32
  same : Bool
deriving DecidableEq, Repr

/-- An entry of the walker's candidate queue (R107). -/
structure QEnt where
  ham : Nat
  node : Nat
  matching : Bool
  expanded : Bool
deriving DecidableEq, Repr

/-- Who asked for a query: a host command's i-th query, a TRAIN's i-th mining search, or a domain query (R301). -/
inductive Origin where
  | host (tag sub : Nat)
  | mine (tag i : Nat)
  | domain (qid sub : Nat)
deriving DecidableEq, Repr

/-- The stage a query has reached. -/
inductive QStage where
  | sketch
  | coarse
  | fine
  | scan
  | rerank
  | walk
deriving DecidableEq, Repr

/-- A query in search, in its query context (R81 to R120). Class 14 is TRAIN's mining: charged to TRAIN, with BULK's
priority (R219). -/
structure Query where
  ctx : Nat
  origin : Origin
  facet : Nat
  slot : Nat
  cls : Nat
  k : Nat
  r : Nat
  nprobe : Nat
  scanLimit : Nat
  deadline : Nat
  since : Nat
  beam : Nat
  width : Nat
  allOf : Nat
  anyOf : Nat
  noneOf : Nat
  vec : Bytes
  epoch : Nat
  s0 : Nat
  stage : QStage
  path : Nat
  cohort : Nat
  sketches : List (Nat × Nat)
  cDist : List (Nat × F32)
  fDist : List (Nat × F32)
  coarseSet : List Nat
  probe : List Nat
  regions : List (Nat × List Cand)
  scanned : Nat
  scanDone : Bool
  cause : Nat
  partialFlag : Bool
  rerank : List Cand
  reads : Nat
  fallback : Bool
  ranked : List Ranked
  sentinel : Bool
  walker : Nat
  q : List QEnt
  expandedL : List Nat
  found : List Ranked
  sel : List Nat
  /-- Selected nodes whose vertex read failed in the running round (R119). -/
  failedSel : List Nat
  arrived : List Ranked
  poison : List Nat
  hops : Nat
  walkDone : Bool
  stalled : Bool
deriving DecidableEq, Repr

/-- A sliver (R90): a run of up to 2,048 records of one list, side list or node array, for the members of its group; `fresh`
while the group is open (R89), `heap` the candidates in the cell's heap and `staged` those drained (R14); `front` numbers the slivers
that went back to the head of their queue, the last one highest (R15), `queuedAt` is when it joined its queue (R227) and `copy` whether a
cell reads it from stacked memory, fixed when the cell takes it (R195). `poisoned` are the poisoned blocks by the byte of its records that
each begins at (R215), and `claim` is the cell that has claimed it ahead (R91), `wait` what its end still waits for where grants are
held back (R210, R225). -/
structure Sliver where
  gid : Nat
  facet : Nat
  slot : Nat
  cls : Nat
  cohort : Nat
  rank : Nat
  key : Nat
  lo : Nat
  hi : Nat
  members : List Nat
  block : Nat
  next : Nat
  fresh : Bool
  heap : List (Nat × Cand)
  staged : List (Nat × Cand)
  poisoned : List Int
  front : Nat
  queuedAt : Nat
  copy : Bool
  claim : Option Nat
  wait : Option (List Job)
deriving DecidableEq, Repr

/-- What a cell holds (R14, R227): the running sliver, the time from which it is charged or the cell has been idle, and the suspended one;
which of the two are borrowed grants; since when the running one has been held (R17). -/
structure CellSt where
  cell : Nat
  run : Option Sliver
  since : Nat
  susp : Option Sliver
  borrowed : Bool
  suspBorrowed : Bool
  held : Nat
deriving DecidableEq, Repr

/-- What a matrix-engine tile computes (R158): sketches of a generation, distances to coarse or fine centroids 256 t and
up, or one rotation step of a row group of the next node of an ENCODE (R178). -/
inductive TileKind where
  | sketch (gen : Nat)
  | coarse (t : Nat)
  | fine (t : Nat)
  | node (tag group step : Nat)
deriving DecidableEq, Repr

/-- A tile waiting for or running on a matrix engine (R162 to R164); `part` numbers the passes that its rows take (R158). -/
structure Tile where
  facet : Nat
  slot : Nat
  cls : Nat
  kind : TileKind
  rows : List Nat
  escape : Bool
  engine : Option Nat
  part : Nat
deriving DecidableEq, Repr

/-- A matrix engine with its running tile (R222). -/
structure Engine where
  num : Nat
  run : Option Tile
  since : Nat
  borrowed : Bool
deriving DecidableEq, Repr

/-- A sentinel shadow waiting to run (R166). -/
structure Shadow where
  facet : Nat
  slot : Nat
  cls : Nat
  nprobe : Nat
  vec : Bytes
  probe : List Nat
deriving DecidableEq, Repr

/-- An ENCODE in progress (R178 to R181): the next node, and the rows each node gave, sequence by sequence. A node in tiles runs in rounds:
`parts` are what the tiles of this round gave by row group and rotation step, row by row and matrix by matrix, `left` the tiles that have not
drained, `groups` the row groups it was cut into, and `carry` what the rounds before gave. -/
structure EncJob where
  tag : Nat
  facet : Nat
  slot : Nat
  cls : Nat
  adapter : Bool
  cursor : Nat
  weights : Bytes
  adapterW : Nat × List (BitVec 16)
  values : List (Nat × List (List (List F32)))
  round : Nat
  groups : Nat
  left : Nat
  parts : List ((Nat × Nat) × List (List (List F32)))
  carry : List (List (List F32))
  partialFlag : Bool
deriving DecidableEq, Repr

/-- A TRAIN in progress (R182 to R192). `phase`: 0 encoding, 1 mining, 2 reading, 3 optimising. With an adapter: `acts` are the nodes' forward
outputs for its sequences, under the `weights` and the adapter `encAd` of their encoding, and `adapter` and `adapterV` the new adapter's
elements and their velocities (R187, R191; log 11). -/
structure TrainJob where
  tag : Nat
  facet : Nat
  slot : Nat
  et : Nat
  phase : Nat
  nextMine : Nat
  vectors : List Bytes
  lists : List (Nat × List Ranked)
  excluded : List Nat
  triples : List (Nat × Cand × Cand)
  reads : Nat
  failed : List Cand
  order : List Nat
  prng : BitVec 64
  step : Nat
  epochNo : Nat
  w : List F32
  v : List F32
  loss : F32
  startGen : Nat
  steps : Nat
  adapter : List F32
  adapterV : List F32
  acts : List (Nat × List (List (List F32)))
  weights : Bytes
  encAd : Nat × List (BitVec 16)
  adapterSlot : Option Nat
  ending : Bool
  partialFlag : Bool
deriving DecidableEq, Repr

/-- The search engine: contexts, cells, slivers, tiles, turns, credit, fences (R12 to R18, R84, R89 to R91, R162 to R166, R220 to R230). -/
structure Search where
  queries : List Query
  /-- Contexts freed at a coming boundary, with the facet that held each and the command it waits for (R84). -/
  freeing : List (Nat × Nat × Option Nat)
  /-- Visit groups formed and not yet started (R89). -/
  groups : List Sliver
  slivers : List Sliver
  cells : List CellSt
  tiles : List Tile
  engines : List Engine
  shadows : List Shadow
  enc : List EncJob
  train : List TrainJob
  resends : List ((Consumer × Nat) × Nat)
  /-- Runs of neighbour sketches fetched in a round: walker, slot, cohort and hop (R110). -/
  roundRuns : List ((Nat × Nat × Nat × Nat) × List Nat)
  cellsOut : List Nat
  blocksOut : List Nat
  regionsOut : List Nat
  turn : Nat
  stepNo : Nat
  cohort : Nat
  gidNext : Nat
  spent : List ((Nat × Nat × Nat) × Nat)
  /-- Bytes of credit spent in this turn, by resource (HBM stacks 0 to 7, stacked slices 8 to 15, flash channels from 16), facet and
  class (R210). -/
  bytes : List ((Nat × Nat × Nat) × Nat)
  debt : List ((Nat × Nat × Nat) × Nat)
  turnTicks : Ctr
  weights : List ((Nat × Nat) × (Nat × Nat))
  /-- Budgets and block ownership as they stood when the turn's credit was set (R221). -/
  budgets : List BudgetRec
  masks : List (Nat × Nat)
  /-- The rotating pointer of each arbiter (R16). -/
  rotate : List (Nat × Nat)
  watch : List (Nat × Nat)
  expired : List Nat
  idleNj : Nat
  snap : List (Nat × Ctr × Nat × Nat)
deriving DecidableEq, Repr

/-- What a flash read is for (R20). -/
inductive Purpose where
  | rerank (ctx : Nat) (cands : List Cand)
  | vertex (ctx : Nat) (nodes : List Nat)
  | fetch (tag : Nat) (ids : List Nat)
  | map (tag id : Nat)
  | copy (tag : Nat) (ids : List Nat)
  | mine (tag : Nat) (cands : List Cand)
deriving DecidableEq, Repr

/-- A 4 KiB unit by its structure (R203, R374): 0 list unit, 1 side-list unit, 2 graph unit, 3 other. -/
structure Unit' where
  facet : Nat
  slot : Nat
  structure' : Nat
  list : Nat
  unit : Nat
deriving DecidableEq, Repr

/-- A flash read in a die queue (R204, R205); `borrowed` when it was started without credit (R211, R223). -/
structure Read where
  plane : Nat
  cls : Nat
  deadline : Option Nat
  order : Nat
  started : Bool
  borrowed : Bool
  unit : Unit'
  purpose : Purpose
deriving DecidableEq, Repr

/-- What a program or erase segment belongs to: a log program of an epoch, the flash writes of a MODEL_LOAD, INDEX_CREATE
or FW_COMMIT, the scrub of a facet, a unit of an index that background work writes, the copy of a unit from the place that one page-map entry
names to that of another (R195), or work that was stopped while its segment ran (R225). -/
inductive SegWork where
  | log (facet epoch : Nat)
  | cmd (tag : Nat)
  | scrub (facet : Nat)
  | unit (facet slot : Nat)
  | move (unit : Unit') (old word gen : Nat)
  | ended
deriving DecidableEq, Repr

/-- A program or erase of a plane, and of the block that it names, waiting on a die or running, with the time its running segment began (R203,
R205, R222). -/
structure Seg where
  plane : Nat
  block : Option Nat
  cls : Nat
  facet : Nat
  work : SegWork
  borrowed : Bool
  since : Nat
deriving DecidableEq, Repr

/-- One flash die: its read queue and its segments (R204, R205). -/
structure Die where
  channel : Nat
  die : Nat
  reads : List Read
  segs : List Seg
  run : Option Seg
  suspended : Bool
deriving DecidableEq, Repr

/-- A parity group (R324): its units in program order, and the channel of its parity unit. -/
structure Parity where
  units : List Unit'
  channel : Nat
deriving DecidableEq, Repr

/-- Flash (R202 to R205, R323, R324). `pages`: the page-map entries of list and graph units, newest first: each with the epoch that publishes it,
the word, and the sketch generation when the unit was written (R66, R67, R70, R195, R202). `waits`: reads that wait for one of their channel's
128 read tags, with channel and die (R212). `lost`: lost units, each from an epoch on and up to the one that publishes other contents.
`gone`: reads of lost units, which fail at once (R324). `bad`: the retired blocks; `leaving`: blocks whose contents are being relocated
before they are retired (R323), by channel, die, plane and number. `forming`: the units of the parity group that is being formed; `groups`
those that are closed. -/
structure Flash where
  dies : List Die
  pages : List (Unit' × Nat × Nat × Nat)
  waits : List ((Nat × Nat) × Read)
  gone : List Purpose
  order : Nat
  rereads : Ctr
  retired : Nat
  bad : List Nat
  leaving : List (Nat × Nat × Nat × Nat)
  lost : List (Unit' × Nat × Option Nat)
  rebuilding : List Unit'
  forming : List Unit'
  groups : List Parity
  sparePm : Nat
  spareDayDone : Bool
  dayNo : Nat
deriving DecidableEq, Repr

/-- A stream (R208, R209, R213): what it feeds, its descriptor, the region whose buffers it keeps, the escape buffers on loan to it, the handles
that its producer has pushed, how many buffers its consumer has taken since it was armed, and since when it has waited for a free buffer
(R217). -/
structure Strm where
  user : Consumer
  region : Nat
  facet : Nat
  cls : Nat
  route : Nat
  persistent : Bool
  toMemory : Bool
  size : Nat
  tier : Nat
  base : Nat
  counts : List Nat
  strides : List Int
  rate : Nat
  seq : Nat
  buffers : List Nat
  escapes : List Nat
  queue : List (BitVec 32)
  taken : Nat
  waits : Option Nat
deriving DecidableEq, Repr

/-- HBM and stacked memory (R196 to R201, R319 to R322, R367), the escape pools and stalls (R217), the turns since the last
promotion cycle (R200). `slices`: the slice of each stacked copy, by facet, slot and
list key (R199). `rebuilding`: frames that are
being rebuilt: stack, frame, whether it was retired, and whether some run of it did not correct (R321). `rowErrs`: corrected errors of an HBM row (stack, pseudo-channel, bank, row) since the last patrol pass (R319, R320).
`moved`: retired frames, by stack and number, with the frames that replace them (R320). `checks`: the block check store, the CRCs of the 512-byte
blocks of a structure in HBM, by facet, slot, key and base (R198, R214).
`streams`: the streams, with each facet's next sequence number in `streamSeq` (R208). `stalls`: stalled
streams, oldest first, with the time of their last check; `grants`: escape buffers on loan by region, facet and stream sequence (R217). `stale`: lists whose new HBM base is published at an epoch, which drops their stacked copy (R201). -/
structure Mem where
  remapped : List (Nat × Nat × Nat × Nat)
  softRepairs : Nat
  retired : List (Nat × Nat)
  moved : List ((Nat × Nat) × (Nat × Nat))
  pool : Nat
  rebuilding : List (Nat × Nat × Bool × Bool)
  degraded : Bool
  hbmPasses : Nat
  flashPasses : Nat
  escapes : List Nat
  grants : List (Nat × Nat × Nat × Nat)
  stalls : List (Stall × Option Nat)
  streams : List Strm
  streamSeq : Ctr
  copies : List (Nat × Nat × Nat × Nat × Nat)
  slices : List ((Nat × Nat × Nat) × Nat)
  listBytes : List ((Nat × Nat × Nat) × Nat)
  stale : List ((Nat × Nat × Nat) × Nat)
  cycleTurns : Nat
  rowErrs : List ((Nat × Nat × Nat × Nat) × Nat)
  checks : List ((Nat × Nat × Nat × Nat) × List (BitVec 32))
  ras : Ctr
deriving DecidableEq, Repr

/-- One chord link (R291 to R297, R313, R368). `st`: 0 DISABLED, 1 TRAINING, 2 UP, 3 DEGRADED, 4 DOWN; `downAt` is when it last
stopped carrying flits (R312), `tryAt` when it went DOWN or last began to retrain; `awaitAck` holds new flits back after a training until the
peer's first flit says what it has (R294, R295; log 80). `fails` counts how often in a row the next flit of the peer has failed its CRC (R295), and
`waited` are the virtual channels that have waited for credit in this turn (R368). -/
structure Link where
  num : Nat
  st : Nat
  lanes : Nat
  txSeq : Nat
  rxNext : Nat
  replay : List (Nat × Bytes)
  credits : List Nat
  returned : List Nat
  txq : List (Nat × Bytes × Nat)
  sinceContrib : Nat
  rxPart : List (Nat × Bytes)
  delivered : List (Nat × Bytes)
  fails : Nat
  downAt : Nat
  tryAt : Nat
  awaitAck : Bool
  waited : List Nat
  ctr : Ctr
deriving DecidableEq, Repr

/-- A domain query at this node (R301 to R306): `fetched` is the root's fetch time in ns and `d` D in µs; `boundary` numbers
batch-step boundaries by 4 × turn + step; `lost` lists children counted missing: link, node, and the nodes of their subtree. -/
structure DomQ where
  qid : Nat
  root : Bool
  tag : Nat
  facet : Nat
  slot : Nat
  cls : Nat
  k : Nat
  area : BitVec 256
  records : Bytes
  boundary : Nat
  fetched : Nat
  d : Nat
  waitBoundary : Bool
  unsent : List Nat
  sending : List Nat
  waiting : List Nat
  lost : List (Nat × Nat × Nat)
  own : Option (List Contrib)
  ownRes : List (Nat × QueryRes)
  got : List Contrib
  closed : Bool
deriving DecidableEq, Repr

/-- The migration registers and the running migration (R309 to R312, R368). `role`: 0 none, 1 source, 2 target. -/
structure Mig where
  ctrl : Word64
  accept : Word64
  phase : Nat
  target : Bool
  error : Nat
  units : Nat
  extra : Nat
  role : Nat
  start : Bool
  em : Nat
  building : Option Index
  pendNew : List Pend
  writes : List MigWrite
  publish : Bool
deriving DecidableEq, Repr

/-- The chord side of the module (R291 to R313). -/
structure Chord where
  links : List Link
  dom : List DomQ
  nextQid : Nat
  ignored : List Nat
  mig : Mig
deriving DecidableEq, Repr

/-- The sideband (R350 to R352). Bit n of `got` is set once byte n of the receive buffer has been received since the failed start. -/
structure Side where
  eid : Byte
  tid : Byte
  sensors : List Int
  healthBits : Nat
  buf : List Host.Cell
  got : Nat
  status : Nat
  bootFailed : Bool
  refreshAt : Nat
deriving DecidableEq, Repr

/-- A completion entry (R248). -/
structure Cpl where
  result : Bytes
  epoch : Nat
  tag : Nat
  sqHead : Nat
  qp : Nat
  flags : Nat
  cid : Nat
  phase : Bool
  status : Nat
deriving DecidableEq, Repr

/-- An answer on the sideband (R350 to R352). -/
inductive SbAnswer where
  | mctp (data : Bytes)
  | pldm (code : Nat) (data : Bytes)
  | recovery (status : Nat)
  | ack
  | nack
deriving DecidableEq, Repr

/-- What the module puts on its links and pins, oldest first (log 3). -/
inductive Out where
  | hostRead (tag addr len : Nat)
  | hostWrite (addr : Nat) (data : Bytes)
  | completion (addr : Nat) (c : Cpl)
  | msix (vector : Nat)
  | readData (data : Bytes)
  | syncOut
  | hotAlert (on : Bool)
  | chordMsg (link vc : Nat) (m : ChordMsg)
  | chordFlit (link : Nat) (data : Bytes)
  | sideband (a : SbAnswer)
deriving DecidableEq, Repr

/-- The whole state. `pending` is the queue of commands, first in first out; `out` and `free` are the model's own fields
(log entries 3 and 8). -/
structure State where
  brd : Board
  evr : Recorder
  fnc : Fence
  fuse : Fuses
  fw : Firmware
  lat : Lat
  cfg : ImageCfg
  hif : Hif
  qps : List Qp
  tags : List TagWord
  cmds : List Cmd
  fetchSeq : Nat
  elog : List ErrEnt
  elogSeq : Nat
  facets : List Facet
  idx : List Index
  mods : List ModelSlot
  srch : Search
  flash : Flash
  mem : Mem
  chd : Chord
  side : Side
  serial : Bytes
  out : List Out
  free : Nat
  pending : List Instr
deriving DecidableEq, Repr

/-- Reasons a step stops with a fault. No command of this block has a behaviour for which the spec gives no effect, so no
meaning raises one (log 2). -/
inductive Fault where
  /-- Raised by no arm of `exec`: what a stop would be called where the spec gives a row no effect at all. Safe, the model would
  stop where the machine goes on. -/
  | noEffectGiven (row : String)
deriving DecidableEq, Repr

/-- Reasons a command is refused. -/
inductive Refusal where
  /-- Raised by an arm of `exec` whose command has no meaning yet: safe, the model stops. -/
  | notModelled (mnemonic : String)
deriving DecidableEq, Repr

/-- An input at the given level, with nothing counted (R344, R370). -/
def PinSt.reset (level : Bool) : PinSt :=
  { accepted := level, filtered := level, lockEnd := none, acc := 0, rej := 0, secAcc := 0, secRej := 0 }

/-- The board held in reset: both rails on, MOD_RST# low, PWR_BRAKE# high (log 5, log 6). -/
def Board.reset : Board :=
  { main54 := true, aux5 := true, rst := PinSt.reset false, brake := PinSt.reset true, sync := PinSt.reset false,
    mainPower := false, phase := .held, fatal := false, fatalUnit := 0, psNow := 0, psSel := 0, trans := none,
    psQueue := [], woken := false, coreMhz := 1400, limiter := false, overSince := none, cleanSince := none, limitAt := none,
    mV := 0, mA := 0, auxmV := 0, auxmW := 0, temps := List.replicate 10 0, thermal := List.replicate 10 0,
    thermalNs := [], hotLatch := false, clk := 0, aon := 0, opNs := 0, cycles := 0, lastPulse := none,
    locked := false, inWindow := 0, turnStart := 0, syncInterval := 0xFFFFFFFF }

/-- The recorder with FRAM empty (log 6); EVR_ registers at the reset values of R332. -/
def Recorder.reset : Recorder :=
  { recs := [], next := 0, cursor := 0, frozen := false, freezeAt := 0, frozenCount := 0, frozenSev := 0,
    overwritten := 0, suppressed := 0, secNew := [], secSup := [], secNo := 0, framFault := false }

/-- The FNC_ block before boot code writes it: all fields zero (R371). -/
def Fence.reset : Fence :=
  { win := List.replicate 256 ⟨0, 0⟩, admin := List.replicate 4 ⟨0, 0⟩, links := 0, caps := List.replicate 4 0,
    power := 0, current := 0, interval := List.replicate 256 0, keys := List.replicate 3 0, lock := false }

/-- The windows 0 and 1 that together cover the whole address space, and two unused ones (R316). -/
def Fence.openWindows : List Window :=
  [⟨0x0000000000000003#64, 0x8000000000000000#64⟩, ⟨0x8000000000000003#64, 0x8000000000000000#64⟩, ⟨0, 0⟩, ⟨0, 0⟩]

/-- The factory boot configuration of R316. -/
def Fence.factory : Fence :=
  { win := (List.replicate 64 Fence.openWindows).flatten, admin := Fence.openWindows, links := 15,
    caps := List.replicate 4 50, power := 820, current := 200, interval := List.replicate 256 1,
    keys := List.replicate 3 0, lock := false }

/-- The key of the fuses, a P-384 point (DESIGN CHOICE, log 7). -/
def coravaperKey : BitVec 768 := 0xc8b510ea0988c7f79ce5d1c67f1846f1f85f36781c48ce771931671d66dc320ebd6d71ac22024c8d7134f763383ddab6b681b562032d9d18f063424fbf46815d5e85b1177346911063ccbb5189110b7b8b96c3390e27c3c149c2a3a00f3b3f21

/-- The factory boot configuration signed with that key (R316; log 7). -/
def BootImage.factory : BootImage :=
  { fence := Fence.factory, signer := 0, key := coravaperKey,
    sigR := 0x7816776065fc8d505c6edee4fbc3840298936720446ce961b2a772bdafbdb4b8e74b8354b0fb450b8d00ab67fc43b0e1,
    sigS := 0x35d17543e8e02904bf3c5a92b3c62823d7aa124f9dd6b5ba2c415171fd651b6151da530c5868fa6e43dd1317fd1bfe0 }

/-- Firmware and boot configurations as delivered (log 7). -/
def Firmware.reset : Firmware :=
  { slots := [⟨true, 1, 0⟩, ⟨false, 0, 0⟩], running := 0, selected := 0, staging := [], pages := [], committing := none,
    boot0 := some BootImage.factory, boot1 := some BootImage.factory }

/-- LAT_ with empty image slots (log 7): state 3, no valid image. -/
def Lat.reset : Lat :=
  { st := 3, code := 0, kind := false, atReset := false, loads := 0, refused := 0, reshapeUs := 0,
    slots := [⟨[], 0, 0⟩, ⟨[], 0, 0⟩], active := 0, load := none }

/-- No configuration (R40). -/
def ImageCfg.empty : ImageCfg :=
  { facets := [], roles := [], routes := [], formats := [], budgets := [], indexes := [], models := [],
    tree := none, id := 0 }

/-- HIF_ at the reset values of R360. -/
def Hif.reset : Hif :=
  { enable := false, ready := false, configError := false, resetBusy := false, sqBase := 0, cqBase := 0, depth := 0,
    linkUp := false, speed := 0, width := 0, badAccess := 0, doorbellInvalid := 0, ecrcGen := false,
    ecrcCheck := false, msixOn := false, msixMask := false, maxPayload := 128, maxRead := 128, msixTable := [],
    scratch := 0, select := 0, testMode := false, healthChanges := 0, lastMsg := [], pendMsg := [],
    grant := none }

/-- The search engine idle, everything free, nothing fenced. -/
def Search.reset : Search :=
  { queries := [], freeing := [], groups := [], slivers := [], cells := [], tiles := [],
    engines := (List.range 8).map fun n => ⟨n, none, 0, false⟩, shadows := [], enc := [], train := [],
    resends := [], roundRuns := [], cellsOut := [], blocksOut := [], regionsOut := [], turn := 0, stepNo := 0, cohort := 0, gidNext := 0,
    spent := [], bytes := [], debt := [], turnTicks := [], weights := [], budgets := [], masks := [], rotate := [],
    watch := (List.range 8).map fun n => (n, 0), expired := [], idleNj := 0, snap := [] }

/-- Flash idle (log 6 for the spare reserve). -/
def Flash.reset : Flash :=
  { dies := [], pages := [], waits := [], gone := [], order := 0, rereads := [], retired := 0, bad := [], leaving := [], lost := [], rebuilding := [], forming := [], groups := [], sparePm := 1000,
    spareDayDone := false, dayNo := 0 }

/-- Memory with a full replacement pool and full escape pools (R199, R320, R367). -/
def Mem.reset : Mem :=
  { remapped := [], softRepairs := 0, retired := [], moved := [], pool := 64, rebuilding := [], degraded := false, hbmPasses := 0,
    flashPasses := 0, escapes := List.replicate 8 64, grants := [], stalls := [], streams := [], streamSeq := [], copies := [], slices := [], listBytes := [], stale := [], cycleTurns := 0,
    rowErrs := [], checks := [], ras := [] }

/-- A link before the fence set-up: DISABLED (R292, R371), its buffers empty and its credits full (R296). -/
def Link.reset (n : Nat) : Link :=
  { num := n, st := 0, lanes := 0, txSeq := 0, rxNext := 0, replay := [], credits := [256, 256, 1024, 32],
    returned := [0, 0, 0, 0], txq := [], sinceContrib := 0, rxPart := [], delivered := [], fails := 0, downAt := 0, tryAt := 0, awaitAck := false, waited := [], ctr := [] }

/-- No migration (R368). -/
def Mig.reset : Mig :=
  { ctrl := 0, accept := 0, phase := 0, target := false, error := 0, units := 0, extra := 0, role := 0, start := false, em := 0,
    building := none, pendNew := [], writes := [], publish := false }

/-- The chord links at reset. -/
def Chord.reset : Chord :=
  { links := (List.range 4).map Link.reset, dom := [], nextQid := 0, ignored := [], mig := Mig.reset }

/-- The sideband at reset (log 6). -/
def Side.reset : Side :=
  { eid := 0, tid := 0, sensors := List.replicate 14 0, healthBits := 0, buf := [], got := 0,
    status := 0, bootFailed := false, refreshAt := 0 }

/-- The module held in reset by MOD_RST#, with nothing stored (log entries 5, 6 and 7). -/
def State.reset : State :=
  { brd := Board.reset, evr := Recorder.reset, fnc := Fence.reset, fuse := ⟨coravaperKey, List.replicate 3 0⟩,
    fw := Firmware.reset, lat := Lat.reset, cfg := ImageCfg.empty, hif := Hif.reset, qps := [], tags := [], cmds := [],
    fetchSeq := 0, elog := [], elogSeq := 0, facets := [], idx := [], mods := [], srch := Search.reset,
    flash := Flash.reset, mem := Mem.reset, chd := Chord.reset, side := Side.reset, serial := List.replicate 16 0,
    out := [], free := 0, pending := [] }

end Sys2Proof.Machine
end

