-- ==== Sys2Proof/Machine/Bytes.lean ====
section
/-! DEFINITION. Bytes, little-endian fields (R10), the two CRCs (R33, R328), bit counts, and sparse tables. -/

namespace Sys2Proof.Machine

/-- The number a run of little-endian bytes holds (R10). -/
def leNat : Bytes → Nat
  | [] => 0
  | b :: bs => b.toNat + 256 * leNat bs

/-- The number a run of big-endian bytes holds (R34, R371). -/
def beNat (bs : Bytes) : Nat := leNat bs.reverse

/-- `v` as `n` little-endian bytes, higher bits dropped (R10). -/
def leBytes : Nat → Nat → Bytes
  | 0, _ => []
  | n + 1, v => BitVec.ofNat 8 v :: leBytes n (v / 256)

/-- `len` bytes from `off`; shorter where the bytes end. -/
def slice (off len : Nat) (bs : Bytes) : Bytes := (bs.drop off).take len

/-- The little-endian field of `len` bytes at `off`. -/
def field (off len : Nat) (bs : Bytes) : Nat := leNat (slice off len bs)

/-- `bs` cut to or padded with zeros to `n` bytes. -/
def padTo (n : Nat) (bs : Bytes) : Bytes := (bs ++ List.replicate (n - bs.length) 0).take n

/-- True when every byte is zero. -/
def allZero (bs : Bytes) : Bool := bs.all (· == 0)

/-- `bs` in runs of `n` bytes, `k` of them. -/
def chunks (n : Nat) : Nat → Bytes → List Bytes
  | 0, _ => []
  | k + 1, bs => bs.take n :: chunks n k (bs.drop n)

/-- `m` rounded up to a multiple of `n` (n > 0). -/
def roundUp (n m : Nat) : Nat := (m + n - 1) / n * n

/-- Ceiling division. -/
def cdiv (a b : Nat) : Nat := (a + b - 1) / b

/-- One bit of a reflected CRC register. -/
def crcBit (poly c : BitVec 32) : BitVec 32 :=
  if c.getLsbD 0 then (c >>> 1) ^^^ poly else c >>> 1

/-- One byte of a reflected CRC register. -/
def crcByte (poly c : BitVec 32) (b : Byte) : BitVec 32 :=
  let c0 := c ^^^ b.setWidth 32
  crcBit poly (crcBit poly (crcBit poly (crcBit poly (crcBit poly (crcBit poly (crcBit poly (crcBit poly c0)))))))

/-- A reflected CRC with initial value all ones and a final inversion. -/
def crcWith (poly : BitVec 32) (bs : Bytes) : BitVec 32 :=
  ~~~ (bs.foldl (crcByte poly) 0xFFFFFFFF#32)

/-- CRC-32C of R33: polynomial 0x1EDC_6F41, reflected. -/
def crc32c (bs : Bytes) : BitVec 32 := crcWith 0x82F63B78#32 bs

/-- CRC-32 of R328: polynomial 0x04C1_1DB7, reflected. -/
def crc32 (bs : Bytes) : BitVec 32 := crcWith 0xEDB88320#32 bs

/-- Ones among the low `n` bits of `v`. -/
def popcount : Nat → Nat → Nat
  | 0, _ => 0
  | n + 1, v => v % 2 + popcount n (v / 2)

/-- Hamming distance of two sketches of `n` bits (R58). -/
def hamming (n a b : Nat) : Nat := popcount n (a ^^^ b)

/-- Bit `n` of `v`. -/
def bit (n v : Nat) : Bool := v / 2 ^ n % 2 == 1

/-- The number with bit i set for each listed i. -/
def ofBits (l : List Bool) : Nat := l.foldr (fun b v => (if b then 1 else 0) + 2 * v) 0

/-- Floor of the base-2 logarithm; 0 for 0. -/
def flog2 (n : Nat) : Nat := Nat.log2 n

/-- The count under number `k` (R358). -/
def Ctr.get (c : Ctr) (k : Nat) : Nat := ((c.find? (·.1 == k)).map (·.2)).getD 0

/-- The counter table with `n` added under `k`, modulo 2^64 (R358), entries in rising order. -/
def Ctr.bump (k n : Nat) : Ctr → Ctr
  | [] => if n % 2 ^ 64 == 0 then [] else [(k, n % 2 ^ 64)]
  | (j, m) :: c =>
    if k < j then (if n % 2 ^ 64 == 0 then (j, m) :: c else (k, n % 2 ^ 64) :: (j, m) :: c)
    else if k == j then (if (m + n) % 2 ^ 64 == 0 then c else (j, (m + n) % 2 ^ 64) :: c)
    else (j, m) :: Ctr.bump k n c

/-- A keyed table's value, or `d`. -/
def look {κ α : Type} [BEq κ] (d : α) (k : κ) (l : List (κ × α)) : α :=
  ((l.find? (fun p => p.1 == k)).map (·.2)).getD d

/-- A keyed table with the value under `k` replaced or added. -/
def put {κ α : Type} [BEq κ] (k : κ) (a : α) (l : List (κ × α)) : List (κ × α) :=
  if l.any (fun p => p.1 == k) then l.map (fun p => if p.1 == k then (k, a) else p) else l ++ [(k, a)]

/-- `l` with the first element that satisfies `p` changed by `f`. -/
def updFirst {α : Type} (p : α → Bool) (f : α → α) : List α → List α
  | [] => []
  | a :: l => if p a then f a :: l else a :: updFirst p f l

/-- The byte at an offset of a sparse buffer: an unlisted offset reads 0. -/
def cellGet (a : Nat) (m : List Host.Cell) : Byte := ((m.find? (·.1 == a)).map (·.2)).getD 0

/-- A sparse buffer with one byte written; offsets stay strictly rising and no zero byte is listed. -/
def cellSet (a : Nat) (b : Byte) : List Host.Cell → List Host.Cell
  | [] => if b == 0 then [] else [(a, b)]
  | (k, v) :: m =>
    if a < k then (if b == 0 then (k, v) :: m else (a, b) :: (k, v) :: m)
    else if a == k then (if b == 0 then m else (a, b) :: m)
    else (k, v) :: cellSet a b m

/-- A sparse buffer with a run of bytes written from offset `a`. -/
def cellWrite (a : Nat) (bs : Bytes) (m : List Host.Cell) : List Host.Cell :=
  match bs with
  | [] => m
  | b :: bs => cellWrite (a + 1) bs (cellSet a b m)

/-- `n` bytes of a sparse buffer from offset `a`. -/
def cellRead (a n : Nat) (m : List Host.Cell) : Bytes := (List.range n).map fun i => cellGet (a + i) m

/-- The canonical form of a sparse buffer: offsets strictly rising from `lo`, no zero byte listed. -/
def cellsWf (lo : Nat) : List Host.Cell → Bool
  | [] => true
  | (k, v) :: m => decide (lo ≤ k) && v != 0 && cellsWf (k + 1) m

/-- Insertion of an element into a list sorted by `le`, after its equals. -/
def insertBy {α : Type} (le : α → α → Bool) (a : α) : List α → List α
  | [] => [a]
  | b :: l => if le b a then b :: insertBy le a l else a :: b :: l

/-- A stable insertion sort by `le`. -/
def sortBy {α : Type} (le : α → α → Bool) (l : List α) : List α := l.foldl (fun acc a => insertBy le a acc) []

/-- The members of `l` without repeats, first occurrences kept. -/
def nub {α : Type} [BEq α] (l : List α) : List α :=
  (l.foldl (fun acc a => if acc.contains a then acc else a :: acc) []).reverse

/-- The least element of a list of numbers, or `d` for the empty list. -/
def minOf (d : Nat) : List Nat → Nat
  | [] => d
  | a :: l => l.foldl min a

/-- True when no member appears twice. -/
def distinct {α : Type} [BEq α] : List α → Bool
  | [] => true
  | a :: l => !l.contains a && distinct l

end Sys2Proof.Machine
end

