-- ==== Sys2Proof/Machine/Crypto.lean ====
section
/-! DEFINITION. SHA-384 and ECDSA over P-384 (R34, R35, R274, R315). The two algorithms are the public standards that the
spec names (log 17, PRESUMED: FIPS 180-4, FIPS 186-4, SEC 1). -/

namespace Sys2Proof.Machine

/-- Round constants of SHA-384, first forty. -/
def shaK0 : List (BitVec 64) :=
  [0x428a2f98d728ae22#64, 0x7137449123ef65cd#64, 0xb5c0fbcfec4d3b2f#64, 0xe9b5dba58189dbbc#64,
   0x3956c25bf348b538#64, 0x59f111f1b605d019#64, 0x923f82a4af194f9b#64, 0xab1c5ed5da6d8118#64,
   0xd807aa98a3030242#64, 0x12835b0145706fbe#64, 0x243185be4ee4b28c#64, 0x550c7dc3d5ffb4e2#64,
   0x72be5d74f27b896f#64, 0x80deb1fe3b1696b1#64, 0x9bdc06a725c71235#64, 0xc19bf174cf692694#64,
   0xe49b69c19ef14ad2#64, 0xefbe4786384f25e3#64, 0x0fc19dc68b8cd5b5#64, 0x240ca1cc77ac9c65#64,
   0x2de92c6f592b0275#64, 0x4a7484aa6ea6e483#64, 0x5cb0a9dcbd41fbd4#64, 0x76f988da831153b5#64,
   0x983e5152ee66dfab#64, 0xa831c66d2db43210#64, 0xb00327c898fb213f#64, 0xbf597fc7beef0ee4#64,
   0xc6e00bf33da88fc2#64, 0xd5a79147930aa725#64, 0x06ca6351e003826f#64, 0x142929670a0e6e70#64,
   0x27b70a8546d22ffc#64, 0x2e1b21385c26c926#64, 0x4d2c6dfc5ac42aed#64, 0x53380d139d95b3df#64,
   0x650a73548baf63de#64, 0x766a0abb3c77b2a8#64, 0x81c2c92e47edaee6#64, 0x92722c851482353b#64]

/-- Round constants of SHA-384, last forty. -/
def shaK1 : List (BitVec 64) :=
  [0xa2bfe8a14cf10364#64, 0xa81a664bbc423001#64, 0xc24b8b70d0f89791#64, 0xc76c51a30654be30#64,
   0xd192e819d6ef5218#64, 0xd69906245565a910#64, 0xf40e35855771202a#64, 0x106aa07032bbd1b8#64,
   0x19a4c116b8d2d0c8#64, 0x1e376c085141ab53#64, 0x2748774cdf8eeb99#64, 0x34b0bcb5e19b48a8#64,
   0x391c0cb3c5c95a63#64, 0x4ed8aa4ae3418acb#64, 0x5b9cca4f7763e373#64, 0x682e6ff3d6b2b8a3#64,
   0x748f82ee5defb2fc#64, 0x78a5636f43172f60#64, 0x84c87814a1f0ab72#64, 0x8cc702081a6439ec#64,
   0x90befffa23631e28#64, 0xa4506cebde82bde9#64, 0xbef9a3f7b2c67915#64, 0xc67178f2e372532b#64,
   0xca273eceea26619c#64, 0xd186b8c721c0c207#64, 0xeada7dd6cde0eb1e#64, 0xf57d4f7fee6ed178#64,
   0x06f067aa72176fba#64, 0x0a637dc5a2c898a6#64, 0x113f9804bef90dae#64, 0x1b710b35131c471b#64,
   0x28db77f523047d84#64, 0x32caab7b40c72493#64, 0x3c9ebe0a15c9bebc#64, 0x431d67c49c100d4c#64,
   0x4cc5d4becb3e42b6#64, 0x597f299cfc657e2a#64, 0x5fcb6fab3ad6faec#64, 0x6c44198c4a475817#64]

/-- Initial hash value of SHA-384. -/
def shaH0 : List (BitVec 64) :=
  [0xcbbb9d5dc1059ed8#64, 0x629a292a367cd507#64, 0x9159015a3070dd17#64, 0x152fecd8f70e5939#64,
   0x67332667ffc00b31#64, 0x8eb44a8768581511#64, 0xdb0c2e0d64f98fa7#64, 0x47b5481dbefa4fa4#64]

/-- A big-endian 64-bit word of a block. -/
def beWord (bs : Bytes) : BitVec 64 := BitVec.ofNat 64 (beNat bs)

/-- The next word of the message schedule from the sixteen before it, newest first. -/
def shaNext (w : List (BitVec 64)) : BitVec 64 :=
  let g := fun i => w.getD i 0
  let a := g 14
  let b := g 1
  let s0 := a.rotateRight 1 ^^^ a.rotateRight 8 ^^^ (a >>> 7)
  let s1 := b.rotateRight 19 ^^^ b.rotateRight 61 ^^^ (b >>> 6)
  s1 + g 6 + s0 + g 15

/-- One round on the working variables a .. h, with its constant and schedule word. -/
def shaRound (v : List (BitVec 64)) (k w : BitVec 64) : List (BitVec 64) :=
  match v with
  | [a, b, c, d, e, f, g, h] =>
    let s1 := e.rotateRight 14 ^^^ e.rotateRight 18 ^^^ e.rotateRight 41
    let ch := (e &&& f) ^^^ (~~~ e &&& g)
    let t1 := h + s1 + ch + k + w
    let s0 := a.rotateRight 28 ^^^ a.rotateRight 34 ^^^ a.rotateRight 39
    let mj := (a &&& b) ^^^ (a &&& c) ^^^ (b &&& c)
    [t1 + (s0 + mj), a, b, c, d + t1, e, f, g]
  | _ => v

/-- The rounds over the constants; `ws` are the sixteen latest schedule words, newest first, the one due being the oldest. -/
def shaRounds : List (BitVec 64) → List (BitVec 64) → List (BitVec 64) → List (BitVec 64)
  | [], _, v => v
  | k :: ks, ws, v => shaRounds ks (shaNext ws :: ws.take 15) (shaRound v k (ws.getD 15 0))

/-- One 128-byte block. -/
def shaBlock (h : List (BitVec 64)) (blk : Bytes) : List (BitVec 64) :=
  let ws := ((chunks 8 16 blk).map beWord).reverse
  List.zipWith (· + ·) h (shaRounds (shaK0 ++ shaK1) ws h)

/-- The message with its padding: 0x80, zeros, and the length in bits as 128 big-endian bits. -/
def shaPad (m : Bytes) : Bytes :=
  let z := (239 - m.length % 128) % 128
  m ++ [0x80#8] ++ List.replicate z 0 ++ (leBytes 16 (8 * m.length)).reverse

/-- The SHA-384 digest as a number, most significant bit first. -/
def sha384 (m : Bytes) : Nat :=
  let p := shaPad m
  let h := (chunks 128 (p.length / 128) p).foldl shaBlock shaH0
  (h.take 6).foldl (fun acc w => acc * 2 ^ 64 + w.toNat) 0

/-- The field prime of P-384. -/
def p384P : Nat := 2 ^ 384 - 2 ^ 128 - 2 ^ 96 + 2 ^ 32 - 1

/-- The order of the base point of P-384. -/
def p384N : Nat := 0xffffffffffffffffffffffffffffffffffffffffffffffffc7634d81f4372ddf581a0db248b0a77aecec196accc52973

/-- The coefficient b of P-384 (a is −3). -/
def p384B : Nat := 0xb3312fa7e23ee7e4988e056be3f82d19181d9c6efe8141120314088f5013875ac656398d8a2ed19d2a85c8edd3ec2aef

/-- The base point of P-384. -/
def p384G : Nat × Nat :=
  (0xaa87ca22be8b05378eb1c71ef320ad746e1d3b628ba79b9859f741e082542a385502f25dbf55296c3a545e3872760ab7,
   0x3617de4a96262c6f5d9e98bf9292dc29f8f41dbd289a147ce9da3113b5f0b8c00a60b1ce1d7e819d7a431d7c90ea0e5f)

/-- x^e mod m, with the bits of e read over `fuel` steps. -/
def powMod (m : Nat) : Nat → Nat → Nat → Nat
  | 0, _, _ => 1
  | fuel + 1, x, e =>
    let r := powMod m fuel (x * x % m) (e / 2)
    if e % 2 == 1 then r * x % m else r

/-- A point in Jacobian coordinates; Z = 0 is the point at infinity. -/
structure JPoint where
  x : Nat
  y : Nat
  z : Nat
deriving DecidableEq, Repr

/-- Difference modulo the field prime. -/
def subP (a b : Nat) : Nat := (a + p384P - b % p384P) % p384P

/-- Point doubling. -/
def JPoint.dbl (q : JPoint) : JPoint :=
  if q.z == 0 || q.y == 0 then ⟨1, 1, 0⟩
  else
    let p := p384P
    let d := q.z * q.z % p
    let g := q.y * q.y % p
    let b := q.x * g % p
    let a := 3 * (subP q.x d * ((q.x + d) % p) % p) % p
    let x3 := subP (a * a) (8 * b)
    let z3 := 2 * q.y * q.z % p
    ⟨x3, subP (a * subP (4 * b) x3) (8 * g * g), z3⟩

/-- Point addition. -/
def JPoint.add (q r : JPoint) : JPoint :=
  if q.z == 0 then r else if r.z == 0 then q
  else
    let p := p384P
    let z1 := q.z * q.z % p
    let z2 := r.z * r.z % p
    let u1 := q.x * z2 % p
    let u2 := r.x * z1 % p
    let s1 := q.y * r.z * z2 % p
    let s2 := r.y * q.z * z1 % p
    let h := subP u2 u1
    let t := subP s2 s1
    if h == 0 then (if t == 0 then q.dbl else ⟨1, 1, 0⟩)
    else
      let hh := h * h % p
      let hhh := h * hh % p
      let v := u1 * hh % p
      let x3 := subP (t * t) (hhh + 2 * v)
      ⟨x3, subP (t * subP v x3) (s1 * hhh), q.z * r.z * h % p⟩

/-- k times a point, reading `fuel` bits of k from the least significant. -/
def JPoint.smul : Nat → Nat → JPoint → JPoint
  | 0, _, _ => ⟨1, 1, 0⟩
  | fuel + 1, k, q =>
    let rest := JPoint.smul fuel (k / 2) q.dbl
    if k % 2 == 1 then rest.add q else rest

/-- True when (x, y) is a point of the curve. -/
def onCurve (x y : Nat) : Bool :=
  x < p384P && y < p384P && y * y % p384P == (x * x * x + (p384P - 3) * x + p384B) % p384P

/-- ECDSA verification of a digest with signature (r, s) under the public key x, then y, of 768 bits. -/
def ecdsaOk (digest r s : Nat) (key : BitVec 768) : Bool :=
  let kx := key.toNat / 2 ^ 384
  let ky := key.toNat % 2 ^ 384
  if 0 < r && r < p384N && 0 < s && s < p384N && onCurve kx ky then
    let w := powMod p384N 384 s (p384N - 2)
    let u1 := digest * w % p384N
    let u2 := r * w % p384N
    let q := (JPoint.smul 384 u1 ⟨p384G.1, p384G.2, 1⟩).add (JPoint.smul 384 u2 ⟨kx, ky, 1⟩)
    if q.z == 0 then false
    else
      let zi := powMod p384P 384 q.z (p384P - 2)
      q.x * (zi * zi % p384P) % p384P % p384N == r
  else false

/-- The signature block of R34 at the end of signed bytes: fields wrong, or right with key slot and signature. -/
structure SigBlock where
  okForm : Bool
  keySlot : Nat
  r : Nat
  s : Nat
deriving DecidableEq, Repr

/-- The 128-byte signature block of R34; `signed` is the length it must state. -/
def readSig (signed : Nat) (b : Bytes) : SigBlock :=
  { okForm := slice 0 4 b == [0x47#8, 0x53#8, 0x49#8, 0x47#8] && field 4 2 b == 1 && field 8 4 b == signed,
    keySlot := field 6 1 b, r := beNat (slice 16 48 b), s := beNat (slice 64 48 b) }

/-- The reserved fields of a signature block are zero (R11, R34). -/
def sigReserved (b : Bytes) : Bool := field 7 1 b == 0 && field 12 4 b == 0 && allZero (slice 112 16 b)

end Sys2Proof.Machine
end

