-- ==== Sys2Proof/Config.lean ====
section
/-! DEFINITION. What the spec leaves open: free values without a body, so that a claim holds whatever they are.
Each is named in the assumption log (entries 8 to 14). -/

namespace Sys2Proof.Config

/-- The n-th free choice among the free tags (R252 says that the module assigns a tag, not which). Log 8. -/
opaque tagChoice : Nat → Nat

/-- A stored vector's bytes after a read that failed, where the spec states no value (R76 with R324). Log 8. -/
opaque freeBytes : Nat → Bytes

/-- How many units in the last place a fixed piecewise polynomial of R168 lies off, less 2: function (0 exp, 1 tanh, 2 reciprocal square
root), argument. Log 9. -/
opaque ulpStep : Nat → F32 → Nat

/-- The order of a sum in FP32 that no rule gives, by its number of terms: which two terms each addition takes (softmax, mean pooling, the
relaxed similarity). Log 10. -/
opaque sumOrder : Nat → List Nat

/-- What a softmax takes from each element of a row before the exponential, which leaves its result the same but for rounding (R168).
Log 10. -/
opaque softmaxShift : List F32 → F32

/-- Ticks that a piece of work takes on a unit where R221 and R222 charge it and no rule counts them: the products of an optimiser step
or a sentinel shadow, an insert's sketches, merges, streams, and the ingest/compaction engines: free counter, unit. Log 41. -/
opaque workTicks : Nat → Nat → Nat

/-- Which of several equal units does a piece of work: the stream engines of a region, the ingest/compaction engines (R12). Log 41. -/
opaque unitChoice : Nat → Nat

/-- Live heap entries and stream-buffer bytes of a sliver at the moment of a switch (R228): how far its scan has come is timing. Log 83. -/
opaque switchLoad : Nat → Nat × Nat

/-- The neighbours compaction chooses for a new node (R144 leaves the choice open, and R6 lets equal graphs give equal choices): the index's
parameters, the graph as published after the previous unit (number, vector and neighbours of each node), the new vector, live node numbers. Log 12. -/
opaque chooseNeighbours : List Nat → List (Nat × Bytes × List Nat) → Bytes → List Nat → List Nat

/-- The nodes that gain a back edge to a new node (R144), from the same. Log 12. -/
opaque chooseBackEdges : List Nat → List (Nat × Bytes × List Nat) → Bytes → List Nat → List Nat

/-- The entry set published with a node array (R106, R144): parameters, the graph to be published, live node numbers. Log 12. -/
opaque chooseEntrySet : List Nat → List (Nat × Bytes × List Nat) → List Nat → List Nat

/-- Block, page and unit-within-page of a unit's copy (R202: firmware chooses them; R203 fixes the rest). Log 13. -/
opaque flashSpot : Nat → Nat × Nat × Nat

/-- Bytes of the staged firmware image its header states (R273: the format belongs to Coravaper). Log 14. -/
opaque fwStatedLength : Bytes → Nat

/-- Compatibility level a firmware image carries (R273). Log 14. -/
opaque fwCompat : Bytes → Nat

/-- Revision a firmware image carries (R270, R273). Log 14. -/
opaque fwRevision : Bytes → Nat

/-- Whether the ECDSA signature of a firmware image verifies against the locked boot configuration (R273 reason 1). Log 14. -/
opaque fwSignatureOk : Bytes → Bytes → Bool

/-- Values that R374 calls diagnostic, and the expected rate in the descriptor of a stream that feeds no cell (R208). Log 15. -/
opaque diagnostic : Nat → BitVec 32

/-- Whether the loss of AUX_5V tears the newest record of the event recorder, and the CRC it is left with (R331, R340). Log 93. -/
opaque tornRecord : Nat → Option (BitVec 32)

/-- What is measured on AUX_5V, in mV and mW (R351, R370). Log 6. -/
opaque auxReading : Nat → Nat × Nat

/-- Permille of the flash spare reserve left after n block retirements (R324 counts on it, no rule gives its size). Log 13. -/
opaque sparePermille : Nat → Nat

/-- The facets whose structures use a frame (R194: firmware chooses placements). Stack, frame. Log 13. -/
opaque frameFacets : Nat → Nat → List Nat

/-- The stack of the n-th frame that the reserve's pool gives in place of a retired one (R194, R320). Log 13. -/
opaque poolStack : Nat → Nat

/-- The commands, by tag, whose data the entries of the block check store on a frame of the module reserve protect (R198, R321): stack, frame.
Log 13. -/
opaque frameTags : Nat → Nat → List Nat

/-- Whether the flash copy of a run of HBM fails when it is read for a frame that is being rebuilt (R321): free counter, run. Log 13. -/
opaque copyFails : Nat → Nat → Bool

/-- What a start finds when the row that began it says nothing of it: a copy of the boot configuration that can be read, the parts that fail
self-test (0 cells, 1 blocks, 2 regions), a firmware slot that passes its check (R18, R273, R315): free counter, copy, kind or slot. Log 49. -/
opaque copyReadable : Nat → Nat → Bool
opaque partsFail : Nat → Nat → List Nat
opaque slotPasses : Nat → Nat → Bool

/-- Corrected errors of a part of stacked memory in a turn (R319): free counter, entry of RAS_COUNT. Log 94. -/
opaque correctedErrors : Nat → Nat → Nat

/-- HBM rows that return a corrected error in a turn (R319): stack, pseudo-channel, bank, row. Log 94. -/
opaque correctedRows : Nat → List (Nat × Nat × Nat × Nat)

/-- How many waiting slivers of its block a cell claims ahead when it is granted one (R91 names claimed slivers, no rule says how many): free
counter, cell. Log 95. -/
opaque claimAhead : Nat → Nat → Nat

/-- The query contexts that lie on a frame of the module reserve (R194, R198, R321): stack, frame. Log 13. -/
opaque frameContexts : Nat → Nat → List Nat

/-- Where firmware places a list's sketch records, in steps of 64 bytes, and its page map, in steps of 8 bytes (R68, R194, R197): free counter,
list. Log 13. -/
opaque hbmBase : Nat → Nat → Nat × Nat

/-- Which of the stacks of a facet's share holds the first frame of a structure (R194, R196: the frames then rotate): facet, slot, list key.
Log 13. -/
opaque frameStart : Nat → Nat → Nat → Nat

/-- Which of a facet's blocks stands for the slice of a list's copy (R194, R199, R200): facet, slot, list key. Log 13. -/
opaque copySlice : Nat → Nat → Nat → Nat

/-- Spare rows of a bank (R320 counts on them, no rule gives how many): 32 × stack + pseudo-channel, bank. Log 13. -/
opaque spareRows : Nat → Nat → Nat

/-- Spare rows of a whole HBM stack before any remap, for MEM_HBM_STACK (R367 counts them, no rule gives how many). Log 13. -/
opaque stackSpareRows : Nat → Nat

/-- Bytes of a message body whose encoding R298 and R311 do not give (maps, pending deletes, write records). Log 16. -/
opaque migBody : Nat → Nat → Bytes

/-- Version bytes that Get MCTP Version Support and GetPLDMVersion answer (R350 and R351 name no version): 0 MCTP base, 1 control,
2 PLDM over MCTP, 16 + t PLDM type t. Log 53. -/
opaque sbVersion : Nat → Bytes

/-- The repository and largest record sizes of GetPDRRepositoryInfo (R351 gives no record layout). Log 53. -/
opaque pdrSizes : Bytes

/-- A PDR of the repository by its handle, 1 to 15 (R351 gives the sensors, not the records). Log 53. -/
opaque pdrRecord : Nat → Bytes

end Sys2Proof.Config
end

