-- ==== Sys2Proof/Machine/Flags.lean ====
section
/-! DEFINITION. Status codes, completion flags, freeze causes, counter numbers, event codes and the health word
(R47, R248, R253, R256, R267, R329, R363 to R369). -/

namespace Sys2Proof.Machine

-- Status codes of R267.
def stOk : Nat := 0
def stInvalid : Nat := 1
def stWindow : Nat := 2
def stHostData : Nat := 3
def stCapacity : Nat := 4
def stBusy : Nat := 5
def stFacetState : Nat := 6
def stAborted : Nat := 7
def stDeleted : Nat := 8
def stLattice : Nat := 9
def stFirmware : Nat := 10
def stFacetFault : Nat := 11
def stMedia : Nat := 12

/-- A status that freezes an I/O pair and writes an error-log entry (R255, R267). -/
def isError (st : Nat) : Bool := st != stOk && st != stAborted && st != stDeleted

-- Completion flags of R248.
def flApprox : Nat := 1
def flPartial : Nat := 2
def flCaught : Nat := 4
def flNotCaught : Nat := 8
def flForced : Nat := 16
def flLog : Nat := 32

-- Freeze causes of R256.
def cauCommand : Nat := 1
def cauDoorbell : Nat := 2
def cauKeepAlive : Nat := 3
def cauFacetFault : Nat := 4
def cauWatchdog : Nat := 5
def cauFatal : Nat := 6

-- approx_cause bits of R100 and R118.
def cScan : Nat := 1
def cDie : Nat := 2
def cSketch : Nat := 4
def cHopLimit : Nat := 8
def cHopDeadline : Nat := 16

/-- A number with the given bits of a mask set: bitwise or on masks of one bit or more. -/
def orBits (a b : Nat) : Nat := a ||| b

/-- Counter number of FCT_CLASS[n] for class c (R363). -/
def kCls (c n : Nat) : Nat := 100 * c + n

/-- Counter number of FCT_FACET[n] (R364). -/
def kFct (n : Nat) : Nat := 1000 + n

/-- Counter number of SCH_CLASS[n] for class c (R366). -/
def kSch (c n : Nat) : Nat := 2000 + 100 * c + n

/-- Counter number of SCH_TAG_PAUSES (R366). -/
def kPause : Nat := 3000

/-- Severity, limit of new records in one second, and whether the limit is kept for each subject (R329). THERMAL_STATE takes
its severity from the state. -/
def eventRow (code : Nat) : Nat × Option Nat × Bool :=
  match code with
  | 0x0101 => (2, some 16, false)
  | 0x0102 => (2, some 16, false)
  | 0x0103 => (3, none, false)
  | 0x0104 => (4, none, false)
  | 0x0105 => (3, none, false)
  | 0x0201 => (1, some 16, false)
  | 0x0202 => (2, some 16, false)
  | 0x0203 => (3, none, false)
  | 0x0204 => (2, some 16, false)
  | 0x0205 => (2, some 16, false)
  | 0x0301 => (0, some 64, false)
  | 0x0302 => (1, some 16, false)
  | 0x0303 => (3, none, false)
  | 0x0304 => (1, some 16, false)
  | 0x0305 => (1, some 1, false)
  | 0x0401 => (1, some 4, false)
  | 0x0402 => (4, none, false)
  | 0x0501 => (1, some 1, false)
  | 0x0502 => (1, some 1, false)
  | 0x0503 => (1, some 1, false)
  | 0x0504 => (1, some 1, true)
  | 0x0601 => (3, none, false)
  | 0x0602 => (1, some 16, false)
  | 0x0603 => (1, some 16, false)
  | 0x0604 => (3, none, false)
  | 0x0701 => (2, none, false)
  | 0x0702 => (2, none, false)
  | 0x0801 => (1, some 4, false)
  | 0x0802 => (2, some 4, false)
  | 0x0901 => (1, some 16, false)
  | 0x0902 => (0, some 1, true)
  | 0x0903 => (1, some 16, false)
  | 0x0904 => (0, some 16, false)
  | _ => (1, none, false)

/-- One bit of a word. -/
def flagBit (n : Nat) (b : Bool) : Nat := if b then 2 ^ n else 0

/-- PWR_BRAKE# is active: its accepted level is low and MOD_RST# is not (R345). -/
def braked (s : State) : Bool := !s.brd.brake.accepted && s.brd.rst.accepted

/-- The thermal state of some sensor is a throttle or worse (R326). -/
def throttled (s : State) : Bool := s.brd.thermal.any (2 ≤ ·) || s.brd.limiter

/-- The health word of R253. -/
def healthWord (s : State) : Nat :=
  flagBit 0 (s.brd.phase == .running) + flagBit 1 s.brd.fatal + flagBit 2 s.mem.degraded +
  flagBit 3 (s.brd.thermal.any (· == 1)) + flagBit 4 (throttled s) + flagBit 5 (braked s) +
  64 * s.brd.psNow + flagBit 8 (s.lat.st == 2) + flagBit 9 s.brd.woken

/-- The change of the health word from one state to the next counted (R253: offset 0x08 of the health page), unless what lies between has
counted its changes itself; none is counted while main power is off (R358; log 77). -/
def countHealth (before after : State) : State :=
  if !after.brd.mainPower || healthWord before == healthWord after || before.hif.healthChanges != after.hif.healthChanges then after
  else { after with hif := { after.hif with healthChanges := after.hif.healthChanges + 1 } }

/-- The 60 bytes a record's CRC covers (R328). -/
def recBody (r : EvRec) : Bytes :=
  leBytes 2 r.code ++ leBytes 1 r.severity ++ leBytes 1 r.snap.length ++ leBytes 2 r.rpt ++
  leBytes 1 (flagBit 0 r.offMain) ++ leBytes 1 0 ++ leBytes 4 r.opHours ++ leBytes 4 r.opMs ++ leBytes 4 r.cycles ++
  leBytes 4 r.subject ++ padTo 32 ((r.snap.map (leBytes 4)).flatten) ++ leBytes 4 r.seq

/-- A record with the CRC of what it holds now (R328). -/
def EvRec.seal (r : EvRec) : EvRec := { r with crc := crc32 (recBody r) }

/-- A record as 64 bytes with the CRC kept in it (R328, R331). -/
def recBytes (r : EvRec) : Bytes := recBody r ++ leBytes 4 r.crc.toNat

/-- An error-log entry as 64 bytes (R268). -/
def errBytes (e : ErrEnt) : Bytes :=
  leBytes 8 e.seq ++ leBytes 8 e.time ++ leBytes 2 e.status ++ leBytes 1 e.qp ++ leBytes 1 e.opcode ++ leBytes 2 e.cid ++
  leBytes 2 e.tag ++ leBytes 1 e.facet ++ leBytes 1 e.check ++ leBytes 2 e.detail ++ leBytes 4 e.field ++
  leBytes 8 e.epoch ++ List.replicate 24 0

/-- A completion entry as 32 bytes (R248). -/
def cplBytes (c : Cpl) : Bytes :=
  padTo 16 c.result ++ leBytes 6 c.epoch ++ leBytes 2 c.tag ++ leBytes 2 c.sqHead ++ leBytes 1 c.qp ++
  leBytes 1 c.flags ++ leBytes 2 c.cid ++ leBytes 2 (2 * c.status + flagBit 0 c.phase)

/-- A tag state word (R252). -/
def tagBits (t : TagWord) : Nat :=
  t.state + 8 * flagBit 0 t.abortHeld + 16 * t.qp + 2 ^ 16 * t.cid + 2 ^ 32 * t.use + 2 ^ 48 * t.status

/-- A query result as 16 bytes (R282). -/
def queryResBytes (r : QueryRes) : Bytes :=
  leBytes 2 r.filled ++ leBytes 1 r.cause ++ leBytes 1 r.s0 ++ leBytes 6 r.scanned ++ leBytes 1 r.hops ++
  leBytes 1 r.path ++ leBytes 1 (flagBit 0 r.sentinel) ++ leBytes 3 0

/-- A result entry as 16 bytes (R97); an empty place holds all-ones ID, +infinity, 0xFFFF and status 0. -/
def resultBytes (r : ResultEnt) : Bytes :=
  match r.id with
  | some i => leBytes 8 i ++ leBytes 4 r.dist.toNat ++ leBytes 2 r.ham ++ leBytes 1 r.status ++ leBytes 1 0
  | none => leBytes 8 0xFFFFFFFFFF ++ leBytes 4 0x7F800000 ++ leBytes 2 0xFFFF ++ leBytes 2 0

/-- Opcode of a command (R269, R280). -/
def opcode : Op → Nat
  | .identify => 0x01 | .getLog => 0x02 | .setFeature => 0x03 | .getFeature => 0x04 | .fwDownload => 0x05
  | .fwCommit => 0x06 | .createQp => 0x07 | .deleteQp => 0x08 | .abort => 0x09 | .resumeQp => 0x0A
  | .loadLattice => 0x0B | .facetCreate => 0x0C | .facetDestroy => 0x0D | .indexCreate => 0x0E | .indexDrop => 0x0F
  | .evrControl => 0x10 | .query => 0x40 | .queryBatch => 0x41 | .insert => 0x50 | .delete => 0x51
  | .labelUpdate => 0x52 | .fetch => 0x53 | .flush => 0x54 | .train => 0x60 | .resketch => 0x61 | .encode => 0x62
  | .modelLoad => 0x63 | .other n => n

/-- The opcode is an admin one (R263). -/
def isAdmin (o : Op) : Bool := opcode o ≤ 0x10

/-- The opcodes that R263 assigns to a command. -/
def assigned (n : Nat) : Bool :=
  (1 ≤ n && n ≤ 0x10) || n == 0x40 || n == 0x41 || (0x50 ≤ n && n ≤ 0x54) || (0x60 ≤ n && n ≤ 0x63)

/-- The commands of R41, which run one at a time. -/
def isSerial : Op → Bool
  | .loadLattice => true
  | .facetCreate => true
  | .facetDestroy => true
  | .indexCreate => true
  | .indexDrop => true
  | .modelLoad => true
  | _ => false

/-- A write command (R122). -/
def isWrite : Op → Bool
  | .insert => true
  | .delete => true
  | .labelUpdate => true
  | _ => false

/-- A command that takes a range lock (R130). -/
def takesLock : Op → Bool
  | .insert => true
  | .delete => true
  | .labelUpdate => true
  | .fetch => true
  | _ => false

end Sys2Proof.Machine
end

