-- ==== Sys2Proof/Machine/Ops.lean ====
section
/-! DEFINITION. The named operations over State: lookups and updates, outputs, the event recorder, freezes, DMA windows,
interrupts, tags, and the one completion of every command. -/

namespace Sys2Proof.Machine

/-- Time since module reset in ns. -/
def now (s : State) : Nat := s.brd.clk

/-- One more output. -/
def emit (o : Out) (s : State) : State := { s with out := s.out ++ [o] }

/-- A facet that is known, or a DECLARED one with nothing in it. -/
def Facet.blank (f : Nat) : Facet :=
  { num := f, state := 0, cause := 0, epoch := 0, closed := 0, changed := false, kaMs := 0, kaSince := 0, s0 := none, s0Next := none,
    forced := false, rebuilt := true, paused := false, pend := [], pendFreed := 0, log := [], logUnits := 0, ckptEpoch := 0, logFrom := 0, window := [],
    drifted := false, walkerPtr := 0, placePtr := 0, ctr := [], energyNj := 0, teardown := none,
    destroyTag := none, scrub := [], scrubHbm := 0, droppedFlash := 0, admission := [] }

/-- The facet of a number. -/
def facetOf (s : State) (f : Nat) : Facet := (s.facets.find? (·.num == f)).getD (Facet.blank f)

/-- The facet of a number changed, made first if it was not known. -/
def updFacet (f : Nat) (g : Facet → Facet) (s : State) : State :=
  { s with facets := if s.facets.any (·.num == f) then updFirst (·.num == f) g s.facets else s.facets ++ [g (Facet.blank f)] }

/-- The FACETS record of the active configuration. -/
def facetRec (s : State) (f : Nat) : Option FacetRec := s.cfg.facets.find? (·.facet == f)

/-- A facet is declared in the active configuration. -/
def declared (s : State) (f : Nat) : Bool := s.cfg.facets.any (·.facet == f)

/-- A facet as the host sees it: without a FACETS record there is no facet, whatever is stored under its number (R40, R47). -/
def shownFacet (s : State) (f : Nat) : Facet := if declared s f then facetOf s f else Facet.blank f

/-- Images of a slot that the active marker covers (R43, R45). -/
def images (x : ImgSlot) : List Bytes := x.chain.take x.applied

/-- Partial images of a slot that follow its full image. -/
def partials (x : ImgSlot) : Nat := (images x).length - 1

/-- A model slot that holds nothing (R170). -/
def ModelSlot.empty (f slot : Nat) (raw : Bytes) : ModelSlot :=
  { facet := f, slot := slot, state := 0, weights := [], adapterRank := 0, adapter := [], newAdapter := none, prefetched := false,
    stackedBytes := 0, toReady := none, raw := raw }

/-- The INDEXES record of a slot. -/
def geoOf (s : State) (f slot : Nat) : Option Geometry := s.cfg.indexes.find? fun g => g.facet == f && g.slot == slot

/-- The created index of a slot. -/
def idxOf (s : State) (f slot : Nat) : Option Index := s.idx.find? fun i => i.geo.facet == f && i.geo.slot == slot

/-- A created index changed. -/
def updIdx (f slot : Nat) (g : Index → Index) (s : State) : State :=
  { s with idx := updFirst (fun i => i.geo.facet == f && i.geo.slot == slot) g s.idx }

/-- The model slot and its record. -/
def modOf (s : State) (f slot : Nat) : Option ModelSlot := s.mods.find? fun m => m.facet == f && m.slot == slot

def modelRec (s : State) (f slot : Nat) : Option ModelRec := s.cfg.models.find? fun m => m.facet == f && m.slot == slot

def updMod (f slot : Nat) (g : ModelSlot → ModelSlot) (s : State) : State :=
  { s with mods := updFirst (fun m => m.facet == f && m.slot == slot) g s.mods }

/-- The queue pair of a number, if it exists. -/
def qpOf (s : State) (q : Nat) : Option Qp := s.qps.find? (·.num == q)

def updQp (q : Nat) (g : Qp → Qp) (s : State) : State := { s with qps := updFirst (·.num == q) g s.qps }

/-- The fetched command that holds a tag. -/
def cmdOf (s : State) (t : Nat) : Option Cmd := s.cmds.find? (·.tag == t)

def updCmd (t : Nat) (g : Cmd → Cmd) (s : State) : State := { s with cmds := updFirst (·.tag == t) g s.cmds }

/-- The query in a context. -/
def queryOf (s : State) (x : Nat) : Option Query := s.srch.queries.find? (·.ctx == x)

def updQuery (x : Nat) (g : Query → Query) (s : State) : State :=
  { s with srch := { s.srch with queries := updFirst (·.ctx == x) g s.srch.queries } }

/-- A facet's counter raised by n (R358). -/
def bump (f k n : Nat) (s : State) : State := updFacet f (fun x => { x with ctr := x.ctr.bump k n }) s

/-- A RAS_COUNT entry raised (R369). -/
def bumpRas (k n : Nat) (s : State) : State := { s with mem := { s.mem with ras := s.mem.ras.bump k n } }

/-- HIF_BAD_ACCESS raised (R241, R357). -/
def badAccess (s : State) : State := { s with hif := { s.hif with badAccess := (s.hif.badAccess + 1) % 2 ^ 64 } }

/-- A free value used up: the counter of log 8 moves on. -/
def useFree (s : State) : State := { s with free := s.free + 1 }

-- Messages (R239, R254, R317).

/-- A message of a vector sent now, or held with its pending bit when the vector's interval has not passed or the function
is masked; nothing when MSI-X is off or the link is down (R239). -/
def sendMsi (v : Nat) (s : State) : State :=
  if !s.hif.msixOn || !s.hif.linkUp then s
  else
    let due := match s.hif.lastMsg.find? (·.1 == v) with
      | some p => p.2 + 1000 * s.fnc.interval.getD v 1 ≤ now s
      | none => true
    if due && !s.hif.msixMask then
      emit (.msix v) { s with hif := { s.hif with lastMsg := put v (now s) s.hif.lastMsg,
                                                  pendMsg := s.hif.pendMsg.filter (· != v) } }
    else { s with hif := { s.hif with pendMsg := nub (s.hif.pendMsg ++ [v]) } }

-- The event recorder (R328 to R334).

/-- A record appended to the ring: the oldest goes when 16,384 are held (R331). -/
def writeRec (r : EvRec) (e : Recorder) : Recorder :=
  let r' := { r with seq := e.next }.seal
  if 16384 ≤ e.recs.length then
    { e with recs := e.recs.drop 1 ++ [r'], next := (e.next + 1) % 2 ^ 32, overwritten := (e.overwritten + 1) % 2 ^ 32 }
  else { e with recs := e.recs ++ [r'], next := (e.next + 1) % 2 ^ 32 }

/-- The record of an event at this moment (R328). -/
def makeRec (s : State) (code sev subject : Nat) (snap : List Nat) : EvRec :=
  { code := code, severity := sev, snap := snap.map (· % 2 ^ 32), rpt := 0, offMain := !s.brd.mainPower,
    opHours := s.brd.opNs / 3600000000000, opMs := s.brd.opNs / 1000000 % 3600000, cycles := s.brd.cycles,
    subject := subject % 2 ^ 32, seq := 0, crc := 0 }

/-- Same code and subject as the last record: its repeat count rises, unless it would pass 65,535 (R330). -/
def mergeRec (r : EvRec) (e : Recorder) : Option Recorder :=
  match e.recs.getLast? with
  | some l =>
    if l.code == r.code && l.subject == r.subject && l.rpt < 65535 then
      some { e with recs := e.recs.dropLast ++ [{ l with rpt := l.rpt + 1 }.seal] }
    else none
  | none => none

/-- A record merged, written, or suppressed under its code's limit (R330). -/
def offerRec (r : EvRec) (lim : Option Nat) (key : Nat) (e : Recorder) : Recorder :=
  match mergeRec r e with
  | some e' => e'
  | none =>
    match lim with
    | none => writeRec r e
    | some n =>
      if n ≤ e.secNew.get key then
        { e with secSup := e.secSup.bump r.code 1, suppressed := (e.suppressed + 1) % 2 ^ 32 }
      else writeRec r { e with secNew := e.secNew.bump key 1 }

/-- The end of a freeze: one FREEZE_SUMMARY record (R333). -/
def endFreeze (s : State) : State :=
  if s.evr.frozen then
    let r := makeRec s 0x0F02 1 0 [s.evr.frozenCount, s.evr.frozenSev]
    { s with evr := offerRec r none 0 { s.evr with frozen := false } }
  else s

/-- An event of a severity recorded (R330, R333): nothing while the always-on controller is unpowered; counted while frozen,
unless it is CRITICAL or FATAL, which ends the freeze. Each is an asynchronous event, which sends a message on vector 0 (R254; log 98). -/
def recordSev (code sev subject : Nat) (snap : List Nat) (s : State) : State :=
  if !s.brd.aux5 then s
  else if s.evr.frozen && sev < 3 then
    sendMsi 0 { s with evr := { s.evr with frozenCount := (s.evr.frozenCount + 1) % 2 ^ 32, frozenSev := max s.evr.frozenSev sev } }
  else
    let s1 := endFreeze s
    let row := eventRow code
    let key := if row.2.2 then code + 2 ^ 16 * (subject + 1) else code
    sendMsi 0 { s1 with evr := offerRec (makeRec s1 code sev subject snap) row.2.1 key s1.evr }

/-- An event recorded with the severity of R329. -/
def record (code subject : Nat) (snap : List Nat) (s : State) : State :=
  recordSev code (eventRow code).1 subject snap s

/-- A subject of several numbers, 8 bits each from bit 0 upward (R329). -/
def subj (l : List Nat) : Nat := l.foldr (fun a acc => a % 256 + 256 * acc) 0

-- Freezes (R255, R256).

/-- A pair frozen with one more cause in force; a pair being deleted stays so. -/
def freezeQp (cause : Nat) (q : Qp) : Qp :=
  { q with state := if q.state == 3 then 3 else 2, causes := if q.causes.contains cause then q.causes else cause :: q.causes }

/-- The cause a pair shows: the highest in force (R256). -/
def shownCause (q : Qp) : Nat := q.causes.foldl max 0

/-- Every pair that satisfies p frozen with a cause. -/
def freezeWhere (p : Qp → Bool) (cause : Nat) (s : State) : State :=
  { s with qps := s.qps.map fun q => if p q then freezeQp cause q else q }

/-- A facet frozen with a cause: FROZEN if it was ACTIVE or FROZEN, and its pairs frozen (R47, R256). -/
def freezeFacet (f cause : Nat) (s : State) : State :=
  let s1 := freezeWhere (fun q => q.num != 0 && q.facet == f) cause s
  if (facetOf s f).state == 1 || (facetOf s f).state == 2 then
    updFacet f (fun x => { x with state := 2, cause := max x.cause cause }) s1
  else s1

-- DMA windows (R246, R314, R371).

/-- Base and end of a window. -/
def winLo (w : Window) : Nat := w.base.toNat / 4096 * 4096

def winHi (w : Window) : Nat := winLo w + w.len.toNat / 4096 * 4096

/-- A window allows an access at an address. -/
def winHas (write : Bool) (a : Nat) (w : Window) : Bool :=
  winLo w ≤ a && a < winHi w && bit (if write then 1 else 0) w.base.toNat

/-- Every byte from a to a + n − 1 lies in some window with the permission; the walk goes from window end to window end. -/
def covered (ws : List Window) (write : Bool) : Nat → Nat → Nat → Bool
  | 0, _, n => n == 0
  | fuel + 1, a, n =>
    if n == 0 then true
    else match ws.find? (winHas write a) with
      | none => false
      | some w => covered ws write fuel (winHi w) (n - (winHi w - a))

/-- The windows that bind a pair: the admin window for pair 0, else the facet's (R314). -/
def windowsOf (s : State) (q facet : Nat) : List Window :=
  if q == 0 then s.fnc.admin else (s.fnc.win.drop (4 * facet)).take 4

/-- The range lies in the pair's windows (R246). -/
def inWindows (s : State) (q facet : Nat) (write : Bool) (a n : Nat) : Bool :=
  let ws := windowsOf s q facet
  a + n ≤ 2 ^ 64 && covered ws write (ws.length + 1) a n

-- Interrupts (R254, R317).

/-- The pair's pending interrupt sent (R254). -/
def signalQp (q : Nat) (s : State) : State :=
  match qpOf s q with
  | none => s
  | some p => sendMsi p.vector (updQp q (fun x => { x with toSignal := 0, signalSince := none }) s)

-- Tags (R229, R252).

/-- The state word of a tag. -/
def tagOf (s : State) (t : Nat) : TagWord := (s.tags.find? (·.tag == t)).getD ⟨t, 0, false, 0, 0, 0, 0⟩

/-- The state word of a tag changed. -/
def updTag (t : Nat) (g : TagWord → TagWord) (s : State) : State :=
  { s with tags := if s.tags.any (·.tag == t) then updFirst (·.tag == t) g s.tags else s.tags ++ [g ⟨t, 0, false, 0, 0, 0, 0⟩] }

/-- A tag is held by a fetched command. -/
def tagHeld (s : State) (t : Nat) : Bool := s.cmds.any (·.tag == t)

/-- Host tags free (HIF_TAGS_FREE). -/
def tagsFree (s : State) : Nat := 65536 - s.cmds.length

/-- The first tag not held from `t` on, looking at `fuel` tags in the range lo .. hi − 1 in turn. -/
def scanTag (s : State) (lo hi : Nat) : Nat → Nat → Option Nat
  | 0, _ => none
  | fuel + 1, t => if tagHeld s t then scanTag s lo hi fuel (if t + 1 < hi then t + 1 else lo) else some t

/-- A free tag for a pair: 64 tags are the admin queue's (R229); which free one is a free choice (log 8). At most as many
tags are held as there are commands, so that many looks and one more find one. -/
def freeTag (s : State) (admin : Bool) : Option Nat :=
  let lo := if admin then 0 else 64
  let hi := if admin then 64 else 65536
  scanTag s lo hi (min (hi - lo) (s.cmds.length + 1)) (lo + Config.tagChoice s.free % (hi - lo))

-- Completions (R248, R254, R255, R268).

/-- Where a failed check stands: R266's order, detail and field offset for the error log (R268). -/
structure ErrAt where
  check : Nat
  detail : Nat
  field : Nat
deriving DecidableEq, Repr

/-- A failure while running (R268: check 0, no offending field). -/
def running0 : ErrAt := ⟨0, 0, 0xFFFFFFFF⟩

/-- The error-log entry of a completion (R268): newest first, 256 kept. -/
def logError (c : Cmd) (st : Nat) (at' : ErrAt) (s : State) : State :=
  let e : ErrEnt :=
    { seq := s.elogSeq + 1, time := now s / 1000, status := st, qp := c.qp, opcode := opcode c.op,
      cid := c.cid, tag := c.tag, facet := c.facet, check := at'.check, detail := at'.detail, field := at'.field,
      epoch := (facetOf s c.facet).epoch }
  { s with elog := (e :: s.elog).take 256, elogSeq := s.elogSeq + 1 }

/-- The fence has blocked a write of the command that holds a tag (R317). -/
def fenceHit (s : State) (t : Nat) : Bool := (cmdOf s t).any (·.fenced)

/-- One completion posted on the pair's ring, its interrupt, then its tag state word; the command leaves (R243, R248, R254). A command
whose write the fence has blocked completes with DMA_WINDOW (R317). -/
def post (c : Cmd) (st0 flags epoch : Nat) (result : Bytes) (at' : ErrAt) (s : State) : State :=
  let st := if fenceHit s c.tag then stWindow else st0
  let err := isError st
  let s1 := if err then logError c st at' s else s
  let s2 := if err && c.qp != 0 then updQp c.qp (freezeQp cauCommand) s1 else s1
  let s3 := match qpOf s2 c.qp with
    | none => s2
    | some p =>
      let cpl : Cpl :=
        { result := padTo 16 result, epoch := epoch, tag := c.tag, sqHead := p.sqHead, qp := c.qp,
          flags := flags + (if err then flLog else 0), cid := c.cid, phase := p.phase, status := st }
      let s' := emit (.completion (p.cqBase + 32 * p.cqTail) cpl) s2
      updQp c.qp (fun x => { x with
        cqTail := if x.cqTail + 1 == x.depth then 0 else x.cqTail + 1,
        phase := if x.cqTail + 1 == x.depth then !x.phase else x.phase,
        inFlight := x.inFlight - 1, toSignal := x.toSignal + 1,
        signalSince := some (x.signalSince.getD (now s)) }) s'
  let s4 := match qpOf s3 c.qp with
    | some p => if p.cCount ≤ p.toSignal || p.cDelay == 0 then signalQp c.qp s3 else s3
    | none => s3
  updTag c.tag (fun t => { t with state := 4, status := st })
    { s4 with cmds := s4.cmds.filter fun x => x.tag != c.tag }

/-- A command completed, and after it the ABORTs that caught it (R260). -/
def finish (c : Cmd) (st flags epoch : Nat) (result : Bytes) (at' : ErrAt) (s : State) : State :=
  c.aborters.foldl (fun t a => match cmdOf t a with
    | some ac => post ac stOk (if st == stAborted then flCaught else flNotCaught) 0 [] running0 t
    | none => t) (post c st flags epoch result at' s)

/-- A command completed with success. -/
def succeed (c : Cmd) (result : Bytes) (s : State) : State := finish c stOk 0 0 result running0 s

/-- A command refused by a check of R266. -/
def refuse (c : Cmd) (st check detail fld : Nat) (s : State) : State := finish c st 0 0 [] ⟨check, detail, fld⟩ s

/-- Result bytes written to host memory: the hardware fence looks at each write again; one outside the windows is not issued,
and the command completes with DMA_WINDOW (R246, R317). -/
def writeHost (c : Cmd) (a : Nat) (bs : Bytes) (s : State) : State :=
  if bs.isEmpty then s
  else if inWindows s c.qp c.facet true a bs.length then emit (.hostWrite a bs) s
  else bumpRas 20 1 (record 0x0601 c.facet [a % 2 ^ 32, a / 2 ^ 32, bs.length, 1, c.tag] (updCmd c.tag (fun x => { x with fenced := true }) s))

/-- The tag state word of a command in a new phase (R252). -/
def setPhase (t : Nat) (p : CmdPhase) (s : State) : State :=
  let w := match p with
    | .reading => 1
    | .turn => 1
    | .waiting => 1
    | .running => 2
    | .committed => 3
    | .ending => 2
  updTag t (fun x => { x with state := w }) (updCmd t (fun c => { c with phase := p }) s)

end Sys2Proof.Machine
end

