-- ==== Sys2Proof/Machine/Boot.lean ====
section
/-! DEFINITION. The boot configuration and the fence set-up as bytes (R274, R314 to R316, R371). -/

namespace Sys2Proof.Machine

/-- The FNC_ block as bytes from 0x000A_0000 (R371): 6,792 bytes. -/
def fenceBytes (f : Fence) : Bytes :=
  let win := fun (w : Window) => leBytes 8 w.base.toNat ++ leBytes 8 w.len.toNat
  let caps := leBytes 1 f.links ++ (f.caps.map (leBytes 1)).flatten ++ leBytes 3 0
  padTo 0x1000 ((f.win.map win).flatten) ++ padTo 0x40 ((f.admin.map win).flatten) ++ padTo 8 caps ++
  leBytes 8 f.power ++ leBytes 8 f.current ++ List.replicate 0xA8 0 ++ padTo 0x800 ((f.interval.map (leBytes 8)).flatten) ++
  padTo 0x180 ((f.keys.map fun k => padTo 0x80 (leBytes 96 k.toNat).reverse).flatten) ++ leBytes 8 (flagBit 0 f.lock)

/-- A window from its 16 bytes. -/
def readWindow (b : Bytes) : Window := ⟨BitVec.ofNat 64 (field 0 8 b), BitVec.ofNat 64 (field 8 8 b)⟩

/-- A fence set-up from the bytes of the FNC_ block. -/
def readFence (b : Bytes) : Fence :=
  { win := (chunks 16 256 b).map readWindow, admin := (chunks 16 4 (b.drop 0x1000)).map readWindow,
    links := field 0x1040 1 b % 16, caps := (List.range 4).map fun i => field (0x1041 + i) 1 b, power := field 0x1048 8 b,
    current := field 0x1050 8 b, interval := (List.range 256).map fun v => field (0x1100 + 8 * v) 8 b,
    keys := (List.range 3).map fun n => BitVec.ofNat 768 (beNat (slice (0x1900 + 0x80 * n) 96 b)), lock := false }

/-- A window within R314: reserved bits zero, base + length at most 2^64. -/
def windowOk (w : Window) : Bool :=
  w.base.toNat % 4096 < 4 && w.len.toNat % 4096 == 0 && winHi w ≤ 2 ^ 64

/-- Every value of a fence image within R314, reserved bits zero. -/
def fenceOk (b : Bytes) : Bool :=
  let f := readFence b
  f.win.all windowOk && f.admin.all windowOk && f.caps.all (fun c => 1 ≤ c && c ≤ 50) &&
  250 ≤ f.power && f.power ≤ 820 && 10 ≤ f.current && f.current ≤ 200 &&
  f.interval.all (fun v => 1 ≤ v && v ≤ 1000) && fenceBytes f == b

/-- What a boot configuration is: verified, or failing its signature or its format (R273 reasons 6 and 7). -/
inductive BootCheck where
  | ok (i : BootImage)
  | badSignature
  | badFormat
deriving DecidableEq, Repr

/-- The signer's key is the one the fuses hold (R274). -/
def signerOk (fz : Fuses) (signer : Nat) (key : Bytes) : Bool :=
  if signer == 0 then BitVec.ofNat 768 (beNat key) == fz.coravaper
  else (fz.hashes[signer - 1]?).any fun h => h.toNat == sha384 key

/-- A boot configuration's format (R274): magic, version, length, level, header CRC, reserved fields, ranges. -/
def bootFormatOk (b : Bytes) : Bool :=
  b.length == 7088 && slice 0 4 b == [0x47#8, 0x42#8, 0x43#8, 0x46#8] && field 4 2 b == 1 && field 6 2 b == 1 &&
  field 8 4 b == 7088 && allZero (slice 0x0C 48 b) && field 0x3C 4 b == (crc32c (slice 0 0x3C b)).toNat &&
  fenceOk (slice 0x40 6792 b) && field 0x1AC8 1 b ≤ 3 && allZero (slice 0x1AC9 7 b) && sigReserved (slice 0x1B30 128 b)

/-- Its signature verifies against its signer (R34, R274). -/
def bootSignatureOk (fz : Fuses) (b : Bytes) : Bool :=
  let sg := readSig 0x1B30 (slice 0x1B30 128 b)
  let key := slice 0x1AD0 96 b
  sg.okForm && sg.keySlot == field 0x1AC8 1 b && signerOk fz (field 0x1AC8 1 b) key &&
  ecdsaOk (sha384 (b.take 0x1B30)) sg.r sg.s (BitVec.ofNat 768 (beNat key))

/-- The signature block of a boot configuration (R34, R274). -/
def bootSig (i : BootImage) : Bytes :=
  [0x47#8, 0x53#8, 0x49#8, 0x47#8] ++ leBytes 2 1 ++ leBytes 1 i.signer ++ leBytes 1 0 ++ leBytes 4 0x1B30 ++ leBytes 4 0 ++
  (leBytes 48 i.sigR.toNat).reverse ++ (leBytes 48 i.sigS.toNat).reverse ++ List.replicate 16 0

/-- A stored copy as the 7,088 bytes of R274. -/
def bootBytes (i : BootImage) : Bytes :=
  let head := [0x47#8, 0x42#8, 0x43#8, 0x46#8] ++ leBytes 2 1 ++ leBytes 2 1 ++ leBytes 4 7088 ++ List.replicate 48 0
  head ++ leBytes 4 (crc32c head).toNat ++ fenceBytes i.fence ++ leBytes 1 i.signer ++ List.replicate 7 0 ++
  (leBytes 96 i.key.toNat).reverse ++ bootSig i

/-- A copy from such bytes. -/
def readBoot (b : Bytes) : BootImage :=
  let sg := readSig 0x1B30 (slice 0x1B30 128 b)
  { fence := readFence (slice 0x40 6792 b), signer := field 0x1AC8 1 b, key := BitVec.ofNat 768 (beNat (slice 0x1AD0 96 b)),
    sigR := BitVec.ofNat 384 sg.r, sigS := BitVec.ofNat 384 sg.s }

/-- A boot configuration checked: the signature first, as reason 6 stands before reason 7 (R273, R274). -/
def checkBoot (fz : Fuses) (b : Bytes) : BootCheck :=
  if !bootSignatureOk fz b then .badSignature else if !bootFormatOk b then .badFormat else .ok (readBoot b)

/-- What boot code finds in a copy (R315): the verify result of R374, 0 when it verifies, and the fence set-up. -/
def verifyCopy (fz : Fuses) (readable : Bool) (copy : Option BootImage) : Nat × Option Fence :=
  match (if readable then copy else none) with
  | none => (1, none)
  | some i => match checkBoot fz (bootBytes i) with
    | .ok j => (0, some j.fence)
    | .badFormat => (2, none)
    | .badSignature => (3, none)

/-- The fence set-up when neither copy verifies (R315). -/
def failedFence : Fence :=
  { win := List.replicate 256 ⟨0, 0⟩, admin := List.replicate 4 ⟨0, 0⟩, links := 0, caps := List.replicate 4 1,
    power := 250, current := 60, interval := List.replicate 256 1000, keys := List.replicate 3 0, lock := true }

end Sys2Proof.Machine
end

