-- ==== Sys2Proof/Machine/Arith.lean ====
section
/-! DEFINITION. Number formats, rounding and saturation, FP32 arithmetic, block scales, tile products, exact distances
(R54 to R59, R152 to R161, R190). -/

namespace Sys2Proof.Machine

/-- A decoded number: not a number, an infinity, or ± m · 2^e exactly. -/
inductive Num where
  | nan
  | inf (neg : Bool)
  | fin (neg : Bool) (m : Nat) (e : Int)
deriving DecidableEq, Repr

/-- A floating-point layout (R152): exponent bits, mantissa bits, bias, and how the top exponent is used
(0 all finite, 1 NaN only as all ones, 2 as IEEE 754). -/
structure Fmt where
  eb : Nat
  mb : Nat
  bias : Nat
  top : Nat
deriving DecidableEq, Repr

def fp4 : Fmt := ⟨2, 1, 1, 0⟩
def e4m3 : Fmt := ⟨4, 3, 7, 1⟩
def e5m2 : Fmt := ⟨5, 2, 15, 2⟩
def bf16 : Fmt := ⟨8, 7, 127, 2⟩
def fp32 : Fmt := ⟨8, 23, 127, 2⟩

/-- The number a code stands for (R152). -/
def Fmt.decode (f : Fmt) (c : Nat) : Num :=
  let man := c % 2 ^ f.mb
  let ex := c / 2 ^ f.mb % 2 ^ f.eb
  let neg := bit (f.mb + f.eb) c
  let full := 2 ^ f.eb - 1
  if ex == full && f.top == 2 then (if man == 0 then .inf neg else .nan)
  else if ex == full && f.top == 1 && man == 2 ^ f.mb - 1 then .nan
  else if ex == 0 then .fin neg man (1 - (f.bias : Int) - f.mb)
  else .fin neg (2 ^ f.mb + man) ((ex : Int) - f.bias - f.mb)

/-- m · 2^s rounded to an integer, to nearest with ties to even (R153). -/
def rne (m : Nat) (s : Int) : Nat :=
  if 0 ≤ s then m * 2 ^ s.toNat
  else
    let d := 2 ^ (-s).toNat
    let q := m / d
    let r := m % d
    if 2 * r < d then q else if d < 2 * r then q + 1 else q + q % 2

/-- m · 2^e rounded to the precision of a layout, subnormals kept, range not yet limited: (n, q) for n · 2^q (R153). -/
def Fmt.rnd (f : Fmt) (m : Nat) (e : Int) : Nat × Int :=
  let emin : Int := 1 - (f.bias : Int)
  let q := max ((flog2 m : Int) + e) emin - f.mb
  let n := rne m (e - q)
  if n == 2 ^ (f.mb + 1) then (2 ^ f.mb, q + 1) else (n, q)

/-- The code of n · 2^q, already rounded and in range. -/
def Fmt.encode (f : Fmt) (neg : Bool) (n : Nat) (q : Int) : Nat :=
  let sgn := if neg then 2 ^ (f.mb + f.eb) else 0
  if n < 2 ^ f.mb then sgn + n
  else sgn + ((q + f.mb + f.bias).toNat) * 2 ^ f.mb + (n - 2 ^ f.mb)

/-- Code of the largest finite number: the end of the quantiser range of R152. -/
def Fmt.maxCode (f : Fmt) : Nat :=
  match f.top with
  | 0 => 2 ^ (f.eb + f.mb) - 1
  | 1 => 2 ^ (f.eb + f.mb) - 2
  | _ => 2 ^ (f.eb + f.mb) - 2 ^ f.mb - 1

/-- Conversion into a floating-point format (R153): the code, and 1 when the value saturated. -/
def Fmt.convert (f : Fmt) (x : Num) : Nat × Nat :=
  match x with
  | .nan => (0, 1)
  | .inf neg => ((if neg then 2 ^ (f.mb + f.eb) else 0) + f.maxCode, 1)
  | .fin neg m e =>
    let r := f.rnd m e
    let c := f.encode false r.1 r.2
    let sgn := if neg then 2 ^ (f.mb + f.eb) else 0
    if f.maxCode < c then (sgn + f.maxCode, 1) else (sgn + c, 0)

/-- Conversion into a two's complement integer format with quantiser range −lim .. lim (R152, R153). -/
def convertInt (lim : Nat) (x : Num) : Int × Nat :=
  match x with
  | .nan => (0, 1)
  | .inf neg => (if neg then -(lim : Int) else lim, 1)
  | .fin neg m e =>
    let n := rne m e
    if lim < n then (if neg then -(lim : Int) else lim, 1) else (if neg then -(n : Int) else n, 0)

/-- An FP32 code from an exact value, with IEEE 754 overflow to infinity (R161). -/
def toF32 (x : Num) : F32 :=
  match x with
  | .nan => 0x7FC00000#32
  | .inf neg => if neg then 0xFF800000#32 else 0x7F800000#32
  | .fin neg m e =>
    let r := fp32.rnd m e
    let c := fp32.encode false r.1 r.2
    let c' := if 0x7F800000 ≤ c then 0x7F800000 else c
    BitVec.ofNat 32 ((if neg then 2 ^ 31 else 0) + c')

/-- The number an FP32 code stands for. -/
def ofF32 (c : F32) : Num := fp32.decode c.toNat

/-- The FP32 value of a matrix-engine result at the drain, and 1 where it was not finite: an infinity becomes the largest value of its sign,
a NaN +0 (R153, R161). -/
def drainF (a : F32) : F32 × Nat :=
  match ofF32 a with
  | .nan => (0, 1)
  | .inf neg => (if neg then 0xFF7FFFFF#32 else 0x7F7FFFFF#32, 1)
  | .fin _ _ _ => (a, 0)

/-- The negative of a number. -/
def Num.neg : Num → Num
  | .nan => .nan
  | .inf n => .inf (!n)
  | .fin n m e => .fin (!n) m e

/-- A signed integer times 2^e; the zero takes the sign given. -/
def ofInt (z : Bool) (v : Int) (e : Int) : Num :=
  if v == 0 then .fin z 0 e else .fin (v < 0) v.natAbs e

/-- Signed significand. -/
def signed (neg : Bool) (m : Nat) : Int := if neg then -(m : Int) else m

/-- The exact sum; an exact zero is +0 unless both terms are −0. -/
def Num.add : Num → Num → Num
  | .nan, _ => .nan
  | _, .nan => .nan
  | .inf a, .inf b => if a == b then .inf a else .nan
  | .inf a, _ => .inf a
  | _, .inf b => .inf b
  | .fin a m e, .fin b n d =>
    let q := min e d
    ofInt (a && b) (signed a m * 2 ^ (e - q).toNat + signed b n * 2 ^ (d - q).toNat) q

/-- The exact product. -/
def Num.mul : Num → Num → Num
  | .nan, _ => .nan
  | _, .nan => .nan
  | .inf a, .inf b => .inf (a != b)
  | .inf a, .fin b n _ => if n == 0 then .nan else .inf (a != b)
  | .fin a m _, .inf b => if m == 0 then .nan else .inf (a != b)
  | .fin a m e, .fin b n d => .fin (a != b) (m * n) (e + d)

/-- FP32 addition, rounded to nearest even. -/
def addF (a b : F32) : F32 := toF32 ((ofF32 a).add (ofF32 b))

/-- FP32 subtraction. -/
def subF (a b : F32) : F32 := toF32 ((ofF32 a).add (ofF32 b).neg)

/-- FP32 multiplication. -/
def mulF (a b : F32) : F32 := toF32 ((ofF32 a).mul (ofF32 b))

/-- FP32 negation. -/
def negF (a : F32) : F32 := a ^^^ 0x80000000#32

/-- FP32 division, correctly rounded: 80 more bits of quotient and a sticky bit decide. -/
def divF (a b : F32) : F32 :=
  match ofF32 a, ofF32 b with
  | .nan, _ => 0x7FC00000#32
  | _, .nan => 0x7FC00000#32
  | .inf _, .inf _ => 0x7FC00000#32
  | .inf x, .fin y _ _ => toF32 (.inf (x != y))
  | .fin x _ _, .inf y => toF32 (.fin (x != y) 0 0)
  | .fin x m e, .fin y n d =>
    if n == 0 then (if m == 0 then 0x7FC00000#32 else toF32 (.inf (x != y)))
    else
      let q := m * 2 ^ 80 / n
      let st := if m * 2 ^ 80 % n == 0 then 0 else 1
      toF32 (.fin (x != y) (2 * q + st) (e - d - 81))

/-- Integer square root, from bit `fuel` downward. -/
def isqrt : Nat → Nat → Nat → Nat
  | 0, _, r => r
  | fuel + 1, n, r =>
    let t := r + 2 ^ fuel
    isqrt fuel n (if t * t ≤ n then t else r)

/-- FP32 square root, correctly rounded (R159). -/
def sqrtF (a : F32) : F32 :=
  match ofF32 a with
  | .nan => 0x7FC00000#32
  | .inf neg => if neg then 0x7FC00000#32 else a
  | .fin neg m e =>
    if m == 0 then a
    else if neg then 0x7FC00000#32
    else
      let odd := e % 2 != 0
      let m' := (if odd then 2 * m else m) * 2 ^ 60
      let e' := (if odd then e - 1 else e) - 60
      let r := isqrt 48 m' 0
      let st := if r * r == m' then 0 else 1
      toF32 (.fin false (2 * r + st) (e' / 2 - 1))

/-- FP32 value of p / q · 2^e: 80 more bits of quotient and a sticky bit decide. -/
def ratF (neg : Bool) (p q : Nat) (e : Int) : F32 :=
  toF32 (.fin neg (2 * (p * 2 ^ 80 / q) + (if p * 2 ^ 80 % q == 0 then 0 else 1)) (e - 81))

/-- ln 2 with 160 fraction bits. -/
def ln2Fix : Nat := 1013035739299659071135698605846798551586536899366

/-- e^r for r in 160 fraction bits, r < ln 2: Horner's scheme over n terms. -/
def expSeries (r : Nat) : Nat → Nat → Nat
  | 0, acc => acc
  | n + 1, acc => expSeries r n (2 ^ 160 + acc * r / ((n + 1) * 2 ^ 160))

/-- e^(± m · 2^e) as an integer and a power of two, for arguments below 128. -/
def expFix (neg : Bool) (m : Nat) (e : Int) : Nat × Int :=
  let x : Int := signed neg (if 0 ≤ e + 160 then m * 2 ^ (e + 160).toNat else m / 2 ^ (-(e + 160)).toNat)
  let k := x / ln2Fix
  (expSeries (x - k * ln2Fix).toNat 48 (2 ^ 160), k - 160)

/-- The exponential, rounded. -/
def expExact (neg : Bool) (m : Nat) (e : Int) : F32 :=
  if 128 ≤ rne m e then (if neg then 0 else 0x7F800000#32)
  else
    let r := expFix neg m e
    toF32 (.fin false r.1 r.2)

/-- The hyperbolic tangent, rounded: x − x³/3 below 2^−14, else from e^2|x|. -/
def tanhExact (neg : Bool) (m : Nat) (e : Int) : F32 :=
  if m == 0 then toF32 (.fin neg 0 0)
  else if 16 ≤ rne m e then toF32 (.fin neg 1 0)
  else if (flog2 m : Int) + e < -14 then ratF neg (3 * m * 2 ^ (-2 * e).toNat - m ^ 3) 3 (3 * e)
  else
    let r := expFix false m (e + 1)
    let a := r.1 * 2 ^ (r.2 + 160).toNat
    ratF neg (a - 2 ^ 160) (a + 2 ^ 160) 0

/-- The reciprocal square root of a positive value, rounded. -/
def rsqrtExact (m : Nat) (e : Int) : F32 :=
  let odd := e % 2 != 0
  let m' := if odd then 2 * m else m
  let e' := if odd then e - 1 else e
  toF32 (.fin false (2 * isqrt 101 (2 ^ 200 / m') 0 + 1) (-(e' / 2) - 101))

/-- A rounded value moved by at most 2 units in the last place, as the fixed polynomials of R168 may be off (log 9). -/
def nearUlp (fn : Nat) (x r : F32) : F32 :=
  let m := min 0x7F800000 (r.toNat % 2 ^ 31 + Config.ulpStep fn x % 5 - 2)
  BitVec.ofNat 32 (r.toNat / 2 ^ 31 * 2 ^ 31 + m)

/-- exp of R168. -/
def expF (x : F32) : F32 :=
  match ofF32 x with
  | .nan => 0x7FC00000#32
  | .inf neg => if neg then 0 else x
  | .fin neg m e => nearUlp 0 x (expExact neg m e)

/-- tanh of R168. -/
def tanhF (x : F32) : F32 :=
  match ofF32 x with
  | .nan => 0x7FC00000#32
  | .inf neg => toF32 (.fin neg 1 0)
  | .fin neg m e => nearUlp 1 x (tanhExact neg m e)

/-- The reciprocal square root of R168. -/
def rsqrtF (x : F32) : F32 :=
  match ofF32 x with
  | .nan => 0x7FC00000#32
  | .inf neg => if neg then 0x7FC00000#32 else 0
  | .fin neg m e => if m == 0 then toF32 (.inf neg) else if neg then 0x7FC00000#32 else nearUlp 2 x (rsqrtExact m e)

/-- Terms added two at a time until one is left: each choice picks a term and the term that it is added to. -/
def sumTerms : Nat → List Nat → List F32 → F32
  | 0, _, l => l.headD 0
  | k + 1, cs, l =>
    if l.length ≤ 1 then l.headD 0
    else
      let c := cs.headD 0
      let rest := l.eraseIdx (c % l.length)
      let j := c / l.length % rest.length
      sumTerms k cs.tail (rest.set j (addF (l.getD (c % l.length) 0) (rest.getD j 0)))

/-- A sum in FP32 in an order that only the number of terms fixes (log 10). -/
def sumF (l : List F32) : F32 := sumTerms l.length (Config.sumOrder l.length) l

/-- Order of FP32 values with −0 equal to +0 and NaN taken as +infinity (R96, R160): a key that compares as an integer. -/
def keyF (a : F32) : Int :=
  let m : Nat := a.toNat % 2 ^ 31
  if 0x7F800000 < m then 0x7F800000
  else if a.getLsbD 31 then -(m : Int) else m

/-- A NaN distance is written as +infinity (R161). -/
def noNan (a : F32) : F32 := if 0x7F800000 < a.toNat % 2 ^ 31 then 0x7F800000#32 else a

/-- True for an FP32 code that is neither an infinity nor a NaN. -/
def finiteF (a : F32) : Bool := a.toNat % 2 ^ 31 < 0x7F800000

/-- Bytes of an element in a storage format (R54, R36): INT8, FP8-E4M3 or BF16. -/
def elemSize (storage : Nat) : Nat := if storage == 8 then 2 else if storage == 0x10 then 4 else 1

/-- The value of a storage code: INT8 0x05, FP8-E4M3 0x06, BF16 0x08, and FP32 0x10 (R289). -/
def decodeElem (storage c : Nat) : Num :=
  if storage == 5 then ofInt false (if 128 ≤ c then (c : Int) - 256 else c) 0
  else if storage == 6 then e4m3.decode c
  else if storage == 7 then e5m2.decode c
  else if storage == 8 then bf16.decode c
  else fp32.decode c

/-- The elements of a stored vector (R54). -/
def elems (storage dims : Nat) (v : Bytes) : List Num :=
  (chunks (elemSize storage) dims v).map fun b => decodeElem storage (leNat b)

/-- True when no element is NaN or infinite (R54). -/
def allFinite (l : List Num) : Bool :=
  l.all fun x => match x with
    | .fin _ _ _ => true
    | _ => false

/-- Sum of FP32 terms in the fixed 16-lane pairwise order of R159. -/
def laneSum (ts : List F32) : F32 :=
  let n := roundUp 16 ts.length
  let ps := ts ++ List.replicate (n - ts.length) 0
  let rows := (List.range (n / 16)).map fun i => (ps.drop (16 * i)).take 16
  let s0 := rows.foldl (fun acc r => List.zipWith addF acc r) (List.replicate 16 0)
  let half := fun (w : Nat) (l : List F32) => List.zipWith addF (l.take w) (l.drop w)
  (half 1 (half 2 (half 4 (half 8 s0)))).getD 0 0

/-- L2 norm in FP32, lane order (R54, R57, R159). -/
def norm (x : List F32) : F32 := sqrtF (laneSum (x.map fun a => mulF a a))

/-- The elements as FP32 codes: every stored element converts exactly (R159). -/
def f32s (l : List Num) : List F32 := l.map toF32

/-- A vector divided by its norm, in FP32 (R56, R57, R159). -/
def normalise (x : List F32) : List F32 :=
  let n := norm x
  x.map fun a => divF a n

/-- FP32 values rounded to a storage format and packed (R57). -/
def packElems (storage : Nat) (l : List F32) : Bytes :=
  (l.map fun a =>
    if storage == 5 then leBytes 1 (((convertInt 127 (ofF32 a)).1 % 256).toNat)
    else if storage == 6 then leBytes 1 (e4m3.convert (ofF32 a)).1
    else if storage == 8 then leBytes 2 (bf16.convert (ofF32 a)).1
    else leBytes 4 a.toNat).flatten

/-- Saturations of that conversion (R153, R169). -/
def packSats (storage : Nat) (l : List F32) : Nat :=
  (l.map fun a =>
    if storage == 5 then (convertInt 127 (ofF32 a)).2
    else if storage == 6 then (e4m3.convert (ofF32 a)).2
    else if storage == 8 then (bf16.convert (ofF32 a)).2
    else 0).sum

/-- Exact distance under a metric (R56, R159): 0 squared L2, 1 inner product, 2 cosine. `q` is the query in FP32, or u of R56. -/
def exactDist (metric : Nat) (q x : List F32) : F32 :=
  let ts := List.zipWith (fun a b =>
    if metric == 0 then mulF (subF a b) (subF a b) else mulF a b) q x
  let s := laneSum ts
  if metric == 0 then s else if metric == 1 then negF s else subF 0x3F800000#32 s

/-- A row or column ready for the matrix engine (R155, R158): unscaled integers, blocks of 32 with a scale exponent
(element value = integer · 2^exponent), or plain floating-point elements. -/
inductive QRow where
  | ints (l : List Int)
  | blocks (l : List (Int × List Int))
  | plain (l : List Num)
deriving DecidableEq, Repr

/-- The largest finite magnitude of a block, as its floor(log2); none when all are zero (R156). -/
def blockLog (l : List Num) : Option Int :=
  l.foldl (fun acc x => match x with
    | .fin _ m e =>
      if m == 0 then acc else
        let g := (flog2 m : Int) + e
        some (match acc with
          | none => g
          | some h => max g h)
    | _ => acc) none

/-- One block of up to 32 values quantised under R156 into INT2, INT4, FP4 or scaled INT8, with its saturations. FP4
elements are kept doubled, which makes them integers. -/
def quantBlock (fmt : Nat) (l : List Num) : (Int × List Int) × Nat :=
  let emax : Int := if fmt == 2 then 0 else if fmt == 5 then 6 else 2
  let e : Int := match blockLog l with
    | none => -127
    | some g => max (-127) (min 127 (g - emax))
  let scaled := l.map fun x => x.mul (.fin false 1 (-e))
  if fmt == 4 then
    let cs := scaled.map fp4.convert
    ((e - 1, cs.map fun c => match fp4.decode c.1 with
      | .fin n m d => signed n (m * 2 ^ (d + 1).toNat)
      | _ => 0), (cs.map (·.2)).sum)
  else
    let lim := if fmt == 2 then 1 else if fmt == 3 then 7 else 127
    let cs := scaled.map (convertInt lim)
    ((e, cs.map (·.1)), (cs.map (·.2)).sum)

/-- The list cut into blocks of 32. -/
def blocks32 {α : Type} (l : List α) : List (List α) :=
  (List.range (cdiv l.length 32)).map fun i => (l.drop (32 * i)).take 32

/-- Values in a source format made into an operand of format `fmt` (R153, R155, R156): INT8 data stays unscaled INT8. -/
def quantRow (fmt : Nat) (fromInt8 : Bool) (l : List Num) : QRow × Nat :=
  if fmt == 5 && fromInt8 then (.ints (l.map fun x => (convertInt 128 x).1), 0)
  else if fmt ≤ 5 then
    let bs := (blocks32 l).map (quantBlock fmt)
    (.blocks (bs.map (·.1)), (bs.map (·.2)).sum)
  else
    let f := if fmt == 6 then e4m3 else if fmt == 7 then e5m2 else bf16
    let cs := l.map f.convert
    (.plain (cs.map fun c => f.decode c.1), (cs.map (·.2)).sum)

/-- Reduction elements of one pass (R158). -/
def passLen (fmt : Nat) : Nat :=
  if fmt == 8 then 512 else if fmt == 2 then 8192 else if fmt == 3 || fmt == 4 then 4096 else 2048

/-- The integer dot product of two rows. -/
def intDot (a b : List Int) : Int := (List.zipWith (· * ·) a b).sum

/-- Blocks of an operand: unscaled integers are blocks with exponent 0. -/
def QRow.asBlocks : QRow → List (Int × List Int)
  | .ints l => (blocks32 l).map fun b => (0, b)
  | .blocks l => l
  | .plain _ => []

/-- One pass of a tile element (R158). -/
def passDot (a b : QRow) : F32 :=
  match a, b with
  | .ints x, .ints y => toF32 (ofInt false (intDot x y) 0)
  | .plain x, .plain y => (List.zipWith Num.mul x y).foldl (fun acc t => toF32 ((ofF32 acc).add t)) 0
  | _, _ =>
    (List.zipWith (fun p q : Int × List Int => ofInt false (intDot p.2 q.2) (p.1 + q.1)) a.asBlocks b.asBlocks).foldl
      (fun acc t => toF32 ((ofF32 acc).add t)) 0

/-- The part of an operand that pass `i` of `n` elements takes. -/
def QRow.part (n i : Nat) : QRow → QRow
  | .ints l => .ints ((l.drop (n * i)).take n)
  | .blocks l => .blocks ((l.drop (n / 32 * i)).take (n / 32))
  | .plain l => .plain ((l.drop (n * i)).take n)

/-- A tile element over its whole reduction: passes added in FP32, ascending (R158). -/
def tileDot (fmt len : Nat) (a b : QRow) : F32 :=
  let n := passLen fmt
  ((List.range (cdiv len n)).map fun i => passDot (a.part n i) (b.part n i)).foldl
    (fun acc t => match acc with
      | none => some t
      | some s => some (addF s t)) (none : Option F32) |>.getD 0

/-- The SplitMix64 output for a state already advanced (R59, R187). -/
def splitMix (z0 : BitVec 64) : BitVec 64 :=
  let z1 := (z0 ^^^ (z0 >>> 30)) * 0xBF58476D1CE4E5B9#64
  let z2 := (z1 ^^^ (z1 >>> 27)) * 0x94D049BB133111EB#64
  z2 ^^^ (z2 >>> 31)

/-- Output number n of SplitMix64 started from a seed. -/
def splitMixAt (seed : BitVec 64) (n : Nat) : BitVec 64 :=
  splitMix (seed + 0x9E3779B97F4A7C15#64 * BitVec.ofNat 64 (n + 1))

/-- Row j of a projection as exact values (R59, R189). -/
def projNums (p : Proj) (dims j : Nat) : List Num :=
  match p with
  | .seed s => (List.range dims).map fun i =>
    let n := j * dims + i
    .fin (!((splitMixAt s (n / 64)).getLsbD (n % 64))) 1 0
  | .learned _ w => ((w.drop (j * dims)).take dims).map fun c => bf16.decode c.toNat

/-- The format in which a projection sketches (R58, R190): a seeded W, exact in every format, the stage's present one; a learned W the one it was
converted into. -/
def projFormat (now' : Nat) : Proj → Nat
  | .seed _ => now'
  | .learned fmt _ => fmt

/-- Results as they leave a tile, with the saturations of the drain (R161, R162). -/
def drainAll (l : List F32) : List F32 × Nat := (l.map fun a => (drainF a).1, (l.map fun a => (drainF a).2).sum)

/-- A row's result in a narrow format with its escape (R162, R163): the sums of a row operand against columns after the drain, the saturations of
the row's own quantisation, those of its escape and of the drain, and whether it escaped: when the row's saturations plus the tile's other
operand's exceed the threshold, the row is computed again in INT8. -/
def rowDots (fmt thr : Nat) (int8 : Bool) (x : List Num) (cols : List (List Num)) (colInt8 : Bool) :
    List F32 × Nat × Nat × Bool :=
  let r := quantRow fmt int8 x
  let cs := cols.map (quantRow fmt colInt8)
  let other := (cs.map (·.2)).sum
  let count := min 65535 (r.2 + other)
  if (fmt == 2 || fmt == 3 || fmt == 4) && thr < count then
    let r8 := quantRow 5 int8 x
    let d := drainAll (cols.map fun c => tileDot 5 x.length r8.1 (quantRow 5 colInt8 c).1)
    (d.1, r.2, r8.2 + d.2, true)
  else
    let d := drainAll (cs.map fun c => tileDot fmt x.length r.1 c.1)
    (d.1, r.2, d.2, false)

/-- A sketch from the row sums: bit j is 1 when row j is zero or positive (R58). -/
def sketchOf (ds : List F32) : Nat := ofBits (ds.map fun d => decide (0 ≤ keyF d))

/-- The sketch of a vector under a projection in its format (R58): sketch, saturations of the stage's own conversion, those of its escapes and
drains (R169), rows escaped. -/
def sketchVec (fmt0 thr bits dims : Nat) (p : Proj) (int8 : Bool) (x : List Num) : Nat × Nat × Nat × Nat :=
  let fmt := projFormat fmt0 p
  let groups := (List.range (cdiv bits 256)).map fun t =>
    rowDots fmt thr int8 x ((List.range (min 256 (bits - 256 * t))).map fun j => projNums p dims (256 * t + j))
      (match p with
        | .seed _ => true
        | .learned _ _ => false)
  (sketchOf (groups.map (·.1)).flatten, (groups.map (·.2.1)).foldl max 0, (groups.map (·.2.2.1)).sum,
    (groups.filter (·.2.2.2)).length)

/-- Centroid distance from the dot product (R160); a NaN is taken as +infinity. -/
def centroidDist (metric : Nat) (norm2 dot : F32) : F32 :=
  noNan (if metric == 0 then subF norm2 (mulF 0x40000000#32 dot) else negF dot)

/-- ‖c‖² of a stored centroid (R160). -/
def norm2Of (x : List F32) : F32 := laneSum (x.map fun a => mulF a a)

end Sys2Proof.Machine
end

