-- ==== Sys2Proof/Machine/Image.lean ====
section
/-! DEFINITION. The lattice image: its bytes (R31 to R34, R37), and the checks of R38 in their order (R39, R44, R157, R171,
R172, R300, R372, R373). -/

namespace Sys2Proof.Machine

/-- The header of R32. -/
structure ImgHead where
  version : Nat
  compat : Nat
  kind : Nat
  mask : Nat
  count : Nat
  length : Nat
  table : Nat
  sig : Nat
  id : Nat
  base : Nat
  tableCrc : Nat
  headCrc : Nat
deriving DecidableEq, Repr

/-- The header fields of an image. -/
def readHead (b : Bytes) : ImgHead :=
  { version := field 4 2 b, compat := field 6 2 b, kind := field 8 1 b, mask := field 9 1 b, count := field 10 2 b,
    length := field 12 4 b, table := field 16 4 b, sig := field 20 4 b, id := field 0x20 16 b, base := field 0x30 16 b,
    tableCrc := field 0x48 4 b, headCrc := field 0x7C 4 b }

/-- A section-table entry (R33). -/
structure Sec where
  typ : Nat
  off : Nat
  len : Nat
  count : Nat
  size : Nat
  crc : Nat
  zero : Bool
deriving DecidableEq, Repr

/-- One entry of the section table; `zero`: its reserved fields are zero. -/
def readSec (b : Bytes) : Sec :=
  { typ := field 0 2 b, off := field 4 4 b, len := field 8 4 b, count := field 12 4 b, size := field 16 2 b,
    crc := field 24 4 b, zero := field 2 2 b == 0 && allZero (slice 18 6 b) && field 28 4 b == 0 }

/-- The section table of an image. -/
def readTable (h : ImgHead) (b : Bytes) : List Sec :=
  (List.range h.count).map fun i => readSec (slice (h.table + 32 * i) 32 b)

/-- Record size of a section type (R37); 0 for MODELS; none for a type outside R29. -/
def recordSize (t : Nat) : Option Nat :=
  match t with
  | 1 => some 64
  | 2 => some 16
  | 3 => some 16
  | 4 => some 16
  | 5 => some 16
  | 6 => some 64
  | 7 => some 0
  | 8 => some 24
  | _ => none

/-- The bytes of a section. -/
def secBytes (b : Bytes) (s : Sec) : Bytes := slice s.off s.len b

/-- The section of a type, if the image holds one. -/
def findSec (t : Nat) (l : List Sec) : Option Sec := l.find? (·.typ == t)

/-- The records of a section of fixed record size; none when its geometry is broken (left to SECTION_BOUNDS). -/
def secRecords (b : Bytes) (t : Nat) (l : List Sec) : List Bytes :=
  match findSec t l, recordSize t with
  | some s, some n =>
    if n != 0 && s.size == n && s.len == s.count * n && s.off + s.len ≤ b.length then chunks n s.count (secBytes b s) else []
  | _, _ => []

/-- The whole records of a section of fixed record size n that lie in it, whatever its record_count and record_size say; a section is read
up to `lim`. R372 does not say which bytes of a section with a broken count, size or length are records: the model takes all whole records of the
length for types of fixed size, and those up to record_count for MODELS (DESIGN CHOICE, log 104). -/
def wholeRecords (b : Bytes) (lim n : Nat) (s : Sec) : List Bytes :=
  chunks n (min s.len (lim - s.off) / n) (slice s.off (min s.len (lim - s.off)) b)

/-- The MODELS records cut one after another: header of 32 bytes and 32 bytes a node (R37). -/
def cutModels : Nat → Bytes → List Bytes
  | 0, _ => []
  | n + 1, b =>
    let len := 32 + 32 * field 2 2 b
    slice 0 len b :: cutModels n (b.drop len)

/-- The MODELS records of an image; none when their lengths do not add up. -/
def modelRecords (b : Bytes) (l : List Sec) : List Bytes :=
  match findSec 7 l with
  | some s =>
    let rs := cutModels s.count (secBytes b s)
    if s.off + s.len ≤ b.length && (rs.map (·.length)).sum == s.len && rs.all (fun r => 32 ≤ r.length) then rs else []
  | none => []

/-- The whole MODELS records at the start of a section, up to `lim`. -/
def wholeModels (b : Bytes) (lim : Nat) (s : Sec) : List Bytes :=
  (cutModels (min s.count (min s.len (lim - s.off) / 32)) (slice s.off (min s.len (lim - s.off)) b)).takeWhile fun r =>
    r.length == 32 + 32 * field 2 2 r

def readFacet (r : Bytes) : FacetRec :=
  { facet := field 0 1 r, scratch := bit 0 (field 1 1 r), qpLimit := field 2 2 r, mask := field 4 16 r,
    hbm := field 20 2 r, stacked := field 22 2 r, flash := field 24 4 r, shares := field 28 2 r,
    indexLimit := field 30 1 r, modelLimit := field 31 1 r, drift := field 32 2 r, action := field 34 1 r }

def readRole (r : Bytes) : RoleRec := { block := field 0 2 r, roles := field 8 8 r }

def readRoute (r : Bytes) : RouteRec :=
  { facet := field 0 1 r, route := field 1 1 r, src := field 2 2 r, dst := field 4 2 r, bufClass := field 6 1 r,
    depth := field 7 1 r }

def readFormat (r : Bytes) : FormatRec :=
  { facet := field 0 1 r, stage := field 1 1 r, engine := field 2 2 r, operand := field 4 1 r, acc := field 5 1 r,
    threshold := field 6 2 r }

def readBudget (r : Bytes) : BudgetRec :=
  { facet := field 0 1 r, cls := field 1 1 r, engine := field 2 2 r, flash := field 4 2 r, deadline := field 6 2 r,
    hbmPm := field 8 2 r, flashPm := field 10 2 r }

def readGeometry (r : Bytes) : Geometry :=
  { facet := field 0 1 r, slot := field 1 1 r, mode := field 2 1 r, metric := field 3 1 r, storage := field 4 1 r,
    vertexSize := field 5 1 r, sketchBits := field 6 2 r, dims := field 8 2 r, coarse := field 10 2 r,
    fine := field 12 2 r, degree := field 14 1 r, sideLimit := field 16 4 r, maxVectors := field 24 8 r }

/-- An INDEXES record as bytes (R37), as IDENTIFY returns it (R270). -/
def geoBytes (g : Geometry) : Bytes :=
  leBytes 1 g.facet ++ leBytes 1 g.slot ++ leBytes 1 g.mode ++ leBytes 1 g.metric ++ leBytes 1 g.storage ++
  leBytes 1 g.vertexSize ++ leBytes 2 g.sketchBits ++ leBytes 2 g.dims ++ leBytes 2 g.coarse ++ leBytes 2 g.fine ++
  leBytes 1 g.degree ++ leBytes 1 0 ++ leBytes 4 g.sideLimit ++ leBytes 4 0 ++ leBytes 8 g.maxVectors ++
  List.replicate 32 0

def readNode (r : Bytes) : ModelNode :=
  { op := field 0 1 r, format := field 1 1 r, inA := field 2 2 r, inB := field 4 2 r,
    shape := [field 6 2 r, field 8 2 r, field 10 2 r, field 12 2 r], woff := field 14 8 r }

def readModel (r : Bytes) : ModelRec :=
  { facet := field 0 1 r, slot := field 1 1 r, weightBytes := field 4 8 r,
    nodes := (chunks 32 (field 2 2 r) (r.drop 32)).map readNode, raw := r }

def readTreeNode (r : Bytes) : TreeNode :=
  { node := field 0 2 r, parent := field 2 2 r, childCount := field 4 1 r, upLink := field 5 1 r,
    children := [field 6 2 r, field 8 2 r, field 10 2 r, field 12 2 r],
    links := [field 14 1 r, field 15 1 r, field 16 1 r, field 17 1 r] }

def readTree (rs : List Bytes) : Option Tree :=
  match rs with
  | [] => none
  | r :: rest => some { domain := field 0 4 r, count := field 4 2 r, own := field 6 2 r, nodes := rest.map readTreeNode }

/-- An image's records as a configuration (R37). -/
def readCfg (h : ImgHead) (b : Bytes) (l : List Sec) : ImageCfg :=
  { facets := (secRecords b 1 l).map readFacet, roles := (secRecords b 2 l).map readRole,
    routes := (secRecords b 3 l).map readRoute, formats := (secRecords b 4 l).map readFormat,
    budgets := (secRecords b 5 l).map readBudget, indexes := (secRecords b 6 l).map readGeometry,
    models := (modelRecords b l).map readModel, tree := readTree (secRecords b 8 l), id := h.id }

/-- Reserved fields zero and coded fields within their sets, record by record (R11, R37, R372). -/
def facetCoded (r : Bytes) : Bool :=
  field 1 1 r < 2 && field 34 1 r < 2 && allZero (slice 35 29 r)

def roleCoded (r : Bytes) : Bool := field 2 2 r == 0 && field 4 4 r == 0

/-- An engine kind of R37: 0x01 to 0x07 in bits [15:8]. -/
def kindOk (e : Nat) : Bool := 1 ≤ e / 256 && e / 256 ≤ 7

def routeCoded (r : Bytes) : Bool := kindOk (field 2 2 r) && kindOk (field 4 2 r) && allZero (slice 8 8 r)

def formatCoded (r : Bytes) : Bool :=
  field 1 1 r < 3 && kindOk (field 2 2 r) && 1 ≤ field 4 1 r && field 4 1 r ≤ 8 && field 5 1 r < 2 && allZero (slice 8 8 r)

def budgetCoded (r : Bytes) : Bool := field 1 1 r < 8 && allZero (slice 12 4 r)

def indexCoded (r : Bytes) : Bool :=
  field 2 1 r < 2 && field 3 1 r < 3 && [5, 6, 8].contains (field 4 1 r) && [0, 1, 2, 4].contains (field 5 1 r) &&
  [128, 256, 512].contains (field 6 2 r) && field 15 1 r == 0 && field 20 4 r == 0 && allZero (slice 32 32 r)

def nodeCoded (r : Bytes) : Bool := field 0 1 r < 7 && field 1 1 r ≤ 8 && allZero (slice 22 10 r)

def modelCoded (r : Bytes) : Bool :=
  allZero (slice 12 20 r) && (chunks 32 (field 2 2 r) (r.drop 32)).all nodeCoded

def treeCoded (rs : List Bytes) : Bool :=
  match rs with
  | [] => true
  | r :: rest => allZero (slice 8 16 r) && rest.all fun n => allZero (slice 18 6 n)

/-- The bytes of [lo, hi) that no listed piece covers are zero; pieces in rising order of offset. A piece beyond `hi` covers nothing. -/
def gapsZero (b : Bytes) : Nat → Nat → List (Nat × Nat) → Bool
  | lo, hi, [] => allZero (slice lo (hi - lo) b)
  | lo, hi, (o, n) :: ps => allZero (slice lo (min o hi - lo) b) && gapsZero b (max lo (min hi (o + n))) hi ps

/-- Reserved and coded fields of one section's records (R37, R372), each section of a type by itself. -/
def secCoded (b : Bytes) (lim : Nat) (s : Sec) : Bool :=
  let rs := fun (n : Nat) => wholeRecords b lim n s
  match s.typ with
  | 1 => (rs 64).all facetCoded
  | 2 => (rs 16).all roleCoded
  | 3 => (rs 16).all routeCoded
  | 4 => (rs 16).all formatCoded
  | 5 => (rs 16).all budgetCoded
  | 6 => (rs 64).all indexCoded
  | 7 => (wholeModels b lim s).all modelCoded
  | 8 => treeCoded (rs 24)
  | _ => true

/-- Check RESERVED_NONZERO of R38. -/
def reservedOk (h : ImgHead) (b : Bytes) (l : List Sec) : Bool :=
  let pieces := sortBy (fun p q => p.1 ≤ q.1) ((h.table, 32 * h.count) :: l.map fun s => (s.off, s.len))
  field 0x1A 2 b == 0 && allZero (slice 0x4C 48 b) && h.kind < 2 &&
  (if h.kind == 0 then h.mask == 0xFF && h.base == 0 else h.mask != 0 && h.mask != 0xFF) &&
  l.all (·.zero) && sigReserved (slice h.sig 128 b) && gapsZero b 128 h.sig pieces && l.all (secCoded b h.sig)

/-- Check SECTION_BOUNDS of R38. -/
def boundsOk (h : ImgHead) (b : Bytes) (l : List Sec) : Bool :=
  let tableEnd := h.table + 32 * h.count
  h.table % 64 == 0 && 128 ≤ h.table &&
  l.all (fun s => s.off % 64 == 0 && tableEnd ≤ s.off && s.off + s.len ≤ h.sig &&
    (match recordSize s.typ with
      | some n => s.size == n
      | none => true) &&
    (if s.size == 0 then
      (if s.typ == 7 then
        let rs := cutModels s.count (secBytes b s)
        (rs.map (·.length)).sum == s.len && rs.all (fun r => 32 ≤ r.length && r.length == 32 + 32 * field 2 2 r)
      else true)
    else s.len == s.count * s.size)) &&
  (l.zipIdx).all fun p => (l.zipIdx).all fun q =>
    p.2 == q.2 || p.1.off + p.1.len ≤ q.1.off || q.1.off + q.1.len ≤ p.1.off

/-- What validation reads besides the image: the active configuration, if there is one (`active`), partial images in its chain, link
enables, keys by key slot (0 the Coravaper key), created indexes, and facets in service or holding queue pairs or indexes. -/
structure VEnv where
  cfg : ImageCfg
  active : Bool
  chain : Nat
  links : Nat
  keys : List (BitVec 768)
  idx : List Geometry
  inUse : List Nat
deriving DecidableEq, Repr

/-- Region of a block (R37) and of a cell (R12). -/
def blockRegion (b : Nat) : Nat := b / 16

def cellBlock (c : Nat) : Nat := c / 32

/-- The blocks a FACETS record owns. -/
def FacetRec.blocks (f : FacetRec) : List Nat := (List.range 128).filter fun b => bit b f.mask

/-- The regions a facet holds a block in. -/
def FacetRec.regions (f : FacetRec) : List Nat := (List.range 8).filter fun r => f.mask / 2 ^ (16 * r) % 2 ^ 16 != 0

/-- The role of a cell under a configuration (R36, R37). -/
def ImageCfg.role (c : ImageCfg) (cell : Nat) : Option Nat :=
  (c.roles.find? (·.block == cellBlock cell)).map fun r => r.roles / 4 ^ (cell % 32) % 4

/-- The roles an index needs (R373). -/
def rolesNeeded (mode : Nat) : List Nat := if mode == 0 then [0, 2, 3] else [1, 2, 3, 0]

/-- The facet has a cell of the role, not counting the cells listed as out. -/
def ImageCfg.hasRole (c : ImageCfg) (f : FacetRec) (role : Nat) (out : Nat → Bool) : Bool :=
  f.blocks.any fun b => (List.range 32).any fun i => c.role (32 * b + i) == some role && !out (32 * b + i)

/-- Instances of an engine kind (R12, R37). -/
def kindCount (k : Nat) : Nat :=
  match k with
  | 1 => 32
  | 2 => 8
  | 3 => 8
  | 4 => 1
  | 5 => 64
  | 6 => 4
  | _ => 128

/-- The region an engine instance lies in; none for chip-level units and channel engines (log 18). -/
def engineRegion (e : Nat) : Option Nat :=
  match e / 256 with
  | 1 => some (e % 256 / 4)
  | 2 => some (e % 256)
  | 3 => some (e % 256)
  | 7 => some (blockRegion (e % 256))
  | _ => none

/-- ROUTES: instance exists, range of class and depth, engine in the facet's regions (0x0404; for the range DESIGN CHOICE, log 110). -/
def routeOk (c : ImageCfg) (r : RouteRec) : Bool :=
  let regs := ((c.facets.find? (·.facet == r.facet)).map (·.regions)).getD []
  let inReg := fun e => match engineRegion e with
    | some g => regs.contains g
    | none => true
  r.src % 256 < kindCount (r.src / 256) && r.dst % 256 < kindCount (r.dst / 256) && r.bufClass ≤ 7 &&
  2 ≤ r.depth && r.depth ≤ 64 && inReg r.src && inReg r.dst

/-- ROUTES: every record, no route twice, and no route feeding one of equal or lower buffer class. Only routes of one facet are compared
(DESIGN CHOICE, log 81). -/
def routesOk (c : ImageCfg) : Bool :=
  c.routes.all (routeOk c) && distinct (c.routes.map fun r => (r.facet, r.route)) &&
  c.routes.all fun a => c.routes.all fun b => !(a.facet == b.facet && a.dst == b.src && b.bufClass ≤ a.bufClass)

/-- Operand formats an engine kind accepts (R157). -/
def engineFormats (k : Nat) : List Nat :=
  if k == 2 then [2, 3, 4, 5, 6, 7, 8] else if k == 5 || k == 6 then [5, 6, 8] else if k == 7 then [1] else []

/-- Operand formats a stage accepts (R157). -/
def stageFormats (st : Nat) : List Nat :=
  if st == 0 then [2, 3, 4, 5, 6] else if st == 1 then [3, 5, 6, 8] else [2, 3, 4, 5, 6, 7, 8]

/-- A FORMATS record suits its engine and stage (R157); INT32 accumulates unscaled INT8 only, never in stage 2. An escape_threshold of 0
is outside its range, and 0x0405 too (DESIGN CHOICE, log 110). -/
def formatOk (r : FormatRec) : Bool :=
  r.engine % 256 < kindCount (r.engine / 256) && (engineFormats (r.engine / 256)).contains r.operand &&
  (stageFormats r.stage).contains r.operand && 1 ≤ r.threshold &&
  (r.acc == 1 || (r.operand == 5 && r.stage != 2 && r.engine / 256 == 2))

/-- BUDGETS: totals of one facet (0x0406). -/
def budgetsOk (c : ImageCfg) : Bool :=
  distinct (c.budgets.map fun b => (b.facet, b.cls)) &&
  c.facets.all fun f =>
    let bs := c.budgets.filter (·.facet == f.facet)
    (bs.map (·.engine)).sum ≤ 1024 && (bs.map (·.flash)).sum ≤ 1024 && (bs.map (·.hbmPm)).sum ≤ 1000 &&
    (bs.map (·.flashPm)).sum ≤ 1000

/-- Slot size of a list or side-list unit (R66). -/
def slotSize (g : Geometry) : Nat := 8 + roundUp 8 (g.dims * elemSize g.storage)

/-- INDEXES: geometry of one record (R39, R57, R66; 0x0407). -/
def geometryOk (f : FacetRec) (g : Geometry) : Bool :=
  g.slot < 16 && g.slot < f.indexLimit && 32 ≤ g.dims && g.dims ≤ 2048 && 1 ≤ g.sideLimit && g.sideLimit ≤ 67108864 &&
  1 ≤ g.maxVectors && g.maxVectors ≤ 2 ^ 40 && !(g.metric == 2 && g.storage == 5) &&
  (if g.mode == 0 then
    1 ≤ g.coarse && g.coarse ≤ 1024 && 1 ≤ g.fine && g.fine ≤ 1024 && g.coarse * g.fine ≤ 1048576 &&
    g.vertexSize == 0 && g.degree == 0 && slotSize g ≤ 4064
  else
    g.coarse == 0 && g.fine == 0 && g.vertexSize != 0 && 8 ≤ g.degree && g.degree ≤ 64 &&
    64 + g.dims * elemSize g.storage + 5 * g.degree ≤ 1024 * g.vertexSize)

/-- Bytes of one padded weight matrix with its scales (R174). -/
def matrixBytes (fmt k n : Nat) : Nat :=
  let kp := roundUp 32 k
  let np := roundUp 32 n
  let bits := if fmt == 2 then 2 else if fmt == 3 || fmt == 4 then 4 else if fmt == 8 then 16 else 8
  kp * np * bits / 8 + (if fmt == 2 || fmt == 3 || fmt == 4 then kp / 32 * np else 0)

/-- Bytes of an embedding table of `rows` rows (R172, R174): scales along the width. -/
def tableBytes (fmt rows width : Nat) : Nat :=
  let bits := if fmt == 3 || fmt == 4 then 4 else if fmt == 8 then 16 else 8
  rows * width * bits / 8 + (if fmt == 3 || fmt == 4 then rows * cdiv width 32 else 0)

/-- Bytes of a node's weights (R172, R174). -/
def ModelNode.weightLen (n : ModelNode) : Nat :=
  let s := fun i => n.shape.getD i 0
  match n.op with
  | 0 => matrixBytes n.format (s 0) (s 1) + (if s 2 == 1 then 4 * s 1 else 0)
  | 1 => 4 * matrixBytes n.format (s 0) (s 0) + 16 * s 0
  | 2 => 8 * s 0
  | 6 => tableBytes n.format (16 * s 1 + s 2 + s 3) (s 0)
  | _ => 0

/-- Width a node gives (R172). -/
def ModelNode.outWidth (n : ModelNode) : Nat := if n.op == 0 then n.shape.getD 1 0 else n.shape.getD 0 0

/-- Width a node takes on in_a (R172). -/
def ModelNode.inWidth (n : ModelNode) : Nat := n.shape.getD 0 0

/-- An input names a lower node of the width wanted (R171). -/
def inputOk (nodes : List ModelNode) (i name width : Nat) : Bool :=
  name < i && ((nodes[name]?).map (·.outWidth)).getD 0 == width

/-- One node against its operator's row (R171, R172). -/
def nodeOk (m : ModelRec) (i : Nat) (n : ModelNode) : Bool :=
  let s := fun j => n.shape.getD j 0
  let w16 := fun w => w % 16 == 0 && 1 ≤ w
  let seqOrNode := n.inA == 0xFFFE || inputOk m.nodes i n.inA n.inWidth
  let matFmt := 2 ≤ n.format && n.format ≤ 8
  let residual := n.inB == 0xFFFF || inputOk m.nodes i n.inB n.outWidth
  let lone := n.format == 0 && inputOk m.nodes i n.inA n.inWidth && n.inB == 0xFFFF
  let fits := n.woff + n.weightLen ≤ m.weightBytes
  let bare := n.woff == 2 ^ 64 - 1
  match n.op with
  | 0 => matFmt && w16 (s 0) && w16 (s 1) && s 2 < 2 && s 3 == 0 && seqOrNode && residual && fits
  | 1 => matFmt && w16 (s 0) && 1 ≤ s 1 && s 0 % s 1 == 0 && s 0 / s 1 % 16 == 0 && s 2 == 0 && s 3 == 0 && seqOrNode &&
      residual && fits
  | 2 => w16 (s 0) && 1 ≤ s 1 && s 1 ≤ 30 && s 2 == 0 && s 3 == 0 && lone && fits
  | 3 => w16 (s 0) && s 1 == 0 && s 2 == 0 && s 3 == 0 && lone && bare
  | 4 => w16 (s 0) && s 1 == 0 && s 2 == 0 && s 3 == 0 && lone && bare
  | 5 => w16 (s 0) && s 1 < 3 && s 2 == 0 && s 3 == 0 && lone && bare
  | _ => [5, 6, 7, 8, 3, 4].contains n.format && w16 (s 0) && s 2 ≤ 8192 && s 3 ≤ 2 && n.inA == 0xFFFE &&
      n.inB == 0xFFFF && fits

/-- MODELS: one record (0x0409). -/
def modelOk (f : FacetRec) (m : ModelRec) : Bool :=
  m.slot < 8 && m.slot < f.modelLimit && 1 ≤ m.nodes.length && m.nodes.length ≤ 4096 &&
  (m.nodes.zipIdx).all fun p => nodeOk m p.2 p.1

/-- The nodes under a node of the tree, to a depth of `fuel`. -/
def treeBelow (t : Tree) : Nat → Nat → List Nat
  | 0, _ => []
  | fuel + 1, n =>
    match t.nodes.find? (·.node == n) with
    | none => []
    | some r => n :: ((r.children.take r.childCount).map (treeBelow t fuel)).flatten

/-- Links a node uses: its up_link unless it is the root, and its child links. -/
def TreeNode.used (n : TreeNode) : List Nat :=
  (if n.parent == 0xFFFF then [] else [n.upLink]) ++ n.links.take n.childCount

/-- MERGE_TREE: a tree of node_count nodes whose records agree (R300; 0x040B). -/
def treeOk (t : Tree) : Bool :=
  let roots := t.nodes.filter (·.parent == 0xFFFF)
  1 ≤ t.count && t.count ≤ 1024 && t.nodes.length == t.count && distinct (t.nodes.map (·.node)) &&
  t.nodes.any (·.node == t.own) && roots.length == 1 &&
  t.nodes.all (fun n =>
    n.childCount ≤ 4 && n.used.length ≤ 4 && n.used.all (· < 4) && distinct n.used &&
    (if n.parent == 0xFFFF then n.upLink == 0xFF
     else t.nodes.any fun p => p.node == n.parent && (p.children.take p.childCount).contains n.node) &&
    (n.children.drop n.childCount).all (· == 0xFFFF) && (n.links.drop n.childCount).all (· == 0xFF) &&
    (n.children.take n.childCount).all fun c => t.nodes.any fun k => k.node == c && k.parent == n.node) &&
  (match roots with
    | r :: _ =>
      let all := treeBelow t (t.count + 1) r.node
      distinct all && all.length == t.count
    | [] => false)

/-- Facets that a partial image takes out: a block in its regions before the load and no record in it (R38, R44; log 79). -/
def droppedBy (old new : ImageCfg) (mask : Nat) : List Nat :=
  (old.facets.filter fun f => f.regions.any (fun g => bit g mask) && !new.facets.any (·.facet == f.facet)).map (·.facet)

/-- The configuration a partial image makes of the active one (R44). -/
def mergeCfg (old new : ImageCfg) (mask : Nat) (hasIdx hasModels : Bool) : ImageCfg :=
  let out := droppedBy old new mask
  let listed := fun f => out.contains f || new.facets.any (·.facet == f)
  let masked := fun (b : Nat) => bit (blockRegion b) mask
  { facets := old.facets.filter (fun f => !listed f.facet) ++ new.facets,
    roles := old.roles.filter (fun r => !masked r.block) ++ new.roles,
    routes := old.routes.filter (fun r => !listed r.facet) ++ new.routes,
    formats := old.formats.filter (fun r => !listed r.facet) ++ new.formats,
    budgets := old.budgets.filter (fun r => !listed r.facet) ++ new.budgets,
    indexes := if hasIdx then old.indexes.filter (fun r => !listed r.facet) ++ new.indexes
      else old.indexes.filter (fun r => !out.contains r.facet),
    models := if hasModels then old.models.filter (fun r => !listed r.facet) ++ new.models
      else old.models.filter (fun r => !out.contains r.facet),
    tree := old.tree, id := new.id }

/-- Blocks of a mask word inside and outside the masked regions. -/
def outsideMask (mask blocks : Nat) : List Nat :=
  (List.range 128).filter fun b => bit b blocks && !bit (blockRegion b) mask

def insideMask (mask blocks : Nat) : List Nat :=
  (List.range 128).filter fun b => bit b blocks && bit (blockRegion b) mask

/-- FACETS: ranges, one record a facet, one facet a block, every record's facet declared (0x0401). Only the image's own records are
compared; a block of an unlisted facet outside the mask is left to PARTIAL_SCOPE (DESIGN CHOICE, log 81). -/
def facetsOk (n : ImageCfg) : Bool :=
  let known := fun f => n.facets.any (·.facet == f)
  n.facets.all (fun f => f.facet < 64 && 1 ≤ f.qpLimit && f.qpLimit ≤ 255 && 1 ≤ f.shares && f.indexLimit ≤ 16 &&
    f.modelLimit ≤ 8) &&
  distinct (n.facets.map (·.facet)) && distinct ((n.facets.map (·.blocks)).flatten) &&
  n.routes.all (fun r => known r.facet) && n.formats.all (fun r => known r.facet) &&
  n.budgets.all (fun r => known r.facet) && n.indexes.all (fun r => known r.facet) && n.models.all (fun r => known r.facet)

/-- A role that an index of the facet needs has a cell (R373; 0x0403). -/
def rolesOk (h : ImgHead) (n whole : ImageCfg) : Bool :=
  n.roles.all (·.block < 128) && distinct (n.roles.map (·.block)) &&
  ((List.range 128).filter (fun b => h.kind == 0 || bit (blockRegion b) h.mask)).all
    (fun b => n.roles.any (·.block == b)) &&
  whole.facets.all fun f => (whole.indexes.filter (·.facet == f.facet)).all fun g =>
    (rolesNeeded g.mode).all fun r => whole.hasRole f r (fun _ => false)

/-- PARTIAL_SCOPE of R38 with R44. -/
def scopeOk (h : ImgHead) (old n : ImageCfg) : Bool :=
  n.roles.all (fun r => bit (blockRegion r.block) h.mask) &&
  n.facets.all fun f =>
    let before := ((old.facets.find? (·.facet == f.facet)).map (·.mask)).getD 0
    outsideMask h.mask f.mask == outsideMask h.mask before &&
    (insideMask h.mask f.mask != [] || insideMask h.mask before != [])

/-- FACET_IN_USE of R38: the facets in use that lose all their blocks. -/
def losers (h : ImgHead) (old n : ImageCfg) (inUse : List Nat) : List Nat :=
  if h.kind == 0 then inUse.filter fun f => !n.facets.any (·.facet == f)
  else (droppedBy old n h.mask).filter inUse.contains

/-- The checks of R38 on what an image sets, from FACET_INVALID to FACET_IN_USE, in order. GEOMETRY_CONFLICT looks at records that are
present, and a slot whose record an image leaves out is no conflict (DESIGN CHOICE, log 81). MODEL_TOO_LARGE tests the image's own MODELS records:
a partial image without the section may give a facet shares below the weight_bytes of a record it keeps (R5, R44; DESIGN CHOICE, log 103). Without an active configuration every
base_image_id differs from it (R40). -/
def semanticCode (v : VEnv) (h : ImgHead) (n : ImageCfg) (hasIdx hasModels : Bool) : Nat :=
  let whole := if h.kind == 0 then n else mergeCfg v.cfg n h.mask hasIdx hasModels
  let recOf := fun f => (n.facets.find? (·.facet == f)).getD ⟨0, false, 0, 0, 0, 0, 0, 0, 0, 0, 0, 0⟩
  let sum := fun (g : FacetRec → Nat) => (whole.facets.map g).sum
  let own := match n.tree with
    | some t => ((t.nodes.find? fun n : TreeNode => n.node == t.own).map TreeNode.used).getD []
    | none => []
  if !facetsOk n then 0x0401
  else if 736 < sum (·.hbm) || 704 < sum (·.stacked) || 24576 < sum (·.flash) then 0x0402
  else if !rolesOk h n whole then 0x0403
  else if !routesOk n then 0x0404
  else if !(n.formats.all formatOk && distinct (n.formats.map fun r => (r.facet, r.stage, r.engine))) then 0x0405
  else if !budgetsOk n then 0x0406
  else if !(n.indexes.all (fun g => geometryOk (recOf g.facet) g) && distinct (n.indexes.map fun g => (g.facet, g.slot)))
    then 0x0407
  else if n.indexes.any (fun g => v.idx.any fun c => c.facet == g.facet && c.slot == g.slot && c != g) then 0x0408
  else if !(n.models.all (fun m => modelOk (recOf m.facet) m) && distinct (n.models.map fun m => (m.facet, m.slot)))
    then 0x0409
  else if n.models.any (fun m =>
    let f := recOf m.facet
    f.hbm * 2 ^ 28 + f.stacked * 2 ^ 20 < m.weightBytes) then 0x040A
  else if h.kind == 0 && !((n.tree.map treeOk).getD false) then 0x040B
  else if own.any (fun k => !bit k v.links) then 0x040C
  else if h.kind == 1 && (!v.active || h.base != v.cfg.id) then 0x0501
  else if h.kind == 1 && !scopeOk h v.cfg n then 0x0502
  else if h.kind == 1 && 15 ≤ v.chain then 0x0503
  else if losers h v.cfg n v.inUse != [] then 0x0504
  else 0

/-- Validation of an image against R38: the code, and the configuration it would make active. A section table that ends past the image,
and a section that starts past it, are LENGTH; a table_offset that is misaligned or below 128 is SECTION_BOUNDS (DESIGN CHOICE,
log 81); a key_slot above 3 has no slot and is SIG_KEY (DESIGN CHOICE, log 110). -/
def validate (v : VEnv) (b : Bytes) : Nat × ImageCfg :=
  let h := readHead b
  let bad := fun code => (code, v.cfg)
  if b.length < 4 || slice 0 4 b != [0x47#8, 0x4C#8, 0x41#8, 0x54#8] then bad 0x0101
  else if b.length < 128 then bad 0x0105
  else if (crc32c (slice 0 0x7C b)).toNat != h.headCrc then bad 0x0102
  else if h.version != 1 || h.compat == 0 then bad 0x0103
  else if 1 < h.compat then bad 0x0104
  else if h.length != b.length || 2 ^ 24 < h.length || h.sig + 128 != h.length || h.length < h.table + 32 * h.count
    then bad 0x0105
  else
    let l := readTable h b
    let sg := readSig h.sig (slice h.sig 128 b)
    let key := v.keys.getD sg.keySlot 0
    if l.any (fun s => h.length ≤ s.off) then bad 0x0105
    else if !reservedOk h b l then bad 0x0106
    else if !sg.okForm then bad 0x0201
    else if key == 0 then bad 0x0202
    else if !ecdsaOk (sha384 (b.take h.sig)) sg.r sg.s key then bad 0x0203
    else if (crc32c (slice h.table (32 * h.count) b)).toNat != h.tableCrc then bad 0x0301
    else if !boundsOk h b l then bad 0x0302
    else if l.any (fun s => (crc32c (secBytes b s)).toNat != s.crc) then bad 0x0303
    else
      let typs := l.map (·.typ)
      let fence := fun t => 0xF0 ≤ t && t ≤ 0xFF
      if typs.any (fun t => !(1 ≤ t && t ≤ 8) && !fence t) || !distinct typs then bad 0x0304
      else if typs.any fence then bad 0x0305
      else if !([1, 2, 3, 4, 5].all typs.contains) || (h.kind == 0 && !([6, 8].all typs.contains)) ||
        (h.kind == 1 && typs.contains 8) then bad 0x0306
      else
        let n := readCfg h b l
        let code := semanticCode v h n (typs.contains 6) (typs.contains 7)
        if code != 0 then bad code
        else (0, if h.kind == 0 then n else mergeCfg v.cfg n h.mask (typs.contains 6) (typs.contains 7))

end Sys2Proof.Machine
end

