-- ==== Sys2Proof/Machine/Store.lean ====
section
/-! DEFINITION. What an index stores, read at an epoch, and the capacity charges (R51, R64 to R80, R140, R203). -/

namespace Sys2Proof.Machine

/-- Slots of a list unit or side-list unit (R66). -/
def perUnit (g : Geometry) : Nat := if slotSize g == 0 then 1 else 4064 / slotSize g

/-- Vertex records of a graph unit (R70). -/
def perGraphUnit (g : Geometry) : Nat := if g.vertexSize == 0 then 1 else 4 / g.vertexSize

/-- Bytes of a vector padded to 8 (R277, R281, R283). -/
def rowSize (g : Geometry) : Nat := roundUp 8 (g.dims * elemSize g.storage)

/-- Bytes of a query record (R281). -/
def queryRecSize (g : Geometry) : Nat := roundUp 32 (32 + g.dims * elemSize g.storage)

/-- Lists of a cluster index (R62). -/
def listCount (g : Geometry) : Nat := g.coarse * g.fine

/-- The newest copy of a list. -/
def curCopy (d : ListDir) : ListCopy := d.copies.headD ⟨0, 0, [], 0, 0⟩

/-- The directory entry of a list: an empty list when nothing was moved to it yet. -/
def listOf (ix : Index) (l : Nat) : ListDir := (ix.lists.find? (·.num == l)).getD ⟨l, none, none, []⟩

/-- The copy a query at epoch e reads (R142, R148). -/
def copyAt (d : ListDir) (e : Nat) : ListCopy := (d.copies.find? (·.pub ≤ e)).getD ⟨0, 0, [], 0, 0⟩

/-- A pending delete of a location at or below an epoch (R75). -/
def pendingAt (x : Facet) (slot : Nat) (l : Loc) (e : Nat) : Bool :=
  x.pend.any fun p => p.slot == slot && p.loc == l && p.epoch ≤ e && p.since ≤ e && p.till.all (e < ·)

/-- Positions of a list that are records at epoch e, with their positions (R75, R140). -/
def listRecords (x : Facet) (ix : Index) (l e : Nat) : List (Nat × Stored) :=
  ((copyAt (listOf ix l) e).pos.zipIdx).filterMap fun q =>
    if q.1.birth ≤ e && !q.1.tomb && !pendingAt x ix.geo.slot (.list l q.2) e then some (q.2, q.1.v) else none

/-- A side-list entry was moved at or before epoch e (R139, R140). -/
def movedAt (ix : Index) (app e : Nat) : Bool := ix.moves.any fun m => m.lo ≤ app && app < m.hi && m.em ≤ e

/-- Side-list entries that are records at epoch e, oldest first (R71, R140). -/
def sideRecords (x : Facet) (ix : Index) (e : Nat) : List SideEnt :=
  ix.side.filter fun s => s.epoch ≤ e && !s.void && !s.tomb && !movedAt ix s.app e &&
    !pendingAt x ix.geo.slot (.side s.app) e

/-- The node array a query at epoch e reads (R206). -/
def arrayAt (ix : Index) (e : Nat) : NodeArray := (ix.arrays.find? (·.pub ≤ e)).getD ⟨0, [], [], []⟩

/-- The newest node array. -/
def curArray (ix : Index) : NodeArray := ix.arrays.headD ⟨0, [], [], []⟩

/-- Published length of an array at an epoch (R207). -/
def lengthAt (a : NodeArray) (e : Nat) : Nat := ((a.lengths.find? (·.1 ≤ e)).map (·.2)).getD 0

/-- Entry set of an array at an epoch (R106). -/
def entriesAt (a : NodeArray) (e : Nat) : List Nat := ((a.entries.find? (·.1 ≤ e)).map (·.2)).getD []

/-- A node by its number. -/
def nodeOf (a : NodeArray) (n : Nat) : Option Node := a.nodes.find? (·.num == n)

/-- A node's neighbours at an epoch (R105). -/
def nbrsAt (n : Node) (e : Nat) : List Nat := ((n.nbrs.find? (·.1 ≤ e)).map (·.2.1)).getD []

/-- A node's sketch at an epoch, with its generation (R150). -/
def nodeSketchAt (n : Node) (e : Nat) : Nat × Nat := ((n.sketches.find? (·.1 ≤ e)).map (·.2)).getD (0, 0)

/-- A node is a live record at epoch e (R75, R115). -/
def nodeLive (x : Facet) (ix : Index) (n : Node) (e : Nat) : Bool :=
  n.birth ≤ e && !n.tomb && !n.reclaimed && !pendingAt x ix.geo.slot (.node n.num) e

/-- The number that a new node takes (R144): the one past the published length and past every node. -/
def nextNode (a : NodeArray) : Nat := a.nodes.foldl (fun m n => max m (n.num + 1)) (lengthAt a (2 ^ 48))

/-- The location of a live ID (R73). -/
def locate (ix : Index) (id : Nat) : Option Loc := (ix.map.find? (·.1 == id)).map (·.2)

/-- What lies at a location now. -/
def storedAt (ix : Index) (l : Loc) : Option Stored :=
  match l with
  | .list n p => ((curCopy (listOf ix n)).pos[p]?).map (·.v)
  | .side a => (ix.side.find? (·.app == a)).map (·.v)
  | .node n => (nodeOf (curArray ix) n).map (·.v)

/-- Side position of an append number (R71). -/
def sidePos (g : Geometry) (app : Nat) : Nat := if g.sideLimit == 0 then 0 else app % g.sideLimit

/-- A location as the 64-bit word of R73. -/
def locWord (g : Geometry) : Loc → Nat
  | .list l p => l * 2 ^ 24 + p
  | .side a => 2 ^ 62 + sidePos g a
  | .node n => 2 ^ 63 + n

/-- Positions or nodes of an index, live or tombstoned: N of R79. A reclaimed node's sketch record stays, tombstoned, until the
array is renumbered (R146). -/
def positions (ix : Index) : Nat :=
  if ix.geo.mode == 0 then (ix.lists.map fun d => (curCopy d).pos.length).sum else nextNode (curArray ix)

/-- Graph units in use: a unit is freed when every node of it has been reclaimed (R146). -/
def graphUnits (ix : Index) : List Nat :=
  nub (((curArray ix).nodes.filter fun n => !n.reclaimed).map fun n => n.num / perGraphUnit ix.geo)

/-- List or graph units: U of R79, ceil(n / p) for each list (R80). -/
def unitsOf (ix : Index) : Nat :=
  if ix.geo.mode == 0 then (ix.lists.map fun d => cdiv (curCopy d).pos.length (perUnit ix.geo)).sum else (graphUnits ix).length

/-- Side-list units in use: the units that hold side positions of appended, unreleased entries (R66, R80). -/
def sideUnits (g : Geometry) (head next : Nat) : Nat :=
  if next ≤ head then 0 else (next - 1) / perUnit g - head / perUnit g + 1

/-- The 8-byte ID word of a side-list entry (R149). -/
def sideWord (e : SideEnt) : Nat := e.v.id % 2 ^ 40 + 2 ^ 40 * (e.gen % 256)

/-- The generation that a side-list entry's ID word names, among those the index holds (R149). -/
def sideGen (ix : Index) (e : SideEnt) : Nat := ((ix.projs.map (·.1)).find? fun g => g % 256 == sideWord e / 2 ^ 40).getD e.gen

/-- A list's 32-byte directory entry (R68): HBM base, length, sketch generation, base of its page map. -/
def dirEntry (c : ListCopy) : Bytes := leBytes 8 c.base ++ leBytes 4 c.pos.length ++ leBytes 4 c.gen ++ leBytes 8 c.mapBase ++ List.replicate 8 0

/-- The tombstone array of a list copy, one bit per position (R68). -/
def tombBits (c : ListCopy) : Bytes := leBytes (cdiv c.pos.length 8) (ofBits (c.pos.map (·.tomb)))

/-- A retired frame that nothing has replaced lies within 2 GiB of an address, more than a list takes (R64, R320). -/
def retiredNear (s : State) (base : Nat) : Bool :=
  s.mem.retired.any fun p => !s.mem.moved.any (·.1 == p) && base / 65536 ≤ p.2 && p.2 < base / 65536 + 2 ^ 15

/-- The first address from one on, in steps of 2 GiB, without such a frame: a retired frame is never used again (R320). -/
def soundBase (s : State) : Nat → Nat → Nat
  | 0, b => b
  | n + 1, b => if retiredNear s b then soundBase s n (b + 2 ^ 31) else b

/-- The bases firmware gives a new copy of a list (R68, R197). -/
def newBases (s : State) (l : Nat) : Nat × Nat :=
  (soundBase s (s.mem.retired.length + 1) (64 * ((Config.hbmBase s.free l).1 % 2 ^ 42)), 8 * ((Config.hbmBase s.free l).2 % 2 ^ 45))

/-- Next append number of an index. -/
def nextApp (ix : Index) : Nat := ((ix.side.getLast?).map fun s => s.app + 1).getD ix.committed

/-- HBM charged for an index, in eighths of a byte (R79). -/
def chargeEighths (g : Geometry) (n u : Nat) : Nat :=
  let sk := g.sketchBits
  let proj := 8 * (2 * sk * g.dims * 2)
  if g.mode == 0 then
    n * (sk + 65) + 64 * u + 256 * listCount g + 8 * ((g.coarse + listCount g) * (g.dims * elemSize g.storage + 4)) +
    g.sideLimit * (sk + 129) + proj
  else n * (sk + 65) + 64 * u + g.sideLimit * (sk + 129) + proj + 8 * 524288

/-- Indexes of a facet. -/
def idxsOf (s : State) (f : Nat) : List Index := s.idx.filter (·.geo.facet == f)

/-- Bytes of the adapter of a slot (R191). -/
def ModelSlot.adapterBytes (m : ModelSlot) : Nat := 2 * m.adapter.length

/-- HBM bytes charged to a facet (R79): indexes, 4 GiB with at least one index, loaded weights and adapters outside the
stacked share, and what a teardown has still to zero (R236). Old list copies and node arrays that stay for older queries until the floor epoch are not counted in N or U (DESIGN CHOICE,
log 86). -/
def hbmCharged (s : State) (f : Nat) : Nat :=
  let is := idxsOf s f
  cdiv ((is.map fun i => chargeEighths i.geo (positions i) (unitsOf i)).sum) 8 +
  (if is.isEmpty then 0 else 2 ^ 32) +
  ((s.mods.filter (·.facet == f)).map fun m => m.weights.length + m.adapterBytes - m.stackedBytes).sum + (facetOf s f).scrubHbm

/-- Flash bytes charged to a facet (R80, R278). Superseded list and graph units that stay until the floor epoch are not units in use (DESIGN
CHOICE, log 86). -/
def flashCharged (s : State) (f : Nat) : Nat :=
  ((idxsOf s f).map fun i => 4096 * (unitsOf i + sideUnits i.geo i.head (nextApp i))).sum +
  ((s.mods.filter (·.facet == f)).map fun m => m.weights.length).sum + (facetOf s f).droppedFlash

/-- A facet's shares in bytes (R37). -/
def hbmShare (s : State) (f : Nat) : Nat := ((facetRec s f).map fun r => r.hbm * 2 ^ 28).getD 0

def flashShare (s : State) (f : Nat) : Nat := ((facetRec s f).map fun r => r.flash * 2 ^ 30).getD 0

def stackedShare (s : State) (f : Nat) : Nat := ((facetRec s f).map fun r => r.stacked * 2 ^ 20).getD 0

def hbmFree (s : State) (f : Nat) : Nat := hbmShare s f - hbmCharged s f

def flashFree (s : State) (f : Nat) : Nat := flashShare s f - flashCharged s f

/-- Stacked memory of a facet used by weights that overflow HBM (R175). -/
def stackedUsed (s : State) (f : Nat) : Nat := ((s.mods.filter (·.facet == f)).map (·.stackedBytes)).sum

def stackedFree (s : State) (f : Nat) : Nat := stackedShare s f - stackedUsed s f

/-- The largest number of live regions a facet holds blocks in (R12, R17). -/
def liveRegions (s : State) (f : Nat) : List Nat :=
  (((facetRec s f).map FacetRec.regions).getD []).filter fun r => !s.srch.regionsOut.contains r

/-- Every region of a facet is fenced: no engine can take its ENCODEs and TRAINs (R17, R267). -/
def noRegion (s : State) (f : Nat) : Bool :=
  (facetRec s f).any fun r => !r.regions.isEmpty && r.regions.all s.srch.regionsOut.contains

/-- An index that commands may name: created and not dropped (R50, R278). -/
def usableIdx (s : State) (f slot : Nat) : Option Index :=
  match idxOf s f slot with
  | some ix => if ix.dropping.isNone then some ix else none
  | none => none

/-- Channel, die and plane of unit u of a structure (R203): a list starts at its own b_L and d_L, everything else at 0. -/
def unitPlace (b d u : Nat) : Nat × Nat × Nat := ((b + u) % 64, (d + u / 64) % 4, u / 256 % 4)

/-- The facet's epoch that a write committed or change published now carries (R77). -/
def commitEpoch (x : Facet) : Nat := x.epoch + 1

/-- Pending deletes as the table of R74 counts them: each delete once. -/
def pendCount (x : Facet) : Nat := (x.pend.filter (·.since == 0)).length

/-- Something of the facet committed or was published in this step (R77). -/
def markChanged (f : Nat) (s : State) : State := updFacet f (fun x => { x with changed := true }) s

/-- Key under which a model slot's weights lie in HBM, which is no index's (R194; log 13). -/
def modelKey : Nat := 2 ^ 23 + 5

/-- What memory keeps of structures that p selects: copies with their slices, list sizes and block checks. A model slot's count by their facet. -/
def keepMem (p : Nat → Nat → Bool) (m : Mem) : Mem :=
  { m with
    copies := m.copies.filter (fun c => p c.1 c.2.1), slices := m.slices.filter (fun c => p c.1.1 c.1.2.1),
    listBytes := m.listBytes.filter (fun c => p c.1.1 c.1.2.1), checks := m.checks.filter fun c => p c.1.1 (if c.1.2.2.1 == modelKey then 255 else c.1.2.1) }

/-- Words of the map cache: 4 GiB of 8 bytes (R73). -/
def cacheWords : Nat := 536870912

/-- An ID's location word brought into the cache (R73). -/
def cacheId (id : Nat) (l : List Nat) : List Nat := nub (l ++ [id])

/-- n words let go from the cache of a facet's indexes, an index's oldest words first (R73; log 23). -/
def trimWords (f : Nat) : Nat → List Index → List Index
  | _, [] => []
  | n, ix :: l =>
    if ix.geo.facet == f then { ix with cached := ix.cached.drop n } :: trimWords f (n - ix.cached.length) l else ix :: trimWords f n l

/-- A facet's one cache of 4 GiB holds the words of all its indexes: what is past it goes (R73; log 23). -/
def trimCache (f : Nat) (s : State) : State :=
  { s with idx := trimWords f (((idxsOf s f).map (·.cached.length)).sum - cacheWords) s.idx }

/-- A map entry set (R73), its location word now in the cache. -/
def mapSet (id : Nat) (l : Loc) (ix : Index) : Index :=
  { ix with map := put id l ix.map, cached := cacheId id ix.cached }

/-- A map entry removed. -/
def mapDel (id : Nat) (ix : Index) : Index :=
  { ix with map := ix.map.filter (·.1 != id), cached := cacheId id ix.cached }

/-- Normalised or as sent: the bytes stored for a vector (R57). -/
def storeVec (g : Geometry) (v : Bytes) : Bytes :=
  if g.metric == 2 then packElems g.storage (normalise (f32s (elems g.storage g.dims v))) else v

/-- The vector is one the module accepts (R54). -/
def vecOk (g : Geometry) (v : Bytes) : Bool :=
  let x := elems g.storage g.dims v
  allFinite x && (g.metric != 2 ||
    (let n := norm (f32s x)
     finiteF n && keyF n != 0))

/-- Operand format and escape threshold of a facet's stage: the FORMATS record of the lowest engine (log 22); the given
format with the escape disabled where the image holds none. -/
def stageFormat (s : State) (f st dflt : Nat) : Nat × Nat :=
  match sortBy (fun a b : FormatRec => a.engine ≤ b.engine) (s.cfg.formats.filter fun r => r.facet == f && r.stage == st) with
  | r :: _ => (r.operand, r.threshold)
  | [] => (dflt, 65535)

/-- The projection of a generation. -/
def projOf (ix : Index) (gen : Nat) : Proj := look (.seed 0) gen ix.projs

/-- The escape threshold of a facet's stage on an engine (R163, R172): its FORMATS record's, else that of the stage's lowest engine. -/
def stageThr (s : State) (f st e : Nat) : Nat :=
  ((s.cfg.formats.find? fun r => r.facet == f && r.stage == st && r.engine == 0x200 + e).map (·.threshold)).getD (stageFormat s f st 0).2

/-- Sketch (R58) of stored bytes under a generation on an engine, whose own escape threshold holds there (R163), with the saturations of its
conversion, those of escapes and drains, and escaped rows. -/
def sketchOn (e : Nat) (s : State) (ix : Index) (gen : Nat) (v : Bytes) : Nat × Nat × Nat × Nat :=
  sketchVec (stageFormat s ix.geo.facet 1 ix.geo.storage).1 (stageThr s ix.geo.facet 1 e) ix.geo.sketchBits ix.geo.dims (projOf ix gen)
    (ix.geo.storage == 5) (elems ix.geo.storage ix.geo.dims v)

/-- The engine that sketches what a command stores: one of the facet's live regions (R12, R164; log 41). -/
def sketchEngine (s : State) (f : Nat) : Nat :=
  let rs := liveRegions s f
  rs.getD (Config.unitChoice s.free % max 1 rs.length) 0

/-- The engine that takes the sketches of work in progress on an index: the one chosen when it began (log 46). -/
def workEngine (s : State) (ix : Index) : Nat := (ix.work.map (·.engine)).getD (sketchEngine s ix.geo.facet)

/-- Sketch of stored bytes under a generation, on that engine. -/
def sketchUnder (s : State) (ix : Index) (gen : Nat) (v : Bytes) : Nat × Nat × Nat × Nat := sketchOn (workEngine s ix) s ix gen v

/-- The format of the rows of a generation's sketches (R157, R190). -/
def sketchFormat (s : State) (ix : Index) (gen : Nat) : Nat := projFormat (stageFormat s ix.geo.facet 1 ix.geo.storage).1 (projOf ix gen)

/-- Tile passes for 256 rows of sketches under a generation: 256 columns and one pass of the reduction each (R58, R158). -/
def sketchPasses (s : State) (ix : Index) (gen : Nat) : Nat := cdiv ix.geo.sketchBits 256 * cdiv ix.geo.dims (passLen (sketchFormat s ix gen))

end Sys2Proof.Machine
end

