-- ==== Sys2Proof/Machine/Grant.lean ====
section
/-! DEFINITION. Credit and grants (R221 to R226), and which classes may be granted at all (R261, R318, R345). -/

namespace Sys2Proof.Machine

/-- Unit number of a matrix engine in the credit tables; cells are numbered as themselves. -/
def unitEngine (e : Nat) : Nat := 5000 + e

/-- Unit numbers of the other units of R221: region merge units, the chip merge unit, stream engines, ingest/compaction engines. -/
def unitMerge (r : Nat) : Nat := 5100 + r

def unitChip : Nat := 5200

def unitStream (i : Nat) : Nat := 5300 + i

def unitIngest (i : Nat) : Nat := 5400 + i

/-- The group of facets entitled to a unit other than a cell (R12, R221): those of its region, or 8 for a chip-level unit. -/
def unitGroup (u : Nat) : Nat :=
  if u < 5100 then u - 5000 else if u < 5200 then u - 5100 else if 5300 ≤ u && u < 5400 then (u - 5300) / 4 else 8

/-- Unit number of a flash channel. -/
def unitChannel (ch : Nat) : Nat := 6000 + ch

/-- A facet's share of a shared unit as a fraction, recomputed at turn boundaries (R221): regions 0 to 7, and 8 for
chip-level units and channels. -/
def weightOf (s : State) (g f : Nat) : Nat × Nat := look (0, 1) (g, f) s.srch.weights

/-- Scheduling shares of a facet (R37). -/
def sharesOf (s : State) (f : Nat) : Nat := ((facetRec s f).map (·.shares)).getD 0

/-- A facet owns a block (R37). -/
def ownsBlock (s : State) (f b : Nat) : Bool := ((facetRec s f).map fun r => bit b r.mask).getD false

/-- The weights of a turn (R221): region-level units among the owners of a block there, chip-level units among the ACTIVE,
FROZEN and DESTROYING facets. -/
def turnWeights (s : State) : List ((Nat × Nat) × (Nat × Nat)) :=
  let fs := s.cfg.facets
  let held := fs.filter fun r => (facetOf s r.facet).state != 0
  let group := fun (g : Nat) (l : List FacetRec) => l.map fun r => ((g, r.facet), (r.shares, (l.map (·.shares)).sum))
  ((List.range 8).map fun g => group g (fs.filter fun r => r.regions.contains g)).flatten ++ group 8 held

/-- Which blocks each facet owns, for the cells' weights of a turn (R221). -/
def turnMasks (s : State) : List (Nat × Nat) := s.cfg.facets.map fun r => (r.facet, r.mask)

/-- The BUDGETS record of a facet and class. -/
def budgetOf (s : State) (f cls : Nat) : BudgetRec :=
  (s.cfg.budgets.find? fun b => b.facet == f && b.cls == cls).getD ⟨f, cls, 0, 0, 0, 0, 0⟩

/-- Budget of a facet and class as the running turn's credit was set from it (R221). -/
def turnBudget (s : State) (f cls : Nat) : BudgetRec :=
  (s.srch.budgets.find? fun b => b.facet == f && b.cls == cls).getD ⟨f, cls, 0, 0, 0, 0, 0⟩

/-- Allotment of a unit to a facet and class for a turn (R221): what the image and the weights gave when the turn began. -/
def allotment (s : State) (u f cls : Nat) : Nat :=
  let b := turnBudget s f cls
  if u < 4096 then (if bit (cellBlock u) (look 0 f s.srch.masks) then b.engine else 0)
  else if u < 6000 then
    let w := weightOf s (unitGroup u) f
    b.engine * w.1 / w.2
  else
    let w := weightOf s 8 f
    b.flash * w.1 / w.2

/-- Credit left: the allotment less debt carried and ticks spent in this turn. -/
def creditOf (s : State) (u f cls : Nat) : Nat :=
  allotment s u f cls - look 0 (u, f, cls) s.srch.debt - look 0 (u, f, cls) s.srch.spent

/-- A class holds at least one tick of credit on a unit (R223). -/
def holdsCredit (s : State) (u f cls : Nat) : Bool := 1 ≤ creditOf s u f cls

/-- Work on a unit that runs to its end once it has started (R225): matrix-engine tiles and what a flash channel does. A cell and the other
engines stop at a record or run boundary. -/
def runsToEnd (u : Nat) : Bool := (5000 ≤ u && u < 5100) || 6000 ≤ u

/-- Borrowed grants are withheld: by the power brake, or by the acting limiter (R318, R345). -/
def withheld (s : State) : Bool := braked s || s.brd.limiter

/-- Ticks of a charge that the class's own credit carries: none of a borrowed grant, all of work that runs to its end, and of other work
what credit is left, past which it goes on as a borrowed grant, if one may be made (R223, R225, R226, R345). -/
def ownTicks (s : State) (u f cls ticks : Nat) (borrowed : Bool) : Nat :=
  if borrowed then 0 else if runsToEnd u || withheld s then ticks else min ticks (creditOf s u f cls)

/-- Ticks charged to a class on a unit (R222 to R226), and to the facet's share of the turn's energy (R237): borrowed ticks go to the
borrowed counter, the others take credit and their excess is counted as debt. Work of no facet is charged to none. -/
def charge (u f cls ticks : Nat) (borrowed : Bool) (s : State) : State :=
  if ticks == 0 || 64 ≤ f then s
  else
    let isFlash := 6000 ≤ u
    let own := ownTicks s u f cls ticks borrowed
    let had := creditOf s u f cls
    let s0 := { s with srch := { s.srch with
      turnTicks := s.srch.turnTicks.bump f ticks, spent := put (u, f, cls) (look 0 (u, f, cls) s.srch.spent + own) s.srch.spent } }
    bump f (kSch cls (if isFlash then 3 else 1)) (ticks - own) <| bump f (kSch cls (if isFlash then 2 else 0)) own <|
      bump f (kSch cls 4) (own - had) s0

/-- Work on a unit whose ticks no rule counts (R219, R221, R222; log 41). -/
def chargeFree (u f cls : Nat) (s : State) : State :=
  useFree (charge u f cls (Config.workTicks s.free u) (!holdsCredit s u f cls) s)

/-- Ticks of products on an engine, tile by tile of 20 ticks: the tiles that find a tick of credit are charged to it, the others are borrowed (R223,
R225, R226). -/
def chargeTiles (e f cls ticks : Nat) (s : State) : State :=
  let u := unitEngine e
  let k := if withheld s then ticks else min ticks (20 * cdiv (creditOf s u f cls) 20)
  charge u f cls (ticks - k) true (charge u f cls k false s)

/-- Products whose ticks no rule counts, charged on the engines of the facet's live regions: an optimiser step, a sentinel shadow (R166,
R182, R222; log 41). -/
def chargeWork (f cls : Nat) (s : State) : State :=
  (liveRegions s f).foldl (fun t e => chargeTiles e f cls (Config.workTicks s.free e) t) s

/-- Bytes a resource moves in a turn (R210): HBM stacks 0 to 7, stacked slices 8 to 15, flash channels from 16. -/
def turnBytes (r : Nat) : Nat := if r < 8 then 125440000 else if r < 16 then 307200000 else 245760

/-- What a hot HBM stack divides byte credit by (R326): 2 while it throttles, 8 (12.5 %) while it is critical. -/
def stackHeat (s : State) (r : Nat) : Nat :=
  if 8 ≤ r then 1
  else match s.brd.thermal.getD r 0 with
    | 3 => 8
    | 2 => 2
    | _ => 1

/-- Byte credit of a facet and class on a resource for a turn (R210, R326): a stack or slice takes the weight of its paired region's
units, a channel that of a chip-level unit. -/
def byteCredit (s : State) (r f cls : Nat) : Nat :=
  let b := turnBudget s f cls
  let w := weightOf s (if r < 16 then r % 8 else 8) f
  (if r < 16 then b.hbmPm else b.flashPm) * turnBytes r * w.1 / (1000 * w.2) / stackHeat s r

/-- A class holds byte credit on a resource: its next grant of the turn would not be borrowed (R210, R211). -/
def holdsBytes (s : State) (r f cls : Nat) : Bool := look 0 (r, f, cls) s.srch.bytes < byteCredit s r f cls

/-- A class's work on n grants of some bytes may begin on its credit (R210, R211): the first grant finds credit, and where none may be borrowed for
the others, all of them do. -/
def bytesFit (s : State) (r f cls n size : Nat) : Bool :=
  n == 0 || (if withheld s then look 0 (r, f, cls) s.srch.bytes + (n - 1) * size < byteCredit s r f cls else holdsBytes s r f cls)

/-- n grants of some bytes each on a resource (R211): those that find credit spend it, the others are borrowed and counted by kind of
resource (R218). Where none may be borrowed, work that was granted on its credit ends on it (R345). -/
def takeBytes (r f cls n size : Nat) (s : State) : State :=
  let used := look 0 (r, f, cls) s.srch.bytes
  let k := if withheld s then n else min n (cdiv (byteCredit s r f cls - used) size)
  if n == 0 then s
  else bump f (kFct (if r < 8 then 5 else if r < 16 then 6 else 7)) (n - k)
    { s with srch := { s.srch with bytes := put (r, f, cls) (used + k * size) s.srch.bytes } }

/-- Grants that were borrowed when they were made, counted by kind of resource (R211, R218). -/
def takeBorrowed (r f n : Nat) (s : State) : State := bump f (kFct (if r < 8 then 5 else if r < 16 then 6 else 7)) n s

/-- The read is charged to its class's budget: the query's or command's class, TRAIN for mining (R219, R224). -/
def readClass (s : State) (r : Read) : Nat :=
  match r.purpose with
  | .rerank x _ => ((queryOf s x).map fun q => q.cls % 8).getD r.cls
  | .vertex x _ => ((queryOf s x).map fun q => q.cls % 8).getD r.cls
  | .mine _ _ => 6
  | _ => r.cls

/-- Flash ticks and bytes that a class's work in service on a channel will be charged: 18 ticks and a unit for a read, and for a segment the 63
ticks that it may come to (R224, R226; log 67). -/
def inService (s : State) (ch f cls : Nat) : Nat × Nat :=
  let ds := s.flash.dies.filter (·.channel == ch)
  let reads := (ds.map fun d => (d.reads.filter fun r => r.started && !r.borrowed && r.unit.facet == f && readClass s r == cls).length).sum
  let segs := (ds.filter fun d => d.run.any fun g => !g.borrowed && g.facet == f && g.cls == cls).length
  (18 * reads + 63 * segs, 4096 * reads)

/-- A class holds a tick of credit on a channel beside what its work in service there will take (R223, R226). -/
def flashCredit (s : State) (ch f cls : Nat) : Bool := (inService s ch f cls).1 < creditOf s (unitChannel ch) f cls

/-- A class holds byte credit on a channel beside what its reads in service there will take (R210). -/
def flashBytes (s : State) (ch f cls : Nat) : Bool :=
  look 0 (16 + ch, f, cls) s.srch.bytes + (inService s ch f cls).2 < byteCredit s (16 + ch) f cls

/-- n grants of some ticks each on a flash channel (R223 to R226): those that find a tick of credit beside what the class's work in service there
will take are charged to it, the others are borrowed. -/
def chargeGrants (ch f cls n ticks : Nat) (s : State) : State :=
  let k := min n (cdiv (creditOf s (unitChannel ch) f cls - (inService s ch f cls).1) ticks)
  charge (unitChannel ch) f cls (ticks * (n - k)) true (charge (unitChannel ch) f cls (ticks * k) false s)

/-- Units of 4 KiB moved over a channel: 18 ticks and one byte grant each (R211, R224). -/
def moveUnits (ch f cls n : Nat) (s : State) : State := takeBytes (16 + ch) f cls n 4096 (chargeGrants ch f cls n 18 s)

/-- Runs of 2 KiB per frame of 64 KiB, for runs from `first` on (R196): frame number and count. -/
def runsByFrame (first n : Nat) : List (Nat × Nat) :=
  if n == 0 then []
  else (List.range ((first + n - 1) / 32 - first / 32 + 1)).map fun i =>
    let fr := first / 32 + i
    (fr, min (first + n) (32 * fr + 32) - max first (32 * fr))

/-- MiB of HBM of a stack that facet shares can use: 24 GiB less 1 GiB for the reserve of 8 GiB, of which the model takes an eighth from each of
the 8 stacks (R12, R198; DESIGN CHOICE, log 13). -/
def stackMiB : Nat := 23552

/-- Blocks a facet holds in a region. -/
def blocksIn (r : FacetRec) (g : Nat) : Nat := ((List.range 16).filter fun b => bit (16 * g + b) r.mask).length

/-- The part of an amount that a region gets in proportion to the facet's blocks there; the parts add up to the amount (R196, R199). -/
def blockPart (r : FacetRec) (amount g : Nat) : Nat :=
  let upTo := fun (n : Nat) => ((List.range n).map (blocksIn r)).sum
  if upTo 8 == 0 then 0 else amount * upTo (g + 1) / upTo 8 - amount * upTo g / upTo 8

/-- What a facet's share takes from each stack (R196): from those of its regions in proportion to the blocks it holds there, as far as they have
it; a remainder from the other stacks in turn, by ascending number, and only what those lack from its own. -/
def drawShare (r : FacetRec) (left : List Nat) : List Nat × List Nat :=
  let want := 256 * r.hbm
  let near := (List.range 8).map fun g => min (left.getD g 0) (blockPart r want g)
  let others := (List.range 8).filter fun g => blocksIn r g == 0
  let own := (List.range 8).filter fun g => blocksIn r g != 0
  let more := (others ++ own).foldl (fun (acc : List Nat × Nat) g =>
    let t := min acc.2 (left.getD g 0 - acc.1.getD g 0)
    (acc.1.set g (acc.1.getD g 0 + t), acc.2 - t)) (near, want - near.sum)
  (more.1, (List.range 8).map fun g => left.getD g 0 - more.1.getD g 0)

/-- The stacks that hold a facet's share, shares being drawn in ascending facet number (R196; log 13). -/
def shareStacks (s : State) (f : Nat) : List Nat :=
  let le := fun (a b : FacetRec) => decide (a.facet ≤ b.facet)
  let took := (sortBy le s.cfg.facets).foldl (fun (acc : List Nat × List Nat) r =>
    let d := drawShare r acc.2
    (if r.facet == f then d.1 else acc.1, d.2)) ([], List.replicate 8 stackMiB)
  (List.range 8).filter fun g => took.1.getD g 0 != 0

/-- The HBM stack of a frame of a structure: the frames rotate over the stacks of the facet's share, from one that firmware chose (R194,
R196; log 13). -/
def frameStack (s : State) (f slot key i : Nat) : Nat :=
  let st := shareStacks s f
  st.getD ((Config.frameStart f slot key + i) % max 1 st.length) 0

/-- The stacked-memory slice of a list's copy, chosen when it was promoted (R194, R199, R200). -/
def copySlice (s : State) (f slot key : Nat) : Nat := look 0 (f, slot, key) s.mem.slices

/-- A facet's stacked share on the slice above a region, of an amount that it has in all (R199). -/
def sliceRoom (s : State) (f amount g : Nat) : Nat := ((facetRec s f).map fun r => blockPart r amount g).getD 0

/-- The slice for a copy of some bytes among rooms: the one it is in if it fits there, else the first with room from one that firmware chose
(R194, R199; log 13). -/
def sliceFor (s : State) (f slot key size : Nat) (rooms : List Nat) : Option Nat :=
  let fits := fun (g : Nat) => decide (size ≤ rooms.getD g 0) && ((facetRec s f).any fun r => blocksIn r g != 0)
  let start := Config.copySlice f slot key % 8
  let held := s.mem.slices.find? (·.1 == (f, slot, key))
  ((held.map (·.2)).filter fits).or (((List.range 8).map fun i => (start + i) % 8).find? fits)

/-- Keys under which the frames of what is no list rotate (R196): a list's tombstone bits, the pending deletes, the map cache, the centroid tables
and the projections (R79), TRAIN's workspace (R189), a graph's selectivity
sample (R115). -/
def tombKey (key : Nat) : Nat := key + 2 ^ 22

def pendKey : Nat := 2 ^ 23

def mapKey : Nat := 2 ^ 23 + 1

def coarseKey : Nat := 2 ^ 23 + 2

def fineKey : Nat := 2 ^ 23 + 3

def projKey (gen : Nat) : Nat := 2 ^ 23 + 4 + 8 * gen

def workKey : Nat := 2 ^ 23 + 6

def sampleKey : Nat := 2 ^ 23 + 7

/-- Runs of 2 KiB that hold n bytes from an offset of a structure, counted from the frame that its base lies in (R196, R197): first and number. -/
def byteRuns (base off n : Nat) : Nat × Nat :=
  if n == 0 then (0, 0)
  else ((base + off) / 2048 - 32 * (base / 65536), (base + off + n - 1) / 2048 - (base + off) / 2048 + 1)

/-- List key of a side list (R93). -/
def sideKey : Nat := 0x100000

/-- HBM address of what is no list: a side list, tombstone bits, pending deletes, the map cache, where firmware put them (R194; log 13). -/
def freeBase (f slot key : Nat) : Nat := 64 * ((Config.hbmBase 0 (key + 2 ^ 24 * (slot + 16 * f))).1 % 2 ^ 42)

/-- HBM address of a node array, by the epoch that published it: a renumbered one lies beside the old one (R194, R207; log 13). -/
def arrayBase (f slot pub : Nat) : Nat := 64 * ((Config.hbmBase pub (2 ^ 24 * (slot + 16 * f))).1 % 2 ^ 42)

/-- Pseudo-channel of a stack on which byte b of a frame lies (R196). -/
def pseudoChannel (b : Nat) : Nat := b / 2048

/-- Stack and number of frame i of a structure: where it was allocated, or the frame that has replaced it (R196, R320). -/
def frameAt (s : State) (f slot key base i : Nat) : Nat × Nat :=
  let p := (frameStack s f slot key i, base / 65536 + i)
  look p p s.mem.moved

/-- A frame of a stack is being rebuilt: its runs are read from its flash copy (R321). -/
def frameLost (s : State) (p : Nat × Nat) : Bool := s.mem.rebuilding.any fun x => x.1 == p.1 && x.2.1 == p.2

/-- Units of a frame's flash copy, two runs each, that hold n runs from pseudo-channel p on (R321). -/
def frameUnits (p n : Nat) : List Nat := if n == 0 then [] else (List.range ((p + n - 1) / 2 - p / 2 + 1)).map (p / 2 + ·)

/-- Runs read from a frame's flash copy through the channel engines, whose 16 units lie on 16 channels (R321; log 13). -/
def flashRuns (f cls p n : Nat) (s : State) : State :=
  let c := Config.unitChoice s.free
  (frameUnits p n).foldl (fun t i => moveUnits ((c + i) % 64) f cls 1 (bump f (kFct 4) 4096 t)) (useFree s)

/-- Runs of a structure read for a class: from HBM, a frame at a time from its stack, or from the flash copy of a frame that is being rebuilt
(R196, R197, R210, R211, R218, R320, R321). -/
def readHbm (f slot key cls base : Nat) (r : Nat × Nat) (s : State) : State :=
  (runsByFrame r.1 r.2).foldl (fun t p =>
    let g := frameAt s f slot key base p.1
    if frameLost s g then flashRuns f cls (if p.1 == r.1 / 32 then r.1 % 32 else 0) p.2 t
    else takeBytes g.1 f cls p.2 2048 (bump f (kFct 3) (2048 * p.2) t)) s

/-- Runs of a structure whose flash copy fails while their frame is being rebuilt: they are poisoned (R321; log 13). -/
def copyLost (s : State) (f slot key base : Nat) (r : Nat × Nat) : List Nat :=
  ((List.range r.2).map (r.1 + ·)).filter fun k => frameLost s (frameAt s f slot key base (k / 32)) && Config.copyFails s.free k

/-- Runs of a structure by the stack that they lie on: stack and count (R196). -/
def runsByStack (s : State) (f slot key base : Nat) (r : Nat × Nat) : List (Nat × Nat) :=
  let l := (runsByFrame r.1 r.2).map fun p => ((frameAt s f slot key base p.1).1, p.2)
  (nub (l.map (·.1))).map fun g => (g, ((l.filter (·.1 == g)).map (·.2)).sum)

/-- Every stack that some runs of a structure lie on has byte credit for a class (R210, R223). -/
def runsFunded (s : State) (f slot key cls base : Nat) (r : Nat × Nat) : Bool :=
  (runsByStack s f slot key base r).all fun p => bytesFit s p.1 f cls p.2 2048

/-- HBM address of the sketch records under a key as they are now: a list's newest copy, the newest node array, or where firmware put the side list
(R68, R194). -/
def keyBase (ix : Index) (key : Nat) : Nat :=
  if key == sideKey then freeBase ix.geo.facet ix.geo.slot key
  else if ix.geo.mode == 0 then (curCopy (listOf ix key)).base else arrayBase ix.geo.facet ix.geo.slot (curArray ix).pub

/-- Ticks of 100 ns, or part of one, from a time to now (R222). -/
def ticksSince (s : State) (t : Nat) : Nat := cdiv (now s - t) 100

/-- The debt a turn leaves behind: what was spent above allotment and carried debt (R226). -/
def turnDebt (s : State) : List ((Nat × Nat × Nat) × Nat) :=
  (nub (s.srch.spent.map (·.1) ++ s.srch.debt.map (·.1))).filterMap fun k =>
    let excess := look 0 k s.srch.spent + look 0 k s.srch.debt - allotment s k.1 k.2.1 k.2.2
    if excess == 0 then none else some (k, excess)

/-- Background classes (R261). -/
def background (cls : Nat) : Bool := 4 ≤ cls

/-- PS2 is selected: it is in force, or it or PS3 is being entered, which waits for background work to stop (R261, R262). -/
def ps2Selected (s : State) : Bool := s.brd.psNow == 2 || s.brd.trans.any fun t => 2 ≤ t.target

/-- A grant is possible now: PS3 grants nothing; PS2, the power brake and a critical die or stack give the background
classes nothing; the brake and the acting limiter withhold borrowed grants (R261, R318, R326, R345). -/
def mayGrant (s : State) (cls : Nat) (borrowed : Bool) : Bool :=
  let crit := (s.brd.thermal.take 9).any (· == 3)
  s.brd.psNow != 3 && !(background cls && (ps2Selected s || braked s || crit)) &&
  !(borrowed && withheld s)

/-- The engines of a facet's live regions may all be granted to a class (R223). -/
def enginesOpen (s : State) (f cls : Nat) : Bool :=
  let ok := fun (u : Nat) => (holdsCredit s u f cls && mayGrant s cls false) || mayGrant s cls true
  (liveRegions s f).all fun e => ok (unitEngine e)

/-- A unit may be granted to a class: on its credit, or as a borrowed grant (R223). -/
def unitOpen (s : State) (u f cls : Nat) : Bool := (holdsCredit s u f cls && mayGrant s cls false) || mayGrant s cls true

/-- Priority of a class code: code 14, TRAIN's mining, takes BULK's (R219). -/
def prio (cls : Nat) : Nat := if cls < 8 then cls else 2

/-- Arbiters with a pointer of their own (R16), beside the units themselves, whose requesters are facets: a block's over its 32 cells; a region's
for steals over its 16 blocks, and those for its stream-engine descriptors and its slice ports over its 16 blocks, its control processor (16) and
the steals of other regions (17); the chip's for steals over its regions, and those for the network ports to HBM stack r, the chip merge unit and the
ingest/compaction engines over the 8 regions, the host interface (8) and the 4 links (9 to 12); over the engines that take tiles, over facets at
admission, over queue pairs at the fetch (R244). -/
def arbBlock (b : Nat) : Nat := 10000 + b

def arbRegion (r : Nat) : Nat := 11000 + r

def arbDesc (r : Nat) : Nat := 11100 + r

def arbSlice (r : Nat) : Nat := 11200 + r

def arbPort (r : Nat) : Nat := 11300 + r

def arbMerge : Nat := 11400

def arbIngest : Nat := 11401

def arbChip : Nat := 12000

def arbEngines : Nat := 12001

def arbAdmit : Nat := 12002

def arbFetch : Nat := 12003

/-- Distance of requester x of n ahead of an arbiter's rotating pointer (R16). -/
def turnKey (s : State) (a n x : Nat) : Nat := (x + n - look 0 a s.srch.rotate % n) % n

/-- Distance of a facet ahead of a unit's rotating pointer (R16, R223). -/
def rotKey (s : State) (u f : Nat) : Nat := turnKey s u 64 f

/-- An arbiter's pointer moved past a requester that was granted (R16). -/
def rotateTo (a x : Nat) (s : State) : State := { s with srch := { s.srch with rotate := put a (x + 1) s.srch.rotate } }

/-- The grant among waiting requests on a unit (R223): credited ones first, with both tick and byte credit, ascending class, rotating
facets; a borrowed grant only when none of them waits. Answers the request and whether it borrows. `key` gives a request's facet and
class, `bytes` whether it holds the byte credit it needs. -/
def grantAmong {α : Type} (s : State) (u : Nat) (key : α → Nat × Nat) (bytes : α → Bool) (reqs : List α) : Option (α × Bool) :=
  let le := fun (a b : α) => prio (key a).2 < prio (key b).2 ||
    (prio (key a).2 == prio (key b).2 && rotKey s u (key a).1 ≤ rotKey s u (key b).1)
  let ok := fun (a : α) => holdsCredit s u (key a).1 ((key a).2 % 8) && bytes a && mayGrant s ((key a).2 % 8) false
  match (sortBy le reqs).find? ok with
  | some a => some (a, false)
  | none => ((sortBy le reqs).find? fun a => mayGrant s ((key a).2 % 8) true).map fun a => (a, true)

/-- A cell's sliver has used up its class's credit and no borrowed grant may follow: it stands at a record boundary until the next turn (R223,
R225). -/
def cellStands (s : State) (x : CellSt) : Bool :=
  x.run.any fun v => !x.borrowed && !mayGrant s (v.cls % 8) true && creditOf s x.cell v.facet (v.cls % 8) < ticksSince s x.since

/-- The running sliver of a cell charged for the time since its last charge (R222); one that stands, for its credit (R225). -/
def chargeCell (x : CellSt) (s : State) : State :=
  match x.run with
  | some v =>
    let t := ticksSince s x.since
    charge x.cell v.facet (v.cls % 8) (if cellStands s x then min t (creditOf s x.cell v.facet (v.cls % 8)) else t) x.borrowed s
  | none => s

/-- A cell without its running sliver: the suspended one resumes if its class may be granted (R261), or the cell is idle from now on (R227). -/
def nextContext (s : State) (x : CellSt) : CellSt :=
  if x.susp.all fun v => mayGrant s (v.cls % 8) x.suspBorrowed then
    { x with run := x.susp, susp := none, since := now s, held := now s, borrowed := x.suspBorrowed, suspBorrowed := false }
  else { x with run := none, since := now s, held := now s, borrowed := false }

/-- The running tile of an engine charged (R222). -/
def chargeEngine (e : Engine) (s : State) : State :=
  match e.run with
  | some t => charge (unitEngine e.num) t.facet (t.cls % 8) (ticksSince s e.since) e.borrowed s
  | none => s

end Sys2Proof.Machine
end

