-- ==== Sys2Proof/Machine/Operands.lean ====
section
/-! DEFINITION. Operand forms of the commands: the fields of the specific area, the data at data_address, and checks 1 to 5
of R266 (R263, R264, R269 to R290). A check answers the field offset that fails first, or nothing. -/

namespace Sys2Proof.Machine

/-- The field of `len` bytes at offset `off` of the specific area (R10, R246). -/
def Cmd.ar (c : Cmd) (off len : Nat) : Nat := c.area.toNat / 256 ^ off % 256 ^ len

-- Fields of the areas of R269 and R280.
def Cmd.slot (c : Cmd) : Nat := c.ar 0 1
def Cmd.cls (c : Cmd) : Nat := c.ar 1 1
def Cmd.count (c : Cmd) : Nat := c.ar 2 2
def Cmd.k (c : Cmd) : Nat := c.ar 2 2
def Cmd.rerank (c : Cmd) : Nat := c.ar 4 2
def Cmd.nprobe (c : Cmd) : Nat := c.ar 6 2
def Cmd.scanLimit (c : Cmd) : Nat := c.ar 8 4
def Cmd.deadline (c : Cmd) : Nat := c.ar 12 2
def Cmd.beam (c : Cmd) : Nat := c.ar 14 2
def Cmd.width (c : Cmd) : Nat := c.ar 16 1
/-- Queries of a QUERY or QUERY_BATCH. -/
def Cmd.queries (c : Cmd) : Nat := if c.op == .queryBatch then c.ar 18 2 else 1

/-- The ID that never names a vector (R51). -/
def emptyId : Nat := 0xFFFFFFFFFF

/-- An index slot a command names is usable by its pair's facet. -/
def Cmd.index (c : Cmd) (s : State) : Option Index := usableIdx s c.facet c.slot

/-- TRAIN fields (R280, R287). -/
def Cmd.trainM (c : Cmd) : Nat := c.ar 4 4
def Cmd.mining (c : Cmd) : Nat := c.ar 8 2
def Cmd.rm (c : Cmd) : Nat := c.ar 10 2
def Cmd.tt (c : Cmd) : Nat := c.ar 12 2
def Cmd.bb (c : Cmd) : Nat := c.ar 14 2
def Cmd.pk (c : Cmd) : Nat := c.ar 16 1
def Cmd.ee (c : Cmd) : Nat := c.ar 17 1

/-- Model slot a command names. -/
def Cmd.model (c : Cmd) : Nat := if c.op == .train then c.ar 1 1 else c.ar 0 1

-- Models (R171, R180, R289).

/-- A node gives one row for each sequence: a pooling node, or a node fed by one (log 27). -/
def perSeq (ns : List ModelNode) : Nat → Nat → Bool
  | 0, _ => false
  | fuel + 1, i => match ns[i]? with
    | none => false
    | some n => n.op == 5 || (n.inA < i && perSeq ns fuel n.inA)

/-- The first node that reads the sequence input, which says what the input is (DESIGN CHOICE, log 116). -/
def seqReader (m : ModelRec) : Option ModelNode := m.nodes.find? (·.inA == 0xFFFE)

/-- The model takes token sequences: its sequence input feeds an embedding lookup. -/
def takesTokens (m : ModelRec) : Bool := ((seqReader m).map (·.op == 6)).getD false

/-- Width of an input row. -/
def modelIn (m : ModelRec) : Nat := ((seqReader m).map (·.inWidth)).getD 0

/-- Width of an output row. -/
def modelOut (m : ModelRec) : Nat := ((m.nodes.getLast?).map (·.outWidth)).getD 0

/-- Output rows of an ENCODE (R180). -/
def outRows (m : ModelRec) (sequences tokens : Nat) : Nat :=
  if perSeq m.nodes (m.nodes.length + 1) (m.nodes.length - 1) then sequences else tokens

/-- The largest sequence a model takes (R173). -/
def maxSeq (m : ModelRec) : Nat :=
  match seqReader m with
  | some n => if n.op == 6 && n.shape.getD 2 0 != 0 then min 8192 (n.shape.getD 2 0) else 8192
  | none => 8192

/-- A token word against the model's embedding node (R173). A node with segments 0 takes segment bit 0 (DESIGN CHOICE, log 116). -/
def tokenOk (m : ModelRec) (w : Nat) : Bool :=
  match seqReader m with
  | some n => w % 2 ^ 20 < 16 * n.shape.getD 1 0 && w / 2 ^ 20 % 16 == 0 && w / 2 ^ 25 == 0 &&
      w / 2 ^ 24 % 2 < max 1 (n.shape.getD 3 0)
  | none => false

-- What a command reads and writes (R264).

/-- The command reads host data. -/
def readsData (c : Cmd) : Bool :=
  match c.op with
  | .fwDownload => true
  | .loadLattice => true
  | .query => true
  | .queryBatch => true
  | .insert => true
  | .delete => true
  | .labelUpdate => true
  | .fetch => true
  | .train => true
  | .encode => true
  | .indexCreate => c.ar 16 8 != 0
  | .modelLoad => c.ar 8 8 != 0
  | _ => false

/-- The command writes result data. -/
def writesResult (o : Op) : Bool :=
  match o with
  | .identify => true
  | .getLog => true
  | .query => true
  | .queryBatch => true
  | .fetch => true
  | .train => true
  | .encode => true
  | _ => false

/-- Bytes of a fetch record (R285). -/
def fetchRecSize (g : Geometry) : Nat := 24 + rowSize g

/-- Bytes of an insert record (R283). -/
def insertRecSize (g : Geometry) : Nat := 16 + rowSize g

/-- data_length fits what does not depend on the facet's configuration (R264, R269, R283). -/
def lenOk2 (c : Cmd) : Bool :=
  c.dataLen ≤ 2 ^ 24 &&
  (match c.op with
    | .fwDownload => 4096 ≤ c.dataLen && c.dataLen ≤ 2 ^ 20 && c.dataLen % 4096 == 0
    | .loadLattice => true
    | .query => true
    | .queryBatch => true
    | .insert => c.dataLen ≤ 2 ^ 21
    | .delete => c.dataLen == 8 * c.count
    | .labelUpdate => c.dataLen == 16 * c.count
    | .fetch => c.dataLen == 8 * c.count
    | .train => c.dataLen == 32
    | .encode => c.ar 3 1 != 0 || c.dataLen == roundUp 8 (4 * c.ar 6 2) + 4 * c.ar 8 4
    | _ => c.dataLen == 0)

/-- A reserved run of the specific area is zero. -/
def rsv (c : Cmd) (off len : Nat) : Nat × Bool := (0x20 + off, c.ar off len == 0)

/-- An FP32 field's code. -/
def f32At (n : Nat) : F32 := BitVec.ofNat 32 n

/-- An FP32 code is finite and positive. -/
def posF (a : F32) : Bool := finiteF a && 0 < keyF a

/-- A SET_FEATURE value in range (R272). -/
def featureOk (feature value : Nat) : Bool :=
  match feature with
  | 1 => value ≤ 3
  | 2 => value == 0 || (10 ≤ value && value ≤ 60000 && value % 10 == 0)
  | 3 => 2 ≤ value && value ≤ 6
  | 4 => value ≤ 1
  | _ => false

/-- The pair a command names exists (R275). -/
def namesPair (s : State) (c : Cmd) : Bool := 1 ≤ c.ar 0 1 && (qpOf s (c.ar 0 1)).isSome

/-- The specific area against R269 and R280, field by field in byte order. -/
def areaChecks (s : State) (c : Cmd) : List (Nat × Bool) :=
  match c.op with
  | .identify => [(0x20, c.ar 0 1 ≤ 2), (0x21, c.ar 0 1 == 0 || declared s (c.ar 1 1)),
      (0x22, c.ar 0 1 != 2 || c.ar 2 1 < 16), rsv c 3 29]
  | .getLog => [(0x20, 1 ≤ c.ar 0 1 && c.ar 0 1 ≤ 6), (0x21, if c.ar 0 1 == 3 then c.ar 1 1 < 64 else c.ar 1 1 == 0),
      rsv c 2 2, (0x24, 8 ≤ c.ar 4 4 && c.ar 4 4 ≤ 2 ^ 20 && c.ar 4 4 % 8 == 0), (0x28, c.ar 8 8 % 8 == 0), rsv c 16 16]
  | .setFeature => [(0x20, 1 ≤ c.ar 0 1 && c.ar 0 1 ≤ 4),
      (0x21, if c.ar 0 1 == 1 || c.ar 0 1 == 4 then c.ar 1 1 == 0 else declared s (c.ar 1 1)), rsv c 2 6,
      (0x28, featureOk (c.ar 0 1) (c.ar 8 8)), rsv c 16 16]
  | .getFeature => [(0x20, 1 ≤ c.ar 0 1 && c.ar 0 1 ≤ 4),
      (0x21, if c.ar 0 1 == 1 || c.ar 0 1 == 4 then c.ar 1 1 == 0 else declared s (c.ar 1 1)), rsv c 2 6,
      (0x28, c.ar 8 8 == 0), rsv c 16 16]
  | .fwDownload => [(0x20, c.ar 0 4 % 4096 == 0 && c.ar 0 4 + c.dataLen ≤ 2 ^ 25), rsv c 4 28]
  | .fwCommit => [(0x20, c.ar 0 1 ≤ 1 && (c.ar 1 1 != 3 || c.ar 0 1 == 0)), (0x21, c.ar 1 1 ≤ 3), rsv c 2 30]
  | .createQp => [(0x20, 1 ≤ c.ar 0 1 && (qpOf s (c.ar 0 1)).isNone), (0x21, declared s (c.ar 1 1)),
      (0x22, 2 ≤ c.ar 2 2 && c.ar 2 2 ≤ 4096), (0x24, 1 ≤ c.ar 4 2 && c.ar 4 2 ≤ 255), (0x26, 1 ≤ c.ar 6 1),
      (0x27, c.ar 7 1 ≤ 100), (0x28, c.ar 8 8 % 4096 == 0), (0x30, c.ar 16 8 % 4096 == 0), rsv c 24 8]
  | .deleteQp => [(0x20, namesPair s c), rsv c 1 31]
  | .abort => [(0x20, namesPair s c), rsv c 1 1, rsv c 6 26]
  | .resumeQp => [(0x20, namesPair s c), (0x21, c.ar 1 1 ≤ 1), rsv c 2 30]
  | .loadLattice => [rsv c 0 32]
  | .facetCreate => [(0x20, declared s (c.ar 0 1)), rsv c 1 31]
  | .facetDestroy => [(0x20, declared s (c.ar 0 1)), rsv c 1 31]
  | .indexCreate => [(0x20, declared s (c.ar 0 1)), (0x21, c.ar 1 1 < 16), rsv c 2 6, rsv c 24 8]
  | .indexDrop => [(0x20, declared s (c.ar 0 1)), (0x21, c.ar 1 1 < 16), rsv c 2 30]
  | .evrControl => [(0x20, c.ar 0 1 ≤ 2), rsv c 1 31]
  | .query => [(0x20, c.slot < 16), (0x21, c.cls ≤ 2), (0x22, 1 ≤ c.k && c.k ≤ 256),
      (0x24, c.k ≤ c.rerank && c.rerank ≤ 1024), (0x26, c.nprobe ≤ 1024), (0x2E, c.beam ≤ 256), (0x30, c.width ≤ 8),
      rsv c 17 1, (0x32, c.ar 18 2 == 0), rsv c 20 12]
  | .queryBatch => [(0x20, c.slot < 16), (0x21, c.cls ≤ 2), (0x22, 1 ≤ c.k && c.k ≤ 256),
      (0x24, c.k ≤ c.rerank && c.rerank ≤ 1024), (0x26, c.nprobe ≤ 1024), (0x2E, c.beam ≤ 256), (0x30, c.width ≤ 8),
      rsv c 17 1, (0x32, 1 ≤ c.ar 18 2 && c.ar 18 2 ≤ 256), rsv c 20 12]
  | .insert => [(0x20, c.slot < 16), rsv c 1 1, (0x22, 1 ≤ c.count && c.count ≤ 1024), rsv c 4 28]
  | .delete => [(0x20, c.slot < 16), rsv c 1 1, (0x22, 1 ≤ c.count && c.count ≤ 4096), rsv c 4 28]
  | .labelUpdate => [(0x20, c.slot < 16), rsv c 1 1, (0x22, 1 ≤ c.count && c.count ≤ 1024), rsv c 4 28]
  | .fetch => [(0x20, c.slot < 16), rsv c 1 1, (0x22, 1 ≤ c.count && c.count ≤ 1024), rsv c 4 28]
  | .flush => [(0x20, c.ar 0 1 ≤ 1), rsv c 1 31]
  | .train =>
    let fl := c.ar 2 1
    [(0x20, c.slot < 16), (0x21, if bit 1 fl then c.model < 8 else c.model == 0xFF),
      (0x22, fl < 8 && (bit 0 fl || bit 1 fl) && bit 1 fl == bit 2 fl),
      (0x23, if bit 1 fl then [4, 8, 16, 32].contains (c.ar 3 1) else c.ar 3 1 == 0),
      (0x24, 1 ≤ c.trainM && c.trainM ≤ 2 ^ 20), (0x28, 1 ≤ c.mining && c.mining ≤ 1024),
      (0x2A, 16 ≤ c.rm && c.rm ≤ 1024), (0x2C, c.pk ≤ c.tt && c.tt + c.pk ≤ c.rm), (0x2E, 64 ≤ c.bb && c.bb ≤ 4096),
      (0x30, 1 ≤ c.pk && c.pk ≤ 16), (0x31, 1 ≤ c.ee && c.ee ≤ 64), rsv c 18 2, (0x34, posF (f32At (c.ar 20 4)))]
  | .resketch => [(0x20, c.slot < 16), rsv c 1 31]
  | .encode =>
    let sh := c.ar 5 1
    [(0x20, c.ar 0 1 < 8), (0x21, c.cls ≤ 2), (0x22, c.ar 2 1 ≤ 1), (0x23, [0, 8, 16].contains (c.ar 3 1)),
      (0x24, [5, 6, 8, 16].contains (c.ar 4 1)), (0x25, if c.ar 4 1 == 5 then sh < 32 || 224 ≤ sh else sh == 0),
      (0x26, 1 ≤ c.ar 6 2 && c.ar 6 2 ≤ 256), (0x28, 1 ≤ c.ar 8 4 && c.ar 8 4 ≤ 65536), rsv c 12 20]
  | .modelLoad => [(0x20, c.ar 0 1 < 8), rsv c 1 3, rsv c 16 16]
  | .other _ => []

/-- Check 2 of R266 in byte order of the entry: flags, cid (R247), reserved words, addresses and lengths (R264), the area. -/
def checks2 (s : State) (c : Cmd) : List (Nat × Bool) :=
  ([(1, c.flags ≤ (if isWrite c.op then 1 else 0)),
   (2, !s.cmds.any fun o => o.tag != c.tag && o.qp == c.qp && o.cid == c.cid),
   (4, c.rsv4 == 0), (8, c.dataAddr % 8 == 0 && (c.dataAddr != 0) == readsData c), (0x10, lenOk2 c), (0x14, c.rsv14 == 0),
   (0x18, c.resultAddr % 16 == 0 && (c.resultAddr != 0) == writesResult c.op)] : List (Nat × Bool)) ++ areaChecks s c

/-- The first failing field of a list of checks. -/
def firstBad (l : List (Nat × Bool)) : Option Nat := (l.find? fun p => !p.2).map (·.1)

/-- The opcode is a command's and stands on the right kind of pair (R263). -/
def check1 (c : Cmd) : Bool := assigned (opcode c.op) && isAdmin c.op == (c.qp == 0)

/-- The facet's state allows the command (R47, R266 check 3, R272, R275 to R278). -/
def stateOk (s : State) (c : Cmd) : Bool :=
  let st := (facetOf s c.facet).state
  match c.op with
  | .setFeature => c.ar 0 1 == 1 || c.ar 0 1 == 4 || st == 1 || st == 2
  | .getFeature => c.ar 0 1 == 1 || c.ar 0 1 == 4 || st == 1 || st == 2
  | .createQp => st != 3
  | .facetCreate => st == 0
  | .facetDestroy => st != 0
  | .indexCreate => st == 1
  | .indexDrop => st == 1 || st == 2
  | o => isAdmin o || st == 1

/-- The usable index of a command satisfies p; false where the slot holds none. -/
def onIndex (s : State) (c : Cmd) (p : Index → Bool) : Bool := ((c.index s).map p).getD false

/-- Fields that depend on the facet's configuration (R266 check 3). -/
def checks3 (s : State) (c : Cmd) : List (Nat × Bool) :=
  let made := onIndex s c fun _ => true
  let geo := ((c.index s).map (·.geo)).getD ⟨0, 0, 0, 0, 0, 0, 0, 0, 0, 0, 0, 0, 0⟩
  let queryChecks :=
    [(0x20, made), (0x26, if geo.mode == 0 then 1 ≤ c.nprobe && c.nprobe ≤ listCount geo else c.nprobe == 0),
      (0x2E, if geo.mode == 0 then c.beam == 0 else c.k ≤ c.beam),
      (0x30, if geo.mode == 0 then c.width == 0 else 1 ≤ c.width), (0x10, c.dataLen == c.queries * queryRecSize geo)]
  match c.op with
  | .identify => [(0x22, c.ar 0 1 != 2 || (geoOf s (c.ar 1 1) (c.ar 2 1)).isSome)]
  | .indexCreate =>
    let slot := c.ar 1 1
    [(0x21, (geoOf s c.facet slot).isSome && (idxOf s c.facet slot).isNone),
      (0x30, match geoOf s c.facet slot with
        | some g => c.ar 16 8 == (if g.mode == 0 then (g.coarse + listCount g) * rowSize g else 0)
        | none => true)]
  | .indexDrop => [(0x21, (usableIdx s c.facet (c.ar 1 1)).isSome)]
  | .query => queryChecks
  | .queryBatch => queryChecks
  | .insert => [(0x20, made), (0x22, c.count ≤ geo.sideLimit), (0x10, c.dataLen == c.count * insertRecSize geo)]
  | .delete => [(0x20, made)]
  | .labelUpdate => [(0x20, made)]
  | .fetch => [(0x20, made)]
  | .resketch => [(0x20, made)]
  | .train => [(0x20, made),
      (0x21, c.model == 0xFF || ((modelRec s c.facet c.model).isSome &&
        ((modOf s c.facet c.model).map fun m => m.state != 0).getD false)),
      (0x28, if geo.mode == 0 then c.mining ≤ listCount geo else c.rm ≤ c.mining && c.mining ≤ 256),
      (0x2A, geo.mode == 0 || c.rm ≤ 256)]
  | .encode =>
    match modelRec s c.facet c.model with
    | none => [(0x20, false)]
    | some m => [(0x20, ((modOf s c.facet c.model).map fun x => x.state != 0).getD false),
        (0x23, takesTokens m == (c.ar 3 1 == 0)),
        (0x10, c.ar 3 1 == 0 ||
          c.dataLen == roundUp 8 (4 * c.ar 6 2) + c.ar 8 4 * modelIn m * (if c.ar 3 1 == 8 then 2 else 4))]
  | .modelLoad =>
    match modelRec s c.facet c.model with
    | none => [(0x20, false)]
    | some m => [(0x28, c.ar 8 8 == m.weightBytes)]
  | _ => []

/-- Checks in rising order of field offset. -/
def inOrder (l : List (Nat × Bool)) : List (Nat × Bool) := sortBy (fun a b => a.1 ≤ b.1) l

/-- Bytes the command reads at data_address (R264). -/
def inputLen (c : Cmd) : Nat :=
  match c.op with
  | .indexCreate => c.ar 16 8
  | .modelLoad => c.ar 8 8
  | _ => c.dataLen

/-- Bytes the command writes at result_address (R269, R280, R282, R285, R289). -/
def resultLen (s : State) (c : Cmd) : Nat :=
  match c.op with
  | .identify => 4096
  | .getLog => c.ar 4 4
  | .query => 16 * c.k
  | .queryBatch => c.queries * c.k * 16 + c.queries * 16
  | .fetch => ((c.index s).map fun i => c.count * fetchRecSize i.geo).getD 0
  | .train => 64
  | .encode => ((modelRec s c.facet c.model).map fun m =>
      outRows m (c.ar 6 2) (c.ar 8 4) * modelOut m * elemSize (c.ar 4 1)).getD 0
  | _ => 0

/-- Check 4 of R266: the windows (R242, R246). -/
def checks4 (s : State) (c : Cmd) : List (Nat × Bool) :=
  let inp := inputLen c
  let res := resultLen s c
  let named := c.ar 1 1
  [(8, inp == 0 || inWindows s c.qp c.facet false c.dataAddr inp),
   (0x18, res == 0 || inWindows s c.qp c.facet true c.resultAddr res),
   (0x28, c.op != .createQp || inWindows s (c.ar 0 1) named false (c.ar 8 8) (64 * c.ar 2 2)),
   (0x30, c.op != .createQp || inWindows s (c.ar 0 1) named true (c.ar 16 8) (32 * c.ar 2 2))]

/-- Checks 1 to 4 of R266: the first failure as its status and place. -/
def earlyChecks (s : State) (c : Cmd) : Option (Nat × ErrAt) :=
  if !check1 c then some (stInvalid, ⟨1, 0, 0⟩)
  else match firstBad (inOrder (checks2 s c)) with
    | some f => some (stInvalid, ⟨2, 0, f⟩)
    | none =>
      if !stateOk s c then some (stFacetState, ⟨3, 0, 0xFFFFFFFF⟩)
      else match firstBad (inOrder (checks3 s c)) with
        | some f => some (stInvalid, ⟨3, 0, f⟩)
        | none => (firstBad (checks4 s c)).map fun f => (stWindow, ⟨4, 0, f⟩)

-- Data (R281, R283, R285, R287, R289): parsed records.

/-- The ID words of a write or FETCH, `step` bytes apart. -/
def readIds (n step : Nat) (d : Bytes) : List Nat := (List.range n).map fun i => field (step * i) 8 d

/-- The IDs a write or FETCH names. -/
def Cmd.ids (c : Cmd) (s : State) : List Nat :=
  match c.op with
  | .insert => readIds c.count (((c.index s).map fun i => insertRecSize i.geo).getD 16) c.data
  | .labelUpdate => readIds c.count 16 c.data
  | _ => readIds c.count 8 c.data

/-- A field of the data that failed (R268): bit 31 set. -/
def inData (off : Nat) : Nat := 2 ^ 31 + off

/-- The first record of `n` that a check refuses, with the offset it gives. -/
def firstRecord (n : Nat) (chk : Nat → Option Nat) : Option (Nat × Nat) :=
  (List.range n).findSome? fun i => (chk i).map fun off => (i, inData off)

/-- Check 5 for a query's records: reserved bytes, vector (R54), padding (log 26). -/
def queryData (g : Geometry) (n : Nat) (d : Bytes) : Option (Nat × Nat) :=
  let sz := queryRecSize g
  let vb := g.dims * elemSize g.storage
  firstRecord n fun i =>
    let r := slice (sz * i) sz d
    if field 24 8 r != 0 then some (sz * i + 24)
    else if !vecOk g (slice 32 vb r) then some (sz * i + 32)
    else if !allZero (r.drop (32 + vb)) then some (sz * i + 32 + vb) else none

/-- Check 5 for IDs: bits 63 to 40 zero, and no ID twice in a write (R52, R122). -/
def idData (once : Bool) (n step : Nat) (d : Bytes) : Option (Nat × Nat) :=
  let ids := readIds n step d
  firstRecord n fun i =>
    let w := ids.getD i 0
    if 2 ^ 40 ≤ w then some (step * i)
    else if once && (ids.take i).contains w then some (step * i) else none

/-- Check 5 for an INSERT (R52, R54, R283). -/
def insertData (g : Geometry) (n : Nat) (d : Bytes) : Option (Nat × Nat) :=
  let sz := insertRecSize g
  let vb := g.dims * elemSize g.storage
  let ids := readIds n sz d
  firstRecord n fun i =>
    let r := slice (sz * i) sz d
    let w := ids.getD i 0
    if emptyId ≤ w || (ids.take i).contains w then some (sz * i)
    else if !vecOk g (slice 16 vb r) then some (sz * i + 16)
    else if !allZero (r.drop (16 + vb)) then some (sz * i + 16 + vb) else none

/-- The centroid rows of INDEX_CREATE (R277). -/
def centroidData (g : Geometry) (d : Bytes) : Option (Nat × Nat) :=
  let n := if g.mode == 0 then g.coarse + listCount g else 0
  let vb := g.dims * elemSize g.storage
  firstRecord n fun i =>
    let r := slice (rowSize g * i) (rowSize g) d
    if !allFinite (elems g.storage g.dims (r.take vb)) then some (rowSize g * i)
    else if !allZero (r.drop vb) then some (rowSize g * i + vb) else none

/-- TRAIN's 32-byte header (R287). -/
structure TrainHead where
  margin : F32
  eta : F32
  momentum : F32
  decay : F32
  inputLen : Nat
deriving DecidableEq, Repr

def readTrainHead (d : Bytes) : TrainHead :=
  { margin := f32At (field 0 4 d), eta := f32At (field 4 4 d), momentum := f32At (field 8 4 d),
    decay := f32At (field 12 4 d), inputLen := field 16 8 d }

/-- Check 5 for the header: 0.999 is the FP32 value 0x3F7F_BE77. -/
def trainHeadData (d : Bytes) : Option (Nat × Nat) :=
  let h := readTrainHead d
  let bad := [(0, finiteF h.margin), (4, posF h.eta),
    (8, finiteF h.momentum && 0 ≤ keyF h.momentum && keyF h.momentum ≤ 0x3F7FBE77),
    (12, finiteF h.decay && 0 ≤ keyF h.decay), (24, field 24 8 d == 0)]
  (firstBad bad).map fun f => (0, inData f)

/-- Token sequences one after another, each a token count and its tokens (R287): the sequences, or the offset where the
bytes run out. -/
def cutSequences : Nat → Nat → Bytes → Except Nat (List (Nat × List Nat))
  | 0, off, d => if d.isEmpty then .ok [] else .error off
  | n + 1, off, d =>
    let len := field 0 4 d
    if d.length < 4 + 4 * len then .error off
    else
      match cutSequences n (off + 4 + 4 * len) (d.drop (4 + 4 * len)) with
      | .ok l => .ok ((off, (List.range len).map fun i => field (4 + 4 * i) 4 d) :: l)
      | .error o => .error o

/-- The first sequence outside R173. -/
def badSequence (m : ModelRec) (l : List (Nat × List Nat)) : Option (Nat × Nat) :=
  (l.zipIdx).findSome? fun p =>
    if p.1.2.length == 0 || maxSeq m < p.1.2.length then some (p.2, inData p.1.1)
    else ((p.1.2.zipIdx).find? fun t => !tokenOk m t.1).map fun t => (p.2, inData (p.1.1 + 4 + 4 * t.2))

/-- Check 5 for TRAIN's inputs, which start 32 bytes into the data (R54, R173, R287). -/
def trainData (g : Geometry) (m : Option ModelRec) (n : Nat) (d : Bytes) : Option (Nat × Nat) :=
  match m with
  | none =>
    let vb := g.dims * elemSize g.storage
    if d.length != n * rowSize g then some (0, inData 16)
    else firstRecord n fun i =>
      let r := slice (rowSize g * i) (rowSize g) d
      if !vecOk g (r.take vb) then some (32 + rowSize g * i)
      else if !allZero (r.drop vb) then some (32 + rowSize g * i + vb) else none
  | some m =>
    match cutSequences n 32 d with
    | .error o => some (0, inData o)
    | .ok l => badSequence m l

/-- ENCODE's sequences: the length table, then the tokens or rows of each (R289). -/
def encodeLens (n : Nat) (d : Bytes) : List Nat := (List.range n).map fun i => field (4 * i) 4 d

/-- Start of each sequence among the tokens. -/
def starts (l : List Nat) : List Nat := (l.foldl (fun (acc : List Nat × Nat) n => (acc.1 ++ [acc.2], acc.2 + n)) ([], 0)).1

/-- Check 5 for ENCODE (R173, R289). -/
def encodeData (m : ModelRec) (n tokens fmt : Nat) (d : Bytes) : Option (Nat × Nat) :=
  let lens := encodeLens n d
  let base := roundUp 8 (4 * n)
  match (lens.zipIdx).find? fun p => p.1 == 0 || maxSeq m < p.1 with
  | some p => some (p.2, inData (4 * p.2))
  | none =>
    if lens.sum != tokens then some (0, inData 0)
    else if !allZero (slice (4 * n) (base - 4 * n) d) then some (0, inData (4 * n))
    else if fmt != 0 then none
    else ((List.range tokens).find? fun i => !tokenOk m (field (base + 4 * i) 4 d)).map fun i =>
      (((starts lens).filter (· ≤ i)).length - 1, inData (base + 4 * i))

/-- MXFP4, INT2 and INT4 scale bytes of a model's weights hold no NaN (R154, R174): scales follow each matrix's codes. -/
def matrixScales (fmt k n off : Nat) : List (Nat × Nat) :=
  if fmt == 2 || fmt == 3 || fmt == 4 then
    let kp := roundUp 32 k
    let np := roundUp 32 n
    let codes := kp * np * (if fmt == 2 then 2 else 4) / 8
    [(off + codes, kp / 32 * np)]
  else []

/-- The runs of scale bytes of a node (R172, R174). -/
def nodeScales (n : ModelNode) : List (Nat × Nat) :=
  let s := fun i => n.shape.getD i 0
  match n.op with
  | 0 => matrixScales n.format (s 0) (s 1) n.woff
  | 1 => ((List.range 4).map fun i => matrixScales n.format (s 0) (s 0) (n.woff + i * matrixBytes n.format (s 0) (s 0))).flatten
  | 6 =>
    if n.format == 3 || n.format == 4 then
      let tab := fun rows off => (off + rows * s 0 / 2, rows * cdiv (s 0) 32)
      let t1 := 16 * s 1
      let o2 := n.woff + tableBytes n.format t1 (s 0)
      let o3 := o2 + tableBytes n.format (s 2) (s 0)
      [tab t1 n.woff, tab (s 2) o2, tab (s 3) o3]
    else []
  | _ => []

/-- The first scale byte 0xFF of the weights. -/
def badScale (m : ModelRec) (w : Bytes) : Option Nat :=
  (m.nodes.flatMap nodeScales).findSome? fun p =>
    ((List.range p.2).find? fun i => w.getD (p.1 + i) 0 == 0xFF#8).map fun i => p.1 + i

/-- Check 5 of R266 for a command with its data: the failing record and field. -/
def check5 (s : State) (c : Cmd) (d : Bytes) : Option (Nat × Nat) :=
  match c.op, c.index s with
  | .query, some i => queryData i.geo 1 d
  | .queryBatch, some i => queryData i.geo c.queries d
  | .insert, some i => insertData i.geo c.count d
  | .delete, _ => idData true c.count 8 d
  | .labelUpdate, _ => idData true c.count 16 d
  | .fetch, _ => idData false c.count 8 d
  | .indexCreate, _ => ((geoOf s c.facet (c.ar 1 1)).map fun g => centroidData g d).getD none
  | .encode, _ => ((modelRec s c.facet c.model).map fun m => encodeData m (c.ar 6 2) (c.ar 8 4) (c.ar 3 1) d).getD none
  | .modelLoad, _ =>
    if (crc32c d).toNat != c.ar 4 4 then some (0, 0x24)
    else ((modelRec s c.facet c.model).map fun m => (badScale m d).map fun o => (0, inData o)).getD none
  | _, _ => none

end Sys2Proof.Machine
end

