-- ==== Sys2Proof/Machine/FlashM.lean ====
section
/-! DEFINITION. Flash dies: read queues, program and erase segments (R202 to R205, R224, R323, R324, R326). -/

namespace Sys2Proof.Machine

/-- A die with nothing on it. -/
def Die.blank (ch d : Nat) : Die := ⟨ch, d, [], [], none, false⟩

/-- The die of a channel. -/
def dieOf (s : State) (ch d : Nat) : Die := (s.flash.dies.find? fun x => x.channel == ch && x.die == d).getD (Die.blank ch d)

/-- A die changed; it is listed once it has been used. -/
def updDie (ch d : Nat) (g : Die → Die) (s : State) : State :=
  let here := fun (x : Die) => x.channel == ch && x.die == d
  let ds := if s.flash.dies.any here then updFirst here g s.flash.dies else s.flash.dies ++ [g (Die.blank ch d)]
  { s with flash := { s.flash with dies := ds } }

/-- Order of service of reads: class, absolute deadline with none last, issue order (R205). -/
def readBefore (a b : Read) : Bool :=
  if a.cls != b.cls then a.cls < b.cls
  else match a.deadline, b.deadline with
    | some x, some y => if x != y then x < y else a.order ≤ b.order
    | some _, none => true
    | none, some _ => false
    | none, none => a.order ≤ b.order

/-- A read of APEX, PRIME or BULK waits on the die (R205). -/
def urgentWaits (d : Die) : Bool := d.reads.any fun r => r.cls ≤ 2

/-- A read holds both kinds of credit on its channel and may be granted (R210, R223). -/
def readFunded (s : State) (ch : Nat) (r : Read) : Bool :=
  let c := readClass s r
  flashCredit s ch r.unit.facet c && flashBytes s ch r.unit.facet c && mayGrant s c false

/-- A segment may start on a die (R205, R326): the die is idle, the flash is not critical, and a throttled flash runs one
segment per channel at a time. -/
def dieReady (s : State) (ch d : Nat) : Bool :=
  let x := dieOf s ch d
  let hot := s.brd.thermal.getD 9 0
  x.run.isNone && x.reads.all (fun r => !r.started) && hot < 3 &&
  (hot < 2 || (List.range 4).all fun k => (dieOf s ch k).run.isNone)

/-- A segment holds what it needs beside a tick of credit: the credit is its own, and where it sends data the byte credit of its channel; an erase
needs none (R210, R223, R226). -/
def segFunded (s : State) (ch : Nat) (g : Seg) : Bool :=
  flashCredit s ch g.facet g.cls &&
  (match g.work with
    | .scrub _ => true
    | _ => flashBytes s ch g.facet g.cls)

/-- A request that holds credit waits on the channel: a read that has not started, or a segment of a die that could start (R205, R223). -/
def creditedWaits (s : State) (ch : Nat) : Bool :=
  (List.range 4).any fun k =>
    (dieOf s ch k).reads.any (fun r => !r.started && readFunded s ch r) ||
    (dieReady s ch k && (dieOf s ch k).segs.any fun g => segFunded s ch g && mayGrant s g.cls false)

/-- The read a plane serves next and whether it borrows: of those that hold credit the first by R205, else, while no request with credit waits on
the channel, the first that may borrow (R205, R211, R223). While a segment is suspended that may go on, only reads of APEX, PRIME or BULK, for
which it was. -/
def nextRead (s : State) (ch p : Nat) (urgent : Bool) (rs : List Read) : Option (Read × Bool) :=
  let l := sortBy readBefore (rs.filter fun r => r.plane == p && !r.started && (!urgent || r.cls ≤ 2))
  match l.find? (readFunded s ch) with
  | some r => some (r, false)
  | none => if creditedWaits s ch then none else (l.find? fun r => mayGrant s (readClass s r) true).map fun r => (r, true)

/-- The suspended segment of a die may go on: its class may be granted (R261). -/
def mayResume (s : State) (d : Die) : Bool := d.run.all fun g => mayGrant s g.cls g.borrowed

/-- An idle plane starts its next read unless a segment occupies the die (R204, R205). -/
def startPlane (ch d p : Nat) (s : State) : State :=
  let x := dieOf s ch d
  if (x.run.isSome && !x.suspended) || x.reads.any (fun r => r.plane == p && r.started) then s
  else match nextRead s ch p (x.suspended && mayResume s x) x.reads with
    | some (r, b) => updDie ch d (fun y => { y with
        reads := updFirst (fun q => q.order == r.order) (fun q => { q with started := true, borrowed := b }) y.reads }) s
    | none => s

/-- A suspended segment resumes once no urgent read remains; its time is charged from then on (R205, R222). -/
def resumeSeg (t : Nat) (d : Die) : Die :=
  if d.suspended && !urgentWaits d && d.reads.all (fun r => !r.started) then
    { d with suspended := false, run := d.run.map fun g => { g with since := t } }
  else d

/-- A die after a change: a suspended segment may resume, and idle planes start reads (R204, R205). -/
def startPlanes (ch d : Nat) (s : State) : State :=
  let s1 := if (dieOf s ch d).suspended && mayResume s (dieOf s ch d) then updDie ch d (resumeSeg (now s)) s else s
  (List.range 4).foldl (fun t p => startPlane ch d p t) s1

/-- Base channel and die of a unit's structure (R203): a list's b_L and d_L. -/
def unitBase (s : State) (u : Unit') : Nat × Nat :=
  if u.structure' == 0 then
    match idxOf s u.facet u.slot with
    | some ix => ((listOf ix u.list).bL.getD 0, (listOf ix u.list).dL.getD 0)
    | none => (0, 0)
  else (0, 0)

/-- Channel, die and plane of a unit (R203). -/
def placeOf (s : State) (u : Unit') : Nat × Nat × Nat := unitPlace (unitBase s u).1 (unitBase s u).2 u.unit

/-- The unit a location lies in (R66, R70). -/
def unitOf (g : Geometry) : Loc → Unit'
  | .list l p => ⟨g.facet, g.slot, 0, l, p / perUnit g⟩
  | .side a => ⟨g.facet, g.slot, 1, 0, a / perUnit g⟩
  | .node n => ⟨g.facet, g.slot, 2, 0, n / perGraphUnit g⟩

/-- A unit as one number. -/
def unitKey (u : Unit') : Nat := (((u.facet * 16 + u.slot) * 4 + u.structure') * 2 ^ 20 + u.list) * 2 ^ 32 + u.unit

/-- A page-map entry (R202): channel, die and plane, then block, page and unit within the page. -/
def pageWord (pl spot : Nat × Nat × Nat) : Nat :=
  pl.1 % 64 + 2 ^ 6 * (pl.2.1 % 4) + 2 ^ 8 * (pl.2.2 % 4) + 2 ^ 10 * (spot.2.2 % 4) + 2 ^ 12 * (spot.2.1 % 4096) + 2 ^ 24 * (spot.1 % 16384)

/-- The sketch generation of what a unit holds: its list's, or its first node's (R66, R70). -/
def unitGen (s : State) (u : Unit') : Nat :=
  match idxOf s u.facet u.slot with
  | none => 0
  | some ix => if u.structure' == 0 then (curCopy (listOf ix u.list)).gen
    else if u.structure' == 1 then ix.gen
    else match ix.trans with
      | some t => if u.unit * perGraphUnit ix.geo < t.next then ix.gen else t.old
      | none => ix.gen

/-- The page-map entry of a unit that queries of an epoch read, with the generation when it was written (R195); a unit that came without one has
the firmware's (R202; log 13). -/
def pageAt (s : State) (e : Nat) (u : Unit') : Nat × Nat :=
  match s.flash.pages.find? fun p => p.1 == u && p.2.1 ≤ e with
  | some p => p.2.2
  | none => (pageWord (placeOf s u) (Config.flashSpot (unitKey u)), unitGen s u)

/-- The newest page-map entry of a unit. -/
def pageOf (s : State) (u : Unit') : Nat × Nat := pageAt s (2 ^ 48) u

/-- Block and page of a unit as queries of an epoch read it (R202). -/
def spotAt (s : State) (e : Nat) (u : Unit') : Nat × Nat := ((pageAt s e u).1 / 2 ^ 24 % 16384, (pageAt s e u).1 / 2 ^ 12 % 4096)

/-- A block of a plane as one number. -/
def blockKey (ch d pl blk : Nat) : Nat := ((ch * 4 + d) * 4 + pl) * 16384 + blk

/-- The first block of a plane from one on that has not been retired (R323). -/
def goodBlock (s : State) (pl : Nat × Nat × Nat) : Nat → Nat → Nat
  | 0, b => b
  | n + 1, b => if s.flash.bad.contains (blockKey pl.1 pl.2.1 pl.2.2 b) then goodBlock s pl n ((b + 1) % 16384) else b

/-- The word of a new page for a unit, which keeps its channel, die and plane; no retired block is used again (R202, R203, R323). -/
def newPage (s : State) (u : Unit') : Nat :=
  let pl := placeOf s u
  let p := Config.flashSpot s.free
  pageWord pl (goodBlock s pl (s.flash.bad.length + 1) (p.1 % 16384), p.2)

/-- A page-map entry of a unit from an epoch on, before those of older epochs; one of the same epoch is replaced. -/
def putPage (u : Unit') (e word gen : Nat) (s : State) : State :=
  useFree { s with flash := { s.flash with
    pages := insertBy (fun a b => b.2.1 ≤ a.2.1) (u, e, word, gen) (s.flash.pages.filter fun p => !(p.1 == u && p.2.1 == e)) } }

/-- A programmed unit joins the parity group that is being formed, on channels that are all distinct; a group of 15, or one whose channels the unit
would repeat, is closed with its parity unit on one more channel (R324). -/
def joinParity (u : Unit') (s : State) : State :=
  let chOf := fun (v : Unit') => (placeOf s v).1
  let close := fun (l : List Unit') => (⟨l, ((List.range 64).find? fun c => !(l.map chOf).contains c).getD 0⟩ : Parity)
  let l := s.flash.forming
  if (l.map chOf).contains (chOf u) then { s with flash := { s.flash with forming := [u], groups := close l :: s.flash.groups } }
  else if l.length == 14 then { s with flash := { s.flash with forming := [], groups := close (l ++ [u]) :: s.flash.groups } }
  else { s with flash := { s.flash with forming := l ++ [u] } }

/-- The other units of the newest parity group of a unit (R324). -/
def parityMates (s : State) (u : Unit') : List Unit' :=
  let l := if s.flash.forming.contains u then s.flash.forming else ((s.flash.groups.find? (·.units.contains u)).map (·.units)).getD []
  l.filter (· != u)

/-- A unit written as a new copy for an epoch: it keeps channel, die and plane, its entry names a new page, and it joins a parity group (R195, R202,
R203, R324). -/
def writeUnit (u : Unit') (s : State) : State :=
  joinParity u (putPage u (commitEpoch (facetOf s u.facet)) (newPage s u) (unitGen s u) s)

/-- The epoch that published the copy of a unit which queries of an epoch read (R195). -/
def pageEpoch (s : State) (e : Nat) (u : Unit') : Nat := ((s.flash.pages.find? fun p => p.1 == u && p.2.1 ≤ e).map (·.2.1)).getD 0

/-- Page-map entries of units that are no more. -/
def dropPages (p : Unit' → Bool) (s : State) : State := { s with flash := { s.flash with pages := s.flash.pages.filter fun e => !p e.1 } }

/-- A unit is lost for queries of an epoch (R324). -/
def lostAt (s : State) (e : Nat) (u : Unit') : Bool := s.flash.lost.any fun m => m.1 == u && m.2.1 ≤ e && m.2.2.all (e < ·)

/-- Page-map entries and lost marks of a facet that no query at or above the floor epoch reads any more (R74, R195). -/
def freePages (f floor : Nat) (s : State) : State :=
  let newer := fun (p q : Unit' × Nat × Nat × Nat) => q.1 == p.1 && p.2.1 < q.2.1 && q.2.1 ≤ floor
  { s with flash := { s.flash with
      pages := s.flash.pages.filter fun p => p.1.facet != f || !s.flash.pages.any (newer p),
      lost := s.flash.lost.filter fun m => m.1.facet != f || m.2.2.all (floor < ·) } }

/-- Flash units of an index: its lists, its side list, its node array. -/
def allUnits (ix : Index) : List Unit' :=
  let g := ix.geo
  let at' := fun (k l u : Nat) => (⟨g.facet, g.slot, k, l, u⟩ : Unit')
  (ix.lists.map fun d => (List.range (cdiv (curCopy d).pos.length (perUnit g))).map (at' 0 d.num)).flatten ++
  (List.range (sideUnits g ix.head (nextApp ix))).map (fun i => at' 1 0 (ix.head / perUnit g + i)) ++
  (if g.mode == 0 then [] else (graphUnits ix).map (at' 2 0))

/-- The reserve unit that holds an ID's location word (R73): the map is laid out over the reserve as the log's units are. -/
def mapUnit (g : Geometry) (id : Nat) : Unit' := ⟨g.facet, g.slot, 3, 0, id / 512⟩

/-- Flash read tags of a channel in use (R212): its reads in the die queues and in service. -/
def tagsUsed (s : State) (ch : Nat) : Nat := ((s.flash.dies.filter (·.channel == ch)).map fun d => d.reads.length).sum

/-- A read put on its die's queue and started if its plane is free (R205). -/
def queueRead (ch d : Nat) (r : Read) (s : State) : State := startPlanes ch d (updDie ch d (fun x => { x with reads := x.reads ++ [r] }) s)

/-- The epoch at which a read's unit is read (R195): its query's or TRAIN's; a command reads what is there now. -/
def readEpoch (s : State) (p : Purpose) : Nat :=
  match p with
  | .rerank x _ => ((queryOf s x).map (·.epoch)).getD (2 ^ 48)
  | .vertex x _ => ((queryOf s x).map (·.epoch)).getD (2 ^ 48)
  | .mine t _ => ((s.srch.train.find? (·.tag == t)).map (·.et)).getD (2 ^ 48)
  | _ => 2 ^ 48

/-- A read under one of its channel's 128 tags; without a free one it waits (R212). That of a lost unit fails at once, without a tag, credit or an
array read (R324). -/
def issueRead (u : Unit') (cls : Nat) (deadline : Option Nat) (p : Purpose) (s : State) : State :=
  if lostAt s (readEpoch s p) u then { s with flash := { s.flash with gone := s.flash.gone ++ [p] } }
  else
  let pl := placeOf s u
  let r : Read := ⟨pl.2.2, cls, deadline, s.flash.order, false, false, u, p⟩
  let s1 := { s with flash := { s.flash with order := s.flash.order + 1 } }
  if tagsUsed s pl.1 < 128 then queueRead pl.1 pl.2.1 r s1
  else { s1 with flash := { s1.flash with waits := s1.flash.waits ++ [((pl.1, pl.2.1), r)] } }

/-- A tag of a channel is free: the read that R205 puts first among those that wait takes it (R212). -/
def freeReadTag (ch : Nat) (s : State) : State :=
  match (sortBy (fun a b : (Nat × Nat) × Read => readBefore a.2 b.2) (s.flash.waits.filter (·.1.1 == ch))).head? with
  | none => s
  | some w => queueRead w.1.1 w.1.2 w.2 { s with flash := { s.flash with waits := s.flash.waits.filter fun x => x.2.order != w.2.order } }

/-- Reads whose tag has come free are queued (R212); reads that waited for credit, or for a borrowed grant, start where they now may, and suspended
segments resume (R205, R223). -/
def startReads (s : State) : State :=
  let s1 := s.flash.waits.foldl (fun t w => if tagsUsed t w.1.1 < 128 then freeReadTag w.1.1 t else t) s
  s1.flash.dies.foldl (fun t d => if d.reads.isEmpty && !d.suspended then t else startPlanes d.channel d.die t) s1

/-- Reads that wait for a tag, are queued or are in service on a die, in its terms of R99. -/
def readsOn (s : State) (ch d : Nat) : List Read :=
  (dieOf s ch d).reads ++ (s.flash.waits.filter (·.1 == (ch, d))).map (·.2)

/-- Reads in service for what p selects, by their order. -/
def readsStarted (p : Purpose → Bool) (s : State) : List Nat :=
  (s.flash.dies.flatMap fun d => (d.reads.filter fun r => r.started && p r.purpose)).map (·.order)

/-- Reads of stopped commands: those that have not started are withdrawn; a started read runs to its end for no one, under
a tag that no command holds (R234, R259). -/
def dropReads (p : Purpose → Bool) (s : State) : State :=
  let cut := fun (r : Read) => if !p r.purpose then some r else if r.started then some { r with purpose := .map 65536 0 } else none
  let ds := s.flash.dies.map fun d => { d with reads := d.reads.filterMap cut }
  { s with flash := { s.flash with
    dies := ds, waits := s.flash.waits.filter (fun w => !p w.2.purpose), gone := s.flash.gone.filter fun w => !p w } }

/-- The running segment of a die charged: a quarter of its die time, at most 63 ticks (R222, R224). -/
def chargeDie (d : Die) (s : State) : State :=
  match d.run with
  | some g => if d.suspended then s
    else charge (unitChannel d.channel) g.facet g.cls (min 63 (cdiv (ticksSince s g.since) 4)) g.borrowed s
  | none => s

/-- A read charged as it ends, in the way that it was granted: 18 ticks and one unit (R210, R211, R223, R224). -/
def chargeRead (ch f cls : Nat) (borrowed : Bool) (s : State) : State :=
  let s1 := charge (unitChannel ch) f cls 18 borrowed s
  if borrowed then takeBorrowed (16 + ch) f 1 s1 else takeBytes (16 + ch) f cls 1 4096 s1

/-- A program or erase of a plane put on a die to run in segments. -/
def queueSeg (ch d pl : Nat) (block : Option Nat) (cls facet : Nat) (w : SegWork) (s : State) : State :=
  updDie ch d (fun x => { x with segs := x.segs ++ [⟨pl, block, cls, facet, w, false, 0⟩] }) s

/-- Units of an index that were programmed: the page-map entries of list and graph units; the log names those of a side list, and those of the tier
image lie in the reserve (R67, R70, R321). All of them join parity groups (R324). -/
def writePages (us : List Unit') (s : State) : State :=
  us.foldl (fun t u => if u.structure' == 1 || u.structure' == 3 then joinParity u t else writeUnit u t) s

/-- A flash write of a command: where it goes is the firmware's choice (R202), a free value (log 13). -/
def queueCmdSeg (cls facet tag : Nat) (s : State) : State :=
  let p := Config.flashSpot s.free
  queueSeg (p.1 % 64) (p.2.1 % 4) (p.2.2 % 4) none cls facet (.cmd tag) (useFree s)

/-- Segments taken off every die: those of a facet's log, or all that p selects. One that runs goes on to its end for no one (R225). -/
def dropSegs (p : Seg → Bool) (s : State) : State :=
  let ds := s.flash.dies.map fun d => { d with
    segs := d.segs.filter fun x => !p x, run := d.run.map fun r => if p r then { r with work := .ended } else r }
  { s with flash := { s.flash with dies := ds } }

/-- FLASH_SEGMENT_START: the granted request's first waiting segment starts (R205, R223); as a borrowed grant only while no request with
credit waits on the channel. -/
def startSegment (ch d : Nat) (s : State) : State :=
  let x := dieOf s ch d
  if !dieReady s ch d then s
  else match grantAmong s (unitChannel ch) (fun g : Seg => (g.facet, g.cls)) (segFunded s ch) x.segs with
    | none => s
    | some (g, borrowed) =>
      if borrowed && creditedWaits s ch then s
      else
        let i := x.segs.findIdx fun y => y == g
        rotateTo (unitChannel ch) g.facet (updDie ch d (fun y => { y with
          segs := y.segs.eraseIdx i, run := some { g with borrowed := borrowed, since := now s }, suspended := false }) s)

/-- FLASH_SEGMENT_START. -/
def execFlashSegmentStart (channel die : Nat) (s : State) : Host.Outcome State Fault Refusal :=
  .next (startSegment channel die s)

end Sys2Proof.Machine
end

