-- ==== Sys2Proof/Machine/Jobs.lean ====
section
/-! DEFINITION. Work in pieces: what internal work asks of units and memories, and how each piece of it is granted (R210, R211, R222 to R226). -/

namespace Sys2Proof.Machine

/-- Idle engines take the next tile among those of facets that own a block in their region, or escapes of their own rows (R164,
R223). A facet whose regions are all fenced takes any live engine (R12; log 56). -/
def tileFor (s : State) (e : Nat) (t : Tile) : Bool :=
  match t.engine with
  | some n => n == e
  | none =>
    let rs := ((facetRec s t.facet).map FacetRec.regions).getD []
    rs.contains e || rs.all s.srch.regionsOut.contains

/-- The operand columns that a tile of search reads from HBM, with the first of the passes that take them: up to 256 centroids, or rows of a W in
BF16 (R58, R79, R162; log 45): key, offset, bytes. -/
def tileOperand (s : State) (t : Tile) : Option (Nat × Nat × Nat) :=
  match idxOf s t.facet t.slot with
  | none => none
  | some ix =>
    let g := ix.geo
    let row := g.dims * elemSize g.storage
    if t.escape then none
    else match t.kind with
      | .coarse i => if t.part == 0 then some (coarseKey, 256 * i * row, (min 256 (g.coarse - 256 * i)) * row) else none
      | .fine i => if t.part == 0 then some (fineKey, 256 * i * row, (min 256 (listCount g - 256 * i)) * row) else none
      | .sketch n =>
        let per := max 1 (sketchPasses s ix n / cdiv g.sketchBits 256)
        if t.part % per == 0 then some (projKey n, 256 * (t.part / per) * 2 * g.dims, min 256 g.sketchBits * 2 * g.dims) else none
      | .node _ _ _ => none

/-- Runs of that operand. -/
def operandRuns (t : Tile) (o : Nat × Nat × Nat) : Nat × Nat := byteRuns (freeBase t.facet t.slot o.1) o.2.1 o.2.2

/-- The memory that a tile's operand comes from has byte credit for its class (R210, R223): for a model's weights the HBM stack beside the engine's
region, and the stacked slice above it where the slices pass between regions (R178); for a tile of search every stack that its columns lie on. -/
def tileBytes (s : State) (e : Nat) (t : Tile) : Bool :=
  match t.kind with
  | .node _ _ _ => holdsBytes s e t.facet (t.cls % 8) && ((liveRegions s t.facet).length ≤ 1 || holdsBytes s (8 + e) t.facet (t.cls % 8))
  | _ => (tileOperand s t).all fun o =>
      runsFunded s t.facet t.slot o.1 (t.cls % 8) (freeBase t.facet t.slot o.1) (operandRuns t o)

/-- A tile of search reads its operand columns (R197, R211, R218). -/
def readOperand (t : Tile) (s : State) : State :=
  match tileOperand s t with
  | some o => readHbm t.facet t.slot o.1 (t.cls % 8) (freeBase t.facet t.slot o.1) (operandRuns t o) s
  | none => s

/-- A class holds credit on a unit for one more piece (R223, R226). -/
def unitCredit (s : State) (u f cls : Nat) : Bool := if 6000 ≤ u then flashCredit s (u - 6000) f cls else holdsCredit s u f cls

/-- A class holds byte credit on a memory resource for one more piece (R210). -/
def resCredit (s : State) (r f cls : Nat) : Bool := if 16 ≤ r then flashBytes s (r - 16) f cls else holdsBytes s r f cls

/-- A request that holds credit waits on a unit: a read or segment of a flash channel, a tile for a matrix engine (R223). -/
def creditedOn (s : State) (u : Nat) : Bool :=
  if 6000 ≤ u then creditedWaits s (u - 6000)
  else 5000 ≤ u && u < 5100 && s.srch.tiles.any fun t =>
    tileFor s (u - 5000) t && holdsCredit s u t.facet (t.cls % 8) && tileBytes s (u - 5000) t && mayGrant s (t.cls % 8) false

/-- The first of some pieces that wait asks a memory resource and holds byte credit there. -/
def waitsAt (s : State) (r f cls : Nat) (js : List Job) : Bool :=
  js.head?.any fun j => j.res == some r && resCredit s r f cls && mayGrant s cls false

/-- A request that holds byte credit waits on a memory resource: of work in progress on an index, or of a sliver that has been scanned (R211). -/
def creditedAt (s : State) (r : Nat) : Bool :=
  (s.idx.any fun ix => ix.work.any fun w => waitsAt s r ix.geo.facet w.cls w.jobs) ||
  s.srch.cells.any fun c => c.run.any fun v => v.wait.any (waitsAt s r v.facet (v.cls % 8))

/-- The next piece of a job holds the credit that it needs (R210, R223). -/
def jobFunded (s : State) (f cls : Nat) (j : Job) : Bool :=
  j.unit.all (unitCredit s · f cls) && j.res.all (resCredit s · f cls) && mayGrant s cls false

/-- The next piece of a job may be a borrowed grant: no request that holds credit waits on its unit or its memory (R211, R223). -/
def jobBorrows (s : State) (cls : Nat) (j : Job) : Bool := !j.unit.any (creditedOn s) && !j.res.any (creditedAt s) && mayGrant s cls true

/-- One piece of a job charged as it was granted, its bytes counted, and its program put on the die (R205, R211, R218, R222 to R224). -/
def chargePiece (f cls : Nat) (w : SegWork) (j : Job) (borrowed : Bool) (s : State) : State :=
  let s1 := match j.unit with
    | some u => charge u f cls j.ticks borrowed s
    | none => s
  let s2 := match j.res with
    | some r => if borrowed then takeBorrowed r f j.grants s1 else takeBytes r f cls j.grants j.size s1
    | none => s1
  let s3 := match j.entry with
    | some n => bump f (kFct n) (j.grants * j.size) s2
    | none => s2
  match j.die, j.unit with
  | some d, some u => queueSeg (u - 6000) d.1 d.2 none cls f w s3
  | _, _ => s3

/-- The pieces of a job granted one after another, while there is credit or a borrowed grant for the next: how many are left (R225). -/
def grantPieces (f cls : Nat) (w : SegWork) (j : Job) : Nat → State → Nat × State
  | 0, s => (0, s)
  | n + 1, s =>
    if jobFunded s f cls j then grantPieces f cls w j n (chargePiece f cls w j false s)
    else if jobBorrows s cls j then grantPieces f cls w j n (chargePiece f cls w j true s)
    else (n + 1, s)

/-- Jobs done in their order as far as they are granted: what is left of them, which begins with the piece that waits (R225). -/
def runJobs (f cls : Nat) (w : SegWork) : List Job → State → List Job × State
  | [], s => ([], s)
  | j :: js, s =>
    let r := grantPieces f cls w j j.n s
    if r.1 == 0 then runJobs f cls w js r.2 else ({ j with n := r.1 } :: js, r.2)

/-- Jobs that are all granted now, or none of them: the work waits (R223, R225). -/
def allJobs (f cls : Nat) (w : SegWork) (js : List Job) (s : State) : Option State :=
  let r := runJobs f cls w js s
  if r.1.isEmpty then some r.2 else none

/-- n runs of 2 KiB of a memory resource, its bytes counted under an FCT_ entry where they are read (R211, R218). -/
def runJob (r n : Nat) (entry : Option Nat) : Job := ⟨none, 0, some r, 1, 2048, entry, none, n⟩

/-- n units of 4 KiB moved over a channel, 18 ticks each (R211, R224). -/
def unitJob (ch n : Nat) (entry : Option Nat) : Job := ⟨some (unitChannel ch), 18, some (16 + ch), 1, 4096, entry, none, n⟩

/-- Some ticks of a unit (R222). -/
def tickJob (u ticks : Nat) : Job := ⟨some u, ticks, none, 0, 0, none, none, 1⟩

/-- Units read with the other units of their pages: a streaming read of a page is 4 units, each of which is a grant of its own (R202, R204, R211,
R224, R225). -/
def pageJobs (s : State) (us : List Unit') : List Job :=
  let page := fun (u : Unit') =>
    let w := (pageOf s u).1
    (w % 2 ^ 10, w / 2 ^ 12)
  (nub (us.map page)).map fun p => unitJob (p.1 % 64) 4 (some 4)

/-- Units read one by one, each for itself (R204, R211, R224). -/
def readJobs (s : State) (us : List Unit') : List Job := us.map fun u => unitJob (placeOf s u).1 1 (some 4)

/-- Units programmed at some places: the data sent, and a program for each on its die (R205, R224). -/
def programJobs (ps : List (Nat × Nat × Nat)) : List Job := ps.map fun p => { unitJob p.1 1 none with die := some p.2 }

/-- The units of a frame's flash copy that hold n of its runs from pseudo-channel p on; its 16 units lie on 16 channels (R321; log 13). -/
def flashJobs (s : State) (p n : Nat) : List Job :=
  (frameUnits p n).map fun i => unitJob ((Config.unitChoice s.free + i) % 64) 1 (some 4)

/-- Runs of a structure in HBM, a frame at a time from its stack, or from the flash copy of a frame that is being rebuilt (R196, R197, R218,
R320, R321). -/
def hbmJobs (s : State) (f slot key base : Nat) (r : Nat × Nat) : List Job :=
  (runsByFrame r.1 r.2).flatMap fun p =>
    let g := frameAt s f slot key base p.1
    if frameLost s g then flashJobs s (if p.1 == r.1 / 32 then r.1 % 32 else 0) p.2 else [runJob g.1 p.2 (some 3)]

/-- Bytes of a structure in HBM, from an offset on (R197). -/
def byteJobs (s : State) (f slot key base off n : Nat) : List Job := hbmJobs s f slot key base (byteRuns base off n)

/-- Ticks of a tile pass: 2,048 CORE cycles (R158, R222). -/
def passTicks (s : State) : Nat := cdiv 20480 s.brd.coreMhz

/-- The passes in which an engine sketches n vectors under a generation, and one for each row that escaped (R58, R158, R164, R222). -/
def sketchJob (s : State) (ix : Index) (e gen n escapes : Nat) : Job :=
  { tickJob (unitEngine e) (passTicks s) with n := cdiv n 256 * sketchPasses s ix gen + escapes }

/-- Work of one of the chip's ingest/compaction engines (R12, R19; log 41). -/
def ingestJob (s : State) : Job :=
  let u := unitIngest (Config.unitChoice s.free % 4)
  tickJob u (Config.workTicks s.free u)

end Sys2Proof.Machine
end

