-- ==== Sys2Proof/Machine/Scrub.lean ====
section
/-! DEFINITION. Scrubs: the flash blocks that a dropped index or facet leaves are erased, and a destroyed facet's HBM and stacked memory zeroed, under
its SCRUB class (R219, R236, R278). -/

namespace Sys2Proof.Machine

/-- Channel, die, plane and block that a page-map entry names (R202). -/
def wordBlock (w : Nat) : Nat × Nat × Nat × Nat := (w % 64, w / 2 ^ 6 % 4, w / 2 ^ 8 % 4, w / 2 ^ 24 % 16384)

/-- Blocks that hold the units p selects, in any copy that the page map names, and those of the units of some indexes that it does not (R195,
R202). -/
def blocksHeld (s : State) (p : Unit' → Bool) (is : List Index) : List (Nat × Nat × Nat × Nat) :=
  let other := (is.flatMap allUnits).filter fun u => !s.flash.pages.any (·.1 == u)
  nub (((s.flash.pages.filter fun e => p e.1).map fun e => wordBlock e.2.2.1) ++ other.map fun u => wordBlock (pageOf s u).1)

/-- Blocks of a facet that no page-map entry names: those of its log and its maps, and of its model slots' weights, 64 MiB each, where firmware put
them (R67, R170, R202; log 13). -/
def otherBlocks (s : State) (f : Nat) : List (Nat × Nat × Nat × Nat) :=
  let bytes := ((s.mods.filter (·.facet == f)).map fun m => m.weights.length).sum
  (List.range (1 + cdiv bytes (2 ^ 26))).map fun i =>
    let p := Config.flashSpot (s.free + i)
    (p.1 % 64, p.2.1 % 4, p.2.2 % 4, p.1 / 64 % 16384)

/-- One erase for each of some blocks (R203, R205, R225). -/
def queueErases (f : Nat) (bs : List (Nat × Nat × Nat × Nat)) (s : State) : State :=
  bs.foldl (fun t b => queueSeg b.1 b.2.1 b.2.2.1 (some b.2.2.2) 7 f (.scrub f) t) (useFree s)

/-- The zeroing of what a facet holds in HBM, frame by frame over the stacks of its share, and of its stacked share over the slices above its
regions (R196, R199, R211, R236). -/
def zeroJobs (s : State) (f : Nat) : List Job :=
  let frame := fun (r n : Nat) => { runJob r n none with grants := 32 }
  let st := shareStacks s f
  let frames := cdiv (hbmCharged s f) 65536
  let part := fun (i : Nat) => frames * (i + 1) / st.length - frames * i / st.length
  let slice := fun (g : Nat) => cdiv (sliceRoom s f (stackedShare s f) g) 65536
  (((List.range st.length).map fun i => frame (st.getD i 0) (part i)) ++ (List.range 8).map fun g => frame (8 + g) (slice g)).filter (·.n != 0)

/-- A facet's erases still to run. -/
def erasesLeft (s : State) (f : Nat) : Bool :=
  s.flash.dies.any fun d => (d.segs.any fun g => g.work == .scrub f) || d.run.any fun g => g.work == .scrub f

/-- What is left of a facet's scrub: blocks to erase, or memory to zero. -/
def scrubLeft (s : State) (f : Nat) : Bool := erasesLeft s f || !(facetOf s f).scrub.isEmpty

/-- A facet's scrub goes on as far as its pieces are granted; what it leaves is charged no more once all of it is done (R236, R278). -/
def scrubOn (s : State) (f : Nat) : State :=
  let r := runJobs f 7 .ended (facetOf s f).scrub s
  let t := updFacet f (fun x => { x with scrub := r.1 }) r.2
  if scrubLeft t f then t else updFacet f (fun x => { x with droppedFlash := 0, scrubHbm := 0 }) t

/-- Every scrub in progress goes on. -/
def scrubsOn (s : State) : State := ((s.facets.filter fun x => !x.scrub.isEmpty).map (·.num)).foldl scrubOn s

end Sys2Proof.Machine
end

