-- ==== Sys2Proof/Machine/Streams.lean ====
section
/-! DEFINITION. Streams: descriptors, tags, buffers, handles and block checks (R208, R209, R212 to R214, R217). -/

namespace Sys2Proof.Machine

/-- The stream that feeds a consumer. -/
def streamBy (s : State) (u : Consumer) : Option Strm := s.mem.streams.find? (·.user == u)

/-- The stream that a cell's scanner is fed by. -/
def streamOf (s : State) (c : Nat) : Option Strm := streamBy s (.sliver c)

/-- Bytes of the elements of a stream. -/
def Strm.bytes (x : Strm) : Nat := x.size * (x.counts.foldl (· * ·) 1)

/-- Tags of a stream (R212): one for each run of 2 KiB that its buffers can have in flight, two to a buffer; it keeps them while it keeps the
buffers (R209). -/
def Strm.tags (x : Strm) : Nat := 2 * (x.buffers.length + x.escapes.length)

/-- Stream tags in use (R212). -/
def tagsTaken (s : State) : Nat := (s.mem.streams.map Strm.tags).sum

/-- A consumer's stream can be armed: the one it keeps holds its tags, a new one needs a free one of the 4,096 (R209, R212). -/
def tagFor (s : State) (u : Consumer) : Bool := (streamBy s u).isSome || decide (tagsTaken s < 4096)

/-- A cell's stream can be armed. -/
def streamReady (s : State) (c : Nat) : Bool := tagFor s (.sliver c)

/-- The route of a stream to an engine and its depth: the facet's lowest ROUTES record that ends there, else its lowest one (R37, R208;
log 92). -/
def routeTo (s : State) (f dst : Nat) : Nat × Nat :=
  let rs := sortBy (fun a b : RouteRec => a.route ≤ b.route) (s.cfg.routes.filter (·.facet == f))
  match (rs.find? fun r => r.dst == dst).or rs.head? with
  | some r => (r.route, r.depth)
  | none => (255, 2)

/-- The route of a stream to a cell, which ends at its block. -/
def routeFor (s : State) (f c : Nat) : Nat × Nat := routeTo s f (0x700 + cellBlock c)

/-- Buffers of a region's area that streams hold (R213). -/
def heldBuffers (s : State) (r : Nat) : List Nat := ((s.mem.streams.filter fun x => x.region == r).map fun x => x.buffers ++ x.escapes).flatten

/-- Buffers that a route holds, apart from one consumer's own and from escape buffers (R213). -/
def routeBuffers (s : State) (f route : Nat) (u : Consumer) : Nat :=
  ((s.mem.streams.filter fun x => x.facet == f && x.route == route && x.user != u).map (·.buffers.length)).sum

/-- Up to `want` buffer numbers from i up to `top` that are not in use (R199, R213). -/
def freeBuffers (used : List Nat) (top : Nat) : Nat → Nat → Nat → List Nat
  | 0, _, _ => []
  | n + 1, i, want =>
    if want == 0 || top ≤ i then []
    else if used.contains i then freeBuffers used top n (i + 1) want
    else i :: freeBuffers used top n (i + 1) (want - 1)

/-- A buffer handle (R213). -/
def bufHandle (buffer region : Nat) (escape : Bool) (blocks poison : Nat) : BitVec 32 :=
  BitVec.ofNat 32 (buffer % 2 ^ 11 + 2 ^ 11 * (region % 8) + 2 ^ 14 * flagBit 0 escape + 2 ^ 15 * (blocks % 2 ^ 8) + 2 ^ 23 * (poison % 2 ^ 8))

/-- The handle has its escape bit set (R213). -/
def isEscape (h : BitVec 32) : Bool := h.getLsbD 14

/-- Handles that the producer pushes for the bytes of a stream from `off` on, in some buffers: 512-byte blocks in use, none poisoned (R213). -/
def handlesFor (x : Strm) (off : Nat) (bs : List (Nat × Bool)) : List (BitVec 32) :=
  ((bs.take (cdiv (x.bytes - off) 4096)).zipIdx).map fun p =>
    bufHandle p.1.1 x.region p.1.2 (min 8 (cdiv (x.bytes - off - 4096 * p.2) 512)) 0

/-- A stream's buffers with their kind, its route's before the escape buffers. -/
def Strm.all (x : Strm) : List (Nat × Bool) := (x.buffers.map fun b => (b, false)) ++ x.escapes.map fun b => (b, true)

/-- Bytes of a stream that its producer has put into buffers. -/
def Strm.pushed (x : Strm) : Nat := 4096 * (x.taken + x.queue.length)

/-- A stream waits for a free buffer from a time on while bytes are left that its producer has no buffer for (R213, R217). -/
def Strm.waiting (x : Strm) (since : Nat) : Strm := { x with waits := if x.bytes ≤ x.pushed then none else some since }

/-- A stream filled (R209, R212, R213): it keeps the buffers it has and takes more, up to its need, its route's depth and the free tags; the
last 64 of a region's 1,536 buffers are its escape pool. For what they do not hold it waits (R217). -/
def fillStream (s : State) (depth : Nat) (x : Strm) : Strm :=
  let room := min (depth - routeBuffers s x.facet x.route x.user) ((4096 - tagsTaken s) / 2)
  let want := min (cdiv x.bytes 4096) room - x.buffers.length
  let used := heldBuffers s x.region
  let y := { x with buffers := x.buffers ++ freeBuffers used 1472 (used.length + want) 0 want }
  ({ y with queue := handlesFor y 0 y.all, taken := 0 } : Strm).waiting (x.waits.getD (now s))

/-- A stream armed (R208, R209): a persistent one of the same facet, class, element and route runs again with a new base and counts; another one
gets a new descriptor and the facet's next sequence number. -/
def arm (x : Strm) (depth : Nat) (s : State) : State :=
  let same := fun (o : Strm) => o.facet == x.facet && o.cls == x.cls && o.size == x.size && o.route == x.route
  let old := (streamBy s x.user).filter same
  let y := match old with
    | some o => { o with tier := x.tier, base := x.base, counts := x.counts }
    | none => { x with seq := s.mem.streamSeq.get x.facet % 2 ^ 32 }
  let rest := s.mem.streams.filter (·.user != x.user)
  let s1 := { s with mem := { s.mem with streams := rest } }
  { s1 with mem := { s1.mem with
      streams := rest ++ [fillStream s1 depth y],
      streamSeq := if old.isSome then s.mem.streamSeq else s.mem.streamSeq.bump x.facet 1 } }

/-- A stream of some elements that lie one behind another, before it is armed. -/
def plainStream (u : Consumer) (region f cls route size tier base count rate : Nat) : Strm :=
  { user := u, region := region, facet := f, cls := cls, route := route, persistent := true, toMemory := false, size := size, tier := tier,
    base := base, counts := [count, 1, 1, 1], strides := [(size : Int), 0, 0, 0], rate := rate, seq := 0, buffers := [], escapes := [],
    queue := [], taken := 0, waits := none }

/-- A feeder arms a cell's stream (R208, R209). -/
def armStream (c f cls size tier base count rate : Nat) (s : State) : State :=
  let rt := routeFor s f c
  arm (plainStream (.sliver c) (c / 512) f cls rt.1 size tier base count rate) rt.2 s

/-- An engine's stream armed: runs of 2 KiB to a walker's block or to a region's matrix engine (R208). -/
def armRuns (u : Consumer) (region dst f cls tier base runs rate : Nat) (s : State) : State :=
  let rt := routeTo s f dst
  arm (plainStream u region f cls rt.1 2048 tier base runs rate) rt.2 s

/-- The stream that brings what internal work on a slot reads, record by record, from HBM to memory (R208): rate 0, and its buffers in the facet's
lowest live region. -/
def armToMemory (f slot cls size base count : Nat) (s : State) : State :=
  let rt := routeTo s f 0x600
  let x := plainStream (.memory f slot) ((liveRegions s f).headD 0) f cls rt.1 size 0 base count 0
  arm { x with persistent := false, toMemory := true } rt.2 s

/-- Escape buffers back in a region's pool (R213). -/
def escapesBack (r n : Nat) (s : State) : State :=
  { s with mem := { s.mem with escapes := s.mem.escapes.set r (min 64 (s.mem.escapes.getD r 0 + n)) } }

/-- A loan of escape buffers gets smaller by the buffers that came back, and goes with the last one. -/
def lessLoan (r f seq n : Nat) (s : State) : State :=
  let here := fun (g : Nat × Nat × Nat × Nat) => g.1 == r && g.2.1 == f && g.2.2.1 == seq
  { s with mem := { s.mem with grants := (s.mem.grants.map fun g => if here g then (g.1, g.2.1, g.2.2.1, g.2.2.2 - n) else g).filter (·.2.2.2 != 0) } }

/-- A consumer has taken the first bytes of its stream (R213): it pops the handles of the buffers that lie in them whole and frees those: the buffers
of the route are filled again with what is still to come and queue behind the others, an escape buffer returns to its pool. -/
def popStream (u : Consumer) (bytes : Nat) (s : State) : State :=
  match streamBy s u with
  | none => s
  | some x =>
    let k := bytes / 4096 - x.taken
    let out := x.queue.take k
    let e := (out.filter isEscape).length
    let n := out.length - e
    let refill := (x.buffers.take n).map fun b => (b, false)
    let y : Strm := { x with
      queue := x.queue.drop k ++ handlesFor x x.pushed refill, taken := x.taken + k, escapes := x.escapes.drop e,
      buffers := x.buffers.drop n ++ x.buffers.take n }
    let z := if k == 0 then y else y.waiting (now s)
    let s1 := { s with mem := { s.mem with streams := updFirst (·.user == u) (fun _ => z) s.mem.streams } }
    if e == 0 then s1 else lessLoan x.region x.facet x.seq e (escapesBack x.region e s1)

/-- Escape buffers on loan to a facet's streams go back to their pools, and those streams' stalls end (R213, R217). -/
def returnEscapes (p : Nat → Nat → Bool) (s : State) : State :=
  let back := fun (t : State) (g : Nat × Nat × Nat × Nat) => escapesBack g.1 g.2.2.2 t
  let mine := fun (g : Nat × Nat × Nat × Nat) => p g.2.1 g.2.2.1
  let s1 := (s.mem.grants.filter mine).foldl back s
  { s1 with mem := { s1.mem with
      grants := s.mem.grants.filter (fun g => !mine g), stalls := s.mem.stalls.filter (fun w => !p w.1.facet w.1.seq),
      streams := s1.mem.streams.map fun x => if p x.facet x.seq then { x with escapes := [] } else x } }

/-- A stream has delivered its last element: its buffers are free, and it keeps those of its route with its tags; its escape buffers return (R209,
R213). -/
def drainBy (u : Consumer) (s : State) : State :=
  match streamBy s u with
  | none => s
  | some x => returnEscapes (fun f n => f == x.facet && n == x.seq)
      { s with mem := { s.mem with streams := updFirst (·.user == u) (fun x => { x with queue := [], waits := none }) s.mem.streams } }

/-- A cell's stream has delivered its last element. -/
def drainStream (c : Nat) (s : State) : State := drainBy (.sliver c) s

/-- Streams that p selects end: tags, buffers and routes are free, and escape buffers return. -/
def closeStreams (p : Strm → Bool) (s : State) : State :=
  let gone := s.mem.streams.filter p
  let s1 := if gone.all fun x => x.escapes.isEmpty then s
    else returnEscapes (fun f n => gone.any fun x => x.facet == f && x.seq == n) s
  { s1 with mem := { s1.mem with streams := s1.mem.streams.filter fun x => !p x } }

/-- The poison bit of block b of a stream, in the handle of the buffer that holds the block (R213, R214). -/
def poisonHandle (u : Consumer) (b : Nat) (s : State) : State :=
  let mark := fun (x : Strm) => match x.queue[b / 8 - x.taken]? with
    | some h => { x with queue := x.queue.set (b / 8 - x.taken) (h ||| BitVec.ofNat 32 (2 ^ (23 + b % 8))) }
    | none => x
  { s with mem := { s.mem with streams := updFirst (·.user == u) mark s.mem.streams } }

/-- A 32-bit field of a signed stride. -/
def strideBytes (v : Int) : Bytes := leBytes 4 (BitVec.ofInt 32 v).toNat

/-- A stream's descriptor (R208). -/
def descriptor (x : Strm) : Bytes :=
  padTo 64 (leBytes 1 x.facet ++ leBytes 1 x.cls ++ leBytes 1 x.route ++ leBytes 1 (flagBit 0 x.persistent + flagBit 1 x.toMemory) ++
    leBytes 4 x.size ++ leBytes 8 (x.base % 2 ^ 48 + 2 ^ 60 * (x.tier % 16)) ++ (x.counts.map (leBytes 4)).flatten ++
    (x.strides.map strideBytes).flatten ++ leBytes 4 x.rate ++ leBytes 4 x.seq)

/-- Where element (i0, i1, i2, i3) of a stream lies (R208). -/
def elementAt (x : Strm) (i : List Nat) : Int := (x.base : Int) + (List.zipWith (fun n st => (n : Int) * st) i x.strides).sum

/-- The address of block b of a stream, whose elements it delivers with i0 innermost (R208, R214). -/
def blockAddr (x : Strm) (b : Nat) : Nat :=
  let e := 512 * b / max 1 x.size
  let n := fun (i : Nat) => max 1 (x.counts.getD i 1)
  let i0 := e % n 0
  let i1 := e / n 0 % n 1
  let i2 := e / n 0 / n 1 % n 2
  let i3 := e / n 0 / n 1 / n 2
  (elementAt x [i0, i1, i2, i3]).toNat + 512 * b % max 1 x.size

/-- The CRC of the 512-byte block at an offset of some bytes (R33, R214). -/
def blockCheck (off : Nat) (data : Bytes) : BitVec 32 := crc32c (slice off 512 data)

/-- The checks that a stream engine generates as it writes some bytes (R214). -/
def blockChecks (data : Bytes) : List (BitVec 32) := (List.range (cdiv data.length 512)).map fun b => blockCheck (512 * b) data

/-- A sketch record: the sketch and the label word (R65). -/
def recordImage (g : Geometry) (sketch label : Nat) : Bytes := leBytes (g.sketchBits / 8) sketch ++ leBytes 8 label

/-- The sketch records of a node array by number; a number that no node has any more holds zeros (R65, R69). -/
def arrayImage (g : Geometry) (a : NodeArray) : Bytes :=
  ((List.range (nextNode a)).map fun n => match nodeOf a n with
    | some v => recordImage g (((v.sketches.head?).map (·.2.2)).getD 0) v.v.label
    | none => List.replicate (g.sketchBits / 8 + 8) 0).flatten

/-- The entries of a side list by side position, with their ID words (R71). -/
def sideImage (ix : Index) : Bytes :=
  let g := ix.geo
  let n := (ix.side.map fun e => sidePos g e.app + 1).foldl max 0
  ((List.range n).map fun p => match ix.side.find? fun e => sidePos g e.app == p with
    | some e => recordImage g e.v.sketch e.v.label ++ leBytes 8 (sideWord e)
    | none => List.replicate (g.sketchBits / 8 + 16) 0).flatten

/-- Tombstone bits as HBM holds them (R68, R71). -/
def bitImage (l : List Bool) : Bytes := leBytes (cdiv l.length 8) (ofBits l)

/-- What an index keeps in HBM under a key, by key and base: every copy of a list, every node array, the side list, and their tombstone bits
(R65, R68, R71, R142, R207). -/
def keyImages (ix : Index) (key : Nat) : List ((Nat × Nat) × Bytes) :=
  let g := ix.geo
  let tomb := fun (l : List Bool) => ((tombKey key, freeBase g.facet g.slot (tombKey key)), bitImage l)
  if key == sideKey then
    let n := (ix.side.map fun e => sidePos g e.app + 1).foldl max 0
    [((key, freeBase g.facet g.slot key), sideImage ix),
     tomb ((List.range n).map fun p => ix.side.any fun e => sidePos g e.app == p && e.tomb)]
  else if g.mode == 0 then
    ((listOf ix key).copies.map fun c => ((key, c.base), (c.pos.map fun p => recordImage g p.v.sketch p.v.label).flatten)) ++
      [tomb ((curCopy (listOf ix key)).pos.map (·.tomb))]
  else
    (ix.arrays.map fun a => ((key, arrayBase g.facet g.slot a.pub), arrayImage g a)) ++
      [tomb ((List.range (nextNode (curArray ix))).map fun n => ((nodeOf (curArray ix) n).map (·.tomb)).getD false)]

/-- Blocks written to HBM have their checks in the block check store; what the store keeps under those keys is theirs alone (R198, R214). -/
def storeChecks (f slot : Nat) (l : List ((Nat × Nat) × Bytes)) (s : State) : State :=
  let old := s.mem.checks.filter fun c => !(c.1.1 == f && c.1.2.1 == slot && l.any fun p => p.1.1 == c.1.2.2.1)
  { s with mem := { s.mem with checks := old ++ l.map fun p => ((f, slot, p.1.1, p.1.2), blockChecks p.2) } }

/-- What a stream engine has written under a key has its checks in the block check store (R198, R214). -/
def keepChecks (f slot key : Nat) (s : State) : State :=
  match idxOf s f slot with
  | none => s
  | some ix => storeChecks f slot (keyImages ix key) s

/-- A projection as HBM holds it: BF16 codes row by row (R58, R59, R79). -/
def projImage (g : Geometry) : Proj → Bytes
  | .learned _ w => (w.map fun c => leBytes 2 c.toNat).flatten
  | .seed x => ((List.range (g.sketchBits * g.dims)).map fun n =>
      leBytes 2 (if (splitMixAt x (n / 64)).getLsbD (n % 64) then 0x3F80 else 0xBF80)).flatten

/-- What an index is created with, or takes up with a re-sketch: its centroids and its projections (R59, R79). -/
def tableImages (ix : Index) : List ((Nat × Nat) × Bytes) :=
  let g := ix.geo
  let at' := fun (k : Nat) (b : Bytes) => ((k, freeBase g.facet g.slot k), b)
  (if g.mode == 0 then [at' coarseKey ix.coarse.flatten, at' fineKey ix.fine.flatten] else []) ++
    ix.projs.map fun p => at' (projKey p.1) (projImage g p.2)

/-- The block checks of an index's centroids and projections. -/
def keepTables (f slot : Nat) (s : State) : State :=
  match idxOf s f slot with
  | none => s
  | some ix => storeChecks f slot (tableImages ix) s

/-- The block checks of everything that an index keeps in HBM: its lists or node arrays, its side list, its tables. -/
def keepAll (f slot : Nat) (s : State) : State :=
  match idxOf s f slot with
  | none => s
  | some ix => ((if ix.geo.mode == 0 then ix.lists.map (·.num) else [0]) ++ [sideKey]).foldl (fun t k => keepChecks f slot k t) (keepTables f slot s)

/-- The block checks of a model slot's weights (R176, R214). -/
def keepWeights (f slot : Nat) (s : State) : State :=
  match modOf s f slot with
  | none => s
  | some m => storeChecks f slot [((modelKey, freeBase f slot modelKey), m.weights)] s

/-- The check that the store keeps for the block at an offset of what lies under a key at a base; none where no block of the store begins there
(R198, R214). -/
def keptCheck (s : State) (f slot key base off : Nat) : Option (BitVec 32) :=
  if off % 512 != 0 then none else (look [] (f, slot, key, base) s.mem.checks)[off / 512]?

end Sys2Proof.Machine
end

