-- ==== Sys2Proof/Machine/Writes.lean ====
section
/-! DEFINITION. Writes, range locks, commits, the flash log, closed epochs, the floor epoch, FLUSH and FETCH
(R73 to R78, R122 to R137, R139, R283 to R286). -/

namespace Sys2Proof.Machine

-- The floor epoch (R74, R139, R142, R146, R148, R151).

/-- Epochs that queries of a facet, and its TRAINs, still read at. -/
def readEpochs (s : State) (f : Nat) : List Nat :=
  (s.srch.queries.filter fun q => q.facet == f).map (·.epoch) ++ (s.srch.train.filter fun t => t.facet == f).map (·.et)

/-- The floor epoch (R74). -/
def floorEpoch (s : State) (f : Nat) : Nat := minOf (facetOf s f).epoch (readEpochs s f)

/-- The tombstone bit of a pending delete's location set (R68, R71, R74), in every copy of a list or node array that its name
belongs to. -/
def setTomb (d : Pend) (ix : Index) : Index :=
  let here := fun (pub : Nat) => d.since ≤ pub && d.till.all (pub < ·)
  match d.loc with
  | .list n p =>
    let mark := fun (c : ListCopy) => match c.pos[p]? with
      | some x => if here c.pub then { c with pos := c.pos.set p { x with tomb := true, del := d.epoch } } else c
      | none => c
    { ix with lists := updFirst (·.num == n) (fun d => { d with copies := d.copies.map mark }) ix.lists }
  | .side a => { ix with side := updFirst (·.app == a) (fun e => { e with tomb := true, del := d.epoch }) ix.side }
  | .node n =>
    let mark := fun (a : NodeArray) =>
      if here a.pub then { a with nodes := updFirst (·.num == n) (fun x => { x with tomb := true, del := d.epoch }) a.nodes } else a
    { ix with arrays := ix.arrays.map mark }

/-- The newest of a list of versions at or below the floor, and all newer ones. -/
def keepFrom {α : Type} (epoch : α → Nat) (floor : Nat) : List α → List α
  | [] => []
  | a :: l => if epoch a ≤ floor then [a] else a :: keepFrom epoch floor l

/-- Side-list batches whose move epoch the floor has reached leave from the head (R139). -/
def dropMoved (floor : Nat) : Nat → List Move → Nat × List Move
  | head, [] => (head, [])
  | head, m :: ms => if m.em ≤ floor && m.lo ≤ head then dropMoved floor (max head m.hi) ms else (head, m :: ms)

/-- A node array without what no query at or above the floor reads; the nodes of some numbers are reclaimed (R74, R146). -/
def arrayBelow (floor : Nat) (dead : List Nat) (a : NodeArray) : NodeArray :=
  let node := fun (n : Node) => { n with
    nbrs := keepFrom (fun v => v.1) floor n.nbrs, sketches := keepFrom (fun v => v.1) floor n.sketches,
    reclaimed := n.reclaimed || dead.contains n.num }
  { a with
    nodes := a.nodes.map node, lengths := keepFrom (fun v => v.1) floor a.lengths,
    entries := keepFrom (fun v => v.1) floor a.entries }

/-- What an index frees when the floor reaches an epoch: superseded copies and versions, moved entries, a released W, and reclaimed nodes, whose
numbers are those of the newest array. Of the entries that leave, those in the unit that the head lies in keep their slots there (R66). -/
def freeBelow (floor : Nat) (ix : Index) : Index :=
  let hm := dropMoved floor ix.head ix.moves
  let p := perUnit ix.geo
  let dead := ((ix.toReclaim.filter (·.1 ≤ floor)).map (·.2)).flatten
  { ix with
    lists := ix.lists.map fun d => { d with copies := keepFrom ListCopy.pub floor d.copies },
    head := hm.1, moves := hm.2, side := ix.side.filter fun e => hm.1 ≤ e.app,
    freed := (ix.freed ++ ix.side).filter fun e => e.app < hm.1 && e.app / p == hm.1 / p,
    arrays := match keepFrom NodeArray.pub floor ix.arrays with
      | [] => []
      | a :: l => arrayBelow floor dead a :: l.map (arrayBelow floor []),
    projs := ix.projs.filter fun p => !ix.released.any fun r => r.1 == p.1 && r.2 ≤ floor,
    released := ix.released.filter fun r => floor < r.2,
    toReclaim := ix.toReclaim.filter fun r => floor < r.1 }

/-- FLOOR_EPOCH_ADVANCE (R74): tombstone bits for pending deletes at or below the floor, their entries freed, and
everything older queries no longer need freed with them, page-map entries too. -/
def floorAdvance (f : Nat) (s : State) : State :=
  let fl := floorEpoch s f
  let x := facetOf s f
  let due := x.pend.filter fun p => p.epoch ≤ fl
  let mark := fun (ix : Index) =>
    if ix.geo.facet == f then
      freeBelow fl (due.foldl (fun i p => if p.slot == i.geo.slot then setTomb p i else i) ix)
    else ix
  freePages f fl (updFacet f (fun y => { y with
    pend := y.pend.filter (fun p => fl < p.epoch), pendFreed := y.pendFreed + (due.filter (·.since == 0)).length })
    { s with idx := s.idx.map mark })

-- Range locks (R130 to R132).

/-- Two locks overlap. -/
def overlap (a b : Nat × Nat) : Bool := a.1 ≤ b.2 && b.1 ≤ a.2

/-- The range over the IDs a command names (R130). -/
def lockRange (ids : List Nat) : Nat × Nat := (minOf 0 ids, ids.foldl max 0)

/-- Entries of the range-lock table in use (R130). -/
def locksHeld (s : State) : Nat := (s.cmds.filter fun c => c.lock.isSome).length

/-- A command still waits to place its entry: it is being read, or waits with none. -/
def unplaced (c : Cmd) : Bool := takesLock c.op && c.lock.isNone && (c.phase == .reading || c.phase == .waiting)

/-- Entries placed in fetch order within each (facet, slot), while the table of 8,192 has room (R130, R132); a facet paused
under R43 places none. The last argument lists the (facet, slot) pairs in which an earlier command has not placed its entry. -/
def placeLocks (s : State) : List Cmd → Nat → List (Nat × Nat) → List Cmd
  | [], _, _ => []
  | c :: cs, held, shut =>
    let key := (c.facet, c.slot)
    if !unplaced c then c :: placeLocks s cs held shut
    else if c.phase == .waiting && held < 8192 && !shut.contains key && !(facetOf s c.facet).paused then
      { c with lock := some (lockRange (c.ids s)) } :: placeLocks s cs (held + 1) shut
    else c :: placeLocks s cs held (key :: shut)

/-- The command stalls behind an earlier overlapping entry, one of the two being a write (R130). -/
def stalled (s : State) (c : Cmd) : Bool :=
  s.cmds.any fun o => o.seq < c.seq && o.facet == c.facet && o.slot == c.slot && (isWrite o.op || isWrite c.op) &&
    (match o.lock, c.lock with
      | some a, some b => overlap a b
      | _, _ => false)

/-- IDs whose location word is not in the map cache (R73), live or not: only the map tells which. -/
def mapMisses (ix : Index) (ids : List Nat) : List Nat := (nub ids).filter fun i => !ix.cached.contains i

/-- The reads that copy or fetch the vectors of IDs, one for each unit they lie in. -/
def issueUnits (ix : Index) (cls : Nat) (mk : List Nat → Purpose) (ids : List Nat) (tag : Nat) (s : State) : State :=
  let live := (nub ids).filterMap fun i => (locate ix i).map fun l => (unitOf ix.geo l, i)
  (nub (live.map (·.1))).foldl (fun t u =>
    let here := (live.filter fun p => p.1 == u).map (·.2)
    updCmd tag (fun c => { c with reads := c.reads + 1 }) (issueRead u cls none (mk here) t)) s

/-- Map reads for the misses of a command, the map's own class (R73, R219). -/
def issueMap (ix : Index) (cls tag : Nat) (ids : List Nat) (s : State) : State :=
  ids.foldl (fun t i => updCmd tag (fun c => { c with reads := c.reads + 1 })
    (issueRead (mapUnit ix.geo i) cls none (.map tag i) t)) s

/-- Location words of cached IDs read from the map cache, in runs of 2 KiB that hold 256 words (R73, R197, R218; log 45). -/
def wordJobs (s : State) (f slot : Nat) (ids : List Nat) : List Job :=
  (nub (ids.map (· / 256))).flatMap fun r => hbmJobs s f slot mapKey (freeBase f slot mapKey) (r, 1)

/-- The fetch record of an ID as the index stands (R128, R285); the vector is filled in when its read returns. -/
def fetchRecord (ix : Index) (id : Nat) : FetchRec :=
  match locate ix id with
  | none => ⟨id, 0, 0, []⟩
  | some l =>
    match storedAt ix l with
    | none => ⟨id, 0, 0, []⟩
    | some v => ⟨id, (match l with
        | .side _ => 3
        | _ => 1), v.label, v.vec⟩

/-- The class under which a command looks up location words (R219). -/
def wordClass (c : Cmd) : Nat := if c.op == .fetch then 1 else 3

/-- The lookups of a command that names IDs: those of its words that the cache holds (R73). -/
def lookups (s : State) (c : Cmd) : List Job :=
  match c.index s with
  | some ix =>
    let ids := c.ids s
    if c.op == .fetch || c.op == .labelUpdate || c.op == .delete then
      wordJobs s c.facet c.slot (ids.filter fun i => !(mapMisses ix ids).contains i)
    else []
  | none => []

/-- A command has received its range lock: a FETCH takes the state of its IDs (R128), and the flash reads of map misses,
copied vectors (R76) and fetched vectors start. Reads of vectors whose location word missed follow the map read. -/
def receiveLock (c : Cmd) (s : State) : State :=
  match c.index s with
  | none => s
  | some ix =>
    let ids := c.ids s
    let s1 := setPhase c.tag .running s
    let miss := mapMisses ix ids
    let hit := ids.filter fun i => !miss.contains i
    match c.op with
    | .fetch =>
      let s2 := updCmd c.tag (fun x => { x with recs := ids.map (fetchRecord ix) }) s1
      issueUnits ix 1 (fun is => .fetch c.tag is) hit c.tag (issueMap ix 1 c.tag miss s2)
    | .labelUpdate => issueUnits ix 3 (fun is => .copy c.tag is) hit c.tag (issueMap ix 3 c.tag miss s1)
    | .delete => issueMap ix 3 c.tag miss s1
    | _ => s1

/-- A command's lookups and what follows them; it waits while they are not granted (R210, R223). -/
def takeLock (c : Cmd) (s : State) : State :=
  match allJobs c.facet (wordClass c) .ended (lookups s c) s with
  | some t => receiveLock c t
  | none => s

/-- Entries placed, and every command that no longer stalls given its lock. -/
def grantLocks (s : State) : State :=
  let s1 := { s with cmds := placeLocks s s.cmds (locksHeld s) [] }
  (s1.cmds.filter fun c => c.phase == .waiting && c.lock.isSome && !(facetOf s c.facet).paused).foldl
    (fun t c => if stalled t c then t else takeLock c t) s1

-- The flash log and closed epochs (R133, R134, R203).

/-- A facet's next log units queued as programs in append order, under INGEST (R133, R203, R219). -/
def logPrograms (f epoch : Nat) : Nat → State → State
  | 0, s => s
  | n + 1, s =>
    let u := (facetOf s f).logUnits
    let p := unitPlace 0 0 u
    logPrograms f epoch n (queueSeg p.1 p.2.1 p.2.2 none 3 f (.log f epoch) (updFacet f (fun x => { x with logUnits := u + 1 }) s))

/-- Log records of an epoch appended. -/
def appendLog (f epoch units : Nat) (close : Bool) (s : State) : State :=
  logPrograms f epoch units (updFacet f (fun x => { x with log := x.log ++ [⟨epoch, units, close, x.logUnits⟩] }) s)

/-- The first epoch that has ended, whose write records are all on flash, and whose epoch record is not yet written. -/
def readyToClose (x : Facet) : Option Nat :=
  (nub (x.log.map (·.epoch))).find? fun e =>
    e ≤ x.epoch && x.log.all (fun w => w.epoch != e || (!w.close && w.units == 0))

/-- Epoch records queued for epochs that are ready (R133). -/
def closeReady (f : Nat) : Nat → State → State
  | 0, s => s
  | n + 1, s => match readyToClose (facetOf s f) with
    | some e => closeReady f n (appendLog f e 1 true s)
    | none => s

/-- The epochs at the front of the log whose epoch records are on flash: the highest closes (R133). -/
def closedFront : List Nat → List LogWrite → Option Nat
  | [], _ => none
  | e :: es, log =>
    if log.any fun w => w.epoch == e && w.close && w.units == 0 then some ((closedFront es log).getD e) else none

/-- The result of a write (R284). -/
def writeResult (count notFound firstSide : Nat) : Bytes := leBytes 2 count ++ leBytes 2 notFound ++ leBytes 4 firstSide

/-- A committed write completed with its commit epoch (R125, R134, R136). -/
def completeWrite (c : Cmd) (forced : Bool) (s : State) : State :=
  finish c stOk (if forced then flForced else 0) c.epoch (writeResult c.count c.notFound c.firstSide) running0 s

/-- Forced durability holds for a facet (R136). -/
def forcedNow (s : State) (f : Nat) : Bool := (facetOf s f).forced || s.hif.testMode

/-- EPOCH_CLOSE (R133, R134): the closed epoch advances, and the writes held for it complete. -/
def epochClose (f : Nat) (s : State) : State :=
  let x := facetOf s f
  match closedFront (nub (x.log.map (·.epoch))) x.log with
  | none => s
  | some e =>
    let s1 := updFacet f (fun y => { y with closed := max y.closed e, log := y.log.filter fun w => e < w.epoch }) s
    (s1.cmds.filter fun c => c.facet == f && c.phase == .committed && c.epoch ≤ e).foldl
      (fun t c => completeWrite c (bit 0 c.left) t) s1

/-- A segment of a log program of an epoch has put its unit on flash. -/
def logUnitDone (f epoch : Nat) (s : State) : State :=
  epochClose f (closeReady f 1 (updFacet f (fun x => { x with
    log := updFirst (fun w => w.epoch == epoch && w.units != 0) (fun w => { w with units := w.units - 1 }) x.log }) s))

-- FLUSH (R135, R286).

/-- What a FLUSH waits for, noted when it is fetched: the last commit epoch of its facet, the pending deletes so far (`noteFlushes` adds those of
writes fetched before it), and with drain each index's committed length. -/
def beginFlush (c : Cmd) (s : State) : State :=
  let x := facetOf s c.facet
  let mark := (x.log.map (·.epoch)).foldl max 0
  updCmd c.tag (fun y => { y with mark := mark, left := x.pendFreed + pendCount x, phase := .running,
                                  drain := (idxsOf s c.facet).map fun i => (i.geo.slot, i.committed) })
    (setPhase c.tag .running s)

/-- Every side-list entry below an append number has been moved. -/
def movedUpTo (ix : Index) (a : Nat) : Bool :=
  ix.side.all fun e => a ≤ e.app || e.void || ix.moves.any fun m => m.lo ≤ e.app && e.app < m.hi

/-- The append number up to which the side list has been moved. -/
def movedMark (ix : Index) : Nat := ix.moves.foldl (fun a m => if m.lo ≤ a then max a m.hi else a) ix.head

/-- The FLUSH's conditions hold (R135); with drain, the pending deletes that the facet had when it was fetched
have been applied: writes fetched after it do not delay it (R286). -/
def flushReady (s : State) (c : Cmd) : Bool :=
  let x := facetOf s c.facet
  c.mark ≤ x.closed &&
  (!bit 0 (c.ar 0 1) ||
    (c.left ≤ x.pendFreed && c.drain.all fun d => match idxOf s c.facet d.1 with
      | none => true
      | some ix => movedUpTo ix d.2 && (ix.geo.mode == 0 || d.2 ≤ ix.sweptTo)))

/-- Every FLUSH whose conditions hold completed, with the closed epoch. -/
def flushes (s : State) : State :=
  (s.cmds.filter fun c => c.op == .flush && c.phase == .running).foldl
    (fun t c => if flushReady t c then succeed c (leBytes 6 (facetOf t c.facet).closed) t else t) s

-- FETCH (R128, R285).

/-- A fetch record as bytes (R285): zero label and vector when the ID is not live or its read failed. -/
def fetchBytes (g : Geometry) (r : FetchRec) : Bytes :=
  let ok := r.status != 0 && !bit 2 r.status
  leBytes 8 r.id ++ leBytes 1 r.status ++ List.replicate 7 0 ++ leBytes 8 (if ok then r.label else 0) ++
  padTo (rowSize g) (if ok then r.vec else [])

/-- A FETCH completes once its reads are back and the boundary that gives e_f has passed (R128; log 24). -/
def tryFetch (c : Cmd) (s : State) : State :=
  match c.ef, c.index s with
  | some ef, some ix =>
    if c.reads != 0 then s
    else
      let failed := (c.recs.filter fun r => bit 2 r.status).length
      let found := (c.recs.filter fun r => bit 0 r.status).length
      let s1 := writeHost c c.resultAddr ((c.recs.map (fetchBytes ix.geo)).flatten) s
      finish c stOk (if failed == 0 then 0 else flPartial) ef (leBytes 2 found ++ leBytes 2 failed) running0 s1
  | _, _ => s

/-- FETCHes that can complete. -/
def fetches (s : State) : State :=
  (s.cmds.filter fun c => c.op == .fetch && c.phase == .running).foldl (fun t c => tryFetch c t) s

-- Commit (R52, R53, R72 to R77, R122 to R126).

/-- Side-list entries in use. -/
def sideUsed (ix : Index) : Nat := nextApp ix - ix.head

/-- Live IDs among those named. -/
def liveIds (ix : Index) (ids : List Nat) : List Nat := ids.filter fun i => ix.map.any fun m => m.1 == i

/-- New side-list entries a write makes. -/
def newSide (ix : Index) (c : Cmd) (ids : List Nat) : Nat :=
  match c.op with
  | .insert => ids.length
  | .labelUpdate => (liveIds ix ids).length
  | _ => 0

/-- New pending-delete entries a write makes. -/
def newPend (ix : Index) (c : Cmd) (ids : List Nat) : Nat := if c.op == .insert then 0 else (liveIds ix ids).length

/-- A charge that grows goes above its share (R53). -/
def raisesAbove (share charged more : Nat) : Bool := more != 0 && share < charged + more

/-- An INSERT's refusal at its commit, by its own conditions (R52, R53, R266 check 6): the status, and the first record whose ID is
live already. Its entries raise the facet's flash charge by the side-list units they begin; the HBM of side-list entries was charged when
the index was created (R71, R79), so a batch raises no charged HBM. -/
def insertRefusal (s : State) (ix : Index) (c : Cmd) (ids : List Nat) : Option (Nat × ErrAt) :=
  match (ids.zipIdx).find? fun p => ix.map.any fun m => m.1 == p.1 with
  | some p => some (stInvalid, ⟨6, p.2, inData (insertRecSize ix.geo * p.2)⟩)
  | none =>
    let units := sideUnits ix.geo ix.head (nextApp ix + ids.length) - sideUnits ix.geo ix.head (nextApp ix)
    if ix.geo.maxVectors < ix.map.length + ids.length || raisesAbove (hbmShare s c.facet) (hbmCharged s c.facet) 0 ||
        raisesAbove (flashShare s c.facet) (flashCharged s c.facet) (4096 * units) then
      some (stCapacity, ⟨6, 0, 0xFFFFFFFF⟩)
    else none

/-- New entries at the tail of the side list, with their location words and the committed length (R71, R76, R125). -/
def appendSide (epoch : Nat) (vs : List Stored) (ix : Index) : Index :=
  vs.foldl (fun i v =>
    let a := nextApp i
    mapSet v.id (.side a) { i with side := i.side ++ [⟨a, v, epoch, i.gen, false, false, 0, false⟩], committed := a + 1 }) ix

/-- The vectors of an INSERT as stored: normalised for cosine, with their sketches (R57, R58). -/
def insertVectors (s : State) (ix : Index) (c : Cmd) : List Stored :=
  (List.range c.count).map fun i =>
    let r := slice (insertRecSize ix.geo * i) (insertRecSize ix.geo) c.data
    let v := storeVec ix.geo (slice 16 (ix.geo.dims * elemSize ix.geo.storage) r)
    ⟨field 0 8 r, v, field 8 8 r, (sketchUnder s ix ix.gen v).1⟩

/-- Saturations and escapes of a sketch counted under the class that computes it (R169, R363). -/
def countSketch (s0 : State) (ix : Index) (gen cls : Nat) (v : Bytes) (s : State) : State :=
  let r := sketchUnder s0 ix gen v
  bump ix.geo.facet (kCls cls 14) (r.2.1 + r.2.2.1) (bump ix.geo.facet (kCls cls 16) r.2.2.2 s)

/-- Saturations and escapes of the inserted rows counted under INGEST (R169, R363). -/
def countSketches (s0 : State) (ix : Index) (cls : Nat) (vs : List Stored) (s : State) : State :=
  vs.foldl (fun t v => countSketch s0 ix ix.gen cls v.vec t) s

/-- The rows of some vectors that escape as they are sketched under a generation (R163). -/
def sketchEscapes (s : State) (ix : Index) (gen : Nat) (vs : List Stored) : Nat := (vs.map fun v => (sketchUnder s ix gen v.vec).2.2.2).sum

/-- The relabelled copies of a LABEL_UPDATE (R76): same ID and vector, the new label. A copy whose read failed has bytes the
spec does not state (log 8). -/
def relabelled (s : State) (ix : Index) (c : Cmd) : List Stored :=
  (List.range c.count).filterMap fun i =>
    let id := field (16 * i) 8 c.data
    match (locate ix id).bind (storedAt ix) with
    | none => none
    | some v =>
      let vec := if c.failedReads.contains id then padTo v.vec.length (Config.freeBytes (s.free + i)) else v.vec
      some ⟨id, vec, field (16 * i + 8) 8 c.data, (sketchUnder s ix ix.gen vec).1⟩

/-- The vectors that a write appends. -/
def writeVectors (s : State) (ix : Index) (c : Cmd) : List Stored :=
  match c.op with
  | .insert => insertVectors s ix c
  | .labelUpdate => relabelled s ix c
  | _ => []

/-- What a write needs of the units before it commits: the sketches of what it appends on one engine, and the ingest work (R58, R164, R219, R222,
R223; log 41). -/
def writeJobs (s : State) (ix : Index) (c : Cmd) : List Job :=
  let vs := writeVectors s ix c
  (if vs.isEmpty then [] else [sketchJob s ix (workEngine s ix) ix.gen vs.length (sketchEscapes s ix ix.gen vs)]) ++ [ingestJob s]

/-- Pending-delete entries for the live IDs named, with their location words removed (R74). -/
def deleteIds (f epoch : Nat) (slot : Nat) (ids : List Nat) (s : State) : State :=
  match idxOf s f slot with
  | none => s
  | some ix =>
    let ps := ids.filterMap fun i => (locate ix i).map fun l => (⟨slot, l, epoch, 0, none⟩ : Pend)
    updFacet f (fun x => { x with pend := x.pend ++ ps }) (updIdx f slot (fun i => ids.foldl (fun j id => mapDel id j) i) s)

/-- The write as a migration forwards it (R311). -/
def migWriteOf (c : Cmd) (epoch : Nat) (ids : List Nat) (vs : List Stored) : MigWrite :=
  match c.op with
  | .insert => .insert epoch vs
  | .delete => .delete epoch ids
  | _ => .relabel epoch vs

/-- A running migration's source queues the write for the link (R311 step 2). -/
def migForward (f slot : Nat) (w : MigWrite) (s : State) : State :=
  let m := s.chd.mig
  if m.role == 1 && (m.phase == 2 || m.phase == 3) && m.ctrl.toNat % 256 == f && m.ctrl.toNat / 256 % 16 == slot then
    { s with chd := { s.chd with mig := { m with writes := m.writes ++ [w] } } }
  else s

/-- Running FLUSHes fetched after a write wait for the pending deletes that it has brought, which were not there when they were fetched (R135, R286):
pending deletes are applied in the order of their epochs. -/
def noteFlushes (c : Cmd) (s : State) : State :=
  let n := (facetOf s c.facet).pendFreed + pendCount (facetOf s c.facet)
  { s with cmds := s.cmds.map fun y =>
    if y.op == .flush && y.phase == .running && y.facet == c.facet && c.seq < y.seq then { y with left := max y.left n } else y }

/-- Side-list units that a write's log programs hold: n entries from an append number on (R66, R133). -/
def sideUnitsOf (g : Geometry) (a n : Nat) : List Unit' := nub ((List.range n).map fun i => unitOf g (.side (a + i)))

/-- The write takes effect: entries, pending deletes, lengths and location words together (R125), then its log programs with the parity groups of
their side-list units (R324), the release of its lock, and its completion unless it is durable (R133 to R136). The sketches of new entries are
counted under INGEST (R164, R169), and what is written to the side list gets its block checks (R214). -/
def applyWrite (ix : Index) (c : Cmd) (ids : List Nat) (s : State) : State :=
  let f := c.facet
  let e := commitEpoch (facetOf s f)
  let live := liveIds ix ids
  let vs := writeVectors s ix c
  let s0 := useFree (countSketches s ix 3 vs s)
  let s1 := if c.op == .insert then s0 else noteFlushes c (deleteIds f e c.slot live s0)
  let s2 := keepChecks f c.slot sideKey (markChanged f (updIdx f c.slot (appendSide e vs) s1))
  let first := if vs.isEmpty then 0 else sidePos ix.geo (nextApp ix)
  let s3 := rotateTo arbIngest 8 <| writePages (sideUnitsOf ix.geo (nextApp ix) vs.length) <|
    appendLog f e (cdiv vs.length (perUnit ix.geo) + 1) false (migForward f c.slot (migWriteOf c e live vs) s2)
  let forced := forcedNow s f
  let nf := if c.op == .insert then 0 else ids.length - live.length
  let c' := { c with lock := none, epoch := e, notFound := nf, firstSide := first, left := flagBit 0 forced }
  let s4 := setPhase c.tag .committed (updCmd c.tag (fun _ => c') { s3 with free := s3.free + c.failedReads.length })
  if bit 0 c.flags || forced then s4 else completeWrite { c' with phase := .committed } false s4

/-- Flash programs are held: a critical flash temperature, or no spare block left (R324, R326). -/
def programsHeld (s : State) : Bool := 3 ≤ s.brd.thermal.getD 9 0 || s.flash.sparePm == 0

/-- A write's waits have ended but for room (R124). -/
def commitDue (s : State) (c : Cmd) : Bool := isWrite c.op && c.phase == .running && c.reads == 0 && !programsHeld s

/-- A write that waits for room is WAITING until it commits (R72, R74, R252). -/
def waitRoom (c : Cmd) (s : State) : State :=
  updTag c.tag (fun t => { t with state := 1 }) (updCmd c.tag (fun x => { x with counted := true }) s)

/-- A wait for room counted once for a command and kind of room (R72, R74, R364). -/
def countWait (c : Cmd) (n : Nat) (s : State) : State :=
  if c.told.contains n then s
  else bump c.facet (kFct n) 1 (waitRoom c (updCmd c.tag (fun x => { x with told := x.told ++ [n] }) s))

/-- COMMIT (R125): the write commits, ends with FACET_FAULT where no region is left to sketch what it appends (R267), is refused (R52, R53), or waits for room (R72, R74) or for the engines (R223). The spec gives no order between an INSERT's
capacity tests and its wait for side-list room: the model tests capacity first (DESIGN CHOICE, log 85). -/
def commitWrite (c : Cmd) (s : State) : State :=
  match c.index s with
  | none => finish c stAborted 0 0 [] running0 s
  | some ix =>
    let ids := c.ids s
    if ix.held then s
    else if noRegion s c.facet && c.op != .delete then finish c stFacetFault 0 0 [] running0 s
    else match (if c.op == .insert then insertRefusal s ix c ids else none) with
      | some st => finish c st.1 0 0 [] st.2 s
      | none =>
        if ix.geo.sideLimit < sideUsed ix + newSide ix c ids then
          (if c.op == .insert then countWait c 0 s else waitRoom c s)
        else if 65536 < pendCount (facetOf s c.facet) + newPend ix c ids then countWait c 1 s
        else match allJobs c.facet 3 .ended (writeJobs s { ix with work := none } c) s with
          | some t => applyWrite { ix with work := none } c ids t
          | none => s

end Sys2Proof.Machine
end

