-- ==== Sys2Proof/Machine/Search.lean ====
section
/-! DEFINITION. Cluster search (R81 to R102): admission into contexts, tiles of the centroid stage, visit groups and slivers,
cells, region lists, the chip merge, the re-rank and the completion of a query. -/

namespace Sys2Proof.Machine

-- Live parts of a facet (R17, R18).

/-- A cell is in service: neither it nor its block or region is fenced. -/
def cellLive (s : State) (c : Nat) : Bool :=
  !s.srch.cellsOut.contains c && !s.srch.blocksOut.contains (cellBlock c) && !s.srch.regionsOut.contains (c / 512)

/-- Blocks of a facet in service. -/
def liveBlocks (s : State) (f : Nat) : List Nat :=
  (((facetRec s f).map FacetRec.blocks).getD []).filter fun b =>
    !s.srch.blocksOut.contains b && !s.srch.regionsOut.contains (blockRegion b)

/-- Live cells of a facet with a role, rising. -/
def roleCells (s : State) (f role : Nat) : List Nat :=
  ((liveBlocks s f).map fun b => (List.range 32).map (32 * b + ·)).flatten.filter fun c =>
    cellLive s c && s.cfg.role c == some role

/-- A cell's contexts (R227); an unlisted cell has been idle since reset. -/
def cellOf (s : State) (c : Nat) : CellSt := (s.srch.cells.find? (·.cell == c)).getD ⟨c, none, 0, none, false, false, 0⟩

/-- A cell changed. -/
def updCell (c : Nat) (g : CellSt → CellSt) (s : State) : State :=
  let cs := s.srch.cells
  { s with srch := { s.srch with
      cells := if cs.any (·.cell == c) then updFirst (·.cell == c) g cs else cs ++ [g ⟨c, none, 0, none, false, false, 0⟩] } }

-- Records and candidates (R75, R82, R86, R88, R93, R105, R116, R140).

/-- The predicate of R82. -/
def passes (q : Query) (label : Nat) : Bool :=
  label &&& q.allOf == q.allOf && (q.anyOf == 0 || label &&& q.anyOf != 0) && label &&& q.noneOf == 0

/-- The live nodes a query sees, with the sketch and generation as they stood at its epoch (R105). -/
def nodeRecords (x : Facet) (ix : Index) (e : Nat) : List (Nat × Stored × Nat) :=
  let a := arrayAt ix e
  (a.nodes.filter fun n => n.num < lengthAt a e && nodeLive x ix n e).map fun n =>
    (n.num, { n.v with sketch := (nodeSketchAt n e).2 }, (nodeSketchAt n e).1)

/-- The records of one list, side list or node array for a query: position, vector with label and sketch, generation. -/
def keyRecords (s : State) (ix : Index) (e key : Nat) : List (Nat × Stored × Nat) :=
  let x := facetOf s ix.geo.facet
  if key == sideKey then (sideRecords x ix e).map fun r => (r.app, r.v, sideGen ix r)
  else if ix.geo.mode == 0 then (listRecords x ix key e).map fun r => (r.1, r.2, (copyAt (listOf ix key) e).gen)
  else nodeRecords x ix e

/-- What a query visits, in list-priority order (R87, R114, R116). -/
def visitKeys (ix : Index) (q : Query) : List Nat :=
  sideKey :: (if ix.geo.mode == 0 then q.probe else if q.path == 2 then [0] else [])

/-- The records a query scans of one key, scan_limit taken over all of them in priority order (R88). -/
def scanRecords (s : State) (ix : Index) (q : Query) (key : Nat) : List (Nat × Stored × Nat) :=
  let all := keyRecords s ix q.epoch key
  if q.scanLimit == 0 then all
  else
    let before := ((visitKeys ix q).takeWhile (· != key)).map fun k => (keyRecords s ix q.epoch k).length
    all.take (q.scanLimit - before.sum)

/-- Merge-key order (R93). -/
def candBefore (a b : Cand) : Bool :=
  a.ham < b.ham || (a.ham == b.ham && (a.key < b.key || (a.key == b.key && a.pos ≤ b.pos)))

/-- A query's list at a region merge unit. -/
def regionList (q : Query) (r : Nat) : List Cand := look [] r q.regions

/-- Admission threshold at a region (R93). -/
def threshold (ix : Index) (q : Query) (r : Nat) : Nat :=
  let l := regionList q r
  if l.length < q.r then ix.geo.sketchBits else ((l.getLast?).map (·.ham)).getD ix.geo.sketchBits

/-- A record as a candidate: its predicate passes and its generation's sketch is compared (R82, R86). -/
def candOf (ix : Index) (q : Query) (key : Nat) (r : Nat × Stored × Nat) : Option Cand :=
  if passes q r.2.1.label then
    some ⟨hamming ix.geo.sketchBits (look 0 r.2.2 q.sketches) r.2.1.sketch, key, r.1⟩
  else none

/-- Bytes of a sketch record under a key (R65, R71). -/
def recordBytes (g : Geometry) (key : Nat) : Nat := g.sketchBits / 8 + (if key == sideKey then 16 else 8)

/-- A record's bytes lie in a poisoned block of the sliver's stream (R101, R215). -/
def poisonedRec (g : Geometry) (v : Sliver) (pos : Nat) : Bool :=
  let n := recordBytes g v.key
  let o : Int := ((pos - v.lo) * n : Nat)
  v.poisoned.any fun b => b < o + n && o < b + 512

/-- Records of a sliver for one member, from a position on. -/
def sliverRecords (s : State) (ix : Index) (v : Sliver) (q : Query) (start : Nat) : List (Nat × Stored × Nat) :=
  (scanRecords s ix q v.key).filter fun r => start ≤ r.1 && r.1 < v.hi && !poisonedRec ix.geo v r.1

/-- The candidates the rest of a sliver gives, in the order the cell meets them: record by record, member by member (R14). -/
def sliverCands (s : State) (ix : Index) (v : Sliver) (region : Nat) : List (Nat × Cand) :=
  let of := fun (q : Query) => ((sliverRecords s ix v q v.next).filterMap (candOf ix q v.key)).filter fun c =>
    c.ham ≤ threshold ix q region
  let all := ((v.members.filterMap (queryOf s)).map fun q => (of q).map fun c => (q.ctx, c)).flatten
  sortBy (fun a b => a.2.pos ≤ b.2.pos) all

-- Work of feeder and filter cells (R90, R115, R219, R222).

/-- Some work on one of a facet's live cells of a role, charged to a class: on a cell where it holds credit if there is one, else as a borrowed grant.
It waits where neither is granted (R223). No rule says which cell or counts the ticks (log 41). -/
def cellWork (role f cls : Nat) (s : State) : Option State :=
  let cs := roleCells s f role
  let k := Config.unitChoice s.free % max 1 cs.length
  let turn := cs.drop k ++ cs.take k
  match turn.find? fun c => holdsCredit s c f cls && mayGrant s cls false with
  | some c => some (useFree (charge c f cls (Config.workTicks s.free c) false s))
  | none => if mayGrant s cls true then (turn.head?).map fun c => useFree (charge c f cls (Config.workTicks s.free c) true s) else none

/-- The facet's cells of a role can take some work now; where none of them is live, the work is not theirs. -/
def cellsOpen (s : State) (role f cls : Nat) : Bool := (roleCells s f role).isEmpty || (cellWork role f cls s).isSome

-- Contexts and admission (R83 to R85, R229, R230).

/-- A query in its context as admission leaves it; tiles, groups and walkers do the rest. -/
def blankQuery (ctx : Nat) (o : Origin) (f slot : Nat) : Query :=
  { ctx := ctx, origin := o, facet := f, slot := slot, cls := 0, k := 1, r := 1, nprobe := 0, scanLimit := 0, deadline := 0,
    since := 0, beam := 0, width := 0, allOf := 0, anyOf := 0, noneOf := 0, vec := [], epoch := 0, s0 := 0, stage := .sketch,
    path := 0, cohort := 0, sketches := [], cDist := [], fDist := [], coarseSet := [], probe := [], regions := [],
    scanned := 0, scanDone := false, cause := 0, partialFlag := false, rerank := [], reads := 0, fallback := false,
    ranked := [], sentinel := false, walker := 0, q := [], expandedL := [], found := [], sel := [], failedSel := [], arrived := [], poison := [], hops := 0,
    walkDone := false, stalled := false }

/-- Contexts that are not free: held by a query, or freed only at the next boundary (R84). -/
def heldCtx (s : State) (x : Nat) : Bool := s.srch.queries.any (·.ctx == x) || s.srch.freeing.any (·.1 == x)

/-- Contexts held by the queries that p selects, all taken from the shared pool, 1,024 and up. -/
def sharedHeld (s : State) (p : Query → Bool) : Nat := (s.srch.queries.filter fun q => 1024 ≤ q.ctx && p q).length

/-- Free contexts of the shared pool. -/
def sharedFree (s : State) : Nat :=
  15360 - sharedHeld s (fun _ => true) - (s.srch.freeing.filter (1024 ≤ ·.1)).length

/-- Shared contexts that a facet holds: those of its queries, and those that are not freed yet (R84, R230). -/
def facetHeld (s : State) (f : Nat) : Nat :=
  sharedHeld s (·.facet == f) + (s.srch.freeing.filter fun p => 1024 ≤ p.1 && p.2.1 == f).length

/-- A facet that must leave the last shared contexts to others (R230). -/
def pastShare (s : State) (f : Nat) : Bool :=
  let act := (s.cfg.facets.filter fun r => r.facet == f || (facetOf s r.facet).state == 1 || (facetOf s r.facet).state == 2)
  sharedFree s < 2048 && 15360 * sharesOf s f / ((act.map (·.shares)).sum) ≤ facetHeld s f

/-- The lowest free context from lo on, looking at n of them. -/
def findCtx (s : State) : Nat → Nat → Option Nat
  | 0, _ => none
  | n + 1, lo => if heldCtx s lo then findCtx s n (lo + 1) else some lo

/-- A context for a query of a class (R84): APEX the reserve first, everything else the shared pool within R230. Held contexts
are at most the queries and the freed ones, so that many looks and one more find a free one. -/
def takeCtx (s : State) (f cls : Nat) : Option Nat :=
  let n := s.srch.queries.length + s.srch.freeing.length + 1
  let shared := fun (_ : Unit) => findCtx s (min n 15360) 1024
  if cls == 0 then
    match findCtx s (min n 1024) 0 with
    | some x => some x
    | none => shared ()
  else if pastShare s f then none else shared ()

/-- A query's vector for the matrix engines: u of R56 in FP32 for a cosine index, else the elements (R56, R159). -/
def queryNums (g : Geometry) (v : Bytes) : List Num :=
  let x := elems g.storage g.dims v
  if g.metric == 2 then (normalise (f32s x)).map ofF32 else x

/-- The query as the exact-distance unit takes it (R56, R159). -/
def queryF32 (g : Geometry) (v : Bytes) : List F32 :=
  let x := f32s (elems g.storage g.dims v)
  if g.metric == 2 then normalise x else x

-- Tiles (R157 to R164).

/-- Rows cut into tiles of 256, each in the passes that its columns and its reduction take, since a tile is at most one pass (R158). -/
def tilesOf (f slot cls passes : Nat) (k : TileKind) (rows : List Nat) : List Tile :=
  ((List.range (cdiv rows.length 256)).map fun i => (List.range passes).map fun p =>
    (⟨f, slot, cls, k, (rows.drop (256 * i)).take 256, false, none, p⟩ : Tile)).flatten

/-- Sketch generations in use by an index at an epoch (R86, R147, R151): a new one from E_s on, an old one below E_end. -/
def gensAt (ix : Index) (e : Nat) : List Nat :=
  (ix.projs.map (·.1)).filter fun n =>
    !(ix.released.any fun r => r.1 == n && r.2 ≤ e) && look 0 n ix.starts ≤ e

/-- The first tiles of newly admitted queries of one index and class (R86, R87, R104): sketches under each generation, and in
cluster mode the distances to the coarse centroids in a stage-0 format. -/
def firstTiles (s : State) (ix : Index) (e cls s0 : Nat) (rows : List Nat) : List Tile :=
  let g := ix.geo
  ((gensAt ix e).map fun n => tilesOf g.facet g.slot cls (sketchPasses s ix n) (.sketch n) rows).flatten ++
  (if g.mode == 0 then
    ((List.range (cdiv g.coarse 256)).map fun t => tilesOf g.facet g.slot cls (cdiv g.dims (passLen s0)) (.coarse t) rows).flatten else [])

/-- Distances from a query to centroids lo and up, with the saturations of the row and of its escape (R160, R162, R163). -/
def centroidDists (fmt thr : Nat) (g : Geometry) (v : Bytes) (cents : List Bytes) :
    List F32 × Nat × Nat × Bool :=
  let cols := cents.map (elems g.storage g.dims)
  let r := rowDots fmt thr (g.storage == 5) (queryNums g v) cols (g.storage == 5)
  (List.zipWith (fun c d => centroidDist g.metric (if g.metric == 0 then norm2Of (f32s c) else 0) d) cols r.1, r.2)

/-- 256 centroids of a tile. -/
def tileCents (l : List Bytes) (t : Nat) : List Bytes := (l.drop (256 * t)).take 256

/-- Nearest n of (number, distance) pairs, ties to the lower number (R87). -/
def nearest (n : Nat) (l : List (Nat × F32)) : List Nat :=
  ((sortBy (fun a b => keyF a.2 < keyF b.2 || (keyF a.2 == keyF b.2 && a.1 ≤ b.1)) l).take n).map (·.1)

/-- Coarse centroids probed (R87). -/
def coarseProbe (g : Geometry) (nprobe : Nat) : Nat := min g.coarse (max (cdiv nprobe 8) (cdiv nprobe g.fine))

/-- Lists under the coarse set (R62, R87). -/
def candLists (g : Geometry) (cs : List Nat) : List Nat := (cs.map fun c => (List.range g.fine).map (c * g.fine + ·)).flatten

/-- What one row of a tile gives its query: the query changed, the saturations to count, once for the stage and once for each escape
(R169), and in how many tiles the row escaped: a sketch of 512 bits takes two (R58, R160 to R163). The row's own conversion counts once for each
format that the generations take. -/
def tileRow (s : State) (e : Nat) (ix : Index) (t : Tile) (q : Query) : Query × Nat × Nat :=
  let g := ix.geo
  let thr := stageThr s g.facet 0 e
  match t.kind with
  | .sketch n =>
    let r := sketchOn e s ix n (storeVec g q.vec)
    let told := q.sketches.any fun k => sketchFormat s ix k.1 == sketchFormat s ix n
    ({ q with sketches := put n r.1 q.sketches }, (if told then 0 else r.2.1) + r.2.2.1, r.2.2.2)
  | .coarse i =>
    let r := centroidDists q.s0 thr g q.vec (tileCents ix.coarse i)
    ({ q with cDist := q.cDist ++ r.1.zipIdx.map fun p => (256 * i + p.2, p.1) }, (if i == 0 then r.2.1 else 0) + r.2.2.1, flagBit 0 r.2.2.2)
  | .fine i =>
    let r := centroidDists q.s0 thr g q.vec (tileCents ix.fine i)
    let here := r.1.zipIdx.map fun p => (256 * i + p.2, p.1)
    ({ q with fDist := q.fDist ++ here.filter fun p => q.coarseSet.contains (p.1 / g.fine) }, r.2.2.1, flagBit 0 r.2.2.2)
  | .node _ _ _ => (q, 0, 0)

/-- Stage number of a tile, for the escape counters (R363). -/
def tileStage : TileKind → Nat
  | .sketch _ => 1
  | .coarse _ => 0
  | .fine _ => 0
  | .node _ _ _ => 2

/-- Another pass of a tile's row waits or runs: the row is not whole yet (R158). -/
def passLeft (s : State) (t : Tile) (x : Nat) : Bool :=
  let same := fun (u : Tile) => u.facet == t.facet && u.slot == t.slot && u.kind == t.kind && u.rows.contains x
  s.srch.tiles.any same || s.srch.engines.any fun e => e.run.any same

/-- Rows of a drained tile that are final go to their queries, with the last of their passes; a narrow row past its threshold runs again in INT8
as one more pass of the same engine for each tile in which it escaped (R158, R163, R164, R169). -/
def drainRows (e : Nat) (ix : Index) (t : Tile) (s : State) : State :=
  let cls := t.cls % 8
  t.rows.foldl (fun u x => match queryOf u x with
    | none => u
    | some q =>
      let r := tileRow u e ix t q
      if passLeft u t x then u
      else if 0 < r.2.2 && !t.escape then
        let again := (List.range r.2.2).map fun p => ({ t with rows := [x], escape := true, engine := some e, part := p } : Tile)
        bump t.facet (kCls cls (15 + tileStage t.kind)) r.2.2 { u with srch := { u.srch with tiles := again ++ u.srch.tiles } }
      else bump t.facet (kCls cls 14) r.2.1 (updQuery x (fun _ => r.1) u)) s

/-- The coarse stage of a query is complete: its coarse set is chosen (R87). -/
def chooseCoarse (ix : Index) (q : Query) : Query :=
  if q.stage == .coarse && q.cDist.length == ix.geo.coarse then
    { q with coarseSet := nearest (coarseProbe ix.geo q.nprobe) q.cDist, stage := .fine }
  else q

/-- Queries whose coarse stage ended get their fine tiles, shared by class (R87). -/
def fineTiles (ix : Index) (qs : List Query) : List Tile :=
  let g := ix.geo
  let tiles := (List.range (cdiv (listCount g) 256)).map fun t =>
    (nub (qs.map (·.cls))).map fun c =>
      tilesOf g.facet g.slot c (((qs.head?).map fun q => cdiv g.dims (passLen q.s0)).getD 1) (.fine t) ((qs.filter fun q => q.cls == c && (candLists g q.coarseSet).any (· / 256 == t)).map (·.ctx))
  tiles.flatten.flatten

/-- A query has everything its centroid or sketch stage gives. -/
def stageDone (ix : Index) (q : Query) : Bool :=
  q.sketches.length == (gensAt ix q.epoch).length &&
  (ix.geo.mode == 1 || (q.stage == .fine && q.fDist.length == (candLists ix.geo q.coarseSet).length))

-- Visit groups and slivers (R89, R90).

/-- Queries of one group (R89). -/
def groupCap (bits cls : Nat) : Nat := (if cls == 0 then 16 else 64) / (if bits == 512 then 2 else 1)

/-- Positions a member's view of a key reaches: list length, side list or node array length at its epoch (R88, R90). -/
def viewEnd (ix : Index) (q : Query) (key : Nat) : Nat :=
  if key == sideKey then ((ix.side.filter fun r => r.epoch ≤ q.epoch).map fun r => r.app + 1).foldl max ix.head
  else if ix.geo.mode == 0 then (copyAt (listOf ix key) q.epoch).pos.length
  else lengthAt (arrayAt ix q.epoch) q.epoch

/-- Where the cutting of a key starts: the side list's head, else position 0 (R90). -/
def viewStart (ix : Index) (key : Nat) : Nat := if key == sideKey then ix.head else 0

/-- The facet's block after a pointer, round-robin by block number (R90). -/
def nextBlock (s : State) (f : Nat) : Option Nat :=
  let bs := liveBlocks s f
  match bs.find? fun b => (facetOf s f).placePtr ≤ b with
  | some b => some b
  | none => bs.head?

/-- The order in which groups start, and slivers wait (R89); what went back to the head of its queue stays there (R15). -/
def sliverBefore (a b : Sliver) : Bool :=
  let k := fun (v : Sliver) => [prio v.cls, v.cohort, v.rank, v.key, v.lo]
  let rec lt : List Nat → List Nat → Bool
    | x :: xs, y :: ys => x < y || (x == y && lt xs ys)
    | _, _ => true
  b.front < a.front || (a.front == b.front && lt (k a) (k b))

/-- A sliver put on the queue of the facet's next block. -/
def placeSliver (v : Sliver) (s : State) : State :=
  match nextBlock s v.facet with
  | none => s
  | some b =>
    updFacet v.facet (fun x => { x with placePtr := b + 1 })
      { s with srch := { s.srch with slivers := insertBy sliverBefore { v with block := b, queuedAt := now s, claim := none } s.srch.slivers } }

/-- Slivers of 2,048 records from lo up to hi, put in order on the block queues (R90). -/
def cutSlivers (v : Sliver) : Nat → Nat → Nat → State → State
  | 0, _, _, s => s
  | n + 1, lo, hi, s =>
    if hi ≤ lo then s
    else cutSlivers v n (lo + 2048) hi (placeSliver { v with lo := lo, hi := min hi (lo + 2048), next := lo } s)

/-- A group that a visit may join: same list and class, with room (R89). -/
def joinable (ix : Index) (q : Query) (key : Nat) (v : Sliver) : Bool :=
  v.fresh && v.facet == q.facet && v.slot == q.slot && v.key == key && v.cls == q.cls &&
    v.members.length < groupCap ix.geo.sketchBits q.cls

/-- The started group still open to a visit (R89). -/
def openGroup (s : State) (ix : Index) (q : Query) (key : Nat) : Option Sliver := s.srch.slivers.find? (joinable ix q key)

/-- A visit as a group of its own (R89, R90): `hi` is where its view ends; where the cutting begins is known when the group starts. -/
def newGroup (ix : Index) (q : Query) (key rank gid : Nat) : Sliver :=
  { gid := gid, facet := q.facet, slot := q.slot, cls := q.cls, cohort := q.cohort, rank := rank, key := key, lo := 0,
    hi := viewEnd ix q key, members := [q.ctx], block := 0, next := 0, fresh := true, heap := [], staged := [], poisoned := [],
    front := 0, queuedAt := 0, copy := false, claim := none, wait := none }

/-- A visit joins a group that has not started: its view may reach further (R89, R90). -/
def joinForming (ix : Index) (q : Query) (key rank : Nat) (v : Sliver) : Sliver :=
  { v with members := v.members ++ [q.ctx], rank := min v.rank rank, hi := max v.hi (viewEnd ix q key) }

/-- A visit joins a group that has started, whose slivers are cut on to its own view (R89, R90; log 63). -/
def joinStarted (ix : Index) (q : Query) (key rank : Nat) (v : Sliver) (s : State) : State :=
  let hi := viewEnd ix q key
  let here := s.srch.slivers.filter (·.gid == v.gid)
  let hi0 := (here.map (·.hi)).foldl max 0
  let lastHi := fun (w : Sliver) => if w.hi == hi0 then min (max hi hi0) (w.lo + 2048) else w.hi
  let join := fun (w : Sliver) =>
    if w.gid == v.gid then { w with members := w.members ++ [q.ctx], rank := min w.rank rank, hi := lastHi w } else w
  let s1 := { s with srch := { s.srch with slivers := sortBy sliverBefore (s.srch.slivers.map join) } }
  let lo' := (here.map fun w => w.lo + 2048).foldl max 0
  cutSlivers { v with members := v.members ++ [q.ctx], rank := min v.rank rank } (cdiv hi 2048) lo' hi s1

/-- One list visit of a query: it joins an open group, or forms one (R89). -/
def visit (ix : Index) (q : Query) (key rank : Nat) (s : State) : State :=
  match openGroup s ix q key with
  | some v => joinStarted ix q key rank v s
  | none =>
    if s.srch.groups.any (joinable ix q key) then
      { s with srch := { s.srch with groups := updFirst (joinable ix q key) (joinForming ix q key rank) s.srch.groups } }
    else
      { s with srch := { s.srch with gidNext := s.srch.gidNext + 1, groups := s.srch.groups ++ [newGroup ix q key rank s.srch.gidNext] } }

/-- A group starts: a feeder cuts it from the list's start, or the side list's head as it now stands, and places its slivers (R90). It waits for
the feeders' grant (R223). -/
def startGroup (v : Sliver) (s : State) : State :=
  match idxOf s v.facet v.slot with
  | none => s
  | some ix =>
    let lo := viewStart ix v.key
    if cellsOpen s 3 v.facet (v.cls % 8) then
      cutSlivers v (cdiv (v.hi - lo) 2048) lo v.hi ((cellWork 3 v.facet (v.cls % 8) s).getD s)
    else { s with srch := { s.srch with groups := s.srch.groups ++ [v] } }

/-- The groups formed start in the order of R89, as soon as all visits of the cohort have formed them (log 63). -/
def startGroups (s : State) : State :=
  (sortBy sliverBefore s.srch.groups).foldl (fun t v => startGroup v t) { s with srch := { s.srch with groups := [] } }

/-- Role that scans a key (R90, R116). -/
def keyRole (key : Nat) : Nat := if key == sideKey then 2 else 0

/-- The facet can scan a key: it has a live cell of the key's role, and a feeder to cut its slivers (R90). -/
def canScan (s : State) (f key : Nat) : Bool := !(roleCells s f (keyRole key)).isEmpty && !(roleCells s f 3).isEmpty

/-- All visits of a query, in list-priority order; where the facet has no live cell of a role that it takes a visit is not made. The queries
that were in search when the last such cell was fenced carry PARTIAL since then, a query admitted later does not (R18, R101; log 38). A
scan given up before it began makes no visits (R98; log 36). -/
def visitAll (ix : Index) (q : Query) (s : State) : State :=
  if bit 0 q.cause then s
  else ((visitKeys ix q).zipIdx).foldl (fun t k => if canScan t q.facet k.1 then visit ix q k.1 k.2 t else t) s

-- Sentinels (R165, R166).

/-- The query is a sentinel query (R165). -/
def isSentinel (v : Bytes) : Bool := (crc32c v).toNat % 1024 == 0

/-- The probe set R87 chooses from distances in a format with no escape. -/
def probeOf (ix : Index) (fmt nprobe : Nat) (v : Bytes) : List Nat :=
  let g := ix.geo
  let d := fun (l : List Bytes) => (centroidDists fmt 65535 g v l).1
  let cs := nearest (coarseProbe g nprobe) ((d ix.coarse).zipIdx.map fun p => (p.2, p.1))
  nearest nprobe ((candLists g cs).map fun l => (l, (d [(ix.fine[l]?).getD []]).getD 0 0))

/-- A sentinel query's shadow, queued once its probe set has been handed to scanning (R166). -/
def queueShadow (q : Query) (s : State) : State :=
  if q.sentinel then
    bump q.facet (kCls (q.cls % 8) 18) 1
      { s with srch := { s.srch with shadows := s.srch.shadows ++ [⟨q.facet, q.slot, q.cls % 8, q.nprobe, q.vec, q.probe⟩] } }
  else s

-- Cells (R13 to R15, R91, R227).

/-- A cell may take a sliver: its role, its block's owner. -/
def cellTakes (s : State) (c : Nat) (v : Sliver) : Bool :=
  ownsBlock s v.facet (cellBlock c) && s.cfg.role c == some (keyRole v.key)

/-- An idle cell: live, with nothing running or suspended. -/
def cellIdle (s : State) (c : Nat) : Bool := cellLive s c && (cellOf s c).run.isNone && (cellOf s c).susp.isNone

/-- A stacked copy that covers a sliver (R22, R201): its facet's share is a cache and the copy is of the list that its members read. -/
def fromStack (s : State) (ix : Index) (v : Sliver) : Bool :=
  !((facetRec s v.facet).map (·.scratch)).getD false &&
  s.mem.copies.any fun c => c.1 == v.facet && c.2.1 == v.slot && c.2.2.1 == v.key && v.hi ≤ c.2.2.2.1 &&
    (v.key == sideKey || ix.geo.mode == 1 || v.members.all fun m => match queryOf s m with
      | some q => (copyAt (listOf ix v.key) q.epoch).pub == c.2.2.2.2
      | none => true)

/-- A sliver reads the stacked copy if it starts now (R195). -/
def readsCopy (s : State) (v : Sliver) : Bool := ((idxOf s v.facet v.slot).map fun ix => fromStack s ix v).getD false

/-- HBM byte address of the sketch records that a sliver's members read: its list's or node array's, or where firmware put the side list (R68,
R194; log 13). -/
def recordsBase (s : State) (ix : Index) (v : Sliver) : Nat :=
  let e := ((v.members.head?.bind (queryOf s)).map (·.epoch)).getD 0
  if v.key == sideKey then freeBase v.facet v.slot v.key
  else if ix.geo.mode == 0 then (copyAt (listOf ix v.key) e).base else arrayBase v.facet v.slot (arrayAt ix e).pub

/-- Where a sliver's records begin behind that base: a side list's places are used again modulo its limit (R71). -/
def sliverOff (ix : Index) (v : Sliver) : Nat :=
  (if v.key == sideKey then v.lo % max 1 ix.geo.sideLimit else v.lo) * recordBytes ix.geo v.key

/-- Bytes of a sliver's records. -/
def sliverSize (ix : Index) (v : Sliver) : Nat := (v.hi - v.lo) * recordBytes ix.geo v.key

/-- Runs of HBM that a sliver streams (R197). -/
def sliverRuns (s : State) (ix : Index) (v : Sliver) : Nat × Nat := byteRuns (recordsBase s ix v) (sliverOff ix v) (sliverSize ix v)

/-- The memory that a sliver streams from has byte credit for its class (R210, R223): the slice of its copy, or every stack its runs lie on. -/
def sliverBytes (s : State) (v : Sliver) : Bool :=
  match idxOf s v.facet v.slot with
  | none => true
  | some ix =>
    if readsCopy s v then bytesFit s (8 + copySlice s v.facet v.slot v.key) v.facet (v.cls % 8) (cdiv (sliverSize ix v) 2048) 2048
    else runsFunded s v.facet v.slot v.key (v.cls % 8) (recordsBase s ix v) (sliverRuns s ix v)

/-- The sliver a cell is granted among those that wait: apex slivers before any others (R16, R91), then credit and class, then the queue's
order from its head or its tail (R91, R223; log 37). Without a tag for its stream, or a feeder to arm it, the cell waits (R209, R212). -/
def grantedSliver (s : State) (c : Nat) (tail : Bool) (vs : List Sliver) : Option (Sliver × Bool) :=
  let pick := fun (l : List Sliver) => grantAmong s c (fun v => (v.facet, v.cls)) (sliverBytes s) (if tail then l.reverse else l)
  let fed := vs.filter fun v => cellsOpen s 3 v.facet (v.cls % 8)
  if !streamReady s c then none else (pick (fed.filter fun v => prio v.cls == 0)).or (pick (fed.filter fun v => prio v.cls != 0))

/-- Bytes a scanner takes in a tick (R13, R208): a record for every compare of each of its members, one CORE cycle each and two at 512 bits. -/
def scanRate (s : State) (g : Geometry) (v : Sliver) : Nat :=
  recordBytes g v.key * s.brd.coreMhz / (10 * max 1 (v.members.length * (if g.sketchBits == 512 then 2 else 1)))

/-- The feeder arms a cell's stream for a sliver, from its next record on (R208, R209): of HBM, or of the stacked copy. -/
def armSliver (c : Nat) (v : Sliver) (s : State) : State :=
  match idxOf s v.facet v.slot with
  | none => s
  | some ix =>
    let w := { v with lo := v.next }
    let base := if v.copy then sliverOff ix w else recordsBase s ix v + sliverOff ix w
    armStream c v.facet (v.cls % 8) (recordBytes ix.geo v.key) (flagBit 0 v.copy) base (v.hi - v.next) (scanRate s ix.geo v)
      ((cellWork 3 v.facet (v.cls % 8) s).getD s)

/-- The stacks that a sliver's records lie on (R196). -/
def sliverStacks (s : State) (v : Sliver) : List Nat :=
  match idxOf s v.facet v.slot with
  | none => []
  | some ix => (runsByStack s v.facet v.slot v.key (recordsBase s ix v) (sliverRuns s ix v)).map (·.1)

/-- The pointers of the arbiters on a sliver's way to a cell move past it (R16): the descriptors of the cell's region past its block, or past a steal
from another region, then the slice port past the block, or the network ports of the stacks past the region. -/
def rotatePath (c : Nat) (v : Sliver) (s : State) : State :=
  let s1 := rotateTo (arbDesc (c / 512)) (if blockRegion v.block == c / 512 then cellBlock c % 16 else 17) s
  if v.copy then rotateTo (arbSlice (copySlice s v.facet v.slot v.key)) (cellBlock c % 16) s1
  else (sliverStacks s v).foldl (fun t g => rotateTo (arbPort g) (c / 512) t) s1

/-- SLIVER_GRANT (R91): the sliver leaves its queue for the cell, which reads it from one copy from now on (R195), and its group is closed
(R89); the feeder arms the cell's stream (R209). -/
def startSliver (c : Nat) (v : Sliver) (borrowed : Bool) (s : State) : State :=
  let close := fun (w : Sliver) => if w.gid == v.gid then { w with fresh := false } else w
  let s1 := { s with srch := { s.srch with
    slivers := (s.srch.slivers.filter fun w => !(w.gid == v.gid && w.lo == v.lo)).map close,
    resends := s.srch.resends.filter fun r => r.1.1 != .sliver c } }
  let w := { v with fresh := false, front := 0, copy := readsCopy s v, claim := none }
  rotatePath c w <| armSliver c w (updCell c (fun x => { x with run := some w, since := now s, held := now s, borrowed := borrowed }) s1)

/-- A cell's sliver has left it: its stream is drained, and armed again for the sliver that resumes there (R209, R227). -/
def nextStream (c : Nat) (s : State) : State :=
  match (cellOf s c).run with
  | some v => armSliver c v (drainStream c s)
  | none => drainStream c s

/-- Slivers on a block's queue that a cell may take: those that no other cell has claimed (R91). -/
def blockQueue (s : State) (c b : Nat) : List Sliver :=
  s.srch.slivers.filter fun v => v.block == b && v.claim.all (· == c) && cellTakes s c v

/-- Slivers that siblings of a cell in its block have claimed and that it may take (R91, level 2). -/
def siblingClaims (s : State) (c : Nat) : List Sliver :=
  s.srch.slivers.filter fun v => v.block == cellBlock c && v.claim.any (· != c) && cellTakes s c v

/-- A cell that has been granted a sliver claims some of those that wait next in its block's queue (R91; log 95). -/
def claimNext (c : Nat) (s : State) : State :=
  let n := Config.claimAhead s.free c
  let next := ((blockQueue s c (cellBlock c)).filter (·.claim.isNone)).take n
  if next.isEmpty then s
  else { s with srch := { s.srch with slivers := s.srch.slivers.map fun v => if next.contains v then { v with claim := some c } else v } }

/-- The cells of a block, in the order in which its arbiter serves them (R16). -/
def blockCells (s : State) (b : Nat) : List Nat :=
  (sortBy (fun i j => turnKey s (arbBlock b) 32 i ≤ turnKey s (arbBlock b) 32 j) (List.range 32)).map (32 * b + ·)

/-- What an idle cell takes of its siblings' claims (R91, level 2): the grant of R223 says of which facet and class, the block's arbiter from which
sibling, and the sliver comes from the tail of that sibling's claims. -/
def fromSibling (s : State) (c : Nat) : Option (Sliver × Bool) :=
  let vs := siblingClaims s c
  match grantedSliver s c true vs with
  | none => none
  | some (v, b) =>
    let same := vs.filter fun w => w.facet == v.facet && w.cls == v.cls
    let key := fun (w : Sliver) => turnKey s (arbBlock (cellBlock c)) 32 (w.claim.getD 0 % 32)
    ((same.filter fun w => same.all fun o => key w ≤ key o).getLast?).map fun w => (w, b)

/-- An idle cell takes the head of its own block's queue, and claims some of what follows (R91, level 1); with its own queue empty, the tail of
a sibling's claims (level 2). -/
def grantCell (c : Nat) (s : State) : State :=
  if !cellIdle s c then s
  else
    let own := blockQueue s c (cellBlock c)
    if own.isEmpty then match fromSibling s c with
      | some (v, b) => rotateTo (arbBlock (cellBlock c)) (v.claim.getD 0 % 32) (startSliver c v b s)
      | none => s
    else match grantedSliver s c false own with
      | none => s
      | some (v, b) => claimNext c (rotateTo (arbBlock (cellBlock c)) (c % 32) (startSliver c v b s))

/-- Where a block stands in the order of the arbiters that its next sliver goes through (R16): the network port of the first stack that it reads, or
the slice port, over the regions, and the descriptors of its region over its blocks. -/
def portKey (s : State) (b : Nat) : Nat :=
  let r := blockRegion b
  let port := match s.srch.slivers.find? (·.block == b) with
    | some v => if readsCopy s v then turnKey s (arbSlice (copySlice s v.facet v.slot v.key)) 18 (b % 16)
      else turnKey s (arbPort ((sliverStacks s v).headD 0)) 13 r
    | none => 0
  18 * port + turnKey s (arbDesc r) 18 (b % 16)

/-- The idle cells of every block with waiting slivers are served, round-robin, the blocks in the order of their arbiters (R16, R91). -/
def grantCells (s : State) : State :=
  let bs := sortBy (fun a b => portKey s a ≤ portKey s b) (nub (s.srch.slivers.map (·.block)))
  (bs.map (blockCells s)).flatten.foldl (fun t c => grantCell c t) s

/-- Victims in the order of the arbiters (R16, R91): the chip's pointer over regions, then the region's over its blocks. -/
def victimKey (s : State) (b : Nat) : Nat :=
  16 * turnKey s arbChip 8 (blockRegion b) + turnKey s (arbRegion (blockRegion b)) 16 (b % 16)

/-- What an idle cell may steal from the slivers of other blocks: the grant of R223 says of which facet and class, the arbiters from which
block, and the sliver comes from the tail of that block's queue (R91). -/
def stealAmong (s : State) (c : Nat) (vs : List Sliver) : Option (Sliver × Bool) :=
  match grantedSliver s c true vs with
  | none => none
  | some (v, b) =>
    let same := vs.filter fun w => w.facet == v.facet && w.cls == v.cls
    let near := fun (w : Sliver) => same.all fun o => victimKey s w.block ≤ victimKey s o.block
    ((same.filter near).getLast?).map fun w => (w, b)

/-- The sliver an idle cell may steal (R91, levels 3 and 4): after 2 idle ticks from another block of its region, after 8 from
another region of the facet. -/
def stealFrom (s : State) (c : Nat) : Option (Sliver × Bool) :=
  let idle := (now s - (cellOf s c).since) / 100
  let b := cellBlock c
  let fit := fun (p : Nat → Bool) => s.srch.slivers.filter fun v => v.block != b && v.claim.isNone && p (blockRegion v.block) && cellTakes s c v
  let r := c / 512
  if !(blockQueue s c b).isEmpty || !(siblingClaims s c).isEmpty then none
  else
    let near := if 2 ≤ idle then stealAmong s c (fit (· == r)) else none
    match near with
    | some v => some v
    | none => if 8 ≤ idle then stealAmong s c (fit (· != r)) else none

/-- A steal granted: the pointers of the region's arbiter, and of the chip's for another region, move past the victim (R16). -/
def takeStolen (c : Nat) (v : Sliver) (borrowed : Bool) (s : State) : State :=
  let s1 := rotateTo (arbRegion (blockRegion v.block)) (v.block % 16) (startSliver c v borrowed s)
  if blockRegion v.block == c / 512 then s1 else rotateTo arbChip (blockRegion v.block) s1

/-- Tiles of the same rows: the passes and column groups of one product (R158). -/
def sameRows (t u : Tile) : Bool :=
  u.facet == t.facet && u.slot == t.slot && u.kind == t.kind && u.rows == t.rows && u.escape == t.escape && u.engine.isNone

/-- A tile started on an engine; the other tiles of its rows follow on it, which has their sums and their threshold (R158, R163; DESIGN CHOICE,
log 22). -/
def startTile (e : Nat) (t : Tile) (borrowed : Bool) (s : State) : State :=
  let follow := fun (u : Tile) => if sameRows t u then { u with engine := some e } else u
  { s with srch := { s.srch with
      tiles := (s.srch.tiles.erase t).map follow,
      engines := updFirst (·.num == e) (fun x => { x with run := some t, since := now s, borrowed := borrowed }) s.srch.engines } }

/-- An idle live engine takes a tile (R164, R223). -/
def grantEngine (n : Nat) (s : State) : State :=
  match s.srch.engines.find? (·.num == n) with
  | none => s
  | some e =>
    if s.srch.regionsOut.contains n || e.run.isSome then s
    else match grantAmong s (unitEngine n) (fun x : Tile => (x.facet, x.cls)) (tileBytes s n) (s.srch.tiles.filter (tileFor s n)) with
      | none => s
      | some (x, b) => rotateTo arbEngines n (rotateTo (unitEngine n) x.facet (readOperand x (startTile n x b s)))

/-- Every idle live engine takes a tile, in the order of the arbiter over them (R16). -/
def grantEngines (s : State) : State :=
  (sortBy (fun i j => turnKey s arbEngines 8 i ≤ turnKey s arbEngines 8 j) (List.range 8)).foldl (fun t n => grantEngine n t) s

-- Completion of a query (R96, R97, R100 to R102, R112, R120, R282).

/-- The re-ranked order (R96): distance, then ID; a sketch-ranked answer keeps merge-key order (R99). -/
def rankedBefore (fallback : Bool) (a b : Ranked) : Bool :=
  if fallback then candBefore a.cand b.cand
  else keyF a.dist < keyF b.dist || (keyF a.dist == keyF b.dist && a.id ≤ b.id)

/-- The answer of a query: at most k places (R96, R97, R112). -/
def answer (q : Query) : List Ranked := (sortBy (rankedBefore q.fallback) (q.ranked ++ q.found)).take q.k

/-- A place as its result entry (R97, R112). -/
def resultEnt (fallback : Bool) (r : Ranked) : ResultEnt :=
  ⟨some r.id, r.dist, r.cand.ham, 1 + flagBit 1 (r.cand.key == sideKey) + flagBit 2 fallback⟩

/-- An empty place (R97). -/
def emptyEnt : ResultEnt := ⟨none, 0x7F800000#32, 0xFFFF, 0⟩

/-- The k entries of a query. -/
def entriesOf (q : Query) : List ResultEnt :=
  let l := (answer q).map (resultEnt q.fallback)
  l ++ List.replicate (q.k - l.length) emptyEnt

/-- A query's result (R282). -/
def queryRes (q : Query) : QueryRes :=
  { filled := (answer q).length, cause := q.cause, s0 := if q.path == 0 then q.s0 else 0, scanned := q.scanned,
    hops := q.hops, path := q.path, sentinel := q.sentinel, partialFlag := q.partialFlag }

/-- The counters of a completed query (R102, R120, R363). A domain query's part counts in the path entries 10 and 11 on each node too, as in entries
0 to 9 (DESIGN CHOICE, log 96). -/
def countQuery (q : Query) (s : State) : State :=
  let f := q.facet
  let k := kCls (q.cls % 8)
  let one := fun (n : Nat) (b : Bool) (t : State) => if b then bump f (k n) 1 t else t
  let s1 := ((List.range 5).foldl (fun t i => one (2 + i) (bit i q.cause) t) (bump f (k 1) q.scanned s))
  one 11 (q.path == 2) (one 10 (q.path == 1) (one 7 q.partialFlag (one 0 true s1)))

/-- A QUERY or QUERY_BATCH whose queries have all ended completes (R102, R282). -/
def endQueries (c : Cmd) (s : State) : State :=
  let rs := sortBy (fun a b : Nat × QueryRes => a.1 ≤ b.1) c.results
  let cause := rs.foldl (fun a r => orBits a r.2.cause) 0
  let part := rs.any (·.2.partialFlag)
  let flags := flagBit 0 (cause != 0) + flagBit 1 part
  let s0 := ((rs.head?).map (·.2.s0)).getD 0
  if c.op == .queryBatch then
    let n := c.queries
    let batch := leBytes 2 n ++ leBytes 1 cause ++ leBytes 1 s0 ++ leBytes 6 ((rs.map (·.2.scanned)).sum) ++
      leBytes 2 (rs.filter fun r => r.2.cause != 0).length ++ leBytes 2 (rs.filter (·.2.partialFlag)).length
    finish c stOk flags c.epoch batch running0
      (writeHost c (c.resultAddr + n * c.k * 16) (rs.map fun r => queryResBytes r.2).flatten s)
  else finish c stOk flags c.epoch (((rs.head?).map fun r => queryResBytes r.2).getD []) running0 s

/-- The fetch number of the command a host query belongs to: its context is held until that command has completed (R84). -/
def holder (s : State) (q : Query) : Option Nat :=
  match q.origin with
  | .host t _ => (cmdOf s t).map (·.seq)
  | _ => none

/-- A query leaves search, its results ordered by the chip merge unit (R19): its context is freed at the boundary after its completion (R84), its entries are written, and whoever asked is
told: a host command, a TRAIN's mining (R183), a domain query's own part (R303). -/
def finishQuery (q : Query) (s0 : State) : State :=
  let s := rotateTo unitChip q.facet (chargeFree unitChip q.facet (q.cls % 8) s0)
  let s1 := { s with srch := { s.srch with
    queries := s.srch.queries.filter (·.ctx != q.ctx), resends := s.srch.resends.filter (fun r => r.1.1 != .walker q.ctx), freeing := s.srch.freeing ++ [(q.ctx, q.facet, holder s q)] } }
  match q.origin with
  | .host t i =>
    match cmdOf s1 t with
    | none => s1
    | some c =>
      let c' := { c with results := c.results ++ [(i, queryRes q)], left := c.left - 1 }
      let s2 := writeHost c (c.resultAddr + i * q.k * 16) ((entriesOf q).map resultBytes).flatten (countQuery q s1)
      let s3 := updCmd t (fun x => { c' with fenced := x.fenced }) s2
      if c'.left == 0 then endQueries c' s3 else s3
  | .mine t i =>
    let keep := (answer q).filter fun r => !r.same
    let add := fun (j : TrainJob) => if q.partialFlag then { j with excluded := j.excluded ++ [i], partialFlag := true }
      else { j with lists := put i keep j.lists }
    bump q.facet (kCls 6 28) 1 { s1 with srch := { s1.srch with train := updFirst (·.tag == t) add s1.srch.train } }
  | .domain d i =>
    let part : Contrib := ⟨q.facet, q.slot, q.cls % 8, d, i, 0, 1, 0, q.cause, q.partialFlag, q.scanned, (entriesOf q).filter fun e => e.id.isSome⟩
    let got := fun (x : DomQ) => { x with own := some (x.own.getD [] ++ [part]), ownRes := x.ownRes ++ [(i, queryRes q)] }
    { countQuery q s1 with chd := { (countQuery q s1).chd with dom := updFirst (·.qid == d) got s1.chd.dom } }

-- Chip merge and re-rank (R94, R95, R99).

/-- The re-rank set: the first r of the union of a query's region lists (R94). -/
def rerankSet (q : Query) : List Cand := (sortBy candBefore (q.regions.map (·.2)).flatten).take q.r

/-- The location of a candidate. -/
def candLoc (g : Geometry) (c : Cand) : Loc :=
  if c.key == sideKey then .side c.pos else if g.mode == 0 then .list c.key c.pos else .node c.pos

/-- What is stored at a candidate as it stood at an epoch. -/
def candStored (ix : Index) (e : Nat) (c : Cand) : Option Stored :=
  if c.key == sideKey then (ix.side.find? (·.app == c.pos)).map (·.v)
  else if ix.geo.mode == 0 then ((copyAt (listOf ix c.key) e).pos[c.pos]?).map (·.v)
  else (nodeOf (arrayAt ix e) c.pos).map (·.v)

/-- Candidates grouped by their unit, in merge-key order of the first of each (R95). -/
def byUnit (g : Geometry) (cs : List Cand) : List (Unit' × List Cand) :=
  cs.foldl (fun acc c =>
    let u := unitOf g (candLoc g c)
    if acc.any (·.1 == u) then updFirst (·.1 == u) (fun p => (p.1, p.2 ++ [c])) acc else acc ++ [(u, [c])]) []

/-- Die of a unit. -/
def dieOfUnit (s : State) (u : Unit') : Nat × Nat := ((placeOf s u).1, (placeOf s u).2.1)

/-- Reads that one die may take for an APEX query: no fifth one (R95). Answers the reads kept and whether any was left out. -/
def dieCap (s : State) (cls : Nat) (rs : List (Unit' × List Cand)) : List (Unit' × List Cand) × Bool :=
  if cls != 0 then (rs, false)
  else
    let step := fun (acc : List (Unit' × List Cand) × Bool) (r : Unit' × List Cand) =>
      if 4 ≤ (acc.1.filter fun o => dieOfUnit s o.1 == dieOfUnit s r.1).length then (acc.1, true) else (acc.1 ++ [r], acc.2)
    rs.foldl step ([], false)

/-- Absolute deadline of a query in ns; none for no deadline. -/
def dueAt (q : Query) : Option Nat := if q.deadline == 0 then none else some (q.since + 1000 * q.deadline)

/-- die_time of R99 and R117 in ns: reads served ahead on the die, with those that wait for a tag, the query's own, a running segment. -/
def dieTime (s : State) (q : Query) (d : Nat × Nat) (own : Nat) : Nat :=
  let x := dieOf s d.1 d.2
  let me : Read := ⟨0, prio q.cls, dueAt q, s.flash.order, false, false, ⟨0, 0, 0, 0, 0⟩, .rerank q.ctx []⟩
  52000 * (((readsOn s d.1 d.2).filter fun r => r.started || readBefore r me).length + own) +
    (if x.run.isSome && !x.suspended then 25000 else 0)

/-- The largest die_time over the dies of some units. -/
def dieMax (s : State) (q : Query) (us : List Unit') : Nat :=
  let ds := us.map (dieOfUnit s)
  (ds.map fun d => dieTime s q d (ds.filter (· == d)).length).foldl max 0

/-- A predicted time passes the query's deadline. -/
def tooLate (s : State) (q : Query) (t : Nat) : Bool :=
  match dueAt q with
  | some d => d < now s + t
  | none => false

/-- Re-rank reads of a query issued; with none its answer is ready. -/
def issueRerank (q : Query) (rs : List (Unit' × List Cand)) (s : State) : State :=
  rs.foldl (fun t r => issueRead r.1 (prio q.cls) (dueAt q) (.rerank q.ctx r.2) t)
    (updQuery q.ctx (fun _ => { q with reads := q.reads + rs.length }) s)

/-- RERANK_PREDICTION and the reads (R95, R99, R114): a traversal's side list has neither cap nor prediction. The fall-back of an APEX
query keeps R95's limit of 4 reads for a die, and DIE_CAP then tells of its own cut (DESIGN CHOICE, log 84). The chip merge unit's work is
charged (R19, R221). -/
def startRerank (ix : Index) (q : Query) (s0 : State) : State :=
  let s := chargeFree unitChip q.facet (q.cls % 8) s0
  let set := rerankSet q
  let q1 := { q with rerank := set, scanDone := true, regions := [], stage := if q.path == 1 then q.stage else .rerank }
  let units := byUnit ix.geo set
  if q.path == 1 then issueRerank q1 units s
  else
    let capped := dieCap s q.cls units
    if tooLate s q (dieMax s q (capped.1.map (·.1)) + 11000) then
      let one := (set.take q.k).map fun c => (unitOf ix.geo (candLoc ix.geo c), [c])
      let own := dieCap s q.cls one
      let q2 := { q1 with fallback := true, cause := orBits q.cause (cSketch + (if own.2 then cDie else 0)) }
      issueRerank q2 own.1 (bump q.facet (kCls (q.cls % 8) 8) own.1.length s)
    else issueRerank { q1 with cause := if capped.2 then orBits q.cause cDie else q.cause } capped.1 s

/-- A query whose every part has ended completes (R94, R112, R114). -/
def queryReady (q : Query) : Bool := q.scanDone && q.reads == 0 && (q.path != 1 || q.walkDone)

/-- The chip merge unit may be granted to a query (R223). -/
def mergeOpen (s : State) (q : Query) : Bool := unitOpen s unitChip q.facet (q.cls % 8)

/-- A query that is ready completes once the chip merge unit is granted to it; any other stays. -/
def tryFinish (x : Nat) (s : State) : State :=
  match queryOf s x with
  | some q => if queryReady q && mergeOpen s q then finishQuery q s else s
  | none => s

/-- A sliver of the query waits, runs or is suspended, or its group has not started. -/
def sliversLeft (s : State) (x : Nat) : Bool :=
  s.srch.groups.any (·.members.contains x) || s.srch.slivers.any (·.members.contains x) ||
  s.srch.cells.any fun c => (c.run.any (·.members.contains x)) || (c.susp.any (·.members.contains x))

/-- CHIP_MERGE (R94): once no sliver of a scanning query is left, and the unit is granted to it. -/
def chipMerge (x : Nat) (s : State) : State :=
  match queryOf s x with
  | none => s
  | some q =>
    if q.scanDone || (q.stage != .scan && q.stage != .walk) || sliversLeft s x || !mergeOpen s q then s
    else match idxOf s q.facet q.slot with
      | none => s
      | some ix => tryFinish x (startRerank ix q s)

/-- Queries that waited for the chip merge unit, in the order of its grants (R16, R223). -/
def waitingMerges (s : State) : State :=
  let le := fun (a b : Query) => prio a.cls < prio b.cls || (prio a.cls == prio b.cls && rotKey s unitChip a.facet ≤ rotKey s unitChip b.facet)
  (sortBy le s.srch.queries).foldl (fun t q => tryFinish q.ctx (chipMerge q.ctx t)) s

end Sys2Proof.Machine
end

