-- ==== Sys2Proof/Machine/Stop.lean ====
section
/-! DEFINITION. Ending a command's work, ABORT, the deletion of pairs, freezes of facets and the resets of R239 (R234 to R236,
R239, R256 to R260). -/

namespace Sys2Proof.Machine

/-- Members removed from a sliver; a sliver without members goes. -/
def Sliver.without (gone : Nat → Bool) (v : Sliver) : Option Sliver :=
  let ms := v.members.filter fun m => !gone m
  if ms.isEmpty then none else some { v with members := ms, heap := v.heap.filter fun p => !gone p.1, staged := v.staged.filter fun p => !gone p.1 }

/-- A cell without some queries (R227, R234): a sliver left without members stops, and the suspended one resumes. -/
def cellWithout (gone : Nat → Bool) (s : State) (c : CellSt) : CellSt :=
  let susp := c.susp.bind (Sliver.without gone)
  match c.run.bind (Sliver.without gone) with
  | some v => { c with run := some v, susp := susp }
  | none => if c.run.isNone then { c with susp := susp } else nextContext s { c with susp := susp }

/-- The cells whose running sliver stops with some queries. -/
def stoppedCells (gone : Nat → Bool) (s : State) : List Nat :=
  (s.srch.cells.filter fun c => c.run.isSome && (c.run.bind (Sliver.without gone)).isNone).map (·.cell)

/-- Those cells charged for what they took (R222). -/
def chargeStopped (gone : Nat → Bool) (s : State) : State := (stoppedCells gone s).foldl (fun t c => chargeCell (cellOf t c) t) s

/-- What waits for or runs on the matrix engines without the rows of some queries; a tile that waits without rows goes, one that runs runs to its end
(R225). -/
def withoutRows (gone : Nat → Bool) (x : Search) : Search :=
  let tile := fun (t : Tile) => match t.kind with
    | .node _ _ _ => some t
    | _ =>
      let rs := t.rows.filter fun x => !gone x
      if rs.isEmpty then none else some { t with rows := rs }
  { x with
    tiles := x.tiles.filterMap tile,
    engines := x.engines.map fun e => { e with run := e.run.map fun t => { t with rows := t.rows.filter fun x => !gone x } } }

/-- A suspended sliver that could not resume when its cell came free resumes once its class may be granted (R227, R261). -/
def resumeCells (s : State) : State :=
  let up := fun (c : CellSt) => if c.run.isNone && c.susp.isSome then nextContext s c else c
  let woken := (s.srch.cells.filter fun c => c.run.isNone && (up c).run.isSome).map (·.cell)
  woken.foldl (fun t c => nextStream c t) { s with srch := { s.srch with cells := s.srch.cells.map up } }

/-- Queries taken out of search with everything they wait for; their contexts are freed at the next boundary (R84), and the work they stop
is charged (R222). A tile runs to its end (R225). -/
def dropQueries (p : Query → Bool) (s : State) : State :=
  let out := s.srch.queries.filter p
  let xs := out.map (·.ctx)
  let gone := fun x => xs.contains x
  let mine := fun (r : Purpose) => match r with
    | .rerank x _ => gone x
    | .vertex x _ => gone x
    | _ => false
  let s1 := chargeStopped gone s
  let walks := fun (x : Strm) => match x.user with
    | .walker c => gone c
    | _ => false
  closeStreams walks <| (stoppedCells gone s).foldl (fun t c => nextStream c t) <| dropReads mine { s1 with srch := { withoutRows gone s1.srch with
    queries := s1.srch.queries.filter fun q => !p q, freeing := s1.srch.freeing ++ out.map fun q => (q.ctx, q.facet, none),
    groups := s1.srch.groups.filterMap (Sliver.without gone), slivers := s1.srch.slivers.filterMap (Sliver.without gone),
    cells := s1.srch.cells.map (cellWithout gone s) } }

/-- A query serves a command. -/
def ofTag (t : Nat) (q : Query) : Bool :=
  match q.origin with
  | .host u _ => u == t
  | .mine u _ => u == t
  | .domain _ _ => false

/-- A read serves a command. -/
def readOfTag (t : Nat) (p : Purpose) : Bool :=
  match p with
  | .fetch u _ => u == t
  | .map u _ => u == t
  | .copy u _ => u == t
  | .mine u _ => u == t
  | _ => false

/-- A tag no command holds: where the command that began some work has ended and the work goes on. -/
def noTag : Nat := 65536

/-- A re-sketch that has not reached E_s is taken back (R147, R259): the pending projection and the old generation are as before, and what has
been sketched under the new one for E_s is sketched under the old one. -/
def unsketch (s : State) (t : Transition) (ix : Index) : Index :=
  let old := fun (e : SideEnt) =>
    if e.gen == ix.gen then { e with gen := t.old, v := { e.v with sketch := (sketchUnder s ix t.old e.v.vec).1 } } else e
  { ix with
    gen := t.old, trans := none, side := ix.side.map old, projs := ix.projs.filter (·.1 != ix.gen), starts := ix.starts.filter (·.1 != ix.gen),
    pendingProj := match projOf ix ix.gen with
      | .learned _ w => some w
      | .seed _ => ix.pendingProj }

/-- The re-sketch of a RESKETCH that ends early: before E_s it is taken back, past E_s it goes on as background work (R259; log 32). -/
def stopResketch (tag : Nat) (s : State) (ix : Index) : Index :=
  match ix.trans with
  | some t =>
    if t.tag != tag then ix
    else if (facetOf s ix.geo.facet).epoch < t.es then unsketch s t ix
    else { ix with trans := some { t with tag := noTag } }
  | none => ix

/-- A query serves a command, at the root of a domain too. -/
def ofCmd (s : State) (t : Nat) (q : Query) : Bool :=
  match q.origin with
  | .domain d _ => s.chd.dom.any fun x => x.root && x.tag == t && x.qid == d
  | _ => ofTag t q

/-- What runs to its end of a command's work once it is stopped: tiles with its rows, its reads in service, its running segments (R225, R234). -/
def busyOf (s : State) (t : Nat) : List Busy :=
  let xs := (s.srch.queries.filter (ofCmd s t)).map (·.ctx)
  let tile := fun (x : Tile) => match x.kind with
    | .node tag _ _ => tag == t
    | _ => x.rows.any xs.contains
  let read := fun (p : Purpose) => match p with
    | .rerank x _ => xs.contains x
    | .vertex x _ => xs.contains x
    | _ => readOfTag t p
  ((s.srch.engines.filter fun e => e.run.any tile).map fun e => .tile e.num) ++ (readsStarted read s).map .read ++
    (s.flash.dies.filter fun d => !d.suspended && d.run.any (·.work == .cmd t)).map fun d => .segment d.channel d.die

/-- Step 1 of R234: all work of a command ends. A MODEL_LOAD leaves its slot EMPTY (R176). -/
def stopWork (c : Cmd) (s : State) : State :=
  let s1 := dropReads (readOfTag c.tag) (dropSegs (fun g => g.work == .cmd c.tag) (dropQueries (ofCmd s c.tag) s))
  let node := fun (t : Tile) => match t.kind with
    | .node u _ _ => u == c.tag
    | _ => false
  let s2 := { closeStreams (·.user == .model c.tag) s1 with
    srch := { s1.srch with
      enc := s1.srch.enc.filter (·.tag != c.tag), train := s1.srch.train.filter (·.tag != c.tag),
      tiles := s1.srch.tiles.filter (fun t => !node t) },
    chd := { s1.chd with dom := s1.chd.dom.filter fun d => !(d.root && d.tag == c.tag) },
    facets := s1.facets.map (fun x => { x with admission := x.admission.filter (· != c.tag) }),
    idx := s1.idx.map (stopResketch c.tag s1) }
  if c.op == .modelLoad && c.phase != .turn && c.phase != .ending then
    updMod c.facet c.model (fun m => { m with state := 0, weights := [], adapter := [], adapterRank := 0, newAdapter := none,
                                              prefetched := false, stackedBytes := 0, toReady := none }) s2
  else s2

/-- The epoch a command ended early reports (R234, R248): a query its admission epoch, a FETCH e_f, a write its commit epoch; zero where it has
none. -/
def endEpoch (c : Cmd) : Nat :=
  match c.op with
  | .query => c.epoch
  | .queryBatch => c.epoch
  | .fetch => c.ef.getD 0
  | _ => if c.phase == .committed then c.epoch else 0

/-- A command ended early, with its status (R234); a TRAIN that was aborted is counted (R193, R363). -/
def endCmd (st : Nat) (c : Cmd) (s : State) : State :=
  finish c st 0 (endEpoch c) [] running0
    (if c.op == .train && (st == stAborted || st == stDeleted) then bump c.facet (kCls 6 26) 1 (stopWork c s) else stopWork c s)

/-- Every command that satisfies p ended with a status. -/
def endAll (p : Cmd → Bool) (st : Nat) (s : State) : State := (s.cmds.filter p).foldl (fun t c => endCmd st c t) s

/-- Every command that satisfies p stopped without a completion (R239). -/
def dropAll (p : Cmd → Bool) (s : State) : State :=
  (s.cmds.filter p).foldl (fun t c => { stopWork c t with cmds := t.cmds.filter fun x => x.tag != c.tag }) s

/-- Entries of a ring from head to tail. -/
def ringCount (depth head tail : Nat) : Nat := if depth == 0 then 0 else (tail + depth - head) % depth

/-- What runs to its end of the work of a pair's commands. -/
def pairBusy (s : State) (q : Nat) : List Busy := nub ((s.cmds.filter (·.qp == q)).flatMap fun c => c.busy ++ busyOf s c.tag)

/-- RESUME_QPs completed, each with the entries discarded for it (R257). -/
def endResumes (l : List (Nat × Nat)) (s : State) : State :=
  l.foldl (fun t r => match cmdOf t r.1 with
    | some rc => succeed rc (leBytes 2 r.2) t
    | none => t) s

/-- The RESUME_QPs whose discards a pair still runs, with the entries discarded for each so far. -/
def resumes (p : Qp) : List (Nat × Nat) :=
  (p.resumer.toList.map fun t => (t, p.discarded)) ++ p.moreResumes.map fun m => (m.2.1, p.discarded - m.2.2)

/-- The DELETE_QPs of a pair completed. -/
def endDeletes (l : List (Nat × Nat × Nat)) (s : State) : State :=
  l.foldl (fun t d => match cmdOf t d.1 with
    | some c => succeed c (leBytes 2 d.2.1 ++ leBytes 2 d.2.2) t
    | none => t) s

/-- A pair being deleted goes, and its DELETE_QPs complete, once nothing of its work runs any more (R234, R275). -/
def deleteProgress (q : Nat) (s : State) : State :=
  match qpOf s q with
  | none => s
  | some p => if p.state == 3 && p.stopping.isEmpty then endDeletes p.deleters { s with qps := s.qps.filter fun x => x.num != q } else s

/-- Every pair being deleted that can go does. -/
def deletePairs (s : State) : State := s.qps.foldl (fun t p => deleteProgress p.num t) s

/-- Some work has ended: no pair and no stopped command waits for it. -/
def busyEnded (b : Busy) (s : State) : State :=
  { s with
    qps := s.qps.map fun p => { p with stopping := p.stopping.filter (· != b) },
    cmds := s.cmds.map fun c => { c with busy := c.busy.filter (· != b) } }

/-- Commands that an ABORT has stopped complete once their last work has ended (R259). -/
def endStopped (s : State) : State := endAll (fun c => c.phase == .ending && c.busy.isEmpty) stAborted s

/-- An ABORT has taken hold of a command that ends at its next step (R182, R259). -/
def abortHolds (s : State) (c : Cmd) : Bool := (tagOf s c.tag).abortHeld

/-- DELETE_QP (R234, R275): the pair is in state 3, its commands end with ABORTED_BY_DELETE, or with ABORTED where an ABORT came first (R260), unfetched entries are discarded, and discards
under way end; the pair goes once the work that runs to its end has ended. A pair that is being deleted already answers when it has gone. -/
def deletePair (c : Cmd) (s : State) : State :=
  let q := c.ar 0 1
  match qpOf s q with
  | none => s
  | some p =>
    let s0 := setPhase c.tag .running s
    if p.state == 3 then updQp q (fun x => { x with deleters := x.deleters ++ [(c.tag, 0, 0)] }) s0
    else
      let ended := (s.cmds.filter fun x => x.qp == q && !abortHolds s x).length
      let up := fun (x : Qp) => { x with
        state := 3, deleters := [(c.tag, ended, ringCount p.depth p.sqHead p.sqTail)], stopping := pairBusy s q, resumer := none,
        discardTo := none, moreResumes := [] }
      let s1 := endAll (fun x => x.qp == q && abortHolds s x) stAborted (updQp q up s0)
      deleteProgress q (endResumes (resumes p) (endAll (fun x => x.qp == q) stDeleted s1))

/-- A RESKETCH whose E_s has come: an ABORT catches it no more (R259, R288). -/
def pastStart (s : State) (c : Cmd) : Bool :=
  c.op == .resketch && c.phase == .running &&
  (c.index s).any fun ix => ix.trans.any fun t => t.tag == c.tag && t.es ≤ (facetOf s c.facet).epoch

/-- A command that an ABORT has caught: no further work of it is started, and it completes at once or when its reads in service, running tiles and
running segments have ended (R259). -/
def stopAborted (c : Cmd) (s : State) : State :=
  if (busyOf s c.tag).isEmpty then endCmd stAborted c s
  else updCmd c.tag (fun y => { y with phase := .ending, busy := busyOf s c.tag }) (stopWork c s)

/-- ABORT (R259, R260). A TRAIN in its optimiser steps ends at the next of them (R182). A QUERY_BATCH with the results of one of its queries
written is past the start of result writing. -/
def abortCmd (c : Cmd) (s : State) : State :=
  let t := c.ar 2 2
  let no := finish c stOk flNotCaught 0 [] running0 s
  match s.cmds.find? fun x => x.tag == t && x.qp == c.ar 0 1 && x.cid == c.ar 4 2 && !isAdmin x.op with
  | none => no
  | some x =>
    if (tagOf s t).abortHeld || x.phase == .committed || pastStart s x || !x.results.isEmpty then no
    else
      let s1 := updTag t (fun w => { w with abortHeld := true })
        (updCmd t (fun y => { y with aborters := y.aborters ++ [c.tag] }) (setPhase c.tag .waiting s))
      let x' := { x with aborters := x.aborters ++ [c.tag] }
      if s1.srch.train.any fun j => j.tag == t && j.phase == 3 then
        { s1 with srch := { s1.srch with train := updFirst (·.tag == t) (fun j => { j with ending := true }) s1.srch.train } }
      else stopAborted x' s1

/-- RESUME_QP (R256, R257): the causes are cleared and fetching resumes; a watchdog cause stays in force until the processor
checks in, and a fatal one until module reset (log 29). With discard, entries up to the tail are first ended. -/
def resumePair (c : Cmd) (s : State) : State :=
  let q := c.ar 0 1
  match qpOf s q with
  | none => s
  | some p =>
    let f := p.facet
    let region := fun r => ((facetRec s f).map fun x => x.regions.contains r).getD false
    let stuck := s.srch.expired.any region
    if p.state != 2 || shownCause p == cauFatal || (shownCause p == cauWatchdog && stuck) then
      succeed c (leBytes 2 0) s
    else
      let fz := (facetOf s f).state == 2
      let s1 := updQp q (fun x => { x with state := 1, causes := [] }) s
      let s2 := if fz then updFacet f (fun x => { x with
        state := 1, cause := 0, forced := x.forced || x.cause == cauFacetFault, kaSince := now s }) s1 else s1
      if bit 0 (c.ar 1 1) && p.sqHead != p.sqTail then
        let up := fun (x : Qp) =>
          if x.discardTo.isSome then { x with moreResumes := x.moreResumes ++ [(p.sqTail, c.tag, p.discarded)] }
          else { x with discardTo := some p.sqTail, resumer := some c.tag, discarded := 0 }
        setPhase c.tag .running (updQp q up s2)
      else succeed c (leBytes 2 0) s2

/-- A pair whose discard has reached its tail: the next RESUME_QP's discard runs on, if another one waits. -/
def nextDiscard (p : Qp) : Qp :=
  match p.moreResumes.dropWhile (·.1 == p.sqHead) with
  | [] => { p with discardTo := none, resumer := none, moreResumes := [] }
  | m :: ms => { p with
      discardTo := some m.1, resumer := some m.2.1, discarded := p.discarded - m.2.2,
      moreResumes := ms.map fun y => (y.1, y.2.1, y.2.2 - m.2.2) }

/-- A discard that has reached its tail completes its RESUME_QP, and every other that ends there (R257). -/
def endDiscard (q : Nat) (s : State) : State :=
  match qpOf s q with
  | none => s
  | some p =>
    if p.discardTo == some p.sqHead then
      endResumes (resumes { p with moreResumes := p.moreResumes.takeWhile (·.1 == p.sqHead) }) (updQp q nextDiscard s)
    else s

/-- The host-interface reset of R239: fetched commands stop without completions, pairs go, tags are FREE, held messages are dropped with all
other DMA. -/
def interfaceReset (s : State) : State :=
  let s1 := dropAll (fun _ => true) s
  let fs := s1.facets.map fun x => { x with destroyTag := none, admission := [], paused := false }
  { s1 with
    qps := [], cmds := [], tags := s1.tags.map fun t => { t with state := 0, abortHeld := false, qp := 0, cid := 0, status := 0 },
    hif := { s1.hif with enable := false, ready := false, configError := false, resetBusy := false, grant := none, pendMsg := [] },
    facets := fs, fw := { s1.fw with committing := none }, lat := { s1.lat with load := none },
    idx := s1.idx.map fun i => { i with dropping := i.dropping.map fun _ => noTag },
    brd := { s1.brd with trans := s1.brd.trans.map fun t => { t with tag := noTag }, psQueue := [] } }

end Sys2Proof.Machine
end

