-- ==== Sys2Proof/Machine/Control.lean ====
section
/-! DEFINITION. What each admin command but LOAD_LATTICE does once its checks have passed (R270 to R279, R334, R375). -/

namespace Sys2Proof.Machine

/-- ASCII bytes. -/
def ascii (s : String) : Bytes := s.toList.map fun c => BitVec.ofNat 8 c.toNat

/-- Ones of a map of n bits, as bytes. -/
def bitMap (n : Nat) (l : List Nat) : Bytes := leBytes (n / 8) (ofBits ((List.range n).map l.contains))

/-- HBM available to facet shares: 184 GiB less retired frames (R270). -/
def hbmBytes (s : State) : Nat := 184 * 2 ^ 30 - 65536 * s.mem.retired.length

/-- Stage-0 format in force for a facet (R167). -/
def s0Of (s : State) (f : Nat) : Nat := (facetOf s f).s0.getD (stageFormat s f 0 3).1

/-- Identify data for cns 0 (R270). -/
def identifyModule (s : State) : Bytes :=
  padTo 16 (ascii "CVG8-M32T-A") ++ leBytes 2 0x00A1 ++ leBytes 2 1 ++ leBytes 4 0 ++ s.serial ++
  leBytes 8 ((s.fw.slots[s.fw.running]?).map (·.revision) |>.getD 0) ++ leBytes 16 s.cfg.id ++ leBytes 2 256 ++ leBytes 2 4096 ++
  leBytes 4 65536 ++ leBytes 2 16384 ++ leBytes 2 1024 ++ leBytes 1 64 ++ leBytes 1 16 ++ leBytes 1 8 ++ leBytes 1 0 ++
  leBytes 2 s.srch.cellsOut.length ++ leBytes 1 s.srch.blocksOut.length ++ leBytes 1 s.srch.regionsOut.length ++
  leBytes 1 s.hif.speed ++ leBytes 1 s.hif.width ++ leBytes 2 0 ++ leBytes 8 (hbmBytes s) ++ leBytes 8 (24576 * 2 ^ 30) ++
  leBytes 4 (704 * 2 ^ 20)

/-- Identify data for cns 1 (R270). -/
def identifyFacet (s : State) (f : Nat) : Bytes :=
  let x := shownFacet s f
  let r := s.cfg.facets.find? (·.facet == f)
  let rf := fun (g : FacetRec → Nat) => (r.map g).getD 0
  leBytes 1 x.state ++ leBytes 1 (rf (·.qpLimit)) ++ leBytes 1 (s.qps.filter fun q => q.num != 0 && q.facet == f).length ++
  leBytes 1 (idxsOf s f).length ++ leBytes 2 (rf (·.hbm)) ++ leBytes 2 0 ++ leBytes 4 (rf (·.stacked)) ++
  leBytes 4 (rf (·.flash)) ++ leBytes 8 (hbmCharged s f) ++ leBytes 8 (flashCharged s f) ++ leBytes 8 x.epoch ++
  leBytes 8 x.closed ++ leBytes 4 x.kaMs ++ leBytes 1 (s0Of s f)

/-- Positions or nodes of an index that carry a tombstone bit. -/
def tombstoned (ix : Index) : Nat :=
  if ix.geo.mode == 0 then (ix.lists.map fun d => ((curCopy d).pos.filter (·.tomb)).length).sum
  else ((curArray ix).nodes.filter (·.tomb)).length

/-- Sketch generations in use (R60, R151, R270): two from E_s to E_end, which releases the old one. -/
def gensInUse (s : State) (ix : Index) : Nat := if ix.trans.any fun t => t.es ≤ (facetOf s ix.geo.facet).epoch then 2 else 1

/-- Identify data for cns 2 (R270). -/
def identifyIndex (s : State) (f slot : Nat) : Bytes :=
  let g := ((geoOf s f slot).map geoBytes).getD (List.replicate 64 0)
  match idxOf s f slot with
  | none => g ++ List.replicate 40 0
  | some ix => g ++ leBytes 1 1 ++ leBytes 1 (gensInUse s ix) ++ leBytes 1 (flagBit 0 ix.pendingProj.isSome) ++ leBytes 1 0 ++
      leBytes 4 ix.gen ++ leBytes 8 ix.map.length ++ leBytes 8 (positions ix) ++ leBytes 8 (tombstoned ix) ++
      leBytes 4 ix.committed

/-- IDENTIFY. -/
def beginIdentify (c : Cmd) (s : State) : State :=
  let d := match c.ar 0 1 with
    | 0 => identifyModule s
    | 1 => identifyFacet s (c.ar 1 1)
    | _ => identifyIndex s (c.ar 1 1) (c.ar 2 1)
  succeed c [] (writeHost c c.resultAddr (padTo 4096 d) s)

/-- MAIN_54V power in mW. -/
def mainMw (s : State) : Nat := s.brd.mV * s.brd.mA / 1000

/-- A signed temperature as a byte (R271). -/
def tempByte (t : Int) : Byte := BitVec.ofInt 8 t

/-- The HEALTH page (R271). -/
def healthPage (s : State) : Bytes :=
  padTo 64 (leBytes 8 (healthWord s) ++ [tempByte (s.brd.temps.getD 8 0)] ++ (s.brd.temps.take 8).map tempByte ++ List.replicate 7 0 ++ leBytes 4 (mainMw s) ++
    leBytes 4 s.mem.retired.length ++ leBytes 2 s.flash.sparePm ++ leBytes 2 s.srch.cellsOut.length ++
    leBytes 1 s.srch.blocksOut.length ++ leBytes 1 s.srch.regionsOut.length ++ leBytes 4 (s.brd.opNs / 3600000000000) ++
    leBytes 4 s.brd.cycles)

/-- The prefetch gauge FCT_FACET[22] (R364). -/
def prefetchGauge (s : State) (f : Nat) : Nat :=
  let ready := s.mods.filter fun m => m.facet == f && m.state == 2
  (ready.filter (·.prefetched)).length + 256 * (ready.filter fun m => !m.prefetched).length

/-- The FACET page from counters taken at one turn boundary (R365). -/
def facetPage (ctr : Ctr) (energyNj gauge : Nat) : Bytes :=
  let run := fun (n : Nat) (k : Nat → Nat) => ((List.range n).map fun i => leBytes 8 (ctr.get (k i))).flatten
  padTo 4096 (((List.range 8).map fun c => run 40 (kCls c)).flatten ++ run 22 kFct ++ leBytes 8 gauge ++ List.replicate 72 0 ++
    ((List.range 8).map fun c => run 8 (kSch c)).flatten ++ leBytes 8 (energyNj / 1000) ++ leBytes 8 (ctr.get kPause))

/-- Identity of an image held as bytes (R32). -/
def imageId (b : Bytes) : Nat := (readHead b).id

/-- The LATTICE page (R271): the chain is what the marker covers (log 82). -/
def latticePage (s : State) : Bytes :=
  padTo 1024 ((s.lat.slots.zipIdx).map fun p =>
    leBytes 1 (flagBit 0 (p.2 == s.lat.active && s.lat.st != 3)) ++ leBytes 1 (partials p.1) ++
    leBytes 2 p.1.lastCode ++ padTo 16 (((p.1.chain.head?).map fun b => leBytes 16 (imageId b)).getD []) ++
    (((images p.1).drop 1).map fun b => leBytes 16 (imageId b)).flatten).flatten

/-- The FIRMWARE page (R271). -/
def firmwarePage (s : State) : Bytes :=
  padTo 64 (leBytes 1 s.fw.running ++ leBytes 1 s.fw.selected ++
    (s.fw.slots.map fun x => leBytes 1 (flagBit 0 x.valid) ++ leBytes 2 x.compat ++ leBytes 8 x.revision).flatten)

/-- A log page (R271). -/
def logPage (s : State) (id f : Nat) : Bytes :=
  match id with
  | 1 => padTo 16384 (s.elog.map errBytes).flatten
  | 2 => healthPage s
  | 3 => match s.srch.snap.find? (·.1 == f) with
    | some p => facetPage p.2.1 p.2.2.1 p.2.2.2
    | none => facetPage [] 0 0
  | 4 => padTo 1024 (bitMap 4096 s.srch.cellsOut ++ bitMap 128 s.srch.blocksOut ++ bitMap 8 s.srch.regionsOut)
  | 5 => latticePage s
  | _ => firmwarePage s

/-- GET_LOG: the named part of the page, zeros beyond its end (R269, R271). -/
def beginGetLog (c : Cmd) (s : State) : State :=
  let pg := logPage s (c.ar 0 1) (c.ar 1 1)
  succeed c (leBytes 4 pg.length) (writeHost c c.resultAddr (padTo (c.ar 4 4) (slice (c.ar 8 8) (c.ar 4 4) pg)) s)

/-- The transition into a selected power state begins (R261, R262); a change of the health word is counted (R253). -/
def beginPower (c : Cmd) (s : State) : State :=
  setPhase c.tag .running (countHealth s { s with brd := { s.brd with
    psSel := c.ar 8 8, trans := some ⟨c.tag, c.ar 8 8, c.at'⟩, woken := false } })

/-- SET_FEATURE (R272, R375). Only one power-state transition runs at a time; the next one waits (R262). -/
def beginSetFeature (c : Cmd) (s : State) : State :=
  let v := c.ar 8 8
  let f := c.ar 1 1
  let ok := fun (t : State) => succeed c (leBytes 8 v) t
  match c.ar 0 1 with
  | 1 =>
    if s.brd.trans.isSome then
      setPhase c.tag .waiting { s with brd := { s.brd with psQueue := s.brd.psQueue ++ [c.tag] } }
    else beginPower c s
  | 2 => ok (updFacet f (fun x => { x with kaMs := v, kaSince := now s }) s)
  | 3 => ok (updFacet f (fun x => { x with s0Next := some v }) s)
  | _ => ok { s with hif := { s.hif with testMode := v == 1 } }

/-- GET_FEATURE (R272, R375): a stage-0 format that was set is reported before it takes effect. -/
def beginGetFeature (c : Cmd) (s : State) : State :=
  let f := c.ar 1 1
  succeed c (leBytes 8 (match c.ar 0 1 with
    | 1 => s.brd.psSel
    | 2 => (facetOf s f).kaMs
    | 3 => (facetOf s f).s0Next.getD (s0Of s f)
    | _ => flagBit 0 s.hif.testMode)) s

/-- FW_DOWNLOAD (R273): the bytes go to the staging buffer; while an FW_COMMIT runs the command waits. -/
def beginFwDownload (c : Cmd) (s : State) : State :=
  if s.fw.committing.isSome then setPhase c.tag .waiting s
  else
    let o := c.ar 0 4
    let pages := (List.range (c.dataLen / 4096)).map fun i => o / 4096 + i
    succeed c [] { s with fw := { s.fw with staging := cellWrite o c.data s.fw.staging, pages := nub (s.fw.pages ++ pages) } }

/-- The first bytes of the staging buffer. -/
def staged (s : State) (n : Nat) : Bytes := cellRead 0 n s.fw.staging

/-- The reason an FW_COMMIT is refused (R273), the reasons of an action in the order of its table (log 30). -/
def fwReason (c : Cmd) (s : State) : Nat :=
  let slot := c.ar 0 1
  match c.ar 1 1 with
  | 2 => if ((s.fw.slots[slot]?).map (·.valid)).getD false then 0 else 5
  | 3 => match checkBoot s.fuse (staged s 7088) with
    | .ok _ => 0
    | .badSignature => 6
    | .badFormat => 7
  | _ =>
    let len := Config.fwStatedLength (staged s 4096)
    let img := staged s len
    if !Config.fwSignatureOk (fenceBytes s.fnc) img then 1
    else if Config.fwCompat img != 1 then 2
    else if (List.range (cdiv len 4096)).any fun p => !s.fw.pages.contains p then 3
    else if slot == s.fw.running then 4
    else 0

/-- FW_COMMIT's result field. -/
def fwResult (reason : Nat) : Bytes := leBytes 2 reason

/-- FW_COMMIT (R273): refused with its reason, or its flash writes begin; a selection alone writes nothing. -/
def beginFwCommit (c : Cmd) (s : State) : State :=
  if s.fw.committing.isSome then setPhase c.tag .waiting s
  else
    let r := fwReason c s
    if r != 0 then finish c stFirmware 0 0 (fwResult r) ⟨6, r, 0xFFFFFFFF⟩ s
    else if c.ar 1 1 == 2 then succeed c (fwResult 0) { s with fw := { s.fw with selected := c.ar 0 1 } }
    else queueCmdSeg 3 64 c.tag (setPhase c.tag .running { s with fw := { s.fw with committing := some c.tag } })

/-- What a finished FW_COMMIT leaves: the slot written and perhaps selected, or both boot copies; the buffer is cleared. -/
def endFwCommit (c : Cmd) (s : State) : State :=
  let fw := s.fw
  let img := staged s (Config.fwStatedLength (staged s 4096))
  let slots := fw.slots.set (c.ar 0 1) ⟨true, Config.fwCompat img, Config.fwRevision img⟩
  let clear := { fw with staging := [], pages := [], committing := none }
  let fw' := match c.ar 1 1 with
    | 3 => match checkBoot s.fuse (staged s 7088) with
      | .ok i => { clear with boot0 := some i, boot1 := some i }
      | _ => clear
    | 1 => { clear with slots := slots, selected := c.ar 0 1 }
    | _ => { clear with slots := slots }
  succeed c (fwResult 0) { s with fw := fw' }

/-- A new queue pair (R242, R250, R275). -/
def newQp (num facet depth sq cq vector count delay : Nat) : Qp :=
  { num := num, facet := facet, depth := depth, sqBase := sq, cqBase := cq, vector := vector, cCount := count,
    cDelay := delay, sqTail := 0, sqHead := 0, cqTail := 0, cqHead := 0, phase := true, state := 1, causes := [],
    inFlight := 0, slotTags := [], discardTo := none, resumer := none, discarded := 0, moreResumes := [], deleters := [],
    stopping := [], toSignal := 0, signalSince := none }

/-- CREATE_QP's own condition (R275) and effect. The keep-alive timer of a facet without pairs starts with its first (R375). A pair made while its
facet is FROZEN, or while a processor of its regions has not checked in, begins running and with no cause of its own (DESIGN CHOICE, log 99). -/
def beginCreateQp (c : Cmd) (s : State) : State :=
  let f := c.ar 1 1
  let held := (s.qps.filter fun q => q.num != 0 && q.facet == f).length
  if ((facetRec s f).map (·.qpLimit)).getD 0 ≤ held then refuse c stCapacity 6 0 0xFFFFFFFF s
  else
    let q := newQp (c.ar 0 1) f (c.ar 2 2) (c.ar 8 8) (c.ar 16 8) (c.ar 4 2) (c.ar 6 1) (c.ar 7 1)
    let s1 := if held == 0 then updFacet f (fun x => { x with kaSince := now s }) s else s
    succeed c [] { s1 with qps := s1.qps ++ [q] }

/-- FACET_CREATE (R47, R77, R276, R365): ACTIVE with epoch 0, counters zero, keep-alive off. -/
def beginFacetCreate (c : Cmd) (s : State) : State :=
  let f := c.facet
  succeed c [] (updFacet f (fun x => { Facet.blank f with state := 1, s0 := x.s0, s0Next := x.s0Next }) s)

/-- A facet's data out of the caches and the flash marks, and its shadows gone (R236). -/
def forgetFacet (f : Nat) (s : State) : State :=
  closeStreams (·.facet == f) { s with
    srch := { s.srch with shadows := s.srch.shadows.filter (·.facet != f) },
    flash := { s.flash with lost := s.flash.lost.filter (·.1.facet != f), rebuilding := s.flash.rebuilding.filter (·.facet != f) },
    mem := keepMem (fun g _ => g != f) s.mem }

/-- What a facet holds is out of reach, and its scrub begins (R236): its indexes and model slots are gone, and their HBM and flash stay charged until
their memory is zeroed and their blocks are erased. -/
def beginScrub (f : Nat) (s : State) : State :=
  let mine := fun (i : Index) => i.geo.facet == f
  let bs := blocksHeld s (·.facet == f) (s.idx.filter mine) ++ otherBlocks s f
  let up := fun (x : Facet) => { x with
    pend := [], log := [], window := [], admission := [], teardown := some 4, scrub := zeroJobs s f, scrubHbm := hbmCharged s f,
    droppedFlash := flashCharged s f }
  let s1 := dropPages (·.facet == f) <| forgetFacet f { s with
    idx := s.idx.filter fun i => !mine i, mods := s.mods.map fun m => if m.facet == f then ModelSlot.empty f m.slot m.raw else m }
  let other := fun (g : Seg) => g.facet == f && g.work != .scrub f
  scrubOn (queueErases f bs (updFacet f up (dropSegs other s1))) f

/-- FACET_DESTROY, steps 1 to 3 of R236: DESTROYING, every command ended, pairs deleted with the RESUME_QPs and DELETE_QPs that wait on them
(R257, R275, R276), data out of reach. The scrub runs then, under the facet's SCRUB class. -/
def beginFacetDestroy (c : Cmd) (s : State) : State :=
  let f := c.facet
  let s1 := updFacet f (fun x => { x with state := 3 }) s
  let ps := s.qps.filter fun q => q.num != 0 && q.facet == f
  let qs := ps.map (·.num)
  let s2 := ps.foldl (fun t p => endDeletes p.deleters (endResumes (resumes p) t)) (endAll (fun x => !isAdmin x.op && x.facet == f) stDeleted s1)
  let s3 := dropQueries (fun q => q.facet == f) s2
  let s4 := { s3 with qps := s3.qps.filter fun q => !qs.contains q.num }
  setPhase c.tag .running (beginScrub f (updFacet f (fun x => { x with destroyTag := some c.tag }) s4))

/-- The centroid rows of INDEX_CREATE: dims elements each, without their padding (R277). -/
def centroidRows (g : Geometry) (from' n : Nat) (d : Bytes) : List Bytes :=
  (List.range n).map fun i => slice (rowSize g * (from' + i)) (g.dims * elemSize g.storage) d

/-- A newly created index (R50, R59, R62, R71, R106). -/
def newIndex (g : Geometry) (seed : Nat) (d : Bytes) : Index :=
  { geo := g, coarse := centroidRows g 0 g.coarse d, fine := centroidRows g g.coarse (listCount g) d,
    projs := [(0, .seed (BitVec.ofNat 64 seed))], released := [], starts := [], gen := 0, pendingProj := none, lists := [], side := [], freed := [],
    head := 0, committed := 0, moves := [], map := [], cached := [],
    arrays := if g.mode == 0 then [] else [⟨0, [], [(0, 0)], [(0, [])]⟩], sweep := none, lastSweep := 0, sweptTo := 0,
    toReclaim := [], insertedSince := 0, renumDeferred := false, trans := none, dropping := none, held := false, staged := none, work := none }

/-- HBM an index takes with N = 0, with the map cache of a facet's first index (R79, R277). -/
def fixedCharge (s : State) (g : Geometry) : Nat :=
  cdiv (chargeEighths g 0 0) 8 + (if (idxsOf s g.facet).isEmpty then 2 ^ 32 else 0)

/-- INDEX_CREATE's own condition (R277); then its flash writes begin, under INGEST, as those of an FW_COMMIT do: R219 names neither command (DESIGN
CHOICE, log 100). -/
def beginIndexCreate (c : Cmd) (s : State) : State :=
  match geoOf s c.facet (c.ar 1 1) with
  | none => refuse c stInvalid 3 0 0x21 s
  | some g =>
    if hbmFree s c.facet < fixedCharge s g then refuse c stCapacity 6 0 0xFFFFFFFF s
    else queueCmdSeg 3 c.facet c.tag (setPhase c.tag .running s)

/-- INDEX_CREATE's writes are on flash: the index is created, and what of it lies in HBM has its block checks (R214). -/
def endIndexCreate (c : Cmd) (s : State) : State :=
  match geoOf s c.facet (c.ar 1 1) with
  | none => s
  | some g => succeed c [] (keepAll g.facet g.slot { s with idx := s.idx ++ [newIndex g (c.ar 8 8) c.data] })

/-- EVR_CONTROL (R279, R333, R334). -/
def beginEvrControl (c : Cmd) (s : State) : State :=
  let s1 := match c.ar 0 1 with
    | 0 => if s.evr.frozen then s
      else { s with evr := { s.evr with frozen := true, freezeAt := s.brd.aon, frozenCount := 0, frozenSev := 0 } }
    | 1 => endFreeze s
    | _ =>
      let n := s.evr.recs.length
      let last := ((s.evr.recs.getLast?).map (·.seq)).getD 0
      { s with evr := writeRec (makeRec s 0x0F03 1 0 [n, last]) { s.evr with recs := [] } }
  succeed c (leBytes 2 s1.evr.recs.length ++ leBytes 2 0 ++ leBytes 4 s1.evr.frozenCount) s1

end Sys2Proof.Machine
end

