-- ==== Sys2Proof/Machine/Lattice.lean ====
section
/-! DEFINITION. LOAD_LATTICE, the application of images, and the boot load (R38 to R46, R167, R177, R361). -/

namespace Sys2Proof.Machine

/-- An image slot by number. -/
def imgSlot (s : State) (n : Nat) : ImgSlot := s.lat.slots.getD n ⟨[], 0, 0⟩

/-- What validation reads (R38). -/
def venvOf (s : State) (cfg : ImageCfg) (chain : Nat) : VEnv :=
  { cfg := cfg, active := s.lat.st != 3, chain := chain, links := s.fnc.links, keys := s.fuse.coravaper :: s.fnc.keys,
    idx := s.idx.map (·.geo),
    inUse := nub ((s.facets.filter fun x => x.state != 0).map (·.num) ++
      (s.qps.filter fun q => q.num != 0).map (·.facet) ++ s.idx.map (·.geo.facet)) }

/-- LAT_LAST_CODE and a slot's last code set (R271, R361). -/
def setCode (slot code : Nat) (kind atReset : Bool) (s : State) : State :=
  let slots := s.lat.slots.set slot { imgSlot s slot with lastCode := code }
  { s with lat := { s.lat with code := code, kind := kind, atReset := atReset, slots := slots } }

/-- The LOAD_LATTICE result field (R269). -/
def latticeResult (code slot chain : Nat) : Bytes := leBytes 2 code ++ leBytes 1 slot ++ leBytes 1 chain

/-- A validated image written to its slot (R42, R43, R45): a full image replaces what the inactive slot holds, a partial one is appended to
the active slot's chain, above its marker. -/
def storeImage (part : Bool) (b : Bytes) (x : ImgSlot) : ImgSlot :=
  if part then { x with chain := images x ++ [b] } else { x with chain := [b], applied := 1 }

/-- LOAD_LATTICE with its image (R38, R42, R43): refused with its code, or stored and on its way to being applied. An image whose
image_kind is neither code, or cannot be read, shows its code under the inactive slot, as a full image does (DESIGN CHOICE, log 81). -/
def beginLoad (c : Cmd) (s : State) : State :=
  let h := readHead c.data
  let isPart := h.kind == 1
  let target := if isPart then s.lat.active else 1 - s.lat.active
  let r := validate (venvOf s s.cfg (partials (imgSlot s s.lat.active))) c.data
  let s1 := setCode target r.1 isPart false s
  if r.1 != 0 then
    finish c stLattice 0 0 (latticeResult r.1 target (partials (imgSlot s target))) ⟨6, r.1, 0xFFFFFFFF⟩
      { s1 with lat := { s1.lat with refused := s1.lat.refused + 1 } }
  else
    let ld : Load := ⟨c.tag, c.data, r.2, isPart, if isPart then h.mask else 0xFF, target⟩
    let slots := s1.lat.slots.set target (storeImage isPart c.data (imgSlot s1 target))
    setPhase c.tag .running { s1 with lat := { s1.lat with load := some ld, slots := slots } }

/-- Facets with a block in the load's regions, before or after it (R43, R46). -/
def loadFacets (s : State) (l : Load) : List Nat :=
  let hit := fun (r : FacetRec) => r.regions.any fun g => bit g l.mask
  nub (((s.cfg.facets ++ l.cfg.facets).filter hit).map (·.facet))

/-- Model slots after a configuration is applied (R177): a record that is the one the slot is held under keeps it, any other is EMPTY. -/
def syncModels (new : ImageCfg) (ms : List ModelSlot) : List ModelSlot :=
  new.models.map fun r =>
    (ms.find? fun m => m.facet == r.facet && m.slot == r.slot && m.raw == r.raw).getD (ModelSlot.empty r.facet r.slot r.raw)

/-- Stacked copies that a new configuration leaves: none of a facet whose share became scratchpad, or shrank (R22, R200; log 82). -/
def keptCopies (old new : ImageCfg) (cs : List (Nat × Nat × Nat × Nat × Nat)) : List (Nat × Nat × Nat × Nat × Nat) :=
  cs.filter fun c => new.facets.any fun r => r.facet == c.1 && !r.scratch &&
    !(old.facets.any fun o => o.facet == c.1 && r.stacked < o.stacked)

/-- A facet's stage-0 format after a load (R167): the record's where the image carries one, else the one in force, kept with the facet. -/
def loadS0 (carries : Bool) (rec' now' : Nat) (x : Facet) : Facet :=
  if carries then { x with s0 := some rec', s0Next := none } else { x with s0 := some now' }

/-- A configuration made active: its records, its model slots, the stacked copies and streams it leaves, and the stage-0 formats of its facets (R22, R43,
R167, R177); a facet it does not declare keeps none. -/
def applyCfg (cfg : ImageCfg) (img : List FormatRec) (s : State) : State :=
  let carries := fun f => img.any fun r => r.facet == f && r.stage == 0
  let gone := fun (x : Facet) => if cfg.facets.any (·.facet == x.num) then x else { x with s0 := none, s0Next := none }
  let keep := fun (x : Strm) => cfg.routes.any (fun r => r.facet == x.facet && r.route == x.route) &&
    cfg.facets.any fun r => r.facet == x.facet && (match x.user with
      | .sliver c => bit (cellBlock c) r.mask
      | _ => r.regions.contains x.region)
  let copies := keptCopies s.cfg cfg s.mem.copies
  let slices := s.mem.slices.filter fun p => copies.any fun c => (c.1, c.2.1, c.2.2.1) == p.1
  let s1 := closeStreams (fun x => !keep x) { s with cfg := cfg, mods := syncModels cfg s.mods, facets := s.facets.map gone,
                                                     mem := { s.mem with copies := copies, slices := slices } }
  cfg.facets.foldl (fun t r => updFacet r.facet (loadS0 (carries r.facet) (stageFormat s1 r.facet 0 3).1 (s0Of s r.facet)) t) s1

/-- FORMATS records an image itself carries. -/
def imageFormats (b : Bytes) : List FormatRec := (secRecords b 4 (readTable (readHead b) b)).map readFormat

/-- The load's end: the image applied, the marker written, LAT_ updated, fetching and admission resumed, the completion
posted (R42, R43, R361). -/
def endLoad (l : Load) (reshapeUs : Nat) (s : State) : State :=
  let s1 := applyCfg l.cfg (imageFormats l.image) s
  let x := imgSlot s1 l.target
  let slots := s1.lat.slots.set l.target { x with applied := x.chain.length }
  let s2 := { s1 with
    lat := { s1.lat with st := 0, load := none, slots := slots, active := l.target, loads := s1.lat.loads + 1,
                         reshapeUs := if l.part then reshapeUs else s1.lat.reshapeUs },
    facets := s1.facets.map fun x => { x with paused := false } }
  match cmdOf s2 l.tag with
  | some c => succeed c (latticeResult 0 l.target (partials (imgSlot s2 l.target))) s2
  | none => s2

/-- The load fails while it is applied (R46): no marker; LATTICE_REFUSED with APPLY_FAULT. -/
def failLoad (l : Load) (s : State) : State :=
  let s1 := setCode l.target 0x0601 l.part false s
  let s2 := { s1 with lat := { s1.lat with load := none, refused := s1.lat.refused + 1 },
                      facets := s1.facets.map fun x => { x with paused := false } }
  match cmdOf s2 l.tag with
  | some c => finish c stLattice 0 0 (latticeResult 0x0601 l.target (partials (imgSlot s2 l.target))) ⟨0, 0x0601, 0xFFFFFFFF⟩ s2
  | none => s2

/-- Microseconds of a region re-shape (R43): 180 plus 2.5 for each MiB of live scratchpad, at most 420. LAT_RESHAPE_US holds whole µs: a
half is rounded up (DESIGN CHOICE, log 81). -/
def reshapeTime (liveMiB : Nat) : Nat := min 420 (180 + cdiv (5 * liveMiB) 2)

/-- Every facet is quiesced (R42): every I/O command in flight has completed, and so have the parent's domain queries that had been
admitted or queued. A command that waits its turn behind the load is not in flight (R41, log 19). -/
def drained (s : State) : Bool :=
  (s.cmds.all fun c => isAdmin c.op || c.phase == .turn) && s.srch.queries.isEmpty && s.facets.all fun x => x.admission.isEmpty || x.state == 0 || x.state == 3

/-- A facet's admitted commands have ended, a committed write that is held for durability among them (R43 step 2, R134). -/
def facetIdle (s : State) (f : Nat) : Bool :=
  s.srch.queries.all (fun q => q.facet != f) && s.srch.enc.all (fun j => j.facet != f) &&
  s.srch.train.all (fun j => j.facet != f) && s.cmds.all fun c => c.facet != f || !takesLock c.op || (c.phase != .running && c.phase != .committed && c.phase != .ending)

/-- The load that is being applied: everything is quiesced, or the facets of a partial image are paused and idle (R42, R43, R46). -/
def applying (s : State) : Option Load :=
  s.lat.load.filter fun l => if l.part then (loadFacets s l).all fun f => (facetOf s f).paused && facetIdle s f else drained s

-- The boot load (R40).

/-- The images of a chain validated and applied in order: the last code, whether the last image was partial, and the
configuration when all passed. What facets hold is compared with the whole chain (log 34). A first image that is not full, or a later
one that is, is 0x0106 (DESIGN CHOICE, log 81). -/
def loadChain (s : State) : Nat → List Bytes → ImageCfg → Nat × Bool × ImageCfg
  | _, [], cfg => (0, false, cfg)
  | n, b :: bs, cfg =>
    let r := validate { venvOf s cfg (n - 1) with active := n != 0, idx := [], inUse := [] } b
    let k := (readHead b).kind == 1
    if r.1 != 0 || (n == 0) == k then (if r.1 == 0 then 0x0106 else r.1, k, cfg)
    else if bs.isEmpty then (0, k, r.2) else loadChain s (n + 1) bs r.2

/-- GEOMETRY_CONFLICT and FACET_IN_USE of a chain: what facets hold against the configuration it builds (R38, R45; log 34). -/
def chainCode (s : State) (cfg : ImageCfg) : Nat :=
  let v := venvOf { s with qps := [] } cfg 0
  if cfg.indexes.any (fun g => v.idx.any fun c => c.facet == g.facet && c.slot == g.slot && c != g) then 0x0408
  else if v.inUse.any (fun f => !cfg.facets.any (·.facet == f)) then 0x0504
  else 0

/-- A slot's boot load, of the images its marker covers (R45, R46): none when it holds no image. -/
def bootSlot (s : State) (n : Nat) : Option (Nat × Bool × ImageCfg) :=
  match images (imgSlot s n) with
  | [] => none
  | ch =>
    let r := loadChain s 0 ch ImageCfg.empty
    some (if r.1 == 0 then chainCode s r.2.2 else r.1, r.2)

/-- The code a slot's boot load leaves in LAT_, unless an earlier failure stands there, and for the slot itself; a chain that fails counts in
LAT_REFUSED (R38, R271, R361; log 34). -/
def bootCode (n : Nat) (failed : Bool) (s : State) : State :=
  match bootSlot s n with
  | some r =>
    let s1 := setCode n r.1 r.2.1 true s
    let s2 := if failed then { s1 with lat := { s1.lat with code := s.lat.code, kind := s.lat.kind, atReset := s.lat.atReset } } else s1
    if r.1 == 0 then s2 else { s2 with lat := { s2.lat with refused := s2.lat.refused + 1 } }
  | none => s

/-- A configuration that a boot load gives: stage-0 formats in force stay (R167, R375); each image of the chain counts in LAT_LOADS
(R361; log 34). -/
def bootCfg (cfg : ImageCfg) (st active : Nat) (s : State) : State :=
  { s with cfg := cfg, mods := syncModels cfg s.mods,
           lat := { s.lat with st := st, active := active, loads := s.lat.loads + (images (imgSlot s active)).length } }

/-- LATTICE_FALLBACK (R329) for the active slot, with the code its boot load gave and the identity of its full image. -/
def fallbackEvent (a code : Nat) (s : State) : State :=
  let id := ((imgSlot s a).chain.head?.map imageId).getD 0
  record 0x0701 a [code, id % 2 ^ 32, id / 2 ^ 32, id / 2 ^ 64, id / 2 ^ 96] s

/-- The boot load (R40): the active slot, else the other slot, which becomes active; else the admin queue only and no facets: what the
facets store stays for an image that declares them (R49; log 82). A slot that is empty counts as failed only when the other one can be loaded; state 2 stays until a load is applied (log 34). -/
def bootLoad (s : State) : State :=
  let a := s.lat.active
  let s1 := bootCode a false s
  match bootSlot s a with
  | some (0, _, cfg) => bootCfg cfg (if s.lat.st == 2 then 2 else 0) a s1
  | first =>
    let s2 := bootCode (1 - a) first.isSome s1
    match bootSlot s (1 - a) with
    | some (0, _, cfg) => fallbackEvent a ((first.map (·.1)).getD 0) (bootCfg cfg 2 (1 - a) s2)
    | _ =>
      let s3 := { s2 with cfg := ImageCfg.empty, lat := { s2.lat with st := 3 } }
      match first with
      | some (c, _) => fallbackEvent a c s3
      | none => s3

end Sys2Proof.Machine
end

