-- ==== Sys2Proof/Machine/Graph.lean ====
section
/-! DEFINITION. Graph search (R103 to R120): walkers, the candidate queue, hop rounds, the selectivity sample; and the end of
a cohort's centroid or sketch stage (R89, R104), which starts every scan and walk. -/

namespace Sys2Proof.Machine

-- Walkers (R104, R119).

/-- A walker holds fewer than 4 queries, counted from their admission on. -/
def walkerRoom (s : State) (c : Nat) : Bool :=
  (s.srch.queries.filter fun q => q.beam != 0 && q.path != 2 && q.walker == c && !q.stalled && !q.walkDone).length < 4

/-- The facet's next walker with room, by cell number from the per-facet pointer (R104). -/
def nextWalker (s : State) (f : Nat) : Option Nat :=
  let ws := (roleCells s f 1).filter (walkerRoom s)
  match ws.find? fun c => (facetOf s f).walkerPtr ≤ c with
  | some c => some c
  | none => ws.head?

-- The candidate queue (R105 to R107).

/-- A node as an entry of Q: its sketch and mark at the query's epoch (R105, R107). -/
def nodeEnt (x : Facet) (ix : Index) (q : Query) (n : Node) : QEnt :=
  let sk := nodeSketchAt n q.epoch
  ⟨hamming ix.geo.sketchBits (look 0 sk.1 q.sketches) sk.2, n.num, nodeLive x ix n q.epoch && passes q n.v.label, false⟩

/-- Order of Q (R107). -/
def entBefore (a b : QEnt) : Bool := a.ham < b.ham || (a.ham == b.ham && a.node ≤ b.node)

/-- Truncation (R107), along the ordered queue: matching and navigational entries kept so far. -/
def truncQ (l : Nat) : Nat → Nat → List QEnt → List QEnt
  | _, _, [] => []
  | m, n, e :: es =>
    if e.matching then (if m < l then e :: truncQ l (m + 1) n es else truncQ l m n es)
    else if m < l && n < l then e :: truncQ l m (n + 1) es else truncQ l m n es

/-- Nodes inserted into Q, each once, then one truncation (R107, R108). -/
def insertQ (x : Facet) (ix : Index) (q : Query) (ns : List Node) : Query :=
  let fresh := ns.filter fun n => !(q.q.any (·.node == n.num)) && !q.expandedL.contains n.num
  { q with q := truncQ q.beam 0 0 (fresh.foldl (fun l n => insertBy entBefore (nodeEnt x ix q n) l) q.q) }

/-- Nodes by number, below the published length at the query's epoch (R105). -/
def seenNodes (ix : Index) (q : Query) (ns : List Nat) : List Node :=
  let a := arrayAt ix q.epoch
  (ns.filter (· < lengthAt a q.epoch)).filterMap (nodeOf a)

-- Hop rounds (R108 to R111, R117).

/-- The next nodes to expand: the first w unexpanded entries (R108). -/
def nextSel (q : Query) : List Nat := ((q.q.filter fun e => !e.expanded).take q.width).map (·.node)

/-- Nodes grouped by graph unit (R109). -/
def nodesByUnit (g : Geometry) (ns : List Nat) : List (Unit' × List Nat) :=
  (nub (ns.map fun n => unitOf g (.node n))).map fun u => (u, ns.filter fun n => unitOf g (.node n) == u)

/-- Vertex reads of some nodes, one for each unit (R108, R109). -/
def issueVertex (ix : Index) (q : Query) (ns : List Nat) (s : State) : State :=
  let us := nodesByUnit ix.geo ns
  us.foldl (fun t u => issueRead u.1 (prio q.cls) (dueAt q) (.vertex q.ctx u.2) t) (bump q.facet (kCls (q.cls % 8) 13) us.length s)

/-- Where the node array lies that a query walks (R194, R207). -/
def walkBase (ix : Index) (q : Query) : Nat := arrayBase ix.geo.facet ix.geo.slot (arrayAt ix q.epoch).pub

/-- The stream that a walker is fed by while it serves a query: the runs of 2 KiB of the node array's sketch records, counted from the frame that
their base lies in (R110, R208); the expected rate is the firmware's (R208; log 15). -/
def armWalk (ix : Index) (q : Query) (s : State) : State :=
  let g := ix.geo
  let base := walkBase ix q
  let r := byteRuns base 0 (lengthAt (arrayAt ix q.epoch) q.epoch * recordBytes g 0)
  armRuns (.walker q.ctx) (q.walker / 512) (0x700 + cellBlock q.walker) g.facet (q.cls % 8) 0 (base / 65536 * 65536) (r.1 + r.2)
    (Config.diagnostic s.free).toNat (useFree s)

/-- A round begins: the selected nodes are marked expanded, their records are read (R108), and the walker's stream is armed for the neighbours'
sketches (R209). -/
def beginRound (ix : Index) (q : Query) (s : State) : State :=
  let sel := nextSel q
  let mark := q.q.map fun e => if sel.contains e.node then { e with expanded := true } else e
  let q' := { q with hops := q.hops + 1, sel := sel, arrived := [], q := mark, expandedL := q.expandedL ++ sel }
  armWalk ix q' (issueVertex ix q' sel (bump q.facet (kCls (q.cls % 8) 12) 1 (updQuery q.ctx (fun _ => q') s)))

/-- The walk ends, with a cause or none, and its stream with it; the query completes once its side list has ended too (R111, R112, R114, R117). -/
def endWalk (q : Query) (cause : Nat) (s : State) : State :=
  tryFinish q.ctx (updQuery q.ctx (fun _ => { q with
    walkDone := true, cause := orBits q.cause cause, partialFlag := q.partialFlag || !q.failedSel.isEmpty, sel := [], failedSel := [],
    arrived := [] }) (closeStreams (·.user == .walker q.ctx) s))

/-- After an insertion step: converged, out of rounds, out of time, or on to the next round (R108, R111, R117); the first waits for a tag of its
stream (R212). After round 24 no round is left
whose end could be predicted: HOP_LIMIT is then the only cause (DESIGN CHOICE, log 97). -/
def continueWalk (ix : Index) (first : Bool) (q : Query) (s : State) : State :=
  if (nextSel q).isEmpty then endWalk q 0 s
  else if 24 ≤ q.hops then endWalk q cHopLimit s
  else if !first && tooLate s q (dieMax s q ((nodesByUnit ix.geo (nextSel q)).map (·.1)) + 18000) then endWalk q cHopDeadline s
  else if first && !tagFor s (.walker q.ctx) then s
  else beginRound ix q s

/-- Runs of 2 KiB that some node sketches lie in, counted from the frame that the array's base lies in; a record may reach into a second run
(R110, R197). -/
def sketchRuns (ix : Index) (q : Query) (ns : List Nat) : List Nat :=
  let n := recordBytes ix.geo 0
  nub (ns.flatMap fun k =>
    let r := byteRuns (walkBase ix q) (k * n) n
    (List.range r.2).map (r.1 + ·))

/-- The round of a query on its walker: queries of one cohort at the same hop share it (R110; log 90). -/
def roundKey (q : Query) : Nat × Nat × Nat × Nat := (q.walker, q.slot, q.cohort, q.hops)

/-- Runs that a query's round has to fetch: those that no query on the same walker has fetched in the same round (R110). -/
def newRuns (s : State) (ix : Index) (q : Query) (ns : List Nat) : List Nat :=
  (sketchRuns ix q ns).filter fun r => !(look [] (roundKey q) s.srch.roundRuns).contains r

/-- Runs poisoned for every query that shares a round; the walker does not keep them, so that a query which comes to the round later fetches them anew
(R110, R119). -/
def poisonRound (q : Query) (rs : List Nat) (s : State) : State :=
  let hit := fun (y : Query) => if y.stage == .walk && roundKey y == roundKey q then { y with poison := y.poison ++ rs } else y
  let keep := fun (p : (Nat × Nat × Nat × Nat) × List Nat) => if p.1 == roundKey q then (p.1, p.2.filter fun r => !rs.contains r) else p
  if rs.isEmpty then s
  else { s with srch := { s.srch with queries := s.srch.queries.map hit, roundRuns := s.srch.roundRuns.map keep } }

/-- The runs of a round fetched (R196, R211, R321): what the walker now holds of the round, and the runs whose flash copy failed, which are
poisoned for all queries that share them. -/
def takeSketchRuns (ix : Index) (q : Query) (ns : List Nat) (s : State) : State :=
  let g := ix.geo
  let base := walkBase ix q
  let rs := newRuns s ix q ns
  let live := s.srch.roundRuns.filter fun p => s.srch.queries.any fun y => !y.walkDone && y.walker == p.1.1 && y.cohort == p.1.2.2.1
  let bad := rs.flatMap fun r => copyLost s g.facet g.slot 0 base (r, 1)
  let s1 := { s with srch := { s.srch with roundRuns := put (roundKey q) (look [] (roundKey q) s.srch.roundRuns ++ rs) live } }
  poisonRound q bad (rs.foldl (fun t r => readHbm g.facet g.slot 0 (q.cls % 8) base (r, 1) t) s1)

/-- A node's sketch record lies in a poisoned run of 2 KiB (R119). -/
def inPoison (ix : Index) (q : Query) (runs : List Nat) (n : Nat) : Bool := (sketchRuns ix q [n]).any runs.contains

/-- Neighbours that the end of a query's round looks at, each once (R107, R108). -/
def roundNodes (ix : Index) (q : Query) : List Node :=
  let a := arrayAt ix q.epoch
  let nbrs := nub ((q.arrived.filterMap fun r => nodeOf a r.cand.pos).map fun n => nbrsAt n q.epoch).flatten
  (seenNodes ix q nbrs).filter fun n => !(q.q.any (·.node == n.num)) && !q.expandedL.contains n.num

/-- The end of a round's reads (R108): results of matching nodes, then all neighbours at once, then the next round. The walker has fetched their
sketches, which its stream delivered (R209), and its work is charged as it was granted (R219, R222; log 41). -/
def hopRound (ix : Index) (q : Query) (borrowed : Bool) (s : State) : State :=
  let ns := roundNodes ix q
  let s1 := drainBy (.walker q.ctx) (takeSketchRuns ix q (ns.map (·.num)) s)
  let s2 := useFree (charge q.walker q.facet (q.cls % 8) (Config.workTicks s1.free q.walker) borrowed s1)
  let poison := ((queryOf s2 q.ctx).map (·.poison)).getD q.poison
  let got := q.arrived.filter fun r => q.q.any (fun e => e.node == r.cand.pos && e.matching)
  let bad := ns.filter fun n => inPoison ix q poison n.num
  let ok := ns.filter fun n => !inPoison ix q poison n.num
  let q1 := { q with found := q.found ++ got, sel := [], failedSel := [], arrived := [], poison := [],
                     partialFlag := q.partialFlag || !bad.isEmpty || !q.failedSel.isEmpty }
  let q2 := insertQ (facetOf s q.facet) ix q1 ok
  continueWalk ix false q2 (updQuery q.ctx (fun _ => q2) s2)

/-- A round's reads have all come back, or failed (R108, R119). -/
def roundIn (q : Query) : Bool := q.sel.all fun n => q.failedSel.contains n || q.arrived.any (·.cand.pos == n)

/-- A walk's round is in and waits for its walker. -/
def roundDue (q : Query) : Bool := q.stage == .walk && !q.walkDone && !q.stalled && q.hops != 0 && roundIn q

/-- The stacks that a round's runs lie on have byte credit for its class (R210, R223). -/
def roundFunded (s : State) (q : Query) : Bool :=
  match idxOf s q.facet q.slot with
  | none => true
  | some ix =>
    let per := (newRuns s ix q ((roundNodes ix q).map (·.num))).map fun r => (frameAt s q.facet q.slot 0 (walkBase ix q) (r / 32)).1
    (nub per).all fun g => bytesFit s g q.facet (q.cls % 8) (per.filter (· == g)).length 2048

/-- What a walker is granted among the rounds that wait for it (R223, R225). -/
def walkGrant (s : State) (w : Nat) : Option (Query × Bool) :=
  grantAmong s w (fun q : Query => (q.facet, q.cls)) (roundFunded s) (s.srch.queries.filter fun q => q.walker == w && roundDue q)

/-- HOP_ROUND: the round of a walking query ends once its reads are in and its walker is granted to it; otherwise nothing is due (log 2). -/
def hopRoundAt (x : Nat) (s : State) : State :=
  match queryOf s x with
  | none => s
  | some q =>
    if !roundDue q then s
    else match idxOf s q.facet q.slot, walkGrant s q.walker with
      | some ix, some (y, b) => if y.ctx == x then hopRound ix q b (rotateTo q.walker q.facet s) else s
      | _, _ => s

/-- A walk put on its facet's next walker with room (R104, R119): an interrupted round is repeated in full, with the
stream to its new walker. Without one it waits. -/
def moveWalk (x : Nat) (s : State) : State :=
  match queryOf s x with
  | none => s
  | some q =>
    match nextWalker s q.facet with
    | none => updQuery x (fun y => { y with stalled := true }) s
    | some w =>
      let q' := { q with walker := w, stalled := false, failedSel := [], arrived := [], poison := [] }
      let own := fun (p : Purpose) => match p with
        | .vertex y _ => y == x
        | _ => false
      let s1 := updFacet q.facet (fun f => { f with walkerPtr := w + 1 }) (updQuery x (fun _ => q') (dropReads own s))
      match idxOf s q.facet q.slot with
      | some ix => if q.sel.isEmpty then s1 else armWalk ix q' (issueVertex ix q' q.sel (closeStreams (·.user == .walker x) s1))
      | none => s1

/-- A walk that waits for a tag of its stream begins its first round once there is one (R212). -/
def startWalk (x : Nat) (s : State) : State :=
  match queryOf s x with
  | none => s
  | some q => match idxOf s q.facet q.slot with
    | none => s
    | some ix => if q.stage == .walk && !q.walkDone && !q.stalled && q.hops == 0 then continueWalk ix true q s else s

/-- Walks that wait for a walker, or for their stream. -/
def stalledWalks (s : State) : State :=
  let s1 := (s.srch.queries.filter (·.stalled)).foldl (fun t q => moveWalk q.ctx t) s
  (s1.srch.queries.filter fun q => q.stage == .walk && !q.walkDone && q.hops == 0).foldl (fun t q => startWalk q.ctx t) s1

-- The selectivity sample (R115).

/-- Sampled nodes of an array: every s-th of the published length. -/
def sampleNodes (ix : Index) (e : Nat) : List Node :=
  let a := arrayAt ix e
  let n := lengthAt a e
  let st := max 1 (cdiv n 65536)
  a.nodes.filter fun v => v.num < n && v.num % st == 0

/-- The predicate is so selective that the query scans by brute force (R115). -/
def bruteForce (x : Facet) (ix : Index) (q : Query) : Bool :=
  if q.allOf == 0 && q.anyOf == 0 && q.noneOf == 0 then false
  else
    let live := (sampleNodes ix q.epoch).filter fun n => nodeLive x ix n q.epoch
    (live.filter fun n => passes q n.v.label).length * 1000 < live.length

/-- The query has a predicate, for which the sample is evaluated (R115). -/
def sampled (ix : Index) (q : Query) : Bool := ix.geo.mode == 1 && !(q.allOf == 0 && q.anyOf == 0 && q.noneOf == 0)

/-- The sample's label words read from HBM by a filter cell, which is charged; no answer while that is not granted (R115, R210, R219, R222, R364). -/
def takeSample (ix : Index) (q : Query) (s : State) : Option State :=
  if !sampled ix q then some s
  else
    let cls := q.cls % 8
    let js := byteJobs s q.facet q.slot sampleKey (freeBase q.facet q.slot sampleKey) 0 (8 * (sampleNodes ix q.epoch).length)
    if cellsOpen s 2 q.facet cls then allJobs q.facet cls .ended js ((cellWork 2 q.facet cls s).getD s) else none

-- CENTROID_STAGE_FINISH (R87, R89, R104, R106, R108, R165, R166).

/-- One query of a cohort goes from its centroid or sketch stage to its scan, and a traversal to its first round. Where the facet has no
walker, the walk finds nothing; a query that was in search when the last one was fenced carries PARTIAL already (R101, R119). -/
def beginScan (ix : Index) (q : Query) (s : State) : State :=
  if ix.geo.mode == 0 then
    let q' := { q with probe := nearest q.nprobe q.fDist, stage := .scan }
    queueShadow q' (visitAll ix q' (updQuery q.ctx (fun _ => q') s))
  else
    let x := facetOf s q.facet
    if bruteForce x ix q then
      let q' := { q with path := 2, stage := .scan }
      visitAll ix q' (updQuery q.ctx (fun _ => q') s)
    else if (roleCells s q.facet 1).isEmpty then
      let q' := { q with path := 1, stage := .walk, walkDone := true }
      visitAll ix q' (updQuery q.ctx (fun _ => q') s)
    else
      let q' := insertQ x ix { q with path := 1, stage := .walk } (seenNodes ix q (entriesAt (arrayAt ix q.epoch) q.epoch))
      let s1 := visitAll ix q' (updQuery q.ctx (fun _ => q') s)
      match queryOf s1 q.ctx with
      | none => s1
      | some w => continueWalk ix true w s1

/-- A query still in its centroid or sketch stage. -/
def inStage (q : Query) : Bool := q.stage == .sketch || q.stage == .coarse || q.stage == .fine

/-- The end of a cohort's stage: once every query of the facet's cohort has what its stage gives, all of them go on, in
admission order, the groups they form start, and a query with nothing to scan merges at once. A query whose sample is not granted stays (R115). -/
def cohortFinish (f cohort : Nat) (s : State) : State :=
  let qs := s.srch.queries.filter fun q => q.facet == f && q.cohort == cohort && inStage q
  let ready := qs.all fun q => ((idxOf s f q.slot).map fun ix => stageDone ix q).getD true
  if !ready then s
  else
    let s1 := qs.foldl (fun t q => match idxOf t f q.slot with
      | some ix => ((takeSample ix q t).map (beginScan ix q)).getD t
      | none => t) s |> startGroups
    (qs.map (·.ctx)).foldl (fun t x => chipMerge x t) s1

/-- Cohorts and groups that waited for grants go on (R90, R115, R223). -/
def waitingScans (s : State) : State :=
  let cs := nub ((s.srch.queries.filter inStage).map fun q => (q.facet, q.cohort))
  let s1 := if s.srch.groups.isEmpty then s else startGroups s
  cs.foldl (fun t c => cohortFinish c.1 c.2 t) s1

/-- TILE_DRAIN for a tile of search: rows drain, coarse sets are chosen, fine tiles follow, and cohorts that are done go on. -/
def drainSearch (e : Nat) (t : Tile) (s : State) : State :=
  match idxOf s t.facet t.slot with
  | none => s
  | some ix =>
    let before := s.srch.queries
    let s1 := drainRows e ix t s
    let here := fun (q : Query) => q.facet == t.facet && q.slot == t.slot
    let choose := fun (q : Query) => if here q then chooseCoarse ix q else q
    let s2 := { s1 with srch := { s1.srch with queries := s1.srch.queries.map choose } }
    let was := fun (q : Query) => before.any fun b => b.ctx == q.ctx && b.stage == .coarse
    let chosen := s2.srch.queries.filter fun q => here q && q.stage == .fine && was q
    let s3 := { s2 with srch := { s2.srch with tiles := s2.srch.tiles ++ fineTiles ix chosen } }
    let cohorts := nub ((s3.srch.queries.filter fun q => q.facet == t.facet && inStage q).map (·.cohort))
    cohorts.foldl (fun u n => cohortFinish t.facet n u) s3

end Sys2Proof.Machine
end

