-- ==== Sys2Proof/Machine/Units.lean ====
section
/-! DEFINITION. What the flash units of an index hold, byte for byte (R66, R70). -/

namespace Sys2Proof.Machine

/-- Bytes 0x000 to 0x01B of a list or side-list unit (R66). -/
def unitHead (kind slot facet count list first gen : Nat) : Bytes :=
  leBytes 1 kind ++ leBytes 1 slot ++ leBytes 1 facet ++ leBytes 1 count ++ leBytes 4 list ++ leBytes 4 first ++ leBytes 4 gen ++
  List.replicate 12 0

/-- A unit from its first 28 bytes and its slots: the CRC covers everything but itself (R33, R66). -/
def sealUnit (head slots : Bytes) : Bytes :=
  let body := padTo 4064 slots
  head ++ leBytes 4 (crc32c (head ++ body)).toNat ++ body

/-- A slot: its header with the ID, then the vector (R66). -/
def unitSlot (g : Geometry) (v : Stored) : Bytes := leBytes 8 (v.id % 2 ^ 40) ++ padTo (slotSize g - 8) v.vec

/-- Unit u of a list (R66, R67). -/
def listUnit (s : State) (g : Geometry) (d : ListDir) (u : Nat) : Bytes :=
  let p := perUnit g
  let vs := (((curCopy d).pos.drop (u * p)).take p).map (·.v)
  sealUnit (unitHead 0 g.slot g.facet vs.length d.num (u * p) (pageOf s ⟨g.facet, g.slot, 0, d.num, u⟩).2) (vs.map (unitSlot g)).flatten

/-- Unit u of a side list: every entry in the slot of its append number, also those that the head has passed; a void entry holds no vector (R66,
R71). Its generation is that of its first entry (DESIGN CHOICE, log 112). -/
def sideUnit (g : Geometry) (es : List SideEnt) (u : Nat) : Bytes :=
  let p := perUnit g
  let here := es.filter fun e => e.app / p == u
  let n := (here.map fun e => e.app % p + 1).foldl max 0
  let slot := fun (i : Nat) => match here.find? fun e => e.app % p == i with
    | some e => if e.void then List.replicate (slotSize g) 0 else unitSlot g e.v
    | none => List.replicate (slotSize g) 0
  sealUnit (unitHead 1 g.slot g.facet n 0 (sidePos g (u * p)) (((here.head?).map (·.gen)).getD 0)) ((List.range n).map slot).flatten

/-- A vertex record up to its CRC, and after it (R70). -/
def vertexHead (gen : Nat) (n : Node) : Bytes :=
  let nb := n.nbrs.headD (0, [], 0)
  leBytes 8 (n.v.id % 2 ^ 40) ++ leBytes 8 (n.num % 2 ^ 40) ++ leBytes 8 n.v.label ++ leBytes 1 nb.2.1.length ++ List.replicate 3 0 ++
  leBytes 4 nb.2.2 ++ leBytes 4 gen ++ List.replicate 24 0

def vertexTail (g : Geometry) (n : Node) : Bytes :=
  padTo (1024 * g.vertexSize - 64) (padTo (g.dims * elemSize g.storage) n.v.vec ++
    padTo (5 * g.degree) (((n.nbrs.headD (0, [], 0)).2.1.map (leBytes 5)).flatten))

/-- A vertex record: its CRC covers the record with the CRC field taken as zero (R70). -/
def vertexRecord (g : Geometry) (gen : Nat) (n : Node) : Bytes :=
  let h := vertexHead gen n
  let b := vertexTail g n
  h ++ leBytes 4 (crc32c (h ++ List.replicate 4 0 ++ b)).toNat ++ b

/-- Unit u of a node array (R70); a record whose node was reclaimed before the unit was written is zero (R146). -/
def graphUnit (s : State) (g : Geometry) (a : NodeArray) (u : Nat) : Bytes :=
  let q := perGraphUnit g
  let gen := (pageOf s ⟨g.facet, g.slot, 2, 0, u⟩).2
  ((List.range q).map fun i => match nodeOf a (q * u + i) with
    | some n => if n.reclaimed && allZero n.v.vec then List.replicate (1024 * g.vertexSize) 0 else vertexRecord g gen n
    | none => List.replicate (1024 * g.vertexSize) 0).flatten

/-- What a unit holds (R66, R70); log and map units have no layout in the spec. -/
def unitImage (s : State) (u : Unit') : Option Bytes :=
  match idxOf s u.facet u.slot with
  | none => none
  | some ix => match u.structure' with
    | 0 => some (listUnit s ix.geo (listOf ix u.list) u.unit)
    | 1 => some (sideUnit ix.geo (ix.freed ++ ix.side) u.unit)
    | 2 => some (graphUnit s ix.geo (curArray ix) u.unit)
    | _ => none

/-- The body of a MIG_UNIT (R298): structure, unit number, the unit. -/
def unitBody (s : State) (u : Unit') : Bytes :=
  leBytes 1 u.structure' ++ List.replicate 7 0 ++ leBytes 8 u.unit ++ (unitImage s u).getD []

/-- The unit that a part of an index in transfer is (R311). -/
def partUnit (f slot : Nat) (p : MigPart) : Option Unit' :=
  match p with
  | .list u d => some ⟨f, slot, 0, d.num, u⟩
  | .side u _ => some ⟨f, slot, 1, 0, u⟩
  | .nodes u _ => some ⟨f, slot, 2, 0, u⟩
  | .base _ => none
  | .pending _ => none

end Sys2Proof.Machine
end

