-- ==== Sys2Proof/Machine/Chord.lean ====
section
/-! DEFINITION. Chord links and domain queries: flits, replay, credits, the multicast down the tree and the gather up it
(R291 to R308, R313). -/

namespace Sys2Proof.Machine

-- Messages as bytes (R298).

/-- The 16-byte header of a message. -/
def msgHead (typ facet slot cls qid src len : Nat) : Bytes :=
  leBytes 1 typ ++ leBytes 1 facet ++ leBytes 1 slot ++ leBytes 1 cls ++ leBytes 4 qid ++ leBytes 2 src ++ leBytes 2 0 ++ leBytes 4 len

/-- This module's node number in the domain tree, 0 without one. -/
def ownNode (s : State) : Nat := (s.cfg.tree.map (·.own)).getD 0

/-- The body of a MIG_UNIT: structure, unit number and the unit (R298, R311), or free bytes for what has no layout (log 16). -/
def partBody (s : State) (f slot : Nat) (p : MigPart) : Bytes :=
  match partUnit f slot p with
  | some u => unitBody s u
  | none => Config.migBody 4 s.free

/-- A message as bytes. The bodies of a migration's writes are free (log 16). -/
def msgBytes (s : State) (m : ChordMsg) : Bytes :=
  let own := ownNode s
  let whole := fun (typ facet slot cls qid : Nat) (body : Bytes) => msgHead typ facet slot cls qid own body.length ++ body
  match m with
  | .cast c => whole 1 c.facet c.slot c.cls c.qid
      (leBytes 4 c.turn ++ leBytes 1 c.step ++ leBytes 3 0 ++ leBytes 4 c.dRel ++ leBytes 32 c.area.toNat ++ c.records)
  | .contrib c => whole 2 c.facet c.slot c.cls c.qid
      (leBytes 2 c.nodes ++ leBytes 2 c.missing ++ leBytes 1 c.cause ++ leBytes 1 (flagBit 0 c.partialFlag) ++
       leBytes 2 c.entries.length ++ leBytes 8 c.scanned ++ (c.entries.map resultBytes).flatten)
  | .gap f sl cl q => whole 3 f sl cl q []
  | .migUnit f sl p => whole 4 f sl 4 0 (partBody s f sl p)
  | .migWrite f sl _ => whole 5 f sl 4 0 (Config.migBody 5 s.free)
  | .migCtrl f sl ph e => whole 6 f sl 4 0 (leBytes 1 ph ++ leBytes 1 0 ++ leBytes 2 e)
  | .turnSet t => whole 7 0 0 0 0 (leBytes 4 t)

/-- Virtual channel of a message (R298). -/
def msgVc : ChordMsg → Nat
  | .cast _ => 1
  | .contrib _ => 0
  | .gap _ _ _ _ => 3
  | .migUnit _ _ _ => 2
  | .migWrite _ _ _ => 2
  | .migCtrl _ _ _ _ => 3
  | .turnSet _ => 3

-- Links and flits (R292 to R296).

/-- The link of a number. -/
def linkOf (s : State) (l : Nat) : Link := (s.chd.links.find? (·.num == l)).getD (Link.reset l)

def updLink (l : Nat) (g : Link → Link) (s : State) : State :=
  { s with chd := { s.chd with links := updFirst (·.num == l) g s.chd.links } }

/-- The link carries flits (R292). -/
def linkUsable (s : State) (l : Nat) : Bool := (linkOf s l).st == 2 || (linkOf s l).st == 3

/-- Link counters: 0 flits sent, 1 received, 2 CRC failures, 3 NAKs, 4 resent, 5 lane drops, 6 downs, 8 + v stalls (R368). -/
def bumpLink (l k n : Nat) (s : State) : State := updLink l (fun x => { x with ctr := x.ctr.bump k n }) s

/-- Receive buffers of a virtual channel in flits (R296). -/
def vcBuffers (v : Nat) : Nat := if v == 2 then 1024 else if v == 3 then 32 else 256

/-- A flit (R293): its last-good sequence, the credits it returns, payload, flags. -/
def flitBytes (typ vc sq ack cvc cn flags : Nat) (payload : Bytes) : Bytes :=
  let b := leBytes 1 typ ++ leBytes 1 vc ++ leBytes 2 sq ++ leBytes 2 ack ++ leBytes 1 cvc ++ leBytes 1 cn ++
    leBytes 2 payload.length ++ leBytes 2 flags ++ padTo 240 payload
  b ++ leBytes 4 (crc32c b).toNat

/-- The last data sequence received in order. -/
def lastGood (x : Link) : Nat := (x.rxNext + 65535) % 65536

/-- The virtual channel with most credits to return, and how many a flit returns. -/
def creditReturn (x : Link) : Nat × Nat :=
  let v := ((List.range 4).foldl (fun b i => if x.returned.getD b 0 < x.returned.getD i 0 then i else b) 0)
  (v, min 255 (x.returned.getD v 0))

/-- An idle or NAK flit sent with acknowledgement and credits (R293, R296). -/
def sendControl (l typ : Nat) (s : State) : State :=
  let x := linkOf s l
  let cr := creditReturn x
  bumpLink l 0 1 (updLink l (fun y => { y with returned := y.returned.set cr.1 (y.returned.getD cr.1 0 - cr.2) })
    (emit (.chordFlit l (flitBytes typ 0 0 (lastGood x) cr.1 cr.2 0 [])) s))

/-- A channel holds a flit and a credit. -/
def vcReady (x : Link) (v : Nat) : Bool := 0 < x.credits.getD v 0 && x.txq.any (·.1 == v)

/-- The channel that sends next (R296): VC 3 first, but only once between two flits of a waiting VC 0. -/
def nextVc (x : Link) : Option Nat :=
  if vcReady x 3 && !(vcReady x 0 && 1 ≤ x.sinceContrib) then some 3
  else [0, 1, 2].find? (vcReady x)

/-- One data flit of a channel sent into the replay buffer (R294, R296). -/
def sendData (l v : Nat) (p : Nat × Bytes × Nat) (s : State) : State :=
  let x := linkOf s l
  let cr := creditReturn x
  let b := flitBytes 1 v x.txSeq (lastGood x) cr.1 cr.2 p.2.2 p.2.1
  bumpLink l 0 1 (updLink l (fun y => { y with
    txSeq := (y.txSeq + 1) % 65536, replay := y.replay ++ [(y.txSeq, b)], txq := y.txq.erase p,
    credits := y.credits.set v (y.credits.getD v 0 - 1), returned := y.returned.set cr.1 (y.returned.getD cr.1 0 - cr.2),
    sinceContrib := if v == 3 && vcReady x 0 then y.sinceContrib + 1 else if v == 0 then 0 else y.sinceContrib }) (emit (.chordFlit l b) s))

/-- Virtual channels that hold a flit and no credit. -/
def Link.waits (x : Link) : List Nat := (List.range 4).filter fun v => x.credits.getD v 0 == 0 && x.txq.any (·.1 == v)

/-- Those of a link noted for the turn (R368). -/
def markWaits (l : Nat) (s : State) : State := updLink l (fun x => { x with waited := nub (x.waited ++ x.waits) }) s

/-- Data flits sent while some channel is ready and the replay buffer of 512 has room (R294, R296); a channel that then still waits for credit is
noted (R368). -/
def pumpLink (l : Nat) : Nat → State → State
  | 0, s => s
  | n + 1, s =>
    let x := linkOf s l
    if !linkUsable s l then s
    else if x.awaitAck || 512 ≤ x.replay.length then markWaits l s
    else match nextVc x with
      | none => markWaits l s
      | some v => match x.txq.find? (·.1 == v) with
        | none => s
        | some p => pumpLink l n (sendData l v p s)

/-- The flits of a message: 240 bytes each, with start and end flags (R293). -/
def msgFlits (v : Nat) (b : Bytes) : List (Nat × Bytes × Nat) :=
  let n := cdiv b.length 240
  (List.range n).map fun i => (v, slice (240 * i) 240 b, flagBit 0 (i == 0) + flagBit 1 (i + 1 == n))

/-- A message sent on a link: on its channel's queue, and as many flits as credits allow at once. -/
def sendMsg (l : Nat) (m : ChordMsg) (s : State) : State :=
  let fs := msgFlits (msgVc m) (msgBytes s m)
  let s1 := updLink l (fun x => { x with txq := x.txq ++ fs }) (emit (.chordMsg l (msgVc m) m) (useFree s))
  pumpLink l ((linkOf s1 l).txq.length + 1) s1

/-- Replay entries an ack covers, oldest first up to it (R294). -/
def acked (ack : Nat) (r : Nat × Bytes) : Bool := (ack + 65536 - r.1) % 65536 < 32768

/-- A replayed flit that ends a message of VC 2 (R298): how the source counts acknowledged units. -/
def endsUnit (b : Bytes) : Bool := b.getD 1 0 == 2 && bit 1 (field 0x0A 2 b)

/-- An ack takes flits from the replay buffer; acknowledged units of a running migration are counted, of whose messages the first ones are no units
(R294, R298, R368). -/
def takeAck (l ack : Nat) (s : State) : State :=
  let x := linkOf s l
  let gone := x.replay.filter (acked ack)
  let m := s.chd.mig
  let ends := if m.role == 1 && m.phase == 2 && m.ctrl.toNat / 4096 % 4 == l then (gone.filter fun r => endsUnit r.2).length else 0
  let s1 := updLink l (fun y => { y with replay := y.replay.filter fun r => !acked ack r }) s
  { s1 with chd := { s1.chd with mig := { s1.chd.mig with units := m.units + (ends - m.extra), extra := m.extra - ends } } }

/-- Every flit after an acknowledged one resent in order (R294): each counts as sent and as resent (R368). -/
def resend (l : Nat) (s : State) : State :=
  let rs := (linkOf s l).replay
  bumpLink l 4 rs.length <| bumpLink l 0 rs.length (rs.foldl (fun t r => emit (.chordFlit l r.2) t) s)

/-- A data flit that outlives its link's DOWN (R295, R304, R312): one of shard migration, its control messages included (R298), or a GAP that
is still owed. -/
def outlives (vc : Nat) (payload : Bytes) : Bool := vc == 2 || (vc == 3 && (payload.getD 0 0 == 6 || payload.getD 0 0 == 3))

/-- A replayed flit under a new sequence number, with the credits that it returns. -/
def renumbered (x : Link) (sq : Nat) (b : Bytes) : Nat × Bytes :=
  (sq % 65536, flitBytes 1 (b.getD 1 0).toNat (sq % 65536) (lastGood x) (field 6 1 b) (field 7 1 b) (field 0x0A 2 b) (slice 0x0C (field 8 2 b) b))

/-- After a training the peer's first ack says what it has: of the other flits those that outlive a DOWN follow it in order, and the rest are
dropped: the credit that each took is free again, and the credits that it returned are still to be returned (R294 to R296; log 80). -/
def resync (l : Nat) (s : State) : State :=
  let x := linkOf s l
  if !x.awaitAck then s
  else
    let kept := x.replay.filter fun r => outlives (r.2.getD 1 0).toNat (r.2.drop 0x0C)
    let sq := ((x.replay.head?).map (·.1)).getD x.txSeq
    let lost := x.replay.filter fun r => !outlives (r.2.getD 1 0).toNat (r.2.drop 0x0C)
    let back := fun (v : Nat) => (lost.filter fun r => (r.2.getD 1 0).toNat == v).length
    let owed := fun (v : Nat) => ((lost.filter fun r => field 6 1 r.2 == v).map fun r => field 7 1 r.2).sum
    resend l (updLink l (fun y => { y with
      awaitAck := false, txSeq := (sq + kept.length) % 65536, replay := (kept.zipIdx).map fun r => renumbered x (sq + r.2) r.1.2,
      credits := (List.range 4).map (fun v => min (vcBuffers v) (y.credits.getD v 0 + back v)),
      returned := (List.range 4).map fun v => y.returned.getD v 0 + owed v }) s)

/-- Credits a flit returns, no more than the peer's buffers (R296). -/
def addCredits (l v n : Nat) (s : State) : State :=
  updLink l (fun x => { x with credits := x.credits.set v (min (vcBuffers v) (x.credits.getD v 0 + n)) }) s

/-- A data flit in order: its payload joins its channel's message, its buffer is free again (R294, R296, R298). -/
def deliver (l : Nat) (b : Bytes) (s : State) : State :=
  let v := (b.getD 1 0).toNat % 4
  let pay := slice 0x0C (field 8 2 b) b
  let fl := field 0x0A 2 b
  updLink l (fun x =>
    let old := if bit 0 fl then [] else look [] v x.rxPart
    let msg := old ++ pay
    { x with fails := 0, rxNext := (x.rxNext + 1) % 65536, returned := x.returned.set v (x.returned.getD v 0 + 1),
             rxPart := if bit 1 fl then x.rxPart.filter (·.1 != v) else put v msg x.rxPart,
             delivered := if bit 1 fl then x.delivered ++ [(v, msg)] else x.delivered }) s

/-- A NAK sent (R294). -/
def sendNak (l : Nat) (s : State) : State := bumpLink l 3 1 (sendControl l 2 s)

/-- A data flit that is not the next one expected: it is discarded, whatever it carries (R294). -/
def outOfOrder (x : Link) (b : Bytes) : Bool := (b.getD 0 0).toNat == 1 && field 2 2 b != x.rxNext

/-- What an accepted flit does: its ack, its credits, and a data flit's delivery or a NAK's resend; waiting flits follow, and a data flit that none
of them acknowledges is acknowledged by an idle one (R294, R296). -/
def takeFlit (l : Nat) (b : Bytes) (s : State) : State :=
  let typ := (b.getD 0 0).toNat
  let s1 := addCredits l (field 6 1 b % 4) (field 7 1 b) (resync l (takeAck l (field 4 2 b) s))
  let s2 := if typ == 2 then resend l s1 else if typ == 1 then deliver l b s1 else s1
  let s3 := pumpLink l ((linkOf s2 l).txq.length + 1) s2
  if typ == 1 && s3.out.length == s2.out.length then sendControl l 0 s3 else s3

/-- FLIT (R293 to R296). Of the flits that fail their CRC, those with the number of the next flit are that flit failing once more (R295; log 80). -/
def receiveFlit (l : Nat) (b : Bytes) (s : State) : State :=
  let x := linkOf s l
  if !linkUsable s l || b.length != 256 then s
  else if field 0xFC 4 b != (crc32c (b.take 0xFC)).toNat then
    let again := (b.getD 0 0).toNat == 1 && field 2 2 b == x.rxNext
    sendNak l (bumpLink l 2 1 (updLink l (fun y => { y with fails := y.fails + flagBit 0 again }) s))
  else if outOfOrder x b then sendNak l (bumpLink l 1 1 s)
  else takeFlit l b (bumpLink l 1 1 s)

/-- NAK: it is a flit received, and the flits after the acknowledged one are resent (R294, R313). -/
def receiveNak (l ack : Nat) (s : State) : State :=
  if linkUsable s l then
    let s1 := resend l (resync l (takeAck l ack (bumpLink l 1 1 s)))
    pumpLink l ((linkOf s1 l).txq.length + 1) s1
  else s

/-- A message row takes its message from those the link delivered. -/
def popDelivered (l v : Nat) (s : State) : State :=
  updLink l (fun x => { x with delivered := x.delivered.eraseP (·.1 == v) }) s

-- The tree (R300, R301).

/-- This module's node in its tree. -/
def ownTreeNode (s : State) : Option TreeNode := s.cfg.tree.bind fun t => t.nodes.find? (·.node == t.own)

/-- The module is the root of a domain of more than one node (R301). -/
def domainRoot (s : State) : Bool :=
  match s.cfg.tree, ownTreeNode s with
  | some t, some n => n.parent == 0xFFFF && 1 < t.nodes.length
  | _, _ => false

/-- Children of the own node as (node, link). -/
def childLinks (s : State) : List (Nat × Nat) :=
  match ownTreeNode s with
  | none => []
  | some n => (List.zip n.children n.links).filter fun p => p.1 != 0xFFFF

/-- The link to the parent. -/
def upLink (s : State) : Nat := ((ownTreeNode s).map (·.upLink)).getD 0xFF

/-- Nodes of the subtree under a node, itself included. -/
def subtree (t : Tree) : Nat → Nat → Nat
  | 0, _ => 1
  | k + 1, n => match t.nodes.find? (·.node == n) with
    | none => 1
    | some x => 1 + (((x.children.filter (· != 0xFFFF)).map (subtree t k)).sum)

/-- Nodes lost when the child on a link is (R304, R305). -/
def lostNodes (s : State) (l : Nat) : Nat :=
  match s.cfg.tree, (childLinks s).find? (·.2 == l) with
  | some t, some p => subtree t t.nodes.length p.1
  | _, _ => 0

/-- Depth of a node under the root (R305). -/
def depthOf (t : Tree) : Nat → Nat → Nat
  | 0, _ => 0
  | k + 1, n => match t.nodes.find? (·.node == n) with
    | none => 0
    | some x => if x.parent == 0xFFFF then 0 else 1 + depthOf t k x.parent

/-- Depth of the own node. -/
def ownDepth (s : State) : Nat := (s.cfg.tree.map fun t => depthOf t t.nodes.length t.own).getD 0

-- Boundaries by number (R299, R303).

/-- The current step's number: 4 × turn + step. -/
def boundaryNo (s : State) : Nat := 4 * s.srch.turn + s.srch.stepNo

/-- When the current step began. -/
def stepStart (s : State) : Nat := s.brd.turnStart + 25600 * s.srch.stepNo

/-- Steps from the running one to the boundary of a number, negative for one that has passed; numbers wrap with the turn (R298). -/
def stepsTo (s : State) (b : Nat) : Int :=
  let k : Nat := (b + 2 ^ 34 - boundaryNo s % 2 ^ 34) % 2 ^ 34
  if k < 2 ^ 33 then (k : Int) else (k : Int) - 2 ^ 34

/-- When the boundary of a number comes, or came. -/
def boundaryTime (s : State) (b : Nat) : Nat := ((stepStart s : Int) + 25600 * stepsTo s b).toNat

/-- The first boundary at least 12.8 µs away (R303). -/
def commonBoundary (s : State) : Nat := (boundaryNo s + max 1 (cdiv (now s + 12800 - stepStart s) 25600)) % 2 ^ 34

-- Domain queries (R301 to R306).

/-- A command's area read as a query's (R281). -/
def areaCmd (area : BitVec 256) : Cmd :=
  { tag := noTag, op := if area.toNat / 256 ^ 18 % 65536 == 0 then .query else .queryBatch, qp := 0, cid := 0, facet := 0, seq := 0,
    at' := 0, flags := 0, rsv4 := 0, rsv14 := 0, dataAddr := 0, dataLen := 0, resultAddr := 0, area := area, phase := .waiting,
    data := [], lock := none, reads := 0, failedReads := [], counted := false, epoch := 0, notFound := 0, firstSide := 0,
    ef := none, told := [], recs := [], left := 0, results := [], partialFlag := false, mark := 0, asked := 0, fenced := false, drain := [],
    aborters := [], busy := [] }

/-- Queries of a domain query. -/
def DomQ.count (d : DomQ) : Nat := (areaCmd d.area).queries

/-- D of a query in µs (R303). -/
def totalD (s : State) (f cls deadline : Nat) : Nat :=
  let d := if deadline != 0 then deadline else (budgetOf s f cls).deadline
  if d == 0 then 10000 else d

/-- C_d − 2 µs at this node, in ns of its clock (R305). -/
def cutOff (s : State) (d : DomQ) : Nat := d.fetched + 1000 * (d.d - 5 - 4 * ownDepth s)

/-- The domain query of a number. -/
def domOf (s : State) (q : Nat) : Option DomQ := s.chd.dom.find? (·.qid == q)

def updDom (q : Nat) (g : DomQ → DomQ) (s : State) : State := { s with chd := { s.chd with dom := updFirst (·.qid == q) g s.chd.dom } }

/-- The node's own shard cannot answer (R301): facet not ACTIVE, or no created index in the query's mode. -/
def shardMissing (s : State) (f slot : Nat) (area : BitVec 256) : Bool :=
  (facetOf s f).state != 1 ||
  (match usableIdx s f slot with
    | none => true
    | some ix => (ix.geo.mode == 0) != ((areaCmd area).nprobe != 0))

/-- What a node that cannot answer contributes itself. -/
def missingParts (f slot cls qid n : Nat) : List Contrib :=
  (List.range n).map fun i => ⟨f, slot, cls, qid, i, 0, 0, 1, 0, true, 0, []⟩

/-- Nodes missing from query i of a domain query's gather: the subtrees of children given up before their part of it came (R304, R305). -/
def DomQ.missing (d : DomQ) (i : Nat) : Nat :=
  ((d.lost.filter fun x => !d.got.any fun p => p.src == x.2.1 && p.sub == i).map (·.2.2)).sum

/-- A child's subtree counted missing on a domain query (R304, R305). -/
def loseChild (q l : Nat) (s : State) : State :=
  match domOf s q with
  | none => s
  | some d =>
    if !d.waiting.contains l then s
    else
      let child := (((childLinks s).find? (·.2 == l)).map (·.1)).getD 0xFFFF
      let gone := (l, child, lostNodes s l)
      let n := ((List.range d.count).map ({ d with lost := [gone] } : DomQ).missing).sum
      bump d.facet (kFct 18) n (updDom q (fun y => { y with
        unsent := y.unsent.filter (· != l), sending := y.sending.filter (· != l), waiting := y.waiting.filter (· != l), lost := y.lost ++ [gone] }) s)

/-- A child that cannot be sent its copy: it is dropped from the multicast, what waits of the copy goes, and a GAP goes to it as soon as the link
carries flits (R304; log 80). -/
def dropChild (d : DomQ) (l : Nat) (s : State) : State :=
  let cut := if d.sending.contains l then updLink l (fun x => { x with txq := x.txq.filter (·.1 != 1) }) s else s
  bump d.facet (kFct 17) 1 (sendMsg l (.gap d.facet d.slot d.cls d.qid) (loseChild d.qid l cut))

/-- A child's copy that has begun is sent whole once no flit of it waits. -/
def castSent (d : DomQ) (l : Nat) (s : State) : State :=
  if (linkOf s l).txq.any (·.1 == 1) then updDom d.qid (fun y => { y with sending := nub (y.sending ++ [l]) }) s
  else updDom d.qid (fun y => { y with unsent := y.unsent.filter (· != l), sending := y.sending.filter (· != l) }) s

/-- QUERY_CAST put on child links that hold a credit; a child whose link is DOWN is dropped, and the others' copies wait for credit, which the link
notes (R303, R304, R368; log 80). -/
def castTo (d : DomQ) (s : State) : State :=
  let b := d.boundary
  let dRel := d.fetched + 1000 * d.d - boundaryTime s b
  let c : Cast := ⟨d.facet, d.slot, d.cls, d.qid, b / 4, b % 4, dRel, d.area, d.records⟩
  d.unsent.foldl (fun t l =>
    let x := linkOf t l
    if x.st == 4 then dropChild d l t
    else if d.sending.contains l then castSent d l t
    else if !linkUsable t l then t
    else if x.credits.getD 1 0 == 0 then updLink l (fun y => { y with waited := nub (y.waited ++ [1]) }) t
    else if x.txq.any (·.1 == 1) then t
    else castSent d l (sendMsg l (.cast c) t)) s

/-- Sorting and cutting of merged entries (R306). -/
def mergeEntries (k : Nat) (l : List ResultEnt) : List ResultEnt :=
  (sortBy (fun a b : ResultEnt => keyF a.dist < keyF b.dist || (keyF a.dist == keyF b.dist && a.id.getD 0 ≤ b.id.getD 0)) l).take k

/-- Query i of a node's gather merged from its own part and its children's (R306). -/
def mergePart (s : State) (d : DomQ) (i : Nat) : Contrib :=
  let ps := ((d.own.getD []) ++ d.got).filter (·.sub == i)
  let missing := (ps.map (·.missing)).sum + d.missing i
  { facet := d.facet, slot := d.slot, cls := d.cls, qid := d.qid, sub := i, src := ownNode s, nodes := (ps.map (·.nodes)).sum, missing := missing,
    cause := ps.foldl (fun a p => orBits a p.cause) 0, partialFlag := 0 < missing || ps.any (·.partialFlag),
    scanned := (ps.map (·.scanned)).sum, entries := mergeEntries d.k (ps.map (·.entries)).flatten }

/-- The result of query i of a domain query: totals over the domain, the rest from the root's own search (R282, R306; log 42). -/
def domResult (s : State) (d : DomQ) (p : Contrib) : QueryRes :=
  let mode := ((geoOf s d.facet d.slot).map (·.mode)).getD 0
  let none' : QueryRes := ⟨0, 0, if mode == 0 then s0Of s d.facet else 0, 0, 0, mode, false, false⟩
  { look none' p.sub d.ownRes with filled := p.entries.length, cause := p.cause, scanned := p.scanned, partialFlag := p.partialFlag }

/-- The root completes the domain query's command (R306). -/
def endDomain (d : DomQ) (s : State) : State :=
  match cmdOf s d.tag with
  | none => s
  | some c =>
    let ps := (List.range d.count).map (mergePart s d)
    let s1 := ps.foldl (fun t p =>
      writeHost c (c.resultAddr + p.sub * d.k * 16)
        ((p.entries ++ List.replicate (d.k - p.entries.length) emptyEnt).map resultBytes).flatten t) s
    let res := ps.map fun p => (p.sub, domResult s d p)
    let c' := { c with results := res, left := 0 }
    endQueries c' (updCmd c.tag (fun _ => c') s1)

/-- A gather with every part in, or cut off, is sent up or completed (R305, R306). -/
def tryGather (q : Nat) (s : State) : State :=
  match domOf s q with
  | none => s
  | some d =>
    if !(d.waiting.isEmpty && (d.own.map (·.length)).getD 0 == d.count) then s
    else
      let s1 := { s with chd := { s.chd with dom := s.chd.dom.filter (·.qid != q) } }
      if d.root then endDomain d s1
      else ((List.range d.count).map (mergePart s d)).foldl (fun t p =>
        if linkUsable t (upLink t) then sendMsg (upLink t) (.contrib p) t else t) s1

/-- A root's QUERY or QUERY_BATCH becomes a domain query (R301, R303). -/
def beginDomain (c : Cmd) (s : State) : State :=
  let qid := ownNode s % 1024 * 2 ^ 22 + s.chd.nextQid % 2 ^ 22
  let ls := (childLinks s).map (·.2)
  let lost := shardMissing s c.facet c.slot c.area
  let d : DomQ :=
    { qid := qid, root := true, tag := c.tag, facet := c.facet, slot := c.slot, cls := c.cls, k := c.k, area := c.area,
      records := c.data, boundary := commonBoundary s, fetched := c.at', d := totalD s c.facet c.cls c.deadline,
      waitBoundary := !lost, unsent := ls, sending := [], waiting := ls, lost := [],
      own := if lost then some (missingParts c.facet c.slot c.cls qid c.queries) else none, ownRes := [], got := [], closed := false }
  castTo d (bump c.facet (kFct 18) (if lost then c.queries else 0) <| bump c.facet (kFct 16) c.queries (setPhase c.tag .waiting
    { s with chd := { s.chd with dom := s.chd.dom ++ [d], nextQid := s.chd.nextQid + 1 } }))

/-- QUERY_CAST received (R301, R303, R304): forwarded at once, and searched here at the first boundary that suits both. -/
def receiveCast (l : Nat) (c : Cast) (s0 : State) : State :=
  let s := popDelivered l 1 s0
  if l != upLink s || s.chd.ignored.contains c.qid || (domOf s c.qid).isSome then s
  else
    let a := areaCmd c.area
    let b := 4 * c.turn + c.step
    let lost := shardMissing s c.facet c.slot c.area
    let d := totalD s c.facet c.cls a.deadline
    let ls := (childLinks s).map (·.2)
    let q : DomQ :=
      { qid := c.qid, root := false, tag := noTag, facet := c.facet, slot := c.slot, cls := c.cls, k := a.k, area := c.area,
        records := c.records, boundary := b, fetched := boundaryTime s b + c.dRel - 1000 * d, d := d, waitBoundary := !lost,
        unsent := ls, sending := [], waiting := ls, lost := [],
        own := if lost then some (missingParts c.facet c.slot c.cls c.qid a.queries) else none, ownRes := [], got := [], closed := false }
    tryGather c.qid (castTo q (bump c.facet (kFct 18) (if lost then a.queries else 0) <| bump c.facet (kFct 16) a.queries { s with chd := { s.chd with dom := s.chd.dom ++ [q] } }))

/-- CONTRIBUTION received (R305, R306): one that arrives after the node stopped waiting is discarded and counted. -/
def receiveContrib (l : Nat) (c : Contrib) (s0 : State) : State :=
  let s := popDelivered l 0 s0
  match domOf s c.qid with
  | none => bump c.facet (kFct 19) 1 s
  | some d =>
    if !d.waiting.contains l then bump c.facet (kFct 19) 1 s
    else
      let got := d.got ++ [c]
      let all := (got.filter fun p => p.src == c.src).length == d.count
      tryGather c.qid (updDom c.qid (fun y => { y with got := got, waiting := if all then y.waiting.filter (· != l) else y.waiting }) s)

/-- GAP received: later copies of the query are ignored (R304). -/
def receiveGap (q : Nat) (s : State) : State := { s with chd := { s.chd with ignored := nub (s.chd.ignored ++ [q]) } }

/-- MULTICAST_SLACK_EXPIRY (R304): one batch step after the common boundary a held copy is given up and GAP is sent. -/
def slackExpiry (q l : Nat) (s : State) : State :=
  match domOf s q with
  | none => s
  | some d =>
    if !d.unsent.contains l || now s < boundaryTime s d.boundary + 25600 then s
    else
      tryGather q (dropChild d l s)

/-- C_d at this node (R305). -/
def sendBy (s : State) (d : DomQ) : Nat := cutOff s d + 2000

/-- A query of a domain query's own part. -/
def ofDomain (qid : Nat) (x : Query) : Bool :=
  match x.origin with
  | .domain p _ => p == qid
  | _ => false

/-- What a node holds of its own part at C_d: results re-ranked so far, PARTIAL (R305). -/
def ownSoFar (s : State) (d : DomQ) : List Contrib :=
  let have' := d.own.getD []
  (List.range d.count).map fun i =>
    match have'.find? (·.sub == i), s.srch.queries.find? (fun q => q.origin == .domain d.qid i) with
    | some p, _ => p
    | none, some q => ⟨d.facet, d.slot, d.cls, d.qid, i, 0, 1, 0, q.cause, true, q.scanned, (entriesOf q).filter fun e => e.id.isSome⟩
    | none, none => ⟨d.facet, d.slot, d.cls, d.qid, i, 0, 1, 0, 0, true, 0, []⟩

/-- The own part of a domain query ends as it stands at C_d: its queries leave search, counted with PARTIAL (R305, R363). -/
def endOwn (d : DomQ) (s : State) : State :=
  let own := ownSoFar s d
  let s1 := (s.srch.queries.filter (ofDomain d.qid)).foldl (fun t q => countQuery { q with partialFlag := true } t) s
  updDom d.qid (fun y => { y with own := some own, closed := true, waitBoundary := false }) (dropQueries (ofDomain d.qid) s1)

/-- GATHER_CUTOFF (R305): at C_d − 2 µs the node stops waiting and counts silent children missing; at C_d, if its own part has not ended, it sends
what it then holds. -/
def gatherCutoff (q : Nat) (s : State) : State :=
  match domOf s q with
  | none => s
  | some d =>
    if now s < cutOff s d then s
    else
      let s1 := d.waiting.foldl (fun t l => loseChild q l t) s
      tryGather q (if now s < sendBy s d then s1 else endOwn d s1)

/-- Held copies that credit now allows are sent (R304). -/
def chordProgress (s : State) : State :=
  s.chd.dom.foldl (fun t d => match domOf t d.qid with
    | some x => if x.unsent.isEmpty then tryGather d.qid t else castTo x t
    | none => t) s

/-- TURN_SET passed down the tree (R299). -/
def sendTurn (s : State) : State :=
  (childLinks s).foldl (fun t p => if linkUsable t p.2 then sendMsg p.2 (.turnSet t.srch.turn) t else t) s

/-- TURN_SET received. -/
def receiveTurn (turn : Nat) (s0 : State) : State :=
  let s := popDelivered (upLink s0) 3 s0
  sendTurn { s with srch := { s.srch with turn := turn % 2 ^ 32 } }

/-- A link goes DOWN (R295, R304): collectives on it are lost, children behind it count as missing, and a child whose copy was still held
is owed a GAP; flits of a migration and owed GAPs stay for after the retraining. -/
def linkGoesDown (l cause : Nat) (s : State) : State :=
  let x := linkOf s l
  let s1 := record 0x0802 l [cause, x.replay.length] (bumpLink l 6 1 (updLink l (fun y => { y with
    st := 4, fails := 0, downAt := if linkUsable s l then now s else y.downAt, tryAt := now s,
    txq := y.txq.filter fun p => outlives p.1 p.2.1, rxPart := y.rxPart.filter fun p => 2 ≤ p.1 }) s))
  s1.chd.dom.foldl (fun t d => tryGather d.qid (if d.unsent.contains l then dropChild d l t else loseChild d.qid l t)) s1

/-- CHORD_DOWN. -/
def chordDown (l cause : Nat) (s : State) : State :=
  let st := (linkOf s l).st
  if st == 0 || st == 4 then s else linkGoesDown l cause s

/-- LANE_DROP after 8 failures in a row (R295): the lane with most symbol errors goes, or a DEGRADED link goes DOWN. -/
def laneDrop (l : Nat) (errs : List Nat) (s : State) : State :=
  let x := linkOf s l
  if x.fails < 8 || !linkUsable s l then s
  else if x.st == 3 then linkGoesDown l 0 s
  else
    let top := errs.foldl max 0
    let lane := errs.findIdx (· == top)
    resend l (bumpRas 30 1 (record 0x0801 l [lane, top] (bumpLink l 5 1 (updLink l (fun y => { y with st := 3, lanes := 3, fails := 0 }) s))))

/-- RETRAIN: a DOWN link trains again, once every second (R292). -/
def retrain (l : Nat) (s : State) : State :=
  if (linkOf s l).st == 4 && (linkOf s l).tryAt + 1000000000 ≤ now s then updLink l (fun y => { y with st := 1, tryAt := now s }) s else s

/-- TRAINING_COMPLETE (R292, R295, R299, R312): UP on all four lanes, DEGRADED on three; unacknowledged migration flits are
resent once the peer's first flit says what it has; when the link is UP the root sends TURN_SET down the tree. -/
def trainingComplete (l lanes : Nat) (s : State) : State :=
  let x := linkOf s l
  if x.st != 1 || lanes < 3 then s
  else
    let s1 := sendControl l 0 (updLink l (fun y => { y with st := if lanes == 4 then 2 else 3, lanes := lanes, awaitAck := !y.replay.isEmpty }) s)
    let root := ((ownTreeNode s).map (·.parent == 0xFFFF)).getD false
    let s2 := if root && lanes == 4 then sendTurn s1 else s1
    pumpLink l ((linkOf s2 l).txq.length + 1) s2

end Sys2Proof.Machine
end

