-- ==== Sys2Proof/Machine/Drop.lean ====
section
/-! DEFINITION. Dropping an index (R278): by INDEX_DROP, or at the end of a migration that moves it (R311). -/

namespace Sys2Proof.Machine

/-- An I/O command names an index slot of its facet (R280). -/
def namesSlot (c : Cmd) (f slot : Nat) : Bool :=
  c.facet == f && c.slot == slot &&
  (match c.op with
    | .query => true
    | .queryBatch => true
    | .insert => true
    | .delete => true
    | .labelUpdate => true
    | .fetch => true
    | .train => true
    | .resketch => true
    | _ => false)

/-- A command still waits (R252 state WAITING). -/
def waits (c : Cmd) : Bool := c.phase == .reading || c.phase == .waiting || c.phase == .turn || (c.phase == .running && c.counted)

/-- The drop takes effect (R278): waiting commands of the slot end, a TRAIN ends at its next step, and from now on no command
may name the slot. A write that a migration held counts as waiting (R311). -/
def dropIndex (f slot tag : Nat) (s : State) : State :=
  let held := ((idxOf s f slot).map (·.held)).getD false
  let p := fun (c : Cmd) => namesSlot c f slot && (waits c || (held && isWrite c.op && c.phase == .running))
  let n := (s.cmds.filter p).length
  let s1 := updIdx f slot (fun i => { i with dropping := some tag, held := false }) (endAll p stAborted s)
  let s2 := updCmd tag (fun c => { c with left := n }) s1
  { s2 with srch := { s2.srch with
      train := s2.srch.train.map fun j => if j.facet == f && j.slot == slot then { j with ending := true } else j } }

/-- Something admitted still uses the index, a sentinel query's waiting shadow among it, which is never dropped (R166, R278). -/
def slotBusy (s : State) (f slot : Nat) : Bool :=
  s.cmds.any (fun c => namesSlot c f slot) || s.srch.queries.any (fun q => q.facet == f && q.slot == slot) ||
  s.srch.train.any (fun j => j.facet == f && j.slot == slot) || s.srch.shadows.any fun h => h.facet == f && h.slot == slot

/-- A dropped index that nothing uses any more leaves: its HBM is freed, its flash is charged until the SCRUB class has erased
it, and INDEX_DROP completes (R278). -/
def removeIndex (ix : Index) (tag : Nat) (s : State) : State :=
  let f := ix.geo.facet
  let slot := ix.geo.slot
  let bytes := 4096 * (unitsOf ix + sideUnits ix.geo ix.head (nextApp ix))
  let mine := fun (u : Unit') => u.facet == f && u.slot == slot
  let bs := blocksHeld s mine [ix]
  let s1 := updFacet f (fun x => { x with
    droppedFlash := x.droppedFlash + bytes, pend := x.pend.filter (·.slot != slot),
    pendFreed := x.pendFreed + (x.pend.filter fun p => p.slot == slot && p.since == 0).length }) <| dropPages mine { s with
      idx := s.idx.filter fun i => !(i.geo.facet == f && i.geo.slot == slot),
      flash := { s.flash with
        lost := s.flash.lost.filter (fun u => !mine u.1),
        rebuilding := s.flash.rebuilding.filter fun u => !mine u },
      mem := keepMem (fun g n => !(g == f && n == slot)) s.mem }
  let work := fun (g : Seg) => match g.work with
    | .unit h n => h == f && n == slot
    | .move u _ _ _ => mine u
    | _ => false
  let s2 := scrubOn (queueErases f bs (dropSegs work s1)) f
  match cmdOf s2 tag with
  | some c => if c.op == .indexDrop then succeed c (leBytes 2 c.left) s2 else s2
  | none => s2

/-- Every dropped index that can leave does. -/
def dropProgress (s : State) : State :=
  s.idx.foldl (fun t ix => match ix.dropping with
    | some tag => if slotBusy t ix.geo.facet ix.geo.slot then t else removeIndex ix tag t
    | none => t) s

/-- INDEX_DROPs that waited for the boundary take effect (R278). -/
def startDrops (s : State) : State :=
  (s.cmds.filter fun c => c.op == .indexDrop && c.phase == .waiting).foldl
    (fun t c => dropIndex c.facet (c.ar 1 1) c.tag (setPhase c.tag .running t)) s

end Sys2Proof.Machine
end

