-- ==== Sys2Proof/Machine/Migr.lean ====
section
/-! DEFINITION. Shard migration (R309 to R312, R368): one at a time, as source or as target. -/

namespace Sys2Proof.Machine

/-- The migration registers changed. -/
def updMig (g : Mig → Mig) (s : State) : State := { s with chd := { s.chd with mig := g s.chd.mig } }

/-- A migration runs, or a target is armed. -/
def migRunning (m : Mig) : Bool := 1 ≤ m.phase && m.phase ≤ 4

/-- The register that rules the running migration: CHD_MIG_CTRL for a source, CHD_MIG_ACCEPT for a target. -/
def migReg (m : Mig) : Nat := if m.role == 2 then m.accept.toNat else m.ctrl.toNat

-- Fields of R309.
def migFacet (m : Mig) : Nat := migReg m % 256
def migSlot (m : Mig) : Nat := migReg m / 256 % 16
def migLink (m : Mig) : Nat := migReg m / 4096 % 4

/-- A MIG_CTRL message to the peer; on a link that is down it waits for the retraining (R312). -/
def sendMigCtrl (phase error : Nat) (s : State) : State :=
  let m := s.chd.mig
  sendMsg (migLink m) (.migCtrl (migFacet m) (migSlot m) phase error) s

/-- The migration fails (R310, R312): the target discards what it received, the source's index goes on unchanged. -/
def migFail (error : Nat) (s : State) : State :=
  let m := s.chd.mig
  let s1 := if m.role == 1 then updIdx (migFacet m) (migSlot m) (fun i => { i with held := false }) s else s
  bump (migFacet m) (kFct 21) 1 (updMig (fun x => { x with
    phase := 6, error := error, role := 0, start := false, building := none, pendNew := [], writes := [], publish := false }) s1)

/-- A migration that fails at its go counts for its facet, if there is one of that number (R313, R364). -/
def migLost (f : Nat) (s : State) : State := if f < 64 then bump f (kFct 21) 1 s else s

/-- CHD_MIG_CTRL go: the source sends an offer (R309, R368). A go during a migration only reports error 8; without a created
index there is nothing to offer (log 43). -/
def migGo (v : Word64) (s : State) : State :=
  let m := s.chd.mig
  if migRunning m then updMig (fun x => { x with error := 8 }) s
  else
    let fields := BitVec.ofNat 64 (v.toNat % 2 ^ 15)
    let l := v.toNat / 4096 % 4
    let s1 := updMig (fun x => { x with ctrl := fields, target := false, error := 0, units := 0, extra := 0, role := 1, writes := [] }) s
    let bad := fun (e : Nat) => migLost (v.toNat % 256) (updMig (fun x => { x with phase := 6, error := e, role := 0 }) s1)
    if !linkUsable s l then bad 9
    else if (usableIdx s (v.toNat % 256) (v.toNat / 256 % 16)).isNone then bad 3
    else sendMigCtrl 1 0 (updMig (fun x => { x with phase := 1 }) s1)

/-- CHD_MIG_ACCEPT go: the target is armed (R309). -/
def migArm (v : Word64) (s : State) : State :=
  let m := s.chd.mig
  if migRunning m then updMig (fun x => { x with error := 8 }) s
  else
    let fields := BitVec.ofNat 64 (v.toNat % 2 ^ 14)
    let ok := linkUsable s (v.toNat / 4096 % 4)
    let s1 := updMig (fun x => { x with
      accept := fields, target := true, phase := if ok then 1 else 6, error := if ok then 0 else 9, units := 0, extra := 0,
      role := if ok then 2 else 0, building := none, pendNew := [], writes := [], publish := false }) s
    if ok then s1 else migLost (v.toNat % 256) s1

/-- Cancel, on either side (R309, R312). -/
def migCancelHere (s : State) : State :=
  if migRunning s.chd.mig then migFail 7 (sendMigCtrl 6 7 s) else s

/-- Why the target refuses an offer (R310), the first reason of its list; 0 when it accepts. -/
def offerError (s : State) (l f slot : Nat) (geo : Geometry) (hbm flash : Nat) : Nat :=
  let m := s.chd.mig
  let cache := if (idxsOf s f).isEmpty then 2 ^ 32 else 0
  if !(m.role == 2 && m.phase == 1 && migFacet m == f && migSlot m == slot && migLink m == l) then 1
  else if (facetOf s f).state != 1 then 2
  else if geoOf s f slot != some geo then 3
  else if (idxOf s f slot).isSome then 4
  else if hbmFree s f < hbm + cache || flashFree s f < flash then 5
  else 0

/-- The offer received (R310). An offer the target was not armed for leaves an arm for another one in place (log 44). -/
def receiveOffer (l f slot : Nat) (geo : Geometry) (hbm flash : Nat) (s0 : State) : State :=
  let s := popDelivered l 3 s0
  let e := offerError s l f slot geo hbm flash
  let reply := fun (ph : Nat) (t : State) => sendMsg l (.migCtrl f slot ph e) t
  if e == 0 then reply 2 (updMig (fun x => { x with phase := 2 }) s)
  else if e == 1 then reply 3 (updMig (fun x => { x with error := 1 }) s)
  else reply 3 (migFail e s)

/-- A message for the running migration in a role and on its link. -/
def migHere (s : State) (role l : Nat) : Bool :=
  let m := s.chd.mig
  m.role == role && migRunning m && migLink m == l

/-- The acceptance received: E_m is taken at the next boundary (R311 step 1). -/
def receiveAccept (l : Nat) (s0 : State) : State :=
  let s := popDelivered l 3 s0
  if migHere s 1 l && s.chd.mig.phase == 1 then updMig (fun x => { x with start := true }) s else s

/-- The refusal received (R310). -/
def receiveRefuse (l e : Nat) (s0 : State) : State :=
  let s := popDelivered l 3 s0
  if migHere s 1 l && s.chd.mig.phase == 1 then migFail e s else s

/-- A list with its newest copy alone, of which some positions. -/
def partDir (d : ListDir) (ps : List Pos) : ListDir := { d with copies := (d.copies.take 1).map fun c => { c with pos := ps } }

/-- An index without its positions, entries and nodes. -/
def shell (ix : Index) : Index :=
  { ix with
    lists := ix.lists.map fun d => partDir d [], side := [],
    arrays := (ix.arrays.take 1).map fun a => { a with nodes := [] } }

/-- The units of an index as parts, each list's and the side list's in ascending order (R311). -/
def unitParts (ix : Index) : List MigPart :=
  let p := perUnit ix.geo
  let q := perGraphUnit ix.geo
  (ix.lists.map fun d => (List.range (cdiv (curCopy d).pos.length p)).map fun u =>
    MigPart.list u (partDir d (((curCopy d).pos.drop (u * p)).take p))).flatten ++
  (nub (ix.side.map (·.app / p))).map (fun u => .side u (ix.side.filter (·.app / p == u))) ++
  (graphUnits ix).map fun u => .nodes u { curArray ix with nodes := (curArray ix).nodes.filter (·.num / q == u) }

/-- What the source sends of an index (R311 step 1): first what no unit holds, then its units (log 16). -/
def migParts (x : Facet) (ix : Index) : List MigPart :=
  [.base (shell ix), .pending (x.pend.filter (·.slot == ix.geo.slot))] ++ unitParts ix

/-- At the boundary after the acceptance the source takes E_m and sends the units, which it reads under COMPACT; it waits for a boundary at
which the reads are granted (R204, R223, R311 step 1). -/
def migBoundary (s : State) : State :=
  let m := s.chd.mig
  if !(m.role == 1 && m.start) then s
  else match idxOf s (migFacet m) (migSlot m) with
    | none => migFail 7 (sendMigCtrl 6 7 s)
    | some ix =>
      let f := migFacet m
      let x := facetOf s f
      let ps := migParts x ix
      match allJobs f 4 .ended (pageJobs s (ps.filterMap (partUnit f (migSlot m))) ++ [ingestJob s]) s with
      | none => s
      | some t =>
        ps.foldl (fun t p => sendMsg (migLink m) (.migUnit f (migSlot m) p) t)
          (useFree (updMig (fun y => { y with start := false, em := x.epoch, phase := 2, extra := 2 }) t))

/-- A VC 2 flit of a link waits to be sent or acknowledged. -/
def vc2Busy (s : State) (l : Nat) : Bool :=
  let x := linkOf s l
  x.txq.any (·.1 == 2) || x.replay.any fun r => r.2.getD 1 0 == 2

/-- The index that a migration's source holds new writes to (R311 step 3). -/
def migHeld (s : State) : Bool := ((idxOf s (migFacet s.chd.mig) (migSlot s.chd.mig)).map (·.held)).getD false

/-- The writes since E_m are sent; with fewer than 1,024 unsent new ones are held (R311 steps 2 and 3). -/
def sendWrites (s : State) : State :=
  let m := s.chd.mig
  let f := migFacet m
  let sl := migSlot m
  let s1 := m.writes.foldl (fun t w => sendMsg (migLink m) (.migWrite f sl w) t) (updMig (fun y => { y with phase := 3, writes := [] }) s)
  if 1024 ≤ m.writes.length then s1 else updIdx f sl (fun i => { i with held := true }) s1

/-- The source may go on: every unit and write that it has sent is acknowledged. -/
def migClear (s : State) : Bool :=
  let m := s.chd.mig
  m.role == 1 && (m.phase == 2 || m.phase == 3) && !m.start && linkUsable s (migLink m) && !vc2Busy s (migLink m)

/-- Once everything is acknowledged the source sends the writes since E_m, and once the target has the last of them, cut-over, which no write can
come behind (R311 steps 2 and 3). -/
def migProgress (s : State) : State :=
  if !migClear s then s
  else
    let s1 := if s.chd.mig.phase == 3 && migHeld s && s.chd.mig.writes.isEmpty then s else sendWrites s
    if migClear s1 && migHeld s1 && s1.chd.mig.writes.isEmpty then sendMigCtrl 4 0 (updMig (fun y => { y with phase := 4 }) s1) else s1

/-- A unit of a list taken into an index that is being built: its positions follow those that came before. -/
def takeList (d : ListDir) (i : Index) : Index :=
  let more := (curCopy d).pos
  let add := fun (o : ListDir) => { o with copies := match o.copies with
    | [] => d.copies
    | c :: l => { c with pos := c.pos ++ more } :: l }
  if i.lists.any (·.num == d.num) then { i with lists := updFirst (·.num == d.num) add i.lists } else { i with lists := i.lists ++ [d] }

/-- A unit of the node array taken into it. -/
def takeNodes (a : NodeArray) (i : Index) : Index :=
  { i with arrays := match i.arrays with
    | [] => [a]
    | b :: l => { b with nodes := b.nodes ++ a.nodes } :: l }

/-- A part taken into what the target builds. -/
def takePart (p : MigPart) (m : Mig) : Mig :=
  match p with
  | .base ix => { m with building := some ix }
  | .pending ps => { m with pendNew := ps }
  | .list _ d => { m with building := m.building.map (takeList d) }
  | .side _ es => { m with building := m.building.map fun i => { i with side := i.side ++ es } }
  | .nodes _ a => { m with building := m.building.map (takeNodes a) }

/-- MIG_UNIT at the target, which the link's own acks acknowledge; units are counted on both sides (R368). -/
def receiveUnit (l : Nat) (p : MigPart) (s0 : State) : State :=
  let s := popDelivered l 2 s0
  let n := if (partUnit (migFacet s.chd.mig) (migSlot s.chd.mig) p).isSome then 1 else 0
  if migHere s 2 l && s.chd.mig.phase == 2 then updMig (fun m => takePart p { m with units := m.units + n }) s else s

/-- MIG_WRITE at the target. -/
def receiveWrite (l : Nat) (w : MigWrite) (s0 : State) : State :=
  let s := popDelivered l 2 s0
  if migHere s 2 l && (s.chd.mig.phase == 2 || s.chd.mig.phase == 3) then
    updMig (fun x => { x with phase := 3, writes := x.writes ++ [w] }) s
  else s

/-- Cut-over at the target: the index is published at its next boundary (R311 step 4). -/
def receiveCutOver (l : Nat) (s0 : State) : State :=
  let s := popDelivered l 3 s0
  if migHere s 2 l && (s.chd.mig.phase == 2 || s.chd.mig.phase == 3) && s.chd.mig.building.isSome then
    updMig (fun x => { x with phase := 4, publish := true }) s
  else s

/-- A received index under the target's epochs: all it holds is published, and all its deletes are made, at e (R77, R138, R311). -/
def rebase (e : Nat) (ix : Index) : Index :=
  let del := fun (tomb : Bool) => if tomb then e else 0
  let pos := fun (p : Pos) => { p with birth := e, del := del p.tomb }
  let ent := fun (v : SideEnt) => { v with epoch := e, del := del v.tomb }
  let copy := fun (c : ListCopy) => { c with pub := e, pos := c.pos.map pos }
  let node := fun (n : Node) => { n with
    birth := e, del := del n.tomb, nbrs := (n.nbrs.take 1).map (fun v => (e, v.2)), sketches := (n.sketches.take 1).map (fun v => (e, v.2)) }
  let arr := fun (a : NodeArray) => { a with
    pub := e, nodes := a.nodes.map node, lengths := (a.lengths.take 1).map (fun v => (e, v.2)),
    entries := (a.entries.take 1).map (fun v => (e, v.2)) }
  let dirs := ix.lists.map fun d => { d with copies := (d.copies.take 1).map copy }
  { ix with
    lists := dirs, side := ix.side.map ent, freed := ix.freed.map ent, moves := ix.moves.map (fun m => { m with em := e }),
    arrays := (ix.arrays.take 1).map arr, starts := ix.starts.map (fun r => (r.1, e)), released := ix.released.map (fun r => (r.1, e)),
    toReclaim := ix.toReclaim.map (fun r => (e, r.2)), trans := ix.trans.map (fun t => { t with tag := noTag, es := e }),
    cached := [], dropping := none, held := false, staged := none, work := none }

/-- A forwarded write committed at the target (R311 step 4): what a write appends is as the source's log has it, sketches too, so that the contents are
equal byte for byte. -/
def commitForwarded (f slot e : Nat) (w : MigWrite) (s : State) : State :=
  match w with
  | .insert _ recs => updIdx f slot (appendSide e recs) s
  | .delete _ ids => deleteIds f e slot ids s
  | .relabel _ vs => updIdx f slot (appendSide e vs) (deleteIds f e slot (vs.map (·.id)) s)

/-- The target publishes what it has received and answers done; it happens before the epoch of its boundary advances, so that
the index carries the new value (R77, R311 step 4). Its units are programmed under COMPACT, at a boundary at which
that is granted (R223), and its HBM is written with its block checks (R214). The pending deletes that come with it join the facet's table even where
that takes it past its 65,536 entries, for which no rule says what happens (R74, R311; DESIGN CHOICE, log 107). -/
def migPublish (s : State) : State :=
  let m := s.chd.mig
  match m.building with
  | none => s
  | some ix0 =>
    if !(m.role == 2 && m.publish) then s
    else
      let f := migFacet m
      let sl := migSlot m
      let e := commitEpoch (facetOf s f)
      let ps := (m.pendNew.filter (·.till.isNone)).map fun (p : Pend) => { p with slot := sl, epoch := e, since := 0 }
      let s1 := updFacet f (fun x => { x with pend := x.pend ++ ps }) { s with idx := s.idx ++ [rebase e ix0] }
      let s2 := m.writes.foldl (fun t w => commitForwarded f sl e w t) s1
      let s3 := appendLog f e (m.writes.length + 1) false (markChanged f s2)
      let us := (unitParts ix0).filterMap (partUnit f sl)
      match allJobs f 4 (.unit f sl) (programJobs (us.map (placeOf s3)) ++ [ingestJob s3]) s3 with
      | none => s
      | some t =>
        let s4 := sendMigCtrl 5 0 (bump f (kFct 20) 1 (useFree (keepAll f sl (writePages us t))))
        updMig (fun x => { x with phase := 5, role := 0, building := none, pendNew := [], writes := [], publish := false }) s4

/-- Done received by the source: it drops the index (move) or releases the held writes (copy) (R311 step 5). -/
def receiveDone (l : Nat) (s0 : State) : State :=
  let s := popDelivered l 3 s0
  let m := s.chd.mig
  if !(migHere s 1 l && m.phase == 4) then s
  else
    let f := migFacet m
    let sl := migSlot m
    let s1 := bump f (kFct 20) 1 (updMig (fun x => { x with phase := 5, role := 0, writes := [] }) s)
    if bit 14 m.ctrl.toNat then updIdx f sl (fun i => { i with held := false }) s1 else dropIndex f sl noTag s1

/-- A cancel message received (R312). -/
def receiveCancel (l : Nat) (s0 : State) : State :=
  let s := popDelivered l 3 s0
  if migRunning s.chd.mig && migLink s.chd.mig == l then migFail 7 s else s

/-- The link of a running migration has been down for 10 s (R312). -/
def migLinkLost (s : State) : State :=
  let m := s.chd.mig
  if migRunning m && !linkUsable s (migLink m) && (linkOf s (migLink m)).downAt + 10000000000 ≤ now s then migFail 6 s else s

/-- Background work of an index waits while it is a migration's source (R311 step 1). -/
def migHolds (s : State) (f slot : Nat) : Bool :=
  let m := s.chd.mig
  m.role == 1 && 2 ≤ m.phase && m.phase ≤ 4 && migFacet m == f && migSlot m == slot

end Sys2Proof.Machine
end

