-- ==== Sys2Proof/Machine/ReadBack.lean ====
section
/-! DEFINITION. The results of flash reads go to whoever waits for them (R20, R73, R96, R101, R109, R119, R285, R324). -/

namespace Sys2Proof.Machine

/-- A read candidate as the channel engine returns it (R20, R56, R159, R161, R183). -/
def rankCand (ix : Index) (q : Query) (c : Cand) : Option Ranked :=
  (candStored ix q.epoch c).map fun v =>
    let x := f32s (elems ix.geo.storage ix.geo.dims v.vec)
    ⟨c, v.id, noNan (exactDist ix.geo.metric (queryF32 ix.geo q.vec) x), v.vec == storeVec ix.geo q.vec⟩

/-- A re-rank read back (R95, R96, R101). -/
def rerankBack (x : Nat) (cs : List Cand) (good : Bool) (s : State) : State :=
  match queryOf s x with
  | none => s
  | some q => match idxOf s q.facet q.slot with
    | none => s
    | some ix =>
      let q' := if good then { q with ranked := q.ranked ++ cs.filterMap (rankCand ix q), reads := q.reads - 1 }
        else { q with partialFlag := true, reads := q.reads - 1 }
      tryFinish x (updQuery x (fun _ => q') s)

/-- A walked node's result (R109, R112): its distance, with the Hamming distance of its entry. -/
def rankNode (ix : Index) (q : Query) (n : Nat) : Option Ranked :=
  rankCand ix q ⟨((q.q.find? (·.node == n)).map (·.ham)).getD 0, 0, n⟩

/-- A vertex read back (R109, R119): a failed one gives neither results nor neighbours. -/
def vertexBack (x : Nat) (ns : List Nat) (good : Bool) (s : State) : State :=
  match queryOf s x with
  | none => s
  | some q => match idxOf s q.facet q.slot with
    | none => s
    | some ix =>
      let mine := ns.filter fun n => q.sel.contains n && !q.failedSel.contains n && !q.arrived.any (·.cand.pos == n)
      updQuery x (fun _ =>
        if good then { q with arrived := q.arrived ++ mine.filterMap (rankNode ix q) }
        else { q with failedSel := q.failedSel ++ mine }) s

/-- IDs of a command whose read failed (R76, R285). -/
def failIds (ids : List Nat) (c : Cmd) : Cmd :=
  { c with recs := c.recs.map (fun r => if ids.contains r.id && bit 0 r.status && !bit 2 r.status then { r with status := r.status + 4 } else r),
           failedReads := c.failedReads ++ ids }

/-- A map read back (R73): the location word is cached, and a FETCH or LABEL_UPDATE reads the vector next. -/
def mapBack (t id : Nat) (good : Bool) (s : State) : State :=
  match cmdOf s t with
  | none => s
  | some c =>
    let s1 := updCmd t (fun y => { y with reads := y.reads - 1 }) s
    if !good then updCmd t (failIds [id]) s1
    else match idxOf s c.facet c.slot with
      | none => s1
      | some ix =>
        let s2 := updIdx c.facet c.slot (fun i => { i with cached := cacheId id i.cached }) s1
        if c.op == .fetch then issueUnits ix 1 (fun is => .fetch t is) [id] t s2
        else if c.op == .labelUpdate then issueUnits ix 3 (fun is => .copy t is) [id] t s2
        else s2

/-- A TRAIN's reading back (R183, R188). -/
def mineBack (t : Nat) (cs : List Cand) (good : Bool) (s : State) : State :=
  let up := fun (j : TrainJob) => { j with reads := j.reads - 1, failed := if good then j.failed else j.failed ++ cs }
  { s with srch := { s.srch with train := updFirst (·.tag == t) up s.srch.train } }

/-- The result of a read goes to whoever waits for it. -/
def readBack (p : Purpose) (good : Bool) (s : State) : State :=
  match p with
  | .rerank x cs => rerankBack x cs good s
  | .vertex x ns => vertexBack x ns good s
  | .fetch t ids => updCmd t (fun c => if good then { c with reads := c.reads - 1 } else failIds ids { c with reads := c.reads - 1 }) s
  | .map t id => mapBack t id good s
  | .copy t ids => updCmd t (fun c => if good then { c with reads := c.reads - 1 } else failIds ids { c with reads := c.reads - 1 }) s
  | .mine t cs => mineBack t cs good s

/-- Reads of lost units fail at once (R324). -/
def goneReads (s : State) : State := s.flash.gone.foldl (fun t p => readBack p false t) { s with flash := { s.flash with gone := [] } }

end Sys2Proof.Machine
end

