-- ==== Sys2Proof/Machine/Model.lean ====
section
/-! DEFINITION. Models: weight layout, operators, adapters, and ENCODE node by node (R168 to R181, R191). -/

namespace Sys2Proof.Machine

-- Weights (R155, R172, R174).

/-- Element e of a packed array of elements of `bits` bits, least significant first (R155). -/
def packedAt (bits off e : Nat) (w : Bytes) : Nat :=
  if bits == 16 then field (off + 2 * e) 2 w
  else if bits == 8 then (w.getD (off + e) 0).toNat
  else (w.getD (off + bits * e / 8) 0).toNat / 2 ^ (bits * e % 8) % 2 ^ bits

/-- Bits of an element of an operand format (R152). -/
def fmtBits (fmt : Nat) : Nat := if fmt == 2 then 2 else if fmt == 3 || fmt == 4 then 4 else if fmt == 8 then 16 else 8

/-- A format whose blocks of 32 carry an E8M0 scale in stored weights (R174). -/
def scaled (fmt : Nat) : Bool := fmt == 2 || fmt == 3 || fmt == 4

/-- A code as an integer of a block (FP4 doubled, as Arith.quantBlock keeps it). -/
def codeInt (fmt c : Nat) : Int :=
  if fmt == 2 then (if c < 2 then c else (c : Int) - 4)
  else if fmt == 3 then (if c < 8 then c else (c : Int) - 16)
  else match fp4.decode c with
    | .fin n m d => signed n (m * 2 ^ (d + 1).toNat)
    | _ => 0

/-- Codes with their scale bytes as an operand row: blocks with exponents, unscaled INT8, or plain numbers (R154, R155). -/
def codeRow (fmt : Nat) (codes scales : List Nat) : QRow :=
  if scaled fmt then
    .blocks (List.zipWith (fun l e => (((e : Nat) : Int) - 127 - (if fmt == 4 then 1 else 0), l.map (codeInt fmt))) (blocks32 codes) scales)
  else if fmt == 5 then .ints (codes.map fun c => if c < 128 then (c : Int) else (c : Int) - 256)
  else .plain (codes.map (decodeElem fmt))

/-- Column j of a K × N weight matrix at an offset (R174). -/
def weightCol (fmt k n off j : Nat) (w : Bytes) : QRow :=
  let np := roundUp 32 n
  let kp := roundUp 32 k
  let at' := fun i => packedAt (fmtBits fmt) off (256 * (i / 16 * (np / 16) + j / 16) + 16 * (i % 16) + j % 16) w
  let base := off + kp * np * fmtBits fmt / 8
  codeRow fmt ((List.range k).map at') ((List.range (cdiv k 32)).map fun b => (w.getD (base + b * np + j) 0).toNat)

/-- Row r of an embedding table: packed row after row, its scales after the whole table (R172, R174; DESIGN CHOICE, log 115). -/
def tableRow (fmt rows width off r : Nat) (w : Bytes) : QRow :=
  let nb := cdiv width 32
  let base := off + rows * width * fmtBits fmt / 8
  codeRow fmt ((List.range width).map fun i => packedAt (fmtBits fmt) off (r * width + i) w)
    ((List.range nb).map fun b => (w.getD (base + r * nb + b) 0).toNat)

/-- The exact values of an operand row. -/
def QRow.nums : QRow → List Num
  | .ints l => l.map fun v => ofInt false v 0
  | .blocks l => (l.map fun b => b.2.map fun v => ofInt false v b.1).flatten
  | .plain l => l

/-- FP32 values at an offset of the weights. -/
def weightF32 (off n : Nat) (w : Bytes) : List F32 := (List.range n).map fun i => BitVec.ofNat 32 (field (off + 4 * i) 4 w)

-- Operators (R168, R172).

/-- A column of a tile's other operand: as the engine takes it, and its values, from which an escape makes it anew (R163). -/
structure Col where
  q : QRow
  src : List Num
deriving DecidableEq, Repr

/-- What the tiles of a row give: results, saturations of escapes and of the drain, and rows escaped (R162, R163, R169). -/
structure RowOut where
  sums : List F32
  again : Nat
  escaped : Nat
deriving DecidableEq, Repr

/-- Values that pass i of n elements takes. -/
def partOf (n i : Nat) (l : List Num) : List Num := (l.drop (n * i)).take n

/-- A row in one tile, which is one pass over its columns (R19, R158, R162, R163): its count is its own saturations there plus, of an operand that
was quantised for the tile, the columns'; past the threshold it is computed again in INT8. -/
def tilePass (fmt thr : Nat) (counted : Bool) (i : Nat) (x : List Num) (cols : List Col) : RowOut :=
  let n := passLen fmt
  let xp := partOf n i x
  let r := quantRow fmt false xp
  let other := if counted then (cols.map fun c => (quantRow fmt false (partOf n i c.src)).2).sum else 0
  if scaled fmt && thr < min 65535 (r.2 + other) then
    let r8 := quantRow 5 false xp
    ⟨cols.map fun c => tileDot 5 xp.length r8.1 (quantRow 5 false (partOf n i c.src)).1, r8.2, 1⟩
  else ⟨cols.map fun c => passDot r.1 (c.q.part n i), 0, 0⟩

/-- A row over its whole reduction against up to 256 columns: passes added in FP32, ascending, then the drain (R158, R161). -/
def rowTile (fmt thr : Nat) (counted : Bool) (x : List Num) (cols : List Col) : RowOut :=
  let ps := (List.range (cdiv x.length (passLen fmt))).map fun i => tilePass fmt thr counted i x cols
  let d := drainAll (match ps.map (·.sums) with
    | [] => cols.map fun _ => 0
    | p :: rest => rest.foldl (List.zipWith addF) p)
  ⟨d.1, (ps.map (·.again)).sum + d.2, (ps.map (·.escaped)).sum⟩

/-- A row against any number of columns, 256 to a tile (R12). -/
def rowTimes (fmt thr : Nat) (counted : Bool) (x : List Num) (cols : List Col) : RowOut :=
  let ts := (List.range (cdiv cols.length 256)).map fun t => rowTile fmt thr counted x ((cols.drop (256 * t)).take 256)
  ⟨(ts.map (·.sums)).flatten, (ts.map (·.again)).sum, (ts.map (·.escaped)).sum⟩

/-- Saturations of a row's own conversion into a format (R162). -/
def ownSats (fmt : Nat) (x : List F32) : Nat := (quantRow fmt false (x.map ofF32)).2

/-- Columns lo to hi − 1 of a weight matrix: they come quantised, so they bring no saturations (R162, R174). -/
def weightCols (fmt k n off lo hi : Nat) (w : Bytes) : List Col :=
  (List.range (hi - lo)).map fun j => ⟨weightCol fmt k n off (lo + j) w, (weightCol fmt k n off (lo + j) w).nums⟩

/-- Values quantised for a tile as its other operand. -/
def dataCol (fmt : Nat) (l : List F32) : Col := ⟨(quantRow fmt false (l.map ofF32)).1, l.map ofF32⟩

/-- BF16 codes as an operand row. -/
def bfRow (l : List (BitVec 16)) : QRow := .plain (l.map fun c => bf16.decode c.toNat)

/-- FP32 values as BF16 operands, with the saturations of the conversion. -/
def bfOf (l : List F32) : QRow × Nat := quantRow 8 false (l.map ofF32)

/-- Element (i, r) of an adapter pair's A, and (r, j) of its B, at an offset of the adapter's elements (R191). -/
def adA (rank off i r : Nat) (ad : List (BitVec 16)) : BitVec 16 := ad.getD (off + i * rank + r) 0

def adB (rank k n off r j : Nat) (ad : List (BitVec 16)) : BitVec 16 := ad.getD (off + k * rank + r * n + j) 0

/-- x·A of an adapter pair, in BF16 with FP32 accumulation, with its saturations (R191). -/
def adaptMid (rank : Nat) (ad : List (BitVec 16)) (off k : Nat) (x : List F32) : List F32 × Nat :=
  let xb := bfOf x
  let d := drainAll ((List.range rank).map fun r => tileDot 8 k xb.1 (bfRow ((List.range k).map fun i => adA rank off i r ad)))
  (d.1, xb.2 + d.2)

/-- Columns lo to hi − 1 of (x·A)·B (R191). -/
def adaptRow (rank : Nat) (ad : List (BitVec 16)) (off k n lo hi : Nat) (x : List F32) : List F32 × Nat :=
  let p := adaptMid rank ad off k x
  let pb := bfOf p.1
  let d := drainAll ((List.range (hi - lo)).map fun j =>
    tileDot 8 rank pb.1 (bfRow ((List.range rank).map fun r => adB rank k n off r (lo + j) ad)))
  (d.1, p.2 + pb.2 + d.2)

/-- Matrices of a node with an adapter pair: K and N of each (R191). -/
def ModelNode.pairs (n : ModelNode) : List (Nat × Nat) :=
  let s := fun i => n.shape.getD i 0
  if n.op == 0 then [(s 0, s 1)] else if n.op == 1 then List.replicate 4 (s 0, s 0) else []

/-- Elements of the adapter pairs of some nodes. -/
def pairElems (rank : Nat) (ns : List ModelNode) : Nat := (ns.map fun n => (n.pairs.map fun p => rank * (p.1 + p.2)).sum).sum

/-- Columns lo to hi − 1 of one projection: weights, adapter, bias, in that order, in FP32. -/
def project (fmt thr k n off boff aoff lo hi : Nat) (bias : Bool) (w : Bytes) (ad : Nat × List (BitVec 16)) (x : List F32) : RowOut :=
  let r := rowTimes fmt thr false (x.map ofF32) (weightCols fmt k n off lo hi w)
  let a := if ad.1 == 0 then (r.sums, 0)
    else
      let y := adaptRow ad.1 ad.2 aoff k n lo hi x
      (List.zipWith addF r.sums y.1, y.2)
  ⟨if bias then List.zipWith addF a.1 ((weightF32 boff n w).drop lo) else a.1, r.again + a.2, r.escaped⟩

/-- The argument of tanh in GELU (R168). -/
def geluArg (x : F32) : F32 := mulF 0x3F4C422A#32 (addF x (mulF 0x3D372713#32 (mulF (mulF x x) x)))

/-- GELU's tanh form (R168). -/
def gelu (x : F32) : F32 := mulF (mulF 0x3F000000#32 x) (addF 0x3F800000#32 (tanhF (geluArg x)))

/-- A count as an FP32 value. -/
def natF (n : Nat) : F32 := toF32 (.fin false n 0)

/-- Centred elements of a row, and the reciprocal of its deviation with ε = 2^−e (R172). -/
def normParts (e : Nat) (x : List F32) : List F32 × F32 :=
  let n := natF x.length
  let m := divF (laneSum x) n
  let d := x.map fun a => subF a m
  (d, rsqrtF (addF (divF (laneSum (d.map fun a => mulF a a)) n) (toF32 (.fin false 1 (-(e : Int))))))

/-- Layer norm with ε = 2^−e (R172). -/
def layerNorm (e : Nat) (g b x : List F32) : List F32 :=
  let p := normParts e x
  List.zipWith addF (List.zipWith mulF (p.1.map fun a => mulF a p.2) g) b

/-- Softmax of a row (R168, R172; log 10). -/
def softmax (x : List F32) : List F32 :=
  let h := Config.softmaxShift x
  let es := x.map fun a => expF (subF a h)
  let t := sumF es
  es.map fun a => divF a t

/-- Mean of the rows of a sequence, column by column (R172; log 10). -/
def poolMean (rows : List (List F32)) : List F32 :=
  (List.range (rows.headD []).length).map fun j => divF (sumF (rows.map fun r => r.getD j 0)) (natF rows.length)

/-- The larger of two FP32 values; the first on a tie. -/
def maxF (a b : F32) : F32 := if keyF a < keyF b then b else a

/-- Pooling of one sequence (R172): mean, first token, maximum of each column. -/
def pool (mode : Nat) (rows : List (List F32)) : List F32 :=
  match rows with
  | [] => []
  | r :: rs => if mode == 0 then poolMean (r :: rs) else if mode == 1 then r else rs.foldl (List.zipWith maxF) r

/-- Embedding of one token word at a position (R172, R173). -/
def embed (n : ModelNode) (w : Bytes) (pos word : Nat) : List F32 :=
  let s := fun i => n.shape.getD i 0
  let row := fun rows off r => (tableRow n.format rows (s 0) off r w).nums.map toF32
  let o2 := n.woff + tableBytes n.format (16 * s 1) (s 0)
  let o3 := o2 + tableBytes n.format (s 2) (s 0)
  let t := row (16 * s 1) n.woff (word % 2 ^ 20)
  let t2 := if s 2 == 0 then t else List.zipWith addF t (row (s 2) o2 pos)
  if s 3 == 0 then t2 else List.zipWith addF t2 (row (s 3) o3 (word / 2 ^ 24 % 2))

/-- A residual added at the drain (R172). -/
def addRows (a b : List (List F32)) : List (List F32) := if b.isEmpty then a else List.zipWith (List.zipWith addF) a b

/-- A node on the drain path, on one sequence: its input rows, token words for an embedding (R168, R172). -/
def drainOp (w : Bytes) (n : ModelNode) (x : List (List F32)) : List (List F32) :=
  let s := fun i => n.shape.getD i 0
  match n.op with
  | 2 => x.map (layerNorm (s 1) (weightF32 n.woff (s 0) w) (weightF32 (n.woff + 4 * s 0) (s 0) w))
  | 3 => x.map fun r => r.map gelu
  | 4 => x.map softmax
  | 5 => [pool (s 1) x]
  | _ => x.zipIdx.map fun p => embed n w p.2 (p.1.headD 0).toNat

-- Matrix tiles of a node (R158, R162 to R164, R172, R178).

/-- What a tile gives for one row: the row's part of each matrix that the round takes, saturations to count, rows escaped. -/
structure RowPart where
  pieces : List (List F32)
  sats : Nat
  escaped : Nat
deriving DecidableEq, Repr

/-- Columns of slice i of n of a matrix of `width` columns, in whole 16-column tiles (R178). -/
def sliceOf (width n i : Nat) : Nat × Nat :=
  let t := cdiv width 16
  (16 * (t * i / n), min width (16 * (t * (i + 1) / n)))

/-- Rounds of a node: a matmul takes one; an attention its three projections, its heads, and the output projection (R172). -/
def roundsOf (n : ModelNode) : Nat := if n.op == 1 then 3 else 1

/-- A round passes weight slices between the regions, one a rotation step; the heads of an attention take one step (R178). -/
def sliced (n : ModelNode) (round : Nat) : Bool := n.op != 1 || round != 1

/-- Part of a row that belongs to a head. -/
def headPart (width h i : Nat) (r : List F32) : List F32 := (r.drop (width / h * i)).take (width / h)

/-- One head for one row: scores against every row of its sequence, scaled by (d/h)^−½, their softmax P, and P·V (R172). Answers P and the
result with its counts; K and V are quantised for the tiles. -/
def headRow (fmt thr : Nat) (q : List F32) (ks vs : List (List F32)) : List F32 × RowOut :=
  let sc := rowTimes fmt thr true (q.map ofF32) (ks.map (dataCol fmt))
  let p := softmax (sc.sums.map fun a => mulF a (rsqrtF (natF q.length)))
  let cols := (List.range q.length).map fun c => dataCol fmt (vs.map fun v => v.getD c 0)
  let o := rowTimes fmt thr true (p.map ofF32) cols
  (p, ⟨o.sums, sc.again + o.again, sc.escaped + o.escaped⟩)

/-- The heads of an attention for row i of a sequence whose rows carry Q, K and V: the row of the heads' results, and P head by head. Conversions are counted once: a row's Q, K and P with the
row, V with the sequence's first row (R169). -/
def headsRow (fmt thr d h : Nat) (qkv : List (List (List F32))) (i : Nat) : RowPart :=
  let piece := fun (m : Nat) (hd : Nat) (r : List (List F32)) => headPart d h hd (r.getD m [])
  let one := (List.range h).map fun hd =>
    let q := piece 0 hd (qkv.getD i [])
    let vs := qkv.map (piece 2 hd)
    let r := headRow fmt thr q (qkv.map (piece 1 hd)) vs
    let vSats := if i == 0 then ((List.range q.length).map fun c => ownSats fmt (vs.map fun v => v.getD c 0)).sum else 0
    (r.1, r.2, ownSats fmt q + ownSats fmt (piece 1 hd (qkv.getD i [])) + ownSats fmt r.1 + vSats)
  ⟨[(one.map (·.2.1.sums)).flatten, (one.map (·.1)).flatten], (one.map fun o => o.2.1.again + o.2.2).sum, (one.map (·.2.1.escaped)).sum⟩

/-- One row of a node in a round, for slice `sl` of `n`: `x` is its input row, `carry` what its sequence's rows carry, `i` its place there.
`aoff` is where the node's adapter pairs start; a row's own conversion counts in the first rotation step (R169). -/
def nodeRow (thr : Nat) (w : Bytes) (ad : Nat × List (BitVec 16)) (aoff : Nat) (nd : ModelNode) (round n sl : Nat) (first : Bool)
    (x : List F32) (carry : List (List (List F32))) (i : Nat) : RowPart :=
  let s := fun i => nd.shape.getD i 0
  let own := fun (r : List F32) => if first then ownSats nd.format r else 0
  if nd.op == 0 then
    let c := sliceOf (s 1) n sl
    let mb := matrixBytes nd.format (s 0) (s 1)
    let r := project nd.format thr (s 0) (s 1) nd.woff (nd.woff + mb) aoff c.1 c.2 (s 2 == 1) w ad x
    ⟨[r.sums], own x + r.again, r.escaped⟩
  else
    let d := s 0
    let c := sliceOf d n sl
    let mb := matrixBytes nd.format d d
    let pr := fun (m : Nat) (r : List F32) =>
      project nd.format thr d d (nd.woff + m * mb) (nd.woff + 4 * mb + 4 * d * m) (aoff + m * 2 * d * ad.1) c.1 c.2 true w ad r
    if round == 0 then
      let rs := (List.range 3).map fun m => pr m x
      ⟨rs.map (·.sums), own x + (rs.map (·.again)).sum, (rs.map (·.escaped)).sum⟩
    else if round == 1 then headsRow nd.format thr d (max 1 (s 1)) carry i
    else
      let y := (carry.getD i []).headD []
      let r := pr 3 y
      ⟨[r.sums], own y + r.again, r.escaped⟩

/-- A node runs in matrix tiles; the others run on the drain path (R168, R172). -/
def inTiles (n : ModelNode) : Bool := n.op == 0 || n.op == 1

-- ENCODE (R178 to R181, R289).

/-- The rows of an input of a node, sequence by sequence. -/
def EncJob.input (j : EncJob) (name : Nat) : List (List (List F32)) := look [] name j.values

/-- The rows of a job's node: sequence, place in it, input row. -/
def EncJob.rowsOf (j : EncJob) (n : ModelNode) : List (Nat × Nat × List F32) :=
  ((j.input n.inA).zipIdx.map fun p => p.1.zipIdx.map fun r => (p.2, r.2, r.1)).flatten

/-- What the rows of a sequence carry from the rounds before: `carry` holds the rows of all sequences in order. -/
def EncJob.carryOf (j : EncJob) (n : ModelNode) (sq : Nat) : List (List (List F32)) :=
  let lens := (j.input n.inA).map (·.length)
  (j.carry.drop (lens.take sq).sum).take (lens.getD sq 0)

/-- Rows of a row group (R178). -/
def EncJob.groupRows (j : EncJob) (n : ModelNode) (g : Nat) : List (Nat × Nat × List F32) :=
  let rows := j.rowsOf n
  let size := cdiv rows.length (max 1 j.groups)
  (rows.drop (g * size)).take size

/-- A tile of a node: its row group in a rotation step on an engine, whose own escape threshold holds there (R172, R178). -/
def runGroup (s : State) (m : ModelRec) (j : EncJob) (n : ModelNode) (e g st : Nat) : List RowPart :=
  let aoff := pairElems j.adapterW.1 (m.nodes.take j.cursor)
  let k := if sliced n j.round then max 1 j.groups else 1
  (j.groupRows n g).map fun r =>
    nodeRow (stageThr s j.facet 2 e) j.weights j.adapterW aoff n j.round k ((g + st) % k) (st == 0) r.2.2 (j.carryOf n r.1) r.2.1

/-- The pieces of a row from the slices of a round, in column order. -/
def joinPieces (l : List (List (List F32))) : List (List F32) :=
  match l with
  | [] => []
  | p :: ps => ps.foldl (List.zipWith (· ++ ·)) p

/-- What a row group gave in a round, row by row, its slices in column order. -/
def EncJob.groupOut (j : EncJob) (n : ModelNode) (g : Nat) : List (List (List F32)) :=
  let k := if sliced n j.round then max 1 j.groups else 1
  let slices := (List.range k).map fun sl => look [] (g, (sl + k - g % k) % k) j.parts
  (List.range (j.groupRows n g).length).map fun i => joinPieces (slices.map fun p => p.getD i [])

/-- What all rows of the round gave. -/
def EncJob.roundOut (j : EncJob) (n : ModelNode) : List (List (List F32)) :=
  ((List.range (max 1 j.groups)).map (j.groupOut n)).flatten

/-- Rows cut into the sequences they belong to. -/
def bySequence (rows : List (List F32)) (lens : List Nat) : List (List (List F32)) :=
  lens.zipIdx.map fun p => (rows.drop (lens.take p.2).sum).take p.1

/-- A node's result stored, its residual added, and the cursor moved on (R172). -/
def EncJob.store (j : EncJob) (n : ModelNode) (out : List (List (List F32))) : EncJob :=
  let res := if n.inB == 0xFFFF then [] else j.input n.inB
  { j with values := put j.cursor (out.zipIdx.map fun p => addRows p.1 (res.getD p.2 [])) j.values, cursor := j.cursor + 1, round := 0,
           groups := 0, left := 0, parts := [], carry := [] }

/-- Nodes on the drain path run at once, up to the next node in tiles or the end. -/
def runDrain (m : ModelRec) : Nat → EncJob → EncJob
  | 0, j => j
  | k + 1, j => match m.nodes[j.cursor]? with
    | none => j
    | some n => if inTiles n then j else runDrain m k (j.store n ((j.input n.inA).map (drainOp j.weights n)))

/-- The output rows of a finished graph. -/
def EncJob.output (j : EncJob) (m : ModelRec) : List (List (List F32)) := j.input (m.nodes.length - 1)

/-- An output value in a format, with its saturations (R153, R161, R180): INT8 takes the shift first. -/
def outElem (fmt shift : Nat) (a : F32) : Bytes × Nat :=
  if fmt == 0x10 then (leBytes 4 (drainF a).1.toNat, (drainF a).2)
  else if fmt == 8 || fmt == 6 then
    let c := (if fmt == 8 then bf16 else e4m3).convert (ofF32 a)
    (leBytes (elemSize fmt) c.1, c.2)
  else
    let sh : Int := if shift < 128 then shift else (shift : Int) - 256
    let c := convertInt 127 ((ofF32 a).mul (.fin false 1 sh))
    (leBytes 1 (c.1 % 256).toNat, c.2)

/-- Matrices whose slices the tiles of a round take. -/
def roundMats (n : ModelNode) (round : Nat) : Nat := if n.op == 0 then 1 else if round == 0 then 3 else if round == 1 then 0 else 1

/-- Tile passes of a product of some rows with some columns over a reduction (R158). -/
def passesOf (fmt rows cols red : Nat) : Nat := cdiv rows 256 * cdiv cols 256 * cdiv red (passLen fmt)

/-- Tile passes of a row group in a rotation step, one tile each (R158, R172, R178): its slice of every matrix of the round, with the adapter's two
BF16 products (R191), or for each head and sequence the scores and their product with V. -/
def EncJob.passes (j : EncJob) (n : ModelNode) (g st : Nat) : Nat :=
  let rows := j.groupRows n g
  let k := max 1 j.groups
  let w := fun i => n.shape.getD i 0
  let d := if n.op == 0 then w 1 else w 0
  let c := sliceOf d k ((g + st) % k)
  let rank := j.adapterW.1
  let adapt := if rank == 0 then 0 else passesOf 8 rows.length rank (w 0) + passesOf 8 rows.length (c.2 - c.1) rank
  let heads := fun (sq : Nat) =>
    let r := (rows.filter (·.1 == sq)).length
    let len := ((j.input n.inA).getD sq []).length
    let dh := d / max 1 (w 1)
    max 1 (w 1) * (passesOf n.format r len dh + passesOf n.format r dh len)
  max 1 (if sliced n j.round then roundMats n j.round * (passesOf n.format rows.length (c.2 - c.1) (w 0) + adapt)
    else ((nub (rows.map (·.1))).map heads).sum)

/-- The stream that brings a round's weight slices to the engine of the facet's first live region (R178, R208). -/
def armSlices (j : EncJob) (n : ModelNode) (s : State) : State :=
  let bytes := roundMats n j.round * matrixBytes n.format (n.shape.getD 0 0) n.outWidth
  match liveRegions s j.facet with
  | [] => s
  | r :: _ =>
    if bytes == 0 then s
    else
      let pre := ((modOf s j.facet j.slot).map (·.prefetched)).getD false
      armRuns (.model j.tag) r (0x200 + r) j.facet (j.cls % 8) (flagBit 0 pre) (freeBase j.facet j.slot modelKey + n.woff) (cdiv bytes 2048)
        (Config.diagnostic s.free).toNat (useFree s)

/-- The tiles of a job's next round: a row group for the engine of each of the facet's live regions, a tile for each rotation step
(R178). -/
def queueNode (m : ModelRec) (j : EncJob) (s : State) : State :=
  match m.nodes[j.cursor]? with
  | none => s
  | some n =>
    let rs := liveRegions s j.facet
    let j1 := { j with groups := max 1 rs.length, parts := [] }
    let steps := if sliced n j.round then j1.groups else 1
    let gs := (List.range j1.groups).filter fun g => !(j1.groupRows n g).isEmpty
    let tiles := (gs.map fun g => (List.range steps).map fun st => (List.range (j1.passes n g st)).map fun p =>
      (⟨j.facet, j.slot, j.cls, .node j.tag g st, [], false, rs[g]?, p⟩ : Tile)).flatten.flatten
    armSlices j1 n { s with srch := { s.srch with
        tiles := s.srch.tiles ++ tiles, enc := updFirst (·.tag == j.tag) (fun _ => { j1 with left := tiles.length }) s.srch.enc } }

/-- ENCODE ends: its rows are written and reported (R180, R193, R289). -/
def finishEncode (m : ModelRec) (j : EncJob) (c : Cmd) (s : State) : State :=
  let rows := (j.output m).flatten
  let outs := (rows.map fun r => r.map (outElem (c.ar 4 1) (c.ar 5 1))).flatten
  let sats := (outs.map (·.2)).sum
  let k := kCls j.cls
  let s1 := bump j.facet (k 22) 1 (bump j.facet (k 23) (c.ar 8 4) (bump j.facet (k 24) sats s))
  finish c stOk (flagBit 1 j.partialFlag) 0 (leBytes 4 rows.length ++ leBytes 4 sats) running0
    (writeHost c c.resultAddr (outs.map (·.1)).flatten s1)

/-- A TRAIN's encoding phase ends: each sequence's first output row, in the index's storage format, is its query vector (R183;
log 40). -/
def trainVectors (g : Geometry) (m : ModelRec) (j : EncJob) : List Bytes :=
  (j.output m).map fun rows => packElems g.storage ((rows.headD []).take g.dims)

/-- Saturations of their conversion into that format (R169). -/
def trainSats (g : Geometry) (m : ModelRec) (j : EncJob) : Nat :=
  ((j.output m).map fun rows => packSats g.storage ((rows.headD []).take g.dims)).sum

/-- A job that has moved on: its next tiles, or its end, with its stream's. -/
def advanceEnc (m : ModelRec) (j0 : EncJob) (s : State) : State :=
  let j := runDrain m (m.nodes.length + 1) j0
  if j.cursor < m.nodes.length then queueNode m j s
  else
    let s1 := closeStreams (·.user == .model j.tag) { s with srch := { s.srch with enc := s.srch.enc.filter (·.tag != j.tag) } }
    match cmdOf s1 j.tag with
    | none => s1
    | some c =>
      if c.op == .encode then finishEncode m j c s1
      else match idxOf s1 c.facet c.slot with
        | none => s1
        | some ix =>
          let up := fun (t : TrainJob) => { t with
            vectors := trainVectors ix.geo m j, acts := j.values, weights := j.weights, encAd := j.adapterW, phase := 1,
            partialFlag := t.partialFlag || j.partialFlag }
          bump c.facet (kCls 6 14) (trainSats ix.geo m j) { s1 with srch := { s1.srch with train := updFirst (·.tag == j.tag) up s1.srch.train } }

/-- The weight bytes of a round moved (R178, R179, R218): each region's slice from the HBM stack beside it; with several regions, or a prefetch
buffer, every region then reads all slices through the stacked memory (log 45). -/
def moveSlices (j : EncJob) (n : ModelNode) (round : Nat) (s : State) : State :=
  let rs := liveRegions s j.facet
  let w := fun i => n.shape.getD i 0
  let bytes := roundMats n round * matrixBytes n.format (w 0) n.outWidth
  let one := cdiv bytes (max 1 rs.length)
  let passed := 1 < rs.length || ((modOf s j.facet j.slot).map (·.prefetched)).getD false
  rs.foldl (fun t g =>
    let t1 := takeBytes g j.facet j.cls (cdiv one 2048) 2048 (bump j.facet (kFct 3) (2048 * cdiv one 2048) t)
    if passed then takeBytes (8 + g) j.facet j.cls (cdiv bytes 2048) 2048 (bump j.facet (kFct 2) bytes t1) else t1) s

/-- Name under which a TRAIN's job keeps what a round within an attention gave, for the backward pass (R191). -/
def roundName (cursor round : Nat) : Nat := 0x10000 * (round + 1) + cursor

/-- A round whose tiles have all drained: its results are carried into the next round, or are the node's (R172). A TRAIN keeps them all. -/
def endRound (m : ModelRec) (n : ModelNode) (j : EncJob) (s : State) : State :=
  let out := j.roundOut n
  let lens := (j.input n.inA).map (·.length)
  if j.round + 1 < roundsOf n then
    let kept := if j.cls == 6 then put (roundName j.cursor j.round) (bySequence (out.map List.flatten) lens) j.values else j.values
    queueNode m { j with round := j.round + 1, carry := out, values := kept } s
  else advanceEnc m (j.store n (bySequence (out.map fun p => p.headD []) lens)) s

/-- Another pass of a tile waits or runs: its results are not whole yet (R158). -/
def partLeft (s : State) (t : Tile) : Bool :=
  s.srch.tiles.any (fun u => u.kind == t.kind) || s.srch.engines.any fun e => e.run.any fun u => u.kind == t.kind

/-- TILE_DRAIN for a node of a model (R158, R162 to R164, R168, R178): a row group's results of a step stand with the last of its passes, after one
more pass of the engine for each row that escaped, however many INT8 passes its row takes (DESIGN CHOICE, log 114); the last tile of a round ends
it. -/
def drainNode (e : Nat) (t : Tile) (tag g st : Nat) (s : State) : State :=
  match s.srch.enc.find? (·.tag == tag), modelRec s t.facet t.slot with
  | some j, some m =>
    match m.nodes[j.cursor]? with
    | none => s
    | some n =>
      let rs := runGroup s m j n e g st
      let esc := (rs.map (·.escaped)).sum
      let one := fun (k : Nat) => updFirst (fun y : EncJob => y.tag == tag) (fun y => { y with left := y.left - 1 + k }) s.srch.enc
      if partLeft s t then { s with srch := { s.srch with enc := one 0 } }
      else if 0 < esc && !t.escape then
        let again := (List.range esc).map fun p => ({ t with escape := true, engine := some e, part := p } : Tile)
        bump t.facet (kCls t.cls 17) esc { s with srch := { s.srch with tiles := again ++ s.srch.tiles, enc := one esc } }
      else
        let j1 := { j with parts := put (g, st) (rs.map (·.pieces)) j.parts, left := j.left - 1 }
        let s1 := bump t.facet (kCls t.cls 14) (rs.map (·.sats)).sum
          { s with srch := { s.srch with enc := updFirst (·.tag == tag) (fun _ => j1) s.srch.enc } }
        if j1.left == 0 then endRound m n j1 (drainBy (.model tag) (moveSlices j n j.round s1)) else s1
  | _, _ => s

/-- Sequences as a job's input: token words, one to a row, or rows of FP32 values (R173, R289). -/
def encInput (m : ModelRec) (c : Cmd) : List (List (List F32)) :=
  let lens := encodeLens (c.ar 6 2) c.data
  let base := roundUp 8 (4 * c.ar 6 2)
  let w := modelIn m
  let fmt := c.ar 3 1
  let row := fun i =>
    if fmt == 0 then [BitVec.ofNat 32 (field (base + 4 * i) 4 c.data)]
    else f32s (elems fmt w (c.data.drop (base + i * w * elemSize fmt)))
  List.zipWith (fun o n => (List.range n).map fun i => row (o + i)) (starts lens) lens

/-- A job started with the weights and adapter its slot holds now (R180, R183). -/
def beginEnc (tag f slot cls adapter : Nat) (inputs : List (List (List F32))) (s : State) : State :=
  match modOf s f slot, modelRec s f slot with
  | some m, some r =>
    let j : EncJob :=
      { tag := tag, facet := f, slot := slot, cls := cls, adapter := adapter == 1, cursor := 0, weights := m.weights,
        adapterW := if adapter == 1 then (m.adapterRank, m.adapter) else (0, []), values := [(0xFFFE, inputs)], round := 0, groups := 0, left := 0,
        parts := [], carry := [], partialFlag := false }
    advanceEnc r j { s with srch := { s.srch with enc := s.srch.enc ++ [j] } }
  | _, _ => s

/-- ENCODEs of a facet waiting on a READY slot are admitted in fetch order, up to 64 at once, with a tag for the stream of their weights (R170, R176,
R180, R212); with no region left they end (R267). -/
def admitEncodes (f : Nat) (s : State) : State :=
  (s.cmds.filter fun c => c.op == .encode && c.facet == f && c.phase == .waiting).foldl (fun t c =>
    let busy := (t.srch.enc.filter fun j => j.facet == f && j.cls ≤ 2).length
    match modOf t f c.model, modelRec t f c.model with
    | some m, some r =>
      if m.state == 2 && noRegion t f then finish c stFacetFault 0 0 [] running0 t
      else if m.state == 2 && busy < 64 && tagFor t (.model c.tag) then beginEnc c.tag f c.model c.cls (c.ar 2 1) (encInput r c) (setPhase c.tag .running t)
      else if m.state == 0 then finish c stInvalid 0 0 [] running0 t
      else t
    | _, _ => finish c stInvalid 0 0 [] running0 t) s

end Sys2Proof.Machine
end

