-- ==== Sys2Proof/Machine/TrainM.lean ====
section
/-! DEFINITION. TRAIN: mining, reading, optimiser steps, the shuffle, and its end (R182 to R192, R287, R288). -/

namespace Sys2Proof.Machine

/-- A projection as FP32 values, row by row (R187). -/
def projF32 (p : Proj) (bits dims : Nat) : List F32 :=
  ((List.range bits).map fun j => (projNums p dims j).map toF32).flatten

/-- The generator's next state and output (R59, R187). -/
def nextRand (z : BitVec 64) : BitVec 64 × Nat :=
  let z1 := z + 0x9E3779B97F4A7C15#64
  (z1, (splitMix z1).toNat)

/-- Fisher–Yates from the last place down (R187; log 41). -/
def shuffle : Nat → BitVec 64 → List Nat → BitVec 64 × List Nat
  | 0, z, l => (z, l)
  | i + 1, z, l =>
    let r := nextRand z
    let j := r.2 % (i + 2)
    shuffle i r.1 ((l.set (i + 1) (l.getD j 0)).set j (l.getD (i + 1) 0))

/-- An epoch's order of the triples (R187): each shuffle begins from their ascending numbers (DESIGN CHOICE, log 117). -/
def epochOrder (z : BitVec 64) (n : Nat) : BitVec 64 × List Nat := shuffle (n - 1) z (List.range n)

/-- A fresh adapter (R191): every A is ±1/16 from the seed in node order, every B zero. -/
def freshAdapter (seed : BitVec 64) (rank : Nat) (ns : List ModelNode) : List (BitVec 16) :=
  ((ns.map ModelNode.pairs).flatten.foldl (fun (acc : List (BitVec 16) × Nat) p =>
    let n := p.1 * rank
    let a := (List.range n).map fun i =>
      let b := acc.2 + i
      if (splitMixAt seed (b / 64)).getLsbD (b % 64) then 0x3D80#16 else 0xBD80#16
    (acc.1 ++ a ++ List.replicate (rank * p.2) 0, acc.2 + n)) ([], 0)).1

/-- The stored vector of a candidate as it stood at an epoch. -/
def candVec (ix : Index) (e : Nat) (c : Cand) : Bytes := ((candStored ix e c).map (·.vec)).getD []

-- Admission and mining (R182, R183).

/-- A TRAIN's inputs as query vectors, or as token sequences (R183, R287). -/
def trainInputs (g : Geometry) (c : Cmd) : List Bytes :=
  (List.range c.trainM).map fun i => slice (32 + rowSize g * i) (g.dims * elemSize g.storage) c.data

/-- Its token sequences as a job's input. -/
def trainTokens (c : Cmd) : List (List (List F32)) :=
  match cutSequences c.trainM 32 (c.data.drop 32) with
  | .ok l => l.map fun p => p.2.map fun w => [BitVec.ofNat 32 w]
  | .error _ => []

/-- A waiting TRAIN may start: no other TRAIN of its index or adapter runs, its slot is READY, and its stream finds a tag (R176, R182, R212). -/
def trainFree (s : State) (c : Cmd) : Bool :=
  let tok := bit 1 (c.ar 2 1)
  s.srch.train.all (fun j => j.facet != c.facet || (j.slot != c.slot && !(tok && j.adapterSlot == some c.model))) &&
  (!tok || ((modOf s c.facet c.model).map fun m => m.state == 2).getD false) && tagFor s (.model c.tag)

/-- TRAIN admitted at a boundary: it takes e_t, and its encoding or its mining begins (R182, R183). -/
def beginTrain (c : Cmd) (ix : Index) (s : State) : State :=
  let tok := bit 1 (c.ar 2 1)
  let seed := BitVec.ofNat 64 (c.ar 24 8)
  let g := ix.geo
  let fresh := if tok then freshAdapter seed (c.ar 3 1) (((modelRec s c.facet c.model).map (·.nodes)).getD []) else []
  let j : TrainJob :=
    { tag := c.tag, facet := c.facet, slot := c.slot, et := (facetOf s c.facet).epoch, phase := if tok then 0 else 1,
      nextMine := 0, vectors := if tok then [] else trainInputs g c, lists := [], excluded := [], triples := [], reads := 0,
      failed := [], order := [], prng := seed, step := 0, epochNo := 0, w := projF32 (projOf ix ix.gen) g.sketchBits g.dims,
      v := List.replicate (g.sketchBits * g.dims) 0, loss := 0, startGen := ix.gen, steps := 0,
      adapter := fresh.map fun a => toF32 (bf16.decode a.toNat), adapterV := fresh.map fun _ => 0, acts := [], weights := [],
      encAd := (0, []), adapterSlot := if tok then some c.model else none, ending := false, partialFlag := false }
  let s1 := setPhase c.tag .running { s with srch := { s.srch with train := s.srch.train ++ [j] } }
  if tok then beginEnc c.tag c.facet c.model 6 1 (trainTokens c) s1 else s1

/-- Waiting TRAINs of a facet that may start, in fetch order (R182); one whose slot is EMPTY now is refused (R170, R176), and with no region
left they end (R267). -/
def admitTrains (f : Nat) (s : State) : State :=
  (s.cmds.filter fun c => c.op == .train && c.facet == f && c.phase == .waiting).foldl (fun t c =>
    match c.index t with
    | none => finish c stAborted 0 0 [] running0 t
    | some ix =>
      if bit 1 (c.ar 2 1) && ((modOf t c.facet c.model).map fun m => m.state == 0).getD true then finish c stInvalid 0 0 [] running0 t
      else if noRegion t c.facet then finish c stFacetFault 0 0 [] running0 t
      else if trainFree t c then beginTrain c ix t else t) s

/-- The mining search of one training query (R183): class BULK in priority, charged to TRAIN, without a deadline. -/
def mineQuery (ix : Index) (c : Cmd) (j : TrainJob) (ctx i cohort : Nat) : Query :=
  let graph := ix.geo.mode == 1
  { blankQuery ctx (.mine j.tag i) j.facet j.slot with
    cls := 14, k := c.rm, r := c.rm, nprobe := if graph then 0 else c.mining, beam := if graph then c.mining else 0,
    width := if graph then 4 else 0, vec := (j.vectors[i]?).getD [], epoch := j.et, cohort := cohort,
    stage := if graph then .sketch else .coarse }

-- Reading (R183, R184).

/-- The triples of a TRAIN (R184): by query, then i. -/
def formTriples (c : Cmd) (j : TrainJob) : List (Nat × Cand × Cand) :=
  ((List.range c.trainM).map fun q =>
    let l := look [] q j.lists
    (List.range c.pk).filterMap fun i => match l[i]?, l[c.tt + i]? with
      | some p, some n => some (q, p.cand, n.cand)
      | _, _ => none).flatten

/-- The reading phase begins: the candidates that triples use, each once, by unit (R183). -/
def beginReading (ix : Index) (c : Cmd) (j : TrainJob) (s : State) : State :=
  let ts := formTriples c j
  let us := byUnit ix.geo (nub (ts.map fun t => [t.2.1, t.2.2]).flatten)
  us.foldl (fun t u => issueRead u.1 2 none (.mine j.tag u.2) t)
    { s with srch := { s.srch with train := updFirst (·.tag == j.tag) (fun _ => { j with triples := ts, phase := 2, reads := us.length }) s.srch.train } }

/-- The optimiser phase begins: triples whose vectors could not be read are left out, and the first order is drawn (R187,
R188). -/
def beginSteps (j : TrainJob) : TrainJob :=
  let ts := j.triples.filter fun t => !j.failed.contains t.2.1 && !j.failed.contains t.2.2
  let o := epochOrder j.prng ts.length
  { j with triples := ts, phase := 3, order := o.2, prng := o.1, partialFlag := j.partialFlag || !j.failed.isEmpty }

/-- FP32 outputs of all nodes for TRAIN's token sequences: one row for each token, or for each sequence behind a pooling (R191). -/
def actBytes (m : ModelRec) (c : Cmd) : Nat :=
  let tokens := ((trainTokens c).map (·.length)).sum
  4 * (m.nodes.zipIdx.map fun p => p.1.outWidth * (if perSeq m.nodes (m.nodes.length + 1) p.2 then c.trainM else tokens)).sum

/-- TRAIN's workspace (R189; log 35): query and candidate vectors, three FP32 copies of W, step data, and with an adapter the saved forward
outputs. -/
def trainWorkspace (s : State) (c : Cmd) (g : Geometry) : Nat :=
  let vb := g.dims * elemSize g.storage
  c.trainM * (1 + 2 * c.pk) * vb + 3 * 4 * g.sketchBits * g.dims + 8 * 3 * c.bb * g.sketchBits +
  (if bit 1 (c.ar 2 1) then ((modelRec s c.facet c.model).map fun m => actBytes m c).getD 0 else 0)

/-- The vectors in TRAIN's workspace: its queries, then the candidates that its triples use (R183, R189; log 41). -/
def trainImage (ix : Index) (j : TrainJob) : Bytes :=
  (j.vectors ++ (nub (j.triples.flatMap fun t => [t.2.1, t.2.2])).map (candVec ix j.et)).flatten

/-- TRAIN's workspace is written in the facet's HBM (R183, R189): its blocks have their checks (R214), and the stream that brings it to the engine of the
facet's first live region is armed (R208). -/
def armTrain (ix : Index) (j : TrainJob) (s : State) : State :=
  let base := freeBase j.facet j.slot workKey
  let img := trainImage ix j
  let r := (liveRegions s j.facet).headD 0
  armRuns (.model j.tag) r (0x200 + r) j.facet 6 0 base (cdiv img.length 2048) (Config.diagnostic s.free).toNat
    (useFree (storeChecks j.facet j.slot [((workKey, base), img)] s))

/-- Bytes of the workspace that a step on n triples reads: their vectors, the three copies of W, its step data, and with an adapter its share of the
saved outputs (R186, R189, R191; log 41). -/
def stepBytes (s : State) (c : Cmd) (g : Geometry) (n : Nat) : Nat :=
  3 * n * g.dims * elemSize g.storage + 3 * 4 * g.sketchBits * g.dims + 8 * 3 * n * g.sketchBits +
  (if bit 1 (c.ar 2 1) then ((modelRec s c.facet c.model).map fun m => actBytes m c).getD 0 * n / max 1 c.trainM else 0)

/-- FP32 values as BF16 codes (R153). -/
def bfCodes (l : List F32) : List (BitVec 16) := l.map fun a => BitVec.ofNat 16 (bf16.convert (ofF32 a)).1

/-- Saturations of TRAIN's last conversions, of W and of the adapter (R153, R169, R189, R192). -/
def endSats (c : Cmd) (j : TrainJob) : Nat :=
  (if bit 0 (c.ar 2 1) then packSats 8 j.w else 0) + (if j.adapterSlot.isSome then packSats 8 j.adapter else 0)

/-- The 64-byte report (R288). -/
def trainReport (c : Cmd) (j : TrainJob) : Bytes :=
  padTo 64 (leBytes 8 j.et ++ leBytes 4 j.startGen ++ leBytes 4 c.trainM ++ leBytes 4 j.triples.length ++ leBytes 4 j.steps ++
    leBytes 4 j.loss.toNat ++ leBytes 4 j.vectors.length ++ leBytes 4 j.excluded.length)

/-- TRAIN completes (R189, R192, R288): the learned W becomes the pending projection, the adapter waits for the boundary. -/
def endTrain (c : Cmd) (j : TrainJob) (s : State) : State :=
  let w := bfCodes j.w
  let s1 := if bit 0 (c.ar 2 1) then updIdx j.facet j.slot (fun i => { i with pendingProj := some w }) s else s
  let s2 := match j.adapterSlot with
    | some m => updMod j.facet m (fun x => { x with newAdapter := some (c.ar 3 1, bfCodes j.adapter) }) s1
    | none => s1
  let s3 := bump j.facet (kCls 6 14) (endSats c j) <| closeStreams (·.user == .model j.tag) <| bump j.facet (kCls 6 25) 1 (if j.partialFlag then bump j.facet (kCls 6 27) 1 s2 else s2)
  finish c stOk (flagBit 1 j.partialFlag) 0
    (leBytes 4 j.triples.length ++ leBytes 4 j.steps ++ leBytes 4 j.loss.toNat ++ leBytes 4 j.startGen) running0
    (writeHost c c.resultAddr (trainReport c j) { s3 with srch := { s3.srch with train := s3.srch.train.filter (·.tag != j.tag) } })

/-- A TRAIN that is ended: nothing is kept (R182, R176, R259). -/
def abortTrain (c : Cmd) (s : State) : State := endCmd stAborted c s

-- One optimiser step (R185 to R187).

/-- BF16 row of a vector for step 1 of R186; a cosine query is taken as its sketch takes it (R58; log 41). -/
def stepRow (g : Geometry) (isQuery : Bool) (v : Bytes) : QRow :=
  (quantRow 8 false (elems g.storage g.dims (if isQuery then storeVec g v else v))).1

/-- Column i of rows of plain numbers. -/
def plainCol (rows : List QRow) (i : Nat) : QRow := .plain (rows.map fun r => (r.nums[i]?).getD (.fin false 0 0))

/-- The constants of a step: sharpness, 1/S divisor and the header's margin, learning rate, momentum, decay. -/
structure StepConst where
  beta : F32
  size : F32
  head : TrainHead
deriving DecidableEq, Repr

/-- a = tanh(β z) (R185). -/
def relaxed (k : StepConst) (z : List F32) : List F32 := z.map fun x => tanhF (mulF k.beta x)

/-- h(x, y) (R185): its sum's order is not given (log 10). -/
def similarity (k : StepConst) (x y : List F32) : F32 := divF (sumF (List.zipWith mulF x y)) k.size

/-- Loss of a triple (R185). -/
def tripleLoss (k : StepConst) (q p n : List F32) : F32 :=
  maxF 0 (addF (subF k.head.margin (similarity k q p)) (similarity k q n))

/-- dA of a triple's three rows (R186). -/
def tripleGrad (k : StepConst) (q p n : List F32) : List (List F32) :=
  if 0 < keyF (tripleLoss k q p n) then
    [List.zipWith (fun a b => divF (subF a b) k.size) n p, q.map fun a => divF (negF a) k.size, q.map fun a => divF a k.size]
  else List.replicate 3 (q.map fun _ => 0)

/-- dZ = dA × β × (1 − A²) as BF16, with the saturations of that conversion (R169, R186). -/
def gradRow (k : StepConst) (a d : List F32) : QRow × Nat :=
  quantRow 8 false (List.zipWith (fun x y => ofF32 (mulF (mulF y k.beta) (subF 0x3F800000#32 (mulF x x)))) a d)

/-- The update of R187, element by element: the new w and v. -/
def updateW (k : StepConst) (dw w v : List F32) : List F32 × List F32 :=
  let g := List.zipWith (fun d x => addF d (mulF k.head.decay x)) dw w
  let v' := List.zipWith (fun y h => addF (mulF k.head.momentum y) h) v g
  (List.zipWith (fun x y => subF x (mulF k.head.eta y)) w v', v')

/-- The first n elements, filled up with zeros. -/
def padF (n : Nat) (l : List F32) : List F32 := l.take n ++ List.replicate (n - l.length) 0

/-- Rows of a flat matrix. -/
def rowsOf (n : Nat) (l : List F32) : List (List F32) := (List.range (l.length / n)).map fun i => (l.drop (n * i)).take n

-- The backward pass of an adapter (R191).

/-- Columns of rows of n elements. -/
def transposeF (n : Nat) (rows : List (List F32)) : List (List F32) := (List.range n).map fun j => rows.map fun r => r.getD j 0

/-- Every row of one operand against every row of the other, as BF16 operands with FP32 accumulation, with the saturations of conversions and
drain (R158, R161, R169, R191; log 11). -/
def bfProduct (a b : List (List F32)) : List (List F32) × Nat :=
  let x := a.map bfOf
  let y := b.map bfOf
  let ds := List.zipWith (fun r l => drainAll (y.map fun c => tileDot 8 l r.1 c.1)) x (a.map (·.length))
  (ds.map (·.1), (ds.map (·.2)).sum + (x.map (·.2)).sum + (y.map (·.2)).sum)

/-- Sum of rows of gradients. -/
def addGrad (a b : List (List F32)) : List (List F32) := List.zipWith (List.zipWith addF) a b

/-- What the backward pass of a matrix with its adapter pair gives: the gradients of A and of B, dx, saturations. -/
structure PairGrad where
  dA : List F32
  dB : List F32
  dx : List (List F32)
  sats : Nat
deriving DecidableEq, Repr

/-- A K × N weight matrix with the adapter pair (A, B) of rank ρ at `off` of the adapter's elements (R191): dA = xᵀ·(dY·Bᵀ), dB = (x·A)ᵀ·dY,
dx = dY·Wᵀ + (dY·Bᵀ)·Aᵀ, over all rows in ascending order. W is expanded exactly to BF16. -/
def pairGrad (fmt rank k n woff off : Nat) (w : Bytes) (ad : List F32) (x dy : List (List F32)) : PairGrad :=
  let aRows := (List.range k).map fun i => (ad.drop (off + i * rank)).take rank
  let bRows := (List.range rank).map fun r => (ad.drop (off + k * rank + r * n)).take n
  let wRows := transposeF k ((List.range n).map fun j => (weightCol fmt k n woff j w).nums.map toF32)
  let p := bfProduct dy bRows
  let mid := bfProduct x (transposeF rank aRows)
  let da := bfProduct (transposeF k x) (transposeF rank p.1)
  let db := bfProduct (transposeF rank mid.1) (transposeF n dy)
  let viaW := bfProduct dy wRows
  let viaA := bfProduct p.1 aRows
  ⟨da.1.flatten, db.1.flatten, addGrad viaW.1 viaA.1, p.2 + mid.2 + da.2 + db.2 + viaW.2 + viaA.2⟩

/-- Derivative of GELU's tanh form times dY (R168, R191; log 11). -/
def geluBack (x dy : F32) : F32 :=
  let h := 0x3F000000#32
  let one := 0x3F800000#32
  let th := tanhF (geluArg x)
  let inner := mulF 0x3F4C422A#32 (addF one (mulF 0x3E095D4F#32 (mulF x x)))
  mulF dy (addF (mulF h (addF one th)) (mulF (mulF (mulF h x) (subF one (mulF th th))) inner))

/-- Layer norm backward in FP32 with the saved mean and variance, its sums in lane order (R191; log 11). -/
def normBack (e : Nat) (g x dy : List F32) : List F32 :=
  let p := normParts e x
  let n := natF x.length
  let hat := p.1.map fun a => mulF a p.2
  let dg := List.zipWith mulF dy g
  let m1 := divF (laneSum dg) n
  let m2 := divF (laneSum (List.zipWith mulF dg hat)) n
  List.zipWith (fun d h => mulF p.2 (subF (subF d m1) (mulF h m2))) dg hat

/-- Softmax backward in FP32: P × (dP − Σ dP × P) (R191; log 11). -/
def softmaxBack (p dp : List F32) : List F32 :=
  let t := sumF (List.zipWith mulF dp p)
  List.zipWith (fun a d => mulF a (subF d t)) p dp

/-- Pooling backward (R191): the mean shares, the first token takes all, a maximum goes to the lowest-numbered token that holds it. -/
def poolBack (mode : Nat) (x : List (List F32)) (dy : List F32) : List (List F32) :=
  x.zipIdx.map fun r =>
    if mode == 0 then dy.map fun d => divF d (natF x.length)
    else if mode == 1 then (if r.2 == 0 then dy else dy.map fun _ => 0)
    else dy.zipIdx.map fun d =>
      let col := x.map fun y => keyF (y.getD d.2 0)
      if col.findIdx (· == col.foldl max (col.headD 0)) == r.2 then d.1 else 0

/-- One head backward for a sequence (R191): from dO, through P·V, the softmax and Q·Kᵀ. Answers dQ, dK, dV and saturations. -/
def headBack (q k v p dO : List (List F32)) : List (List F32) × List (List F32) × List (List F32) × Nat :=
  let n := q.length
  let dh := (q.headD []).length
  let dp := bfProduct dO v
  let dv := bfProduct (transposeF n p) (transposeF dh dO)
  let sc := rsqrtF (natF dh)
  let ds := List.zipWith (fun a b => (softmaxBack a b).map fun x => mulF x sc) p dp.1
  let dq := bfProduct ds (transposeF dh k)
  let dk := bfProduct (transposeF n ds) (transposeF dh q)
  (dq.1, dk.1, dv.1, dp.2 + dv.2 + dq.2 + dk.2)

/-- All heads backward for a sequence: `qkv` and `mid` are the rows that the forward rounds gave. -/
def headsBack (d h : Nat) (qkv mid dctx : List (List F32)) : List (List F32) × List (List F32) × List (List F32) × Nat :=
  let n := qkv.length
  let hs := (List.range h).map fun i =>
    let part := fun (m : Nat) => qkv.map fun r => headPart d h i ((r.drop (m * d)).take d)
    headBack (part 0) (part 1) (part 2) (mid.map fun r => (r.drop (d + n * i)).take n) (dctx.map (headPart d h i))
  let join := fun (f : List (List F32) × List (List F32) × List (List F32) × Nat → List (List F32)) =>
    (List.range n).map fun r => (hs.map fun x => (f x).getD r []).flatten
  (join (·.1), join (·.2.1), join (·.2.2.1), (hs.map (·.2.2.2)).sum)

/-- The backward pass on its way down the graph: gradients that have reached each node, sequence by sequence, the adapter's gradients of
the nodes passed, saturations. -/
structure Back where
  grads : List (Nat × List (List (List F32)))
  adapter : List F32
  sats : Nat
deriving DecidableEq, Repr

/-- A gradient that reaches an input of a node; one that has several consumers takes their sum (R191; log 11). -/
def Back.reach (b : Back) (name : Nat) (g : List (List (List F32))) : Back :=
  if name == 0xFFFF || name == 0xFFFE then b
  else { b with grads := put name (if b.grads.any (·.1 == name) then List.zipWith addGrad (look [] name b.grads) g else g) b.grads }

/-- A node passed backward (R191). `acts` gives the saved rows of a name for the step's sequences. No gradient reaches a node whose output no other
node reads: those of its adapter pairs are zero, and it passes none on. -/
def backNode (j : TrainJob) (rank : Nat) (nd : ModelNode) (num aoff : Nat) (acts : Nat → List (List (List F32))) (b : Back) : Back :=
  let s := fun i => nd.shape.getD i 0
  let dy := look [] num b.grads
  let x := acts nd.inA
  let lens := x.map (·.length)
  if !(b.grads.any (·.1 == num)) then { b with adapter := List.replicate (pairElems rank [nd]) 0 ++ b.adapter }
  else match nd.op with
  | 0 =>
    let r := pairGrad nd.format rank (s 0) (s 1) nd.woff aoff j.weights j.adapter x.flatten dy.flatten
    (({ b with adapter := r.dA ++ r.dB ++ b.adapter, sats := b.sats + r.sats }).reach nd.inA (bySequence r.dx lens)).reach nd.inB dy
  | 1 =>
    let d := s 0
    let mb := matrixBytes nd.format d d
    let pg := fun (m : Nat) (x dy : List (List F32)) =>
      pairGrad nd.format rank d d (nd.woff + m * mb) (aoff + m * 2 * d * rank) j.weights j.adapter x dy
    let mid := acts (roundName num 1)
    let o := pg 3 (mid.flatten.map fun r => r.take d) dy.flatten
    let dctx := bySequence o.dx lens
    let hb := ((acts (roundName num 0)).zip (mid.zip dctx)).map fun t => headsBack d (max 1 (s 1)) t.1 t.2.1 t.2.2
    let q := pg 0 x.flatten (hb.map (·.1)).flatten
    let k := pg 1 x.flatten (hb.map (·.2.1)).flatten
    let v := pg 2 x.flatten (hb.map (·.2.2.1)).flatten
    let da := q.dA ++ q.dB ++ k.dA ++ k.dB ++ v.dA ++ v.dB ++ o.dA ++ o.dB
    let sats := o.sats + (hb.map (·.2.2.2)).sum + q.sats + k.sats + v.sats
    (({ b with adapter := da ++ b.adapter, sats := b.sats + sats }).reach nd.inA
      (bySequence (addGrad (addGrad q.dx k.dx) v.dx) lens)).reach nd.inB dy
  | 2 => b.reach nd.inA (List.zipWith (List.zipWith (normBack (s 1) (weightF32 nd.woff (s 0) j.weights))) x dy)
  | 3 => b.reach nd.inA (List.zipWith (List.zipWith (List.zipWith geluBack)) x dy)
  | 4 => b.reach nd.inA (List.zipWith (List.zipWith softmaxBack) (acts num) dy)
  | 5 => b.reach nd.inA (List.zipWith (fun xs d => poolBack (s 1) xs (d.headD [])) x dy)
  | _ => b

/-- The gradients of the adapter for a step: dX of the q rows flows back from the output node, whose first row of each sequence is its query
vector, down to the embedding (R186, R191; log 40). -/
def backward (j : TrainJob) (rank : Nat) (nodes : List ModelNode) (qs : List Nat) (dx : List (List F32)) : List F32 × Nat :=
  let acts := fun (name : Nat) => qs.map fun q => (look [] name j.acts).getD q []
  let out := nodes.length - 1
  let top := List.zipWith (fun rows g =>
    rows.zipIdx.map fun r => if r.2 == 0 then padF r.1.length g else r.1.map fun _ => 0) (acts out) dx
  let b := ((nodes.zipIdx).reverse).foldl (fun b p =>
    backNode j rank p.1 p.2 (pairElems rank (nodes.take p.2)) acts b) (⟨[(out, top)], [], 0⟩ : Back)
  (b.adapter, b.sats)

/-- One step on some triples (R185 to R187, R191): the job with its new W, v, adapter and loss, and the saturations of its conversions and
drains. -/
def trainStep (ix : Index) (c : Cmd) (nodes : List ModelNode) (j : TrainJob) (ts : List (Nat × Cand × Cand)) : TrainJob × Nat :=
  let g := ix.geo
  let k : StepConst := ⟨f32At (c.ar 20 4), natF g.sketchBits, readTrainHead c.data⟩
  let x := (ts.map fun t => [stepRow g true ((j.vectors[t.1]?).getD []), stepRow g false (candVec ix j.et t.2.1),
    stepRow g false (candVec ix j.et t.2.2)]).flatten
  let wr := (rowsOf g.dims j.w).map bfOf
  let z := x.map fun r => drainAll (wr.map fun w => tileDot 8 g.dims r w.1)
  let a := z.map fun r => relaxed k r.1
  let three := (List.range ts.length).map fun i => (a.getD (3 * i) [], a.getD (3 * i + 1) [], a.getD (3 * i + 2) [])
  let da := (three.map fun t => tripleGrad k t.1 t.2.1 t.2.2).flatten
  let gs := List.zipWith (gradRow k) a da
  let dz := gs.map (·.1)
  let dw := (List.range g.sketchBits).map fun b =>
    drainAll ((List.range g.dims).map fun i => tileDot 8 x.length (plainCol dz b) (plainCol x i))
  let loss := three.foldl (fun acc t => addF acc (tripleLoss k t.1 t.2.1 t.2.2)) 0
  let wv := updateW k (dw.map (·.1)).flatten j.w j.v
  let qs := (List.range ts.length).map (3 * ·)
  let dx := qs.map fun i => drainAll ((List.range g.dims).map fun d => tileDot 8 g.sketchBits (dz.getD i (.plain [])) (plainCol (wr.map (·.1)) d))
  let back := if j.adapterSlot.isSome then backward j (c.ar 3 1) nodes (ts.map (·.1)) (dx.map (·.1)) else ([], 0)
  let av := updateW k back.1 j.adapter j.adapterV
  let dxs := if j.adapterSlot.isSome then (dx.map (·.2)).sum + back.2 else 0
  let trainW := bit 0 (c.ar 2 1)
  ({ j with
     w := if trainW then wv.1 else j.w, v := if trainW then wv.2 else j.v, loss := addF j.loss loss,
     adapter := if j.adapterSlot.isSome then av.1 else j.adapter, adapterV := if j.adapterSlot.isSome then av.2 else j.adapterV },
   (wr.map (·.2)).sum + (z.map (·.2)).sum + (gs.map (·.2)).sum + (dw.map (·.2)).sum + dxs)

/-- What a step needs of memory and engines is granted to TRAIN: the state with its workspace read (R210, R218, R223). -/
def stepGrant (c : Cmd) (ix : Index) (j : TrainJob) (n : Nat) (s : State) : Option State :=
  if enginesOpen s j.facet 6 then
    allJobs j.facet 6 .ended (byteJobs s j.facet j.slot workKey (freeBase j.facet j.slot workKey) 0 (stepBytes s c ix.geo n)) s
  else none

/-- OPTIMISER_STEP: ends an ended TRAIN, or takes the next B triples; the last step of the last epoch completes the command. -/
def optimiserStep (tag : Nat) (s : State) : State :=
  match s.srch.train.find? (·.tag == tag), cmdOf s tag with
  | some j, some c =>
    if j.phase != 3 then s
    else match c.index s with
      | none => abortTrain c s
      | some ix =>
        if j.ending then abortTrain c s
        else
        let ts := ((j.order.drop (c.bb * j.step)).take c.bb).filterMap fun i => j.triples[i]?
        match stepGrant c ix j ts.length s with
        | none => s
        | some s0 =>
          let j0 := if j.step == 0 then { j with loss := 0 } else j
          let nodes := ((j.adapterSlot.bind (modelRec s j.facet)).map (·.nodes)).getD []
          let r := trainStep ix c nodes j0 ts
          let j1 := r.1
          let last := j.order.length ≤ c.bb * (j.step + 1)
          let o := epochOrder j.prng j.triples.length
          let j2 := if last then { j1 with step := 0, epochNo := j.epochNo + 1, steps := j.steps + 1, order := o.2, prng := o.1 }
            else { j1 with step := j.step + 1, steps := j.steps + 1 }
          let s1 := chargeWork j.facet 6 <| bump j.facet (kCls 6 14) r.2 <| bump j.facet (kCls 6 29) 1
            { s0 with free := s0.free + 1, srch := { s0.srch with train := updFirst (·.tag == tag) (fun _ => j2) s0.srch.train } }
          if last && c.ee ≤ j2.epochNo then endTrain c j2 s1 else s1
  | _, _ => s

/-- TRAINs whose phase has ended go on: all searches in, all vectors read, no triples to learn from (R183 to R187); one of those that was to
end at its next step ends now (R176, R182). -/
def trainProgress (s : State) : State :=
  s.srch.train.foldl (fun t j0 =>
    match t.srch.train.find? (·.tag == j0.tag), cmdOf t j0.tag with
    | some j, some c =>
      match idxOf t j.facet j.slot with
      | none => t
      | some ix =>
        let t1 := if j.phase == 1 && c.trainM ≤ j.lists.length + j.excluded.length then beginReading ix c j t else t
        match t1.srch.train.find? (·.tag == j0.tag) with
        | none => t1
        | some j1 =>
          if j1.phase == 2 && j1.reads == 0 && tagFor t1 (.model j1.tag) then
            let j2 := beginSteps j1
            let t2 := armTrain ix j2 { t1 with srch := { t1.srch with train := updFirst (·.tag == j0.tag) (fun _ => j2) t1.srch.train } }
            if j2.triples.isEmpty then (if j2.ending then abortTrain c t2 else endTrain c j2 t2) else t2
          else t1
    | _, _ => t) s

end Sys2Proof.Machine
end

