-- ==== Sys2Proof/Machine/Fetch.lean ====
section
/-! DEFINITION. Fetching an entry, its checks, its host data, and what starts when something ends (R41, R129, R229, R244,
R246, R247, R257, R262 to R266, R273). -/

namespace Sys2Proof.Machine

/-- The facet an admin command names (R269). One that names none has 0 in its error-log entry, with facet 0's epoch (R268; DESIGN CHOICE,
log 102). -/
def namedFacet (o : Op) (area : BitVec 256) : Nat :=
  let b := fun (off : Nat) => area.toNat / 256 ^ off % 256
  match o with
  | .identify => b 1
  | .getLog => b 1
  | .setFeature => b 1
  | .getFeature => b 1
  | .createQp => b 1
  | .facetCreate => b 0
  | .facetDestroy => b 0
  | .indexCreate => b 0
  | .indexDrop => b 0
  | _ => 0

/-- The command an entry makes when it is fetched under a tag. -/
def newCmd (s : State) (o : Op) (e : Entry) (facet tag : Nat) : Cmd :=
  { tag := tag, op := o, qp := e.qp, cid := e.cid.toNat, facet := facet, seq := s.fetchSeq, at' := now s,
    flags := e.flags.toNat, rsv4 := e.rsv4.toNat, rsv14 := e.rsv14.toNat, dataAddr := e.dataAddr.toNat,
    dataLen := e.dataLen.toNat, resultAddr := e.resultAddr.toNat, area := e.area, phase := .waiting, data := [],
    lock := none, reads := 0, failedReads := [], counted := false, epoch := 0, notFound := 0, firstSide := 0, ef := none, told := [],
    recs := [], left := 0, results := [], partialFlag := false, mark := 0, asked := 0, fenced := false, drain := [], aborters := [], busy := [] }

/-- Completions posted on a pair and not yet released (R244). -/
def unreleased (q : Qp) : Nat := ringCount q.depth q.cqHead q.cqTail

/-- The ring allows a fetch: an entry waits and its completion will find a slot (R243, R244, R256). -/
def ringReady (q : Qp) : Bool := q.state == 1 && q.sqHead != q.sqTail && q.inFlight + unreleased q + 1 < q.depth

/-- A facet's tag floor (R229). -/
def tagFloor (s : State) (f : Nat) : Nat :=
  let act := (s.cfg.facets.filter fun r => (facetOf s r.facet).state == 1).map (·.shares)
  if act.sum == 0 then 0 else 65472 * sharesOf s f / act.sum

/-- Tags a facet's I/O commands hold. -/
def tagsOf (s : State) (f : Nat) : Nat := (s.cmds.filter fun c => !isAdmin c.op && c.facet == f).length

/-- Free ones of the tags that are not reserved for the admin queue (R229). -/
def sharedTagsFree (s : State) : Nat := 65472 - (s.cmds.filter fun c => c.qp != 0).length

/-- While 4,096 or fewer of them are free, only facets below their floor are fetched from (R229). -/
def tagPaused (s : State) (q : Qp) : Bool := q.num != 0 && sharedTagsFree s ≤ 4096 && tagFloor s q.facet ≤ tagsOf s q.facet

/-- The module fetches from its pairs: started with the link up (R341); not for I/O while a full image is being loaded (R42), while the
facet is FROZEN (R47) or before the facet admits I/O after a reset (R341; log 20). -/
def fetching (s : State) (q : Qp) : Bool :=
  (s.brd.phase == .starting || s.brd.phase == .running) && !s.brd.fatal && s.hif.ready && s.hif.linkUp &&
  (q.num == 0 || ((s.lat.load.all (·.part)) && (facetOf s q.facet).rebuilt && (facetOf s q.facet).state != 2))

/-- A pair from which an entry can be fetched now, with a tag free for it (R229, R244). -/
def fetchable (s : State) (q : Qp) : Bool := fetching s q && ringReady q && !tagPaused s q && (freeTag s (q.num == 0)).isSome

/-- The pair of the fetch arbiter's next entry (R16, R244): the one whose grant runs, up to 8 entries, else the next one in rotating order. -/
def fetchWinner (s : State) : Option Nat :=
  let next := ((sortBy (fun (a b : Qp) => turnKey s arbFetch 256 a.num ≤ turnKey s arbFetch 256 b.num) (s.qps.filter (fetchable s))).head?).map (·.num)
  match s.hif.grant with
  | some g => if (qpOf s g.1).any (fetchable s) then some g.1 else next
  | none => next

/-- One entry of the arbiter's grant fetched from a pair; the grant ends with the eighth or when nothing is left to fetch (R244). -/
def countGrant (q : Nat) (s : State) : State :=
  let n := match s.hif.grant with
    | some g => if g.1 == q then g.2 else 0
    | none => 0
  let s1 := if n == 0 then rotateTo arbFetch q s else s
  { s1 with hif := { s1.hif with grant := if n + 1 < 8 && (qpOf s q).any (fetchable s) then some (q, n + 1) else none } }

/-- In PS3, fetching an I/O command or one of R41 returns the module to PS2 (R262); the change of the health word is counted (R253). -/
def wake (o : Op) (s : State) : State :=
  if s.brd.psNow == 3 && assigned (opcode o) && (!isAdmin o || isSerial o) then
    countHealth s { s with brd := { s.brd with psNow := 2, psSel := 2, woken := true } }
  else s

/-- The fetch itself: tag, tag state word, slot-tag map, SQ head (R243, R251, R252). -/
def takeEntry (c : Cmd) (q : Qp) (s : State) : State :=
  let s1 := useFree { s with cmds := s.cmds ++ [c], fetchSeq := s.fetchSeq + 1 }
  let s2 := updTag c.tag (fun t => ⟨c.tag, 1, false, c.qp, c.cid, (t.use + 1) % 65536, 0⟩) s1
  updQp q.num (fun x => { x with
    slotTags := put x.sqHead c.tag x.slotTags, sqHead := if x.sqHead + 1 == x.depth then 0 else x.sqHead + 1,
    inFlight := x.inFlight + 1 }) s2

/-- A read of host memory asked for; the command waits for its completion (R238, R246). -/
def askData (c : Cmd) (addr len : Nat) (s : State) : State :=
  emit (.hostRead c.tag addr len) (setPhase c.tag .reading (updCmd c.tag (fun x => { x with asked := now s }) s))

/-- RESKETCH's own conditions in order (R147, R189, R288), then its commit at E_s: the pending projection becomes generation
g + 1, in use beside g, converted once into the stage-1 format (R190). It waits while the index is being migrated away (R311), and with no
region left it ends (R267). -/
def beginResketch (c : Cmd) (s : State) : State :=
  match c.index s with
  | none => refuse c stInvalid 3 0 0x20 s
  | some ix =>
    let g := ix.geo
    let rec1 := g.sketchBits / 8 + 8
    let biggest := (ix.lists.map fun d => (curCopy d).pos.length).foldl max 0
    let need := if g.mode == 0 then biggest * rec1 else 65536 * rec1
    if migHolds s c.facet c.slot then setPhase c.tag .waiting s
    else match ix.pendingProj with
    | none => refuse c stInvalid 6 0 0x20 s
    | some w =>
      if ix.trans.isSome then refuse c stBusy 6 0 0xFFFFFFFF s
      else if hbmFree s c.facet < need then refuse c stCapacity 6 0 0xFFFFFFFF s
      else if noRegion s c.facet then finish c stFacetFault 0 0 [] running0 s
      else
        let es := commitEpoch (facetOf s c.facet)
        let up := fun (i : Index) => { i with
          pendingProj := none, gen := i.gen + 1, projs := i.projs ++ [(i.gen + 1, .learned (stageFormat s c.facet 1 g.storage).1 w)],
          starts := i.starts ++ [(i.gen + 1, es)], trans := some ⟨c.tag, es, i.gen, 0⟩ }
        keepTables c.facet c.slot (markChanged c.facet (setPhase c.tag .running (updCmd c.tag (fun x => { x with epoch := es }) (updIdx c.facet c.slot up s))))

/-- Bytes of a model slot's own weights and adapter. -/
def slotBytes (m : ModelSlot) : Nat := m.weights.length + m.adapterBytes

/-- A MODEL_LOAD that fails leaves its slot EMPTY (R176). -/
def emptySlot (f slot : Nat) (s : State) : State :=
  updMod f slot (fun m => { m with state := 0, weights := [], adapter := [], adapterRank := 0, newAdapter := none,
                                   prefetched := false, stackedBytes := 0, toReady := none }) s

/-- MODEL_LOAD's own condition (R175) with its data read: the weights fit, and their flash writes begin under BULK (R219). -/
def beginModelLoad (c : Cmd) (s : State) : State :=
  match modOf s c.facet c.model with
  | none => refuse c stInvalid 3 0 0x20 s
  | some m =>
    let hbm := hbmShare s c.facet - (hbmCharged s c.facet - (slotBytes m - m.stackedBytes))
    let stk := stackedShare s c.facet - (stackedUsed s c.facet - m.stackedBytes)
    if hbm + stk < c.ar 8 8 then refuse c stCapacity 6 0 0xFFFFFFFF (emptySlot c.facet c.model s)
    else queueCmdSeg 2 c.facet c.tag (setPhase c.tag .running s)

/-- A QUERY or QUERY_BATCH joins its facet's admission queue (R83, R230); at the root of a domain it is cast (R301, R303). -/
def beginQuery (c : Cmd) (s : State) : State :=
  if domainRoot s then beginDomain c s
  else setPhase c.tag .waiting (updFacet c.facet (fun x => { x with admission := x.admission ++ [c.tag] }) s)

/-- What a command does once checks 1 to 5 have passed. -/
def beginCmd (c : Cmd) (s : State) : State :=
  match c.op with
  | .identify => beginIdentify c s
  | .getLog => beginGetLog c s
  | .setFeature => beginSetFeature c s
  | .getFeature => beginGetFeature c s
  | .fwDownload => beginFwDownload c s
  | .fwCommit => beginFwCommit c s
  | .createQp => beginCreateQp c s
  | .deleteQp => deletePair c s
  | .abort => abortCmd c s
  | .resumeQp => resumePair c s
  | .loadLattice => beginLoad c s
  | .facetCreate => beginFacetCreate c s
  | .facetDestroy => beginFacetDestroy c s
  | .indexCreate => beginIndexCreate c s
  | .indexDrop => setPhase c.tag .waiting s
  | .evrControl => beginEvrControl c s
  | .query => beginQuery c s
  | .queryBatch => beginQuery c s
  | .insert => setPhase c.tag .waiting s
  | .delete => setPhase c.tag .waiting s
  | .labelUpdate => setPhase c.tag .waiting s
  | .fetch => setPhase c.tag .waiting s
  | .flush => beginFlush c s
  | .train =>
    match c.index s with
    | none => refuse c stInvalid 3 0 0x20 s
    | some ix => if hbmFree s c.facet < trainWorkspace s c ix.geo then refuse c stCapacity 6 0 0xFFFFFFFF s
      else setPhase c.tag .waiting s
  | .resketch => beginResketch c s
  | .encode => setPhase c.tag .waiting s
  | .modelLoad => beginModelLoad c s
  | .other _ => s

/-- A command whose early checks have passed: it asks for its data, or begins. A MODEL_LOAD is accepted here, and a
TRAIN of the slot's adapter will end at its next step (R170, R176). -/
def acceptCmd (c : Cmd) (s : State) : State :=
  let ends := fun (j : TrainJob) => if j.facet == c.facet && j.adapterSlot == some c.model then { j with ending := true } else j
  let s1 := if c.op == .modelLoad then
      updMod c.facet c.model (fun m => { m with state := 1 }) { s with srch := { s.srch with train := s.srch.train.map ends } }
    else s
  if inputLen c == 0 then beginCmd c s1 else askData c c.dataAddr (inputLen c) s1

/-- Checks 1 to 4, then acceptance (R266). A MODEL_LOAD that check 3 refuses (R175's byte count) has not been accepted, so it has not changed its
slot: "a refused check" of R176 is read as one after acceptance (DESIGN CHOICE, log 101). -/
def checkCmd (c : Cmd) (s : State) : State :=
  match earlyChecks s c with
  | some (st, w) => finish c st 0 0 [] w s
  | none => acceptCmd c s

/-- Checks 1 to 4 of a command that waited for its turn: its facet was ACTIVE at the fetch, and what was fetched runs though the facet has
frozen since (R47, R235). -/
def turnChecks (s : State) (c : Cmd) : Option (Nat × ErrAt) :=
  earlyChecks (if !isAdmin c.op && (facetOf s c.facet).state == 2 then updFacet c.facet (fun x => { x with state := 1 }) s else s) c

/-- A command of R41 at its turn (log 19). -/
def turnCmd (c : Cmd) (s : State) : State :=
  match turnChecks s c with
  | some (st, w) => finish c st 0 0 [] w s
  | none => acceptCmd c s

/-- A command of R41 is under way. -/
def serialBusy (s : State) : Bool := s.cmds.any fun c => isSerial c.op && c.phase != .turn

/-- The next commands of R41 begin in turn, each when the one before has completed (log 19). -/
def startSerial : Nat → State → State
  | 0, s => s
  | n + 1, s =>
    if serialBusy s then s
    else match s.cmds.find? fun c => c.phase == .turn with
      | none => s
      | some c =>
        let c' := { c with phase := .waiting }
        startSerial n (turnCmd c' (updCmd c.tag (fun _ => c') s))

/-- FW_DOWNLOADs and FW_COMMITs that waited for an FW_COMMIT run in fetch order (R273). -/
def startFirmware (s : State) : State :=
  (s.cmds.filter fun c => c.phase == .waiting && (c.op == .fwDownload || c.op == .fwCommit)).foldl
    (fun t c => if t.fw.committing.isSome then t
      else if c.op == .fwDownload then beginFwDownload c t else beginFwCommit c t) s

/-- The next power-state transition that waited begins (R262). -/
def startPower (s : State) : State :=
  match s.brd.trans, s.brd.psQueue with
  | none, t :: ts => match cmdOf s t with
    | some c => beginPower c { s with brd := { s.brd with psQueue := ts } }
    | none => { s with brd := { s.brd with psQueue := ts } }
  | _, _ => s

/-- RESKETCHes that waited for the end of a migration begin (R311). -/
def startResketches (s : State) : State :=
  (s.cmds.filter fun c => c.op == .resketch && c.phase == .waiting).foldl (fun t c => beginResketch c t) s

/-- Every facet's map cache within its 4 GiB (R73). -/
def trimCaches (s : State) : State := (nub (s.idx.map (·.geo.facet))).foldl (fun t f => trimCache f t) s

/-- What can go on after something ended: reads of lost units, pairs being deleted, commands that an ABORT has stopped, casts, a migration, TRAINs,
commands of R41, firmware commands, power transitions, RESKETCHes, FLUSHes, FETCHes, locks, dropped indexes, scans and walks that waited for grants,
flash reads, idle engines and cells; and the map caches keep to their size. -/
def settle (s : State) : State :=
  let s1 := dropProgress (trainProgress (migProgress (chordProgress (deletePairs (endStopped (goneReads s))))))
  let s2 := startResketches (startPower (startFirmware (startSerial (s1.cmds.length + 1) s1)))
  let s3 := waitingMerges (waitingScans (stalledWalks (grantLocks (fetches (flushes s2)))))
  trimCaches (grantCells (grantEngines (resumeCells (fetches (goneReads (startReads s3))))))

/-- The command an entry holds: the row's, or none that R263 assigns (log 1). -/
def entryOp (o : Op) (e : Entry) : Op :=
  match e.badOpcode with
  | some b => if assigned b.toNat then o else .other b.toNat
  | none => o

/-- A pair's entry fetched and handled; an entry that cannot be fetched now, or not before another pair's, stays in its ring (R229, R244;
log 4). A command of R41 fetched while another is held waits for its turn (log 19). An entry that RESUME_QP discards is not run (R257). -/
def fetchEntry (row : Op) (e : Entry) (s : State) : State :=
  match qpOf s e.qp with
  | none => s
  | some q =>
    let o := entryOp row e
    if !fetching s q || !ringReady q then s
    else if tagPaused s q then bump q.facet kPause 1 s
    else if fetchWinner s != some q.num then s
    else match freeTag s (q.num == 0) with
      | none => s
      | some t =>
        let f := if q.num == 0 then namedFacet o e.area else q.facet
        let c := newCmd s o e f t
        let s1 := wake o (countGrant q.num (takeEntry c q s))
        if q.discardTo.isSome then
          settle (endDiscard q.num (finish c stAborted 0 0 [] running0 (updQp q.num (fun x => { x with discarded := x.discarded + 1 }) s1)))
        else
          let twin := s1.cmds.any fun x => x.tag != t && x.qp == c.qp && x.cid == c.cid
          let after := s1.cmds.any fun x => x.tag != t && isSerial x.op
          if after && isSerial o && check1 c && !twin then
            let c' := { c with phase := .turn }
            settle (updCmd t (fun _ => c') s1)
          else settle (checkCmd c s1)

/-- TRAIN's header has arrived: the window of the inputs that follow it is checked, then its contents (R266), and the inputs are asked for
(R264, R287). -/
def trainHeader (c : Cmd) (d : Bytes) (s : State) : State :=
  let n := (readTrainHead d).inputLen
  if !inWindows s c.qp c.facet false (c.dataAddr + 32) n then refuse c stWindow 4 0 8 s
  else match trainHeadData d with
    | some w => refuse c stInvalid 5 w.1 w.2 s
    | none =>
      let c' := { c with data := d, mark := 1 }
      let s1 := updCmd c.tag (fun _ => c') s
      if n == 0 then refuse c stInvalid 5 0 (inData 16) s1 else askData c' (c.dataAddr + 32) n s1

/-- Check 5 for a command whose data is all there, then its own work. -/
def haveData (c : Cmd) (d : Bytes) (s : State) : State :=
  let bad := if c.op == .train then
      (match c.index s with
        | some ix => trainData ix.geo (if bit 1 (c.ar 2 1) then modelRec s c.facet c.model else none) c.trainM d
        | none => none)
    else check5 s c d
  match bad with
  | some w =>
    let s1 := if c.op == .modelLoad then emptySlot c.facet c.model s else s
    refuse c stInvalid 5 w.1 w.2 s1
  | none =>
    let c' := { c with data := if c.op == .train then c.data ++ d else d, phase := .waiting }
    beginCmd c' (updCmd c.tag (fun _ => c') s)

/-- Bytes a command's outstanding read asked for. -/
def askedLen (c : Cmd) : Nat := if c.op == .train && c.mark == 1 then (readTrainHead c.data).inputLen else inputLen c

/-- A host read returns (R238): a poisoned one ends the command; a completion no command waits for changes nothing (log 2). -/
def hostData (t : Nat) (d : Bytes) (poisoned : Bool) (s : State) : State :=
  match cmdOf s t with
  | none => s
  | some c =>
    if c.phase != .reading then s
    else if poisoned then settle (endCmd stHostData c s)
    else if d.length != askedLen c then s
    else if c.op == .train && c.mark == 0 then settle (trainHeader c d s)
    else settle (haveData c d s)

/-- HOST_READ_COMPLETION. -/
def execHostReadCompletion (tag : Nat) (data : Bytes) (poisoned : Bool) (s : State) : Host.Outcome State Fault Refusal :=
  .next (hostData tag data poisoned s)

/-- 50 ms without a completion of its read end a command with HOST_DATA_ERROR (R238). -/
def readTimeout (tag : Nat) (s : State) : State :=
  match cmdOf s tag with
  | some c => if c.phase == .reading && c.asked + 50000000 ≤ now s then settle (endCmd stHostData c s) else s
  | none => s

/-- HOST_READ_TIMEOUT. -/
def execHostReadTimeout (tag : Nat) (s : State) : Host.Outcome State Fault Refusal := .next (readTimeout tag s)

end Sys2Proof.Machine
end

