-- ==== Sys2Proof/Machine/Background.lean ====
section
/-! DEFINITION. Background work on indexes: compaction moves, list rewrites, graph inserts, repair sweeps, renumbering, re-sketch,
log checkpoints (R63, R64, R136, R138 to R151, R203, R206, R207). A change has two commands of its row: the first writes it to flash, and the next
one publishes it at the facet's next epoch once those programs have ended (R138; log 46). -/

namespace Sys2Proof.Machine

-- When background work runs.

/-- A FLUSH with drain runs in the facet (R135). -/
def drains (s : State) (f : Nat) : Bool :=
  s.cmds.any fun c => c.op == .flush && c.facet == f && c.phase == .running && bit 0 (c.ar 0 1)

/-- The class that compaction of a facet runs under: COMPACT, or BULK for a FLUSH with drain when the COMPACT budget is zero
(R139 and the text before it, R219). -/
def compactClass (s : State) (f : Nat) : Option Nat :=
  if (budgetOf s f 4).engine != 0 then some 4 else if drains s f then some 2 else none

/-- The class that moves entries of an index's side list: during a re-sketch also RESKETCH, while an entry of the old generation is
left (R151). -/
def moveClass (s : State) (ix : Index) : Option Nat :=
  let old := fun (t : Transition) => ix.side.any fun e => movedMark ix ≤ e.app && !e.void && e.gen == t.old
  if ix.trans.any old then some 5 else compactClass s ix.geo.facet

/-- Append number up to which FLUSHes with drain wait for an index (R135). -/
def drainMark (s : State) (f slot : Nat) : Nat :=
  ((s.cmds.filter fun c => c.op == .flush && c.facet == f && c.phase == .running && bit 0 (c.ar 0 1)).map fun c =>
    look 0 slot c.drain).foldl max 0

/-- An index takes internal changes: it is not being dropped, but for a RESKETCH that still has to complete (R278), nor migrated away (R311). -/
def mayChange (s : State) (ix : Index) : Bool :=
  let st := (facetOf s ix.geo.facet).state
  (st == 1 || st == 2) && (ix.dropping.isNone || ix.trans.any fun t => (cmdOf s t.tag).isSome) && !migHolds s ix.geo.facet ix.geo.slot

/-- Work of a class on an index may begin: grants are possible, programs are not held, and its stream finds a tag (R138, R212, R261, R324,
R326). -/
def mayStage (s : State) (ix : Index) (cls : Nat) : Bool :=
  mayChange s ix && mayGrant s cls false && !programsHeld s && decide (tagsTaken s < 4096)

/-- A program of an index's units waits or runs. -/
def unitSegs (s : State) (f slot : Nat) : Bool :=
  s.flash.dies.any fun d => (d.segs.any fun g => g.work == .unit f slot) || d.run.any fun g => g.work == .unit f slot

/-- Pieces of the work in progress on an index wait for their grants (R223, R225). -/
def jobsLeft (ix : Index) : Bool := ix.work.any fun w => !w.jobs.isEmpty

/-- The work that is staged on an index may publish: all of it is done and its flash copies are written (R138). -/
def mayPublish (s : State) (ix : Index) : Bool := mayChange s ix && !jobsLeft ix && !unitSegs s ix.geo.facet ix.geo.slot

/-- The bytes of reclaimed nodes are zeroed in the graph units that are written (R146); their HBM sketch records stay. -/
def zeroReclaimed (us : List Unit') (ix : Index) : Index :=
  let hit := fun (n : Node) => n.reclaimed && us.any fun u => u.structure' == 2 && u.unit == n.num / perGraphUnit ix.geo
  let zero := fun (n : Node) => { n with v := ⟨0, List.replicate n.v.vec.length 0, 0, n.v.sketch⟩ }
  { ix with arrays := (ix.arrays.take 1).map (fun a => { a with nodes := a.nodes.map fun n => if hit n then zero n else n }) ++ ix.arrays.drop 1 }

/-- A change of an index that internal work makes: the index it leaves, the units it reads from flash and writes there, the structures whose
records it reads from HBM (list key, base, offset, bytes) and those whose records it writes, the sketches it computes (generation, vector), and
what goes with its publish. -/
structure Plan where
  new : Index
  reads : List Unit'
  writes : List Unit'
  hbm : List (Nat × Nat × Nat × Nat)
  keys : List Nat
  sketches : List (Nat × Stored)
  also : State → State

/-- Newest sketch of a node. -/
def curSketch (n : Node) : Nat := ((n.sketches.head?).map (·.2.2)).getD 0

/-- Newest neighbours of a node. -/
def curNbrs (n : Node) : List Nat := ((n.nbrs.head?).map (·.2.1)).getD []

/-- The order of R206: the queue so far, walked from its front. -/
def walkOrder (a : NodeArray) : Nat → Nat → List Nat → List Nat
  | 0, _, l => l
  | k + 1, i, l => match l[i]? with
    | none => l
    | some n =>
      let more := (((nodeOf a n).map curNbrs).getD []).filter fun m =>
        !l.contains m && ((nodeOf a m).map fun v => !v.reclaimed).getD false
      walkOrder a k (i + 1) (l ++ nub more)

/-- All nodes not reclaimed in their new order (R206). -/
def newOrder (a : NodeArray) : List Nat :=
  let keep := (a.nodes.filter fun n => !n.reclaimed).map (·.num)
  let seed := sortBy (· ≤ ·) (((a.entries.head?).map (·.2)).getD [])
  let l := walkOrder a a.nodes.length 0 seed
  l ++ keep.filter fun n => !l.contains n

/-- Structure, list and unit of a unit, which name it within its index. -/
def unitName (u : Unit') : Nat × Nat × Nat := (u.structure', u.list, u.unit)

/-- Sketch of record r under a key, in the tier image (R321). -/
def tierSketch (ix : Index) (key r : Nat) : Nat :=
  if ix.geo.mode == 0 then (((curCopy (listOf ix key)).pos[r]?).map (·.v.sketch)).getD 0
  else (((nodeOf (curArray ix) r).bind (·.sketches.head?)).map (·.2.2)).getD 0

/-- What a unit of an index holds (R66, R70), or a unit of its tier image (R321). -/
def unitData (ix : Index) (u : Nat × Nat × Nat) : List SlotData :=
  let p := perUnit ix.geo
  match u.1 with
  | 0 => (((curCopy (listOf ix u.2.1)).pos.drop (u.2.2 * p)).take p).map fun x => ⟨x.v.id, x.v.vec, 0, [], 0⟩
  | 1 => ((ix.freed ++ ix.side).filter fun e => e.app / p == u.2.2).map fun e => ⟨e.v.id, e.v.vec, e.app, [], 0⟩
  | 2 => ((curArray ix).nodes.filter fun n => n.num / perGraphUnit ix.geo == u.2.2).map fun n =>
      let nb := n.nbrs.headD (0, [], 0)
      ⟨n.v.id, n.v.vec, n.v.label, n.num :: nb.2.1, nb.2.2⟩
  | _ =>
    let b := recordBytes ix.geo (u.2.1 - 1)
    let first := cdiv (4096 * u.2.2) b
    (List.range (cdiv (4096 * (u.2.2 + 1)) b - first)).map fun i => ⟨0, [], tierSketch ix (u.2.1 - 1) (first + i), [], 0⟩

/-- What a change writes to its units. -/
def Plan.copies (p : Plan) : List ((Nat × Nat × Nat) × List SlotData) :=
  p.writes.map fun u => (unitName u, unitData (zeroReclaimed p.writes p.new) (unitName u))

/-- The places of the units that a change writes (R203). -/
def Plan.places (p : Plan) (f slot : Nat) (s : State) : List (Nat × Nat × Nat) := p.writes.map (placeOf (updIdx f slot (fun _ => p.new) s))

/-- The pieces of a change in their order (R225): the pages and the HBM runs that it reads, its sketches generation by generation on the engine chosen
for it, the ingest/compaction engine's work, and the units that it programs (R19, R58, R197, R204, R222, R224; log 46). -/
def planJobs (s : State) (ix : Index) (p : Plan) : List Job :=
  let f := ix.geo.facet
  let slot := ix.geo.slot
  let sketch := fun (g : Nat) =>
    let vs := (p.sketches.filter (·.1 == g)).map (·.2)
    sketchJob s ix (workEngine s ix) g vs.length (sketchEscapes s ix g vs)
  pageJobs s p.reads ++ (p.hbm.flatMap fun r => byteJobs s f slot r.1 r.2.1 r.2.2.1 r.2.2.2) ++ (nub (p.sketches.map (·.1))).map sketch ++
    [ingestJob s] ++ programJobs (p.places f slot s)

/-- Bytes that a change streams from lists and side lists, for their ranking (R200). -/
def countStreamed (f slot : Nat) (hbm : List (Nat × Nat × Nat × Nat)) (s : State) : State :=
  let here := hbm.filter fun r => r.1 ≤ sideKey
  { s with mem := { s.mem with
    listBytes := here.foldl (fun l r => put (f, slot, r.1) (look 0 (f, slot, r.1) l + 2048 * (byteRuns r.2.1 r.2.2.1 r.2.2.2).2) l) s.mem.listBytes } }

/-- The stream that moves what a change reads: its destination is memory, and its descriptor comes from the region's control processor (R16, R19,
R208). -/
def armMemory (f slot cls : Nat) (hbm : List (Nat × Nat × Nat × Nat)) (s : State) : State :=
  match hbm.head?, idxOf s f slot with
  | some r, some ix =>
    let n := recordBytes ix.geo r.1
    rotateTo (arbDesc ((liveRegions s f).headD 0)) 16 (armToMemory f slot cls n (r.2.1 + r.2.2.1) (r.2.2.2 / n) s)
  | _, _ => s

/-- A change begun (R138): its stream is armed, its pieces are done as far as they are granted, and the units that it writes are programmed. Nothing
of it is seen yet. `mk` forms the change of an index with its work in progress (R218, R225; log 46). -/
def stage (f slot cls kind count : Nat) (mk : State → Index → Plan) (s : State) : State :=
  match idxOf s f slot with
  | none => s
  | some ix =>
    let w : Work := ⟨cls, sketchEngine s f, [], if kind == 4 then newOrder (curArray ix) else [], [], []⟩
    let ix1 := { ix with work := some w }
    let p := mk s ix1
    let first := (p.new.lists.filter fun d => (listOf ix d.num).bL.isNone).map fun d => (d.num, d.bL.getD 0, d.dL.getD 0)
    let s1 := armMemory f slot cls p.hbm (countStreamed f slot p.hbm (useFree s))
    let r := runJobs f cls (.unit f slot) (planJobs s ix1 p) (rotateTo arbIngest ((liveRegions s f).headD 0) s1)
    settle (updIdx f slot (fun i => { i with
      staged := some (kind, count), work := some { w with spots := first, jobs := r.1, copies := p.copies } }) r.2)

/-- Work in progress goes on with the pieces that waited; one whose engine is fenced goes on with another (R17, R225). -/
def goOn (f slot : Nat) (s : State) : State :=
  match (idxOf s f slot).bind (·.work) with
  | none => s
  | some w =>
    let e := if s.srch.regionsOut.contains w.engine then sketchEngine s f else w.engine
    let moved := fun (j : Job) => if j.unit == some (unitEngine w.engine) then { j with unit := some (unitEngine e) } else j
    let r := runJobs f w.cls (.unit f slot) (w.jobs.map moved) s
    settle (updIdx f slot (fun i => { i with work := some { w with engine := e, jobs := r.1 } }) r.2)

/-- The stream of a change ends (R209). -/
def endMemory (f slot : Nat) (s : State) : State := closeStreams (fun x => x.user == .memory f slot) s

/-- What is on flash is what a change publishes. -/
def written (ix : Index) (p : Plan) : Bool := ix.work.all fun w => p.copies.all w.copies.contains

/-- Units whose contents have changed since they were programmed, programmed again before the change is published: a delete that has committed since
may take a node or an entry out of it (R138, R144). -/
def writeAgain (f slot : Nat) (ix : Index) (p : Plan) (s : State) : State :=
  match ix.work with
  | none => s
  | some w =>
    let new := p.copies.filter fun c => !w.copies.contains c
    let at' := (p.writes.filter fun u => new.any (·.1 == unitName u)).map (placeOf (updIdx f slot (fun _ => p.new) s))
    let r := runJobs f w.cls (.unit f slot) (programJobs at') s
    settle (updIdx f slot (fun i => { i with work := some { w with jobs := r.1, copies := p.copies } }) r.2)

/-- A change published at the facet's next epoch (R77, R138): its page-map entries (R195) and block checks (R214) with it. -/
def publishPlan (f slot : Nat) (p : Plan) (s : State) : State :=
  let s1 := updIdx f slot (fun _ => { zeroReclaimed p.writes p.new with staged := none, work := none }) (p.also s)
  settle (useFree (p.keys.foldl (fun t k => keepChecks f slot k t)
    (writePages p.writes (markChanged f (endMemory f slot s1)))))

/-- A change whose flash copies are written is published; what is no longer as it was written is written first (R138). -/
def publish (f slot : Nat) (ix : Index) (p : Plan) (s : State) : State :=
  if written ix p then publishPlan f slot p s else writeAgain f slot ix p s

/-- A staged change given up, since what it was to change is no more. -/
def unstage (f slot : Nat) (s : State) : State :=
  settle (endMemory f slot (updIdx f slot (fun i => { i with staged := none, work := none }) s))

/-- Lost units at a publish: a unit that takes up a vector of a lost one is lost from that epoch on, and units whose contents are replaced whole are
lost only up to it (R195, R324; log 88). -/
def carryLost (e : Nat) (gone : Unit' → Bool) (pairs : List (Unit' × Unit')) (s : State) : State :=
  let ended := s.flash.lost.map fun m => if gone m.1 && m.2.2.isNone then (m.1, m.2.1, some e) else m
  let new := (pairs.filter fun p => lostAt s (2 ^ 48) p.1).map fun p => (p.2, e, none)
  { s with flash := { s.flash with lost := nub (ended ++ new) } }

/-- A delete of a location that internal work may act on: its epoch is closed (R138). -/
def closedPend (x : Facet) (slot : Nat) (l : Loc) : Bool :=
  x.pend.any fun p => p.slot == slot && p.loc == l && p.till.isNone && p.epoch ≤ x.closed

/-- A delete of a location that is not closed yet. -/
def openPend (x : Facet) (slot : Nat) (l : Loc) : Bool :=
  x.pend.any fun p => p.slot == slot && p.loc == l && p.till.isNone && x.closed < p.epoch

-- COMPACTION_MOVE (R63, R64, R139, R148, R149, R203).

/-- The list of a stored vector: nearest coarse centroid, then nearest fine one under it (R63; log 46). -/
def nearestList (ix : Index) (v : Bytes) : Nat :=
  let g := ix.geo
  let x := f32s (elems g.storage g.dims v)
  let d := fun (c : Bytes) => noNan (exactDist g.metric x (f32s (elems g.storage g.dims c)))
  let c := ((nearest 1 (ix.coarse.zipIdx.map fun p => (p.2, d p.1))).head?).getD 0
  ((nearest 1 ((List.range g.fine).map fun i => (c * g.fine + i, d ((ix.fine[c * g.fine + i]?).getD [])))).head?).getD 0

/-- A side-list entry is deleted for internal work. -/
def sideDead (x : Facet) (ix : Index) (e : SideEnt) : Bool :=
  e.void || (e.tomb && e.del ≤ x.closed) || closedPend x ix.geo.slot (.side e.app)

/-- A host command's range lock covers an ID (R130): internal work that would change its location word waits (R131). -/
def idLocked (s : State) (f slot id : Nat) : Bool :=
  s.cmds.any fun c => c.facet == f && c.slot == slot && c.lock.any fun r => r.1 ≤ id && id ≤ r.2

/-- Entries from the head of what has not been moved, up to n: committed, their epochs closed, no delete still open on them, not
locked; a delete that may yet be undone ends the batch (R131, R138, R139). A void entry passes with its batch (R71). -/
def batch (s : State) (x : Facet) (ix : Index) (n : Nat) : List SideEnt :=
  let lo := movedMark ix
  ((ix.side.filter fun e => lo ≤ e.app).take n).takeWhile fun e =>
    e.void || (e.app < ix.committed && e.epoch ≤ x.closed && !(e.tomb && x.closed < e.del) && !openPend x ix.geo.slot (.side e.app) &&
    (sideDead x ix e || !idLocked s x.num ix.geo.slot e.v.id))

/-- Generation of a list that gets its first position during a transition (R148). -/
def listGen (ix : Index) (l : Nat) : Nat :=
  match ix.trans with
  | some t => if l < t.next then ix.gen else t.old
  | none => ix.gen

/-- Places of the units in use of an index: its lists, its side list and its node array (R80, R203). -/
def unitPlaces (ix : Index) : List (Nat × Nat × Nat) :=
  let lists := ix.lists.map fun d =>
    (List.range (cdiv (curCopy d).pos.length (perUnit ix.geo))).map fun u => unitPlace (d.bL.getD 0) (d.dL.getD 0) u
  let first := ix.head / perUnit ix.geo
  let side := (List.range (sideUnits ix.geo ix.head (nextApp ix))).map fun u => unitPlace 0 0 (first + u)
  let nodes := if ix.geo.mode == 0 then [] else graphUnits ix
  lists.flatten ++ side ++ nodes.map (unitPlace 0 0)

/-- Channel and die for a list's first unit: those that hold the fewest units of the facet (R203), one of its indexes as it
stands amid a batch. -/
def fewest (s : State) (cur : Index) : Nat × Nat :=
  let others := (idxsOf s cur.geo.facet).filter fun i => i.geo.slot != cur.geo.slot
  let places := ((cur :: others).map unitPlaces).flatten
  let least := fun (n : Nat) (count : Nat → Nat) => (List.range n).foldl (fun b i => if count i < count b then i else b) 0
  let ch := least 64 fun c => (places.filter fun p => p.1 == c).length
  (ch, least 4 fun d => (places.filter fun p => p.1 == ch && p.2.1 == d).length)

/-- Channel and die for the first unit of a list: those chosen when the work in progress began, which has written it (R203). -/
def firstPlace (s : State) (ix : Index) (l : Nat) : Nat × Nat :=
  ((ix.work.bind fun w => w.spots.find? (·.1 == l)).map (·.2)).getD (fewest s ix)

/-- A position appended to a list: its sketch under the list's generation (R139, R149). -/
def appendPos (s : State) (e l : Nat) (v : Stored) (ix : Index) : Index :=
  let d := listOf ix l
  let c := match d.copies.head? with
    | some c => c
    | none => ⟨0, listGen ix l, [], (newBases s l).1, (newBases s l).2⟩
  let sk := (sketchUnder s ix c.gen v.vec).1
  let c' := { c with pos := c.pos ++ [⟨{ v with sketch := sk }, e, false, 0⟩] }
  let spot := firstPlace s ix l
  let d' : ListDir :=
    { num := l, bL := some (d.bL.getD spot.1), dL := some (d.dL.getD spot.2), copies := c' :: d.copies.drop 1 }
  mapSet v.id (.list l c.pos.length) { ix with lists := insertBy (fun a b => a.num ≤ b.num) d' (ix.lists.filter (·.num != l)) }

/-- Positions a list may have (R64). -/
def listLimit : Nat := 16777216

/-- An entry moved into its list, or appended again at the side list's tail when the list is full (R64): it keeps the sketch and the sketch
generation of the entry (DESIGN CHOICE, log 87). -/
def moveEnt (s : State) (e : Nat) (ent : SideEnt) (acc : Index × List Nat) : Index × List Nat :=
  let l := nearestList acc.1 ent.v.vec
  if (curCopy (listOf acc.1 l)).pos.length < listLimit then (appendPos s e l ent.v acc.1, acc.2)
  else
    let a := nextApp acc.1
    (mapSet ent.v.id (.side a) { acc.1 with side := acc.1.side ++ [{ ent with app := a, epoch := e, again := true }], committed := a + 1 }, acc.2 ++ [l])

/-- HBM of n positions of a list (R79). -/
def listHbm (g : Geometry) (n : Nat) : Nat := cdiv (n * (g.sketchBits + 65) + 64 * cdiv n (perUnit g)) 8

/-- Tombstoned positions that count towards a rewrite (R138, R142). -/
def deadCount (x : Facet) (d : ListDir) : Nat := ((curCopy d).pos.filter fun p => p.tomb && p.del ≤ x.closed).length

/-- A position is deleted for internal work. -/
def posDead (x : Facet) (ix : Index) (l : Nat) (p : Pos × Nat) : Bool :=
  (p.1.tomb && p.1.del ≤ x.closed) || closedPend x ix.geo.slot (.list l p.2)

/-- Old and new positions of what a rewrite keeps. -/
def keptPos (x : Facet) (ix : Index) (d : ListDir) : List (Pos × Nat) :=
  (curCopy d).pos.zipIdx.filter fun p => !posDead x ix d.num p

/-- The unused HBM share holds the copy that a rewrite of a list makes (R64, R142). -/
def copyFits (s : State) (x : Facet) (ix : Index) (d : ListDir) : Bool :=
  listHbm ix.geo (keptPos x ix d).length ≤ hbmFree s x.num

/-- Lists that a batch would take past their limit and that a rewrite comes before (R64). -/
def tooLong (s : State) (x : Facet) (ix : Index) (es : List SideEnt) : List ListDir :=
  let ls := es.map fun e => nearestList ix e.v.vec
  ix.lists.filter fun d =>
    listLimit < (curCopy d).pos.length + (ls.filter (· == d.num)).length && ls.contains d.num && 0 < deadCount x d && copyFits s x ix d

/-- A batch waits for a rewrite (R64). -/
def needsRewrite (s : State) (x : Facet) (ix : Index) (es : List SideEnt) : Bool := tooLong s x ix es != []

/-- Entries of a batch that would be appended again (R64). -/
def overflowCount (s : State) (e : Nat) (ix : Index) (es : List SideEnt) : Nat := ((es.foldl (fun acc v => moveEnt s e v acc) (ix, [])).2).length

/-- The longest start of a batch, up to k entries, whose entries to be appended again find room in the side list: R64 appends them and R71 bounds
the list, and the model holds back what finds no room (DESIGN CHOICE, log 106). -/
def fitBatch (s : State) (x : Facet) (e : Nat) (ix : Index) (es : List SideEnt) : Nat → List SideEnt
  | 0 => []
  | k + 1 =>
    let b := es.take (k + 1)
    if overflowCount s e ix (b.filter fun v => !sideDead x ix v) ≤ ix.geo.sideLimit - sideUsed ix then b else fitBatch s x e ix es k

/-- LIST_OVERFLOW records of a batch. -/
def overflows (f slot left : Nat) (ls : List Nat) (s : State) : State :=
  (nub ls).foldl (fun t l => record 0x0903 (subj [f, slot]) [l, left] t) s

/-- Saturations and escapes of the sketches a move computes, counted under its class (R169). -/
def countMoved (s : State) (ix : Index) (cls : Nat) (live : List SideEnt) (t : State) : State :=
  live.foldl (fun u e => match locate ix e.v.id with
    | some (.list l _) => countSketch s ix (curCopy (listOf ix l)).gen cls e.v.vec u
    | _ => u) t

/-- The records of some side-list entries in HBM, by list key, base, offset and bytes (R71, R197). -/
def sideBytes (ix : Index) (es : List SideEnt) : Nat × Nat × Nat × Nat :=
  let n := recordBytes ix.geo sideKey
  (sideKey, keyBase ix sideKey, sidePos ix.geo ((es.head?).map (·.app) |>.getD 0) * n, es.length * n)

/-- The move of a batch (R139, R149): what it makes of the index, the entries appended again with their lists told of (R64), and the units of
list positions it writes. -/
def movePlan (s : State) (ix : Index) (cls : Nat) (es : List SideEnt) : Plan :=
  let f := ix.geo.facet
  let x := facetOf s f
  let em := commitEpoch x
  let live := es.filter fun e => !sideDead x ix e
  let r := live.foldl (fun acc e => moveEnt s em e acc) (ix, [])
  let hi := ((es.getLast?).map fun e => e.app + 1).getD 0
  let ix' := { r.1 with moves := r.1.moves ++ [⟨movedMark ix, hi, em⟩] }
  let went := live.filterMap fun e => (locate ix' e.v.id).map fun l => (unitOf ix.geo (.side e.app), unitOf ix.geo l)
  let listed := live.filterMap fun e => match locate ix' e.v.id with
    | some (.list l _) => some (l, e.v)
    | _ => none
  { new := ix', reads := nub (went.map (·.1)), writes := nub (went.map (·.2)), hbm := [sideBytes ix es],
    keys := nub (listed.map (·.1)) ++ (if r.2.isEmpty then [] else [sideKey]),
    sketches := listed.map fun p => ((curCopy (listOf ix' p.1)).gen, p.2),
    also := fun t => carryLost em (fun _ => false) went (overflows f ix.geo.slot (nextApp ix' - hi) r.2 (countMoved s ix' cls live t)) }

/-- The entries of a batch that a move can take now, of n: the list rewrites that it needs come first, and what is to be appended again finds room
(R64). -/
def movable (s : State) (ix : Index) (es : List SideEnt) : List SideEnt :=
  let x := facetOf s ix.geo.facet
  let b := fitBatch s x (commitEpoch x) ix es es.length
  if needsRewrite s x ix (b.filter fun e => !sideDead x ix e) then [] else b

/-- COMPACTION_MOVE: a batch of at most 1,024 entries begun, or the one begun published at E_m; that waits while a delete on it is open or an ID of it
locked (R131, R138, R139). -/
def compactionMove (f slot count : Nat) (s : State) : State :=
  match idxOf s f slot with
  | none => s
  | some ix =>
    if ix.geo.mode != 0 then s
    else match ix.staged with
      | none => match moveClass s ix with
        | none => s
        | some cls =>
          let es := movable s ix (batch s (facetOf s f) ix (min count 1024))
          if es.isEmpty || !mayStage s ix cls then s else stage f slot cls 0 es.length (fun t i => movePlan t i cls es) s
      | some (0, n) =>
        let all' := batch s (facetOf s f) ix n
        if jobsLeft ix then goOn f slot s
        else if !mayPublish s ix || all'.length != n then s
        else
          let es := movable s ix all'
          if es.isEmpty then unstage f slot s else publish f slot ix (movePlan s ix ((moveClass s ix).getD 4) es) s
      | some _ => s

/-- COMPACTION_MOVE. -/
def execCompactionMove (facet slot count : Nat) (s : State) : Host.Outcome State Fault Refusal :=
  .next (compactionMove facet slot count s)

-- LIST_REWRITE (R64, R138, R141, R142).

/-- Lists to be rewritten in their order: those a move waits for, then those more than a quarter tombstoned, by falling fraction; those
whose copy does not fit are passed over (R64, R142). -/
def rewritable (s : State) (x : Facet) (ix : Index) : List ListDir :=
  let len := fun (d : ListDir) => (curCopy d).pos.length
  let full := tooLong s x ix ((batch s x ix 1024).filter fun e => !sideDead x ix e)
  let quarter := sortBy (fun a b => deadCount x b * len a < deadCount x a * len b ||
    (deadCount x b * len a == deadCount x a * len b && a.num ≤ b.num)) (ix.lists.filter fun d => len d < 4 * deadCount x d)
  (full ++ quarter).filter (copyFits s x ix)

/-- No host command holds an ID of the list locked: else its rewrite waits (R131). -/
def listFree (s : State) (x : Facet) (ix : Index) (d : ListDir) : Bool :=
  (curCopy d).pos.all fun p => p.tomb || !idLocked s x.num ix.geo.slot p.v.id

/-- Pending deletes renamed at an epoch: an entry of an old name serves older queries, a new one the rest (R142, R207). -/
def renamePends (slot e : Nat) (touches : Loc → Bool) (new : Loc → Option Loc) (ps : List Pend) : List Pend :=
  let hit := fun (p : Pend) => p.slot == slot && p.till.isNone && touches p.loc
  ps.map (fun p => if hit p then { p with till := some e } else p) ++
  (ps.filter hit).filterMap fun p => (new p.loc).map fun l => { p with loc := l, since := e, till := none }

/-- The rewrite of a list (R142, R195): a second copy of what is live, in new units, under new names of its pending deletes; a stacked copy of it
goes at the publish epoch (R201). -/
def rewritePlan (s : State) (ix : Index) (d : ListDir) : Plan :=
  let f := ix.geo.facet
  let slot := ix.geo.slot
  let x := facetOf s f
  let e := commitEpoch x
  let kept := keptPos x ix d
  let moved := (kept.map (·.2)).zipIdx
  let new := fun (l : Loc) => match l with
    | .list _ p => (moved.find? (·.1 == p)).map fun q => Loc.list d.num q.2
    | _ => none
  let on := fun (l : Loc) => match l with
    | .list n _ => n == d.num
    | _ => false
  let copy : ListCopy := ⟨e, (curCopy d).gen, kept.map (·.1), (newBases s d.num).1, (newBases s d.num).2⟩
  let unit := fun (u : Nat) => (⟨f, slot, 0, d.num, u⟩ : Unit')
  let p := perUnit ix.geo
  let mine := fun (u : Unit') => u.facet == f && u.slot == slot && u.structure' == 0 && u.list == d.num
  { new := { ix with
      lists := updFirst (·.num == d.num) (fun y => { y with copies := copy :: y.copies }) ix.lists,
      map := ix.map.map fun m => (m.1, if on m.2 then (new m.2).getD m.2 else m.2) },
    reads := (List.range (cdiv (curCopy d).pos.length p)).map unit, writes := (List.range (cdiv kept.length p)).map unit,
    hbm := [(d.num, (curCopy d).base, 0, (curCopy d).pos.length * recordBytes ix.geo d.num),
            (tombKey d.num, freeBase f slot (tombKey d.num), 0, cdiv (curCopy d).pos.length 8)],
    keys := [d.num], sketches := [],
    also := fun t => carryLost e mine (moved.map fun q => (unit (q.1 / p), unit (q.2 / p)))
      (updFacet f (fun y => { y with pend := renamePends slot e on new y.pend }) { t with
        mem := { t.mem with stale := t.mem.stale ++ [((f, slot, d.num), e)] } }) }

/-- LIST_REWRITE: the first list that qualifies gets its second copy, or the copy that has been written is published (R138, R142). -/
def listRewrite (f slot : Nat) (s : State) : State :=
  match idxOf s f slot with
  | none => s
  | some ix =>
    let x := facetOf s f
    if ix.geo.mode != 0 then s
    else match ix.staged with
      | none => match rewritable s x ix, compactClass s f with
        | d :: _, some cls =>
          if !listFree s x ix d || !mayStage s ix cls then s else stage f slot cls 1 d.num (fun t i => rewritePlan t i d) s
        | _, _ => s
      | some (1, n) =>
        let d := listOf ix n
        if jobsLeft ix then goOn f slot s
        else if !mayPublish s ix || !listFree s x ix d then s
        else if copyFits s x ix d then publish f slot ix (rewritePlan s ix d) s else unstage f slot s
      | some _ => s

/-- LIST_REWRITE. -/
def execListRewrite (facet slot : Nat) (s : State) : Host.Outcome State Fault Refusal := .next (listRewrite facet slot s)

-- GRAPH_INSERT (R106, R144, R150).

/-- A node is deleted for internal work. -/
def nodeDead (x : Facet) (ix : Index) (n : Node) : Bool :=
  n.reclaimed || (n.tomb && n.del ≤ x.closed) || closedPend x ix.geo.slot (.node n.num)

/-- Distinct members of a choice that are allowed, at most n. -/
def restrict (n : Nat) (allowed choice : List Nat) : List Nat := ((nub choice).filter allowed.contains).take n

/-- Generation a new node is sketched under: the old one at or above the boundary of a transition (R150). -/
def nodeGen (ix : Index) (n : Nat) : Nat :=
  match ix.trans with
  | some t => if n < t.next then ix.gen else t.old
  | none => ix.gen

/-- A node deleted at an epoch yet to be published, closed or not, is never chosen as a neighbour or an entry (R144; log 89). -/
def nodeGone (x : Facet) (ix : Index) (n : Node) : Bool :=
  n.reclaimed || n.tomb || x.pend.any fun p => p.slot == ix.geo.slot && p.loc == .node n.num && p.till.isNone

/-- What the choices of graph maintenance depend on beside the graph (R106, R144; log 12). -/
def graphParams (g : Geometry) : List Nat := [g.metric, g.storage, g.dims, g.sketchBits, g.degree, g.vertexSize]

/-- A graph as those choices see it: number, vector and neighbours of each node (R144). -/
def graphOf (a : NodeArray) : List (Nat × Bytes × List Nat) := (a.nodes.filter (!·.reclaimed)).map fun n => (n.num, n.v.vec, curNbrs n)

/-- A new node at an epoch; its neighbours are chosen among the live nodes of the graph `a` published before (R144; log 12). -/
def newNode (s : State) (ix : Index) (e num : Nat) (a : NodeArray) (lives : List Nat) (v : Stored) : Node :=
  let g := nodeGen ix num
  ⟨num, v, [(e, restrict ix.geo.degree lives (Config.chooseNeighbours (graphParams ix.geo) (graphOf a) v.vec lives), 0)],
    [(e, g, (sketchUnder s ix g v.vec).1)], e, false, 0, false⟩

/-- A back edge to a new node, where the record has room (R144; log 12). -/
def backEdge (degree e num : Nat) (n : Node) : Node :=
  let cur := n.nbrs.headD (0, [], 0)
  if cur.2.1.length < degree then
    { n with nbrs := (e, cur.2.1 ++ [num], cur.2.2) :: (if cur.1 == e then n.nbrs.drop 1 else n.nbrs) }
  else n

/-- One entry inserted as a node, chosen against the graph `was` published after the previous unit (R144). -/
def insertNode (s : State) (x : Facet) (e : Nat) (was : NodeArray) (lives : List Nat) (v : Stored) (ix : Index) : Index :=
  let a := curArray ix
  let num := nextNode a
  let back := restrict num lives (Config.chooseBackEdges (graphParams ix.geo) (graphOf was) v.vec lives)
  let old := a.nodes.map fun n => if back.contains n.num && !nodeGone x ix n then backEdge ix.geo.degree e num n else n
  let a' := { a with nodes := old ++ [newNode s ix e num was lives v] }
  mapSet v.id (.node num) { ix with arrays := a' :: ix.arrays.drop 1 }

/-- The entries of the next graph unit, up to n: while a FLUSH with drain waits for some, none beyond them (R144). -/
def unitBatch (s : State) (x : Facet) (ix : Index) (n : Nat) : List SideEnt :=
  let t := drainMark s x.num ix.geo.slot
  let es := batch s x ix n
  if movedMark ix < t then es.takeWhile (·.app < t) else es

/-- The unit is whole: 4,096 entries, or the last ones that a FLUSH with drain waits for (R144). Without a COMPACT budget only
those run, under BULK. -/
def unitWhole (s : State) (x : Facet) (ix : Index) (cls n : Nat) : Bool :=
  let t := drainMark s x.num ix.geo.slot
  let waits := movedMark ix < t
  (n == 4096 || (waits && n == (ix.side.filter fun e => movedMark ix ≤ e.app && e.app < t).length)) && (cls != 2 || waits)

/-- The insert of a unit of entries (R144): the new nodes, the records that gain a back edge, the published length and the entry set, all at one
epoch; the units of all those records are written. -/
def insertPlan (s : State) (ix : Index) (cls : Nat) (es : List SideEnt) : Plan :=
  let x := facetOf s ix.geo.facet
  let e := commitEpoch x
  let live := es.filter fun v => !sideDead x ix v
  let lives := ((curArray ix).nodes.filter fun n => !nodeGone x ix n).map (·.num)
  let ix1 := live.foldl (fun i v => insertNode s x e (curArray ix) lives v.v i) ix
  let n := nextNode (curArray ix1)
  let all' := ((curArray ix1).nodes.filter fun v => !nodeGone x ix1 v).map (·.num)
  let es' := sortBy (· ≤ ·) (restrict 64 all' (Config.chooseEntrySet (graphParams ix.geo) (graphOf (curArray ix1)) all'))
  let hi := ((es.getLast?).map fun v => v.app + 1).getD 0
  let fin := fun (a : NodeArray) => { a with lengths := (e, n) :: a.lengths, entries := (e, es') :: a.entries }
  let ix2 := { ix1 with
    arrays := (ix1.arrays.take 1).map fin ++ ix1.arrays.drop 1,
    moves := ix1.moves ++ [⟨movedMark ix, hi, e⟩], insertedSince := ix.insertedSince + live.length }
  let edged := (curArray ix2).nodes.filter fun v => (v.nbrs.headD (0, [], 0)).1 == e
  let from' := live.filterMap fun v => (locate ix2 v.v.id).map fun l => (unitOf ix.geo (.side v.app), unitOf ix.geo l)
  let old := nub (edged.filter (fun v => v.birth != e) |>.map fun v => unitOf ix.geo (.node v.num))
  let g := nodeGen ix (nextNode (curArray ix))
  { new := ix2, reads := nub (from'.map (·.1)) ++ old, writes := nub (edged.map fun v => unitOf ix.geo (.node v.num)),
    hbm := [sideBytes ix es], keys := [0], sketches := live.map fun v => (g, v.v),
    also := fun t => carryLost e (fun _ => false) from' (live.foldl (fun u v => countSketch s ix2 g cls v.v.vec u) t) }

/-- GRAPH_INSERT: a unit of 4,096 entries, or the last partial one of a FLUSH with drain, begun; or the one begun published at E_g, which waits
while a delete on it is open or an ID of it locked (R131, R138, R144). -/
def graphInsert (f slot count : Nat) (s : State) : State :=
  match idxOf s f slot with
  | none => s
  | some ix =>
    if ix.geo.mode != 1 then s
    else match ix.staged with
      | none => match moveClass s ix with
        | none => s
        | some cls =>
          let x := facetOf s f
          let es := unitBatch s x ix (min count 4096)
          if es.isEmpty || !unitWhole s x ix cls es.length || !mayStage s ix cls then s
          else stage f slot cls 2 es.length (fun t i => insertPlan t i cls es) s
      | some (2, n) =>
        let es := batch s (facetOf s f) ix n
        if jobsLeft ix then goOn f slot s
        else if !mayPublish s ix || es.length != n then s else publish f slot ix (insertPlan s ix ((moveClass s ix).getD 4) es) s
      | some _ => s

/-- GRAPH_INSERT. -/
def execGraphInsert (facet slot count : Nat) (s : State) : Host.Outcome State Fault Refusal :=
  .next (graphInsert facet slot count s)

-- REPAIR_SWEEP_UNIT (R145, R146).

/-- A record that holds a deleted neighbour, repaired (R145): the best of its live neighbours and those of its deleted ones, but for the node
itself (DESIGN CHOICE, log 113). -/
def repairNode (x : Facet) (ix : Index) (e sweep : Nat) (n : Node) : Node :=
  let a := curArray ix
  let dead := fun (m : Nat) => ((nodeOf a m).map (nodeDead x ix)).getD true
  let nb := curNbrs n
  if !(nb.any dead) then n
  else
    let more := ((nb.filter dead).map fun m => ((nodeOf a m).map curNbrs).getD []).flatten
    let cs := nub ((nb ++ more).filter fun m => !dead m && m != n.num)
    let key := fun (m : Nat) => (hamming ix.geo.sketchBits (curSketch n) (((nodeOf a m).map curSketch).getD 0), m)
    let best := (sortBy (fun p q => p.1 < q.1 || (p.1 == q.1 && p.2 ≤ q.2)) (cs.map key)).take ix.geo.degree
    { n with nbrs := (e, best.map (·.2), sweep) :: n.nbrs }

/-- The sweep that runs, or the next one, begun with the nodes whose tombstone bits are set by now (R145, R146). -/
def sweepOf (x : Facet) (ix : Index) : Sweep :=
  ix.sweep.getD ⟨ix.lastSweep + 1, 0, movedMark ix, ((curArray ix).nodes.filter fun n => n.tomb && n.del ≤ x.closed && !n.reclaimed).map (·.num)⟩

/-- A sweep that has visited every unit: what its end makes reclaimable (R146). -/
def endSweep (w : Sweep) (e : Nat) (ix : Index) : Index :=
  let a := curArray ix
  let held := ((a.entries.head?).map (·.2)).getD []
  let edge := fun (n : Nat) => a.nodes.any fun m => !m.reclaimed && (curNbrs m).contains n
  { ix with
    sweep := none, lastSweep := w.num, sweptTo := max ix.sweptTo w.moved, renumDeferred := false,
    toReclaim := ix.toReclaim ++ [(e, w.dead.filter fun n => !edge n && !held.contains n)] }

/-- A sweep's step over its next unit (R145): the repaired records, at the facet's next epoch, and whether a record changed. The last unit ends the
sweep at E_c: the next epoch where this step, or another publish of this batch step, changes what is published there, else the present one
(R146). -/
def sweepStep (s : State) (ix : Index) (w : Sweep) : Index × Bool :=
  let x := facetOf s ix.geo.facet
  let e := commitEpoch x
  let a := curArray ix
  let q := perGraphUnit ix.geo
  let fix := fun (n : Node) => if n.num / q == w.unit && !n.reclaimed then repairNode x ix e w.num n else n
  let nodes := a.nodes.map fix
  let changed := nodes != a.nodes
  let ix1 := { ix with
    arrays := { a with nodes := nodes } :: ix.arrays.drop 1, sweep := some { w with unit := w.unit + 1 } }
  let last := nextNode a ≤ q * (w.unit + 1)
  (if last then endSweep w (if changed || x.changed then e else x.epoch) ix1 else ix1, changed)

/-- A sweep's step as a change: the unit is read and written anew (R145). -/
def sweepPlan (s : State) (ix : Index) (w : Sweep) : Plan :=
  let u : Unit' := ⟨ix.geo.facet, ix.geo.slot, 2, 0, w.unit⟩
  let q := perGraphUnit ix.geo
  let n := recordBytes ix.geo 0
  { new := (sweepStep s ix w).1, reads := [u], writes := [u], hbm := [(0, keyBase ix 0, w.unit * q * n, q * n)], keys := [], sketches := [],
    also := id }

/-- REPAIR_SWEEP_UNIT: the next graph unit of the index's sweep begun, or the one begun published (R138, R145); a unit without deleted edges is
passed without a publish. A re-sketch that has begun since gives the unit up. -/
def repairSweepUnit (f slot : Nat) (s : State) : State :=
  match idxOf s f slot with
  | none => s
  | some ix =>
    let w := sweepOf (facetOf s f) ix
    if ix.geo.mode != 1 then s
    else match ix.staged with
      | none => match compactClass s f with
        | none => s
        | some cls =>
          if ix.trans.isSome || !mayStage s ix cls then s
          else if (sweepStep s ix w).2 then
            stage f slot cls 3 w.unit (fun t i => sweepPlan t i w) (updIdx f slot (fun i => { i with sweep := some w }) s)
          else match allJobs f cls .ended (pageJobs s [⟨f, slot, 2, 0, w.unit⟩]) s with
            | some t => settle (updIdx f slot (fun _ => (sweepStep s ix w).1) t)
            | none => s
      | some (3, _) =>
        if jobsLeft ix then goOn f slot s
        else if !mayPublish s ix then s
        else if ix.trans.isSome then unstage f slot s else publish f slot ix (sweepPlan s ix w) s
      | some _ => s

/-- REPAIR_SWEEP_UNIT. -/
def execRepairSweepUnit (facet slot : Nat) (s : State) : Host.Outcome State Fault Refusal := .next (repairSweepUnit facet slot s)

-- RENUMBERING (R206, R207).

/-- The array under its new numbers, published at an epoch (R207). -/
def renumber (e : Nat) (o : List Nat) (a : NodeArray) : NodeArray :=
  let new := fun (n : Nat) => o.findIdx (· == n)
  let node := fun (n : Node) => { n with
    num := new n.num, sketches := (n.sketches.take 1).map (fun v => (e, v.2)),
    nbrs := (n.nbrs.take 1).map (fun v => (e, v.2.1.map new, v.2.2)) }
  let es := sortBy (· ≤ ·) ((((a.entries.head?).map (·.2)).getD []).map new)
  ⟨e, o.filterMap fun n => (nodeOf a n).map node, [(e, o.length)], [(e, es)]⟩

/-- HBM of a second copy of a node array's sketch records, tombstone bits, page map and selectivity sample (R207). -/
def arrayHbm (g : Geometry) (n : Nat) : Nat := cdiv (n * (g.sketchBits + 65) + 64 * cdiv n (perGraphUnit g)) 8 + 524288

/-- Renumbering as a change (R206, R207): every vertex record anew under its new number, with all that goes with it at E_n. -/
def renumberPlan (s : State) (ix : Index) : Plan :=
  let f := ix.geo.facet
  let slot := ix.geo.slot
  let e := commitEpoch (facetOf s f)
  let a := curArray ix
  let o := (ix.work.map (·.order)).getD (newOrder a)
  let new := fun (l : Loc) => match l with
    | .node n => if o.contains n then some (Loc.node (o.findIdx (· == n))) else none
    | _ => none
  let on := fun (l : Loc) => match l with
    | .node _ => true
    | _ => false
  let q := perGraphUnit ix.geo
  let unit := fun (u : Nat) => (⟨f, slot, 2, 0, u⟩ : Unit')
  let mine := fun (u : Unit') => u.facet == f && u.slot == slot && u.structure' == 2
  { new := { ix with
      arrays := renumber e o a :: ix.arrays, insertedSince := 0,
      map := ix.map.map (fun m => (m.1, (new m.2).getD m.2)),
      toReclaim := ix.toReclaim.map fun r => (r.1, (r.2.filter o.contains).map fun n => o.findIdx (· == n)) },
    reads := (graphUnits ix).map unit, writes := (List.range (cdiv o.length q)).map unit,
    hbm := [(0, keyBase ix 0, 0, nextNode a * recordBytes ix.geo 0)], keys := [0], sketches := [],
    also := fun t => carryLost e mine (o.zipIdx.map fun p => (unit (p.1 / q), unit (p.2 / q)))
      (bump f (kFct 14) 1 (updFacet f (fun y => { y with pend := renamePends slot e on new y.pend }) t)) }

/-- Renumbering is due (R207): a quarter of the published length is reclaimed or newly inserted, and neither a re-sketch nor a sweep runs. -/
def renumberDue (s : State) (ix : Index) : Bool :=
  let a := curArray ix
  let gone := lengthAt a (2 ^ 48) - (a.nodes.filter (!·.reclaimed)).length
  decide (lengthAt a (2 ^ 48) < 4 * (gone + ix.insertedSince)) && !ix.renumDeferred && ix.trans.isNone && ix.sweep.isNone &&
    (budgetOf s ix.geo.facet 4).engine != 0

/-- RENUMBERING: begun when it is due, or deferred for want of HBM; what has been begun is published whole at E_n, unless a re-sketch has begun since
(R138, R207). -/
def renumbering (f slot : Nat) (s : State) : State :=
  match idxOf s f slot with
  | none => s
  | some ix =>
    if ix.geo.mode != 1 then s
    else match ix.staged with
      | none =>
        if !renumberDue s ix || !mayStage s ix 4 then s
        else
          let need := arrayHbm ix.geo (nextNode (curArray ix))
          if hbmFree s f < need then
            record 0x0904 (subj [f, slot]) [cdiv need (2 ^ 20)] (bump f (kFct 15) 1 (updIdx f slot (fun i => { i with renumDeferred := true }) s))
          else stage f slot 4 4 0 renumberPlan s
      | some (4, _) =>
        if jobsLeft ix then goOn f slot s
        else if !mayPublish s ix then s
        else if ix.trans.isSome then unstage f slot s else publish f slot ix (renumberPlan s ix) s
      | some _ => s

/-- RENUMBERING. -/
def execRenumbering (facet slot : Nat) (s : State) : Host.Outcome State Fault Refusal := .next (renumbering facet slot s)

-- RESKETCH_STEP (R147 to R151).

/-- The transition has reached its end: every list or node is at the new generation, and no unmoved side-list entry is at the old
one (R151). -/
def transDone (ix : Index) (t : Transition) : Bool :=
  let far := if ix.geo.mode == 0 then listCount ix.geo ≤ t.next else lengthAt (curArray ix) (2 ^ 48) ≤ t.next
  far && (ix.side.filter fun e => movedMark ix ≤ e.app && !e.void).all fun e => e.gen != t.old

/-- A list under the new generation (R148): a new HBM area, the same page map. -/
def resketchList (s : State) (e : Nat) (ix : Index) (d : ListDir) : ListDir :=
  let c := curCopy d
  let pos := c.pos.map fun p => { p with v := { p.v with sketch := (sketchUnder s ix ix.gen p.v.vec).1 } }
  { d with copies := ⟨e, ix.gen, pos, (newBases s d.num).1, c.mapBase⟩ :: d.copies }

/-- A chunk of 65,536 nodes under the new generation (R150). -/
def resketchChunk (s : State) (e b : Nat) (ix : Index) (a : NodeArray) : NodeArray :=
  { a with nodes := a.nodes.map fun n =>
      if b ≤ n.num && n.num < b + 65536 then { n with sketches := (e, ix.gen, (sketchUnder s ix ix.gen n.v.vec).1) :: n.sketches } else n }

/-- Units of the tier image that hold the flash copies of n sketch records under a key from one on, in the flash reserve (R138, R321): as the log's
units are laid out there (log 13). -/
def tierUnits (ix : Index) (key start n : Nat) : List Unit' :=
  let b := recordBytes ix.geo key
  if n == 0 then []
  else (List.range ((start * b + n * b - 1) / 4096 - start * b / 4096 + 1)).map fun i =>
    ⟨ix.geo.facet, ix.geo.slot, 3, key + 1, start * b / 4096 + i⟩

/-- The re-sketch of a list (R148). -/
def listPlan (s : State) (ix : Index) (t : Transition) (d : ListDir) : Plan :=
  let f := ix.geo.facet
  let slot := ix.geo.slot
  let e := commitEpoch (facetOf s f)
  let c := curCopy d
  { new := { ix with lists := updFirst (·.num == d.num) (resketchList s e ix) ix.lists, trans := some { t with next := d.num + 1 } },
    reads := (List.range (cdiv c.pos.length (perUnit ix.geo))).map fun u => ⟨f, slot, 0, d.num, u⟩, writes := tierUnits ix d.num 0 c.pos.length,
    hbm := [(d.num, c.base, 0, c.pos.length * recordBytes ix.geo d.num)], keys := [d.num], sketches := c.pos.map fun p => (ix.gen, p.v),
    also := fun t => c.pos.foldl (fun u p => countSketch s ix ix.gen 5 p.v.vec u) { t with
      mem := { t.mem with stale := t.mem.stale ++ [((f, slot, d.num), e)] } } }

/-- The re-sketch of a chunk of 65,536 nodes (R150). -/
def chunkPlan (s : State) (ix : Index) (t : Transition) : Plan :=
  let e := commitEpoch (facetOf s ix.geo.facet)
  let n := recordBytes ix.geo 0
  let ns := (curArray ix).nodes.filter fun n => t.next ≤ n.num && n.num < t.next + 65536
  { new := { ix with
      arrays := (ix.arrays.take 1).map (resketchChunk s e t.next ix) ++ ix.arrays.drop 1, trans := some { t with next := t.next + 65536 } },
    reads := nub (ns.map fun n => unitOf ix.geo (.node n.num)), writes := tierUnits ix 0 t.next ns.length,
    hbm := [(0, keyBase ix 0, t.next * n, ns.length * n)], keys := [0], sketches := ns.map fun n => (ix.gen, n.v),
    also := fun t => ns.foldl (fun u n => countSketch s ix ix.gen 5 n.v.vec u) t }

/-- The next list that is not at the new generation (R148). -/
def nextList (ix : Index) (t : Transition) : Option ListDir := ix.lists.find? fun d => t.next ≤ d.num && (curCopy d).gen != ix.gen

/-- The transition's next step as a change: a list, or a chunk of nodes; none where no list is left (R148, R150). -/
def resketchPlan (s : State) (ix : Index) (t : Transition) : Option Plan :=
  if ix.geo.mode == 0 then (nextList ix t).map (listPlan s ix t)
  else if lengthAt (curArray ix) (2 ^ 48) ≤ t.next then none else some (chunkPlan s ix t)

/-- The end of a transition committed at E_end: the old W is released, and RESKETCH completes with its report (R147, R151, R288). -/
def endTransition (f slot : Nat) (t : Transition) (s : State) : State :=
  match idxOf s f slot with
  | none => s
  | some ix =>
    let e := commitEpoch (facetOf s f)
    let s1 := markChanged f (updIdx f slot (fun i => { i with trans := none, released := i.released ++ [(t.old, e)] }) s)
    match cmdOf s1 t.tag with
    | some c => if c.op == .resketch then succeed c (leBytes 4 ix.gen ++ leBytes 6 t.es ++ leBytes 6 e) s1 else s1
    | none => s1

/-- A change of nothing. -/
def noPlan (ix : Index) : Plan := ⟨ix, [], [], [], [], [], id⟩

/-- RESKETCH_STEP, under the RESKETCH budget, from E_s on (R147): the next list or chunk begun, or what has been begun published (R138), or the end
once all is done. It waits while the facet has no region left to compute on (R267). -/
def resketchStep (f slot : Nat) (s : State) : State :=
  match idxOf s f slot with
  | none => s
  | some ix => match ix.trans with
    | none => s
    | some t =>
      if (facetOf s f).epoch < t.es then s
      else match ix.staged with
        | none =>
          if noRegion s f || !mayStage s ix 5 then s
          else if transDone ix t then settle (endTransition f slot t s)
          else match resketchPlan s ix t with
            | some _ => stage f slot 5 5 t.next (fun u i => (resketchPlan u i t).getD (noPlan i)) s
            | none => if ix.geo.mode == 0 then settle (updIdx f slot (fun i => { i with trans := some { t with next := listCount ix.geo } }) s) else s
        | some (5, _) =>
          if jobsLeft ix then goOn f slot s
          else if !mayPublish s ix then s
          else match resketchPlan s ix t with
            | some p => publish f slot ix p s
            | none => unstage f slot s
        | some _ => s

/-- RESKETCH_STEP. -/
def execResketchStep (facet slot : Nat) (s : State) : Host.Outcome State Fault Refusal := .next (resketchStep facet slot s)

-- LOG_CHECKPOINT (R136).

/-- LOG_CHECKPOINT: the index state is on flash as of the closed epoch, the log is trimmed up to the first unit of an epoch that is not
closed, and forced durability ends, unless test mode holds it; the work is COMPACT's (R219). -/
def logCheckpoint (f : Nat) (s : State) : State :=
  if (facetOf s f).state == 0 || programsHeld s then s
  else match allJobs f 4 .ended [ingestJob s] s with
    | some t => useFree (updFacet f (fun x => { x with
        forced := false, ckptEpoch := x.closed, logFrom := (x.log.map (·.first)).foldl min x.logUnits }) t)
    | none => s

/-- LOG_CHECKPOINT. -/
def execLogCheckpoint (facet : Nat) (s : State) : Host.Outcome State Fault Refusal := .next (logCheckpoint facet s)

end Sys2Proof.Machine
end

