-- ==== Sys2Proof/Machine/Cells.lean ====
section
/-! DEFINITION. The commands of the search engine: tiles, shadows, slivers, steals, switches, checkpoints, hop rounds, optimiser
steps (R13 to R15, R89 to R94, R98, R108, R162 to R167, R186, R227, R228). -/

namespace Sys2Proof.Machine

-- TILE_DRAIN.

/-- The tile running on an engine has ended: its ticks are charged and its result drains (R162 to R164, R222). -/
def tileDrain (e : Nat) (s : State) : State :=
  match s.srch.engines.find? (·.num == e) with
  | none => s
  | some x => match x.run with
    | none => s
    | some t =>
      let s1 := busyEnded (.tile e) <| charge (unitEngine e) t.facet (t.cls % 8) (ticksSince s x.since) x.borrowed
        { s with srch := { s.srch with engines := updFirst (·.num == e) (fun y => { y with run := none }) s.srch.engines } }
      settle (match t.kind with
        | .node tag g st => drainNode e t tag g st s1
        | _ => drainSearch e t s1)

/-- TILE_DRAIN. -/
def execTileDrain (engine : Nat) (s : State) : Host.Outcome State Fault Refusal := .next (tileDrain engine s)

-- SENTINEL_SHADOW_FINISH.

/-- Lists of the exact probe set that the query's lacks (R166). -/
def absentLists (ix : Index) (h : Shadow) : Nat :=
  ((probeOf ix ix.geo.storage h.nprobe h.vec).filter fun l => !h.probe.contains l).length

/-- A shadow may run: its class has budget on an engine of the facet's live regions, and all of them may be granted to it (R166, R223). -/
def shadowDue (s : State) (h : Shadow) : Bool :=
  mayGrant s (h.cls % 8) false && enginesOpen s h.facet (h.cls % 8) &&
  (liveRegions s h.facet).any fun e => holdsCredit s (unitEngine e) h.facet (h.cls % 8)

/-- Saturations of a shadow's conversions and drains in the index's own format (R166, R169). -/
def shadowSats (ix : Index) (h : Shadow) : Nat :=
  let g := ix.geo
  let d := fun (l : List Bytes) => (centroidDists g.storage 65535 g h.vec l).2
  let cs := nearest (coarseProbe g h.nprobe) (((centroidDists g.storage 65535 g h.vec ix.coarse).1).zipIdx.map fun p => (p.2, p.1))
  (d ix.coarse).1 + (d ix.coarse).2.1 + ((candLists g cs).map fun l => (d [(ix.fine[l]?).getD []]).2.1).sum

/-- The end of a facet's oldest shadow of an index: its work charged to its class, the window of 64, the shortfall, its event and the
change of format (R166, R167). It waits while its class has no budget. The event's action is 1 where a format changes (R374). -/
def shadowFinish (f slot : Nat) (s : State) : State :=
  match s.srch.shadows.find? (fun h => h.facet == f && h.slot == slot), idxOf s f slot with
  | some h, some ix =>
    if !shadowDue s h then s
    else
    let miss := absentLists ix h
    let x := facetOf s f
    let win := (x.window ++ [(miss, h.nprobe)]).drop (x.window.length + 1 - 64)
    let a := (win.map (·.1)).sum
    let n := (win.map (·.2)).sum
    let drift := ((facetRec s f).map (·.drift)).getD 0
    let act := ((facetRec s f).map (·.action)).getD 0 == 1
    let past := drift * n < 10000 * a
    let switch := act && s0Of s f != 5
    let s1 := bump f (kCls h.cls 14) (shadowSats ix h) <| bump f (kCls h.cls 19) miss (updFacet f (fun y => { y with window := win, drifted := past })
      (chargeWork f (h.cls % 8) (useFree { s with srch := { s.srch with shadows := s.srch.shadows.erase h } })))
    if past && !x.drifted then
      let s2 := record 0x0901 f [10000 * a / n, drift, flagBit 0 switch] (bump f (kCls h.cls 20) 1 s1)
      if switch then bump f (kCls h.cls 21) 1 (updFacet f (fun y => { y with s0Next := some 5 }) s2) else s2
    else s1
  | _, _ => s

/-- SENTINEL_SHADOW_FINISH. -/
def execSentinelShadowFinish (facet index : Nat) (s : State) : Host.Outcome State Fault Refusal :=
  .next (shadowFinish facet index s)

-- SLIVER_FINISH and HEAP_FULL.

/-- Entries of an index in the pending-delete table, 16 bytes each (R74). -/
def pendBytes (s : State) (f slot : Nat) : Nat := 16 * ((facetOf s f).pend.filter (·.slot == slot)).length

/-- What the end of a sliver asks for, piece by piece: its records from their copy or from HBM, its tombstone bits and the pending deletes always
from HBM, and the region's merge unit and stream engine (R19, R197, R201, R210, R211, R221, R222, R321; log 45). -/
def sliverJobs (s : State) (c : Nat) (ix : Index) (v : Sliver) : List Job :=
  let free := fun (key off n : Nat) => byteJobs s v.facet v.slot key (freeBase v.facet v.slot key) off n
  let tick := fun (u : Nat) => tickJob u (Config.workTicks s.free u)
  (if v.copy then [runJob (8 + copySlice s v.facet v.slot v.key) (cdiv (sliverSize ix v) 2048) none]
    else hbmJobs s v.facet v.slot v.key (recordsBase s ix v) (sliverRuns s ix v)) ++
  free (tombKey v.key) (v.lo / 8) (cdiv v.hi 8 - v.lo / 8) ++ free pendKey 0 (pendBytes s v.facet v.slot) ++
  [tick (unitMerge (c / 512)), tick (unitStream (4 * (c / 512) + Config.unitChoice s.free % 4))]

/-- Bytes a sliver streamed, counted for its list's ranking and, where they came from a copy, as read from stacked memory (R200, R364). -/
def countSliver (s0 : State) (ix : Index) (v : Sliver) (s : State) : State :=
  let k := (v.facet, v.slot, v.key)
  let n := if v.copy then sliverSize ix v else 2048 * (sliverRuns s0 ix v).2
  let s1 := { s with mem := { s.mem with listBytes := put k (look 0 k s.mem.listBytes + n) s.mem.listBytes } }
  if v.copy then bump v.facet (kFct 2) n s1 else s1

/-- Blocks of a sliver that are poisoned because a run's flash copy fails while its frame is being rebuilt: those of its records in such runs, and
all where the run of its tombstone bits is one (R215, R321; log 13). -/
def lostBlocks (s : State) (ix : Index) (v : Sliver) : List Int :=
  let base := recordsBase s ix v
  let runs := if v.copy then [] else copyLost s v.facet v.slot v.key base (sliverRuns s ix v)
  let tk := tombKey v.key
  let tb := freeBase v.facet v.slot tk
  let blind := copyLost s v.facet v.slot tk tb (byteRuns tb (v.lo / 8) (cdiv v.hi 8 - v.lo / 8))
  if blind.isEmpty then
    runs.flatMap fun k => (List.range 4).map fun j => ((2048 * k + 512 * j : Nat) : Int) - ((base % 65536 + sliverOff ix v : Nat) : Int)
  else (List.range (cdiv (sliverSize ix v) 512)).map fun j => ((512 * j : Nat) : Int)

/-- A sliver with those blocks poisoned. -/
def withLost (s : State) (ix : Index) (v : Sliver) : Sliver := { v with poisoned := v.poisoned ++ lostBlocks s ix v }

/-- A cell's stream ends with its sliver, and the escape buffers it had on loan return (R209, R217). -/
def endStream (c : Nat) (s : State) : State := nextStream c (drainStream c s)

/-- A sliver's candidates of one member committed to its list at a region, with its count of records scanned (R14, R88, R93). -/
def commitSliver (region : Nat) (cs : List (Nat × Cand)) (q : Query) : Query :=
  let mine := (cs.filter (·.1 == q.ctx)).map (·.2)
  let l := (sortBy candBefore (regionList q region ++ mine)).take q.r
  { q with regions := put region l q.regions }

/-- Records of the sliver that count for a member, and whether a poisoned block hid one (R88, R101). -/
def sliverCount (s : State) (ix : Index) (v : Sliver) (q : Query) : Nat × Bool :=
  let all := (scanRecords s ix q v.key).filter fun r => v.lo ≤ r.1 && r.1 < v.hi
  let seen := all.filter fun r => !poisonedRec ix.geo v r.1
  (seen.length, seen.length < all.length)

/-- What the end of a sliver gives its members: each one's list at the region is the first r of what it was and of the candidates, and its records
count (R14, R88, R93, R101, R215). -/
def commitMembers (c : Nat) (ix : Index) (v : Sliver) (s : State) : State :=
  let r := c / 512
  let cs := (v.staged ++ v.heap).filter (fun p => !poisonedRec ix.geo v p.2.pos) ++ sliverCands s ix v r
  let up := fun (q : Query) =>
    if v.members.contains q.ctx then
      let n := sliverCount s ix v q
      { commitSliver r cs q with scanned := q.scanned + n.1, partialFlag := q.partialFlag || n.2 }
    else q
  { s with srch := { s.srch with
    queries := s.srch.queries.map up, resends := s.srch.resends.filter fun p => p.1.1 != .sliver c } }

/-- A sliver all of whose pieces are granted ends: commit at the region merge unit, the cell is charged, and the suspended sliver resumes or the cell
is idle (R14, R16, R215, R222, R227). -/
def endSliver (c : Nat) (ix : Index) (v : Sliver) (s : State) : State :=
  let s1 := rotateTo arbMerge (c / 512) (commitMembers c ix (withLost s ix v) (countSliver s ix v s))
  let s2 := endStream c (chargeCell (cellOf s c) (updCell c (nextContext s) s1))
  v.members.foldl (fun u m => chipMerge m u) s2

/-- The cell's sliver has been scanned: it ends once its pieces are granted (R211, R225). A cell that stands at a record boundary for want of credit
has not come to its end (R225). -/
def sliverFinish (c : Nat) (s : State) : State :=
  match (cellOf s c).run with
  | none => s
  | some v => match idxOf s v.facet v.slot with
    | none => s
    | some ix =>
      if cellStands s (cellOf s c) then s
      else
        let r := runJobs v.facet (v.cls % 8) .ended (v.wait.getD (sliverJobs s c ix v)) (useFree s)
        settle (if r.1.isEmpty then endSliver c ix v r.2
          else updCell c (fun x => { x with run := some { v with wait := some r.1 } }) r.2)

/-- SLIVER_FINISH. -/
def execSliverFinish (cell : Nat) (s : State) : Host.Outcome State Fault Refusal := .next (sliverFinish cell s)

/-- Bytes of its stream that a cell has taken once its sliver goes on from a record: the stream was armed at the sliver's last start (R209). -/
def takenBytes (s : State) (c : Nat) (ix : Index) (v : Sliver) (next : Nat) : Nat :=
  ((streamOf s c).map fun x => (next - (v.hi - x.counts.headD 0)) * recordBytes ix.geo v.key).getD 0

/-- A sliver after its heap has drained at its 64th candidate: the heap goes to staging, and the scan goes on after that candidate's record, whose
further candidates begin the next heap (R14). -/
def drainHeap (last : Nat × Cand) (all' : List (Nat × Cand)) (v : Sliver) : Sliver :=
  { v with staged := v.staged ++ all'.take 64, heap := (all'.drop 64).filter fun p => p.2.pos ≤ last.2.pos, next := max v.next (last.2.pos + 1) }

/-- HEAP_FULL: the 64th candidate since the last drain goes to staging with the others (R14), and the buffers that the cell has taken by then are
filled again (R213). A cell that stands for want of credit meets no further candidate (R225). -/
def heapFull (c : Nat) (s : State) : State :=
  match (cellOf s c).run with
  | none => s
  | some v => match idxOf s v.facet v.slot with
    | none => s
    | some ix =>
      let all' := v.heap ++ sliverCands s ix v (c / 512)
      match all'[63]? with
      | none => s
      | some last =>
        if cellStands s (cellOf s c) || v.wait.isSome then s
        else
          let w := drainHeap last all' v
          popStream (.sliver c) (takenBytes s c ix v w.next) (updCell c (fun x => { x with run := some w }) s)

/-- HEAP_FULL. -/
def execHeapFull (cell : Nat) (s : State) : Host.Outcome State Fault Refusal := .next (heapFull cell s)

-- STEAL and CELL_SWITCH.

/-- STEAL (R91): an idle cell whose own block has nothing for it takes a sliver from elsewhere. -/
def steal (c : Nat) (s : State) : State :=
  if !cellIdle s c then s
  else match stealFrom s c with
    | some (v, b) => takeStolen c v b s
    | none => s

/-- STEAL. -/
def execSteal (cell : Nat) (s : State) : Host.Outcome State Fault Refusal := .next (steal cell s)

/-- CORE cycles of a switch away from a sliver (R228): `h` live heap entries, at most 64, and its local state: the members' sketches,
predicates and thresholds, with `buf` bytes of stream buffers, within the 32 KiB of local SRAM. -/
def switchCycles (g : Geometry) (v : Sliver) (h buf : Nat) : Nat :=
  24 + 2 * min 64 h + cdiv (min 32768 (v.members.length * (g.sketchBits / 8 + 26) + buf)) 32

/-- Ticks of a switch, charged to the class switched in (R222). How far the outgoing sliver has come is timing (log 83). -/
def switchTicks (s : State) (v : Sliver) : Nat :=
  let l := Config.switchLoad s.free
  match idxOf s v.facet v.slot with
  | some ix => cdiv (switchCycles ix.geo v (v.heap.length + l.1 % 65) (l.2 % 32769) * 10) (max 1 s.brd.coreMhz)
  | none => 1

/-- A cell switched to a waiting sliver; the running one is suspended on it (R227). The switch is charged by itself, and the sliver's own
time begins after it (R222). -/
def switchCell (c : Nat) (v : Sliver) (b : Bool) (s : State) : State :=
  let x := cellOf s c
  match x.run with
  | none => s
  | some old =>
    let t := switchTicks s old
    let s1 := charge c v.facet (v.cls % 8) t b (bump v.facet (kSch (v.cls % 8) 5) 1 (chargeCell x s))
    rotateTo (arbBlock (cellBlock c)) (c % 32) (useFree
      (updCell c (fun y => { y with susp := some old, suspBorrowed := x.borrowed, since := now s + 100 * t }) (startSliver c v b s1)))

/-- The class of a cell's running sliver has no credit left there (R225, R227). -/
def spentOut (s : State) (c : Nat) (v : Sliver) : Bool := creditOf s c v.facet (v.cls % 8) ≤ ticksSince s (cellOf s c).since

/-- A sliver's class holds credit on a cell, and it is not the class of the running one (R227). -/
def otherFunded (s : State) (c : Nat) (run v : Sliver) : Bool :=
  holdsCredit s c v.facet (v.cls % 8) && mayGrant s (v.cls % 8) false && (v.facet, v.cls % 8) != (run.facet, run.cls % 8)

/-- A cell goes back to its suspended sliver; the running one is suspended (R227). -/
def swapCell (c : Nat) (s : State) : State :=
  let x := cellOf s c
  match x.run, x.susp with
  | some old, some v =>
    let t := switchTicks s old
    let s1 := useFree (charge c v.facet (v.cls % 8) t false (bump v.facet (kSch (v.cls % 8) 5) 1 (chargeCell x s)))
    nextStream c (updCell c (fun y => { y with
      run := some v, susp := some old, borrowed := false, suspBorrowed := x.borrowed, since := now s + 100 * t, held := now s }) s1)
  | _, _ => s

/-- Cells of a block that run a sliver, highest class code first, equals as the block's arbiter has them (R16). -/
def switchable (s : State) (b : Nat) : List (Nat × Sliver) :=
  let cs := (blockCells s b).filterMap fun c => if cellLive s c then (cellOf s c).run.map fun v => (c, v) else none
  sortBy (fun x y => prio y.2.cls ≤ prio x.2.cls) cs

/-- What a cell with one context would switch to: an apex sliver that has waited one tick in its queue while no cell of the block that could take it
is idle, or a sliver of a class with credit once the running class has none left (R227). -/
def switchTo (s : State) (b : Nat) (p : Nat × Sliver) : Option (Sliver × Bool) :=
  let q := blockQueue s p.1 b
  let apex := q.filter fun v => prio v.cls == 0 && v.queuedAt + 100 ≤ now s
  let noIdle := ((List.range 32).map (32 * b + ·)).all fun c => !cellIdle s c || !apex.any (cellTakes s c)
  let urgent := if prio p.2.cls != 0 && !apex.isEmpty && noIdle then grantedSliver s p.1 false apex else none
  let funded := q.filter (otherFunded s p.1 p.2)
  urgent.or (if spentOut s p.1 p.2 && !funded.isEmpty then grantedSliver s p.1 false funded else none)

/-- A cell with two contexts switches between them: the running class has no credit left there, and that of the suspended one has (R227). -/
def goesBack (s : State) (p : Nat × Sliver) : Bool := spentOut s p.1 p.2 && (cellOf s p.1).susp.any (otherFunded s p.1 p.2)

/-- What a cell of a block does at a switch, if it has something to switch to. -/
def switchOf (s : State) (b : Nat) (p : Nat × Sliver) : Option State :=
  if (cellOf s p.1).susp.isSome then (if goesBack s p then some (swapCell p.1 s) else none)
  else (switchTo s b p).map fun v => switchCell p.1 v.1 v.2 s

/-- CELL_SWITCH (R227): the block's first cell that has something to switch to. -/
def cellSwitch (b : Nat) (s : State) : State := ((switchable s b).findSome? (switchOf s b)).getD s

/-- CELL_SWITCH. -/
def execCellSwitch (block : Nat) (s : State) : Host.Outcome State Fault Refusal := .next (cellSwitch block s)

-- SCAN_CHECKPOINT.

/-- A query's slivers that no cell holds yet are given up; a group keeps them for its other members (R98). -/
def giveUpSlivers (x : Nat) (s : State) : State :=
  { s with srch := { s.srch with slivers := s.srch.slivers.filterMap (Sliver.without (· == x)) } }

/-- A stack of the module is throttled (R307). -/
def stackHot (s : State) : Bool := (s.brd.thermal.take 8).any (2 ≤ ·)

/-- A cluster query cut in its centroid stage has no rows on the engines any more, and a sentinel counts though it has no shadow (R169, R363). -/
def cutStage (q : Query) (s : State) : State :=
  let t := { s with srch := withoutRows (· == q.ctx) s.srch }
  if q.sentinel then bump q.facet (kCls (q.cls % 8) 18) 1 t else t

/-- SCAN_CHECKPOINT (R98, R114, R307): due at 75 % of the deadline while the scan is unfinished. A query still in its centroid or
sketch stage gives all of its scan up (log 36): a cluster query merges at once, a graph query goes on to its walk. -/
def scanCheckpoint (x : Nat) (s : State) : State :=
  match queryOf s x with
  | none => s
  | some q =>
    if q.deadline == 0 || now s < q.since + 750 * q.deadline || q.scanDone || bit 0 q.cause then s
    else if !(inStage q || s.srch.slivers.any fun v => v.members.contains x) then s
    else
      let dom := match q.origin with
        | .domain _ _ => true
        | _ => false
      let graph := ((idxOf s q.facet q.slot).map fun i => i.geo.mode == 1).getD false
      let q' := { q with
        cause := orBits q.cause cScan, partialFlag := q.partialFlag || (dom && stackHot s),
        stage := if inStage q && !graph then .scan else q.stage }
      let cut := if inStage q && !graph then cutStage q s else s
      settle (chipMerge x (giveUpSlivers x (updQuery x (fun _ => q') cut)))

/-- SCAN_CHECKPOINT. -/
def execScanCheckpoint (ctx : Nat) (s : State) : Host.Outcome State Fault Refusal := .next (scanCheckpoint ctx s)

-- HOP_ROUND, OPTIMISER_STEP, COMMIT.

/-- HOP_ROUND. -/
def execHopRound (ctx : Nat) (s : State) : Host.Outcome State Fault Refusal := .next (settle (hopRoundAt ctx s))

/-- OPTIMISER_STEP. -/
def execOptimiserStep (tag : Nat) (s : State) : Host.Outcome State Fault Refusal := .next (settle (optimiserStep tag s))

/-- COMMIT (R125): the floor epoch moves on in the same step where nothing reads below it any more (R74). -/
def commitAt (tag : Nat) (s : State) : State :=
  match cmdOf s tag with
  | none => s
  | some c => if commitDue s c then settle (floorAdvance c.facet (commitWrite c s)) else s

/-- COMMIT. -/
def execCommit (tag : Nat) (s : State) : Host.Outcome State Fault Refusal := .next (commitAt tag s)

end Sys2Proof.Machine
end

