-- ==== Sys2Proof/Machine/ChordRows.lean ====
section
/-! DEFINITION. The commands of the chord links: flits, links, domain queries, migration (R291 to R313, R368). -/

namespace Sys2Proof.Machine

/-- The fields of CHD_MIG_CTRL that a write with cancel stores; go and cancel read as zero, and a running migration keeps its
fields (R368). -/
def setCtrl (v : Word64) (s : State) : State :=
  if migRunning s.chd.mig then s else updMig (fun x => { x with ctrl := BitVec.ofNat 64 (v.toNat % 2 ^ 15) }) s

/-- The same of CHD_MIG_ACCEPT. -/
def setAccept (v : Word64) (s : State) : State :=
  if migRunning s.chd.mig then s else updMig (fun x => { x with accept := BitVec.ofNat 64 (v.toNat % 2 ^ 14) }) s

/-- CHD_MIG_CTRL_GO (R309). -/
def execChdMigCtrlGo (value : Word64) (s : State) : Host.Outcome State Fault Refusal := .next (settle (migGo value s))

/-- CHD_MIG_CTRL_CANCEL (R312). -/
def execChdMigCtrlCancel (value : Word64) (s : State) : Host.Outcome State Fault Refusal := .next (settle (migCancelHere (setCtrl value s)))

/-- CHD_MIG_ACCEPT_GO (R309). -/
def execChdMigAcceptGo (value : Word64) (s : State) : Host.Outcome State Fault Refusal := .next (settle (migArm value s))

/-- CHD_MIG_ACCEPT_CANCEL (R312). -/
def execChdMigAcceptCancel (value : Word64) (s : State) : Host.Outcome State Fault Refusal := .next (settle (migCancelHere (setAccept value s)))

/-- FLIT (R293, R294, R296). -/
def execFlit (link : Nat) (bytes : Bytes) (s : State) : Host.Outcome State Fault Refusal := .next (settle (receiveFlit link bytes s))

/-- NAK (R294). -/
def execNak (link ack : Nat) (s : State) : Host.Outcome State Fault Refusal := .next (settle (receiveNak link ack s))

/-- LANE_DROP (R295). -/
def execLaneDrop (link : Nat) (symbolErrors : List Nat) (s : State) : Host.Outcome State Fault Refusal := .next (settle (laneDrop link symbolErrors s))

/-- CHORD_DOWN (R292, R295). -/
def execChordDown (link cause : Nat) (s : State) : Host.Outcome State Fault Refusal := .next (settle (chordDown link cause s))

/-- RETRAIN (R292). -/
def execRetrain (link : Nat) (s : State) : Host.Outcome State Fault Refusal := .next (settle (retrain link s))

/-- TRAINING_COMPLETE (R292, R295, R299, R312). -/
def execTrainingComplete (link lanes : Nat) (s : State) : Host.Outcome State Fault Refusal := .next (settle (trainingComplete link lanes s))

/-- QUERY_CAST (R303). -/
def execQueryCast (link : Nat) (c : Cast) (s : State) : Host.Outcome State Fault Refusal := .next (settle (receiveCast link c s))

/-- CONTRIBUTION (R305, R306). -/
def execContribution (link : Nat) (c : Contrib) (s : State) : Host.Outcome State Fault Refusal := .next (settle (receiveContrib link c s))

/-- GAP (R304). -/
def execGap (qid : Nat) (s : State) : Host.Outcome State Fault Refusal := .next (settle (receiveGap qid s))

/-- TURN_SET (R299). -/
def execTurnSet (turn : Nat) (s : State) : Host.Outcome State Fault Refusal := .next (settle (receiveTurn turn s))

/-- MULTICAST_SLACK_EXPIRY (R304). -/
def execMulticastSlackExpiry (qid link : Nat) (s : State) : Host.Outcome State Fault Refusal := .next (settle (slackExpiry qid link s))

/-- GATHER_CUTOFF (R305). -/
def execGatherCutoff (qid : Nat) (s : State) : Host.Outcome State Fault Refusal := .next (settle (gatherCutoff qid s))

/-- MIG_OFFER (R310). Whether it moves or copies concerns the source alone. -/
def execMigOffer (link facet slot : Nat) (_mode : Bool) (geo : Geometry) (bytesHbm bytesFlash : Nat) (s : State) : Host.Outcome State Fault Refusal := .next (settle (receiveOffer link facet slot geo bytesHbm bytesFlash s))

/-- MIG_ACCEPT (R311). -/
def execMigAccept (link : Nat) (s : State) : Host.Outcome State Fault Refusal := .next (settle (receiveAccept link s))

/-- MIG_REFUSE (R310). -/
def execMigRefuse (link error : Nat) (s : State) : Host.Outcome State Fault Refusal := .next (settle (receiveRefuse link error s))

/-- MIG_UNIT (R311). -/
def execMigUnit (link : Nat) (part : MigPart) (s : State) : Host.Outcome State Fault Refusal := .next (settle (receiveUnit link part s))

/-- MIG_WRITE (R311). -/
def execMigWrite (link : Nat) (w : MigWrite) (s : State) : Host.Outcome State Fault Refusal := .next (settle (receiveWrite link w s))

/-- MIG_CUT_OVER (R311). -/
def execMigCutOver (link : Nat) (s : State) : Host.Outcome State Fault Refusal := .next (settle (receiveCutOver link s))

/-- MIG_DONE (R311). -/
def execMigDone (link : Nat) (s : State) : Host.Outcome State Fault Refusal := .next (settle (receiveDone link s))

/-- MIG_CANCEL (R312). -/
def execMigCancel (link : Nat) (s : State) : Host.Outcome State Fault Refusal := .next (settle (receiveCancel link s))

/-- MIGRATION_TIMEOUT (R312). -/
def execMigrationTimeout (s : State) : Host.Outcome State Fault Refusal := .next (settle (migLinkLost s))

end Sys2Proof.Machine
end

