-- ==== Sys2Proof/Machine/Commands.lean ====
section
/-! DEFINITION. The fetched commands of the opcode tables (R269, R280): each row is the fetch of one entry with its opcode,
and what that starts. What each does is `beginCmd` of Machine/Fetch.lean and the operations it names. -/

namespace Sys2Proof.Machine

/-- IDENTIFY (R270). -/
def execIdentify (e : Entry) (s : State) : Host.Outcome State Fault Refusal := .next (fetchEntry .identify e s)

/-- GET_LOG (R271). -/
def execGetLog (e : Entry) (s : State) : Host.Outcome State Fault Refusal := .next (fetchEntry .getLog e s)

/-- SET_FEATURE (R272, R375). -/
def execSetFeature (e : Entry) (s : State) : Host.Outcome State Fault Refusal := .next (fetchEntry .setFeature e s)

/-- GET_FEATURE (R272, R375). -/
def execGetFeature (e : Entry) (s : State) : Host.Outcome State Fault Refusal := .next (fetchEntry .getFeature e s)

/-- FW_DOWNLOAD (R273). -/
def execFwDownload (e : Entry) (s : State) : Host.Outcome State Fault Refusal := .next (fetchEntry .fwDownload e s)

/-- FW_COMMIT (R273, R274). -/
def execFwCommit (e : Entry) (s : State) : Host.Outcome State Fault Refusal := .next (fetchEntry .fwCommit e s)

/-- CREATE_QP (R242, R275). -/
def execCreateQp (e : Entry) (s : State) : Host.Outcome State Fault Refusal := .next (fetchEntry .createQp e s)

/-- DELETE_QP (R234, R275). -/
def execDeleteQp (e : Entry) (s : State) : Host.Outcome State Fault Refusal := .next (fetchEntry .deleteQp e s)

/-- ABORT (R259, R260). -/
def execAbort (e : Entry) (s : State) : Host.Outcome State Fault Refusal := .next (fetchEntry .abort e s)

/-- RESUME_QP (R256, R257). -/
def execResumeQp (e : Entry) (s : State) : Host.Outcome State Fault Refusal := .next (fetchEntry .resumeQp e s)

/-- LOAD_LATTICE (R29 to R45). -/
def execLoadLattice (e : Entry) (s : State) : Host.Outcome State Fault Refusal := .next (fetchEntry .loadLattice e s)

/-- FACET_CREATE (R47, R276). -/
def execFacetCreate (e : Entry) (s : State) : Host.Outcome State Fault Refusal := .next (fetchEntry .facetCreate e s)

/-- FACET_DESTROY (R236, R276). -/
def execFacetDestroy (e : Entry) (s : State) : Host.Outcome State Fault Refusal := .next (fetchEntry .facetDestroy e s)

/-- INDEX_CREATE (R50, R59, R277). -/
def execIndexCreate (e : Entry) (s : State) : Host.Outcome State Fault Refusal := .next (fetchEntry .indexCreate e s)

/-- INDEX_DROP (R278). -/
def execIndexDrop (e : Entry) (s : State) : Host.Outcome State Fault Refusal := .next (fetchEntry .indexDrop e s)

/-- EVR_CONTROL (R279, R333, R334). -/
def execEvrControl (e : Entry) (s : State) : Host.Outcome State Fault Refusal := .next (fetchEntry .evrControl e s)

/-- QUERY (R81, R103, R281). -/
def execQuery (e : Entry) (s : State) : Host.Outcome State Fault Refusal := .next (fetchEntry .query e s)

/-- QUERY_BATCH (R85, R281, R282). -/
def execQueryBatch (e : Entry) (s : State) : Host.Outcome State Fault Refusal := .next (fetchEntry .queryBatch e s)

/-- INSERT (R52, R122, R283). -/
def execInsert (e : Entry) (s : State) : Host.Outcome State Fault Refusal := .next (fetchEntry .insert e s)

/-- DELETE (R74, R122). -/
def execDelete (e : Entry) (s : State) : Host.Outcome State Fault Refusal := .next (fetchEntry .delete e s)

/-- LABEL_UPDATE (R76, R122). -/
def execLabelUpdate (e : Entry) (s : State) : Host.Outcome State Fault Refusal := .next (fetchEntry .labelUpdate e s)

/-- FETCH (R128, R285). -/
def execFetch (e : Entry) (s : State) : Host.Outcome State Fault Refusal := .next (fetchEntry .fetch e s)

/-- FLUSH (R135, R286). -/
def execFlush (e : Entry) (s : State) : Host.Outcome State Fault Refusal := .next (fetchEntry .flush e s)

/-- TRAIN (R182, R287). -/
def execTrain (e : Entry) (s : State) : Host.Outcome State Fault Refusal := .next (fetchEntry .train e s)

/-- RESKETCH (R147, R288). -/
def execResketch (e : Entry) (s : State) : Host.Outcome State Fault Refusal := .next (fetchEntry .resketch e s)

/-- ENCODE (R180, R289). -/
def execEncode (e : Entry) (s : State) : Host.Outcome State Fault Refusal := .next (fetchEntry .encode e s)

/-- MODEL_LOAD (R175, R176, R290). -/
def execModelLoad (e : Entry) (s : State) : Host.Outcome State Fault Refusal := .next (fetchEntry .modelLoad e s)

end Sys2Proof.Machine
end

