-- ==== Sys2Proof/Machine/FlashDone.lean ====
section
/-! DEFINITION. What comes back from flash: reads and segments (R20, R101, R109, R119, R133, R175, R179, R205, R224, R323, R324). -/

namespace Sys2Proof.Machine

-- Reads.

/-- A read that needed re-reads counts against its block (R323, R369). -/
def noteReread (pl : Nat × Nat × Nat) (sp : Nat × Nat) (n : Nat) (s : State) : State :=
  record 0x0301 (subj [pl.1, pl.2.1, pl.2.2]) [sp.1, sp.2, n] (bumpRas 28 1 (bumpRas 16 n
    { s with flash := { s.flash with rereads := s.flash.rereads.bump (blockKey pl.1 pl.2.1 pl.2.2 sp.1) 1 } }))

/-- A unit lost, from the epoch of the copy that queries of an epoch read (R324). -/
def loseUnit (e : Nat) (u : Unit') (s : State) : State :=
  record 0x0303 (subj [u.facet, u.slot]) [u.structure', u.list, u.unit % 2 ^ 32, u.unit / 2 ^ 32] (bumpRas 18 1
    { s with flash := { s.flash with lost := nub (s.flash.lost ++ [(u, pageEpoch s e u, none)]), rebuilding := s.flash.rebuilding.erase u } })

/-- Units of the parity group that have failed and not been rebuilt (R324). -/
def failedMates (s : State) (u : Unit') : List Unit' := (parityMates s u).filter fun v => s.flash.rebuilding.contains v || lostAt s (2 ^ 48) v

/-- A unit that still fails after its re-reads: it is rebuilt from its parity group, unless a second unit of the group has failed: then both are
lost (R324). -/
def failUnit (e : Nat) (u : Unit') (s : State) : State :=
  let mates := failedMates s u
  if mates.isEmpty then { s with flash := { s.flash with rebuilding := nub (s.flash.rebuilding ++ [u]) } }
  else (mates.filter s.flash.rebuilding.contains).foldl (fun t v => loseUnit (2 ^ 48) v t) (loseUnit e u s)

/-- Counts and events of a read's decoding (R323 to R325, R369): re-reads, a unit to rebuild, a unit lost. -/
def noteRead (pl : Nat × Nat × Nat) (e : Nat) (u : Unit') (r : ReadResult) (s : State) : State :=
  match r with
  | .ok 0 => s
  | .ok n => bumpRas 10 1 (noteReread pl (spotAt s e u) (min n 2) s)
  | .failed => failUnit e u (bumpRas 11 1 (noteReread pl (spotAt s e u) 2 s))
  | .lost => loseUnit e u (bumpRas 11 1 (noteReread pl (spotAt s e u) 2 s))

/-- A read that ends, of a unit that is not lost: its data moves, is charged as it was granted, and its decoding counts (R211, R218, R224,
R323). -/
def countRead (ch d pl : Nat) (r : Read) (res : ReadResult) (s : State) : State :=
  bump r.unit.facet (kFct 4) 4096 (noteRead (ch, d, pl) (readEpoch s r.purpose) r.unit res
    (chargeRead ch r.unit.facet (readClass s r) r.borrowed s))

/-- The read leaves its plane and its tag is free: a read that waits for one takes it, and the plane starts its next read (R205, R212). -/
def leavePlane (ch d : Nat) (r : Read) (s : State) : State :=
  startPlanes ch d (freeReadTag ch (busyEnded (.read r.order) (updDie ch d (fun x => { x with reads := x.reads.filter fun y => y.order != r.order }) s)))

/-- FLASH_READ_COMPLETE: the read in service on a plane ends. A lost unit fails at once, whatever is read (R324). -/
def readComplete (ch d pl : Nat) (res : ReadResult) (s : State) : State :=
  match (dieOf s ch d).reads.find? fun r => r.plane == pl && r.started with
  | none => s
  | some r =>
    let gone := lostAt s (readEpoch s r.purpose) r.unit
    let good := match res with
      | .ok _ => !gone
      | _ => false
    settle (readBack r.purpose good (leavePlane ch d r (if gone then s else countRead ch d pl r res s)))

/-- FLASH_READ_COMPLETE. -/
def execFlashReadComplete (channel die plane : Nat) (result : ReadResult) (s : State) : Host.Outcome State Fault Refusal :=
  .next (readComplete channel die plane result s)

-- Segments.

/-- FLASH_SPARE_LOW, once in an operating day (R324). -/
def spareCheck (s : State) : State :=
  if s.flash.sparePm < 50 && !s.flash.spareDayDone then
    record 0x0305 0 [s.flash.sparePm] { s with flash := { s.flash with spareDayDone := true } }
  else s

-- Copies of units (R195, R323, R324).

/-- The copy of a unit from a place is being programmed. -/
def moving (s : State) (u : Unit') (old : Nat) : Bool :=
  let mine := fun (g : Seg) => match g.work with
    | .move v o _ _ => v == u && o == old
    | _ => false
  s.flash.dies.any fun d => d.segs.any mine || d.run.any mine

/-- The copy of a unit to a new page begun under the SCRUB class, once all of it is granted: some units are read for it, and it is programmed. The
page map names the old place until then (R195, R219, R223, R323, R324; log 13). -/
def copyUnit (reads : List Job) (u : Unit') (s : State) : State :=
  let p := pageOf s u
  if moving s u p.1 then s
  else (allJobs u.facet 7 (.move u p.1 (newPage s u) p.2) (reads ++ programJobs [placeOf s u]) (useFree s)).getD s

/-- The newest page-map entry of a unit names a page of a block (R202). -/
def liesIn (s : State) (b : Nat × Nat × Nat × Nat) (u : Unit') : Bool := wordBlock (pageOf s u).1 == b && !lostAt s (2 ^ 48) u

/-- Units in a block, as the page map now stands. -/
def unitsIn (s : State) (b : Nat × Nat × Nat × Nat) : List Unit' :=
  (nub (s.flash.pages.map (·.1) ++ (s.idx.map allUnits).flatten)).filter (liesIn s b)

/-- Nothing is read from a block any more: no page-map entry names it, nor any page that queries of an older epoch read without an entry (R195). -/
def blockEmpty (s : State) (b : Nat × Nat × Nat × Nat) : Bool :=
  let old := fun (u : Unit') => !(s.flash.pages.any fun p => p.1 == u && p.2.1 ≤ floorEpoch s u.facet) && wordBlock (pageAt s 0 u).1 == b
  !(s.flash.pages.any fun p => wordBlock p.2.2.1 == b && !lostAt s p.2.1 p.1) &&
    !((s.idx.map allUnits).flatten.any fun u => old u && !lostAt s (2 ^ 48) u)

/-- A block retired (R323): it is never used again, what lies in it is relocated, and the spare reserve that is left is a free value (log 13). -/
def retireBlock (b : Nat × Nat × Nat × Nat) (cause : Nat) (s : State) : State :=
  let pm := min s.flash.sparePm (Config.sparePermille (s.flash.retired + 1))
  let rest := s.flash.leaving.filter (· != b)
  let s1 := { s with flash := { s.flash with
    retired := s.flash.retired + 1, sparePm := pm, bad := nub (s.flash.bad ++ [blockKey b.1 b.2.1 b.2.2.1 b.2.2.2]),
    leaving := if blockEmpty s b then rest else rest ++ [b] } }
  spareCheck (record 0x0304 (subj [b.1, b.2.1, b.2.2.1]) [b.2.2.2, cause, pm] (bumpRas 19 1 s1))

/-- A block whose contents are to go: the copies of its units begin, and once nothing is read from it any more it is retired, unless it has been
(R195, R323). -/
def leaveBlock (s : State) (b : Nat × Nat × Nat × Nat) : State :=
  let t := (unitsIn s b).foldl (fun t u => copyUnit (readJobs t [u]) u t) s
  if !blockEmpty t b then t
  else if t.flash.bad.contains (blockKey b.1 b.2.1 b.2.2.1 b.2.2.2) then { t with flash := { t.flash with leaving := t.flash.leaving.filter (· != b) } }
  else retireBlock b 0 t

/-- Every such block. -/
def leaveBlocks (s : State) : State := s.flash.leaving.foldl leaveBlock s

/-- FLASH_UNIT_REBUILT's event and count: a unit that failed at a place has been written anew (R324, R374). -/
def noteRebuilt (u : Unit') (old : Nat) (s : State) : State :=
  let b := wordBlock old
  record 0x0302 (subj [b.1, b.2.1, b.2.2.1]) [b.2.2.2, old / 2 ^ 12 % 4096, u.facet, u.slot] (bumpRas 17 1
    { s with flash := { s.flash with rebuilding := s.flash.rebuilding.erase u } })

/-- The copy of a unit is on flash: the page map names it from the facet's next epoch on, which publishes it, and it joins a parity group (R77, R195,
R324). A unit that has been written since keeps what was written. -/
def moveDone (u : Unit') (old word gen : Nat) (s : State) : State :=
  if (pageOf s u).1 != old then { s with flash := { s.flash with rebuilding := s.flash.rebuilding.erase u } }
  else
    let t := markChanged u.facet (joinParity u (putPage u (commitEpoch (facetOf s u.facet)) word gen s))
    leaveBlocks (if s.flash.rebuilding.contains u then noteRebuilt u old t else t)

/-- Layers of a graph: an attention begins one, which takes the matmuls behind it; a matmul before any attention is one by itself (R178,
R179; log 91). -/
def layersOf (ns : List ModelNode) : List (List ModelNode) :=
  (ns.filter inTiles).foldl (fun acc n =>
    if n.op == 1 || !((acc.getLast?.getD []).any fun p => p.op == 1) then acc ++ [[n]] else acc.dropLast ++ [acc.getLast?.getD [] ++ [n]]) []

/-- Largest slice of a layer's matrices over n regions, in whole tiles (R178, R179). -/
def largestSlice (m : ModelRec) (n : Nat) : Nat :=
  let slice := fun (fmt k w : Nat) =>
    let cols := roundUp 32 w
    matrixBytes fmt k cols * (16 * cdiv (cols / 16) (max 1 n)) / max 1 cols
  let mats := fun (x : ModelNode) =>
    let w := fun i => x.shape.getD i 0
    if x.op == 0 then slice x.format (w 0) (w 1) else 4 * slice x.format (w 0) (w 0)
  ((layersOf m.nodes).map fun l => (l.map mats).sum).foldl max 0

/-- Regions of a facet. -/
def regionsOf (s : State) (f : Nat) : Nat := (((facetRec s f).map FacetRec.regions).getD []).length

/-- A facet's unused stacked share in its region with the least: its slices lie above its regions in proportion to its blocks (R179, R199). -/
def regionRoom (s : State) (f : Nat) : Nat :=
  match facetRec s f with
  | none => 0
  | some r =>
    let rooms := r.regions.map (blockPart r (stackedFree s f))
    rooms.foldl min (rooms.headD 0)

/-- The slot prefetches its layers: twice its largest slice fits the unused stacked share of each region (R179). -/
def prefetches (s : State) (f : Nat) (m : ModelRec) : Bool := 2 * largestSlice m (regionsOf s f) ≤ regionRoom s f

/-- The share's part that prefetch buffers use (R179): two slices per region of each READY slot that prefetches. -/
def prefetchBytes (s : State) (f : Nat) : Nat :=
  ((s.mods.filter fun m => m.facet == f && m.state == 2 && m.prefetched).map fun m =>
    ((modelRec s f m.slot).map fun r => 2 * largestSlice r (regionsOf s f) * regionsOf s f).getD 0).foldl max 0

/-- Which READY slots prefetch, as the unused stacked shares now stand (R179). -/
def refreshPrefetch (s : State) : State :=
  { s with mods := s.mods.map fun m => { m with
      prefetched := m.state == 2 && ((modelRec s m.facet m.slot).map (prefetches s m.facet)).getD false } }

/-- Length a stacked copy would cover, and the publish epoch of what it copies. -/
def copySpan (ix : Index) (key : Nat) : Nat × Nat :=
  if key == sideKey then (ix.committed, 0)
  else if ix.geo.mode == 0 then ((curCopy (listOf ix key)).pos.length, (curCopy (listOf ix key)).pub)
  else (lengthAt (curArray ix) (2 ^ 48), (curArray ix).pub)

/-- Bytes of a list's sketch records. -/
def listSize (ix : Index) (key : Nat) : Nat :=
  ((copySpan ix key).1 - (if key == sideKey then ix.head else 0)) * recordBytes ix.geo key

/-- Rooms of the 8 slices in some bytes of a facet's stacked share (R199). -/
def sliceRooms (s : State) (f amount : Nat) : List Nat := (List.range 8).map (sliceRoom s f amount)

/-- Stacked copies of a facet that stay when weights take part of its share: in rank order, those that fit what is left of their slices (R175,
R199, R200). -/
def fitCopies (s : State) (f : Nat) : List (Nat × Nat × Nat × Nat × Nat) :=
  let size := fun (c : Nat × Nat × Nat × Nat × Nat) => ((idxOf s f c.2.1).map fun ix =>
    (c.2.2.2.1 - (if c.2.2.1 == sideKey then ix.head else 0)) * recordBytes ix.geo c.2.2.1).getD 0
  (s.mem.copies.foldl (fun (acc : List (Nat × Nat × Nat × Nat × Nat) × List Nat) c =>
    let g := copySlice s c.1 c.2.1 c.2.2.1
    if c.1 != f then (acc.1 ++ [c], acc.2)
    else if size c ≤ acc.2.getD g 0 then (acc.1 ++ [c], acc.2.set g (acc.2.getD g 0 - size c)) else acc) ([], sliceRooms s f (stackedFree s f))).1

/-- Weights are on flash: they replace the old ones, and the slot is READY at the next boundary (R170, R176). -/
def weightsWritten (c : Cmd) (s : State) : State := updMod c.facet c.model (fun m => { m with toReady := some c.tag }) s

/-- At a boundary, slots whose weights are in place become READY and their MODEL_LOADs complete (R170, R175, R176, R179, R290). What
does not fit HBM takes stacked memory, whose copies there stop serving. -/
def readySlot (m : ModelSlot) (s : State) : State :=
  match m.toReady.bind (cmdOf s), modelRec s m.facet m.slot with
  | some c, some r =>
    let s1 := updMod m.facet m.slot (fun x => { x with weights := [], adapter := [], adapterRank := 0, stackedBytes := 0 }) s
    let over' := r.weightBytes - hbmFree s1 m.facet
    let s2 := updMod m.facet m.slot (fun x => { x with
      state := 2, weights := c.data, newAdapter := none, stackedBytes := over', toReady := none }) s1
    let copies := fitCopies s2 m.facet
    let slices := s2.mem.slices.filter fun p => copies.any fun c => (c.1, c.2.1, c.2.2.1) == p.1
    let s3 := { s2 with mem := { s2.mem with copies := copies, slices := slices } }
    succeed c (leBytes 1 (flagBit 0 (prefetches s3 m.facet r)) ++ List.replicate 7 0 ++ leBytes 8 over') s3
  | _, _ => updMod m.facet m.slot (fun x => { x with toReady := none }) s

/-- Every such slot; and which slots prefetch is settled anew (R179). -/
def readySlots (s : State) : State := refreshPrefetch ((s.mods.filter fun m => m.toReady.isSome).foldl (fun t m => readySlot m t) s)

/-- The flash writes of a command are done. -/
def writesDone (tag : Nat) (s : State) : State :=
  match cmdOf s tag with
  | none => s
  | some c => match c.op with
    | .modelLoad => weightsWritten c s
    | .indexCreate => endIndexCreate c s
    | .fwCommit => endFwCommit c s
    | _ => s

/-- A command's flash program failed for good (R267): MEDIA_ERROR, and a MODEL_LOAD's slot is EMPTY (R176). -/
def writesFailed (tag : Nat) (s : State) : State :=
  match cmdOf s tag with
  | none => s
  | some c =>
    let s1 := { s with fw := { s.fw with committing := if s.fw.committing == some tag then none else s.fw.committing } }
    finish c stMedia 0 0 [] running0 (if c.op == .modelLoad then emptySlot c.facet c.model s1 else s1)

/-- What a finished segment's work was for (R133, R175, R195, R236, R278). -/
def segDone (g : Seg) (s : State) : State :=
  match g.work with
  | .log f e => logUnitDone f e s
  | .cmd t => writesDone t s
  | .unit _ _ => s
  | .ended => s
  | .scrub f => scrubOn s f
  | .move u old word gen => moveDone u old word gen s

/-- The block of a failing program or erase, in the plane that it is for: the one that it names, or that its copy goes to, else the firmware's choice
(R202, R203, R323; log 13). -/
def failBlock (ch d : Nat) (g : Seg) (s : State) : Nat × Nat × Nat × Nat :=
  let free := goodBlock s (ch, d, g.plane) (s.flash.bad.length + 1) ((Config.flashSpot s.free).1 % 16384)
  (ch, d, g.plane, match g.work with
    | .move _ _ w _ => (wordBlock w).2.2.2
    | _ => g.block.getD free)

/-- A failed program as it is repeated: the copy of a unit goes to another page (R323). -/
def Seg.again (s : State) (g : Seg) : Seg :=
  match g.work with
  | .move u old _ gen => { g with work := .move u old (newPage s u) gen }
  | _ => g

/-- Units that a program's data was (R224): one for the log, a command's data in units. The data of an index's units was charged when it was sent to
be programmed. -/
def sentUnits (s : State) (w : SegWork) : Nat :=
  match w with
  | .log _ _ => 1
  | .cmd t => cdiv (((cmdOf s t).map fun c => c.data.length).getD 0) 4096
  | _ => 0

/-- Units whose data a failed program had been sent, and is sent again (R224, R323). -/
def failedUnits (s : State) (w : SegWork) : Nat :=
  match w with
  | .unit _ _ => 1
  | .move _ _ _ _ => 1
  | _ => sentUnits s w

/-- A segment has left its die: what is left of it waits for the next one, and no stopped command waits for it (R205, R225, R259). -/
def leaveDie (ch d : Nat) (rest : Option Seg) (s : State) : State :=
  let keep := (rest.filter fun g => g.work != .ended).map fun g => { g with borrowed := false, since := 0 }
  startPlanes ch d (busyEnded (.segment ch d) (updDie ch d (fun y => { y with run := none, segs := keep.toList ++ y.segs }) s))

/-- FLASH_SEGMENT_COMPLETE (R205, R224, R323, R324). After a failure the block is retired and the data programmed again; an erase is not repeated.
Without a spare block a log program waits and a command's program fails. -/
def segmentComplete (ch d : Nat) (res : SegResult) (s : State) : State :=
  let x := dieOf s ch d
  match x.run with
  | none => s
  | some g =>
    if x.suspended then s
    else
      let erase := match g.work with
        | .scrub _ => true
        | _ => false
      let s1 := chargeDie x s
      settle (match res with
        | .more => leaveDie ch d (some g) s1
        | .done => segDone g (moveUnits ch g.facet g.cls (sentUnits s g.work) (leaveDie ch d none s1))
        | .failed =>
          let s2 := bumpRas 29 1 (retireBlock (failBlock ch d g s1) (if erase then 2 else 1) (useFree s1))
          let s3 := leaveDie ch d (if erase then none else some (g.again s2)) (moveUnits ch g.facet g.cls (failedUnits s g.work) s2)
          leaveBlocks (if erase then segDone g s3 else s3)
        | .noSpare =>
          let s2 := spareCheck { s1 with flash := { s1.flash with sparePm := 0 } }
          match g.work with
          | .cmd tag => writesFailed tag (leaveDie ch d none s2)
          | _ => leaveDie ch d (some g) s2)

/-- FLASH_SEGMENT_COMPLETE. -/
def execFlashSegmentComplete (channel die : Nat) (result : SegResult) (s : State) : Host.Outcome State Fault Refusal :=
  .next (segmentComplete channel die result s)

/-- FLASH_SEGMENT_SUSPEND: at its suspend point a running segment yields to waiting reads of APEX, PRIME or BULK (R205). Its
time so far is charged (R222, R224). -/
def suspendSegment (ch d : Nat) (s : State) : State :=
  let x := dieOf s ch d
  match x.run with
  | none => s
  | some g =>
    if x.suspended || !urgentWaits x then s
    else
      settle (startPlanes ch d (busyEnded (.segment ch d) (updDie ch d (fun y => { y with suspended := true, run := some { g with since := now s } }) (chargeDie x s))))

/-- FLASH_SEGMENT_SUSPEND. -/
def execFlashSegmentSuspend (channel die : Nat) (s : State) : Host.Outcome State Fault Refusal :=
  .next (suspendSegment channel die s)

end Sys2Proof.Machine
end

