-- ==== Sys2Proof/Machine/Sched.lean ====
section
/-! DEFINITION. Batch-step boundaries, admission, turns and SYNC_IN (R77, R83 to R85, R104, R128, R170, R182, R183, R220 to R226, R230,
R236, R237, R278, R299, R303, R305, R311, R347 to R349). -/

namespace Sys2Proof.Machine

-- Admission.

/-- What a host query or a domain query brings with it. -/
structure Asked where
  origin : Nat → Origin
  facet : Nat
  slot : Nat
  cls : Nat
  area : Cmd
  records : Bytes
  since : Nat
  deadline : Nat

/-- Query i of what is asked, in a context and on a walker (R81, R103, R281). -/
def askedQuery (s : State) (ix : Index) (a : Asked) (i ctx w : Nat) : Query :=
  let g := ix.geo
  let r := slice (queryRecSize g * i) (queryRecSize g) a.records
  let graph := g.mode == 1
  { blankQuery ctx (a.origin i) a.facet a.slot with
    cls := a.cls, k := a.area.k, r := a.area.rerank, nprobe := a.area.nprobe, scanLimit := a.area.scanLimit,
    deadline := a.deadline, since := a.since, beam := if graph then a.area.beam else 0,
    width := if graph then a.area.width else 0, allOf := field 0 8 r, anyOf := field 8 8 r, noneOf := field 16 8 r,
    vec := slice 32 (g.dims * elemSize g.storage) r, epoch := (facetOf s a.facet).epoch, s0 := s0Of s a.facet,
    stage := if graph then .sketch else .coarse, cohort := s.srch.cohort, walker := w,
    sentinel := !graph && isSentinel (slice 32 (g.dims * elemSize g.storage) r) }

/-- A number above every cell's: the walker of a graph query of a facet that has none. -/
def noWalker : Nat := 4096

/-- One query put in a context, and a graph query on a walker while its facet has any (R84, R104; log 38). -/
def seat (graph : Bool) (f cls : Nat) (mk : Nat → Nat → Query) (s : State) : Option State :=
  match takeCtx s f cls with
  | none => none
  | some x =>
    let add := fun (w : Nat) => { s with srch := { s.srch with queries := s.srch.queries ++ [mk x w] } }
    if graph && !(roleCells s f 1).isEmpty then
      (nextWalker s f).map fun w => updFacet f (fun y => { y with walkerPtr := w + 1 }) (add w)
    else some (add noWalker)

/-- All queries of an entry together, or none (R85). -/
def seatAll (s : State) (ix : Index) (a : Asked) : Option State :=
  (List.range a.area.queries).foldl (fun (acc : Option State) i =>
    acc.bind (seat (ix.geo.mode == 1) a.facet a.cls (askedQuery s ix a i))) (some s)

/-- Admission of one facet at a boundary as it goes along: which classes are stopped, which waited, what stays queued. -/
structure Adm where
  st : State
  stopPB : Bool
  stopA : Bool
  waited : List Nat
  rest : List Nat

/-- An entry that finds room is admitted; one that does not keeps its place and stops its class: PRIME and BULK together (R84). -/
def admitAsked (e : Nat) (ix : Index) (a : Asked) (after : State → State) (m : Adm) : Adm :=
  let wait := { m with rest := m.rest ++ [e], waited := nub (m.waited ++ [a.cls]) }
  if (if a.cls == 0 then m.stopA else m.stopPB) then wait
  else match seatAll m.st ix a with
    | some t => { m with st := after t }
    | none => if a.cls == 0 then { wait with stopA := true } else { wait with stopPB := true }

/-- A command's queries. -/
def cmdAsked (s : State) (c : Cmd) : Asked :=
  ⟨.host c.tag, c.facet, c.slot, c.cls, c, c.data, c.at', if c.deadline == 0 then (budgetOf s c.facet c.cls).deadline else c.deadline⟩

/-- A domain query's own part here: the local deadline of R305. -/
def domAsked (s : State) (d : DomQ) : Asked :=
  ⟨.domain d.qid, d.facet, d.slot, d.cls, areaCmd d.area, d.records, d.fetched, max 1 (d.d - 5 - 4 * ownDepth s)⟩

/-- A queue entry above every tag stands for a domain query. -/
def domEntry (qid : Nat) : Nat := 65537 + qid

/-- A command whose queries have entered search. -/
def nowRunning (tag n : Nat) (s : State) : State :=
  match cmdOf s tag with
  | some c => setPhase tag .running (updCmd tag (fun x => { x with left := n, epoch := (facetOf s c.facet).epoch }) s)
  | none => s

/-- One entry of a facet's admission queue. A domain query whose shard can no longer answer counts as missing (R301). -/
def admitEntry (m : Adm) (e : Nat) : Adm :=
  if e < 65536 then
    match cmdOf m.st e with
    | none => m
    | some c => match c.index m.st with
      | none => m
      | some ix => admitAsked e ix (cmdAsked m.st c) (nowRunning e c.queries) m
  else
    match domOf m.st (e - 65537) with
    | none => m
    | some d =>
      if d.closed then m
      else if shardMissing m.st d.facet d.slot d.area then
        { m with st := tryGather d.qid (updDom d.qid (fun y => { y with own := some (missingParts d.facet d.slot d.cls d.qid d.count) }) (bump d.facet (kFct 18) d.count m.st)) }
      else match idxOf m.st d.facet d.slot with
        | none => m
        | some ix => admitAsked e ix (domAsked m.st d) (nowRunning d.tag d.count) m

/-- Mining searches of a TRAIN take contexts as BULK does, as many as there are (R183, R219). -/
def admitMining (tag : Nat) : Nat → State → State
  | 0, s => s
  | n + 1, s =>
    match s.srch.train.find? (·.tag == tag), cmdOf s tag with
    | some j, some c =>
      match idxOf s j.facet j.slot with
      | none => s
      | some ix =>
        if j.phase != 1 || c.trainM ≤ j.nextMine then s
        else match seat (ix.geo.mode == 1) j.facet 14 (fun x w => { mineQuery ix c j x j.nextMine s.srch.cohort with walker := w, s0 := s0Of s j.facet }) s with
          | none => s
          | some t => admitMining tag n { t with srch := { t.srch with
              train := updFirst (·.tag == tag) (fun y => { y with nextMine := y.nextMine + 1 }) t.srch.train } }
    | _, _ => s

/-- The first tiles of a facet's new cohort, shared by queries of one index, class and epoch (R86, R87, R104). -/
def cohortTiles (f : Nat) (s : State) : State :=
  let qs := s.srch.queries.filter fun q => q.facet == f && q.cohort == s.srch.cohort
  let keys := nub (qs.map fun q => (q.slot, q.cls, q.epoch, q.s0))
  let ts := keys.map fun k =>
    match idxOf s f k.1 with
    | some ix => firstTiles s ix k.2.2.1 k.2.1 k.2.2.2 ((qs.filter fun q => (q.slot, q.cls, q.epoch, q.s0) == k).map (·.ctx))
    | none => []
  { s with srch := { s.srch with tiles := s.srch.tiles ++ ts.flatten } }

/-- Mining searches of a facet's admitted TRAINs take contexts (R183). -/
def admitMinings (f : Nat) (s : State) : State :=
  (s.srch.train.filter (·.facet == f)).foldl (fun t j => admitMining j.tag 15360 t) s

/-- Admission of a facet (R83 to R85): queries, mining searches, ENCODEs and TRAINs; the classes that waited are counted (R102). While a partial
load pauses the facet, only TRAINs that were admitted before go on with their searches (R43 step 2). -/
def admitFacet (s : State) (f : Nat) : State :=
  let x := facetOf s f
  if x.state == 0 || x.state == 3 then s
  else if x.paused then cohortTiles f (admitMinings f s)
  else
    let m := x.admission.foldl admitEntry ⟨s, false, false, [], []⟩
    let s1 := updFacet f (fun y => { y with admission := m.rest }) m.st
    let s2 := m.waited.foldl (fun t c => bump f (kCls c 9) 1 t) s1
    let s3 := if m.stopPB then s2 else admitMinings f s2
    cohortTiles f (admitTrains f (admitEncodes f s3))

/-- A full image waits to be applied, or is being applied (R42). -/
def fullLoad (s : State) : Bool := s.lat.load.any fun l => !l.part

/-- Domain queries whose common boundary has come join their facets' queues (R303); the parent's wait while a full load quiesces the
facets (R42). -/
def joinDomains (s : State) : State :=
  (s.chd.dom.filter fun d => d.waitBoundary && stepsTo s d.boundary ≤ 0 && (d.root || !fullLoad s)).foldl (fun t d =>
    updFacet d.facet (fun x => { x with admission := x.admission ++ [domEntry d.qid] })
      (updDom d.qid (fun y => { y with waitBoundary := false }) t)) s

-- Batch-step boundaries.

/-- The facet's epoch advances when something committed or was published in the step that ends (R77), and its ended epochs'
records are queued (R133). -/
def advanceEpoch (s : State) (f : Nat) : State :=
  let x := facetOf s f
  if x.changed then
    closeReady f (x.log.length + 1) (updFacet f (fun y => { y with epoch := y.epoch + 1, changed := false }) s)
  else s

/-- Stacked copies of lists whose new HBM base has been published go (R201). -/
def dropStale (s : State) : State :=
  let due := fun (p : (Nat × Nat × Nat) × Nat) => p.2 ≤ (facetOf s p.1.1).epoch
  { s with mem := { s.mem with
      copies := s.mem.copies.filter (fun c => !s.mem.stale.any fun p => due p && p.1 == (c.1, c.2.1, c.2.2.1) && c.2.2.2.2 < p.2),
      stale := s.mem.stale.filter fun p => !due p } }

/-- Contexts of completed queries are freed (R84 step 1); those of a batch wait for its completion. -/
def freeContexts (s : State) : State :=
  { s with srch := { s.srch with freeing := s.srch.freeing.filter fun p => match p.2.2 with
      | some n => s.cmds.any (·.seq == n)
      | none => false } }

/-- A new adapter and a new stage-0 format take force (R167, R192). -/
def takeForce (s : State) : State :=
  let adapt := fun (m : ModelSlot) => match m.newAdapter with
    | some a => { m with adapterRank := a.1, adapter := a.2, newAdapter := none }
    | none => m
  let form := fun (x : Facet) => match x.s0Next with
    | some n => { x with s0 := some n, s0Next := none }
    | none => x
  { s with mods := s.mods.map adapt, facets := s.facets.map form }

/-- FETCHes whose state was read in the step that ends take its epoch (R128; log 24). -/
def stampFetches (s : State) : State :=
  let up := fun (c : Cmd) =>
    if c.op == .fetch && c.phase == .running && c.ef.isNone then { c with ef := some (facetOf s c.facet).epoch } else c
  { s with cmds := s.cmds.map up }

/-- A partial load pauses its facets from the next boundary on (R43 step 1). -/
def pauseFacets (s : State) : State :=
  match s.lat.load with
  | some l =>
    if l.part then (loadFacets s l).foldl (fun t f => updFacet f (fun x => { x with paused := true }) t) s else s
  | none => s

/-- The order in which facets are served: rotating from admission's own pointer (R16, R230). -/
def facetOrder (s : State) : List Nat := sortBy (fun a b => rotKey s arbAdmit a ≤ rotKey s arbAdmit b) (s.facets.map (·.num))

/-- A facet's turn at admission; the pointer moves past a facet that was granted contexts (R16, R230). -/
def serveFacet (s : State) (f : Nat) : State :=
  let t := admitFacet s f
  if s.srch.queries.length < t.srch.queries.length then rotateTo arbAdmit f t else t

/-- What a boundary closes: the epochs of the step that ends, the contexts of what has completed, the indexes to drop, and what takes force
here. -/
def closeStep (s : State) : State :=
  let s1 := dropStale ((s.facets.map (·.num)).foldl advanceEpoch s)
  pauseFacets (stampFetches (takeForce (readySlots (startDrops (freeContexts s1)))))

/-- What a boundary opens: a new cohort, with the domain queries and the facets' admissions, and a migration's transfer; the floor epochs move on, and
scrubs and relocations go on (R236, R323). -/
def openStep (s : State) : State :=
  let s1 := joinDomains { s with srch := { s.srch with cohort := s.srch.cohort + 1 } }
  let s2 := migBoundary ((facetOrder s1).foldl serveFacet s1)
  leaveBlocks (scrubsOn (s2.facets.foldl (fun t x => floorAdvance x.num t) s2))

/-- A batch-step boundary. -/
def boundary (s : State) : State := settle (openStep (closeStep (migPublish s)))

/-- The clocks of the main package run (R340 to R342). -/
def clocked (s : State) : Bool :=
  s.brd.mainPower && s.brd.rst.accepted && (s.brd.phase == .starting || s.brd.phase == .running) && !s.brd.fatal

/-- BATCH_STEP_BOUNDARY inside a turn: 25.6, 51.2 and 76.8 µs after its start (R220, R347). -/
def batchStep (s : State) : State :=
  if clocked s && s.srch.stepNo < 3 && s.brd.turnStart + 25600 * (s.srch.stepNo + 1) ≤ now s then
    boundary { s with srch := { s.srch with stepNo := s.srch.stepNo + 1 } }
  else s

/-- BATCH_STEP_BOUNDARY. -/
def execBatchStepBoundary (s : State) : Host.Outcome State Fault Refusal := .next (batchStep s)

-- Turns.

/-- Work that spans the turn boundary is charged up to now (R222). -/
def chargeRunning (s : State) : State :=
  let s1 := (s.srch.cells.filter (·.run.isSome)).foldl (fun t c =>
    updCell c.cell (fun y => { y with since := max y.since (now s) }) (chargeCell c t)) s
  let s2 := (s.srch.engines.filter (·.run.isSome)).foldl (fun t e => chargeEngine e t) s1
  let s3 := { s2 with srch := { s2.srch with
    engines := s2.srch.engines.map fun e => if e.run.isSome then { e with since := now s } else e } }
  (s.flash.dies.filter fun d => d.run.isSome && !d.suspended).foldl (fun t d =>
    updDie d.channel d.die (fun y => { y with run := y.run.map fun r => { r with since := now s } }) (chargeDie d t)) s3

/-- The turn's input energy attributed to facets by their ticks; with no ticks, and what division leaves, to none (R237). -/
def attributeEnergy (s : State) : State :=
  let e := s.brd.mV * s.brd.mA * (now s - s.brd.turnStart) / 1000000
  let ticks := s.srch.turnTicks
  let total := (ticks.map (·.2)).sum
  let part := fun (n : Nat) => if total == 0 then 0 else e * n / total
  let s1 := ticks.foldl (fun t p => updFacet p.1 (fun x => { x with energyNj := x.energyNj + part p.2 }) t) s
  { s1 with srch := { s1.srch with
      turnTicks := [], idleNj := s1.srch.idleNj + (e - (ticks.map fun p => part p.2).sum) } }

/-- Debt is carried over and credit refilled (R221, R226); byte credit left over is lost (R210). -/
def refill (s : State) : State :=
  { s with srch := { s.srch with debt := turnDebt s, spent := [], bytes := [] } }

/-- Step 5 of a teardown (R236): the facet is DECLARED again, its debt is gone and FACET_DESTROY completes. -/
def endTeardown (s : State) (f : Nat) : State :=
  let x := facetOf s f
  if x.teardown != some 5 then s
  else
    let s1 := updFacet f (fun y => { y with state := 0, cause := 0, teardown := none, destroyTag := none }) s
    let s2 := { s1 with srch := { s1.srch with
      debt := s1.srch.debt.filter (fun d => d.1.2.1 != f), spent := s1.srch.spent.filter (fun d => d.1.2.1 != f) } }
    match x.destroyTag.bind (cmdOf s2) with
    | some c => succeed c [] s2
    | none => s2

/-- The counters of every facet as they stand at the turn boundary (R365). -/
def snapshot (s : State) : State :=
  { s with srch := { s.srch with snap := (s.facets.filter fun x => declared s x.num).map fun x =>
      (x.num, x.ctr, x.energyNj, prefetchGauge s x.num) } }

/-- Virtual channels of a link that waited for credit in the turn, counted for it; those that wait now begin the next turn's list (R368). -/
def countStall (l : Link) (s : State) : State :=
  let w := (Link.waits l).filter fun _ => linkUsable s l.num
  updLink l.num (fun y => { y with waited := w })
    (((List.range 4).filter fun v => l.waited.contains v || w.contains v).foldl (fun u v => bumpLink l.num (8 + v) 1 u) s)

/-- Every link's. -/
def countStalls (s : State) : State := s.chd.links.foldl (fun t l => countStall l t) s

/-- Corrected errors of the stacked memory's parts in the turn that ends: entries 2, 4 and 6 of RAS_COUNT (R319, R369; log 94). -/
def countStacked (s : State) : State :=
  useFree ([2, 4, 6].foldl (fun t n => bumpRas n (Config.correctedErrors s.free n) t) s)

/-- A corrected error of an HBM row between patrol passes (R319, R369); the fourth is HBM_ROW_FAILURE's. -/
def countRow (r : Nat × Nat × Nat × Nat) (s : State) : State :=
  let n := look 0 r s.mem.rowErrs
  if 3 ≤ n then s else bumpRas 8 1 { s with mem := { s.mem with rowErrs := put r (n + 1) s.mem.rowErrs } }

/-- Corrected errors of HBM rows in the turn that ends (R319; log 94). -/
def countRows (s : State) : State := useFree ((Config.correctedRows s.free).foldl (fun t r => countRow r t) s)

/-- Another turn of the promotion cycle (R200), and of corrected errors (R319). -/
def countTurn (s : State) : State :=
  let s1 := countRows (countStacked s)
  { s1 with mem := { s1.mem with cycleTurns := s1.mem.cycleTurns + 1 } }

/-- The turn that ends is accounted for, and the next one's credit is set (R220, R221, R349). -/
def newTurn (s : State) : State :=
  let s1 := countTurn (refill (countStalls (attributeEnergy (chargeRunning s))))
  let s2 := (s1.facets.map (·.num)).foldl endTeardown s1
  let s3 := snapshot { s2 with srch := { s2.srch with
    weights := turnWeights s2, budgets := s2.cfg.budgets, masks := turnMasks s2, turn := (s2.srch.turn + 1) % 2 ^ 32, stepNo := 0 } }
  emit .syncOut { s3 with brd := { s3.brd with turnStart := now s3 } }

/-- A turn starts. -/
def turnBoundary (s : State) : State := boundary (newTurn s)

-- SYNC_IN (R347, R348).

/-- Locked, and pulses start the turns. -/
def synced (s : State) : Bool := s.brd.locked && 4 ≤ s.brd.inWindow

/-- No pulse has come in time: 112.64 µs from the start of a turn that a pulse began, or from the pulse that locked while no turn has begun with
one yet (R348; log 47). -/
def pulseMissing (s : State) : Bool :=
  s.brd.locked && (if synced s then s.brd.turnStart + 112640 ≤ now s else s.brd.lastPulse.all fun p => p + 112640 ≤ s.brd.aon)

/-- SYNC_TIMEOUT (R348): the lock ends; a turn that pulses would have started starts here. -/
def syncLost (s : State) : State :=
  if clocked s && pulseMissing s then
    let s1 := record 0x0503 0 [0xFFFFFFFF] { s with brd := { s.brd with locked := false, inWindow := 0, syncInterval := 0xFFFFFFFF } }
    if synced s then turnBoundary s1 else s1
  else s

/-- SYNC_TIMEOUT. -/
def execSyncTimeout (s : State) : Host.Outcome State Fault Refusal := .next (syncLost s)

/-- What an accepted rising edge of SYNC_IN does to the lock and the turn (R347, R348; log 47). The interval from the last one is measured in
always-on time, which runs on while main power is off. -/
def syncPulse (s : State) : State :=
  let n := s.brd.aon
  let gap := s.brd.lastPulse.map fun p => n - p
  let b := { s.brd with lastPulse := some n, syncInterval := min (gap.getD 0xFFFFFFFF) 0xFFFFFFFF }
  let good := gap.any fun g => 92160 ≤ g && g ≤ 112640
  if !clocked s then { s with brd := { s.brd with lastPulse := some n } }
  else if b.locked then
    if good then turnBoundary { s with brd := { b with inWindow := 4 } }
    else record 0x0503 0 [b.syncInterval] { s with brd := { b with locked := false, inWindow := 0 } }
  else if !good then { s with brd := { b with inWindow := 0 } }
  else if 2 ≤ b.inWindow then { s with brd := { b with locked := true, inWindow := 3 } }
  else { s with brd := { b with inWindow := b.inWindow + 1 } }

/-- A rising edge that the filter accepts (R344, R370): its lock-out of 10 µs runs. -/
def acceptEdge (s : State) (p : PinSt) (level : Bool) : PinSt :=
  { p with accepted := level, filtered := level, lockEnd := some (s.brd.aon + 10000), acc := (p.acc + 1) % 2 ^ 32,
           secAcc := p.secAcc + 1 }

/-- An input's lock-out runs (R344). -/
def lockedOut (s : State) (p : PinSt) : Bool := p.lockEnd.any (s.brd.aon < ·)

/-- SYNC_IN rises: the edge is accepted when the accepted level is low and no lock-out runs (R344). A timeout that is due comes
first. -/
def syncIn (s : State) : State :=
  if !s.brd.aux5 || s.brd.sync.accepted || lockedOut s s.brd.sync then s
  else
    let s1 := syncLost s
    syncPulse { s1 with brd := { s1.brd with sync := acceptEdge s1 s1.brd.sync true } }

/-- SYNC_IN_PULSE. -/
def execSyncInPulse (s : State) : Host.Outcome State Fault Refusal := .next (syncIn s)

/-- FREE_RUNNING_TURN (R348): every 102.4 µs while no pulse starts the turns. -/
def freeTurn (s : State) : State :=
  if clocked s && !synced s && s.brd.turnStart + 102400 ≤ now s then turnBoundary s else s

/-- FREE_RUNNING_TURN. -/
def execFreeRunningTurn (s : State) : Host.Outcome State Fault Refusal := .next (freeTurn s)

end Sys2Proof.Machine
end

