-- ==== Sys2Proof/Machine/Thermal.lean ====
section
/-! DEFINITION. Power states, keep-alive, temperatures, the power limiter, the sensors and the recorder's seconds (R258, R261, R262,
R318, R324, R326, R330, R333, R345, R351). -/

namespace Sys2Proof.Machine

/-- A meaning whose effect may change the health word: the change is counted (R253). -/
def counted (g : State → State) (s : State) : State := countHealth s (g s)

-- Power states (R261, R262).

/-- Background work runs on some unit (R261: PS2 is entered once it has reached its next boundary or suspend point). -/
def backgroundRuns (s : State) : Bool :=
  (s.srch.cells.any fun c => c.run.any fun v => background (v.cls % 8)) ||
  (s.srch.engines.any fun e => e.run.any fun t => background (t.cls % 8)) ||
  s.flash.dies.any fun d => !d.suspended && d.run.any fun g => background g.cls

/-- A transition's entry can finish (R261, R262); in PS3 the flash is idle. -/
def entryDone (s : State) (t : PsTrans) : Bool :=
  if t.target == 3 then s.cmds.all (·.tag == t.tag) && s.flash.dies.all fun d => (d.run.isNone || d.suspended) && d.reads.all (!·.started)
  else t.target != 2 || !backgroundRuns s

/-- A lower clock is needed to hold a cap or a temperature: the die is throttled, the brake is on, or a stack or the die is critical (R326,
R345). -/
def clockHeld (s : State) : Bool := 2 ≤ s.brd.thermal.getD 8 0 || braked s || (s.brd.thermal.take 9).any (· == 3)

/-- The CORE clock a lifted cap leaves: 1.4 GHz, unless something else holds it down (R318, R326, R345). -/
def fullClock (s : State) : Nat := if clockHeld s then s.brd.coreMhz else 1400

/-- A transition ends in a power state, and its SET_FEATURE completes; a change of the health word is counted (R253). -/
def endPower (target st : Nat) (tag : Nat) (s : State) : State :=
  let s1 := countHealth s { s with brd := { s.brd with
    trans := none, psNow := target, psSel := target, coreMhz := if target == 0 && !s.brd.limiter then fullClock s else s.brd.coreMhz } }
  match cmdOf s1 tag with
  | some c => if st == stOk then succeed c (leBytes 8 target) s1 else finish c st 0 0 [] running0 s1
  | none => s1

/-- POWER_STATE_ENTRY. -/
def powerEntry (s : State) : State :=
  match s.brd.trans with
  | some t => if entryDone s t then settle (endPower t.target stOk t.tag s) else s
  | none => s

/-- POWER_STATE_ENTRY. -/
def execPowerStateEntry (s : State) : Host.Outcome State Fault Refusal := .next (counted powerEntry s)

/-- PS3_ENTRY_TIMEOUT: after 1 s the module stays in PS2 and SET_FEATURE completes with BUSY. -/
def ps3Timeout (s : State) : State :=
  match s.brd.trans with
  | some t => if t.target == 3 && t.since + 1000000000 ≤ now s then settle (endPower 2 stBusy t.tag s) else s
  | none => s

/-- PS3_ENTRY_TIMEOUT. -/
def execPs3EntryTimeout (s : State) : Host.Outcome State Fault Refusal := .next (counted ps3Timeout s)

-- Keep-alive (R235, R258).

/-- Whether a facet's keep-alive timer runs: it has an interval and a queue pair. -/
def kaRuns (s : State) (f : Nat) : Bool := (facetOf s f).kaMs != 0 && s.qps.any fun q => q.num != 0 && q.facet == f

/-- KEEP_ALIVE_LAPSE: the facet's pairs freeze, and the facet with them where it can be FROZEN (R47, R258). -/
def kaLapse (f : Nat) (s : State) : State :=
  let x := facetOf s f
  let open' := s.qps.any fun q => q.num != 0 && q.facet == f && !q.causes.contains cauKeepAlive
  if kaRuns s f && open' && x.kaSince + 1000000 * x.kaMs ≤ now s then
    record 0x0603 f [x.kaMs] (freezeFacet f cauKeepAlive s)
  else s

/-- KEEP_ALIVE_LAPSE. -/
def execKeepAliveLapse (facet : Nat) (s : State) : Host.Outcome State Fault Refusal := .next (kaLapse facet s)

-- Temperatures (R326, R327).

/-- The points of a sensor in °C: warning, its clear point, throttle, its clear point, critical, its clear point, trip. -/
def points (n : Nat) : List Int :=
  if n < 8 then [95, 92, 100, 97, 105, 100, 110]
  else if n == 8 then [100, 97, 105, 102, 112, 107, 115]
  else [75, 72, 80, 77, 85, 82, 90]

/-- The state a temperature leads to from an old state: reached at its point, kept down to its clear point. -/
def thermalNext (n old : Nat) (t : Int) : Nat :=
  let p := fun (i : Nat) => (points n).getD i 0
  if p 4 ≤ t || (3 ≤ old && p 5 ≤ t) then 3
  else if p 2 ≤ t || (2 ≤ old && p 3 ≤ t) then 2
  else if p 0 ≤ t || (1 ≤ old && p 1 ≤ t) then 1
  else 0

/-- HOT_ALERT# is asserted (R326, R346). -/
def hotAlert (s : State) : Bool := s.brd.hotLatch || s.brd.thermal.any (1 ≤ ·)

/-- The pin driven when its level changes. -/
def driveHot (before after : State) : State :=
  if hotAlert before == hotAlert after then after else emit (.hotAlert (hotAlert after)) after

/-- A temperature as a 32-bit word. -/
def tempWord (t : Int) : Nat := (BitVec.ofInt 32 t).toNat

/-- The CORE clock under a report (R326): a step lower while the die is throttled and less than 2 °C below the point; back to full once
nothing holds it down any longer (log 48). -/
def reportClock (n new : Nat) (t : Int) (before after : State) : State :=
  if n == 8 && 2 ≤ new then
    (if 103 < t then { after with brd := { after.brd with coreMhz := max 100 (after.brd.coreMhz - 100) } } else after)
  else if clockHeld before && !after.brd.limiter then { after with brd := { after.brd with coreMhz := fullClock after } }
  else after

/-- THERMAL_STATE: the sensor's state under the temperature, recorded when it changes. -/
def thermalReport (n : Nat) (t : Int) (s : State) : State :=
  if !s.brd.mainPower then s
  else
    let old := s.brd.thermal.getD n 0
    let new := thermalNext n old t
    let s1 := reportClock n new t s { s with brd := { s.brd with temps := s.brd.temps.set n t, thermal := s.brd.thermal.set n new } }
    if new == old then s1
    else settle (driveHot s (recordSev 0x0401 (max 1 new) n [tempWord t, new, old] s1))

/-- THERMAL_STATE. -/
def execThermalState (sensor : Nat) (temp : Int) (s : State) : Host.Outcome State Fault Refusal :=
  .next (counted (thermalReport sensor temp) s)

-- The power limiter (R318).

/-- Cap on the input in mW: the locked cap, the power state's, and 250 W under the brake or a critical temperature of the die or a
stack (R261, R326, R345). -/
def inputCap (s : State) : Nat :=
  let ps := [820, 500, 250, 60].getD s.brd.psNow 820
  let low := if braked s || (s.brd.thermal.take 9).any (· == 3) then 250 else 820
  1000 * min s.fnc.power (min ps low)

/-- The input is over one of the locked caps (R318). -/
def overLocked (s : State) : Bool := 1000 * s.fnc.power < mainMw s || 100 * s.fnc.current < s.brd.mA

/-- The input is over any cap in force. -/
def overCap (s : State) : Bool := overLocked s || inputCap s < mainMw s

/-- The input is below 95 % of the power cap and of the current cap (R318). -/
def wellUnder (s : State) : Bool := 100 * mainMw s < 95 * (1000 * s.fnc.power) && 100 * s.brd.mA < 95 * (100 * s.fnc.current)

/-- It is below 95 % of the lowest cap in force as well. -/
def underAll (s : State) : Bool := wellUnder s && 100 * mainMw s < 95 * inputCap s

/-- The POWER_LIMITER event of a second of action (R318). -/
def limiterEvent (s : State) : State :=
  if s.brd.limitAt.any fun t => s.brd.aon < t + 1000000000 then s
  else record 0x0501 0 [mainMw s, s.fnc.power, s.brd.mA, s.brd.coreMhz]
    { s with brd := { s.brd with limitAt := some s.brd.aon } }

/-- The CORE clock a step of 100 MHz lower, once every 50 µs (R318). -/
def lowerClock (s : State) : State :=
  match s.brd.overSince with
  | none => { s with brd := { s.brd with overSince := some (now s), cleanSince := none } }
  | some t =>
    if t + 50000 ≤ now s then
      { s with brd := { s.brd with coreMhz := max 100 (s.brd.coreMhz - 100), overSince := some (now s), cleanSince := none } }
    else { s with brd := { s.brd with cleanSince := none } }

/-- 10 ms well under both caps end the limiter and restore the clock (R318); a lower cap in force holds the clock until the input is well under
that one too (log 48). -/
def restoreClock (s : State) : State :=
  match s.brd.cleanSince with
  | none => { s with brd := { s.brd with overSince := none, cleanSince := some (now s) } }
  | some t =>
    if now s < t + 10000000 then s
    else if underAll s then
      { s with brd := { s.brd with coreMhz := fullClock s, limiter := false, overSince := none, cleanSince := none, limitAt := none } }
    else { s with brd := { s.brd with limiter := false, overSince := none, limitAt := none } }

/-- POWER_LIMITER: the average of a sample. Only the locked caps make the limiter act; the caps of a power state, the brake and
a critical temperature lower the clock alone. -/
def limiterSample (mV mA : Nat) (s : State) : State :=
  let s1 := { s with brd := { s.brd with mV := mV, mA := mA } }
  if !s.brd.mainPower then s1
  else if overLocked s1 then
    let s2 := if s1.brd.limiter then s1 else bumpRas 21 1 { s1 with brd := { s1.brd with limiter := true, limitAt := none } }
    limiterEvent (lowerClock s2)
  else if overCap s1 then (if s1.brd.limiter then limiterEvent (lowerClock s1) else lowerClock s1)
  else
    let s2 := if s1.brd.limiter then limiterEvent s1 else s1
    if !(s2.brd.limiter || s2.brd.overSince.isSome || s2.brd.cleanSince.isSome) then s2
    else if wellUnder s2 then settle (restoreClock s2)
    else { s2 with brd := { s2.brd with cleanSince := none } }

/-- POWER_LIMITER. -/
def execPowerLimiter (mV mA : Nat) (s : State) : Host.Outcome State Fault Refusal := .next (counted (limiterSample mV mA) s)

-- The recorder's seconds, its freeze, sensors, operating days (R324, R330, R333, R344, R351).

/-- The INPUT_CHATTER record of a pin (R344). -/
def chatter (n : Nat) (p : PinSt) (s : State) : State :=
  if p.secRej == 0 then s else record 0x0504 n [p.secAcc, p.secRej] s

/-- A pin's counts of the second start again. -/
def newSecond (p : PinSt) : PinSt := { p with secAcc := 0, secRej := 0 }

/-- SECOND_END: INPUT_CHATTER for each pin that chattered, SUPPRESSED for each code that was, and the limits start again. -/
def secondOver (s : State) : State :=
  if !s.brd.aux5 || s.brd.aon < 1000000000 * (s.evr.secNo + 1) then s
  else
    let s1 := chatter 2 s.brd.sync (chatter 1 s.brd.brake (chatter 0 s.brd.rst s))
    let s2 := s1.evr.secSup.foldl (fun t p => record 0x0F01 p.1 [p.2] t) s1
    { s2 with
      evr := { s2.evr with secNew := [], secSup := [], secNo := s.brd.aon / 1000000000 },
      brd := { s2.brd with rst := newSecond s2.brd.rst, brake := newSecond s2.brd.brake, sync := newSecond s2.brd.sync } }

/-- SECOND_END. -/
def execSecondEnd (s : State) : Host.Outcome State Fault Refusal := .next (secondOver s)

/-- FREEZE_TIMEOUT: 10 s of the always-on clock end a freeze. -/
def freezeOver (s : State) : State :=
  if s.brd.aux5 && s.evr.frozen && s.evr.freezeAt + 10000000000 ≤ s.brd.aon then endFreeze s else s

/-- FREEZE_TIMEOUT. -/
def execFreezeTimeout (s : State) : Host.Outcome State Fault Refusal := .next (freezeOver s)

/-- Readings of the numeric sensors in the order of R351: die, stacks 0 to 7, flash, MAIN_54V in mV, mA, mW, AUX_5V in mV. -/
def readings (s : State) : List Int :=
  [s.brd.temps.getD 8 0] ++ s.brd.temps.take 8 ++ [s.brd.temps.getD 9 0] ++
  [(s.brd.mV : Int), (s.brd.mA : Int), (mainMw s : Int), (s.brd.auxmV : Int)]

/-- AUX_5V measured (R370; log 6). -/
def measureAux (s : State) : State :=
  let m := Config.auxReading s.free
  useFree { s with brd := { s.brd with auxmV := m.1, auxmW := m.2 } }

/-- The readings taken anew, every 100 ms (R351). -/
def refreshSensors (s0 : State) : State :=
  if !s0.brd.aux5 || s0.brd.aon < s0.side.refreshAt + 100000000 then s0
  else
    let s := measureAux s0
    { s with side := { s.side with sensors := readings s, healthBits := healthWord s % 64, refreshAt := s.brd.aon } }

/-- SENSOR_REFRESH. -/
def execSensorRefresh (s : State) : Host.Outcome State Fault Refusal := .next (refreshSensors s)

/-- OPERATING_DAY_END: FLASH_SPARE_LOW may be recorded again, once in the new day (R324). -/
def dayOver (s : State) : State :=
  if s.brd.opNs < 86400000000000 * (s.flash.dayNo + 1) then s
  else spareCheck { s with flash := { s.flash with spareDayDone := false, dayNo := s.brd.opNs / 86400000000000 } }

/-- OPERATING_DAY_END. -/
def execOperatingDayEnd (s : State) : Host.Outcome State Fault Refusal := .next (dayOver s)

end Sys2Proof.Machine
end

