-- ==== Sys2Proof/Machine/Rails.lean ====
section
/-! DEFINITION. Rails, MOD_RST#, start-up and recovery, and the filtered pins (R18, R23, R40, R45, R136, R137, R236, R273, R315, R316,
R320, R327, R331, R333, R339 to R345, R375). -/

namespace Sys2Proof.Machine

-- What a loss of main power or a reset leaves.

/-- A model slot after power loss: what is on flash stays, a load in progress has failed (R176). -/
def keptModel (m : ModelSlot) : ModelSlot :=
  if m.state == 2 then { m with toReady := none } else ModelSlot.empty m.facet m.slot m.raw

/-- A facet after power loss: counters and what its commands and programs held are gone; keep-alive is off (R358, R375). -/
def keptFacet (x : Facet) : Facet :=
  { x with kaMs := 0, kaSince := 0, paused := false, log := [], window := [], drifted := false, walkerPtr := 0, placePtr := 0,
           ctr := [], energyNj := 0, destroyTag := none, admission := [], changed := false, forced := false }

/-- An index after power loss: the map cache is empty, work whose units were being programmed has published nothing, and no command waits for the
index's end. -/
def keptIndex (i : Index) : Index :=
  { i with cached := [], held := false, staged := none, work := none, dropping := i.dropping.map fun _ => noTag,
           trans := i.trans.map fun t => { t with tag := noTag } }

/-- A pin's PWR_EDGES back at zero (R370). -/
def clearEdges (p : PinSt) : PinSt := { p with acc := 0, rej := 0 }

/-- The board with main power off: power state, pin counts, clocks, thermal states and lock back at their reset values (R262, R326, R370). -/
def keptBoard (b : Board) : Board :=
  { b with mainPower := false, psNow := 0, psSel := 0, trans := none, psQueue := [], woken := false, coreMhz := 1400,
           limiter := false, overSince := none, cleanSince := none, limitAt := none, thermal := List.replicate 10 0,
           thermalNs := [], clk := 0, locked := false, inWindow := 0, turnStart := 0, syncInterval := 0xFFFFFFFF,
           rst := clearEdges b.rst, brake := clearEdges b.brake, sync := clearEdges b.sync }

/-- A die after power loss: the erases of scrubs are still to do (R236, R278). -/
def keptDie (d : Die) : Die :=
  let scrub := fun (g : Seg) => g.work == .scrub g.facet
  let all' := d.run.toList ++ d.segs
  { d with reads := [], segs := (all'.filter scrub).map fun g => { g with borrowed := false, since := 0 }, run := none, suspended := false }

/-- Main power goes: all work stops without completions, and only flash, fuses and the always-on controller keep what they hold
(R23, R137, R340, R342). -/
def losePower (s : State) : State :=
  driveHot s { s with
    brd := keptBoard s.brd, fnc := Fence.reset,
    fw := { s.fw with staging := [], pages := [], committing := none }, lat := { s.lat with load := none },
    hif := Hif.reset, qps := [], tags := [], cmds := [], fetchSeq := 0,
    elog := [], elogSeq := 0, facets := s.facets.map keptFacet, idx := s.idx.map keptIndex, mods := s.mods.map keptModel,
    srch := Search.reset,
    flash := { Flash.reset with dies := (s.flash.dies.map keptDie).filter (!·.segs.isEmpty), pages := s.flash.pages,
                                retired := s.flash.retired, bad := s.flash.bad, leaving := s.flash.leaving, lost := s.flash.lost,
                                forming := s.flash.forming, groups := s.flash.groups, sparePm := s.flash.sparePm,
                                spareDayDone := s.flash.spareDayDone, dayNo := s.flash.dayNo },
    mem := { Mem.reset with remapped := s.mem.remapped, softRepairs := s.mem.softRepairs, retired := s.mem.retired,
                            moved := s.mem.moved },
    chd := Chord.reset }

/-- A module reset or a power cycle in the recorder (R332, R333). -/
def resetRecorder (s : State) : State :=
  let s1 := endFreeze s
  let oldest := ((s1.evr.recs.head?).map (·.seq)).getD s1.evr.next
  { s1 with evr := { s1.evr with frozenCount := 0, frozenSev := 0, overwritten := 0, suppressed := 0, cursor := oldest } }

/-- Where the board stands with main power off. -/
def phaseOff (s : State) : RunPhase := if s.brd.main54 && s.brd.aux5 then .held else .off

/-- Main power is removed and the module waits. -/
def powerDown (s : State) : State :=
  let s1 := losePower s
  { s1 with brd := { s1.brd with phase := phaseOff s1 } }

-- Recovery (R137).

/-- Epoch of a publish as recovery leaves it: internal work is kept (R138). -/
def atMost (closed e : Nat) : Nat := min e closed

/-- A list's positions after recovery. -/
def keptPosAt (closed : Nat) (p : Pos) : Pos :=
  { p with birth := atMost closed p.birth, tomb := p.tomb && p.del ≤ closed }

/-- The newest copy of a list or of its versions. -/
def newest {α : Type} (l : List α) : List α := l.take 1

/-- A node after recovery. -/
def keptNode (closed : Nat) (n : Node) : Node :=
  { n with nbrs := (newest n.nbrs).map (fun v => (atMost closed v.1, v.2)),
           sketches := (newest n.sketches).map (fun v => (atMost closed v.1, v.2)),
           birth := atMost closed n.birth, tomb := n.tomb && n.del ≤ closed }

/-- A node array after recovery. -/
def keptArray (closed : Nat) (a : NodeArray) : NodeArray :=
  { pub := atMost closed a.pub, nodes := a.nodes.map (keptNode closed),
    lengths := (newest a.lengths).map (fun v => (atMost closed v.1, v.2)),
    entries := (newest a.entries).map (fun v => (atMost closed v.1, v.2)) }

/-- The side list after recovery: entries of later writes are void below a surviving entry and gone above the last (R71, R137). -/
def keptSide (closed : Nat) (es : List SideEnt) : List SideEnt :=
  let mark := fun (e : SideEnt) =>
    if closed < e.epoch && !e.again then { e with void := true }
    else { e with epoch := atMost closed e.epoch, tomb := e.tomb && e.del ≤ closed }
  ((es.map mark).reverse.dropWhile (·.void)).reverse

/-- IDs and locations of the live vectors of an index: the map that recovery rebuilds (R73). -/
def liveMap (x : Facet) (ix : Index) : List (Nat × Loc) :=
  let gone := fun (l : Loc) => x.pend.any fun p => p.slot == ix.geo.slot && p.loc == l && p.till.isNone
  let lists := (ix.lists.map fun d => ((curCopy d).pos.zipIdx).filterMap fun p =>
    if p.1.tomb || gone (.list d.num p.2) then none else some (p.1.v.id, Loc.list d.num p.2)).flatten
  let side := ix.side.filterMap fun e =>
    if e.void || e.tomb || ix.moves.any (fun m => m.lo ≤ e.app && e.app < m.hi) || gone (.side e.app) then none
    else some (e.v.id, Loc.side e.app)
  let nodes := (curArray ix).nodes.filterMap fun n =>
    if n.tomb || n.reclaimed || gone (.node n.num) then none else some (n.v.id, Loc.node n.num)
  lists ++ nodes ++ side

/-- An index at its facet's closed epoch (R137, R138). -/
def recoverIndex (x : Facet) (ix : Index) : Index :=
  let c := x.closed
  let copy := fun (y : ListCopy) => { y with pub := atMost c y.pub, pos := y.pos.map (keptPosAt c) }
  let list := fun (d : ListDir) => { d with copies := (newest d.copies).map copy }
  let es := keptSide c ix.side
  let top := ((es.getLast?).map fun (e : SideEnt) => e.app + 1).getD (min ix.committed (movedMark ix))
  let i := { ix with
    lists := ix.lists.map list, side := es, committed := top,
    moves := ix.moves.map (fun (m : Move) => { m with em := atMost c m.em }), arrays := (newest ix.arrays).map (keptArray c),
    released := ix.released.map (fun (r : Nat × Nat) => (r.1, atMost c r.2)),
    toReclaim := ix.toReclaim.map (fun (r : Nat × List Nat) => (atMost c r.1, r.2)),
    trans := ix.trans.map (fun (t : Transition) => { t with es := atMost c t.es }),
    starts := ix.starts.map (fun (g : Nat × Nat) => (g.1, atMost c g.2)) }
  { i with map := liveMap x i }

/-- Pending deletes at the closed epoch: a delete above it is undone, a renaming is kept. -/
def recoverPends (closed : Nat) (ps : List Pend) : List Pend :=
  (ps.filter fun p => p.epoch ≤ closed && p.till.isNone).map fun p => { p with since := 0 }

/-- Flash's page map and lost units at a facet's closed epoch: what background work has published stays (R137, R138). -/
def recoverPages (f closed : Nat) (fl : Flash) : Flash :=
  { fl with
    pages := fl.pages.map fun p => if p.1.facet == f then (p.1, atMost closed p.2.1, p.2.2) else p,
    lost := fl.lost.map fun m => if m.1.facet == f then (m.1, atMost closed m.2.1, m.2.2.map (atMost closed)) else m }

/-- Units read in whole pages over the 64 channels, as a rebuild after a reset streams them (R204, R224). It is charged to the SCRUB class, which has
the other rebuilds: R219 names it with none (DESIGN CHOICE, log 108). -/
def streamAll (f n : Nat) (s : State) : State :=
  (List.range 64).foldl (fun t c => moveUnits c f 7 (4 * cdiv (n / 4 - c) 64) t) (bump f (kFct 4) (4096 * n) s)

/-- The flash log that a replay reads: the units behind the last checkpoint (R136, R137, R364). -/
def replayLog (f : Nat) (s : State) : State :=
  let x := facetOf s f
  streamAll f (4 * cdiv (x.logUnits - x.logFrom) 4) s

/-- What a facet keeps in HBM rebuilt from the tier image, which is read page by page and 16 units for each frame, and its block checks with it (R23,
R204, R214, R218, R321). -/
def refillTiers (f : Nat) (s : State) : State :=
  let t := (idxsOf s f).foldl (fun t i => keepAll f i.geo.slot t) (streamAll f (16 * cdiv (hbmCharged s f) 65536) s)
  (t.mods.filter fun m => m.facet == f && m.state == 2).foldl (fun u m => keepWeights f m.slot u) t

/-- A facet at its closed epoch, in forced durability until its first checkpoint (R78, R136, R137), with its tiers rebuilt. -/
def recoverFacet (f : Nat) (s : State) : State :=
  let x := facetOf s f
  let x' := { x with epoch := x.closed, pend := recoverPends x.closed x.pend, forced := true, rebuilt := true }
  let t := { updFacet f (fun _ => x') s with
    idx := s.idx.map (fun i => if i.geo.facet == f then recoverIndex x' i else i), flash := recoverPages f x.closed s.flash }
  refillTiers f (replayLog f t)

/-- A facet of the configuration waits for its replay and rebuild. -/
def waitsRebuild (s : State) (x : Facet) : Bool := !x.rebuilt && declared s x.num

/-- Start-up ends when no facet waits (R341). -/
def startedUp (s : State) : State :=
  if s.brd.phase == .starting && s.fw.running < 2 && !(s.facets.any (waitsRebuild s)) then
    { s with brd := { s.brd with phase := .running } }
  else s

/-- TIER_REBUILD (R137, R341). -/
def rebuildFacet (f : Nat) (s : State) : State :=
  if s.brd.phase == .starting && s.fw.running < 2 && waitsRebuild s (facetOf s f) then settle (startedUp (recoverFacet f s)) else s

/-- Facets that a module without a configuration could not bring back (R40) come back with the image that declares them (log 82). -/
def recoverStored (s : State) : State :=
  if s.brd.phase == .running then (s.facets.filter (waitsRebuild s)).foldl (fun t x => recoverFacet x.num t) s else s

/-- TIER_REBUILD. -/
def execTierRebuild (facet : Nat) (s : State) : Host.Outcome State Fault Refusal := .next (counted (rebuildFacet facet) s)

-- Start-up (R341).

/-- Step 3: the fence set-up of the first copy that verifies is written and locked; when neither does, that is recorded for each, and the
receive buffer of the recovery starts empty (R315, R352; log 54). -/
def bootCode1 (finds : BootFinds) (s : State) : State :=
  let c0 := verifyCopy s.fuse finds.copy0 s.fw.boot0
  let c1 := verifyCopy s.fuse finds.copy1 s.fw.boot1
  let side := { s.side with bootFailed := false, status := 0, buf := [], got := 0 }
  match c0.2.or c1.2 with
  | some f => { s with fnc := { f with lock := true }, side := side }
  | none => record 0x0604 1 [c1.1] (record 0x0604 0 [c0.1] { s with fnc := failedFence, side := { side with bootFailed := true } })

/-- The links that the fence set-up enables begin training (R292). -/
def startLinks (s : State) : State :=
  { s with chd := { s.chd with links := s.chd.links.map fun l => { l with st := if bit l.num s.fnc.links then 1 else 0 } } }

/-- The facet that owns a block, 255 for none (R374). -/
def blockOwner (s : State) (b : Nat) : Nat := ((s.cfg.facets.find? fun r => bit b r.mask).map (·.facet)).getD 255

/-- Live cells of a block. -/
def liveCells (s : State) (b : Nat) : Nat :=
  ((List.range 32).filter fun i => !s.srch.cellsOut.contains (32 * b + i)).length

/-- One part that fails self-test fenced and recorded (R18, R374). -/
def fenceCell (cause syndrome c : Nat) (s : State) : State :=
  if s.srch.cellsOut.contains c then s
  else
    let s1 := { s with srch := { s.srch with cellsOut := s.srch.cellsOut ++ [c] } }
    record 0x0101 c [cause, syndrome, blockOwner s (cellBlock c), s1.srch.cellsOut.length] s1

def fenceBlock (cause b : Nat) (s : State) : State :=
  if s.srch.blocksOut.contains b then s
  else
    let s1 := { s with srch := { s.srch with blocksOut := s.srch.blocksOut ++ [b] } }
    record 0x0102 b [cause, liveCells s b, blockOwner s b, s1.srch.blocksOut.length] s1

def fenceRegion (r : Nat) (s : State) : State :=
  if s.srch.regionsOut.contains r then s
  else
    let d := (Config.diagnostic s.free).toNat
    record 0x0103 r [3, d, 0, 0] (useFree { s with srch := { s.srch with regionsOut := s.srch.regionsOut ++ [r] } })

/-- Self-test (R18): what fails it is fenced, and a block with fewer than 16 live cells with it (R17). -/
def selfTest (finds : BootFinds) (s : State) : State :=
  let s1 := finds.cells.foldl (fun t c => fenceCell 2 0xFFFFFFFF c t) s
  let s2 := finds.blocks.foldl (fun t b => fenceBlock 4 b t) s1
  let weak := (nub (finds.cells.map cellBlock)).filter fun b => liveCells s2 b < 16
  finds.regions.foldl (fun t r => fenceRegion r t) (weak.foldl (fun t b => fenceBlock 3 b t) s2)

/-- The slot passes its start-up check. -/
def fwStarts (finds : BootFinds) (s : State) (n : Nat) : Bool :=
  ((s.fw.slots[n]?).map (·.valid)).getD false && (if n == 0 then finds.fw0 else finds.fw1)

/-- Firmware starts from the selected slot, else from the other one, which is recorded (R273). With neither, none runs: slot 2 (log 50). -/
def startSlot (finds : BootFinds) (s : State) : State :=
  let a := s.fw.selected
  if fwStarts finds s a then { s with fw := { s.fw with running := a } }
  else
    let rev := ((s.fw.slots[a]?).map (·.revision)).getD 0
    let n := if fwStarts finds s (1 - a) then 1 - a else 2
    record 0x0702 a [(Config.diagnostic s.free).toNat, rev % 2 ^ 32, rev / 2 ^ 32] (useFree { s with fw := { s.fw with running := n } })

/-- Roles that the indexes of a facet need (R373). -/
def neededRoles (s : State) (f : Nat) : List Nat :=
  nub (((s.cfg.indexes.filter (·.facet == f)).map fun g => rolesNeeded g.mode).flatten)

/-- The facet has no live cell of a role that its indexes need (R18). -/
def roleGone (s : State) (f : Nat) : Bool := (neededRoles s f).any fun r => (roleCells s f r).isEmpty

/-- Facets that lost a role freeze with a facet fault (R18). -/
def freezeRoleless (s : State) : State :=
  (s.facets.filter fun x => x.state == 1 && declared s x.num && roleGone s x.num).foldl (fun t x => freezeFacet x.num cauFacetFault t) s

/-- Facets as the start finds them: no freeze survives (R256), what holds data waits for its rebuild; a teardown goes on (R236). -/
def wakeFacet (x : Facet) : Facet :=
  let st := if x.state == 2 then 1 else x.state
  { x with state := st, cause := 0, rebuilt := st != 1 }

/-- Start-up from t = 0 to the rebuild of the tiers (R341): boot configuration, self-test with hard repair, firmware, lattice. -/
def startUp (finds : BootFinds) (s : State) : State :=
  let b := { s.brd with
    mainPower := true, phase := .starting, fatal := false, fatalUnit := 0, clk := 0, turnStart := 0 }
  let s0 := { s with brd := b, lat := { s.lat with loads := 0, refused := 0, reshapeUs := 0 } }
  let s1 := selfTest finds (startLinks (bootCode1 finds s0))
  let s2 := startSlot finds { s1 with mem := { s1.mem with
    softRepairs := 0, degraded := 4096 ≤ s1.mem.retired.length } }
  if 2 ≤ s2.fw.running then s2
  else
    let s3 := bootLoad { s2 with facets := s2.facets.map wakeFacet }
    let s4 := freezeRoleless s3
    startedUp { s4 with srch := { s4.srch with weights := turnWeights s4, budgets := s4.cfg.budgets, masks := turnMasks s4 } }

/-- Both rails and MOD_RST# are up and main power is not on yet (R340). -/
def mayStart (s : State) : Bool := s.brd.main54 && s.brd.aux5 && s.brd.rst.accepted && s.brd.phase == .held

/-- The last of both rails and MOD_RST# is up: main power comes on and the module starts (R340, R341). -/
def powerUp (finds : BootFinds) (s : State) : State := if mayStart s then startUp finds s else s

/-- What a start finds in the parts when its row does not say (DESIGN CHOICE, log 49). -/
def startFinds (s : State) : BootFinds :=
  let fails := fun (k m : Nat) => nub ((Config.partsFail s.free k).filter (· < m))
  ⟨Config.copyReadable s.free 0, Config.copyReadable s.free 1, fails 0 4096, fails 1 128, fails 2 8, Config.slotPasses s.free 0,
    Config.slotPasses s.free 1⟩

/-- The same by a row that carries no finds. -/
def powerAlone (s : State) : State := if mayStart s then startUp (startFinds s) (useFree s) else s

-- Pins (R342 to R345).

/-- The effect of an accepted level. A release of MOD_RST# ends HOT_ALERT# of a thermal trip (R346) and starts the module if both rails are
up; a release of PWR_BRAKE# gives back the CORE clock it held (R345). -/
def pinEffect (start : State → State) (pin : Pin) (level : Bool) (s : State) : State :=
  match pin with
  | .modRst =>
    if level then start (driveHot s { s with brd := { s.brd with hotLatch := false } })
    else resetRecorder (powerDown { s with brd := { s.brd with phase := .off } })
  | .pwrBrake =>
    let s1 := if level && !s.brd.limiter && s.brd.rst.accepted then { s with brd := { s.brd with coreMhz := fullClock s } } else s
    if s.brd.rst.accepted then record 0x0502 0 [flagBit 0 (!level), mainMw s] s1 else s1
  | .syncIn => if level then syncPulse s else s

/-- A pin's filter. -/
def pinOf (s : State) : Pin → PinSt
  | .modRst => s.brd.rst
  | .pwrBrake => s.brd.brake
  | .syncIn => s.brd.sync

def setPin (pin : Pin) (p : PinSt) (s : State) : State :=
  match pin with
  | .modRst => { s with brd := { s.brd with rst := p } }
  | .pwrBrake => { s with brd := { s.brd with brake := p } }
  | .syncIn => { s with brd := { s.brd with sync := p } }

/-- A level accepted, if it is a change and no lock-out runs. -/
def acceptLevel (start : State → State) (pin : Pin) (level : Bool) (s : State) : State :=
  let p := pinOf s pin
  if !s.brd.aux5 || p.accepted == level || lockedOut s p then s
  else pinEffect start pin level (setPin pin (acceptEdge s p level) s)

/-- MOD_RST_ASSERT. -/
def execModRstAssert (s : State) : Host.Outcome State Fault Refusal := .next (counted (acceptLevel id .modRst false) s)

/-- MOD_RST_RELEASE. -/
def execModRstRelease (finds : BootFinds) (s : State) : Host.Outcome State Fault Refusal :=
  .next (counted (acceptLevel (powerUp finds) .modRst true) s)

/-- PWR_BRAKE_ASSERT: withheld grants and the cap follow from the level (R345). -/
def execPwrBrakeAssert (s : State) : Host.Outcome State Fault Refusal := .next (counted (acceptLevel id .pwrBrake false) s)

/-- PWR_BRAKE_RELEASE. -/
def execPwrBrakeRelease (s : State) : Host.Outcome State Fault Refusal :=
  .next (counted (fun t => settle (acceptLevel id .pwrBrake true t)) s)

/-- LOCK_OUT_END: a filtered level that differs is accepted now (R344). -/
def lockOutOver (start : State → State) (pin : Pin) (s : State) : State :=
  let p := pinOf s pin
  match p.lockEnd with
  | none => s
  | some t =>
    if !s.brd.aux5 || s.brd.aon < t then s
    else
      let s1 := setPin pin { p with lockEnd := none } s
      if p.filtered == p.accepted then s1 else acceptLevel start pin p.filtered s1

/-- LOCK_OUT_END. -/
def execLockOutEnd (pin : Pin) (s : State) : Host.Outcome State Fault Refusal :=
  .next (counted (lockOutOver powerAlone pin) s)

/-- FILTERED_LEVEL_CHANGE: a new level held for 1 µs that the lock-out keeps from being accepted is one rejected edge; outside the
lock-out it is accepted (R344). -/
def filteredLevel (start : State → State) (pin : Pin) (level : Bool) (s : State) : State :=
  let p := pinOf s pin
  if !s.brd.aux5 || p.filtered == level then s
  else if lockedOut s p && level == p.accepted then setPin pin { p with filtered := level } s
  else if lockedOut s p then
    setPin pin { p with filtered := level, rej := (p.rej + 1) % 2 ^ 32, secRej := p.secRej + 1 } s
  else acceptLevel start pin level s

/-- FILTERED_LEVEL_CHANGE. -/
def execFilteredLevelChange (pin : Pin) (level : Bool) (s : State) : Host.Outcome State Fault Refusal :=
  .next (counted (filteredLevel powerAlone pin level) s)

-- Rails (R339, R340).

/-- MAIN_54V_TURN_ON: one more power cycle (R328); main power comes on if everything else is up (R340). -/
def mainOn (s : State) : State :=
  if s.brd.main54 then s
  else
    let b := { s.brd with main54 := true, cycles := (s.brd.cycles + 1) % 2 ^ 32 }
    powerAlone { s with brd := { b with phase := if b.aux5 && b.phase == .off then .held else b.phase } }

/-- MAIN_54V_TURN_ON. -/
def execMain54TurnOn (s : State) : Host.Outcome State Fault Refusal := .next (counted mainOn s)

/-- MAIN_54V_TURN_OFF: main power goes as a power loss. -/
def mainOff (s : State) : State :=
  if !s.brd.main54 then s else resetRecorder (powerDown { s with brd := { s.brd with main54 := false } })

/-- MAIN_54V_TURN_OFF. -/
def execMain54TurnOff (s : State) : Host.Outcome State Fault Refusal := .next (counted mainOff s)

/-- The always-on side as AUX_5V finds it: pin counts, seconds and the sideband's own state start again (log 6); main power comes on if
everything else is up (R340). -/
def auxOn (s : State) : State :=
  if s.brd.aux5 then s
  else
    let fresh := fun (p : PinSt) => { PinSt.reset p.accepted with filtered := p.filtered }
    let b := { s.brd with
      aux5 := true, aon := 0, lastPulse := none, rst := fresh s.brd.rst, brake := fresh s.brd.brake, sync := fresh s.brd.sync,
      phase := if s.brd.main54 && s.brd.phase == .off then .held else s.brd.phase }
    powerAlone (measureAux { s with brd := b, side := { Side.reset with bootFailed := s.side.bootFailed } })

/-- AUX_5V_TURN_ON. -/
def execAux5TurnOn (s : State) : Host.Outcome State Fault Refusal := .next (counted auxOn s)

/-- The loss of AUX_5V may tear the record being written, the newest one: it keeps its place with a CRC that need not fit (R331, R340;
log 93). -/
def tearRecord (s : State) : State :=
  match s.evr.recs.getLast?, Config.tornRecord s.free with
  | some r, some crc => useFree { s with evr := { s.evr with recs := s.evr.recs.dropLast ++ [{ r with crc := crc }] } }
  | _, _ => useFree s

/-- AUX_5V_TURN_OFF: main power goes; a freeze ends without a summary (R333). -/
def auxOff (s : State) : State :=
  if !s.brd.aux5 then s
  else
    let oldest := ((s.evr.recs.head?).map (·.seq)).getD s.evr.next
    let e := { s.evr with frozen := false, frozenCount := 0, frozenSev := 0, overwritten := 0, suppressed := 0, cursor := oldest,
                          secNew := [], secSup := [], secNo := 0 }
    let s1 := powerDown (tearRecord { s with brd := { s.brd with aux5 := false }, evr := e })
    driveHot s1 { s1 with brd := { s1.brd with hotLatch := false } }

/-- AUX_5V_TURN_OFF. -/
def execAux5TurnOff (s : State) : Host.Outcome State Fault Refusal := .next (counted auxOff s)

-- The thermal trip (R327).

/-- The stack temperatures of THERMAL_TRIP: 16 bytes of i8, the first eight in use (R329). -/
def stackTemps (s : State) : List Nat :=
  let b := padTo 16 ((s.brd.temps.take 8).map tempByte)
  (List.range 4).map fun i => field (4 * i) 4 b

/-- THERMAL_TRIP: main power goes without firmware; the module is fatal until a module reset. -/
def tripAt (n : Nat) (t : Int) (s : State) : State :=
  if !s.brd.mainPower || t < (points n).getD 6 0 then s
  else
    let s1 := { s with brd := { s.brd with temps := s.brd.temps.set n t } }
    let s2 := record 0x0402 n (tempWord t :: stackTemps s1) s1
    let s3 := losePower { s2 with brd := { s2.brd with hotLatch := true } }
    { s3 with brd := { s3.brd with phase := .tripped, fatal := true } }

/-- THERMAL_TRIP. -/
def execThermalTrip (sensor : Nat) (temp : Int) (s : State) : Host.Outcome State Fault Refusal :=
  .next (counted (fun t => driveHot s (tripAt sensor temp t)) s)

end Sys2Proof.Machine
end

