-- ==== Sys2Proof/Machine/Faults.lean ====
section
/-! DEFINITION. Fences, watchdogs and memory faults (R15, R17, R18, R27, R101, R119, R214, R215, R319 to R325, R369, R374). -/

namespace Sys2Proof.Machine

-- Slivers and walks that lose their part.

/-- A sliver as it stood before a cell took it: it will be scanned again in full (R15). -/
def Sliver.again (v : Sliver) : Sliver := { v with next := v.lo, heap := [], staged := [], poisoned := [], copy := false, claim := none, wait := none }

/-- Queries carry PARTIAL from now on (R101). -/
def markPartial (xs : List Nat) (s : State) : State :=
  { s with srch := { s.srch with
      queries := s.srch.queries.map fun q => if xs.contains q.ctx then { q with partialFlag := true } else q } }

/-- Slivers a cell held. -/
def heldSlivers (x : CellSt) : List Sliver := x.run.toList ++ x.susp.toList

/-- The cell holds nothing any more; its stream is closed. -/
def emptyCell (c : Nat) (s : State) : State :=
  closeStreams (·.user == .sliver c) <| updCell c (fun x => { x with run := none, susp := none, borrowed := false, suspBorrowed := false })
    { chargeCell (cellOf s c) s with srch := { (chargeCell (cellOf s c) s).srch with
        resends := (chargeCell (cellOf s c) s).srch.resends.filter fun p => p.1.1 != .sliver c } }

/-- A sliver back at the head of its block's queue (R15). -/
def putHead (v : Sliver) (s : State) : State :=
  let n := 1 + (s.srch.slivers.map (·.front)).foldl max 0
  { s with srch := { s.srch with slivers := { v.again with front := n, queuedAt := now s } :: s.srch.slivers } }

/-- A sliver placed again: on a block of the facet in the region if it has one there, else on its next block (R17). A facet without a live
block keeps it where it was, for `checkRoles` to give up. -/
def placeAgain (r : Nat) (v : Sliver) (s : State) : State :=
  let near := (liveBlocks s v.facet).filter fun b => blockRegion b == r
  match (near.find? fun b => (facetOf s v.facet).placePtr ≤ b).or near.head? with
  | some b => updFacet v.facet (fun x => { x with placePtr := b + 1 })
      { s with srch := { s.srch with slivers := insertBy sliverBefore { v.again with block := b, queuedAt := now s } s.srch.slivers } }
  | none => if (liveBlocks s v.facet).isEmpty then { s with srch := { s.srch with slivers := s.srch.slivers ++ [v.again] } }
    else placeSliver v.again s

/-- Walks on the walkers that p selects go to other walkers and repeat their round; a facet without walkers ends them with PARTIAL
(R119). -/
def moveWalks (p : Nat → Bool) (s : State) : State :=
  (s.srch.queries.filter fun q => q.beam != 0 && q.path != 2 && !q.walkDone && (q.stalled || p q.walker)).foldl (fun t q =>
    if (roleCells t q.facet 1).isEmpty then
      (if q.stage == .walk then endWalk { q with stalled := false, partialFlag := true } 0 t else t)
    else if q.stalled then t
    else moveWalk q.ctx t) s

/-- No live cell of a facet can scan a sliver (R18). -/
def noScanner (s : State) (f : Nat) (v : Sliver) : Bool := v.facet == f && (roleCells s f (keyRole v.key)).isEmpty

/-- Slivers of a facet that no live cell can scan are lost, and groups that have not started: their queries carry PARTIAL (R18, R101). -/
def loseSlivers (f : Nat) (s : State) : State :=
  let lost := noScanner s f
  let xs := nub (((s.srch.groups ++ s.srch.slivers).filter lost).map (·.members)).flatten
  let s1 := markPartial xs { s with srch := { s.srch with
    groups := s.srch.groups.filter (fun v => !lost v), slivers := s.srch.slivers.filter fun v => !lost v } }
  xs.foldl (fun t x => chipMerge x t) s1

/-- The queries of a facet that are in search carry PARTIAL (R18, R101). -/
def markFacet (f : Nat) (s : State) : State := markPartial ((s.srch.queries.filter (·.facet == f)).map (·.ctx)) s

/-- A sliver of the facet waits, or a group of it, that none of its live cells can scan. -/
def stranded (s : State) (f : Nat) : Bool := (s.srch.groups ++ s.srch.slivers).any (noScanner s f)

/-- A fence since a state has taken the facet's last live cell of a role that it needs (R18). -/
def roleLost (before s : State) (f : Nat) : Bool :=
  (neededRoles s f).any fun r => (roleCells s f r).isEmpty && !(roleCells before f r).isEmpty

/-- A facet's queries in search carry PARTIAL when a fence since a state has taken its last cell of a role; queries that were admitted without the
role carry none for it (R18, R101). -/
def markLost (before : State) (f : Nat) (s : State) : State := if roleLost before s f then markFacet f s else s

/-- A facet that has no live cell of a role it needs (R18): its queries in flight at that fence are PARTIAL, what it can no longer do is lost, and
it freezes. -/
def checkRoles (before : State) (f : Nat) (s : State) : State :=
  if declared s f && (roleGone s f || stranded s f) then freezeFacet f cauFacetFault (loseSlivers f (markLost before f s)) else s

/-- Every facet that owns one of some blocks, checked. -/
def checkOwners (before : State) (bs : List Nat) (s : State) : State :=
  (s.cfg.facets.filter fun r => bs.any fun b => bit b r.mask).foldl (fun t r => checkRoles before r.facet t) s

-- Cells, blocks and regions (R17).

/-- A block fenced at run time: its slivers are placed again, its walks move. `before` is the state before the fence that it follows (R18). -/
def loseBlockFrom (before : State) (cause b : Nat) (s : State) : State :=
  if s.srch.blocksOut.contains b then s
  else
    let cells := (List.range 32).map (32 * b + ·)
    let held := (cells.map fun c => heldSlivers (cellOf s c)).flatten
    let queued := s.srch.slivers.filter (·.block == b)
    let s1 := bumpRas 23 1 (fenceBlock cause b { s with srch := { s.srch with slivers := s.srch.slivers.filter (·.block != b) } })
    let s2 := cells.foldl (fun t c => if s.srch.cells.any (·.cell == c) then emptyCell c t else t) s1
    let s3 := (held ++ queued).foldl (fun t v => placeAgain (blockRegion b) v t) s2
    checkOwners before [b] (moveWalks (fun w => cellBlock w == b) s3)

/-- A block fenced by itself. -/
def loseBlock (cause b : Nat) (s : State) : State := loseBlockFrom s cause b s

/-- What a cell had claimed waits for any cell again (R91). -/
def dropClaims (c : Nat) (s : State) : State :=
  { s with srch := { s.srch with slivers := s.srch.slivers.map fun v => if v.claim == some c then { v with claim := none } else v } }

/-- A cell fenced: its slivers go back to their queues, its walks move; a block with fewer than 16 live cells follows. -/
def loseCell (cause syndrome c : Nat) (s : State) : State :=
  if !cellLive s c then s
  else
    let held := heldSlivers (cellOf s c)
    let walks := s.srch.queries.any fun q => q.stage == .walk && !q.walkDone && q.walker == c
    let s1 := bumpRas (if walks then 24 else 22) 1 (fenceCell cause syndrome c (dropClaims c s))
    let s2 := if held.isEmpty then s1 else held.foldr (fun v t => putHead v t) (emptyCell c s1)
    let s3 := moveWalks (· == c) s2
    if liveCells s3 (cellBlock c) < 16 then loseBlockFrom s 3 (cellBlock c) s3 else checkOwners s [cellBlock c] s3

/-- CELL_FENCED. -/
def execCellFenced (cell syndrome : Nat) (s : State) : Host.Outcome State Fault Refusal :=
  .next (if clocked s then settle (loseCell 0 syndrome cell (bumpRas 1 1 s)) else s)

/-- LOST_PROGRESS: a sliver held for 4,096 CORE cycles at the clock in force. -/
def stuckCell (c : Nat) (s : State) : State :=
  let x := cellOf s c
  if clocked s && x.run.isSome && x.held + 4096000 / max 1 s.brd.coreMhz ≤ now s then settle (loseCell 1 0xFFFFFFFF c s) else s

/-- LOST_PROGRESS. -/
def execLostProgress (cell : Nat) (s : State) : Host.Outcome State Fault Refusal := .next (stuckCell cell s)

/-- BLOCK_FENCED. -/
def execBlockFenced (block cause : Nat) (s : State) : Host.Outcome State Fault Refusal :=
  .next (if clocked s then settle (loseBlock cause block s) else s)

/-- HEARTBEAT_LAPSE (cause 2 of R374). -/
def execHeartbeatLapse (block : Nat) (s : State) : Host.Outcome State Fault Refusal :=
  .next (if clocked s then settle (loseBlock 2 block s) else s)

/-- Queries with a candidate at a region or a sliver in it (R101). -/
def regionTouched (s : State) (r : Nat) : List Nat :=
  let listed := (s.srch.queries.filter fun q => !q.scanDone && !(regionList q r).isEmpty).map (·.ctx)
  let queued := ((s.srch.slivers.filter fun v => blockRegion v.block == r).map (·.members)).flatten
  let held := (((s.srch.cells.filter fun c => c.cell / 512 == r).map heldSlivers).flatten.map (·.members)).flatten
  nub (listed ++ queued ++ held)

/-- Facets with a block in a region. -/
def regionOwners (s : State) (r : Nat) : List FacetRec := s.cfg.facets.filter fun x => x.regions.contains r

/-- Commands other than queries whose work lies on regions: tiles, or the sketches of what they store. -/
def onRegions (o : Op) : Bool := o == .encode || o == .train || o == .insert || o == .labelUpdate || o == .resketch

/-- Such commands of a facet without a region that could take their work end with FACET_FAULT; one whose data is still being read ends when it would
begin (R267). -/
def faultJobs (f : Nat) (s : State) : State :=
  if noRegion s f then
    endAll (fun c => c.facet == f && onRegions c.op && (c.phase == .running || c.phase == .waiting)) stFacetFault s
  else s

/-- A region fenced at run time (R17, R18, R101): candidates it held are lost, slivers it had not begun go to other regions, its
engine's tile is charged and waits again, and facets that cannot go on freeze; their commands that need a region end (R222, R267). -/
def loseRegion (unit r : Nat) (s : State) : State :=
  if s.srch.regionsOut.contains r then s
  else
    let xs := regionTouched s r
    let queued := s.srch.slivers.filter fun v => blockRegion v.block == r
    let here := s.srch.cells.filter fun c => c.cell / 512 == r
    let tile := fun (t : Tile) => { t with engine := none }
    let back := ((s.srch.engines.filter (·.num == r)).filterMap (·.run)).map tile
    let s0 := (s.srch.engines.filter (·.num == r)).foldl (fun t e => chargeEngine e t) s
    let s1 := busyEnded (.tile r) { s0 with srch := { s0.srch with
      regionsOut := s.srch.regionsOut ++ [r], slivers := s.srch.slivers.filter fun v => blockRegion v.block != r,
      tiles := back ++ s.srch.tiles.map (fun t => if t.engine == some r then tile t else t),
      engines := updFirst (·.num == r) (fun e => { e with run := none }) s.srch.engines,
      queries := s.srch.queries.map fun q => { q with regions := q.regions.filter (·.1 != r) } } }
    let s2 := here.foldl (fun t c => emptyCell c.cell t) (markPartial xs s1)
    let place := fun (t : State) (v : Sliver) => if (liveBlocks t v.facet).isEmpty then t else placeSliver v t
    let s3 := moveWalks (fun w => w / 512 == r) (queued.foldl place s2)
    let gone := (regionOwners s r).filter fun x => (liveBlocks s3 x.facet).isEmpty || roleGone s3 x.facet
    let mask := (gone.map fun x => 2 ^ x.facet).sum
    let d := (Config.diagnostic s.free).toNat
    let s4 := record 0x0103 r [unit, d, mask % 2 ^ 32, mask / 2 ^ 32] (useFree s3)
    let s5 := gone.foldl (fun t x => freezeFacet x.facet cauFacetFault (loseSlivers x.facet (markLost s x.facet t))) s4
    xs.foldl (fun t x => chipMerge x t) ((regionOwners s r).foldl (fun t x => faultJobs x.facet t) s5)

/-- A fault in a region while an image is applied: the region is fenced, the load fails, and facets with a block there freeze. R46 says "the
affected regions": the model takes the region in which the fault lay, by the configuration that stays in force (DESIGN CHOICE, log 105). Its
record names unit 0 where the fault is an operand of LATTICE_APPLY or REGION_RESHAPE (DESIGN CHOICE, log 111). -/
def applyFault (unit r : Nat) (l : Load) (s : State) : State :=
  let owners := (regionOwners s r).map (·.facet)
  owners.foldl (fun t f => freezeFacet f cauFacetFault t) (loseRegion unit r (failLoad l s))

/-- A region fenced: one to which an image is being applied fails the load (R46). -/
def regionFault (unit r : Nat) (s : State) : State :=
  match (applying s).filter fun l => !l.part || bit r l.mask with
  | some l => if s.srch.regionsOut.contains r then s else applyFault unit r l s
  | none => loseRegion unit r s

/-- REGION_FENCED. -/
def execRegionFenced (region unit : Nat) (s : State) : Host.Outcome State Fault Refusal :=
  .next (if clocked s then settle (regionFault unit region s) else s)

/-- A chip fatal error: every pair freezes, and the module waits for its reset. -/
def goFatal (unit : Nat) (s : State) : State :=
  if !clocked s then s
  else
    let d := fun (i : Nat) => (Config.diagnostic (s.free + i)).toNat
    let s1 := record 0x0104 unit [d 0, d 1, d 2, d 3] { s with free := s.free + 4 }
    freezeWhere (fun _ => true) cauFatal { s1 with brd := { s1.brd with fatal := true, fatalUnit := unit } }

/-- CHIP_FATAL. -/
def execChipFatal (unit : Nat) (s : State) : Host.Outcome State Fault Refusal := .next (counted (goFatal unit) s)

-- Control processors (R27).

/-- WATCHDOG: 10 ms without a check-in freeze the pairs of facets with a block in the processor's region, and for processor 0 the
admin queue. -/
def watchdogAt (p : Nat) (s : State) : State :=
  let last := look 0 p s.srch.watch
  if !clocked s || s.srch.expired.contains p || now s < last + 10000000 then s
  else
    let mine := fun (q : Qp) =>
      if q.num == 0 then p == 0 else ((facetRec s q.facet).map fun r => r.regions.contains p).getD false
    let n := (s.qps.filter mine).length
    let d := (Config.diagnostic s.free).toNat
    record 0x0105 p [last / 1000 % 2 ^ 32, d, n] (bumpRas 31 1 (freezeWhere mine cauWatchdog
      { useFree s with srch := { s.srch with expired := s.srch.expired ++ [p] } }))

/-- WATCHDOG. -/
def execWatchdog (processor : Nat) (s : State) : Host.Outcome State Fault Refusal := .next (watchdogAt processor s)

/-- A pair without one of its causes; it runs again when none is left. -/
def clearCause (cause : Nat) (q : Qp) : Qp :=
  let cs := q.causes.filter (· != cause)
  { q with causes := cs, state := if q.state == 2 && cs.isEmpty then 1 else q.state }

/-- FIRMWARE_CHECK_IN: the watchdog starts again, and the admin queue resumes (R256). -/
def checkIn (p : Nat) (s : State) : State :=
  if !clocked s || 2 ≤ s.fw.running then s
  else
    let s1 := { s with srch := { s.srch with watch := put p (now s) s.srch.watch, expired := s.srch.expired.filter (· != p) } }
    if p == 0 && s.srch.expired.contains 0 then updQp 0 (clearCause cauWatchdog) s1 else s1

/-- FIRMWARE_CHECK_IN. -/
def execFirmwareCheckIn (processor : Nat) (s : State) : Host.Outcome State Fault Refusal := .next (checkIn processor s)

-- HBM (R320 to R322).

/-- Spare rows a bank has left (log 13). -/
def sparesLeft (s : State) (stack channel bank : Nat) : Nat :=
  Config.spareRows (32 * stack + channel) bank -
    (s.mem.remapped.filter fun x => x.1 == stack && x.2.1 == channel && x.2.2.1 == bank).length

/-- Bytes of HBM that no facet has charged (R322). -/
def uncharged (s : State) : Nat := hbmBytes s - (s.cfg.facets.map fun r => hbmCharged s r.facet).sum

/-- A frame waits to be rebuilt (R321): `retired` into a replacement, `flash` since not every run corrected. -/
def rebuildFrame (stack frame : Nat) (retired flash : Bool) (s : State) : State :=
  { s with mem := { s.mem with rebuilding := s.mem.rebuilding ++ [(stack, frame, retired, flash)] } }

/-- A structure that the block check store knows lies in a frame in part (R196, R198, R320). -/
def inFrame (s : State) (stack frame : Nat) (c : (Nat × Nat × Nat × Nat) × List (BitVec 32)) : Bool :=
  let b := c.1.2.2.2
  (List.range ((b % 65536 + 512 * c.2.length + 65535) / 65536)).any fun i => frameAt s c.1.1 c.1.2.1 c.1.2.2.1 b i == (stack, frame)

/-- Facets that have data in a frame: those whose structures the model places there, and those that firmware has put there (R194, R320; log 13). -/
def frameHolders (s : State) (stack frame : Nat) : List Nat :=
  nub ((s.mem.checks.filter (inFrame s stack frame)).map (·.1.1) ++ (Config.frameFacets stack frame).filter (· < 64))

/-- The replacement of a frame that finds the pool empty is none: every facet that has data in it freezes (R322). -/
def takeReplacement (stack frame : Nat) (corrected : Bool) (s : State) : State :=
  if s.mem.pool == 0 then (frameHolders s stack frame).foldl (fun t f => freezeFacet f cauFacetFault t) s
  else rebuildFrame stack frame true (!corrected) { s with mem := { s.mem with pool := s.mem.pool - 1 } }

/-- A frame retired, once (R320, R322): it is rebuilt into a replacement from the pool. -/
def retireFrame (stack row frame : Nat) (corrected : Bool) (s : State) : State :=
  if s.mem.retired.contains (stack, frame) then s
  else
    let s1 := bumpRas 15 1 { s with mem := { s.mem with retired := s.mem.retired ++ [(stack, frame)] } }
    let n := s1.mem.retired.length
    let s2 := record 0x0202 frame [stack, row, flagBit 0 (!corrected), n] s1
    let s3 := if n == 4096 then record 0x0203 0 [n, hbmBytes s2 / 2 ^ 20] { s2 with mem := { s2.mem with degraded := true } } else s2
    takeReplacement stack frame corrected s3

/-- The command that read a word of scratchpad or weights completes with PARTIAL. -/
def partialCmd (t : Nat) (s : State) : State :=
  let up := markPartial ((s.srch.queries.filter (ofTag t)).map (·.ctx)) s
  { up with srch := { up.srch with
      enc := updFirst (·.tag == t) (fun j => { j with partialFlag := true }) up.srch.enc,
      train := updFirst (·.tag == t) (fun j => { j with partialFlag := true }) up.srch.train } }

/-- The query context that a pseudo-channel's run of a frame is part of: contexts of 4 KiB lie one behind another there (R194, R196, R198; log
13). -/
def contextsAt (stack channel frame : Nat) : List Nat :=
  (((Config.frameContexts stack frame).take 16).zipIdx.filter fun p => pseudoChannel (4096 * p.2) / 2 == channel / 2).map (·.1)

/-- What has no flash copy on an uncorrectable run of a frame: the query context that lies there, and the commands whose blocks the block check
store protects there. They carry PARTIAL (R198, R321; log 13). -/
def loseRun (stack channel frame : Nat) (s : State) : State :=
  (Config.frameTags stack frame).foldl (fun t n => partialCmd n t) (markPartial (contextsAt stack channel frame) s)

/-- HBM_ROW_FAILURE: a row that failed by an uncorrectable error, or by its fourth corrected one between patrol passes, of which those before have
been counted (R319 to R321, R369). -/
def rowFailure (stack channel bank row frame : Nat) (corrected : Bool) (s : State) : State :=
  if !clocked s then s
  else
    let at' := (stack, channel, bank, row)
    let errs := look 0 at' s.mem.rowErrs
    let s0 := if corrected then bumpRas 8 (4 - errs) s else bumpRas 9 1 (loseRun stack channel frame s)
    let s1 := bumpRas 25 1 { s0 with mem := { s0.mem with rowErrs := s0.mem.rowErrs.filter (·.1 != at') } }
    let mapped := s.mem.remapped.contains at'
    let left := sparesLeft s stack channel bank
    if !mapped && 0 < left then
      record 0x0201 (subj [stack, channel, bank]) [row, if corrected then 4 else 1, left - 1] (bumpRas 14 1
        (rebuildFrame stack frame false (!corrected) { s1 with mem := { s1.mem with
          remapped := s1.mem.remapped ++ [at'], softRepairs := s1.mem.softRepairs + 1 } }))
    else retireFrame stack row frame corrected s1

/-- HBM_ROW_FAILURE. -/
def execHbmRowFailure (stack channel bank row frame : Nat) (corrected : Bool) (s : State) : Host.Outcome State Fault Refusal :=
  .next (counted (rowFailure stack channel bank row frame corrected) s)

/-- The frame that replaces a retired one: the next of the reserve, numbered above every frame of the shares (R198, R320; log 13). -/
def nextFrame (s : State) : Nat × Nat := (Config.poolStack s.mem.moved.length % 8, 2 ^ 32 + s.mem.moved.length)

/-- The pieces of a rebuild: a frame's 32 runs are read, corrected, from HBM or from its flash copy, and written (R197, R211, R218, R321). -/
def rebuildJobs (s : State) (stack : Nat) (flash : Bool) (into : Nat) : List Job :=
  (if flash then flashJobs s 0 32 else [runJob stack 32 (some 3)]) ++ [runJob into 32 none]

/-- Structures of a retired frame use its replacement (R320). -/
def moveFrame (p q : Nat × Nat) (m : Mem) : Mem := { m with moved := (m.moved.map fun x => if x.2 == p then (x.1, q) else x) ++ [(p, q)] }

/-- The work of rebuilding a frame, under the SCRUB class of a facet that has data in it, where it may be granted (R219, R223, R261). -/
def chargeRebuild (stack frame : Nat) (js : List Job) (s : State) : Option State :=
  match frameHolders s stack frame with
  | [] => if mayGrant s 7 false then some s else none
  | f :: _ => allJobs f 7 .ended js s

/-- FRAME_REBUILD: the frame's structures use the rebuilt copy, and after a retirement the pool is refilled from what no facet has
charged. It waits while its work is not granted. -/
def frameRebuilt (frame : Nat) (s : State) : State :=
  match s.mem.rebuilding.find? (·.2.1 == frame) with
  | none => s
  | some r =>
    let q := if r.2.2.1 then nextFrame s else (r.1, r.2.1)
    match chargeRebuild r.1 r.2.1 (rebuildJobs s r.1 r.2.2.2 q.1) s with
    | none => s
    | some t =>
      let more := r.2.2.1 && s.mem.pool < 64 && 65536 ≤ uncharged s
      let m := if r.2.2.1 then moveFrame (r.1, r.2.1) q t.mem else t.mem
      { t with mem := { m with rebuilding := m.rebuilding.erase r, pool := if more then m.pool + 1 else m.pool } }

/-- FRAME_REBUILD. -/
def execFrameRebuild (frame : Nat) (s : State) : Host.Outcome State Fault Refusal := .next (frameRebuilt frame s)

-- Stream blocks (R214, R215).

/-- The facet that consumes a stream. -/
def consumerFacet (s : State) : Consumer → Nat
  | .sliver c => ((cellOf s c).run.map (·.facet)).getD 255
  | .walker x => ((queryOf s x).map (·.facet)).getD 255
  | .model t => ((s.srch.enc.find? (·.tag == t)).map (·.facet)).getD (((s.srch.train.find? (·.tag == t)).map (·.facet)).getD 255)
  | .memory f _ => f

/-- The stream that a consumer reads. -/
def consumerStream (s : State) (c : Consumer) : Option Strm := streamBy s c

/-- Byte of its sliver's records at which block b of a cell's stream begins: the stream was armed at the sliver's last start (R209, R215). -/
def sliverByte (x : Strm) (v : Sliver) (b : Nat) : Int := ((((v.hi - v.lo) - x.counts.headD 0) * x.size + 512 * b : Nat) : Int)

/-- A consumer ignores a poisoned block (R215): a scanner the records in it, the walks that share a walker's round the run that it lies in, an ENCODE
or TRAIN goes on with PARTIAL. -/
def poison (c : Consumer) (b : Nat) (s : State) : State :=
  match c with
  | .sliver n =>
    let off := fun (v : Sliver) => ((consumerStream s c).map fun x => sliverByte x v b).getD ((512 * b : Nat) : Int)
    poisonHandle c b (updCell n (fun x => { x with run := x.run.map fun v => { v with poisoned := v.poisoned ++ [off v] } }) s)
  | .walker x => match queryOf s x with
    | some q => poisonHandle c b (poisonRound q [b / 4] s)
    | none => s
  | .model t => poisonHandle c b { s with srch := { s.srch with
      enc := updFirst (·.tag == t) (fun j => { j with partialFlag := true }) s.srch.enc,
      train := updFirst (·.tag == t) (fun j => { j with partialFlag := true }) s.srch.train } }
  | .memory _ _ => poisonHandle c b s

/-- Tier that the consumer's stream reads (R208). -/
def consumerTier (s : State) (c : Consumer) : Nat := ((consumerStream s c).map (·.tier)).getD 0

/-- Sequence, route and address of a poisoned block, by its stream's descriptor (R208, R374). -/
def streamFacts (s : State) (c : Consumer) (b : Nat) : Nat × Nat × Nat :=
  match consumerStream s c with
  | some x => (x.seq, x.route, blockAddr x b)
  | none => (0, 255, 512 * b)

/-- The structure of a slot that the block check store knows at an address: its list key and base (R198, R214). -/
def keyAt (s : State) (f slot a : Nat) : Option (Nat × Nat × Nat × Nat) :=
  (s.mem.checks.find? fun c => c.1.1 == f && c.1.2.1 == slot && c.1.2.2.1 != modelKey && c.1.2.2.2 ≤ a && a < c.1.2.2.2 + 512 * c.2.length).map (·.1)

/-- The structure whose records a consumer's stream delivers: facet, slot and list key, and the HBM address at which it begins (R68, R194): a
sliver's, a node array's, a slot's weights or TRAIN's workspace, or what internal work reads. -/
def consumerKey (s : State) (c : Consumer) : Option (Nat × Nat × Nat × Nat) :=
  match c with
  | .sliver n => (cellOf s n).run.bind fun v => (idxOf s v.facet v.slot).map fun ix => (v.facet, v.slot, v.key, recordsBase s ix v)
  | .walker x => (queryOf s x).bind fun q => (idxOf s q.facet q.slot).map fun ix => (q.facet, q.slot, 0, walkBase ix q)
  | .model t => match s.srch.enc.find? (·.tag == t) with
    | some j => some (j.facet, j.slot, modelKey, freeBase j.facet j.slot modelKey)
    | none => (s.srch.train.find? (·.tag == t)).map fun j => (j.facet, j.slot, workKey, freeBase j.facet j.slot workKey)
  | .memory f slot => (consumerStream s c).bind fun x => keyAt s f slot x.base

/-- Where the structure begins in the addresses of a consumer's stream: a stacked copy of a list at 0 (R199, R208). -/
def streamStart (x : Strm) (k : Nat × Nat × Nat × Nat) : Nat :=
  match x.user with
  | .sliver _ => if x.tier == 0 then k.2.2.2 else 0
  | _ => k.2.2.2

/-- The check that the block check store keeps for block b of a consumer's stream (R198, R214). -/
def storedCheck (s : State) (c : Consumer) (b : Nat) : Option (BitVec 32) :=
  match consumerStream s c, consumerKey s c with
  | some x, some k =>
    let start := streamStart x k
    if blockAddr x b < start then none else keptCheck s k.1 k.2.1 k.2.2.1 k.2.2.2 (blockAddr x b - start)
  | _, _ => none

/-- What the memory fault handling does with a block that stays bad (R214): its HBM frame is rebuilt, or the stacked copy that it lies in goes, so
that later reads of the list take HBM (R201, R319); a prefetched slice comes from HBM anew. -/
def rebuildBlock (c : Consumer) (b : Nat) (s : State) : State :=
  match consumerStream s c, consumerKey s c with
  | some x, some k =>
    if x.tier == 0 then
      let g := frameAt s k.1 k.2.1 k.2.2.1 k.2.2.2 (blockAddr x b / 65536 - k.2.2.2 / 65536)
      if frameLost s g then s else rebuildFrame g.1 g.2 false true s
    else { s with mem := { s.mem with copies := s.mem.copies.filter fun y => !(y.1 == k.1 && y.2.1 == k.2.1 && y.2.2.1 == k.2.2.1) } }
  | _, _ => s

/-- STREAM_BLOCK_RESEND: a block fails its check at its consumer and is re-sent; one that fails after the third resend is delivered poisoned. A
block whose CRC is the one that the store keeps has not failed (R214). -/
def blockMismatch (c : Consumer) (b : Nat) (crc : BitVec 32) (s : State) : State :=
  let f := consumerFacet s c
  if 64 ≤ f || storedCheck s c b == some crc then s
  else
    let n := look 0 (c, b) s.srch.resends
    let s1 := bumpRas 27 1 s
    if n < 3 then bump f (kFct 10) 1 { s1 with srch := { s1.srch with resends := put (c, b) (n + 1) s1.srch.resends } }
    else
      let d := streamFacts s c b
      let s2 := record 0x0205 f [d.1, d.2.1, consumerTier s c, d.2.2 % 2 ^ 32, d.2.2 / 2 ^ 32] s1
      rebuildBlock c b <| poison c b <| bump f (kFct 11) 1
        { s2 with srch := { s2.srch with resends := s2.srch.resends.filter (·.1 != (c, b)) } }

/-- STREAM_BLOCK_RESEND. -/
def execStreamBlockResend (consumer : Consumer) (block : StreamBlock) (s : State) : Host.Outcome State Fault Refusal :=
  .next (blockMismatch consumer block.num block.crc s)

-- Stacked memory (R319).

/-- The part's code and facet in the event (R374), and its RAS entries. -/
def stackFacts (s : State) : StackPart → Nat × Nat × Nat
  | .cacheCopy f _ _ => (0, f, 3)
  | .scratchpad t => (0, ((cmdOf s t).map (·.facet)).getD 255, 3)
  | .tagTable => (1, 255, 5)
  | .streamBuffer c => (2, consumerFacet s (.sliver c), 7)
  | .mergeState x => (2, ((queryOf s x).map (·.facet)).getD 255, 7)

/-- STACKED_UNCORRECTABLE, by the part it lies in. -/
def stackError (slice address : Nat) (p : StackPart) (s : State) : State :=
  if !clocked s then s
  else
    let w := stackFacts s p
    let s1 := bumpRas w.2.2 1 (record 0x0204 slice [address, w.1, w.2.1] s)
    match p with
    | .cacheCopy f sl l =>
      let hbm := fun (v : Sliver) => if v.facet == f && v.slot == sl && v.key == l then { v with copy := false } else v
      bumpRas 26 1 { s1 with
        srch := { s1.srch with cells := s1.srch.cells.map fun c => { c with run := c.run.map hbm, susp := c.susp.map hbm } },
        mem := { s1.mem with copies := s1.mem.copies.filter fun c => !(c.1 == f && c.2.1 == sl && c.2.2.1 == l) } }
    | .scratchpad t => partialCmd t s1
    | .tagTable => goFatal 1 s1
    | .streamBuffer _ => if w.2.1 < 64 then bump w.2.1 (kFct 10) 1 s1 else s1
    | .mergeState x => markPartial [x] s1

/-- STACKED_UNCORRECTABLE. -/
def execStackedUncorrectable (slice address : Nat) (part : StackPart) (s : State) : Host.Outcome State Fault Refusal :=
  .next (counted (stackError slice address part) s)

-- Flash (R323, R324).

/-- The channel of the parity unit of a unit's newest group, once it is closed (R324). -/
def parityChannel (s : State) (u : Unit') : Option Nat :=
  if s.flash.forming.contains u then none else (s.flash.groups.find? (·.units.contains u)).map (·.channel)

/-- The reads of the rest of a unit's parity group (R218, R219, R324). -/
def groupJobs (s : State) (u : Unit') : List Job :=
  (((parityMates s u).map fun v => (placeOf s v).1) ++ (parityChannel s u).toList).map fun ch => unitJob ch 1 (some 4)

/-- FLASH_UNIT_REBUILT: a failed unit's new copy is formed from its group and programmed under the SCRUB class; once it is on flash, the page map
names it and the event tells of the place that failed (R195, R324; log 109). -/
def unitRebuilt (u : Unit') (s : State) : State := if s.flash.rebuilding.contains u then copyUnit (groupJobs s u) u s else s

/-- FLASH_UNIT_REBUILT. -/
def execFlashUnitRebuilt (facet slot struct list unit : Nat) (s : State) : Host.Outcome State Fault Refusal :=
  .next (unitRebuilt ⟨facet, slot, struct, list, unit⟩ s)

/-- FLASH_BLOCK_RETIRED: a block with more than 8 re-reads since the last patrol pass is relocated, and retired once nothing is read from it any more
(cause 0, R195, R323; log 109). -/
def blockRelocated (ch d pl blk : Nat) (s : State) : State :=
  let k := blockKey ch d pl blk
  if s.flash.rereads.get k ≤ 8 then s
  else leaveBlocks { s with flash := { s.flash with
    rereads := s.flash.rereads.filter (·.1 != k), leaving := nub (s.flash.leaving ++ [(ch, d, pl, blk)]) } }

/-- FLASH_BLOCK_RETIRED. -/
def execFlashBlockRetired (channel die plane block : Nat) (s : State) : Host.Outcome State Fault Refusal :=
  .next (blockRelocated channel die plane block s)

end Sys2Proof.Machine
end

