-- ==== Sys2Proof/Machine/Host.lean ====
section
/-! DEFINITION. The host interface: doorbells, the admin queue's set-up, the resets of R239, held interrupts, the PCIe link and its
configuration space (R238 to R245, R254, R258, R317, R360). -/

namespace Sys2Proof.Machine

-- Doorbells (R243, R245, R256, R258).

/-- An ignored doorbell value (R245): counted and recorded; an I/O pair that exists freezes. The admin queue freezes with
causes WATCHDOG and FATAL only (R255). -/
def badDoorbell (which q value : Nat) (s : State) : State :=
  let depth := ((qpOf s q).map (·.depth)).getD 0
  let s1 := { s with hif := { s.hif with doorbellInvalid := (s.hif.doorbellInvalid + 1) % 2 ^ 64 } }
  let s2 := record 0x0602 q [which, value, depth] s1
  if q == 0 then s2 else updQp q (freezeQp cauDoorbell) s2

/-- A valid doorbell write restarts the keep-alive timer of the pair's facet (R258). -/
def restartKa (p : Qp) (s : State) : State :=
  if p.num == 0 then s else updFacet p.facet (fun x => { x with kaSince := now s }) s

/-- A CQ head between the last released head and the module's CQ tail, inclusive (R245). -/
def cqHeadOk (p : Qp) (v : Nat) : Bool :=
  v < p.depth && ringCount p.depth p.cqHead v ≤ ringCount p.depth p.cqHead p.cqTail

/-- A write to the SQ tail doorbell. -/
def sqTail (q v : Nat) (s : State) : State :=
  if !s.hif.linkUp then s
  else match qpOf s q with
    | none => badDoorbell 0 q v s
    | some p =>
      if p.state == 3 then s
      else if v < p.depth then restartKa p (updQp q (fun x => { x with sqTail := v }) s)
      else badDoorbell 0 q v s

/-- SQ_TAIL_DOORBELL. -/
def execSqTailDoorbell (qp : Nat) (value : BitVec 32) (s : State) : Host.Outcome State Fault Refusal :=
  .next (sqTail qp value.toNat s)

/-- A write to the CQ head doorbell. -/
def cqHead (q v : Nat) (s : State) : State :=
  if !s.hif.linkUp then s
  else match qpOf s q with
    | none => badDoorbell 1 q v s
    | some p =>
      if p.state == 3 then s
      else if cqHeadOk p v then restartKa p (updQp q (fun x => { x with cqHead := v }) s)
      else badDoorbell 1 q v s

/-- CQ_HEAD_DOORBELL. -/
def execCqHeadDoorbell (qp : Nat) (value : BitVec 32) (s : State) : Host.Outcome State Fault Refusal :=
  .next (cqHead qp value.toNat s)

-- The admin queue's set-up and the resets (R239, R242, R360).

/-- Depth and bases valid, both rings in the admin window (R242, R360): the module reads the SQ and writes the CQ. -/
def adminRingsOk (s : State) : Bool :=
  2 ≤ s.hif.depth && s.hif.depth ≤ 4096 && inWindows s 0 0 false s.hif.sqBase.toNat (64 * s.hif.depth) &&
  inWindows s 0 0 true s.hif.cqBase.toNat (32 * s.hif.depth)

/-- The freeze causes that a new admin queue meets at once (R256). -/
def adminCauses (s : State) : List Nat :=
  (if s.srch.expired.contains 0 then [cauWatchdog] else []) ++ (if s.brd.fatal then [cauFatal] else [])

/-- The admin queue made (R242, R254): vector 0, not coalesced. -/
def adminQp (s : State) : Qp :=
  (adminCauses s).foldl (fun p c => freezeQp c p) (newQp 0 0 s.hif.depth s.hif.sqBase.toNat s.hif.cqBase.toNat 0 1 0)

/-- Setting HIF_CTRL.enable (R360). A module without firmware sets neither ready nor config_error (log 50). -/
def enableHif (s : State) : State :=
  if !s.hif.linkUp || s.hif.enable || s.hif.resetBusy then s
  else
    let s1 := { s with hif := { s.hif with enable := true } }
    if 2 ≤ s.fw.running then s1
    else if adminRingsOk s then { s1 with hif := { s1.hif with ready := true }, qps := s1.qps ++ [adminQp s] }
    else { s1 with hif := { s1.hif with configError := true } }

/-- HIF_CTRL_ENABLE. -/
def execHifCtrlEnable (s : State) : Host.Outcome State Fault Refusal := .next (enableHif s)

/-- Writing 0 to a set enable bit (R360). -/
def disableHif (s : State) : State :=
  if s.hif.linkUp && s.hif.enable then settle (interfaceReset s) else s

/-- HIF_CTRL_DISABLE. -/
def execHifCtrlDisable (s : State) : Host.Outcome State Fault Refusal := .next (disableHif s)

/-- A reset of the function over a link that is up (R239). -/
def functionReset (s : State) : State := if s.hif.linkUp then settle (interfaceReset s) else s

/-- FUNCTION_LEVEL_RESET. -/
def execFunctionLevelReset (s : State) : Host.Outcome State Fault Refusal := .next (functionReset s)

/-- HOT_RESET. -/
def execHotReset (s : State) : Host.Outcome State Fault Refusal := .next (functionReset s)

/-- LINK_DOWN: the same, and the link is down. -/
def linkLost (s : State) : State :=
  let s1 := functionReset s
  { s1 with hif := { s1.hif with linkUp := false } }

/-- LINK_DOWN. -/
def execLinkDown (s : State) : Host.Outcome State Fault Refusal := .next (linkLost s)

-- Interrupts (R254, R317).

/-- A vector's held message, sent if its interval has passed and nothing masks it. -/
def releaseMsg (v : Nat) (s : State) : State := if s.hif.pendMsg.contains v then sendMsi v s else s

/-- MSIX_INTERVAL_EXPIRY. -/
def execMsixIntervalExpiry (vector : Nat) (s : State) : Host.Outcome State Fault Refusal := .next (releaseMsg vector s)

/-- The end of a pair's coalescing delay, counted from its first completion not yet signalled. -/
def delayOver (q : Nat) (s : State) : State :=
  match qpOf s q with
  | none => s
  | some p =>
    match p.signalSince with
    | some t => if 0 < p.toSignal && t + 1000 * p.cDelay ≤ now s then signalQp q s else s
    | none => s

/-- COALESCING_DELAY_EXPIRY. -/
def execCoalescingDelayExpiry (qp : Nat) (s : State) : Host.Outcome State Fault Refusal := .next (delayOver qp s)

-- The link and the configuration space (R238).

/-- Speeds and widths the function trains to (R238). -/
def linkModeOk (speed width : Nat) : Bool := [64, 32, 16].contains speed && [16, 8, 4].contains width

/-- PCIE_LINK_UP: HIF_LINK takes the trained values. -/
def trained (speed width : Nat) (s : State) : State :=
  if s.brd.mainPower && linkModeOk speed width then
    { s with hif := { s.hif with linkUp := true, speed := speed, width := width } }
  else s

/-- PCIE_LINK_UP. -/
def execPcieLinkUp (speed width : Nat) (s : State) : Host.Outcome State Fault Refusal := .next (trained speed width s)

/-- Messages that waited only for the mask (R317: nothing is dropped). -/
def unmasked (s : State) : State := s.hif.pendMsg.foldl (fun t v => sendMsi v t) s

/-- A write to the configuration space; a payload or read size outside R238 is not taken. -/
def configure (w : CfgWrite) (s : State) : State :=
  if !s.hif.linkUp then s
  else match w with
    | .ecrcGenerate b => { s with hif := { s.hif with ecrcGen := b } }
    | .ecrcCheck b => { s with hif := { s.hif with ecrcCheck := b } }
    | .msixEnable b => unmasked { s with hif := { s.hif with msixOn := b } }
    | .msixMask b => unmasked { s with hif := { s.hif with msixMask := b } }
    | .maxPayload n => if [128, 256, 512].contains n then { s with hif := { s.hif with maxPayload := n } } else s
    | .maxReadRequest n =>
      if [128, 256, 512, 1024, 2048, 4096].contains n then { s with hif := { s.hif with maxRead := n } } else s

/-- CONFIGURATION_WRITE. -/
def execConfigurationWrite (w : CfgWrite) (s : State) : Host.Outcome State Fault Refusal := .next (configure w s)

end Sys2Proof.Machine
end

