-- ==== Sys2Proof/Machine/Regs.lean ====
section
/-! DEFINITION. The register map of BAR0, the mirror window of BAR2, and their reads and writes (R240, R241, R249 to R253, R332,
R357 to R371). -/

namespace Sys2Proof.Machine

-- BAR0 registers as 64-bit values, by their offset in the block.

/-- GEN_ (R359). -/
def genReg (s : State) (o : Nat) : Nat :=
  match o with
  | 0x00 => field 0 8 (ascii "CVG8-M32T-A")
  | 0x08 => field 8 8 (ascii "CVG8-M32T-A")
  | 0x10 => 0x000100A1
  | 0x18 => ((s.fw.slots[s.fw.running]?).map (·.revision)).getD 0
  | 0x20 => field 0 8 s.serial
  | 0x28 => field 8 8 s.serial
  | 0x30 => healthWord s
  | 0x38 => s.brd.clk / 1000
  | 0x40 => s.hif.scratch.toNat
  | _ => 0

/-- Free contexts of the apex reserve (R84). -/
def reserveFree (s : State) : Nat :=
  1024 - (s.srch.queries.filter (·.ctx < 1024)).length - (s.srch.freeing.filter (·.1 < 1024)).length

/-- HIF_ (R360). -/
def hifReg (s : State) (o : Nat) : Nat :=
  let h := s.hif
  match o with
  | 0x00 => flagBit 0 h.enable
  | 0x08 => flagBit 0 h.ready + flagBit 1 h.configError + flagBit 2 h.resetBusy
  | 0x10 => h.sqBase.toNat
  | 0x18 => h.cqBase.toNat
  | 0x20 => h.depth
  | 0x28 => h.speed + 256 * h.width
  | 0x30 => tagsFree s
  | 0x38 => sharedFree s + 2 ^ 16 * reserveFree s
  | 0x40 => h.badAccess
  | 0x48 => h.doorbellInvalid
  | _ => 0

/-- LAT_ (R361): state 1 while a load is in progress. -/
def latReg (s : State) (o : Nat) : Nat :=
  let l := s.lat
  match o with
  | 0x00 => (if l.load.isSome then 1 else l.st) + 4 * l.active + 16 * (partials (l.slots.getD l.active ⟨[], 0, 0⟩))
  | 0x08 => l.code + flagBit 16 l.kind + flagBit 17 l.atReset
  | 0x10 => s.cfg.id % 2 ^ 64
  | 0x18 => s.cfg.id / 2 ^ 64
  | 0x20 => l.loads
  | 0x28 => l.refused
  | 0x30 => l.reshapeUs
  | _ => 0

/-- Facet and class of FCT_SELECT (R362). -/
def selFacet (s : State) : Nat := s.hif.select.toNat % 64
def selClass (s : State) : Nat := s.hif.select.toNat / 256 % 8

/-- FCT_ (R362 to R364). -/
def fctReg (s : State) (o : Nat) : Nat :=
  let x := shownFacet s (selFacet s)
  if o == 0 then s.hif.select.toNat
  else if o == 8 then x.state + 256 * x.cause
  else if 0x100 ≤ o && o < 0x240 then x.ctr.get (kCls (selClass s) ((o - 0x100) / 8))
  else if 0x400 ≤ o && o < 0x500 then
    let n := (o - 0x400) / 8
    if n == 22 then prefetchGauge s (selFacet s) else x.ctr.get (kFct n)
  else 0

/-- SCH_ (R366). -/
def schReg (s : State) (o : Nat) : Nat :=
  let x := shownFacet s (selFacet s)
  if o == 0 then s.srch.turn % 2 ^ 32 + 2 ^ 32 * s.srch.stepNo + flagBit 34 s.brd.locked
  else if o == 8 then x.energyNj / 1000
  else if o == 0x10 then s.srch.idleNj / 1000
  else if o == 0x18 then x.ctr.get kPause
  else if 0x100 ≤ o && o < 0x140 then x.ctr.get (kSch (selClass s) ((o - 0x100) / 8))
  else 0

/-- One HBM stack (R367); the spare rows before any remap are the part's own (log 13). -/
def stackReg (s : State) (n : Nat) : Nat :=
  (tempByte (s.brd.temps.getD n 0)).toNat + 256 * s.brd.thermal.getD n 0 + flagBit 10 (s.brd.psNow == 3) +
  2 ^ 16 * (s.mem.retired.filter (·.1 == n)).length +
  2 ^ 32 * ((Config.stackSpareRows n - (s.mem.remapped.filter (·.1 == n)).length) % 2 ^ 16)

/-- MEM_ (R367). -/
def memReg (s : State) (o : Nat) : Nat :=
  if o < 0x40 then stackReg s (o / 8)
  else match o with
    | 0x40 => s.mem.retired.length + flagBit 32 s.mem.degraded
    | 0x48 => s.mem.pool
    | 0x50 => hbmBytes s
    | 0x58 => 24576 * 2 ^ 30
    | 0x60 => s.flash.sparePm + 2 ^ 16 * (tempByte (s.brd.temps.getD 9 0)).toNat + 2 ^ 24 * s.brd.thermal.getD 9 0
    | 0x68 => s.mem.hbmPasses % 2 ^ 32 + 2 ^ 32 * (s.mem.flashPasses % 2 ^ 32)
    | _ => 0

/-- One link's group (R368). -/
def linkReg (s : State) (n o : Nat) : Nat :=
  match s.chd.links[n]? with
  | none => 0
  | some l =>
    match o with
    | 0x00 => l.st + 8 * l.lanes + 256 * s.fnc.caps.getD n 0
    | 0x08 => l.ctr.get 0
    | 0x10 => l.ctr.get 1
    | 0x18 => l.ctr.get 2
    | 0x20 => l.ctr.get 3
    | 0x28 => l.ctr.get 4
    | 0x30 => l.ctr.get 5
    | 0x38 => l.ctr.get 6
    | 0x40 => l.ctr.get 8
    | 0x48 => l.ctr.get 9
    | 0x50 => l.ctr.get 10
    | 0x58 => l.ctr.get 11
    | _ => 0

/-- CHD_MIG_STATUS (R368). -/
def migStatus (m : Mig) : Nat := m.phase + flagBit 3 m.target + 2 ^ 16 * m.error

/-- CHD_ (R368). -/
def chdReg (s : State) (o : Nat) : Nat :=
  if o < 0x400 then linkReg s (o / 0x100) (o % 0x100)
  else
    let m := s.chd.mig
    match o with
    | 0x400 => m.ctrl.toNat
    | 0x408 => m.accept.toNat
    | 0x410 => migStatus m
    | 0x418 => m.units
    | _ => 0

/-- RAS_ (R369). -/
def rasReg (s : State) (o : Nat) : Nat :=
  if o == 0 then s.brd.fatalUnit + flagBit 8 s.brd.fatal
  else if o == 8 then s.srch.cellsOut.length + 2 ^ 16 * s.srch.blocksOut.length + 2 ^ 24 * s.srch.regionsOut.length
  else if 0x100 ≤ o && o < 0x200 then (if o == 0x100 then 0 else s.mem.ras.get ((o - 0x100) / 8))
  else if 0x400 ≤ o && o < 0x540 then
    let t := (o - 0x400) / 0x20
    let k := (o - 0x400) % 0x20 / 8
    if k < 3 then s.brd.thermalNs.get (3 * t + k) / 1000000 % 2 ^ 64 else 0
  else 0

/-- Oldest held sequence (R332). -/
def evrOldest (s : State) : Nat := ((s.evr.recs.head?).map (·.seq)).getD s.evr.next

/-- The record at EVR_CURSOR. -/
def cursorRec (s : State) : Option EvRec := s.evr.recs.find? (·.seq == s.evr.cursor)

/-- EVR_WINDOW (R332): all zero when the cursor's sequence is not held. -/
def evrWindow (s : State) : Bytes := ((cursorRec s).map recBytes).getD (List.replicate 64 0)

/-- EVR_ (R332). -/
def evrReg (s : State) (o : Nat) : Nat :=
  let e := s.evr
  if 0x40 ≤ o && o < 0x80 then field (o - 0x40) 8 (evrWindow s)
  else match o with
    | 0x00 => flagBit 0 e.frozen + flagBit 1 e.framFault + flagBit 2 (cursorRec s).isSome
    | 0x08 => e.cursor
    | 0x10 => evrOldest s
    | 0x18 => e.next
    | 0x20 => e.recs.length
    | 0x28 => e.overwritten
    | 0x30 => e.frozenCount
    | 0x38 => e.suppressed
    | _ => 0

/-- PWR_EDGES of a pin (R370). -/
def edges (p : PinSt) : Nat := p.acc % 2 ^ 32 + 2 ^ 32 * (p.rej % 2 ^ 32)

/-- PWR_ (R370). -/
def pwrReg (s : State) (o : Nat) : Nat :=
  let b := s.brd
  match o with
  | 0x00 => b.psNow + flagBit 2 b.trans.isSome + flagBit 3 (braked s) + flagBit 4 b.limiter + flagBit 5 b.woken
  | 0x08 => b.mV / 10 % 2 ^ 16 + 2 ^ 16 * (b.mA / 10 % 2 ^ 16) + 2 ^ 32 * (mainMw s % 2 ^ 32)
  | 0x10 => b.auxmV % 2 ^ 16 + 2 ^ 16 * (b.auxmW % 2 ^ 16)
  | 0x18 => b.coreMhz + 2 ^ 16 * (tempByte (b.temps.getD 8 0)).toNat
  | 0x20 => b.syncInterval + flagBit 32 b.locked
  | 0x28 => b.opNs / 3600000000000 % 2 ^ 32 + 2 ^ 32 * b.cycles
  | 0x40 => edges b.rst
  | 0x48 => edges b.brake
  | 0x50 => edges b.sync
  | _ => 0

/-- FNC_ (R371). -/
def fncReg (s : State) (o : Nat) : Nat := if o < 0x1A88 then field o 8 (fenceBytes s.fnc) else 0

/-- The pending-bit array (R240, R317). -/
def pbaReg (s : State) (o : Nat) : Nat :=
  if o < 32 then ofBits ((List.range 64).map fun i => s.hif.pendMsg.contains (8 * o + i)) else 0

/-- The 64-bit value at a BAR0 offset that is a multiple of 8 (R240, R357); reserved offsets read zero. -/
def bar0Reg (s : State) (a : Nat) : Nat :=
  let o := a % 0x10000
  match a / 0x10000 with
  | 0x0 => genReg s o
  | 0x1 => hifReg s o
  | 0x2 => latReg s o
  | 0x3 => fctReg s o
  | 0x4 => schReg s o
  | 0x5 => memReg s o
  | 0x6 => chdReg s o
  | 0x7 => rasReg s o
  | 0x8 => evrReg s o
  | 0x9 => pwrReg s o
  | 0xA => fncReg s o
  | 0x10 => if o < 0x1000 then leNat (cellRead o 8 s.hif.msixTable) else if o < 0x2000 then pbaReg s (o - 0x1000) else 0
  | _ => 0

-- The mirror window (R249 to R253).

/-- Queue mirror and slot-tag map of a pair (R250, R251), by the word's offset in its 16 KiB. -/
def pairWord (s : State) (n o : Nat) : Nat :=
  match qpOf s n with
  | none => 0
  | some p =>
    if o == 0 then p.sqTail + 2 ^ 16 * p.sqHead + 2 ^ 32 * p.cqTail + 2 ^ 48 * p.cqHead
    else if o == 8 then p.state + 2 ^ 8 * shownCause p + 2 ^ 16 * p.facet + flagBit 24 p.phase +
      2 ^ 32 * p.inFlight + 2 ^ 48 * p.depth
    else if 0x2000 ≤ o && o < 0x4000 then
      let i := (o - 0x2000) / 2
      ((List.range 4).map fun j => 2 ^ (16 * j) * (look 0 (i + j) p.slotTags % 65536)).sum
    else 0

/-- Milliseconds before keep-alive lapse, all ones when the timer is off (R253, R258). -/
def kaLeft (s : State) (f : Nat) : Nat :=
  let x := facetOf s f
  if kaRuns s f then (x.kaSince + 1000000 * x.kaMs - now s) / 1000000 else 2 ^ 64 - 1

/-- A facet page's word (R253). -/
def facetWord (s : State) (f o : Nat) : Nat :=
  let x := shownFacet s f
  match o with
  | 0x00 => x.epoch % 2 ^ 48
  | 0x08 => x.state + 256 * x.cause
  | 0x10 => kaLeft s f
  | _ => 0

/-- The word at a BAR2 offset that is a multiple of 8; all but the mirror window's words read zero (R240, R241). -/
def bar2Word (s : State) (a : Nat) : Nat :=
  if a < 0x1000000 then 0
  else if a < 0x1400000 then pairWord s ((a - 0x1000000) / 0x4000) (a % 0x4000)
  else if a < 0x1440000 then facetWord s ((a - 0x1400000) / 0x1000) (a % 0x1000)
  else if a == 0x1440000 then healthWord s
  else if a == 0x1440008 then s.hif.healthChanges % 2 ^ 64
  else if 0x1480000 ≤ a && a < 0x1500000 then tagBits (tagOf s ((a - 0x1480000) / 8))
  else 0

/-- Bytes a run of aligned words holds. -/
def wordBytes (w : Nat → Nat) (a n : Nat) : Bytes :=
  let lo := a / 8 * 8
  slice (a - lo) n ((List.range ((a - lo + n + 7) / 8)).map fun i => leBytes 8 (w (lo + 8 * i))).flatten

-- Reads (R241, R332, R357).

/-- A BAR0 read of 4 or 8 bytes, naturally aligned. -/
def bar0Aligned (off len : Nat) : Bool := (len == 4 || len == 8) && off % len == 0

/-- The read returns record bytes 0x3C to 0x3F. -/
def readsCrc (off len : Nat) : Bool := off ≤ 0x8007C && 0x80080 ≤ off + len

/-- A mirror-window read within one aligned 64-byte line. -/
def mirrorRead (off len : Nat) : Bool := len ≤ 64 && off % 64 + len ≤ 64

/-- A read answered with zeros and counted. -/
def zeroRead (len : Nat) (s : State) : State := emit (.readData (List.replicate len 0)) (badAccess s)

/-- The record at the cursor fails its CRC (R331). -/
def tornRead (s : State) : Bool := (cursorRec s).any fun r => crc32 (recBody r) != r.crc

/-- A read of the record's crc moves EVR_CURSOR on; a record that fails its CRC there counts as an uncorrectable error of the FRAM (R319, R331,
R369; log 93). -/
def passCursor (s : State) : State :=
  let s1 := if tornRead s then bumpRas 13 1 s else s
  { s1 with evr := { s1.evr with cursor := (s1.evr.cursor + 1) % 2 ^ 32 } }

/-- A read of BAR0. -/
def readBar0 (off len : Nat) (s : State) : State :=
  if !bar0Aligned off len then zeroRead len s
  else
    let s1 := emit (.readData (wordBytes (bar0Reg s) off len)) s
    if readsCrc off len then passCursor s1 else s1

/-- A read of BAR2: doorbell pages and reserved offsets read zero. -/
def readBar2 (off len : Nat) (s : State) : State :=
  if off < 0x1000000 then emit (.readData (List.replicate len 0)) s
  else if mirrorRead off len then emit (.readData (wordBytes (bar2Word s) off len)) s
  else zeroRead len s

/-- A read by the host; none is answered before link-up. -/
def readBar (bar : Bar) (off len : Nat) (s : State) : State :=
  if !s.hif.linkUp then s
  else match bar with
    | .bar0 => readBar0 off len s
    | .bar2 => readBar2 off len s

/-- MISALIGNED_READ. -/
def execMisalignedRead (bar : Bar) (offset length : Nat) (s : State) : Host.Outcome State Fault Refusal :=
  .next (readBar bar offset length s)

/-- EVR_WINDOW_CRC_READ: as the upper half of the last 8-byte word, or alone. -/
def execEvrWindowCrcRead (wide : Bool) (s : State) : Host.Outcome State Fault Refusal :=
  .next (if wide then readBar .bar0 0x80078 8 s else readBar .bar0 0x8007C 4 s)

-- Writes (R241, R357 to R371).

/-- A register's old value with the written bytes in place; `off` is the offset within the register. -/
def mergeWord (old off size value : Nat) : Nat :=
  if size == 8 then value % 2 ^ 64
  else old % 2 ^ (8 * off) + 2 ^ (8 * off) * (value % 2 ^ (8 * size)) + old / 2 ^ (8 * (off + size)) * 2 ^ (8 * (off + size))

/-- A set-up register of the admin queue: ignored and counted while enable is 1 (R360). -/
def setupWrite (g : Hif → Hif) (s : State) : State :=
  if s.hif.enable then badAccess s else { s with hif := g s.hif }

/-- A value with its low 12 bits zero (R11, R360). -/
def pageBase (v : Nat) : Word64 := BitVec.ofNat 64 (v / 4096 * 4096)

/-- A write to CHD_MIG_CTRL: go and cancel have their own effects, any other write stores the fields (R309, R368). -/
def ctrlWrite (v : Nat) (s : State) : State :=
  let w := BitVec.ofNat 64 v
  if bit 16 v then settle (migGo w s) else if bit 17 v then settle (migCancelHere (setCtrl w s)) else setCtrl w s

/-- A write to CHD_MIG_ACCEPT. -/
def acceptWrite (v : Nat) (s : State) : State :=
  let w := BitVec.ofNat 64 v
  if bit 16 v then settle (migArm w s) else if bit 17 v then settle (migCancelHere (setAccept w s)) else setAccept w s

/-- A naturally aligned write of 4 or 8 bytes to BAR0: stored if RW, else ignored and counted. -/
def writeBar0 (off size value : Nat) (s : State) : State :=
  let a := off / 8 * 8
  let v := mergeWord (bar0Reg s a) (off - a) size value
  if a == 0x40 then { s with hif := { s.hif with scratch := BitVec.ofNat 64 v } }
  else if a == 0x10000 then (if bit 0 v then enableHif s else disableHif s)
  else if a == 0x10010 then setupWrite (fun h => { h with sqBase := pageBase v }) s
  else if a == 0x10018 then setupWrite (fun h => { h with cqBase := pageBase v }) s
  else if a == 0x10020 then setupWrite (fun h => { h with depth := v % 8192 }) s
  else if a == 0x30000 then
    { s with hif := { s.hif with select := BitVec.ofNat 64 (v % 64 + 256 * (v / 256 % 8)) } }
  else if a == 0x60400 then ctrlWrite v s
  else if a == 0x60408 then acceptWrite v s
  else if a == 0x80008 then { s with evr := { s.evr with cursor := v % 2 ^ 32 } }
  else if 0x100000 ≤ a && a < 0x101000 then
    { s with hif := { s.hif with msixTable := cellWrite (a - 0x100000) (leBytes 8 v) s.hif.msixTable } }
  else badAccess s

/-- A write to BAR2: an aligned 4-byte write to a doorbell is one, everything else is ignored and counted (R241). -/
def writeBar2 (off size value : Nat) (s : State) : State :=
  if size == 4 && off < 0x100000 && off % 0x1000 == 0 then sqTail (off / 0x1000) (value % 2 ^ 32) s
  else if size == 4 && off < 0x100000 && off % 0x1000 == 4 then cqHead (off / 0x1000) (value % 2 ^ 32) s
  else badAccess s

/-- A write by the host; none reaches the module before link-up. -/
def writeBar (bar : Bar) (off size value : Nat) (s : State) : State :=
  if !s.hif.linkUp then s
  else match bar with
    | .bar0 => if bar0Aligned off size then writeBar0 off size value s else badAccess s
    | .bar2 => writeBar2 off size value s

/-- REGISTER_WRITE. -/
def execRegisterWrite (bar : Bar) (offset size : Nat) (value : Word64) (s : State) : Host.Outcome State Fault Refusal :=
  .next (writeBar bar offset size value.toNat s)

end Sys2Proof.Machine
end

