-- ==== Sys2Proof/Machine/Sideband.lean ====
section
/-! DEFINITION. The sideband: MCTP control, PLDM and the recovery protocol (R350 to R352). The encodings of MCTP and PLDM are
theirs, not the spec's (log 53). -/

namespace Sys2Proof.Machine

/-- The always-on controller answers; without AUX_5V there is no answer. -/
def sbAnswer (a : SbAnswer) (s : State) : State := if s.brd.aux5 then emit (.sideband a) s else s

/-- A PLDM answer: completion code and data. -/
def pldm (code : Nat) (d : Bytes) (s : State) : State := sbAnswer (.pldm code d) s

-- MCTP control (R350).

/-- Endpoint IDs 0x00 and 0xFF name no endpoint (log 53). -/
def eidOk (e : Byte) : Bool := e != 0 && e != 0xFF

/-- Set Endpoint ID. -/
def setEid (e : Byte) (s : State) : State :=
  if !s.brd.aux5 then s
  else if eidOk e then sbAnswer (.mctp [0, 0, e, 0]) { s with side := { s.side with eid := e } }
  else sbAnswer (.mctp [2]) s

/-- SET_ENDPOINT_ID. -/
def execSetEndpointId (eid : Byte) (s : State) : Host.Outcome State Fault Refusal := .next (setEid eid s)

/-- GET_ENDPOINT_ID. -/
def execGetEndpointId (s : State) : Host.Outcome State Fault Refusal := .next (sbAnswer (.mctp [0, s.side.eid, 0, 0]) s)

/-- The version list of a message type: the base, control (0x00) and PLDM (0x01) are supported. -/
def mctpVersions (t : Byte) : Bytes :=
  match t.toNat with
  | 0xFF => [0, 1] ++ padTo 4 (Config.sbVersion 0)
  | 0x00 => [0, 1] ++ padTo 4 (Config.sbVersion 1)
  | 0x01 => [0, 1] ++ padTo 4 (Config.sbVersion 2)
  | _ => [0x80]

/-- GET_MCTP_VERSION_SUPPORT. -/
def execGetMctpVersionSupport (msgType : Byte) (s : State) : Host.Outcome State Fault Refusal :=
  .next (sbAnswer (.mctp (mctpVersions msgType)) s)

/-- GET_MESSAGE_TYPE_SUPPORT: PLDM, beside control itself. -/
def execGetMessageTypeSupport (s : State) : Host.Outcome State Fault Refusal := .next (sbAnswer (.mctp [0, 1, 1]) s)

-- PLDM type 0 (R351).

/-- GET_TID. -/
def execGetTid (s : State) : Host.Outcome State Fault Refusal := .next (pldm 0 [s.side.tid] s)

/-- SetTID; 0x00 and 0xFF name no terminus (log 53). -/
def setTerminus (t : Byte) (s : State) : State :=
  if !s.brd.aux5 then s
  else if eidOk t then pldm 0 [] { s with side := { s.side with tid := t } } else pldm 2 [] s

/-- SET_TID. -/
def execSetTid (tid : Byte) (s : State) : Host.Outcome State Fault Refusal := .next (setTerminus tid s)

/-- GetPLDMVersion. -/
def pldmVersion (t : Byte) (s : State) : State :=
  if (pldmCommands t).isEmpty then pldm 0x83 [] s
  else
    let v := padTo 4 (Config.sbVersion (16 + t.toNat))
    pldm 0 (leBytes 4 0 ++ [5] ++ v ++ leBytes 4 (crc32 v).toNat) s

/-- GET_PLDM_VERSION. -/
def execGetPldmVersion (pldmType : Byte) (s : State) : Host.Outcome State Fault Refusal := .next (pldmVersion pldmType s)

/-- GET_PLDM_TYPES: types 0, 2 and 4. -/
def execGetPldmTypes (s : State) : Host.Outcome State Fault Refusal := .next (pldm 0 (leBytes 8 0x15) s)

/-- GetPLDMCommands. -/
def pldmCmds (t : Byte) (s : State) : State :=
  if (pldmCommands t).isEmpty then pldm 0x83 [] s else pldm 0 (bitMap 256 ((pldmCommands t).map (·.toNat))) s

/-- GET_PLDM_COMMANDS. -/
def execGetPldmCommands (pldmType : Byte) (s : State) : Host.Outcome State Fault Refusal := .next (pldmCmds pldmType s)

-- PLDM type 2 (R351): numeric sensors 0 to 13 in the order of `readings`, state sensor 14; handle n is sensor n − 1.

/-- GET_PDR_REPOSITORY_INFO: 15 records. -/
def execGetPdrRepositoryInfo (s : State) : Host.Outcome State Fault Refusal :=
  .next (pldm 0 ([0] ++ List.replicate 26 0 ++ leBytes 4 15 ++ padTo 8 Config.pdrSizes ++ [0]) s)

/-- GetPDR: one whole record, and the handle of the next; handle 0 asks for the first. -/
def getRecord (h : Nat) (s : State) : State :=
  let n := if h == 0 then 1 else h
  if 15 < n then pldm 0x82 [] s
  else
    let r := Config.pdrRecord n
    pldm 0 (leBytes 4 (if n == 15 then 0 else n + 1) ++ leBytes 4 0 ++ [5] ++ leBytes 2 r.length ++ r) s

/-- GET_PDR. -/
def execGetPdr (handle : Nat) (s : State) : Host.Outcome State Fault Refusal := .next (getRecord handle s)

/-- Operational state of a numeric sensor: the main package's and the flash's are unavailable (2) while main power is off. -/
def sensorState (s : State) (n : Nat) : Byte := if n < 10 && !s.brd.mainPower then 2 else 0

/-- GetSensorReading: the reading of the last refresh, as a signed 32-bit number. -/
def readSensor (n : Nat) (s : State) : State :=
  match s.side.sensors[n]? with
  | none => pldm 0x80 [] s
  | some v => pldm 0 ([5, sensorState s n, 0, 0, 0, 0] ++ leBytes 4 (BitVec.ofInt 32 v).toNat) s

/-- GET_SENSOR_READING. -/
def execGetSensorReading (sensor : Nat) (s : State) : Host.Outcome State Fault Refusal := .next (readSensor sensor s)

/-- GetStateSensorReadings: the six health bits. -/
def readStates (n : Nat) (s : State) : State :=
  if n != 14 then pldm 0x80 [] s
  else
    let one := fun (i : Nat) => let b : Byte := if bit i s.side.healthBits then 1 else 0
      [0, b, 0, b]
    pldm 0 ([6] ++ ((List.range 6).map one).flatten) s

/-- GET_STATE_SENSOR_READINGS. -/
def execGetStateSensorReadings (sensor : Nat) (s : State) : Host.Outcome State Fault Refusal := .next (readStates sensor s)

-- PLDM type 4 (R351).

/-- A field of a FRU record: type, length, value. -/
def fruField (t : Byte) (v : Bytes) : Bytes := [t, BitVec.ofNat 8 v.length] ++ v

/-- The FRU record table: part number, serial number, stepping and compatibility level, as IDENTIFY gives them (R270). -/
def fruTable (s : State) : Bytes :=
  [1, 0, 1, 4, 1] ++ fruField 3 (ascii "CVG8-M32T-A") ++ fruField 4 s.serial ++ fruField 10 (leBytes 2 0x00A1) ++
  fruField 15 (leBytes 2 1)

/-- GET_FRU_RECORD_TABLE_METADATA. -/
def execGetFruRecordTableMetadata (s : State) : Host.Outcome State Fault Refusal :=
  .next (pldm 0 ([1, 0] ++ leBytes 4 0 ++ leBytes 4 (fruTable s).length ++ leBytes 2 1 ++ leBytes 2 1 ++
    leBytes 4 (crc32 (fruTable s)).toNat) s)

/-- GET_FRU_RECORD_TABLE. -/
def execGetFruRecordTable (s : State) : Host.Outcome State Fault Refusal :=
  .next (pldm 0 (leBytes 4 0 ++ [5] ++ fruTable s) s)

/-- UNSUPPORTED_PLDM_CMD: ERROR_UNSUPPORTED_PLDM_CMD, for a command R351 does not list. -/
def execUnsupportedPldmCmd (pldmType cmd : Byte) (s : State) : Host.Outcome State Fault Refusal :=
  .next (if (pldmCommands pldmType).contains cmd then s else pldm 5 [] s)

-- Recovery (R352).

/-- A transaction at address 0x3B: answered only after a start-up that recorded BOOT_CONFIG_FAILED. -/
def recovery (f : State → State) (s : State) : State :=
  if !s.brd.aux5 then s else if s.side.bootFailed then f s else sbAnswer .nack s

/-- 0xC1: the bytes stored in the 64 KiB buffer, and which bytes have been received. -/
def receiveBlock (off : Nat) (bs : Bytes) (s : State) : State :=
  if bs.isEmpty || 240 < bs.length || 65536 < off + bs.length then sbAnswer .nack s
  else sbAnswer .ack { s with side := { s.side with
    buf := cellWrite off bs s.side.buf, got := s.side.got ||| (2 ^ bs.length - 1) <<< off, status := 1 } }

/-- RECOVERY_BLOCK_WRITE. -/
def execRecoveryBlockWrite (offset : Nat) (bytes : Bytes) (s : State) : Host.Outcome State Fault Refusal :=
  .next (recovery (receiveBlock offset bytes) s)

/-- The receive buffer verified as a boot configuration, and its status; bytes 0 to 7,087 must all have been received (log 54). -/
def verifyBuffer (s : State) : Nat × Option BootImage :=
  if s.side.got % 2 ^ 7088 != 2 ^ 7088 - 1 then (4, none)
  else match checkBoot s.fuse (cellRead 0 7088 s.side.buf) with
    | .ok i => (2, some i)
    | .badSignature => (3, none)
    | .badFormat => (4, none)

/-- 0xC2 with 0x01: what verifies is stored in both copies. -/
def storeBuffer (v : Byte) (s : State) : State :=
  if v != 1 then sbAnswer .nack s
  else
    let r := verifyBuffer s
    let s1 := { s with side := { s.side with status := r.1 } }
    sbAnswer .ack (match r.2 with
      | some i => { s1 with fw := { s1.fw with boot0 := some i, boot1 := some i } }
      | none => s1)

/-- RECOVERY_STORE. -/
def execRecoveryStore (value : Byte) (s : State) : Host.Outcome State Fault Refusal := .next (recovery (storeBuffer value) s)

/-- RECOVERY_STATUS. -/
def execRecoveryStatus (s : State) : Host.Outcome State Fault Refusal :=
  .next (recovery (fun t => sbAnswer (.recovery t.side.status) t) s)

end Sys2Proof.Machine
end

