-- ==== Sys2Proof/Machine/Tiers.lean ====
section
/-! DEFINITION. Promotion into stacked memory, patrol scrub, escape buffers, the application of lattice images and the end of a
facet's scrub (R42, R43, R46, R179, R200, R201, R217, R236, R322). -/

namespace Sys2Proof.Machine

-- PROMOTION_CYCLE (R200, R201).

/-- Lists and side lists of a facet by the bytes read from each since the last cycle, ties to the lower key (R200), then to the lower slot
(log 52); a node array is no list. -/
def ranking (s : State) (f : Nat) : List (Index × Nat) :=
  let keys := fun (ix : Index) => (if ix.geo.mode == 0 then ix.lists.map (·.num) else []) ++ [sideKey]
  let all' := ((idxsOf s f).map fun ix => (keys ix).map fun k => (ix, k)).flatten
  let read := fun (p : Index × Nat) => look 0 (f, p.1.geo.slot, p.2) s.mem.listBytes
  sortBy (fun a b => read b < read a || (read b == read a && (a.2 < b.2 || (a.2 == b.2 && a.1.geo.slot ≤ b.1.geo.slot)))) all'

/-- The lists that fill the rooms of the slices in rank order, skipping what does not fit in one, each with its slice (R194, R199, R200). -/
def fillShare (s : State) (f : Nat) : List Nat → List (Index × Nat) → List ((Index × Nat) × Nat)
  | _, [] => []
  | rooms, p :: ps =>
    match sliceFor s f p.1.geo.slot p.2 (listSize p.1 p.2) rooms with
    | some g => (p, g) :: fillShare s f (rooms.set g (rooms.getD g 0 - listSize p.1 p.2)) ps
    | none => fillShare s f rooms ps

/-- The copying of a list to a slice: whole runs from where its records lie, and as many to the slice (R197, R199, R211). -/
def promotionJobs (s : State) (p : (Index × Nat) × Nat) : List Job :=
  let ix := p.1.1
  let key := p.1.2
  let off := if key == sideKey then ix.head % max 1 ix.geo.sideLimit * recordBytes ix.geo key else 0
  let n := listSize ix key
  byteJobs s ix.geo.facet ix.geo.slot key (keyBase ix key) off n ++ [runJob (8 + p.2) (cdiv n 2048) none]

/-- One facet's promotions and demotions: a list kept is copied again at its present length. A facet whose copying is not granted, under the SCRUB
class, or finds no tag for its stream, keeps what it has till the next cycle (R210, R212; R219 names promotion under no class: DESIGN CHOICE,
log 108). -/
def promoteFacet (s : State) (r : FacetRec) : State :=
  let f := r.facet
  if r.scratch || !(facetOf s f).rebuilt || (facetOf s f).state == 0 || (facetOf s f).state == 3 || 4096 ≤ tagsTaken s then s
  else
    let chosen := fillShare s f (sliceRooms s f (stackedFree s f - prefetchBytes s f)) (ranking s f)
    let new := chosen.map fun p => (f, p.1.1.geo.slot, p.1.2, (copySpan p.1.1 p.1.2).1, (copySpan p.1.1 p.1.2).2)
    let slices := chosen.map fun p => ((f, p.1.1.geo.slot, p.1.2), p.2)
    let old := s.mem.copies.filter (·.1 == f)
    let same := fun (a b : Nat × Nat × Nat × Nat × Nat) => a.2.1 == b.2.1 && a.2.2.1 == b.2.2.1
    let up := (new.filter fun a => !old.any (same a)).length
    let down := (old.filter fun a => !new.any (same a)).length
    match allJobs f 7 .ended (chosen.flatMap (promotionJobs s)) s with
    | none => s
    | some t => bump f (kFct 8) up (bump f (kFct 9) down { t with mem := { t.mem with
        copies := t.mem.copies.filter (·.1 != f) ++ new, slices := t.mem.slices.filter (·.1.1 != f) ++ slices,
        listBytes := t.mem.listBytes.filter (·.1.1 != f) } })

/-- 1,024 turns have passed: the lists of every facet are ranked, and the count of turns starts again (R200). -/
def promotionCycle (s : State) : State :=
  if clocked s && 1024 ≤ s.mem.cycleTurns then
    s.cfg.facets.foldl promoteFacet { s with mem := { s.mem with cycleTurns := 0 } }
  else s

/-- PROMOTION_CYCLE. -/
def execPromotionCycle (s : State) : Host.Outcome State Fault Refusal := .next (promotionCycle s)

-- PATROL_SCRUB (R322, R323).

/-- What a patrol pass reads for a facet: its charged HBM, frame by frame over the stacks of its share, and its flash, page by page: the units of its
indexes, of its log and of its weights (R196, R204, R322; log 13). -/
def patrolJobs (s : State) (hbm flash : Bool) (f : Nat) : List Job :=
  let st := shareStacks s f
  let frames := cdiv (hbmCharged s f) 65536
  let x := facetOf s f
  let pages := cdiv (x.logUnits - x.logFrom) 4 + cdiv ((s.mods.filter (·.facet == f)).map fun m => m.weights.length).sum 16384
  (if hbm then st.map fun g => { runJob g (cdiv frames st.length) (some 3) with grants := 32 } else []) ++
  (if flash then pageJobs s ((idxsOf s f).flatMap allUnits) ++ (List.range (min 64 pages)).map fun c => unitJob c (4 * cdiv (pages - c) 64) (some 4)
    else [])

/-- A patrol pass ends, once its reads are granted under the SCRUB class: the counts kept between two passes start again (R219, R322). -/
def patrol (hbm flash : Bool) (s : State) : State :=
  if !clocked s || !mayGrant s 7 false then s
  else
    let done := s.cfg.facets.foldl (fun (acc : Option State) r => acc.bind fun t => allJobs r.facet 7 .ended (patrolJobs t hbm flash r.facet) t) (some s)
    match done with
    | none => s
    | some t =>
      let t1 := if hbm then { t with mem := { t.mem with hbmPasses := t.mem.hbmPasses + 1, rowErrs := [] } } else t
      if flash then { t1 with flash := { t1.flash with rereads := [] }, mem := { t1.mem with flashPasses := t1.mem.flashPasses + 1 } } else t1

/-- PATROL_SCRUB. -/
def execPatrolScrub (hbm flash : Bool) (s : State) : Host.Outcome State Fault Refusal := .next (patrol hbm flash s)

-- WAIT_FOR_CHECK (R217).

/-- Buffers still needed by the older stream of a cycle, with its sequence. -/
def olderStream (w : Stall) : Nat × Nat := if w.seq ≤ w.other then (w.seq, w.need) else (w.other, w.otherNeed)

/-- The stall with its older stream's need lowered by what it was granted. -/
def lessNeed (n : Nat) (w : Stall) : Stall := if w.seq ≤ w.other then { w with need := w.need - n } else { w with otherNeed := w.otherNeed - n }

/-- Two stalls are of the same stream. -/
def sameStall (a b : Stall) : Bool := a.region == b.region && a.facet == b.facet && a.seq == b.seq

/-- The stalled streams with a new one behind them. -/
def noteStall (w : Stall) (l : List (Stall × Option Nat)) : List (Stall × Option Nat) :=
  if l.any fun x => sameStall w x.1 then l else l ++ [(w, none)]

/-- A stream of a region gets escape buffers, which its producer fills: their handles carry the escape bit (R199, R213, R217). -/
def lendEscapes (r f seq n : Nat) (s : State) : State :=
  let bs := freeBuffers (heldBuffers s r) 1536 64 1472 n
  let lend := fun (x : Strm) => ({ x with
    escapes := x.escapes ++ bs, queue := x.queue ++ handlesFor x x.pushed (bs.map fun b => (b, true)) } : Strm).waiting (x.waits.getD (now s))
  { s with mem := { s.mem with
    escapes := s.mem.escapes.set r (s.mem.escapes.getD r 0 - n), grants := s.mem.grants ++ [(r, f, seq, n)],
    streams := updFirst (fun x => x.region == r && x.facet == f && x.seq == seq) lend s.mem.streams } }

/-- A stalled stream served: its cycle's older stream gets up to 16 escape buffers of the region, or what the pool holds and the stream tags allow
(R212). Where those were fewer, the check repeats 4 ticks on; else the stall has ended. -/
def serveStall (w : Stall) (s : State) : State :=
  let o := olderStream w
  let due := min 16 o.2
  let n := min (min (s.mem.escapes.getD w.region 0) ((4096 - tagsTaken s) / 2)) due
  let s1 := if n == 0 then s else record 0x0902 w.facet [w.region, n, o.1]
    (bump w.facet (kFct 13) n (bump w.facet (kFct 12) 1 (lendEscapes w.region w.facet o.1 n s)))
  let l := s1.mem.stalls
  let left := if due ≤ n then l.filter (fun x => !sameStall w x.1)
    else updFirst (fun x => sameStall w x.1) (fun x => (lessNeed n x.1, some (now s))) l
  { s1 with mem := { s1.mem with stalls := left } }

/-- The stalled stream has waited more than 4 ticks for a free buffer, as far as the model holds the stream. -/
def stallWaited (s : State) (w : Stall) : Bool :=
  match s.mem.streams.find? fun x => x.region == w.region && x.facet == w.facet && x.seq == w.seq with
  | some x => x.waits.any fun t => t + 400 < now s
  | none => true

/-- A stall of a region whose check is due: a new one, or one checked 4 ticks ago or more. -/
def stallDue (s : State) (r : Nat) (x : Stall × Option Nat) : Bool := x.1.region == r && x.2.all (· + 400 ≤ now s)

/-- The check (R217): a cycle when one producer serves both streams. The region's stalled streams whose check is due are served, the oldest
first. -/
def waitCheck (w : Stall) (s : State) : State :=
  if !clocked s || w.producer != w.otherProducer || !stallWaited s w then s
  else
    let s1 := { s with mem := { s.mem with stalls := noteStall w s.mem.stalls } }
    (s1.mem.stalls.filter (stallDue s w.region)).foldl (fun t x => serveStall x.1 t) s1

/-- WAIT_FOR_CHECK. -/
def execWaitForCheck (stall : Stall) (s : State) : Host.Outcome State Fault Refusal := .next (waitCheck stall s)

-- LATTICE_APPLY and REGION_RESHAPE (R42, R43, R46).

/-- LATTICE_APPLY: every I/O command has completed; a region number tells of a fault there. -/
def latticeApply (fault : Option Nat) (s : State) : State :=
  match applying s with
  | none => s
  | some l =>
    if l.part then s
    else match fault with
      | none => settle (recoverStored (endLoad l 0 s))
      | some r => settle (applyFault 0 r l s)

/-- LATTICE_APPLY. -/
def execLatticeApply (fault : Option Nat) (s : State) : Host.Outcome State Fault Refusal := .next (counted (latticeApply fault) s)

/-- REGION_RESHAPE: the load's facets are paused and idle. -/
def regionReshape (liveMiB : Nat) (fault : Option Nat) (s : State) : State :=
  match applying s with
  | none => s
  | some l =>
    if !l.part then s
    else match fault with
      | none => settle (endLoad l (reshapeTime liveMiB) s)
      | some r => settle (applyFault 0 r l s)

/-- REGION_RESHAPE. -/
def execRegionReshape (liveMiB : Nat) (fault : Option Nat) (s : State) : Host.Outcome State Fault Refusal :=
  .next (counted (regionReshape liveMiB fault) s)

-- FACET_SCRUB_COMPLETE (R236).

/-- The scrub goes on as far as it is granted; once it has ended the facet waits for the next turn boundary. -/
def scrubComplete (f : Nat) (s : State) : State :=
  if (facetOf s f).teardown == some 4 then
    let t := scrubOn s f
    if scrubLeft t f then t else updFacet f (fun x => { x with teardown := some 5 }) t
  else s

/-- FACET_SCRUB_COMPLETE. -/
def execFacetScrubComplete (facet : Nat) (s : State) : Host.Outcome State Fault Refusal := .next (scrubComplete facet s)

end Sys2Proof.Machine
end

