-- ==== Sys2Proof/Machine/Dispatch.lean ====
section
/-! DEFINITION. The effect of each command, one arm for each constructor. -/

namespace Sys2Proof.Machine

def exec (i : Instr) (s : State) : Host.Outcome State Fault Refusal :=
  match i with
  | .identify e => Sys2Proof.Machine.execIdentify e s
  | .getLog e => Sys2Proof.Machine.execGetLog e s
  | .setFeature e => Sys2Proof.Machine.execSetFeature e s
  | .getFeature e => Sys2Proof.Machine.execGetFeature e s
  | .fwDownload e => Sys2Proof.Machine.execFwDownload e s
  | .fwCommit e => Sys2Proof.Machine.execFwCommit e s
  | .createQp e => Sys2Proof.Machine.execCreateQp e s
  | .deleteQp e => Sys2Proof.Machine.execDeleteQp e s
  | .abort e => Sys2Proof.Machine.execAbort e s
  | .resumeQp e => Sys2Proof.Machine.execResumeQp e s
  | .loadLattice e => Sys2Proof.Machine.execLoadLattice e s
  | .facetCreate e => Sys2Proof.Machine.execFacetCreate e s
  | .facetDestroy e => Sys2Proof.Machine.execFacetDestroy e s
  | .indexCreate e => Sys2Proof.Machine.execIndexCreate e s
  | .indexDrop e => Sys2Proof.Machine.execIndexDrop e s
  | .evrControl e => Sys2Proof.Machine.execEvrControl e s
  | .query e => Sys2Proof.Machine.execQuery e s
  | .queryBatch e => Sys2Proof.Machine.execQueryBatch e s
  | .insert e => Sys2Proof.Machine.execInsert e s
  | .delete e => Sys2Proof.Machine.execDelete e s
  | .labelUpdate e => Sys2Proof.Machine.execLabelUpdate e s
  | .fetch e => Sys2Proof.Machine.execFetch e s
  | .flush e => Sys2Proof.Machine.execFlush e s
  | .train e => Sys2Proof.Machine.execTrain e s
  | .resketch e => Sys2Proof.Machine.execResketch e s
  | .encode e => Sys2Proof.Machine.execEncode e s
  | .modelLoad e => Sys2Proof.Machine.execModelLoad e s
  | .sqTailDoorbell qp value => Sys2Proof.Machine.execSqTailDoorbell qp value s
  | .cqHeadDoorbell qp value => Sys2Proof.Machine.execCqHeadDoorbell qp value s
  | .hifCtrlEnable => Sys2Proof.Machine.execHifCtrlEnable s
  | .hifCtrlDisable => Sys2Proof.Machine.execHifCtrlDisable s
  | .chdMigCtrlGo value => Sys2Proof.Machine.execChdMigCtrlGo value s
  | .chdMigCtrlCancel value => Sys2Proof.Machine.execChdMigCtrlCancel value s
  | .chdMigAcceptGo value => Sys2Proof.Machine.execChdMigAcceptGo value s
  | .chdMigAcceptCancel value => Sys2Proof.Machine.execChdMigAcceptCancel value s
  | .evrWindowCrcRead wide => Sys2Proof.Machine.execEvrWindowCrcRead wide s
  | .registerWrite bar offset size value => Sys2Proof.Machine.execRegisterWrite bar offset size value s
  | .functionLevelReset => Sys2Proof.Machine.execFunctionLevelReset s
  | .hotReset => Sys2Proof.Machine.execHotReset s
  | .linkDown => Sys2Proof.Machine.execLinkDown s
  | .hostReadCompletion tag data poisoned => Sys2Proof.Machine.execHostReadCompletion tag data poisoned s
  | .hostReadTimeout tag => Sys2Proof.Machine.execHostReadTimeout tag s
  | .msixIntervalExpiry vector => Sys2Proof.Machine.execMsixIntervalExpiry vector s
  | .coalescingDelayExpiry qp => Sys2Proof.Machine.execCoalescingDelayExpiry qp s
  | .batchStepBoundary => Sys2Proof.Machine.execBatchStepBoundary s
  | .syncInPulse => Sys2Proof.Machine.execSyncInPulse s
  | .syncTimeout => Sys2Proof.Machine.execSyncTimeout s
  | .freeRunningTurn => Sys2Proof.Machine.execFreeRunningTurn s
  | .tileDrain engine => Sys2Proof.Machine.execTileDrain engine s
  | .sentinelShadowFinish facet index => Sys2Proof.Machine.execSentinelShadowFinish facet index s
  | .sliverFinish cell => Sys2Proof.Machine.execSliverFinish cell s
  | .heapFull cell => Sys2Proof.Machine.execHeapFull cell s
  | .steal cell => Sys2Proof.Machine.execSteal cell s
  | .cellSwitch block => Sys2Proof.Machine.execCellSwitch block s
  | .scanCheckpoint ctx => Sys2Proof.Machine.execScanCheckpoint ctx s
  | .flashReadComplete channel die plane result => Sys2Proof.Machine.execFlashReadComplete channel die plane result s
  | .hopRound ctx => Sys2Proof.Machine.execHopRound ctx s
  | .commit tag => Sys2Proof.Machine.execCommit tag s
  | .flashSegmentStart channel die => Sys2Proof.Machine.execFlashSegmentStart channel die s
  | .flashSegmentSuspend channel die => Sys2Proof.Machine.execFlashSegmentSuspend channel die s
  | .flashSegmentComplete channel die result => Sys2Proof.Machine.execFlashSegmentComplete channel die result s
  | .compactionMove facet slot count => Sys2Proof.Machine.execCompactionMove facet slot count s
  | .listRewrite facet slot => Sys2Proof.Machine.execListRewrite facet slot s
  | .graphInsert facet slot count => Sys2Proof.Machine.execGraphInsert facet slot count s
  | .repairSweepUnit facet slot => Sys2Proof.Machine.execRepairSweepUnit facet slot s
  | .renumbering facet slot => Sys2Proof.Machine.execRenumbering facet slot s
  | .resketchStep facet slot => Sys2Proof.Machine.execResketchStep facet slot s
  | .logCheckpoint facet => Sys2Proof.Machine.execLogCheckpoint facet s
  | .optimiserStep tag => Sys2Proof.Machine.execOptimiserStep tag s
  | .promotionCycle => Sys2Proof.Machine.execPromotionCycle s
  | .patrolScrub hbm flash => Sys2Proof.Machine.execPatrolScrub hbm flash s
  | .waitForCheck stall => Sys2Proof.Machine.execWaitForCheck stall s
  | .streamBlockResend consumer block => Sys2Proof.Machine.execStreamBlockResend consumer block s
  | .latticeApply fault => Sys2Proof.Machine.execLatticeApply fault s
  | .regionReshape liveMiB fault => Sys2Proof.Machine.execRegionReshape liveMiB fault s
  | .facetScrubComplete facet => Sys2Proof.Machine.execFacetScrubComplete facet s
  | .powerStateEntry => Sys2Proof.Machine.execPowerStateEntry s
  | .ps3EntryTimeout => Sys2Proof.Machine.execPs3EntryTimeout s
  | .keepAliveLapse facet => Sys2Proof.Machine.execKeepAliveLapse facet s
  | .watchdog processor => Sys2Proof.Machine.execWatchdog processor s
  | .firmwareCheckIn processor => Sys2Proof.Machine.execFirmwareCheckIn processor s
  | .cellFenced cell syndrome => Sys2Proof.Machine.execCellFenced cell syndrome s
  | .lostProgress cell => Sys2Proof.Machine.execLostProgress cell s
  | .blockFenced block cause => Sys2Proof.Machine.execBlockFenced block cause s
  | .heartbeatLapse block => Sys2Proof.Machine.execHeartbeatLapse block s
  | .regionFenced region unit => Sys2Proof.Machine.execRegionFenced region unit s
  | .chipFatal unit => Sys2Proof.Machine.execChipFatal unit s
  | .hbmRowFailure stack channel bank row frame corrected => Sys2Proof.Machine.execHbmRowFailure stack channel bank row frame corrected s
  | .frameRebuild frame => Sys2Proof.Machine.execFrameRebuild frame s
  | .stackedUncorrectable slice address part => Sys2Proof.Machine.execStackedUncorrectable slice address part s
  | .flashUnitRebuilt facet slot struct list unit => Sys2Proof.Machine.execFlashUnitRebuilt facet slot struct list unit s
  | .flashBlockRetired channel die plane block => Sys2Proof.Machine.execFlashBlockRetired channel die plane block s
  | .thermalState sensor temp => Sys2Proof.Machine.execThermalState sensor temp s
  | .thermalTrip sensor temp => Sys2Proof.Machine.execThermalTrip sensor temp s
  | .powerLimiter mV mA => Sys2Proof.Machine.execPowerLimiter mV mA s
  | .main54TurnOn => Sys2Proof.Machine.execMain54TurnOn s
  | .main54TurnOff => Sys2Proof.Machine.execMain54TurnOff s
  | .aux5TurnOn => Sys2Proof.Machine.execAux5TurnOn s
  | .aux5TurnOff => Sys2Proof.Machine.execAux5TurnOff s
  | .modRstAssert => Sys2Proof.Machine.execModRstAssert s
  | .modRstRelease finds => Sys2Proof.Machine.execModRstRelease finds s
  | .tierRebuild facet => Sys2Proof.Machine.execTierRebuild facet s
  | .pwrBrakeAssert => Sys2Proof.Machine.execPwrBrakeAssert s
  | .pwrBrakeRelease => Sys2Proof.Machine.execPwrBrakeRelease s
  | .lockOutEnd pin => Sys2Proof.Machine.execLockOutEnd pin s
  | .secondEnd => Sys2Proof.Machine.execSecondEnd s
  | .freezeTimeout => Sys2Proof.Machine.execFreezeTimeout s
  | .sensorRefresh => Sys2Proof.Machine.execSensorRefresh s
  | .flit link bytes => Sys2Proof.Machine.execFlit link bytes s
  | .nak link ack => Sys2Proof.Machine.execNak link ack s
  | .laneDrop link symbolErrors => Sys2Proof.Machine.execLaneDrop link symbolErrors s
  | .chordDown link cause => Sys2Proof.Machine.execChordDown link cause s
  | .retrain link => Sys2Proof.Machine.execRetrain link s
  | .trainingComplete link lanes => Sys2Proof.Machine.execTrainingComplete link lanes s
  | .queryCast link c => Sys2Proof.Machine.execQueryCast link c s
  | .contribution link c => Sys2Proof.Machine.execContribution link c s
  | .gap qid => Sys2Proof.Machine.execGap qid s
  | .turnSet turn => Sys2Proof.Machine.execTurnSet turn s
  | .multicastSlackExpiry qid link => Sys2Proof.Machine.execMulticastSlackExpiry qid link s
  | .gatherCutoff qid => Sys2Proof.Machine.execGatherCutoff qid s
  | .migOffer link facet slot mode geo bytesHbm bytesFlash => Sys2Proof.Machine.execMigOffer link facet slot mode geo bytesHbm bytesFlash s
  | .migAccept link => Sys2Proof.Machine.execMigAccept link s
  | .migRefuse link error => Sys2Proof.Machine.execMigRefuse link error s
  | .migUnit link part => Sys2Proof.Machine.execMigUnit link part s
  | .migWrite link w => Sys2Proof.Machine.execMigWrite link w s
  | .migCutOver link => Sys2Proof.Machine.execMigCutOver link s
  | .migDone link => Sys2Proof.Machine.execMigDone link s
  | .migCancel link => Sys2Proof.Machine.execMigCancel link s
  | .migrationTimeout => Sys2Proof.Machine.execMigrationTimeout s
  | .setEndpointId eid => Sys2Proof.Machine.execSetEndpointId eid s
  | .getEndpointId => Sys2Proof.Machine.execGetEndpointId s
  | .getMctpVersionSupport msgType => Sys2Proof.Machine.execGetMctpVersionSupport msgType s
  | .getMessageTypeSupport => Sys2Proof.Machine.execGetMessageTypeSupport s
  | .getTid => Sys2Proof.Machine.execGetTid s
  | .setTid tid => Sys2Proof.Machine.execSetTid tid s
  | .getPldmVersion pldmType => Sys2Proof.Machine.execGetPldmVersion pldmType s
  | .getPldmTypes => Sys2Proof.Machine.execGetPldmTypes s
  | .getPldmCommands pldmType => Sys2Proof.Machine.execGetPldmCommands pldmType s
  | .getPdrRepositoryInfo => Sys2Proof.Machine.execGetPdrRepositoryInfo s
  | .getPdr handle => Sys2Proof.Machine.execGetPdr handle s
  | .getSensorReading sensor => Sys2Proof.Machine.execGetSensorReading sensor s
  | .getStateSensorReadings sensor => Sys2Proof.Machine.execGetStateSensorReadings sensor s
  | .getFruRecordTableMetadata => Sys2Proof.Machine.execGetFruRecordTableMetadata s
  | .getFruRecordTable => Sys2Proof.Machine.execGetFruRecordTable s
  | .unsupportedPldmCmd pldmType cmd => Sys2Proof.Machine.execUnsupportedPldmCmd pldmType cmd s
  | .recoveryBlockWrite offset bytes => Sys2Proof.Machine.execRecoveryBlockWrite offset bytes s
  | .recoveryStore value => Sys2Proof.Machine.execRecoveryStore value s
  | .recoveryStatus => Sys2Proof.Machine.execRecoveryStatus s
  | .filteredLevelChange pin level => Sys2Proof.Machine.execFilteredLevelChange pin level s
  | .misalignedRead bar offset length => Sys2Proof.Machine.execMisalignedRead bar offset length s
  | .pcieLinkUp speed width => Sys2Proof.Machine.execPcieLinkUp speed width s
  | .configurationWrite w => Sys2Proof.Machine.execConfigurationWrite w s
  | .operatingDayEnd => Sys2Proof.Machine.execOperatingDayEnd s

end Sys2Proof.Machine
end

