-- ==== Sys2Proof/Machine/Power.lean ====
section
/-! DEFINITION. Power, pins, clocks, and what time does to the state (R326 to R349). -/

namespace Sys2Proof.Machine

/-- 100 ns pass (log 1): the always-on clock while AUX_5V is up, the module's clock and operating time while main power is
on and MOD_RST# is released, and the thermal-time counters of sensors that are not normal (R369). -/
def tick (s : State) : State :=
  let up := s.brd.mainPower && s.brd.rst.accepted
  let hot := (s.brd.thermal.zipIdx).foldl (fun (c : Ctr) p => if p.1 == 0 then c else put (3 * p.2 + p.1 - 1) (c.get (3 * p.2 + p.1 - 1) + 100) c) s.brd.thermalNs
  { s with brd := { s.brd with
      aon := if s.brd.aux5 then s.brd.aon + 100 else s.brd.aon,
      clk := if up then s.brd.clk + 100 else s.brd.clk,
      opNs := if up then s.brd.opNs + 100 else s.brd.opNs,
      thermalNs := if up then hot else s.brd.thermalNs } }

end Sys2Proof.Machine
end

