-- ==== Sys2Proof/Safety.lean ====
section
/-! DEFINITION. What counts as a safe run, and the terms the claims are stated in. -/

namespace Sys2Proof.Safety

open Sys2Proof.Machine

/-- The state after n steps; a stop keeps the last state. -/
def after : Nat → State → State
  | 0, s => s
  | n + 1, s => match step s with
    | .next t => after n t
    | _ => s

/-- The step from a state answers a next state. -/
def Goes (s : State) : Prop := ∃ t, step s = .next t

/-- A run of n steps is safe when every state on it goes on. -/
def Safe (n : Nat) (s : State) : Prop := ∀ m < n, Goes (after m s)

/-- The command answers a next state with a property. -/
def Answers (i : Instr) (s : State) (p : State → Prop) : Prop := ∃ t, exec i s = .next t ∧ p t

/-- The command answers `settle u`, what goes on by itself after its own effect u, for a u with a property. -/
def Settles (i : Instr) (s : State) (p : State → Prop) : Prop := ∃ u, exec i s = .next (settle u) ∧ p u

/-- What events put out beside their records: messages of vector 0, sent or held (R254; log 98), and nothing else. -/
def Told (s t : State) : Prop :=
  (∃ n, t.out = s.out ++ List.replicate n (.msix 0)) ∧ t.hif = { s.hif with lastMsg := t.hif.lastMsg, pendMsg := t.hif.pendMsg }

/-- A loss of main power tells the host nothing: at most HOT_ALERT# goes high, when what held it is gone. -/
def Quiet (s t : State) : Prop := ∃ ms, t.out = s.out ++ ms ∧ ∀ o ∈ ms, o = Out.hotAlert false

/-- What every step keeps: the recorder holds at most 16,384 records (R331) and the error log 256 entries (R268), the pool of
replacement frames at most 64 (R320), the CORE clock lies between 100 MHz, the model's own floor (log 48), and 1,400 MHz (R318, R326), and the
sparse buffers, a representation of the model's own, are in their one canonical form. -/
structure Inv (s : State) : Prop where
  records : s.evr.recs.length ≤ 16384
  errors : s.elog.length ≤ 256
  pool : s.mem.pool ≤ 64
  slow : 100 ≤ s.brd.coreMhz
  fast : s.brd.coreMhz ≤ 1400
  staging : cellsWf 0 s.fw.staging = true
  recovery : cellsWf 0 s.side.buf = true
  msix : cellsWf 0 s.hif.msixTable = true

/-- The commands that may take main power, reset the module or start it: the rails, MOD_RST# and the thermal trip. -/
def resets : Instr → Bool
  | .main54TurnOff => true
  | .aux5TurnOff => true
  | .modRstAssert => true
  | .modRstRelease _ => true
  | .main54TurnOn => true
  | .aux5TurnOn => true
  | .lockOutEnd .modRst => true
  | .filteredLevelChange .modRst _ => true
  | .thermalTrip _ _ => true
  | _ => false

/-- The row of a command of the opcode tables; an entry whose opcode R263 assigns to none is fetched by any of them (log 1). -/
def cmdInstr : Op → Entry → Instr
  | .identify, e => .identify e
  | .getLog, e => .getLog e
  | .setFeature, e => .setFeature e
  | .getFeature, e => .getFeature e
  | .fwDownload, e => .fwDownload e
  | .fwCommit, e => .fwCommit e
  | .createQp, e => .createQp e
  | .deleteQp, e => .deleteQp e
  | .abort, e => .abort e
  | .resumeQp, e => .resumeQp e
  | .loadLattice, e => .loadLattice e
  | .facetCreate, e => .facetCreate e
  | .facetDestroy, e => .facetDestroy e
  | .indexCreate, e => .indexCreate e
  | .indexDrop, e => .indexDrop e
  | .evrControl, e => .evrControl e
  | .query, e => .query e
  | .queryBatch, e => .queryBatch e
  | .insert, e => .insert e
  | .delete, e => .delete e
  | .labelUpdate, e => .labelUpdate e
  | .fetch, e => .fetch e
  | .flush, e => .flush e
  | .train, e => .train e
  | .resketch, e => .resketch e
  | .encode, e => .encode e
  | .modelLoad, e => .modelLoad e
  | .other c, e => .identify { e with badOpcode := some (BitVec.ofNat 8 c) }

/-- The module can fetch an entry of a pair under a tag: the pair exists and runs, an entry waits and its completion will find a
slot, the facet is not held to its tag floor, it is the pair's turn, and a tag is free. An opcode that no command has is one of R263's
unassigned bytes. -/
structure Fetchable (o : Op) (e : Entry) (s : State) (q : Qp) (t : Nat) : Prop where
  pair : qpOf s e.qp = some q
  on : fetching s q = true
  ready : ringReady q = true
  share : tagPaused s q = false
  turn : fetchWinner s = some q.num
  tag : freeTag s (q.num == 0) = some t
  plain : e.badOpcode = none
  unassigned : ∀ c, o = .other c → c < 256 ∧ assigned c = false

/-- An entry that is fetched and handled at once: no RESUME_QP discards it, and of the commands of R41 none is held when this is one. -/
structure Fetched (o : Op) (e : Entry) (s : State) (q : Qp) (t : Nat) : Prop extends Fetchable o e s q t where
  kept : q.discardTo = none
  alone : isSerial o = true → (s.cmds.any fun x => isSerial x.op) = false

/-- The command an entry makes on its pair. -/
def theCmd (o : Op) (e : Entry) (s : State) (q : Qp) (t : Nat) : Cmd :=
  newCmd s o e (if q.num == 0 then namedFacet o e.area else q.facet) t

/-- The state with the entry fetched. -/
def taken (o : Op) (e : Entry) (s : State) (q : Qp) (t : Nat) : State := wake o (countGrant q.num (takeEntry (theCmd o e s q t) q s))

/-- A fetched entry that passes checks 1 to 4 and names no host data. -/
structure Accepted (o : Op) (e : Entry) (s : State) (q : Qp) (t : Nat) : Prop where
  fetched : Fetched o e s q t
  checks : earlyChecks (taken o e s q t) (theCmd o e s q t) = none
  noData : inputLen (theCmd o e s q t) = 0

/-- Work of a kind on an index has begun: its units are written, and nothing of it is seen (R138). -/
def Begun (f slot : Nat) (ix : Index) (kind n : Nat) (s u : State) : Prop :=
  (∃ w, idxOf u f slot = some { ix with staged := some (kind, n), work := some w }) ∧
  (facetOf u f).changed = (facetOf s f).changed ∧ (facetOf u f).epoch = (facetOf s f).epoch ∧ u.cmds = s.cmds

/-- Work in progress on an index has gone on, and nothing of it is seen yet (R138, R225). -/
def WentOn (f slot : Nat) (ix : Index) (s u : State) : Prop :=
  (∃ w, idxOf u f slot = some { ix with work := some w }) ∧
  (facetOf u f).changed = (facetOf s f).changed ∧ (facetOf u f).epoch = (facetOf s f).epoch ∧ u.cmds = s.cmds

end Sys2Proof.Safety
end

