-- ==== Sys2Proof/Certificates/Slice0/Obligations.lean ====
section
/-! DEFINITION. The statements for the provers. -/

open Sys2Proof
open Sys2Proof.Machine
open Sys2Proof.Safety

-- The machine.

/-- A step runs the command at the front of the queue on the state with the rest of the queue. -/
def Obligations.StepRunsFrontCommand : Prop :=
  ∀ (i : Instr) (rest : List Instr) (s : State), s.pending = i :: rest → step s = exec i { s with pending := rest }

/-- MODEL'S CHOICE (log 1): with an empty queue 100 ns pass on the clocks that run, and nothing else changes. -/
def Obligations.EmptyQueueLetsTimePass : Prop :=
  ∀ s : State, s.pending = [] →
    ∃ b : Board, step s = .next { s with brd := b } ∧
      b.aon = s.brd.aon + (if s.brd.aux5 then 100 else 0) ∧
      b.clk = s.brd.clk + (if s.brd.mainPower && s.brd.rst.accepted then 100 else 0) ∧
      b = { s.brd with aon := b.aon, clk := b.clk, opNs := b.opNs, thermalNs := b.thermalNs }

/-- MODEL'S CHOICE: that every command answers a next state is log 2, and that commands wait in a queue is log 1. No command touches that queue, and
none the one-time fuses or the serial number. -/
def Obligations.CommandsAnswerAndKeepTheQueue : Prop :=
  ∀ (i : Instr) (s : State), ∃ t, exec i s = .next t ∧ t.pending = s.pending ∧ t.fuse = s.fuse ∧ t.serial = s.serial

/-- Every step keeps the invariant: bounded recorder, error log, replacement pool and clock, canonical buffers. The clock's floor of 100 MHz is the
model's own (log 48, DEDUCED), and so is the canonical form, in which the model represents the sparse buffers. -/
def Obligations.EveryStepKeepsTheBounds : Prop :=
  ∀ s t : State, Inv s → step s = .next t → Inv t

/-- The invariant holds at reset, and what reset leaves is what the spec's register tables give: every register of the BAR0 blocks whose reset value
is a number reads as it. The fence set-up is zero, and no pair, no command and no tag is in use. The pins and rails are the model's own (log 5), the
EVR_ registers that come from FRAM are those of an empty one (log 6). GEN_STEPPING reads its value and the FNC_ block zero. -/
def Obligations.ResetMeetsTheBoundsAndClearsRegisters : Prop :=
  let s := State.reset
  let zero := fun (base n : Nat) => ((List.range n).all fun k => bar0Reg s (base + 8 * k) == 0) = true
  Inv s ∧
  (s.fnc = Fence.reset ∧ (s.fnc.win.all fun w => w.base == 0 && w.len == 0) = true ∧ s.fnc.lock = false ∧
   s.qps = [] ∧ s.cmds = [] ∧ s.tags = [] ∧ s.pending = [] ∧ s.out = []) ∧
  (bar0Reg s 0x10 = 0x000100A1 ∧ zero 0x30 3 ∧
   (∀ off, 0xA0000 ≤ off → off < 0xB0000 → off % 8 = 0 → bar0Reg s off = 0) ∧
   zero 0x10000 5 ∧ bar0Reg s 0x10030 = 65536 ∧ bar0Reg s 0x10038 = 15360 + 1024 * 2 ^ 16 ∧ zero 0x10040 2 ∧
   zero 0x20020 3 ∧
   zero 0x30000 2 ∧ zero 0x30100 40 ∧ zero 0x30400 32 ∧
   zero 0x40000 4 ∧ zero 0x40100 8 ∧
   bar0Reg s 0x50048 = 64 ∧ zero 0x50068 1 ∧
   (∀ n, n < 4 → zero (0x60008 + 0x100 * n) 11) ∧ zero 0x60400 4 ∧
   zero 0x70000 1 ∧ zero 0x70100 32 ∧ zero 0x70400 40 ∧
   zero 0x80000 16 ∧
   zero 0x90000 1 ∧ bar0Reg s 0x90018 = 1400 ∧ bar0Reg s 0x90020 = 0xFFFFFFFF ∧ zero 0x90040 3)

/-- No command but a loss of main power or a module reset changes the fence set-up: DMA windows, link enables and caps, power
and current caps, interrupt intervals, image keys, lock. -/
def Obligations.OnlyResetsChangeTheFence : Prop :=
  ∀ (i : Instr) (s t : State), resets i = false → exec i s = .next t → t.fnc = s.fnc

-- Fetching and completing commands.

/-- An entry at the head of a running pair's ring is fetched: its command holds the tag, the tag state word is FETCHED and
counts one more use, the SQ head and the slot-tag map of the pair move on, so that the map's word in the mirror window reads as
the tag, and the checks of R266 begin. -/
def Obligations.EntryIsFetchedUnderATag : Prop :=
  ∀ (o : Op) (e : Entry) (s : State) (q : Qp) (t : Nat), Fetched o e s q t →
    let c := theCmd o e s q t
    let u := taken o e s q t
    let slot := fun (w : State) (j : Nat) => pairWord w e.qp (0x2000 + j / 4 * 8) / 2 ^ (16 * (j % 4)) % 65536
    exec (cmdInstr o e) s = .next (settle (checkCmd c u)) ∧
    u.cmds = s.cmds ++ [c] ∧
    tagOf u t = ⟨t, 1, false, e.qp, e.cid.toNat, ((tagOf s t).use + 1) % 65536, 0⟩ ∧
    qpOf u e.qp = some { q with
      slotTags := put q.sqHead t q.slotTags, sqHead := if q.sqHead + 1 = q.depth then 0 else q.sqHead + 1,
      inFlight := q.inFlight + 1 } ∧
    (q.sqHead < 4096 → slot u q.sqHead = t) ∧ (∀ j, j < 4096 → j ≠ q.sqHead → slot u j = slot s j)

/-- An entry of a pair that does not exist, is frozen or being deleted, is empty, or whose completion would find no slot, stays
unfetched: nothing changes. Checks 1 to 4 refuse a command with one completion that carries the status of the first check that
fails. An entry that a RESUME_QP discards is not run: it is counted and completes with ABORTED, and the discard ends at its tail. A command of R41
that passes check 1 while another is held takes its tag and waits for its turn, not yet checked any further. MODEL'S READING: that such a command is
checked no further while it waits is log 19 (DEDUCED), and which entry of several pairs is fetched next follows log 4. -/
def Obligations.EntriesWaitOrFailACheck : Prop :=
  (∀ (o : Op) (e : Entry) (s : State), (∀ q, qpOf s e.qp = some q → ringReady q = false) →
     exec (cmdInstr o e) s = .next s) ∧
  (∀ (o : Op) (e : Entry) (s : State) (q : Qp) (t st : Nat) (w : ErrAt), Fetched o e s q t →
     earlyChecks (taken o e s q t) (theCmd o e s q t) = some (st, w) →
     exec (cmdInstr o e) s = .next (settle (finish (theCmd o e s q t) st 0 0 [] w (taken o e s q t)))) ∧
  (∀ (o : Op) (e : Entry) (s : State) (q : Qp) (t : Nat), Fetchable o e s q t → q.discardTo ≠ none →
     Settles (cmdInstr o e) s fun v => ∃ u, v = endDiscard e.qp (finish (theCmd o e s q t) 7 0 0 [] running0 u) ∧
       u = { (taken o e s q t) with qps := u.qps } ∧
       ∃ p, qpOf (taken o e s q t) e.qp = some p ∧ qpOf u e.qp = some { p with discarded := p.discarded + 1 }) ∧
  (∀ (o : Op) (e : Entry) (s : State) (q : Qp) (t : Nat), Fetchable o e s q t → q.discardTo = none → isSerial o = true →
     (s.cmds.any fun x => isSerial x.op) = true → check1 (theCmd o e s q t) = true →
     (s.cmds.any fun x => x.qp == e.qp && x.cid == e.cid.toNat) = false → (s.cmds.any fun x => x.tag == t) = false →
     Settles (cmdInstr o e) s fun v => cmdOf v t = some { (theCmd o e s q t) with phase := .turn } ∧
       v = { (taken o e s q t) with cmds := v.cmds } ∧ v.cmds.length = s.cmds.length + 1)

/-- FW_DOWNLOAD, LOAD_LATTICE, INDEX_CREATE with centroids, QUERY, QUERY_BATCH, INSERT, DELETE, LABEL_UPDATE, FETCH, TRAIN,
ENCODE, MODEL_LOAD: a command that names host data and passes its first checks asks the host for all of it, its phase is
READING, and a MODEL_LOAD's slot is LOADING. -/
def Obligations.DataCommandReadsTheHost : Prop :=
  ∀ (o : Op) (e : Entry) (s : State) (q : Qp) (t : Nat), Fetched o e s q t →
    earlyChecks (taken o e s q t) (theCmd o e s q t) = none → inputLen (theCmd o e s q t) ≠ 0 →
    Settles (cmdInstr o e) s fun v =>
      v.out = s.out ++ [.hostRead t e.dataAddr.toNat (inputLen (theCmd o e s q t))] ∧
      (cmdOf v t).map (·.phase) = some .reading ∧ (tagOf v t).state = 1 ∧
      (o = .modelLoad → ∀ m, modOf s (theCmd o e s q t).facet (theCmd o e s q t).model = some m →
        modOf v (theCmd o e s q t).facet (theCmd o e s q t).model = some { m with state := 1 })

/-- IDENTIFY, GET_LOG and GET_FEATURE answer at once from the state they find: the page goes to the result address, a log page
is cut or padded to the length asked for, and a feature's value is the result field; a stage-0 format that was set is the value
before it takes force. SET_FEATURE: POWER_STATE selects a state and begins the transition, or waits behind the one that runs;
KEEP_ALIVE and STAGE0_FORMAT change the facet they name, EVR test mode the module. MODEL'S READING: the interval that SET_FEATURE KEEP_ALIVE starts
anew is log 31, the wake event forgotten at a selection log 33, and the value of a stage-0 format before its force log 76. -/
def Obligations.ReportsAndFeaturesTakeEffect : Prop :=
  (∀ (e : Entry) (s : State) (q : Qp) (t : Nat),
     (Accepted .identify e s q t →
       let c := theCmd .identify e s q t
       let u := taken .identify e s q t
       let page := if c.ar 0 1 = 0 then identifyModule u else if c.ar 0 1 = 1 then identifyFacet u (c.ar 1 1)
         else identifyIndex u (c.ar 1 1) (c.ar 2 1)
       exec (.identify e) s = .next (settle (succeed c [] (writeHost c e.resultAddr.toNat (padTo 4096 page) u)))) ∧
     (Accepted .getLog e s q t →
       let c := theCmd .getLog e s q t
       let u := taken .getLog e s q t
       let page := logPage u (c.ar 0 1) (c.ar 1 1)
       exec (.getLog e) s = .next (settle (succeed c (leBytes 4 page.length)
         (writeHost c e.resultAddr.toNat (padTo (c.ar 4 4) (slice (c.ar 8 8) (c.ar 4 4) page)) u)))) ∧
     (Accepted .getFeature e s q t →
       let c := theCmd .getFeature e s q t
       let u := taken .getFeature e s q t
       let v := if c.ar 0 1 = 1 then u.brd.psSel else if c.ar 0 1 = 2 then (facetOf u (c.ar 1 1)).kaMs
         else if c.ar 0 1 = 3 then (facetOf u (c.ar 1 1)).s0Next.getD (s0Of u (c.ar 1 1)) else if u.hif.testMode then 1 else 0
       exec (.getFeature e) s = .next (settle (succeed c (leBytes 8 v) u)))) ∧
  (∀ (e : Entry) (s : State) (q : Qp) (t : Nat), Accepted .setFeature e s q t →
     let c := theCmd .setFeature e s q t
     let u := taken .setFeature e s q t
     let v := c.ar 8 8
     let f := c.ar 1 1
     (c.ar 0 1 = 1 → u.brd.trans = none →
       exec (.setFeature e) s = .next (settle (setPhase t .running (countHealth u { u with brd := { u.brd with
         psSel := v, trans := some ⟨t, v, now s⟩, woken := false } })))) ∧
     (c.ar 0 1 = 1 → u.brd.trans ≠ none →
       exec (.setFeature e) s = .next (settle (setPhase t .waiting { u with brd := { u.brd with psQueue := u.brd.psQueue ++ [t] } }))) ∧
     (c.ar 0 1 = 2 →
       exec (.setFeature e) s = .next (settle (succeed c (leBytes 8 v) (updFacet f (fun x => { x with kaMs := v, kaSince := now s }) u)))) ∧
     (c.ar 0 1 = 3 →
       exec (.setFeature e) s = .next (settle (succeed c (leBytes 8 v) (updFacet f (fun x => { x with s0Next := some v }) u)))) ∧
     (c.ar 0 1 = 4 →
       exec (.setFeature e) s = .next (settle (succeed c (leBytes 8 v) { u with hif := { u.hif with testMode := v == 1 } }))))

/-- FW_COMMIT while no other runs: a slot without a valid image is not selected (reason 5), a valid one is, and an action that
writes a slot or the boot configuration is refused with its reason or begins its flash writes. MODEL'S READING: the order of the reasons is log 30,
the one program log 28, and that those writes are class 3 of the module log 100 (DESIGN CHOICE). -/
def Obligations.FirmwareCommitSelectsOrWrites : Prop :=
  ∀ (e : Entry) (s : State) (q : Qp) (t : Nat), Accepted .fwCommit e s q t →
    let c := theCmd .fwCommit e s q t
    let u := taken .fwCommit e s q t
    let ok := (u.fw.slots[c.ar 0 1]?).any (·.valid)
    u.fw.committing = none →
    (c.ar 1 1 = 2 → ok = false →
      exec (.fwCommit e) s = .next (settle (finish c 10 0 0 (leBytes 2 5) ⟨6, 5, 0xFFFFFFFF⟩ u))) ∧
    (c.ar 1 1 = 2 → ok = true →
      exec (.fwCommit e) s = .next (settle (succeed c (leBytes 2 0) { u with fw := { u.fw with selected := c.ar 0 1 } }))) ∧
    (c.ar 1 1 ≠ 2 → fwReason c u ≠ 0 →
      exec (.fwCommit e) s = .next (settle (finish c 10 0 0 (leBytes 2 (fwReason c u)) ⟨6, fwReason c u, 0xFFFFFFFF⟩ u))) ∧
    (c.ar 1 1 ≠ 2 → fwReason c u = 0 →
      exec (.fwCommit e) s = .next (settle (queueCmdSeg 3 64 t (setPhase t .running { u with fw := { u.fw with committing := some t } }))))

/-- CREATE_QP makes a running pair with the rings, vector and coalescing of its fields, and starts the keep-alive timer with the
facet's first pair; a facet at its limit of pairs gets CAPACITY. DELETE_QP ends every command of the pair; the pair is gone at
once, or, while a tile, a read in service or a running segment of its work runs to its end, it is in state 3, from which nothing is fetched, until
the last of them has ended. A second DELETE_QP of the pair waits with the first. MODEL'S READING: when the pair goes is log 62, and that a pair made
on a FROZEN facet runs log 99. -/
def Obligations.PairsAreMadeAndDeleted : Prop :=
  (∀ (e : Entry) (s : State) (q : Qp) (t : Nat), Accepted .createQp e s q t →
     let c := theCmd .createQp e s q t
     let u := taken .createQp e s q t
     let f := c.ar 1 1
     let held := (u.qps.filter fun x => x.num != 0 && x.facet == f).length
     let limit := ((facetRec u f).map (·.qpLimit)).getD 0
     (held < limit →
       Settles (.createQp e) s fun v => ∃ w, v = succeed c [] w ∧ w = { u with qps := w.qps, facets := w.facets } ∧
         w.qps = u.qps ++ [newQp (c.ar 0 1) f (c.ar 2 2) (c.ar 8 8) (c.ar 16 8) (c.ar 4 2) (c.ar 6 1) (c.ar 7 1)] ∧
         (held = 0 → (facetOf w f).kaSince = now s) ∧ (held ≠ 0 → w.facets = u.facets)) ∧
     (limit ≤ held → exec (.createQp e) s = .next (settle (finish c 4 0 0 [] ⟨6, 0, 0xFFFFFFFF⟩ u)))) ∧
  (∀ (e : Entry) (s : State) (q : Qp) (t : Nat) (p : Qp), Accepted .deleteQp e s q t →
     let n := (theCmd .deleteQp e s q t).ar 0 1
     let u := taken .deleteQp e s q t
     qpOf u n = some p →
     (p.state ≠ 3 → n ≠ 0 → Settles (.deleteQp e) s fun v => (v.cmds.all fun x => x.qp != n) = true ∧
       (pairBusy u n = [] → qpOf v n = none) ∧
       (∀ p', qpOf v n = some p' → p'.state = 3 ∧ p'.stopping ≠ [])) ∧
     (p.state = 3 → exec (.deleteQp e) s = .next (settle (updQp n (fun x => { x with deleters := x.deleters ++ [(t, 0, 0)] })
       (setPhase t .running u)))))

/-- ABORT of a command that is not there, is committed, has begun to write results, or is being aborted, or of a RESKETCH whose E_s has come, completes
with NOT_CAUGHT; one that catches its command holds abort in its tag and, unless its optimiser steps run, stops its work: it ends with ABORTED at
once, or, while a tile, a read in service or a running segment of it runs to its end, when the last of them has ended.
RESUME_QP of a frozen pair clears its causes and the pair runs, a facet that was FROZEN is ACTIVE again with a new keep-alive
interval, and with discard the entries up to the tail are first ended, beside a discard that already runs; a pair that is not
frozen stays as it is. Not while a watchdog or chip-fatal cause holds it (log 29). MODEL'S READING: the new keep-alive interval is log 31, and what an
abort ends and when are logs 32 and 62. -/
def Obligations.AbortAndResumeTakeEffect : Prop :=
  (∀ (e : Entry) (s : State) (q : Qp) (t : Nat), Accepted .abort e s q t →
     let c := theCmd .abort e s q t
     let u := taken .abort e s q t
     let n := c.ar 2 2
     let hit := u.cmds.find? fun x => x.tag == n && x.qp == c.ar 0 1 && x.cid == c.ar 4 2 && !isAdmin x.op
     (hit = none → exec (.abort e) s = .next (settle (finish c 0 8 0 [] running0 u))) ∧
     (∀ x, hit = some x → ((tagOf u n).abortHeld || x.phase == .committed || pastStart u x || !x.results.isEmpty) = true →
       exec (.abort e) s = .next (settle (finish c 0 8 0 [] running0 u))) ∧
     (∀ x, hit = some x → ((tagOf u n).abortHeld || x.phase == .committed || pastStart u x || !x.results.isEmpty) = false →
       (u.srch.train.any fun j => j.tag == n && j.phase == 3) = false →
       (busyOf u n = [] →
         Settles (.abort e) s fun v => ∃ w, v = endCmd 7 { x with aborters := x.aborters ++ [t] } w ∧ (tagOf w n).abortHeld = true) ∧
       (busyOf u n ≠ [] →
         Settles (.abort e) s fun v => (cmdOf v n).map (·.phase) = some .ending ∧ (cmdOf v n).map (·.busy) = some (busyOf u n) ∧
           (tagOf v n).abortHeld = true ∧ v.out = u.out))) ∧
  (∀ (e : Entry) (s : State) (q : Qp) (t : Nat) (p : Qp), Accepted .resumeQp e s q t →
     let c := theCmd .resumeQp e s q t
     let u := taken .resumeQp e s q t
     let n := c.ar 0 1
     qpOf u n = some p →
     (p.state ≠ 2 → exec (.resumeQp e) s = .next (settle (succeed c (leBytes 2 0) u))) ∧
     (p.state = 2 → shownCause p < 5 →
       Settles (.resumeQp e) s fun v => ∃ w, w = { u with qps := w.qps, facets := w.facets } ∧
         qpOf w n = some { p with state := 1, causes := [] } ∧
         ((facetOf u p.facet).state = 2 → (facetOf w p.facet).state = 1 ∧ (facetOf w p.facet).kaSince = now s) ∧
         ((facetOf u p.facet).state ≠ 2 → w.facets = u.facets) ∧
         ((bit 0 (c.ar 1 1) && p.sqHead != p.sqTail) = false → v = succeed c (leBytes 2 0) w) ∧
         ((bit 0 (c.ar 1 1) && p.sqHead != p.sqTail) = true → p.discardTo = none → v = setPhase t .running (updQp n (fun x => { x with
           discardTo := some p.sqTail, resumer := some t, discarded := 0 }) w)) ∧
         ((bit 0 (c.ar 1 1) && p.sqHead != p.sqTail) = true → p.discardTo ≠ none → v = setPhase t .running (updQp n (fun x => { x with
           moreResumes := x.moreResumes ++ [(p.sqTail, t, p.discarded)] }) w))))

/-- FACET_CREATE makes the DECLARED facet ACTIVE at epoch 0 with its counters zero and keep-alive off, and completes.
FACET_DESTROY: the facet is DESTROYING, no I/O command, pair or index of it is left, and its scrub is queued. MODEL'S READING: that they are gone in
the same step is log 62. -/
def Obligations.FacetsAreCreatedAndDestroyed : Prop :=
  (∀ (e : Entry) (s : State) (q : Qp) (t : Nat), Accepted .facetCreate e s q t →
     let c := theCmd .facetCreate e s q t
     let u := taken .facetCreate e s q t
     Settles (.facetCreate e) s fun v => ∃ w, v = succeed c [] w ∧ w = { u with facets := w.facets } ∧
       (facetOf w c.facet).state = 1 ∧ (facetOf w c.facet).epoch = 0 ∧ (facetOf w c.facet).ctr = [] ∧
       (facetOf w c.facet).kaMs = 0 ∧ (∀ f, f ≠ c.facet → facetOf w f = facetOf u f)) ∧
  (∀ (e : Entry) (s : State) (q : Qp) (t : Nat), Accepted .facetDestroy e s q t →
     let f := (theCmd .facetDestroy e s q t).facet
     Settles (.facetDestroy e) s fun v =>
       (facetOf v f).state = 3 ∧ (facetOf v f).teardown = some 4 ∧ (facetOf v f).destroyTag = some t ∧
       (v.qps.all fun x => x.num == 0 || x.facet != f) = true ∧ (v.idx.all fun i => i.geo.facet != f) = true ∧
       (v.cmds.all fun x => isAdmin x.op || x.facet != f) = true ∧
       (v.flash.dies.any fun d => d.segs.any fun g => g.work == .scrub f && g.cls == 7) = true)

/-- INDEX_CREATE without centroids begins its flash writes if the index's fixed charge fits the facet's HBM, else CAPACITY.
INDEX_DROP waits for its turn; FLUSH begins. RESKETCH of an index with a pending projection, no transition under way and enough
HBM commits at E_s: generation g + 1 is in use beside g from that epoch on. Without a pending projection, during a transition, or with too little HBM it
is refused, in this order; then, with no region left, it ends with FACET_FAULT, and while the index is being migrated away it waits. MODEL'S READING:
INDEX_CREATE's flash writes as class 3 are log 100 (DESIGN CHOICE), RESKETCH's end without a region log 56. -/
def Obligations.IndexCommandsBegin : Prop :=
  (∀ (e : Entry) (s : State) (q : Qp) (t : Nat),
     (Accepted .indexCreate e s q t → ∀ g,
       let c := theCmd .indexCreate e s q t
       let u := taken .indexCreate e s q t
       geoOf u c.facet (c.ar 1 1) = some g →
       (fixedCharge u g ≤ hbmFree u c.facet → exec (.indexCreate e) s = .next (settle (queueCmdSeg 3 c.facet t (setPhase t .running u)))) ∧
       (hbmFree u c.facet < fixedCharge u g → exec (.indexCreate e) s = .next (settle (finish c 4 0 0 [] ⟨6, 0, 0xFFFFFFFF⟩ u)))) ∧
     (Accepted .indexDrop e s q t →
       exec (.indexDrop e) s = .next (settle (setPhase t .waiting (taken .indexDrop e s q t)))) ∧
     (Accepted .flush e s q t →
       let c := theCmd .flush e s q t
       let u := taken .flush e s q t
       Settles (.flush e) s fun v => (cmdOf v t).map (·.phase) = some .running ∧
         (cmdOf v t).map (·.mark) = some (((facetOf u c.facet).log.map (·.epoch)).foldl max 0) ∧
         (cmdOf v t).map (·.drain) = some ((idxsOf u c.facet).map fun i => (i.geo.slot, i.committed)) ∧
         v.facets = s.facets ∧ v.idx = s.idx ∧ v.out = s.out)) ∧
  (∀ (e : Entry) (s : State) (q : Qp) (t : Nat) (ix : Index), Accepted .resketch e s q t →
     let c := theCmd .resketch e s q t
     let u := taken .resketch e s q t
     c.index u = some ix →
     let need := (if ix.geo.mode = 0 then (ix.lists.map fun d => (curCopy d).pos.length).foldl max 0 else 65536) * (ix.geo.sketchBits / 8 + 8)
     (migHolds u c.facet c.slot = true → exec (.resketch e) s = .next (settle (setPhase t .waiting u))) ∧
     (migHolds u c.facet c.slot = false →
     (ix.pendingProj = none → exec (.resketch e) s = .next (settle (finish c 1 0 0 [] ⟨6, 0, 0x20⟩ u))) ∧
     (∀ w, ix.pendingProj = some w → ix.trans.isSome = true →
       exec (.resketch e) s = .next (settle (finish c 5 0 0 [] ⟨6, 0, 0xFFFFFFFF⟩ u))) ∧
     (∀ w, ix.pendingProj = some w → ix.trans = none → hbmFree u c.facet < need →
       exec (.resketch e) s = .next (settle (finish c 4 0 0 [] ⟨6, 0, 0xFFFFFFFF⟩ u))) ∧
     (∀ w, ix.pendingProj = some w → ix.trans = none → need ≤ hbmFree u c.facet → noRegion u c.facet = true →
       exec (.resketch e) s = .next (settle (finish c 11 0 0 [] running0 u))) ∧
     (∀ w, ix.pendingProj = some w → ix.trans = none → need ≤ hbmFree u c.facet → noRegion u c.facet = false →
       Settles (.resketch e) s fun v =>
         idxOf v c.facet c.slot = some { ix with
           pendingProj := none, gen := ix.gen + 1, projs := ix.projs ++ [(ix.gen + 1, .learned (stageFormat u c.facet 1 ix.geo.storage).1 w)],
           starts := ix.starts ++ [(ix.gen + 1, commitEpoch (facetOf u c.facet))],
           trans := some ⟨t, commitEpoch (facetOf u c.facet), ix.gen, 0⟩ } ∧
         (facetOf v c.facet).changed = true ∧ (cmdOf v t).map (·.epoch) = some (commitEpoch (facetOf u c.facet)))))

/-- EVR_CONTROL: a freeze action freezes a recorder that is not frozen and else changes nothing; unfreeze ends a freeze; clear
removes every record, leaves one that says so, and leaves the freeze as it was, whether or not recording is frozen. The result
is the records held after the action and the events counted while frozen. -/
def Obligations.RecorderControlTakesEffect : Prop :=
  ∀ (e : Entry) (s : State) (q : Qp) (t : Nat), Accepted .evrControl e s q t →
    let c := theCmd .evrControl e s q t
    let u := taken .evrControl e s q t
    let answer := fun (w : State) => succeed c (leBytes 2 w.evr.recs.length ++ leBytes 2 0 ++ leBytes 4 w.evr.frozenCount) w
    (c.ar 0 1 = 0 → u.evr.frozen = false → exec (.evrControl e) s = .next (settle (answer { u with evr := { u.evr with
      frozen := true, freezeAt := u.brd.aon, frozenCount := 0, frozenSev := 0 } }))) ∧
    (c.ar 0 1 = 0 → u.evr.frozen = true → exec (.evrControl e) s = .next (settle (answer u))) ∧
    (c.ar 0 1 = 1 → exec (.evrControl e) s = .next (settle (answer (endFreeze u)))) ∧
    (c.ar 0 1 = 2 → Settles (.evrControl e) s fun v => ∃ w, v = answer w ∧ w = { u with evr := w.evr } ∧
      w.evr.recs.map (·.code) = [0x0F03] ∧ w.evr.frozen = u.evr.frozen ∧ w.evr.frozenCount = u.evr.frozenCount)

/-- Host data that has all arrived and passes check 5 starts the command's own work on it; poisoned data, and 50 ms without an
answer, end the command with HOST_DATA_ERROR, while less than 50 ms change nothing. INSERT, DELETE, LABEL_UPDATE, FETCH and
ENCODE wait with their data, a QUERY joins its facet's admission queue, and an FW_DOWNLOAD is in the staging buffer. An answer that no command waits
for, its command waiting for its turn (R41) or its entry discarded (R257) among those, changes nothing. -/
def Obligations.HostDataStartsOrEndsTheCommand : Prop :=
  (∀ (t : Nat) (d : Bytes) (b : Bool) (s : State), (∀ c, cmdOf s t = some c → c.phase ≠ .reading) →
    exec (.hostReadCompletion t d b) s = .next s ∧ exec (.hostReadTimeout t) s = .next s) ∧
  ∀ (t : Nat) (d : Bytes) (s : State) (c : Cmd), cmdOf s t = some c → c.phase = .reading →
    exec (.hostReadCompletion t d true) s = .next (settle (endCmd 3 c s)) ∧
    (c.asked + 50000000 ≤ now s → exec (.hostReadTimeout t) s = .next (settle (endCmd 3 c s))) ∧
    (now s < c.asked + 50000000 → exec (.hostReadTimeout t) s = .next s) ∧
    (c.op ≠ .train → d.length = inputLen c → check5 s c d = none →
      exec (.hostReadCompletion t d false) s =
        .next (settle (beginCmd { c with data := d, phase := .waiting }
          (updCmd t (fun _ => { c with data := d, phase := .waiting }) s)))) ∧
    (c.op ≠ .train → d.length ≠ inputLen c → exec (.hostReadCompletion t d false) s = .next s) ∧
    (c.op = .train → c.mark = 0 → d.length = inputLen c → trainHeadData d = none → (readTrainHead d).inputLen ≠ 0 →
      inWindows s c.qp c.facet false (c.dataAddr + 32) (readTrainHead d).inputLen = true →
      Settles (.hostReadCompletion t d false) s fun v =>
        v.out = s.out ++ [.hostRead t (c.dataAddr + 32) (readTrainHead d).inputLen] ∧
        (cmdOf v t).map (·.data) = some d ∧ (cmdOf v t).map (·.phase) = some .reading) ∧
    (c.op ∈ [.insert, .delete, .labelUpdate, .fetch, .encode] → d.length = inputLen c → check5 s c d = none →
      Settles (.hostReadCompletion t d false) s fun v => (cmdOf v t).map (·.phase) = some .waiting ∧
        (cmdOf v t).map (·.data) = some d ∧ v.idx = s.idx ∧ v.facets = s.facets ∧ v.out = s.out) ∧
    (c.op = .query ∨ c.op = .queryBatch → d.length = inputLen c → check5 s c d = none → domainRoot s = false →
      Settles (.hostReadCompletion t d false) s fun v => (cmdOf v t).map (·.phase) = some .waiting ∧
        v.facets = (updFacet c.facet (fun x => { x with admission := x.admission ++ [t] }) s).facets) ∧
    (c.op = .fwDownload → d.length = inputLen c → check5 s c d = none → s.fw.committing = none → cellsWf 0 s.fw.staging = true →
      Settles (.hostReadCompletion t d false) s fun v => ∃ w, v = succeed { c with data := d, phase := .waiting } [] w ∧
        cellRead (c.ar 0 4) d.length w.fw.staging = d ∧
        (∀ a, a < c.ar 0 4 ∨ c.ar 0 4 + d.length ≤ a → cellGet a w.fw.staging = cellGet a s.fw.staging) ∧
        w.fw.slots = s.fw.slots ∧ w.fw.selected = s.fw.selected)

/-- One completion is posted: 32 bytes further in the ring for each, with the phase bit of this pass round it and the SQ head;
the CQ tail moves on, flipping the phase as it wraps; the tag is COMPLETED with its status, the command is gone, and an error on
an I/O pair freezes it. A command whose write the fence has blocked completes with DMA_WINDOW (R317), whatever its own status; that this status
overrides its own is log 55 (DEDUCED). -/
def Obligations.CompletionIsPostedOnce : Prop :=
  ∀ (c : Cmd) (st0 flags epoch : Nat) (res : Bytes) (w : ErrAt) (s : State) (p : Qp), qpOf s c.qp = some p →
    let st := if fenceHit s c.tag then 2 else st0
    let v := post c st0 flags epoch res w s
    let wraps := p.cqTail + 1 = p.depth
    (∃ more, (more = [] ∨ more = [.msix p.vector]) ∧ v.out = s.out ++ .completion (p.cqBase + 32 * p.cqTail)
      { result := padTo 16 res, epoch := epoch, tag := c.tag, sqHead := p.sqHead, qp := c.qp,
        flags := flags + (if isError st then 32 else 0), cid := c.cid, phase := p.phase, status := st } :: more) ∧
    (v.cmds.all fun x => x.tag != c.tag) = true ∧ (tagOf v c.tag).state = 4 ∧ (tagOf v c.tag).status = st ∧
    (∃ p', qpOf v c.qp = some p' ∧ p'.cqTail = (if wraps then 0 else p.cqTail + 1) ∧ p'.phase = (if wraps then !p.phase else p.phase) ∧
      p'.inFlight = p.inFlight - 1 ∧ p'.sqHead = p.sqHead ∧
      (isError st = true → c.qp ≠ 0 → p.state ≠ 3 → p'.state = 2 ∧ 1 ∈ p'.causes) ∧
      (isError st = false → p'.state = p.state ∧ p'.causes = p.causes)) ∧
    (isError st = true → v.elog.length = min 256 (s.elog.length + 1) ∧ v.elogSeq = s.elogSeq + 1)

-- The host interface.

/-- A valid SQ tail is taken and restarts the keep-alive timer of the pair's facet; a tail at or past the depth is ignored,
counted, and freezes an I/O pair with cause DOORBELL. A CQ head between the last released head and the CQ tail releases
completions; any other value is ignored, counted, and freezes an I/O pair with cause DOORBELL. A doorbell of a pair being
deleted does nothing, and one of a pair that does not exist is counted and recorded. MODEL'S READING: that every record sends its message on vector 0 is log 98 (DEDUCED). -/
def Obligations.DoorbellsMoveOrFreeze : Prop :=
  let counted := fun (u : State) => { u with hif := { u.hif with doorbellInvalid := (u.hif.doorbellInvalid + 1) % 2 ^ 64 } }
  (∀ (n : Nat) (v : BitVec 32) (s : State) (p : Qp), s.hif.linkUp = true → qpOf s n = some p → p.state ≠ 3 →
     (v.toNat < p.depth → n ≠ 0 → Answers (.sqTailDoorbell n v) s fun t =>
       t = { s with qps := t.qps, facets := t.facets } ∧ qpOf t n = some { p with sqTail := v.toNat } ∧
       (∀ m, m ≠ n → qpOf t m = qpOf s m) ∧ (facetOf t p.facet).kaSince = now s) ∧
     (v.toNat < p.depth → n = 0 → Answers (.sqTailDoorbell n v) s fun t =>
       t = { s with qps := t.qps } ∧ qpOf t n = some { p with sqTail := v.toNat }) ∧
     (p.depth ≤ v.toNat → n ≠ 0 → Answers (.sqTailDoorbell n v) s fun t =>
       t = { counted (record 0x0602 n [0, v.toNat, p.depth] s) with qps := t.qps } ∧ qpOf t n = some (freezeQp 2 p) ∧
       (∀ m, m ≠ n → qpOf t m = qpOf s m))) ∧
  (∀ (n : Nat) (v : BitVec 32) (s : State) (p : Qp), s.hif.linkUp = true → qpOf s n = some p → p.state ≠ 3 →
     let held := (p.cqTail + p.depth - p.cqHead) % p.depth
     let asked := (v.toNat + p.depth - p.cqHead) % p.depth
     (v.toNat < p.depth → asked ≤ held → Answers (.cqHeadDoorbell n v) s fun t =>
       t = { s with qps := t.qps, facets := t.facets } ∧ qpOf t n = some { p with cqHead := v.toNat } ∧
       (n ≠ 0 → (facetOf t p.facet).kaSince = now s)) ∧
     ((p.depth ≤ v.toNat ∨ (p.depth ≠ 0 ∧ held < asked)) → n ≠ 0 → Answers (.cqHeadDoorbell n v) s fun t =>
       t = { counted (record 0x0602 n [1, v.toNat, p.depth] s) with qps := t.qps } ∧ qpOf t n = some (freezeQp 2 p) ∧
       (∀ m, m ≠ n → qpOf t m = qpOf s m))) ∧
  (∀ (n : Nat) (v : BitVec 32) (s : State) (p : Qp), qpOf s n = some p → p.state = 3 →
    exec (.sqTailDoorbell n v) s = .next s ∧ exec (.cqHeadDoorbell n v) s = .next s) ∧
  (∀ (n : Nat) (v : BitVec 32) (s : State), s.hif.linkUp = true → qpOf s n = none →
    exec (.sqTailDoorbell n v) s = .next (counted (record 0x0602 n [0, v.toNat, 0] s)) ∧
    exec (.cqHeadDoorbell n v) s = .next (counted (record 0x0602 n [1, v.toNat, 0] s)))

/-- Setting HIF_CTRL.enable with valid rings inside the admin windows makes the admin queue and sets ready; otherwise
config_error is set and no queue is made. Disabling the interface, a function-level reset, a hot reset and a link loss all reset
it alike: no pair, no command and no tag in use is left, no completion is written for what was under way, no message is held, and enable and
ready are clear; a lost link is down. MODEL'S READING: that the reset ends within the same step, and what each of these resets keeps of the link and
of the configuration settings, is log 55. -/
def Obligations.EnableAndResetsOfTheInterface : Prop :=
  (∀ s : State, s.hif.linkUp = true → s.hif.enable = false → s.hif.resetBusy = false → s.fw.running < 2 →
     let ok := 2 ≤ s.hif.depth ∧ s.hif.depth ≤ 4096 ∧ inWindows s 0 0 false s.hif.sqBase.toNat (64 * s.hif.depth) = true ∧
       inWindows s 0 0 true s.hif.cqBase.toNat (32 * s.hif.depth) = true
     (ok → Answers .hifCtrlEnable s fun t => t = { s with hif := t.hif, qps := t.qps } ∧
       t.hif = { s.hif with enable := true, ready := true } ∧
       ∃ p, t.qps = s.qps ++ [p] ∧ p.num = 0 ∧ p.depth = s.hif.depth ∧ p.sqBase = s.hif.sqBase.toNat ∧
         p.cqBase = s.hif.cqBase.toNat ∧ p.vector = 0 ∧ p.sqHead = 0 ∧ p.cqTail = 0 ∧ p.phase = true ∧
         (s.srch.expired.contains 0 = false → s.brd.fatal = false → p.state = 1)) ∧
     (¬ ok → exec .hifCtrlEnable s = .next { s with hif := { s.hif with enable := true, configError := true } })) ∧
  (∀ s : State, s.hif.linkUp = true →
     let cleared := fun (u : State) => u.qps = [] ∧ u.cmds = [] ∧ (u.tags.all fun w => w.state == 0) = true ∧
       u.hif = { s.hif with enable := false, ready := false, configError := false, resetBusy := false, grant := none, pendMsg := [] } ∧ u.out = s.out ∧
       u.lat.load = none ∧ u.evr = s.evr
     (s.hif.enable = true → Settles .hifCtrlDisable s cleared) ∧
     Settles .functionLevelReset s cleared ∧ Settles .hotReset s cleared ∧
     (∃ u, exec .linkDown s = .next { settle u with hif := { (settle u).hif with linkUp := false } } ∧ cleared u))

/-- A vector's held message goes out once its interval has passed, its pending bit with it; and a pair's coalescing delay,
counted from its first completion not yet signalled, sends its interrupt. Training brings the link up with its speed and width;
a configuration write takes the setting it names, and turning MSI-X on unmasked sends what was held only by the mask. -/
def Obligations.InterruptsAndLinkSettings : Prop :=
  ((∀ (v : Nat) (s : State), s.hif.linkUp = true → s.hif.msixOn = true → s.hif.msixMask = false → v ∈ s.hif.pendMsg →
     (∀ p, s.hif.lastMsg.find? (·.1 == v) = some p → p.2 + 1000 * s.fnc.interval.getD v 1 ≤ now s) →
     exec (.msixIntervalExpiry v) s = .next { s with
       out := s.out ++ [.msix v],
       hif := { s.hif with lastMsg := put v (now s) s.hif.lastMsg, pendMsg := s.hif.pendMsg.filter (· != v) } }) ∧
   (∀ (n since : Nat) (s : State) (p : Qp), qpOf s n = some p → p.signalSince = some since → 0 < p.toSignal →
     since + 1000 * p.cDelay ≤ now s → s.hif.linkUp = true → s.hif.msixOn = true → s.hif.msixMask = false →
     (∀ m, s.hif.lastMsg.find? (·.1 == p.vector) = some m → m.2 + 1000 * s.fnc.interval.getD p.vector 1 ≤ now s) →
     Answers (.coalescingDelayExpiry n) s fun t => t.out = s.out ++ [.msix p.vector] ∧
       qpOf t n = some { p with toSignal := 0, signalSince := none })) ∧
  (∀ s : State,
     (∀ speed width, s.brd.mainPower = true → speed ∈ [64, 32, 16] → width ∈ [16, 8, 4] →
       exec (.pcieLinkUp speed width) s = .next { s with hif := { s.hif with linkUp := true, speed := speed, width := width } }) ∧
     (s.hif.linkUp = true →
       (∀ b, exec (.configurationWrite (.ecrcGenerate b)) s = .next { s with hif := { s.hif with ecrcGen := b } }) ∧
       (∀ b, exec (.configurationWrite (.ecrcCheck b)) s = .next { s with hif := { s.hif with ecrcCheck := b } }) ∧
       (∀ n, n ∈ [128, 256, 512] → exec (.configurationWrite (.maxPayload n)) s = .next { s with hif := { s.hif with maxPayload := n } }) ∧
       (∀ n, n ∈ [128, 256, 512, 1024, 2048, 4096] →
         exec (.configurationWrite (.maxReadRequest n)) s = .next { s with hif := { s.hif with maxRead := n } }) ∧
       (∀ b, s.hif.pendMsg = [] → exec (.configurationWrite (.msixEnable b)) s = .next { s with hif := { s.hif with msixOn := b } }) ∧
       (∀ v, s.hif.pendMsg = [v] → s.hif.msixOn = true → s.hif.lastMsg = [] →
         exec (.configurationWrite (.msixMask false)) s = .next { s with
           out := s.out ++ [.msix v], hif := { s.hif with msixMask := false, lastMsg := [(v, now s)], pendMsg := [] } })))

/-- An aligned 8-byte register write: GEN_SCRATCH, FCT_SELECT (its defined bits) and EVR_CURSOR store it, and an aligned piece
of the MSI-X table does; HIF_ADMIN_DEPTH stores it while enable is 0, and else ignores and counts it; a write to the FNC_ block
is ignored and counted, as a misaligned or odd-sized write is. An aligned read of BAR0 answers the register's bytes, and one of the mirror window
within a 64-byte line the mirror words', and neither changes anything else. A read of the word with a record's CRC answers it and moves EVR_CURSOR on
by one; where that CRC fails, RAS_COUNT[13] rises (log 93). A misaligned or odd-sized read of BAR0 answers zeros and is counted, as a read of the
mirror window across a 64-byte line is; the doorbell pages read zero. MODEL'S READING: that a misaligned or odd-sized BAR0 write is ignored and
counted is log 55. -/
def Obligations.RegistersReadAndWrite : Prop :=
  (∀ (v : Word64) (s : State), s.hif.linkUp = true →
     let counts := { s with hif := { s.hif with badAccess := (s.hif.badAccess + 1) % 2 ^ 64 } }
     exec (.registerWrite .bar0 0x40 8 v) s = .next { s with hif := { s.hif with scratch := v } } ∧
     exec (.registerWrite .bar0 0x80008 8 v) s = .next { s with evr := { s.evr with cursor := v.toNat % 2 ^ 32 } } ∧
     exec (.registerWrite .bar0 0x30000 8 v) s = .next { s with hif := { s.hif with
       select := BitVec.ofNat 64 (v.toNat % 64 + 256 * (v.toNat / 256 % 8)) } } ∧
     (s.hif.enable = false → exec (.registerWrite .bar0 0x10020 8 v) s =
       .next { s with hif := { s.hif with depth := v.toNat % 8192 } }) ∧
     (s.hif.enable = true → exec (.registerWrite .bar0 0x10020 8 v) s = .next counts) ∧
     (∀ off, 0xA0000 ≤ off → off < 0xA2000 → exec (.registerWrite .bar0 off 8 v) s = .next counts) ∧
     (∀ off size, (size ≠ 4 ∧ size ≠ 8) ∨ off % size ≠ 0 → exec (.registerWrite .bar0 off size v) s = .next counts) ∧
     (∀ off, cellsWf 0 s.hif.msixTable = true → off % 8 = 0 → 0x100000 ≤ off → off < 0x101000 → Answers (.registerWrite .bar0 off 8 v) s fun t =>
       t = { s with hif := { s.hif with msixTable := t.hif.msixTable } } ∧
       cellRead (off - 0x100000) 8 t.hif.msixTable = leBytes 8 v.toNat ∧
       (∀ a, a < off - 0x100000 ∨ off - 0x100000 + 8 ≤ a → cellGet a t.hif.msixTable = cellGet a s.hif.msixTable))) ∧
  (∀ (s : State), s.hif.linkUp = true →
     let counts := { s with hif := { s.hif with badAccess := (s.hif.badAccess + 1) % 2 ^ 64 } }
     let answers := fun (d : Bytes) => { s with out := s.out ++ [.readData d] }
     let passed := fun (d : Bytes) => { (if tornRead s then bumpRas 13 1 s else s) with
       out := s.out ++ [.readData d], evr := { s.evr with cursor := (s.evr.cursor + 1) % 2 ^ 32 } }
     exec (.evrWindowCrcRead true) s = .next (passed (wordBytes (bar0Reg s) 0x80078 8)) ∧
     exec (.evrWindowCrcRead false) s = .next (passed (wordBytes (bar0Reg s) 0x8007C 4)) ∧
     (∀ off len, len = 4 ∨ len = 8 → off % len = 0 → ¬ (off ≤ 0x8007C ∧ 0x80080 ≤ off + len) →
       exec (.misalignedRead .bar0 off len) s = .next (answers (wordBytes (bar0Reg s) off len))) ∧
     (∀ off len, len = 4 ∨ len = 8 → off % len = 0 → off ≤ 0x8007C → 0x80080 ≤ off + len →
       exec (.misalignedRead .bar0 off len) s = .next (passed (wordBytes (bar0Reg s) off len))) ∧
     (∀ off len, 0x1000000 ≤ off → off % 64 + len ≤ 64 →
       exec (.misalignedRead .bar2 off len) s = .next (answers (wordBytes (bar2Word s) off len))) ∧
     (∀ off, off % 8 = 0 → wordBytes (bar0Reg s) off 8 = leBytes 8 (bar0Reg s off)) ∧
     (∀ off len, (len ≠ 4 ∧ len ≠ 8) ∨ off % len ≠ 0 → exec (.misalignedRead .bar0 off len) s =
       .next { counts with out := s.out ++ [.readData (List.replicate len 0)] }) ∧
     (∀ off len, 0x1000000 ≤ off → 64 < off % 64 + len → exec (.misalignedRead .bar2 off len) s =
       .next { counts with out := s.out ++ [.readData (List.replicate len 0)] }) ∧
     (∀ off len, off < 0x1000000 → exec (.misalignedRead .bar2 off len) s =
       .next { s with out := s.out ++ [.readData (List.replicate len 0)] }))

-- Time.

/-- SYNC_IN and the boundaries. The interval from the last accepted edge is measured in always-on time; while pulses start the turns, one that is
in window starts a turn there; two good intervals behind a third lock; one out of window starts the count again, or ends the
lock. The steps inside a turn begin 25.6, 51.2 and 76.8 µs after its start, and the fourth lasts until the next turn. 112.64 µs
without a pulse end the lock, and a turn that pulses would have started starts there; without a lock a turn begins 102.4 µs after the last. MODEL'S
READING: which pulses lock and start turns, the time the interval is measured in, and the turn at the timeout are log 47 (DEDUCED). -/
def Obligations.TurnsAndStepsBegin : Prop :=
  (∀ (s : State) (p : Nat), s.brd.aux5 = true → s.brd.sync.accepted = false → lockedOut s s.brd.sync = false →
    clocked s = true → s.brd.lastPulse = some p → s.brd.aon - p < 0xFFFFFFFF → pulseMissing s = false →
    let edge := { s.brd.sync with
      accepted := true, filtered := true, lockEnd := some (s.brd.aon + 10000), acc := (s.brd.sync.acc + 1) % 2 ^ 32,
      secAcc := s.brd.sync.secAcc + 1 }
    let seen := { s.brd with sync := edge, lastPulse := some s.brd.aon, syncInterval := s.brd.aon - p }
    let good := 92160 ≤ s.brd.aon - p ∧ s.brd.aon - p ≤ 112640
    (s.brd.locked = true → good → exec .syncInPulse s = .next (turnBoundary { s with brd := { seen with inWindow := 4 } })) ∧
    (s.brd.locked = true → ¬ good → exec .syncInPulse s =
      .next (record 0x0503 0 [s.brd.aon - p] { s with brd := { seen with locked := false, inWindow := 0 } })) ∧
    (s.brd.locked = false → good → 2 ≤ s.brd.inWindow →
      exec .syncInPulse s = .next { s with brd := { seen with locked := true, inWindow := 3 } }) ∧
    (s.brd.locked = false → good → s.brd.inWindow < 2 →
      exec .syncInPulse s = .next { s with brd := { seen with inWindow := s.brd.inWindow + 1 } }) ∧
    (s.brd.locked = false → ¬ good → exec .syncInPulse s = .next { s with brd := { seen with inWindow := 0 } })) ∧
  (∀ s : State, clocked s = true →
    (s.srch.stepNo < 3 → s.brd.turnStart + 25600 * (s.srch.stepNo + 1) ≤ now s →
      exec .batchStepBoundary s = .next (boundary { s with srch := { s.srch with stepNo := s.srch.stepNo + 1 } })) ∧
    (3 ≤ s.srch.stepNo ∨ now s < s.brd.turnStart + 25600 * (s.srch.stepNo + 1) → exec .batchStepBoundary s = .next s) ∧
    (synced s = true → exec .freeRunningTurn s = .next s) ∧
    (synced s = false → s.brd.turnStart + 102400 ≤ now s → exec .freeRunningTurn s = .next (turnBoundary s)) ∧
    (now s < s.brd.turnStart + 102400 → exec .freeRunningTurn s = .next s) ∧
    (let lost := record 0x0503 0 [0xFFFFFFFF] { s with brd := { s.brd with locked := false, inWindow := 0, syncInterval := 0xFFFFFFFF } }
     (synced s = true → s.brd.turnStart + 112640 ≤ now s → exec .syncTimeout s = .next (turnBoundary lost)) ∧
     (∀ p, s.brd.locked = true → s.brd.inWindow < 4 → s.brd.lastPulse = some p → p + 112640 ≤ s.brd.aon → exec .syncTimeout s = .next lost)) ∧
    (synced s = true → now s < s.brd.turnStart + 112640 → exec .syncTimeout s = .next s) ∧
    (s.brd.locked = false → exec .syncTimeout s = .next s))

/-- What a boundary does. A turn that starts has nothing spent of its credit, owes what the last one spent above its allotment, starts now as step 0,
and puts out SYNC_OUT. A step that ends, which a received migration publishes into, takes the epoch of each facet in which something committed on by
one and of no other, brings a new adapter and a new stage-0 format into force, frees the contexts of what has completed where no INDEX_DROP takes
effect, and gives each FETCH that
has read its state the epoch (R128; log 24); the step that begins starts a new cohort. The new adapter is R192's, the contexts kept by an INDEX_DROP
R278's. -/
def Obligations.CreditAndEpochsAtBoundaries : Prop :=
  (∀ s : State, clocked s = true →
    (s.srch.stepNo < 3 → s.brd.turnStart + 25600 * (s.srch.stepNo + 1) ≤ now s →
      exec .batchStepBoundary s =
        .next (settle (openStep (closeStep (migPublish { s with srch := { s.srch with stepNo := s.srch.stepNo + 1 } }))))) ∧
    (synced s = false → s.brd.turnStart + 102400 ≤ now s →
      exec .freeRunningTurn s = .next (settle (openStep (closeStep (migPublish (newTurn s)))))) ∧
    (synced s = true → s.brd.turnStart + 112640 ≤ now s → ∃ u, exec .syncTimeout s = .next (settle (openStep (closeStep (migPublish (newTurn u))))) ∧
      u.brd = { s.brd with locked := false, inWindow := 0, syncInterval := 0xFFFFFFFF } ∧
      u = { s with brd := u.brd, evr := u.evr, hif := u.hif, out := u.out } ∧ Told s u)) ∧
  (∀ s : State, (newTurn s).srch.spent = [] ∧ (newTurn s).srch.bytes = [] ∧ (newTurn s).srch.stepNo = 0 ∧
    (newTurn s).srch.turn = (s.srch.turn + 1) % 2 ^ 32 ∧ (newTurn s).brd = { s.brd with turnStart := now s } ∧
    (∃ o, (newTurn s).out = s.out ++ o ++ [.syncOut]) ∧
    let a := chargeRunning s
    ∀ u f c, (facetOf s f).teardown ≠ some 5 →
      look 0 (u, f, c) (newTurn s).srch.debt = look 0 (u, f, c) a.srch.spent + look 0 (u, f, c) a.srch.debt - allotment a u f c) ∧
  (∀ (s : State) (f : Nat),
    let o := closeStep s
    (facetOf o f).epoch = (facetOf s f).epoch + (if (facetOf s f).changed then 1 else 0) ∧ (facetOf o f).changed = false ∧
    (o.mods.all fun m => m.newAdapter.isNone) = true ∧ (facetOf o f).s0Next = none ∧
    (∀ n, (facetOf s f).s0Next = some n → (facetOf o f).s0 = some n) ∧
    (∀ c ∈ o.cmds, c.op = .fetch → c.phase = .running → c.ef.isSome = true) ∧
    ((s.cmds.all fun c => !(c.op == .indexDrop && c.phase == .waiting)) = true →
      o.srch.freeing = s.srch.freeing.filter fun p => p.2.2.any fun n => s.cmds.any (·.seq == n)) ∧
    (openStep s).srch.cohort = s.srch.cohort + 1 ∧ (openStep s).srch.turn = s.srch.turn)

-- Search.

/-- The tile on an engine drains: the engine is free, its ticks are charged to the tile's class, and the result goes to the
queries or the ENCODE that waits for it. A hop round whose vertices are all in is finished when its walker is granted to it: what matches of them
is found, and the walk goes on or ends; until then it waits. A shadow whose class has budget leaves the queue and joins its facet's window of 64; without budget it
waits. -/
def Obligations.TilesRoundsAndShadowsFinish : Prop :=
  (∀ (n : Nat) (s : State) (x : Engine) (t : Tile), s.srch.engines.find? (·.num == n) = some x → x.run = some t →
     let free := { s with srch := { s.srch with engines := updFirst (·.num == n) (fun y => { y with run := none }) s.srch.engines } }
     let u := busyEnded (.tile n) (charge (unitEngine n) t.facet (t.cls % 8) (ticksSince s x.since) x.borrowed free)
     (u.srch.engines.find? (·.num == n)).map (·.run) = some none ∧
     (∀ tag g st, t.kind = .node tag g st → exec (.tileDrain n) s = .next (settle (drainNode n t tag g st u))) ∧
     ((∀ tag g st, t.kind ≠ .node tag g st) → exec (.tileDrain n) s = .next (settle (drainSearch n t u)))) ∧
  ((∀ (x : Nat) (s : State) (q : Query) (ix : Index) (b : Bool), queryOf s x = some q → idxOf s q.facet q.slot = some ix →
     roundDue q = true → walkGrant s q.walker = some (q, b) →
     let s0 := rotateTo q.walker q.facet s
     exec (.hopRound x) s = .next (settle (hopRound ix q b s0)) ∧
     ∃ q2 u, hopRound ix q b s0 = continueWalk ix false q2 u ∧ queryOf u x = some q2 ∧ q2.hops = q.hops ∧ q2.sel = [] ∧ q2.arrived = [] ∧
       q2.poison = [] ∧
       q2.found = q.found ++ q.arrived.filter (fun r => q.q.any fun e => e.node == r.cand.pos && e.matching) ∧ u.cmds = s.cmds ∧ u.idx = s.idx) ∧
   (∀ (x : Nat) (s : State) (q : Query), queryOf s x = some q →
     (roundDue q = false ∨ walkGrant s q.walker = none ∨ ∃ y b, walkGrant s q.walker = some (y, b) ∧ y.ctx ≠ x) →
     exec (.hopRound x) s = .next (settle s)) ∧
   (∀ (f slot : Nat) (s : State) (h : Shadow) (ix : Index),
     s.srch.shadows.find? (fun y => y.facet == f && y.slot == slot) = some h → idxOf s f slot = some ix →
     (shadowDue s h = true → Answers (.sentinelShadowFinish f slot) s fun t =>
       t.srch.shadows = s.srch.shadows.erase h ∧
       (facetOf t f).window = ((facetOf s f).window ++ [(absentLists ix h, h.nprobe)]).drop ((facetOf s f).window.length + 1 - 64)) ∧
     (shadowDue s h = false → exec (.sentinelShadowFinish f slot) s = .next s)))

/-- A finished sliver, all of whose pieces are granted: each member's list at the cell's region becomes the first r of what it was and of the
sliver's candidates for it, merged in order; the records it scanned are counted, none that a poisoned block hid among them; the cell takes its
suspended sliver up again, where that may be granted, or is idle, and members without slivers left merge. One whose pieces are not all granted waits
on its cell with those that are left. A cell that stands at a record boundary for want of credit has not finished its sliver. MODEL'S READING: the
pieces and their order are logs 13 and 45, and the poisoned blocks of a run that its copy has lost are log 13. -/
def Obligations.SliverFinishCommitsCandidates : Prop :=
  ∀ (c : Nat) (s : State) (v0 : Sliver) (ix : Index), (cellOf s c).run = some v0 → idxOf s v0.facet v0.slot = some ix →
    let r := runJobs v0.facet (v0.cls % 8) .ended (v0.wait.getD (sliverJobs s c ix v0)) (useFree s)
    let z := countSliver r.2 ix v0 r.2
    let v := withLost r.2 ix v0
    let cands := (v.staged ++ v.heap).filter (fun p => !poisonedRec ix.geo v p.2.pos) ++ sliverCands z ix v (c / 512)
    let back := (cellOf s c).susp.all fun w => mayGrant s (w.cls % 8) (cellOf s c).suspBorrowed
    (cellStands s (cellOf s c) = true → exec (.sliverFinish c) s = .next s) ∧
    (cellStands s (cellOf s c) = false → r.1 ≠ [] →
      Settles (.sliverFinish c) s fun w => (cellOf w c).run = some { v0 with wait := some r.1 } ∧ w.srch.queries = s.srch.queries) ∧
    (cellStands s (cellOf s c) = false → r.1 = [] →
      Settles (.sliverFinish c) s fun w => ∃ u, w = v.members.foldl (fun t m => chipMerge m t) u ∧
        (cellOf u c).run = (if back then (cellOf s c).susp else none) ∧ (cellOf u c).susp = (if back then none else (cellOf s c).susp) ∧
        (cellOf u c).since = now s ∧
        u.srch.queries.map (·.ctx) = s.srch.queries.map (·.ctx) ∧
        (∀ q ∈ s.srch.queries, q.ctx ∉ v.members → q ∈ u.srch.queries) ∧
        (∀ q ∈ s.srch.queries, q.ctx ∈ v.members → ∃ q' ∈ u.srch.queries, q'.ctx = q.ctx ∧
          look [] (c / 512) q'.regions =
            (sortBy candBefore (regionList q (c / 512) ++ (cands.filter (·.1 == q.ctx)).map (·.2))).take q.r ∧
          (∀ r, r ≠ c / 512 → look [] r q'.regions = look [] r q.regions) ∧
          q'.scanned = q.scanned + (sliverCount z ix v q).1 ∧ q'.partialFlag = (q.partialFlag || (sliverCount z ix v q).2) ∧
          q'.vec = q.vec ∧ q'.epoch = q.epoch))

/-- A heap that reaches 64 candidates is drained to staging and the scan goes on behind the last of them; the cell keeps its sliver. A cell that
stands, or whose sliver waits for its pieces, drains nothing. An idle cell steals a sliver that it is granted, which leaves its queue and starts
there. CELL_SWITCH takes the block's first running cell that has something to switch to. With one context the cell suspends its sliver on itself,
charges the ticks of the switch to the class switched in after what the suspended sliver has taken so far, and the new sliver starts behind them;
with two, its sliver and the suspended one change places in the same way. With nothing to switch to, nothing happens. -/
def Obligations.CellsStageStealAndSwitch : Prop :=
  let started := fun (s : State) (v : Sliver) => { v with fresh := false, front := 0, copy := readsCopy s v, claim := none }
  (∀ (c : Nat) (s : State) (v : Sliver) (ix : Index), (cellOf s c).run = some v → (s.srch.cells.any fun x => x.cell == c) = true →
     (cellStands s (cellOf s c) = true ∨ v.wait.isSome = true → exec (.heapFull c) s = .next s) ∧
     (idxOf s v.facet v.slot = some ix → cellStands s (cellOf s c) = false → v.wait = none → ∀ last,
     let all' := v.heap ++ sliverCands s ix v (c / 512)
     all'[63]? = some last →
     Answers (.heapFull c) s fun t => t = { s with srch := { s.srch with cells := t.srch.cells }, mem := t.mem } ∧
       ∃ v', (cellOf t c).run = some v' ∧ v' = { v with staged := v.staged ++ all'.take 64, heap := v'.heap, next := max v.next (last.2.pos + 1) } ∧
         (∀ p ∈ v'.heap, p.2.pos ≤ last.2.pos))) ∧
  (∀ (s : State),
     (∀ c v b, cellIdle s c = true → stealFrom s c = some (v, b) →
       Answers (.steal c) s fun t => t = takeStolen c v b s ∧ (cellOf t c).run = some (started s v) ∧ (cellOf t c).since = now s ∧
         (cellOf t c).borrowed = b ∧ ∀ w ∈ t.srch.slivers, ¬ (w.gid = v.gid ∧ w.lo = v.lo)) ∧
     (∀ c, cellIdle s c = false → exec (.steal c) s = .next s) ∧
     (∀ blk, (∀ p ∈ switchable s blk, switchOf s blk p = none) → exec (.cellSwitch blk) s = .next s) ∧
     (∀ blk c old, (switchable s blk).find? (fun p => (switchOf s blk p).isSome) = some (c, old) →
       let n := switchTicks s old
       let paid := fun (v : Sliver) (b : Bool) =>
         charge c v.facet (v.cls % 8) n b (bump v.facet (kSch (v.cls % 8) 5) 1 (chargeCell (cellOf s c) s))
       (∀ v b, (cellOf s c).susp = none → switchTo s blk (c, old) = some (v, b) →
         Answers (.cellSwitch blk) s fun t =>
           (cellOf t c).susp = some old ∧ (cellOf t c).suspBorrowed = (cellOf s c).borrowed ∧
           (cellOf t c).run = some (started s v) ∧ (cellOf t c).since = now s + 100 * n ∧ (cellOf t c).borrowed = b ∧
           (∀ w ∈ t.srch.slivers, ¬ (w.gid = v.gid ∧ w.lo = v.lo)) ∧
           (∀ f k, look 0 (c, f, k) t.srch.spent = look 0 (c, f, k) (paid v b).srch.spent) ∧
           t = { s with srch := t.srch, facets := t.facets, mem := t.mem, free := t.free }) ∧
       (∀ v, (cellOf s c).susp = some v →
         Answers (.cellSwitch blk) s fun t =>
           (cellOf t c).susp = some old ∧ (cellOf t c).suspBorrowed = (cellOf s c).borrowed ∧
           (cellOf t c).run = some v ∧ (cellOf t c).since = now s + 100 * n ∧ (cellOf t c).borrowed = false ∧
           t.srch.slivers = s.srch.slivers ∧
           (s.cfg.role c ≠ some 3 → ∀ f k, look 0 (c, f, k) t.srch.spent = look 0 (c, f, k) (paid v false).srch.spent) ∧
           t = { s with srch := t.srch, facets := t.facets, mem := t.mem, free := t.free })))

/-- SCAN_CHECKPOINT at 75 % of a deadline, with the scan unfinished: the query's waiting slivers are given up, its approx_cause
holds bit 0 (scan cut), and it merges. Without a deadline, before the time, or after the scan, nothing happens. -/
def Obligations.CheckpointCutsTheScan : Prop :=
  ∀ (x : Nat) (s : State) (q : Query), queryOf s x = some q →
    (q.deadline = 0 ∨ now s < q.since + 750 * q.deadline ∨ q.scanDone = true → exec (.scanCheckpoint x) s = .next s) ∧
    (q.deadline ≠ 0 → q.since + 750 * q.deadline ≤ now s → q.scanDone = false → bit 0 q.cause = false → q.stage = .scan →
      (s.srch.slivers.any fun v => v.members.contains x) = true →
      Settles (.scanCheckpoint x) s fun w => ∃ u, w = chipMerge x u ∧
        (u.srch.slivers.all fun v => !v.members.contains x) = true ∧
        (queryOf u x).map (·.cause) = some (q.cause ||| 1) ∧ u.srch.cells = s.srch.cells)

/-- A flash read that ends leaves its die's queue and its tag is free: with no read of the channel waiting for one fewer are in use, and else the
first of those that wait takes it. A unit that decodes answers what waited for it; one that fails is to be rebuilt, or lost with a second failure in
its parity group; one that fails, is lost, or was lost before for the epoch it is read at answers without data. Nothing that waited for the end of
the read waits on. MODEL'S READING: what a read of a lost unit answers, and when, is log 60 (R324), loss by epoch logs 75 and 88. -/
def Obligations.FlashReadAnswers : Prop :=
  ∀ (ch d pl : Nat) (res : ReadResult) (s : State) (r : Read),
    ((dieOf s ch d).reads.find? fun y => y.plane == pl && y.started) = some r →
    let gone := lostAt s (readEpoch s r.purpose) r.unit
    let waits := sortBy (fun a b : (Nat × Nat) × Read => readBefore a.2 b.2) (s.flash.waits.filter (·.1.1 == ch))
    Settles (.flashReadComplete ch d pl res) s fun w => ∃ u,
      w = readBack r.purpose ((match res with | .ok _ => true | _ => false) && !gone) u ∧
      ((∀ x ∈ s.flash.waits, x.2.order ≠ r.order) → ∀ y ∈ (dieOf u ch d).reads, y.order ≠ r.order) ∧
      (waits = [] → tagsUsed u ch < tagsUsed s ch ∧ u.flash.waits = s.flash.waits) ∧
      (∀ x, waits.head? = some x → u.flash.waits = s.flash.waits.filter (fun y => y.2.order != x.2.order) ∧
        ∃ y ∈ (dieOf u x.1.1 x.1.2).reads, y.order = x.2.order ∧ y.unit = x.2.unit ∧ y.purpose = x.2.purpose) ∧
      (res = .failed → gone = false → failedMates s r.unit = [] → r.unit ∈ u.flash.rebuilding) ∧
      (res = .failed ∧ failedMates s r.unit ≠ [] ∨ res = .lost → gone = false → lostAt u (readEpoch s r.purpose) r.unit = true) ∧
      u.idx = s.idx ∧ u.qps = (busyEnded (.read r.order) s).qps ∧ u.cmds = (busyEnded (.read r.order) s).cmds ∧ u.srch.queries = s.srch.queries

-- Writes and background work.

/-- COMMIT of an INSERT that is due, fits and is not refused: its vectors join the tail of the side list with the facet's next
epoch, and the facet has changed in this step. COMMIT of a DELETE that is due and fits: its live IDs are pending deletes at the
facet's next epoch, so that queries of older epochs still see them. COMMIT of a LABEL_UPDATE is both at once: each live vector's location is a pending
delete at that epoch, and a new entry at the tail carries the same ID, the same vector and the new label word, where its location word points from
now on. A write that the engines do not grant what it needs waits. With no region left to sketch them on, an INSERT or LABEL_UPDATE ends with
FACET_FAULT, while a DELETE goes on. MODEL'S READING: that end without a region is log 56, the pieces of the write log 41. -/
def Obligations.WritesCommit : Prop :=
  ∀ (tag : Nat) (s : State) (c : Cmd) (ix : Index), cmdOf s tag = some c → commitDue s c = true → c.index s = some ix → ix.held = false →
    let x := facetOf s c.facet
    let jx := { ix with work := none }
    let deletes := (liveIds ix (c.ids s)).filterMap (fun i => (locate ix i).map fun l => (⟨c.slot, l, x.epoch + 1, 0, none⟩ : Pend))
    let appended := fun (u : State) (vs : List Stored) =>
      (idxOf u c.facet c.slot).map (fun i => i.side.map (·.v)) = some (ix.side.map (·.v) ++ vs) ∧
      (idxOf u c.facet c.slot).map (fun i => (i.side.drop ix.side.length).map (·.epoch)) = some (List.replicate vs.length (x.epoch + 1)) ∧
      (facetOf u c.facet).changed = true ∧ (facetOf u c.facet).epoch = x.epoch
    (c.op ≠ .delete → noRegion s c.facet = true →
      exec (.commit tag) s = .next (settle (floorAdvance c.facet (finish c 11 0 0 [] running0 s)))) ∧
    (noRegion s c.facet = false ∨ c.op = .delete → (c.op = .insert → insertRefusal s ix c (c.ids s) = none) →
      sideUsed ix + newSide ix c (c.ids s) ≤ ix.geo.sideLimit → pendCount x + newPend ix c (c.ids s) ≤ 65536 →
      (allJobs c.facet 3 .ended (writeJobs s jx c) s = none → exec (.commit tag) s = .next (settle (floorAdvance c.facet s))) ∧
      (∀ t, allJobs c.facet 3 .ended (writeJobs s jx c) s = some t →
      (c.op = .insert →
        Settles (.commit tag) s fun w => ∃ u, w = floorAdvance c.facet u ∧ appended u (insertVectors t jx c)) ∧
      (c.op = .delete →
        Settles (.commit tag) s fun w => ∃ u, w = floorAdvance c.facet u ∧ (facetOf u c.facet).pend = x.pend ++ deletes ∧
          (idxOf u c.facet c.slot).map (·.side) = some ix.side ∧ (facetOf u c.facet).changed = true) ∧
      (c.op = .labelUpdate →
        (Settles (.commit tag) s fun w => ∃ u, w = floorAdvance c.facet u ∧ appended u (relabelled t jx c) ∧
          (facetOf u c.facet).pend = x.pend ++ deletes ∧
          ∀ v ∈ relabelled t jx c, ∃ i a, idxOf u c.facet c.slot = some i ∧ locate i v.id = some (.side a) ∧ nextApp ix ≤ a) ∧
        ∀ v ∈ relabelled t jx c, ∃ k w, k < c.count ∧ v.id = field (16 * k) 8 c.data ∧ v.label = field (16 * k + 8) 8 c.data ∧
          (locate ix v.id).bind (storedAt ix) = some w ∧ (c.failedReads.contains v.id = false → v.vec = w.vec))))

/-- A write that commits is seen whole or not at all: at every epoch before its commit epoch the records of the index are as
they were, and from its commit epoch on every vector of an INSERT is a record unless it has been moved or deleted, and every ID
of a DELETE that was live is deleted. A LABEL_UPDATE is both (R123, R126): before its commit epoch each vector is a record with its old label, and
from then on the old record is deleted and the one with the new label is there. -/
def Obligations.QueriesSeeWholeWrites : Prop :=
  ∀ (tag : Nat) (s t : State) (c : Cmd) (ix : Index), cmdOf s tag = some c → commitDue s c = true → c.index s = some ix →
    ix.held = false → sideUsed ix + newSide ix c (c.ids s) ≤ ix.geo.sideLimit →
    pendCount (facetOf s c.facet) + newPend ix c (c.ids s) ≤ 65536 →
    allJobs c.facet 3 .ended (writeJobs s { ix with work := none } c) s = some t →
    let x := facetOf s c.facet
    let asBefore := fun (u : State) (i : Index) => ∀ e, e ≤ x.epoch →
      sideRecords (facetOf u c.facet) i e = sideRecords x ix e ∧ ∀ l, listRecords (facetOf u c.facet) i l e = listRecords x ix l e
    let joins := fun (u : State) (i : Index) => ∀ e, x.epoch < e → ∀ v ∈ i.side.drop ix.side.length, movedAt i v.app e = false →
      pendingAt (facetOf u c.facet) c.slot (.side v.app) e = false → v ∈ sideRecords (facetOf u c.facet) i e
    let leaves := fun (u : State) => ∀ e, x.epoch < e → ∀ id ∈ liveIds ix (c.ids s), ∀ l, locate ix id = some l →
      pendingAt (facetOf u c.facet) c.slot l e = true
    (c.op = .insert → noRegion s c.facet = false → insertRefusal s ix c (c.ids s) = none →
      Settles (.commit tag) s fun w => ∃ u i, w = floorAdvance c.facet u ∧ idxOf u c.facet c.slot = some i ∧ asBefore u i ∧ joins u i ∧
        (∀ e l, listRecords (facetOf u c.facet) i l e = listRecords x ix l e)) ∧
    (c.op = .delete →
      Settles (.commit tag) s fun w => ∃ u i, w = floorAdvance c.facet u ∧ idxOf u c.facet c.slot = some i ∧ asBefore u i ∧ leaves u) ∧
    (c.op = .labelUpdate → noRegion s c.facet = false →
      Settles (.commit tag) s fun w => ∃ u i, w = floorAdvance c.facet u ∧ idxOf u c.facet c.slot = some i ∧ asBefore u i ∧ joins u i ∧ leaves u ∧
        (i.side.drop ix.side.length).map (·.v) = relabelled t { ix with work := none } c ∧
        ∀ v ∈ i.side.drop ix.side.length, ∃ k, k < c.count ∧ v.v.id = field (16 * k) 8 c.data ∧ v.v.label = field (16 * k + 8) 8 c.data)

/-- A program or erase starts on a ready die for the request it is granted, as a borrowed grant only while no request with
credit waits on the channel, and suspends at its suspend point when an urgent read waits; a suspended segment stays on its die.
The last segment of a program or erase ends: the die has no segment running, and what the work was for is done. A segment with
more to come goes back to the head of its die's queue. No stopped command or deleted pair waits for a segment that has ended or is suspended. -/
def Obligations.FlashSegmentsRun : Prop :=
  ((∀ (ch d : Nat) (s : State) (b : Bool) (g : Seg), dieReady s ch d = true →
     grantAmong s (unitChannel ch) (fun x : Seg => (x.facet, x.cls)) (segFunded s ch) (dieOf s ch d).segs = some (g, b) →
     (b = true → creditedWaits s ch = false) →
     Answers (.flashSegmentStart ch d) s fun t =>
       (dieOf t ch d).run = some { g with borrowed := b, since := now s } ∧ (dieOf t ch d).suspended = false ∧
       (dieOf t ch d).segs = (dieOf s ch d).segs.erase g ∧ (dieOf t ch d).reads = (dieOf s ch d).reads ∧
       t.idx = s.idx ∧ t.cmds = s.cmds) ∧
   (∀ (ch d : Nat) (s : State) (g : Seg),
     grantAmong s (unitChannel ch) (fun x : Seg => (x.facet, x.cls)) (segFunded s ch) (dieOf s ch d).segs = some (g, true) →
     creditedWaits s ch = true → exec (.flashSegmentStart ch d) s = .next s) ∧
   (∀ (ch d : Nat) (s : State) (g : Seg), (dieOf s ch d).run = some g → (dieOf s ch d).suspended = false →
     urgentWaits (dieOf s ch d) = true → (s.flash.dies.any fun x => x.channel == ch && x.die == d) = true →
     Settles (.flashSegmentSuspend ch d) s fun t =>
       (dieOf t ch d).run = some { g with since := now s } ∧ (dieOf t ch d).suspended = true ∧
       (dieOf t ch d).segs = (dieOf s ch d).segs ∧ t.idx = s.idx ∧ t.cmds = (busyEnded (.segment ch d) s).cmds)) ∧
  (∀ (ch d : Nat) (s : State) (g : Seg), (dieOf s ch d).run = some g → (dieOf s ch d).suspended = false →
     (Settles (.flashSegmentComplete ch d .done) s fun w => ∃ u, w = segDone g u ∧ (dieOf u ch d).run = none ∧
       (dieOf u ch d).segs = (dieOf s ch d).segs ∧ u.idx = s.idx ∧ u.cmds = (busyEnded (.segment ch d) s).cmds) ∧
     (g.work ≠ .ended → Settles (.flashSegmentComplete ch d .more) s fun u => (dieOf u ch d).run = none ∧
       (dieOf u ch d).segs = { g with borrowed := false, since := 0 } :: (dieOf s ch d).segs ∧ u.idx = s.idx ∧
       u.cmds = (busyEnded (.segment ch d) s).cmds))

/-- COMPACTION_MOVE of a cluster index whose batch is not empty and needs no rewrite begins it: its units are programmed and nothing of it is seen.
Pieces of it that were not granted go on with the next command; with all of them done and the programs ended, the next one publishes, or programs
again what would not be published as it was written: the moved mark passes the batch at E_m, the facet's next epoch, and no vector of the side list
is lost from it. LIST_REWRITE of the first list that qualifies, with no ID of it locked by a host command, does the same: a new copy of its live
positions is published at the next epoch in front of the old one, and its stacked copy stops serving at that epoch. MODEL'S READING: the commands of a
row that begin, go on and publish are log 46 (DEDUCED), which entries a batch takes when the side list has no room log 106. -/
def Obligations.CompactionAndListRewrite : Prop :=
  (∀ (f slot n : Nat) (s : State) (ix : Index), idxOf s f slot = some ix → ix.geo.mode = 0 →
     let x := facetOf s f
     (∀ cls, ix.staged = none → moveClass s ix = some cls → mayStage s ix cls = true →
       let es := movable s ix (batch s x ix (min n 1024))
       es ≠ [] → Settles (.compactionMove f slot n) s (Begun f slot ix 0 es.length s)) ∧
     (∀ k, ix.staged = some (0, k) → jobsLeft ix = true → Settles (.compactionMove f slot n) s (WentOn f slot ix s)) ∧
     (∀ k, ix.staged = some (0, k) → mayPublish s ix = true → (batch s x ix k).length = k →
       let es := movable s ix (batch s x ix k)
       let p := movePlan s ix ((moveClass s ix).getD 4) es
       es ≠ [] →
       (written ix p = false → Settles (.compactionMove f slot n) s (WentOn f slot ix s)) ∧
       (written ix p = true → Settles (.compactionMove f slot n) s fun u => ∃ i, idxOf u f slot = some i ∧ i.staged = none ∧
         i.moves = ix.moves ++ [⟨movedMark ix, ((es.getLast?).map fun e => e.app + 1).getD 0, x.epoch + 1⟩] ∧
         (facetOf u f).changed = true ∧ ix.side <+: i.side ∧ i.gen = ix.gen ∧ i.geo = ix.geo ∧ u.cmds = s.cmds))) ∧
  (∀ (f slot : Nat) (s : State) (ix : Index), idxOf s f slot = some ix → ix.geo.mode = 0 →
     let x := facetOf s f
     (∀ cls d ds, ix.staged = none → compactClass s f = some cls → rewritable s x ix = d :: ds → listFree s x ix d = true → mayStage s ix cls = true →
       Settles (.listRewrite f slot) s fun u => Begun f slot ix 1 d.num s u ∧ u.mem.stale = s.mem.stale) ∧
     (∀ n, ix.staged = some (1, n) → jobsLeft ix = true → Settles (.listRewrite f slot) s (WentOn f slot ix s)) ∧
     (∀ n, ix.staged = some (1, n) → mayPublish s ix = true →
       let d := listOf ix n
       listFree s x ix d = true → copyFits s x ix d = true →
       (written ix (rewritePlan s ix d) = false → Settles (.listRewrite f slot) s (WentOn f slot ix s)) ∧
       (written ix (rewritePlan s ix d) = true → Settles (.listRewrite f slot) s fun u => ∃ i, idxOf u f slot = some i ∧ i.staged = none ∧
         i.lists = updFirst (·.num == d.num) (fun y => { y with copies := ⟨x.epoch + 1, (curCopy d).gen,
           (keptPos x ix d).map (·.1), (newBases s d.num).1, (newBases s d.num).2⟩ :: y.copies }) ix.lists ∧
         u.mem.stale = s.mem.stale ++ [((f, slot, d.num), x.epoch + 1)] ∧ u.mem.copies = s.mem.copies ∧
         i.side = ix.side ∧ (facetOf u f).changed = true)))

/-- GRAPH_INSERT of a whole unit begins it, and publishes it once all of it is done and programmed as it is to be published: its live entries become
the next nodes of the array, in order and under the next numbers, with neighbours among the live nodes from before, at most the degree; the published
length and the entry set, at most 64 nodes of the array, carry E_g. Which neighbours and entries it takes is the firmware's choice (log 12). MODEL'S
READING: the commands of the row that begin, go on and publish are log 46 (DEDUCED). -/
def Obligations.GraphInsertAppendsNodes : Prop :=
  ∀ (f slot n : Nat) (s : State) (ix : Index), idxOf s f slot = some ix → ix.geo.mode = 1 →
    let x := facetOf s f
    (∀ cls, ix.staged = none → moveClass s ix = some cls → mayStage s ix cls = true →
      let es := unitBatch s x ix (min n 4096)
      es ≠ [] → unitWhole s x ix cls es.length = true → Settles (.graphInsert f slot n) s (Begun f slot ix 2 es.length s)) ∧
    (∀ k, ix.staged = some (2, k) → jobsLeft ix = true → Settles (.graphInsert f slot n) s (WentOn f slot ix s)) ∧
    (∀ k, ix.staged = some (2, k) → mayPublish s ix = true → ix.arrays ≠ [] → (batch s x ix k).length = k →
      let es := batch s x ix k
      let p := insertPlan s ix ((moveClass s ix).getD 4) es
      let live := es.filter fun v => !sideDead x ix v
      let old := (curArray ix).nodes
      let from' := nextNode (curArray ix)
      (written ix p = false → Settles (.graphInsert f slot n) s (WentOn f slot ix s)) ∧
      (written ix p = true → Settles (.graphInsert f slot n) s fun u => ∃ i, idxOf u f slot = some i ∧ i.staged = none ∧
        (curArray i).nodes.length = old.length + live.length ∧
        ((curArray i).nodes.drop old.length).map (·.v) = live.map (·.v) ∧
        ((curArray i).nodes.drop old.length).map (·.num) = (List.range live.length).map (from' + ·) ∧
        (∀ v ∈ (curArray i).nodes.drop old.length, v.birth = x.epoch + 1 ∧ (curNbrs v).length ≤ ix.geo.degree ∧
          ∀ m ∈ curNbrs v, ∃ w ∈ old, w.num = m ∧ nodeGone x ix w = false) ∧
        (curArray i).lengths.head? = some (x.epoch + 1, from' + live.length) ∧
        (∃ ns, (curArray i).entries.head? = some (x.epoch + 1, ns) ∧ ns.length ≤ 64 ∧ ∀ m ∈ ns, ∃ w ∈ (curArray i).nodes, w.num = m) ∧
        (facetOf u f).changed = true))

/-- REPAIR_SWEEP_UNIT begins the sweep's next unit if a record in it is to be repaired, and publishes it once it is programmed; a unit without one is
passed as soon as its read is granted. Either way the sweep then stands at the next unit, or ends with the last; no node is added or removed, and no
vector that is not reclaimed changes. RENUMBERING that is due: without the HBM for a second copy it is deferred; with it, it begins, and the array is
then published whole at E_n under the order of R206, as the graph stood when it began. MODEL'S READING: the commands of a row that begin, go on and
publish are log 46 (DEDUCED), the units themselves log 68. -/
def Obligations.SweepAndRenumbering : Prop :=
  (∀ (f slot : Nat) (s : State) (ix : Index), idxOf s f slot = some ix → ix.geo.mode = 1 → ix.trans = none → ix.arrays ≠ [] →
     let w := sweepOf (facetOf s f) ix
     let last := nextNode (curArray ix)
     let passed := fun (u : State) => ∃ i, idxOf u f slot = some i ∧ i.staged = none ∧
       (curArray i).nodes.map (·.num) = (curArray ix).nodes.map (·.num) ∧
       ((curArray i).nodes.filter (!·.reclaimed)).map (·.v) = ((curArray ix).nodes.filter (!·.reclaimed)).map (·.v) ∧
       (last ≤ perGraphUnit ix.geo * (w.unit + 1) → i.sweep = none ∧ i.lastSweep = w.num) ∧
       (perGraphUnit ix.geo * (w.unit + 1) < last → i.sweep = some { w with unit := w.unit + 1 })
     (∀ cls, ix.staged = none → compactClass s f = some cls → mayStage s ix cls = true →
       ((sweepStep s ix w).2 = true →
         Settles (.repairSweepUnit f slot) s fun u => Begun f slot { ix with sweep := some w } 3 w.unit s u) ∧
       ((sweepStep s ix w).2 = false → (allJobs f cls .ended (pageJobs s [⟨f, slot, 2, 0, w.unit⟩]) s).isSome = true →
         Settles (.repairSweepUnit f slot) s fun u => passed u ∧ (facetOf u f).changed = (facetOf s f).changed) ∧
       ((sweepStep s ix w).2 = false → allJobs f cls .ended (pageJobs s [⟨f, slot, 2, 0, w.unit⟩]) s = none →
         exec (.repairSweepUnit f slot) s = .next s)) ∧
     (∀ k, ix.staged = some (3, k) → jobsLeft ix = true → Settles (.repairSweepUnit f slot) s (WentOn f slot ix s)) ∧
     (∀ k, ix.staged = some (3, k) → mayPublish s ix = true →
       (written ix (sweepPlan s ix w) = false → Settles (.repairSweepUnit f slot) s (WentOn f slot ix s)) ∧
       (written ix (sweepPlan s ix w) = true →
         Settles (.repairSweepUnit f slot) s fun u => passed u ∧ (facetOf u f).changed = true))) ∧
  (∀ (f slot : Nat) (s : State) (ix : Index), idxOf s f slot = some ix → ix.geo.mode = 1 →
     let need := arrayHbm ix.geo (nextNode (curArray ix))
     (ix.staged = none → mayStage s ix 4 = true → renumberDue s ix = true →
       (hbmFree s f < need →
         Answers (.renumbering f slot) s fun t => (idxOf t f slot) = some { ix with renumDeferred := true } ∧
           t = { s with idx := t.idx, facets := t.facets, evr := t.evr, hif := t.hif, out := t.out } ∧ Told s t) ∧
       (need ≤ hbmFree s f → Settles (.renumbering f slot) s fun u => ∃ w, w.order = newOrder (curArray ix) ∧
         idxOf u f slot = some { ix with staged := some (4, 0), work := some w } ∧ (facetOf u f).changed = (facetOf s f).changed)) ∧
     (∀ k, ix.staged = some (4, k) → jobsLeft ix = true → Settles (.renumbering f slot) s (WentOn f slot ix s)) ∧
     (∀ k, ix.staged = some (4, k) → ix.trans = none → mayPublish s ix = true →
       let a := renumber ((facetOf s f).epoch + 1) ((ix.work.map (·.order)).getD (newOrder (curArray ix))) (curArray ix)
       (written ix (renumberPlan s ix) = false → Settles (.renumbering f slot) s (WentOn f slot ix s)) ∧
       (written ix (renumberPlan s ix) = true →
       Settles (.renumbering f slot) s fun u => ∃ i, idxOf u f slot = some i ∧ i.staged = none ∧ i.arrays.drop 1 = ix.arrays ∧
         (curArray i).pub = a.pub ∧ (curArray i).lengths = a.lengths ∧ (curArray i).entries = a.entries ∧
         (curArray i).nodes.map (fun n => (n.num, n.nbrs, n.sketches)) = a.nodes.map (fun n => (n.num, n.nbrs, n.sketches)) ∧
         i.insertedSince = 0 ∧ (facetOf u f).changed = true)))

/-- RESKETCH_STEP, from E_s on, begins the next list, or the next 65,536 nodes, under the new generation, and publishes them at the next epoch once
they are programmed: each position or node carries the sketch of its vector under the new generation. Once nothing is left at the old one, the
transition ends, the old W is released at E_end, and RESKETCH completes with g + 1, E_s and E_end. Where no list is left to re-sketch, it stands
behind the last and waits for the side list's entries of the old generation. MODEL'S READING: the commands of the row that begin, go on and publish
are log 46 (DEDUCED), an end without its command log 32. -/
def Obligations.ResketchStepsAndEnds : Prop :=
  ∀ (f slot : Nat) (s : State) (ix : Index) (w : Transition), idxOf s f slot = some ix → ix.trans = some w → w.es ≤ (facetOf s f).epoch →
    let e := (facetOf s f).epoch + 1
    let far := lengthAt (curArray ix) (2 ^ 48)
    (ix.staged = none → noRegion s f = false → mayStage s ix 5 = true →
      (transDone ix w = true →
        Settles (.resketchStep f slot) s fun v => ∃ u,
          (∀ c, cmdOf s w.tag = some c → c.op = .resketch → v = succeed c (leBytes 4 ix.gen ++ leBytes 6 w.es ++ leBytes 6 e) u) ∧
          (cmdOf s w.tag = none → v = u) ∧
          idxOf u f slot = some { ix with trans := none, released := ix.released ++ [(w.old, e)] } ∧ (facetOf u f).changed = true) ∧
      (transDone ix w = false → (ix.geo.mode = 0 ∧ nextList ix w ≠ none ∨ ix.geo.mode ≠ 0 ∧ w.next < far) →
        Settles (.resketchStep f slot) s (Begun f slot ix 5 w.next s)) ∧
      (transDone ix w = false → ix.geo.mode = 0 → nextList ix w = none →
        exec (.resketchStep f slot) s = .next (settle (updIdx f slot (fun i => { i with trans := some { w with next := listCount ix.geo } }) s)))) ∧
    (∀ k, ix.staged = some (5, k) → jobsLeft ix = true → Settles (.resketchStep f slot) s (WentOn f slot ix s)) ∧
    (∀ k p, ix.staged = some (5, k) → mayPublish s ix = true → resketchPlan s ix w = some p → written ix p = false →
      Settles (.resketchStep f slot) s (WentOn f slot ix s)) ∧
    (∀ k p, ix.staged = some (5, k) → mayPublish s ix = true → resketchPlan s ix w = some p → written ix p = true →
      (∀ d, ix.geo.mode = 0 → nextList ix w = some d →
        Settles (.resketchStep f slot) s fun u => (∃ i, idxOf u f slot = some i ∧ i.staged = none ∧ i.trans = some { w with next := d.num + 1 } ∧
          i.lists = updFirst (·.num == d.num) (resketchList s e ix) ix.lists ∧ i.side = ix.side) ∧
          u.mem.stale = s.mem.stale ++ [((f, slot, d.num), e)] ∧ (facetOf u f).changed = true) ∧
      (ix.geo.mode = 1 → w.next < far → ix.arrays ≠ [] →
        Settles (.resketchStep f slot) s fun u => ∃ i, idxOf u f slot = some i ∧ i.staged = none ∧ i.trans = some { w with next := w.next + 65536 } ∧
          (curArray i).nodes.map (·.v) = (curArray ix).nodes.map (·.v) ∧ (facetOf u f).changed = true ∧
          (curArray i).nodes.map (·.sketches) = (curArray ix).nodes.map (fun n =>
            if w.next ≤ n.num ∧ n.num < w.next + 65536 then (e, ix.gen, (sketchUnder s ix ix.gen n.v.vec).1) :: n.sketches else n.sketches)))

/-- LOG_CHECKPOINT, once granted, puts the state on flash as of the closed epoch, trims the log up to what is not closed, and ends forced
durability. Promotion, after 1,024 turns and no sooner, and patrol scrub, once granted, change nothing but the memory's own state, what credit has
been spent, and the facets' counters. A flash unit to be rebuilt has its copy programmed once that is granted, and is rebuilt, named by the page map
from the next epoch on, when that program has ended. A block with more than 8 re-reads is left: its count starts again, and it is retired once nothing
is read from it any more, and at once where nothing is; flash spare low is recorded once in an operating day. MODEL'S READING: the copies begun by the
row, and the switch when they are on flash, are log 109 (DESIGN CHOICE), the spare reserve that is left log 13. -/
def Obligations.MemoryAndFlashUpkeep : Prop :=
  let upkeep := fun (s t : State) =>
    t = { s with facets := t.facets, srch := t.srch, flash := t.flash, mem := t.mem } ∧
    t.srch = { s.srch with spent := t.srch.spent, bytes := t.srch.bytes, turnTicks := t.srch.turnTicks } ∧
    ∀ f, facetOf t f = { facetOf s f with ctr := (facetOf t f).ctr }
  (∀ s : State,
     (∀ f, (facetOf s f).state ≠ 0 → programsHeld s = false → (allJobs f 4 .ended [ingestJob s] s).isSome = true →
       Answers (.logCheckpoint f) s fun t => t = { s with facets := t.facets, srch := t.srch, free := t.free } ∧
         (facetOf t f).forced = false ∧ (facetOf t f).ckptEpoch = (facetOf s f).closed ∧ (facetOf t f).log = (facetOf s f).log ∧
         (facetOf t f).logFrom = ((facetOf s f).log.map (·.first)).foldl min (facetOf s f).logUnits ∧
         (facetOf t f).epoch = (facetOf s f).epoch ∧ (facetOf t f).closed = (facetOf s f).closed) ∧
     (∀ f, allJobs f 4 .ended [ingestJob s] s = none → exec (.logCheckpoint f) s = .next s) ∧
     (∀ f, mayGrant s 4 false = false → exec (.logCheckpoint f) s = .next s) ∧
     (clocked s = true → 1024 ≤ s.mem.cycleTurns → Answers .promotionCycle s fun t => upkeep s t ∧ t.flash = s.flash ∧
       t.mem = { s.mem with copies := t.mem.copies, slices := t.mem.slices, listBytes := t.mem.listBytes, cycleTurns := 0 }) ∧
     (s.mem.cycleTurns < 1024 → exec .promotionCycle s = .next s) ∧
     (∀ hbm flash, clocked s = true → mayGrant s 7 false = true →
       let reads := s.cfg.facets.foldl
         (fun (acc : Option State) r => acc.bind fun t => allJobs r.facet 7 .ended (patrolJobs t hbm flash r.facet) t) (some s)
       (reads = none → exec (.patrolScrub hbm flash) s = .next s) ∧
       (reads.isSome = true → Answers (.patrolScrub hbm flash) s fun t => upkeep s t ∧
         t.flash = { s.flash with rereads := if flash then [] else s.flash.rereads } ∧
         t.mem = { s.mem with hbmPasses := s.mem.hbmPasses + (if hbm then 1 else 0), rowErrs := if hbm then [] else s.mem.rowErrs,
                              flashPasses := s.mem.flashPasses + (if flash then 1 else 0) }))) ∧
  (∀ s : State,
     (∀ f sl st l n, let u : Unit' := ⟨f, sl, st, l, n⟩
       let old := pageOf s u
       let work := SegWork.move u old.1 (newPage s u) old.2
       (u ∉ s.flash.rebuilding → exec (.flashUnitRebuilt f sl st l n) s = .next s) ∧
       (u ∈ s.flash.rebuilding → moving s u old.1 = false →
         (allJobs f 7 work (groupJobs s u ++ programJobs [placeOf s u]) (useFree s)).isSome = true →
         Answers (.flashUnitRebuilt f sl st l n) s fun t => t.flash.rebuilding = s.flash.rebuilding ∧ t.flash.pages = s.flash.pages ∧
           (∃ d ∈ t.flash.dies, ∃ g ∈ d.segs, g.work = work ∧ g.cls = 7) ∧
           t = { s with flash := t.flash, facets := t.facets, srch := t.srch, free := t.free })) ∧
     (∀ (u : Unit') (word gen : Nat) (g : Seg), g.work = .move u (pageOf s u).1 word gen →
       let t := segDone g s
       (u, commitEpoch (facetOf s u.facet), word, gen) ∈ t.flash.pages ∧ t.flash.rebuilding = s.flash.rebuilding.erase u ∧
       (facetOf t u.facet).changed = true ∧ t.idx = s.idx) ∧
     (∀ ch d pl blk, 8 < s.flash.rereads.get (blockKey ch d pl blk) → Answers (.flashBlockRetired ch d pl blk) s fun t =>
       t.flash.rereads = s.flash.rereads.filter (·.1 != blockKey ch d pl blk) ∧
       ((ch, d, pl, blk) ∈ t.flash.leaving ∨ blockKey ch d pl blk ∈ t.flash.bad) ∧ t.flash.sparePm ≤ s.flash.sparePm ∧
       (s.flash.leaving = [] → unitsIn s (ch, d, pl, blk) = [] → blockEmpty s (ch, d, pl, blk) = true → blockKey ch d pl blk ∉ s.flash.bad →
         t.flash.retired = s.flash.retired + 1 ∧ blockKey ch d pl blk ∈ t.flash.bad) ∧
       t = { s with flash := t.flash, mem := t.mem, evr := t.evr, hif := t.hif, out := t.out, facets := t.facets, srch := t.srch, free := t.free } ∧
       Told s t) ∧
     (∀ ch d pl blk, s.flash.rereads.get (blockKey ch d pl blk) ≤ 8 → exec (.flashBlockRetired ch d pl blk) s = .next s) ∧
     (86400000000000 * (s.flash.dayNo + 1) ≤ s.brd.opNs → Answers .operatingDayEnd s fun t =>
       t.flash = { s.flash with spareDayDone := decide (s.flash.sparePm < 50), dayNo := s.brd.opNs / 86400000000000 } ∧
       t = { s with flash := t.flash, evr := t.evr, hif := t.hif, out := t.out } ∧ Told s t) ∧
     (s.brd.opNs < 86400000000000 * (s.flash.dayNo + 1) → exec .operatingDayEnd s = .next s))

/-- The wait-for check finds a cycle when one producer serves both streams: a stalled stream that has waited 4 ticks and is new to its region gets as
many escape buffers as its cycle's older stream needs, at most 16 and what the pool and the stream tags leave, and one that still needs some is served
again 4 ticks on at the earliest. Without a cycle, or before the wait, nothing happens. A stream block that fails its CRC is re-sent the first three
times and delivered poisoned after that, and what holds it is rebuilt: each failure is counted, and the resend count of the block is kept until then.
A block whose CRC is the one that the block check store keeps has not failed. -/
def Obligations.StreamsAreCheckedAndResent : Prop :=
  (∀ (w : Stall) (s : State),
     let pool := s.mem.escapes.getD w.region 0
     let o := olderStream w
     let n := min (min pool ((4096 - tagsTaken s) / 2)) (min 16 o.2)
     (clocked s = true → w.producer = w.otherProducer → stallWaited s w = true → (s.mem.stalls.all fun x => x.1.region != w.region) = true → 0 < n →
       Answers (.waitForCheck w) s fun t =>
         t.mem.escapes = s.mem.escapes.set w.region (pool - n) ∧ t.mem.grants = s.mem.grants ++ [(w.region, w.facet, o.1, n)] ∧
         (min 16 o.2 ≤ n → t.mem.stalls = s.mem.stalls) ∧
         (n < min 16 o.2 → t.mem.stalls = s.mem.stalls ++ [(lessNeed n w, some (now s))]) ∧
         t = { s with mem := { s.mem with escapes := t.mem.escapes, grants := t.mem.grants, stalls := t.mem.stalls, streams := t.mem.streams },
                      evr := t.evr, facets := t.facets, hif := t.hif, out := t.out } ∧ Told s t) ∧
     (clocked s = true → w.producer = w.otherProducer → (s.mem.stalls.any fun x => sameStall w x.1) = true →
       (s.mem.stalls.all fun x => !stallDue s w.region x) = true → exec (.waitForCheck w) s = .next s) ∧
     (w.producer ≠ w.otherProducer ∨ stallWaited s w = false → exec (.waitForCheck w) s = .next s)) ∧
  (∀ (c : Consumer) (b : Nat) (crc : BitVec 32) (s : State), consumerFacet s c < 64 →
     (storedCheck s c b = some crc → exec (.streamBlockResend c ⟨b, crc⟩) s = .next s) ∧
     (storedCheck s c b ≠ some crc → look 0 (c, b) s.srch.resends < 3 → Answers (.streamBlockResend c ⟨b, crc⟩) s fun t =>
       look 0 (c, b) t.srch.resends = look 0 (c, b) s.srch.resends + 1 ∧
       t = { s with mem := t.mem, facets := t.facets, srch := { s.srch with resends := t.srch.resends } }) ∧
     (storedCheck s c b ≠ some crc → 3 ≤ look 0 (c, b) s.srch.resends → Answers (.streamBlockResend c ⟨b, crc⟩) s fun t =>
       ∃ u, t = rebuildBlock c b (poison c b u) ∧ (u.srch.resends.all fun p => p.1 != (c, b)) = true ∧ Told s u ∧
         u = { s with mem := u.mem, facets := u.facets, evr := u.evr, hif := u.hif, out := u.out, srch := { s.srch with resends := u.srch.resends } }))

/-- An OPTIMISER_STEP of a TRAIN that is ending ends the command; else it takes the next B triples of the order, the last of an epoch taking what is
left of it, and counts the step. Behind the last triples of an epoch the next one begins with a new order, and behind those of the last epoch the
command completes with what the steps have learned. A step that the engines or the memory of its workspace do not grant waits. MODEL'S READING: how
the shuffle draws, and where it starts from, are logs 41 and 117. -/
def Obligations.OptimiserStepsCount : Prop :=
  ∀ (tag : Nat) (s : State) (j : TrainJob) (c : Cmd) (ix : Index),
    s.srch.train.find? (·.tag == tag) = some j → cmdOf s tag = some c → c.index s = some ix → j.phase = 3 →
    let ts := ((j.order.drop (c.bb * j.step)).take c.bb).filterMap fun i => j.triples[i]?
    let nodes := ((j.adapterSlot.bind (modelRec s j.facet)).map (·.nodes)).getD []
    let r := (trainStep ix c nodes (if j.step == 0 then { j with loss := 0 } else j) ts).1
    let o := epochOrder j.prng j.triples.length
    let more := { r with step := j.step + 1, steps := j.steps + 1 }
    let next := { r with step := 0, epochNo := j.epochNo + 1, steps := j.steps + 1, order := o.2, prng := o.1 }
    (j.ending = true → exec (.optimiserStep tag) s = .next (settle (abortTrain c s))) ∧
    (j.ending = false → stepGrant c ix j ts.length s = none → exec (.optimiserStep tag) s = .next (settle s)) ∧
    (j.ending = false → (stepGrant c ix j ts.length s).isSome = true →
      (c.bb * (j.step + 1) < j.order.length →
        Settles (.optimiserStep tag) s fun u => u.srch.train.find? (·.tag == tag) = some more ∧ u.cmds = s.cmds ∧ u.idx = s.idx) ∧
      (j.order.length ≤ c.bb * (j.step + 1) → j.epochNo + 1 < c.ee →
        Settles (.optimiserStep tag) s fun u => u.srch.train.find? (·.tag == tag) = some next ∧ u.cmds = s.cmds ∧ u.idx = s.idx) ∧
      (j.order.length ≤ c.bb * (j.step + 1) → c.ee ≤ j.epochNo + 1 →
        Settles (.optimiserStep tag) s fun v => ∃ u, v = endTrain c next u ∧ u.cmds = s.cmds ∧ u.idx = s.idx ∧ u.mods = s.mods) ∧
      (∀ u, bit 0 (c.ar 2 1) = true → (idxOf u j.facet j.slot).isSome = true →
        (idxOf (endTrain c next u) j.facet j.slot).map (·.pendingProj) = some (some (bfCodes next.w))))

-- Configuration, facets, power.

/-- With every I/O command ended a full load is applied, and a partial one once the facets of its regions are quiesced: the configuration that the
image gives is in force, LAT_STATUS shows state 0, and the load is counted; a fault in a region while it is applied, by the operand of the row or by a
REGION_FENCED, fails the load, leaves the configuration, and the facets that own a block in the region are ACTIVE no more. MODEL'S READING: which
regions are affected is log 105 (DESIGN CHOICE), the rounding of the time log 81, the region number as the fault log 74. -/
def Obligations.LatticeLoadsApplyOrFail : Prop :=
  ∀ (s : State) (l : Load), s.lat.load = some l →
    let failed := fun (r : Nat) (w : State) => w.lat.load = none ∧ w.cfg = s.cfg ∧
      w.lat.refused = s.lat.refused + 1 ∧ w.srch.regionsOut.contains r = true ∧ ∀ x ∈ regionOwners s r, (facetOf w x.facet).state ≠ 1
    let quiet := ((loadFacets s l).all fun f => (facetOf s f).paused && facetIdle s f) = true
    (l.part = false → drained s = true →
      (∃ w, exec (.latticeApply none) s = .next (countHealth s (settle w)) ∧ w.lat.load = none ∧ w.lat.st = 0 ∧
        w.lat.active = l.target ∧ w.lat.loads = s.lat.loads + 1 ∧ w.cfg = l.cfg) ∧
      (∀ r, ∃ w, exec (.latticeApply (some r)) s = .next (countHealth s (settle w)) ∧ failed r w) ∧
      (∀ r unit, clocked s = true → s.srch.regionsOut.contains r = false → Settles (.regionFenced r unit) s (failed r))) ∧
    (l.part = true → quiet →
      (∀ mib, ∃ w, exec (.regionReshape mib none) s = .next (countHealth s (settle w)) ∧ w.lat.load = none ∧ w.lat.st = 0 ∧
        w.lat.reshapeUs = min 420 (180 + (5 * mib + 1) / 2) ∧ w.lat.loads = s.lat.loads + 1 ∧ w.cfg = l.cfg) ∧
      (∀ mib r, ∃ w, exec (.regionReshape mib (some r)) s = .next (countHealth s (settle w)) ∧ failed r w) ∧
      (∀ r unit, clocked s = true → bit r l.mask = true → s.srch.regionsOut.contains r = false → Settles (.regionFenced r unit) s (failed r)))

/-- A power state is entered once what must end has ended: the selected state is in force, no transition runs, and PS0 restores
1.4 GHz; 1 s without an end of the entry to PS3 leaves the module in PS2 with BUSY. Above a locked cap the power limiter acts:
it is set, counted once, and lowers the clock by 100 MHz at most every 50 µs, never under 100 MHz, the model's own floor (log 48); well under both
caps for 10 ms it ends, and the clock is 1.4 GHz again unless the brake, a temperature or a lower cap holds it down (log 48). -/
def Obligations.PowerStatesAndLimiter : Prop :=
  (∀ (s : State) (w : PsTrans) (c : Cmd), s.brd.trans = some w → cmdOf s w.tag = some c →
     let goes := fun (n : Nat) => { s with brd := { s.brd with
       trans := none, psNow := n, psSel := n, coreMhz := if n = 0 ∧ s.brd.limiter = false ∧ clockHeld s = false then 1400 else s.brd.coreMhz } }
     (entryDone s w = true → exec .powerStateEntry s =
       .next (countHealth s (settle (succeed c (leBytes 8 w.target) (countHealth s (goes w.target)))))) ∧
     (entryDone s w = false → exec .powerStateEntry s = .next (countHealth s s)) ∧
     (w.target = 3 → w.since + 1000000000 ≤ now s → exec .ps3EntryTimeout s =
       .next (countHealth s (settle (finish c 5 0 0 [] running0 (countHealth s (goes 2))))))) ∧
  (∀ (mV mA : Nat) (s : State), s.brd.mainPower = true →
     (1000 * s.fnc.power < mV * mA / 1000 →
       ∃ u, exec (.powerLimiter mV mA) s = .next (countHealth s u) ∧ u.brd.limiter = true ∧ u.brd.mV = mV ∧ u.brd.mA = mA ∧
         u.brd.coreMhz = (if s.brd.overSince.any fun x => x + 50000 ≤ now s then max 100 (s.brd.coreMhz - 100) else s.brd.coreMhz) ∧
         Told s u ∧ u = { s with brd := u.brd, mem := u.mem, evr := u.evr, hif := u.hif, out := u.out }) ∧
     (s.brd.limiter = false → s.brd.overSince = none → s.brd.cleanSince = none →
       overCap { s with brd := { s.brd with mV := mV, mA := mA } } = false →
       exec (.powerLimiter mV mA) s = .next (countHealth s { s with brd := { s.brd with mV := mV, mA := mA } })) ∧
     (∀ since, s.brd.limiter = false → s.brd.cleanSince = some since → since + 10000000 ≤ now s →
       overCap { s with brd := { s.brd with mV := mV, mA := mA } } = false → wellUnder { s with brd := { s.brd with mV := mV, mA := mA } } = true →
       ∃ u, exec (.powerLimiter mV mA) s = .next (countHealth s (settle u)) ∧ u.brd.coreMhz = (if underAll { s with brd := { s.brd with mV := mV, mA := mA } } = true ∧ clockHeld s = false then 1400 else s.brd.coreMhz) ∧
         u = { s with brd := u.brd }))

-- Faults.

/-- A keep-alive interval that passes without a valid doorbell freezes every I/O pair of the facet with cause KEEP_ALIVE, and the facet where it can
be FROZEN.
The scrub of a teardown goes on as far as it is granted, and one that has run out lets the facet wait for its turn boundary. 10 ms without a check-in expire a
processor's watchdog: the pairs of facets with a block in its region, and for processor 0 the admin queue, freeze with cause WATCHDOG; its next check-in starts it again, and that of processor 0 takes the
cause off the admin queue. -/
def Obligations.TimersFreezeFacetsAndProcessors : Prop :=
  (∀ (f : Nat) (s : State),
     (kaRuns s f = true → (s.qps.any fun q => q.num != 0 && q.facet == f && !q.causes.contains 3) = true →
       (facetOf s f).kaSince + 1000000 * (facetOf s f).kaMs ≤ now s →
       Answers (.keepAliveLapse f) s fun t => t = { s with qps := t.qps, facets := t.facets, evr := t.evr, hif := t.hif, out := t.out } ∧ Told s t ∧
         t.qps = s.qps.map (fun q => if q.num != 0 && q.facet == f then freezeQp 3 q else q) ∧
         ((facetOf s f).state = 1 ∨ (facetOf s f).state = 2 → (facetOf t f).state = 2) ∧
         ((facetOf s f).state ≠ 1 → (facetOf s f).state ≠ 2 → t.facets = s.facets)) ∧
     (now s < (facetOf s f).kaSince + 1000000 * (facetOf s f).kaMs → exec (.keepAliveLapse f) s = .next s) ∧
     ((facetOf s f).teardown = some 4 → scrubLeft s f = false →
       Answers (.facetScrubComplete f) s fun t => t = { s with facets := t.facets } ∧ (facetOf t f).teardown = some 5) ∧
     ((facetOf s f).teardown = some 4 → scrubLeft (scrubOn s f) f = true →
       Answers (.facetScrubComplete f) s fun t => (facetOf t f).teardown = some 4 ∧ t.idx = s.idx ∧ t.cmds = s.cmds ∧
         ∀ g, g ≠ f → facetOf t g = facetOf s g)) ∧
  (∀ (p : Nat) (s : State), clocked s = true →
     (s.srch.expired.contains p = false → look 0 p s.srch.watch + 10000000 ≤ now s →
       Answers (.watchdog p) s fun t => p ∈ t.srch.expired ∧
         t.qps = s.qps.map (fun q =>
           if (if q.num == 0 then p == 0 else (facetRec s q.facet).any fun r => r.regions.contains p) then freezeQp 5 q else q) ∧
         Told s t ∧ t = { s with qps := t.qps, srch := { s.srch with expired := t.srch.expired }, mem := t.mem, evr := t.evr, hif := t.hif,
                                 out := t.out, free := s.free + 1 }) ∧
     (s.fw.running < 2 →
       Answers (.firmwareCheckIn p) s fun t => look 0 p t.srch.watch = now s ∧ p ∉ t.srch.expired ∧
         (∀ q, p = 0 → s.srch.expired.contains 0 = true → qpOf t 0 = some q → 5 ∉ q.causes) ∧
         t = { s with qps := t.qps, srch := { s.srch with watch := t.srch.watch, expired := t.srch.expired } }))

/-- A cell, a block or a region that is fenced is out of use behind that command, whatever it held; a region that is out already stays so. A
chip fatal error freezes every pair with cause FATAL, and the module waits for a module reset. -/
def Obligations.FencesAndFatalErrors : Prop :=
  (∀ s : State, clocked s = true →
     (∀ c w, cellLive s c = true → Settles (.cellFenced c w) s fun u => c ∈ u.srch.cellsOut ∧ cellLive u c = false) ∧
     (∀ c v, cellLive s c = true → (cellOf s c).run = some v → (cellOf s c).held + 4096000 / max 1 s.brd.coreMhz ≤ now s →
       Settles (.lostProgress c) s fun u => c ∈ u.srch.cellsOut) ∧
     (∀ b w, b ∉ s.srch.blocksOut → Settles (.blockFenced b w) s fun u => b ∈ u.srch.blocksOut) ∧
     (∀ b, b ∉ s.srch.blocksOut → Settles (.heartbeatLapse b) s fun u => b ∈ u.srch.blocksOut) ∧
     (∀ r w, r ∉ s.srch.regionsOut → Settles (.regionFenced r w) s fun u => r ∈ u.srch.regionsOut) ∧
     (∀ r w, r ∈ s.srch.regionsOut → exec (.regionFenced r w) s = .next (settle s))) ∧
  (∀ (unit : Nat) (s : State), clocked s = true →
     ∃ u, exec (.chipFatal unit) s = .next (countHealth s u) ∧ u.brd = { s.brd with fatal := true, fatalUnit := unit } ∧
       u.qps = s.qps.map (freezeQp 6) ∧ Told s u ∧
       u = { s with brd := u.brd, qps := u.qps, evr := u.evr, hif := u.hif, out := u.out, free := s.free + 4 })

/-- A failing HBM row is remapped while its bank has a spare; otherwise its frame is retired, once, and replaced from the pool, and an empty pool
freezes every facet with data in it. An uncorrectable one makes the queries whose contexts lie there PARTIAL, and the frame is rebuilt from flash. A
rebuilt frame leaves the list once its work is granted, and after a retirement its structures use the replacement. An uncorrectable error in stacked
memory: a cache copy is dropped; what read scratchpad or merge state carries PARTIAL; one in the tag table is fatal. MODEL'S READING: where firmware
puts structures, contexts and frames is log 13. -/
def Obligations.MemoryErrorsAreContained : Prop :=
  (∀ (stack ch bank row frame : Nat) (k : Bool) (s : State), clocked s = true →
     let spare := s.mem.remapped.contains (stack, ch, bank, row) = false ∧ 0 < sparesLeft s stack ch bank
     let s0 := if k then s else loseRun stack ch frame s
     let first := (stack, frame) ∉ s.mem.retired
     let retired := fun (u : State) => u.mem.retired = s.mem.retired ++ [(stack, frame)] ∧
       u.mem.degraded = (s.mem.degraded || (s.mem.retired.length + 1 == 4096)) ∧ Told s u
     (k = false → (∀ q ∈ s0.srch.queries, q.ctx ∈ contextsAt stack ch frame → q.partialFlag = true) ∧
       s0 = { s with srch := { s.srch with queries := s0.srch.queries, enc := s0.srch.enc, train := s0.srch.train } }) ∧
     (spare → ∃ u, exec (.hbmRowFailure stack ch bank row frame k) s = .next (countHealth s u) ∧
       u.mem.remapped = s.mem.remapped ++ [(stack, ch, bank, row)] ∧ u.mem.softRepairs = s.mem.softRepairs + 1 ∧
       u.mem.rebuilding = s.mem.rebuilding ++ [(stack, frame, false, !k)] ∧
       u.mem.retired = s.mem.retired ∧ Told s u ∧ u = { s0 with mem := u.mem, evr := u.evr, hif := u.hif, out := u.out }) ∧
     (¬ spare → first → 0 < s.mem.pool → ∃ u, exec (.hbmRowFailure stack ch bank row frame k) s = .next (countHealth s u) ∧ retired u ∧
       u.mem.pool = s.mem.pool - 1 ∧ u.mem.rebuilding = s.mem.rebuilding ++ [(stack, frame, true, !k)] ∧
       u = { s0 with mem := u.mem, evr := u.evr, hif := u.hif, out := u.out }) ∧
     (¬ spare → first → s.mem.pool = 0 → ∃ u, exec (.hbmRowFailure stack ch bank row frame k) s = .next (countHealth s u) ∧ retired u ∧
       u.mem.pool = 0 ∧ u.mem.rebuilding = s.mem.rebuilding ∧
       (∀ f ∈ frameHolders s stack frame, (facetOf u f).state ≠ 1) ∧
       u.qps.length = s.qps.length ∧
       (∀ q ∈ u.qps, q.num ≠ 0 → q.facet ∈ frameHolders s stack frame → 4 ∈ q.causes ∧ q.state ≠ 1) ∧
       u = { s0 with mem := u.mem, facets := u.facets, qps := u.qps, evr := u.evr, hif := u.hif, out := u.out }) ∧
     (¬ spare → ¬ first → ∃ u, exec (.hbmRowFailure stack ch bank row frame k) s = .next (countHealth s u) ∧
       u = { s0 with mem := u.mem } ∧ u.mem = { s.mem with ras := u.mem.ras, rowErrs := u.mem.rowErrs }) ∧
     (∀ r, s.mem.rebuilding.find? (·.2.1 == frame) = some r →
       let into := if r.2.2.1 then nextFrame s else (r.1, r.2.1)
       let work := chargeRebuild r.1 r.2.1 (rebuildJobs s r.1 r.2.2.2 into.1) s
       (work = none → exec (.frameRebuild frame) s = .next s) ∧
       (work.isSome = true → Answers (.frameRebuild frame) s fun t => t = { s with mem := t.mem, facets := t.facets, srch := t.srch } ∧
         t.mem.rebuilding = s.mem.rebuilding.erase r ∧ t.srch.queries = s.srch.queries ∧
         (r.2.2.1 = false → t.mem.moved = s.mem.moved) ∧ (r.2.2.1 = true → ((r.1, r.2.1), nextFrame s) ∈ t.mem.moved) ∧
         t.mem.pool = s.mem.pool + (if r.2.2.1 && s.mem.pool < 64 && 65536 ≤ uncharged s then 1 else 0)))) ∧
  (∀ (n a : Nat) (s : State), clocked s = true →
     (∀ f sl l, ∃ u, exec (.stackedUncorrectable n a (.cacheCopy f sl l)) s = .next (countHealth s u) ∧
       u.mem.copies = s.mem.copies.filter (fun c => !(c.1 == f && c.2.1 == sl && c.2.2.1 == l)) ∧
       (∀ x ∈ u.srch.cells, ∀ v, x.run = some v → v.facet = f → v.slot = sl → v.key = l → v.copy = false) ∧ Told s u ∧
       u = { s with mem := u.mem, evr := u.evr, hif := u.hif, out := u.out, srch := { s.srch with cells := u.srch.cells } }) ∧
     (∀ t, ∃ u, exec (.stackedUncorrectable n a (.scratchpad t)) s = .next (countHealth s u) ∧
       (∀ q ∈ u.srch.queries, ofTag t q = true → q.partialFlag = true) ∧
       (∀ j, u.srch.enc.find? (·.tag == t) = some j → j.partialFlag = true) ∧
       (∀ j, u.srch.train.find? (·.tag == t) = some j → j.partialFlag = true) ∧ Told s u ∧
       u = { s with mem := u.mem, evr := u.evr, hif := u.hif, out := u.out,
                    srch := { s.srch with queries := u.srch.queries, enc := u.srch.enc, train := u.srch.train } }) ∧
     (∀ x, ∃ u, exec (.stackedUncorrectable n a (.mergeState x)) s = .next (countHealth s u) ∧
       u.srch.queries = s.srch.queries.map (fun q => if q.ctx == x then { q with partialFlag := true } else q) ∧ Told s u ∧
       u = { s with mem := u.mem, evr := u.evr, hif := u.hif, out := u.out, srch := { s.srch with queries := u.srch.queries } }) ∧
     (∃ u, exec (.stackedUncorrectable n a .tagTable) s = .next (countHealth s u) ∧ u.brd.fatal = true ∧ u.brd.fatalUnit = 1 ∧
       u.qps = s.qps.map (freezeQp 6)))

/-- A sensor's state follows its temperature by the points of its part, kept until the clear point; a change is recorded with the temperature, the
new and the old state, and drives HOT_ALERT# where its level changes. A throttled die less than 2 °C below its point lowers the clock. At the trip
point main power goes at once, the latch holds HOT_ALERT#, and the module is fatal. MODEL'S READING: the clock's step and its floor of 100 MHz are
log 48 (DEDUCED). -/
def Obligations.TemperaturesRuleTheState : Prop :=
  ∀ (n : Nat) (t : Int) (s : State), s.brd.mainPower = true → n < s.brd.thermal.length → s.brd.thermal.length = s.brd.temps.length →
    let old := s.brd.thermal.getD n 0
    let new := thermalNext n old t
    let clock := fun (u : State) =>
      (n = 8 → 2 ≤ new → u.brd.coreMhz = if 103 < t then max 100 (s.brd.coreMhz - 100) else s.brd.coreMhz) ∧
      (¬ (n = 8 ∧ 2 ≤ new) → clockHeld s = false ∨ s.brd.limiter = true → u.brd.coreMhz = s.brd.coreMhz) ∧
      u.brd = { s.brd with temps := s.brd.temps.set n t, thermal := s.brd.thermal.set n new, coreMhz := u.brd.coreMhz }
    (new = old → ∃ u, exec (.thermalState n t) s = .next (countHealth s u) ∧ u = { s with brd := u.brd } ∧ clock u) ∧
    (new ≠ old → ∃ u, exec (.thermalState n t) s = .next (countHealth s (settle u)) ∧ clock u ∧
      let told := recordSev 0x0401 (max 1 new) n [tempWord t, new, old] { s with brd := u.brd }
      u.evr = told.evr ∧ u.hif = told.hif ∧
      u.out = told.out ++ (if hotAlert u = hotAlert s then [] else [.hotAlert (hotAlert u)]) ∧
      u = { s with brd := u.brd, evr := u.evr, hif := u.hif, out := u.out }) ∧
    (((points n).getD 6 0 ≤ t) → ∃ u, exec (.thermalTrip n t) s = .next (countHealth s u) ∧ u.brd.mainPower = false ∧
      u.brd.fatal = true ∧ u.brd.hotLatch = true ∧ u.brd.phase = .tripped ∧ u.cmds = [] ∧ u.qps = [] ∧
      (hotAlert s = false → u.out.getLast? = some (.hotAlert true)))

-- Rails, pins and reset.

/-- Rails: MAIN_54V turning on counts a power cycle, AUX_5V turning on starts the always-on side again; the last of both rails and MOD_RST# starts
the module, and until then nothing else changes. Either one turning off, and MOD_RST# asserted outside its lock-out, lose main power: commands end
without completions, nothing goes to the host, the fence set-up is clear, indexes and facets keep what flash holds, and what is written to flash
stays. The loss of AUX_5V ends a freeze without a summary, and of the recorder's records at most the newest is torn. A low pin held keeps it so. MODEL'S READING: the torn record is log 93, what the always-on side
starts with log 6. -/
def Obligations.RailsAndModuleReset : Prop :=
  let lost := fun (s u : State) => u.brd.mainPower = false ∧ u.cmds = [] ∧ u.qps = [] ∧ u.tags = [] ∧ u.fnc = Fence.reset ∧ u.hif = Hif.reset ∧
    Quiet s u ∧ u.idx = s.idx.map keptIndex ∧ u.facets = s.facets.map keptFacet ∧ u.flash.pages = s.flash.pages ∧ u.flash.lost = s.flash.lost ∧
    u.fw.slots = s.fw.slots ∧ u.fw.boot0 = s.fw.boot0 ∧ u.fw.boot1 = s.fw.boot1 ∧ u.fuse = s.fuse
  let starts := fun (i : Instr) (s : State) => ∃ u, exec i s = .next (countHealth s u) ∧ u.brd.mainPower = true ∧ u.brd.fatal = false ∧
    u.fnc.lock = true
  (∀ s : State,
     (s.brd.main54 = false →
       let b := { s.brd with main54 := true, cycles := (s.brd.cycles + 1) % 2 ^ 32,
                             phase := if s.brd.aux5 && s.brd.phase == .off then .held else s.brd.phase }
       (s.brd.aux5 = true ∧ s.brd.rst.accepted = true ∧ b.phase = .held → starts .main54TurnOn s) ∧
       (¬ (s.brd.aux5 = true ∧ s.brd.rst.accepted = true ∧ b.phase = .held) →
         exec .main54TurnOn s = .next (countHealth s { s with brd := b }))) ∧
     (s.brd.main54 = true → exec .main54TurnOn s = .next s) ∧
     (s.brd.main54 = true → ∃ u, exec .main54TurnOff s = .next (countHealth s u) ∧ u.brd.main54 = false ∧ u.brd.phase = .off ∧ lost s u) ∧
     (s.brd.aux5 = false →
       let phase := if s.brd.main54 && s.brd.phase == .off then .held else s.brd.phase
       (s.brd.main54 = true ∧ s.brd.rst.accepted = true ∧ phase = .held → starts .aux5TurnOn s) ∧
       (¬ (s.brd.main54 = true ∧ s.brd.rst.accepted = true ∧ phase = .held) →
         ∃ u, exec .aux5TurnOn s = .next (countHealth s u) ∧ u.brd.aux5 = true ∧ u.brd.aon = 0 ∧ u.brd.phase = phase ∧
           u.brd.rst.acc = 0 ∧ u.brd.rst.lockEnd = none ∧ u.brd.rst.accepted = s.brd.rst.accepted ∧
           u.side = { Side.reset with bootFailed := s.side.bootFailed } ∧ u = { s with brd := u.brd, side := u.side, free := u.free })) ∧
     (s.brd.aux5 = true → exec .aux5TurnOn s = .next s) ∧
     (s.brd.aux5 = true → ∃ u, exec .aux5TurnOff s = .next (countHealth s u) ∧ u.brd.aux5 = false ∧ u.brd.phase = .off ∧ lost s u ∧
       u.evr.frozen = false ∧ u.evr.recs.dropLast = s.evr.recs.dropLast ∧ u.evr.recs.map (·.seq) = s.evr.recs.map (·.seq))) ∧
  (∀ s : State, s.brd.aux5 = true →
     (s.brd.rst.accepted = true → lockedOut s s.brd.rst = false →
       ∃ u, exec .modRstAssert s = .next (countHealth s u) ∧ lost s u ∧ u.brd.rst.accepted = false ∧
         u.brd.phase = (if s.brd.main54 then .held else .off) ∧ u.brd.rst.lockEnd = some (s.brd.aon + 10000) ∧
         u.brd.rst.acc = 0 ∧ u.brd.brake.acc = 0 ∧ u.brd.sync.acc = 0) ∧
     (s.brd.rst.accepted = true → lockedOut s s.brd.rst = true → exec .modRstAssert s = .next s) ∧
     (s.brd.rst.accepted = false → exec .modRstAssert s = .next s))

/-- MOD_RST# released ends HOT_ALERT# of a trip; with both rails up the module starts. Boot code writes the fence set-up from the first copy that
verifies and locks it, or the closed set-up of R315 when there is none; firmware starts from the selected slot if it passes its check, else from the
other one. MODEL'S CHOICE: with neither none runs, which the model writes as slot 2 (log 50, DESIGN CHOICE). -/
def Obligations.ReleaseStartsTheModule : Prop :=
  ∀ (finds : BootFinds) (s : State), s.brd.aux5 = true → s.brd.rst.accepted = false → lockedOut s s.brd.rst = false →
    let v0 := (verifyCopy s.fuse finds.copy0 s.fw.boot0).2
    let v1 := (verifyCopy s.fuse finds.copy1 s.fw.boot1).2
    (s.brd.main54 = true → s.brd.phase = .held →
      ∃ u, exec (.modRstRelease finds) s = .next (countHealth s u) ∧ u.brd.mainPower = true ∧ u.brd.fatal = false ∧
        u.brd.rst.accepted = true ∧ u.brd.hotLatch = false ∧ u.fnc.lock = true ∧ u.side.buf = [] ∧ u.side.got = 0 ∧
        (∀ f, v0.or v1 = some f → u.fnc = { f with lock := true } ∧ u.side.bootFailed = false) ∧
        (v0 = none → v1 = none → u.side.bootFailed = true ∧ (u.fnc.win.all fun w => w.len == 0) = true ∧
          u.fnc.links % 16 = 0 ∧ u.fnc.power = 250 ∧ u.fnc.current = 60) ∧
        (fwStarts finds s s.fw.selected = true → u.fw.running = s.fw.selected) ∧
        (fwStarts finds s s.fw.selected = false → fwStarts finds s (1 - s.fw.selected) = true → u.fw.running = 1 - s.fw.selected) ∧
        (fwStarts finds s s.fw.selected = false → fwStarts finds s (1 - s.fw.selected) = false → u.fw.running = 2)) ∧
    (s.brd.main54 = false →
      ∃ u, exec (.modRstRelease finds) s = .next (countHealth s u) ∧ u.brd.mainPower = s.brd.mainPower ∧ u.brd.rst.accepted = true ∧
        u.brd.hotLatch = false ∧ Quiet s u ∧ u = { s with brd := u.brd, out := u.out })

/-- A facet's replay and rebuild while the module starts takes it to its closed epoch, in forced durability; when none waits,
the module runs. -/
def Obligations.RebuildTakesTheClosedEpoch : Prop :=
  ∀ (f : Nat) (s : State), s.brd.phase = .starting → s.fw.running < 2 → waitsRebuild s (facetOf s f) = true →
    ∃ u, exec (.tierRebuild f) s = .next (countHealth s (settle u)) ∧ (facetOf u f).epoch = (facetOf s f).closed ∧
      (facetOf u f).forced = true ∧ (facetOf u f).rebuilt = true ∧
      (u.brd.phase = .running ↔ (u.facets.any (waitsRebuild s)) = false) ∧ (∀ g, g ≠ f → facetOf u g = facetOf s g)

/-- PWR_BRAKE# and the pins' filter: an edge outside the lock-out is accepted, counted, and locks the pin out for 10 µs; inside
it, a new level held for 1 µs is one rejected edge; at the lock-out's end a level that differs is accepted. A release gives back the CORE clock that
the brake held down. Of the pins, these clauses are about PWR_BRAKE#. MODEL'S READING: which clock a release gives back is log 48. -/
def Obligations.PinsAreFiltered : Prop :=
  ∀ s : State, s.brd.aux5 = true → s.brd.rst.accepted = true →
    let took := fun (p : PinSt) (b : Bool) => { p with
      accepted := b, filtered := b, lockEnd := some (s.brd.aon + 10000), acc := (p.acc + 1) % 2 ^ 32, secAcc := p.secAcc + 1 }
    (s.brd.brake.accepted = true → lockedOut s s.brd.brake = false →
      ∃ u, exec .pwrBrakeAssert s = .next (countHealth s u) ∧ u.brd = { s.brd with brake := took s.brd.brake false } ∧
        braked u = true ∧ Told s u ∧ u = { s with brd := u.brd, evr := u.evr, hif := u.hif, out := u.out }) ∧
    (s.brd.brake.accepted = false → lockedOut s s.brd.brake = false →
      ∃ u, exec .pwrBrakeRelease s = .next (countHealth s (settle u)) ∧
        u.brd = { s.brd with brake := took s.brd.brake true, coreMhz := u.brd.coreMhz } ∧
        u.brd.coreMhz = (if s.brd.limiter = true ∨ clockHeld u = true then s.brd.coreMhz else 1400) ∧
        braked u = false ∧ Told s u ∧ u = { s with brd := u.brd, evr := u.evr, hif := u.hif, out := u.out }) ∧
    (∀ b, s.brd.brake.filtered ≠ b → s.brd.brake.accepted = b → lockedOut s s.brd.brake = true →
      exec (.filteredLevelChange .pwrBrake b) s = .next (countHealth s { s with brd := { s.brd with brake := { s.brd.brake with filtered := b } } })) ∧
    (∀ b, s.brd.brake.filtered ≠ b → s.brd.brake.accepted ≠ b → lockedOut s s.brd.brake = true →
      exec (.filteredLevelChange .pwrBrake b) s = .next (countHealth s { s with brd := { s.brd with brake := { s.brd.brake with
        filtered := b, rej := (s.brd.brake.rej + 1) % 2 ^ 32, secRej := s.brd.brake.secRej + 1 } } })) ∧
    (∀ b, s.brd.brake.filtered ≠ b → s.brd.brake.accepted ≠ b → lockedOut s s.brd.brake = false →
      ∃ u, exec (.filteredLevelChange .pwrBrake b) s = .next (countHealth s u) ∧ u.brd.brake = took s.brd.brake b) ∧
    (∀ e, s.brd.brake.lockEnd = some e → e ≤ s.brd.aon → s.brd.brake.filtered = s.brd.brake.accepted →
      exec (.lockOutEnd .pwrBrake) s = .next (countHealth s { s with brd := { s.brd with brake := { s.brd.brake with lockEnd := none } } })) ∧
    (∀ e, s.brd.brake.lockEnd = some e → e ≤ s.brd.aon → s.brd.brake.filtered ≠ s.brd.brake.accepted →
      ∃ u, exec (.lockOutEnd .pwrBrake) s = .next (countHealth s u) ∧ u.brd.brake = took s.brd.brake s.brd.brake.filtered)

/-- The always-on controller's seconds: at a second's end the recorder's limits and the pins' counts start again; 10 s end a
freeze with one FREEZE_SUMMARY; a refresh, 100 ms after the last one, measures AUX_5V (a free value, log 6) and takes the sensors' readings and the six health bits. -/
def Obligations.AlwaysOnTimersFire : Prop :=
  ∀ s : State, s.brd.aux5 = true →
    (1000000000 * (s.evr.secNo + 1) ≤ s.brd.aon → Answers .secondEnd s fun t => t.evr.secNew = [] ∧
      t.evr.secNo = s.brd.aon / 1000000000 ∧ t.evr.secSup = [] ∧ t.brd.rst.secRej = 0 ∧ t.brd.brake.secRej = 0 ∧
      t.brd.sync.secRej = 0 ∧ Told s t ∧ t = { s with brd := t.brd, evr := t.evr, hif := t.hif, out := t.out }) ∧
    (s.brd.aon < 1000000000 * (s.evr.secNo + 1) → exec .secondEnd s = .next s) ∧
    (s.evr.frozen = true → s.evr.freezeAt + 10000000000 ≤ s.brd.aon →
      Answers .freezeTimeout s fun t => t.evr.frozen = false ∧ t = { s with evr := t.evr } ∧
        (t.evr.recs.getLast?).map (·.code) = some 0x0F02) ∧
    (s.evr.frozen = true → s.brd.aon < s.evr.freezeAt + 10000000000 → exec .freezeTimeout s = .next s) ∧
    (s.side.refreshAt + 100000000 ≤ s.brd.aon → let u := measureAux s
      exec .sensorRefresh s = .next { u with side := { s.side with sensors := readings u, healthBits := healthWord s % 64, refreshAt := s.brd.aon } } ∧
        u = { s with brd := { s.brd with auxmV := u.brd.auxmV, auxmW := u.brd.auxmW }, free := s.free + 1 }) ∧
    (s.brd.aon < s.side.refreshAt + 100000000 → exec .sensorRefresh s = .next s)

-- Chord links and domains.

/-- A flit on a link that carries flits: one that fails its CRC, and a data flit that is not the next one, do nothing but send a NAK with the last
good sequence number; a failure counts when it is that of the next flit. A data flit with the next sequence number moves the sequence on, and one
that is a whole message is delivered. A NAK resends every flit behind the acknowledged one as it was, in order, before anything else, and they stay
in the replay buffer; after a training it also says what the peer has, and what outlives a DOWN follows it under the next sequence numbers. MODEL'S READING: which
failures count, and the numbers after a training, are log 80. -/
def Obligations.FlitsAreDeliveredInOrder : Prop :=
  (∀ (l : Nat) (b : Bytes) (s : State), linkUsable s l = true → b.length = 256 →
     let x := linkOf s l
     let good := field 0xFC 4 b = (crc32c (b.take 0xFC)).toNat
     let nak := flitBytes 2 0 0 (lastGood x) (creditReturn x).1 (creditReturn x).2 0 []
     let same := fun (u : State) => u.out = s.out ++ [.chordFlit l nak] ∧ (linkOf u l).rxNext = x.rxNext ∧
       (linkOf u l).delivered = x.delivered ∧ (linkOf u l).replay = x.replay ∧ (linkOf u l).credits = x.credits ∧
       u = { s with chd := { s.chd with links := u.chd.links }, out := u.out }
     (¬ good → Settles (.flit l b) s fun u => same u ∧
       (linkOf u l).fails = x.fails + (if (b.getD 0 0).toNat = 1 ∧ field 2 2 b = x.rxNext then 1 else 0)) ∧
     (good → (b.getD 0 0).toNat = 1 → field 2 2 b ≠ x.rxNext → Settles (.flit l b) s fun u => same u ∧ (linkOf u l).fails = x.fails) ∧
     (good → (b.getD 0 0).toNat = 1 → field 2 2 b = x.rxNext → Settles (.flit l b) s fun u =>
       (linkOf u l).fails = 0 ∧ (linkOf u l).rxNext = (x.rxNext + 1) % 65536 ∧
       (x.awaitAck = false → x.replay.filter (fun r => !acked (field 4 2 b) r) <+: (linkOf u l).replay) ∧
       (bit 0 (field 0x0A 2 b) = true → bit 1 (field 0x0A 2 b) = true →
         (linkOf u l).delivered = x.delivered ++ [((b.getD 1 0).toNat % 4, slice 0x0C (field 8 2 b) b)]))) ∧
  (∀ (l ack : Nat) (s : State), linkUsable s l = true →
     let x := linkOf s l
     let left := x.replay.filter fun r => !acked ack r
     let kept := left.filter fun r => outlives (r.2.getD 1 0).toNat (r.2.drop 0x0C)
     let first := ((left.head?).map (·.1)).getD x.txSeq
     let again := kept.zipIdx.map fun r => renumbered x (first + r.2) r.1.2
     (x.awaitAck = false →
       Settles (.nak l ack) s fun u => (s.out ++ left.map (fun r => Out.chordFlit l r.2)) <+: u.out ∧ left <+: (linkOf u l).replay) ∧
     (x.awaitAck = true →
       Settles (.nak l ack) s fun u => (linkOf u l).awaitAck = false ∧
         (s.out ++ again.map (fun r => Out.chordFlit l r.2)) <+: u.out ∧ again <+: (linkOf u l).replay))

/-- Link states: 8 failures in a row drop an UP link to three lanes, DEGRADED, and a DEGRADED one DOWN; a failing link goes
DOWN; a DOWN link retrains; training ends UP on four lanes, DEGRADED on three. -/
def Obligations.LinksChangeState : Prop :=
  ∀ (l : Nat) (s : State),
    (∀ errs, 8 ≤ (linkOf s l).fails → (linkOf s l).st = 2 → Settles (.laneDrop l errs) s fun u =>
      (linkOf u l).st = 3 ∧ (linkOf u l).lanes = 3 ∧ (linkOf u l).fails = 0) ∧
    (∀ errs, 8 ≤ (linkOf s l).fails → (linkOf s l).st = 3 → Settles (.laneDrop l errs) s fun u => (linkOf u l).st = 4) ∧
    (∀ errs, (linkOf s l).fails < 8 → exec (.laneDrop l errs) s = .next (settle s)) ∧
    (∀ c, 1 ≤ (linkOf s l).st → (linkOf s l).st ≤ 3 → Settles (.chordDown l c) s fun u => (linkOf u l).st = 4) ∧
    ((linkOf s l).st = 4 → (linkOf s l).tryAt + 1000000000 ≤ now s → Settles (.retrain l) s fun u => (linkOf u l).st = 1 ∧ u.out = s.out) ∧
    ((linkOf s l).st ≠ 4 ∨ now s < (linkOf s l).tryAt + 1000000000 → exec (.retrain l) s = .next (settle s)) ∧
    ((linkOf s l).st = 1 → Settles (.trainingComplete l 4) s fun u => (linkOf u l).st = 2 ∧ (linkOf u l).lanes = 4) ∧
    ((linkOf s l).st = 1 → Settles (.trainingComplete l 3) s fun u => (linkOf u l).st = 3 ∧ (linkOf u l).lanes = 3)

/-- A domain query arrives from the parent: the node holds it for the boundary it names and waits for its children; a copy that
a GAP told of, or that it has already, changes nothing but the link. TURN_SET sets the turn number. -/
def Obligations.CastsGapsAndTurns : Prop :=
  ∀ (s : State),
    (∀ l c, l = upLink s → s.chd.ignored.contains c.qid = false → domOf s c.qid = none → (areaCmd c.area).queries ≠ 0 →
      shardMissing s c.facet c.slot c.area = false → (∀ p ∈ childLinks s, (linkOf s p.2).st ≠ 4) →
      Settles (.queryCast l c) s fun u => ∃ d, domOf u c.qid = some d ∧ d.root = false ∧ d.boundary = 4 * c.turn + c.step ∧
        d.waitBoundary = true ∧ d.records = c.records ∧ d.waiting = (childLinks s).map (·.2)) ∧
    (∀ l c, s.chd.ignored.contains c.qid = true ∨ (domOf s c.qid).isSome = true ∨ l ≠ upLink s →
      exec (.queryCast l c) s = .next (settle (popDelivered l 1 s))) ∧
    (∀ q, exec (.gap q) s = .next (settle { s with chd := { s.chd with ignored := nub (s.chd.ignored ++ [q]) } })) ∧
    (∀ n, Settles (.turnSet n) s fun u => u.srch.turn = n % 2 ^ 32 ∧ u.brd = s.brd ∧ u.qps = s.qps)

/-- A contribution that is awaited joins the gather; one that nobody waits for is counted and dropped. A child that cannot be
sent its copy within a batch step is counted missing and told by a GAP. Two µs before the node's time every child still silent is counted missing,
with the nodes of its subtree; at that time the gather ends, and the node's part of each query goes up with those nodes missing. -/
def Obligations.GathersEndWithoutTheSilent : Prop :=
  ∀ (s : State) (q : Nat) (d : DomQ), domOf s q = some d →
    let gone := fun (l : Nat) => (l, (((childLinks s).find? (·.2 == l)).map (·.1)).getD 0xFFFF, lostNodes s l)
    let silent := fun (i : Nat) =>
      ((d.waiting.dedup.filter fun l => !d.got.any fun p => p.src == (gone l).2.1 && p.sub == i).map (lostNodes s)).sum
    let alone := (s.chd.dom.filter (·.qid == q)).length = 1
    (∀ l c, c.qid = q → d.waiting.contains l = true → d.own = none → d.count ≠ 0 →
      Settles (.contribution l c) s fun u => (domOf u q).map (·.got) = some (d.got ++ [c])) ∧
    (∀ l c, c.qid = q → d.waiting.contains l = false →
      exec (.contribution l c) s = .next (settle (bump c.facet 1019 1 (popDelivered l 0 s)))) ∧
    (∀ l, d.unsent.contains l = true → d.waiting.contains l = true → boundaryTime s d.boundary + 25600 ≤ now s → d.own = none →
      d.count ≠ 0 → Settles (.multicastSlackExpiry q l) s fun u => Out.chordMsg l 3 (.gap d.facet d.slot d.cls q) ∈ u.out ∧
        ∃ d', domOf u q = some d' ∧ d'.lost = d.lost ++ [gone l] ∧ l ∉ d'.waiting ∧ l ∉ d'.unsent) ∧
    (now s < cutOff s d → exec (.gatherCutoff q) s = .next (settle s)) ∧
    (cutOff s d ≤ now s → now s < sendBy s d → d.own = none → d.count ≠ 0 → Settles (.gatherCutoff q) s fun u =>
      ∃ d', domOf u q = some d' ∧ d'.waiting = [] ∧ (∀ l ∈ d.waiting, gone l ∈ d'.lost) ∧
        (∀ i, d'.missing i = d.missing i + silent i) ∧ d'.got = d.got ∧ d'.own = none) ∧
    (sendBy s d ≤ now s → alone → Settles (.gatherCutoff q) s fun u => domOf u q = none) ∧
    (sendBy s d ≤ now s → alone → d.root = false → linkUsable s (upLink s) = true → ∀ i, i < d.count →
      Settles (.gatherCutoff q) s fun u => ∃ p, Out.chordMsg (upLink s) 0 (.contrib p) ∈ u.out ∧ p.qid = q ∧ p.sub = i ∧
        silent i ≤ p.missing ∧ (0 < silent i → p.partialFlag = true))

-- Migration.

/-- CHD_MIG_CTRL and CHD_MIG_ACCEPT: go with a usable link offers a created index or arms the target; go during a migration
reports error 8; without the link it fails with error 9; cancel ends a running migration with error 7. -/
def Obligations.MigrationRegistersAct : Prop :=
  ∀ (v : Word64) (s : State),
    let m := s.chd.mig
    let l := v.toNat / 4096 % 4
    let busy := { s with chd := { s.chd with mig := { m with error := 8 } } }
    (migRunning m = true → exec (.chdMigCtrlGo v) s = .next (settle busy)) ∧
    (migRunning m = true → exec (.chdMigAcceptGo v) s = .next (settle busy)) ∧
    (migRunning m = false → linkUsable s l = true → (usableIdx s (v.toNat % 256) (v.toNat / 256 % 16)).isSome = true →
      Settles (.chdMigCtrlGo v) s fun u => u.chd.mig.phase = 1 ∧ u.chd.mig.role = 1 ∧ u.chd.mig.error = 0 ∧ u.chd.mig.units = 0 ∧
        u.chd.mig.ctrl.toNat = v.toNat % 2 ^ 15 ∧ u.idx = s.idx) ∧
    (migRunning m = false → linkUsable s l = false → Settles (.chdMigCtrlGo v) s fun u => u.chd.mig.phase = 6 ∧ u.chd.mig.error = 9) ∧
    (migRunning m = false → linkUsable s l = true → Settles (.chdMigAcceptGo v) s fun u =>
      u.chd.mig.phase = 1 ∧ u.chd.mig.role = 2 ∧ u.chd.mig.target = true ∧ u.chd.mig.accept.toNat = v.toNat % 2 ^ 14 ∧ u.idx = s.idx) ∧
    (migRunning m = false → linkUsable s l = false → Settles (.chdMigAcceptGo v) s fun u => u.chd.mig.phase = 6 ∧ u.chd.mig.error = 9) ∧
    (migRunning m = true → Settles (.chdMigCtrlCancel v) s fun u => u.chd.mig.phase = 6 ∧ u.chd.mig.error = 7 ∧ u.chd.mig.building = none) ∧
    (migRunning m = true → Settles (.chdMigAcceptCancel v) s fun u => u.chd.mig.phase = 6 ∧ u.chd.mig.error = 7 ∧ u.chd.mig.building = none)

/-- The target: an offer it is armed for and can take is accepted, another is refused with the first reason of R310; units and
writes are kept, units counted, and behind the cut-over the next boundary at which its programs are granted publishes: the index is there under the
target's epoch, the facet has changed, and done goes back. MODEL'S READING: a refusal with error 1 leaves the target's arming as it was (log 44). -/
def Obligations.MigrationTargetReceives : Prop :=
  ∀ (l f slot : Nat) (geo : Geometry) (hbm flash : Nat) (b : Bool) (s : State),
    let u0 := popDelivered l 3 s
    let e := offerError u0 l f slot geo hbm flash
    let mine := s.chd.mig.role = 2 ∧ migRunning s.chd.mig = true ∧ migLink s.chd.mig = l
    (e = 0 → Settles (.migOffer l f slot b geo hbm flash) s fun u => u.chd.mig.phase = 2 ∧ u.chd.mig.role = s.chd.mig.role ∧ u.idx = s.idx) ∧
    (e = 1 → Settles (.migOffer l f slot b geo hbm flash) s fun u => u.chd.mig.error = 1 ∧ u.chd.mig.phase = s.chd.mig.phase) ∧
    (2 ≤ e → Settles (.migOffer l f slot b geo hbm flash) s fun u => u.chd.mig.error = e ∧ u.chd.mig.phase = 6 ∧ u.idx = s.idx) ∧
    (mine → s.chd.mig.phase = 2 → ∀ p, Settles (.migUnit l p) s fun u => u.idx = s.idx ∧
      u.chd.mig = takePart p { s.chd.mig with
        units := s.chd.mig.units + (if (partUnit (migFacet s.chd.mig) (migSlot s.chd.mig) p).isSome then 1 else 0) }) ∧
    (mine → s.chd.mig.phase = 2 ∨ s.chd.mig.phase = 3 → ∀ w, Settles (.migWrite l w) s fun u =>
      u.chd.mig = { s.chd.mig with phase := 3, writes := s.chd.mig.writes ++ [w] } ∧ u.idx = s.idx) ∧
    (mine → s.chd.mig.phase = 2 ∨ s.chd.mig.phase = 3 → s.chd.mig.building.isSome = true → Settles (.migCutOver l) s fun u =>
      u.chd.mig = { s.chd.mig with phase := 4, publish := true } ∧ u.idx = s.idx) ∧
    (∀ ix0, s.chd.mig.role = 2 → s.chd.mig.publish = true → s.chd.mig.building = some ix0 → s.chd.mig.writes = [] →
      clocked s = true → s.srch.stepNo < 3 → s.brd.turnStart + 25600 * (s.srch.stepNo + 1) ≤ now s →
      let g := migFacet s.chd.mig
      let sl := migSlot s.chd.mig
      let e' := commitEpoch (facetOf s g)
      let ps := (s.chd.mig.pendNew.filter (·.till.isNone)).map fun (p : Pend) => { p with slot := sl, epoch := e', since := 0 }
      let s1 := appendLog g e' 1 false (markChanged g (updFacet g (fun x => { x with pend := x.pend ++ ps })
        { s with srch := { s.srch with stepNo := s.srch.stepNo + 1 }, idx := s.idx ++ [rebase e' ix0] }))
      let us := (unitParts ix0).filterMap (partUnit g sl)
      (allJobs g 4 (.unit g sl) (programJobs (us.map (placeOf s1)) ++ [ingestJob s1]) s1).isSome = true →
      ∃ p, exec .batchStepBoundary s = .next (settle (openStep (closeStep p))) ∧
        p.idx = s.idx ++ [rebase (commitEpoch (facetOf s (migFacet s.chd.mig))) ix0] ∧
        p.chd.mig.phase = 5 ∧ p.chd.mig.role = 0 ∧ p.chd.mig.building = none ∧ p.chd.mig.publish = false ∧
        (s.facets.any (·.num == migFacet s.chd.mig) = true → (facetOf p (migFacet s.chd.mig)).changed = true) ∧
        Out.chordMsg (migLink s.chd.mig) 3 (.migCtrl (migFacet s.chd.mig) (migSlot s.chd.mig) 5 0) ∈ p.out)

/-- The source: an acceptance starts the transfer at the next boundary, a refusal ends it with its error; done ends it, and a
copy's index goes on while a moved one is dropped. A cancel from the peer, and 10 s without the link, end it with errors 7 and
6. -/
def Obligations.MigrationSourceEnds : Prop :=
  ∀ (l : Nat) (s : State),
    let m := s.chd.mig
    let mine := m.role = 1 ∧ migRunning m = true ∧ migLink m = l
    (mine → m.phase = 1 → Settles (.migAccept l) s fun u => u.chd.mig = { m with start := true } ∧ u.idx = s.idx) ∧
    (mine → m.phase = 1 → ∀ e, Settles (.migRefuse l e) s fun u => u.chd.mig.phase = 6 ∧ u.chd.mig.error = e ∧ u.chd.mig.role = 0) ∧
    (mine → m.phase = 4 → bit 14 m.ctrl.toNat = true → ∀ ix, idxOf s (migFacet m) (migSlot m) = some ix →
      Settles (.migDone l) s fun u => u.chd.mig.phase = 5 ∧ u.chd.mig.role = 0 ∧
        idxOf u (migFacet m) (migSlot m) = some { ix with held := false }) ∧
    (mine → m.phase = 4 → bit 14 m.ctrl.toNat = false → ∀ ix, idxOf s (migFacet m) (migSlot m) = some ix →
      Settles (.migDone l) s fun u => u.chd.mig.phase = 5 ∧ u.chd.mig.role = 0 ∧
        (idxOf u (migFacet m) (migSlot m)).map (·.dropping) = some (some noTag)) ∧
    (migRunning m = true → migLink m = l → Settles (.migCancel l) s fun u => u.chd.mig.phase = 6 ∧ u.chd.mig.error = 7) ∧
    (migRunning m = true → linkUsable s (migLink m) = false → (linkOf s (migLink m)).downAt + 10000000000 ≤ now s →
      Settles .migrationTimeout s fun u => u.chd.mig.phase = 6 ∧ u.chd.mig.error = 6) ∧
    (migRunning m = false ∨ linkUsable s (migLink m) = true ∨ now s < (linkOf s (migLink m)).downAt + 10000000000 → exec .migrationTimeout s = .next (settle s))

-- The sideband.

/-- MODEL'S CHOICE of the byte layouts (log 53): with AUX_5V up the MCTP control commands and PLDM base commands answer; an
endpoint ID or terminus ID that names one is stored, any other is refused; an unsupported PLDM type or command is refused by its
code. -/
def Obligations.SidebandBaseCommandsAnswer : Prop :=
  ∀ s : State, s.brd.aux5 = true →
    let ans := fun (a : SbAnswer) => { s with out := s.out ++ [.sideband a] }
    (∀ e : Byte, e ≠ 0 → e ≠ 0xFF → exec (.setEndpointId e) s =
      .next { s with out := s.out ++ [.sideband (.mctp [0, 0, e, 0])], side := { s.side with eid := e } }) ∧
    (∀ e : Byte, e = 0 ∨ e = 0xFF → exec (.setEndpointId e) s = .next (ans (.mctp [2]))) ∧
    exec .getEndpointId s = .next (ans (.mctp [0, s.side.eid, 0, 0])) ∧
    (∀ t : Byte, exec (.getMctpVersionSupport t) s = .next (ans (.mctp (mctpVersions t)))) ∧
    exec .getMessageTypeSupport s = .next (ans (.mctp [0, 1, 1])) ∧
    exec .getTid s = .next (ans (.pldm 0 [s.side.tid])) ∧
    (∀ t : Byte, t ≠ 0 → t ≠ 0xFF → exec (.setTid t) s =
      .next { s with out := s.out ++ [.sideband (.pldm 0 [])], side := { s.side with tid := t } }) ∧
    (∀ t : Byte, t = 0 ∨ t = 0xFF → exec (.setTid t) s = .next (ans (.pldm 2 []))) ∧
    (∀ t : Byte, pldmCommands t = [] → exec (.getPldmVersion t) s = .next (ans (.pldm 0x83 [])) ∧
      exec (.getPldmCommands t) s = .next (ans (.pldm 0x83 []))) ∧
    (∀ t : Byte, pldmCommands t ≠ [] → (∃ d, exec (.getPldmVersion t) s = .next (ans (.pldm 0 d))) ∧
      exec (.getPldmCommands t) s = .next (ans (.pldm 0 (bitMap 256 ((pldmCommands t).map (·.toNat)))))) ∧
    exec .getPldmTypes s = .next (ans (.pldm 0 [0x15, 0, 0, 0, 0, 0, 0, 0])) ∧
    (∀ t c : Byte, (pldmCommands t).contains c = false → exec (.unsupportedPldmCmd t c) s = .next (ans (.pldm 5 [])))

/-- MODEL'S CHOICE of the byte layouts (log 53): the monitoring and FRU commands answer from the last refresh, from the records
and from the FRU table, and change nothing else; a handle, sensor or state sensor that does not exist is refused. -/
def Obligations.SidebandReadingsAnswer : Prop :=
  ∀ s : State, s.brd.aux5 = true →
    let ans := fun (c : Nat) (d : Bytes) => { s with out := s.out ++ [.sideband (.pldm c d)] }
    (∃ d, exec .getPdrRepositoryInfo s = .next (ans 0 d)) ∧
    (∀ h, h ≤ 15 → ∃ d, exec (.getPdr h) s = .next (ans 0 d)) ∧
    (∀ h, 15 < h → exec (.getPdr h) s = .next (ans 0x82 [])) ∧
    (∀ n v, s.side.sensors[n]? = some v → exec (.getSensorReading n) s =
      .next (ans 0 ([5, if n < 10 && !s.brd.mainPower then 2 else 0, 0, 0, 0, 0] ++ leBytes 4 (BitVec.ofInt 32 v).toNat))) ∧
    (∀ n, s.side.sensors[n]? = none → exec (.getSensorReading n) s = .next (ans 0x80 [])) ∧
    (∃ d : Bytes, exec (.getStateSensorReadings 14) s = .next (ans 0 d) ∧ d.length = 25) ∧
    (∀ n, n ≠ 14 → exec (.getStateSensorReadings n) s = .next (ans 0x80 [])) ∧
    (∃ d, exec .getFruRecordTableMetadata s = .next (ans 0 d)) ∧
    exec .getFruRecordTable s = .next (ans 0 (leBytes 4 0 ++ [5] ++ fruTable s))

/-- The recovery port answers after a failed boot configuration alone: a block of up to 240 bytes inside 64 KiB is stored, STORE
writes what verifies to both copies and else only sets the status, STATUS tells it; before a failed boot every access is
refused. MODEL'S READING: a block that runs past 64 KiB refused whole, and the length test of the verification, are log 54. -/
def Obligations.RecoveryStoresAConfiguration : Prop :=
  ∀ s : State, s.brd.aux5 = true →
    let ans := fun (a : SbAnswer) => { s with out := s.out ++ [.sideband a] }
    (∀ off (bs : Bytes), s.side.bootFailed = true → cellsWf 0 s.side.buf = true → bs ≠ [] → bs.length ≤ 240 → off + bs.length ≤ 65536 →
      Answers (.recoveryBlockWrite off bs) s fun t => t = { s with out := s.out ++ [.sideband .ack], side := t.side } ∧
        cellRead off bs.length t.side.buf = bs ∧ t.side.status = 1 ∧
        (∀ a, a < off ∨ off + bs.length ≤ a → cellGet a t.side.buf = cellGet a s.side.buf)) ∧
    (∀ off (bs : Bytes), s.side.bootFailed = true → bs = [] ∨ 240 < bs.length ∨ 65536 < off + bs.length →
      exec (.recoveryBlockWrite off bs) s = .next (ans .nack)) ∧
    (∀ f, s.side.bootFailed = true → verifyBuffer s = (2, some f) → exec (.recoveryStore 1) s = .next { s with
      out := s.out ++ [.sideband .ack], side := { s.side with status := 2 }, fw := { s.fw with boot0 := some f, boot1 := some f } }) ∧
    (∀ n, s.side.bootFailed = true → verifyBuffer s = (n, none) → exec (.recoveryStore 1) s = .next { s with
      out := s.out ++ [.sideband .ack], side := { s.side with status := n } }) ∧
    (s.side.bootFailed = true → exec .recoveryStatus s = .next (ans (.recovery s.side.status))) ∧
    (s.side.bootFailed = false → (∀ off bs, exec (.recoveryBlockWrite off bs) s = .next (ans .nack)) ∧
      (∀ v, exec (.recoveryStore v) s = .next (ans .nack)) ∧ exec .recoveryStatus s = .next (ans .nack))
end

