-- ==== Sys2Proof/Laws/Buffers.lean ====
section
/-! SUPPORT. The sparse buffers: every write keeps their canonical form, a byte written reads back, every other byte stays. -/

namespace Sys2Proof.Machine

theorem cellsWf_mono {lo hi : Nat} (m : List Host.Cell) (h : lo ≤ hi) (w : cellsWf hi m = true) : cellsWf lo m = true := by
  cases m with
  | nil => rfl
  | cons p m =>
    obtain ⟨k, v⟩ := p
    simp only [cellsWf, Bool.and_eq_true, decide_eq_true_eq] at w ⊢
    exact ⟨⟨le_trans h w.1.1, w.1.2⟩, w.2⟩

/-- A byte written at or past `lo` keeps the canonical form from `lo` on. -/
theorem cellSet_wf {lo : Nat} (a : Nat) (b : Byte) (m : List Host.Cell) (ha : lo ≤ a) (w : cellsWf lo m = true) :
    cellsWf lo (cellSet a b m) = true := by
  induction m generalizing lo with
  | nil => unfold cellSet; split <;> simp_all [cellsWf]
  | cons p m ih =>
    obtain ⟨k, v⟩ := p
    simp only [cellsWf, Bool.and_eq_true, decide_eq_true_eq] at w
    obtain ⟨⟨hk, hv⟩, hm⟩ := w
    unfold cellSet
    split
    · split
      · simp_all [cellsWf]
      · simp only [cellsWf, Bool.and_eq_true, decide_eq_true_eq]
        rename_i hb
        exact ⟨⟨ha, by simpa using hb⟩, ⟨by omega, hv⟩, hm⟩
    · split
      · split
        · exact cellsWf_mono m (by omega) hm
        · simp_all [cellsWf]
      · have hka : k ≠ a := by rintro rfl; simp_all
        simp only [cellsWf, Bool.and_eq_true, decide_eq_true_eq]
        exact ⟨⟨hk, hv⟩, ih (by omega) hm⟩

theorem cellWrite_wf (a : Nat) (bs : Bytes) (m : List Host.Cell) (w : cellsWf 0 m = true) : cellsWf 0 (cellWrite a bs m) = true := by
  induction bs generalizing a m with
  | nil => exact w
  | cons b bs ih => exact ih _ _ (cellSet_wf a b m (Nat.zero_le a) w)

/-- A canonical buffer reads zero below its first offset. -/
theorem cellGet_below {lo : Nat} (a : Nat) (m : List Host.Cell) (w : cellsWf lo m = true) (ha : a < lo) : cellGet a m = 0 := by
  induction m generalizing lo with
  | nil => rfl
  | cons p m ih =>
    obtain ⟨k, v⟩ := p
    simp only [cellsWf, Bool.and_eq_true, decide_eq_true_eq] at w
    have hk : (k == a) = false := by simp; omega
    have := ih w.2 (by omega)
    simpa [cellGet, List.find?, hk] using this

theorem cellGet_cons (a k : Nat) (v : Byte) (m : List Host.Cell) :
    cellGet a ((k, v) :: m) = if k = a then v else cellGet a m := by
  by_cases h : k = a
  · simp [cellGet, List.find?, h]
  · have hk : (k == a) = false := by simpa using h
    simp [cellGet, List.find?, h, hk]

/-- A byte written reads back; every other byte stays. -/
theorem cellGet_cellSet {lo : Nat} (a x : Nat) (b : Byte) (m : List Host.Cell) (w : cellsWf lo m = true) :
    cellGet x (cellSet a b m) = if x = a then b else cellGet x m := by
  induction m generalizing lo with
  | nil =>
    unfold cellSet
    split
    · rename_i hb
      have : b = 0 := by simpa using hb
      by_cases h : x = a <;> simp [cellGet, h, this]
    · rw [cellGet_cons]
      by_cases h : a = x
      · rw [if_pos h, if_pos h.symm]
      · rw [if_neg h, if_neg (Ne.symm h)]
  | cons p m ih =>
    obtain ⟨k, v⟩ := p
    simp only [cellsWf, Bool.and_eq_true, decide_eq_true_eq] at w
    obtain ⟨⟨hk, hv⟩, hm⟩ := w
    have below : ∀ y, y < k → cellGet y ((k, v) :: m) = 0 := by
      intro y hy
      rw [cellGet_cons, if_neg (by omega)]
      exact cellGet_below y m hm (by omega)
    unfold cellSet
    split
    · split
      · rename_i hb
        have hb : b = 0 := by simpa using hb
        by_cases h : x = a
        · subst h; rw [if_pos rfl, below x (by omega), hb]
        · rw [if_neg h]
      · rw [cellGet_cons]
        by_cases h : a = x
        · rw [if_pos h, if_pos h.symm]
        · rw [if_neg h, if_neg (Ne.symm h)]
    · split
      · have hka : k = a := by have := ‹(a == k) = true›; simp at this; exact this.symm
        subst hka
        split
        · rename_i hb
          have hb : b = 0 := by simpa using hb
          by_cases h : x = k
          · subst h; rw [if_pos rfl, cellGet_below x m hm (by omega), hb]
          · rw [if_neg h, cellGet_cons, if_neg (Ne.symm h)]
        · rw [cellGet_cons, cellGet_cons]
          by_cases h : k = x
          · rw [if_pos h, if_pos h.symm]
          · rw [if_neg h, if_neg (Ne.symm h), if_neg h]
      · have hka : k ≠ a := by rintro rfl; simp_all
        rw [cellGet_cons, cellGet_cons, ih hm]
        by_cases h : k = x
        · subst h; simp [hka]
        · simp [h]

/-- The bytes outside a run that is written stay. -/
theorem cellGet_cellWrite_out (a x : Nat) (bs : Bytes) (m : List Host.Cell) (w : cellsWf 0 m = true)
    (h : x < a ∨ a + bs.length ≤ x) : cellGet x (cellWrite a bs m) = cellGet x m := by
  induction bs generalizing a m with
  | nil => rfl
  | cons b bs ih =>
    simp only [List.length_cons] at h
    unfold cellWrite
    rw [ih _ _ (cellSet_wf a b m (Nat.zero_le a) w) (by omega), cellGet_cellSet a x b m w, if_neg (by omega)]

/-- A byte inside a run that is written reads as the run says. -/
theorem cellGet_cellWrite_in (a i : Nat) (bs : Bytes) (m : List Host.Cell) (w : cellsWf 0 m = true) (h : i < bs.length) :
    cellGet (a + i) (cellWrite a bs m) = bs[i] := by
  induction bs generalizing a i m with
  | nil => simp at h
  | cons b bs ih =>
    unfold cellWrite
    have hw := cellSet_wf a b m (Nat.zero_le a) w
    cases i with
    | zero =>
      rw [cellGet_cellWrite_out _ _ _ _ hw (by omega), cellGet_cellSet a _ b m w]
      simp
    | succ i =>
      simp only [List.length_cons] at h
      have := ih (a + 1) i (cellSet a b m) hw (by omega)
      rw [show a + (i + 1) = a + 1 + i by omega, this]
      simp

/-- A run that is written reads back. -/
theorem cellRead_cellWrite (a : Nat) (bs : Bytes) (m : List Host.Cell) (w : cellsWf 0 m = true) :
    cellRead a bs.length (cellWrite a bs m) = bs := by
  unfold cellRead
  refine List.ext_getElem (by simp) ?_
  intro i h1 h2
  simp only [List.getElem_map, List.getElem_range]
  exact cellGet_cellWrite_in a i bs m w h2

end Sys2Proof.Machine
end

