-- ==== Sys2Proof/Laws/Lists.lean ====
section
/-! SUPPORT. Lists with a first match changed, keyed tables, and the byte strings of numbers. -/

namespace Sys2Proof.Machine

theorem find?_updFirst {α : Type} (p : α → Bool) (g : α → α) (l : List α) (h : ∀ a, p a = true → p (g a) = true) :
    (updFirst p g l).find? p = (l.find? p).map g := by
  induction l with
  | nil => rfl
  | cons a l ih => cases ha : p a <;> simp [updFirst, ha, h, ih, List.find?]

theorem find?_updFirst_ne {α : Type} (p q : α → Bool) (g : α → α) (l : List α)
    (h : ∀ a, p a = true → q a = false ∧ q (g a) = false) : (updFirst p g l).find? q = l.find? q := by
  induction l with
  | nil => rfl
  | cons a l ih =>
    cases ha : p a
    · simp [updFirst, ha, ih, List.find?]
    · simp [updFirst, ha, List.find?, h a ha]

theorem updFirst_none {α : Type} (p : α → Bool) (g : α → α) (l : List α) (h : ∀ a ∈ l, p a = false) : updFirst p g l = l := by
  induction l with
  | nil => rfl
  | cons a l ih => simp_all [updFirst]

@[simp] theorem updFirst_length {α : Type} (p : α → Bool) (g : α → α) (l : List α) : (updFirst p g l).length = l.length := by
  induction l with
  | nil => rfl
  | cons a l ih => unfold updFirst; split <;> simp [ih]

theorem updFirst_map {α β : Type} (p : α → Bool) (g : α → α) (k : α → β) (l : List α) (h : ∀ a, k (g a) = k a) :
    (updFirst p g l).map k = l.map k := by
  induction l with
  | nil => rfl
  | cons a l ih => unfold updFirst; split <;> simp [ih, h]

theorem any_updFirst {α : Type} (p q : α → Bool) (g : α → α) (l : List α) (h : ∀ a, q (g a) = q a) :
    (updFirst p g l).any q = l.any q := by
  induction l with
  | nil => rfl
  | cons a l ih => unfold updFirst; split <;> simp [ih, h]

/-- A table with an entry changed, made first if it was not listed: the entry reads as changed. -/
theorem getD_find?_upd {α : Type} (p : α → Bool) (g : α → α) (l : List α) (d : α) (hd : p d = true) (h : ∀ a, p (g a) = p a) :
    ((if l.any p then updFirst p g l else l ++ [g d]).find? p).getD d = g ((l.find? p).getD d) := by
  cases hl : l.any p
  · have hn : l.find? p = none := by
      rw [List.find?_eq_none]
      intro a ha
      simpa using (List.any_eq_false.mp hl) a ha
    simp [List.find?_append, hn, h d, hd]
  · obtain ⟨a, ha, hp⟩ := List.any_eq_true.mp hl
    rw [if_pos rfl, find?_updFirst p g l fun a ha => by rw [h a]; exact ha]
    cases hf : l.find? p with
    | none => exact absurd hp (by simpa using List.find?_eq_none.mp hf a ha)
    | some b => rfl

/-- The other entries read as before. -/
theorem find?_upd_ne {α : Type} (p q : α → Bool) (g : α → α) (l : List α) (d : α)
    (h : ∀ a, p a = true → q a = false ∧ q (g a) = false) (hd : q (g d) = false) :
    (if l.any p then updFirst p g l else l ++ [g d]).find? q = l.find? q := by
  split
  · exact find?_updFirst_ne p q g l h
  · simp [List.find?_append, hd]

/-- A keyed table reads the value put under a key. -/
theorem look_put {κ α : Type} [BEq κ] [LawfulBEq κ] (d a : α) (k : κ) (l : List (κ × α)) : look d k (put k a l) = a := by
  unfold look put
  split
  · rename_i hl
    obtain ⟨p, hp, hk⟩ := List.any_eq_true.mp hl
    induction l with
    | nil => cases hp
    | cons b l ih =>
      cases hb : b.1 == k
      · have : p ∈ l := by
          rcases List.mem_cons.mp hp with rfl | h
          · rw [hb] at hk; cases hk
          · exact h
        have hl' : (l.any fun p => p.1 == k) = true := List.any_eq_true.mpr ⟨p, this, hk⟩
        simpa [List.find?, hb] using ih hl' this
      · simp [hb]
  · rename_i hl
    have hn : l.find? (fun p => p.1 == k) = none := by
      rw [List.find?_eq_none]
      intro a ha hk
      exact hl (List.any_eq_true.mpr ⟨a, ha, hk⟩)
    simp [List.find?_append, hn]

/-- A keyed table reads every other key as before. -/
theorem look_put_ne {κ α : Type} [BEq κ] [LawfulBEq κ] (d a : α) (k j : κ) (l : List (κ × α)) (h : j ≠ k) :
    look d j (put k a l) = look d j l := by
  have hkj : (k == j) = false := by simpa using Ne.symm h
  unfold look put
  split
  · have : (l.map fun p => if p.1 == k then (k, a) else p).find? (fun p => p.1 == j) = l.find? fun p => p.1 == j := by
      rename_i hl
      clear hl
      induction l with
      | nil => rfl
      | cons b l ih =>
        cases hb : b.1 == k
        · simp [List.find?, hb, ih]
        · have hbj : (b.1 == j) = false := by rw [eq_of_beq hb]; exact hkj
          simp [List.find?, hb, hkj, hbj, ih]
    rw [this]
  · simp [List.find?_append, List.find?, hkj]

@[simp] theorem leBytes_length (n v : Nat) : (leBytes n v).length = n := by
  induction n generalizing v with
  | zero => rfl
  | succ n ih => simp [leBytes, ih]

/-- Without repeats, a list has the same members. -/
theorem mem_nub {α : Type} [BEq α] [LawfulBEq α] (a : α) (l : List α) : a ∈ nub l ↔ a ∈ l := by
  have h : ∀ (l acc : List α), a ∈ l.foldl (fun acc b => if acc.contains b then acc else b :: acc) acc ↔ a ∈ acc ∨ a ∈ l := by
    intro l
    induction l with
    | nil => simp
    | cons b l ih =>
      intro acc
      simp only [List.foldl_cons, ih, List.mem_cons]
      by_cases hb : acc.contains b = true
      · simp only [hb, if_true]
        constructor
        · rintro (h | h)
          · exact .inl h
          · exact .inr (.inr h)
        · rintro (h | rfl | h)
          · exact .inl h
          · exact .inl (List.contains_iff_mem.mp hb)
          · exact .inr h
      · simp only [hb, Bool.false_eq_true, if_false, List.mem_cons]
        constructor
        · rintro ((h | h) | h)
          · exact .inr (.inl h)
          · exact .inl h
          · exact .inr (.inr h)
        · rintro (h | h | h)
          · exact .inl (.inr h)
          · exact .inl (.inl h)
          · exact .inr h
  unfold nub
  rw [List.mem_reverse, h]
  simp

end Sys2Proof.Machine
end

