-- ==== Sys2Proof/Laws/State.lean ====
section
/-! SUPPORT. The fields a named update leaves alone, and what a lookup finds after it. -/

namespace Sys2Proof.Machine

@[simp] theorem ite_brd (c : Prop) [Decidable c] (a b : State) : (if c then a else b).brd = if c then a.brd else b.brd :=
  apply_ite (fun u : State => u.brd) _ _ _

@[simp] theorem ite_evr (c : Prop) [Decidable c] (a b : State) : (if c then a else b).evr = if c then a.evr else b.evr :=
  apply_ite (fun u : State => u.evr) _ _ _

@[simp] theorem ite_fnc (c : Prop) [Decidable c] (a b : State) : (if c then a else b).fnc = if c then a.fnc else b.fnc :=
  apply_ite (fun u : State => u.fnc) _ _ _

@[simp] theorem ite_fuse (c : Prop) [Decidable c] (a b : State) : (if c then a else b).fuse = if c then a.fuse else b.fuse :=
  apply_ite (fun u : State => u.fuse) _ _ _

@[simp] theorem ite_fw (c : Prop) [Decidable c] (a b : State) : (if c then a else b).fw = if c then a.fw else b.fw :=
  apply_ite (fun u : State => u.fw) _ _ _

@[simp] theorem ite_lat (c : Prop) [Decidable c] (a b : State) : (if c then a else b).lat = if c then a.lat else b.lat :=
  apply_ite (fun u : State => u.lat) _ _ _

@[simp] theorem ite_cfg (c : Prop) [Decidable c] (a b : State) : (if c then a else b).cfg = if c then a.cfg else b.cfg :=
  apply_ite (fun u : State => u.cfg) _ _ _

@[simp] theorem ite_hif (c : Prop) [Decidable c] (a b : State) : (if c then a else b).hif = if c then a.hif else b.hif :=
  apply_ite (fun u : State => u.hif) _ _ _

@[simp] theorem ite_qps (c : Prop) [Decidable c] (a b : State) : (if c then a else b).qps = if c then a.qps else b.qps :=
  apply_ite (fun u : State => u.qps) _ _ _

@[simp] theorem ite_tags (c : Prop) [Decidable c] (a b : State) : (if c then a else b).tags = if c then a.tags else b.tags :=
  apply_ite (fun u : State => u.tags) _ _ _

@[simp] theorem ite_cmds (c : Prop) [Decidable c] (a b : State) : (if c then a else b).cmds = if c then a.cmds else b.cmds :=
  apply_ite (fun u : State => u.cmds) _ _ _

@[simp] theorem ite_fetchSeq (c : Prop) [Decidable c] (a b : State) : (if c then a else b).fetchSeq = if c then a.fetchSeq else b.fetchSeq :=
  apply_ite (fun u : State => u.fetchSeq) _ _ _

@[simp] theorem ite_elog (c : Prop) [Decidable c] (a b : State) : (if c then a else b).elog = if c then a.elog else b.elog :=
  apply_ite (fun u : State => u.elog) _ _ _

@[simp] theorem ite_elogSeq (c : Prop) [Decidable c] (a b : State) : (if c then a else b).elogSeq = if c then a.elogSeq else b.elogSeq :=
  apply_ite (fun u : State => u.elogSeq) _ _ _

@[simp] theorem ite_facets (c : Prop) [Decidable c] (a b : State) : (if c then a else b).facets = if c then a.facets else b.facets :=
  apply_ite (fun u : State => u.facets) _ _ _

@[simp] theorem ite_idx (c : Prop) [Decidable c] (a b : State) : (if c then a else b).idx = if c then a.idx else b.idx :=
  apply_ite (fun u : State => u.idx) _ _ _

@[simp] theorem ite_mods (c : Prop) [Decidable c] (a b : State) : (if c then a else b).mods = if c then a.mods else b.mods :=
  apply_ite (fun u : State => u.mods) _ _ _

@[simp] theorem ite_srch (c : Prop) [Decidable c] (a b : State) : (if c then a else b).srch = if c then a.srch else b.srch :=
  apply_ite (fun u : State => u.srch) _ _ _

@[simp] theorem ite_flash (c : Prop) [Decidable c] (a b : State) : (if c then a else b).flash = if c then a.flash else b.flash :=
  apply_ite (fun u : State => u.flash) _ _ _

@[simp] theorem ite_mem (c : Prop) [Decidable c] (a b : State) : (if c then a else b).mem = if c then a.mem else b.mem :=
  apply_ite (fun u : State => u.mem) _ _ _

@[simp] theorem ite_chd (c : Prop) [Decidable c] (a b : State) : (if c then a else b).chd = if c then a.chd else b.chd :=
  apply_ite (fun u : State => u.chd) _ _ _

@[simp] theorem ite_side (c : Prop) [Decidable c] (a b : State) : (if c then a else b).side = if c then a.side else b.side :=
  apply_ite (fun u : State => u.side) _ _ _

@[simp] theorem ite_serial (c : Prop) [Decidable c] (a b : State) : (if c then a else b).serial = if c then a.serial else b.serial :=
  apply_ite (fun u : State => u.serial) _ _ _

@[simp] theorem ite_out (c : Prop) [Decidable c] (a b : State) : (if c then a else b).out = if c then a.out else b.out :=
  apply_ite (fun u : State => u.out) _ _ _

@[simp] theorem ite_free (c : Prop) [Decidable c] (a b : State) : (if c then a else b).free = if c then a.free else b.free :=
  apply_ite (fun u : State => u.free) _ _ _

@[simp] theorem ite_pending (c : Prop) [Decidable c] (a b : State) : (if c then a else b).pending = if c then a.pending else b.pending :=
  apply_ite (fun u : State => u.pending) _ _ _

@[simp] theorem foldl_brd {α : Type} (f : State → α → State) (l : List α) (s : State) (h : ∀ t x, (f t x).brd = t.brd) :
    (l.foldl f s).brd = s.brd := by
  induction l generalizing s with
  | nil => rfl
  | cons a l ih => rw [List.foldl_cons, ih, h]

@[simp] theorem foldl_evr {α : Type} (f : State → α → State) (l : List α) (s : State) (h : ∀ t x, (f t x).evr = t.evr) :
    (l.foldl f s).evr = s.evr := by
  induction l generalizing s with
  | nil => rfl
  | cons a l ih => rw [List.foldl_cons, ih, h]

@[simp] theorem foldl_fnc {α : Type} (f : State → α → State) (l : List α) (s : State) (h : ∀ t x, (f t x).fnc = t.fnc) :
    (l.foldl f s).fnc = s.fnc := by
  induction l generalizing s with
  | nil => rfl
  | cons a l ih => rw [List.foldl_cons, ih, h]

@[simp] theorem foldl_fuse {α : Type} (f : State → α → State) (l : List α) (s : State) (h : ∀ t x, (f t x).fuse = t.fuse) :
    (l.foldl f s).fuse = s.fuse := by
  induction l generalizing s with
  | nil => rfl
  | cons a l ih => rw [List.foldl_cons, ih, h]

@[simp] theorem foldl_fw {α : Type} (f : State → α → State) (l : List α) (s : State) (h : ∀ t x, (f t x).fw = t.fw) :
    (l.foldl f s).fw = s.fw := by
  induction l generalizing s with
  | nil => rfl
  | cons a l ih => rw [List.foldl_cons, ih, h]

@[simp] theorem foldl_lat {α : Type} (f : State → α → State) (l : List α) (s : State) (h : ∀ t x, (f t x).lat = t.lat) :
    (l.foldl f s).lat = s.lat := by
  induction l generalizing s with
  | nil => rfl
  | cons a l ih => rw [List.foldl_cons, ih, h]

@[simp] theorem foldl_cfg {α : Type} (f : State → α → State) (l : List α) (s : State) (h : ∀ t x, (f t x).cfg = t.cfg) :
    (l.foldl f s).cfg = s.cfg := by
  induction l generalizing s with
  | nil => rfl
  | cons a l ih => rw [List.foldl_cons, ih, h]

@[simp] theorem foldl_hif {α : Type} (f : State → α → State) (l : List α) (s : State) (h : ∀ t x, (f t x).hif = t.hif) :
    (l.foldl f s).hif = s.hif := by
  induction l generalizing s with
  | nil => rfl
  | cons a l ih => rw [List.foldl_cons, ih, h]

@[simp] theorem foldl_qps {α : Type} (f : State → α → State) (l : List α) (s : State) (h : ∀ t x, (f t x).qps = t.qps) :
    (l.foldl f s).qps = s.qps := by
  induction l generalizing s with
  | nil => rfl
  | cons a l ih => rw [List.foldl_cons, ih, h]

@[simp] theorem foldl_tags {α : Type} (f : State → α → State) (l : List α) (s : State) (h : ∀ t x, (f t x).tags = t.tags) :
    (l.foldl f s).tags = s.tags := by
  induction l generalizing s with
  | nil => rfl
  | cons a l ih => rw [List.foldl_cons, ih, h]

@[simp] theorem foldl_cmds {α : Type} (f : State → α → State) (l : List α) (s : State) (h : ∀ t x, (f t x).cmds = t.cmds) :
    (l.foldl f s).cmds = s.cmds := by
  induction l generalizing s with
  | nil => rfl
  | cons a l ih => rw [List.foldl_cons, ih, h]

@[simp] theorem foldl_fetchSeq {α : Type} (f : State → α → State) (l : List α) (s : State) (h : ∀ t x, (f t x).fetchSeq = t.fetchSeq) :
    (l.foldl f s).fetchSeq = s.fetchSeq := by
  induction l generalizing s with
  | nil => rfl
  | cons a l ih => rw [List.foldl_cons, ih, h]

@[simp] theorem foldl_elog {α : Type} (f : State → α → State) (l : List α) (s : State) (h : ∀ t x, (f t x).elog = t.elog) :
    (l.foldl f s).elog = s.elog := by
  induction l generalizing s with
  | nil => rfl
  | cons a l ih => rw [List.foldl_cons, ih, h]

@[simp] theorem foldl_elogSeq {α : Type} (f : State → α → State) (l : List α) (s : State) (h : ∀ t x, (f t x).elogSeq = t.elogSeq) :
    (l.foldl f s).elogSeq = s.elogSeq := by
  induction l generalizing s with
  | nil => rfl
  | cons a l ih => rw [List.foldl_cons, ih, h]

@[simp] theorem foldl_facets {α : Type} (f : State → α → State) (l : List α) (s : State) (h : ∀ t x, (f t x).facets = t.facets) :
    (l.foldl f s).facets = s.facets := by
  induction l generalizing s with
  | nil => rfl
  | cons a l ih => rw [List.foldl_cons, ih, h]

@[simp] theorem foldl_idx {α : Type} (f : State → α → State) (l : List α) (s : State) (h : ∀ t x, (f t x).idx = t.idx) :
    (l.foldl f s).idx = s.idx := by
  induction l generalizing s with
  | nil => rfl
  | cons a l ih => rw [List.foldl_cons, ih, h]

@[simp] theorem foldl_mods {α : Type} (f : State → α → State) (l : List α) (s : State) (h : ∀ t x, (f t x).mods = t.mods) :
    (l.foldl f s).mods = s.mods := by
  induction l generalizing s with
  | nil => rfl
  | cons a l ih => rw [List.foldl_cons, ih, h]

@[simp] theorem foldl_srch {α : Type} (f : State → α → State) (l : List α) (s : State) (h : ∀ t x, (f t x).srch = t.srch) :
    (l.foldl f s).srch = s.srch := by
  induction l generalizing s with
  | nil => rfl
  | cons a l ih => rw [List.foldl_cons, ih, h]

@[simp] theorem foldl_flash {α : Type} (f : State → α → State) (l : List α) (s : State) (h : ∀ t x, (f t x).flash = t.flash) :
    (l.foldl f s).flash = s.flash := by
  induction l generalizing s with
  | nil => rfl
  | cons a l ih => rw [List.foldl_cons, ih, h]

@[simp] theorem foldl_mem {α : Type} (f : State → α → State) (l : List α) (s : State) (h : ∀ t x, (f t x).mem = t.mem) :
    (l.foldl f s).mem = s.mem := by
  induction l generalizing s with
  | nil => rfl
  | cons a l ih => rw [List.foldl_cons, ih, h]

@[simp] theorem foldl_chd {α : Type} (f : State → α → State) (l : List α) (s : State) (h : ∀ t x, (f t x).chd = t.chd) :
    (l.foldl f s).chd = s.chd := by
  induction l generalizing s with
  | nil => rfl
  | cons a l ih => rw [List.foldl_cons, ih, h]

@[simp] theorem foldl_side {α : Type} (f : State → α → State) (l : List α) (s : State) (h : ∀ t x, (f t x).side = t.side) :
    (l.foldl f s).side = s.side := by
  induction l generalizing s with
  | nil => rfl
  | cons a l ih => rw [List.foldl_cons, ih, h]

@[simp] theorem foldl_serial {α : Type} (f : State → α → State) (l : List α) (s : State) (h : ∀ t x, (f t x).serial = t.serial) :
    (l.foldl f s).serial = s.serial := by
  induction l generalizing s with
  | nil => rfl
  | cons a l ih => rw [List.foldl_cons, ih, h]

@[simp] theorem foldl_out {α : Type} (f : State → α → State) (l : List α) (s : State) (h : ∀ t x, (f t x).out = t.out) :
    (l.foldl f s).out = s.out := by
  induction l generalizing s with
  | nil => rfl
  | cons a l ih => rw [List.foldl_cons, ih, h]

@[simp] theorem foldl_free {α : Type} (f : State → α → State) (l : List α) (s : State) (h : ∀ t x, (f t x).free = t.free) :
    (l.foldl f s).free = s.free := by
  induction l generalizing s with
  | nil => rfl
  | cons a l ih => rw [List.foldl_cons, ih, h]

@[simp] theorem foldl_pending {α : Type} (f : State → α → State) (l : List α) (s : State) (h : ∀ t x, (f t x).pending = t.pending) :
    (l.foldl f s).pending = s.pending := by
  induction l generalizing s with
  | nil => rfl
  | cons a l ih => rw [List.foldl_cons, ih, h]

@[simp] theorem emit_rest (o : Out) (s : State) :
    (emit o s).brd = s.brd ∧ (emit o s).evr = s.evr ∧ (emit o s).fnc = s.fnc ∧ (emit o s).fuse = s.fuse ∧
    (emit o s).fw = s.fw ∧ (emit o s).lat = s.lat ∧ (emit o s).cfg = s.cfg ∧ (emit o s).hif = s.hif ∧ (emit o s).qps = s.qps ∧
    (emit o s).tags = s.tags ∧ (emit o s).cmds = s.cmds ∧ (emit o s).fetchSeq = s.fetchSeq ∧ (emit o s).elog = s.elog ∧
    (emit o s).elogSeq = s.elogSeq ∧ (emit o s).facets = s.facets ∧ (emit o s).idx = s.idx ∧ (emit o s).mods = s.mods ∧
    (emit o s).srch = s.srch ∧ (emit o s).flash = s.flash ∧ (emit o s).mem = s.mem ∧ (emit o s).chd = s.chd ∧
    (emit o s).side = s.side ∧ (emit o s).serial = s.serial ∧ (emit o s).free = s.free ∧ (emit o s).pending = s.pending :=
  ⟨rfl, rfl, rfl, rfl, rfl, rfl, rfl, rfl, rfl, rfl, rfl, rfl, rfl, rfl, rfl, rfl, rfl, rfl, rfl, rfl, rfl, rfl, rfl, rfl, rfl⟩

@[simp] theorem updFacet_rest (f : Nat) (g : Facet → Facet) (s : State) :
    (updFacet f g s).brd = s.brd ∧ (updFacet f g s).evr = s.evr ∧ (updFacet f g s).fnc = s.fnc ∧
    (updFacet f g s).fuse = s.fuse ∧ (updFacet f g s).fw = s.fw ∧ (updFacet f g s).lat = s.lat ∧ (updFacet f g s).cfg = s.cfg ∧
    (updFacet f g s).hif = s.hif ∧ (updFacet f g s).qps = s.qps ∧ (updFacet f g s).tags = s.tags ∧
    (updFacet f g s).cmds = s.cmds ∧ (updFacet f g s).fetchSeq = s.fetchSeq ∧ (updFacet f g s).elog = s.elog ∧
    (updFacet f g s).elogSeq = s.elogSeq ∧ (updFacet f g s).idx = s.idx ∧ (updFacet f g s).mods = s.mods ∧
    (updFacet f g s).srch = s.srch ∧ (updFacet f g s).flash = s.flash ∧ (updFacet f g s).mem = s.mem ∧
    (updFacet f g s).chd = s.chd ∧ (updFacet f g s).side = s.side ∧ (updFacet f g s).serial = s.serial ∧
    (updFacet f g s).out = s.out ∧ (updFacet f g s).free = s.free ∧ (updFacet f g s).pending = s.pending :=
  ⟨rfl, rfl, rfl, rfl, rfl, rfl, rfl, rfl, rfl, rfl, rfl, rfl, rfl, rfl, rfl, rfl, rfl, rfl, rfl, rfl, rfl, rfl, rfl, rfl, rfl⟩

@[simp] theorem bump_rest (f k n : Nat) (s : State) :
    (bump f k n s).brd = s.brd ∧ (bump f k n s).evr = s.evr ∧ (bump f k n s).fnc = s.fnc ∧ (bump f k n s).fuse = s.fuse ∧
    (bump f k n s).fw = s.fw ∧ (bump f k n s).lat = s.lat ∧ (bump f k n s).cfg = s.cfg ∧ (bump f k n s).hif = s.hif ∧
    (bump f k n s).qps = s.qps ∧ (bump f k n s).tags = s.tags ∧ (bump f k n s).cmds = s.cmds ∧
    (bump f k n s).fetchSeq = s.fetchSeq ∧ (bump f k n s).elog = s.elog ∧ (bump f k n s).elogSeq = s.elogSeq ∧
    (bump f k n s).idx = s.idx ∧ (bump f k n s).mods = s.mods ∧ (bump f k n s).srch = s.srch ∧ (bump f k n s).flash = s.flash ∧
    (bump f k n s).mem = s.mem ∧ (bump f k n s).chd = s.chd ∧ (bump f k n s).side = s.side ∧ (bump f k n s).serial = s.serial ∧
    (bump f k n s).out = s.out ∧ (bump f k n s).free = s.free ∧ (bump f k n s).pending = s.pending :=
  ⟨rfl, rfl, rfl, rfl, rfl, rfl, rfl, rfl, rfl, rfl, rfl, rfl, rfl, rfl, rfl, rfl, rfl, rfl, rfl, rfl, rfl, rfl, rfl, rfl, rfl⟩

@[simp] theorem markChanged_rest (f : Nat) (s : State) :
    (markChanged f s).brd = s.brd ∧ (markChanged f s).evr = s.evr ∧ (markChanged f s).fnc = s.fnc ∧
    (markChanged f s).fuse = s.fuse ∧ (markChanged f s).fw = s.fw ∧ (markChanged f s).lat = s.lat ∧
    (markChanged f s).cfg = s.cfg ∧ (markChanged f s).hif = s.hif ∧ (markChanged f s).qps = s.qps ∧
    (markChanged f s).tags = s.tags ∧ (markChanged f s).cmds = s.cmds ∧ (markChanged f s).fetchSeq = s.fetchSeq ∧
    (markChanged f s).elog = s.elog ∧ (markChanged f s).elogSeq = s.elogSeq ∧ (markChanged f s).idx = s.idx ∧
    (markChanged f s).mods = s.mods ∧ (markChanged f s).srch = s.srch ∧ (markChanged f s).flash = s.flash ∧
    (markChanged f s).mem = s.mem ∧ (markChanged f s).chd = s.chd ∧ (markChanged f s).side = s.side ∧
    (markChanged f s).serial = s.serial ∧ (markChanged f s).out = s.out ∧ (markChanged f s).free = s.free ∧
    (markChanged f s).pending = s.pending :=
  ⟨rfl, rfl, rfl, rfl, rfl, rfl, rfl, rfl, rfl, rfl, rfl, rfl, rfl, rfl, rfl, rfl, rfl, rfl, rfl, rfl, rfl, rfl, rfl, rfl, rfl⟩

@[simp] theorem updIdx_rest (f slot : Nat) (g : Index → Index) (s : State) :
    (updIdx f slot g s).brd = s.brd ∧ (updIdx f slot g s).evr = s.evr ∧ (updIdx f slot g s).fnc = s.fnc ∧
    (updIdx f slot g s).fuse = s.fuse ∧ (updIdx f slot g s).fw = s.fw ∧ (updIdx f slot g s).lat = s.lat ∧
    (updIdx f slot g s).cfg = s.cfg ∧ (updIdx f slot g s).hif = s.hif ∧ (updIdx f slot g s).qps = s.qps ∧
    (updIdx f slot g s).tags = s.tags ∧ (updIdx f slot g s).cmds = s.cmds ∧ (updIdx f slot g s).fetchSeq = s.fetchSeq ∧
    (updIdx f slot g s).elog = s.elog ∧ (updIdx f slot g s).elogSeq = s.elogSeq ∧ (updIdx f slot g s).facets = s.facets ∧
    (updIdx f slot g s).mods = s.mods ∧ (updIdx f slot g s).srch = s.srch ∧ (updIdx f slot g s).flash = s.flash ∧
    (updIdx f slot g s).mem = s.mem ∧ (updIdx f slot g s).chd = s.chd ∧ (updIdx f slot g s).side = s.side ∧
    (updIdx f slot g s).serial = s.serial ∧ (updIdx f slot g s).out = s.out ∧ (updIdx f slot g s).free = s.free ∧
    (updIdx f slot g s).pending = s.pending :=
  ⟨rfl, rfl, rfl, rfl, rfl, rfl, rfl, rfl, rfl, rfl, rfl, rfl, rfl, rfl, rfl, rfl, rfl, rfl, rfl, rfl, rfl, rfl, rfl, rfl, rfl⟩

@[simp] theorem updMod_rest (f slot : Nat) (g : ModelSlot → ModelSlot) (s : State) :
    (updMod f slot g s).brd = s.brd ∧ (updMod f slot g s).evr = s.evr ∧ (updMod f slot g s).fnc = s.fnc ∧
    (updMod f slot g s).fuse = s.fuse ∧ (updMod f slot g s).fw = s.fw ∧ (updMod f slot g s).lat = s.lat ∧
    (updMod f slot g s).cfg = s.cfg ∧ (updMod f slot g s).hif = s.hif ∧ (updMod f slot g s).qps = s.qps ∧
    (updMod f slot g s).tags = s.tags ∧ (updMod f slot g s).cmds = s.cmds ∧ (updMod f slot g s).fetchSeq = s.fetchSeq ∧
    (updMod f slot g s).elog = s.elog ∧ (updMod f slot g s).elogSeq = s.elogSeq ∧ (updMod f slot g s).facets = s.facets ∧
    (updMod f slot g s).idx = s.idx ∧ (updMod f slot g s).srch = s.srch ∧ (updMod f slot g s).flash = s.flash ∧
    (updMod f slot g s).mem = s.mem ∧ (updMod f slot g s).chd = s.chd ∧ (updMod f slot g s).side = s.side ∧
    (updMod f slot g s).serial = s.serial ∧ (updMod f slot g s).out = s.out ∧ (updMod f slot g s).free = s.free ∧
    (updMod f slot g s).pending = s.pending :=
  ⟨rfl, rfl, rfl, rfl, rfl, rfl, rfl, rfl, rfl, rfl, rfl, rfl, rfl, rfl, rfl, rfl, rfl, rfl, rfl, rfl, rfl, rfl, rfl, rfl, rfl⟩

@[simp] theorem updQp_rest (q : Nat) (g : Qp → Qp) (s : State) :
    (updQp q g s).brd = s.brd ∧ (updQp q g s).evr = s.evr ∧ (updQp q g s).fnc = s.fnc ∧ (updQp q g s).fuse = s.fuse ∧
    (updQp q g s).fw = s.fw ∧ (updQp q g s).lat = s.lat ∧ (updQp q g s).cfg = s.cfg ∧ (updQp q g s).hif = s.hif ∧
    (updQp q g s).tags = s.tags ∧ (updQp q g s).cmds = s.cmds ∧ (updQp q g s).fetchSeq = s.fetchSeq ∧
    (updQp q g s).elog = s.elog ∧ (updQp q g s).elogSeq = s.elogSeq ∧ (updQp q g s).facets = s.facets ∧
    (updQp q g s).idx = s.idx ∧ (updQp q g s).mods = s.mods ∧ (updQp q g s).srch = s.srch ∧ (updQp q g s).flash = s.flash ∧
    (updQp q g s).mem = s.mem ∧ (updQp q g s).chd = s.chd ∧ (updQp q g s).side = s.side ∧ (updQp q g s).serial = s.serial ∧
    (updQp q g s).out = s.out ∧ (updQp q g s).free = s.free ∧ (updQp q g s).pending = s.pending :=
  ⟨rfl, rfl, rfl, rfl, rfl, rfl, rfl, rfl, rfl, rfl, rfl, rfl, rfl, rfl, rfl, rfl, rfl, rfl, rfl, rfl, rfl, rfl, rfl, rfl, rfl⟩

@[simp] theorem freezeWhere_rest (p : Qp → Bool) (cause : Nat) (s : State) :
    (freezeWhere p cause s).brd = s.brd ∧ (freezeWhere p cause s).evr = s.evr ∧ (freezeWhere p cause s).fnc = s.fnc ∧
    (freezeWhere p cause s).fuse = s.fuse ∧ (freezeWhere p cause s).fw = s.fw ∧ (freezeWhere p cause s).lat = s.lat ∧
    (freezeWhere p cause s).cfg = s.cfg ∧ (freezeWhere p cause s).hif = s.hif ∧ (freezeWhere p cause s).tags = s.tags ∧
    (freezeWhere p cause s).cmds = s.cmds ∧ (freezeWhere p cause s).fetchSeq = s.fetchSeq ∧
    (freezeWhere p cause s).elog = s.elog ∧ (freezeWhere p cause s).elogSeq = s.elogSeq ∧
    (freezeWhere p cause s).facets = s.facets ∧ (freezeWhere p cause s).idx = s.idx ∧ (freezeWhere p cause s).mods = s.mods ∧
    (freezeWhere p cause s).srch = s.srch ∧ (freezeWhere p cause s).flash = s.flash ∧ (freezeWhere p cause s).mem = s.mem ∧
    (freezeWhere p cause s).chd = s.chd ∧ (freezeWhere p cause s).side = s.side ∧ (freezeWhere p cause s).serial = s.serial ∧
    (freezeWhere p cause s).out = s.out ∧ (freezeWhere p cause s).free = s.free ∧ (freezeWhere p cause s).pending = s.pending :=
  ⟨rfl, rfl, rfl, rfl, rfl, rfl, rfl, rfl, rfl, rfl, rfl, rfl, rfl, rfl, rfl, rfl, rfl, rfl, rfl, rfl, rfl, rfl, rfl, rfl, rfl⟩

@[simp] theorem updCmd_rest (t : Nat) (g : Cmd → Cmd) (s : State) :
    (updCmd t g s).brd = s.brd ∧ (updCmd t g s).evr = s.evr ∧ (updCmd t g s).fnc = s.fnc ∧ (updCmd t g s).fuse = s.fuse ∧
    (updCmd t g s).fw = s.fw ∧ (updCmd t g s).lat = s.lat ∧ (updCmd t g s).cfg = s.cfg ∧ (updCmd t g s).hif = s.hif ∧
    (updCmd t g s).qps = s.qps ∧ (updCmd t g s).tags = s.tags ∧ (updCmd t g s).fetchSeq = s.fetchSeq ∧
    (updCmd t g s).elog = s.elog ∧ (updCmd t g s).elogSeq = s.elogSeq ∧ (updCmd t g s).facets = s.facets ∧
    (updCmd t g s).idx = s.idx ∧ (updCmd t g s).mods = s.mods ∧ (updCmd t g s).srch = s.srch ∧ (updCmd t g s).flash = s.flash ∧
    (updCmd t g s).mem = s.mem ∧ (updCmd t g s).chd = s.chd ∧ (updCmd t g s).side = s.side ∧ (updCmd t g s).serial = s.serial ∧
    (updCmd t g s).out = s.out ∧ (updCmd t g s).free = s.free ∧ (updCmd t g s).pending = s.pending :=
  ⟨rfl, rfl, rfl, rfl, rfl, rfl, rfl, rfl, rfl, rfl, rfl, rfl, rfl, rfl, rfl, rfl, rfl, rfl, rfl, rfl, rfl, rfl, rfl, rfl, rfl⟩

@[simp] theorem updTag_rest (t : Nat) (g : TagWord → TagWord) (s : State) :
    (updTag t g s).brd = s.brd ∧ (updTag t g s).evr = s.evr ∧ (updTag t g s).fnc = s.fnc ∧ (updTag t g s).fuse = s.fuse ∧
    (updTag t g s).fw = s.fw ∧ (updTag t g s).lat = s.lat ∧ (updTag t g s).cfg = s.cfg ∧ (updTag t g s).hif = s.hif ∧
    (updTag t g s).qps = s.qps ∧ (updTag t g s).cmds = s.cmds ∧ (updTag t g s).fetchSeq = s.fetchSeq ∧
    (updTag t g s).elog = s.elog ∧ (updTag t g s).elogSeq = s.elogSeq ∧ (updTag t g s).facets = s.facets ∧
    (updTag t g s).idx = s.idx ∧ (updTag t g s).mods = s.mods ∧ (updTag t g s).srch = s.srch ∧ (updTag t g s).flash = s.flash ∧
    (updTag t g s).mem = s.mem ∧ (updTag t g s).chd = s.chd ∧ (updTag t g s).side = s.side ∧ (updTag t g s).serial = s.serial ∧
    (updTag t g s).out = s.out ∧ (updTag t g s).free = s.free ∧ (updTag t g s).pending = s.pending :=
  ⟨rfl, rfl, rfl, rfl, rfl, rfl, rfl, rfl, rfl, rfl, rfl, rfl, rfl, rfl, rfl, rfl, rfl, rfl, rfl, rfl, rfl, rfl, rfl, rfl, rfl⟩

@[simp] theorem setPhase_rest (t : Nat) (p : CmdPhase) (s : State) :
    (setPhase t p s).brd = s.brd ∧ (setPhase t p s).evr = s.evr ∧ (setPhase t p s).fnc = s.fnc ∧
    (setPhase t p s).fuse = s.fuse ∧ (setPhase t p s).fw = s.fw ∧ (setPhase t p s).lat = s.lat ∧ (setPhase t p s).cfg = s.cfg ∧
    (setPhase t p s).hif = s.hif ∧ (setPhase t p s).qps = s.qps ∧ (setPhase t p s).fetchSeq = s.fetchSeq ∧
    (setPhase t p s).elog = s.elog ∧ (setPhase t p s).elogSeq = s.elogSeq ∧ (setPhase t p s).facets = s.facets ∧
    (setPhase t p s).idx = s.idx ∧ (setPhase t p s).mods = s.mods ∧ (setPhase t p s).srch = s.srch ∧
    (setPhase t p s).flash = s.flash ∧ (setPhase t p s).mem = s.mem ∧ (setPhase t p s).chd = s.chd ∧
    (setPhase t p s).side = s.side ∧ (setPhase t p s).serial = s.serial ∧ (setPhase t p s).out = s.out ∧
    (setPhase t p s).free = s.free ∧ (setPhase t p s).pending = s.pending :=
  ⟨rfl, rfl, rfl, rfl, rfl, rfl, rfl, rfl, rfl, rfl, rfl, rfl, rfl, rfl, rfl, rfl, rfl, rfl, rfl, rfl, rfl, rfl, rfl, rfl⟩

@[simp] theorem updQuery_rest (x : Nat) (g : Query → Query) (s : State) :
    (updQuery x g s).brd = s.brd ∧ (updQuery x g s).evr = s.evr ∧ (updQuery x g s).fnc = s.fnc ∧
    (updQuery x g s).fuse = s.fuse ∧ (updQuery x g s).fw = s.fw ∧ (updQuery x g s).lat = s.lat ∧ (updQuery x g s).cfg = s.cfg ∧
    (updQuery x g s).hif = s.hif ∧ (updQuery x g s).qps = s.qps ∧ (updQuery x g s).tags = s.tags ∧
    (updQuery x g s).cmds = s.cmds ∧ (updQuery x g s).fetchSeq = s.fetchSeq ∧ (updQuery x g s).elog = s.elog ∧
    (updQuery x g s).elogSeq = s.elogSeq ∧ (updQuery x g s).facets = s.facets ∧ (updQuery x g s).idx = s.idx ∧
    (updQuery x g s).mods = s.mods ∧ (updQuery x g s).flash = s.flash ∧ (updQuery x g s).mem = s.mem ∧
    (updQuery x g s).chd = s.chd ∧ (updQuery x g s).side = s.side ∧ (updQuery x g s).serial = s.serial ∧
    (updQuery x g s).out = s.out ∧ (updQuery x g s).free = s.free ∧ (updQuery x g s).pending = s.pending :=
  ⟨rfl, rfl, rfl, rfl, rfl, rfl, rfl, rfl, rfl, rfl, rfl, rfl, rfl, rfl, rfl, rfl, rfl, rfl, rfl, rfl, rfl, rfl, rfl, rfl, rfl⟩

@[simp] theorem updCell_rest (c : Nat) (g : CellSt → CellSt) (s : State) :
    (updCell c g s).brd = s.brd ∧ (updCell c g s).evr = s.evr ∧ (updCell c g s).fnc = s.fnc ∧ (updCell c g s).fuse = s.fuse ∧
    (updCell c g s).fw = s.fw ∧ (updCell c g s).lat = s.lat ∧ (updCell c g s).cfg = s.cfg ∧ (updCell c g s).hif = s.hif ∧
    (updCell c g s).qps = s.qps ∧ (updCell c g s).tags = s.tags ∧ (updCell c g s).cmds = s.cmds ∧
    (updCell c g s).fetchSeq = s.fetchSeq ∧ (updCell c g s).elog = s.elog ∧ (updCell c g s).elogSeq = s.elogSeq ∧
    (updCell c g s).facets = s.facets ∧ (updCell c g s).idx = s.idx ∧ (updCell c g s).mods = s.mods ∧
    (updCell c g s).flash = s.flash ∧ (updCell c g s).mem = s.mem ∧ (updCell c g s).chd = s.chd ∧
    (updCell c g s).side = s.side ∧ (updCell c g s).serial = s.serial ∧ (updCell c g s).out = s.out ∧
    (updCell c g s).free = s.free ∧ (updCell c g s).pending = s.pending :=
  ⟨rfl, rfl, rfl, rfl, rfl, rfl, rfl, rfl, rfl, rfl, rfl, rfl, rfl, rfl, rfl, rfl, rfl, rfl, rfl, rfl, rfl, rfl, rfl, rfl, rfl⟩

@[simp] theorem updDie_rest (ch d : Nat) (g : Die → Die) (s : State) :
    (updDie ch d g s).brd = s.brd ∧ (updDie ch d g s).evr = s.evr ∧ (updDie ch d g s).fnc = s.fnc ∧
    (updDie ch d g s).fuse = s.fuse ∧ (updDie ch d g s).fw = s.fw ∧ (updDie ch d g s).lat = s.lat ∧
    (updDie ch d g s).cfg = s.cfg ∧ (updDie ch d g s).hif = s.hif ∧ (updDie ch d g s).qps = s.qps ∧
    (updDie ch d g s).tags = s.tags ∧ (updDie ch d g s).cmds = s.cmds ∧ (updDie ch d g s).fetchSeq = s.fetchSeq ∧
    (updDie ch d g s).elog = s.elog ∧ (updDie ch d g s).elogSeq = s.elogSeq ∧ (updDie ch d g s).facets = s.facets ∧
    (updDie ch d g s).idx = s.idx ∧ (updDie ch d g s).mods = s.mods ∧ (updDie ch d g s).srch = s.srch ∧
    (updDie ch d g s).mem = s.mem ∧ (updDie ch d g s).chd = s.chd ∧ (updDie ch d g s).side = s.side ∧
    (updDie ch d g s).serial = s.serial ∧ (updDie ch d g s).out = s.out ∧ (updDie ch d g s).free = s.free ∧
    (updDie ch d g s).pending = s.pending :=
  ⟨rfl, rfl, rfl, rfl, rfl, rfl, rfl, rfl, rfl, rfl, rfl, rfl, rfl, rfl, rfl, rfl, rfl, rfl, rfl, rfl, rfl, rfl, rfl, rfl, rfl⟩

@[simp] theorem bumpRas_rest (k n : Nat) (s : State) :
    (bumpRas k n s).brd = s.brd ∧ (bumpRas k n s).evr = s.evr ∧ (bumpRas k n s).fnc = s.fnc ∧ (bumpRas k n s).fuse = s.fuse ∧
    (bumpRas k n s).fw = s.fw ∧ (bumpRas k n s).lat = s.lat ∧ (bumpRas k n s).cfg = s.cfg ∧ (bumpRas k n s).hif = s.hif ∧
    (bumpRas k n s).qps = s.qps ∧ (bumpRas k n s).tags = s.tags ∧ (bumpRas k n s).cmds = s.cmds ∧
    (bumpRas k n s).fetchSeq = s.fetchSeq ∧ (bumpRas k n s).elog = s.elog ∧ (bumpRas k n s).elogSeq = s.elogSeq ∧
    (bumpRas k n s).facets = s.facets ∧ (bumpRas k n s).idx = s.idx ∧ (bumpRas k n s).mods = s.mods ∧
    (bumpRas k n s).srch = s.srch ∧ (bumpRas k n s).flash = s.flash ∧ (bumpRas k n s).chd = s.chd ∧
    (bumpRas k n s).side = s.side ∧ (bumpRas k n s).serial = s.serial ∧ (bumpRas k n s).out = s.out ∧
    (bumpRas k n s).free = s.free ∧ (bumpRas k n s).pending = s.pending :=
  ⟨rfl, rfl, rfl, rfl, rfl, rfl, rfl, rfl, rfl, rfl, rfl, rfl, rfl, rfl, rfl, rfl, rfl, rfl, rfl, rfl, rfl, rfl, rfl, rfl, rfl⟩

@[simp] theorem badAccess_rest (s : State) :
    (badAccess s).brd = s.brd ∧ (badAccess s).evr = s.evr ∧ (badAccess s).fnc = s.fnc ∧ (badAccess s).fuse = s.fuse ∧
    (badAccess s).fw = s.fw ∧ (badAccess s).lat = s.lat ∧ (badAccess s).cfg = s.cfg ∧ (badAccess s).qps = s.qps ∧
    (badAccess s).tags = s.tags ∧ (badAccess s).cmds = s.cmds ∧ (badAccess s).fetchSeq = s.fetchSeq ∧
    (badAccess s).elog = s.elog ∧ (badAccess s).elogSeq = s.elogSeq ∧ (badAccess s).facets = s.facets ∧
    (badAccess s).idx = s.idx ∧ (badAccess s).mods = s.mods ∧ (badAccess s).srch = s.srch ∧ (badAccess s).flash = s.flash ∧
    (badAccess s).mem = s.mem ∧ (badAccess s).chd = s.chd ∧ (badAccess s).side = s.side ∧ (badAccess s).serial = s.serial ∧
    (badAccess s).out = s.out ∧ (badAccess s).free = s.free ∧ (badAccess s).pending = s.pending :=
  ⟨rfl, rfl, rfl, rfl, rfl, rfl, rfl, rfl, rfl, rfl, rfl, rfl, rfl, rfl, rfl, rfl, rfl, rfl, rfl, rfl, rfl, rfl, rfl, rfl, rfl⟩

@[simp] theorem useFree_rest (s : State) :
    (useFree s).brd = s.brd ∧ (useFree s).evr = s.evr ∧ (useFree s).fnc = s.fnc ∧ (useFree s).fuse = s.fuse ∧
    (useFree s).fw = s.fw ∧ (useFree s).lat = s.lat ∧ (useFree s).cfg = s.cfg ∧ (useFree s).hif = s.hif ∧
    (useFree s).qps = s.qps ∧ (useFree s).tags = s.tags ∧ (useFree s).cmds = s.cmds ∧ (useFree s).fetchSeq = s.fetchSeq ∧
    (useFree s).elog = s.elog ∧ (useFree s).elogSeq = s.elogSeq ∧ (useFree s).facets = s.facets ∧ (useFree s).idx = s.idx ∧
    (useFree s).mods = s.mods ∧ (useFree s).srch = s.srch ∧ (useFree s).flash = s.flash ∧ (useFree s).mem = s.mem ∧
    (useFree s).chd = s.chd ∧ (useFree s).side = s.side ∧ (useFree s).serial = s.serial ∧ (useFree s).out = s.out ∧
    (useFree s).pending = s.pending :=
  ⟨rfl, rfl, rfl, rfl, rfl, rfl, rfl, rfl, rfl, rfl, rfl, rfl, rfl, rfl, rfl, rfl, rfl, rfl, rfl, rfl, rfl, rfl, rfl, rfl, rfl⟩

@[simp] theorem updLink_rest (l : Nat) (g : Link → Link) (s : State) :
    (updLink l g s).brd = s.brd ∧ (updLink l g s).evr = s.evr ∧ (updLink l g s).fnc = s.fnc ∧ (updLink l g s).fuse = s.fuse ∧
    (updLink l g s).fw = s.fw ∧ (updLink l g s).lat = s.lat ∧ (updLink l g s).cfg = s.cfg ∧ (updLink l g s).hif = s.hif ∧
    (updLink l g s).qps = s.qps ∧ (updLink l g s).tags = s.tags ∧ (updLink l g s).cmds = s.cmds ∧
    (updLink l g s).fetchSeq = s.fetchSeq ∧ (updLink l g s).elog = s.elog ∧ (updLink l g s).elogSeq = s.elogSeq ∧
    (updLink l g s).facets = s.facets ∧ (updLink l g s).idx = s.idx ∧ (updLink l g s).mods = s.mods ∧
    (updLink l g s).srch = s.srch ∧ (updLink l g s).flash = s.flash ∧ (updLink l g s).mem = s.mem ∧
    (updLink l g s).side = s.side ∧ (updLink l g s).serial = s.serial ∧ (updLink l g s).out = s.out ∧
    (updLink l g s).free = s.free ∧ (updLink l g s).pending = s.pending :=
  ⟨rfl, rfl, rfl, rfl, rfl, rfl, rfl, rfl, rfl, rfl, rfl, rfl, rfl, rfl, rfl, rfl, rfl, rfl, rfl, rfl, rfl, rfl, rfl, rfl, rfl⟩

@[simp] theorem updDom_rest (q : Nat) (g : DomQ → DomQ) (s : State) :
    (updDom q g s).brd = s.brd ∧ (updDom q g s).evr = s.evr ∧ (updDom q g s).fnc = s.fnc ∧ (updDom q g s).fuse = s.fuse ∧
    (updDom q g s).fw = s.fw ∧ (updDom q g s).lat = s.lat ∧ (updDom q g s).cfg = s.cfg ∧ (updDom q g s).hif = s.hif ∧
    (updDom q g s).qps = s.qps ∧ (updDom q g s).tags = s.tags ∧ (updDom q g s).cmds = s.cmds ∧
    (updDom q g s).fetchSeq = s.fetchSeq ∧ (updDom q g s).elog = s.elog ∧ (updDom q g s).elogSeq = s.elogSeq ∧
    (updDom q g s).facets = s.facets ∧ (updDom q g s).idx = s.idx ∧ (updDom q g s).mods = s.mods ∧
    (updDom q g s).srch = s.srch ∧ (updDom q g s).flash = s.flash ∧ (updDom q g s).mem = s.mem ∧ (updDom q g s).side = s.side ∧
    (updDom q g s).serial = s.serial ∧ (updDom q g s).out = s.out ∧ (updDom q g s).free = s.free ∧
    (updDom q g s).pending = s.pending :=
  ⟨rfl, rfl, rfl, rfl, rfl, rfl, rfl, rfl, rfl, rfl, rfl, rfl, rfl, rfl, rfl, rfl, rfl, rfl, rfl, rfl, rfl, rfl, rfl, rfl, rfl⟩

@[simp] theorem updMig_rest (g : Mig → Mig) (s : State) :
    (updMig g s).brd = s.brd ∧ (updMig g s).evr = s.evr ∧ (updMig g s).fnc = s.fnc ∧ (updMig g s).fuse = s.fuse ∧
    (updMig g s).fw = s.fw ∧ (updMig g s).lat = s.lat ∧ (updMig g s).cfg = s.cfg ∧ (updMig g s).hif = s.hif ∧
    (updMig g s).qps = s.qps ∧ (updMig g s).tags = s.tags ∧ (updMig g s).cmds = s.cmds ∧ (updMig g s).fetchSeq = s.fetchSeq ∧
    (updMig g s).elog = s.elog ∧ (updMig g s).elogSeq = s.elogSeq ∧ (updMig g s).facets = s.facets ∧ (updMig g s).idx = s.idx ∧
    (updMig g s).mods = s.mods ∧ (updMig g s).srch = s.srch ∧ (updMig g s).flash = s.flash ∧ (updMig g s).mem = s.mem ∧
    (updMig g s).side = s.side ∧ (updMig g s).serial = s.serial ∧ (updMig g s).out = s.out ∧ (updMig g s).free = s.free ∧
    (updMig g s).pending = s.pending :=
  ⟨rfl, rfl, rfl, rfl, rfl, rfl, rfl, rfl, rfl, rfl, rfl, rfl, rfl, rfl, rfl, rfl, rfl, rfl, rfl, rfl, rfl, rfl, rfl, rfl, rfl⟩

-- What a lookup finds after an update that keeps the key.

theorem qpOf_updQp (n : Nat) (g : Qp → Qp) (s : State) (h : ∀ x, (g x).num = x.num) : qpOf (updQp n g s) n = (qpOf s n).map g :=
  find?_updFirst _ g s.qps fun a ha => by simpa [h a] using ha

theorem qpOf_updQp_ne (n m : Nat) (g : Qp → Qp) (s : State) (h : ∀ x, (g x).num = x.num) (hm : m ≠ n) :
    qpOf (updQp n g s) m = qpOf s m :=
  find?_updFirst_ne _ _ g s.qps fun a ha => by
    have : a.num = n := by simpa using ha
    simp [h a, this, Ne.symm hm]

theorem cmdOf_updCmd (t : Nat) (g : Cmd → Cmd) (s : State) (h : ∀ x, (g x).tag = x.tag) : cmdOf (updCmd t g s) t = (cmdOf s t).map g :=
  find?_updFirst _ g s.cmds fun a ha => by simpa [h a] using ha

/-- A command replaced whole by one that holds the same tag. -/
theorem cmdOf_replace (t : Nat) (c : Cmd) (s : State) (h : c.tag = t) : cmdOf (updCmd t (fun _ => c) s) t = (cmdOf s t).map fun _ => c :=
  find?_updFirst _ _ s.cmds fun a _ => by simp [h]

theorem cmdOf_updCmd_ne (t u : Nat) (g : Cmd → Cmd) (s : State) (h : ∀ x, (g x).tag = x.tag) (hu : u ≠ t) :
    cmdOf (updCmd t g s) u = cmdOf s u :=
  find?_updFirst_ne _ _ g s.cmds fun a ha => by
    have : a.tag = t := by simpa using ha
    simp [h a, this, Ne.symm hu]

theorem idxOf_updIdx (f slot : Nat) (g : Index → Index) (s : State) (h : ∀ x, (g x).geo = x.geo) :
    idxOf (updIdx f slot g s) f slot = (idxOf s f slot).map g :=
  find?_updFirst _ g s.idx fun a ha => by simpa [h a] using ha

theorem modOf_updMod (f slot : Nat) (g : ModelSlot → ModelSlot) (s : State)
    (h : ∀ x, (g x).facet = x.facet ∧ (g x).slot = x.slot) : modOf (updMod f slot g s) f slot = (modOf s f slot).map g :=
  find?_updFirst _ g s.mods fun a ha => by simpa [(h a).1, (h a).2] using ha

theorem queryOf_updQuery (x : Nat) (g : Query → Query) (s : State) (h : ∀ q, (g q).ctx = q.ctx) :
    queryOf (updQuery x g s) x = (queryOf s x).map g :=
  find?_updFirst _ g s.srch.queries fun a ha => by simpa [h a] using ha

theorem domOf_updDom (q : Nat) (g : DomQ → DomQ) (s : State) (h : ∀ d, (g d).qid = d.qid) :
    domOf (updDom q g s) q = (domOf s q).map g :=
  find?_updFirst _ g s.chd.dom fun a ha => by simpa [h a] using ha

theorem facetOf_updFacet (f : Nat) (g : Facet → Facet) (s : State) (h : ∀ x, (g x).num = x.num) :
    facetOf (updFacet f g s) f = g (facetOf s f) :=
  getD_find?_upd (fun x : Facet => x.num == f) g s.facets (Facet.blank f) (by simp [Facet.blank]) fun a => by simp [h a]

theorem facetOf_updFacet_ne (f k : Nat) (g : Facet → Facet) (s : State) (h : ∀ x, (g x).num = x.num) (hk : k ≠ f) :
    facetOf (updFacet f g s) k = facetOf s k := by
  unfold facetOf updFacet
  rw [find?_upd_ne (fun x : Facet => x.num == f) (fun x : Facet => x.num == k) g s.facets (Facet.blank f)]
  · intro a ha
    have : a.num = f := by simpa using ha
    simp [h a, this, Ne.symm hk]
  · have : (g (Facet.blank f)).num = f := h _
    simp [this, Ne.symm hk]

theorem tagOf_updTag (t : Nat) (g : TagWord → TagWord) (s : State) (h : ∀ x, (g x).tag = x.tag) :
    tagOf (updTag t g s) t = g (tagOf s t) :=
  getD_find?_upd (fun x : TagWord => x.tag == t) g s.tags ⟨t, 0, false, 0, 0, 0, 0⟩ (by simp) fun a => by simp [h a]

theorem cellOf_updCell (c : Nat) (g : CellSt → CellSt) (s : State) (h : ∀ x, (g x).cell = x.cell) :
    cellOf (updCell c g s) c = g (cellOf s c) :=
  getD_find?_upd (fun x : CellSt => x.cell == c) g s.srch.cells ⟨c, none, 0, none, false, false, 0⟩ (by simp) fun a => by simp [h a]

theorem dieOf_updDie (ch d : Nat) (g : Die → Die) (s : State) (h : ∀ x, (g x).channel = x.channel ∧ (g x).die = x.die) :
    dieOf (updDie ch d g s) ch d = g (dieOf s ch d) :=
  getD_find?_upd (fun x : Die => x.channel == ch && x.die == d) g s.flash.dies (Die.blank ch d) (by simp [Die.blank]) fun a => by
    simp [(h a).1, (h a).2]

theorem linkOf_updLink (l : Nat) (g : Link → Link) (s : State) (h : ∀ x, (g x).num = x.num) (hl : (s.chd.links.any (·.num == l)) = true) :
    linkOf (updLink l g s) l = g (linkOf s l) := by
  unfold linkOf updLink
  rw [find?_updFirst _ g s.chd.links fun a ha => by simpa [h a] using ha]
  obtain ⟨a, ha, hp⟩ := List.any_eq_true.mp hl
  cases hf : s.chd.links.find? (·.num == l) with
  | none => exact absurd hp (by simpa using List.find?_eq_none.mp hf a ha)
  | some b => rfl

end Sys2Proof.Machine
end

