-- ==== Sys2Proof/Laws/Frame.lean ====
section
/-! SUPPORT. For each operation on the whole state, the fields of State it leaves alone, whatever it is applied to. -/

set_option linter.unreachableTactic false
set_option linter.unusedTactic false
set_option linter.unusedSimpArgs false
set_option linter.unusedVariables false

namespace Sys2Proof.Machine

theorem foldl_ind (P : State → Prop) {α : Type} (f : State → α → State) (l : List α) (s : State) (h0 : P s)
    (h : ∀ t x, P t → P (f t x)) : P (l.foldl f s) := by
  induction l generalizing s with
  | nil => exact h0
  | cons a l ih => exact ih _ (h _ _ h0)

theorem foldl_proj {α β : Type} (p : State → β) (f : State → α → State) (l : List α) (s : State) (h : ∀ t x, p (f t x) = p t) :
    p (l.foldl f s) = p s := by
  induction l generalizing s with
  | nil => rfl
  | cons a l ih => rw [List.foldl_cons, ih, h]

theorem foldr_proj {α β : Type} (p : State → β) (f : α → State → State) (l : List α) (s : State) (h : ∀ x t, p (f x t) = p t) :
    p (l.foldr f s) = p s := by
  induction l with
  | nil => rfl
  | cons a l ih => rw [List.foldr_cons, h, ih]

@[simp] theorem countHealth_rest (before after : State) :
    (countHealth before after).brd = after.brd ∧ (countHealth before after).evr = after.evr ∧ (countHealth before after).fnc = after.fnc ∧
    (countHealth before after).fuse = after.fuse ∧ (countHealth before after).fw = after.fw ∧ (countHealth before after).lat = after.lat ∧
    (countHealth before after).cfg = after.cfg ∧ (countHealth before after).qps = after.qps ∧
    (countHealth before after).tags = after.tags ∧ (countHealth before after).cmds = after.cmds ∧
    (countHealth before after).fetchSeq = after.fetchSeq ∧ (countHealth before after).elog = after.elog ∧
    (countHealth before after).elogSeq = after.elogSeq ∧ (countHealth before after).facets = after.facets ∧
    (countHealth before after).idx = after.idx ∧ (countHealth before after).mods = after.mods ∧
    (countHealth before after).srch = after.srch ∧ (countHealth before after).flash = after.flash ∧
    (countHealth before after).mem = after.mem ∧ (countHealth before after).chd = after.chd ∧
    (countHealth before after).side = after.side ∧ (countHealth before after).serial = after.serial ∧
    (countHealth before after).out = after.out ∧ (countHealth before after).free = after.free ∧
    (countHealth before after).pending = after.pending := by
  unfold countHealth
  repeat' (first | (simp; done) | split | (dsimp only; split))

@[simp] theorem sendMsi_rest (v : Nat) (s : State) :
    (sendMsi v s).brd = s.brd ∧ (sendMsi v s).evr = s.evr ∧ (sendMsi v s).fnc = s.fnc ∧ (sendMsi v s).fuse = s.fuse ∧
    (sendMsi v s).fw = s.fw ∧ (sendMsi v s).lat = s.lat ∧ (sendMsi v s).cfg = s.cfg ∧ (sendMsi v s).qps = s.qps ∧
    (sendMsi v s).tags = s.tags ∧ (sendMsi v s).cmds = s.cmds ∧ (sendMsi v s).fetchSeq = s.fetchSeq ∧ (sendMsi v s).elog = s.elog ∧
    (sendMsi v s).elogSeq = s.elogSeq ∧ (sendMsi v s).facets = s.facets ∧ (sendMsi v s).idx = s.idx ∧ (sendMsi v s).mods = s.mods ∧
    (sendMsi v s).srch = s.srch ∧ (sendMsi v s).flash = s.flash ∧ (sendMsi v s).mem = s.mem ∧ (sendMsi v s).chd = s.chd ∧
    (sendMsi v s).side = s.side ∧ (sendMsi v s).serial = s.serial ∧ (sendMsi v s).free = s.free ∧ (sendMsi v s).pending = s.pending := by
  unfold sendMsi
  repeat' (first | (simp; done) | split | (dsimp only; split))

@[simp] theorem endFreeze_rest (s : State) :
    (endFreeze s).brd = s.brd ∧ (endFreeze s).fnc = s.fnc ∧ (endFreeze s).fuse = s.fuse ∧ (endFreeze s).fw = s.fw ∧
    (endFreeze s).lat = s.lat ∧ (endFreeze s).cfg = s.cfg ∧ (endFreeze s).hif = s.hif ∧ (endFreeze s).qps = s.qps ∧
    (endFreeze s).tags = s.tags ∧ (endFreeze s).cmds = s.cmds ∧ (endFreeze s).fetchSeq = s.fetchSeq ∧ (endFreeze s).elog = s.elog ∧
    (endFreeze s).elogSeq = s.elogSeq ∧ (endFreeze s).facets = s.facets ∧ (endFreeze s).idx = s.idx ∧ (endFreeze s).mods = s.mods ∧
    (endFreeze s).srch = s.srch ∧ (endFreeze s).flash = s.flash ∧ (endFreeze s).mem = s.mem ∧ (endFreeze s).chd = s.chd ∧
    (endFreeze s).side = s.side ∧ (endFreeze s).serial = s.serial ∧ (endFreeze s).out = s.out ∧ (endFreeze s).free = s.free ∧
    (endFreeze s).pending = s.pending := by
  unfold endFreeze
  repeat' (first | (simp; done) | split | (dsimp only; split))

@[simp] theorem recordSev_rest (code sev subject : Nat) (snap : List Nat) (s : State) :
    (recordSev code sev subject snap s).brd = s.brd ∧ (recordSev code sev subject snap s).fnc = s.fnc ∧
    (recordSev code sev subject snap s).fuse = s.fuse ∧ (recordSev code sev subject snap s).fw = s.fw ∧
    (recordSev code sev subject snap s).lat = s.lat ∧ (recordSev code sev subject snap s).cfg = s.cfg ∧
    (recordSev code sev subject snap s).qps = s.qps ∧ (recordSev code sev subject snap s).tags = s.tags ∧
    (recordSev code sev subject snap s).cmds = s.cmds ∧ (recordSev code sev subject snap s).fetchSeq = s.fetchSeq ∧
    (recordSev code sev subject snap s).elog = s.elog ∧ (recordSev code sev subject snap s).elogSeq = s.elogSeq ∧
    (recordSev code sev subject snap s).facets = s.facets ∧ (recordSev code sev subject snap s).idx = s.idx ∧
    (recordSev code sev subject snap s).mods = s.mods ∧ (recordSev code sev subject snap s).srch = s.srch ∧
    (recordSev code sev subject snap s).flash = s.flash ∧ (recordSev code sev subject snap s).mem = s.mem ∧
    (recordSev code sev subject snap s).chd = s.chd ∧ (recordSev code sev subject snap s).side = s.side ∧
    (recordSev code sev subject snap s).serial = s.serial ∧ (recordSev code sev subject snap s).free = s.free ∧
    (recordSev code sev subject snap s).pending = s.pending := by
  unfold recordSev
  repeat' (first | (simp; done) | split | (dsimp only; split))

@[simp] theorem record_rest (code subject : Nat) (snap : List Nat) (s : State) :
    (record code subject snap s).brd = s.brd ∧ (record code subject snap s).fnc = s.fnc ∧ (record code subject snap s).fuse = s.fuse ∧
    (record code subject snap s).fw = s.fw ∧ (record code subject snap s).lat = s.lat ∧ (record code subject snap s).cfg = s.cfg ∧
    (record code subject snap s).qps = s.qps ∧ (record code subject snap s).tags = s.tags ∧ (record code subject snap s).cmds = s.cmds ∧
    (record code subject snap s).fetchSeq = s.fetchSeq ∧ (record code subject snap s).elog = s.elog ∧
    (record code subject snap s).elogSeq = s.elogSeq ∧ (record code subject snap s).facets = s.facets ∧
    (record code subject snap s).idx = s.idx ∧ (record code subject snap s).mods = s.mods ∧ (record code subject snap s).srch = s.srch ∧
    (record code subject snap s).flash = s.flash ∧ (record code subject snap s).mem = s.mem ∧ (record code subject snap s).chd = s.chd ∧
    (record code subject snap s).side = s.side ∧ (record code subject snap s).serial = s.serial ∧
    (record code subject snap s).free = s.free ∧ (record code subject snap s).pending = s.pending := by
  unfold record
  repeat' (first | (simp; done) | split | (dsimp only; split))

@[simp] theorem freezeFacet_rest (f cause : Nat) (s : State) :
    (freezeFacet f cause s).brd = s.brd ∧ (freezeFacet f cause s).evr = s.evr ∧ (freezeFacet f cause s).fnc = s.fnc ∧
    (freezeFacet f cause s).fuse = s.fuse ∧ (freezeFacet f cause s).fw = s.fw ∧ (freezeFacet f cause s).lat = s.lat ∧
    (freezeFacet f cause s).cfg = s.cfg ∧ (freezeFacet f cause s).hif = s.hif ∧ (freezeFacet f cause s).tags = s.tags ∧
    (freezeFacet f cause s).cmds = s.cmds ∧ (freezeFacet f cause s).fetchSeq = s.fetchSeq ∧ (freezeFacet f cause s).elog = s.elog ∧
    (freezeFacet f cause s).elogSeq = s.elogSeq ∧ (freezeFacet f cause s).idx = s.idx ∧ (freezeFacet f cause s).mods = s.mods ∧
    (freezeFacet f cause s).srch = s.srch ∧ (freezeFacet f cause s).flash = s.flash ∧ (freezeFacet f cause s).mem = s.mem ∧
    (freezeFacet f cause s).chd = s.chd ∧ (freezeFacet f cause s).side = s.side ∧ (freezeFacet f cause s).serial = s.serial ∧
    (freezeFacet f cause s).out = s.out ∧ (freezeFacet f cause s).free = s.free ∧ (freezeFacet f cause s).pending = s.pending := by
  unfold freezeFacet
  repeat' (first | (simp; done) | split | (dsimp only; split))

@[simp] theorem signalQp_rest (q : Nat) (s : State) :
    (signalQp q s).brd = s.brd ∧ (signalQp q s).evr = s.evr ∧ (signalQp q s).fnc = s.fnc ∧ (signalQp q s).fuse = s.fuse ∧
    (signalQp q s).fw = s.fw ∧ (signalQp q s).lat = s.lat ∧ (signalQp q s).cfg = s.cfg ∧ (signalQp q s).tags = s.tags ∧
    (signalQp q s).cmds = s.cmds ∧ (signalQp q s).fetchSeq = s.fetchSeq ∧ (signalQp q s).elog = s.elog ∧
    (signalQp q s).elogSeq = s.elogSeq ∧ (signalQp q s).facets = s.facets ∧ (signalQp q s).idx = s.idx ∧ (signalQp q s).mods = s.mods ∧
    (signalQp q s).srch = s.srch ∧ (signalQp q s).flash = s.flash ∧ (signalQp q s).mem = s.mem ∧ (signalQp q s).chd = s.chd ∧
    (signalQp q s).side = s.side ∧ (signalQp q s).serial = s.serial ∧ (signalQp q s).free = s.free ∧ (signalQp q s).pending = s.pending := by
  unfold signalQp
  repeat' (first | (simp; done) | split | (dsimp only; split))

@[simp] theorem logError_rest (c : Cmd) (st : Nat) (at' : ErrAt) (s : State) :
    (logError c st at' s).brd = s.brd ∧ (logError c st at' s).evr = s.evr ∧ (logError c st at' s).fnc = s.fnc ∧
    (logError c st at' s).fuse = s.fuse ∧ (logError c st at' s).fw = s.fw ∧ (logError c st at' s).lat = s.lat ∧
    (logError c st at' s).cfg = s.cfg ∧ (logError c st at' s).hif = s.hif ∧ (logError c st at' s).qps = s.qps ∧
    (logError c st at' s).tags = s.tags ∧ (logError c st at' s).cmds = s.cmds ∧ (logError c st at' s).fetchSeq = s.fetchSeq ∧
    (logError c st at' s).facets = s.facets ∧ (logError c st at' s).idx = s.idx ∧ (logError c st at' s).mods = s.mods ∧
    (logError c st at' s).srch = s.srch ∧ (logError c st at' s).flash = s.flash ∧ (logError c st at' s).mem = s.mem ∧
    (logError c st at' s).chd = s.chd ∧ (logError c st at' s).side = s.side ∧ (logError c st at' s).serial = s.serial ∧
    (logError c st at' s).out = s.out ∧ (logError c st at' s).free = s.free ∧ (logError c st at' s).pending = s.pending := by
  unfold logError
  repeat' (first | (simp; done) | split | (dsimp only; split))

@[simp] theorem post_rest (c : Cmd) (st0 flags epoch : Nat) (result : Bytes) (at' : ErrAt) (s : State) :
    (post c st0 flags epoch result at' s).brd = s.brd ∧ (post c st0 flags epoch result at' s).evr = s.evr ∧
    (post c st0 flags epoch result at' s).fnc = s.fnc ∧ (post c st0 flags epoch result at' s).fuse = s.fuse ∧
    (post c st0 flags epoch result at' s).fw = s.fw ∧ (post c st0 flags epoch result at' s).lat = s.lat ∧
    (post c st0 flags epoch result at' s).cfg = s.cfg ∧ (post c st0 flags epoch result at' s).fetchSeq = s.fetchSeq ∧
    (post c st0 flags epoch result at' s).facets = s.facets ∧ (post c st0 flags epoch result at' s).idx = s.idx ∧
    (post c st0 flags epoch result at' s).mods = s.mods ∧ (post c st0 flags epoch result at' s).srch = s.srch ∧
    (post c st0 flags epoch result at' s).flash = s.flash ∧ (post c st0 flags epoch result at' s).mem = s.mem ∧
    (post c st0 flags epoch result at' s).chd = s.chd ∧ (post c st0 flags epoch result at' s).side = s.side ∧
    (post c st0 flags epoch result at' s).serial = s.serial ∧ (post c st0 flags epoch result at' s).free = s.free ∧
    (post c st0 flags epoch result at' s).pending = s.pending := by
  unfold post
  repeat' (first | (simp; done) | split | (dsimp only; split))

@[simp] theorem finish_rest (c : Cmd) (st flags epoch : Nat) (result : Bytes) (at' : ErrAt) (s : State) :
    (finish c st flags epoch result at' s).brd = s.brd ∧ (finish c st flags epoch result at' s).evr = s.evr ∧
    (finish c st flags epoch result at' s).fnc = s.fnc ∧ (finish c st flags epoch result at' s).fuse = s.fuse ∧
    (finish c st flags epoch result at' s).fw = s.fw ∧ (finish c st flags epoch result at' s).lat = s.lat ∧
    (finish c st flags epoch result at' s).cfg = s.cfg ∧ (finish c st flags epoch result at' s).fetchSeq = s.fetchSeq ∧
    (finish c st flags epoch result at' s).facets = s.facets ∧ (finish c st flags epoch result at' s).idx = s.idx ∧
    (finish c st flags epoch result at' s).mods = s.mods ∧ (finish c st flags epoch result at' s).srch = s.srch ∧
    (finish c st flags epoch result at' s).flash = s.flash ∧ (finish c st flags epoch result at' s).mem = s.mem ∧
    (finish c st flags epoch result at' s).chd = s.chd ∧ (finish c st flags epoch result at' s).side = s.side ∧
    (finish c st flags epoch result at' s).serial = s.serial ∧ (finish c st flags epoch result at' s).free = s.free ∧
    (finish c st flags epoch result at' s).pending = s.pending := by
  have key := @foldl_ind (fun u : State => u.brd = s.brd ∧ u.evr = s.evr ∧ u.fnc = s.fnc ∧ u.fuse = s.fuse ∧ u.fw = s.fw ∧ u.lat = s.lat ∧ u.cfg = s.cfg ∧
      u.fetchSeq = s.fetchSeq ∧ u.facets = s.facets ∧ u.idx = s.idx ∧ u.mods = s.mods ∧ u.srch = s.srch ∧ u.flash = s.flash ∧
      u.mem = s.mem ∧ u.chd = s.chd ∧ u.side = s.side ∧ u.serial = s.serial ∧ u.free = s.free ∧ u.pending = s.pending)
  unfold finish
  repeat' (first | (simp; done) | split | (dsimp only; split) | refine key _ _ _ ?_ ?_ |
    (dsimp only; refine key _ _ _ ?_ ?_) | intro t x h | (simp [h]; done))

@[simp] theorem succeed_rest (c : Cmd) (result : Bytes) (s : State) :
    (succeed c result s).brd = s.brd ∧ (succeed c result s).evr = s.evr ∧ (succeed c result s).fnc = s.fnc ∧
    (succeed c result s).fuse = s.fuse ∧ (succeed c result s).fw = s.fw ∧ (succeed c result s).lat = s.lat ∧
    (succeed c result s).cfg = s.cfg ∧ (succeed c result s).fetchSeq = s.fetchSeq ∧ (succeed c result s).facets = s.facets ∧
    (succeed c result s).idx = s.idx ∧ (succeed c result s).mods = s.mods ∧ (succeed c result s).srch = s.srch ∧
    (succeed c result s).flash = s.flash ∧ (succeed c result s).mem = s.mem ∧ (succeed c result s).chd = s.chd ∧
    (succeed c result s).side = s.side ∧ (succeed c result s).serial = s.serial ∧ (succeed c result s).free = s.free ∧
    (succeed c result s).pending = s.pending := by
  unfold succeed
  repeat' (first | (simp; done) | split | (dsimp only; split))

@[simp] theorem refuse_rest (c : Cmd) (st check detail fld : Nat) (s : State) :
    (refuse c st check detail fld s).brd = s.brd ∧ (refuse c st check detail fld s).evr = s.evr ∧
    (refuse c st check detail fld s).fnc = s.fnc ∧ (refuse c st check detail fld s).fuse = s.fuse ∧
    (refuse c st check detail fld s).fw = s.fw ∧ (refuse c st check detail fld s).lat = s.lat ∧
    (refuse c st check detail fld s).cfg = s.cfg ∧ (refuse c st check detail fld s).fetchSeq = s.fetchSeq ∧
    (refuse c st check detail fld s).facets = s.facets ∧ (refuse c st check detail fld s).idx = s.idx ∧
    (refuse c st check detail fld s).mods = s.mods ∧ (refuse c st check detail fld s).srch = s.srch ∧
    (refuse c st check detail fld s).flash = s.flash ∧ (refuse c st check detail fld s).mem = s.mem ∧
    (refuse c st check detail fld s).chd = s.chd ∧ (refuse c st check detail fld s).side = s.side ∧
    (refuse c st check detail fld s).serial = s.serial ∧ (refuse c st check detail fld s).free = s.free ∧
    (refuse c st check detail fld s).pending = s.pending := by
  unfold refuse
  repeat' (first | (simp; done) | split | (dsimp only; split))

@[simp] theorem writeHost_rest (c : Cmd) (a : Nat) (bs : Bytes) (s : State) :
    (writeHost c a bs s).brd = s.brd ∧ (writeHost c a bs s).fnc = s.fnc ∧ (writeHost c a bs s).fuse = s.fuse ∧
    (writeHost c a bs s).fw = s.fw ∧ (writeHost c a bs s).lat = s.lat ∧ (writeHost c a bs s).cfg = s.cfg ∧
    (writeHost c a bs s).qps = s.qps ∧ (writeHost c a bs s).tags = s.tags ∧ (writeHost c a bs s).fetchSeq = s.fetchSeq ∧
    (writeHost c a bs s).elog = s.elog ∧ (writeHost c a bs s).elogSeq = s.elogSeq ∧ (writeHost c a bs s).facets = s.facets ∧
    (writeHost c a bs s).idx = s.idx ∧ (writeHost c a bs s).mods = s.mods ∧ (writeHost c a bs s).srch = s.srch ∧
    (writeHost c a bs s).flash = s.flash ∧ (writeHost c a bs s).chd = s.chd ∧ (writeHost c a bs s).side = s.side ∧
    (writeHost c a bs s).serial = s.serial ∧ (writeHost c a bs s).free = s.free ∧ (writeHost c a bs s).pending = s.pending := by
  unfold writeHost
  repeat' (first | (simp; done) | split | (dsimp only; split))

@[simp] theorem trimCache_rest (f : Nat) (s : State) :
    (trimCache f s).brd = s.brd ∧ (trimCache f s).evr = s.evr ∧ (trimCache f s).fnc = s.fnc ∧ (trimCache f s).fuse = s.fuse ∧
    (trimCache f s).fw = s.fw ∧ (trimCache f s).lat = s.lat ∧ (trimCache f s).cfg = s.cfg ∧ (trimCache f s).hif = s.hif ∧
    (trimCache f s).qps = s.qps ∧ (trimCache f s).tags = s.tags ∧ (trimCache f s).cmds = s.cmds ∧ (trimCache f s).fetchSeq = s.fetchSeq ∧
    (trimCache f s).elog = s.elog ∧ (trimCache f s).elogSeq = s.elogSeq ∧ (trimCache f s).facets = s.facets ∧
    (trimCache f s).mods = s.mods ∧ (trimCache f s).srch = s.srch ∧ (trimCache f s).flash = s.flash ∧ (trimCache f s).mem = s.mem ∧
    (trimCache f s).chd = s.chd ∧ (trimCache f s).side = s.side ∧ (trimCache f s).serial = s.serial ∧ (trimCache f s).out = s.out ∧
    (trimCache f s).free = s.free ∧ (trimCache f s).pending = s.pending := by
  unfold trimCache
  repeat' (first | (simp; done) | split | (dsimp only; split))

@[simp] theorem charge_rest (u f cls ticks : Nat) (borrowed : Bool) (s : State) :
    (charge u f cls ticks borrowed s).brd = s.brd ∧ (charge u f cls ticks borrowed s).evr = s.evr ∧
    (charge u f cls ticks borrowed s).fnc = s.fnc ∧ (charge u f cls ticks borrowed s).fuse = s.fuse ∧
    (charge u f cls ticks borrowed s).fw = s.fw ∧ (charge u f cls ticks borrowed s).lat = s.lat ∧
    (charge u f cls ticks borrowed s).cfg = s.cfg ∧ (charge u f cls ticks borrowed s).hif = s.hif ∧
    (charge u f cls ticks borrowed s).qps = s.qps ∧ (charge u f cls ticks borrowed s).tags = s.tags ∧
    (charge u f cls ticks borrowed s).cmds = s.cmds ∧ (charge u f cls ticks borrowed s).fetchSeq = s.fetchSeq ∧
    (charge u f cls ticks borrowed s).elog = s.elog ∧ (charge u f cls ticks borrowed s).elogSeq = s.elogSeq ∧
    (charge u f cls ticks borrowed s).idx = s.idx ∧ (charge u f cls ticks borrowed s).mods = s.mods ∧
    (charge u f cls ticks borrowed s).flash = s.flash ∧ (charge u f cls ticks borrowed s).mem = s.mem ∧
    (charge u f cls ticks borrowed s).chd = s.chd ∧ (charge u f cls ticks borrowed s).side = s.side ∧
    (charge u f cls ticks borrowed s).serial = s.serial ∧ (charge u f cls ticks borrowed s).out = s.out ∧
    (charge u f cls ticks borrowed s).free = s.free ∧ (charge u f cls ticks borrowed s).pending = s.pending := by
  unfold charge
  repeat' (first | (simp; done) | split | (dsimp only; split))

@[simp] theorem chargeFree_rest (u f cls : Nat) (s : State) :
    (chargeFree u f cls s).brd = s.brd ∧ (chargeFree u f cls s).evr = s.evr ∧ (chargeFree u f cls s).fnc = s.fnc ∧
    (chargeFree u f cls s).fuse = s.fuse ∧ (chargeFree u f cls s).fw = s.fw ∧ (chargeFree u f cls s).lat = s.lat ∧
    (chargeFree u f cls s).cfg = s.cfg ∧ (chargeFree u f cls s).hif = s.hif ∧ (chargeFree u f cls s).qps = s.qps ∧
    (chargeFree u f cls s).tags = s.tags ∧ (chargeFree u f cls s).cmds = s.cmds ∧ (chargeFree u f cls s).fetchSeq = s.fetchSeq ∧
    (chargeFree u f cls s).elog = s.elog ∧ (chargeFree u f cls s).elogSeq = s.elogSeq ∧ (chargeFree u f cls s).idx = s.idx ∧
    (chargeFree u f cls s).mods = s.mods ∧ (chargeFree u f cls s).flash = s.flash ∧ (chargeFree u f cls s).mem = s.mem ∧
    (chargeFree u f cls s).chd = s.chd ∧ (chargeFree u f cls s).side = s.side ∧ (chargeFree u f cls s).serial = s.serial ∧
    (chargeFree u f cls s).out = s.out ∧ (chargeFree u f cls s).pending = s.pending := by
  unfold chargeFree
  repeat' (first | (simp; done) | split | (dsimp only; split))

@[simp] theorem chargeTiles_rest (e f cls ticks : Nat) (s : State) :
    (chargeTiles e f cls ticks s).brd = s.brd ∧ (chargeTiles e f cls ticks s).evr = s.evr ∧ (chargeTiles e f cls ticks s).fnc = s.fnc ∧
    (chargeTiles e f cls ticks s).fuse = s.fuse ∧ (chargeTiles e f cls ticks s).fw = s.fw ∧ (chargeTiles e f cls ticks s).lat = s.lat ∧
    (chargeTiles e f cls ticks s).cfg = s.cfg ∧ (chargeTiles e f cls ticks s).hif = s.hif ∧ (chargeTiles e f cls ticks s).qps = s.qps ∧
    (chargeTiles e f cls ticks s).tags = s.tags ∧ (chargeTiles e f cls ticks s).cmds = s.cmds ∧
    (chargeTiles e f cls ticks s).fetchSeq = s.fetchSeq ∧ (chargeTiles e f cls ticks s).elog = s.elog ∧
    (chargeTiles e f cls ticks s).elogSeq = s.elogSeq ∧ (chargeTiles e f cls ticks s).idx = s.idx ∧
    (chargeTiles e f cls ticks s).mods = s.mods ∧ (chargeTiles e f cls ticks s).flash = s.flash ∧
    (chargeTiles e f cls ticks s).mem = s.mem ∧ (chargeTiles e f cls ticks s).chd = s.chd ∧ (chargeTiles e f cls ticks s).side = s.side ∧
    (chargeTiles e f cls ticks s).serial = s.serial ∧ (chargeTiles e f cls ticks s).out = s.out ∧
    (chargeTiles e f cls ticks s).free = s.free ∧ (chargeTiles e f cls ticks s).pending = s.pending := by
  unfold chargeTiles
  repeat' (first | (simp; done) | split | (dsimp only; split))

@[simp] theorem chargeWork_rest (f cls : Nat) (s : State) :
    (chargeWork f cls s).brd = s.brd ∧ (chargeWork f cls s).evr = s.evr ∧ (chargeWork f cls s).fnc = s.fnc ∧
    (chargeWork f cls s).fuse = s.fuse ∧ (chargeWork f cls s).fw = s.fw ∧ (chargeWork f cls s).lat = s.lat ∧
    (chargeWork f cls s).cfg = s.cfg ∧ (chargeWork f cls s).hif = s.hif ∧ (chargeWork f cls s).qps = s.qps ∧
    (chargeWork f cls s).tags = s.tags ∧ (chargeWork f cls s).cmds = s.cmds ∧ (chargeWork f cls s).fetchSeq = s.fetchSeq ∧
    (chargeWork f cls s).elog = s.elog ∧ (chargeWork f cls s).elogSeq = s.elogSeq ∧ (chargeWork f cls s).idx = s.idx ∧
    (chargeWork f cls s).mods = s.mods ∧ (chargeWork f cls s).flash = s.flash ∧ (chargeWork f cls s).mem = s.mem ∧
    (chargeWork f cls s).chd = s.chd ∧ (chargeWork f cls s).side = s.side ∧ (chargeWork f cls s).serial = s.serial ∧
    (chargeWork f cls s).out = s.out ∧ (chargeWork f cls s).free = s.free ∧ (chargeWork f cls s).pending = s.pending := by
  have key := @foldl_ind (fun u : State => u.brd = s.brd ∧ u.evr = s.evr ∧ u.fnc = s.fnc ∧ u.fuse = s.fuse ∧ u.fw = s.fw ∧ u.lat = s.lat ∧ u.cfg = s.cfg ∧ u.hif = s.hif ∧
      u.qps = s.qps ∧ u.tags = s.tags ∧ u.cmds = s.cmds ∧ u.fetchSeq = s.fetchSeq ∧ u.elog = s.elog ∧ u.elogSeq = s.elogSeq ∧
      u.idx = s.idx ∧ u.mods = s.mods ∧ u.flash = s.flash ∧ u.mem = s.mem ∧ u.chd = s.chd ∧ u.side = s.side ∧ u.serial = s.serial ∧
      u.out = s.out ∧ u.free = s.free ∧ u.pending = s.pending)
  unfold chargeWork
  repeat' (first | (simp; done) | split | (dsimp only; split) | refine key _ _ _ ?_ ?_ |
    (dsimp only; refine key _ _ _ ?_ ?_) | intro t x h | (simp [h]; done))

@[simp] theorem takeBytes_rest (r f cls n size : Nat) (s : State) :
    (takeBytes r f cls n size s).brd = s.brd ∧ (takeBytes r f cls n size s).evr = s.evr ∧ (takeBytes r f cls n size s).fnc = s.fnc ∧
    (takeBytes r f cls n size s).fuse = s.fuse ∧ (takeBytes r f cls n size s).fw = s.fw ∧ (takeBytes r f cls n size s).lat = s.lat ∧
    (takeBytes r f cls n size s).cfg = s.cfg ∧ (takeBytes r f cls n size s).hif = s.hif ∧ (takeBytes r f cls n size s).qps = s.qps ∧
    (takeBytes r f cls n size s).tags = s.tags ∧ (takeBytes r f cls n size s).cmds = s.cmds ∧
    (takeBytes r f cls n size s).fetchSeq = s.fetchSeq ∧ (takeBytes r f cls n size s).elog = s.elog ∧
    (takeBytes r f cls n size s).elogSeq = s.elogSeq ∧ (takeBytes r f cls n size s).idx = s.idx ∧
    (takeBytes r f cls n size s).mods = s.mods ∧ (takeBytes r f cls n size s).flash = s.flash ∧ (takeBytes r f cls n size s).mem = s.mem ∧
    (takeBytes r f cls n size s).chd = s.chd ∧ (takeBytes r f cls n size s).side = s.side ∧
    (takeBytes r f cls n size s).serial = s.serial ∧ (takeBytes r f cls n size s).out = s.out ∧
    (takeBytes r f cls n size s).free = s.free ∧ (takeBytes r f cls n size s).pending = s.pending := by
  unfold takeBytes
  repeat' (first | (simp; done) | split | (dsimp only; split))

@[simp] theorem takeBorrowed_rest (r f n : Nat) (s : State) :
    (takeBorrowed r f n s).brd = s.brd ∧ (takeBorrowed r f n s).evr = s.evr ∧ (takeBorrowed r f n s).fnc = s.fnc ∧
    (takeBorrowed r f n s).fuse = s.fuse ∧ (takeBorrowed r f n s).fw = s.fw ∧ (takeBorrowed r f n s).lat = s.lat ∧
    (takeBorrowed r f n s).cfg = s.cfg ∧ (takeBorrowed r f n s).hif = s.hif ∧ (takeBorrowed r f n s).qps = s.qps ∧
    (takeBorrowed r f n s).tags = s.tags ∧ (takeBorrowed r f n s).cmds = s.cmds ∧ (takeBorrowed r f n s).fetchSeq = s.fetchSeq ∧
    (takeBorrowed r f n s).elog = s.elog ∧ (takeBorrowed r f n s).elogSeq = s.elogSeq ∧ (takeBorrowed r f n s).idx = s.idx ∧
    (takeBorrowed r f n s).mods = s.mods ∧ (takeBorrowed r f n s).srch = s.srch ∧ (takeBorrowed r f n s).flash = s.flash ∧
    (takeBorrowed r f n s).mem = s.mem ∧ (takeBorrowed r f n s).chd = s.chd ∧ (takeBorrowed r f n s).side = s.side ∧
    (takeBorrowed r f n s).serial = s.serial ∧ (takeBorrowed r f n s).out = s.out ∧ (takeBorrowed r f n s).free = s.free ∧
    (takeBorrowed r f n s).pending = s.pending := by
  unfold takeBorrowed
  repeat' (first | (simp; done) | split | (dsimp only; split))

@[simp] theorem chargeGrants_rest (ch f cls n ticks : Nat) (s : State) :
    (chargeGrants ch f cls n ticks s).brd = s.brd ∧ (chargeGrants ch f cls n ticks s).evr = s.evr ∧
    (chargeGrants ch f cls n ticks s).fnc = s.fnc ∧ (chargeGrants ch f cls n ticks s).fuse = s.fuse ∧
    (chargeGrants ch f cls n ticks s).fw = s.fw ∧ (chargeGrants ch f cls n ticks s).lat = s.lat ∧
    (chargeGrants ch f cls n ticks s).cfg = s.cfg ∧ (chargeGrants ch f cls n ticks s).hif = s.hif ∧
    (chargeGrants ch f cls n ticks s).qps = s.qps ∧ (chargeGrants ch f cls n ticks s).tags = s.tags ∧
    (chargeGrants ch f cls n ticks s).cmds = s.cmds ∧ (chargeGrants ch f cls n ticks s).fetchSeq = s.fetchSeq ∧
    (chargeGrants ch f cls n ticks s).elog = s.elog ∧ (chargeGrants ch f cls n ticks s).elogSeq = s.elogSeq ∧
    (chargeGrants ch f cls n ticks s).idx = s.idx ∧ (chargeGrants ch f cls n ticks s).mods = s.mods ∧
    (chargeGrants ch f cls n ticks s).flash = s.flash ∧ (chargeGrants ch f cls n ticks s).mem = s.mem ∧
    (chargeGrants ch f cls n ticks s).chd = s.chd ∧ (chargeGrants ch f cls n ticks s).side = s.side ∧
    (chargeGrants ch f cls n ticks s).serial = s.serial ∧ (chargeGrants ch f cls n ticks s).out = s.out ∧
    (chargeGrants ch f cls n ticks s).free = s.free ∧ (chargeGrants ch f cls n ticks s).pending = s.pending := by
  unfold chargeGrants
  repeat' (first | (simp; done) | split | (dsimp only; split))

@[simp] theorem moveUnits_rest (ch f cls n : Nat) (s : State) :
    (moveUnits ch f cls n s).brd = s.brd ∧ (moveUnits ch f cls n s).evr = s.evr ∧ (moveUnits ch f cls n s).fnc = s.fnc ∧
    (moveUnits ch f cls n s).fuse = s.fuse ∧ (moveUnits ch f cls n s).fw = s.fw ∧ (moveUnits ch f cls n s).lat = s.lat ∧
    (moveUnits ch f cls n s).cfg = s.cfg ∧ (moveUnits ch f cls n s).hif = s.hif ∧ (moveUnits ch f cls n s).qps = s.qps ∧
    (moveUnits ch f cls n s).tags = s.tags ∧ (moveUnits ch f cls n s).cmds = s.cmds ∧ (moveUnits ch f cls n s).fetchSeq = s.fetchSeq ∧
    (moveUnits ch f cls n s).elog = s.elog ∧ (moveUnits ch f cls n s).elogSeq = s.elogSeq ∧ (moveUnits ch f cls n s).idx = s.idx ∧
    (moveUnits ch f cls n s).mods = s.mods ∧ (moveUnits ch f cls n s).flash = s.flash ∧ (moveUnits ch f cls n s).mem = s.mem ∧
    (moveUnits ch f cls n s).chd = s.chd ∧ (moveUnits ch f cls n s).side = s.side ∧ (moveUnits ch f cls n s).serial = s.serial ∧
    (moveUnits ch f cls n s).out = s.out ∧ (moveUnits ch f cls n s).free = s.free ∧ (moveUnits ch f cls n s).pending = s.pending := by
  unfold moveUnits
  repeat' (first | (simp; done) | split | (dsimp only; split))

@[simp] theorem flashRuns_rest (f cls p n : Nat) (s : State) :
    (flashRuns f cls p n s).brd = s.brd ∧ (flashRuns f cls p n s).evr = s.evr ∧ (flashRuns f cls p n s).fnc = s.fnc ∧
    (flashRuns f cls p n s).fuse = s.fuse ∧ (flashRuns f cls p n s).fw = s.fw ∧ (flashRuns f cls p n s).lat = s.lat ∧
    (flashRuns f cls p n s).cfg = s.cfg ∧ (flashRuns f cls p n s).hif = s.hif ∧ (flashRuns f cls p n s).qps = s.qps ∧
    (flashRuns f cls p n s).tags = s.tags ∧ (flashRuns f cls p n s).cmds = s.cmds ∧ (flashRuns f cls p n s).fetchSeq = s.fetchSeq ∧
    (flashRuns f cls p n s).elog = s.elog ∧ (flashRuns f cls p n s).elogSeq = s.elogSeq ∧ (flashRuns f cls p n s).idx = s.idx ∧
    (flashRuns f cls p n s).mods = s.mods ∧ (flashRuns f cls p n s).flash = s.flash ∧ (flashRuns f cls p n s).mem = s.mem ∧
    (flashRuns f cls p n s).chd = s.chd ∧ (flashRuns f cls p n s).side = s.side ∧ (flashRuns f cls p n s).serial = s.serial ∧
    (flashRuns f cls p n s).out = s.out ∧ (flashRuns f cls p n s).pending = s.pending := by
  have key := @foldl_ind (fun u : State => u.brd = s.brd ∧ u.evr = s.evr ∧ u.fnc = s.fnc ∧ u.fuse = s.fuse ∧ u.fw = s.fw ∧ u.lat = s.lat ∧ u.cfg = s.cfg ∧ u.hif = s.hif ∧
      u.qps = s.qps ∧ u.tags = s.tags ∧ u.cmds = s.cmds ∧ u.fetchSeq = s.fetchSeq ∧ u.elog = s.elog ∧ u.elogSeq = s.elogSeq ∧
      u.idx = s.idx ∧ u.mods = s.mods ∧ u.flash = s.flash ∧ u.mem = s.mem ∧ u.chd = s.chd ∧ u.side = s.side ∧ u.serial = s.serial ∧
      u.out = s.out ∧ u.pending = s.pending)
  unfold flashRuns
  repeat' (first | (simp; done) | split | (dsimp only; split) | refine key _ _ _ ?_ ?_ |
    (dsimp only; refine key _ _ _ ?_ ?_) | intro t x h | (simp [h]; done))

@[simp] theorem readHbm_rest (f slot key cls base : Nat) (r : Nat × Nat) (s : State) :
    (readHbm f slot key cls base r s).brd = s.brd ∧ (readHbm f slot key cls base r s).evr = s.evr ∧
    (readHbm f slot key cls base r s).fnc = s.fnc ∧ (readHbm f slot key cls base r s).fuse = s.fuse ∧
    (readHbm f slot key cls base r s).fw = s.fw ∧ (readHbm f slot key cls base r s).lat = s.lat ∧
    (readHbm f slot key cls base r s).cfg = s.cfg ∧ (readHbm f slot key cls base r s).hif = s.hif ∧
    (readHbm f slot key cls base r s).qps = s.qps ∧ (readHbm f slot key cls base r s).tags = s.tags ∧
    (readHbm f slot key cls base r s).cmds = s.cmds ∧ (readHbm f slot key cls base r s).fetchSeq = s.fetchSeq ∧
    (readHbm f slot key cls base r s).elog = s.elog ∧ (readHbm f slot key cls base r s).elogSeq = s.elogSeq ∧
    (readHbm f slot key cls base r s).idx = s.idx ∧ (readHbm f slot key cls base r s).mods = s.mods ∧
    (readHbm f slot key cls base r s).flash = s.flash ∧ (readHbm f slot key cls base r s).mem = s.mem ∧
    (readHbm f slot key cls base r s).chd = s.chd ∧ (readHbm f slot key cls base r s).side = s.side ∧
    (readHbm f slot key cls base r s).serial = s.serial ∧ (readHbm f slot key cls base r s).out = s.out ∧
    (readHbm f slot key cls base r s).pending = s.pending := by
  have key := @foldl_ind (fun u : State => u.brd = s.brd ∧ u.evr = s.evr ∧ u.fnc = s.fnc ∧ u.fuse = s.fuse ∧ u.fw = s.fw ∧ u.lat = s.lat ∧ u.cfg = s.cfg ∧ u.hif = s.hif ∧
      u.qps = s.qps ∧ u.tags = s.tags ∧ u.cmds = s.cmds ∧ u.fetchSeq = s.fetchSeq ∧ u.elog = s.elog ∧ u.elogSeq = s.elogSeq ∧
      u.idx = s.idx ∧ u.mods = s.mods ∧ u.flash = s.flash ∧ u.mem = s.mem ∧ u.chd = s.chd ∧ u.side = s.side ∧ u.serial = s.serial ∧
      u.out = s.out ∧ u.pending = s.pending)
  unfold readHbm
  repeat' (first | (simp; done) | split | (dsimp only; split) | refine key _ _ _ ?_ ?_ |
    (dsimp only; refine key _ _ _ ?_ ?_) | intro t x h | (simp [h]; done))

@[simp] theorem rotateTo_rest (a x : Nat) (s : State) :
    (rotateTo a x s).brd = s.brd ∧ (rotateTo a x s).evr = s.evr ∧ (rotateTo a x s).fnc = s.fnc ∧ (rotateTo a x s).fuse = s.fuse ∧
    (rotateTo a x s).fw = s.fw ∧ (rotateTo a x s).lat = s.lat ∧ (rotateTo a x s).cfg = s.cfg ∧ (rotateTo a x s).hif = s.hif ∧
    (rotateTo a x s).qps = s.qps ∧ (rotateTo a x s).tags = s.tags ∧ (rotateTo a x s).cmds = s.cmds ∧
    (rotateTo a x s).fetchSeq = s.fetchSeq ∧ (rotateTo a x s).elog = s.elog ∧ (rotateTo a x s).elogSeq = s.elogSeq ∧
    (rotateTo a x s).facets = s.facets ∧ (rotateTo a x s).idx = s.idx ∧ (rotateTo a x s).mods = s.mods ∧
    (rotateTo a x s).flash = s.flash ∧ (rotateTo a x s).mem = s.mem ∧ (rotateTo a x s).chd = s.chd ∧ (rotateTo a x s).side = s.side ∧
    (rotateTo a x s).serial = s.serial ∧ (rotateTo a x s).out = s.out ∧ (rotateTo a x s).free = s.free ∧
    (rotateTo a x s).pending = s.pending := by
  unfold rotateTo
  repeat' (first | (simp; done) | split | (dsimp only; split))

@[simp] theorem chargeCell_rest (x : CellSt) (s : State) :
    (chargeCell x s).brd = s.brd ∧ (chargeCell x s).evr = s.evr ∧ (chargeCell x s).fnc = s.fnc ∧ (chargeCell x s).fuse = s.fuse ∧
    (chargeCell x s).fw = s.fw ∧ (chargeCell x s).lat = s.lat ∧ (chargeCell x s).cfg = s.cfg ∧ (chargeCell x s).hif = s.hif ∧
    (chargeCell x s).qps = s.qps ∧ (chargeCell x s).tags = s.tags ∧ (chargeCell x s).cmds = s.cmds ∧
    (chargeCell x s).fetchSeq = s.fetchSeq ∧ (chargeCell x s).elog = s.elog ∧ (chargeCell x s).elogSeq = s.elogSeq ∧
    (chargeCell x s).idx = s.idx ∧ (chargeCell x s).mods = s.mods ∧ (chargeCell x s).flash = s.flash ∧ (chargeCell x s).mem = s.mem ∧
    (chargeCell x s).chd = s.chd ∧ (chargeCell x s).side = s.side ∧ (chargeCell x s).serial = s.serial ∧ (chargeCell x s).out = s.out ∧
    (chargeCell x s).free = s.free ∧ (chargeCell x s).pending = s.pending := by
  unfold chargeCell
  repeat' (first | (simp; done) | split | (dsimp only; split))

@[simp] theorem chargeEngine_rest (e : Engine) (s : State) :
    (chargeEngine e s).brd = s.brd ∧ (chargeEngine e s).evr = s.evr ∧ (chargeEngine e s).fnc = s.fnc ∧ (chargeEngine e s).fuse = s.fuse ∧
    (chargeEngine e s).fw = s.fw ∧ (chargeEngine e s).lat = s.lat ∧ (chargeEngine e s).cfg = s.cfg ∧ (chargeEngine e s).hif = s.hif ∧
    (chargeEngine e s).qps = s.qps ∧ (chargeEngine e s).tags = s.tags ∧ (chargeEngine e s).cmds = s.cmds ∧
    (chargeEngine e s).fetchSeq = s.fetchSeq ∧ (chargeEngine e s).elog = s.elog ∧ (chargeEngine e s).elogSeq = s.elogSeq ∧
    (chargeEngine e s).idx = s.idx ∧ (chargeEngine e s).mods = s.mods ∧ (chargeEngine e s).flash = s.flash ∧
    (chargeEngine e s).mem = s.mem ∧ (chargeEngine e s).chd = s.chd ∧ (chargeEngine e s).side = s.side ∧
    (chargeEngine e s).serial = s.serial ∧ (chargeEngine e s).out = s.out ∧ (chargeEngine e s).free = s.free ∧
    (chargeEngine e s).pending = s.pending := by
  unfold chargeEngine
  repeat' (first | (simp; done) | split | (dsimp only; split))

@[simp] theorem startPlane_rest (ch d p : Nat) (s : State) :
    (startPlane ch d p s).brd = s.brd ∧ (startPlane ch d p s).evr = s.evr ∧ (startPlane ch d p s).fnc = s.fnc ∧
    (startPlane ch d p s).fuse = s.fuse ∧ (startPlane ch d p s).fw = s.fw ∧ (startPlane ch d p s).lat = s.lat ∧
    (startPlane ch d p s).cfg = s.cfg ∧ (startPlane ch d p s).hif = s.hif ∧ (startPlane ch d p s).qps = s.qps ∧
    (startPlane ch d p s).tags = s.tags ∧ (startPlane ch d p s).cmds = s.cmds ∧ (startPlane ch d p s).fetchSeq = s.fetchSeq ∧
    (startPlane ch d p s).elog = s.elog ∧ (startPlane ch d p s).elogSeq = s.elogSeq ∧ (startPlane ch d p s).facets = s.facets ∧
    (startPlane ch d p s).idx = s.idx ∧ (startPlane ch d p s).mods = s.mods ∧ (startPlane ch d p s).srch = s.srch ∧
    (startPlane ch d p s).mem = s.mem ∧ (startPlane ch d p s).chd = s.chd ∧ (startPlane ch d p s).side = s.side ∧
    (startPlane ch d p s).serial = s.serial ∧ (startPlane ch d p s).out = s.out ∧ (startPlane ch d p s).free = s.free ∧
    (startPlane ch d p s).pending = s.pending := by
  unfold startPlane
  repeat' (first | (simp; done) | split | (dsimp only; split))

@[simp] theorem startPlanes_rest (ch d : Nat) (s : State) :
    (startPlanes ch d s).brd = s.brd ∧ (startPlanes ch d s).evr = s.evr ∧ (startPlanes ch d s).fnc = s.fnc ∧
    (startPlanes ch d s).fuse = s.fuse ∧ (startPlanes ch d s).fw = s.fw ∧ (startPlanes ch d s).lat = s.lat ∧
    (startPlanes ch d s).cfg = s.cfg ∧ (startPlanes ch d s).hif = s.hif ∧ (startPlanes ch d s).qps = s.qps ∧
    (startPlanes ch d s).tags = s.tags ∧ (startPlanes ch d s).cmds = s.cmds ∧ (startPlanes ch d s).fetchSeq = s.fetchSeq ∧
    (startPlanes ch d s).elog = s.elog ∧ (startPlanes ch d s).elogSeq = s.elogSeq ∧ (startPlanes ch d s).facets = s.facets ∧
    (startPlanes ch d s).idx = s.idx ∧ (startPlanes ch d s).mods = s.mods ∧ (startPlanes ch d s).srch = s.srch ∧
    (startPlanes ch d s).mem = s.mem ∧ (startPlanes ch d s).chd = s.chd ∧ (startPlanes ch d s).side = s.side ∧
    (startPlanes ch d s).serial = s.serial ∧ (startPlanes ch d s).out = s.out ∧ (startPlanes ch d s).free = s.free ∧
    (startPlanes ch d s).pending = s.pending := by
  have key := @foldl_ind (fun u : State => u.brd = s.brd ∧ u.evr = s.evr ∧ u.fnc = s.fnc ∧ u.fuse = s.fuse ∧ u.fw = s.fw ∧ u.lat = s.lat ∧ u.cfg = s.cfg ∧ u.hif = s.hif ∧
      u.qps = s.qps ∧ u.tags = s.tags ∧ u.cmds = s.cmds ∧ u.fetchSeq = s.fetchSeq ∧ u.elog = s.elog ∧ u.elogSeq = s.elogSeq ∧
      u.facets = s.facets ∧ u.idx = s.idx ∧ u.mods = s.mods ∧ u.srch = s.srch ∧ u.mem = s.mem ∧ u.chd = s.chd ∧ u.side = s.side ∧
      u.serial = s.serial ∧ u.out = s.out ∧ u.free = s.free ∧ u.pending = s.pending)
  unfold startPlanes
  repeat' (first | (simp; done) | split | (dsimp only; split) | refine key _ _ _ ?_ ?_ |
    (dsimp only; refine key _ _ _ ?_ ?_) | intro t x h | (simp [h]; done))

@[simp] theorem putPage_rest (u : Unit') (e word gen : Nat) (s : State) :
    (putPage u e word gen s).brd = s.brd ∧ (putPage u e word gen s).evr = s.evr ∧ (putPage u e word gen s).fnc = s.fnc ∧
    (putPage u e word gen s).fuse = s.fuse ∧ (putPage u e word gen s).fw = s.fw ∧ (putPage u e word gen s).lat = s.lat ∧
    (putPage u e word gen s).cfg = s.cfg ∧ (putPage u e word gen s).hif = s.hif ∧ (putPage u e word gen s).qps = s.qps ∧
    (putPage u e word gen s).tags = s.tags ∧ (putPage u e word gen s).cmds = s.cmds ∧ (putPage u e word gen s).fetchSeq = s.fetchSeq ∧
    (putPage u e word gen s).elog = s.elog ∧ (putPage u e word gen s).elogSeq = s.elogSeq ∧ (putPage u e word gen s).facets = s.facets ∧
    (putPage u e word gen s).idx = s.idx ∧ (putPage u e word gen s).mods = s.mods ∧ (putPage u e word gen s).srch = s.srch ∧
    (putPage u e word gen s).mem = s.mem ∧ (putPage u e word gen s).chd = s.chd ∧ (putPage u e word gen s).side = s.side ∧
    (putPage u e word gen s).serial = s.serial ∧ (putPage u e word gen s).out = s.out ∧ (putPage u e word gen s).pending = s.pending := by
  unfold putPage
  repeat' (first | (simp; done) | split | (dsimp only; split))

@[simp] theorem joinParity_rest (u : Unit') (s : State) :
    (joinParity u s).brd = s.brd ∧ (joinParity u s).evr = s.evr ∧ (joinParity u s).fnc = s.fnc ∧ (joinParity u s).fuse = s.fuse ∧
    (joinParity u s).fw = s.fw ∧ (joinParity u s).lat = s.lat ∧ (joinParity u s).cfg = s.cfg ∧ (joinParity u s).hif = s.hif ∧
    (joinParity u s).qps = s.qps ∧ (joinParity u s).tags = s.tags ∧ (joinParity u s).cmds = s.cmds ∧
    (joinParity u s).fetchSeq = s.fetchSeq ∧ (joinParity u s).elog = s.elog ∧ (joinParity u s).elogSeq = s.elogSeq ∧
    (joinParity u s).facets = s.facets ∧ (joinParity u s).idx = s.idx ∧ (joinParity u s).mods = s.mods ∧ (joinParity u s).srch = s.srch ∧
    (joinParity u s).mem = s.mem ∧ (joinParity u s).chd = s.chd ∧ (joinParity u s).side = s.side ∧ (joinParity u s).serial = s.serial ∧
    (joinParity u s).out = s.out ∧ (joinParity u s).free = s.free ∧ (joinParity u s).pending = s.pending := by
  unfold joinParity
  repeat' (first | (simp; done) | split | (dsimp only; split))

@[simp] theorem writeUnit_rest (u : Unit') (s : State) :
    (writeUnit u s).brd = s.brd ∧ (writeUnit u s).evr = s.evr ∧ (writeUnit u s).fnc = s.fnc ∧ (writeUnit u s).fuse = s.fuse ∧
    (writeUnit u s).fw = s.fw ∧ (writeUnit u s).lat = s.lat ∧ (writeUnit u s).cfg = s.cfg ∧ (writeUnit u s).hif = s.hif ∧
    (writeUnit u s).qps = s.qps ∧ (writeUnit u s).tags = s.tags ∧ (writeUnit u s).cmds = s.cmds ∧ (writeUnit u s).fetchSeq = s.fetchSeq ∧
    (writeUnit u s).elog = s.elog ∧ (writeUnit u s).elogSeq = s.elogSeq ∧ (writeUnit u s).facets = s.facets ∧
    (writeUnit u s).idx = s.idx ∧ (writeUnit u s).mods = s.mods ∧ (writeUnit u s).srch = s.srch ∧ (writeUnit u s).mem = s.mem ∧
    (writeUnit u s).chd = s.chd ∧ (writeUnit u s).side = s.side ∧ (writeUnit u s).serial = s.serial ∧ (writeUnit u s).out = s.out ∧
    (writeUnit u s).pending = s.pending := by
  unfold writeUnit
  repeat' (first | (simp; done) | split | (dsimp only; split))

@[simp] theorem dropPages_rest (p : Unit' → Bool) (s : State) :
    (dropPages p s).brd = s.brd ∧ (dropPages p s).evr = s.evr ∧ (dropPages p s).fnc = s.fnc ∧ (dropPages p s).fuse = s.fuse ∧
    (dropPages p s).fw = s.fw ∧ (dropPages p s).lat = s.lat ∧ (dropPages p s).cfg = s.cfg ∧ (dropPages p s).hif = s.hif ∧
    (dropPages p s).qps = s.qps ∧ (dropPages p s).tags = s.tags ∧ (dropPages p s).cmds = s.cmds ∧ (dropPages p s).fetchSeq = s.fetchSeq ∧
    (dropPages p s).elog = s.elog ∧ (dropPages p s).elogSeq = s.elogSeq ∧ (dropPages p s).facets = s.facets ∧
    (dropPages p s).idx = s.idx ∧ (dropPages p s).mods = s.mods ∧ (dropPages p s).srch = s.srch ∧ (dropPages p s).mem = s.mem ∧
    (dropPages p s).chd = s.chd ∧ (dropPages p s).side = s.side ∧ (dropPages p s).serial = s.serial ∧ (dropPages p s).out = s.out ∧
    (dropPages p s).free = s.free ∧ (dropPages p s).pending = s.pending := by
  unfold dropPages
  repeat' (first | (simp; done) | split | (dsimp only; split))

@[simp] theorem freePages_rest (f floor : Nat) (s : State) :
    (freePages f floor s).brd = s.brd ∧ (freePages f floor s).evr = s.evr ∧ (freePages f floor s).fnc = s.fnc ∧
    (freePages f floor s).fuse = s.fuse ∧ (freePages f floor s).fw = s.fw ∧ (freePages f floor s).lat = s.lat ∧
    (freePages f floor s).cfg = s.cfg ∧ (freePages f floor s).hif = s.hif ∧ (freePages f floor s).qps = s.qps ∧
    (freePages f floor s).tags = s.tags ∧ (freePages f floor s).cmds = s.cmds ∧ (freePages f floor s).fetchSeq = s.fetchSeq ∧
    (freePages f floor s).elog = s.elog ∧ (freePages f floor s).elogSeq = s.elogSeq ∧ (freePages f floor s).facets = s.facets ∧
    (freePages f floor s).idx = s.idx ∧ (freePages f floor s).mods = s.mods ∧ (freePages f floor s).srch = s.srch ∧
    (freePages f floor s).mem = s.mem ∧ (freePages f floor s).chd = s.chd ∧ (freePages f floor s).side = s.side ∧
    (freePages f floor s).serial = s.serial ∧ (freePages f floor s).out = s.out ∧ (freePages f floor s).free = s.free ∧
    (freePages f floor s).pending = s.pending := by
  unfold freePages
  repeat' (first | (simp; done) | split | (dsimp only; split))

@[simp] theorem queueRead_rest (ch d : Nat) (r : Read) (s : State) :
    (queueRead ch d r s).brd = s.brd ∧ (queueRead ch d r s).evr = s.evr ∧ (queueRead ch d r s).fnc = s.fnc ∧
    (queueRead ch d r s).fuse = s.fuse ∧ (queueRead ch d r s).fw = s.fw ∧ (queueRead ch d r s).lat = s.lat ∧
    (queueRead ch d r s).cfg = s.cfg ∧ (queueRead ch d r s).hif = s.hif ∧ (queueRead ch d r s).qps = s.qps ∧
    (queueRead ch d r s).tags = s.tags ∧ (queueRead ch d r s).cmds = s.cmds ∧ (queueRead ch d r s).fetchSeq = s.fetchSeq ∧
    (queueRead ch d r s).elog = s.elog ∧ (queueRead ch d r s).elogSeq = s.elogSeq ∧ (queueRead ch d r s).facets = s.facets ∧
    (queueRead ch d r s).idx = s.idx ∧ (queueRead ch d r s).mods = s.mods ∧ (queueRead ch d r s).srch = s.srch ∧
    (queueRead ch d r s).mem = s.mem ∧ (queueRead ch d r s).chd = s.chd ∧ (queueRead ch d r s).side = s.side ∧
    (queueRead ch d r s).serial = s.serial ∧ (queueRead ch d r s).out = s.out ∧ (queueRead ch d r s).free = s.free ∧
    (queueRead ch d r s).pending = s.pending := by
  unfold queueRead
  repeat' (first | (simp; done) | split | (dsimp only; split))

@[simp] theorem issueRead_rest (u : Unit') (cls : Nat) (deadline : Option Nat) (p : Purpose) (s : State) :
    (issueRead u cls deadline p s).brd = s.brd ∧ (issueRead u cls deadline p s).evr = s.evr ∧ (issueRead u cls deadline p s).fnc = s.fnc ∧
    (issueRead u cls deadline p s).fuse = s.fuse ∧ (issueRead u cls deadline p s).fw = s.fw ∧ (issueRead u cls deadline p s).lat = s.lat ∧
    (issueRead u cls deadline p s).cfg = s.cfg ∧ (issueRead u cls deadline p s).hif = s.hif ∧ (issueRead u cls deadline p s).qps = s.qps ∧
    (issueRead u cls deadline p s).tags = s.tags ∧ (issueRead u cls deadline p s).cmds = s.cmds ∧
    (issueRead u cls deadline p s).fetchSeq = s.fetchSeq ∧ (issueRead u cls deadline p s).elog = s.elog ∧
    (issueRead u cls deadline p s).elogSeq = s.elogSeq ∧ (issueRead u cls deadline p s).facets = s.facets ∧
    (issueRead u cls deadline p s).idx = s.idx ∧ (issueRead u cls deadline p s).mods = s.mods ∧
    (issueRead u cls deadline p s).srch = s.srch ∧ (issueRead u cls deadline p s).mem = s.mem ∧
    (issueRead u cls deadline p s).chd = s.chd ∧ (issueRead u cls deadline p s).side = s.side ∧
    (issueRead u cls deadline p s).serial = s.serial ∧ (issueRead u cls deadline p s).out = s.out ∧
    (issueRead u cls deadline p s).free = s.free ∧ (issueRead u cls deadline p s).pending = s.pending := by
  unfold issueRead
  repeat' (first | (simp; done) | split | (dsimp only; split))

@[simp] theorem freeReadTag_rest (ch : Nat) (s : State) :
    (freeReadTag ch s).brd = s.brd ∧ (freeReadTag ch s).evr = s.evr ∧ (freeReadTag ch s).fnc = s.fnc ∧ (freeReadTag ch s).fuse = s.fuse ∧
    (freeReadTag ch s).fw = s.fw ∧ (freeReadTag ch s).lat = s.lat ∧ (freeReadTag ch s).cfg = s.cfg ∧ (freeReadTag ch s).hif = s.hif ∧
    (freeReadTag ch s).qps = s.qps ∧ (freeReadTag ch s).tags = s.tags ∧ (freeReadTag ch s).cmds = s.cmds ∧
    (freeReadTag ch s).fetchSeq = s.fetchSeq ∧ (freeReadTag ch s).elog = s.elog ∧ (freeReadTag ch s).elogSeq = s.elogSeq ∧
    (freeReadTag ch s).facets = s.facets ∧ (freeReadTag ch s).idx = s.idx ∧ (freeReadTag ch s).mods = s.mods ∧
    (freeReadTag ch s).srch = s.srch ∧ (freeReadTag ch s).mem = s.mem ∧ (freeReadTag ch s).chd = s.chd ∧
    (freeReadTag ch s).side = s.side ∧ (freeReadTag ch s).serial = s.serial ∧ (freeReadTag ch s).out = s.out ∧
    (freeReadTag ch s).free = s.free ∧ (freeReadTag ch s).pending = s.pending := by
  unfold freeReadTag
  repeat' (first | (simp; done) | split | (dsimp only; split))

@[simp] theorem startReads_rest (s : State) :
    (startReads s).brd = s.brd ∧ (startReads s).evr = s.evr ∧ (startReads s).fnc = s.fnc ∧ (startReads s).fuse = s.fuse ∧
    (startReads s).fw = s.fw ∧ (startReads s).lat = s.lat ∧ (startReads s).cfg = s.cfg ∧ (startReads s).hif = s.hif ∧
    (startReads s).qps = s.qps ∧ (startReads s).tags = s.tags ∧ (startReads s).cmds = s.cmds ∧ (startReads s).fetchSeq = s.fetchSeq ∧
    (startReads s).elog = s.elog ∧ (startReads s).elogSeq = s.elogSeq ∧ (startReads s).facets = s.facets ∧ (startReads s).idx = s.idx ∧
    (startReads s).mods = s.mods ∧ (startReads s).srch = s.srch ∧ (startReads s).mem = s.mem ∧ (startReads s).chd = s.chd ∧
    (startReads s).side = s.side ∧ (startReads s).serial = s.serial ∧ (startReads s).out = s.out ∧ (startReads s).free = s.free ∧
    (startReads s).pending = s.pending := by
  have key := @foldl_ind (fun u : State => u.brd = s.brd ∧ u.evr = s.evr ∧ u.fnc = s.fnc ∧ u.fuse = s.fuse ∧ u.fw = s.fw ∧ u.lat = s.lat ∧ u.cfg = s.cfg ∧ u.hif = s.hif ∧
      u.qps = s.qps ∧ u.tags = s.tags ∧ u.cmds = s.cmds ∧ u.fetchSeq = s.fetchSeq ∧ u.elog = s.elog ∧ u.elogSeq = s.elogSeq ∧
      u.facets = s.facets ∧ u.idx = s.idx ∧ u.mods = s.mods ∧ u.srch = s.srch ∧ u.mem = s.mem ∧ u.chd = s.chd ∧ u.side = s.side ∧
      u.serial = s.serial ∧ u.out = s.out ∧ u.free = s.free ∧ u.pending = s.pending)
  unfold startReads
  repeat' (first | (simp; done) | split | (dsimp only; split) | refine key _ _ _ ?_ ?_ |
    (dsimp only; refine key _ _ _ ?_ ?_) | intro t x h | (simp [h]; done))

@[simp] theorem dropReads_rest (p : Purpose → Bool) (s : State) :
    (dropReads p s).brd = s.brd ∧ (dropReads p s).evr = s.evr ∧ (dropReads p s).fnc = s.fnc ∧ (dropReads p s).fuse = s.fuse ∧
    (dropReads p s).fw = s.fw ∧ (dropReads p s).lat = s.lat ∧ (dropReads p s).cfg = s.cfg ∧ (dropReads p s).hif = s.hif ∧
    (dropReads p s).qps = s.qps ∧ (dropReads p s).tags = s.tags ∧ (dropReads p s).cmds = s.cmds ∧ (dropReads p s).fetchSeq = s.fetchSeq ∧
    (dropReads p s).elog = s.elog ∧ (dropReads p s).elogSeq = s.elogSeq ∧ (dropReads p s).facets = s.facets ∧
    (dropReads p s).idx = s.idx ∧ (dropReads p s).mods = s.mods ∧ (dropReads p s).srch = s.srch ∧ (dropReads p s).mem = s.mem ∧
    (dropReads p s).chd = s.chd ∧ (dropReads p s).side = s.side ∧ (dropReads p s).serial = s.serial ∧ (dropReads p s).out = s.out ∧
    (dropReads p s).free = s.free ∧ (dropReads p s).pending = s.pending := by
  unfold dropReads
  repeat' (first | (simp; done) | split | (dsimp only; split))

@[simp] theorem chargeDie_rest (d : Die) (s : State) :
    (chargeDie d s).brd = s.brd ∧ (chargeDie d s).evr = s.evr ∧ (chargeDie d s).fnc = s.fnc ∧ (chargeDie d s).fuse = s.fuse ∧
    (chargeDie d s).fw = s.fw ∧ (chargeDie d s).lat = s.lat ∧ (chargeDie d s).cfg = s.cfg ∧ (chargeDie d s).hif = s.hif ∧
    (chargeDie d s).qps = s.qps ∧ (chargeDie d s).tags = s.tags ∧ (chargeDie d s).cmds = s.cmds ∧ (chargeDie d s).fetchSeq = s.fetchSeq ∧
    (chargeDie d s).elog = s.elog ∧ (chargeDie d s).elogSeq = s.elogSeq ∧ (chargeDie d s).idx = s.idx ∧ (chargeDie d s).mods = s.mods ∧
    (chargeDie d s).flash = s.flash ∧ (chargeDie d s).mem = s.mem ∧ (chargeDie d s).chd = s.chd ∧ (chargeDie d s).side = s.side ∧
    (chargeDie d s).serial = s.serial ∧ (chargeDie d s).out = s.out ∧ (chargeDie d s).free = s.free ∧
    (chargeDie d s).pending = s.pending := by
  unfold chargeDie
  repeat' (first | (simp; done) | split | (dsimp only; split))

@[simp] theorem chargeRead_rest (ch f cls : Nat) (borrowed : Bool) (s : State) :
    (chargeRead ch f cls borrowed s).brd = s.brd ∧ (chargeRead ch f cls borrowed s).evr = s.evr ∧
    (chargeRead ch f cls borrowed s).fnc = s.fnc ∧ (chargeRead ch f cls borrowed s).fuse = s.fuse ∧
    (chargeRead ch f cls borrowed s).fw = s.fw ∧ (chargeRead ch f cls borrowed s).lat = s.lat ∧
    (chargeRead ch f cls borrowed s).cfg = s.cfg ∧ (chargeRead ch f cls borrowed s).hif = s.hif ∧
    (chargeRead ch f cls borrowed s).qps = s.qps ∧ (chargeRead ch f cls borrowed s).tags = s.tags ∧
    (chargeRead ch f cls borrowed s).cmds = s.cmds ∧ (chargeRead ch f cls borrowed s).fetchSeq = s.fetchSeq ∧
    (chargeRead ch f cls borrowed s).elog = s.elog ∧ (chargeRead ch f cls borrowed s).elogSeq = s.elogSeq ∧
    (chargeRead ch f cls borrowed s).idx = s.idx ∧ (chargeRead ch f cls borrowed s).mods = s.mods ∧
    (chargeRead ch f cls borrowed s).flash = s.flash ∧ (chargeRead ch f cls borrowed s).mem = s.mem ∧
    (chargeRead ch f cls borrowed s).chd = s.chd ∧ (chargeRead ch f cls borrowed s).side = s.side ∧
    (chargeRead ch f cls borrowed s).serial = s.serial ∧ (chargeRead ch f cls borrowed s).out = s.out ∧
    (chargeRead ch f cls borrowed s).free = s.free ∧ (chargeRead ch f cls borrowed s).pending = s.pending := by
  unfold chargeRead
  repeat' (first | (simp; done) | split | (dsimp only; split))

@[simp] theorem queueSeg_rest (ch d pl : Nat) (block : Option Nat) (cls facet : Nat) (w : SegWork) (s : State) :
    (queueSeg ch d pl block cls facet w s).brd = s.brd ∧ (queueSeg ch d pl block cls facet w s).evr = s.evr ∧
    (queueSeg ch d pl block cls facet w s).fnc = s.fnc ∧ (queueSeg ch d pl block cls facet w s).fuse = s.fuse ∧
    (queueSeg ch d pl block cls facet w s).fw = s.fw ∧ (queueSeg ch d pl block cls facet w s).lat = s.lat ∧
    (queueSeg ch d pl block cls facet w s).cfg = s.cfg ∧ (queueSeg ch d pl block cls facet w s).hif = s.hif ∧
    (queueSeg ch d pl block cls facet w s).qps = s.qps ∧ (queueSeg ch d pl block cls facet w s).tags = s.tags ∧
    (queueSeg ch d pl block cls facet w s).cmds = s.cmds ∧ (queueSeg ch d pl block cls facet w s).fetchSeq = s.fetchSeq ∧
    (queueSeg ch d pl block cls facet w s).elog = s.elog ∧ (queueSeg ch d pl block cls facet w s).elogSeq = s.elogSeq ∧
    (queueSeg ch d pl block cls facet w s).facets = s.facets ∧ (queueSeg ch d pl block cls facet w s).idx = s.idx ∧
    (queueSeg ch d pl block cls facet w s).mods = s.mods ∧ (queueSeg ch d pl block cls facet w s).srch = s.srch ∧
    (queueSeg ch d pl block cls facet w s).mem = s.mem ∧ (queueSeg ch d pl block cls facet w s).chd = s.chd ∧
    (queueSeg ch d pl block cls facet w s).side = s.side ∧ (queueSeg ch d pl block cls facet w s).serial = s.serial ∧
    (queueSeg ch d pl block cls facet w s).out = s.out ∧ (queueSeg ch d pl block cls facet w s).free = s.free ∧
    (queueSeg ch d pl block cls facet w s).pending = s.pending := by
  unfold queueSeg
  repeat' (first | (simp; done) | split | (dsimp only; split))

@[simp] theorem writePages_rest (us : List Unit') (s : State) :
    (writePages us s).brd = s.brd ∧ (writePages us s).evr = s.evr ∧ (writePages us s).fnc = s.fnc ∧ (writePages us s).fuse = s.fuse ∧
    (writePages us s).fw = s.fw ∧ (writePages us s).lat = s.lat ∧ (writePages us s).cfg = s.cfg ∧ (writePages us s).hif = s.hif ∧
    (writePages us s).qps = s.qps ∧ (writePages us s).tags = s.tags ∧ (writePages us s).cmds = s.cmds ∧
    (writePages us s).fetchSeq = s.fetchSeq ∧ (writePages us s).elog = s.elog ∧ (writePages us s).elogSeq = s.elogSeq ∧
    (writePages us s).facets = s.facets ∧ (writePages us s).idx = s.idx ∧ (writePages us s).mods = s.mods ∧
    (writePages us s).srch = s.srch ∧ (writePages us s).mem = s.mem ∧ (writePages us s).chd = s.chd ∧ (writePages us s).side = s.side ∧
    (writePages us s).serial = s.serial ∧ (writePages us s).out = s.out ∧ (writePages us s).pending = s.pending := by
  have key := @foldl_ind (fun u : State => u.brd = s.brd ∧ u.evr = s.evr ∧ u.fnc = s.fnc ∧ u.fuse = s.fuse ∧ u.fw = s.fw ∧ u.lat = s.lat ∧ u.cfg = s.cfg ∧ u.hif = s.hif ∧
      u.qps = s.qps ∧ u.tags = s.tags ∧ u.cmds = s.cmds ∧ u.fetchSeq = s.fetchSeq ∧ u.elog = s.elog ∧ u.elogSeq = s.elogSeq ∧
      u.facets = s.facets ∧ u.idx = s.idx ∧ u.mods = s.mods ∧ u.srch = s.srch ∧ u.mem = s.mem ∧ u.chd = s.chd ∧ u.side = s.side ∧
      u.serial = s.serial ∧ u.out = s.out ∧ u.pending = s.pending)
  unfold writePages
  repeat' (first | (simp; done) | split | (dsimp only; split) | refine key _ _ _ ?_ ?_ |
    (dsimp only; refine key _ _ _ ?_ ?_) | intro t x h | (simp [h]; done))

@[simp] theorem queueCmdSeg_rest (cls facet tag : Nat) (s : State) :
    (queueCmdSeg cls facet tag s).brd = s.brd ∧ (queueCmdSeg cls facet tag s).evr = s.evr ∧ (queueCmdSeg cls facet tag s).fnc = s.fnc ∧
    (queueCmdSeg cls facet tag s).fuse = s.fuse ∧ (queueCmdSeg cls facet tag s).fw = s.fw ∧ (queueCmdSeg cls facet tag s).lat = s.lat ∧
    (queueCmdSeg cls facet tag s).cfg = s.cfg ∧ (queueCmdSeg cls facet tag s).hif = s.hif ∧ (queueCmdSeg cls facet tag s).qps = s.qps ∧
    (queueCmdSeg cls facet tag s).tags = s.tags ∧ (queueCmdSeg cls facet tag s).cmds = s.cmds ∧
    (queueCmdSeg cls facet tag s).fetchSeq = s.fetchSeq ∧ (queueCmdSeg cls facet tag s).elog = s.elog ∧
    (queueCmdSeg cls facet tag s).elogSeq = s.elogSeq ∧ (queueCmdSeg cls facet tag s).facets = s.facets ∧
    (queueCmdSeg cls facet tag s).idx = s.idx ∧ (queueCmdSeg cls facet tag s).mods = s.mods ∧
    (queueCmdSeg cls facet tag s).srch = s.srch ∧ (queueCmdSeg cls facet tag s).mem = s.mem ∧ (queueCmdSeg cls facet tag s).chd = s.chd ∧
    (queueCmdSeg cls facet tag s).side = s.side ∧ (queueCmdSeg cls facet tag s).serial = s.serial ∧
    (queueCmdSeg cls facet tag s).out = s.out ∧ (queueCmdSeg cls facet tag s).pending = s.pending := by
  unfold queueCmdSeg
  repeat' (first | (simp; done) | split | (dsimp only; split))

@[simp] theorem dropSegs_rest (p : Seg → Bool) (s : State) :
    (dropSegs p s).brd = s.brd ∧ (dropSegs p s).evr = s.evr ∧ (dropSegs p s).fnc = s.fnc ∧ (dropSegs p s).fuse = s.fuse ∧
    (dropSegs p s).fw = s.fw ∧ (dropSegs p s).lat = s.lat ∧ (dropSegs p s).cfg = s.cfg ∧ (dropSegs p s).hif = s.hif ∧
    (dropSegs p s).qps = s.qps ∧ (dropSegs p s).tags = s.tags ∧ (dropSegs p s).cmds = s.cmds ∧ (dropSegs p s).fetchSeq = s.fetchSeq ∧
    (dropSegs p s).elog = s.elog ∧ (dropSegs p s).elogSeq = s.elogSeq ∧ (dropSegs p s).facets = s.facets ∧ (dropSegs p s).idx = s.idx ∧
    (dropSegs p s).mods = s.mods ∧ (dropSegs p s).srch = s.srch ∧ (dropSegs p s).mem = s.mem ∧ (dropSegs p s).chd = s.chd ∧
    (dropSegs p s).side = s.side ∧ (dropSegs p s).serial = s.serial ∧ (dropSegs p s).out = s.out ∧ (dropSegs p s).free = s.free ∧
    (dropSegs p s).pending = s.pending := by
  unfold dropSegs
  repeat' (first | (simp; done) | split | (dsimp only; split))

@[simp] theorem startSegment_rest (ch d : Nat) (s : State) :
    (startSegment ch d s).brd = s.brd ∧ (startSegment ch d s).evr = s.evr ∧ (startSegment ch d s).fnc = s.fnc ∧
    (startSegment ch d s).fuse = s.fuse ∧ (startSegment ch d s).fw = s.fw ∧ (startSegment ch d s).lat = s.lat ∧
    (startSegment ch d s).cfg = s.cfg ∧ (startSegment ch d s).hif = s.hif ∧ (startSegment ch d s).qps = s.qps ∧
    (startSegment ch d s).tags = s.tags ∧ (startSegment ch d s).cmds = s.cmds ∧ (startSegment ch d s).fetchSeq = s.fetchSeq ∧
    (startSegment ch d s).elog = s.elog ∧ (startSegment ch d s).elogSeq = s.elogSeq ∧ (startSegment ch d s).facets = s.facets ∧
    (startSegment ch d s).idx = s.idx ∧ (startSegment ch d s).mods = s.mods ∧ (startSegment ch d s).mem = s.mem ∧
    (startSegment ch d s).chd = s.chd ∧ (startSegment ch d s).side = s.side ∧ (startSegment ch d s).serial = s.serial ∧
    (startSegment ch d s).out = s.out ∧ (startSegment ch d s).free = s.free ∧ (startSegment ch d s).pending = s.pending := by
  unfold startSegment
  repeat' (first | (simp; done) | split | (dsimp only; split))

@[simp] theorem readOperand_rest (t : Tile) (s : State) :
    (readOperand t s).brd = s.brd ∧ (readOperand t s).evr = s.evr ∧ (readOperand t s).fnc = s.fnc ∧ (readOperand t s).fuse = s.fuse ∧
    (readOperand t s).fw = s.fw ∧ (readOperand t s).lat = s.lat ∧ (readOperand t s).cfg = s.cfg ∧ (readOperand t s).hif = s.hif ∧
    (readOperand t s).qps = s.qps ∧ (readOperand t s).tags = s.tags ∧ (readOperand t s).cmds = s.cmds ∧
    (readOperand t s).fetchSeq = s.fetchSeq ∧ (readOperand t s).elog = s.elog ∧ (readOperand t s).elogSeq = s.elogSeq ∧
    (readOperand t s).idx = s.idx ∧ (readOperand t s).mods = s.mods ∧ (readOperand t s).flash = s.flash ∧ (readOperand t s).mem = s.mem ∧
    (readOperand t s).chd = s.chd ∧ (readOperand t s).side = s.side ∧ (readOperand t s).serial = s.serial ∧
    (readOperand t s).out = s.out ∧ (readOperand t s).pending = s.pending := by
  unfold readOperand
  repeat' (first | (simp; done) | split | (dsimp only; split))

@[simp] theorem chargePiece_rest (f cls : Nat) (w : SegWork) (j : Job) (borrowed : Bool) (s : State) :
    (chargePiece f cls w j borrowed s).brd = s.brd ∧ (chargePiece f cls w j borrowed s).evr = s.evr ∧
    (chargePiece f cls w j borrowed s).fnc = s.fnc ∧ (chargePiece f cls w j borrowed s).fuse = s.fuse ∧
    (chargePiece f cls w j borrowed s).fw = s.fw ∧ (chargePiece f cls w j borrowed s).lat = s.lat ∧
    (chargePiece f cls w j borrowed s).cfg = s.cfg ∧ (chargePiece f cls w j borrowed s).hif = s.hif ∧
    (chargePiece f cls w j borrowed s).qps = s.qps ∧ (chargePiece f cls w j borrowed s).tags = s.tags ∧
    (chargePiece f cls w j borrowed s).cmds = s.cmds ∧ (chargePiece f cls w j borrowed s).fetchSeq = s.fetchSeq ∧
    (chargePiece f cls w j borrowed s).elog = s.elog ∧ (chargePiece f cls w j borrowed s).elogSeq = s.elogSeq ∧
    (chargePiece f cls w j borrowed s).idx = s.idx ∧ (chargePiece f cls w j borrowed s).mods = s.mods ∧
    (chargePiece f cls w j borrowed s).mem = s.mem ∧ (chargePiece f cls w j borrowed s).chd = s.chd ∧
    (chargePiece f cls w j borrowed s).side = s.side ∧ (chargePiece f cls w j borrowed s).serial = s.serial ∧
    (chargePiece f cls w j borrowed s).out = s.out ∧ (chargePiece f cls w j borrowed s).free = s.free ∧
    (chargePiece f cls w j borrowed s).pending = s.pending := by
  unfold chargePiece
  repeat' (first | (simp; done) | split | (dsimp only; split))

@[simp] theorem grantPieces_rest (f cls : Nat) (w : SegWork) (j : Job) (n : Nat) (s : State) :
    (grantPieces f cls w j n s).2.brd = s.brd ∧ (grantPieces f cls w j n s).2.evr = s.evr ∧ (grantPieces f cls w j n s).2.fnc = s.fnc ∧
    (grantPieces f cls w j n s).2.fuse = s.fuse ∧ (grantPieces f cls w j n s).2.fw = s.fw ∧ (grantPieces f cls w j n s).2.lat = s.lat ∧
    (grantPieces f cls w j n s).2.cfg = s.cfg ∧ (grantPieces f cls w j n s).2.hif = s.hif ∧ (grantPieces f cls w j n s).2.qps = s.qps ∧
    (grantPieces f cls w j n s).2.tags = s.tags ∧ (grantPieces f cls w j n s).2.cmds = s.cmds ∧
    (grantPieces f cls w j n s).2.fetchSeq = s.fetchSeq ∧ (grantPieces f cls w j n s).2.elog = s.elog ∧
    (grantPieces f cls w j n s).2.elogSeq = s.elogSeq ∧ (grantPieces f cls w j n s).2.idx = s.idx ∧
    (grantPieces f cls w j n s).2.mods = s.mods ∧ (grantPieces f cls w j n s).2.mem = s.mem ∧ (grantPieces f cls w j n s).2.chd = s.chd ∧
    (grantPieces f cls w j n s).2.side = s.side ∧ (grantPieces f cls w j n s).2.serial = s.serial ∧
    (grantPieces f cls w j n s).2.out = s.out ∧ (grantPieces f cls w j n s).2.free = s.free ∧
    (grantPieces f cls w j n s).2.pending = s.pending := by
  induction n generalizing s with
  | zero => simp [grantPieces]
  | succ n ih =>
    unfold grantPieces
    repeat' (first | (simp [ih]; done) | split)

@[simp] theorem runJobs_rest (f cls : Nat) (w : SegWork) (js : List Job) (s : State) :
    (runJobs f cls w js s).2.brd = s.brd ∧ (runJobs f cls w js s).2.evr = s.evr ∧ (runJobs f cls w js s).2.fnc = s.fnc ∧
    (runJobs f cls w js s).2.fuse = s.fuse ∧ (runJobs f cls w js s).2.fw = s.fw ∧ (runJobs f cls w js s).2.lat = s.lat ∧
    (runJobs f cls w js s).2.cfg = s.cfg ∧ (runJobs f cls w js s).2.hif = s.hif ∧ (runJobs f cls w js s).2.qps = s.qps ∧
    (runJobs f cls w js s).2.tags = s.tags ∧ (runJobs f cls w js s).2.cmds = s.cmds ∧ (runJobs f cls w js s).2.fetchSeq = s.fetchSeq ∧
    (runJobs f cls w js s).2.elog = s.elog ∧ (runJobs f cls w js s).2.elogSeq = s.elogSeq ∧ (runJobs f cls w js s).2.idx = s.idx ∧
    (runJobs f cls w js s).2.mods = s.mods ∧ (runJobs f cls w js s).2.mem = s.mem ∧ (runJobs f cls w js s).2.chd = s.chd ∧
    (runJobs f cls w js s).2.side = s.side ∧ (runJobs f cls w js s).2.serial = s.serial ∧ (runJobs f cls w js s).2.out = s.out ∧
    (runJobs f cls w js s).2.free = s.free ∧ (runJobs f cls w js s).2.pending = s.pending := by
  induction js generalizing s with
  | nil => simp [runJobs]
  | cons j js ih =>
    unfold runJobs
    dsimp only
    repeat' (first | (simp [ih]; done) | split)

theorem allJobs_rest (f cls : Nat) (w : SegWork) (js : List Job) (s : State) (t : State) (h : allJobs f cls w js s = some t) :
    t.brd = s.brd ∧ t.evr = s.evr ∧ t.fnc = s.fnc ∧ t.fuse = s.fuse ∧ t.fw = s.fw ∧ t.lat = s.lat ∧ t.cfg = s.cfg ∧ t.hif = s.hif ∧
    t.qps = s.qps ∧ t.tags = s.tags ∧ t.cmds = s.cmds ∧ t.fetchSeq = s.fetchSeq ∧ t.elog = s.elog ∧ t.elogSeq = s.elogSeq ∧
    t.idx = s.idx ∧ t.mods = s.mods ∧ t.mem = s.mem ∧ t.chd = s.chd ∧ t.side = s.side ∧ t.serial = s.serial ∧ t.out = s.out ∧
    t.free = s.free ∧ t.pending = s.pending := by
  unfold allJobs at h
  dsimp only at h
  split at h
  · cases h; simp
  · cases h

@[simp] theorem allJobs_getD_brd (f cls : Nat) (w : SegWork) (js : List Job) (s : State) (d : State) (h : d.brd = s.brd) : ((allJobs f cls w js s).getD d).brd = s.brd := by
  cases e : allJobs f cls w js s with
  | none => exact h
  | some t => simp [allJobs_rest _ _ _ _ _ _ e]

@[simp] theorem allJobs_getD_evr (f cls : Nat) (w : SegWork) (js : List Job) (s : State) (d : State) (h : d.evr = s.evr) : ((allJobs f cls w js s).getD d).evr = s.evr := by
  cases e : allJobs f cls w js s with
  | none => exact h
  | some t => simp [allJobs_rest _ _ _ _ _ _ e]

@[simp] theorem allJobs_getD_fnc (f cls : Nat) (w : SegWork) (js : List Job) (s : State) (d : State) (h : d.fnc = s.fnc) : ((allJobs f cls w js s).getD d).fnc = s.fnc := by
  cases e : allJobs f cls w js s with
  | none => exact h
  | some t => simp [allJobs_rest _ _ _ _ _ _ e]

@[simp] theorem allJobs_getD_fuse (f cls : Nat) (w : SegWork) (js : List Job) (s : State) (d : State) (h : d.fuse = s.fuse) : ((allJobs f cls w js s).getD d).fuse = s.fuse := by
  cases e : allJobs f cls w js s with
  | none => exact h
  | some t => simp [allJobs_rest _ _ _ _ _ _ e]

@[simp] theorem allJobs_getD_fw (f cls : Nat) (w : SegWork) (js : List Job) (s : State) (d : State) (h : d.fw = s.fw) : ((allJobs f cls w js s).getD d).fw = s.fw := by
  cases e : allJobs f cls w js s with
  | none => exact h
  | some t => simp [allJobs_rest _ _ _ _ _ _ e]

@[simp] theorem allJobs_getD_lat (f cls : Nat) (w : SegWork) (js : List Job) (s : State) (d : State) (h : d.lat = s.lat) : ((allJobs f cls w js s).getD d).lat = s.lat := by
  cases e : allJobs f cls w js s with
  | none => exact h
  | some t => simp [allJobs_rest _ _ _ _ _ _ e]

@[simp] theorem allJobs_getD_cfg (f cls : Nat) (w : SegWork) (js : List Job) (s : State) (d : State) (h : d.cfg = s.cfg) : ((allJobs f cls w js s).getD d).cfg = s.cfg := by
  cases e : allJobs f cls w js s with
  | none => exact h
  | some t => simp [allJobs_rest _ _ _ _ _ _ e]

@[simp] theorem allJobs_getD_hif (f cls : Nat) (w : SegWork) (js : List Job) (s : State) (d : State) (h : d.hif = s.hif) : ((allJobs f cls w js s).getD d).hif = s.hif := by
  cases e : allJobs f cls w js s with
  | none => exact h
  | some t => simp [allJobs_rest _ _ _ _ _ _ e]

@[simp] theorem allJobs_getD_qps (f cls : Nat) (w : SegWork) (js : List Job) (s : State) (d : State) (h : d.qps = s.qps) : ((allJobs f cls w js s).getD d).qps = s.qps := by
  cases e : allJobs f cls w js s with
  | none => exact h
  | some t => simp [allJobs_rest _ _ _ _ _ _ e]

@[simp] theorem allJobs_getD_tags (f cls : Nat) (w : SegWork) (js : List Job) (s : State) (d : State) (h : d.tags = s.tags) : ((allJobs f cls w js s).getD d).tags = s.tags := by
  cases e : allJobs f cls w js s with
  | none => exact h
  | some t => simp [allJobs_rest _ _ _ _ _ _ e]

@[simp] theorem allJobs_getD_cmds (f cls : Nat) (w : SegWork) (js : List Job) (s : State) (d : State) (h : d.cmds = s.cmds) : ((allJobs f cls w js s).getD d).cmds = s.cmds := by
  cases e : allJobs f cls w js s with
  | none => exact h
  | some t => simp [allJobs_rest _ _ _ _ _ _ e]

@[simp] theorem allJobs_getD_fetchSeq (f cls : Nat) (w : SegWork) (js : List Job) (s : State) (d : State) (h : d.fetchSeq = s.fetchSeq) : ((allJobs f cls w js s).getD d).fetchSeq = s.fetchSeq := by
  cases e : allJobs f cls w js s with
  | none => exact h
  | some t => simp [allJobs_rest _ _ _ _ _ _ e]

@[simp] theorem allJobs_getD_elog (f cls : Nat) (w : SegWork) (js : List Job) (s : State) (d : State) (h : d.elog = s.elog) : ((allJobs f cls w js s).getD d).elog = s.elog := by
  cases e : allJobs f cls w js s with
  | none => exact h
  | some t => simp [allJobs_rest _ _ _ _ _ _ e]

@[simp] theorem allJobs_getD_elogSeq (f cls : Nat) (w : SegWork) (js : List Job) (s : State) (d : State) (h : d.elogSeq = s.elogSeq) : ((allJobs f cls w js s).getD d).elogSeq = s.elogSeq := by
  cases e : allJobs f cls w js s with
  | none => exact h
  | some t => simp [allJobs_rest _ _ _ _ _ _ e]

@[simp] theorem allJobs_getD_idx (f cls : Nat) (w : SegWork) (js : List Job) (s : State) (d : State) (h : d.idx = s.idx) : ((allJobs f cls w js s).getD d).idx = s.idx := by
  cases e : allJobs f cls w js s with
  | none => exact h
  | some t => simp [allJobs_rest _ _ _ _ _ _ e]

@[simp] theorem allJobs_getD_mods (f cls : Nat) (w : SegWork) (js : List Job) (s : State) (d : State) (h : d.mods = s.mods) : ((allJobs f cls w js s).getD d).mods = s.mods := by
  cases e : allJobs f cls w js s with
  | none => exact h
  | some t => simp [allJobs_rest _ _ _ _ _ _ e]

@[simp] theorem allJobs_getD_mem (f cls : Nat) (w : SegWork) (js : List Job) (s : State) (d : State) (h : d.mem = s.mem) : ((allJobs f cls w js s).getD d).mem = s.mem := by
  cases e : allJobs f cls w js s with
  | none => exact h
  | some t => simp [allJobs_rest _ _ _ _ _ _ e]

@[simp] theorem allJobs_getD_chd (f cls : Nat) (w : SegWork) (js : List Job) (s : State) (d : State) (h : d.chd = s.chd) : ((allJobs f cls w js s).getD d).chd = s.chd := by
  cases e : allJobs f cls w js s with
  | none => exact h
  | some t => simp [allJobs_rest _ _ _ _ _ _ e]

@[simp] theorem allJobs_getD_side (f cls : Nat) (w : SegWork) (js : List Job) (s : State) (d : State) (h : d.side = s.side) : ((allJobs f cls w js s).getD d).side = s.side := by
  cases e : allJobs f cls w js s with
  | none => exact h
  | some t => simp [allJobs_rest _ _ _ _ _ _ e]

@[simp] theorem allJobs_getD_serial (f cls : Nat) (w : SegWork) (js : List Job) (s : State) (d : State) (h : d.serial = s.serial) : ((allJobs f cls w js s).getD d).serial = s.serial := by
  cases e : allJobs f cls w js s with
  | none => exact h
  | some t => simp [allJobs_rest _ _ _ _ _ _ e]

@[simp] theorem allJobs_getD_out (f cls : Nat) (w : SegWork) (js : List Job) (s : State) (d : State) (h : d.out = s.out) : ((allJobs f cls w js s).getD d).out = s.out := by
  cases e : allJobs f cls w js s with
  | none => exact h
  | some t => simp [allJobs_rest _ _ _ _ _ _ e]

@[simp] theorem allJobs_getD_free (f cls : Nat) (w : SegWork) (js : List Job) (s : State) (d : State) (h : d.free = s.free) : ((allJobs f cls w js s).getD d).free = s.free := by
  cases e : allJobs f cls w js s with
  | none => exact h
  | some t => simp [allJobs_rest _ _ _ _ _ _ e]

@[simp] theorem allJobs_getD_pending (f cls : Nat) (w : SegWork) (js : List Job) (s : State) (d : State) (h : d.pending = s.pending) : ((allJobs f cls w js s).getD d).pending = s.pending := by
  cases e : allJobs f cls w js s with
  | none => exact h
  | some t => simp [allJobs_rest _ _ _ _ _ _ e]

@[simp] theorem arm_rest (x : Strm) (depth : Nat) (s : State) :
    (arm x depth s).brd = s.brd ∧ (arm x depth s).evr = s.evr ∧ (arm x depth s).fnc = s.fnc ∧ (arm x depth s).fuse = s.fuse ∧
    (arm x depth s).fw = s.fw ∧ (arm x depth s).lat = s.lat ∧ (arm x depth s).cfg = s.cfg ∧ (arm x depth s).hif = s.hif ∧
    (arm x depth s).qps = s.qps ∧ (arm x depth s).tags = s.tags ∧ (arm x depth s).cmds = s.cmds ∧ (arm x depth s).fetchSeq = s.fetchSeq ∧
    (arm x depth s).elog = s.elog ∧ (arm x depth s).elogSeq = s.elogSeq ∧ (arm x depth s).facets = s.facets ∧
    (arm x depth s).idx = s.idx ∧ (arm x depth s).mods = s.mods ∧ (arm x depth s).srch = s.srch ∧ (arm x depth s).flash = s.flash ∧
    (arm x depth s).chd = s.chd ∧ (arm x depth s).side = s.side ∧ (arm x depth s).serial = s.serial ∧ (arm x depth s).out = s.out ∧
    (arm x depth s).free = s.free ∧ (arm x depth s).pending = s.pending := by
  unfold arm
  repeat' (first | (simp; done) | split | (dsimp only; split))

@[simp] theorem armStream_rest (c f cls size tier base count rate : Nat) (s : State) :
    (armStream c f cls size tier base count rate s).brd = s.brd ∧ (armStream c f cls size tier base count rate s).evr = s.evr ∧
    (armStream c f cls size tier base count rate s).fnc = s.fnc ∧ (armStream c f cls size tier base count rate s).fuse = s.fuse ∧
    (armStream c f cls size tier base count rate s).fw = s.fw ∧ (armStream c f cls size tier base count rate s).lat = s.lat ∧
    (armStream c f cls size tier base count rate s).cfg = s.cfg ∧ (armStream c f cls size tier base count rate s).hif = s.hif ∧
    (armStream c f cls size tier base count rate s).qps = s.qps ∧ (armStream c f cls size tier base count rate s).tags = s.tags ∧
    (armStream c f cls size tier base count rate s).cmds = s.cmds ∧
    (armStream c f cls size tier base count rate s).fetchSeq = s.fetchSeq ∧
    (armStream c f cls size tier base count rate s).elog = s.elog ∧ (armStream c f cls size tier base count rate s).elogSeq = s.elogSeq ∧
    (armStream c f cls size tier base count rate s).facets = s.facets ∧ (armStream c f cls size tier base count rate s).idx = s.idx ∧
    (armStream c f cls size tier base count rate s).mods = s.mods ∧ (armStream c f cls size tier base count rate s).srch = s.srch ∧
    (armStream c f cls size tier base count rate s).flash = s.flash ∧ (armStream c f cls size tier base count rate s).chd = s.chd ∧
    (armStream c f cls size tier base count rate s).side = s.side ∧ (armStream c f cls size tier base count rate s).serial = s.serial ∧
    (armStream c f cls size tier base count rate s).out = s.out ∧ (armStream c f cls size tier base count rate s).free = s.free ∧
    (armStream c f cls size tier base count rate s).pending = s.pending := by
  unfold armStream
  repeat' (first | (simp; done) | split | (dsimp only; split))

@[simp] theorem armRuns_rest (u : Consumer) (region dst f cls tier base runs rate : Nat) (s : State) :
    (armRuns u region dst f cls tier base runs rate s).brd = s.brd ∧ (armRuns u region dst f cls tier base runs rate s).evr = s.evr ∧
    (armRuns u region dst f cls tier base runs rate s).fnc = s.fnc ∧ (armRuns u region dst f cls tier base runs rate s).fuse = s.fuse ∧
    (armRuns u region dst f cls tier base runs rate s).fw = s.fw ∧ (armRuns u region dst f cls tier base runs rate s).lat = s.lat ∧
    (armRuns u region dst f cls tier base runs rate s).cfg = s.cfg ∧ (armRuns u region dst f cls tier base runs rate s).hif = s.hif ∧
    (armRuns u region dst f cls tier base runs rate s).qps = s.qps ∧ (armRuns u region dst f cls tier base runs rate s).tags = s.tags ∧
    (armRuns u region dst f cls tier base runs rate s).cmds = s.cmds ∧
    (armRuns u region dst f cls tier base runs rate s).fetchSeq = s.fetchSeq ∧
    (armRuns u region dst f cls tier base runs rate s).elog = s.elog ∧
    (armRuns u region dst f cls tier base runs rate s).elogSeq = s.elogSeq ∧
    (armRuns u region dst f cls tier base runs rate s).facets = s.facets ∧
    (armRuns u region dst f cls tier base runs rate s).idx = s.idx ∧ (armRuns u region dst f cls tier base runs rate s).mods = s.mods ∧
    (armRuns u region dst f cls tier base runs rate s).srch = s.srch ∧
    (armRuns u region dst f cls tier base runs rate s).flash = s.flash ∧ (armRuns u region dst f cls tier base runs rate s).chd = s.chd ∧
    (armRuns u region dst f cls tier base runs rate s).side = s.side ∧
    (armRuns u region dst f cls tier base runs rate s).serial = s.serial ∧
    (armRuns u region dst f cls tier base runs rate s).out = s.out ∧ (armRuns u region dst f cls tier base runs rate s).free = s.free ∧
    (armRuns u region dst f cls tier base runs rate s).pending = s.pending := by
  unfold armRuns
  repeat' (first | (simp; done) | split | (dsimp only; split))

@[simp] theorem armToMemory_rest (f slot cls size base count : Nat) (s : State) :
    (armToMemory f slot cls size base count s).brd = s.brd ∧ (armToMemory f slot cls size base count s).evr = s.evr ∧
    (armToMemory f slot cls size base count s).fnc = s.fnc ∧ (armToMemory f slot cls size base count s).fuse = s.fuse ∧
    (armToMemory f slot cls size base count s).fw = s.fw ∧ (armToMemory f slot cls size base count s).lat = s.lat ∧
    (armToMemory f slot cls size base count s).cfg = s.cfg ∧ (armToMemory f slot cls size base count s).hif = s.hif ∧
    (armToMemory f slot cls size base count s).qps = s.qps ∧ (armToMemory f slot cls size base count s).tags = s.tags ∧
    (armToMemory f slot cls size base count s).cmds = s.cmds ∧ (armToMemory f slot cls size base count s).fetchSeq = s.fetchSeq ∧
    (armToMemory f slot cls size base count s).elog = s.elog ∧ (armToMemory f slot cls size base count s).elogSeq = s.elogSeq ∧
    (armToMemory f slot cls size base count s).facets = s.facets ∧ (armToMemory f slot cls size base count s).idx = s.idx ∧
    (armToMemory f slot cls size base count s).mods = s.mods ∧ (armToMemory f slot cls size base count s).srch = s.srch ∧
    (armToMemory f slot cls size base count s).flash = s.flash ∧ (armToMemory f slot cls size base count s).chd = s.chd ∧
    (armToMemory f slot cls size base count s).side = s.side ∧ (armToMemory f slot cls size base count s).serial = s.serial ∧
    (armToMemory f slot cls size base count s).out = s.out ∧ (armToMemory f slot cls size base count s).free = s.free ∧
    (armToMemory f slot cls size base count s).pending = s.pending := by
  unfold armToMemory
  repeat' (first | (simp; done) | split | (dsimp only; split))

@[simp] theorem escapesBack_rest (r n : Nat) (s : State) :
    (escapesBack r n s).brd = s.brd ∧ (escapesBack r n s).evr = s.evr ∧ (escapesBack r n s).fnc = s.fnc ∧
    (escapesBack r n s).fuse = s.fuse ∧ (escapesBack r n s).fw = s.fw ∧ (escapesBack r n s).lat = s.lat ∧
    (escapesBack r n s).cfg = s.cfg ∧ (escapesBack r n s).hif = s.hif ∧ (escapesBack r n s).qps = s.qps ∧
    (escapesBack r n s).tags = s.tags ∧ (escapesBack r n s).cmds = s.cmds ∧ (escapesBack r n s).fetchSeq = s.fetchSeq ∧
    (escapesBack r n s).elog = s.elog ∧ (escapesBack r n s).elogSeq = s.elogSeq ∧ (escapesBack r n s).facets = s.facets ∧
    (escapesBack r n s).idx = s.idx ∧ (escapesBack r n s).mods = s.mods ∧ (escapesBack r n s).srch = s.srch ∧
    (escapesBack r n s).flash = s.flash ∧ (escapesBack r n s).chd = s.chd ∧ (escapesBack r n s).side = s.side ∧
    (escapesBack r n s).serial = s.serial ∧ (escapesBack r n s).out = s.out ∧ (escapesBack r n s).free = s.free ∧
    (escapesBack r n s).pending = s.pending := by
  unfold escapesBack
  repeat' (first | (simp; done) | split | (dsimp only; split))

@[simp] theorem lessLoan_rest (r f seq n : Nat) (s : State) :
    (lessLoan r f seq n s).brd = s.brd ∧ (lessLoan r f seq n s).evr = s.evr ∧ (lessLoan r f seq n s).fnc = s.fnc ∧
    (lessLoan r f seq n s).fuse = s.fuse ∧ (lessLoan r f seq n s).fw = s.fw ∧ (lessLoan r f seq n s).lat = s.lat ∧
    (lessLoan r f seq n s).cfg = s.cfg ∧ (lessLoan r f seq n s).hif = s.hif ∧ (lessLoan r f seq n s).qps = s.qps ∧
    (lessLoan r f seq n s).tags = s.tags ∧ (lessLoan r f seq n s).cmds = s.cmds ∧ (lessLoan r f seq n s).fetchSeq = s.fetchSeq ∧
    (lessLoan r f seq n s).elog = s.elog ∧ (lessLoan r f seq n s).elogSeq = s.elogSeq ∧ (lessLoan r f seq n s).facets = s.facets ∧
    (lessLoan r f seq n s).idx = s.idx ∧ (lessLoan r f seq n s).mods = s.mods ∧ (lessLoan r f seq n s).srch = s.srch ∧
    (lessLoan r f seq n s).flash = s.flash ∧ (lessLoan r f seq n s).chd = s.chd ∧ (lessLoan r f seq n s).side = s.side ∧
    (lessLoan r f seq n s).serial = s.serial ∧ (lessLoan r f seq n s).out = s.out ∧ (lessLoan r f seq n s).free = s.free ∧
    (lessLoan r f seq n s).pending = s.pending := by
  unfold lessLoan
  repeat' (first | (simp; done) | split | (dsimp only; split))

@[simp] theorem popStream_rest (u : Consumer) (bytes : Nat) (s : State) :
    (popStream u bytes s).brd = s.brd ∧ (popStream u bytes s).evr = s.evr ∧ (popStream u bytes s).fnc = s.fnc ∧
    (popStream u bytes s).fuse = s.fuse ∧ (popStream u bytes s).fw = s.fw ∧ (popStream u bytes s).lat = s.lat ∧
    (popStream u bytes s).cfg = s.cfg ∧ (popStream u bytes s).hif = s.hif ∧ (popStream u bytes s).qps = s.qps ∧
    (popStream u bytes s).tags = s.tags ∧ (popStream u bytes s).cmds = s.cmds ∧ (popStream u bytes s).fetchSeq = s.fetchSeq ∧
    (popStream u bytes s).elog = s.elog ∧ (popStream u bytes s).elogSeq = s.elogSeq ∧ (popStream u bytes s).facets = s.facets ∧
    (popStream u bytes s).idx = s.idx ∧ (popStream u bytes s).mods = s.mods ∧ (popStream u bytes s).srch = s.srch ∧
    (popStream u bytes s).flash = s.flash ∧ (popStream u bytes s).chd = s.chd ∧ (popStream u bytes s).side = s.side ∧
    (popStream u bytes s).serial = s.serial ∧ (popStream u bytes s).out = s.out ∧ (popStream u bytes s).free = s.free ∧
    (popStream u bytes s).pending = s.pending := by
  unfold popStream
  repeat' (first | (simp; done) | split | (dsimp only; split))

@[simp] theorem returnEscapes_rest (p : Nat → Nat → Bool) (s : State) :
    (returnEscapes p s).brd = s.brd ∧ (returnEscapes p s).evr = s.evr ∧ (returnEscapes p s).fnc = s.fnc ∧
    (returnEscapes p s).fuse = s.fuse ∧ (returnEscapes p s).fw = s.fw ∧ (returnEscapes p s).lat = s.lat ∧
    (returnEscapes p s).cfg = s.cfg ∧ (returnEscapes p s).hif = s.hif ∧ (returnEscapes p s).qps = s.qps ∧
    (returnEscapes p s).tags = s.tags ∧ (returnEscapes p s).cmds = s.cmds ∧ (returnEscapes p s).fetchSeq = s.fetchSeq ∧
    (returnEscapes p s).elog = s.elog ∧ (returnEscapes p s).elogSeq = s.elogSeq ∧ (returnEscapes p s).facets = s.facets ∧
    (returnEscapes p s).idx = s.idx ∧ (returnEscapes p s).mods = s.mods ∧ (returnEscapes p s).srch = s.srch ∧
    (returnEscapes p s).flash = s.flash ∧ (returnEscapes p s).chd = s.chd ∧ (returnEscapes p s).side = s.side ∧
    (returnEscapes p s).serial = s.serial ∧ (returnEscapes p s).out = s.out ∧ (returnEscapes p s).free = s.free ∧
    (returnEscapes p s).pending = s.pending := by
  have key := @foldl_ind (fun u : State => u.brd = s.brd ∧ u.evr = s.evr ∧ u.fnc = s.fnc ∧ u.fuse = s.fuse ∧ u.fw = s.fw ∧ u.lat = s.lat ∧ u.cfg = s.cfg ∧ u.hif = s.hif ∧
      u.qps = s.qps ∧ u.tags = s.tags ∧ u.cmds = s.cmds ∧ u.fetchSeq = s.fetchSeq ∧ u.elog = s.elog ∧ u.elogSeq = s.elogSeq ∧
      u.facets = s.facets ∧ u.idx = s.idx ∧ u.mods = s.mods ∧ u.srch = s.srch ∧ u.flash = s.flash ∧ u.chd = s.chd ∧ u.side = s.side ∧
      u.serial = s.serial ∧ u.out = s.out ∧ u.free = s.free ∧ u.pending = s.pending)
  unfold returnEscapes
  repeat' (first | (simp; done) | split | (dsimp only; split) | refine key _ _ _ ?_ ?_ |
    (dsimp only; refine key _ _ _ ?_ ?_) | intro t x h | (simp [h]; done))

@[simp] theorem drainBy_rest (u : Consumer) (s : State) :
    (drainBy u s).brd = s.brd ∧ (drainBy u s).evr = s.evr ∧ (drainBy u s).fnc = s.fnc ∧ (drainBy u s).fuse = s.fuse ∧
    (drainBy u s).fw = s.fw ∧ (drainBy u s).lat = s.lat ∧ (drainBy u s).cfg = s.cfg ∧ (drainBy u s).hif = s.hif ∧
    (drainBy u s).qps = s.qps ∧ (drainBy u s).tags = s.tags ∧ (drainBy u s).cmds = s.cmds ∧ (drainBy u s).fetchSeq = s.fetchSeq ∧
    (drainBy u s).elog = s.elog ∧ (drainBy u s).elogSeq = s.elogSeq ∧ (drainBy u s).facets = s.facets ∧ (drainBy u s).idx = s.idx ∧
    (drainBy u s).mods = s.mods ∧ (drainBy u s).srch = s.srch ∧ (drainBy u s).flash = s.flash ∧ (drainBy u s).chd = s.chd ∧
    (drainBy u s).side = s.side ∧ (drainBy u s).serial = s.serial ∧ (drainBy u s).out = s.out ∧ (drainBy u s).free = s.free ∧
    (drainBy u s).pending = s.pending := by
  unfold drainBy
  repeat' (first | (simp; done) | split | (dsimp only; split))

@[simp] theorem drainStream_rest (c : Nat) (s : State) :
    (drainStream c s).brd = s.brd ∧ (drainStream c s).evr = s.evr ∧ (drainStream c s).fnc = s.fnc ∧ (drainStream c s).fuse = s.fuse ∧
    (drainStream c s).fw = s.fw ∧ (drainStream c s).lat = s.lat ∧ (drainStream c s).cfg = s.cfg ∧ (drainStream c s).hif = s.hif ∧
    (drainStream c s).qps = s.qps ∧ (drainStream c s).tags = s.tags ∧ (drainStream c s).cmds = s.cmds ∧
    (drainStream c s).fetchSeq = s.fetchSeq ∧ (drainStream c s).elog = s.elog ∧ (drainStream c s).elogSeq = s.elogSeq ∧
    (drainStream c s).facets = s.facets ∧ (drainStream c s).idx = s.idx ∧ (drainStream c s).mods = s.mods ∧
    (drainStream c s).srch = s.srch ∧ (drainStream c s).flash = s.flash ∧ (drainStream c s).chd = s.chd ∧
    (drainStream c s).side = s.side ∧ (drainStream c s).serial = s.serial ∧ (drainStream c s).out = s.out ∧
    (drainStream c s).free = s.free ∧ (drainStream c s).pending = s.pending := by
  unfold drainStream
  repeat' (first | (simp; done) | split | (dsimp only; split))

@[simp] theorem closeStreams_rest (p : Strm → Bool) (s : State) :
    (closeStreams p s).brd = s.brd ∧ (closeStreams p s).evr = s.evr ∧ (closeStreams p s).fnc = s.fnc ∧ (closeStreams p s).fuse = s.fuse ∧
    (closeStreams p s).fw = s.fw ∧ (closeStreams p s).lat = s.lat ∧ (closeStreams p s).cfg = s.cfg ∧ (closeStreams p s).hif = s.hif ∧
    (closeStreams p s).qps = s.qps ∧ (closeStreams p s).tags = s.tags ∧ (closeStreams p s).cmds = s.cmds ∧
    (closeStreams p s).fetchSeq = s.fetchSeq ∧ (closeStreams p s).elog = s.elog ∧ (closeStreams p s).elogSeq = s.elogSeq ∧
    (closeStreams p s).facets = s.facets ∧ (closeStreams p s).idx = s.idx ∧ (closeStreams p s).mods = s.mods ∧
    (closeStreams p s).srch = s.srch ∧ (closeStreams p s).flash = s.flash ∧ (closeStreams p s).chd = s.chd ∧
    (closeStreams p s).side = s.side ∧ (closeStreams p s).serial = s.serial ∧ (closeStreams p s).out = s.out ∧
    (closeStreams p s).free = s.free ∧ (closeStreams p s).pending = s.pending := by
  unfold closeStreams
  repeat' (first | (simp; done) | split | (dsimp only; split))

@[simp] theorem poisonHandle_rest (u : Consumer) (b : Nat) (s : State) :
    (poisonHandle u b s).brd = s.brd ∧ (poisonHandle u b s).evr = s.evr ∧ (poisonHandle u b s).fnc = s.fnc ∧
    (poisonHandle u b s).fuse = s.fuse ∧ (poisonHandle u b s).fw = s.fw ∧ (poisonHandle u b s).lat = s.lat ∧
    (poisonHandle u b s).cfg = s.cfg ∧ (poisonHandle u b s).hif = s.hif ∧ (poisonHandle u b s).qps = s.qps ∧
    (poisonHandle u b s).tags = s.tags ∧ (poisonHandle u b s).cmds = s.cmds ∧ (poisonHandle u b s).fetchSeq = s.fetchSeq ∧
    (poisonHandle u b s).elog = s.elog ∧ (poisonHandle u b s).elogSeq = s.elogSeq ∧ (poisonHandle u b s).facets = s.facets ∧
    (poisonHandle u b s).idx = s.idx ∧ (poisonHandle u b s).mods = s.mods ∧ (poisonHandle u b s).srch = s.srch ∧
    (poisonHandle u b s).flash = s.flash ∧ (poisonHandle u b s).chd = s.chd ∧ (poisonHandle u b s).side = s.side ∧
    (poisonHandle u b s).serial = s.serial ∧ (poisonHandle u b s).out = s.out ∧ (poisonHandle u b s).free = s.free ∧
    (poisonHandle u b s).pending = s.pending := by
  unfold poisonHandle
  repeat' (first | (simp; done) | split | (dsimp only; split))

@[simp] theorem storeChecks_rest (f slot : Nat) (l : List ((Nat × Nat) × Bytes)) (s : State) :
    (storeChecks f slot l s).brd = s.brd ∧ (storeChecks f slot l s).evr = s.evr ∧ (storeChecks f slot l s).fnc = s.fnc ∧
    (storeChecks f slot l s).fuse = s.fuse ∧ (storeChecks f slot l s).fw = s.fw ∧ (storeChecks f slot l s).lat = s.lat ∧
    (storeChecks f slot l s).cfg = s.cfg ∧ (storeChecks f slot l s).hif = s.hif ∧ (storeChecks f slot l s).qps = s.qps ∧
    (storeChecks f slot l s).tags = s.tags ∧ (storeChecks f slot l s).cmds = s.cmds ∧ (storeChecks f slot l s).fetchSeq = s.fetchSeq ∧
    (storeChecks f slot l s).elog = s.elog ∧ (storeChecks f slot l s).elogSeq = s.elogSeq ∧ (storeChecks f slot l s).facets = s.facets ∧
    (storeChecks f slot l s).idx = s.idx ∧ (storeChecks f slot l s).mods = s.mods ∧ (storeChecks f slot l s).srch = s.srch ∧
    (storeChecks f slot l s).flash = s.flash ∧ (storeChecks f slot l s).chd = s.chd ∧ (storeChecks f slot l s).side = s.side ∧
    (storeChecks f slot l s).serial = s.serial ∧ (storeChecks f slot l s).out = s.out ∧ (storeChecks f slot l s).free = s.free ∧
    (storeChecks f slot l s).pending = s.pending := by
  unfold storeChecks
  repeat' (first | (simp; done) | split | (dsimp only; split))

@[simp] theorem keepChecks_rest (f slot key : Nat) (s : State) :
    (keepChecks f slot key s).brd = s.brd ∧ (keepChecks f slot key s).evr = s.evr ∧ (keepChecks f slot key s).fnc = s.fnc ∧
    (keepChecks f slot key s).fuse = s.fuse ∧ (keepChecks f slot key s).fw = s.fw ∧ (keepChecks f slot key s).lat = s.lat ∧
    (keepChecks f slot key s).cfg = s.cfg ∧ (keepChecks f slot key s).hif = s.hif ∧ (keepChecks f slot key s).qps = s.qps ∧
    (keepChecks f slot key s).tags = s.tags ∧ (keepChecks f slot key s).cmds = s.cmds ∧ (keepChecks f slot key s).fetchSeq = s.fetchSeq ∧
    (keepChecks f slot key s).elog = s.elog ∧ (keepChecks f slot key s).elogSeq = s.elogSeq ∧
    (keepChecks f slot key s).facets = s.facets ∧ (keepChecks f slot key s).idx = s.idx ∧ (keepChecks f slot key s).mods = s.mods ∧
    (keepChecks f slot key s).srch = s.srch ∧ (keepChecks f slot key s).flash = s.flash ∧ (keepChecks f slot key s).chd = s.chd ∧
    (keepChecks f slot key s).side = s.side ∧ (keepChecks f slot key s).serial = s.serial ∧ (keepChecks f slot key s).out = s.out ∧
    (keepChecks f slot key s).free = s.free ∧ (keepChecks f slot key s).pending = s.pending := by
  unfold keepChecks
  repeat' (first | (simp; done) | split | (dsimp only; split))

@[simp] theorem keepTables_rest (f slot : Nat) (s : State) :
    (keepTables f slot s).brd = s.brd ∧ (keepTables f slot s).evr = s.evr ∧ (keepTables f slot s).fnc = s.fnc ∧
    (keepTables f slot s).fuse = s.fuse ∧ (keepTables f slot s).fw = s.fw ∧ (keepTables f slot s).lat = s.lat ∧
    (keepTables f slot s).cfg = s.cfg ∧ (keepTables f slot s).hif = s.hif ∧ (keepTables f slot s).qps = s.qps ∧
    (keepTables f slot s).tags = s.tags ∧ (keepTables f slot s).cmds = s.cmds ∧ (keepTables f slot s).fetchSeq = s.fetchSeq ∧
    (keepTables f slot s).elog = s.elog ∧ (keepTables f slot s).elogSeq = s.elogSeq ∧ (keepTables f slot s).facets = s.facets ∧
    (keepTables f slot s).idx = s.idx ∧ (keepTables f slot s).mods = s.mods ∧ (keepTables f slot s).srch = s.srch ∧
    (keepTables f slot s).flash = s.flash ∧ (keepTables f slot s).chd = s.chd ∧ (keepTables f slot s).side = s.side ∧
    (keepTables f slot s).serial = s.serial ∧ (keepTables f slot s).out = s.out ∧ (keepTables f slot s).free = s.free ∧
    (keepTables f slot s).pending = s.pending := by
  unfold keepTables
  repeat' (first | (simp; done) | split | (dsimp only; split))

@[simp] theorem keepAll_rest (f slot : Nat) (s : State) :
    (keepAll f slot s).brd = s.brd ∧ (keepAll f slot s).evr = s.evr ∧ (keepAll f slot s).fnc = s.fnc ∧ (keepAll f slot s).fuse = s.fuse ∧
    (keepAll f slot s).fw = s.fw ∧ (keepAll f slot s).lat = s.lat ∧ (keepAll f slot s).cfg = s.cfg ∧ (keepAll f slot s).hif = s.hif ∧
    (keepAll f slot s).qps = s.qps ∧ (keepAll f slot s).tags = s.tags ∧ (keepAll f slot s).cmds = s.cmds ∧
    (keepAll f slot s).fetchSeq = s.fetchSeq ∧ (keepAll f slot s).elog = s.elog ∧ (keepAll f slot s).elogSeq = s.elogSeq ∧
    (keepAll f slot s).facets = s.facets ∧ (keepAll f slot s).idx = s.idx ∧ (keepAll f slot s).mods = s.mods ∧
    (keepAll f slot s).srch = s.srch ∧ (keepAll f slot s).flash = s.flash ∧ (keepAll f slot s).chd = s.chd ∧
    (keepAll f slot s).side = s.side ∧ (keepAll f slot s).serial = s.serial ∧ (keepAll f slot s).out = s.out ∧
    (keepAll f slot s).free = s.free ∧ (keepAll f slot s).pending = s.pending := by
  have key := @foldl_ind (fun u : State => u.brd = s.brd ∧ u.evr = s.evr ∧ u.fnc = s.fnc ∧ u.fuse = s.fuse ∧ u.fw = s.fw ∧ u.lat = s.lat ∧ u.cfg = s.cfg ∧ u.hif = s.hif ∧
      u.qps = s.qps ∧ u.tags = s.tags ∧ u.cmds = s.cmds ∧ u.fetchSeq = s.fetchSeq ∧ u.elog = s.elog ∧ u.elogSeq = s.elogSeq ∧
      u.facets = s.facets ∧ u.idx = s.idx ∧ u.mods = s.mods ∧ u.srch = s.srch ∧ u.flash = s.flash ∧ u.chd = s.chd ∧ u.side = s.side ∧
      u.serial = s.serial ∧ u.out = s.out ∧ u.free = s.free ∧ u.pending = s.pending)
  unfold keepAll
  repeat' (first | (simp; done) | split | (dsimp only; split) | refine key _ _ _ ?_ ?_ |
    (dsimp only; refine key _ _ _ ?_ ?_) | intro t x h | (simp [h]; done))

@[simp] theorem keepWeights_rest (f slot : Nat) (s : State) :
    (keepWeights f slot s).brd = s.brd ∧ (keepWeights f slot s).evr = s.evr ∧ (keepWeights f slot s).fnc = s.fnc ∧
    (keepWeights f slot s).fuse = s.fuse ∧ (keepWeights f slot s).fw = s.fw ∧ (keepWeights f slot s).lat = s.lat ∧
    (keepWeights f slot s).cfg = s.cfg ∧ (keepWeights f slot s).hif = s.hif ∧ (keepWeights f slot s).qps = s.qps ∧
    (keepWeights f slot s).tags = s.tags ∧ (keepWeights f slot s).cmds = s.cmds ∧ (keepWeights f slot s).fetchSeq = s.fetchSeq ∧
    (keepWeights f slot s).elog = s.elog ∧ (keepWeights f slot s).elogSeq = s.elogSeq ∧ (keepWeights f slot s).facets = s.facets ∧
    (keepWeights f slot s).idx = s.idx ∧ (keepWeights f slot s).mods = s.mods ∧ (keepWeights f slot s).srch = s.srch ∧
    (keepWeights f slot s).flash = s.flash ∧ (keepWeights f slot s).chd = s.chd ∧ (keepWeights f slot s).side = s.side ∧
    (keepWeights f slot s).serial = s.serial ∧ (keepWeights f slot s).out = s.out ∧ (keepWeights f slot s).free = s.free ∧
    (keepWeights f slot s).pending = s.pending := by
  unfold keepWeights
  repeat' (first | (simp; done) | split | (dsimp only; split))

@[simp] theorem floorAdvance_rest (f : Nat) (s : State) :
    (floorAdvance f s).brd = s.brd ∧ (floorAdvance f s).evr = s.evr ∧ (floorAdvance f s).fnc = s.fnc ∧ (floorAdvance f s).fuse = s.fuse ∧
    (floorAdvance f s).fw = s.fw ∧ (floorAdvance f s).lat = s.lat ∧ (floorAdvance f s).cfg = s.cfg ∧ (floorAdvance f s).hif = s.hif ∧
    (floorAdvance f s).qps = s.qps ∧ (floorAdvance f s).tags = s.tags ∧ (floorAdvance f s).cmds = s.cmds ∧
    (floorAdvance f s).fetchSeq = s.fetchSeq ∧ (floorAdvance f s).elog = s.elog ∧ (floorAdvance f s).elogSeq = s.elogSeq ∧
    (floorAdvance f s).mods = s.mods ∧ (floorAdvance f s).srch = s.srch ∧ (floorAdvance f s).mem = s.mem ∧
    (floorAdvance f s).chd = s.chd ∧ (floorAdvance f s).side = s.side ∧ (floorAdvance f s).serial = s.serial ∧
    (floorAdvance f s).out = s.out ∧ (floorAdvance f s).free = s.free ∧ (floorAdvance f s).pending = s.pending := by
  have key := @foldl_ind (fun u : State => u.brd = s.brd ∧ u.evr = s.evr ∧ u.fnc = s.fnc ∧ u.fuse = s.fuse ∧ u.fw = s.fw ∧ u.lat = s.lat ∧ u.cfg = s.cfg ∧ u.hif = s.hif ∧
      u.qps = s.qps ∧ u.tags = s.tags ∧ u.cmds = s.cmds ∧ u.fetchSeq = s.fetchSeq ∧ u.elog = s.elog ∧ u.elogSeq = s.elogSeq ∧
      u.mods = s.mods ∧ u.srch = s.srch ∧ u.mem = s.mem ∧ u.chd = s.chd ∧ u.side = s.side ∧ u.serial = s.serial ∧ u.out = s.out ∧
      u.free = s.free ∧ u.pending = s.pending)
  unfold floorAdvance
  repeat' (first | (simp; done) | split | (dsimp only; split) | refine key _ _ _ ?_ ?_ |
    (dsimp only; refine key _ _ _ ?_ ?_) | intro t x h | (simp [h]; done))

@[simp] theorem issueUnits_rest (ix : Index) (cls : Nat) (mk : List Nat → Purpose) (ids : List Nat) (tag : Nat) (s : State) :
    (issueUnits ix cls mk ids tag s).brd = s.brd ∧ (issueUnits ix cls mk ids tag s).evr = s.evr ∧
    (issueUnits ix cls mk ids tag s).fnc = s.fnc ∧ (issueUnits ix cls mk ids tag s).fuse = s.fuse ∧
    (issueUnits ix cls mk ids tag s).fw = s.fw ∧ (issueUnits ix cls mk ids tag s).lat = s.lat ∧
    (issueUnits ix cls mk ids tag s).cfg = s.cfg ∧ (issueUnits ix cls mk ids tag s).hif = s.hif ∧
    (issueUnits ix cls mk ids tag s).qps = s.qps ∧ (issueUnits ix cls mk ids tag s).tags = s.tags ∧
    (issueUnits ix cls mk ids tag s).fetchSeq = s.fetchSeq ∧ (issueUnits ix cls mk ids tag s).elog = s.elog ∧
    (issueUnits ix cls mk ids tag s).elogSeq = s.elogSeq ∧ (issueUnits ix cls mk ids tag s).facets = s.facets ∧
    (issueUnits ix cls mk ids tag s).idx = s.idx ∧ (issueUnits ix cls mk ids tag s).mods = s.mods ∧
    (issueUnits ix cls mk ids tag s).srch = s.srch ∧ (issueUnits ix cls mk ids tag s).mem = s.mem ∧
    (issueUnits ix cls mk ids tag s).chd = s.chd ∧ (issueUnits ix cls mk ids tag s).side = s.side ∧
    (issueUnits ix cls mk ids tag s).serial = s.serial ∧ (issueUnits ix cls mk ids tag s).out = s.out ∧
    (issueUnits ix cls mk ids tag s).free = s.free ∧ (issueUnits ix cls mk ids tag s).pending = s.pending := by
  have key := @foldl_ind (fun u : State => u.brd = s.brd ∧ u.evr = s.evr ∧ u.fnc = s.fnc ∧ u.fuse = s.fuse ∧ u.fw = s.fw ∧ u.lat = s.lat ∧ u.cfg = s.cfg ∧ u.hif = s.hif ∧
      u.qps = s.qps ∧ u.tags = s.tags ∧ u.fetchSeq = s.fetchSeq ∧ u.elog = s.elog ∧ u.elogSeq = s.elogSeq ∧ u.facets = s.facets ∧
      u.idx = s.idx ∧ u.mods = s.mods ∧ u.srch = s.srch ∧ u.mem = s.mem ∧ u.chd = s.chd ∧ u.side = s.side ∧ u.serial = s.serial ∧
      u.out = s.out ∧ u.free = s.free ∧ u.pending = s.pending)
  unfold issueUnits
  repeat' (first | (simp; done) | split | (dsimp only; split) | refine key _ _ _ ?_ ?_ |
    (dsimp only; refine key _ _ _ ?_ ?_) | intro t x h | (simp [h]; done))

@[simp] theorem issueMap_rest (ix : Index) (cls tag : Nat) (ids : List Nat) (s : State) :
    (issueMap ix cls tag ids s).brd = s.brd ∧ (issueMap ix cls tag ids s).evr = s.evr ∧ (issueMap ix cls tag ids s).fnc = s.fnc ∧
    (issueMap ix cls tag ids s).fuse = s.fuse ∧ (issueMap ix cls tag ids s).fw = s.fw ∧ (issueMap ix cls tag ids s).lat = s.lat ∧
    (issueMap ix cls tag ids s).cfg = s.cfg ∧ (issueMap ix cls tag ids s).hif = s.hif ∧ (issueMap ix cls tag ids s).qps = s.qps ∧
    (issueMap ix cls tag ids s).tags = s.tags ∧ (issueMap ix cls tag ids s).fetchSeq = s.fetchSeq ∧
    (issueMap ix cls tag ids s).elog = s.elog ∧ (issueMap ix cls tag ids s).elogSeq = s.elogSeq ∧
    (issueMap ix cls tag ids s).facets = s.facets ∧ (issueMap ix cls tag ids s).idx = s.idx ∧ (issueMap ix cls tag ids s).mods = s.mods ∧
    (issueMap ix cls tag ids s).srch = s.srch ∧ (issueMap ix cls tag ids s).mem = s.mem ∧ (issueMap ix cls tag ids s).chd = s.chd ∧
    (issueMap ix cls tag ids s).side = s.side ∧ (issueMap ix cls tag ids s).serial = s.serial ∧ (issueMap ix cls tag ids s).out = s.out ∧
    (issueMap ix cls tag ids s).free = s.free ∧ (issueMap ix cls tag ids s).pending = s.pending := by
  have key := @foldl_ind (fun u : State => u.brd = s.brd ∧ u.evr = s.evr ∧ u.fnc = s.fnc ∧ u.fuse = s.fuse ∧ u.fw = s.fw ∧ u.lat = s.lat ∧ u.cfg = s.cfg ∧ u.hif = s.hif ∧
      u.qps = s.qps ∧ u.tags = s.tags ∧ u.fetchSeq = s.fetchSeq ∧ u.elog = s.elog ∧ u.elogSeq = s.elogSeq ∧ u.facets = s.facets ∧
      u.idx = s.idx ∧ u.mods = s.mods ∧ u.srch = s.srch ∧ u.mem = s.mem ∧ u.chd = s.chd ∧ u.side = s.side ∧ u.serial = s.serial ∧
      u.out = s.out ∧ u.free = s.free ∧ u.pending = s.pending)
  unfold issueMap
  repeat' (first | (simp; done) | split | (dsimp only; split) | refine key _ _ _ ?_ ?_ |
    (dsimp only; refine key _ _ _ ?_ ?_) | intro t x h | (simp [h]; done))

@[simp] theorem receiveLock_rest (c : Cmd) (s : State) :
    (receiveLock c s).brd = s.brd ∧ (receiveLock c s).evr = s.evr ∧ (receiveLock c s).fnc = s.fnc ∧ (receiveLock c s).fuse = s.fuse ∧
    (receiveLock c s).fw = s.fw ∧ (receiveLock c s).lat = s.lat ∧ (receiveLock c s).cfg = s.cfg ∧ (receiveLock c s).hif = s.hif ∧
    (receiveLock c s).qps = s.qps ∧ (receiveLock c s).fetchSeq = s.fetchSeq ∧ (receiveLock c s).elog = s.elog ∧
    (receiveLock c s).elogSeq = s.elogSeq ∧ (receiveLock c s).facets = s.facets ∧ (receiveLock c s).idx = s.idx ∧
    (receiveLock c s).mods = s.mods ∧ (receiveLock c s).srch = s.srch ∧ (receiveLock c s).mem = s.mem ∧ (receiveLock c s).chd = s.chd ∧
    (receiveLock c s).side = s.side ∧ (receiveLock c s).serial = s.serial ∧ (receiveLock c s).out = s.out ∧
    (receiveLock c s).free = s.free ∧ (receiveLock c s).pending = s.pending := by
  unfold receiveLock
  repeat' (first | (simp; done) | split | (dsimp only; split))

@[simp] theorem takeLock_rest (c : Cmd) (s : State) :
    (takeLock c s).brd = s.brd ∧ (takeLock c s).evr = s.evr ∧ (takeLock c s).fnc = s.fnc ∧ (takeLock c s).fuse = s.fuse ∧
    (takeLock c s).fw = s.fw ∧ (takeLock c s).lat = s.lat ∧ (takeLock c s).cfg = s.cfg ∧ (takeLock c s).hif = s.hif ∧
    (takeLock c s).qps = s.qps ∧ (takeLock c s).fetchSeq = s.fetchSeq ∧ (takeLock c s).elog = s.elog ∧
    (takeLock c s).elogSeq = s.elogSeq ∧ (takeLock c s).idx = s.idx ∧ (takeLock c s).mods = s.mods ∧ (takeLock c s).mem = s.mem ∧
    (takeLock c s).chd = s.chd ∧ (takeLock c s).side = s.side ∧ (takeLock c s).serial = s.serial ∧ (takeLock c s).out = s.out ∧
    (takeLock c s).free = s.free ∧ (takeLock c s).pending = s.pending := by
  unfold takeLock
  repeat' (first | (simp; done) | split | (dsimp only; split) | (have hA := allJobs_rest _ _ _ _ _ _ (by assumption); simp [hA]; done))

@[simp] theorem grantLocks_rest (s : State) :
    (grantLocks s).brd = s.brd ∧ (grantLocks s).evr = s.evr ∧ (grantLocks s).fnc = s.fnc ∧ (grantLocks s).fuse = s.fuse ∧
    (grantLocks s).fw = s.fw ∧ (grantLocks s).lat = s.lat ∧ (grantLocks s).cfg = s.cfg ∧ (grantLocks s).hif = s.hif ∧
    (grantLocks s).qps = s.qps ∧ (grantLocks s).fetchSeq = s.fetchSeq ∧ (grantLocks s).elog = s.elog ∧
    (grantLocks s).elogSeq = s.elogSeq ∧ (grantLocks s).idx = s.idx ∧ (grantLocks s).mods = s.mods ∧ (grantLocks s).mem = s.mem ∧
    (grantLocks s).chd = s.chd ∧ (grantLocks s).side = s.side ∧ (grantLocks s).serial = s.serial ∧ (grantLocks s).out = s.out ∧
    (grantLocks s).free = s.free ∧ (grantLocks s).pending = s.pending := by
  have key := @foldl_ind (fun u : State => u.brd = s.brd ∧ u.evr = s.evr ∧ u.fnc = s.fnc ∧ u.fuse = s.fuse ∧ u.fw = s.fw ∧ u.lat = s.lat ∧ u.cfg = s.cfg ∧ u.hif = s.hif ∧
      u.qps = s.qps ∧ u.fetchSeq = s.fetchSeq ∧ u.elog = s.elog ∧ u.elogSeq = s.elogSeq ∧ u.idx = s.idx ∧ u.mods = s.mods ∧ u.mem = s.mem ∧
      u.chd = s.chd ∧ u.side = s.side ∧ u.serial = s.serial ∧ u.out = s.out ∧ u.free = s.free ∧ u.pending = s.pending)
  unfold grantLocks
  repeat' (first | (simp; done) | split | (dsimp only; split) | refine key _ _ _ ?_ ?_ |
    (dsimp only; refine key _ _ _ ?_ ?_) | intro t x h | (simp [h]; done))

@[simp] theorem logPrograms_rest (f epoch : Nat) (n0 : Nat) (s : State) :
    (logPrograms f epoch n0 s).brd = s.brd ∧ (logPrograms f epoch n0 s).evr = s.evr ∧ (logPrograms f epoch n0 s).fnc = s.fnc ∧
    (logPrograms f epoch n0 s).fuse = s.fuse ∧ (logPrograms f epoch n0 s).fw = s.fw ∧ (logPrograms f epoch n0 s).lat = s.lat ∧
    (logPrograms f epoch n0 s).cfg = s.cfg ∧ (logPrograms f epoch n0 s).hif = s.hif ∧ (logPrograms f epoch n0 s).qps = s.qps ∧
    (logPrograms f epoch n0 s).tags = s.tags ∧ (logPrograms f epoch n0 s).cmds = s.cmds ∧
    (logPrograms f epoch n0 s).fetchSeq = s.fetchSeq ∧ (logPrograms f epoch n0 s).elog = s.elog ∧
    (logPrograms f epoch n0 s).elogSeq = s.elogSeq ∧ (logPrograms f epoch n0 s).idx = s.idx ∧ (logPrograms f epoch n0 s).mods = s.mods ∧
    (logPrograms f epoch n0 s).srch = s.srch ∧ (logPrograms f epoch n0 s).mem = s.mem ∧ (logPrograms f epoch n0 s).chd = s.chd ∧
    (logPrograms f epoch n0 s).side = s.side ∧ (logPrograms f epoch n0 s).serial = s.serial ∧ (logPrograms f epoch n0 s).out = s.out ∧
    (logPrograms f epoch n0 s).free = s.free ∧ (logPrograms f epoch n0 s).pending = s.pending := by
  fun_induction logPrograms f epoch n0 s <;> simp_all

@[simp] theorem appendLog_rest (f epoch units : Nat) (close : Bool) (s : State) :
    (appendLog f epoch units close s).brd = s.brd ∧ (appendLog f epoch units close s).evr = s.evr ∧
    (appendLog f epoch units close s).fnc = s.fnc ∧ (appendLog f epoch units close s).fuse = s.fuse ∧
    (appendLog f epoch units close s).fw = s.fw ∧ (appendLog f epoch units close s).lat = s.lat ∧
    (appendLog f epoch units close s).cfg = s.cfg ∧ (appendLog f epoch units close s).hif = s.hif ∧
    (appendLog f epoch units close s).qps = s.qps ∧ (appendLog f epoch units close s).tags = s.tags ∧
    (appendLog f epoch units close s).cmds = s.cmds ∧ (appendLog f epoch units close s).fetchSeq = s.fetchSeq ∧
    (appendLog f epoch units close s).elog = s.elog ∧ (appendLog f epoch units close s).elogSeq = s.elogSeq ∧
    (appendLog f epoch units close s).idx = s.idx ∧ (appendLog f epoch units close s).mods = s.mods ∧
    (appendLog f epoch units close s).srch = s.srch ∧ (appendLog f epoch units close s).mem = s.mem ∧
    (appendLog f epoch units close s).chd = s.chd ∧ (appendLog f epoch units close s).side = s.side ∧
    (appendLog f epoch units close s).serial = s.serial ∧ (appendLog f epoch units close s).out = s.out ∧
    (appendLog f epoch units close s).free = s.free ∧ (appendLog f epoch units close s).pending = s.pending := by
  unfold appendLog
  repeat' (first | (simp; done) | split | (dsimp only; split))

@[simp] theorem closeReady_rest (f : Nat) (n0 : Nat) (s : State) :
    (closeReady f n0 s).brd = s.brd ∧ (closeReady f n0 s).evr = s.evr ∧ (closeReady f n0 s).fnc = s.fnc ∧
    (closeReady f n0 s).fuse = s.fuse ∧ (closeReady f n0 s).fw = s.fw ∧ (closeReady f n0 s).lat = s.lat ∧
    (closeReady f n0 s).cfg = s.cfg ∧ (closeReady f n0 s).hif = s.hif ∧ (closeReady f n0 s).qps = s.qps ∧
    (closeReady f n0 s).tags = s.tags ∧ (closeReady f n0 s).cmds = s.cmds ∧ (closeReady f n0 s).fetchSeq = s.fetchSeq ∧
    (closeReady f n0 s).elog = s.elog ∧ (closeReady f n0 s).elogSeq = s.elogSeq ∧ (closeReady f n0 s).idx = s.idx ∧
    (closeReady f n0 s).mods = s.mods ∧ (closeReady f n0 s).srch = s.srch ∧ (closeReady f n0 s).mem = s.mem ∧
    (closeReady f n0 s).chd = s.chd ∧ (closeReady f n0 s).side = s.side ∧ (closeReady f n0 s).serial = s.serial ∧
    (closeReady f n0 s).out = s.out ∧ (closeReady f n0 s).free = s.free ∧ (closeReady f n0 s).pending = s.pending := by
  fun_induction closeReady f n0 s <;> simp_all

@[simp] theorem completeWrite_rest (c : Cmd) (forced : Bool) (s : State) :
    (completeWrite c forced s).brd = s.brd ∧ (completeWrite c forced s).evr = s.evr ∧ (completeWrite c forced s).fnc = s.fnc ∧
    (completeWrite c forced s).fuse = s.fuse ∧ (completeWrite c forced s).fw = s.fw ∧ (completeWrite c forced s).lat = s.lat ∧
    (completeWrite c forced s).cfg = s.cfg ∧ (completeWrite c forced s).fetchSeq = s.fetchSeq ∧
    (completeWrite c forced s).facets = s.facets ∧ (completeWrite c forced s).idx = s.idx ∧ (completeWrite c forced s).mods = s.mods ∧
    (completeWrite c forced s).srch = s.srch ∧ (completeWrite c forced s).flash = s.flash ∧ (completeWrite c forced s).mem = s.mem ∧
    (completeWrite c forced s).chd = s.chd ∧ (completeWrite c forced s).side = s.side ∧ (completeWrite c forced s).serial = s.serial ∧
    (completeWrite c forced s).free = s.free ∧ (completeWrite c forced s).pending = s.pending := by
  unfold completeWrite
  repeat' (first | (simp; done) | split | (dsimp only; split))

@[simp] theorem epochClose_rest (f : Nat) (s : State) :
    (epochClose f s).brd = s.brd ∧ (epochClose f s).evr = s.evr ∧ (epochClose f s).fnc = s.fnc ∧ (epochClose f s).fuse = s.fuse ∧
    (epochClose f s).fw = s.fw ∧ (epochClose f s).lat = s.lat ∧ (epochClose f s).cfg = s.cfg ∧ (epochClose f s).fetchSeq = s.fetchSeq ∧
    (epochClose f s).idx = s.idx ∧ (epochClose f s).mods = s.mods ∧ (epochClose f s).srch = s.srch ∧ (epochClose f s).flash = s.flash ∧
    (epochClose f s).mem = s.mem ∧ (epochClose f s).chd = s.chd ∧ (epochClose f s).side = s.side ∧ (epochClose f s).serial = s.serial ∧
    (epochClose f s).free = s.free ∧ (epochClose f s).pending = s.pending := by
  have key := @foldl_ind (fun u : State => u.brd = s.brd ∧ u.evr = s.evr ∧ u.fnc = s.fnc ∧ u.fuse = s.fuse ∧ u.fw = s.fw ∧ u.lat = s.lat ∧ u.cfg = s.cfg ∧
      u.fetchSeq = s.fetchSeq ∧ u.idx = s.idx ∧ u.mods = s.mods ∧ u.srch = s.srch ∧ u.flash = s.flash ∧ u.mem = s.mem ∧ u.chd = s.chd ∧
      u.side = s.side ∧ u.serial = s.serial ∧ u.free = s.free ∧ u.pending = s.pending)
  unfold epochClose
  repeat' (first | (simp; done) | split | (dsimp only; split) | refine key _ _ _ ?_ ?_ |
    (dsimp only; refine key _ _ _ ?_ ?_) | intro t x h | (simp [h]; done))

@[simp] theorem logUnitDone_rest (f epoch : Nat) (s : State) :
    (logUnitDone f epoch s).brd = s.brd ∧ (logUnitDone f epoch s).evr = s.evr ∧ (logUnitDone f epoch s).fnc = s.fnc ∧
    (logUnitDone f epoch s).fuse = s.fuse ∧ (logUnitDone f epoch s).fw = s.fw ∧ (logUnitDone f epoch s).lat = s.lat ∧
    (logUnitDone f epoch s).cfg = s.cfg ∧ (logUnitDone f epoch s).fetchSeq = s.fetchSeq ∧ (logUnitDone f epoch s).idx = s.idx ∧
    (logUnitDone f epoch s).mods = s.mods ∧ (logUnitDone f epoch s).srch = s.srch ∧ (logUnitDone f epoch s).mem = s.mem ∧
    (logUnitDone f epoch s).chd = s.chd ∧ (logUnitDone f epoch s).side = s.side ∧ (logUnitDone f epoch s).serial = s.serial ∧
    (logUnitDone f epoch s).free = s.free ∧ (logUnitDone f epoch s).pending = s.pending := by
  unfold logUnitDone
  repeat' (first | (simp; done) | split | (dsimp only; split))

@[simp] theorem beginFlush_rest (c : Cmd) (s : State) :
    (beginFlush c s).brd = s.brd ∧ (beginFlush c s).evr = s.evr ∧ (beginFlush c s).fnc = s.fnc ∧ (beginFlush c s).fuse = s.fuse ∧
    (beginFlush c s).fw = s.fw ∧ (beginFlush c s).lat = s.lat ∧ (beginFlush c s).cfg = s.cfg ∧ (beginFlush c s).hif = s.hif ∧
    (beginFlush c s).qps = s.qps ∧ (beginFlush c s).fetchSeq = s.fetchSeq ∧ (beginFlush c s).elog = s.elog ∧
    (beginFlush c s).elogSeq = s.elogSeq ∧ (beginFlush c s).facets = s.facets ∧ (beginFlush c s).idx = s.idx ∧
    (beginFlush c s).mods = s.mods ∧ (beginFlush c s).srch = s.srch ∧ (beginFlush c s).flash = s.flash ∧ (beginFlush c s).mem = s.mem ∧
    (beginFlush c s).chd = s.chd ∧ (beginFlush c s).side = s.side ∧ (beginFlush c s).serial = s.serial ∧ (beginFlush c s).out = s.out ∧
    (beginFlush c s).free = s.free ∧ (beginFlush c s).pending = s.pending := by
  have key := @foldl_ind (fun u : State => u.brd = s.brd ∧ u.evr = s.evr ∧ u.fnc = s.fnc ∧ u.fuse = s.fuse ∧ u.fw = s.fw ∧ u.lat = s.lat ∧ u.cfg = s.cfg ∧ u.hif = s.hif ∧
      u.qps = s.qps ∧ u.fetchSeq = s.fetchSeq ∧ u.elog = s.elog ∧ u.elogSeq = s.elogSeq ∧ u.facets = s.facets ∧ u.idx = s.idx ∧
      u.mods = s.mods ∧ u.srch = s.srch ∧ u.flash = s.flash ∧ u.mem = s.mem ∧ u.chd = s.chd ∧ u.side = s.side ∧ u.serial = s.serial ∧
      u.out = s.out ∧ u.free = s.free ∧ u.pending = s.pending)
  unfold beginFlush
  repeat' (first | (simp; done) | split | (dsimp only; split) | refine key _ _ _ ?_ ?_ |
    (dsimp only; refine key _ _ _ ?_ ?_) | intro t x h | (simp [h]; done))

@[simp] theorem flushes_rest (s : State) :
    (flushes s).brd = s.brd ∧ (flushes s).evr = s.evr ∧ (flushes s).fnc = s.fnc ∧ (flushes s).fuse = s.fuse ∧ (flushes s).fw = s.fw ∧
    (flushes s).lat = s.lat ∧ (flushes s).cfg = s.cfg ∧ (flushes s).fetchSeq = s.fetchSeq ∧ (flushes s).facets = s.facets ∧
    (flushes s).idx = s.idx ∧ (flushes s).mods = s.mods ∧ (flushes s).srch = s.srch ∧ (flushes s).flash = s.flash ∧
    (flushes s).mem = s.mem ∧ (flushes s).chd = s.chd ∧ (flushes s).side = s.side ∧ (flushes s).serial = s.serial ∧
    (flushes s).free = s.free ∧ (flushes s).pending = s.pending := by
  have key := @foldl_ind (fun u : State => u.brd = s.brd ∧ u.evr = s.evr ∧ u.fnc = s.fnc ∧ u.fuse = s.fuse ∧ u.fw = s.fw ∧ u.lat = s.lat ∧ u.cfg = s.cfg ∧
      u.fetchSeq = s.fetchSeq ∧ u.facets = s.facets ∧ u.idx = s.idx ∧ u.mods = s.mods ∧ u.srch = s.srch ∧ u.flash = s.flash ∧
      u.mem = s.mem ∧ u.chd = s.chd ∧ u.side = s.side ∧ u.serial = s.serial ∧ u.free = s.free ∧ u.pending = s.pending)
  unfold flushes
  repeat' (first | (simp; done) | split | (dsimp only; split) | refine key _ _ _ ?_ ?_ |
    (dsimp only; refine key _ _ _ ?_ ?_) | intro t x h | (simp [h]; done))

@[simp] theorem tryFetch_rest (c : Cmd) (s : State) :
    (tryFetch c s).brd = s.brd ∧ (tryFetch c s).fnc = s.fnc ∧ (tryFetch c s).fuse = s.fuse ∧ (tryFetch c s).fw = s.fw ∧
    (tryFetch c s).lat = s.lat ∧ (tryFetch c s).cfg = s.cfg ∧ (tryFetch c s).fetchSeq = s.fetchSeq ∧ (tryFetch c s).facets = s.facets ∧
    (tryFetch c s).idx = s.idx ∧ (tryFetch c s).mods = s.mods ∧ (tryFetch c s).srch = s.srch ∧ (tryFetch c s).flash = s.flash ∧
    (tryFetch c s).chd = s.chd ∧ (tryFetch c s).side = s.side ∧ (tryFetch c s).serial = s.serial ∧ (tryFetch c s).free = s.free ∧
    (tryFetch c s).pending = s.pending := by
  unfold tryFetch
  repeat' (first | (simp; done) | split | (dsimp only; split))

@[simp] theorem fetches_rest (s : State) :
    (fetches s).brd = s.brd ∧ (fetches s).fnc = s.fnc ∧ (fetches s).fuse = s.fuse ∧ (fetches s).fw = s.fw ∧ (fetches s).lat = s.lat ∧
    (fetches s).cfg = s.cfg ∧ (fetches s).fetchSeq = s.fetchSeq ∧ (fetches s).facets = s.facets ∧ (fetches s).idx = s.idx ∧
    (fetches s).mods = s.mods ∧ (fetches s).srch = s.srch ∧ (fetches s).flash = s.flash ∧ (fetches s).chd = s.chd ∧
    (fetches s).side = s.side ∧ (fetches s).serial = s.serial ∧ (fetches s).free = s.free ∧ (fetches s).pending = s.pending := by
  have key := @foldl_ind (fun u : State => u.brd = s.brd ∧ u.fnc = s.fnc ∧ u.fuse = s.fuse ∧ u.fw = s.fw ∧ u.lat = s.lat ∧ u.cfg = s.cfg ∧ u.fetchSeq = s.fetchSeq ∧
      u.facets = s.facets ∧ u.idx = s.idx ∧ u.mods = s.mods ∧ u.srch = s.srch ∧ u.flash = s.flash ∧ u.chd = s.chd ∧ u.side = s.side ∧
      u.serial = s.serial ∧ u.free = s.free ∧ u.pending = s.pending)
  unfold fetches
  repeat' (first | (simp; done) | split | (dsimp only; split) | refine key _ _ _ ?_ ?_ |
    (dsimp only; refine key _ _ _ ?_ ?_) | intro t x h | (simp [h]; done))

@[simp] theorem countSketch_rest (s0 : State) (ix : Index) (gen cls : Nat) (v : Bytes) (s : State) :
    (countSketch s0 ix gen cls v s).brd = s.brd ∧ (countSketch s0 ix gen cls v s).evr = s.evr ∧
    (countSketch s0 ix gen cls v s).fnc = s.fnc ∧ (countSketch s0 ix gen cls v s).fuse = s.fuse ∧
    (countSketch s0 ix gen cls v s).fw = s.fw ∧ (countSketch s0 ix gen cls v s).lat = s.lat ∧
    (countSketch s0 ix gen cls v s).cfg = s.cfg ∧ (countSketch s0 ix gen cls v s).hif = s.hif ∧
    (countSketch s0 ix gen cls v s).qps = s.qps ∧ (countSketch s0 ix gen cls v s).tags = s.tags ∧
    (countSketch s0 ix gen cls v s).cmds = s.cmds ∧ (countSketch s0 ix gen cls v s).fetchSeq = s.fetchSeq ∧
    (countSketch s0 ix gen cls v s).elog = s.elog ∧ (countSketch s0 ix gen cls v s).elogSeq = s.elogSeq ∧
    (countSketch s0 ix gen cls v s).idx = s.idx ∧ (countSketch s0 ix gen cls v s).mods = s.mods ∧
    (countSketch s0 ix gen cls v s).srch = s.srch ∧ (countSketch s0 ix gen cls v s).flash = s.flash ∧
    (countSketch s0 ix gen cls v s).mem = s.mem ∧ (countSketch s0 ix gen cls v s).chd = s.chd ∧
    (countSketch s0 ix gen cls v s).side = s.side ∧ (countSketch s0 ix gen cls v s).serial = s.serial ∧
    (countSketch s0 ix gen cls v s).out = s.out ∧ (countSketch s0 ix gen cls v s).free = s.free ∧
    (countSketch s0 ix gen cls v s).pending = s.pending := by
  unfold countSketch
  repeat' (first | (simp; done) | split | (dsimp only; split))

@[simp] theorem countSketches_rest (s0 : State) (ix : Index) (cls : Nat) (vs : List Stored) (s : State) :
    (countSketches s0 ix cls vs s).brd = s.brd ∧ (countSketches s0 ix cls vs s).evr = s.evr ∧ (countSketches s0 ix cls vs s).fnc = s.fnc ∧
    (countSketches s0 ix cls vs s).fuse = s.fuse ∧ (countSketches s0 ix cls vs s).fw = s.fw ∧ (countSketches s0 ix cls vs s).lat = s.lat ∧
    (countSketches s0 ix cls vs s).cfg = s.cfg ∧ (countSketches s0 ix cls vs s).hif = s.hif ∧ (countSketches s0 ix cls vs s).qps = s.qps ∧
    (countSketches s0 ix cls vs s).tags = s.tags ∧ (countSketches s0 ix cls vs s).cmds = s.cmds ∧
    (countSketches s0 ix cls vs s).fetchSeq = s.fetchSeq ∧ (countSketches s0 ix cls vs s).elog = s.elog ∧
    (countSketches s0 ix cls vs s).elogSeq = s.elogSeq ∧ (countSketches s0 ix cls vs s).idx = s.idx ∧
    (countSketches s0 ix cls vs s).mods = s.mods ∧ (countSketches s0 ix cls vs s).srch = s.srch ∧
    (countSketches s0 ix cls vs s).flash = s.flash ∧ (countSketches s0 ix cls vs s).mem = s.mem ∧
    (countSketches s0 ix cls vs s).chd = s.chd ∧ (countSketches s0 ix cls vs s).side = s.side ∧
    (countSketches s0 ix cls vs s).serial = s.serial ∧ (countSketches s0 ix cls vs s).out = s.out ∧
    (countSketches s0 ix cls vs s).free = s.free ∧ (countSketches s0 ix cls vs s).pending = s.pending := by
  have key := @foldl_ind (fun u : State => u.brd = s.brd ∧ u.evr = s.evr ∧ u.fnc = s.fnc ∧ u.fuse = s.fuse ∧ u.fw = s.fw ∧ u.lat = s.lat ∧ u.cfg = s.cfg ∧ u.hif = s.hif ∧
      u.qps = s.qps ∧ u.tags = s.tags ∧ u.cmds = s.cmds ∧ u.fetchSeq = s.fetchSeq ∧ u.elog = s.elog ∧ u.elogSeq = s.elogSeq ∧
      u.idx = s.idx ∧ u.mods = s.mods ∧ u.srch = s.srch ∧ u.flash = s.flash ∧ u.mem = s.mem ∧ u.chd = s.chd ∧ u.side = s.side ∧
      u.serial = s.serial ∧ u.out = s.out ∧ u.free = s.free ∧ u.pending = s.pending)
  unfold countSketches
  repeat' (first | (simp; done) | split | (dsimp only; split) | refine key _ _ _ ?_ ?_ |
    (dsimp only; refine key _ _ _ ?_ ?_) | intro t x h | (simp [h]; done))

@[simp] theorem deleteIds_rest (f epoch : Nat) (slot : Nat) (ids : List Nat) (s : State) :
    (deleteIds f epoch slot ids s).brd = s.brd ∧ (deleteIds f epoch slot ids s).evr = s.evr ∧ (deleteIds f epoch slot ids s).fnc = s.fnc ∧
    (deleteIds f epoch slot ids s).fuse = s.fuse ∧ (deleteIds f epoch slot ids s).fw = s.fw ∧ (deleteIds f epoch slot ids s).lat = s.lat ∧
    (deleteIds f epoch slot ids s).cfg = s.cfg ∧ (deleteIds f epoch slot ids s).hif = s.hif ∧ (deleteIds f epoch slot ids s).qps = s.qps ∧
    (deleteIds f epoch slot ids s).tags = s.tags ∧ (deleteIds f epoch slot ids s).cmds = s.cmds ∧
    (deleteIds f epoch slot ids s).fetchSeq = s.fetchSeq ∧ (deleteIds f epoch slot ids s).elog = s.elog ∧
    (deleteIds f epoch slot ids s).elogSeq = s.elogSeq ∧ (deleteIds f epoch slot ids s).mods = s.mods ∧
    (deleteIds f epoch slot ids s).srch = s.srch ∧ (deleteIds f epoch slot ids s).flash = s.flash ∧
    (deleteIds f epoch slot ids s).mem = s.mem ∧ (deleteIds f epoch slot ids s).chd = s.chd ∧
    (deleteIds f epoch slot ids s).side = s.side ∧ (deleteIds f epoch slot ids s).serial = s.serial ∧
    (deleteIds f epoch slot ids s).out = s.out ∧ (deleteIds f epoch slot ids s).free = s.free ∧
    (deleteIds f epoch slot ids s).pending = s.pending := by
  have key := @foldl_ind (fun u : State => u.brd = s.brd ∧ u.evr = s.evr ∧ u.fnc = s.fnc ∧ u.fuse = s.fuse ∧ u.fw = s.fw ∧ u.lat = s.lat ∧ u.cfg = s.cfg ∧ u.hif = s.hif ∧
      u.qps = s.qps ∧ u.tags = s.tags ∧ u.cmds = s.cmds ∧ u.fetchSeq = s.fetchSeq ∧ u.elog = s.elog ∧ u.elogSeq = s.elogSeq ∧
      u.mods = s.mods ∧ u.srch = s.srch ∧ u.flash = s.flash ∧ u.mem = s.mem ∧ u.chd = s.chd ∧ u.side = s.side ∧ u.serial = s.serial ∧
      u.out = s.out ∧ u.free = s.free ∧ u.pending = s.pending)
  unfold deleteIds
  repeat' (first | (simp; done) | split | (dsimp only; split) | refine key _ _ _ ?_ ?_ |
    (dsimp only; refine key _ _ _ ?_ ?_) | intro t x h | (simp [h]; done))

@[simp] theorem migForward_rest (f slot : Nat) (w : MigWrite) (s : State) :
    (migForward f slot w s).brd = s.brd ∧ (migForward f slot w s).evr = s.evr ∧ (migForward f slot w s).fnc = s.fnc ∧
    (migForward f slot w s).fuse = s.fuse ∧ (migForward f slot w s).fw = s.fw ∧ (migForward f slot w s).lat = s.lat ∧
    (migForward f slot w s).cfg = s.cfg ∧ (migForward f slot w s).hif = s.hif ∧ (migForward f slot w s).qps = s.qps ∧
    (migForward f slot w s).tags = s.tags ∧ (migForward f slot w s).cmds = s.cmds ∧ (migForward f slot w s).fetchSeq = s.fetchSeq ∧
    (migForward f slot w s).elog = s.elog ∧ (migForward f slot w s).elogSeq = s.elogSeq ∧ (migForward f slot w s).facets = s.facets ∧
    (migForward f slot w s).idx = s.idx ∧ (migForward f slot w s).mods = s.mods ∧ (migForward f slot w s).srch = s.srch ∧
    (migForward f slot w s).flash = s.flash ∧ (migForward f slot w s).mem = s.mem ∧ (migForward f slot w s).side = s.side ∧
    (migForward f slot w s).serial = s.serial ∧ (migForward f slot w s).out = s.out ∧ (migForward f slot w s).free = s.free ∧
    (migForward f slot w s).pending = s.pending := by
  unfold migForward
  repeat' (first | (simp; done) | split | (dsimp only; split))

@[simp] theorem noteFlushes_rest (c : Cmd) (s : State) :
    (noteFlushes c s).brd = s.brd ∧ (noteFlushes c s).evr = s.evr ∧ (noteFlushes c s).fnc = s.fnc ∧ (noteFlushes c s).fuse = s.fuse ∧
    (noteFlushes c s).fw = s.fw ∧ (noteFlushes c s).lat = s.lat ∧ (noteFlushes c s).cfg = s.cfg ∧ (noteFlushes c s).hif = s.hif ∧
    (noteFlushes c s).qps = s.qps ∧ (noteFlushes c s).tags = s.tags ∧ (noteFlushes c s).fetchSeq = s.fetchSeq ∧
    (noteFlushes c s).elog = s.elog ∧ (noteFlushes c s).elogSeq = s.elogSeq ∧ (noteFlushes c s).facets = s.facets ∧
    (noteFlushes c s).idx = s.idx ∧ (noteFlushes c s).mods = s.mods ∧ (noteFlushes c s).srch = s.srch ∧
    (noteFlushes c s).flash = s.flash ∧ (noteFlushes c s).mem = s.mem ∧ (noteFlushes c s).chd = s.chd ∧ (noteFlushes c s).side = s.side ∧
    (noteFlushes c s).serial = s.serial ∧ (noteFlushes c s).out = s.out ∧ (noteFlushes c s).free = s.free ∧
    (noteFlushes c s).pending = s.pending := by
  unfold noteFlushes
  repeat' (first | (simp; done) | split | (dsimp only; split))

@[simp] theorem applyWrite_rest (ix : Index) (c : Cmd) (ids : List Nat) (s : State) :
    (applyWrite ix c ids s).brd = s.brd ∧ (applyWrite ix c ids s).evr = s.evr ∧ (applyWrite ix c ids s).fnc = s.fnc ∧
    (applyWrite ix c ids s).fuse = s.fuse ∧ (applyWrite ix c ids s).fw = s.fw ∧ (applyWrite ix c ids s).lat = s.lat ∧
    (applyWrite ix c ids s).cfg = s.cfg ∧ (applyWrite ix c ids s).fetchSeq = s.fetchSeq ∧ (applyWrite ix c ids s).mods = s.mods ∧
    (applyWrite ix c ids s).side = s.side ∧ (applyWrite ix c ids s).serial = s.serial ∧ (applyWrite ix c ids s).pending = s.pending := by
  unfold applyWrite
  repeat' (first | (simp; done) | split | (dsimp only; split))

@[simp] theorem waitRoom_rest (c : Cmd) (s : State) :
    (waitRoom c s).brd = s.brd ∧ (waitRoom c s).evr = s.evr ∧ (waitRoom c s).fnc = s.fnc ∧ (waitRoom c s).fuse = s.fuse ∧
    (waitRoom c s).fw = s.fw ∧ (waitRoom c s).lat = s.lat ∧ (waitRoom c s).cfg = s.cfg ∧ (waitRoom c s).hif = s.hif ∧
    (waitRoom c s).qps = s.qps ∧ (waitRoom c s).fetchSeq = s.fetchSeq ∧ (waitRoom c s).elog = s.elog ∧
    (waitRoom c s).elogSeq = s.elogSeq ∧ (waitRoom c s).facets = s.facets ∧ (waitRoom c s).idx = s.idx ∧ (waitRoom c s).mods = s.mods ∧
    (waitRoom c s).srch = s.srch ∧ (waitRoom c s).flash = s.flash ∧ (waitRoom c s).mem = s.mem ∧ (waitRoom c s).chd = s.chd ∧
    (waitRoom c s).side = s.side ∧ (waitRoom c s).serial = s.serial ∧ (waitRoom c s).out = s.out ∧ (waitRoom c s).free = s.free ∧
    (waitRoom c s).pending = s.pending := by
  unfold waitRoom
  repeat' (first | (simp; done) | split | (dsimp only; split))

@[simp] theorem countWait_rest (c : Cmd) (n : Nat) (s : State) :
    (countWait c n s).brd = s.brd ∧ (countWait c n s).evr = s.evr ∧ (countWait c n s).fnc = s.fnc ∧ (countWait c n s).fuse = s.fuse ∧
    (countWait c n s).fw = s.fw ∧ (countWait c n s).lat = s.lat ∧ (countWait c n s).cfg = s.cfg ∧ (countWait c n s).hif = s.hif ∧
    (countWait c n s).qps = s.qps ∧ (countWait c n s).fetchSeq = s.fetchSeq ∧ (countWait c n s).elog = s.elog ∧
    (countWait c n s).elogSeq = s.elogSeq ∧ (countWait c n s).idx = s.idx ∧ (countWait c n s).mods = s.mods ∧
    (countWait c n s).srch = s.srch ∧ (countWait c n s).flash = s.flash ∧ (countWait c n s).mem = s.mem ∧ (countWait c n s).chd = s.chd ∧
    (countWait c n s).side = s.side ∧ (countWait c n s).serial = s.serial ∧ (countWait c n s).out = s.out ∧
    (countWait c n s).free = s.free ∧ (countWait c n s).pending = s.pending := by
  unfold countWait
  repeat' (first | (simp; done) | split | (dsimp only; split))

@[simp] theorem commitWrite_rest (c : Cmd) (s : State) :
    (commitWrite c s).brd = s.brd ∧ (commitWrite c s).evr = s.evr ∧ (commitWrite c s).fnc = s.fnc ∧ (commitWrite c s).fuse = s.fuse ∧
    (commitWrite c s).fw = s.fw ∧ (commitWrite c s).lat = s.lat ∧ (commitWrite c s).cfg = s.cfg ∧
    (commitWrite c s).fetchSeq = s.fetchSeq ∧ (commitWrite c s).mods = s.mods ∧ (commitWrite c s).side = s.side ∧
    (commitWrite c s).serial = s.serial ∧ (commitWrite c s).pending = s.pending := by
  unfold commitWrite
  repeat' (first | (simp; done) | split | (dsimp only; split) | (have hA := allJobs_rest _ _ _ _ _ _ (by assumption); simp [hA]; done))

theorem cellWork_rest (role f cls : Nat) (s : State) (t : State) (h : cellWork role f cls s = some t) :
    t.brd = s.brd ∧ t.evr = s.evr ∧ t.fnc = s.fnc ∧ t.fuse = s.fuse ∧ t.fw = s.fw ∧ t.lat = s.lat ∧ t.cfg = s.cfg ∧ t.hif = s.hif ∧
    t.qps = s.qps ∧ t.tags = s.tags ∧ t.cmds = s.cmds ∧ t.fetchSeq = s.fetchSeq ∧ t.elog = s.elog ∧ t.elogSeq = s.elogSeq ∧
    t.idx = s.idx ∧ t.mods = s.mods ∧ t.flash = s.flash ∧ t.mem = s.mem ∧ t.chd = s.chd ∧ t.side = s.side ∧ t.serial = s.serial ∧
    t.out = s.out ∧ t.pending = s.pending := by
  unfold cellWork at h
  repeat' (first | (cases h; done) | (cases h; simp; done) | (simp only [Option.map_eq_some_iff] at h; obtain ⟨c, -, rfl⟩ := h; simp; done) | split at h | dsimp only at h)

@[simp] theorem cellWork_getD_brd (role f cls : Nat) (s : State) (d : State) (h : d.brd = s.brd) : ((cellWork role f cls s).getD d).brd = s.brd := by
  cases e : cellWork role f cls s with
  | none => exact h
  | some t => simp [cellWork_rest _ _ _ _ _ e]

@[simp] theorem cellWork_getD_evr (role f cls : Nat) (s : State) (d : State) (h : d.evr = s.evr) : ((cellWork role f cls s).getD d).evr = s.evr := by
  cases e : cellWork role f cls s with
  | none => exact h
  | some t => simp [cellWork_rest _ _ _ _ _ e]

@[simp] theorem cellWork_getD_fnc (role f cls : Nat) (s : State) (d : State) (h : d.fnc = s.fnc) : ((cellWork role f cls s).getD d).fnc = s.fnc := by
  cases e : cellWork role f cls s with
  | none => exact h
  | some t => simp [cellWork_rest _ _ _ _ _ e]

@[simp] theorem cellWork_getD_fuse (role f cls : Nat) (s : State) (d : State) (h : d.fuse = s.fuse) : ((cellWork role f cls s).getD d).fuse = s.fuse := by
  cases e : cellWork role f cls s with
  | none => exact h
  | some t => simp [cellWork_rest _ _ _ _ _ e]

@[simp] theorem cellWork_getD_fw (role f cls : Nat) (s : State) (d : State) (h : d.fw = s.fw) : ((cellWork role f cls s).getD d).fw = s.fw := by
  cases e : cellWork role f cls s with
  | none => exact h
  | some t => simp [cellWork_rest _ _ _ _ _ e]

@[simp] theorem cellWork_getD_lat (role f cls : Nat) (s : State) (d : State) (h : d.lat = s.lat) : ((cellWork role f cls s).getD d).lat = s.lat := by
  cases e : cellWork role f cls s with
  | none => exact h
  | some t => simp [cellWork_rest _ _ _ _ _ e]

@[simp] theorem cellWork_getD_cfg (role f cls : Nat) (s : State) (d : State) (h : d.cfg = s.cfg) : ((cellWork role f cls s).getD d).cfg = s.cfg := by
  cases e : cellWork role f cls s with
  | none => exact h
  | some t => simp [cellWork_rest _ _ _ _ _ e]

@[simp] theorem cellWork_getD_hif (role f cls : Nat) (s : State) (d : State) (h : d.hif = s.hif) : ((cellWork role f cls s).getD d).hif = s.hif := by
  cases e : cellWork role f cls s with
  | none => exact h
  | some t => simp [cellWork_rest _ _ _ _ _ e]

@[simp] theorem cellWork_getD_qps (role f cls : Nat) (s : State) (d : State) (h : d.qps = s.qps) : ((cellWork role f cls s).getD d).qps = s.qps := by
  cases e : cellWork role f cls s with
  | none => exact h
  | some t => simp [cellWork_rest _ _ _ _ _ e]

@[simp] theorem cellWork_getD_tags (role f cls : Nat) (s : State) (d : State) (h : d.tags = s.tags) : ((cellWork role f cls s).getD d).tags = s.tags := by
  cases e : cellWork role f cls s with
  | none => exact h
  | some t => simp [cellWork_rest _ _ _ _ _ e]

@[simp] theorem cellWork_getD_cmds (role f cls : Nat) (s : State) (d : State) (h : d.cmds = s.cmds) : ((cellWork role f cls s).getD d).cmds = s.cmds := by
  cases e : cellWork role f cls s with
  | none => exact h
  | some t => simp [cellWork_rest _ _ _ _ _ e]

@[simp] theorem cellWork_getD_fetchSeq (role f cls : Nat) (s : State) (d : State) (h : d.fetchSeq = s.fetchSeq) : ((cellWork role f cls s).getD d).fetchSeq = s.fetchSeq := by
  cases e : cellWork role f cls s with
  | none => exact h
  | some t => simp [cellWork_rest _ _ _ _ _ e]

@[simp] theorem cellWork_getD_elog (role f cls : Nat) (s : State) (d : State) (h : d.elog = s.elog) : ((cellWork role f cls s).getD d).elog = s.elog := by
  cases e : cellWork role f cls s with
  | none => exact h
  | some t => simp [cellWork_rest _ _ _ _ _ e]

@[simp] theorem cellWork_getD_elogSeq (role f cls : Nat) (s : State) (d : State) (h : d.elogSeq = s.elogSeq) : ((cellWork role f cls s).getD d).elogSeq = s.elogSeq := by
  cases e : cellWork role f cls s with
  | none => exact h
  | some t => simp [cellWork_rest _ _ _ _ _ e]

@[simp] theorem cellWork_getD_idx (role f cls : Nat) (s : State) (d : State) (h : d.idx = s.idx) : ((cellWork role f cls s).getD d).idx = s.idx := by
  cases e : cellWork role f cls s with
  | none => exact h
  | some t => simp [cellWork_rest _ _ _ _ _ e]

@[simp] theorem cellWork_getD_mods (role f cls : Nat) (s : State) (d : State) (h : d.mods = s.mods) : ((cellWork role f cls s).getD d).mods = s.mods := by
  cases e : cellWork role f cls s with
  | none => exact h
  | some t => simp [cellWork_rest _ _ _ _ _ e]

@[simp] theorem cellWork_getD_flash (role f cls : Nat) (s : State) (d : State) (h : d.flash = s.flash) : ((cellWork role f cls s).getD d).flash = s.flash := by
  cases e : cellWork role f cls s with
  | none => exact h
  | some t => simp [cellWork_rest _ _ _ _ _ e]

@[simp] theorem cellWork_getD_mem (role f cls : Nat) (s : State) (d : State) (h : d.mem = s.mem) : ((cellWork role f cls s).getD d).mem = s.mem := by
  cases e : cellWork role f cls s with
  | none => exact h
  | some t => simp [cellWork_rest _ _ _ _ _ e]

@[simp] theorem cellWork_getD_chd (role f cls : Nat) (s : State) (d : State) (h : d.chd = s.chd) : ((cellWork role f cls s).getD d).chd = s.chd := by
  cases e : cellWork role f cls s with
  | none => exact h
  | some t => simp [cellWork_rest _ _ _ _ _ e]

@[simp] theorem cellWork_getD_side (role f cls : Nat) (s : State) (d : State) (h : d.side = s.side) : ((cellWork role f cls s).getD d).side = s.side := by
  cases e : cellWork role f cls s with
  | none => exact h
  | some t => simp [cellWork_rest _ _ _ _ _ e]

@[simp] theorem cellWork_getD_serial (role f cls : Nat) (s : State) (d : State) (h : d.serial = s.serial) : ((cellWork role f cls s).getD d).serial = s.serial := by
  cases e : cellWork role f cls s with
  | none => exact h
  | some t => simp [cellWork_rest _ _ _ _ _ e]

@[simp] theorem cellWork_getD_out (role f cls : Nat) (s : State) (d : State) (h : d.out = s.out) : ((cellWork role f cls s).getD d).out = s.out := by
  cases e : cellWork role f cls s with
  | none => exact h
  | some t => simp [cellWork_rest _ _ _ _ _ e]

@[simp] theorem cellWork_getD_pending (role f cls : Nat) (s : State) (d : State) (h : d.pending = s.pending) : ((cellWork role f cls s).getD d).pending = s.pending := by
  cases e : cellWork role f cls s with
  | none => exact h
  | some t => simp [cellWork_rest _ _ _ _ _ e]

@[simp] theorem drainRows_rest (e : Nat) (ix : Index) (t : Tile) (s : State) :
    (drainRows e ix t s).brd = s.brd ∧ (drainRows e ix t s).evr = s.evr ∧ (drainRows e ix t s).fnc = s.fnc ∧
    (drainRows e ix t s).fuse = s.fuse ∧ (drainRows e ix t s).fw = s.fw ∧ (drainRows e ix t s).lat = s.lat ∧
    (drainRows e ix t s).cfg = s.cfg ∧ (drainRows e ix t s).hif = s.hif ∧ (drainRows e ix t s).qps = s.qps ∧
    (drainRows e ix t s).tags = s.tags ∧ (drainRows e ix t s).cmds = s.cmds ∧ (drainRows e ix t s).fetchSeq = s.fetchSeq ∧
    (drainRows e ix t s).elog = s.elog ∧ (drainRows e ix t s).elogSeq = s.elogSeq ∧ (drainRows e ix t s).idx = s.idx ∧
    (drainRows e ix t s).mods = s.mods ∧ (drainRows e ix t s).flash = s.flash ∧ (drainRows e ix t s).mem = s.mem ∧
    (drainRows e ix t s).chd = s.chd ∧ (drainRows e ix t s).side = s.side ∧ (drainRows e ix t s).serial = s.serial ∧
    (drainRows e ix t s).out = s.out ∧ (drainRows e ix t s).free = s.free ∧ (drainRows e ix t s).pending = s.pending := by
  have key := @foldl_ind (fun u : State => u.brd = s.brd ∧ u.evr = s.evr ∧ u.fnc = s.fnc ∧ u.fuse = s.fuse ∧ u.fw = s.fw ∧ u.lat = s.lat ∧ u.cfg = s.cfg ∧ u.hif = s.hif ∧
      u.qps = s.qps ∧ u.tags = s.tags ∧ u.cmds = s.cmds ∧ u.fetchSeq = s.fetchSeq ∧ u.elog = s.elog ∧ u.elogSeq = s.elogSeq ∧
      u.idx = s.idx ∧ u.mods = s.mods ∧ u.flash = s.flash ∧ u.mem = s.mem ∧ u.chd = s.chd ∧ u.side = s.side ∧ u.serial = s.serial ∧
      u.out = s.out ∧ u.free = s.free ∧ u.pending = s.pending)
  unfold drainRows
  repeat' (first | (simp; done) | split | (dsimp only; split) | refine key _ _ _ ?_ ?_ |
    (dsimp only; refine key _ _ _ ?_ ?_) | intro t x h | (simp [h]; done))

@[simp] theorem placeSliver_rest (v : Sliver) (s : State) :
    (placeSliver v s).brd = s.brd ∧ (placeSliver v s).evr = s.evr ∧ (placeSliver v s).fnc = s.fnc ∧ (placeSliver v s).fuse = s.fuse ∧
    (placeSliver v s).fw = s.fw ∧ (placeSliver v s).lat = s.lat ∧ (placeSliver v s).cfg = s.cfg ∧ (placeSliver v s).hif = s.hif ∧
    (placeSliver v s).qps = s.qps ∧ (placeSliver v s).tags = s.tags ∧ (placeSliver v s).cmds = s.cmds ∧
    (placeSliver v s).fetchSeq = s.fetchSeq ∧ (placeSliver v s).elog = s.elog ∧ (placeSliver v s).elogSeq = s.elogSeq ∧
    (placeSliver v s).idx = s.idx ∧ (placeSliver v s).mods = s.mods ∧ (placeSliver v s).flash = s.flash ∧ (placeSliver v s).mem = s.mem ∧
    (placeSliver v s).chd = s.chd ∧ (placeSliver v s).side = s.side ∧ (placeSliver v s).serial = s.serial ∧
    (placeSliver v s).out = s.out ∧ (placeSliver v s).free = s.free ∧ (placeSliver v s).pending = s.pending := by
  unfold placeSliver
  repeat' (first | (simp; done) | split | (dsimp only; split))

@[simp] theorem cutSlivers_rest (v : Sliver) (n0 : Nat) (n1 : Nat) (n2 : Nat) (s : State) :
    (cutSlivers v n0 n1 n2 s).brd = s.brd ∧ (cutSlivers v n0 n1 n2 s).evr = s.evr ∧ (cutSlivers v n0 n1 n2 s).fnc = s.fnc ∧
    (cutSlivers v n0 n1 n2 s).fuse = s.fuse ∧ (cutSlivers v n0 n1 n2 s).fw = s.fw ∧ (cutSlivers v n0 n1 n2 s).lat = s.lat ∧
    (cutSlivers v n0 n1 n2 s).cfg = s.cfg ∧ (cutSlivers v n0 n1 n2 s).hif = s.hif ∧ (cutSlivers v n0 n1 n2 s).qps = s.qps ∧
    (cutSlivers v n0 n1 n2 s).tags = s.tags ∧ (cutSlivers v n0 n1 n2 s).cmds = s.cmds ∧ (cutSlivers v n0 n1 n2 s).fetchSeq = s.fetchSeq ∧
    (cutSlivers v n0 n1 n2 s).elog = s.elog ∧ (cutSlivers v n0 n1 n2 s).elogSeq = s.elogSeq ∧ (cutSlivers v n0 n1 n2 s).idx = s.idx ∧
    (cutSlivers v n0 n1 n2 s).mods = s.mods ∧ (cutSlivers v n0 n1 n2 s).flash = s.flash ∧ (cutSlivers v n0 n1 n2 s).mem = s.mem ∧
    (cutSlivers v n0 n1 n2 s).chd = s.chd ∧ (cutSlivers v n0 n1 n2 s).side = s.side ∧ (cutSlivers v n0 n1 n2 s).serial = s.serial ∧
    (cutSlivers v n0 n1 n2 s).out = s.out ∧ (cutSlivers v n0 n1 n2 s).free = s.free ∧ (cutSlivers v n0 n1 n2 s).pending = s.pending := by
  fun_induction cutSlivers v n0 n1 n2 s <;> simp_all

@[simp] theorem joinStarted_rest (ix : Index) (q : Query) (key rank : Nat) (v : Sliver) (s : State) :
    (joinStarted ix q key rank v s).brd = s.brd ∧ (joinStarted ix q key rank v s).evr = s.evr ∧
    (joinStarted ix q key rank v s).fnc = s.fnc ∧ (joinStarted ix q key rank v s).fuse = s.fuse ∧
    (joinStarted ix q key rank v s).fw = s.fw ∧ (joinStarted ix q key rank v s).lat = s.lat ∧
    (joinStarted ix q key rank v s).cfg = s.cfg ∧ (joinStarted ix q key rank v s).hif = s.hif ∧
    (joinStarted ix q key rank v s).qps = s.qps ∧ (joinStarted ix q key rank v s).tags = s.tags ∧
    (joinStarted ix q key rank v s).cmds = s.cmds ∧ (joinStarted ix q key rank v s).fetchSeq = s.fetchSeq ∧
    (joinStarted ix q key rank v s).elog = s.elog ∧ (joinStarted ix q key rank v s).elogSeq = s.elogSeq ∧
    (joinStarted ix q key rank v s).idx = s.idx ∧ (joinStarted ix q key rank v s).mods = s.mods ∧
    (joinStarted ix q key rank v s).flash = s.flash ∧ (joinStarted ix q key rank v s).mem = s.mem ∧
    (joinStarted ix q key rank v s).chd = s.chd ∧ (joinStarted ix q key rank v s).side = s.side ∧
    (joinStarted ix q key rank v s).serial = s.serial ∧ (joinStarted ix q key rank v s).out = s.out ∧
    (joinStarted ix q key rank v s).free = s.free ∧ (joinStarted ix q key rank v s).pending = s.pending := by
  have key := @foldl_ind (fun u : State => u.brd = s.brd ∧ u.evr = s.evr ∧ u.fnc = s.fnc ∧ u.fuse = s.fuse ∧ u.fw = s.fw ∧ u.lat = s.lat ∧ u.cfg = s.cfg ∧ u.hif = s.hif ∧
      u.qps = s.qps ∧ u.tags = s.tags ∧ u.cmds = s.cmds ∧ u.fetchSeq = s.fetchSeq ∧ u.elog = s.elog ∧ u.elogSeq = s.elogSeq ∧
      u.idx = s.idx ∧ u.mods = s.mods ∧ u.flash = s.flash ∧ u.mem = s.mem ∧ u.chd = s.chd ∧ u.side = s.side ∧ u.serial = s.serial ∧
      u.out = s.out ∧ u.free = s.free ∧ u.pending = s.pending)
  unfold joinStarted
  repeat' (first | (simp; done) | split | (dsimp only; split) | refine key _ _ _ ?_ ?_ |
    (dsimp only; refine key _ _ _ ?_ ?_) | intro t x h | (simp [h]; done))

@[simp] theorem visit_rest (ix : Index) (q : Query) (key rank : Nat) (s : State) :
    (visit ix q key rank s).brd = s.brd ∧ (visit ix q key rank s).evr = s.evr ∧ (visit ix q key rank s).fnc = s.fnc ∧
    (visit ix q key rank s).fuse = s.fuse ∧ (visit ix q key rank s).fw = s.fw ∧ (visit ix q key rank s).lat = s.lat ∧
    (visit ix q key rank s).cfg = s.cfg ∧ (visit ix q key rank s).hif = s.hif ∧ (visit ix q key rank s).qps = s.qps ∧
    (visit ix q key rank s).tags = s.tags ∧ (visit ix q key rank s).cmds = s.cmds ∧ (visit ix q key rank s).fetchSeq = s.fetchSeq ∧
    (visit ix q key rank s).elog = s.elog ∧ (visit ix q key rank s).elogSeq = s.elogSeq ∧ (visit ix q key rank s).idx = s.idx ∧
    (visit ix q key rank s).mods = s.mods ∧ (visit ix q key rank s).flash = s.flash ∧ (visit ix q key rank s).mem = s.mem ∧
    (visit ix q key rank s).chd = s.chd ∧ (visit ix q key rank s).side = s.side ∧ (visit ix q key rank s).serial = s.serial ∧
    (visit ix q key rank s).out = s.out ∧ (visit ix q key rank s).free = s.free ∧ (visit ix q key rank s).pending = s.pending := by
  unfold visit
  repeat' (first | (simp; done) | split | (dsimp only; split))

@[simp] theorem startGroup_rest (v : Sliver) (s : State) :
    (startGroup v s).brd = s.brd ∧ (startGroup v s).evr = s.evr ∧ (startGroup v s).fnc = s.fnc ∧ (startGroup v s).fuse = s.fuse ∧
    (startGroup v s).fw = s.fw ∧ (startGroup v s).lat = s.lat ∧ (startGroup v s).cfg = s.cfg ∧ (startGroup v s).hif = s.hif ∧
    (startGroup v s).qps = s.qps ∧ (startGroup v s).tags = s.tags ∧ (startGroup v s).cmds = s.cmds ∧
    (startGroup v s).fetchSeq = s.fetchSeq ∧ (startGroup v s).elog = s.elog ∧ (startGroup v s).elogSeq = s.elogSeq ∧
    (startGroup v s).idx = s.idx ∧ (startGroup v s).mods = s.mods ∧ (startGroup v s).flash = s.flash ∧ (startGroup v s).mem = s.mem ∧
    (startGroup v s).chd = s.chd ∧ (startGroup v s).side = s.side ∧ (startGroup v s).serial = s.serial ∧ (startGroup v s).out = s.out ∧
    (startGroup v s).pending = s.pending := by
  unfold startGroup
  repeat' (first | (simp; done) | split | (dsimp only; split) | (have hA := cellWork_rest _ _ _ _ _ (by assumption); simp [hA]; done))

@[simp] theorem startGroups_rest (s : State) :
    (startGroups s).brd = s.brd ∧ (startGroups s).evr = s.evr ∧ (startGroups s).fnc = s.fnc ∧ (startGroups s).fuse = s.fuse ∧
    (startGroups s).fw = s.fw ∧ (startGroups s).lat = s.lat ∧ (startGroups s).cfg = s.cfg ∧ (startGroups s).hif = s.hif ∧
    (startGroups s).qps = s.qps ∧ (startGroups s).tags = s.tags ∧ (startGroups s).cmds = s.cmds ∧ (startGroups s).fetchSeq = s.fetchSeq ∧
    (startGroups s).elog = s.elog ∧ (startGroups s).elogSeq = s.elogSeq ∧ (startGroups s).idx = s.idx ∧ (startGroups s).mods = s.mods ∧
    (startGroups s).flash = s.flash ∧ (startGroups s).mem = s.mem ∧ (startGroups s).chd = s.chd ∧ (startGroups s).side = s.side ∧
    (startGroups s).serial = s.serial ∧ (startGroups s).out = s.out ∧ (startGroups s).pending = s.pending := by
  have key := @foldl_ind (fun u : State => u.brd = s.brd ∧ u.evr = s.evr ∧ u.fnc = s.fnc ∧ u.fuse = s.fuse ∧ u.fw = s.fw ∧ u.lat = s.lat ∧ u.cfg = s.cfg ∧ u.hif = s.hif ∧
      u.qps = s.qps ∧ u.tags = s.tags ∧ u.cmds = s.cmds ∧ u.fetchSeq = s.fetchSeq ∧ u.elog = s.elog ∧ u.elogSeq = s.elogSeq ∧
      u.idx = s.idx ∧ u.mods = s.mods ∧ u.flash = s.flash ∧ u.mem = s.mem ∧ u.chd = s.chd ∧ u.side = s.side ∧ u.serial = s.serial ∧
      u.out = s.out ∧ u.pending = s.pending)
  unfold startGroups
  repeat' (first | (simp; done) | split | (dsimp only; split) | refine key _ _ _ ?_ ?_ |
    (dsimp only; refine key _ _ _ ?_ ?_) | intro t x h | (simp [h]; done))

@[simp] theorem visitAll_rest (ix : Index) (q : Query) (s : State) :
    (visitAll ix q s).brd = s.brd ∧ (visitAll ix q s).evr = s.evr ∧ (visitAll ix q s).fnc = s.fnc ∧ (visitAll ix q s).fuse = s.fuse ∧
    (visitAll ix q s).fw = s.fw ∧ (visitAll ix q s).lat = s.lat ∧ (visitAll ix q s).cfg = s.cfg ∧ (visitAll ix q s).hif = s.hif ∧
    (visitAll ix q s).qps = s.qps ∧ (visitAll ix q s).tags = s.tags ∧ (visitAll ix q s).cmds = s.cmds ∧
    (visitAll ix q s).fetchSeq = s.fetchSeq ∧ (visitAll ix q s).elog = s.elog ∧ (visitAll ix q s).elogSeq = s.elogSeq ∧
    (visitAll ix q s).idx = s.idx ∧ (visitAll ix q s).mods = s.mods ∧ (visitAll ix q s).flash = s.flash ∧ (visitAll ix q s).mem = s.mem ∧
    (visitAll ix q s).chd = s.chd ∧ (visitAll ix q s).side = s.side ∧ (visitAll ix q s).serial = s.serial ∧
    (visitAll ix q s).out = s.out ∧ (visitAll ix q s).free = s.free ∧ (visitAll ix q s).pending = s.pending := by
  have key := @foldl_ind (fun u : State => u.brd = s.brd ∧ u.evr = s.evr ∧ u.fnc = s.fnc ∧ u.fuse = s.fuse ∧ u.fw = s.fw ∧ u.lat = s.lat ∧ u.cfg = s.cfg ∧ u.hif = s.hif ∧
      u.qps = s.qps ∧ u.tags = s.tags ∧ u.cmds = s.cmds ∧ u.fetchSeq = s.fetchSeq ∧ u.elog = s.elog ∧ u.elogSeq = s.elogSeq ∧
      u.idx = s.idx ∧ u.mods = s.mods ∧ u.flash = s.flash ∧ u.mem = s.mem ∧ u.chd = s.chd ∧ u.side = s.side ∧ u.serial = s.serial ∧
      u.out = s.out ∧ u.free = s.free ∧ u.pending = s.pending)
  unfold visitAll
  repeat' (first | (simp; done) | split | (dsimp only; split) | refine key _ _ _ ?_ ?_ |
    (dsimp only; refine key _ _ _ ?_ ?_) | intro t x h | (simp [h]; done))

@[simp] theorem queueShadow_rest (q : Query) (s : State) :
    (queueShadow q s).brd = s.brd ∧ (queueShadow q s).evr = s.evr ∧ (queueShadow q s).fnc = s.fnc ∧ (queueShadow q s).fuse = s.fuse ∧
    (queueShadow q s).fw = s.fw ∧ (queueShadow q s).lat = s.lat ∧ (queueShadow q s).cfg = s.cfg ∧ (queueShadow q s).hif = s.hif ∧
    (queueShadow q s).qps = s.qps ∧ (queueShadow q s).tags = s.tags ∧ (queueShadow q s).cmds = s.cmds ∧
    (queueShadow q s).fetchSeq = s.fetchSeq ∧ (queueShadow q s).elog = s.elog ∧ (queueShadow q s).elogSeq = s.elogSeq ∧
    (queueShadow q s).idx = s.idx ∧ (queueShadow q s).mods = s.mods ∧ (queueShadow q s).flash = s.flash ∧ (queueShadow q s).mem = s.mem ∧
    (queueShadow q s).chd = s.chd ∧ (queueShadow q s).side = s.side ∧ (queueShadow q s).serial = s.serial ∧
    (queueShadow q s).out = s.out ∧ (queueShadow q s).free = s.free ∧ (queueShadow q s).pending = s.pending := by
  unfold queueShadow
  repeat' (first | (simp; done) | split | (dsimp only; split))

@[simp] theorem armSliver_rest (c : Nat) (v : Sliver) (s : State) :
    (armSliver c v s).brd = s.brd ∧ (armSliver c v s).evr = s.evr ∧ (armSliver c v s).fnc = s.fnc ∧ (armSliver c v s).fuse = s.fuse ∧
    (armSliver c v s).fw = s.fw ∧ (armSliver c v s).lat = s.lat ∧ (armSliver c v s).cfg = s.cfg ∧ (armSliver c v s).hif = s.hif ∧
    (armSliver c v s).qps = s.qps ∧ (armSliver c v s).tags = s.tags ∧ (armSliver c v s).cmds = s.cmds ∧
    (armSliver c v s).fetchSeq = s.fetchSeq ∧ (armSliver c v s).elog = s.elog ∧ (armSliver c v s).elogSeq = s.elogSeq ∧
    (armSliver c v s).idx = s.idx ∧ (armSliver c v s).mods = s.mods ∧ (armSliver c v s).flash = s.flash ∧ (armSliver c v s).chd = s.chd ∧
    (armSliver c v s).side = s.side ∧ (armSliver c v s).serial = s.serial ∧ (armSliver c v s).out = s.out ∧
    (armSliver c v s).pending = s.pending := by
  unfold armSliver
  repeat' (first | (simp; done) | split | (dsimp only; split) | (have hA := cellWork_rest _ _ _ _ _ (by assumption); simp [hA]; done))

@[simp] theorem rotatePath_rest (c : Nat) (v : Sliver) (s : State) :
    (rotatePath c v s).brd = s.brd ∧ (rotatePath c v s).evr = s.evr ∧ (rotatePath c v s).fnc = s.fnc ∧ (rotatePath c v s).fuse = s.fuse ∧
    (rotatePath c v s).fw = s.fw ∧ (rotatePath c v s).lat = s.lat ∧ (rotatePath c v s).cfg = s.cfg ∧ (rotatePath c v s).hif = s.hif ∧
    (rotatePath c v s).qps = s.qps ∧ (rotatePath c v s).tags = s.tags ∧ (rotatePath c v s).cmds = s.cmds ∧
    (rotatePath c v s).fetchSeq = s.fetchSeq ∧ (rotatePath c v s).elog = s.elog ∧ (rotatePath c v s).elogSeq = s.elogSeq ∧
    (rotatePath c v s).facets = s.facets ∧ (rotatePath c v s).idx = s.idx ∧ (rotatePath c v s).mods = s.mods ∧
    (rotatePath c v s).flash = s.flash ∧ (rotatePath c v s).mem = s.mem ∧ (rotatePath c v s).chd = s.chd ∧
    (rotatePath c v s).side = s.side ∧ (rotatePath c v s).serial = s.serial ∧ (rotatePath c v s).out = s.out ∧
    (rotatePath c v s).free = s.free ∧ (rotatePath c v s).pending = s.pending := by
  have key := @foldl_ind (fun u : State => u.brd = s.brd ∧ u.evr = s.evr ∧ u.fnc = s.fnc ∧ u.fuse = s.fuse ∧ u.fw = s.fw ∧ u.lat = s.lat ∧ u.cfg = s.cfg ∧ u.hif = s.hif ∧
      u.qps = s.qps ∧ u.tags = s.tags ∧ u.cmds = s.cmds ∧ u.fetchSeq = s.fetchSeq ∧ u.elog = s.elog ∧ u.elogSeq = s.elogSeq ∧
      u.facets = s.facets ∧ u.idx = s.idx ∧ u.mods = s.mods ∧ u.flash = s.flash ∧ u.mem = s.mem ∧ u.chd = s.chd ∧ u.side = s.side ∧
      u.serial = s.serial ∧ u.out = s.out ∧ u.free = s.free ∧ u.pending = s.pending)
  unfold rotatePath
  repeat' (first | (simp; done) | split | (dsimp only; split) | refine key _ _ _ ?_ ?_ |
    (dsimp only; refine key _ _ _ ?_ ?_) | intro t x h | (simp [h]; done))

@[simp] theorem startSliver_rest (c : Nat) (v : Sliver) (borrowed : Bool) (s : State) :
    (startSliver c v borrowed s).brd = s.brd ∧ (startSliver c v borrowed s).evr = s.evr ∧ (startSliver c v borrowed s).fnc = s.fnc ∧
    (startSliver c v borrowed s).fuse = s.fuse ∧ (startSliver c v borrowed s).fw = s.fw ∧ (startSliver c v borrowed s).lat = s.lat ∧
    (startSliver c v borrowed s).cfg = s.cfg ∧ (startSliver c v borrowed s).hif = s.hif ∧ (startSliver c v borrowed s).qps = s.qps ∧
    (startSliver c v borrowed s).tags = s.tags ∧ (startSliver c v borrowed s).cmds = s.cmds ∧
    (startSliver c v borrowed s).fetchSeq = s.fetchSeq ∧ (startSliver c v borrowed s).elog = s.elog ∧
    (startSliver c v borrowed s).elogSeq = s.elogSeq ∧ (startSliver c v borrowed s).idx = s.idx ∧
    (startSliver c v borrowed s).mods = s.mods ∧ (startSliver c v borrowed s).flash = s.flash ∧ (startSliver c v borrowed s).chd = s.chd ∧
    (startSliver c v borrowed s).side = s.side ∧ (startSliver c v borrowed s).serial = s.serial ∧
    (startSliver c v borrowed s).out = s.out ∧ (startSliver c v borrowed s).pending = s.pending := by
  unfold startSliver
  repeat' (first | (simp; done) | split | (dsimp only; split))

@[simp] theorem nextStream_rest (c : Nat) (s : State) :
    (nextStream c s).brd = s.brd ∧ (nextStream c s).evr = s.evr ∧ (nextStream c s).fnc = s.fnc ∧ (nextStream c s).fuse = s.fuse ∧
    (nextStream c s).fw = s.fw ∧ (nextStream c s).lat = s.lat ∧ (nextStream c s).cfg = s.cfg ∧ (nextStream c s).hif = s.hif ∧
    (nextStream c s).qps = s.qps ∧ (nextStream c s).tags = s.tags ∧ (nextStream c s).cmds = s.cmds ∧
    (nextStream c s).fetchSeq = s.fetchSeq ∧ (nextStream c s).elog = s.elog ∧ (nextStream c s).elogSeq = s.elogSeq ∧
    (nextStream c s).idx = s.idx ∧ (nextStream c s).mods = s.mods ∧ (nextStream c s).flash = s.flash ∧ (nextStream c s).chd = s.chd ∧
    (nextStream c s).side = s.side ∧ (nextStream c s).serial = s.serial ∧ (nextStream c s).out = s.out ∧
    (nextStream c s).pending = s.pending := by
  unfold nextStream
  repeat' (first | (simp; done) | split | (dsimp only; split))

@[simp] theorem claimNext_rest (c : Nat) (s : State) :
    (claimNext c s).brd = s.brd ∧ (claimNext c s).evr = s.evr ∧ (claimNext c s).fnc = s.fnc ∧ (claimNext c s).fuse = s.fuse ∧
    (claimNext c s).fw = s.fw ∧ (claimNext c s).lat = s.lat ∧ (claimNext c s).cfg = s.cfg ∧ (claimNext c s).hif = s.hif ∧
    (claimNext c s).qps = s.qps ∧ (claimNext c s).tags = s.tags ∧ (claimNext c s).cmds = s.cmds ∧ (claimNext c s).fetchSeq = s.fetchSeq ∧
    (claimNext c s).elog = s.elog ∧ (claimNext c s).elogSeq = s.elogSeq ∧ (claimNext c s).facets = s.facets ∧
    (claimNext c s).idx = s.idx ∧ (claimNext c s).mods = s.mods ∧ (claimNext c s).flash = s.flash ∧ (claimNext c s).mem = s.mem ∧
    (claimNext c s).chd = s.chd ∧ (claimNext c s).side = s.side ∧ (claimNext c s).serial = s.serial ∧ (claimNext c s).out = s.out ∧
    (claimNext c s).free = s.free ∧ (claimNext c s).pending = s.pending := by
  unfold claimNext
  repeat' (first | (simp; done) | split | (dsimp only; split))

@[simp] theorem grantCell_rest (c : Nat) (s : State) :
    (grantCell c s).brd = s.brd ∧ (grantCell c s).evr = s.evr ∧ (grantCell c s).fnc = s.fnc ∧ (grantCell c s).fuse = s.fuse ∧
    (grantCell c s).fw = s.fw ∧ (grantCell c s).lat = s.lat ∧ (grantCell c s).cfg = s.cfg ∧ (grantCell c s).hif = s.hif ∧
    (grantCell c s).qps = s.qps ∧ (grantCell c s).tags = s.tags ∧ (grantCell c s).cmds = s.cmds ∧ (grantCell c s).fetchSeq = s.fetchSeq ∧
    (grantCell c s).elog = s.elog ∧ (grantCell c s).elogSeq = s.elogSeq ∧ (grantCell c s).idx = s.idx ∧ (grantCell c s).mods = s.mods ∧
    (grantCell c s).flash = s.flash ∧ (grantCell c s).chd = s.chd ∧ (grantCell c s).side = s.side ∧ (grantCell c s).serial = s.serial ∧
    (grantCell c s).out = s.out ∧ (grantCell c s).pending = s.pending := by
  unfold grantCell
  repeat' (first | (simp; done) | split | (dsimp only; split))

@[simp] theorem grantCells_rest (s : State) :
    (grantCells s).brd = s.brd ∧ (grantCells s).evr = s.evr ∧ (grantCells s).fnc = s.fnc ∧ (grantCells s).fuse = s.fuse ∧
    (grantCells s).fw = s.fw ∧ (grantCells s).lat = s.lat ∧ (grantCells s).cfg = s.cfg ∧ (grantCells s).hif = s.hif ∧
    (grantCells s).qps = s.qps ∧ (grantCells s).tags = s.tags ∧ (grantCells s).cmds = s.cmds ∧ (grantCells s).fetchSeq = s.fetchSeq ∧
    (grantCells s).elog = s.elog ∧ (grantCells s).elogSeq = s.elogSeq ∧ (grantCells s).idx = s.idx ∧ (grantCells s).mods = s.mods ∧
    (grantCells s).flash = s.flash ∧ (grantCells s).chd = s.chd ∧ (grantCells s).side = s.side ∧ (grantCells s).serial = s.serial ∧
    (grantCells s).out = s.out ∧ (grantCells s).pending = s.pending := by
  have key := @foldl_ind (fun u : State => u.brd = s.brd ∧ u.evr = s.evr ∧ u.fnc = s.fnc ∧ u.fuse = s.fuse ∧ u.fw = s.fw ∧ u.lat = s.lat ∧ u.cfg = s.cfg ∧ u.hif = s.hif ∧
      u.qps = s.qps ∧ u.tags = s.tags ∧ u.cmds = s.cmds ∧ u.fetchSeq = s.fetchSeq ∧ u.elog = s.elog ∧ u.elogSeq = s.elogSeq ∧
      u.idx = s.idx ∧ u.mods = s.mods ∧ u.flash = s.flash ∧ u.chd = s.chd ∧ u.side = s.side ∧ u.serial = s.serial ∧ u.out = s.out ∧
      u.pending = s.pending)
  unfold grantCells
  repeat' (first | (simp; done) | split | (dsimp only; split) | refine key _ _ _ ?_ ?_ |
    (dsimp only; refine key _ _ _ ?_ ?_) | intro t x h | (simp [h]; done))

@[simp] theorem takeStolen_rest (c : Nat) (v : Sliver) (borrowed : Bool) (s : State) :
    (takeStolen c v borrowed s).brd = s.brd ∧ (takeStolen c v borrowed s).evr = s.evr ∧ (takeStolen c v borrowed s).fnc = s.fnc ∧
    (takeStolen c v borrowed s).fuse = s.fuse ∧ (takeStolen c v borrowed s).fw = s.fw ∧ (takeStolen c v borrowed s).lat = s.lat ∧
    (takeStolen c v borrowed s).cfg = s.cfg ∧ (takeStolen c v borrowed s).hif = s.hif ∧ (takeStolen c v borrowed s).qps = s.qps ∧
    (takeStolen c v borrowed s).tags = s.tags ∧ (takeStolen c v borrowed s).cmds = s.cmds ∧
    (takeStolen c v borrowed s).fetchSeq = s.fetchSeq ∧ (takeStolen c v borrowed s).elog = s.elog ∧
    (takeStolen c v borrowed s).elogSeq = s.elogSeq ∧ (takeStolen c v borrowed s).idx = s.idx ∧
    (takeStolen c v borrowed s).mods = s.mods ∧ (takeStolen c v borrowed s).flash = s.flash ∧ (takeStolen c v borrowed s).chd = s.chd ∧
    (takeStolen c v borrowed s).side = s.side ∧ (takeStolen c v borrowed s).serial = s.serial ∧ (takeStolen c v borrowed s).out = s.out ∧
    (takeStolen c v borrowed s).pending = s.pending := by
  unfold takeStolen
  repeat' (first | (simp; done) | split | (dsimp only; split))

@[simp] theorem startTile_rest (e : Nat) (t : Tile) (borrowed : Bool) (s : State) :
    (startTile e t borrowed s).brd = s.brd ∧ (startTile e t borrowed s).evr = s.evr ∧ (startTile e t borrowed s).fnc = s.fnc ∧
    (startTile e t borrowed s).fuse = s.fuse ∧ (startTile e t borrowed s).fw = s.fw ∧ (startTile e t borrowed s).lat = s.lat ∧
    (startTile e t borrowed s).cfg = s.cfg ∧ (startTile e t borrowed s).hif = s.hif ∧ (startTile e t borrowed s).qps = s.qps ∧
    (startTile e t borrowed s).tags = s.tags ∧ (startTile e t borrowed s).cmds = s.cmds ∧
    (startTile e t borrowed s).fetchSeq = s.fetchSeq ∧ (startTile e t borrowed s).elog = s.elog ∧
    (startTile e t borrowed s).elogSeq = s.elogSeq ∧ (startTile e t borrowed s).facets = s.facets ∧
    (startTile e t borrowed s).idx = s.idx ∧ (startTile e t borrowed s).mods = s.mods ∧ (startTile e t borrowed s).flash = s.flash ∧
    (startTile e t borrowed s).mem = s.mem ∧ (startTile e t borrowed s).chd = s.chd ∧ (startTile e t borrowed s).side = s.side ∧
    (startTile e t borrowed s).serial = s.serial ∧ (startTile e t borrowed s).out = s.out ∧ (startTile e t borrowed s).free = s.free ∧
    (startTile e t borrowed s).pending = s.pending := by
  unfold startTile
  repeat' (first | (simp; done) | split | (dsimp only; split))

@[simp] theorem grantEngine_rest (n : Nat) (s : State) :
    (grantEngine n s).brd = s.brd ∧ (grantEngine n s).evr = s.evr ∧ (grantEngine n s).fnc = s.fnc ∧ (grantEngine n s).fuse = s.fuse ∧
    (grantEngine n s).fw = s.fw ∧ (grantEngine n s).lat = s.lat ∧ (grantEngine n s).cfg = s.cfg ∧ (grantEngine n s).hif = s.hif ∧
    (grantEngine n s).qps = s.qps ∧ (grantEngine n s).tags = s.tags ∧ (grantEngine n s).cmds = s.cmds ∧
    (grantEngine n s).fetchSeq = s.fetchSeq ∧ (grantEngine n s).elog = s.elog ∧ (grantEngine n s).elogSeq = s.elogSeq ∧
    (grantEngine n s).idx = s.idx ∧ (grantEngine n s).mods = s.mods ∧ (grantEngine n s).flash = s.flash ∧ (grantEngine n s).mem = s.mem ∧
    (grantEngine n s).chd = s.chd ∧ (grantEngine n s).side = s.side ∧ (grantEngine n s).serial = s.serial ∧
    (grantEngine n s).out = s.out ∧ (grantEngine n s).pending = s.pending := by
  unfold grantEngine
  repeat' (first | (simp; done) | split | (dsimp only; split))

@[simp] theorem grantEngines_rest (s : State) :
    (grantEngines s).brd = s.brd ∧ (grantEngines s).evr = s.evr ∧ (grantEngines s).fnc = s.fnc ∧ (grantEngines s).fuse = s.fuse ∧
    (grantEngines s).fw = s.fw ∧ (grantEngines s).lat = s.lat ∧ (grantEngines s).cfg = s.cfg ∧ (grantEngines s).hif = s.hif ∧
    (grantEngines s).qps = s.qps ∧ (grantEngines s).tags = s.tags ∧ (grantEngines s).cmds = s.cmds ∧
    (grantEngines s).fetchSeq = s.fetchSeq ∧ (grantEngines s).elog = s.elog ∧ (grantEngines s).elogSeq = s.elogSeq ∧
    (grantEngines s).idx = s.idx ∧ (grantEngines s).mods = s.mods ∧ (grantEngines s).flash = s.flash ∧ (grantEngines s).mem = s.mem ∧
    (grantEngines s).chd = s.chd ∧ (grantEngines s).side = s.side ∧ (grantEngines s).serial = s.serial ∧ (grantEngines s).out = s.out ∧
    (grantEngines s).pending = s.pending := by
  have key := @foldl_ind (fun u : State => u.brd = s.brd ∧ u.evr = s.evr ∧ u.fnc = s.fnc ∧ u.fuse = s.fuse ∧ u.fw = s.fw ∧ u.lat = s.lat ∧ u.cfg = s.cfg ∧ u.hif = s.hif ∧
      u.qps = s.qps ∧ u.tags = s.tags ∧ u.cmds = s.cmds ∧ u.fetchSeq = s.fetchSeq ∧ u.elog = s.elog ∧ u.elogSeq = s.elogSeq ∧
      u.idx = s.idx ∧ u.mods = s.mods ∧ u.flash = s.flash ∧ u.mem = s.mem ∧ u.chd = s.chd ∧ u.side = s.side ∧ u.serial = s.serial ∧
      u.out = s.out ∧ u.pending = s.pending)
  unfold grantEngines
  repeat' (first | (simp; done) | split | (dsimp only; split) | refine key _ _ _ ?_ ?_ |
    (dsimp only; refine key _ _ _ ?_ ?_) | intro t x h | (simp [h]; done))

@[simp] theorem countQuery_rest (q : Query) (s : State) :
    (countQuery q s).brd = s.brd ∧ (countQuery q s).evr = s.evr ∧ (countQuery q s).fnc = s.fnc ∧ (countQuery q s).fuse = s.fuse ∧
    (countQuery q s).fw = s.fw ∧ (countQuery q s).lat = s.lat ∧ (countQuery q s).cfg = s.cfg ∧ (countQuery q s).hif = s.hif ∧
    (countQuery q s).qps = s.qps ∧ (countQuery q s).tags = s.tags ∧ (countQuery q s).cmds = s.cmds ∧
    (countQuery q s).fetchSeq = s.fetchSeq ∧ (countQuery q s).elog = s.elog ∧ (countQuery q s).elogSeq = s.elogSeq ∧
    (countQuery q s).idx = s.idx ∧ (countQuery q s).mods = s.mods ∧ (countQuery q s).srch = s.srch ∧ (countQuery q s).flash = s.flash ∧
    (countQuery q s).mem = s.mem ∧ (countQuery q s).chd = s.chd ∧ (countQuery q s).side = s.side ∧ (countQuery q s).serial = s.serial ∧
    (countQuery q s).out = s.out ∧ (countQuery q s).free = s.free ∧ (countQuery q s).pending = s.pending := by
  have key := @foldl_ind (fun u : State => u.brd = s.brd ∧ u.evr = s.evr ∧ u.fnc = s.fnc ∧ u.fuse = s.fuse ∧ u.fw = s.fw ∧ u.lat = s.lat ∧ u.cfg = s.cfg ∧ u.hif = s.hif ∧
      u.qps = s.qps ∧ u.tags = s.tags ∧ u.cmds = s.cmds ∧ u.fetchSeq = s.fetchSeq ∧ u.elog = s.elog ∧ u.elogSeq = s.elogSeq ∧
      u.idx = s.idx ∧ u.mods = s.mods ∧ u.srch = s.srch ∧ u.flash = s.flash ∧ u.mem = s.mem ∧ u.chd = s.chd ∧ u.side = s.side ∧
      u.serial = s.serial ∧ u.out = s.out ∧ u.free = s.free ∧ u.pending = s.pending)
  unfold countQuery
  repeat' (first | (simp; done) | split | (dsimp only; split) | refine key _ _ _ ?_ ?_ |
    (dsimp only; refine key _ _ _ ?_ ?_) | intro t x h | (simp [h]; done))

@[simp] theorem endQueries_rest (c : Cmd) (s : State) :
    (endQueries c s).brd = s.brd ∧ (endQueries c s).fnc = s.fnc ∧ (endQueries c s).fuse = s.fuse ∧ (endQueries c s).fw = s.fw ∧
    (endQueries c s).lat = s.lat ∧ (endQueries c s).cfg = s.cfg ∧ (endQueries c s).fetchSeq = s.fetchSeq ∧
    (endQueries c s).facets = s.facets ∧ (endQueries c s).idx = s.idx ∧ (endQueries c s).mods = s.mods ∧ (endQueries c s).srch = s.srch ∧
    (endQueries c s).flash = s.flash ∧ (endQueries c s).chd = s.chd ∧ (endQueries c s).side = s.side ∧
    (endQueries c s).serial = s.serial ∧ (endQueries c s).free = s.free ∧ (endQueries c s).pending = s.pending := by
  have key := @foldl_ind (fun u : State => u.brd = s.brd ∧ u.fnc = s.fnc ∧ u.fuse = s.fuse ∧ u.fw = s.fw ∧ u.lat = s.lat ∧ u.cfg = s.cfg ∧ u.fetchSeq = s.fetchSeq ∧
      u.facets = s.facets ∧ u.idx = s.idx ∧ u.mods = s.mods ∧ u.srch = s.srch ∧ u.flash = s.flash ∧ u.chd = s.chd ∧ u.side = s.side ∧
      u.serial = s.serial ∧ u.free = s.free ∧ u.pending = s.pending)
  unfold endQueries
  repeat' (first | (simp; done) | split | (dsimp only; split) | refine key _ _ _ ?_ ?_ |
    (dsimp only; refine key _ _ _ ?_ ?_) | intro t x h | (simp [h]; done))

@[simp] theorem finishQuery_rest (q : Query) (s0 : State) :
    (finishQuery q s0).brd = s0.brd ∧ (finishQuery q s0).fnc = s0.fnc ∧ (finishQuery q s0).fuse = s0.fuse ∧
    (finishQuery q s0).fw = s0.fw ∧ (finishQuery q s0).lat = s0.lat ∧ (finishQuery q s0).cfg = s0.cfg ∧
    (finishQuery q s0).fetchSeq = s0.fetchSeq ∧ (finishQuery q s0).idx = s0.idx ∧ (finishQuery q s0).mods = s0.mods ∧
    (finishQuery q s0).flash = s0.flash ∧ (finishQuery q s0).side = s0.side ∧ (finishQuery q s0).serial = s0.serial ∧
    (finishQuery q s0).pending = s0.pending := by
  unfold finishQuery
  repeat' (first | (simp; done) | split | (dsimp only; split))

@[simp] theorem issueRerank_rest (q : Query) (rs : List (Unit' × List Cand)) (s : State) :
    (issueRerank q rs s).brd = s.brd ∧ (issueRerank q rs s).evr = s.evr ∧ (issueRerank q rs s).fnc = s.fnc ∧
    (issueRerank q rs s).fuse = s.fuse ∧ (issueRerank q rs s).fw = s.fw ∧ (issueRerank q rs s).lat = s.lat ∧
    (issueRerank q rs s).cfg = s.cfg ∧ (issueRerank q rs s).hif = s.hif ∧ (issueRerank q rs s).qps = s.qps ∧
    (issueRerank q rs s).tags = s.tags ∧ (issueRerank q rs s).cmds = s.cmds ∧ (issueRerank q rs s).fetchSeq = s.fetchSeq ∧
    (issueRerank q rs s).elog = s.elog ∧ (issueRerank q rs s).elogSeq = s.elogSeq ∧ (issueRerank q rs s).facets = s.facets ∧
    (issueRerank q rs s).idx = s.idx ∧ (issueRerank q rs s).mods = s.mods ∧ (issueRerank q rs s).mem = s.mem ∧
    (issueRerank q rs s).chd = s.chd ∧ (issueRerank q rs s).side = s.side ∧ (issueRerank q rs s).serial = s.serial ∧
    (issueRerank q rs s).out = s.out ∧ (issueRerank q rs s).free = s.free ∧ (issueRerank q rs s).pending = s.pending := by
  have key := @foldl_ind (fun u : State => u.brd = s.brd ∧ u.evr = s.evr ∧ u.fnc = s.fnc ∧ u.fuse = s.fuse ∧ u.fw = s.fw ∧ u.lat = s.lat ∧ u.cfg = s.cfg ∧ u.hif = s.hif ∧
      u.qps = s.qps ∧ u.tags = s.tags ∧ u.cmds = s.cmds ∧ u.fetchSeq = s.fetchSeq ∧ u.elog = s.elog ∧ u.elogSeq = s.elogSeq ∧
      u.facets = s.facets ∧ u.idx = s.idx ∧ u.mods = s.mods ∧ u.mem = s.mem ∧ u.chd = s.chd ∧ u.side = s.side ∧ u.serial = s.serial ∧
      u.out = s.out ∧ u.free = s.free ∧ u.pending = s.pending)
  unfold issueRerank
  repeat' (first | (simp; done) | split | (dsimp only; split) | refine key _ _ _ ?_ ?_ |
    (dsimp only; refine key _ _ _ ?_ ?_) | intro t x h | (simp [h]; done))

@[simp] theorem startRerank_rest (ix : Index) (q : Query) (s0 : State) :
    (startRerank ix q s0).brd = s0.brd ∧ (startRerank ix q s0).evr = s0.evr ∧ (startRerank ix q s0).fnc = s0.fnc ∧
    (startRerank ix q s0).fuse = s0.fuse ∧ (startRerank ix q s0).fw = s0.fw ∧ (startRerank ix q s0).lat = s0.lat ∧
    (startRerank ix q s0).cfg = s0.cfg ∧ (startRerank ix q s0).hif = s0.hif ∧ (startRerank ix q s0).qps = s0.qps ∧
    (startRerank ix q s0).tags = s0.tags ∧ (startRerank ix q s0).cmds = s0.cmds ∧ (startRerank ix q s0).fetchSeq = s0.fetchSeq ∧
    (startRerank ix q s0).elog = s0.elog ∧ (startRerank ix q s0).elogSeq = s0.elogSeq ∧ (startRerank ix q s0).idx = s0.idx ∧
    (startRerank ix q s0).mods = s0.mods ∧ (startRerank ix q s0).mem = s0.mem ∧ (startRerank ix q s0).chd = s0.chd ∧
    (startRerank ix q s0).side = s0.side ∧ (startRerank ix q s0).serial = s0.serial ∧ (startRerank ix q s0).out = s0.out ∧
    (startRerank ix q s0).pending = s0.pending := by
  unfold startRerank
  repeat' (first | (simp; done) | split | (dsimp only; split))

@[simp] theorem tryFinish_rest (x : Nat) (s : State) :
    (tryFinish x s).brd = s.brd ∧ (tryFinish x s).fnc = s.fnc ∧ (tryFinish x s).fuse = s.fuse ∧ (tryFinish x s).fw = s.fw ∧
    (tryFinish x s).lat = s.lat ∧ (tryFinish x s).cfg = s.cfg ∧ (tryFinish x s).fetchSeq = s.fetchSeq ∧ (tryFinish x s).idx = s.idx ∧
    (tryFinish x s).mods = s.mods ∧ (tryFinish x s).flash = s.flash ∧ (tryFinish x s).side = s.side ∧ (tryFinish x s).serial = s.serial ∧
    (tryFinish x s).pending = s.pending := by
  unfold tryFinish
  repeat' (first | (simp; done) | split | (dsimp only; split))

@[simp] theorem chipMerge_rest (x : Nat) (s : State) :
    (chipMerge x s).brd = s.brd ∧ (chipMerge x s).fnc = s.fnc ∧ (chipMerge x s).fuse = s.fuse ∧ (chipMerge x s).fw = s.fw ∧
    (chipMerge x s).lat = s.lat ∧ (chipMerge x s).cfg = s.cfg ∧ (chipMerge x s).fetchSeq = s.fetchSeq ∧ (chipMerge x s).idx = s.idx ∧
    (chipMerge x s).mods = s.mods ∧ (chipMerge x s).side = s.side ∧ (chipMerge x s).serial = s.serial ∧
    (chipMerge x s).pending = s.pending := by
  unfold chipMerge
  repeat' (first | (simp; done) | split | (dsimp only; split))

@[simp] theorem waitingMerges_rest (s : State) :
    (waitingMerges s).brd = s.brd ∧ (waitingMerges s).fnc = s.fnc ∧ (waitingMerges s).fuse = s.fuse ∧ (waitingMerges s).fw = s.fw ∧
    (waitingMerges s).lat = s.lat ∧ (waitingMerges s).cfg = s.cfg ∧ (waitingMerges s).fetchSeq = s.fetchSeq ∧
    (waitingMerges s).idx = s.idx ∧ (waitingMerges s).mods = s.mods ∧ (waitingMerges s).side = s.side ∧
    (waitingMerges s).serial = s.serial ∧ (waitingMerges s).pending = s.pending := by
  have key := @foldl_ind (fun u : State => u.brd = s.brd ∧ u.fnc = s.fnc ∧ u.fuse = s.fuse ∧ u.fw = s.fw ∧ u.lat = s.lat ∧ u.cfg = s.cfg ∧ u.fetchSeq = s.fetchSeq ∧
      u.idx = s.idx ∧ u.mods = s.mods ∧ u.side = s.side ∧ u.serial = s.serial ∧ u.pending = s.pending)
  unfold waitingMerges
  repeat' (first | (simp; done) | split | (dsimp only; split) | refine key _ _ _ ?_ ?_ |
    (dsimp only; refine key _ _ _ ?_ ?_) | intro t x h | (simp [h]; done))

@[simp] theorem chargeStopped_rest (gone : Nat → Bool) (s : State) :
    (chargeStopped gone s).brd = s.brd ∧ (chargeStopped gone s).evr = s.evr ∧ (chargeStopped gone s).fnc = s.fnc ∧
    (chargeStopped gone s).fuse = s.fuse ∧ (chargeStopped gone s).fw = s.fw ∧ (chargeStopped gone s).lat = s.lat ∧
    (chargeStopped gone s).cfg = s.cfg ∧ (chargeStopped gone s).hif = s.hif ∧ (chargeStopped gone s).qps = s.qps ∧
    (chargeStopped gone s).tags = s.tags ∧ (chargeStopped gone s).cmds = s.cmds ∧ (chargeStopped gone s).fetchSeq = s.fetchSeq ∧
    (chargeStopped gone s).elog = s.elog ∧ (chargeStopped gone s).elogSeq = s.elogSeq ∧ (chargeStopped gone s).idx = s.idx ∧
    (chargeStopped gone s).mods = s.mods ∧ (chargeStopped gone s).flash = s.flash ∧ (chargeStopped gone s).mem = s.mem ∧
    (chargeStopped gone s).chd = s.chd ∧ (chargeStopped gone s).side = s.side ∧ (chargeStopped gone s).serial = s.serial ∧
    (chargeStopped gone s).out = s.out ∧ (chargeStopped gone s).free = s.free ∧ (chargeStopped gone s).pending = s.pending := by
  have key := @foldl_ind (fun u : State => u.brd = s.brd ∧ u.evr = s.evr ∧ u.fnc = s.fnc ∧ u.fuse = s.fuse ∧ u.fw = s.fw ∧ u.lat = s.lat ∧ u.cfg = s.cfg ∧ u.hif = s.hif ∧
      u.qps = s.qps ∧ u.tags = s.tags ∧ u.cmds = s.cmds ∧ u.fetchSeq = s.fetchSeq ∧ u.elog = s.elog ∧ u.elogSeq = s.elogSeq ∧
      u.idx = s.idx ∧ u.mods = s.mods ∧ u.flash = s.flash ∧ u.mem = s.mem ∧ u.chd = s.chd ∧ u.side = s.side ∧ u.serial = s.serial ∧
      u.out = s.out ∧ u.free = s.free ∧ u.pending = s.pending)
  unfold chargeStopped
  repeat' (first | (simp; done) | split | (dsimp only; split) | refine key _ _ _ ?_ ?_ |
    (dsimp only; refine key _ _ _ ?_ ?_) | intro t x h | (simp [h]; done))

@[simp] theorem resumeCells_rest (s : State) :
    (resumeCells s).brd = s.brd ∧ (resumeCells s).evr = s.evr ∧ (resumeCells s).fnc = s.fnc ∧ (resumeCells s).fuse = s.fuse ∧
    (resumeCells s).fw = s.fw ∧ (resumeCells s).lat = s.lat ∧ (resumeCells s).cfg = s.cfg ∧ (resumeCells s).hif = s.hif ∧
    (resumeCells s).qps = s.qps ∧ (resumeCells s).tags = s.tags ∧ (resumeCells s).cmds = s.cmds ∧ (resumeCells s).fetchSeq = s.fetchSeq ∧
    (resumeCells s).elog = s.elog ∧ (resumeCells s).elogSeq = s.elogSeq ∧ (resumeCells s).idx = s.idx ∧ (resumeCells s).mods = s.mods ∧
    (resumeCells s).flash = s.flash ∧ (resumeCells s).chd = s.chd ∧ (resumeCells s).side = s.side ∧ (resumeCells s).serial = s.serial ∧
    (resumeCells s).out = s.out ∧ (resumeCells s).pending = s.pending := by
  have key := @foldl_ind (fun u : State => u.brd = s.brd ∧ u.evr = s.evr ∧ u.fnc = s.fnc ∧ u.fuse = s.fuse ∧ u.fw = s.fw ∧ u.lat = s.lat ∧ u.cfg = s.cfg ∧ u.hif = s.hif ∧
      u.qps = s.qps ∧ u.tags = s.tags ∧ u.cmds = s.cmds ∧ u.fetchSeq = s.fetchSeq ∧ u.elog = s.elog ∧ u.elogSeq = s.elogSeq ∧
      u.idx = s.idx ∧ u.mods = s.mods ∧ u.flash = s.flash ∧ u.chd = s.chd ∧ u.side = s.side ∧ u.serial = s.serial ∧ u.out = s.out ∧
      u.pending = s.pending)
  unfold resumeCells
  repeat' (first | (simp; done) | split | (dsimp only; split) | refine key _ _ _ ?_ ?_ |
    (dsimp only; refine key _ _ _ ?_ ?_) | intro t x h | (simp [h]; done))

@[simp] theorem dropQueries_rest (p : Query → Bool) (s : State) :
    (dropQueries p s).brd = s.brd ∧ (dropQueries p s).evr = s.evr ∧ (dropQueries p s).fnc = s.fnc ∧ (dropQueries p s).fuse = s.fuse ∧
    (dropQueries p s).fw = s.fw ∧ (dropQueries p s).lat = s.lat ∧ (dropQueries p s).cfg = s.cfg ∧ (dropQueries p s).hif = s.hif ∧
    (dropQueries p s).qps = s.qps ∧ (dropQueries p s).tags = s.tags ∧ (dropQueries p s).cmds = s.cmds ∧
    (dropQueries p s).fetchSeq = s.fetchSeq ∧ (dropQueries p s).elog = s.elog ∧ (dropQueries p s).elogSeq = s.elogSeq ∧
    (dropQueries p s).idx = s.idx ∧ (dropQueries p s).mods = s.mods ∧ (dropQueries p s).chd = s.chd ∧ (dropQueries p s).side = s.side ∧
    (dropQueries p s).serial = s.serial ∧ (dropQueries p s).out = s.out ∧ (dropQueries p s).pending = s.pending := by
  have key := @foldl_ind (fun u : State => u.brd = s.brd ∧ u.evr = s.evr ∧ u.fnc = s.fnc ∧ u.fuse = s.fuse ∧ u.fw = s.fw ∧ u.lat = s.lat ∧ u.cfg = s.cfg ∧ u.hif = s.hif ∧
      u.qps = s.qps ∧ u.tags = s.tags ∧ u.cmds = s.cmds ∧ u.fetchSeq = s.fetchSeq ∧ u.elog = s.elog ∧ u.elogSeq = s.elogSeq ∧
      u.idx = s.idx ∧ u.mods = s.mods ∧ u.chd = s.chd ∧ u.side = s.side ∧ u.serial = s.serial ∧ u.out = s.out ∧ u.pending = s.pending)
  unfold dropQueries
  repeat' (first | (simp; done) | split | (dsimp only; split) | refine key _ _ _ ?_ ?_ |
    (dsimp only; refine key _ _ _ ?_ ?_) | intro t x h | (simp [h]; done))

@[simp] theorem stopWork_rest (c : Cmd) (s : State) :
    (stopWork c s).brd = s.brd ∧ (stopWork c s).evr = s.evr ∧ (stopWork c s).fnc = s.fnc ∧ (stopWork c s).fuse = s.fuse ∧
    (stopWork c s).fw = s.fw ∧ (stopWork c s).lat = s.lat ∧ (stopWork c s).cfg = s.cfg ∧ (stopWork c s).hif = s.hif ∧
    (stopWork c s).qps = s.qps ∧ (stopWork c s).tags = s.tags ∧ (stopWork c s).cmds = s.cmds ∧ (stopWork c s).fetchSeq = s.fetchSeq ∧
    (stopWork c s).elog = s.elog ∧ (stopWork c s).elogSeq = s.elogSeq ∧ (stopWork c s).side = s.side ∧ (stopWork c s).serial = s.serial ∧
    (stopWork c s).out = s.out ∧ (stopWork c s).pending = s.pending := by
  unfold stopWork
  repeat' (first | (simp; done) | split | (dsimp only; split))

@[simp] theorem endCmd_rest (st : Nat) (c : Cmd) (s : State) :
    (endCmd st c s).brd = s.brd ∧ (endCmd st c s).evr = s.evr ∧ (endCmd st c s).fnc = s.fnc ∧ (endCmd st c s).fuse = s.fuse ∧
    (endCmd st c s).fw = s.fw ∧ (endCmd st c s).lat = s.lat ∧ (endCmd st c s).cfg = s.cfg ∧ (endCmd st c s).fetchSeq = s.fetchSeq ∧
    (endCmd st c s).side = s.side ∧ (endCmd st c s).serial = s.serial ∧ (endCmd st c s).pending = s.pending := by
  unfold endCmd
  repeat' (first | (simp; done) | split | (dsimp only; split))

@[simp] theorem endAll_rest (p : Cmd → Bool) (st : Nat) (s : State) :
    (endAll p st s).brd = s.brd ∧ (endAll p st s).evr = s.evr ∧ (endAll p st s).fnc = s.fnc ∧ (endAll p st s).fuse = s.fuse ∧
    (endAll p st s).fw = s.fw ∧ (endAll p st s).lat = s.lat ∧ (endAll p st s).cfg = s.cfg ∧ (endAll p st s).fetchSeq = s.fetchSeq ∧
    (endAll p st s).side = s.side ∧ (endAll p st s).serial = s.serial ∧ (endAll p st s).pending = s.pending := by
  have key := @foldl_ind (fun u : State => u.brd = s.brd ∧ u.evr = s.evr ∧ u.fnc = s.fnc ∧ u.fuse = s.fuse ∧ u.fw = s.fw ∧ u.lat = s.lat ∧ u.cfg = s.cfg ∧
      u.fetchSeq = s.fetchSeq ∧ u.side = s.side ∧ u.serial = s.serial ∧ u.pending = s.pending)
  unfold endAll
  repeat' (first | (simp; done) | split | (dsimp only; split) | refine key _ _ _ ?_ ?_ |
    (dsimp only; refine key _ _ _ ?_ ?_) | intro t x h | (simp [h]; done))

@[simp] theorem dropAll_rest (p : Cmd → Bool) (s : State) :
    (dropAll p s).brd = s.brd ∧ (dropAll p s).evr = s.evr ∧ (dropAll p s).fnc = s.fnc ∧ (dropAll p s).fuse = s.fuse ∧
    (dropAll p s).fw = s.fw ∧ (dropAll p s).lat = s.lat ∧ (dropAll p s).cfg = s.cfg ∧ (dropAll p s).hif = s.hif ∧
    (dropAll p s).qps = s.qps ∧ (dropAll p s).tags = s.tags ∧ (dropAll p s).fetchSeq = s.fetchSeq ∧ (dropAll p s).elog = s.elog ∧
    (dropAll p s).elogSeq = s.elogSeq ∧ (dropAll p s).side = s.side ∧ (dropAll p s).serial = s.serial ∧ (dropAll p s).out = s.out ∧
    (dropAll p s).pending = s.pending := by
  have key := @foldl_ind (fun u : State => u.brd = s.brd ∧ u.evr = s.evr ∧ u.fnc = s.fnc ∧ u.fuse = s.fuse ∧ u.fw = s.fw ∧ u.lat = s.lat ∧ u.cfg = s.cfg ∧ u.hif = s.hif ∧
      u.qps = s.qps ∧ u.tags = s.tags ∧ u.fetchSeq = s.fetchSeq ∧ u.elog = s.elog ∧ u.elogSeq = s.elogSeq ∧ u.side = s.side ∧
      u.serial = s.serial ∧ u.out = s.out ∧ u.pending = s.pending)
  unfold dropAll
  repeat' (first | (simp; done) | split | (dsimp only; split) | refine key _ _ _ ?_ ?_ |
    (dsimp only; refine key _ _ _ ?_ ?_) | intro t x h | (simp [h]; done))

@[simp] theorem endResumes_rest (l : List (Nat × Nat)) (s : State) :
    (endResumes l s).brd = s.brd ∧ (endResumes l s).evr = s.evr ∧ (endResumes l s).fnc = s.fnc ∧ (endResumes l s).fuse = s.fuse ∧
    (endResumes l s).fw = s.fw ∧ (endResumes l s).lat = s.lat ∧ (endResumes l s).cfg = s.cfg ∧ (endResumes l s).fetchSeq = s.fetchSeq ∧
    (endResumes l s).facets = s.facets ∧ (endResumes l s).idx = s.idx ∧ (endResumes l s).mods = s.mods ∧ (endResumes l s).srch = s.srch ∧
    (endResumes l s).flash = s.flash ∧ (endResumes l s).mem = s.mem ∧ (endResumes l s).chd = s.chd ∧ (endResumes l s).side = s.side ∧
    (endResumes l s).serial = s.serial ∧ (endResumes l s).free = s.free ∧ (endResumes l s).pending = s.pending := by
  have key := @foldl_ind (fun u : State => u.brd = s.brd ∧ u.evr = s.evr ∧ u.fnc = s.fnc ∧ u.fuse = s.fuse ∧ u.fw = s.fw ∧ u.lat = s.lat ∧ u.cfg = s.cfg ∧
      u.fetchSeq = s.fetchSeq ∧ u.facets = s.facets ∧ u.idx = s.idx ∧ u.mods = s.mods ∧ u.srch = s.srch ∧ u.flash = s.flash ∧
      u.mem = s.mem ∧ u.chd = s.chd ∧ u.side = s.side ∧ u.serial = s.serial ∧ u.free = s.free ∧ u.pending = s.pending)
  unfold endResumes
  repeat' (first | (simp; done) | split | (dsimp only; split) | refine key _ _ _ ?_ ?_ |
    (dsimp only; refine key _ _ _ ?_ ?_) | intro t x h | (simp [h]; done))

@[simp] theorem endDeletes_rest (l : List (Nat × Nat × Nat)) (s : State) :
    (endDeletes l s).brd = s.brd ∧ (endDeletes l s).evr = s.evr ∧ (endDeletes l s).fnc = s.fnc ∧ (endDeletes l s).fuse = s.fuse ∧
    (endDeletes l s).fw = s.fw ∧ (endDeletes l s).lat = s.lat ∧ (endDeletes l s).cfg = s.cfg ∧ (endDeletes l s).fetchSeq = s.fetchSeq ∧
    (endDeletes l s).facets = s.facets ∧ (endDeletes l s).idx = s.idx ∧ (endDeletes l s).mods = s.mods ∧ (endDeletes l s).srch = s.srch ∧
    (endDeletes l s).flash = s.flash ∧ (endDeletes l s).mem = s.mem ∧ (endDeletes l s).chd = s.chd ∧ (endDeletes l s).side = s.side ∧
    (endDeletes l s).serial = s.serial ∧ (endDeletes l s).free = s.free ∧ (endDeletes l s).pending = s.pending := by
  have key := @foldl_ind (fun u : State => u.brd = s.brd ∧ u.evr = s.evr ∧ u.fnc = s.fnc ∧ u.fuse = s.fuse ∧ u.fw = s.fw ∧ u.lat = s.lat ∧ u.cfg = s.cfg ∧
      u.fetchSeq = s.fetchSeq ∧ u.facets = s.facets ∧ u.idx = s.idx ∧ u.mods = s.mods ∧ u.srch = s.srch ∧ u.flash = s.flash ∧
      u.mem = s.mem ∧ u.chd = s.chd ∧ u.side = s.side ∧ u.serial = s.serial ∧ u.free = s.free ∧ u.pending = s.pending)
  unfold endDeletes
  repeat' (first | (simp; done) | split | (dsimp only; split) | refine key _ _ _ ?_ ?_ |
    (dsimp only; refine key _ _ _ ?_ ?_) | intro t x h | (simp [h]; done))

@[simp] theorem deleteProgress_rest (q : Nat) (s : State) :
    (deleteProgress q s).brd = s.brd ∧ (deleteProgress q s).evr = s.evr ∧ (deleteProgress q s).fnc = s.fnc ∧
    (deleteProgress q s).fuse = s.fuse ∧ (deleteProgress q s).fw = s.fw ∧ (deleteProgress q s).lat = s.lat ∧
    (deleteProgress q s).cfg = s.cfg ∧ (deleteProgress q s).fetchSeq = s.fetchSeq ∧ (deleteProgress q s).facets = s.facets ∧
    (deleteProgress q s).idx = s.idx ∧ (deleteProgress q s).mods = s.mods ∧ (deleteProgress q s).srch = s.srch ∧
    (deleteProgress q s).flash = s.flash ∧ (deleteProgress q s).mem = s.mem ∧ (deleteProgress q s).chd = s.chd ∧
    (deleteProgress q s).side = s.side ∧ (deleteProgress q s).serial = s.serial ∧ (deleteProgress q s).free = s.free ∧
    (deleteProgress q s).pending = s.pending := by
  unfold deleteProgress
  repeat' (first | (simp; done) | split | (dsimp only; split))

@[simp] theorem deletePairs_rest (s : State) :
    (deletePairs s).brd = s.brd ∧ (deletePairs s).evr = s.evr ∧ (deletePairs s).fnc = s.fnc ∧ (deletePairs s).fuse = s.fuse ∧
    (deletePairs s).fw = s.fw ∧ (deletePairs s).lat = s.lat ∧ (deletePairs s).cfg = s.cfg ∧ (deletePairs s).fetchSeq = s.fetchSeq ∧
    (deletePairs s).facets = s.facets ∧ (deletePairs s).idx = s.idx ∧ (deletePairs s).mods = s.mods ∧ (deletePairs s).srch = s.srch ∧
    (deletePairs s).flash = s.flash ∧ (deletePairs s).mem = s.mem ∧ (deletePairs s).chd = s.chd ∧ (deletePairs s).side = s.side ∧
    (deletePairs s).serial = s.serial ∧ (deletePairs s).free = s.free ∧ (deletePairs s).pending = s.pending := by
  have key := @foldl_ind (fun u : State => u.brd = s.brd ∧ u.evr = s.evr ∧ u.fnc = s.fnc ∧ u.fuse = s.fuse ∧ u.fw = s.fw ∧ u.lat = s.lat ∧ u.cfg = s.cfg ∧
      u.fetchSeq = s.fetchSeq ∧ u.facets = s.facets ∧ u.idx = s.idx ∧ u.mods = s.mods ∧ u.srch = s.srch ∧ u.flash = s.flash ∧
      u.mem = s.mem ∧ u.chd = s.chd ∧ u.side = s.side ∧ u.serial = s.serial ∧ u.free = s.free ∧ u.pending = s.pending)
  unfold deletePairs
  repeat' (first | (simp; done) | split | (dsimp only; split) | refine key _ _ _ ?_ ?_ |
    (dsimp only; refine key _ _ _ ?_ ?_) | intro t x h | (simp [h]; done))

@[simp] theorem busyEnded_rest (b : Busy) (s : State) :
    (busyEnded b s).brd = s.brd ∧ (busyEnded b s).evr = s.evr ∧ (busyEnded b s).fnc = s.fnc ∧ (busyEnded b s).fuse = s.fuse ∧
    (busyEnded b s).fw = s.fw ∧ (busyEnded b s).lat = s.lat ∧ (busyEnded b s).cfg = s.cfg ∧ (busyEnded b s).hif = s.hif ∧
    (busyEnded b s).tags = s.tags ∧ (busyEnded b s).fetchSeq = s.fetchSeq ∧ (busyEnded b s).elog = s.elog ∧
    (busyEnded b s).elogSeq = s.elogSeq ∧ (busyEnded b s).facets = s.facets ∧ (busyEnded b s).idx = s.idx ∧
    (busyEnded b s).mods = s.mods ∧ (busyEnded b s).srch = s.srch ∧ (busyEnded b s).flash = s.flash ∧ (busyEnded b s).mem = s.mem ∧
    (busyEnded b s).chd = s.chd ∧ (busyEnded b s).side = s.side ∧ (busyEnded b s).serial = s.serial ∧ (busyEnded b s).out = s.out ∧
    (busyEnded b s).free = s.free ∧ (busyEnded b s).pending = s.pending := by
  unfold busyEnded
  repeat' (first | (simp; done) | split | (dsimp only; split))

@[simp] theorem endStopped_rest (s : State) :
    (endStopped s).brd = s.brd ∧ (endStopped s).evr = s.evr ∧ (endStopped s).fnc = s.fnc ∧ (endStopped s).fuse = s.fuse ∧
    (endStopped s).fw = s.fw ∧ (endStopped s).lat = s.lat ∧ (endStopped s).cfg = s.cfg ∧ (endStopped s).fetchSeq = s.fetchSeq ∧
    (endStopped s).side = s.side ∧ (endStopped s).serial = s.serial ∧ (endStopped s).pending = s.pending := by
  unfold endStopped
  repeat' (first | (simp; done) | split | (dsimp only; split))

@[simp] theorem deletePair_rest (c : Cmd) (s : State) :
    (deletePair c s).brd = s.brd ∧ (deletePair c s).evr = s.evr ∧ (deletePair c s).fnc = s.fnc ∧ (deletePair c s).fuse = s.fuse ∧
    (deletePair c s).fw = s.fw ∧ (deletePair c s).lat = s.lat ∧ (deletePair c s).cfg = s.cfg ∧ (deletePair c s).fetchSeq = s.fetchSeq ∧
    (deletePair c s).side = s.side ∧ (deletePair c s).serial = s.serial ∧ (deletePair c s).pending = s.pending := by
  unfold deletePair
  repeat' (first | (simp; done) | split | (dsimp only; split))

@[simp] theorem stopAborted_rest (c : Cmd) (s : State) :
    (stopAborted c s).brd = s.brd ∧ (stopAborted c s).evr = s.evr ∧ (stopAborted c s).fnc = s.fnc ∧ (stopAborted c s).fuse = s.fuse ∧
    (stopAborted c s).fw = s.fw ∧ (stopAborted c s).lat = s.lat ∧ (stopAborted c s).cfg = s.cfg ∧
    (stopAborted c s).fetchSeq = s.fetchSeq ∧ (stopAborted c s).side = s.side ∧ (stopAborted c s).serial = s.serial ∧
    (stopAborted c s).pending = s.pending := by
  unfold stopAborted
  repeat' (first | (simp; done) | split | (dsimp only; split))

@[simp] theorem abortCmd_rest (c : Cmd) (s : State) :
    (abortCmd c s).brd = s.brd ∧ (abortCmd c s).evr = s.evr ∧ (abortCmd c s).fnc = s.fnc ∧ (abortCmd c s).fuse = s.fuse ∧
    (abortCmd c s).fw = s.fw ∧ (abortCmd c s).lat = s.lat ∧ (abortCmd c s).cfg = s.cfg ∧ (abortCmd c s).fetchSeq = s.fetchSeq ∧
    (abortCmd c s).side = s.side ∧ (abortCmd c s).serial = s.serial ∧ (abortCmd c s).pending = s.pending := by
  unfold abortCmd
  repeat' (first | (simp; done) | split | (dsimp only; split))

@[simp] theorem resumePair_rest (c : Cmd) (s : State) :
    (resumePair c s).brd = s.brd ∧ (resumePair c s).evr = s.evr ∧ (resumePair c s).fnc = s.fnc ∧ (resumePair c s).fuse = s.fuse ∧
    (resumePair c s).fw = s.fw ∧ (resumePair c s).lat = s.lat ∧ (resumePair c s).cfg = s.cfg ∧ (resumePair c s).fetchSeq = s.fetchSeq ∧
    (resumePair c s).idx = s.idx ∧ (resumePair c s).mods = s.mods ∧ (resumePair c s).srch = s.srch ∧ (resumePair c s).flash = s.flash ∧
    (resumePair c s).mem = s.mem ∧ (resumePair c s).chd = s.chd ∧ (resumePair c s).side = s.side ∧ (resumePair c s).serial = s.serial ∧
    (resumePair c s).free = s.free ∧ (resumePair c s).pending = s.pending := by
  unfold resumePair
  repeat' (first | (simp; done) | split | (dsimp only; split))

@[simp] theorem endDiscard_rest (q : Nat) (s : State) :
    (endDiscard q s).brd = s.brd ∧ (endDiscard q s).evr = s.evr ∧ (endDiscard q s).fnc = s.fnc ∧ (endDiscard q s).fuse = s.fuse ∧
    (endDiscard q s).fw = s.fw ∧ (endDiscard q s).lat = s.lat ∧ (endDiscard q s).cfg = s.cfg ∧ (endDiscard q s).fetchSeq = s.fetchSeq ∧
    (endDiscard q s).facets = s.facets ∧ (endDiscard q s).idx = s.idx ∧ (endDiscard q s).mods = s.mods ∧ (endDiscard q s).srch = s.srch ∧
    (endDiscard q s).flash = s.flash ∧ (endDiscard q s).mem = s.mem ∧ (endDiscard q s).chd = s.chd ∧ (endDiscard q s).side = s.side ∧
    (endDiscard q s).serial = s.serial ∧ (endDiscard q s).free = s.free ∧ (endDiscard q s).pending = s.pending := by
  unfold endDiscard
  repeat' (first | (simp; done) | split | (dsimp only; split))

@[simp] theorem interfaceReset_rest (s : State) :
    (interfaceReset s).evr = s.evr ∧ (interfaceReset s).fnc = s.fnc ∧ (interfaceReset s).fuse = s.fuse ∧ (interfaceReset s).cfg = s.cfg ∧
    (interfaceReset s).fetchSeq = s.fetchSeq ∧ (interfaceReset s).elog = s.elog ∧ (interfaceReset s).elogSeq = s.elogSeq ∧
    (interfaceReset s).side = s.side ∧ (interfaceReset s).serial = s.serial ∧ (interfaceReset s).out = s.out ∧
    (interfaceReset s).pending = s.pending := by
  unfold interfaceReset
  repeat' (first | (simp; done) | split | (dsimp only; split))

@[simp] theorem queueErases_rest (f : Nat) (bs : List (Nat × Nat × Nat × Nat)) (s : State) :
    (queueErases f bs s).brd = s.brd ∧ (queueErases f bs s).evr = s.evr ∧ (queueErases f bs s).fnc = s.fnc ∧
    (queueErases f bs s).fuse = s.fuse ∧ (queueErases f bs s).fw = s.fw ∧ (queueErases f bs s).lat = s.lat ∧
    (queueErases f bs s).cfg = s.cfg ∧ (queueErases f bs s).hif = s.hif ∧ (queueErases f bs s).qps = s.qps ∧
    (queueErases f bs s).tags = s.tags ∧ (queueErases f bs s).cmds = s.cmds ∧ (queueErases f bs s).fetchSeq = s.fetchSeq ∧
    (queueErases f bs s).elog = s.elog ∧ (queueErases f bs s).elogSeq = s.elogSeq ∧ (queueErases f bs s).facets = s.facets ∧
    (queueErases f bs s).idx = s.idx ∧ (queueErases f bs s).mods = s.mods ∧ (queueErases f bs s).srch = s.srch ∧
    (queueErases f bs s).mem = s.mem ∧ (queueErases f bs s).chd = s.chd ∧ (queueErases f bs s).side = s.side ∧
    (queueErases f bs s).serial = s.serial ∧ (queueErases f bs s).out = s.out ∧ (queueErases f bs s).pending = s.pending := by
  have key := @foldl_ind (fun u : State => u.brd = s.brd ∧ u.evr = s.evr ∧ u.fnc = s.fnc ∧ u.fuse = s.fuse ∧ u.fw = s.fw ∧ u.lat = s.lat ∧ u.cfg = s.cfg ∧ u.hif = s.hif ∧
      u.qps = s.qps ∧ u.tags = s.tags ∧ u.cmds = s.cmds ∧ u.fetchSeq = s.fetchSeq ∧ u.elog = s.elog ∧ u.elogSeq = s.elogSeq ∧
      u.facets = s.facets ∧ u.idx = s.idx ∧ u.mods = s.mods ∧ u.srch = s.srch ∧ u.mem = s.mem ∧ u.chd = s.chd ∧ u.side = s.side ∧
      u.serial = s.serial ∧ u.out = s.out ∧ u.pending = s.pending)
  unfold queueErases
  repeat' (first | (simp; done) | split | (dsimp only; split) | refine key _ _ _ ?_ ?_ |
    (dsimp only; refine key _ _ _ ?_ ?_) | intro t x h | (simp [h]; done))

@[simp] theorem scrubOn_rest (s : State) (f : Nat) :
    (scrubOn s f).brd = s.brd ∧ (scrubOn s f).evr = s.evr ∧ (scrubOn s f).fnc = s.fnc ∧ (scrubOn s f).fuse = s.fuse ∧
    (scrubOn s f).fw = s.fw ∧ (scrubOn s f).lat = s.lat ∧ (scrubOn s f).cfg = s.cfg ∧ (scrubOn s f).hif = s.hif ∧
    (scrubOn s f).qps = s.qps ∧ (scrubOn s f).tags = s.tags ∧ (scrubOn s f).cmds = s.cmds ∧ (scrubOn s f).fetchSeq = s.fetchSeq ∧
    (scrubOn s f).elog = s.elog ∧ (scrubOn s f).elogSeq = s.elogSeq ∧ (scrubOn s f).idx = s.idx ∧ (scrubOn s f).mods = s.mods ∧
    (scrubOn s f).mem = s.mem ∧ (scrubOn s f).chd = s.chd ∧ (scrubOn s f).side = s.side ∧ (scrubOn s f).serial = s.serial ∧
    (scrubOn s f).out = s.out ∧ (scrubOn s f).free = s.free ∧ (scrubOn s f).pending = s.pending := by
  unfold scrubOn
  repeat' (first | (simp; done) | split | (dsimp only; split))

@[simp] theorem scrubsOn_rest (s : State) :
    (scrubsOn s).brd = s.brd ∧ (scrubsOn s).evr = s.evr ∧ (scrubsOn s).fnc = s.fnc ∧ (scrubsOn s).fuse = s.fuse ∧ (scrubsOn s).fw = s.fw ∧
    (scrubsOn s).lat = s.lat ∧ (scrubsOn s).cfg = s.cfg ∧ (scrubsOn s).hif = s.hif ∧ (scrubsOn s).qps = s.qps ∧
    (scrubsOn s).tags = s.tags ∧ (scrubsOn s).cmds = s.cmds ∧ (scrubsOn s).fetchSeq = s.fetchSeq ∧ (scrubsOn s).elog = s.elog ∧
    (scrubsOn s).elogSeq = s.elogSeq ∧ (scrubsOn s).idx = s.idx ∧ (scrubsOn s).mods = s.mods ∧ (scrubsOn s).mem = s.mem ∧
    (scrubsOn s).chd = s.chd ∧ (scrubsOn s).side = s.side ∧ (scrubsOn s).serial = s.serial ∧ (scrubsOn s).out = s.out ∧
    (scrubsOn s).free = s.free ∧ (scrubsOn s).pending = s.pending := by
  have key := @foldl_ind (fun u : State => u.brd = s.brd ∧ u.evr = s.evr ∧ u.fnc = s.fnc ∧ u.fuse = s.fuse ∧ u.fw = s.fw ∧ u.lat = s.lat ∧ u.cfg = s.cfg ∧ u.hif = s.hif ∧
      u.qps = s.qps ∧ u.tags = s.tags ∧ u.cmds = s.cmds ∧ u.fetchSeq = s.fetchSeq ∧ u.elog = s.elog ∧ u.elogSeq = s.elogSeq ∧
      u.idx = s.idx ∧ u.mods = s.mods ∧ u.mem = s.mem ∧ u.chd = s.chd ∧ u.side = s.side ∧ u.serial = s.serial ∧ u.out = s.out ∧
      u.free = s.free ∧ u.pending = s.pending)
  unfold scrubsOn
  repeat' (first | (simp; done) | split | (dsimp only; split) | refine key _ _ _ ?_ ?_ |
    (dsimp only; refine key _ _ _ ?_ ?_) | intro t x h | (simp [h]; done))

@[simp] theorem beginIdentify_rest (c : Cmd) (s : State) :
    (beginIdentify c s).brd = s.brd ∧ (beginIdentify c s).fnc = s.fnc ∧ (beginIdentify c s).fuse = s.fuse ∧
    (beginIdentify c s).fw = s.fw ∧ (beginIdentify c s).lat = s.lat ∧ (beginIdentify c s).cfg = s.cfg ∧
    (beginIdentify c s).fetchSeq = s.fetchSeq ∧ (beginIdentify c s).facets = s.facets ∧ (beginIdentify c s).idx = s.idx ∧
    (beginIdentify c s).mods = s.mods ∧ (beginIdentify c s).srch = s.srch ∧ (beginIdentify c s).flash = s.flash ∧
    (beginIdentify c s).chd = s.chd ∧ (beginIdentify c s).side = s.side ∧ (beginIdentify c s).serial = s.serial ∧
    (beginIdentify c s).free = s.free ∧ (beginIdentify c s).pending = s.pending := by
  unfold beginIdentify
  repeat' (first | (simp; done) | split | (dsimp only; split))

@[simp] theorem beginGetLog_rest (c : Cmd) (s : State) :
    (beginGetLog c s).brd = s.brd ∧ (beginGetLog c s).fnc = s.fnc ∧ (beginGetLog c s).fuse = s.fuse ∧ (beginGetLog c s).fw = s.fw ∧
    (beginGetLog c s).lat = s.lat ∧ (beginGetLog c s).cfg = s.cfg ∧ (beginGetLog c s).fetchSeq = s.fetchSeq ∧
    (beginGetLog c s).facets = s.facets ∧ (beginGetLog c s).idx = s.idx ∧ (beginGetLog c s).mods = s.mods ∧
    (beginGetLog c s).srch = s.srch ∧ (beginGetLog c s).flash = s.flash ∧ (beginGetLog c s).chd = s.chd ∧
    (beginGetLog c s).side = s.side ∧ (beginGetLog c s).serial = s.serial ∧ (beginGetLog c s).free = s.free ∧
    (beginGetLog c s).pending = s.pending := by
  unfold beginGetLog
  repeat' (first | (simp; done) | split | (dsimp only; split))

@[simp] theorem beginPower_rest (c : Cmd) (s : State) :
    (beginPower c s).evr = s.evr ∧ (beginPower c s).fnc = s.fnc ∧ (beginPower c s).fuse = s.fuse ∧ (beginPower c s).fw = s.fw ∧
    (beginPower c s).lat = s.lat ∧ (beginPower c s).cfg = s.cfg ∧ (beginPower c s).qps = s.qps ∧ (beginPower c s).fetchSeq = s.fetchSeq ∧
    (beginPower c s).elog = s.elog ∧ (beginPower c s).elogSeq = s.elogSeq ∧ (beginPower c s).facets = s.facets ∧
    (beginPower c s).idx = s.idx ∧ (beginPower c s).mods = s.mods ∧ (beginPower c s).srch = s.srch ∧ (beginPower c s).flash = s.flash ∧
    (beginPower c s).mem = s.mem ∧ (beginPower c s).chd = s.chd ∧ (beginPower c s).side = s.side ∧ (beginPower c s).serial = s.serial ∧
    (beginPower c s).out = s.out ∧ (beginPower c s).free = s.free ∧ (beginPower c s).pending = s.pending := by
  unfold beginPower
  repeat' (first | (simp; done) | split | (dsimp only; split))

@[simp] theorem beginSetFeature_rest (c : Cmd) (s : State) :
    (beginSetFeature c s).evr = s.evr ∧ (beginSetFeature c s).fnc = s.fnc ∧ (beginSetFeature c s).fuse = s.fuse ∧
    (beginSetFeature c s).fw = s.fw ∧ (beginSetFeature c s).lat = s.lat ∧ (beginSetFeature c s).cfg = s.cfg ∧
    (beginSetFeature c s).fetchSeq = s.fetchSeq ∧ (beginSetFeature c s).idx = s.idx ∧ (beginSetFeature c s).mods = s.mods ∧
    (beginSetFeature c s).srch = s.srch ∧ (beginSetFeature c s).flash = s.flash ∧ (beginSetFeature c s).mem = s.mem ∧
    (beginSetFeature c s).chd = s.chd ∧ (beginSetFeature c s).side = s.side ∧ (beginSetFeature c s).serial = s.serial ∧
    (beginSetFeature c s).free = s.free ∧ (beginSetFeature c s).pending = s.pending := by
  unfold beginSetFeature
  repeat' (first | (simp; done) | split | (dsimp only; split))

@[simp] theorem beginGetFeature_rest (c : Cmd) (s : State) :
    (beginGetFeature c s).brd = s.brd ∧ (beginGetFeature c s).evr = s.evr ∧ (beginGetFeature c s).fnc = s.fnc ∧
    (beginGetFeature c s).fuse = s.fuse ∧ (beginGetFeature c s).fw = s.fw ∧ (beginGetFeature c s).lat = s.lat ∧
    (beginGetFeature c s).cfg = s.cfg ∧ (beginGetFeature c s).fetchSeq = s.fetchSeq ∧ (beginGetFeature c s).facets = s.facets ∧
    (beginGetFeature c s).idx = s.idx ∧ (beginGetFeature c s).mods = s.mods ∧ (beginGetFeature c s).srch = s.srch ∧
    (beginGetFeature c s).flash = s.flash ∧ (beginGetFeature c s).mem = s.mem ∧ (beginGetFeature c s).chd = s.chd ∧
    (beginGetFeature c s).side = s.side ∧ (beginGetFeature c s).serial = s.serial ∧ (beginGetFeature c s).free = s.free ∧
    (beginGetFeature c s).pending = s.pending := by
  unfold beginGetFeature
  repeat' (first | (simp; done) | split | (dsimp only; split))

@[simp] theorem beginFwDownload_rest (c : Cmd) (s : State) :
    (beginFwDownload c s).brd = s.brd ∧ (beginFwDownload c s).evr = s.evr ∧ (beginFwDownload c s).fnc = s.fnc ∧
    (beginFwDownload c s).fuse = s.fuse ∧ (beginFwDownload c s).lat = s.lat ∧ (beginFwDownload c s).cfg = s.cfg ∧
    (beginFwDownload c s).fetchSeq = s.fetchSeq ∧ (beginFwDownload c s).facets = s.facets ∧ (beginFwDownload c s).idx = s.idx ∧
    (beginFwDownload c s).mods = s.mods ∧ (beginFwDownload c s).srch = s.srch ∧ (beginFwDownload c s).flash = s.flash ∧
    (beginFwDownload c s).mem = s.mem ∧ (beginFwDownload c s).chd = s.chd ∧ (beginFwDownload c s).side = s.side ∧
    (beginFwDownload c s).serial = s.serial ∧ (beginFwDownload c s).free = s.free ∧ (beginFwDownload c s).pending = s.pending := by
  unfold beginFwDownload
  repeat' (first | (simp; done) | split | (dsimp only; split))

@[simp] theorem beginFwCommit_rest (c : Cmd) (s : State) :
    (beginFwCommit c s).brd = s.brd ∧ (beginFwCommit c s).evr = s.evr ∧ (beginFwCommit c s).fnc = s.fnc ∧
    (beginFwCommit c s).fuse = s.fuse ∧ (beginFwCommit c s).lat = s.lat ∧ (beginFwCommit c s).cfg = s.cfg ∧
    (beginFwCommit c s).fetchSeq = s.fetchSeq ∧ (beginFwCommit c s).facets = s.facets ∧ (beginFwCommit c s).idx = s.idx ∧
    (beginFwCommit c s).mods = s.mods ∧ (beginFwCommit c s).srch = s.srch ∧ (beginFwCommit c s).mem = s.mem ∧
    (beginFwCommit c s).chd = s.chd ∧ (beginFwCommit c s).side = s.side ∧ (beginFwCommit c s).serial = s.serial ∧
    (beginFwCommit c s).pending = s.pending := by
  unfold beginFwCommit
  repeat' (first | (simp; done) | split | (dsimp only; split))

@[simp] theorem endFwCommit_rest (c : Cmd) (s : State) :
    (endFwCommit c s).brd = s.brd ∧ (endFwCommit c s).evr = s.evr ∧ (endFwCommit c s).fnc = s.fnc ∧ (endFwCommit c s).fuse = s.fuse ∧
    (endFwCommit c s).lat = s.lat ∧ (endFwCommit c s).cfg = s.cfg ∧ (endFwCommit c s).fetchSeq = s.fetchSeq ∧
    (endFwCommit c s).facets = s.facets ∧ (endFwCommit c s).idx = s.idx ∧ (endFwCommit c s).mods = s.mods ∧
    (endFwCommit c s).srch = s.srch ∧ (endFwCommit c s).flash = s.flash ∧ (endFwCommit c s).mem = s.mem ∧ (endFwCommit c s).chd = s.chd ∧
    (endFwCommit c s).side = s.side ∧ (endFwCommit c s).serial = s.serial ∧ (endFwCommit c s).free = s.free ∧
    (endFwCommit c s).pending = s.pending := by
  unfold endFwCommit
  repeat' (first | (simp; done) | split | (dsimp only; split))

@[simp] theorem beginCreateQp_rest (c : Cmd) (s : State) :
    (beginCreateQp c s).brd = s.brd ∧ (beginCreateQp c s).evr = s.evr ∧ (beginCreateQp c s).fnc = s.fnc ∧
    (beginCreateQp c s).fuse = s.fuse ∧ (beginCreateQp c s).fw = s.fw ∧ (beginCreateQp c s).lat = s.lat ∧
    (beginCreateQp c s).cfg = s.cfg ∧ (beginCreateQp c s).fetchSeq = s.fetchSeq ∧ (beginCreateQp c s).idx = s.idx ∧
    (beginCreateQp c s).mods = s.mods ∧ (beginCreateQp c s).srch = s.srch ∧ (beginCreateQp c s).flash = s.flash ∧
    (beginCreateQp c s).mem = s.mem ∧ (beginCreateQp c s).chd = s.chd ∧ (beginCreateQp c s).side = s.side ∧
    (beginCreateQp c s).serial = s.serial ∧ (beginCreateQp c s).free = s.free ∧ (beginCreateQp c s).pending = s.pending := by
  unfold beginCreateQp
  repeat' (first | (simp; done) | split | (dsimp only; split))

@[simp] theorem beginFacetCreate_rest (c : Cmd) (s : State) :
    (beginFacetCreate c s).brd = s.brd ∧ (beginFacetCreate c s).evr = s.evr ∧ (beginFacetCreate c s).fnc = s.fnc ∧
    (beginFacetCreate c s).fuse = s.fuse ∧ (beginFacetCreate c s).fw = s.fw ∧ (beginFacetCreate c s).lat = s.lat ∧
    (beginFacetCreate c s).cfg = s.cfg ∧ (beginFacetCreate c s).fetchSeq = s.fetchSeq ∧ (beginFacetCreate c s).idx = s.idx ∧
    (beginFacetCreate c s).mods = s.mods ∧ (beginFacetCreate c s).srch = s.srch ∧ (beginFacetCreate c s).flash = s.flash ∧
    (beginFacetCreate c s).mem = s.mem ∧ (beginFacetCreate c s).chd = s.chd ∧ (beginFacetCreate c s).side = s.side ∧
    (beginFacetCreate c s).serial = s.serial ∧ (beginFacetCreate c s).free = s.free ∧ (beginFacetCreate c s).pending = s.pending := by
  unfold beginFacetCreate
  repeat' (first | (simp; done) | split | (dsimp only; split))

@[simp] theorem forgetFacet_rest (f : Nat) (s : State) :
    (forgetFacet f s).brd = s.brd ∧ (forgetFacet f s).evr = s.evr ∧ (forgetFacet f s).fnc = s.fnc ∧ (forgetFacet f s).fuse = s.fuse ∧
    (forgetFacet f s).fw = s.fw ∧ (forgetFacet f s).lat = s.lat ∧ (forgetFacet f s).cfg = s.cfg ∧ (forgetFacet f s).hif = s.hif ∧
    (forgetFacet f s).qps = s.qps ∧ (forgetFacet f s).tags = s.tags ∧ (forgetFacet f s).cmds = s.cmds ∧
    (forgetFacet f s).fetchSeq = s.fetchSeq ∧ (forgetFacet f s).elog = s.elog ∧ (forgetFacet f s).elogSeq = s.elogSeq ∧
    (forgetFacet f s).facets = s.facets ∧ (forgetFacet f s).idx = s.idx ∧ (forgetFacet f s).mods = s.mods ∧
    (forgetFacet f s).chd = s.chd ∧ (forgetFacet f s).side = s.side ∧ (forgetFacet f s).serial = s.serial ∧
    (forgetFacet f s).out = s.out ∧ (forgetFacet f s).free = s.free ∧ (forgetFacet f s).pending = s.pending := by
  unfold forgetFacet
  repeat' (first | (simp; done) | split | (dsimp only; split))

@[simp] theorem beginScrub_rest (f : Nat) (s : State) :
    (beginScrub f s).brd = s.brd ∧ (beginScrub f s).evr = s.evr ∧ (beginScrub f s).fnc = s.fnc ∧ (beginScrub f s).fuse = s.fuse ∧
    (beginScrub f s).fw = s.fw ∧ (beginScrub f s).lat = s.lat ∧ (beginScrub f s).cfg = s.cfg ∧ (beginScrub f s).hif = s.hif ∧
    (beginScrub f s).qps = s.qps ∧ (beginScrub f s).tags = s.tags ∧ (beginScrub f s).cmds = s.cmds ∧
    (beginScrub f s).fetchSeq = s.fetchSeq ∧ (beginScrub f s).elog = s.elog ∧ (beginScrub f s).elogSeq = s.elogSeq ∧
    (beginScrub f s).chd = s.chd ∧ (beginScrub f s).side = s.side ∧ (beginScrub f s).serial = s.serial ∧ (beginScrub f s).out = s.out ∧
    (beginScrub f s).pending = s.pending := by
  unfold beginScrub
  repeat' (first | (simp; done) | split | (dsimp only; split))

@[simp] theorem beginFacetDestroy_rest (c : Cmd) (s : State) :
    (beginFacetDestroy c s).brd = s.brd ∧ (beginFacetDestroy c s).evr = s.evr ∧ (beginFacetDestroy c s).fnc = s.fnc ∧
    (beginFacetDestroy c s).fuse = s.fuse ∧ (beginFacetDestroy c s).fw = s.fw ∧ (beginFacetDestroy c s).lat = s.lat ∧
    (beginFacetDestroy c s).cfg = s.cfg ∧ (beginFacetDestroy c s).fetchSeq = s.fetchSeq ∧ (beginFacetDestroy c s).side = s.side ∧
    (beginFacetDestroy c s).serial = s.serial ∧ (beginFacetDestroy c s).pending = s.pending := by
  have key := @foldl_ind (fun u : State => u.brd = s.brd ∧ u.evr = s.evr ∧ u.fnc = s.fnc ∧ u.fuse = s.fuse ∧ u.fw = s.fw ∧ u.lat = s.lat ∧ u.cfg = s.cfg ∧
      u.fetchSeq = s.fetchSeq ∧ u.side = s.side ∧ u.serial = s.serial ∧ u.pending = s.pending)
  unfold beginFacetDestroy
  repeat' (first | (simp; done) | split | (dsimp only; split) | refine key _ _ _ ?_ ?_ |
    (dsimp only; refine key _ _ _ ?_ ?_) | intro t x h | (simp [h]; done))

@[simp] theorem beginIndexCreate_rest (c : Cmd) (s : State) :
    (beginIndexCreate c s).brd = s.brd ∧ (beginIndexCreate c s).evr = s.evr ∧ (beginIndexCreate c s).fnc = s.fnc ∧
    (beginIndexCreate c s).fuse = s.fuse ∧ (beginIndexCreate c s).fw = s.fw ∧ (beginIndexCreate c s).lat = s.lat ∧
    (beginIndexCreate c s).cfg = s.cfg ∧ (beginIndexCreate c s).fetchSeq = s.fetchSeq ∧ (beginIndexCreate c s).facets = s.facets ∧
    (beginIndexCreate c s).idx = s.idx ∧ (beginIndexCreate c s).mods = s.mods ∧ (beginIndexCreate c s).srch = s.srch ∧
    (beginIndexCreate c s).mem = s.mem ∧ (beginIndexCreate c s).chd = s.chd ∧ (beginIndexCreate c s).side = s.side ∧
    (beginIndexCreate c s).serial = s.serial ∧ (beginIndexCreate c s).pending = s.pending := by
  unfold beginIndexCreate
  repeat' (first | (simp; done) | split | (dsimp only; split))

@[simp] theorem endIndexCreate_rest (c : Cmd) (s : State) :
    (endIndexCreate c s).brd = s.brd ∧ (endIndexCreate c s).evr = s.evr ∧ (endIndexCreate c s).fnc = s.fnc ∧
    (endIndexCreate c s).fuse = s.fuse ∧ (endIndexCreate c s).fw = s.fw ∧ (endIndexCreate c s).lat = s.lat ∧
    (endIndexCreate c s).cfg = s.cfg ∧ (endIndexCreate c s).fetchSeq = s.fetchSeq ∧ (endIndexCreate c s).facets = s.facets ∧
    (endIndexCreate c s).mods = s.mods ∧ (endIndexCreate c s).srch = s.srch ∧ (endIndexCreate c s).flash = s.flash ∧
    (endIndexCreate c s).chd = s.chd ∧ (endIndexCreate c s).side = s.side ∧ (endIndexCreate c s).serial = s.serial ∧
    (endIndexCreate c s).free = s.free ∧ (endIndexCreate c s).pending = s.pending := by
  unfold endIndexCreate
  repeat' (first | (simp; done) | split | (dsimp only; split))

@[simp] theorem beginEvrControl_rest (c : Cmd) (s : State) :
    (beginEvrControl c s).brd = s.brd ∧ (beginEvrControl c s).fnc = s.fnc ∧ (beginEvrControl c s).fuse = s.fuse ∧
    (beginEvrControl c s).fw = s.fw ∧ (beginEvrControl c s).lat = s.lat ∧ (beginEvrControl c s).cfg = s.cfg ∧
    (beginEvrControl c s).fetchSeq = s.fetchSeq ∧ (beginEvrControl c s).facets = s.facets ∧ (beginEvrControl c s).idx = s.idx ∧
    (beginEvrControl c s).mods = s.mods ∧ (beginEvrControl c s).srch = s.srch ∧ (beginEvrControl c s).flash = s.flash ∧
    (beginEvrControl c s).mem = s.mem ∧ (beginEvrControl c s).chd = s.chd ∧ (beginEvrControl c s).side = s.side ∧
    (beginEvrControl c s).serial = s.serial ∧ (beginEvrControl c s).free = s.free ∧ (beginEvrControl c s).pending = s.pending := by
  unfold beginEvrControl
  repeat' (first | (simp; done) | split | (dsimp only; split))

@[simp] theorem setCode_rest (slot code : Nat) (kind atReset : Bool) (s : State) :
    (setCode slot code kind atReset s).brd = s.brd ∧ (setCode slot code kind atReset s).evr = s.evr ∧
    (setCode slot code kind atReset s).fnc = s.fnc ∧ (setCode slot code kind atReset s).fuse = s.fuse ∧
    (setCode slot code kind atReset s).fw = s.fw ∧ (setCode slot code kind atReset s).cfg = s.cfg ∧
    (setCode slot code kind atReset s).hif = s.hif ∧ (setCode slot code kind atReset s).qps = s.qps ∧
    (setCode slot code kind atReset s).tags = s.tags ∧ (setCode slot code kind atReset s).cmds = s.cmds ∧
    (setCode slot code kind atReset s).fetchSeq = s.fetchSeq ∧ (setCode slot code kind atReset s).elog = s.elog ∧
    (setCode slot code kind atReset s).elogSeq = s.elogSeq ∧ (setCode slot code kind atReset s).facets = s.facets ∧
    (setCode slot code kind atReset s).idx = s.idx ∧ (setCode slot code kind atReset s).mods = s.mods ∧
    (setCode slot code kind atReset s).srch = s.srch ∧ (setCode slot code kind atReset s).flash = s.flash ∧
    (setCode slot code kind atReset s).mem = s.mem ∧ (setCode slot code kind atReset s).chd = s.chd ∧
    (setCode slot code kind atReset s).side = s.side ∧ (setCode slot code kind atReset s).serial = s.serial ∧
    (setCode slot code kind atReset s).out = s.out ∧ (setCode slot code kind atReset s).free = s.free ∧
    (setCode slot code kind atReset s).pending = s.pending := by
  unfold setCode
  repeat' (first | (simp; done) | split | (dsimp only; split))

@[simp] theorem beginLoad_rest (c : Cmd) (s : State) :
    (beginLoad c s).brd = s.brd ∧ (beginLoad c s).evr = s.evr ∧ (beginLoad c s).fnc = s.fnc ∧ (beginLoad c s).fuse = s.fuse ∧
    (beginLoad c s).fw = s.fw ∧ (beginLoad c s).cfg = s.cfg ∧ (beginLoad c s).fetchSeq = s.fetchSeq ∧ (beginLoad c s).facets = s.facets ∧
    (beginLoad c s).idx = s.idx ∧ (beginLoad c s).mods = s.mods ∧ (beginLoad c s).srch = s.srch ∧ (beginLoad c s).flash = s.flash ∧
    (beginLoad c s).mem = s.mem ∧ (beginLoad c s).chd = s.chd ∧ (beginLoad c s).side = s.side ∧ (beginLoad c s).serial = s.serial ∧
    (beginLoad c s).free = s.free ∧ (beginLoad c s).pending = s.pending := by
  unfold beginLoad
  repeat' (first | (simp; done) | split | (dsimp only; split))

@[simp] theorem applyCfg_rest (cfg : ImageCfg) (img : List FormatRec) (s : State) :
    (applyCfg cfg img s).brd = s.brd ∧ (applyCfg cfg img s).evr = s.evr ∧ (applyCfg cfg img s).fnc = s.fnc ∧
    (applyCfg cfg img s).fuse = s.fuse ∧ (applyCfg cfg img s).fw = s.fw ∧ (applyCfg cfg img s).lat = s.lat ∧
    (applyCfg cfg img s).hif = s.hif ∧ (applyCfg cfg img s).qps = s.qps ∧ (applyCfg cfg img s).tags = s.tags ∧
    (applyCfg cfg img s).cmds = s.cmds ∧ (applyCfg cfg img s).fetchSeq = s.fetchSeq ∧ (applyCfg cfg img s).elog = s.elog ∧
    (applyCfg cfg img s).elogSeq = s.elogSeq ∧ (applyCfg cfg img s).idx = s.idx ∧ (applyCfg cfg img s).srch = s.srch ∧
    (applyCfg cfg img s).flash = s.flash ∧ (applyCfg cfg img s).chd = s.chd ∧ (applyCfg cfg img s).side = s.side ∧
    (applyCfg cfg img s).serial = s.serial ∧ (applyCfg cfg img s).out = s.out ∧ (applyCfg cfg img s).free = s.free ∧
    (applyCfg cfg img s).pending = s.pending := by
  have key := @foldl_ind (fun u : State => u.brd = s.brd ∧ u.evr = s.evr ∧ u.fnc = s.fnc ∧ u.fuse = s.fuse ∧ u.fw = s.fw ∧ u.lat = s.lat ∧ u.hif = s.hif ∧ u.qps = s.qps ∧
      u.tags = s.tags ∧ u.cmds = s.cmds ∧ u.fetchSeq = s.fetchSeq ∧ u.elog = s.elog ∧ u.elogSeq = s.elogSeq ∧ u.idx = s.idx ∧
      u.srch = s.srch ∧ u.flash = s.flash ∧ u.chd = s.chd ∧ u.side = s.side ∧ u.serial = s.serial ∧ u.out = s.out ∧ u.free = s.free ∧
      u.pending = s.pending)
  unfold applyCfg
  repeat' (first | (simp; done) | split | (dsimp only; split) | refine key _ _ _ ?_ ?_ |
    (dsimp only; refine key _ _ _ ?_ ?_) | intro t x h | (simp [h]; done))

@[simp] theorem endLoad_rest (l : Load) (reshapeUs : Nat) (s : State) :
    (endLoad l reshapeUs s).brd = s.brd ∧ (endLoad l reshapeUs s).evr = s.evr ∧ (endLoad l reshapeUs s).fnc = s.fnc ∧
    (endLoad l reshapeUs s).fuse = s.fuse ∧ (endLoad l reshapeUs s).fw = s.fw ∧ (endLoad l reshapeUs s).fetchSeq = s.fetchSeq ∧
    (endLoad l reshapeUs s).idx = s.idx ∧ (endLoad l reshapeUs s).srch = s.srch ∧ (endLoad l reshapeUs s).flash = s.flash ∧
    (endLoad l reshapeUs s).chd = s.chd ∧ (endLoad l reshapeUs s).side = s.side ∧ (endLoad l reshapeUs s).serial = s.serial ∧
    (endLoad l reshapeUs s).free = s.free ∧ (endLoad l reshapeUs s).pending = s.pending := by
  unfold endLoad
  repeat' (first | (simp; done) | split | (dsimp only; split))

@[simp] theorem failLoad_rest (l : Load) (s : State) :
    (failLoad l s).brd = s.brd ∧ (failLoad l s).evr = s.evr ∧ (failLoad l s).fnc = s.fnc ∧ (failLoad l s).fuse = s.fuse ∧
    (failLoad l s).fw = s.fw ∧ (failLoad l s).cfg = s.cfg ∧ (failLoad l s).fetchSeq = s.fetchSeq ∧ (failLoad l s).idx = s.idx ∧
    (failLoad l s).mods = s.mods ∧ (failLoad l s).srch = s.srch ∧ (failLoad l s).flash = s.flash ∧ (failLoad l s).mem = s.mem ∧
    (failLoad l s).chd = s.chd ∧ (failLoad l s).side = s.side ∧ (failLoad l s).serial = s.serial ∧ (failLoad l s).free = s.free ∧
    (failLoad l s).pending = s.pending := by
  unfold failLoad
  repeat' (first | (simp; done) | split | (dsimp only; split))

@[simp] theorem bootCode_rest (n : Nat) (failed : Bool) (s : State) :
    (bootCode n failed s).brd = s.brd ∧ (bootCode n failed s).evr = s.evr ∧ (bootCode n failed s).fnc = s.fnc ∧
    (bootCode n failed s).fuse = s.fuse ∧ (bootCode n failed s).fw = s.fw ∧ (bootCode n failed s).cfg = s.cfg ∧
    (bootCode n failed s).hif = s.hif ∧ (bootCode n failed s).qps = s.qps ∧ (bootCode n failed s).tags = s.tags ∧
    (bootCode n failed s).cmds = s.cmds ∧ (bootCode n failed s).fetchSeq = s.fetchSeq ∧ (bootCode n failed s).elog = s.elog ∧
    (bootCode n failed s).elogSeq = s.elogSeq ∧ (bootCode n failed s).facets = s.facets ∧ (bootCode n failed s).idx = s.idx ∧
    (bootCode n failed s).mods = s.mods ∧ (bootCode n failed s).srch = s.srch ∧ (bootCode n failed s).flash = s.flash ∧
    (bootCode n failed s).mem = s.mem ∧ (bootCode n failed s).chd = s.chd ∧ (bootCode n failed s).side = s.side ∧
    (bootCode n failed s).serial = s.serial ∧ (bootCode n failed s).out = s.out ∧ (bootCode n failed s).free = s.free ∧
    (bootCode n failed s).pending = s.pending := by
  unfold bootCode
  repeat' (first | (simp; done) | split | (dsimp only; split))

@[simp] theorem bootCfg_rest (cfg : ImageCfg) (st active : Nat) (s : State) :
    (bootCfg cfg st active s).brd = s.brd ∧ (bootCfg cfg st active s).evr = s.evr ∧ (bootCfg cfg st active s).fnc = s.fnc ∧
    (bootCfg cfg st active s).fuse = s.fuse ∧ (bootCfg cfg st active s).fw = s.fw ∧ (bootCfg cfg st active s).hif = s.hif ∧
    (bootCfg cfg st active s).qps = s.qps ∧ (bootCfg cfg st active s).tags = s.tags ∧ (bootCfg cfg st active s).cmds = s.cmds ∧
    (bootCfg cfg st active s).fetchSeq = s.fetchSeq ∧ (bootCfg cfg st active s).elog = s.elog ∧
    (bootCfg cfg st active s).elogSeq = s.elogSeq ∧ (bootCfg cfg st active s).facets = s.facets ∧ (bootCfg cfg st active s).idx = s.idx ∧
    (bootCfg cfg st active s).srch = s.srch ∧ (bootCfg cfg st active s).flash = s.flash ∧ (bootCfg cfg st active s).mem = s.mem ∧
    (bootCfg cfg st active s).chd = s.chd ∧ (bootCfg cfg st active s).side = s.side ∧ (bootCfg cfg st active s).serial = s.serial ∧
    (bootCfg cfg st active s).out = s.out ∧ (bootCfg cfg st active s).free = s.free ∧ (bootCfg cfg st active s).pending = s.pending := by
  unfold bootCfg
  repeat' (first | (simp; done) | split | (dsimp only; split))

@[simp] theorem fallbackEvent_rest (a code : Nat) (s : State) :
    (fallbackEvent a code s).brd = s.brd ∧ (fallbackEvent a code s).fnc = s.fnc ∧ (fallbackEvent a code s).fuse = s.fuse ∧
    (fallbackEvent a code s).fw = s.fw ∧ (fallbackEvent a code s).lat = s.lat ∧ (fallbackEvent a code s).cfg = s.cfg ∧
    (fallbackEvent a code s).qps = s.qps ∧ (fallbackEvent a code s).tags = s.tags ∧ (fallbackEvent a code s).cmds = s.cmds ∧
    (fallbackEvent a code s).fetchSeq = s.fetchSeq ∧ (fallbackEvent a code s).elog = s.elog ∧
    (fallbackEvent a code s).elogSeq = s.elogSeq ∧ (fallbackEvent a code s).facets = s.facets ∧ (fallbackEvent a code s).idx = s.idx ∧
    (fallbackEvent a code s).mods = s.mods ∧ (fallbackEvent a code s).srch = s.srch ∧ (fallbackEvent a code s).flash = s.flash ∧
    (fallbackEvent a code s).mem = s.mem ∧ (fallbackEvent a code s).chd = s.chd ∧ (fallbackEvent a code s).side = s.side ∧
    (fallbackEvent a code s).serial = s.serial ∧ (fallbackEvent a code s).free = s.free ∧ (fallbackEvent a code s).pending = s.pending := by
  unfold fallbackEvent
  repeat' (first | (simp; done) | split | (dsimp only; split))

@[simp] theorem bootLoad_rest (s : State) :
    (bootLoad s).brd = s.brd ∧ (bootLoad s).fnc = s.fnc ∧ (bootLoad s).fuse = s.fuse ∧ (bootLoad s).fw = s.fw ∧ (bootLoad s).qps = s.qps ∧
    (bootLoad s).tags = s.tags ∧ (bootLoad s).cmds = s.cmds ∧ (bootLoad s).fetchSeq = s.fetchSeq ∧ (bootLoad s).elog = s.elog ∧
    (bootLoad s).elogSeq = s.elogSeq ∧ (bootLoad s).facets = s.facets ∧ (bootLoad s).idx = s.idx ∧ (bootLoad s).srch = s.srch ∧
    (bootLoad s).flash = s.flash ∧ (bootLoad s).mem = s.mem ∧ (bootLoad s).chd = s.chd ∧ (bootLoad s).side = s.side ∧
    (bootLoad s).serial = s.serial ∧ (bootLoad s).free = s.free ∧ (bootLoad s).pending = s.pending := by
  unfold bootLoad
  repeat' (first | (simp; done) | split | (dsimp only; split))

@[simp] theorem issueVertex_rest (ix : Index) (q : Query) (ns : List Nat) (s : State) :
    (issueVertex ix q ns s).brd = s.brd ∧ (issueVertex ix q ns s).evr = s.evr ∧ (issueVertex ix q ns s).fnc = s.fnc ∧
    (issueVertex ix q ns s).fuse = s.fuse ∧ (issueVertex ix q ns s).fw = s.fw ∧ (issueVertex ix q ns s).lat = s.lat ∧
    (issueVertex ix q ns s).cfg = s.cfg ∧ (issueVertex ix q ns s).hif = s.hif ∧ (issueVertex ix q ns s).qps = s.qps ∧
    (issueVertex ix q ns s).tags = s.tags ∧ (issueVertex ix q ns s).cmds = s.cmds ∧ (issueVertex ix q ns s).fetchSeq = s.fetchSeq ∧
    (issueVertex ix q ns s).elog = s.elog ∧ (issueVertex ix q ns s).elogSeq = s.elogSeq ∧ (issueVertex ix q ns s).idx = s.idx ∧
    (issueVertex ix q ns s).mods = s.mods ∧ (issueVertex ix q ns s).srch = s.srch ∧ (issueVertex ix q ns s).mem = s.mem ∧
    (issueVertex ix q ns s).chd = s.chd ∧ (issueVertex ix q ns s).side = s.side ∧ (issueVertex ix q ns s).serial = s.serial ∧
    (issueVertex ix q ns s).out = s.out ∧ (issueVertex ix q ns s).free = s.free ∧ (issueVertex ix q ns s).pending = s.pending := by
  have key := @foldl_ind (fun u : State => u.brd = s.brd ∧ u.evr = s.evr ∧ u.fnc = s.fnc ∧ u.fuse = s.fuse ∧ u.fw = s.fw ∧ u.lat = s.lat ∧ u.cfg = s.cfg ∧ u.hif = s.hif ∧
      u.qps = s.qps ∧ u.tags = s.tags ∧ u.cmds = s.cmds ∧ u.fetchSeq = s.fetchSeq ∧ u.elog = s.elog ∧ u.elogSeq = s.elogSeq ∧
      u.idx = s.idx ∧ u.mods = s.mods ∧ u.srch = s.srch ∧ u.mem = s.mem ∧ u.chd = s.chd ∧ u.side = s.side ∧ u.serial = s.serial ∧
      u.out = s.out ∧ u.free = s.free ∧ u.pending = s.pending)
  unfold issueVertex
  repeat' (first | (simp; done) | split | (dsimp only; split) | refine key _ _ _ ?_ ?_ |
    (dsimp only; refine key _ _ _ ?_ ?_) | intro t x h | (simp [h]; done))

@[simp] theorem armWalk_rest (ix : Index) (q : Query) (s : State) :
    (armWalk ix q s).brd = s.brd ∧ (armWalk ix q s).evr = s.evr ∧ (armWalk ix q s).fnc = s.fnc ∧ (armWalk ix q s).fuse = s.fuse ∧
    (armWalk ix q s).fw = s.fw ∧ (armWalk ix q s).lat = s.lat ∧ (armWalk ix q s).cfg = s.cfg ∧ (armWalk ix q s).hif = s.hif ∧
    (armWalk ix q s).qps = s.qps ∧ (armWalk ix q s).tags = s.tags ∧ (armWalk ix q s).cmds = s.cmds ∧
    (armWalk ix q s).fetchSeq = s.fetchSeq ∧ (armWalk ix q s).elog = s.elog ∧ (armWalk ix q s).elogSeq = s.elogSeq ∧
    (armWalk ix q s).facets = s.facets ∧ (armWalk ix q s).idx = s.idx ∧ (armWalk ix q s).mods = s.mods ∧ (armWalk ix q s).srch = s.srch ∧
    (armWalk ix q s).flash = s.flash ∧ (armWalk ix q s).chd = s.chd ∧ (armWalk ix q s).side = s.side ∧
    (armWalk ix q s).serial = s.serial ∧ (armWalk ix q s).out = s.out ∧ (armWalk ix q s).pending = s.pending := by
  unfold armWalk
  repeat' (first | (simp; done) | split | (dsimp only; split))

@[simp] theorem beginRound_rest (ix : Index) (q : Query) (s : State) :
    (beginRound ix q s).brd = s.brd ∧ (beginRound ix q s).evr = s.evr ∧ (beginRound ix q s).fnc = s.fnc ∧
    (beginRound ix q s).fuse = s.fuse ∧ (beginRound ix q s).fw = s.fw ∧ (beginRound ix q s).lat = s.lat ∧
    (beginRound ix q s).cfg = s.cfg ∧ (beginRound ix q s).hif = s.hif ∧ (beginRound ix q s).qps = s.qps ∧
    (beginRound ix q s).tags = s.tags ∧ (beginRound ix q s).cmds = s.cmds ∧ (beginRound ix q s).fetchSeq = s.fetchSeq ∧
    (beginRound ix q s).elog = s.elog ∧ (beginRound ix q s).elogSeq = s.elogSeq ∧ (beginRound ix q s).idx = s.idx ∧
    (beginRound ix q s).mods = s.mods ∧ (beginRound ix q s).chd = s.chd ∧ (beginRound ix q s).side = s.side ∧
    (beginRound ix q s).serial = s.serial ∧ (beginRound ix q s).out = s.out ∧ (beginRound ix q s).pending = s.pending := by
  unfold beginRound
  repeat' (first | (simp; done) | split | (dsimp only; split))

@[simp] theorem endWalk_rest (q : Query) (cause : Nat) (s : State) :
    (endWalk q cause s).brd = s.brd ∧ (endWalk q cause s).fnc = s.fnc ∧ (endWalk q cause s).fuse = s.fuse ∧
    (endWalk q cause s).fw = s.fw ∧ (endWalk q cause s).lat = s.lat ∧ (endWalk q cause s).cfg = s.cfg ∧
    (endWalk q cause s).fetchSeq = s.fetchSeq ∧ (endWalk q cause s).idx = s.idx ∧ (endWalk q cause s).mods = s.mods ∧
    (endWalk q cause s).flash = s.flash ∧ (endWalk q cause s).side = s.side ∧ (endWalk q cause s).serial = s.serial ∧
    (endWalk q cause s).pending = s.pending := by
  unfold endWalk
  repeat' (first | (simp; done) | split | (dsimp only; split))

@[simp] theorem continueWalk_rest (ix : Index) (first : Bool) (q : Query) (s : State) :
    (continueWalk ix first q s).brd = s.brd ∧ (continueWalk ix first q s).fnc = s.fnc ∧ (continueWalk ix first q s).fuse = s.fuse ∧
    (continueWalk ix first q s).fw = s.fw ∧ (continueWalk ix first q s).lat = s.lat ∧ (continueWalk ix first q s).cfg = s.cfg ∧
    (continueWalk ix first q s).fetchSeq = s.fetchSeq ∧ (continueWalk ix first q s).idx = s.idx ∧
    (continueWalk ix first q s).mods = s.mods ∧ (continueWalk ix first q s).side = s.side ∧
    (continueWalk ix first q s).serial = s.serial ∧ (continueWalk ix first q s).pending = s.pending := by
  unfold continueWalk
  repeat' (first | (simp; done) | split | (dsimp only; split))

@[simp] theorem poisonRound_rest (q : Query) (rs : List Nat) (s : State) :
    (poisonRound q rs s).brd = s.brd ∧ (poisonRound q rs s).evr = s.evr ∧ (poisonRound q rs s).fnc = s.fnc ∧
    (poisonRound q rs s).fuse = s.fuse ∧ (poisonRound q rs s).fw = s.fw ∧ (poisonRound q rs s).lat = s.lat ∧
    (poisonRound q rs s).cfg = s.cfg ∧ (poisonRound q rs s).hif = s.hif ∧ (poisonRound q rs s).qps = s.qps ∧
    (poisonRound q rs s).tags = s.tags ∧ (poisonRound q rs s).cmds = s.cmds ∧ (poisonRound q rs s).fetchSeq = s.fetchSeq ∧
    (poisonRound q rs s).elog = s.elog ∧ (poisonRound q rs s).elogSeq = s.elogSeq ∧ (poisonRound q rs s).facets = s.facets ∧
    (poisonRound q rs s).idx = s.idx ∧ (poisonRound q rs s).mods = s.mods ∧ (poisonRound q rs s).flash = s.flash ∧
    (poisonRound q rs s).mem = s.mem ∧ (poisonRound q rs s).chd = s.chd ∧ (poisonRound q rs s).side = s.side ∧
    (poisonRound q rs s).serial = s.serial ∧ (poisonRound q rs s).out = s.out ∧ (poisonRound q rs s).free = s.free ∧
    (poisonRound q rs s).pending = s.pending := by
  unfold poisonRound
  repeat' (first | (simp; done) | split | (dsimp only; split))

@[simp] theorem takeSketchRuns_rest (ix : Index) (q : Query) (ns : List Nat) (s : State) :
    (takeSketchRuns ix q ns s).brd = s.brd ∧ (takeSketchRuns ix q ns s).evr = s.evr ∧ (takeSketchRuns ix q ns s).fnc = s.fnc ∧
    (takeSketchRuns ix q ns s).fuse = s.fuse ∧ (takeSketchRuns ix q ns s).fw = s.fw ∧ (takeSketchRuns ix q ns s).lat = s.lat ∧
    (takeSketchRuns ix q ns s).cfg = s.cfg ∧ (takeSketchRuns ix q ns s).hif = s.hif ∧ (takeSketchRuns ix q ns s).qps = s.qps ∧
    (takeSketchRuns ix q ns s).tags = s.tags ∧ (takeSketchRuns ix q ns s).cmds = s.cmds ∧
    (takeSketchRuns ix q ns s).fetchSeq = s.fetchSeq ∧ (takeSketchRuns ix q ns s).elog = s.elog ∧
    (takeSketchRuns ix q ns s).elogSeq = s.elogSeq ∧ (takeSketchRuns ix q ns s).idx = s.idx ∧ (takeSketchRuns ix q ns s).mods = s.mods ∧
    (takeSketchRuns ix q ns s).flash = s.flash ∧ (takeSketchRuns ix q ns s).mem = s.mem ∧ (takeSketchRuns ix q ns s).chd = s.chd ∧
    (takeSketchRuns ix q ns s).side = s.side ∧ (takeSketchRuns ix q ns s).serial = s.serial ∧ (takeSketchRuns ix q ns s).out = s.out ∧
    (takeSketchRuns ix q ns s).pending = s.pending := by
  have key := @foldl_ind (fun u : State => u.brd = s.brd ∧ u.evr = s.evr ∧ u.fnc = s.fnc ∧ u.fuse = s.fuse ∧ u.fw = s.fw ∧ u.lat = s.lat ∧ u.cfg = s.cfg ∧ u.hif = s.hif ∧
      u.qps = s.qps ∧ u.tags = s.tags ∧ u.cmds = s.cmds ∧ u.fetchSeq = s.fetchSeq ∧ u.elog = s.elog ∧ u.elogSeq = s.elogSeq ∧
      u.idx = s.idx ∧ u.mods = s.mods ∧ u.flash = s.flash ∧ u.mem = s.mem ∧ u.chd = s.chd ∧ u.side = s.side ∧ u.serial = s.serial ∧
      u.out = s.out ∧ u.pending = s.pending)
  unfold takeSketchRuns
  repeat' (first | (simp; done) | split | (dsimp only; split) | refine key _ _ _ ?_ ?_ |
    (dsimp only; refine key _ _ _ ?_ ?_) | intro t x h | (simp [h]; done))

@[simp] theorem hopRound_rest (ix : Index) (q : Query) (borrowed : Bool) (s : State) :
    (hopRound ix q borrowed s).brd = s.brd ∧ (hopRound ix q borrowed s).fnc = s.fnc ∧ (hopRound ix q borrowed s).fuse = s.fuse ∧
    (hopRound ix q borrowed s).fw = s.fw ∧ (hopRound ix q borrowed s).lat = s.lat ∧ (hopRound ix q borrowed s).cfg = s.cfg ∧
    (hopRound ix q borrowed s).fetchSeq = s.fetchSeq ∧ (hopRound ix q borrowed s).idx = s.idx ∧ (hopRound ix q borrowed s).mods = s.mods ∧
    (hopRound ix q borrowed s).side = s.side ∧ (hopRound ix q borrowed s).serial = s.serial ∧
    (hopRound ix q borrowed s).pending = s.pending := by
  unfold hopRound
  repeat' (first | (simp; done) | split | (dsimp only; split))

@[simp] theorem hopRoundAt_rest (x : Nat) (s : State) :
    (hopRoundAt x s).brd = s.brd ∧ (hopRoundAt x s).fnc = s.fnc ∧ (hopRoundAt x s).fuse = s.fuse ∧ (hopRoundAt x s).fw = s.fw ∧
    (hopRoundAt x s).lat = s.lat ∧ (hopRoundAt x s).cfg = s.cfg ∧ (hopRoundAt x s).fetchSeq = s.fetchSeq ∧ (hopRoundAt x s).idx = s.idx ∧
    (hopRoundAt x s).mods = s.mods ∧ (hopRoundAt x s).side = s.side ∧ (hopRoundAt x s).serial = s.serial ∧
    (hopRoundAt x s).pending = s.pending := by
  unfold hopRoundAt
  repeat' (first | (simp; done) | split | (dsimp only; split))

@[simp] theorem moveWalk_rest (x : Nat) (s : State) :
    (moveWalk x s).brd = s.brd ∧ (moveWalk x s).evr = s.evr ∧ (moveWalk x s).fnc = s.fnc ∧ (moveWalk x s).fuse = s.fuse ∧
    (moveWalk x s).fw = s.fw ∧ (moveWalk x s).lat = s.lat ∧ (moveWalk x s).cfg = s.cfg ∧ (moveWalk x s).hif = s.hif ∧
    (moveWalk x s).qps = s.qps ∧ (moveWalk x s).tags = s.tags ∧ (moveWalk x s).cmds = s.cmds ∧ (moveWalk x s).fetchSeq = s.fetchSeq ∧
    (moveWalk x s).elog = s.elog ∧ (moveWalk x s).elogSeq = s.elogSeq ∧ (moveWalk x s).idx = s.idx ∧ (moveWalk x s).mods = s.mods ∧
    (moveWalk x s).chd = s.chd ∧ (moveWalk x s).side = s.side ∧ (moveWalk x s).serial = s.serial ∧ (moveWalk x s).out = s.out ∧
    (moveWalk x s).pending = s.pending := by
  unfold moveWalk
  repeat' (first | (simp; done) | split | (dsimp only; split))

@[simp] theorem startWalk_rest (x : Nat) (s : State) :
    (startWalk x s).brd = s.brd ∧ (startWalk x s).fnc = s.fnc ∧ (startWalk x s).fuse = s.fuse ∧ (startWalk x s).fw = s.fw ∧
    (startWalk x s).lat = s.lat ∧ (startWalk x s).cfg = s.cfg ∧ (startWalk x s).fetchSeq = s.fetchSeq ∧ (startWalk x s).idx = s.idx ∧
    (startWalk x s).mods = s.mods ∧ (startWalk x s).side = s.side ∧ (startWalk x s).serial = s.serial ∧
    (startWalk x s).pending = s.pending := by
  unfold startWalk
  repeat' (first | (simp; done) | split | (dsimp only; split))

@[simp] theorem stalledWalks_rest (s : State) :
    (stalledWalks s).brd = s.brd ∧ (stalledWalks s).fnc = s.fnc ∧ (stalledWalks s).fuse = s.fuse ∧ (stalledWalks s).fw = s.fw ∧
    (stalledWalks s).lat = s.lat ∧ (stalledWalks s).cfg = s.cfg ∧ (stalledWalks s).fetchSeq = s.fetchSeq ∧ (stalledWalks s).idx = s.idx ∧
    (stalledWalks s).mods = s.mods ∧ (stalledWalks s).side = s.side ∧ (stalledWalks s).serial = s.serial ∧
    (stalledWalks s).pending = s.pending := by
  have key := @foldl_ind (fun u : State => u.brd = s.brd ∧ u.fnc = s.fnc ∧ u.fuse = s.fuse ∧ u.fw = s.fw ∧ u.lat = s.lat ∧ u.cfg = s.cfg ∧ u.fetchSeq = s.fetchSeq ∧
      u.idx = s.idx ∧ u.mods = s.mods ∧ u.side = s.side ∧ u.serial = s.serial ∧ u.pending = s.pending)
  unfold stalledWalks
  repeat' (first | (simp; done) | split | (dsimp only; split) | refine key _ _ _ ?_ ?_ |
    (dsimp only; refine key _ _ _ ?_ ?_) | intro t x h | (simp [h]; done))

theorem takeSample_rest (ix : Index) (q : Query) (s : State) (t : State) (h : takeSample ix q s = some t) :
    t.brd = s.brd ∧ t.evr = s.evr ∧ t.fnc = s.fnc ∧ t.fuse = s.fuse ∧ t.fw = s.fw ∧ t.lat = s.lat ∧ t.cfg = s.cfg ∧ t.hif = s.hif ∧
    t.qps = s.qps ∧ t.tags = s.tags ∧ t.cmds = s.cmds ∧ t.fetchSeq = s.fetchSeq ∧ t.elog = s.elog ∧ t.elogSeq = s.elogSeq ∧
    t.idx = s.idx ∧ t.mods = s.mods ∧ t.mem = s.mem ∧ t.chd = s.chd ∧ t.side = s.side ∧ t.serial = s.serial ∧ t.out = s.out ∧
    t.pending = s.pending := by
  unfold takeSample at h
  repeat' (first | (cases h; done) | (cases h; simp; done) | (have hA := allJobs_rest _ _ _ _ _ _ h; simp [hA]; done) | (have hA := cellWork_rest _ _ _ _ _ h; simp [hA]; done) | (simp only [Option.map_eq_some_iff] at h; obtain ⟨c, -, rfl⟩ := h; simp; done) | split at h | dsimp only at h)

@[simp] theorem beginScan_rest (ix : Index) (q : Query) (s : State) :
    (beginScan ix q s).brd = s.brd ∧ (beginScan ix q s).fnc = s.fnc ∧ (beginScan ix q s).fuse = s.fuse ∧ (beginScan ix q s).fw = s.fw ∧
    (beginScan ix q s).lat = s.lat ∧ (beginScan ix q s).cfg = s.cfg ∧ (beginScan ix q s).fetchSeq = s.fetchSeq ∧
    (beginScan ix q s).idx = s.idx ∧ (beginScan ix q s).mods = s.mods ∧ (beginScan ix q s).side = s.side ∧
    (beginScan ix q s).serial = s.serial ∧ (beginScan ix q s).pending = s.pending := by
  unfold beginScan
  repeat' (first | (simp; done) | split | (dsimp only; split))

@[simp] theorem cohortFinish_rest (f cohort : Nat) (s : State) :
    (cohortFinish f cohort s).brd = s.brd ∧ (cohortFinish f cohort s).fnc = s.fnc ∧ (cohortFinish f cohort s).fuse = s.fuse ∧
    (cohortFinish f cohort s).fw = s.fw ∧ (cohortFinish f cohort s).lat = s.lat ∧ (cohortFinish f cohort s).cfg = s.cfg ∧
    (cohortFinish f cohort s).fetchSeq = s.fetchSeq ∧ (cohortFinish f cohort s).idx = s.idx ∧ (cohortFinish f cohort s).mods = s.mods ∧
    (cohortFinish f cohort s).side = s.side ∧ (cohortFinish f cohort s).serial = s.serial ∧
    (cohortFinish f cohort s).pending = s.pending := by
  have key := @foldl_ind (fun u : State => (u).brd = s.brd ∧ (u).fnc = s.fnc ∧ (u).fuse = s.fuse ∧ (u).fw = s.fw ∧ (u).lat = s.lat ∧ (u).cfg = s.cfg ∧
    (u).fetchSeq = s.fetchSeq ∧ (u).idx = s.idx ∧ (u).mods = s.mods ∧ (u).side = s.side ∧ (u).serial = s.serial ∧
    (u).pending = s.pending)
  unfold cohortFinish
  dsimp only
  split
  · simp
  · refine key _ _ _ ?_ (by intro t x h; simp [h])
    simp only [startGroups_rest]
    refine key _ _ _ (by simp) ?_
    intro t q h
    split
    · cases e : takeSample _ q t with
      | none => simpa using h
      | some u => simp [takeSample_rest _ _ _ _ e, h]
    · exact h

@[simp] theorem waitingScans_rest (s : State) :
    (waitingScans s).brd = s.brd ∧ (waitingScans s).fnc = s.fnc ∧ (waitingScans s).fuse = s.fuse ∧ (waitingScans s).fw = s.fw ∧
    (waitingScans s).lat = s.lat ∧ (waitingScans s).cfg = s.cfg ∧ (waitingScans s).fetchSeq = s.fetchSeq ∧ (waitingScans s).idx = s.idx ∧
    (waitingScans s).mods = s.mods ∧ (waitingScans s).side = s.side ∧ (waitingScans s).serial = s.serial ∧
    (waitingScans s).pending = s.pending := by
  have key := @foldl_ind (fun u : State => u.brd = s.brd ∧ u.fnc = s.fnc ∧ u.fuse = s.fuse ∧ u.fw = s.fw ∧ u.lat = s.lat ∧ u.cfg = s.cfg ∧ u.fetchSeq = s.fetchSeq ∧
      u.idx = s.idx ∧ u.mods = s.mods ∧ u.side = s.side ∧ u.serial = s.serial ∧ u.pending = s.pending)
  unfold waitingScans
  repeat' (first | (simp; done) | split | (dsimp only; split) | refine key _ _ _ ?_ ?_ |
    (dsimp only; refine key _ _ _ ?_ ?_) | intro t x h | (simp [h]; done))

@[simp] theorem drainSearch_rest (e : Nat) (t : Tile) (s : State) :
    (drainSearch e t s).brd = s.brd ∧ (drainSearch e t s).fnc = s.fnc ∧ (drainSearch e t s).fuse = s.fuse ∧
    (drainSearch e t s).fw = s.fw ∧ (drainSearch e t s).lat = s.lat ∧ (drainSearch e t s).cfg = s.cfg ∧
    (drainSearch e t s).fetchSeq = s.fetchSeq ∧ (drainSearch e t s).idx = s.idx ∧ (drainSearch e t s).mods = s.mods ∧
    (drainSearch e t s).side = s.side ∧ (drainSearch e t s).serial = s.serial ∧ (drainSearch e t s).pending = s.pending := by
  have key := @foldl_ind (fun u : State => u.brd = s.brd ∧ u.fnc = s.fnc ∧ u.fuse = s.fuse ∧ u.fw = s.fw ∧ u.lat = s.lat ∧ u.cfg = s.cfg ∧ u.fetchSeq = s.fetchSeq ∧
      u.idx = s.idx ∧ u.mods = s.mods ∧ u.side = s.side ∧ u.serial = s.serial ∧ u.pending = s.pending)
  unfold drainSearch
  repeat' (first | (simp; done) | split | (dsimp only; split) | refine key _ _ _ ?_ ?_ |
    (dsimp only; refine key _ _ _ ?_ ?_) | intro t x h | (simp [h]; done))

@[simp] theorem bumpLink_rest (l k n : Nat) (s : State) :
    (bumpLink l k n s).brd = s.brd ∧ (bumpLink l k n s).evr = s.evr ∧ (bumpLink l k n s).fnc = s.fnc ∧ (bumpLink l k n s).fuse = s.fuse ∧
    (bumpLink l k n s).fw = s.fw ∧ (bumpLink l k n s).lat = s.lat ∧ (bumpLink l k n s).cfg = s.cfg ∧ (bumpLink l k n s).hif = s.hif ∧
    (bumpLink l k n s).qps = s.qps ∧ (bumpLink l k n s).tags = s.tags ∧ (bumpLink l k n s).cmds = s.cmds ∧
    (bumpLink l k n s).fetchSeq = s.fetchSeq ∧ (bumpLink l k n s).elog = s.elog ∧ (bumpLink l k n s).elogSeq = s.elogSeq ∧
    (bumpLink l k n s).facets = s.facets ∧ (bumpLink l k n s).idx = s.idx ∧ (bumpLink l k n s).mods = s.mods ∧
    (bumpLink l k n s).srch = s.srch ∧ (bumpLink l k n s).flash = s.flash ∧ (bumpLink l k n s).mem = s.mem ∧
    (bumpLink l k n s).side = s.side ∧ (bumpLink l k n s).serial = s.serial ∧ (bumpLink l k n s).out = s.out ∧
    (bumpLink l k n s).free = s.free ∧ (bumpLink l k n s).pending = s.pending := by
  unfold bumpLink
  repeat' (first | (simp; done) | split | (dsimp only; split))

@[simp] theorem sendControl_rest (l typ : Nat) (s : State) :
    (sendControl l typ s).brd = s.brd ∧ (sendControl l typ s).evr = s.evr ∧ (sendControl l typ s).fnc = s.fnc ∧
    (sendControl l typ s).fuse = s.fuse ∧ (sendControl l typ s).fw = s.fw ∧ (sendControl l typ s).lat = s.lat ∧
    (sendControl l typ s).cfg = s.cfg ∧ (sendControl l typ s).hif = s.hif ∧ (sendControl l typ s).qps = s.qps ∧
    (sendControl l typ s).tags = s.tags ∧ (sendControl l typ s).cmds = s.cmds ∧ (sendControl l typ s).fetchSeq = s.fetchSeq ∧
    (sendControl l typ s).elog = s.elog ∧ (sendControl l typ s).elogSeq = s.elogSeq ∧ (sendControl l typ s).facets = s.facets ∧
    (sendControl l typ s).idx = s.idx ∧ (sendControl l typ s).mods = s.mods ∧ (sendControl l typ s).srch = s.srch ∧
    (sendControl l typ s).flash = s.flash ∧ (sendControl l typ s).mem = s.mem ∧ (sendControl l typ s).side = s.side ∧
    (sendControl l typ s).serial = s.serial ∧ (sendControl l typ s).free = s.free ∧ (sendControl l typ s).pending = s.pending := by
  unfold sendControl
  repeat' (first | (simp; done) | split | (dsimp only; split))

@[simp] theorem sendData_rest (l v : Nat) (p : Nat × Bytes × Nat) (s : State) :
    (sendData l v p s).brd = s.brd ∧ (sendData l v p s).evr = s.evr ∧ (sendData l v p s).fnc = s.fnc ∧ (sendData l v p s).fuse = s.fuse ∧
    (sendData l v p s).fw = s.fw ∧ (sendData l v p s).lat = s.lat ∧ (sendData l v p s).cfg = s.cfg ∧ (sendData l v p s).hif = s.hif ∧
    (sendData l v p s).qps = s.qps ∧ (sendData l v p s).tags = s.tags ∧ (sendData l v p s).cmds = s.cmds ∧
    (sendData l v p s).fetchSeq = s.fetchSeq ∧ (sendData l v p s).elog = s.elog ∧ (sendData l v p s).elogSeq = s.elogSeq ∧
    (sendData l v p s).facets = s.facets ∧ (sendData l v p s).idx = s.idx ∧ (sendData l v p s).mods = s.mods ∧
    (sendData l v p s).srch = s.srch ∧ (sendData l v p s).flash = s.flash ∧ (sendData l v p s).mem = s.mem ∧
    (sendData l v p s).side = s.side ∧ (sendData l v p s).serial = s.serial ∧ (sendData l v p s).free = s.free ∧
    (sendData l v p s).pending = s.pending := by
  unfold sendData
  repeat' (first | (simp; done) | split | (dsimp only; split))

@[simp] theorem markWaits_rest (l : Nat) (s : State) :
    (markWaits l s).brd = s.brd ∧ (markWaits l s).evr = s.evr ∧ (markWaits l s).fnc = s.fnc ∧ (markWaits l s).fuse = s.fuse ∧
    (markWaits l s).fw = s.fw ∧ (markWaits l s).lat = s.lat ∧ (markWaits l s).cfg = s.cfg ∧ (markWaits l s).hif = s.hif ∧
    (markWaits l s).qps = s.qps ∧ (markWaits l s).tags = s.tags ∧ (markWaits l s).cmds = s.cmds ∧ (markWaits l s).fetchSeq = s.fetchSeq ∧
    (markWaits l s).elog = s.elog ∧ (markWaits l s).elogSeq = s.elogSeq ∧ (markWaits l s).facets = s.facets ∧
    (markWaits l s).idx = s.idx ∧ (markWaits l s).mods = s.mods ∧ (markWaits l s).srch = s.srch ∧ (markWaits l s).flash = s.flash ∧
    (markWaits l s).mem = s.mem ∧ (markWaits l s).side = s.side ∧ (markWaits l s).serial = s.serial ∧ (markWaits l s).out = s.out ∧
    (markWaits l s).free = s.free ∧ (markWaits l s).pending = s.pending := by
  unfold markWaits
  repeat' (first | (simp; done) | split | (dsimp only; split))

@[simp] theorem pumpLink_rest (l : Nat) (n0 : Nat) (s : State) :
    (pumpLink l n0 s).brd = s.brd ∧ (pumpLink l n0 s).evr = s.evr ∧ (pumpLink l n0 s).fnc = s.fnc ∧ (pumpLink l n0 s).fuse = s.fuse ∧
    (pumpLink l n0 s).fw = s.fw ∧ (pumpLink l n0 s).lat = s.lat ∧ (pumpLink l n0 s).cfg = s.cfg ∧ (pumpLink l n0 s).hif = s.hif ∧
    (pumpLink l n0 s).qps = s.qps ∧ (pumpLink l n0 s).tags = s.tags ∧ (pumpLink l n0 s).cmds = s.cmds ∧
    (pumpLink l n0 s).fetchSeq = s.fetchSeq ∧ (pumpLink l n0 s).elog = s.elog ∧ (pumpLink l n0 s).elogSeq = s.elogSeq ∧
    (pumpLink l n0 s).facets = s.facets ∧ (pumpLink l n0 s).idx = s.idx ∧ (pumpLink l n0 s).mods = s.mods ∧
    (pumpLink l n0 s).srch = s.srch ∧ (pumpLink l n0 s).flash = s.flash ∧ (pumpLink l n0 s).mem = s.mem ∧
    (pumpLink l n0 s).side = s.side ∧ (pumpLink l n0 s).serial = s.serial ∧ (pumpLink l n0 s).free = s.free ∧
    (pumpLink l n0 s).pending = s.pending := by
  fun_induction pumpLink l n0 s <;> simp_all

@[simp] theorem sendMsg_rest (l : Nat) (m : ChordMsg) (s : State) :
    (sendMsg l m s).brd = s.brd ∧ (sendMsg l m s).evr = s.evr ∧ (sendMsg l m s).fnc = s.fnc ∧ (sendMsg l m s).fuse = s.fuse ∧
    (sendMsg l m s).fw = s.fw ∧ (sendMsg l m s).lat = s.lat ∧ (sendMsg l m s).cfg = s.cfg ∧ (sendMsg l m s).hif = s.hif ∧
    (sendMsg l m s).qps = s.qps ∧ (sendMsg l m s).tags = s.tags ∧ (sendMsg l m s).cmds = s.cmds ∧ (sendMsg l m s).fetchSeq = s.fetchSeq ∧
    (sendMsg l m s).elog = s.elog ∧ (sendMsg l m s).elogSeq = s.elogSeq ∧ (sendMsg l m s).facets = s.facets ∧
    (sendMsg l m s).idx = s.idx ∧ (sendMsg l m s).mods = s.mods ∧ (sendMsg l m s).srch = s.srch ∧ (sendMsg l m s).flash = s.flash ∧
    (sendMsg l m s).mem = s.mem ∧ (sendMsg l m s).side = s.side ∧ (sendMsg l m s).serial = s.serial ∧
    (sendMsg l m s).pending = s.pending := by
  unfold sendMsg
  repeat' (first | (simp; done) | split | (dsimp only; split))

@[simp] theorem takeAck_rest (l ack : Nat) (s : State) :
    (takeAck l ack s).brd = s.brd ∧ (takeAck l ack s).evr = s.evr ∧ (takeAck l ack s).fnc = s.fnc ∧ (takeAck l ack s).fuse = s.fuse ∧
    (takeAck l ack s).fw = s.fw ∧ (takeAck l ack s).lat = s.lat ∧ (takeAck l ack s).cfg = s.cfg ∧ (takeAck l ack s).hif = s.hif ∧
    (takeAck l ack s).qps = s.qps ∧ (takeAck l ack s).tags = s.tags ∧ (takeAck l ack s).cmds = s.cmds ∧
    (takeAck l ack s).fetchSeq = s.fetchSeq ∧ (takeAck l ack s).elog = s.elog ∧ (takeAck l ack s).elogSeq = s.elogSeq ∧
    (takeAck l ack s).facets = s.facets ∧ (takeAck l ack s).idx = s.idx ∧ (takeAck l ack s).mods = s.mods ∧
    (takeAck l ack s).srch = s.srch ∧ (takeAck l ack s).flash = s.flash ∧ (takeAck l ack s).mem = s.mem ∧
    (takeAck l ack s).side = s.side ∧ (takeAck l ack s).serial = s.serial ∧ (takeAck l ack s).out = s.out ∧
    (takeAck l ack s).free = s.free ∧ (takeAck l ack s).pending = s.pending := by
  unfold takeAck
  repeat' (first | (simp; done) | split | (dsimp only; split))

@[simp] theorem resend_rest (l : Nat) (s : State) :
    (resend l s).brd = s.brd ∧ (resend l s).evr = s.evr ∧ (resend l s).fnc = s.fnc ∧ (resend l s).fuse = s.fuse ∧ (resend l s).fw = s.fw ∧
    (resend l s).lat = s.lat ∧ (resend l s).cfg = s.cfg ∧ (resend l s).hif = s.hif ∧ (resend l s).qps = s.qps ∧
    (resend l s).tags = s.tags ∧ (resend l s).cmds = s.cmds ∧ (resend l s).fetchSeq = s.fetchSeq ∧ (resend l s).elog = s.elog ∧
    (resend l s).elogSeq = s.elogSeq ∧ (resend l s).facets = s.facets ∧ (resend l s).idx = s.idx ∧ (resend l s).mods = s.mods ∧
    (resend l s).srch = s.srch ∧ (resend l s).flash = s.flash ∧ (resend l s).mem = s.mem ∧ (resend l s).side = s.side ∧
    (resend l s).serial = s.serial ∧ (resend l s).free = s.free ∧ (resend l s).pending = s.pending := by
  have key := @foldl_ind (fun u : State => u.brd = s.brd ∧ u.evr = s.evr ∧ u.fnc = s.fnc ∧ u.fuse = s.fuse ∧ u.fw = s.fw ∧ u.lat = s.lat ∧ u.cfg = s.cfg ∧ u.hif = s.hif ∧
      u.qps = s.qps ∧ u.tags = s.tags ∧ u.cmds = s.cmds ∧ u.fetchSeq = s.fetchSeq ∧ u.elog = s.elog ∧ u.elogSeq = s.elogSeq ∧
      u.facets = s.facets ∧ u.idx = s.idx ∧ u.mods = s.mods ∧ u.srch = s.srch ∧ u.flash = s.flash ∧ u.mem = s.mem ∧ u.side = s.side ∧
      u.serial = s.serial ∧ u.free = s.free ∧ u.pending = s.pending)
  unfold resend
  repeat' (first | (simp; done) | split | (dsimp only; split) | refine key _ _ _ ?_ ?_ |
    (dsimp only; refine key _ _ _ ?_ ?_) | intro t x h | (simp [h]; done))

@[simp] theorem resync_rest (l : Nat) (s : State) :
    (resync l s).brd = s.brd ∧ (resync l s).evr = s.evr ∧ (resync l s).fnc = s.fnc ∧ (resync l s).fuse = s.fuse ∧ (resync l s).fw = s.fw ∧
    (resync l s).lat = s.lat ∧ (resync l s).cfg = s.cfg ∧ (resync l s).hif = s.hif ∧ (resync l s).qps = s.qps ∧
    (resync l s).tags = s.tags ∧ (resync l s).cmds = s.cmds ∧ (resync l s).fetchSeq = s.fetchSeq ∧ (resync l s).elog = s.elog ∧
    (resync l s).elogSeq = s.elogSeq ∧ (resync l s).facets = s.facets ∧ (resync l s).idx = s.idx ∧ (resync l s).mods = s.mods ∧
    (resync l s).srch = s.srch ∧ (resync l s).flash = s.flash ∧ (resync l s).mem = s.mem ∧ (resync l s).side = s.side ∧
    (resync l s).serial = s.serial ∧ (resync l s).free = s.free ∧ (resync l s).pending = s.pending := by
  unfold resync
  repeat' (first | (simp; done) | split | (dsimp only; split))

@[simp] theorem addCredits_rest (l v n : Nat) (s : State) :
    (addCredits l v n s).brd = s.brd ∧ (addCredits l v n s).evr = s.evr ∧ (addCredits l v n s).fnc = s.fnc ∧
    (addCredits l v n s).fuse = s.fuse ∧ (addCredits l v n s).fw = s.fw ∧ (addCredits l v n s).lat = s.lat ∧
    (addCredits l v n s).cfg = s.cfg ∧ (addCredits l v n s).hif = s.hif ∧ (addCredits l v n s).qps = s.qps ∧
    (addCredits l v n s).tags = s.tags ∧ (addCredits l v n s).cmds = s.cmds ∧ (addCredits l v n s).fetchSeq = s.fetchSeq ∧
    (addCredits l v n s).elog = s.elog ∧ (addCredits l v n s).elogSeq = s.elogSeq ∧ (addCredits l v n s).facets = s.facets ∧
    (addCredits l v n s).idx = s.idx ∧ (addCredits l v n s).mods = s.mods ∧ (addCredits l v n s).srch = s.srch ∧
    (addCredits l v n s).flash = s.flash ∧ (addCredits l v n s).mem = s.mem ∧ (addCredits l v n s).side = s.side ∧
    (addCredits l v n s).serial = s.serial ∧ (addCredits l v n s).out = s.out ∧ (addCredits l v n s).free = s.free ∧
    (addCredits l v n s).pending = s.pending := by
  unfold addCredits
  repeat' (first | (simp; done) | split | (dsimp only; split))

@[simp] theorem deliver_rest (l : Nat) (b : Bytes) (s : State) :
    (deliver l b s).brd = s.brd ∧ (deliver l b s).evr = s.evr ∧ (deliver l b s).fnc = s.fnc ∧ (deliver l b s).fuse = s.fuse ∧
    (deliver l b s).fw = s.fw ∧ (deliver l b s).lat = s.lat ∧ (deliver l b s).cfg = s.cfg ∧ (deliver l b s).hif = s.hif ∧
    (deliver l b s).qps = s.qps ∧ (deliver l b s).tags = s.tags ∧ (deliver l b s).cmds = s.cmds ∧ (deliver l b s).fetchSeq = s.fetchSeq ∧
    (deliver l b s).elog = s.elog ∧ (deliver l b s).elogSeq = s.elogSeq ∧ (deliver l b s).facets = s.facets ∧
    (deliver l b s).idx = s.idx ∧ (deliver l b s).mods = s.mods ∧ (deliver l b s).srch = s.srch ∧ (deliver l b s).flash = s.flash ∧
    (deliver l b s).mem = s.mem ∧ (deliver l b s).side = s.side ∧ (deliver l b s).serial = s.serial ∧ (deliver l b s).out = s.out ∧
    (deliver l b s).free = s.free ∧ (deliver l b s).pending = s.pending := by
  unfold deliver
  repeat' (first | (simp; done) | split | (dsimp only; split))

@[simp] theorem sendNak_rest (l : Nat) (s : State) :
    (sendNak l s).brd = s.brd ∧ (sendNak l s).evr = s.evr ∧ (sendNak l s).fnc = s.fnc ∧ (sendNak l s).fuse = s.fuse ∧
    (sendNak l s).fw = s.fw ∧ (sendNak l s).lat = s.lat ∧ (sendNak l s).cfg = s.cfg ∧ (sendNak l s).hif = s.hif ∧
    (sendNak l s).qps = s.qps ∧ (sendNak l s).tags = s.tags ∧ (sendNak l s).cmds = s.cmds ∧ (sendNak l s).fetchSeq = s.fetchSeq ∧
    (sendNak l s).elog = s.elog ∧ (sendNak l s).elogSeq = s.elogSeq ∧ (sendNak l s).facets = s.facets ∧ (sendNak l s).idx = s.idx ∧
    (sendNak l s).mods = s.mods ∧ (sendNak l s).srch = s.srch ∧ (sendNak l s).flash = s.flash ∧ (sendNak l s).mem = s.mem ∧
    (sendNak l s).side = s.side ∧ (sendNak l s).serial = s.serial ∧ (sendNak l s).free = s.free ∧ (sendNak l s).pending = s.pending := by
  unfold sendNak
  repeat' (first | (simp; done) | split | (dsimp only; split))

@[simp] theorem takeFlit_rest (l : Nat) (b : Bytes) (s : State) :
    (takeFlit l b s).brd = s.brd ∧ (takeFlit l b s).evr = s.evr ∧ (takeFlit l b s).fnc = s.fnc ∧ (takeFlit l b s).fuse = s.fuse ∧
    (takeFlit l b s).fw = s.fw ∧ (takeFlit l b s).lat = s.lat ∧ (takeFlit l b s).cfg = s.cfg ∧ (takeFlit l b s).hif = s.hif ∧
    (takeFlit l b s).qps = s.qps ∧ (takeFlit l b s).tags = s.tags ∧ (takeFlit l b s).cmds = s.cmds ∧
    (takeFlit l b s).fetchSeq = s.fetchSeq ∧ (takeFlit l b s).elog = s.elog ∧ (takeFlit l b s).elogSeq = s.elogSeq ∧
    (takeFlit l b s).facets = s.facets ∧ (takeFlit l b s).idx = s.idx ∧ (takeFlit l b s).mods = s.mods ∧ (takeFlit l b s).srch = s.srch ∧
    (takeFlit l b s).flash = s.flash ∧ (takeFlit l b s).mem = s.mem ∧ (takeFlit l b s).side = s.side ∧
    (takeFlit l b s).serial = s.serial ∧ (takeFlit l b s).free = s.free ∧ (takeFlit l b s).pending = s.pending := by
  unfold takeFlit
  repeat' (first | (simp; done) | split | (dsimp only; split))

@[simp] theorem receiveFlit_rest (l : Nat) (b : Bytes) (s : State) :
    (receiveFlit l b s).brd = s.brd ∧ (receiveFlit l b s).evr = s.evr ∧ (receiveFlit l b s).fnc = s.fnc ∧
    (receiveFlit l b s).fuse = s.fuse ∧ (receiveFlit l b s).fw = s.fw ∧ (receiveFlit l b s).lat = s.lat ∧
    (receiveFlit l b s).cfg = s.cfg ∧ (receiveFlit l b s).hif = s.hif ∧ (receiveFlit l b s).qps = s.qps ∧
    (receiveFlit l b s).tags = s.tags ∧ (receiveFlit l b s).cmds = s.cmds ∧ (receiveFlit l b s).fetchSeq = s.fetchSeq ∧
    (receiveFlit l b s).elog = s.elog ∧ (receiveFlit l b s).elogSeq = s.elogSeq ∧ (receiveFlit l b s).facets = s.facets ∧
    (receiveFlit l b s).idx = s.idx ∧ (receiveFlit l b s).mods = s.mods ∧ (receiveFlit l b s).srch = s.srch ∧
    (receiveFlit l b s).flash = s.flash ∧ (receiveFlit l b s).mem = s.mem ∧ (receiveFlit l b s).side = s.side ∧
    (receiveFlit l b s).serial = s.serial ∧ (receiveFlit l b s).free = s.free ∧ (receiveFlit l b s).pending = s.pending := by
  unfold receiveFlit
  repeat' (first | (simp; done) | split | (dsimp only; split))

@[simp] theorem receiveNak_rest (l ack : Nat) (s : State) :
    (receiveNak l ack s).brd = s.brd ∧ (receiveNak l ack s).evr = s.evr ∧ (receiveNak l ack s).fnc = s.fnc ∧
    (receiveNak l ack s).fuse = s.fuse ∧ (receiveNak l ack s).fw = s.fw ∧ (receiveNak l ack s).lat = s.lat ∧
    (receiveNak l ack s).cfg = s.cfg ∧ (receiveNak l ack s).hif = s.hif ∧ (receiveNak l ack s).qps = s.qps ∧
    (receiveNak l ack s).tags = s.tags ∧ (receiveNak l ack s).cmds = s.cmds ∧ (receiveNak l ack s).fetchSeq = s.fetchSeq ∧
    (receiveNak l ack s).elog = s.elog ∧ (receiveNak l ack s).elogSeq = s.elogSeq ∧ (receiveNak l ack s).facets = s.facets ∧
    (receiveNak l ack s).idx = s.idx ∧ (receiveNak l ack s).mods = s.mods ∧ (receiveNak l ack s).srch = s.srch ∧
    (receiveNak l ack s).flash = s.flash ∧ (receiveNak l ack s).mem = s.mem ∧ (receiveNak l ack s).side = s.side ∧
    (receiveNak l ack s).serial = s.serial ∧ (receiveNak l ack s).free = s.free ∧ (receiveNak l ack s).pending = s.pending := by
  unfold receiveNak
  repeat' (first | (simp; done) | split | (dsimp only; split))

@[simp] theorem popDelivered_rest (l v : Nat) (s : State) :
    (popDelivered l v s).brd = s.brd ∧ (popDelivered l v s).evr = s.evr ∧ (popDelivered l v s).fnc = s.fnc ∧
    (popDelivered l v s).fuse = s.fuse ∧ (popDelivered l v s).fw = s.fw ∧ (popDelivered l v s).lat = s.lat ∧
    (popDelivered l v s).cfg = s.cfg ∧ (popDelivered l v s).hif = s.hif ∧ (popDelivered l v s).qps = s.qps ∧
    (popDelivered l v s).tags = s.tags ∧ (popDelivered l v s).cmds = s.cmds ∧ (popDelivered l v s).fetchSeq = s.fetchSeq ∧
    (popDelivered l v s).elog = s.elog ∧ (popDelivered l v s).elogSeq = s.elogSeq ∧ (popDelivered l v s).facets = s.facets ∧
    (popDelivered l v s).idx = s.idx ∧ (popDelivered l v s).mods = s.mods ∧ (popDelivered l v s).srch = s.srch ∧
    (popDelivered l v s).flash = s.flash ∧ (popDelivered l v s).mem = s.mem ∧ (popDelivered l v s).side = s.side ∧
    (popDelivered l v s).serial = s.serial ∧ (popDelivered l v s).out = s.out ∧ (popDelivered l v s).free = s.free ∧
    (popDelivered l v s).pending = s.pending := by
  unfold popDelivered
  repeat' (first | (simp; done) | split | (dsimp only; split))

@[simp] theorem loseChild_rest (q l : Nat) (s : State) :
    (loseChild q l s).brd = s.brd ∧ (loseChild q l s).evr = s.evr ∧ (loseChild q l s).fnc = s.fnc ∧ (loseChild q l s).fuse = s.fuse ∧
    (loseChild q l s).fw = s.fw ∧ (loseChild q l s).lat = s.lat ∧ (loseChild q l s).cfg = s.cfg ∧ (loseChild q l s).hif = s.hif ∧
    (loseChild q l s).qps = s.qps ∧ (loseChild q l s).tags = s.tags ∧ (loseChild q l s).cmds = s.cmds ∧
    (loseChild q l s).fetchSeq = s.fetchSeq ∧ (loseChild q l s).elog = s.elog ∧ (loseChild q l s).elogSeq = s.elogSeq ∧
    (loseChild q l s).idx = s.idx ∧ (loseChild q l s).mods = s.mods ∧ (loseChild q l s).srch = s.srch ∧
    (loseChild q l s).flash = s.flash ∧ (loseChild q l s).mem = s.mem ∧ (loseChild q l s).side = s.side ∧
    (loseChild q l s).serial = s.serial ∧ (loseChild q l s).out = s.out ∧ (loseChild q l s).free = s.free ∧
    (loseChild q l s).pending = s.pending := by
  unfold loseChild
  repeat' (first | (simp; done) | split | (dsimp only; split))

@[simp] theorem dropChild_rest (d : DomQ) (l : Nat) (s : State) :
    (dropChild d l s).brd = s.brd ∧ (dropChild d l s).evr = s.evr ∧ (dropChild d l s).fnc = s.fnc ∧ (dropChild d l s).fuse = s.fuse ∧
    (dropChild d l s).fw = s.fw ∧ (dropChild d l s).lat = s.lat ∧ (dropChild d l s).cfg = s.cfg ∧ (dropChild d l s).hif = s.hif ∧
    (dropChild d l s).qps = s.qps ∧ (dropChild d l s).tags = s.tags ∧ (dropChild d l s).cmds = s.cmds ∧
    (dropChild d l s).fetchSeq = s.fetchSeq ∧ (dropChild d l s).elog = s.elog ∧ (dropChild d l s).elogSeq = s.elogSeq ∧
    (dropChild d l s).idx = s.idx ∧ (dropChild d l s).mods = s.mods ∧ (dropChild d l s).srch = s.srch ∧
    (dropChild d l s).flash = s.flash ∧ (dropChild d l s).mem = s.mem ∧ (dropChild d l s).side = s.side ∧
    (dropChild d l s).serial = s.serial ∧ (dropChild d l s).pending = s.pending := by
  unfold dropChild
  repeat' (first | (simp; done) | split | (dsimp only; split))

@[simp] theorem castSent_rest (d : DomQ) (l : Nat) (s : State) :
    (castSent d l s).brd = s.brd ∧ (castSent d l s).evr = s.evr ∧ (castSent d l s).fnc = s.fnc ∧ (castSent d l s).fuse = s.fuse ∧
    (castSent d l s).fw = s.fw ∧ (castSent d l s).lat = s.lat ∧ (castSent d l s).cfg = s.cfg ∧ (castSent d l s).hif = s.hif ∧
    (castSent d l s).qps = s.qps ∧ (castSent d l s).tags = s.tags ∧ (castSent d l s).cmds = s.cmds ∧
    (castSent d l s).fetchSeq = s.fetchSeq ∧ (castSent d l s).elog = s.elog ∧ (castSent d l s).elogSeq = s.elogSeq ∧
    (castSent d l s).facets = s.facets ∧ (castSent d l s).idx = s.idx ∧ (castSent d l s).mods = s.mods ∧ (castSent d l s).srch = s.srch ∧
    (castSent d l s).flash = s.flash ∧ (castSent d l s).mem = s.mem ∧ (castSent d l s).side = s.side ∧
    (castSent d l s).serial = s.serial ∧ (castSent d l s).out = s.out ∧ (castSent d l s).free = s.free ∧
    (castSent d l s).pending = s.pending := by
  unfold castSent
  repeat' (first | (simp; done) | split | (dsimp only; split))

@[simp] theorem castTo_rest (d : DomQ) (s : State) :
    (castTo d s).brd = s.brd ∧ (castTo d s).evr = s.evr ∧ (castTo d s).fnc = s.fnc ∧ (castTo d s).fuse = s.fuse ∧ (castTo d s).fw = s.fw ∧
    (castTo d s).lat = s.lat ∧ (castTo d s).cfg = s.cfg ∧ (castTo d s).hif = s.hif ∧ (castTo d s).qps = s.qps ∧
    (castTo d s).tags = s.tags ∧ (castTo d s).cmds = s.cmds ∧ (castTo d s).fetchSeq = s.fetchSeq ∧ (castTo d s).elog = s.elog ∧
    (castTo d s).elogSeq = s.elogSeq ∧ (castTo d s).idx = s.idx ∧ (castTo d s).mods = s.mods ∧ (castTo d s).srch = s.srch ∧
    (castTo d s).flash = s.flash ∧ (castTo d s).mem = s.mem ∧ (castTo d s).side = s.side ∧ (castTo d s).serial = s.serial ∧
    (castTo d s).pending = s.pending := by
  have key := @foldl_ind (fun u : State => u.brd = s.brd ∧ u.evr = s.evr ∧ u.fnc = s.fnc ∧ u.fuse = s.fuse ∧ u.fw = s.fw ∧ u.lat = s.lat ∧ u.cfg = s.cfg ∧ u.hif = s.hif ∧
      u.qps = s.qps ∧ u.tags = s.tags ∧ u.cmds = s.cmds ∧ u.fetchSeq = s.fetchSeq ∧ u.elog = s.elog ∧ u.elogSeq = s.elogSeq ∧
      u.idx = s.idx ∧ u.mods = s.mods ∧ u.srch = s.srch ∧ u.flash = s.flash ∧ u.mem = s.mem ∧ u.side = s.side ∧ u.serial = s.serial ∧
      u.pending = s.pending)
  unfold castTo
  repeat' (first | (simp; done) | split | (dsimp only; split) | refine key _ _ _ ?_ ?_ |
    (dsimp only; refine key _ _ _ ?_ ?_) | intro t x h | (simp [h]; done))

@[simp] theorem endDomain_rest (d : DomQ) (s : State) :
    (endDomain d s).brd = s.brd ∧ (endDomain d s).fnc = s.fnc ∧ (endDomain d s).fuse = s.fuse ∧ (endDomain d s).fw = s.fw ∧
    (endDomain d s).lat = s.lat ∧ (endDomain d s).cfg = s.cfg ∧ (endDomain d s).fetchSeq = s.fetchSeq ∧
    (endDomain d s).facets = s.facets ∧ (endDomain d s).idx = s.idx ∧ (endDomain d s).mods = s.mods ∧ (endDomain d s).srch = s.srch ∧
    (endDomain d s).flash = s.flash ∧ (endDomain d s).chd = s.chd ∧ (endDomain d s).side = s.side ∧ (endDomain d s).serial = s.serial ∧
    (endDomain d s).free = s.free ∧ (endDomain d s).pending = s.pending := by
  have key := @foldl_ind (fun u : State => u.brd = s.brd ∧ u.fnc = s.fnc ∧ u.fuse = s.fuse ∧ u.fw = s.fw ∧ u.lat = s.lat ∧ u.cfg = s.cfg ∧ u.fetchSeq = s.fetchSeq ∧
      u.facets = s.facets ∧ u.idx = s.idx ∧ u.mods = s.mods ∧ u.srch = s.srch ∧ u.flash = s.flash ∧ u.chd = s.chd ∧ u.side = s.side ∧
      u.serial = s.serial ∧ u.free = s.free ∧ u.pending = s.pending)
  unfold endDomain
  repeat' (first | (simp; done) | split | (dsimp only; split) | refine key _ _ _ ?_ ?_ |
    (dsimp only; refine key _ _ _ ?_ ?_) | intro t x h | (simp [h]; done))

@[simp] theorem tryGather_rest (q : Nat) (s : State) :
    (tryGather q s).brd = s.brd ∧ (tryGather q s).fnc = s.fnc ∧ (tryGather q s).fuse = s.fuse ∧ (tryGather q s).fw = s.fw ∧
    (tryGather q s).lat = s.lat ∧ (tryGather q s).cfg = s.cfg ∧ (tryGather q s).fetchSeq = s.fetchSeq ∧
    (tryGather q s).facets = s.facets ∧ (tryGather q s).idx = s.idx ∧ (tryGather q s).mods = s.mods ∧ (tryGather q s).srch = s.srch ∧
    (tryGather q s).flash = s.flash ∧ (tryGather q s).side = s.side ∧ (tryGather q s).serial = s.serial ∧
    (tryGather q s).pending = s.pending := by
  have key := @foldl_ind (fun u : State => u.brd = s.brd ∧ u.fnc = s.fnc ∧ u.fuse = s.fuse ∧ u.fw = s.fw ∧ u.lat = s.lat ∧ u.cfg = s.cfg ∧ u.fetchSeq = s.fetchSeq ∧
      u.facets = s.facets ∧ u.idx = s.idx ∧ u.mods = s.mods ∧ u.srch = s.srch ∧ u.flash = s.flash ∧ u.side = s.side ∧ u.serial = s.serial ∧
      u.pending = s.pending)
  unfold tryGather
  repeat' (first | (simp; done) | split | (dsimp only; split) | refine key _ _ _ ?_ ?_ |
    (dsimp only; refine key _ _ _ ?_ ?_) | intro t x h | (simp [h]; done))

@[simp] theorem beginDomain_rest (c : Cmd) (s : State) :
    (beginDomain c s).brd = s.brd ∧ (beginDomain c s).evr = s.evr ∧ (beginDomain c s).fnc = s.fnc ∧ (beginDomain c s).fuse = s.fuse ∧
    (beginDomain c s).fw = s.fw ∧ (beginDomain c s).lat = s.lat ∧ (beginDomain c s).cfg = s.cfg ∧ (beginDomain c s).hif = s.hif ∧
    (beginDomain c s).qps = s.qps ∧ (beginDomain c s).fetchSeq = s.fetchSeq ∧ (beginDomain c s).elog = s.elog ∧
    (beginDomain c s).elogSeq = s.elogSeq ∧ (beginDomain c s).idx = s.idx ∧ (beginDomain c s).mods = s.mods ∧
    (beginDomain c s).srch = s.srch ∧ (beginDomain c s).flash = s.flash ∧ (beginDomain c s).mem = s.mem ∧
    (beginDomain c s).side = s.side ∧ (beginDomain c s).serial = s.serial ∧ (beginDomain c s).pending = s.pending := by
  unfold beginDomain
  repeat' (first | (simp; done) | split | (dsimp only; split))

@[simp] theorem receiveCast_rest (l : Nat) (c : Cast) (s0 : State) :
    (receiveCast l c s0).brd = s0.brd ∧ (receiveCast l c s0).fnc = s0.fnc ∧ (receiveCast l c s0).fuse = s0.fuse ∧
    (receiveCast l c s0).fw = s0.fw ∧ (receiveCast l c s0).lat = s0.lat ∧ (receiveCast l c s0).cfg = s0.cfg ∧
    (receiveCast l c s0).fetchSeq = s0.fetchSeq ∧ (receiveCast l c s0).idx = s0.idx ∧ (receiveCast l c s0).mods = s0.mods ∧
    (receiveCast l c s0).srch = s0.srch ∧ (receiveCast l c s0).flash = s0.flash ∧ (receiveCast l c s0).side = s0.side ∧
    (receiveCast l c s0).serial = s0.serial ∧ (receiveCast l c s0).pending = s0.pending := by
  unfold receiveCast
  repeat' (first | (simp; done) | split | (dsimp only; split))

@[simp] theorem receiveContrib_rest (l : Nat) (c : Contrib) (s0 : State) :
    (receiveContrib l c s0).brd = s0.brd ∧ (receiveContrib l c s0).fnc = s0.fnc ∧ (receiveContrib l c s0).fuse = s0.fuse ∧
    (receiveContrib l c s0).fw = s0.fw ∧ (receiveContrib l c s0).lat = s0.lat ∧ (receiveContrib l c s0).cfg = s0.cfg ∧
    (receiveContrib l c s0).fetchSeq = s0.fetchSeq ∧ (receiveContrib l c s0).idx = s0.idx ∧ (receiveContrib l c s0).mods = s0.mods ∧
    (receiveContrib l c s0).srch = s0.srch ∧ (receiveContrib l c s0).flash = s0.flash ∧ (receiveContrib l c s0).side = s0.side ∧
    (receiveContrib l c s0).serial = s0.serial ∧ (receiveContrib l c s0).pending = s0.pending := by
  unfold receiveContrib
  repeat' (first | (simp; done) | split | (dsimp only; split))

@[simp] theorem receiveGap_rest (q : Nat) (s : State) :
    (receiveGap q s).brd = s.brd ∧ (receiveGap q s).evr = s.evr ∧ (receiveGap q s).fnc = s.fnc ∧ (receiveGap q s).fuse = s.fuse ∧
    (receiveGap q s).fw = s.fw ∧ (receiveGap q s).lat = s.lat ∧ (receiveGap q s).cfg = s.cfg ∧ (receiveGap q s).hif = s.hif ∧
    (receiveGap q s).qps = s.qps ∧ (receiveGap q s).tags = s.tags ∧ (receiveGap q s).cmds = s.cmds ∧
    (receiveGap q s).fetchSeq = s.fetchSeq ∧ (receiveGap q s).elog = s.elog ∧ (receiveGap q s).elogSeq = s.elogSeq ∧
    (receiveGap q s).facets = s.facets ∧ (receiveGap q s).idx = s.idx ∧ (receiveGap q s).mods = s.mods ∧ (receiveGap q s).srch = s.srch ∧
    (receiveGap q s).flash = s.flash ∧ (receiveGap q s).mem = s.mem ∧ (receiveGap q s).side = s.side ∧
    (receiveGap q s).serial = s.serial ∧ (receiveGap q s).out = s.out ∧ (receiveGap q s).free = s.free ∧
    (receiveGap q s).pending = s.pending := by
  unfold receiveGap
  repeat' (first | (simp; done) | split | (dsimp only; split))

@[simp] theorem slackExpiry_rest (q l : Nat) (s : State) :
    (slackExpiry q l s).brd = s.brd ∧ (slackExpiry q l s).fnc = s.fnc ∧ (slackExpiry q l s).fuse = s.fuse ∧
    (slackExpiry q l s).fw = s.fw ∧ (slackExpiry q l s).lat = s.lat ∧ (slackExpiry q l s).cfg = s.cfg ∧
    (slackExpiry q l s).fetchSeq = s.fetchSeq ∧ (slackExpiry q l s).idx = s.idx ∧ (slackExpiry q l s).mods = s.mods ∧
    (slackExpiry q l s).srch = s.srch ∧ (slackExpiry q l s).flash = s.flash ∧ (slackExpiry q l s).side = s.side ∧
    (slackExpiry q l s).serial = s.serial ∧ (slackExpiry q l s).pending = s.pending := by
  unfold slackExpiry
  repeat' (first | (simp; done) | split | (dsimp only; split))

@[simp] theorem endOwn_rest (d : DomQ) (s : State) :
    (endOwn d s).brd = s.brd ∧ (endOwn d s).evr = s.evr ∧ (endOwn d s).fnc = s.fnc ∧ (endOwn d s).fuse = s.fuse ∧ (endOwn d s).fw = s.fw ∧
    (endOwn d s).lat = s.lat ∧ (endOwn d s).cfg = s.cfg ∧ (endOwn d s).hif = s.hif ∧ (endOwn d s).qps = s.qps ∧
    (endOwn d s).tags = s.tags ∧ (endOwn d s).cmds = s.cmds ∧ (endOwn d s).fetchSeq = s.fetchSeq ∧ (endOwn d s).elog = s.elog ∧
    (endOwn d s).elogSeq = s.elogSeq ∧ (endOwn d s).idx = s.idx ∧ (endOwn d s).mods = s.mods ∧ (endOwn d s).side = s.side ∧
    (endOwn d s).serial = s.serial ∧ (endOwn d s).out = s.out ∧ (endOwn d s).pending = s.pending := by
  have key := @foldl_ind (fun u : State => u.brd = s.brd ∧ u.evr = s.evr ∧ u.fnc = s.fnc ∧ u.fuse = s.fuse ∧ u.fw = s.fw ∧ u.lat = s.lat ∧ u.cfg = s.cfg ∧ u.hif = s.hif ∧
      u.qps = s.qps ∧ u.tags = s.tags ∧ u.cmds = s.cmds ∧ u.fetchSeq = s.fetchSeq ∧ u.elog = s.elog ∧ u.elogSeq = s.elogSeq ∧
      u.idx = s.idx ∧ u.mods = s.mods ∧ u.side = s.side ∧ u.serial = s.serial ∧ u.out = s.out ∧ u.pending = s.pending)
  unfold endOwn
  repeat' (first | (simp; done) | split | (dsimp only; split) | refine key _ _ _ ?_ ?_ |
    (dsimp only; refine key _ _ _ ?_ ?_) | intro t x h | (simp [h]; done))

@[simp] theorem gatherCutoff_rest (q : Nat) (s : State) :
    (gatherCutoff q s).brd = s.brd ∧ (gatherCutoff q s).fnc = s.fnc ∧ (gatherCutoff q s).fuse = s.fuse ∧ (gatherCutoff q s).fw = s.fw ∧
    (gatherCutoff q s).lat = s.lat ∧ (gatherCutoff q s).cfg = s.cfg ∧ (gatherCutoff q s).fetchSeq = s.fetchSeq ∧
    (gatherCutoff q s).idx = s.idx ∧ (gatherCutoff q s).mods = s.mods ∧ (gatherCutoff q s).side = s.side ∧
    (gatherCutoff q s).serial = s.serial ∧ (gatherCutoff q s).pending = s.pending := by
  have key := @foldl_ind (fun u : State => u.brd = s.brd ∧ u.fnc = s.fnc ∧ u.fuse = s.fuse ∧ u.fw = s.fw ∧ u.lat = s.lat ∧ u.cfg = s.cfg ∧ u.fetchSeq = s.fetchSeq ∧
      u.idx = s.idx ∧ u.mods = s.mods ∧ u.side = s.side ∧ u.serial = s.serial ∧ u.pending = s.pending)
  unfold gatherCutoff
  repeat' (first | (simp; done) | split | (dsimp only; split) | refine key _ _ _ ?_ ?_ |
    (dsimp only; refine key _ _ _ ?_ ?_) | intro t x h | (simp [h]; done))

@[simp] theorem chordProgress_rest (s : State) :
    (chordProgress s).brd = s.brd ∧ (chordProgress s).fnc = s.fnc ∧ (chordProgress s).fuse = s.fuse ∧ (chordProgress s).fw = s.fw ∧
    (chordProgress s).lat = s.lat ∧ (chordProgress s).cfg = s.cfg ∧ (chordProgress s).fetchSeq = s.fetchSeq ∧
    (chordProgress s).idx = s.idx ∧ (chordProgress s).mods = s.mods ∧ (chordProgress s).srch = s.srch ∧
    (chordProgress s).flash = s.flash ∧ (chordProgress s).side = s.side ∧ (chordProgress s).serial = s.serial ∧
    (chordProgress s).pending = s.pending := by
  have key := @foldl_ind (fun u : State => u.brd = s.brd ∧ u.fnc = s.fnc ∧ u.fuse = s.fuse ∧ u.fw = s.fw ∧ u.lat = s.lat ∧ u.cfg = s.cfg ∧ u.fetchSeq = s.fetchSeq ∧
      u.idx = s.idx ∧ u.mods = s.mods ∧ u.srch = s.srch ∧ u.flash = s.flash ∧ u.side = s.side ∧ u.serial = s.serial ∧
      u.pending = s.pending)
  unfold chordProgress
  repeat' (first | (simp; done) | split | (dsimp only; split) | refine key _ _ _ ?_ ?_ |
    (dsimp only; refine key _ _ _ ?_ ?_) | intro t x h | (simp [h]; done))

@[simp] theorem sendTurn_rest (s : State) :
    (sendTurn s).brd = s.brd ∧ (sendTurn s).evr = s.evr ∧ (sendTurn s).fnc = s.fnc ∧ (sendTurn s).fuse = s.fuse ∧ (sendTurn s).fw = s.fw ∧
    (sendTurn s).lat = s.lat ∧ (sendTurn s).cfg = s.cfg ∧ (sendTurn s).hif = s.hif ∧ (sendTurn s).qps = s.qps ∧
    (sendTurn s).tags = s.tags ∧ (sendTurn s).cmds = s.cmds ∧ (sendTurn s).fetchSeq = s.fetchSeq ∧ (sendTurn s).elog = s.elog ∧
    (sendTurn s).elogSeq = s.elogSeq ∧ (sendTurn s).facets = s.facets ∧ (sendTurn s).idx = s.idx ∧ (sendTurn s).mods = s.mods ∧
    (sendTurn s).srch = s.srch ∧ (sendTurn s).flash = s.flash ∧ (sendTurn s).mem = s.mem ∧ (sendTurn s).side = s.side ∧
    (sendTurn s).serial = s.serial ∧ (sendTurn s).pending = s.pending := by
  have key := @foldl_ind (fun u : State => u.brd = s.brd ∧ u.evr = s.evr ∧ u.fnc = s.fnc ∧ u.fuse = s.fuse ∧ u.fw = s.fw ∧ u.lat = s.lat ∧ u.cfg = s.cfg ∧ u.hif = s.hif ∧
      u.qps = s.qps ∧ u.tags = s.tags ∧ u.cmds = s.cmds ∧ u.fetchSeq = s.fetchSeq ∧ u.elog = s.elog ∧ u.elogSeq = s.elogSeq ∧
      u.facets = s.facets ∧ u.idx = s.idx ∧ u.mods = s.mods ∧ u.srch = s.srch ∧ u.flash = s.flash ∧ u.mem = s.mem ∧ u.side = s.side ∧
      u.serial = s.serial ∧ u.pending = s.pending)
  unfold sendTurn
  repeat' (first | (simp; done) | split | (dsimp only; split) | refine key _ _ _ ?_ ?_ |
    (dsimp only; refine key _ _ _ ?_ ?_) | intro t x h | (simp [h]; done))

@[simp] theorem receiveTurn_rest (turn : Nat) (s0 : State) :
    (receiveTurn turn s0).brd = s0.brd ∧ (receiveTurn turn s0).evr = s0.evr ∧ (receiveTurn turn s0).fnc = s0.fnc ∧
    (receiveTurn turn s0).fuse = s0.fuse ∧ (receiveTurn turn s0).fw = s0.fw ∧ (receiveTurn turn s0).lat = s0.lat ∧
    (receiveTurn turn s0).cfg = s0.cfg ∧ (receiveTurn turn s0).hif = s0.hif ∧ (receiveTurn turn s0).qps = s0.qps ∧
    (receiveTurn turn s0).tags = s0.tags ∧ (receiveTurn turn s0).cmds = s0.cmds ∧ (receiveTurn turn s0).fetchSeq = s0.fetchSeq ∧
    (receiveTurn turn s0).elog = s0.elog ∧ (receiveTurn turn s0).elogSeq = s0.elogSeq ∧ (receiveTurn turn s0).facets = s0.facets ∧
    (receiveTurn turn s0).idx = s0.idx ∧ (receiveTurn turn s0).mods = s0.mods ∧ (receiveTurn turn s0).flash = s0.flash ∧
    (receiveTurn turn s0).mem = s0.mem ∧ (receiveTurn turn s0).side = s0.side ∧ (receiveTurn turn s0).serial = s0.serial ∧
    (receiveTurn turn s0).pending = s0.pending := by
  unfold receiveTurn
  repeat' (first | (simp; done) | split | (dsimp only; split))

@[simp] theorem linkGoesDown_rest (l cause : Nat) (s : State) :
    (linkGoesDown l cause s).brd = s.brd ∧ (linkGoesDown l cause s).fnc = s.fnc ∧ (linkGoesDown l cause s).fuse = s.fuse ∧
    (linkGoesDown l cause s).fw = s.fw ∧ (linkGoesDown l cause s).lat = s.lat ∧ (linkGoesDown l cause s).cfg = s.cfg ∧
    (linkGoesDown l cause s).fetchSeq = s.fetchSeq ∧ (linkGoesDown l cause s).idx = s.idx ∧ (linkGoesDown l cause s).mods = s.mods ∧
    (linkGoesDown l cause s).srch = s.srch ∧ (linkGoesDown l cause s).flash = s.flash ∧ (linkGoesDown l cause s).side = s.side ∧
    (linkGoesDown l cause s).serial = s.serial ∧ (linkGoesDown l cause s).pending = s.pending := by
  have key := @foldl_ind (fun u : State => u.brd = s.brd ∧ u.fnc = s.fnc ∧ u.fuse = s.fuse ∧ u.fw = s.fw ∧ u.lat = s.lat ∧ u.cfg = s.cfg ∧ u.fetchSeq = s.fetchSeq ∧
      u.idx = s.idx ∧ u.mods = s.mods ∧ u.srch = s.srch ∧ u.flash = s.flash ∧ u.side = s.side ∧ u.serial = s.serial ∧
      u.pending = s.pending)
  unfold linkGoesDown
  repeat' (first | (simp; done) | split | (dsimp only; split) | refine key _ _ _ ?_ ?_ |
    (dsimp only; refine key _ _ _ ?_ ?_) | intro t x h | (simp [h]; done))

@[simp] theorem chordDown_rest (l cause : Nat) (s : State) :
    (chordDown l cause s).brd = s.brd ∧ (chordDown l cause s).fnc = s.fnc ∧ (chordDown l cause s).fuse = s.fuse ∧
    (chordDown l cause s).fw = s.fw ∧ (chordDown l cause s).lat = s.lat ∧ (chordDown l cause s).cfg = s.cfg ∧
    (chordDown l cause s).fetchSeq = s.fetchSeq ∧ (chordDown l cause s).idx = s.idx ∧ (chordDown l cause s).mods = s.mods ∧
    (chordDown l cause s).srch = s.srch ∧ (chordDown l cause s).flash = s.flash ∧ (chordDown l cause s).side = s.side ∧
    (chordDown l cause s).serial = s.serial ∧ (chordDown l cause s).pending = s.pending := by
  unfold chordDown
  repeat' (first | (simp; done) | split | (dsimp only; split))

@[simp] theorem laneDrop_rest (l : Nat) (errs : List Nat) (s : State) :
    (laneDrop l errs s).brd = s.brd ∧ (laneDrop l errs s).fnc = s.fnc ∧ (laneDrop l errs s).fuse = s.fuse ∧
    (laneDrop l errs s).fw = s.fw ∧ (laneDrop l errs s).lat = s.lat ∧ (laneDrop l errs s).cfg = s.cfg ∧
    (laneDrop l errs s).fetchSeq = s.fetchSeq ∧ (laneDrop l errs s).idx = s.idx ∧ (laneDrop l errs s).mods = s.mods ∧
    (laneDrop l errs s).srch = s.srch ∧ (laneDrop l errs s).flash = s.flash ∧ (laneDrop l errs s).side = s.side ∧
    (laneDrop l errs s).serial = s.serial ∧ (laneDrop l errs s).pending = s.pending := by
  have key := @foldl_ind (fun u : State => u.brd = s.brd ∧ u.fnc = s.fnc ∧ u.fuse = s.fuse ∧ u.fw = s.fw ∧ u.lat = s.lat ∧ u.cfg = s.cfg ∧ u.fetchSeq = s.fetchSeq ∧
      u.idx = s.idx ∧ u.mods = s.mods ∧ u.srch = s.srch ∧ u.flash = s.flash ∧ u.side = s.side ∧ u.serial = s.serial ∧
      u.pending = s.pending)
  unfold laneDrop
  repeat' (first | (simp; done) | split | (dsimp only; split) | refine key _ _ _ ?_ ?_ |
    (dsimp only; refine key _ _ _ ?_ ?_) | intro t x h | (simp [h]; done))

@[simp] theorem retrain_rest (l : Nat) (s : State) :
    (retrain l s).brd = s.brd ∧ (retrain l s).evr = s.evr ∧ (retrain l s).fnc = s.fnc ∧ (retrain l s).fuse = s.fuse ∧
    (retrain l s).fw = s.fw ∧ (retrain l s).lat = s.lat ∧ (retrain l s).cfg = s.cfg ∧ (retrain l s).hif = s.hif ∧
    (retrain l s).qps = s.qps ∧ (retrain l s).tags = s.tags ∧ (retrain l s).cmds = s.cmds ∧ (retrain l s).fetchSeq = s.fetchSeq ∧
    (retrain l s).elog = s.elog ∧ (retrain l s).elogSeq = s.elogSeq ∧ (retrain l s).facets = s.facets ∧ (retrain l s).idx = s.idx ∧
    (retrain l s).mods = s.mods ∧ (retrain l s).srch = s.srch ∧ (retrain l s).flash = s.flash ∧ (retrain l s).mem = s.mem ∧
    (retrain l s).side = s.side ∧ (retrain l s).serial = s.serial ∧ (retrain l s).out = s.out ∧ (retrain l s).free = s.free ∧
    (retrain l s).pending = s.pending := by
  unfold retrain
  repeat' (first | (simp; done) | split | (dsimp only; split))

@[simp] theorem trainingComplete_rest (l lanes : Nat) (s : State) :
    (trainingComplete l lanes s).brd = s.brd ∧ (trainingComplete l lanes s).evr = s.evr ∧ (trainingComplete l lanes s).fnc = s.fnc ∧
    (trainingComplete l lanes s).fuse = s.fuse ∧ (trainingComplete l lanes s).fw = s.fw ∧ (trainingComplete l lanes s).lat = s.lat ∧
    (trainingComplete l lanes s).cfg = s.cfg ∧ (trainingComplete l lanes s).hif = s.hif ∧ (trainingComplete l lanes s).qps = s.qps ∧
    (trainingComplete l lanes s).tags = s.tags ∧ (trainingComplete l lanes s).cmds = s.cmds ∧
    (trainingComplete l lanes s).fetchSeq = s.fetchSeq ∧ (trainingComplete l lanes s).elog = s.elog ∧
    (trainingComplete l lanes s).elogSeq = s.elogSeq ∧ (trainingComplete l lanes s).facets = s.facets ∧
    (trainingComplete l lanes s).idx = s.idx ∧ (trainingComplete l lanes s).mods = s.mods ∧ (trainingComplete l lanes s).srch = s.srch ∧
    (trainingComplete l lanes s).flash = s.flash ∧ (trainingComplete l lanes s).mem = s.mem ∧ (trainingComplete l lanes s).side = s.side ∧
    (trainingComplete l lanes s).serial = s.serial ∧ (trainingComplete l lanes s).pending = s.pending := by
  unfold trainingComplete
  repeat' (first | (simp; done) | split | (dsimp only; split))

@[simp] theorem dropIndex_rest (f slot tag : Nat) (s : State) :
    (dropIndex f slot tag s).brd = s.brd ∧ (dropIndex f slot tag s).evr = s.evr ∧ (dropIndex f slot tag s).fnc = s.fnc ∧
    (dropIndex f slot tag s).fuse = s.fuse ∧ (dropIndex f slot tag s).fw = s.fw ∧ (dropIndex f slot tag s).lat = s.lat ∧
    (dropIndex f slot tag s).cfg = s.cfg ∧ (dropIndex f slot tag s).fetchSeq = s.fetchSeq ∧ (dropIndex f slot tag s).side = s.side ∧
    (dropIndex f slot tag s).serial = s.serial ∧ (dropIndex f slot tag s).pending = s.pending := by
  unfold dropIndex
  repeat' (first | (simp; done) | split | (dsimp only; split))

@[simp] theorem removeIndex_rest (ix : Index) (tag : Nat) (s : State) :
    (removeIndex ix tag s).brd = s.brd ∧ (removeIndex ix tag s).evr = s.evr ∧ (removeIndex ix tag s).fnc = s.fnc ∧
    (removeIndex ix tag s).fuse = s.fuse ∧ (removeIndex ix tag s).fw = s.fw ∧ (removeIndex ix tag s).lat = s.lat ∧
    (removeIndex ix tag s).cfg = s.cfg ∧ (removeIndex ix tag s).fetchSeq = s.fetchSeq ∧ (removeIndex ix tag s).mods = s.mods ∧
    (removeIndex ix tag s).chd = s.chd ∧ (removeIndex ix tag s).side = s.side ∧ (removeIndex ix tag s).serial = s.serial ∧
    (removeIndex ix tag s).pending = s.pending := by
  unfold removeIndex
  repeat' (first | (simp; done) | split | (dsimp only; split))

@[simp] theorem dropProgress_rest (s : State) :
    (dropProgress s).brd = s.brd ∧ (dropProgress s).evr = s.evr ∧ (dropProgress s).fnc = s.fnc ∧ (dropProgress s).fuse = s.fuse ∧
    (dropProgress s).fw = s.fw ∧ (dropProgress s).lat = s.lat ∧ (dropProgress s).cfg = s.cfg ∧ (dropProgress s).fetchSeq = s.fetchSeq ∧
    (dropProgress s).mods = s.mods ∧ (dropProgress s).chd = s.chd ∧ (dropProgress s).side = s.side ∧ (dropProgress s).serial = s.serial ∧
    (dropProgress s).pending = s.pending := by
  have key := @foldl_ind (fun u : State => u.brd = s.brd ∧ u.evr = s.evr ∧ u.fnc = s.fnc ∧ u.fuse = s.fuse ∧ u.fw = s.fw ∧ u.lat = s.lat ∧ u.cfg = s.cfg ∧
      u.fetchSeq = s.fetchSeq ∧ u.mods = s.mods ∧ u.chd = s.chd ∧ u.side = s.side ∧ u.serial = s.serial ∧ u.pending = s.pending)
  unfold dropProgress
  repeat' (first | (simp; done) | split | (dsimp only; split) | refine key _ _ _ ?_ ?_ |
    (dsimp only; refine key _ _ _ ?_ ?_) | intro t x h | (simp [h]; done))

@[simp] theorem startDrops_rest (s : State) :
    (startDrops s).brd = s.brd ∧ (startDrops s).evr = s.evr ∧ (startDrops s).fnc = s.fnc ∧ (startDrops s).fuse = s.fuse ∧
    (startDrops s).fw = s.fw ∧ (startDrops s).lat = s.lat ∧ (startDrops s).cfg = s.cfg ∧ (startDrops s).fetchSeq = s.fetchSeq ∧
    (startDrops s).side = s.side ∧ (startDrops s).serial = s.serial ∧ (startDrops s).pending = s.pending := by
  have key := @foldl_ind (fun u : State => u.brd = s.brd ∧ u.evr = s.evr ∧ u.fnc = s.fnc ∧ u.fuse = s.fuse ∧ u.fw = s.fw ∧ u.lat = s.lat ∧ u.cfg = s.cfg ∧
      u.fetchSeq = s.fetchSeq ∧ u.side = s.side ∧ u.serial = s.serial ∧ u.pending = s.pending)
  unfold startDrops
  repeat' (first | (simp; done) | split | (dsimp only; split) | refine key _ _ _ ?_ ?_ |
    (dsimp only; refine key _ _ _ ?_ ?_) | intro t x h | (simp [h]; done))

@[simp] theorem sendMigCtrl_rest (phase error : Nat) (s : State) :
    (sendMigCtrl phase error s).brd = s.brd ∧ (sendMigCtrl phase error s).evr = s.evr ∧ (sendMigCtrl phase error s).fnc = s.fnc ∧
    (sendMigCtrl phase error s).fuse = s.fuse ∧ (sendMigCtrl phase error s).fw = s.fw ∧ (sendMigCtrl phase error s).lat = s.lat ∧
    (sendMigCtrl phase error s).cfg = s.cfg ∧ (sendMigCtrl phase error s).hif = s.hif ∧ (sendMigCtrl phase error s).qps = s.qps ∧
    (sendMigCtrl phase error s).tags = s.tags ∧ (sendMigCtrl phase error s).cmds = s.cmds ∧
    (sendMigCtrl phase error s).fetchSeq = s.fetchSeq ∧ (sendMigCtrl phase error s).elog = s.elog ∧
    (sendMigCtrl phase error s).elogSeq = s.elogSeq ∧ (sendMigCtrl phase error s).facets = s.facets ∧
    (sendMigCtrl phase error s).idx = s.idx ∧ (sendMigCtrl phase error s).mods = s.mods ∧ (sendMigCtrl phase error s).srch = s.srch ∧
    (sendMigCtrl phase error s).flash = s.flash ∧ (sendMigCtrl phase error s).mem = s.mem ∧ (sendMigCtrl phase error s).side = s.side ∧
    (sendMigCtrl phase error s).serial = s.serial ∧ (sendMigCtrl phase error s).pending = s.pending := by
  unfold sendMigCtrl
  repeat' (first | (simp; done) | split | (dsimp only; split))

@[simp] theorem migFail_rest (error : Nat) (s : State) :
    (migFail error s).brd = s.brd ∧ (migFail error s).evr = s.evr ∧ (migFail error s).fnc = s.fnc ∧ (migFail error s).fuse = s.fuse ∧
    (migFail error s).fw = s.fw ∧ (migFail error s).lat = s.lat ∧ (migFail error s).cfg = s.cfg ∧ (migFail error s).hif = s.hif ∧
    (migFail error s).qps = s.qps ∧ (migFail error s).tags = s.tags ∧ (migFail error s).cmds = s.cmds ∧
    (migFail error s).fetchSeq = s.fetchSeq ∧ (migFail error s).elog = s.elog ∧ (migFail error s).elogSeq = s.elogSeq ∧
    (migFail error s).mods = s.mods ∧ (migFail error s).srch = s.srch ∧ (migFail error s).flash = s.flash ∧
    (migFail error s).mem = s.mem ∧ (migFail error s).side = s.side ∧ (migFail error s).serial = s.serial ∧
    (migFail error s).out = s.out ∧ (migFail error s).free = s.free ∧ (migFail error s).pending = s.pending := by
  unfold migFail
  repeat' (first | (simp; done) | split | (dsimp only; split))

@[simp] theorem migLost_rest (f : Nat) (s : State) :
    (migLost f s).brd = s.brd ∧ (migLost f s).evr = s.evr ∧ (migLost f s).fnc = s.fnc ∧ (migLost f s).fuse = s.fuse ∧
    (migLost f s).fw = s.fw ∧ (migLost f s).lat = s.lat ∧ (migLost f s).cfg = s.cfg ∧ (migLost f s).hif = s.hif ∧
    (migLost f s).qps = s.qps ∧ (migLost f s).tags = s.tags ∧ (migLost f s).cmds = s.cmds ∧ (migLost f s).fetchSeq = s.fetchSeq ∧
    (migLost f s).elog = s.elog ∧ (migLost f s).elogSeq = s.elogSeq ∧ (migLost f s).idx = s.idx ∧ (migLost f s).mods = s.mods ∧
    (migLost f s).srch = s.srch ∧ (migLost f s).flash = s.flash ∧ (migLost f s).mem = s.mem ∧ (migLost f s).chd = s.chd ∧
    (migLost f s).side = s.side ∧ (migLost f s).serial = s.serial ∧ (migLost f s).out = s.out ∧ (migLost f s).free = s.free ∧
    (migLost f s).pending = s.pending := by
  unfold migLost
  repeat' (first | (simp; done) | split | (dsimp only; split))

@[simp] theorem migGo_rest (v : Word64) (s : State) :
    (migGo v s).brd = s.brd ∧ (migGo v s).evr = s.evr ∧ (migGo v s).fnc = s.fnc ∧ (migGo v s).fuse = s.fuse ∧ (migGo v s).fw = s.fw ∧
    (migGo v s).lat = s.lat ∧ (migGo v s).cfg = s.cfg ∧ (migGo v s).hif = s.hif ∧ (migGo v s).qps = s.qps ∧ (migGo v s).tags = s.tags ∧
    (migGo v s).cmds = s.cmds ∧ (migGo v s).fetchSeq = s.fetchSeq ∧ (migGo v s).elog = s.elog ∧ (migGo v s).elogSeq = s.elogSeq ∧
    (migGo v s).idx = s.idx ∧ (migGo v s).mods = s.mods ∧ (migGo v s).srch = s.srch ∧ (migGo v s).flash = s.flash ∧
    (migGo v s).mem = s.mem ∧ (migGo v s).side = s.side ∧ (migGo v s).serial = s.serial ∧ (migGo v s).pending = s.pending := by
  unfold migGo
  repeat' (first | (simp; done) | split | (dsimp only; split))

@[simp] theorem migArm_rest (v : Word64) (s : State) :
    (migArm v s).brd = s.brd ∧ (migArm v s).evr = s.evr ∧ (migArm v s).fnc = s.fnc ∧ (migArm v s).fuse = s.fuse ∧ (migArm v s).fw = s.fw ∧
    (migArm v s).lat = s.lat ∧ (migArm v s).cfg = s.cfg ∧ (migArm v s).hif = s.hif ∧ (migArm v s).qps = s.qps ∧
    (migArm v s).tags = s.tags ∧ (migArm v s).cmds = s.cmds ∧ (migArm v s).fetchSeq = s.fetchSeq ∧ (migArm v s).elog = s.elog ∧
    (migArm v s).elogSeq = s.elogSeq ∧ (migArm v s).idx = s.idx ∧ (migArm v s).mods = s.mods ∧ (migArm v s).srch = s.srch ∧
    (migArm v s).flash = s.flash ∧ (migArm v s).mem = s.mem ∧ (migArm v s).side = s.side ∧ (migArm v s).serial = s.serial ∧
    (migArm v s).out = s.out ∧ (migArm v s).free = s.free ∧ (migArm v s).pending = s.pending := by
  unfold migArm
  repeat' (first | (simp; done) | split | (dsimp only; split))

@[simp] theorem migCancelHere_rest (s : State) :
    (migCancelHere s).brd = s.brd ∧ (migCancelHere s).evr = s.evr ∧ (migCancelHere s).fnc = s.fnc ∧ (migCancelHere s).fuse = s.fuse ∧
    (migCancelHere s).fw = s.fw ∧ (migCancelHere s).lat = s.lat ∧ (migCancelHere s).cfg = s.cfg ∧ (migCancelHere s).hif = s.hif ∧
    (migCancelHere s).qps = s.qps ∧ (migCancelHere s).tags = s.tags ∧ (migCancelHere s).cmds = s.cmds ∧
    (migCancelHere s).fetchSeq = s.fetchSeq ∧ (migCancelHere s).elog = s.elog ∧ (migCancelHere s).elogSeq = s.elogSeq ∧
    (migCancelHere s).mods = s.mods ∧ (migCancelHere s).srch = s.srch ∧ (migCancelHere s).flash = s.flash ∧
    (migCancelHere s).mem = s.mem ∧ (migCancelHere s).side = s.side ∧ (migCancelHere s).serial = s.serial ∧
    (migCancelHere s).pending = s.pending := by
  unfold migCancelHere
  repeat' (first | (simp; done) | split | (dsimp only; split))

@[simp] theorem receiveOffer_rest (l f slot : Nat) (geo : Geometry) (hbm flash : Nat) (s0 : State) :
    (receiveOffer l f slot geo hbm flash s0).brd = s0.brd ∧ (receiveOffer l f slot geo hbm flash s0).evr = s0.evr ∧
    (receiveOffer l f slot geo hbm flash s0).fnc = s0.fnc ∧ (receiveOffer l f slot geo hbm flash s0).fuse = s0.fuse ∧
    (receiveOffer l f slot geo hbm flash s0).fw = s0.fw ∧ (receiveOffer l f slot geo hbm flash s0).lat = s0.lat ∧
    (receiveOffer l f slot geo hbm flash s0).cfg = s0.cfg ∧ (receiveOffer l f slot geo hbm flash s0).hif = s0.hif ∧
    (receiveOffer l f slot geo hbm flash s0).qps = s0.qps ∧ (receiveOffer l f slot geo hbm flash s0).tags = s0.tags ∧
    (receiveOffer l f slot geo hbm flash s0).cmds = s0.cmds ∧ (receiveOffer l f slot geo hbm flash s0).fetchSeq = s0.fetchSeq ∧
    (receiveOffer l f slot geo hbm flash s0).elog = s0.elog ∧ (receiveOffer l f slot geo hbm flash s0).elogSeq = s0.elogSeq ∧
    (receiveOffer l f slot geo hbm flash s0).mods = s0.mods ∧ (receiveOffer l f slot geo hbm flash s0).srch = s0.srch ∧
    (receiveOffer l f slot geo hbm flash s0).flash = s0.flash ∧ (receiveOffer l f slot geo hbm flash s0).mem = s0.mem ∧
    (receiveOffer l f slot geo hbm flash s0).side = s0.side ∧ (receiveOffer l f slot geo hbm flash s0).serial = s0.serial ∧
    (receiveOffer l f slot geo hbm flash s0).pending = s0.pending := by
  unfold receiveOffer
  repeat' (first | (simp; done) | split | (dsimp only; split))

@[simp] theorem receiveAccept_rest (l : Nat) (s0 : State) :
    (receiveAccept l s0).brd = s0.brd ∧ (receiveAccept l s0).evr = s0.evr ∧ (receiveAccept l s0).fnc = s0.fnc ∧
    (receiveAccept l s0).fuse = s0.fuse ∧ (receiveAccept l s0).fw = s0.fw ∧ (receiveAccept l s0).lat = s0.lat ∧
    (receiveAccept l s0).cfg = s0.cfg ∧ (receiveAccept l s0).hif = s0.hif ∧ (receiveAccept l s0).qps = s0.qps ∧
    (receiveAccept l s0).tags = s0.tags ∧ (receiveAccept l s0).cmds = s0.cmds ∧ (receiveAccept l s0).fetchSeq = s0.fetchSeq ∧
    (receiveAccept l s0).elog = s0.elog ∧ (receiveAccept l s0).elogSeq = s0.elogSeq ∧ (receiveAccept l s0).facets = s0.facets ∧
    (receiveAccept l s0).idx = s0.idx ∧ (receiveAccept l s0).mods = s0.mods ∧ (receiveAccept l s0).srch = s0.srch ∧
    (receiveAccept l s0).flash = s0.flash ∧ (receiveAccept l s0).mem = s0.mem ∧ (receiveAccept l s0).side = s0.side ∧
    (receiveAccept l s0).serial = s0.serial ∧ (receiveAccept l s0).out = s0.out ∧ (receiveAccept l s0).free = s0.free ∧
    (receiveAccept l s0).pending = s0.pending := by
  unfold receiveAccept
  repeat' (first | (simp; done) | split | (dsimp only; split))

@[simp] theorem receiveRefuse_rest (l e : Nat) (s0 : State) :
    (receiveRefuse l e s0).brd = s0.brd ∧ (receiveRefuse l e s0).evr = s0.evr ∧ (receiveRefuse l e s0).fnc = s0.fnc ∧
    (receiveRefuse l e s0).fuse = s0.fuse ∧ (receiveRefuse l e s0).fw = s0.fw ∧ (receiveRefuse l e s0).lat = s0.lat ∧
    (receiveRefuse l e s0).cfg = s0.cfg ∧ (receiveRefuse l e s0).hif = s0.hif ∧ (receiveRefuse l e s0).qps = s0.qps ∧
    (receiveRefuse l e s0).tags = s0.tags ∧ (receiveRefuse l e s0).cmds = s0.cmds ∧ (receiveRefuse l e s0).fetchSeq = s0.fetchSeq ∧
    (receiveRefuse l e s0).elog = s0.elog ∧ (receiveRefuse l e s0).elogSeq = s0.elogSeq ∧ (receiveRefuse l e s0).mods = s0.mods ∧
    (receiveRefuse l e s0).srch = s0.srch ∧ (receiveRefuse l e s0).flash = s0.flash ∧ (receiveRefuse l e s0).mem = s0.mem ∧
    (receiveRefuse l e s0).side = s0.side ∧ (receiveRefuse l e s0).serial = s0.serial ∧ (receiveRefuse l e s0).out = s0.out ∧
    (receiveRefuse l e s0).free = s0.free ∧ (receiveRefuse l e s0).pending = s0.pending := by
  unfold receiveRefuse
  repeat' (first | (simp; done) | split | (dsimp only; split))

@[simp] theorem migBoundary_rest (s : State) :
    (migBoundary s).brd = s.brd ∧ (migBoundary s).evr = s.evr ∧ (migBoundary s).fnc = s.fnc ∧ (migBoundary s).fuse = s.fuse ∧
    (migBoundary s).fw = s.fw ∧ (migBoundary s).lat = s.lat ∧ (migBoundary s).cfg = s.cfg ∧ (migBoundary s).hif = s.hif ∧
    (migBoundary s).qps = s.qps ∧ (migBoundary s).tags = s.tags ∧ (migBoundary s).cmds = s.cmds ∧ (migBoundary s).fetchSeq = s.fetchSeq ∧
    (migBoundary s).elog = s.elog ∧ (migBoundary s).elogSeq = s.elogSeq ∧ (migBoundary s).mods = s.mods ∧ (migBoundary s).mem = s.mem ∧
    (migBoundary s).side = s.side ∧ (migBoundary s).serial = s.serial ∧ (migBoundary s).pending = s.pending := by
  have key := @foldl_ind (fun u : State => u.brd = s.brd ∧ u.evr = s.evr ∧ u.fnc = s.fnc ∧ u.fuse = s.fuse ∧ u.fw = s.fw ∧ u.lat = s.lat ∧ u.cfg = s.cfg ∧ u.hif = s.hif ∧
      u.qps = s.qps ∧ u.tags = s.tags ∧ u.cmds = s.cmds ∧ u.fetchSeq = s.fetchSeq ∧ u.elog = s.elog ∧ u.elogSeq = s.elogSeq ∧
      u.mods = s.mods ∧ u.mem = s.mem ∧ u.side = s.side ∧ u.serial = s.serial ∧ u.pending = s.pending)
  unfold migBoundary
  repeat' (first | (simp; done) | split | (dsimp only; split) | refine key _ _ _ ?_ ?_ |
    (dsimp only; refine key _ _ _ ?_ ?_) | intro t x h | (simp [h]; done) | (have hA := allJobs_rest _ _ _ _ _ _ (by assumption); simp [hA]; done))

@[simp] theorem sendWrites_rest (s : State) :
    (sendWrites s).brd = s.brd ∧ (sendWrites s).evr = s.evr ∧ (sendWrites s).fnc = s.fnc ∧ (sendWrites s).fuse = s.fuse ∧
    (sendWrites s).fw = s.fw ∧ (sendWrites s).lat = s.lat ∧ (sendWrites s).cfg = s.cfg ∧ (sendWrites s).hif = s.hif ∧
    (sendWrites s).qps = s.qps ∧ (sendWrites s).tags = s.tags ∧ (sendWrites s).cmds = s.cmds ∧ (sendWrites s).fetchSeq = s.fetchSeq ∧
    (sendWrites s).elog = s.elog ∧ (sendWrites s).elogSeq = s.elogSeq ∧ (sendWrites s).facets = s.facets ∧ (sendWrites s).mods = s.mods ∧
    (sendWrites s).srch = s.srch ∧ (sendWrites s).flash = s.flash ∧ (sendWrites s).mem = s.mem ∧ (sendWrites s).side = s.side ∧
    (sendWrites s).serial = s.serial ∧ (sendWrites s).pending = s.pending := by
  have key := @foldl_ind (fun u : State => u.brd = s.brd ∧ u.evr = s.evr ∧ u.fnc = s.fnc ∧ u.fuse = s.fuse ∧ u.fw = s.fw ∧ u.lat = s.lat ∧ u.cfg = s.cfg ∧ u.hif = s.hif ∧
      u.qps = s.qps ∧ u.tags = s.tags ∧ u.cmds = s.cmds ∧ u.fetchSeq = s.fetchSeq ∧ u.elog = s.elog ∧ u.elogSeq = s.elogSeq ∧
      u.facets = s.facets ∧ u.mods = s.mods ∧ u.srch = s.srch ∧ u.flash = s.flash ∧ u.mem = s.mem ∧ u.side = s.side ∧ u.serial = s.serial ∧
      u.pending = s.pending)
  unfold sendWrites
  repeat' (first | (simp; done) | split | (dsimp only; split) | refine key _ _ _ ?_ ?_ |
    (dsimp only; refine key _ _ _ ?_ ?_) | intro t x h | (simp [h]; done))

@[simp] theorem migProgress_rest (s : State) :
    (migProgress s).brd = s.brd ∧ (migProgress s).evr = s.evr ∧ (migProgress s).fnc = s.fnc ∧ (migProgress s).fuse = s.fuse ∧
    (migProgress s).fw = s.fw ∧ (migProgress s).lat = s.lat ∧ (migProgress s).cfg = s.cfg ∧ (migProgress s).hif = s.hif ∧
    (migProgress s).qps = s.qps ∧ (migProgress s).tags = s.tags ∧ (migProgress s).cmds = s.cmds ∧ (migProgress s).fetchSeq = s.fetchSeq ∧
    (migProgress s).elog = s.elog ∧ (migProgress s).elogSeq = s.elogSeq ∧ (migProgress s).facets = s.facets ∧
    (migProgress s).mods = s.mods ∧ (migProgress s).srch = s.srch ∧ (migProgress s).flash = s.flash ∧ (migProgress s).mem = s.mem ∧
    (migProgress s).side = s.side ∧ (migProgress s).serial = s.serial ∧ (migProgress s).pending = s.pending := by
  unfold migProgress
  repeat' (first | (simp; done) | split | (dsimp only; split))

@[simp] theorem receiveUnit_rest (l : Nat) (p : MigPart) (s0 : State) :
    (receiveUnit l p s0).brd = s0.brd ∧ (receiveUnit l p s0).evr = s0.evr ∧ (receiveUnit l p s0).fnc = s0.fnc ∧
    (receiveUnit l p s0).fuse = s0.fuse ∧ (receiveUnit l p s0).fw = s0.fw ∧ (receiveUnit l p s0).lat = s0.lat ∧
    (receiveUnit l p s0).cfg = s0.cfg ∧ (receiveUnit l p s0).hif = s0.hif ∧ (receiveUnit l p s0).qps = s0.qps ∧
    (receiveUnit l p s0).tags = s0.tags ∧ (receiveUnit l p s0).cmds = s0.cmds ∧ (receiveUnit l p s0).fetchSeq = s0.fetchSeq ∧
    (receiveUnit l p s0).elog = s0.elog ∧ (receiveUnit l p s0).elogSeq = s0.elogSeq ∧ (receiveUnit l p s0).facets = s0.facets ∧
    (receiveUnit l p s0).idx = s0.idx ∧ (receiveUnit l p s0).mods = s0.mods ∧ (receiveUnit l p s0).srch = s0.srch ∧
    (receiveUnit l p s0).flash = s0.flash ∧ (receiveUnit l p s0).mem = s0.mem ∧ (receiveUnit l p s0).side = s0.side ∧
    (receiveUnit l p s0).serial = s0.serial ∧ (receiveUnit l p s0).out = s0.out ∧ (receiveUnit l p s0).free = s0.free ∧
    (receiveUnit l p s0).pending = s0.pending := by
  unfold receiveUnit
  repeat' (first | (simp; done) | split | (dsimp only; split))

@[simp] theorem receiveWrite_rest (l : Nat) (w : MigWrite) (s0 : State) :
    (receiveWrite l w s0).brd = s0.brd ∧ (receiveWrite l w s0).evr = s0.evr ∧ (receiveWrite l w s0).fnc = s0.fnc ∧
    (receiveWrite l w s0).fuse = s0.fuse ∧ (receiveWrite l w s0).fw = s0.fw ∧ (receiveWrite l w s0).lat = s0.lat ∧
    (receiveWrite l w s0).cfg = s0.cfg ∧ (receiveWrite l w s0).hif = s0.hif ∧ (receiveWrite l w s0).qps = s0.qps ∧
    (receiveWrite l w s0).tags = s0.tags ∧ (receiveWrite l w s0).cmds = s0.cmds ∧ (receiveWrite l w s0).fetchSeq = s0.fetchSeq ∧
    (receiveWrite l w s0).elog = s0.elog ∧ (receiveWrite l w s0).elogSeq = s0.elogSeq ∧ (receiveWrite l w s0).facets = s0.facets ∧
    (receiveWrite l w s0).idx = s0.idx ∧ (receiveWrite l w s0).mods = s0.mods ∧ (receiveWrite l w s0).srch = s0.srch ∧
    (receiveWrite l w s0).flash = s0.flash ∧ (receiveWrite l w s0).mem = s0.mem ∧ (receiveWrite l w s0).side = s0.side ∧
    (receiveWrite l w s0).serial = s0.serial ∧ (receiveWrite l w s0).out = s0.out ∧ (receiveWrite l w s0).free = s0.free ∧
    (receiveWrite l w s0).pending = s0.pending := by
  unfold receiveWrite
  repeat' (first | (simp; done) | split | (dsimp only; split))

@[simp] theorem receiveCutOver_rest (l : Nat) (s0 : State) :
    (receiveCutOver l s0).brd = s0.brd ∧ (receiveCutOver l s0).evr = s0.evr ∧ (receiveCutOver l s0).fnc = s0.fnc ∧
    (receiveCutOver l s0).fuse = s0.fuse ∧ (receiveCutOver l s0).fw = s0.fw ∧ (receiveCutOver l s0).lat = s0.lat ∧
    (receiveCutOver l s0).cfg = s0.cfg ∧ (receiveCutOver l s0).hif = s0.hif ∧ (receiveCutOver l s0).qps = s0.qps ∧
    (receiveCutOver l s0).tags = s0.tags ∧ (receiveCutOver l s0).cmds = s0.cmds ∧ (receiveCutOver l s0).fetchSeq = s0.fetchSeq ∧
    (receiveCutOver l s0).elog = s0.elog ∧ (receiveCutOver l s0).elogSeq = s0.elogSeq ∧ (receiveCutOver l s0).facets = s0.facets ∧
    (receiveCutOver l s0).idx = s0.idx ∧ (receiveCutOver l s0).mods = s0.mods ∧ (receiveCutOver l s0).srch = s0.srch ∧
    (receiveCutOver l s0).flash = s0.flash ∧ (receiveCutOver l s0).mem = s0.mem ∧ (receiveCutOver l s0).side = s0.side ∧
    (receiveCutOver l s0).serial = s0.serial ∧ (receiveCutOver l s0).out = s0.out ∧ (receiveCutOver l s0).free = s0.free ∧
    (receiveCutOver l s0).pending = s0.pending := by
  unfold receiveCutOver
  repeat' (first | (simp; done) | split | (dsimp only; split))

@[simp] theorem commitForwarded_rest (f slot e : Nat) (w : MigWrite) (s : State) :
    (commitForwarded f slot e w s).brd = s.brd ∧ (commitForwarded f slot e w s).evr = s.evr ∧ (commitForwarded f slot e w s).fnc = s.fnc ∧
    (commitForwarded f slot e w s).fuse = s.fuse ∧ (commitForwarded f slot e w s).fw = s.fw ∧ (commitForwarded f slot e w s).lat = s.lat ∧
    (commitForwarded f slot e w s).cfg = s.cfg ∧ (commitForwarded f slot e w s).hif = s.hif ∧ (commitForwarded f slot e w s).qps = s.qps ∧
    (commitForwarded f slot e w s).tags = s.tags ∧ (commitForwarded f slot e w s).cmds = s.cmds ∧
    (commitForwarded f slot e w s).fetchSeq = s.fetchSeq ∧ (commitForwarded f slot e w s).elog = s.elog ∧
    (commitForwarded f slot e w s).elogSeq = s.elogSeq ∧ (commitForwarded f slot e w s).mods = s.mods ∧
    (commitForwarded f slot e w s).srch = s.srch ∧ (commitForwarded f slot e w s).flash = s.flash ∧
    (commitForwarded f slot e w s).mem = s.mem ∧ (commitForwarded f slot e w s).chd = s.chd ∧
    (commitForwarded f slot e w s).side = s.side ∧ (commitForwarded f slot e w s).serial = s.serial ∧
    (commitForwarded f slot e w s).out = s.out ∧ (commitForwarded f slot e w s).free = s.free ∧
    (commitForwarded f slot e w s).pending = s.pending := by
  unfold commitForwarded
  repeat' (first | (simp; done) | split | (dsimp only; split))

@[simp] theorem migPublish_rest (s : State) :
    (migPublish s).brd = s.brd ∧ (migPublish s).evr = s.evr ∧ (migPublish s).fnc = s.fnc ∧ (migPublish s).fuse = s.fuse ∧
    (migPublish s).fw = s.fw ∧ (migPublish s).lat = s.lat ∧ (migPublish s).cfg = s.cfg ∧ (migPublish s).hif = s.hif ∧
    (migPublish s).qps = s.qps ∧ (migPublish s).tags = s.tags ∧ (migPublish s).cmds = s.cmds ∧ (migPublish s).fetchSeq = s.fetchSeq ∧
    (migPublish s).elog = s.elog ∧ (migPublish s).elogSeq = s.elogSeq ∧ (migPublish s).mods = s.mods ∧ (migPublish s).side = s.side ∧
    (migPublish s).serial = s.serial ∧ (migPublish s).pending = s.pending := by
  have key := @foldl_ind (fun u : State => u.brd = s.brd ∧ u.evr = s.evr ∧ u.fnc = s.fnc ∧ u.fuse = s.fuse ∧ u.fw = s.fw ∧ u.lat = s.lat ∧ u.cfg = s.cfg ∧ u.hif = s.hif ∧
      u.qps = s.qps ∧ u.tags = s.tags ∧ u.cmds = s.cmds ∧ u.fetchSeq = s.fetchSeq ∧ u.elog = s.elog ∧ u.elogSeq = s.elogSeq ∧
      u.mods = s.mods ∧ u.side = s.side ∧ u.serial = s.serial ∧ u.pending = s.pending)
  unfold migPublish
  repeat' (first | (simp; done) | split | (dsimp only; split) | refine key _ _ _ ?_ ?_ |
    (dsimp only; refine key _ _ _ ?_ ?_) | intro t x h | (simp [h]; done) | (have hA := allJobs_rest _ _ _ _ _ _ (by assumption); simp [hA]; done))

@[simp] theorem receiveDone_rest (l : Nat) (s0 : State) :
    (receiveDone l s0).brd = s0.brd ∧ (receiveDone l s0).evr = s0.evr ∧ (receiveDone l s0).fnc = s0.fnc ∧
    (receiveDone l s0).fuse = s0.fuse ∧ (receiveDone l s0).fw = s0.fw ∧ (receiveDone l s0).lat = s0.lat ∧
    (receiveDone l s0).cfg = s0.cfg ∧ (receiveDone l s0).fetchSeq = s0.fetchSeq ∧ (receiveDone l s0).side = s0.side ∧
    (receiveDone l s0).serial = s0.serial ∧ (receiveDone l s0).pending = s0.pending := by
  unfold receiveDone
  repeat' (first | (simp; done) | split | (dsimp only; split))

@[simp] theorem receiveCancel_rest (l : Nat) (s0 : State) :
    (receiveCancel l s0).brd = s0.brd ∧ (receiveCancel l s0).evr = s0.evr ∧ (receiveCancel l s0).fnc = s0.fnc ∧
    (receiveCancel l s0).fuse = s0.fuse ∧ (receiveCancel l s0).fw = s0.fw ∧ (receiveCancel l s0).lat = s0.lat ∧
    (receiveCancel l s0).cfg = s0.cfg ∧ (receiveCancel l s0).hif = s0.hif ∧ (receiveCancel l s0).qps = s0.qps ∧
    (receiveCancel l s0).tags = s0.tags ∧ (receiveCancel l s0).cmds = s0.cmds ∧ (receiveCancel l s0).fetchSeq = s0.fetchSeq ∧
    (receiveCancel l s0).elog = s0.elog ∧ (receiveCancel l s0).elogSeq = s0.elogSeq ∧ (receiveCancel l s0).mods = s0.mods ∧
    (receiveCancel l s0).srch = s0.srch ∧ (receiveCancel l s0).flash = s0.flash ∧ (receiveCancel l s0).mem = s0.mem ∧
    (receiveCancel l s0).side = s0.side ∧ (receiveCancel l s0).serial = s0.serial ∧ (receiveCancel l s0).out = s0.out ∧
    (receiveCancel l s0).free = s0.free ∧ (receiveCancel l s0).pending = s0.pending := by
  unfold receiveCancel
  repeat' (first | (simp; done) | split | (dsimp only; split))

@[simp] theorem migLinkLost_rest (s : State) :
    (migLinkLost s).brd = s.brd ∧ (migLinkLost s).evr = s.evr ∧ (migLinkLost s).fnc = s.fnc ∧ (migLinkLost s).fuse = s.fuse ∧
    (migLinkLost s).fw = s.fw ∧ (migLinkLost s).lat = s.lat ∧ (migLinkLost s).cfg = s.cfg ∧ (migLinkLost s).hif = s.hif ∧
    (migLinkLost s).qps = s.qps ∧ (migLinkLost s).tags = s.tags ∧ (migLinkLost s).cmds = s.cmds ∧ (migLinkLost s).fetchSeq = s.fetchSeq ∧
    (migLinkLost s).elog = s.elog ∧ (migLinkLost s).elogSeq = s.elogSeq ∧ (migLinkLost s).mods = s.mods ∧ (migLinkLost s).srch = s.srch ∧
    (migLinkLost s).flash = s.flash ∧ (migLinkLost s).mem = s.mem ∧ (migLinkLost s).side = s.side ∧ (migLinkLost s).serial = s.serial ∧
    (migLinkLost s).out = s.out ∧ (migLinkLost s).free = s.free ∧ (migLinkLost s).pending = s.pending := by
  unfold migLinkLost
  repeat' (first | (simp; done) | split | (dsimp only; split))

@[simp] theorem armSlices_rest (j : EncJob) (n : ModelNode) (s : State) :
    (armSlices j n s).brd = s.brd ∧ (armSlices j n s).evr = s.evr ∧ (armSlices j n s).fnc = s.fnc ∧ (armSlices j n s).fuse = s.fuse ∧
    (armSlices j n s).fw = s.fw ∧ (armSlices j n s).lat = s.lat ∧ (armSlices j n s).cfg = s.cfg ∧ (armSlices j n s).hif = s.hif ∧
    (armSlices j n s).qps = s.qps ∧ (armSlices j n s).tags = s.tags ∧ (armSlices j n s).cmds = s.cmds ∧
    (armSlices j n s).fetchSeq = s.fetchSeq ∧ (armSlices j n s).elog = s.elog ∧ (armSlices j n s).elogSeq = s.elogSeq ∧
    (armSlices j n s).facets = s.facets ∧ (armSlices j n s).idx = s.idx ∧ (armSlices j n s).mods = s.mods ∧
    (armSlices j n s).srch = s.srch ∧ (armSlices j n s).flash = s.flash ∧ (armSlices j n s).chd = s.chd ∧
    (armSlices j n s).side = s.side ∧ (armSlices j n s).serial = s.serial ∧ (armSlices j n s).out = s.out ∧
    (armSlices j n s).pending = s.pending := by
  unfold armSlices
  repeat' (first | (simp; done) | split | (dsimp only; split))

@[simp] theorem queueNode_rest (m : ModelRec) (j : EncJob) (s : State) :
    (queueNode m j s).brd = s.brd ∧ (queueNode m j s).evr = s.evr ∧ (queueNode m j s).fnc = s.fnc ∧ (queueNode m j s).fuse = s.fuse ∧
    (queueNode m j s).fw = s.fw ∧ (queueNode m j s).lat = s.lat ∧ (queueNode m j s).cfg = s.cfg ∧ (queueNode m j s).hif = s.hif ∧
    (queueNode m j s).qps = s.qps ∧ (queueNode m j s).tags = s.tags ∧ (queueNode m j s).cmds = s.cmds ∧
    (queueNode m j s).fetchSeq = s.fetchSeq ∧ (queueNode m j s).elog = s.elog ∧ (queueNode m j s).elogSeq = s.elogSeq ∧
    (queueNode m j s).facets = s.facets ∧ (queueNode m j s).idx = s.idx ∧ (queueNode m j s).mods = s.mods ∧
    (queueNode m j s).flash = s.flash ∧ (queueNode m j s).chd = s.chd ∧ (queueNode m j s).side = s.side ∧
    (queueNode m j s).serial = s.serial ∧ (queueNode m j s).out = s.out ∧ (queueNode m j s).pending = s.pending := by
  unfold queueNode
  repeat' (first | (simp; done) | split | (dsimp only; split))

@[simp] theorem finishEncode_rest (m : ModelRec) (j : EncJob) (c : Cmd) (s : State) :
    (finishEncode m j c s).brd = s.brd ∧ (finishEncode m j c s).fnc = s.fnc ∧ (finishEncode m j c s).fuse = s.fuse ∧
    (finishEncode m j c s).fw = s.fw ∧ (finishEncode m j c s).lat = s.lat ∧ (finishEncode m j c s).cfg = s.cfg ∧
    (finishEncode m j c s).fetchSeq = s.fetchSeq ∧ (finishEncode m j c s).idx = s.idx ∧ (finishEncode m j c s).mods = s.mods ∧
    (finishEncode m j c s).srch = s.srch ∧ (finishEncode m j c s).flash = s.flash ∧ (finishEncode m j c s).chd = s.chd ∧
    (finishEncode m j c s).side = s.side ∧ (finishEncode m j c s).serial = s.serial ∧ (finishEncode m j c s).free = s.free ∧
    (finishEncode m j c s).pending = s.pending := by
  unfold finishEncode
  repeat' (first | (simp; done) | split | (dsimp only; split))

@[simp] theorem advanceEnc_rest (m : ModelRec) (j0 : EncJob) (s : State) :
    (advanceEnc m j0 s).brd = s.brd ∧ (advanceEnc m j0 s).fnc = s.fnc ∧ (advanceEnc m j0 s).fuse = s.fuse ∧
    (advanceEnc m j0 s).fw = s.fw ∧ (advanceEnc m j0 s).lat = s.lat ∧ (advanceEnc m j0 s).cfg = s.cfg ∧
    (advanceEnc m j0 s).fetchSeq = s.fetchSeq ∧ (advanceEnc m j0 s).idx = s.idx ∧ (advanceEnc m j0 s).mods = s.mods ∧
    (advanceEnc m j0 s).flash = s.flash ∧ (advanceEnc m j0 s).chd = s.chd ∧ (advanceEnc m j0 s).side = s.side ∧
    (advanceEnc m j0 s).serial = s.serial ∧ (advanceEnc m j0 s).pending = s.pending := by
  unfold advanceEnc
  repeat' (first | (simp; done) | split | (dsimp only; split))

@[simp] theorem moveSlices_rest (j : EncJob) (n : ModelNode) (round : Nat) (s : State) :
    (moveSlices j n round s).brd = s.brd ∧ (moveSlices j n round s).evr = s.evr ∧ (moveSlices j n round s).fnc = s.fnc ∧
    (moveSlices j n round s).fuse = s.fuse ∧ (moveSlices j n round s).fw = s.fw ∧ (moveSlices j n round s).lat = s.lat ∧
    (moveSlices j n round s).cfg = s.cfg ∧ (moveSlices j n round s).hif = s.hif ∧ (moveSlices j n round s).qps = s.qps ∧
    (moveSlices j n round s).tags = s.tags ∧ (moveSlices j n round s).cmds = s.cmds ∧ (moveSlices j n round s).fetchSeq = s.fetchSeq ∧
    (moveSlices j n round s).elog = s.elog ∧ (moveSlices j n round s).elogSeq = s.elogSeq ∧ (moveSlices j n round s).idx = s.idx ∧
    (moveSlices j n round s).mods = s.mods ∧ (moveSlices j n round s).flash = s.flash ∧ (moveSlices j n round s).mem = s.mem ∧
    (moveSlices j n round s).chd = s.chd ∧ (moveSlices j n round s).side = s.side ∧ (moveSlices j n round s).serial = s.serial ∧
    (moveSlices j n round s).out = s.out ∧ (moveSlices j n round s).free = s.free ∧ (moveSlices j n round s).pending = s.pending := by
  have key := @foldl_ind (fun u : State => u.brd = s.brd ∧ u.evr = s.evr ∧ u.fnc = s.fnc ∧ u.fuse = s.fuse ∧ u.fw = s.fw ∧ u.lat = s.lat ∧ u.cfg = s.cfg ∧ u.hif = s.hif ∧
      u.qps = s.qps ∧ u.tags = s.tags ∧ u.cmds = s.cmds ∧ u.fetchSeq = s.fetchSeq ∧ u.elog = s.elog ∧ u.elogSeq = s.elogSeq ∧
      u.idx = s.idx ∧ u.mods = s.mods ∧ u.flash = s.flash ∧ u.mem = s.mem ∧ u.chd = s.chd ∧ u.side = s.side ∧ u.serial = s.serial ∧
      u.out = s.out ∧ u.free = s.free ∧ u.pending = s.pending)
  unfold moveSlices
  repeat' (first | (simp; done) | split | (dsimp only; split) | refine key _ _ _ ?_ ?_ |
    (dsimp only; refine key _ _ _ ?_ ?_) | intro t x h | (simp [h]; done))

@[simp] theorem endRound_rest (m : ModelRec) (n : ModelNode) (j : EncJob) (s : State) :
    (endRound m n j s).brd = s.brd ∧ (endRound m n j s).fnc = s.fnc ∧ (endRound m n j s).fuse = s.fuse ∧ (endRound m n j s).fw = s.fw ∧
    (endRound m n j s).lat = s.lat ∧ (endRound m n j s).cfg = s.cfg ∧ (endRound m n j s).fetchSeq = s.fetchSeq ∧
    (endRound m n j s).idx = s.idx ∧ (endRound m n j s).mods = s.mods ∧ (endRound m n j s).flash = s.flash ∧
    (endRound m n j s).chd = s.chd ∧ (endRound m n j s).side = s.side ∧ (endRound m n j s).serial = s.serial ∧
    (endRound m n j s).pending = s.pending := by
  unfold endRound
  repeat' (first | (simp; done) | split | (dsimp only; split))

@[simp] theorem drainNode_rest (e : Nat) (t : Tile) (tag g st : Nat) (s : State) :
    (drainNode e t tag g st s).brd = s.brd ∧ (drainNode e t tag g st s).fnc = s.fnc ∧ (drainNode e t tag g st s).fuse = s.fuse ∧
    (drainNode e t tag g st s).fw = s.fw ∧ (drainNode e t tag g st s).lat = s.lat ∧ (drainNode e t tag g st s).cfg = s.cfg ∧
    (drainNode e t tag g st s).fetchSeq = s.fetchSeq ∧ (drainNode e t tag g st s).idx = s.idx ∧ (drainNode e t tag g st s).mods = s.mods ∧
    (drainNode e t tag g st s).flash = s.flash ∧ (drainNode e t tag g st s).chd = s.chd ∧ (drainNode e t tag g st s).side = s.side ∧
    (drainNode e t tag g st s).serial = s.serial ∧ (drainNode e t tag g st s).pending = s.pending := by
  unfold drainNode
  repeat' (first | (simp; done) | split | (dsimp only; split))

@[simp] theorem beginEnc_rest (tag f slot cls adapter : Nat) (inputs : List (List (List F32))) (s : State) :
    (beginEnc tag f slot cls adapter inputs s).brd = s.brd ∧ (beginEnc tag f slot cls adapter inputs s).fnc = s.fnc ∧
    (beginEnc tag f slot cls adapter inputs s).fuse = s.fuse ∧ (beginEnc tag f slot cls adapter inputs s).fw = s.fw ∧
    (beginEnc tag f slot cls adapter inputs s).lat = s.lat ∧ (beginEnc tag f slot cls adapter inputs s).cfg = s.cfg ∧
    (beginEnc tag f slot cls adapter inputs s).fetchSeq = s.fetchSeq ∧ (beginEnc tag f slot cls adapter inputs s).idx = s.idx ∧
    (beginEnc tag f slot cls adapter inputs s).mods = s.mods ∧ (beginEnc tag f slot cls adapter inputs s).flash = s.flash ∧
    (beginEnc tag f slot cls adapter inputs s).chd = s.chd ∧ (beginEnc tag f slot cls adapter inputs s).side = s.side ∧
    (beginEnc tag f slot cls adapter inputs s).serial = s.serial ∧ (beginEnc tag f slot cls adapter inputs s).pending = s.pending := by
  unfold beginEnc
  repeat' (first | (simp; done) | split | (dsimp only; split))

@[simp] theorem admitEncodes_rest (f : Nat) (s : State) :
    (admitEncodes f s).brd = s.brd ∧ (admitEncodes f s).fnc = s.fnc ∧ (admitEncodes f s).fuse = s.fuse ∧ (admitEncodes f s).fw = s.fw ∧
    (admitEncodes f s).lat = s.lat ∧ (admitEncodes f s).cfg = s.cfg ∧ (admitEncodes f s).fetchSeq = s.fetchSeq ∧
    (admitEncodes f s).idx = s.idx ∧ (admitEncodes f s).mods = s.mods ∧ (admitEncodes f s).flash = s.flash ∧
    (admitEncodes f s).chd = s.chd ∧ (admitEncodes f s).side = s.side ∧ (admitEncodes f s).serial = s.serial ∧
    (admitEncodes f s).pending = s.pending := by
  have key := @foldl_ind (fun u : State => u.brd = s.brd ∧ u.fnc = s.fnc ∧ u.fuse = s.fuse ∧ u.fw = s.fw ∧ u.lat = s.lat ∧ u.cfg = s.cfg ∧ u.fetchSeq = s.fetchSeq ∧
      u.idx = s.idx ∧ u.mods = s.mods ∧ u.flash = s.flash ∧ u.chd = s.chd ∧ u.side = s.side ∧ u.serial = s.serial ∧ u.pending = s.pending)
  unfold admitEncodes
  repeat' (first | (simp; done) | split | (dsimp only; split) | refine key _ _ _ ?_ ?_ |
    (dsimp only; refine key _ _ _ ?_ ?_) | intro t x h | (simp [h]; done))

@[simp] theorem beginTrain_rest (c : Cmd) (ix : Index) (s : State) :
    (beginTrain c ix s).brd = s.brd ∧ (beginTrain c ix s).fnc = s.fnc ∧ (beginTrain c ix s).fuse = s.fuse ∧
    (beginTrain c ix s).fw = s.fw ∧ (beginTrain c ix s).lat = s.lat ∧ (beginTrain c ix s).cfg = s.cfg ∧
    (beginTrain c ix s).fetchSeq = s.fetchSeq ∧ (beginTrain c ix s).idx = s.idx ∧ (beginTrain c ix s).mods = s.mods ∧
    (beginTrain c ix s).flash = s.flash ∧ (beginTrain c ix s).chd = s.chd ∧ (beginTrain c ix s).side = s.side ∧
    (beginTrain c ix s).serial = s.serial ∧ (beginTrain c ix s).pending = s.pending := by
  unfold beginTrain
  repeat' (first | (simp; done) | split | (dsimp only; split))

@[simp] theorem admitTrains_rest (f : Nat) (s : State) :
    (admitTrains f s).brd = s.brd ∧ (admitTrains f s).fnc = s.fnc ∧ (admitTrains f s).fuse = s.fuse ∧ (admitTrains f s).fw = s.fw ∧
    (admitTrains f s).lat = s.lat ∧ (admitTrains f s).cfg = s.cfg ∧ (admitTrains f s).fetchSeq = s.fetchSeq ∧
    (admitTrains f s).idx = s.idx ∧ (admitTrains f s).mods = s.mods ∧ (admitTrains f s).flash = s.flash ∧ (admitTrains f s).chd = s.chd ∧
    (admitTrains f s).side = s.side ∧ (admitTrains f s).serial = s.serial ∧ (admitTrains f s).pending = s.pending := by
  have key := @foldl_ind (fun u : State => u.brd = s.brd ∧ u.fnc = s.fnc ∧ u.fuse = s.fuse ∧ u.fw = s.fw ∧ u.lat = s.lat ∧ u.cfg = s.cfg ∧ u.fetchSeq = s.fetchSeq ∧
      u.idx = s.idx ∧ u.mods = s.mods ∧ u.flash = s.flash ∧ u.chd = s.chd ∧ u.side = s.side ∧ u.serial = s.serial ∧ u.pending = s.pending)
  unfold admitTrains
  repeat' (first | (simp; done) | split | (dsimp only; split) | refine key _ _ _ ?_ ?_ |
    (dsimp only; refine key _ _ _ ?_ ?_) | intro t x h | (simp [h]; done))

@[simp] theorem beginReading_rest (ix : Index) (c : Cmd) (j : TrainJob) (s : State) :
    (beginReading ix c j s).brd = s.brd ∧ (beginReading ix c j s).evr = s.evr ∧ (beginReading ix c j s).fnc = s.fnc ∧
    (beginReading ix c j s).fuse = s.fuse ∧ (beginReading ix c j s).fw = s.fw ∧ (beginReading ix c j s).lat = s.lat ∧
    (beginReading ix c j s).cfg = s.cfg ∧ (beginReading ix c j s).hif = s.hif ∧ (beginReading ix c j s).qps = s.qps ∧
    (beginReading ix c j s).tags = s.tags ∧ (beginReading ix c j s).cmds = s.cmds ∧ (beginReading ix c j s).fetchSeq = s.fetchSeq ∧
    (beginReading ix c j s).elog = s.elog ∧ (beginReading ix c j s).elogSeq = s.elogSeq ∧ (beginReading ix c j s).facets = s.facets ∧
    (beginReading ix c j s).idx = s.idx ∧ (beginReading ix c j s).mods = s.mods ∧ (beginReading ix c j s).mem = s.mem ∧
    (beginReading ix c j s).chd = s.chd ∧ (beginReading ix c j s).side = s.side ∧ (beginReading ix c j s).serial = s.serial ∧
    (beginReading ix c j s).out = s.out ∧ (beginReading ix c j s).free = s.free ∧ (beginReading ix c j s).pending = s.pending := by
  have key := @foldl_ind (fun u : State => u.brd = s.brd ∧ u.evr = s.evr ∧ u.fnc = s.fnc ∧ u.fuse = s.fuse ∧ u.fw = s.fw ∧ u.lat = s.lat ∧ u.cfg = s.cfg ∧ u.hif = s.hif ∧
      u.qps = s.qps ∧ u.tags = s.tags ∧ u.cmds = s.cmds ∧ u.fetchSeq = s.fetchSeq ∧ u.elog = s.elog ∧ u.elogSeq = s.elogSeq ∧
      u.facets = s.facets ∧ u.idx = s.idx ∧ u.mods = s.mods ∧ u.mem = s.mem ∧ u.chd = s.chd ∧ u.side = s.side ∧ u.serial = s.serial ∧
      u.out = s.out ∧ u.free = s.free ∧ u.pending = s.pending)
  unfold beginReading
  repeat' (first | (simp; done) | split | (dsimp only; split) | refine key _ _ _ ?_ ?_ |
    (dsimp only; refine key _ _ _ ?_ ?_) | intro t x h | (simp [h]; done))

@[simp] theorem armTrain_rest (ix : Index) (j : TrainJob) (s : State) :
    (armTrain ix j s).brd = s.brd ∧ (armTrain ix j s).evr = s.evr ∧ (armTrain ix j s).fnc = s.fnc ∧ (armTrain ix j s).fuse = s.fuse ∧
    (armTrain ix j s).fw = s.fw ∧ (armTrain ix j s).lat = s.lat ∧ (armTrain ix j s).cfg = s.cfg ∧ (armTrain ix j s).hif = s.hif ∧
    (armTrain ix j s).qps = s.qps ∧ (armTrain ix j s).tags = s.tags ∧ (armTrain ix j s).cmds = s.cmds ∧
    (armTrain ix j s).fetchSeq = s.fetchSeq ∧ (armTrain ix j s).elog = s.elog ∧ (armTrain ix j s).elogSeq = s.elogSeq ∧
    (armTrain ix j s).facets = s.facets ∧ (armTrain ix j s).idx = s.idx ∧ (armTrain ix j s).mods = s.mods ∧
    (armTrain ix j s).srch = s.srch ∧ (armTrain ix j s).flash = s.flash ∧ (armTrain ix j s).chd = s.chd ∧
    (armTrain ix j s).side = s.side ∧ (armTrain ix j s).serial = s.serial ∧ (armTrain ix j s).out = s.out ∧
    (armTrain ix j s).pending = s.pending := by
  unfold armTrain
  repeat' (first | (simp; done) | split | (dsimp only; split))

@[simp] theorem endTrain_rest (c : Cmd) (j : TrainJob) (s : State) :
    (endTrain c j s).brd = s.brd ∧ (endTrain c j s).fnc = s.fnc ∧ (endTrain c j s).fuse = s.fuse ∧ (endTrain c j s).fw = s.fw ∧
    (endTrain c j s).lat = s.lat ∧ (endTrain c j s).cfg = s.cfg ∧ (endTrain c j s).fetchSeq = s.fetchSeq ∧
    (endTrain c j s).flash = s.flash ∧ (endTrain c j s).chd = s.chd ∧ (endTrain c j s).side = s.side ∧
    (endTrain c j s).serial = s.serial ∧ (endTrain c j s).free = s.free ∧ (endTrain c j s).pending = s.pending := by
  unfold endTrain
  repeat' (first | (simp; done) | split | (dsimp only; split))

@[simp] theorem abortTrain_rest (c : Cmd) (s : State) :
    (abortTrain c s).brd = s.brd ∧ (abortTrain c s).evr = s.evr ∧ (abortTrain c s).fnc = s.fnc ∧ (abortTrain c s).fuse = s.fuse ∧
    (abortTrain c s).fw = s.fw ∧ (abortTrain c s).lat = s.lat ∧ (abortTrain c s).cfg = s.cfg ∧ (abortTrain c s).fetchSeq = s.fetchSeq ∧
    (abortTrain c s).side = s.side ∧ (abortTrain c s).serial = s.serial ∧ (abortTrain c s).pending = s.pending := by
  unfold abortTrain
  repeat' (first | (simp; done) | split | (dsimp only; split))

theorem stepGrant_rest (c : Cmd) (ix : Index) (j : TrainJob) (n : Nat) (s : State) (t : State) (h : stepGrant c ix j n s = some t) :
    t.brd = s.brd ∧ t.evr = s.evr ∧ t.fnc = s.fnc ∧ t.fuse = s.fuse ∧ t.fw = s.fw ∧ t.lat = s.lat ∧ t.cfg = s.cfg ∧ t.hif = s.hif ∧
    t.qps = s.qps ∧ t.tags = s.tags ∧ t.cmds = s.cmds ∧ t.fetchSeq = s.fetchSeq ∧ t.elog = s.elog ∧ t.elogSeq = s.elogSeq ∧
    t.idx = s.idx ∧ t.mods = s.mods ∧ t.mem = s.mem ∧ t.chd = s.chd ∧ t.side = s.side ∧ t.serial = s.serial ∧ t.out = s.out ∧
    t.free = s.free ∧ t.pending = s.pending := by
  unfold stepGrant at h
  repeat' (first | (cases h; done) | (cases h; simp; done) | (have hA := allJobs_rest _ _ _ _ _ _ h; simp [hA]; done) | (simp only [Option.map_eq_some_iff] at h; obtain ⟨c, -, rfl⟩ := h; simp; done) | split at h | dsimp only at h)

@[simp] theorem optimiserStep_rest (tag : Nat) (s : State) :
    (optimiserStep tag s).brd = s.brd ∧ (optimiserStep tag s).fnc = s.fnc ∧ (optimiserStep tag s).fuse = s.fuse ∧
    (optimiserStep tag s).fw = s.fw ∧ (optimiserStep tag s).lat = s.lat ∧ (optimiserStep tag s).cfg = s.cfg ∧
    (optimiserStep tag s).fetchSeq = s.fetchSeq ∧ (optimiserStep tag s).side = s.side ∧ (optimiserStep tag s).serial = s.serial ∧
    (optimiserStep tag s).pending = s.pending := by
  unfold optimiserStep
  repeat' (first | (simp; done) | split | (dsimp only; split) | (have hA := stepGrant_rest _ _ _ _ _ _ (by assumption); simp [hA]; done))

@[simp] theorem trainProgress_rest (s : State) :
    (trainProgress s).brd = s.brd ∧ (trainProgress s).fnc = s.fnc ∧ (trainProgress s).fuse = s.fuse ∧ (trainProgress s).fw = s.fw ∧
    (trainProgress s).lat = s.lat ∧ (trainProgress s).cfg = s.cfg ∧ (trainProgress s).fetchSeq = s.fetchSeq ∧
    (trainProgress s).side = s.side ∧ (trainProgress s).serial = s.serial ∧ (trainProgress s).pending = s.pending := by
  unfold trainProgress
  refine foldl_ind (fun u : State => (u).brd = s.brd ∧ (u).fnc = s.fnc ∧ (u).fuse = s.fuse ∧ (u).fw = s.fw ∧ (u).lat = s.lat ∧ (u).cfg = s.cfg ∧
    (u).fetchSeq = s.fetchSeq ∧ (u).side = s.side ∧ (u).serial = s.serial ∧ (u).pending = s.pending) _ _ _ (by simp) ?_
  intro t x h
  dsimp only
  repeat' (first | exact h | (simp [h]; done) | split)

@[simp] theorem rerankBack_rest (x : Nat) (cs : List Cand) (good : Bool) (s : State) :
    (rerankBack x cs good s).brd = s.brd ∧ (rerankBack x cs good s).fnc = s.fnc ∧ (rerankBack x cs good s).fuse = s.fuse ∧
    (rerankBack x cs good s).fw = s.fw ∧ (rerankBack x cs good s).lat = s.lat ∧ (rerankBack x cs good s).cfg = s.cfg ∧
    (rerankBack x cs good s).fetchSeq = s.fetchSeq ∧ (rerankBack x cs good s).idx = s.idx ∧ (rerankBack x cs good s).mods = s.mods ∧
    (rerankBack x cs good s).flash = s.flash ∧ (rerankBack x cs good s).side = s.side ∧ (rerankBack x cs good s).serial = s.serial ∧
    (rerankBack x cs good s).pending = s.pending := by
  unfold rerankBack
  repeat' (first | (simp; done) | split | (dsimp only; split))

@[simp] theorem vertexBack_rest (x : Nat) (ns : List Nat) (good : Bool) (s : State) :
    (vertexBack x ns good s).brd = s.brd ∧ (vertexBack x ns good s).evr = s.evr ∧ (vertexBack x ns good s).fnc = s.fnc ∧
    (vertexBack x ns good s).fuse = s.fuse ∧ (vertexBack x ns good s).fw = s.fw ∧ (vertexBack x ns good s).lat = s.lat ∧
    (vertexBack x ns good s).cfg = s.cfg ∧ (vertexBack x ns good s).hif = s.hif ∧ (vertexBack x ns good s).qps = s.qps ∧
    (vertexBack x ns good s).tags = s.tags ∧ (vertexBack x ns good s).cmds = s.cmds ∧ (vertexBack x ns good s).fetchSeq = s.fetchSeq ∧
    (vertexBack x ns good s).elog = s.elog ∧ (vertexBack x ns good s).elogSeq = s.elogSeq ∧ (vertexBack x ns good s).facets = s.facets ∧
    (vertexBack x ns good s).idx = s.idx ∧ (vertexBack x ns good s).mods = s.mods ∧ (vertexBack x ns good s).flash = s.flash ∧
    (vertexBack x ns good s).mem = s.mem ∧ (vertexBack x ns good s).chd = s.chd ∧ (vertexBack x ns good s).side = s.side ∧
    (vertexBack x ns good s).serial = s.serial ∧ (vertexBack x ns good s).out = s.out ∧ (vertexBack x ns good s).free = s.free ∧
    (vertexBack x ns good s).pending = s.pending := by
  unfold vertexBack
  repeat' (first | (simp; done) | split | (dsimp only; split))

@[simp] theorem mapBack_rest (t id : Nat) (good : Bool) (s : State) :
    (mapBack t id good s).brd = s.brd ∧ (mapBack t id good s).evr = s.evr ∧ (mapBack t id good s).fnc = s.fnc ∧
    (mapBack t id good s).fuse = s.fuse ∧ (mapBack t id good s).fw = s.fw ∧ (mapBack t id good s).lat = s.lat ∧
    (mapBack t id good s).cfg = s.cfg ∧ (mapBack t id good s).hif = s.hif ∧ (mapBack t id good s).qps = s.qps ∧
    (mapBack t id good s).tags = s.tags ∧ (mapBack t id good s).fetchSeq = s.fetchSeq ∧ (mapBack t id good s).elog = s.elog ∧
    (mapBack t id good s).elogSeq = s.elogSeq ∧ (mapBack t id good s).facets = s.facets ∧ (mapBack t id good s).mods = s.mods ∧
    (mapBack t id good s).srch = s.srch ∧ (mapBack t id good s).mem = s.mem ∧ (mapBack t id good s).chd = s.chd ∧
    (mapBack t id good s).side = s.side ∧ (mapBack t id good s).serial = s.serial ∧ (mapBack t id good s).out = s.out ∧
    (mapBack t id good s).free = s.free ∧ (mapBack t id good s).pending = s.pending := by
  unfold mapBack
  repeat' (first | (simp; done) | split | (dsimp only; split))

@[simp] theorem mineBack_rest (t : Nat) (cs : List Cand) (good : Bool) (s : State) :
    (mineBack t cs good s).brd = s.brd ∧ (mineBack t cs good s).evr = s.evr ∧ (mineBack t cs good s).fnc = s.fnc ∧
    (mineBack t cs good s).fuse = s.fuse ∧ (mineBack t cs good s).fw = s.fw ∧ (mineBack t cs good s).lat = s.lat ∧
    (mineBack t cs good s).cfg = s.cfg ∧ (mineBack t cs good s).hif = s.hif ∧ (mineBack t cs good s).qps = s.qps ∧
    (mineBack t cs good s).tags = s.tags ∧ (mineBack t cs good s).cmds = s.cmds ∧ (mineBack t cs good s).fetchSeq = s.fetchSeq ∧
    (mineBack t cs good s).elog = s.elog ∧ (mineBack t cs good s).elogSeq = s.elogSeq ∧ (mineBack t cs good s).facets = s.facets ∧
    (mineBack t cs good s).idx = s.idx ∧ (mineBack t cs good s).mods = s.mods ∧ (mineBack t cs good s).flash = s.flash ∧
    (mineBack t cs good s).mem = s.mem ∧ (mineBack t cs good s).chd = s.chd ∧ (mineBack t cs good s).side = s.side ∧
    (mineBack t cs good s).serial = s.serial ∧ (mineBack t cs good s).out = s.out ∧ (mineBack t cs good s).free = s.free ∧
    (mineBack t cs good s).pending = s.pending := by
  unfold mineBack
  repeat' (first | (simp; done) | split | (dsimp only; split))

@[simp] theorem readBack_rest (p : Purpose) (good : Bool) (s : State) :
    (readBack p good s).brd = s.brd ∧ (readBack p good s).fnc = s.fnc ∧ (readBack p good s).fuse = s.fuse ∧
    (readBack p good s).fw = s.fw ∧ (readBack p good s).lat = s.lat ∧ (readBack p good s).cfg = s.cfg ∧
    (readBack p good s).fetchSeq = s.fetchSeq ∧ (readBack p good s).mods = s.mods ∧ (readBack p good s).side = s.side ∧
    (readBack p good s).serial = s.serial ∧ (readBack p good s).pending = s.pending := by
  unfold readBack
  repeat' (first | (simp; done) | split | (dsimp only; split))

@[simp] theorem goneReads_rest (s : State) :
    (goneReads s).brd = s.brd ∧ (goneReads s).fnc = s.fnc ∧ (goneReads s).fuse = s.fuse ∧ (goneReads s).fw = s.fw ∧
    (goneReads s).lat = s.lat ∧ (goneReads s).cfg = s.cfg ∧ (goneReads s).fetchSeq = s.fetchSeq ∧ (goneReads s).mods = s.mods ∧
    (goneReads s).side = s.side ∧ (goneReads s).serial = s.serial ∧ (goneReads s).pending = s.pending := by
  have key := @foldl_ind (fun u : State => u.brd = s.brd ∧ u.fnc = s.fnc ∧ u.fuse = s.fuse ∧ u.fw = s.fw ∧ u.lat = s.lat ∧ u.cfg = s.cfg ∧ u.fetchSeq = s.fetchSeq ∧
      u.mods = s.mods ∧ u.side = s.side ∧ u.serial = s.serial ∧ u.pending = s.pending)
  unfold goneReads
  repeat' (first | (simp; done) | split | (dsimp only; split) | refine key _ _ _ ?_ ?_ |
    (dsimp only; refine key _ _ _ ?_ ?_) | intro t x h | (simp [h]; done))

@[simp] theorem countGrant_rest (q : Nat) (s : State) :
    (countGrant q s).brd = s.brd ∧ (countGrant q s).evr = s.evr ∧ (countGrant q s).fnc = s.fnc ∧ (countGrant q s).fuse = s.fuse ∧
    (countGrant q s).fw = s.fw ∧ (countGrant q s).lat = s.lat ∧ (countGrant q s).cfg = s.cfg ∧ (countGrant q s).qps = s.qps ∧
    (countGrant q s).tags = s.tags ∧ (countGrant q s).cmds = s.cmds ∧ (countGrant q s).fetchSeq = s.fetchSeq ∧
    (countGrant q s).elog = s.elog ∧ (countGrant q s).elogSeq = s.elogSeq ∧ (countGrant q s).facets = s.facets ∧
    (countGrant q s).idx = s.idx ∧ (countGrant q s).mods = s.mods ∧ (countGrant q s).flash = s.flash ∧ (countGrant q s).mem = s.mem ∧
    (countGrant q s).chd = s.chd ∧ (countGrant q s).side = s.side ∧ (countGrant q s).serial = s.serial ∧ (countGrant q s).out = s.out ∧
    (countGrant q s).free = s.free ∧ (countGrant q s).pending = s.pending := by
  unfold countGrant
  repeat' (first | (simp; done) | split | (dsimp only; split))

@[simp] theorem wake_rest (o : Op) (s : State) :
    (wake o s).evr = s.evr ∧ (wake o s).fnc = s.fnc ∧ (wake o s).fuse = s.fuse ∧ (wake o s).fw = s.fw ∧ (wake o s).lat = s.lat ∧
    (wake o s).cfg = s.cfg ∧ (wake o s).qps = s.qps ∧ (wake o s).tags = s.tags ∧ (wake o s).cmds = s.cmds ∧
    (wake o s).fetchSeq = s.fetchSeq ∧ (wake o s).elog = s.elog ∧ (wake o s).elogSeq = s.elogSeq ∧ (wake o s).idx = s.idx ∧
    (wake o s).mods = s.mods ∧ (wake o s).flash = s.flash ∧ (wake o s).mem = s.mem ∧ (wake o s).chd = s.chd ∧ (wake o s).side = s.side ∧
    (wake o s).serial = s.serial ∧ (wake o s).out = s.out ∧ (wake o s).free = s.free ∧ (wake o s).pending = s.pending := by
  unfold wake
  repeat' (first | (simp; done) | split | (dsimp only; split))

@[simp] theorem takeEntry_rest (c : Cmd) (q : Qp) (s : State) :
    (takeEntry c q s).brd = s.brd ∧ (takeEntry c q s).evr = s.evr ∧ (takeEntry c q s).fnc = s.fnc ∧ (takeEntry c q s).fuse = s.fuse ∧
    (takeEntry c q s).fw = s.fw ∧ (takeEntry c q s).lat = s.lat ∧ (takeEntry c q s).cfg = s.cfg ∧ (takeEntry c q s).hif = s.hif ∧
    (takeEntry c q s).elog = s.elog ∧ (takeEntry c q s).elogSeq = s.elogSeq ∧ (takeEntry c q s).facets = s.facets ∧
    (takeEntry c q s).idx = s.idx ∧ (takeEntry c q s).mods = s.mods ∧ (takeEntry c q s).srch = s.srch ∧
    (takeEntry c q s).flash = s.flash ∧ (takeEntry c q s).mem = s.mem ∧ (takeEntry c q s).chd = s.chd ∧ (takeEntry c q s).side = s.side ∧
    (takeEntry c q s).serial = s.serial ∧ (takeEntry c q s).out = s.out ∧ (takeEntry c q s).pending = s.pending := by
  unfold takeEntry
  repeat' (first | (simp; done) | split | (dsimp only; split))

@[simp] theorem askData_rest (c : Cmd) (addr len : Nat) (s : State) :
    (askData c addr len s).brd = s.brd ∧ (askData c addr len s).evr = s.evr ∧ (askData c addr len s).fnc = s.fnc ∧
    (askData c addr len s).fuse = s.fuse ∧ (askData c addr len s).fw = s.fw ∧ (askData c addr len s).lat = s.lat ∧
    (askData c addr len s).cfg = s.cfg ∧ (askData c addr len s).hif = s.hif ∧ (askData c addr len s).qps = s.qps ∧
    (askData c addr len s).fetchSeq = s.fetchSeq ∧ (askData c addr len s).elog = s.elog ∧ (askData c addr len s).elogSeq = s.elogSeq ∧
    (askData c addr len s).facets = s.facets ∧ (askData c addr len s).idx = s.idx ∧ (askData c addr len s).mods = s.mods ∧
    (askData c addr len s).srch = s.srch ∧ (askData c addr len s).flash = s.flash ∧ (askData c addr len s).mem = s.mem ∧
    (askData c addr len s).chd = s.chd ∧ (askData c addr len s).side = s.side ∧ (askData c addr len s).serial = s.serial ∧
    (askData c addr len s).free = s.free ∧ (askData c addr len s).pending = s.pending := by
  unfold askData
  repeat' (first | (simp; done) | split | (dsimp only; split))

@[simp] theorem beginResketch_rest (c : Cmd) (s : State) :
    (beginResketch c s).brd = s.brd ∧ (beginResketch c s).evr = s.evr ∧ (beginResketch c s).fnc = s.fnc ∧
    (beginResketch c s).fuse = s.fuse ∧ (beginResketch c s).fw = s.fw ∧ (beginResketch c s).lat = s.lat ∧
    (beginResketch c s).cfg = s.cfg ∧ (beginResketch c s).fetchSeq = s.fetchSeq ∧ (beginResketch c s).mods = s.mods ∧
    (beginResketch c s).srch = s.srch ∧ (beginResketch c s).flash = s.flash ∧ (beginResketch c s).chd = s.chd ∧
    (beginResketch c s).side = s.side ∧ (beginResketch c s).serial = s.serial ∧ (beginResketch c s).free = s.free ∧
    (beginResketch c s).pending = s.pending := by
  have key := @foldl_ind (fun u : State => u.brd = s.brd ∧ u.evr = s.evr ∧ u.fnc = s.fnc ∧ u.fuse = s.fuse ∧ u.fw = s.fw ∧ u.lat = s.lat ∧ u.cfg = s.cfg ∧
      u.fetchSeq = s.fetchSeq ∧ u.mods = s.mods ∧ u.srch = s.srch ∧ u.flash = s.flash ∧ u.chd = s.chd ∧ u.side = s.side ∧
      u.serial = s.serial ∧ u.free = s.free ∧ u.pending = s.pending)
  unfold beginResketch
  repeat' (first | (simp; done) | split | (dsimp only; split) | refine key _ _ _ ?_ ?_ |
    (dsimp only; refine key _ _ _ ?_ ?_) | intro t x h | (simp [h]; done))

@[simp] theorem emptySlot_rest (f slot : Nat) (s : State) :
    (emptySlot f slot s).brd = s.brd ∧ (emptySlot f slot s).evr = s.evr ∧ (emptySlot f slot s).fnc = s.fnc ∧
    (emptySlot f slot s).fuse = s.fuse ∧ (emptySlot f slot s).fw = s.fw ∧ (emptySlot f slot s).lat = s.lat ∧
    (emptySlot f slot s).cfg = s.cfg ∧ (emptySlot f slot s).hif = s.hif ∧ (emptySlot f slot s).qps = s.qps ∧
    (emptySlot f slot s).tags = s.tags ∧ (emptySlot f slot s).cmds = s.cmds ∧ (emptySlot f slot s).fetchSeq = s.fetchSeq ∧
    (emptySlot f slot s).elog = s.elog ∧ (emptySlot f slot s).elogSeq = s.elogSeq ∧ (emptySlot f slot s).facets = s.facets ∧
    (emptySlot f slot s).idx = s.idx ∧ (emptySlot f slot s).srch = s.srch ∧ (emptySlot f slot s).flash = s.flash ∧
    (emptySlot f slot s).mem = s.mem ∧ (emptySlot f slot s).chd = s.chd ∧ (emptySlot f slot s).side = s.side ∧
    (emptySlot f slot s).serial = s.serial ∧ (emptySlot f slot s).out = s.out ∧ (emptySlot f slot s).free = s.free ∧
    (emptySlot f slot s).pending = s.pending := by
  unfold emptySlot
  repeat' (first | (simp; done) | split | (dsimp only; split))

@[simp] theorem beginModelLoad_rest (c : Cmd) (s : State) :
    (beginModelLoad c s).brd = s.brd ∧ (beginModelLoad c s).evr = s.evr ∧ (beginModelLoad c s).fnc = s.fnc ∧
    (beginModelLoad c s).fuse = s.fuse ∧ (beginModelLoad c s).fw = s.fw ∧ (beginModelLoad c s).lat = s.lat ∧
    (beginModelLoad c s).cfg = s.cfg ∧ (beginModelLoad c s).fetchSeq = s.fetchSeq ∧ (beginModelLoad c s).facets = s.facets ∧
    (beginModelLoad c s).idx = s.idx ∧ (beginModelLoad c s).srch = s.srch ∧ (beginModelLoad c s).mem = s.mem ∧
    (beginModelLoad c s).chd = s.chd ∧ (beginModelLoad c s).side = s.side ∧ (beginModelLoad c s).serial = s.serial ∧
    (beginModelLoad c s).pending = s.pending := by
  unfold beginModelLoad
  repeat' (first | (simp; done) | split | (dsimp only; split))

@[simp] theorem beginQuery_rest (c : Cmd) (s : State) :
    (beginQuery c s).brd = s.brd ∧ (beginQuery c s).evr = s.evr ∧ (beginQuery c s).fnc = s.fnc ∧ (beginQuery c s).fuse = s.fuse ∧
    (beginQuery c s).fw = s.fw ∧ (beginQuery c s).lat = s.lat ∧ (beginQuery c s).cfg = s.cfg ∧ (beginQuery c s).hif = s.hif ∧
    (beginQuery c s).qps = s.qps ∧ (beginQuery c s).fetchSeq = s.fetchSeq ∧ (beginQuery c s).elog = s.elog ∧
    (beginQuery c s).elogSeq = s.elogSeq ∧ (beginQuery c s).idx = s.idx ∧ (beginQuery c s).mods = s.mods ∧
    (beginQuery c s).srch = s.srch ∧ (beginQuery c s).flash = s.flash ∧ (beginQuery c s).mem = s.mem ∧ (beginQuery c s).side = s.side ∧
    (beginQuery c s).serial = s.serial ∧ (beginQuery c s).pending = s.pending := by
  unfold beginQuery
  repeat' (first | (simp; done) | split | (dsimp only; split))

@[simp] theorem beginCmd_rest (c : Cmd) (s : State) :
    (beginCmd c s).fnc = s.fnc ∧ (beginCmd c s).fuse = s.fuse ∧ (beginCmd c s).cfg = s.cfg ∧ (beginCmd c s).fetchSeq = s.fetchSeq ∧
    (beginCmd c s).side = s.side ∧ (beginCmd c s).serial = s.serial ∧ (beginCmd c s).pending = s.pending := by
  unfold beginCmd
  repeat' (first | (simp; done) | split | (dsimp only; split))

@[simp] theorem acceptCmd_rest (c : Cmd) (s : State) :
    (acceptCmd c s).fnc = s.fnc ∧ (acceptCmd c s).fuse = s.fuse ∧ (acceptCmd c s).cfg = s.cfg ∧ (acceptCmd c s).fetchSeq = s.fetchSeq ∧
    (acceptCmd c s).side = s.side ∧ (acceptCmd c s).serial = s.serial ∧ (acceptCmd c s).pending = s.pending := by
  unfold acceptCmd
  repeat' (first | (simp; done) | split | (dsimp only; split))

@[simp] theorem checkCmd_rest (c : Cmd) (s : State) :
    (checkCmd c s).fnc = s.fnc ∧ (checkCmd c s).fuse = s.fuse ∧ (checkCmd c s).cfg = s.cfg ∧ (checkCmd c s).fetchSeq = s.fetchSeq ∧
    (checkCmd c s).side = s.side ∧ (checkCmd c s).serial = s.serial ∧ (checkCmd c s).pending = s.pending := by
  unfold checkCmd
  repeat' (first | (simp; done) | split | (dsimp only; split))

@[simp] theorem turnCmd_rest (c : Cmd) (s : State) :
    (turnCmd c s).fnc = s.fnc ∧ (turnCmd c s).fuse = s.fuse ∧ (turnCmd c s).cfg = s.cfg ∧ (turnCmd c s).fetchSeq = s.fetchSeq ∧
    (turnCmd c s).side = s.side ∧ (turnCmd c s).serial = s.serial ∧ (turnCmd c s).pending = s.pending := by
  unfold turnCmd
  repeat' (first | (simp; done) | split | (dsimp only; split))

@[simp] theorem startSerial_rest  (n0 : Nat) (s : State) :
    (startSerial n0 s).fnc = s.fnc ∧ (startSerial n0 s).fuse = s.fuse ∧ (startSerial n0 s).cfg = s.cfg ∧
    (startSerial n0 s).fetchSeq = s.fetchSeq ∧ (startSerial n0 s).side = s.side ∧ (startSerial n0 s).serial = s.serial ∧
    (startSerial n0 s).pending = s.pending := by
  fun_induction startSerial n0 s <;> simp_all

@[simp] theorem startFirmware_rest (s : State) :
    (startFirmware s).brd = s.brd ∧ (startFirmware s).evr = s.evr ∧ (startFirmware s).fnc = s.fnc ∧ (startFirmware s).fuse = s.fuse ∧
    (startFirmware s).lat = s.lat ∧ (startFirmware s).cfg = s.cfg ∧ (startFirmware s).fetchSeq = s.fetchSeq ∧
    (startFirmware s).facets = s.facets ∧ (startFirmware s).idx = s.idx ∧ (startFirmware s).mods = s.mods ∧
    (startFirmware s).srch = s.srch ∧ (startFirmware s).mem = s.mem ∧ (startFirmware s).chd = s.chd ∧ (startFirmware s).side = s.side ∧
    (startFirmware s).serial = s.serial ∧ (startFirmware s).pending = s.pending := by
  have key := @foldl_ind (fun u : State => u.brd = s.brd ∧ u.evr = s.evr ∧ u.fnc = s.fnc ∧ u.fuse = s.fuse ∧ u.lat = s.lat ∧ u.cfg = s.cfg ∧ u.fetchSeq = s.fetchSeq ∧
      u.facets = s.facets ∧ u.idx = s.idx ∧ u.mods = s.mods ∧ u.srch = s.srch ∧ u.mem = s.mem ∧ u.chd = s.chd ∧ u.side = s.side ∧
      u.serial = s.serial ∧ u.pending = s.pending)
  unfold startFirmware
  repeat' (first | (simp; done) | split | (dsimp only; split) | refine key _ _ _ ?_ ?_ |
    (dsimp only; refine key _ _ _ ?_ ?_) | intro t x h | (simp [h]; done))

@[simp] theorem startPower_rest (s : State) :
    (startPower s).evr = s.evr ∧ (startPower s).fnc = s.fnc ∧ (startPower s).fuse = s.fuse ∧ (startPower s).fw = s.fw ∧
    (startPower s).lat = s.lat ∧ (startPower s).cfg = s.cfg ∧ (startPower s).qps = s.qps ∧ (startPower s).fetchSeq = s.fetchSeq ∧
    (startPower s).elog = s.elog ∧ (startPower s).elogSeq = s.elogSeq ∧ (startPower s).facets = s.facets ∧ (startPower s).idx = s.idx ∧
    (startPower s).mods = s.mods ∧ (startPower s).srch = s.srch ∧ (startPower s).flash = s.flash ∧ (startPower s).mem = s.mem ∧
    (startPower s).chd = s.chd ∧ (startPower s).side = s.side ∧ (startPower s).serial = s.serial ∧ (startPower s).out = s.out ∧
    (startPower s).free = s.free ∧ (startPower s).pending = s.pending := by
  unfold startPower
  repeat' (first | (simp; done) | split | (dsimp only; split))

@[simp] theorem startResketches_rest (s : State) :
    (startResketches s).brd = s.brd ∧ (startResketches s).evr = s.evr ∧ (startResketches s).fnc = s.fnc ∧
    (startResketches s).fuse = s.fuse ∧ (startResketches s).fw = s.fw ∧ (startResketches s).lat = s.lat ∧
    (startResketches s).cfg = s.cfg ∧ (startResketches s).fetchSeq = s.fetchSeq ∧ (startResketches s).mods = s.mods ∧
    (startResketches s).srch = s.srch ∧ (startResketches s).flash = s.flash ∧ (startResketches s).chd = s.chd ∧
    (startResketches s).side = s.side ∧ (startResketches s).serial = s.serial ∧ (startResketches s).free = s.free ∧
    (startResketches s).pending = s.pending := by
  have key := @foldl_ind (fun u : State => u.brd = s.brd ∧ u.evr = s.evr ∧ u.fnc = s.fnc ∧ u.fuse = s.fuse ∧ u.fw = s.fw ∧ u.lat = s.lat ∧ u.cfg = s.cfg ∧
      u.fetchSeq = s.fetchSeq ∧ u.mods = s.mods ∧ u.srch = s.srch ∧ u.flash = s.flash ∧ u.chd = s.chd ∧ u.side = s.side ∧
      u.serial = s.serial ∧ u.free = s.free ∧ u.pending = s.pending)
  unfold startResketches
  repeat' (first | (simp; done) | split | (dsimp only; split) | refine key _ _ _ ?_ ?_ |
    (dsimp only; refine key _ _ _ ?_ ?_) | intro t x h | (simp [h]; done))

@[simp] theorem trimCaches_rest (s : State) :
    (trimCaches s).brd = s.brd ∧ (trimCaches s).evr = s.evr ∧ (trimCaches s).fnc = s.fnc ∧ (trimCaches s).fuse = s.fuse ∧
    (trimCaches s).fw = s.fw ∧ (trimCaches s).lat = s.lat ∧ (trimCaches s).cfg = s.cfg ∧ (trimCaches s).hif = s.hif ∧
    (trimCaches s).qps = s.qps ∧ (trimCaches s).tags = s.tags ∧ (trimCaches s).cmds = s.cmds ∧ (trimCaches s).fetchSeq = s.fetchSeq ∧
    (trimCaches s).elog = s.elog ∧ (trimCaches s).elogSeq = s.elogSeq ∧ (trimCaches s).facets = s.facets ∧ (trimCaches s).mods = s.mods ∧
    (trimCaches s).srch = s.srch ∧ (trimCaches s).flash = s.flash ∧ (trimCaches s).mem = s.mem ∧ (trimCaches s).chd = s.chd ∧
    (trimCaches s).side = s.side ∧ (trimCaches s).serial = s.serial ∧ (trimCaches s).out = s.out ∧ (trimCaches s).free = s.free ∧
    (trimCaches s).pending = s.pending := by
  have key := @foldl_ind (fun u : State => u.brd = s.brd ∧ u.evr = s.evr ∧ u.fnc = s.fnc ∧ u.fuse = s.fuse ∧ u.fw = s.fw ∧ u.lat = s.lat ∧ u.cfg = s.cfg ∧ u.hif = s.hif ∧
      u.qps = s.qps ∧ u.tags = s.tags ∧ u.cmds = s.cmds ∧ u.fetchSeq = s.fetchSeq ∧ u.elog = s.elog ∧ u.elogSeq = s.elogSeq ∧
      u.facets = s.facets ∧ u.mods = s.mods ∧ u.srch = s.srch ∧ u.flash = s.flash ∧ u.mem = s.mem ∧ u.chd = s.chd ∧ u.side = s.side ∧
      u.serial = s.serial ∧ u.out = s.out ∧ u.free = s.free ∧ u.pending = s.pending)
  unfold trimCaches
  repeat' (first | (simp; done) | split | (dsimp only; split) | refine key _ _ _ ?_ ?_ |
    (dsimp only; refine key _ _ _ ?_ ?_) | intro t x h | (simp [h]; done))

@[simp] theorem settle_rest (s : State) :
    (settle s).fnc = s.fnc ∧ (settle s).fuse = s.fuse ∧ (settle s).cfg = s.cfg ∧ (settle s).fetchSeq = s.fetchSeq ∧
    (settle s).side = s.side ∧ (settle s).serial = s.serial ∧ (settle s).pending = s.pending := by
  unfold settle
  repeat' (first | (simp; done) | split | (dsimp only; split))

@[simp] theorem fetchEntry_rest (row : Op) (e : Entry) (s : State) :
    (fetchEntry row e s).fnc = s.fnc ∧ (fetchEntry row e s).fuse = s.fuse ∧ (fetchEntry row e s).cfg = s.cfg ∧
    (fetchEntry row e s).side = s.side ∧ (fetchEntry row e s).serial = s.serial ∧ (fetchEntry row e s).pending = s.pending := by
  unfold fetchEntry
  repeat' (first | (simp; done) | split | (dsimp only; split))

@[simp] theorem trainHeader_rest (c : Cmd) (d : Bytes) (s : State) :
    (trainHeader c d s).brd = s.brd ∧ (trainHeader c d s).evr = s.evr ∧ (trainHeader c d s).fnc = s.fnc ∧
    (trainHeader c d s).fuse = s.fuse ∧ (trainHeader c d s).fw = s.fw ∧ (trainHeader c d s).lat = s.lat ∧
    (trainHeader c d s).cfg = s.cfg ∧ (trainHeader c d s).fetchSeq = s.fetchSeq ∧ (trainHeader c d s).facets = s.facets ∧
    (trainHeader c d s).idx = s.idx ∧ (trainHeader c d s).mods = s.mods ∧ (trainHeader c d s).srch = s.srch ∧
    (trainHeader c d s).flash = s.flash ∧ (trainHeader c d s).mem = s.mem ∧ (trainHeader c d s).chd = s.chd ∧
    (trainHeader c d s).side = s.side ∧ (trainHeader c d s).serial = s.serial ∧ (trainHeader c d s).free = s.free ∧
    (trainHeader c d s).pending = s.pending := by
  unfold trainHeader
  repeat' (first | (simp; done) | split | (dsimp only; split))

@[simp] theorem haveData_rest (c : Cmd) (d : Bytes) (s : State) :
    (haveData c d s).fnc = s.fnc ∧ (haveData c d s).fuse = s.fuse ∧ (haveData c d s).cfg = s.cfg ∧
    (haveData c d s).fetchSeq = s.fetchSeq ∧ (haveData c d s).side = s.side ∧ (haveData c d s).serial = s.serial ∧
    (haveData c d s).pending = s.pending := by
  unfold haveData
  repeat' (first | (simp; done) | split | (dsimp only; split))

@[simp] theorem hostData_rest (t : Nat) (d : Bytes) (poisoned : Bool) (s : State) :
    (hostData t d poisoned s).fnc = s.fnc ∧ (hostData t d poisoned s).fuse = s.fuse ∧ (hostData t d poisoned s).cfg = s.cfg ∧
    (hostData t d poisoned s).fetchSeq = s.fetchSeq ∧ (hostData t d poisoned s).side = s.side ∧
    (hostData t d poisoned s).serial = s.serial ∧ (hostData t d poisoned s).pending = s.pending := by
  unfold hostData
  repeat' (first | (simp; done) | split | (dsimp only; split))

@[simp] theorem readTimeout_rest (tag : Nat) (s : State) :
    (readTimeout tag s).fnc = s.fnc ∧ (readTimeout tag s).fuse = s.fuse ∧ (readTimeout tag s).cfg = s.cfg ∧
    (readTimeout tag s).fetchSeq = s.fetchSeq ∧ (readTimeout tag s).side = s.side ∧ (readTimeout tag s).serial = s.serial ∧
    (readTimeout tag s).pending = s.pending := by
  unfold readTimeout
  repeat' (first | (simp; done) | split | (dsimp only; split))

@[simp] theorem countStreamed_rest (f slot : Nat) (hbm : List (Nat × Nat × Nat × Nat)) (s : State) :
    (countStreamed f slot hbm s).brd = s.brd ∧ (countStreamed f slot hbm s).evr = s.evr ∧ (countStreamed f slot hbm s).fnc = s.fnc ∧
    (countStreamed f slot hbm s).fuse = s.fuse ∧ (countStreamed f slot hbm s).fw = s.fw ∧ (countStreamed f slot hbm s).lat = s.lat ∧
    (countStreamed f slot hbm s).cfg = s.cfg ∧ (countStreamed f slot hbm s).hif = s.hif ∧ (countStreamed f slot hbm s).qps = s.qps ∧
    (countStreamed f slot hbm s).tags = s.tags ∧ (countStreamed f slot hbm s).cmds = s.cmds ∧
    (countStreamed f slot hbm s).fetchSeq = s.fetchSeq ∧ (countStreamed f slot hbm s).elog = s.elog ∧
    (countStreamed f slot hbm s).elogSeq = s.elogSeq ∧ (countStreamed f slot hbm s).facets = s.facets ∧
    (countStreamed f slot hbm s).idx = s.idx ∧ (countStreamed f slot hbm s).mods = s.mods ∧ (countStreamed f slot hbm s).srch = s.srch ∧
    (countStreamed f slot hbm s).flash = s.flash ∧ (countStreamed f slot hbm s).chd = s.chd ∧ (countStreamed f slot hbm s).side = s.side ∧
    (countStreamed f slot hbm s).serial = s.serial ∧ (countStreamed f slot hbm s).out = s.out ∧
    (countStreamed f slot hbm s).free = s.free ∧ (countStreamed f slot hbm s).pending = s.pending := by
  have key := @foldl_ind (fun u : State => u.brd = s.brd ∧ u.evr = s.evr ∧ u.fnc = s.fnc ∧ u.fuse = s.fuse ∧ u.fw = s.fw ∧ u.lat = s.lat ∧ u.cfg = s.cfg ∧ u.hif = s.hif ∧
      u.qps = s.qps ∧ u.tags = s.tags ∧ u.cmds = s.cmds ∧ u.fetchSeq = s.fetchSeq ∧ u.elog = s.elog ∧ u.elogSeq = s.elogSeq ∧
      u.facets = s.facets ∧ u.idx = s.idx ∧ u.mods = s.mods ∧ u.srch = s.srch ∧ u.flash = s.flash ∧ u.chd = s.chd ∧ u.side = s.side ∧
      u.serial = s.serial ∧ u.out = s.out ∧ u.free = s.free ∧ u.pending = s.pending)
  unfold countStreamed
  repeat' (first | (simp; done) | split | (dsimp only; split) | refine key _ _ _ ?_ ?_ |
    (dsimp only; refine key _ _ _ ?_ ?_) | intro t x h | (simp [h]; done))

@[simp] theorem armMemory_rest (f slot cls : Nat) (hbm : List (Nat × Nat × Nat × Nat)) (s : State) :
    (armMemory f slot cls hbm s).brd = s.brd ∧ (armMemory f slot cls hbm s).evr = s.evr ∧ (armMemory f slot cls hbm s).fnc = s.fnc ∧
    (armMemory f slot cls hbm s).fuse = s.fuse ∧ (armMemory f slot cls hbm s).fw = s.fw ∧ (armMemory f slot cls hbm s).lat = s.lat ∧
    (armMemory f slot cls hbm s).cfg = s.cfg ∧ (armMemory f slot cls hbm s).hif = s.hif ∧ (armMemory f slot cls hbm s).qps = s.qps ∧
    (armMemory f slot cls hbm s).tags = s.tags ∧ (armMemory f slot cls hbm s).cmds = s.cmds ∧
    (armMemory f slot cls hbm s).fetchSeq = s.fetchSeq ∧ (armMemory f slot cls hbm s).elog = s.elog ∧
    (armMemory f slot cls hbm s).elogSeq = s.elogSeq ∧ (armMemory f slot cls hbm s).facets = s.facets ∧
    (armMemory f slot cls hbm s).idx = s.idx ∧ (armMemory f slot cls hbm s).mods = s.mods ∧ (armMemory f slot cls hbm s).flash = s.flash ∧
    (armMemory f slot cls hbm s).chd = s.chd ∧ (armMemory f slot cls hbm s).side = s.side ∧
    (armMemory f slot cls hbm s).serial = s.serial ∧ (armMemory f slot cls hbm s).out = s.out ∧
    (armMemory f slot cls hbm s).free = s.free ∧ (armMemory f slot cls hbm s).pending = s.pending := by
  unfold armMemory
  repeat' (first | (simp; done) | split | (dsimp only; split))

@[simp] theorem stage_rest (f slot cls kind count : Nat) (mk : State → Index → Plan) (s : State) :
    (stage f slot cls kind count mk s).fnc = s.fnc ∧ (stage f slot cls kind count mk s).fuse = s.fuse ∧
    (stage f slot cls kind count mk s).cfg = s.cfg ∧ (stage f slot cls kind count mk s).fetchSeq = s.fetchSeq ∧
    (stage f slot cls kind count mk s).side = s.side ∧ (stage f slot cls kind count mk s).serial = s.serial ∧
    (stage f slot cls kind count mk s).pending = s.pending := by
  unfold stage
  repeat' (first | (simp; done) | split | (dsimp only; split))

@[simp] theorem goOn_rest (f slot : Nat) (s : State) :
    (goOn f slot s).fnc = s.fnc ∧ (goOn f slot s).fuse = s.fuse ∧ (goOn f slot s).cfg = s.cfg ∧ (goOn f slot s).fetchSeq = s.fetchSeq ∧
    (goOn f slot s).side = s.side ∧ (goOn f slot s).serial = s.serial ∧ (goOn f slot s).pending = s.pending := by
  unfold goOn
  repeat' (first | (simp; done) | split | (dsimp only; split))

@[simp] theorem endMemory_rest (f slot : Nat) (s : State) :
    (endMemory f slot s).brd = s.brd ∧ (endMemory f slot s).evr = s.evr ∧ (endMemory f slot s).fnc = s.fnc ∧
    (endMemory f slot s).fuse = s.fuse ∧ (endMemory f slot s).fw = s.fw ∧ (endMemory f slot s).lat = s.lat ∧
    (endMemory f slot s).cfg = s.cfg ∧ (endMemory f slot s).hif = s.hif ∧ (endMemory f slot s).qps = s.qps ∧
    (endMemory f slot s).tags = s.tags ∧ (endMemory f slot s).cmds = s.cmds ∧ (endMemory f slot s).fetchSeq = s.fetchSeq ∧
    (endMemory f slot s).elog = s.elog ∧ (endMemory f slot s).elogSeq = s.elogSeq ∧ (endMemory f slot s).facets = s.facets ∧
    (endMemory f slot s).idx = s.idx ∧ (endMemory f slot s).mods = s.mods ∧ (endMemory f slot s).srch = s.srch ∧
    (endMemory f slot s).flash = s.flash ∧ (endMemory f slot s).chd = s.chd ∧ (endMemory f slot s).side = s.side ∧
    (endMemory f slot s).serial = s.serial ∧ (endMemory f slot s).out = s.out ∧ (endMemory f slot s).free = s.free ∧
    (endMemory f slot s).pending = s.pending := by
  unfold endMemory
  repeat' (first | (simp; done) | split | (dsimp only; split))

@[simp] theorem writeAgain_rest (f slot : Nat) (ix : Index) (p : Plan) (s : State) :
    (writeAgain f slot ix p s).fnc = s.fnc ∧ (writeAgain f slot ix p s).fuse = s.fuse ∧ (writeAgain f slot ix p s).cfg = s.cfg ∧
    (writeAgain f slot ix p s).fetchSeq = s.fetchSeq ∧ (writeAgain f slot ix p s).side = s.side ∧
    (writeAgain f slot ix p s).serial = s.serial ∧ (writeAgain f slot ix p s).pending = s.pending := by
  unfold writeAgain
  repeat' (first | (simp; done) | split | (dsimp only; split))

theorem publishPlan_rest (f slot : Nat) (p : Plan) (s : State)
    (h : (p.also s).fnc = s.fnc ∧ (p.also s).fuse = s.fuse ∧ (p.also s).cfg = s.cfg ∧ (p.also s).fetchSeq = s.fetchSeq ∧
    (p.also s).side = s.side ∧ (p.also s).serial = s.serial ∧ (p.also s).pending = s.pending) :
    (publishPlan f slot p s).fnc = s.fnc ∧ (publishPlan f slot p s).fuse = s.fuse ∧ (publishPlan f slot p s).cfg = s.cfg ∧
    (publishPlan f slot p s).fetchSeq = s.fetchSeq ∧ (publishPlan f slot p s).side = s.side ∧ (publishPlan f slot p s).serial = s.serial ∧
    (publishPlan f slot p s).pending = s.pending := by
  have key : ∀ t : State, ((t).fnc = s.fnc ∧ (t).fuse = s.fuse ∧ (t).cfg = s.cfg ∧ (t).fetchSeq = s.fetchSeq ∧ (t).side = s.side ∧ (t).serial = s.serial ∧
    (t).pending = s.pending) →
      (let u := p.keys.foldl (fun t k => keepChecks f slot k t) t
       (u).fnc = s.fnc ∧ (u).fuse = s.fuse ∧ (u).cfg = s.cfg ∧ (u).fetchSeq = s.fetchSeq ∧ (u).side = s.side ∧ (u).serial = s.serial ∧
    (u).pending = s.pending) := fun t h0 =>
    foldl_ind (fun u : State => (u).fnc = s.fnc ∧ (u).fuse = s.fuse ∧ (u).cfg = s.cfg ∧ (u).fetchSeq = s.fetchSeq ∧ (u).side = s.side ∧ (u).serial = s.serial ∧
    (u).pending = s.pending) _ _ _ h0 (by intro t x ht; simp [ht])
  unfold publishPlan
  have h2 := key (writePages p.writes (markChanged f (endMemory f slot
    (updIdx f slot (fun _ => { zeroReclaimed p.writes p.new with staged := none, work := none }) (p.also s))))) (by simp [h])
  simpa [useFree] using h2

@[simp] theorem publish_rest (f slot : Nat) (ix : Index) (p : Plan) (s : State)
    (h : (p.also s).fnc = s.fnc ∧ (p.also s).fuse = s.fuse ∧ (p.also s).cfg = s.cfg ∧ (p.also s).fetchSeq = s.fetchSeq ∧
    (p.also s).side = s.side ∧ (p.also s).serial = s.serial ∧ (p.also s).pending = s.pending) :
    (publish f slot ix p s).fnc = s.fnc ∧ (publish f slot ix p s).fuse = s.fuse ∧ (publish f slot ix p s).cfg = s.cfg ∧
    (publish f slot ix p s).fetchSeq = s.fetchSeq ∧ (publish f slot ix p s).side = s.side ∧ (publish f slot ix p s).serial = s.serial ∧
    (publish f slot ix p s).pending = s.pending := by
  unfold publish
  split
  · exact publishPlan_rest f slot p s h
  · simp

@[simp] theorem unstage_rest (f slot : Nat) (s : State) :
    (unstage f slot s).fnc = s.fnc ∧ (unstage f slot s).fuse = s.fuse ∧ (unstage f slot s).cfg = s.cfg ∧
    (unstage f slot s).fetchSeq = s.fetchSeq ∧ (unstage f slot s).side = s.side ∧ (unstage f slot s).serial = s.serial ∧
    (unstage f slot s).pending = s.pending := by
  unfold unstage
  repeat' (first | (simp; done) | split | (dsimp only; split))

@[simp] theorem carryLost_rest (e : Nat) (gone : Unit' → Bool) (pairs : List (Unit' × Unit')) (s : State) :
    (carryLost e gone pairs s).brd = s.brd ∧ (carryLost e gone pairs s).evr = s.evr ∧ (carryLost e gone pairs s).fnc = s.fnc ∧
    (carryLost e gone pairs s).fuse = s.fuse ∧ (carryLost e gone pairs s).fw = s.fw ∧ (carryLost e gone pairs s).lat = s.lat ∧
    (carryLost e gone pairs s).cfg = s.cfg ∧ (carryLost e gone pairs s).hif = s.hif ∧ (carryLost e gone pairs s).qps = s.qps ∧
    (carryLost e gone pairs s).tags = s.tags ∧ (carryLost e gone pairs s).cmds = s.cmds ∧
    (carryLost e gone pairs s).fetchSeq = s.fetchSeq ∧ (carryLost e gone pairs s).elog = s.elog ∧
    (carryLost e gone pairs s).elogSeq = s.elogSeq ∧ (carryLost e gone pairs s).facets = s.facets ∧
    (carryLost e gone pairs s).idx = s.idx ∧ (carryLost e gone pairs s).mods = s.mods ∧ (carryLost e gone pairs s).srch = s.srch ∧
    (carryLost e gone pairs s).mem = s.mem ∧ (carryLost e gone pairs s).chd = s.chd ∧ (carryLost e gone pairs s).side = s.side ∧
    (carryLost e gone pairs s).serial = s.serial ∧ (carryLost e gone pairs s).out = s.out ∧ (carryLost e gone pairs s).free = s.free ∧
    (carryLost e gone pairs s).pending = s.pending := by
  unfold carryLost
  repeat' (first | (simp; done) | split | (dsimp only; split))

@[simp] theorem overflows_rest (f slot left : Nat) (ls : List Nat) (s : State) :
    (overflows f slot left ls s).brd = s.brd ∧ (overflows f slot left ls s).fnc = s.fnc ∧ (overflows f slot left ls s).fuse = s.fuse ∧
    (overflows f slot left ls s).fw = s.fw ∧ (overflows f slot left ls s).lat = s.lat ∧ (overflows f slot left ls s).cfg = s.cfg ∧
    (overflows f slot left ls s).qps = s.qps ∧ (overflows f slot left ls s).tags = s.tags ∧ (overflows f slot left ls s).cmds = s.cmds ∧
    (overflows f slot left ls s).fetchSeq = s.fetchSeq ∧ (overflows f slot left ls s).elog = s.elog ∧
    (overflows f slot left ls s).elogSeq = s.elogSeq ∧ (overflows f slot left ls s).facets = s.facets ∧
    (overflows f slot left ls s).idx = s.idx ∧ (overflows f slot left ls s).mods = s.mods ∧ (overflows f slot left ls s).srch = s.srch ∧
    (overflows f slot left ls s).flash = s.flash ∧ (overflows f slot left ls s).mem = s.mem ∧ (overflows f slot left ls s).chd = s.chd ∧
    (overflows f slot left ls s).side = s.side ∧ (overflows f slot left ls s).serial = s.serial ∧
    (overflows f slot left ls s).free = s.free ∧ (overflows f slot left ls s).pending = s.pending := by
  have key := @foldl_ind (fun u : State => u.brd = s.brd ∧ u.fnc = s.fnc ∧ u.fuse = s.fuse ∧ u.fw = s.fw ∧ u.lat = s.lat ∧ u.cfg = s.cfg ∧ u.qps = s.qps ∧ u.tags = s.tags ∧
      u.cmds = s.cmds ∧ u.fetchSeq = s.fetchSeq ∧ u.elog = s.elog ∧ u.elogSeq = s.elogSeq ∧ u.facets = s.facets ∧ u.idx = s.idx ∧
      u.mods = s.mods ∧ u.srch = s.srch ∧ u.flash = s.flash ∧ u.mem = s.mem ∧ u.chd = s.chd ∧ u.side = s.side ∧ u.serial = s.serial ∧
      u.free = s.free ∧ u.pending = s.pending)
  unfold overflows
  repeat' (first | (simp; done) | split | (dsimp only; split) | refine key _ _ _ ?_ ?_ |
    (dsimp only; refine key _ _ _ ?_ ?_) | intro t x h | (simp [h]; done))

@[simp] theorem countMoved_rest (s : State) (ix : Index) (cls : Nat) (live : List SideEnt) (t : State) :
    (countMoved s ix cls live t).brd = t.brd ∧ (countMoved s ix cls live t).evr = t.evr ∧ (countMoved s ix cls live t).fnc = t.fnc ∧
    (countMoved s ix cls live t).fuse = t.fuse ∧ (countMoved s ix cls live t).fw = t.fw ∧ (countMoved s ix cls live t).lat = t.lat ∧
    (countMoved s ix cls live t).cfg = t.cfg ∧ (countMoved s ix cls live t).hif = t.hif ∧ (countMoved s ix cls live t).qps = t.qps ∧
    (countMoved s ix cls live t).tags = t.tags ∧ (countMoved s ix cls live t).cmds = t.cmds ∧
    (countMoved s ix cls live t).fetchSeq = t.fetchSeq ∧ (countMoved s ix cls live t).elog = t.elog ∧
    (countMoved s ix cls live t).elogSeq = t.elogSeq ∧ (countMoved s ix cls live t).idx = t.idx ∧
    (countMoved s ix cls live t).mods = t.mods ∧ (countMoved s ix cls live t).srch = t.srch ∧
    (countMoved s ix cls live t).flash = t.flash ∧ (countMoved s ix cls live t).mem = t.mem ∧ (countMoved s ix cls live t).chd = t.chd ∧
    (countMoved s ix cls live t).side = t.side ∧ (countMoved s ix cls live t).serial = t.serial ∧
    (countMoved s ix cls live t).out = t.out ∧ (countMoved s ix cls live t).free = t.free ∧
    (countMoved s ix cls live t).pending = t.pending := by
  have key := @foldl_ind (fun u : State => u.brd = t.brd ∧ u.evr = t.evr ∧ u.fnc = t.fnc ∧ u.fuse = t.fuse ∧ u.fw = t.fw ∧ u.lat = t.lat ∧ u.cfg = t.cfg ∧ u.hif = t.hif ∧
      u.qps = t.qps ∧ u.tags = t.tags ∧ u.cmds = t.cmds ∧ u.fetchSeq = t.fetchSeq ∧ u.elog = t.elog ∧ u.elogSeq = t.elogSeq ∧
      u.idx = t.idx ∧ u.mods = t.mods ∧ u.srch = t.srch ∧ u.flash = t.flash ∧ u.mem = t.mem ∧ u.chd = t.chd ∧ u.side = t.side ∧
      u.serial = t.serial ∧ u.out = t.out ∧ u.free = t.free ∧ u.pending = t.pending)
  unfold countMoved
  repeat' (first | (simp; done) | split | (dsimp only; split) | refine key _ _ _ ?_ ?_ |
    (dsimp only; refine key _ _ _ ?_ ?_) | intro t x h | (simp [h]; done))

@[simp] theorem movePlan_also (s : State) (ix : Index) (cls : Nat) (es : List SideEnt) (u : State) :
    ((movePlan s ix cls es).also u).fnc = u.fnc ∧ ((movePlan s ix cls es).also u).fuse = u.fuse ∧
    ((movePlan s ix cls es).also u).cfg = u.cfg ∧ ((movePlan s ix cls es).also u).fetchSeq = u.fetchSeq ∧
    ((movePlan s ix cls es).also u).side = u.side ∧ ((movePlan s ix cls es).also u).serial = u.serial ∧
    ((movePlan s ix cls es).also u).pending = u.pending := by
  have key := @foldl_ind (fun v : State => (v).fnc = u.fnc ∧ (v).fuse = u.fuse ∧ (v).cfg = u.cfg ∧ (v).fetchSeq = u.fetchSeq ∧ (v).side = u.side ∧ (v).serial = u.serial ∧
    (v).pending = u.pending)
  unfold movePlan
  repeat' (first | (simp; done) | split | (dsimp only; split) | refine key _ _ _ ?_ ?_ |
    (dsimp only; refine key _ _ _ ?_ ?_) | intro t x h | (simp [h]; done))

@[simp] theorem rewritePlan_also (s : State) (ix : Index) (d : ListDir) (u : State) :
    ((rewritePlan s ix d).also u).fnc = u.fnc ∧ ((rewritePlan s ix d).also u).fuse = u.fuse ∧ ((rewritePlan s ix d).also u).cfg = u.cfg ∧
    ((rewritePlan s ix d).also u).fetchSeq = u.fetchSeq ∧ ((rewritePlan s ix d).also u).side = u.side ∧
    ((rewritePlan s ix d).also u).serial = u.serial ∧ ((rewritePlan s ix d).also u).pending = u.pending := by
  have key := @foldl_ind (fun v : State => (v).fnc = u.fnc ∧ (v).fuse = u.fuse ∧ (v).cfg = u.cfg ∧ (v).fetchSeq = u.fetchSeq ∧ (v).side = u.side ∧ (v).serial = u.serial ∧
    (v).pending = u.pending)
  unfold rewritePlan
  repeat' (first | (simp; done) | split | (dsimp only; split) | refine key _ _ _ ?_ ?_ |
    (dsimp only; refine key _ _ _ ?_ ?_) | intro t x h | (simp [h]; done))

@[simp] theorem insertPlan_also (s : State) (ix : Index) (cls : Nat) (es : List SideEnt) (u : State) :
    ((insertPlan s ix cls es).also u).fnc = u.fnc ∧ ((insertPlan s ix cls es).also u).fuse = u.fuse ∧
    ((insertPlan s ix cls es).also u).cfg = u.cfg ∧ ((insertPlan s ix cls es).also u).fetchSeq = u.fetchSeq ∧
    ((insertPlan s ix cls es).also u).side = u.side ∧ ((insertPlan s ix cls es).also u).serial = u.serial ∧
    ((insertPlan s ix cls es).also u).pending = u.pending := by
  have key := @foldl_ind (fun v : State => (v).fnc = u.fnc ∧ (v).fuse = u.fuse ∧ (v).cfg = u.cfg ∧ (v).fetchSeq = u.fetchSeq ∧ (v).side = u.side ∧ (v).serial = u.serial ∧
    (v).pending = u.pending)
  unfold insertPlan
  repeat' (first | (simp; done) | split | (dsimp only; split) | refine key _ _ _ ?_ ?_ |
    (dsimp only; refine key _ _ _ ?_ ?_) | intro t x h | (simp [h]; done))

@[simp] theorem sweepPlan_also (s : State) (ix : Index) (w : Sweep) (u : State) :
    ((sweepPlan s ix w).also u).fnc = u.fnc ∧ ((sweepPlan s ix w).also u).fuse = u.fuse ∧ ((sweepPlan s ix w).also u).cfg = u.cfg ∧
    ((sweepPlan s ix w).also u).fetchSeq = u.fetchSeq ∧ ((sweepPlan s ix w).also u).side = u.side ∧
    ((sweepPlan s ix w).also u).serial = u.serial ∧ ((sweepPlan s ix w).also u).pending = u.pending := by
  have key := @foldl_ind (fun v : State => (v).fnc = u.fnc ∧ (v).fuse = u.fuse ∧ (v).cfg = u.cfg ∧ (v).fetchSeq = u.fetchSeq ∧ (v).side = u.side ∧ (v).serial = u.serial ∧
    (v).pending = u.pending)
  unfold sweepPlan
  repeat' (first | (simp; done) | split | (dsimp only; split) | refine key _ _ _ ?_ ?_ |
    (dsimp only; refine key _ _ _ ?_ ?_) | intro t x h | (simp [h]; done))

@[simp] theorem renumberPlan_also (s : State) (ix : Index) (u : State) :
    ((renumberPlan s ix).also u).fnc = u.fnc ∧ ((renumberPlan s ix).also u).fuse = u.fuse ∧ ((renumberPlan s ix).also u).cfg = u.cfg ∧
    ((renumberPlan s ix).also u).fetchSeq = u.fetchSeq ∧ ((renumberPlan s ix).also u).side = u.side ∧
    ((renumberPlan s ix).also u).serial = u.serial ∧ ((renumberPlan s ix).also u).pending = u.pending := by
  have key := @foldl_ind (fun v : State => (v).fnc = u.fnc ∧ (v).fuse = u.fuse ∧ (v).cfg = u.cfg ∧ (v).fetchSeq = u.fetchSeq ∧ (v).side = u.side ∧ (v).serial = u.serial ∧
    (v).pending = u.pending)
  unfold renumberPlan
  repeat' (first | (simp; done) | split | (dsimp only; split) | refine key _ _ _ ?_ ?_ |
    (dsimp only; refine key _ _ _ ?_ ?_) | intro t x h | (simp [h]; done))

@[simp] theorem listPlan_also (s : State) (ix : Index) (t : Transition) (d : ListDir) (u : State) :
    ((listPlan s ix t d).also u).fnc = u.fnc ∧ ((listPlan s ix t d).also u).fuse = u.fuse ∧ ((listPlan s ix t d).also u).cfg = u.cfg ∧
    ((listPlan s ix t d).also u).fetchSeq = u.fetchSeq ∧ ((listPlan s ix t d).also u).side = u.side ∧
    ((listPlan s ix t d).also u).serial = u.serial ∧ ((listPlan s ix t d).also u).pending = u.pending := by
  have key := @foldl_ind (fun v : State => (v).fnc = u.fnc ∧ (v).fuse = u.fuse ∧ (v).cfg = u.cfg ∧ (v).fetchSeq = u.fetchSeq ∧ (v).side = u.side ∧ (v).serial = u.serial ∧
    (v).pending = u.pending)
  unfold listPlan
  repeat' (first | (simp; done) | split | (dsimp only; split) | refine key _ _ _ ?_ ?_ |
    (dsimp only; refine key _ _ _ ?_ ?_) | intro t x h | (simp [h]; done))

@[simp] theorem chunkPlan_also (s : State) (ix : Index) (t : Transition) (u : State) :
    ((chunkPlan s ix t).also u).fnc = u.fnc ∧ ((chunkPlan s ix t).also u).fuse = u.fuse ∧ ((chunkPlan s ix t).also u).cfg = u.cfg ∧
    ((chunkPlan s ix t).also u).fetchSeq = u.fetchSeq ∧ ((chunkPlan s ix t).also u).side = u.side ∧
    ((chunkPlan s ix t).also u).serial = u.serial ∧ ((chunkPlan s ix t).also u).pending = u.pending := by
  have key := @foldl_ind (fun v : State => (v).fnc = u.fnc ∧ (v).fuse = u.fuse ∧ (v).cfg = u.cfg ∧ (v).fetchSeq = u.fetchSeq ∧ (v).side = u.side ∧ (v).serial = u.serial ∧
    (v).pending = u.pending)
  unfold chunkPlan
  repeat' (first | (simp; done) | split | (dsimp only; split) | refine key _ _ _ ?_ ?_ |
    (dsimp only; refine key _ _ _ ?_ ?_) | intro t x h | (simp [h]; done))

theorem resketchPlan_also (s : State) (ix : Index) (t : Transition) (p : Plan) (h : resketchPlan s ix t = some p) (u : State) :
    (p.also u).fnc = u.fnc ∧ (p.also u).fuse = u.fuse ∧ (p.also u).cfg = u.cfg ∧ (p.also u).fetchSeq = u.fetchSeq ∧
    (p.also u).side = u.side ∧ (p.also u).serial = u.serial ∧ (p.also u).pending = u.pending := by
  unfold resketchPlan at h
  split at h
  · obtain ⟨d, -, rfl⟩ := Option.map_eq_some_iff.mp h
    simp
  · split at h
    · cases h
    · cases h
      simp

@[simp] theorem compactionMove_rest (f slot count : Nat) (s : State) :
    (compactionMove f slot count s).fnc = s.fnc ∧ (compactionMove f slot count s).fuse = s.fuse ∧
    (compactionMove f slot count s).cfg = s.cfg ∧ (compactionMove f slot count s).fetchSeq = s.fetchSeq ∧
    (compactionMove f slot count s).side = s.side ∧ (compactionMove f slot count s).serial = s.serial ∧
    (compactionMove f slot count s).pending = s.pending := by
  unfold compactionMove
  repeat' (first | (simp; done) | split | (dsimp only; split))

@[simp] theorem listRewrite_rest (f slot : Nat) (s : State) :
    (listRewrite f slot s).fnc = s.fnc ∧ (listRewrite f slot s).fuse = s.fuse ∧ (listRewrite f slot s).cfg = s.cfg ∧
    (listRewrite f slot s).fetchSeq = s.fetchSeq ∧ (listRewrite f slot s).side = s.side ∧ (listRewrite f slot s).serial = s.serial ∧
    (listRewrite f slot s).pending = s.pending := by
  unfold listRewrite
  repeat' (first | (simp; done) | split | (dsimp only; split))

@[simp] theorem graphInsert_rest (f slot count : Nat) (s : State) :
    (graphInsert f slot count s).fnc = s.fnc ∧ (graphInsert f slot count s).fuse = s.fuse ∧ (graphInsert f slot count s).cfg = s.cfg ∧
    (graphInsert f slot count s).fetchSeq = s.fetchSeq ∧ (graphInsert f slot count s).side = s.side ∧
    (graphInsert f slot count s).serial = s.serial ∧ (graphInsert f slot count s).pending = s.pending := by
  unfold graphInsert
  repeat' (first | (simp; done) | split | (dsimp only; split))

@[simp] theorem repairSweepUnit_rest (f slot : Nat) (s : State) :
    (repairSweepUnit f slot s).fnc = s.fnc ∧ (repairSweepUnit f slot s).fuse = s.fuse ∧ (repairSweepUnit f slot s).cfg = s.cfg ∧
    (repairSweepUnit f slot s).fetchSeq = s.fetchSeq ∧ (repairSweepUnit f slot s).side = s.side ∧
    (repairSweepUnit f slot s).serial = s.serial ∧ (repairSweepUnit f slot s).pending = s.pending := by
  unfold repairSweepUnit
  repeat' (first | (simp; done) | split | (dsimp only; split) | (have hA := allJobs_rest _ _ _ _ _ _ (by assumption); simp [hA]; done))

@[simp] theorem renumbering_rest (f slot : Nat) (s : State) :
    (renumbering f slot s).fnc = s.fnc ∧ (renumbering f slot s).fuse = s.fuse ∧ (renumbering f slot s).cfg = s.cfg ∧
    (renumbering f slot s).fetchSeq = s.fetchSeq ∧ (renumbering f slot s).side = s.side ∧ (renumbering f slot s).serial = s.serial ∧
    (renumbering f slot s).pending = s.pending := by
  unfold renumbering
  repeat' (first | (simp; done) | split | (dsimp only; split))

@[simp] theorem endTransition_rest (f slot : Nat) (t : Transition) (s : State) :
    (endTransition f slot t s).brd = s.brd ∧ (endTransition f slot t s).evr = s.evr ∧ (endTransition f slot t s).fnc = s.fnc ∧
    (endTransition f slot t s).fuse = s.fuse ∧ (endTransition f slot t s).fw = s.fw ∧ (endTransition f slot t s).lat = s.lat ∧
    (endTransition f slot t s).cfg = s.cfg ∧ (endTransition f slot t s).fetchSeq = s.fetchSeq ∧ (endTransition f slot t s).mods = s.mods ∧
    (endTransition f slot t s).srch = s.srch ∧ (endTransition f slot t s).flash = s.flash ∧ (endTransition f slot t s).mem = s.mem ∧
    (endTransition f slot t s).chd = s.chd ∧ (endTransition f slot t s).side = s.side ∧ (endTransition f slot t s).serial = s.serial ∧
    (endTransition f slot t s).free = s.free ∧ (endTransition f slot t s).pending = s.pending := by
  unfold endTransition
  repeat' (first | (simp; done) | split | (dsimp only; split))

@[simp] theorem resketchStep_rest (f slot : Nat) (s : State) :
    (resketchStep f slot s).fnc = s.fnc ∧ (resketchStep f slot s).fuse = s.fuse ∧ (resketchStep f slot s).cfg = s.cfg ∧
    (resketchStep f slot s).fetchSeq = s.fetchSeq ∧ (resketchStep f slot s).side = s.side ∧ (resketchStep f slot s).serial = s.serial ∧
    (resketchStep f slot s).pending = s.pending := by
  unfold resketchStep
  repeat' (first | (simp; done) | split)
  all_goals
    have h := resketchPlan_also _ _ _ _ (by assumption) s
    simp [publish_rest _ _ _ _ _ h]

@[simp] theorem logCheckpoint_rest (f : Nat) (s : State) :
    (logCheckpoint f s).brd = s.brd ∧ (logCheckpoint f s).evr = s.evr ∧ (logCheckpoint f s).fnc = s.fnc ∧
    (logCheckpoint f s).fuse = s.fuse ∧ (logCheckpoint f s).fw = s.fw ∧ (logCheckpoint f s).lat = s.lat ∧
    (logCheckpoint f s).cfg = s.cfg ∧ (logCheckpoint f s).hif = s.hif ∧ (logCheckpoint f s).qps = s.qps ∧
    (logCheckpoint f s).tags = s.tags ∧ (logCheckpoint f s).cmds = s.cmds ∧ (logCheckpoint f s).fetchSeq = s.fetchSeq ∧
    (logCheckpoint f s).elog = s.elog ∧ (logCheckpoint f s).elogSeq = s.elogSeq ∧ (logCheckpoint f s).idx = s.idx ∧
    (logCheckpoint f s).mods = s.mods ∧ (logCheckpoint f s).mem = s.mem ∧ (logCheckpoint f s).chd = s.chd ∧
    (logCheckpoint f s).side = s.side ∧ (logCheckpoint f s).serial = s.serial ∧ (logCheckpoint f s).out = s.out ∧
    (logCheckpoint f s).pending = s.pending := by
  have key := @foldl_ind (fun u : State => u.brd = s.brd ∧ u.evr = s.evr ∧ u.fnc = s.fnc ∧ u.fuse = s.fuse ∧ u.fw = s.fw ∧ u.lat = s.lat ∧ u.cfg = s.cfg ∧ u.hif = s.hif ∧
      u.qps = s.qps ∧ u.tags = s.tags ∧ u.cmds = s.cmds ∧ u.fetchSeq = s.fetchSeq ∧ u.elog = s.elog ∧ u.elogSeq = s.elogSeq ∧
      u.idx = s.idx ∧ u.mods = s.mods ∧ u.mem = s.mem ∧ u.chd = s.chd ∧ u.side = s.side ∧ u.serial = s.serial ∧ u.out = s.out ∧
      u.pending = s.pending)
  unfold logCheckpoint
  repeat' (first | (simp; done) | split | (dsimp only; split) | refine key _ _ _ ?_ ?_ |
    (dsimp only; refine key _ _ _ ?_ ?_) | intro t x h | (simp [h]; done) | (have hA := allJobs_rest _ _ _ _ _ _ (by assumption); simp [hA]; done))

@[simp] theorem tileDrain_rest (e : Nat) (s : State) :
    (tileDrain e s).fnc = s.fnc ∧ (tileDrain e s).fuse = s.fuse ∧ (tileDrain e s).cfg = s.cfg ∧ (tileDrain e s).fetchSeq = s.fetchSeq ∧
    (tileDrain e s).side = s.side ∧ (tileDrain e s).serial = s.serial ∧ (tileDrain e s).pending = s.pending := by
  unfold tileDrain
  repeat' (first | (simp; done) | split | (dsimp only; split))

@[simp] theorem shadowFinish_rest (f slot : Nat) (s : State) :
    (shadowFinish f slot s).brd = s.brd ∧ (shadowFinish f slot s).fnc = s.fnc ∧ (shadowFinish f slot s).fuse = s.fuse ∧
    (shadowFinish f slot s).fw = s.fw ∧ (shadowFinish f slot s).lat = s.lat ∧ (shadowFinish f slot s).cfg = s.cfg ∧
    (shadowFinish f slot s).qps = s.qps ∧ (shadowFinish f slot s).tags = s.tags ∧ (shadowFinish f slot s).cmds = s.cmds ∧
    (shadowFinish f slot s).fetchSeq = s.fetchSeq ∧ (shadowFinish f slot s).elog = s.elog ∧ (shadowFinish f slot s).elogSeq = s.elogSeq ∧
    (shadowFinish f slot s).idx = s.idx ∧ (shadowFinish f slot s).mods = s.mods ∧ (shadowFinish f slot s).flash = s.flash ∧
    (shadowFinish f slot s).mem = s.mem ∧ (shadowFinish f slot s).chd = s.chd ∧ (shadowFinish f slot s).side = s.side ∧
    (shadowFinish f slot s).serial = s.serial ∧ (shadowFinish f slot s).pending = s.pending := by
  unfold shadowFinish
  repeat' (first | (simp; done) | split | (dsimp only; split))

@[simp] theorem countSliver_rest (s0 : State) (ix : Index) (v : Sliver) (s : State) :
    (countSliver s0 ix v s).brd = s.brd ∧ (countSliver s0 ix v s).evr = s.evr ∧ (countSliver s0 ix v s).fnc = s.fnc ∧
    (countSliver s0 ix v s).fuse = s.fuse ∧ (countSliver s0 ix v s).fw = s.fw ∧ (countSliver s0 ix v s).lat = s.lat ∧
    (countSliver s0 ix v s).cfg = s.cfg ∧ (countSliver s0 ix v s).hif = s.hif ∧ (countSliver s0 ix v s).qps = s.qps ∧
    (countSliver s0 ix v s).tags = s.tags ∧ (countSliver s0 ix v s).cmds = s.cmds ∧ (countSliver s0 ix v s).fetchSeq = s.fetchSeq ∧
    (countSliver s0 ix v s).elog = s.elog ∧ (countSliver s0 ix v s).elogSeq = s.elogSeq ∧ (countSliver s0 ix v s).idx = s.idx ∧
    (countSliver s0 ix v s).mods = s.mods ∧ (countSliver s0 ix v s).srch = s.srch ∧ (countSliver s0 ix v s).flash = s.flash ∧
    (countSliver s0 ix v s).chd = s.chd ∧ (countSliver s0 ix v s).side = s.side ∧ (countSliver s0 ix v s).serial = s.serial ∧
    (countSliver s0 ix v s).out = s.out ∧ (countSliver s0 ix v s).free = s.free ∧ (countSliver s0 ix v s).pending = s.pending := by
  unfold countSliver
  repeat' (first | (simp; done) | split | (dsimp only; split))

@[simp] theorem endStream_rest (c : Nat) (s : State) :
    (endStream c s).brd = s.brd ∧ (endStream c s).evr = s.evr ∧ (endStream c s).fnc = s.fnc ∧ (endStream c s).fuse = s.fuse ∧
    (endStream c s).fw = s.fw ∧ (endStream c s).lat = s.lat ∧ (endStream c s).cfg = s.cfg ∧ (endStream c s).hif = s.hif ∧
    (endStream c s).qps = s.qps ∧ (endStream c s).tags = s.tags ∧ (endStream c s).cmds = s.cmds ∧ (endStream c s).fetchSeq = s.fetchSeq ∧
    (endStream c s).elog = s.elog ∧ (endStream c s).elogSeq = s.elogSeq ∧ (endStream c s).idx = s.idx ∧ (endStream c s).mods = s.mods ∧
    (endStream c s).flash = s.flash ∧ (endStream c s).chd = s.chd ∧ (endStream c s).side = s.side ∧ (endStream c s).serial = s.serial ∧
    (endStream c s).out = s.out ∧ (endStream c s).pending = s.pending := by
  unfold endStream
  repeat' (first | (simp; done) | split | (dsimp only; split))

@[simp] theorem commitMembers_rest (c : Nat) (ix : Index) (v : Sliver) (s : State) :
    (commitMembers c ix v s).brd = s.brd ∧ (commitMembers c ix v s).evr = s.evr ∧ (commitMembers c ix v s).fnc = s.fnc ∧
    (commitMembers c ix v s).fuse = s.fuse ∧ (commitMembers c ix v s).fw = s.fw ∧ (commitMembers c ix v s).lat = s.lat ∧
    (commitMembers c ix v s).cfg = s.cfg ∧ (commitMembers c ix v s).hif = s.hif ∧ (commitMembers c ix v s).qps = s.qps ∧
    (commitMembers c ix v s).tags = s.tags ∧ (commitMembers c ix v s).cmds = s.cmds ∧ (commitMembers c ix v s).fetchSeq = s.fetchSeq ∧
    (commitMembers c ix v s).elog = s.elog ∧ (commitMembers c ix v s).elogSeq = s.elogSeq ∧ (commitMembers c ix v s).facets = s.facets ∧
    (commitMembers c ix v s).idx = s.idx ∧ (commitMembers c ix v s).mods = s.mods ∧ (commitMembers c ix v s).flash = s.flash ∧
    (commitMembers c ix v s).mem = s.mem ∧ (commitMembers c ix v s).chd = s.chd ∧ (commitMembers c ix v s).side = s.side ∧
    (commitMembers c ix v s).serial = s.serial ∧ (commitMembers c ix v s).out = s.out ∧ (commitMembers c ix v s).free = s.free ∧
    (commitMembers c ix v s).pending = s.pending := by
  unfold commitMembers
  repeat' (first | (simp; done) | split | (dsimp only; split))

@[simp] theorem endSliver_rest (c : Nat) (ix : Index) (v : Sliver) (s : State) :
    (endSliver c ix v s).brd = s.brd ∧ (endSliver c ix v s).fnc = s.fnc ∧ (endSliver c ix v s).fuse = s.fuse ∧
    (endSliver c ix v s).fw = s.fw ∧ (endSliver c ix v s).lat = s.lat ∧ (endSliver c ix v s).cfg = s.cfg ∧
    (endSliver c ix v s).fetchSeq = s.fetchSeq ∧ (endSliver c ix v s).idx = s.idx ∧ (endSliver c ix v s).mods = s.mods ∧
    (endSliver c ix v s).side = s.side ∧ (endSliver c ix v s).serial = s.serial ∧ (endSliver c ix v s).pending = s.pending := by
  have key := @foldl_ind (fun u : State => u.brd = s.brd ∧ u.fnc = s.fnc ∧ u.fuse = s.fuse ∧ u.fw = s.fw ∧ u.lat = s.lat ∧ u.cfg = s.cfg ∧ u.fetchSeq = s.fetchSeq ∧
      u.idx = s.idx ∧ u.mods = s.mods ∧ u.side = s.side ∧ u.serial = s.serial ∧ u.pending = s.pending)
  unfold endSliver
  repeat' (first | (simp; done) | split | (dsimp only; split) | refine key _ _ _ ?_ ?_ |
    (dsimp only; refine key _ _ _ ?_ ?_) | intro t x h | (simp [h]; done))

@[simp] theorem sliverFinish_rest (c : Nat) (s : State) :
    (sliverFinish c s).fnc = s.fnc ∧ (sliverFinish c s).fuse = s.fuse ∧ (sliverFinish c s).cfg = s.cfg ∧
    (sliverFinish c s).fetchSeq = s.fetchSeq ∧ (sliverFinish c s).side = s.side ∧ (sliverFinish c s).serial = s.serial ∧
    (sliverFinish c s).pending = s.pending := by
  unfold sliverFinish
  repeat' (first | (simp; done) | split | (dsimp only; split))

@[simp] theorem heapFull_rest (c : Nat) (s : State) :
    (heapFull c s).brd = s.brd ∧ (heapFull c s).evr = s.evr ∧ (heapFull c s).fnc = s.fnc ∧ (heapFull c s).fuse = s.fuse ∧
    (heapFull c s).fw = s.fw ∧ (heapFull c s).lat = s.lat ∧ (heapFull c s).cfg = s.cfg ∧ (heapFull c s).hif = s.hif ∧
    (heapFull c s).qps = s.qps ∧ (heapFull c s).tags = s.tags ∧ (heapFull c s).cmds = s.cmds ∧ (heapFull c s).fetchSeq = s.fetchSeq ∧
    (heapFull c s).elog = s.elog ∧ (heapFull c s).elogSeq = s.elogSeq ∧ (heapFull c s).facets = s.facets ∧ (heapFull c s).idx = s.idx ∧
    (heapFull c s).mods = s.mods ∧ (heapFull c s).flash = s.flash ∧ (heapFull c s).chd = s.chd ∧ (heapFull c s).side = s.side ∧
    (heapFull c s).serial = s.serial ∧ (heapFull c s).out = s.out ∧ (heapFull c s).free = s.free ∧ (heapFull c s).pending = s.pending := by
  unfold heapFull
  repeat' (first | (simp; done) | split | (dsimp only; split))

@[simp] theorem steal_rest (c : Nat) (s : State) :
    (steal c s).brd = s.brd ∧ (steal c s).evr = s.evr ∧ (steal c s).fnc = s.fnc ∧ (steal c s).fuse = s.fuse ∧ (steal c s).fw = s.fw ∧
    (steal c s).lat = s.lat ∧ (steal c s).cfg = s.cfg ∧ (steal c s).hif = s.hif ∧ (steal c s).qps = s.qps ∧ (steal c s).tags = s.tags ∧
    (steal c s).cmds = s.cmds ∧ (steal c s).fetchSeq = s.fetchSeq ∧ (steal c s).elog = s.elog ∧ (steal c s).elogSeq = s.elogSeq ∧
    (steal c s).idx = s.idx ∧ (steal c s).mods = s.mods ∧ (steal c s).flash = s.flash ∧ (steal c s).chd = s.chd ∧
    (steal c s).side = s.side ∧ (steal c s).serial = s.serial ∧ (steal c s).out = s.out ∧ (steal c s).pending = s.pending := by
  unfold steal
  repeat' (first | (simp; done) | split | (dsimp only; split))

@[simp] theorem switchCell_rest (c : Nat) (v : Sliver) (b : Bool) (s : State) :
    (switchCell c v b s).brd = s.brd ∧ (switchCell c v b s).evr = s.evr ∧ (switchCell c v b s).fnc = s.fnc ∧
    (switchCell c v b s).fuse = s.fuse ∧ (switchCell c v b s).fw = s.fw ∧ (switchCell c v b s).lat = s.lat ∧
    (switchCell c v b s).cfg = s.cfg ∧ (switchCell c v b s).hif = s.hif ∧ (switchCell c v b s).qps = s.qps ∧
    (switchCell c v b s).tags = s.tags ∧ (switchCell c v b s).cmds = s.cmds ∧ (switchCell c v b s).fetchSeq = s.fetchSeq ∧
    (switchCell c v b s).elog = s.elog ∧ (switchCell c v b s).elogSeq = s.elogSeq ∧ (switchCell c v b s).idx = s.idx ∧
    (switchCell c v b s).mods = s.mods ∧ (switchCell c v b s).flash = s.flash ∧ (switchCell c v b s).chd = s.chd ∧
    (switchCell c v b s).side = s.side ∧ (switchCell c v b s).serial = s.serial ∧ (switchCell c v b s).out = s.out ∧
    (switchCell c v b s).pending = s.pending := by
  unfold switchCell
  repeat' (first | (simp; done) | split | (dsimp only; split))

@[simp] theorem swapCell_rest (c : Nat) (s : State) :
    (swapCell c s).brd = s.brd ∧ (swapCell c s).evr = s.evr ∧ (swapCell c s).fnc = s.fnc ∧ (swapCell c s).fuse = s.fuse ∧
    (swapCell c s).fw = s.fw ∧ (swapCell c s).lat = s.lat ∧ (swapCell c s).cfg = s.cfg ∧ (swapCell c s).hif = s.hif ∧
    (swapCell c s).qps = s.qps ∧ (swapCell c s).tags = s.tags ∧ (swapCell c s).cmds = s.cmds ∧ (swapCell c s).fetchSeq = s.fetchSeq ∧
    (swapCell c s).elog = s.elog ∧ (swapCell c s).elogSeq = s.elogSeq ∧ (swapCell c s).idx = s.idx ∧ (swapCell c s).mods = s.mods ∧
    (swapCell c s).flash = s.flash ∧ (swapCell c s).chd = s.chd ∧ (swapCell c s).side = s.side ∧ (swapCell c s).serial = s.serial ∧
    (swapCell c s).out = s.out ∧ (swapCell c s).pending = s.pending := by
  unfold swapCell
  repeat' (first | (simp; done) | split | (dsimp only; split))

theorem switchOf_rest (s : State) (b : Nat) (p : Nat × Sliver) (t : State) (h : switchOf s b p = some t) :
    t.brd = s.brd ∧ t.evr = s.evr ∧ t.fnc = s.fnc ∧ t.fuse = s.fuse ∧ t.fw = s.fw ∧ t.lat = s.lat ∧ t.cfg = s.cfg ∧ t.hif = s.hif ∧
    t.qps = s.qps ∧ t.tags = s.tags ∧ t.cmds = s.cmds ∧ t.fetchSeq = s.fetchSeq ∧ t.elog = s.elog ∧ t.elogSeq = s.elogSeq ∧
    t.idx = s.idx ∧ t.mods = s.mods ∧ t.flash = s.flash ∧ t.chd = s.chd ∧ t.side = s.side ∧ t.serial = s.serial ∧ t.out = s.out ∧
    t.pending = s.pending := by
  unfold switchOf at h
  repeat' (first | (cases h; done) | (cases h; simp; done) | (simp only [Option.map_eq_some_iff] at h; obtain ⟨c, -, rfl⟩ := h; simp; done) | split at h | dsimp only at h)

@[simp] theorem cellSwitch_rest (b : Nat) (s : State) :
    (cellSwitch b s).brd = s.brd ∧ (cellSwitch b s).evr = s.evr ∧ (cellSwitch b s).fnc = s.fnc ∧ (cellSwitch b s).fuse = s.fuse ∧
    (cellSwitch b s).fw = s.fw ∧ (cellSwitch b s).lat = s.lat ∧ (cellSwitch b s).cfg = s.cfg ∧ (cellSwitch b s).hif = s.hif ∧
    (cellSwitch b s).qps = s.qps ∧ (cellSwitch b s).tags = s.tags ∧ (cellSwitch b s).cmds = s.cmds ∧
    (cellSwitch b s).fetchSeq = s.fetchSeq ∧ (cellSwitch b s).elog = s.elog ∧ (cellSwitch b s).elogSeq = s.elogSeq ∧
    (cellSwitch b s).idx = s.idx ∧ (cellSwitch b s).mods = s.mods ∧ (cellSwitch b s).flash = s.flash ∧ (cellSwitch b s).chd = s.chd ∧
    (cellSwitch b s).side = s.side ∧ (cellSwitch b s).serial = s.serial ∧ (cellSwitch b s).out = s.out ∧
    (cellSwitch b s).pending = s.pending := by
  unfold cellSwitch
  cases e : (switchable s b).findSome? (switchOf s b) with
  | none => simp
  | some t =>
    obtain ⟨p, -, hp⟩ := List.exists_of_findSome?_eq_some e
    simp [switchOf_rest _ _ _ _ hp]

@[simp] theorem giveUpSlivers_rest (x : Nat) (s : State) :
    (giveUpSlivers x s).brd = s.brd ∧ (giveUpSlivers x s).evr = s.evr ∧ (giveUpSlivers x s).fnc = s.fnc ∧
    (giveUpSlivers x s).fuse = s.fuse ∧ (giveUpSlivers x s).fw = s.fw ∧ (giveUpSlivers x s).lat = s.lat ∧
    (giveUpSlivers x s).cfg = s.cfg ∧ (giveUpSlivers x s).hif = s.hif ∧ (giveUpSlivers x s).qps = s.qps ∧
    (giveUpSlivers x s).tags = s.tags ∧ (giveUpSlivers x s).cmds = s.cmds ∧ (giveUpSlivers x s).fetchSeq = s.fetchSeq ∧
    (giveUpSlivers x s).elog = s.elog ∧ (giveUpSlivers x s).elogSeq = s.elogSeq ∧ (giveUpSlivers x s).facets = s.facets ∧
    (giveUpSlivers x s).idx = s.idx ∧ (giveUpSlivers x s).mods = s.mods ∧ (giveUpSlivers x s).flash = s.flash ∧
    (giveUpSlivers x s).mem = s.mem ∧ (giveUpSlivers x s).chd = s.chd ∧ (giveUpSlivers x s).side = s.side ∧
    (giveUpSlivers x s).serial = s.serial ∧ (giveUpSlivers x s).out = s.out ∧ (giveUpSlivers x s).free = s.free ∧
    (giveUpSlivers x s).pending = s.pending := by
  unfold giveUpSlivers
  repeat' (first | (simp; done) | split | (dsimp only; split))

@[simp] theorem cutStage_rest (q : Query) (s : State) :
    (cutStage q s).brd = s.brd ∧ (cutStage q s).evr = s.evr ∧ (cutStage q s).fnc = s.fnc ∧ (cutStage q s).fuse = s.fuse ∧
    (cutStage q s).fw = s.fw ∧ (cutStage q s).lat = s.lat ∧ (cutStage q s).cfg = s.cfg ∧ (cutStage q s).hif = s.hif ∧
    (cutStage q s).qps = s.qps ∧ (cutStage q s).tags = s.tags ∧ (cutStage q s).cmds = s.cmds ∧ (cutStage q s).fetchSeq = s.fetchSeq ∧
    (cutStage q s).elog = s.elog ∧ (cutStage q s).elogSeq = s.elogSeq ∧ (cutStage q s).idx = s.idx ∧ (cutStage q s).mods = s.mods ∧
    (cutStage q s).flash = s.flash ∧ (cutStage q s).mem = s.mem ∧ (cutStage q s).chd = s.chd ∧ (cutStage q s).side = s.side ∧
    (cutStage q s).serial = s.serial ∧ (cutStage q s).out = s.out ∧ (cutStage q s).free = s.free ∧ (cutStage q s).pending = s.pending := by
  unfold cutStage
  repeat' (first | (simp; done) | split | (dsimp only; split))

@[simp] theorem scanCheckpoint_rest (x : Nat) (s : State) :
    (scanCheckpoint x s).fnc = s.fnc ∧ (scanCheckpoint x s).fuse = s.fuse ∧ (scanCheckpoint x s).cfg = s.cfg ∧
    (scanCheckpoint x s).fetchSeq = s.fetchSeq ∧ (scanCheckpoint x s).side = s.side ∧ (scanCheckpoint x s).serial = s.serial ∧
    (scanCheckpoint x s).pending = s.pending := by
  unfold scanCheckpoint
  repeat' (first | (simp; done) | split | (dsimp only; split))

@[simp] theorem commitAt_rest (tag : Nat) (s : State) :
    (commitAt tag s).fnc = s.fnc ∧ (commitAt tag s).fuse = s.fuse ∧ (commitAt tag s).cfg = s.cfg ∧
    (commitAt tag s).fetchSeq = s.fetchSeq ∧ (commitAt tag s).side = s.side ∧ (commitAt tag s).serial = s.serial ∧
    (commitAt tag s).pending = s.pending := by
  unfold commitAt
  repeat' (first | (simp; done) | split | (dsimp only; split))

@[simp] theorem setCtrl_rest (v : Word64) (s : State) :
    (setCtrl v s).brd = s.brd ∧ (setCtrl v s).evr = s.evr ∧ (setCtrl v s).fnc = s.fnc ∧ (setCtrl v s).fuse = s.fuse ∧
    (setCtrl v s).fw = s.fw ∧ (setCtrl v s).lat = s.lat ∧ (setCtrl v s).cfg = s.cfg ∧ (setCtrl v s).hif = s.hif ∧
    (setCtrl v s).qps = s.qps ∧ (setCtrl v s).tags = s.tags ∧ (setCtrl v s).cmds = s.cmds ∧ (setCtrl v s).fetchSeq = s.fetchSeq ∧
    (setCtrl v s).elog = s.elog ∧ (setCtrl v s).elogSeq = s.elogSeq ∧ (setCtrl v s).facets = s.facets ∧ (setCtrl v s).idx = s.idx ∧
    (setCtrl v s).mods = s.mods ∧ (setCtrl v s).srch = s.srch ∧ (setCtrl v s).flash = s.flash ∧ (setCtrl v s).mem = s.mem ∧
    (setCtrl v s).side = s.side ∧ (setCtrl v s).serial = s.serial ∧ (setCtrl v s).out = s.out ∧ (setCtrl v s).free = s.free ∧
    (setCtrl v s).pending = s.pending := by
  unfold setCtrl
  repeat' (first | (simp; done) | split | (dsimp only; split))

@[simp] theorem setAccept_rest (v : Word64) (s : State) :
    (setAccept v s).brd = s.brd ∧ (setAccept v s).evr = s.evr ∧ (setAccept v s).fnc = s.fnc ∧ (setAccept v s).fuse = s.fuse ∧
    (setAccept v s).fw = s.fw ∧ (setAccept v s).lat = s.lat ∧ (setAccept v s).cfg = s.cfg ∧ (setAccept v s).hif = s.hif ∧
    (setAccept v s).qps = s.qps ∧ (setAccept v s).tags = s.tags ∧ (setAccept v s).cmds = s.cmds ∧ (setAccept v s).fetchSeq = s.fetchSeq ∧
    (setAccept v s).elog = s.elog ∧ (setAccept v s).elogSeq = s.elogSeq ∧ (setAccept v s).facets = s.facets ∧
    (setAccept v s).idx = s.idx ∧ (setAccept v s).mods = s.mods ∧ (setAccept v s).srch = s.srch ∧ (setAccept v s).flash = s.flash ∧
    (setAccept v s).mem = s.mem ∧ (setAccept v s).side = s.side ∧ (setAccept v s).serial = s.serial ∧ (setAccept v s).out = s.out ∧
    (setAccept v s).free = s.free ∧ (setAccept v s).pending = s.pending := by
  unfold setAccept
  repeat' (first | (simp; done) | split | (dsimp only; split))

@[simp] theorem noteReread_rest (pl : Nat × Nat × Nat) (sp : Nat × Nat) (n : Nat) (s : State) :
    (noteReread pl sp n s).brd = s.brd ∧ (noteReread pl sp n s).fnc = s.fnc ∧ (noteReread pl sp n s).fuse = s.fuse ∧
    (noteReread pl sp n s).fw = s.fw ∧ (noteReread pl sp n s).lat = s.lat ∧ (noteReread pl sp n s).cfg = s.cfg ∧
    (noteReread pl sp n s).qps = s.qps ∧ (noteReread pl sp n s).tags = s.tags ∧ (noteReread pl sp n s).cmds = s.cmds ∧
    (noteReread pl sp n s).fetchSeq = s.fetchSeq ∧ (noteReread pl sp n s).elog = s.elog ∧ (noteReread pl sp n s).elogSeq = s.elogSeq ∧
    (noteReread pl sp n s).facets = s.facets ∧ (noteReread pl sp n s).idx = s.idx ∧ (noteReread pl sp n s).mods = s.mods ∧
    (noteReread pl sp n s).srch = s.srch ∧ (noteReread pl sp n s).chd = s.chd ∧ (noteReread pl sp n s).side = s.side ∧
    (noteReread pl sp n s).serial = s.serial ∧ (noteReread pl sp n s).free = s.free ∧ (noteReread pl sp n s).pending = s.pending := by
  unfold noteReread
  repeat' (first | (simp; done) | split | (dsimp only; split))

@[simp] theorem loseUnit_rest (e : Nat) (u : Unit') (s : State) :
    (loseUnit e u s).brd = s.brd ∧ (loseUnit e u s).fnc = s.fnc ∧ (loseUnit e u s).fuse = s.fuse ∧ (loseUnit e u s).fw = s.fw ∧
    (loseUnit e u s).lat = s.lat ∧ (loseUnit e u s).cfg = s.cfg ∧ (loseUnit e u s).qps = s.qps ∧ (loseUnit e u s).tags = s.tags ∧
    (loseUnit e u s).cmds = s.cmds ∧ (loseUnit e u s).fetchSeq = s.fetchSeq ∧ (loseUnit e u s).elog = s.elog ∧
    (loseUnit e u s).elogSeq = s.elogSeq ∧ (loseUnit e u s).facets = s.facets ∧ (loseUnit e u s).idx = s.idx ∧
    (loseUnit e u s).mods = s.mods ∧ (loseUnit e u s).srch = s.srch ∧ (loseUnit e u s).chd = s.chd ∧ (loseUnit e u s).side = s.side ∧
    (loseUnit e u s).serial = s.serial ∧ (loseUnit e u s).free = s.free ∧ (loseUnit e u s).pending = s.pending := by
  unfold loseUnit
  repeat' (first | (simp; done) | split | (dsimp only; split))

@[simp] theorem failUnit_rest (e : Nat) (u : Unit') (s : State) :
    (failUnit e u s).brd = s.brd ∧ (failUnit e u s).fnc = s.fnc ∧ (failUnit e u s).fuse = s.fuse ∧ (failUnit e u s).fw = s.fw ∧
    (failUnit e u s).lat = s.lat ∧ (failUnit e u s).cfg = s.cfg ∧ (failUnit e u s).qps = s.qps ∧ (failUnit e u s).tags = s.tags ∧
    (failUnit e u s).cmds = s.cmds ∧ (failUnit e u s).fetchSeq = s.fetchSeq ∧ (failUnit e u s).elog = s.elog ∧
    (failUnit e u s).elogSeq = s.elogSeq ∧ (failUnit e u s).facets = s.facets ∧ (failUnit e u s).idx = s.idx ∧
    (failUnit e u s).mods = s.mods ∧ (failUnit e u s).srch = s.srch ∧ (failUnit e u s).chd = s.chd ∧ (failUnit e u s).side = s.side ∧
    (failUnit e u s).serial = s.serial ∧ (failUnit e u s).free = s.free ∧ (failUnit e u s).pending = s.pending := by
  have key := @foldl_ind (fun u : State => u.brd = s.brd ∧ u.fnc = s.fnc ∧ u.fuse = s.fuse ∧ u.fw = s.fw ∧ u.lat = s.lat ∧ u.cfg = s.cfg ∧ u.qps = s.qps ∧ u.tags = s.tags ∧
      u.cmds = s.cmds ∧ u.fetchSeq = s.fetchSeq ∧ u.elog = s.elog ∧ u.elogSeq = s.elogSeq ∧ u.facets = s.facets ∧ u.idx = s.idx ∧
      u.mods = s.mods ∧ u.srch = s.srch ∧ u.chd = s.chd ∧ u.side = s.side ∧ u.serial = s.serial ∧ u.free = s.free ∧ u.pending = s.pending)
  unfold failUnit
  repeat' (first | (simp; done) | split | (dsimp only; split) | refine key _ _ _ ?_ ?_ |
    (dsimp only; refine key _ _ _ ?_ ?_) | intro t x h | (simp [h]; done))

@[simp] theorem noteRead_rest (pl : Nat × Nat × Nat) (e : Nat) (u : Unit') (r : ReadResult) (s : State) :
    (noteRead pl e u r s).brd = s.brd ∧ (noteRead pl e u r s).fnc = s.fnc ∧ (noteRead pl e u r s).fuse = s.fuse ∧
    (noteRead pl e u r s).fw = s.fw ∧ (noteRead pl e u r s).lat = s.lat ∧ (noteRead pl e u r s).cfg = s.cfg ∧
    (noteRead pl e u r s).qps = s.qps ∧ (noteRead pl e u r s).tags = s.tags ∧ (noteRead pl e u r s).cmds = s.cmds ∧
    (noteRead pl e u r s).fetchSeq = s.fetchSeq ∧ (noteRead pl e u r s).elog = s.elog ∧ (noteRead pl e u r s).elogSeq = s.elogSeq ∧
    (noteRead pl e u r s).facets = s.facets ∧ (noteRead pl e u r s).idx = s.idx ∧ (noteRead pl e u r s).mods = s.mods ∧
    (noteRead pl e u r s).srch = s.srch ∧ (noteRead pl e u r s).chd = s.chd ∧ (noteRead pl e u r s).side = s.side ∧
    (noteRead pl e u r s).serial = s.serial ∧ (noteRead pl e u r s).free = s.free ∧ (noteRead pl e u r s).pending = s.pending := by
  unfold noteRead
  repeat' (first | (simp; done) | split | (dsimp only; split))

@[simp] theorem countRead_rest (ch d pl : Nat) (r : Read) (res : ReadResult) (s : State) :
    (countRead ch d pl r res s).brd = s.brd ∧ (countRead ch d pl r res s).fnc = s.fnc ∧ (countRead ch d pl r res s).fuse = s.fuse ∧
    (countRead ch d pl r res s).fw = s.fw ∧ (countRead ch d pl r res s).lat = s.lat ∧ (countRead ch d pl r res s).cfg = s.cfg ∧
    (countRead ch d pl r res s).qps = s.qps ∧ (countRead ch d pl r res s).tags = s.tags ∧ (countRead ch d pl r res s).cmds = s.cmds ∧
    (countRead ch d pl r res s).fetchSeq = s.fetchSeq ∧ (countRead ch d pl r res s).elog = s.elog ∧
    (countRead ch d pl r res s).elogSeq = s.elogSeq ∧ (countRead ch d pl r res s).idx = s.idx ∧
    (countRead ch d pl r res s).mods = s.mods ∧ (countRead ch d pl r res s).chd = s.chd ∧ (countRead ch d pl r res s).side = s.side ∧
    (countRead ch d pl r res s).serial = s.serial ∧ (countRead ch d pl r res s).free = s.free ∧
    (countRead ch d pl r res s).pending = s.pending := by
  unfold countRead
  repeat' (first | (simp; done) | split | (dsimp only; split))

@[simp] theorem leavePlane_rest (ch d : Nat) (r : Read) (s : State) :
    (leavePlane ch d r s).brd = s.brd ∧ (leavePlane ch d r s).evr = s.evr ∧ (leavePlane ch d r s).fnc = s.fnc ∧
    (leavePlane ch d r s).fuse = s.fuse ∧ (leavePlane ch d r s).fw = s.fw ∧ (leavePlane ch d r s).lat = s.lat ∧
    (leavePlane ch d r s).cfg = s.cfg ∧ (leavePlane ch d r s).hif = s.hif ∧ (leavePlane ch d r s).tags = s.tags ∧
    (leavePlane ch d r s).fetchSeq = s.fetchSeq ∧ (leavePlane ch d r s).elog = s.elog ∧ (leavePlane ch d r s).elogSeq = s.elogSeq ∧
    (leavePlane ch d r s).facets = s.facets ∧ (leavePlane ch d r s).idx = s.idx ∧ (leavePlane ch d r s).mods = s.mods ∧
    (leavePlane ch d r s).srch = s.srch ∧ (leavePlane ch d r s).mem = s.mem ∧ (leavePlane ch d r s).chd = s.chd ∧
    (leavePlane ch d r s).side = s.side ∧ (leavePlane ch d r s).serial = s.serial ∧ (leavePlane ch d r s).out = s.out ∧
    (leavePlane ch d r s).free = s.free ∧ (leavePlane ch d r s).pending = s.pending := by
  unfold leavePlane
  repeat' (first | (simp; done) | split | (dsimp only; split))

@[simp] theorem readComplete_rest (ch d pl : Nat) (res : ReadResult) (s : State) :
    (readComplete ch d pl res s).fnc = s.fnc ∧ (readComplete ch d pl res s).fuse = s.fuse ∧ (readComplete ch d pl res s).cfg = s.cfg ∧
    (readComplete ch d pl res s).fetchSeq = s.fetchSeq ∧ (readComplete ch d pl res s).side = s.side ∧
    (readComplete ch d pl res s).serial = s.serial ∧ (readComplete ch d pl res s).pending = s.pending := by
  unfold readComplete
  repeat' (first | (simp; done) | split | (dsimp only; split))

@[simp] theorem spareCheck_rest (s : State) :
    (spareCheck s).brd = s.brd ∧ (spareCheck s).fnc = s.fnc ∧ (spareCheck s).fuse = s.fuse ∧ (spareCheck s).fw = s.fw ∧
    (spareCheck s).lat = s.lat ∧ (spareCheck s).cfg = s.cfg ∧ (spareCheck s).qps = s.qps ∧ (spareCheck s).tags = s.tags ∧
    (spareCheck s).cmds = s.cmds ∧ (spareCheck s).fetchSeq = s.fetchSeq ∧ (spareCheck s).elog = s.elog ∧
    (spareCheck s).elogSeq = s.elogSeq ∧ (spareCheck s).facets = s.facets ∧ (spareCheck s).idx = s.idx ∧ (spareCheck s).mods = s.mods ∧
    (spareCheck s).srch = s.srch ∧ (spareCheck s).mem = s.mem ∧ (spareCheck s).chd = s.chd ∧ (spareCheck s).side = s.side ∧
    (spareCheck s).serial = s.serial ∧ (spareCheck s).free = s.free ∧ (spareCheck s).pending = s.pending := by
  unfold spareCheck
  repeat' (first | (simp; done) | split | (dsimp only; split))

@[simp] theorem copyUnit_rest (reads : List Job) (u : Unit') (s : State) :
    (copyUnit reads u s).brd = s.brd ∧ (copyUnit reads u s).evr = s.evr ∧ (copyUnit reads u s).fnc = s.fnc ∧
    (copyUnit reads u s).fuse = s.fuse ∧ (copyUnit reads u s).fw = s.fw ∧ (copyUnit reads u s).lat = s.lat ∧
    (copyUnit reads u s).cfg = s.cfg ∧ (copyUnit reads u s).hif = s.hif ∧ (copyUnit reads u s).qps = s.qps ∧
    (copyUnit reads u s).tags = s.tags ∧ (copyUnit reads u s).cmds = s.cmds ∧ (copyUnit reads u s).fetchSeq = s.fetchSeq ∧
    (copyUnit reads u s).elog = s.elog ∧ (copyUnit reads u s).elogSeq = s.elogSeq ∧ (copyUnit reads u s).idx = s.idx ∧
    (copyUnit reads u s).mods = s.mods ∧ (copyUnit reads u s).mem = s.mem ∧ (copyUnit reads u s).chd = s.chd ∧
    (copyUnit reads u s).side = s.side ∧ (copyUnit reads u s).serial = s.serial ∧ (copyUnit reads u s).out = s.out ∧
    (copyUnit reads u s).pending = s.pending := by
  unfold copyUnit
  repeat' (first | (simp; done) | split | (dsimp only; split) | (have hA := allJobs_rest _ _ _ _ _ _ (by assumption); simp [hA]; done))

@[simp] theorem retireBlock_rest (b : Nat × Nat × Nat × Nat) (cause : Nat) (s : State) :
    (retireBlock b cause s).brd = s.brd ∧ (retireBlock b cause s).fnc = s.fnc ∧ (retireBlock b cause s).fuse = s.fuse ∧
    (retireBlock b cause s).fw = s.fw ∧ (retireBlock b cause s).lat = s.lat ∧ (retireBlock b cause s).cfg = s.cfg ∧
    (retireBlock b cause s).qps = s.qps ∧ (retireBlock b cause s).tags = s.tags ∧ (retireBlock b cause s).cmds = s.cmds ∧
    (retireBlock b cause s).fetchSeq = s.fetchSeq ∧ (retireBlock b cause s).elog = s.elog ∧ (retireBlock b cause s).elogSeq = s.elogSeq ∧
    (retireBlock b cause s).facets = s.facets ∧ (retireBlock b cause s).idx = s.idx ∧ (retireBlock b cause s).mods = s.mods ∧
    (retireBlock b cause s).srch = s.srch ∧ (retireBlock b cause s).chd = s.chd ∧ (retireBlock b cause s).side = s.side ∧
    (retireBlock b cause s).serial = s.serial ∧ (retireBlock b cause s).free = s.free ∧ (retireBlock b cause s).pending = s.pending := by
  unfold retireBlock
  repeat' (first | (simp; done) | split | (dsimp only; split))

@[simp] theorem leaveBlock_rest (s : State) (b : Nat × Nat × Nat × Nat) :
    (leaveBlock s b).brd = s.brd ∧ (leaveBlock s b).fnc = s.fnc ∧ (leaveBlock s b).fuse = s.fuse ∧ (leaveBlock s b).fw = s.fw ∧
    (leaveBlock s b).lat = s.lat ∧ (leaveBlock s b).cfg = s.cfg ∧ (leaveBlock s b).qps = s.qps ∧ (leaveBlock s b).tags = s.tags ∧
    (leaveBlock s b).cmds = s.cmds ∧ (leaveBlock s b).fetchSeq = s.fetchSeq ∧ (leaveBlock s b).elog = s.elog ∧
    (leaveBlock s b).elogSeq = s.elogSeq ∧ (leaveBlock s b).idx = s.idx ∧ (leaveBlock s b).mods = s.mods ∧ (leaveBlock s b).chd = s.chd ∧
    (leaveBlock s b).side = s.side ∧ (leaveBlock s b).serial = s.serial ∧ (leaveBlock s b).pending = s.pending := by
  have key := @foldl_ind (fun u : State => u.brd = s.brd ∧ u.fnc = s.fnc ∧ u.fuse = s.fuse ∧ u.fw = s.fw ∧ u.lat = s.lat ∧ u.cfg = s.cfg ∧ u.qps = s.qps ∧ u.tags = s.tags ∧
      u.cmds = s.cmds ∧ u.fetchSeq = s.fetchSeq ∧ u.elog = s.elog ∧ u.elogSeq = s.elogSeq ∧ u.idx = s.idx ∧ u.mods = s.mods ∧
      u.chd = s.chd ∧ u.side = s.side ∧ u.serial = s.serial ∧ u.pending = s.pending)
  unfold leaveBlock
  repeat' (first | (simp; done) | split | (dsimp only; split) | refine key _ _ _ ?_ ?_ |
    (dsimp only; refine key _ _ _ ?_ ?_) | intro t x h | (simp [h]; done))

@[simp] theorem leaveBlocks_rest (s : State) :
    (leaveBlocks s).brd = s.brd ∧ (leaveBlocks s).fnc = s.fnc ∧ (leaveBlocks s).fuse = s.fuse ∧ (leaveBlocks s).fw = s.fw ∧
    (leaveBlocks s).lat = s.lat ∧ (leaveBlocks s).cfg = s.cfg ∧ (leaveBlocks s).qps = s.qps ∧ (leaveBlocks s).tags = s.tags ∧
    (leaveBlocks s).cmds = s.cmds ∧ (leaveBlocks s).fetchSeq = s.fetchSeq ∧ (leaveBlocks s).elog = s.elog ∧
    (leaveBlocks s).elogSeq = s.elogSeq ∧ (leaveBlocks s).idx = s.idx ∧ (leaveBlocks s).mods = s.mods ∧ (leaveBlocks s).chd = s.chd ∧
    (leaveBlocks s).side = s.side ∧ (leaveBlocks s).serial = s.serial ∧ (leaveBlocks s).pending = s.pending := by
  have key := @foldl_ind (fun u : State => u.brd = s.brd ∧ u.fnc = s.fnc ∧ u.fuse = s.fuse ∧ u.fw = s.fw ∧ u.lat = s.lat ∧ u.cfg = s.cfg ∧ u.qps = s.qps ∧ u.tags = s.tags ∧
      u.cmds = s.cmds ∧ u.fetchSeq = s.fetchSeq ∧ u.elog = s.elog ∧ u.elogSeq = s.elogSeq ∧ u.idx = s.idx ∧ u.mods = s.mods ∧
      u.chd = s.chd ∧ u.side = s.side ∧ u.serial = s.serial ∧ u.pending = s.pending)
  unfold leaveBlocks
  repeat' (first | (simp; done) | split | (dsimp only; split) | refine key _ _ _ ?_ ?_ |
    (dsimp only; refine key _ _ _ ?_ ?_) | intro t x h | (simp [h]; done))

@[simp] theorem noteRebuilt_rest (u : Unit') (old : Nat) (s : State) :
    (noteRebuilt u old s).brd = s.brd ∧ (noteRebuilt u old s).fnc = s.fnc ∧ (noteRebuilt u old s).fuse = s.fuse ∧
    (noteRebuilt u old s).fw = s.fw ∧ (noteRebuilt u old s).lat = s.lat ∧ (noteRebuilt u old s).cfg = s.cfg ∧
    (noteRebuilt u old s).qps = s.qps ∧ (noteRebuilt u old s).tags = s.tags ∧ (noteRebuilt u old s).cmds = s.cmds ∧
    (noteRebuilt u old s).fetchSeq = s.fetchSeq ∧ (noteRebuilt u old s).elog = s.elog ∧ (noteRebuilt u old s).elogSeq = s.elogSeq ∧
    (noteRebuilt u old s).facets = s.facets ∧ (noteRebuilt u old s).idx = s.idx ∧ (noteRebuilt u old s).mods = s.mods ∧
    (noteRebuilt u old s).srch = s.srch ∧ (noteRebuilt u old s).chd = s.chd ∧ (noteRebuilt u old s).side = s.side ∧
    (noteRebuilt u old s).serial = s.serial ∧ (noteRebuilt u old s).free = s.free ∧ (noteRebuilt u old s).pending = s.pending := by
  unfold noteRebuilt
  repeat' (first | (simp; done) | split | (dsimp only; split))

@[simp] theorem moveDone_rest (u : Unit') (old word gen : Nat) (s : State) :
    (moveDone u old word gen s).brd = s.brd ∧ (moveDone u old word gen s).fnc = s.fnc ∧ (moveDone u old word gen s).fuse = s.fuse ∧
    (moveDone u old word gen s).fw = s.fw ∧ (moveDone u old word gen s).lat = s.lat ∧ (moveDone u old word gen s).cfg = s.cfg ∧
    (moveDone u old word gen s).qps = s.qps ∧ (moveDone u old word gen s).tags = s.tags ∧ (moveDone u old word gen s).cmds = s.cmds ∧
    (moveDone u old word gen s).fetchSeq = s.fetchSeq ∧ (moveDone u old word gen s).elog = s.elog ∧
    (moveDone u old word gen s).elogSeq = s.elogSeq ∧ (moveDone u old word gen s).idx = s.idx ∧
    (moveDone u old word gen s).mods = s.mods ∧ (moveDone u old word gen s).chd = s.chd ∧ (moveDone u old word gen s).side = s.side ∧
    (moveDone u old word gen s).serial = s.serial ∧ (moveDone u old word gen s).pending = s.pending := by
  unfold moveDone
  repeat' (first | (simp; done) | split | (dsimp only; split))

@[simp] theorem refreshPrefetch_rest (s : State) :
    (refreshPrefetch s).brd = s.brd ∧ (refreshPrefetch s).evr = s.evr ∧ (refreshPrefetch s).fnc = s.fnc ∧
    (refreshPrefetch s).fuse = s.fuse ∧ (refreshPrefetch s).fw = s.fw ∧ (refreshPrefetch s).lat = s.lat ∧
    (refreshPrefetch s).cfg = s.cfg ∧ (refreshPrefetch s).hif = s.hif ∧ (refreshPrefetch s).qps = s.qps ∧
    (refreshPrefetch s).tags = s.tags ∧ (refreshPrefetch s).cmds = s.cmds ∧ (refreshPrefetch s).fetchSeq = s.fetchSeq ∧
    (refreshPrefetch s).elog = s.elog ∧ (refreshPrefetch s).elogSeq = s.elogSeq ∧ (refreshPrefetch s).facets = s.facets ∧
    (refreshPrefetch s).idx = s.idx ∧ (refreshPrefetch s).srch = s.srch ∧ (refreshPrefetch s).flash = s.flash ∧
    (refreshPrefetch s).mem = s.mem ∧ (refreshPrefetch s).chd = s.chd ∧ (refreshPrefetch s).side = s.side ∧
    (refreshPrefetch s).serial = s.serial ∧ (refreshPrefetch s).out = s.out ∧ (refreshPrefetch s).free = s.free ∧
    (refreshPrefetch s).pending = s.pending := by
  unfold refreshPrefetch
  repeat' (first | (simp; done) | split | (dsimp only; split))

@[simp] theorem weightsWritten_rest (c : Cmd) (s : State) :
    (weightsWritten c s).brd = s.brd ∧ (weightsWritten c s).evr = s.evr ∧ (weightsWritten c s).fnc = s.fnc ∧
    (weightsWritten c s).fuse = s.fuse ∧ (weightsWritten c s).fw = s.fw ∧ (weightsWritten c s).lat = s.lat ∧
    (weightsWritten c s).cfg = s.cfg ∧ (weightsWritten c s).hif = s.hif ∧ (weightsWritten c s).qps = s.qps ∧
    (weightsWritten c s).tags = s.tags ∧ (weightsWritten c s).cmds = s.cmds ∧ (weightsWritten c s).fetchSeq = s.fetchSeq ∧
    (weightsWritten c s).elog = s.elog ∧ (weightsWritten c s).elogSeq = s.elogSeq ∧ (weightsWritten c s).facets = s.facets ∧
    (weightsWritten c s).idx = s.idx ∧ (weightsWritten c s).srch = s.srch ∧ (weightsWritten c s).flash = s.flash ∧
    (weightsWritten c s).mem = s.mem ∧ (weightsWritten c s).chd = s.chd ∧ (weightsWritten c s).side = s.side ∧
    (weightsWritten c s).serial = s.serial ∧ (weightsWritten c s).out = s.out ∧ (weightsWritten c s).free = s.free ∧
    (weightsWritten c s).pending = s.pending := by
  unfold weightsWritten
  repeat' (first | (simp; done) | split | (dsimp only; split))

@[simp] theorem readySlot_rest (m : ModelSlot) (s : State) :
    (readySlot m s).brd = s.brd ∧ (readySlot m s).evr = s.evr ∧ (readySlot m s).fnc = s.fnc ∧ (readySlot m s).fuse = s.fuse ∧
    (readySlot m s).fw = s.fw ∧ (readySlot m s).lat = s.lat ∧ (readySlot m s).cfg = s.cfg ∧ (readySlot m s).fetchSeq = s.fetchSeq ∧
    (readySlot m s).facets = s.facets ∧ (readySlot m s).idx = s.idx ∧ (readySlot m s).srch = s.srch ∧ (readySlot m s).flash = s.flash ∧
    (readySlot m s).chd = s.chd ∧ (readySlot m s).side = s.side ∧ (readySlot m s).serial = s.serial ∧ (readySlot m s).free = s.free ∧
    (readySlot m s).pending = s.pending := by
  unfold readySlot
  repeat' (first | (simp; done) | split | (dsimp only; split))

@[simp] theorem readySlots_rest (s : State) :
    (readySlots s).brd = s.brd ∧ (readySlots s).evr = s.evr ∧ (readySlots s).fnc = s.fnc ∧ (readySlots s).fuse = s.fuse ∧
    (readySlots s).fw = s.fw ∧ (readySlots s).lat = s.lat ∧ (readySlots s).cfg = s.cfg ∧ (readySlots s).fetchSeq = s.fetchSeq ∧
    (readySlots s).facets = s.facets ∧ (readySlots s).idx = s.idx ∧ (readySlots s).srch = s.srch ∧ (readySlots s).flash = s.flash ∧
    (readySlots s).chd = s.chd ∧ (readySlots s).side = s.side ∧ (readySlots s).serial = s.serial ∧ (readySlots s).free = s.free ∧
    (readySlots s).pending = s.pending := by
  have key := @foldl_ind (fun u : State => u.brd = s.brd ∧ u.evr = s.evr ∧ u.fnc = s.fnc ∧ u.fuse = s.fuse ∧ u.fw = s.fw ∧ u.lat = s.lat ∧ u.cfg = s.cfg ∧
      u.fetchSeq = s.fetchSeq ∧ u.facets = s.facets ∧ u.idx = s.idx ∧ u.srch = s.srch ∧ u.flash = s.flash ∧ u.chd = s.chd ∧
      u.side = s.side ∧ u.serial = s.serial ∧ u.free = s.free ∧ u.pending = s.pending)
  unfold readySlots
  repeat' (first | (simp; done) | split | (dsimp only; split) | refine key _ _ _ ?_ ?_ |
    (dsimp only; refine key _ _ _ ?_ ?_) | intro t x h | (simp [h]; done))

@[simp] theorem writesDone_rest (tag : Nat) (s : State) :
    (writesDone tag s).brd = s.brd ∧ (writesDone tag s).evr = s.evr ∧ (writesDone tag s).fnc = s.fnc ∧ (writesDone tag s).fuse = s.fuse ∧
    (writesDone tag s).lat = s.lat ∧ (writesDone tag s).cfg = s.cfg ∧ (writesDone tag s).fetchSeq = s.fetchSeq ∧
    (writesDone tag s).facets = s.facets ∧ (writesDone tag s).srch = s.srch ∧ (writesDone tag s).flash = s.flash ∧
    (writesDone tag s).chd = s.chd ∧ (writesDone tag s).side = s.side ∧ (writesDone tag s).serial = s.serial ∧
    (writesDone tag s).free = s.free ∧ (writesDone tag s).pending = s.pending := by
  unfold writesDone
  repeat' (first | (simp; done) | split | (dsimp only; split))

@[simp] theorem writesFailed_rest (tag : Nat) (s : State) :
    (writesFailed tag s).brd = s.brd ∧ (writesFailed tag s).evr = s.evr ∧ (writesFailed tag s).fnc = s.fnc ∧
    (writesFailed tag s).fuse = s.fuse ∧ (writesFailed tag s).lat = s.lat ∧ (writesFailed tag s).cfg = s.cfg ∧
    (writesFailed tag s).fetchSeq = s.fetchSeq ∧ (writesFailed tag s).facets = s.facets ∧ (writesFailed tag s).idx = s.idx ∧
    (writesFailed tag s).srch = s.srch ∧ (writesFailed tag s).flash = s.flash ∧ (writesFailed tag s).mem = s.mem ∧
    (writesFailed tag s).chd = s.chd ∧ (writesFailed tag s).side = s.side ∧ (writesFailed tag s).serial = s.serial ∧
    (writesFailed tag s).free = s.free ∧ (writesFailed tag s).pending = s.pending := by
  unfold writesFailed
  repeat' (first | (simp; done) | split | (dsimp only; split))

@[simp] theorem segDone_rest (g : Seg) (s : State) :
    (segDone g s).brd = s.brd ∧ (segDone g s).fnc = s.fnc ∧ (segDone g s).fuse = s.fuse ∧ (segDone g s).lat = s.lat ∧
    (segDone g s).cfg = s.cfg ∧ (segDone g s).fetchSeq = s.fetchSeq ∧ (segDone g s).chd = s.chd ∧ (segDone g s).side = s.side ∧
    (segDone g s).serial = s.serial ∧ (segDone g s).pending = s.pending := by
  unfold segDone
  repeat' (first | (simp; done) | split | (dsimp only; split))

@[simp] theorem leaveDie_rest (ch d : Nat) (rest : Option Seg) (s : State) :
    (leaveDie ch d rest s).brd = s.brd ∧ (leaveDie ch d rest s).evr = s.evr ∧ (leaveDie ch d rest s).fnc = s.fnc ∧
    (leaveDie ch d rest s).fuse = s.fuse ∧ (leaveDie ch d rest s).fw = s.fw ∧ (leaveDie ch d rest s).lat = s.lat ∧
    (leaveDie ch d rest s).cfg = s.cfg ∧ (leaveDie ch d rest s).hif = s.hif ∧ (leaveDie ch d rest s).tags = s.tags ∧
    (leaveDie ch d rest s).fetchSeq = s.fetchSeq ∧ (leaveDie ch d rest s).elog = s.elog ∧ (leaveDie ch d rest s).elogSeq = s.elogSeq ∧
    (leaveDie ch d rest s).facets = s.facets ∧ (leaveDie ch d rest s).idx = s.idx ∧ (leaveDie ch d rest s).mods = s.mods ∧
    (leaveDie ch d rest s).srch = s.srch ∧ (leaveDie ch d rest s).mem = s.mem ∧ (leaveDie ch d rest s).chd = s.chd ∧
    (leaveDie ch d rest s).side = s.side ∧ (leaveDie ch d rest s).serial = s.serial ∧ (leaveDie ch d rest s).out = s.out ∧
    (leaveDie ch d rest s).free = s.free ∧ (leaveDie ch d rest s).pending = s.pending := by
  unfold leaveDie
  repeat' (first | (simp; done) | split | (dsimp only; split))

@[simp] theorem segmentComplete_rest (ch d : Nat) (res : SegResult) (s : State) :
    (segmentComplete ch d res s).fnc = s.fnc ∧ (segmentComplete ch d res s).fuse = s.fuse ∧ (segmentComplete ch d res s).cfg = s.cfg ∧
    (segmentComplete ch d res s).fetchSeq = s.fetchSeq ∧ (segmentComplete ch d res s).side = s.side ∧
    (segmentComplete ch d res s).serial = s.serial ∧ (segmentComplete ch d res s).pending = s.pending := by
  unfold segmentComplete
  repeat' (first | (simp; done) | split | (dsimp only; split))

@[simp] theorem suspendSegment_rest (ch d : Nat) (s : State) :
    (suspendSegment ch d s).fnc = s.fnc ∧ (suspendSegment ch d s).fuse = s.fuse ∧ (suspendSegment ch d s).cfg = s.cfg ∧
    (suspendSegment ch d s).fetchSeq = s.fetchSeq ∧ (suspendSegment ch d s).side = s.side ∧ (suspendSegment ch d s).serial = s.serial ∧
    (suspendSegment ch d s).pending = s.pending := by
  unfold suspendSegment
  repeat' (first | (simp; done) | split | (dsimp only; split))

@[simp] theorem nowRunning_rest (tag n : Nat) (s : State) :
    (nowRunning tag n s).brd = s.brd ∧ (nowRunning tag n s).evr = s.evr ∧ (nowRunning tag n s).fnc = s.fnc ∧
    (nowRunning tag n s).fuse = s.fuse ∧ (nowRunning tag n s).fw = s.fw ∧ (nowRunning tag n s).lat = s.lat ∧
    (nowRunning tag n s).cfg = s.cfg ∧ (nowRunning tag n s).hif = s.hif ∧ (nowRunning tag n s).qps = s.qps ∧
    (nowRunning tag n s).fetchSeq = s.fetchSeq ∧ (nowRunning tag n s).elog = s.elog ∧ (nowRunning tag n s).elogSeq = s.elogSeq ∧
    (nowRunning tag n s).facets = s.facets ∧ (nowRunning tag n s).idx = s.idx ∧ (nowRunning tag n s).mods = s.mods ∧
    (nowRunning tag n s).srch = s.srch ∧ (nowRunning tag n s).flash = s.flash ∧ (nowRunning tag n s).mem = s.mem ∧
    (nowRunning tag n s).chd = s.chd ∧ (nowRunning tag n s).side = s.side ∧ (nowRunning tag n s).serial = s.serial ∧
    (nowRunning tag n s).out = s.out ∧ (nowRunning tag n s).free = s.free ∧ (nowRunning tag n s).pending = s.pending := by
  unfold nowRunning
  repeat' (first | (simp; done) | split | (dsimp only; split))

theorem seat_rest (graph : Bool) (f cls : Nat) (mk : Nat → Nat → Query) (s t : State) (h : seat graph f cls mk s = some t) :
    (t).brd = s.brd ∧ (t).evr = s.evr ∧ (t).fnc = s.fnc ∧ (t).fuse = s.fuse ∧ (t).fw = s.fw ∧ (t).lat = s.lat ∧ (t).cfg = s.cfg ∧
    (t).hif = s.hif ∧ (t).qps = s.qps ∧ (t).tags = s.tags ∧ (t).cmds = s.cmds ∧ (t).fetchSeq = s.fetchSeq ∧ (t).elog = s.elog ∧
    (t).elogSeq = s.elogSeq ∧ (t).idx = s.idx ∧ (t).mods = s.mods ∧ (t).flash = s.flash ∧ (t).mem = s.mem ∧ (t).chd = s.chd ∧
    (t).side = s.side ∧ (t).serial = s.serial ∧ (t).out = s.out ∧ (t).free = s.free ∧ (t).pending = s.pending := by
  unfold seat at h
  split at h
  · cases h
  · dsimp only at h
    split at h
    · simp only [Option.map_eq_some_iff] at h
      obtain ⟨w, -, rfl⟩ := h
      simp
    · cases h
      simp

theorem seatAll_rest (s : State) (ix : Index) (a : Asked) (t : State) (h : seatAll s ix a = some t) :
    (t).brd = s.brd ∧ (t).evr = s.evr ∧ (t).fnc = s.fnc ∧ (t).fuse = s.fuse ∧ (t).fw = s.fw ∧ (t).lat = s.lat ∧ (t).cfg = s.cfg ∧
    (t).hif = s.hif ∧ (t).qps = s.qps ∧ (t).tags = s.tags ∧ (t).cmds = s.cmds ∧ (t).fetchSeq = s.fetchSeq ∧ (t).elog = s.elog ∧
    (t).elogSeq = s.elogSeq ∧ (t).idx = s.idx ∧ (t).mods = s.mods ∧ (t).flash = s.flash ∧ (t).mem = s.mem ∧ (t).chd = s.chd ∧
    (t).side = s.side ∧ (t).serial = s.serial ∧ (t).out = s.out ∧ (t).free = s.free ∧ (t).pending = s.pending := by
  unfold seatAll at h
  have key : ∀ (l : List Nat) (o : Option State), (∀ u, o = some u → (u).brd = s.brd ∧ (u).evr = s.evr ∧ (u).fnc = s.fnc ∧ (u).fuse = s.fuse ∧ (u).fw = s.fw ∧ (u).lat = s.lat ∧ (u).cfg = s.cfg ∧
    (u).hif = s.hif ∧ (u).qps = s.qps ∧ (u).tags = s.tags ∧ (u).cmds = s.cmds ∧ (u).fetchSeq = s.fetchSeq ∧ (u).elog = s.elog ∧
    (u).elogSeq = s.elogSeq ∧ (u).idx = s.idx ∧ (u).mods = s.mods ∧ (u).flash = s.flash ∧ (u).mem = s.mem ∧ (u).chd = s.chd ∧
    (u).side = s.side ∧ (u).serial = s.serial ∧ (u).out = s.out ∧ (u).free = s.free ∧ (u).pending = s.pending) →
      ∀ t, l.foldl (fun (acc : Option State) i => acc.bind (seat (ix.geo.mode == 1) a.facet a.cls (askedQuery s ix a i))) o = some t →
      (t).brd = s.brd ∧ (t).evr = s.evr ∧ (t).fnc = s.fnc ∧ (t).fuse = s.fuse ∧ (t).fw = s.fw ∧ (t).lat = s.lat ∧ (t).cfg = s.cfg ∧
    (t).hif = s.hif ∧ (t).qps = s.qps ∧ (t).tags = s.tags ∧ (t).cmds = s.cmds ∧ (t).fetchSeq = s.fetchSeq ∧ (t).elog = s.elog ∧
    (t).elogSeq = s.elogSeq ∧ (t).idx = s.idx ∧ (t).mods = s.mods ∧ (t).flash = s.flash ∧ (t).mem = s.mem ∧ (t).chd = s.chd ∧
    (t).side = s.side ∧ (t).serial = s.serial ∧ (t).out = s.out ∧ (t).free = s.free ∧ (t).pending = s.pending := by
    intro l
    induction l with
    | nil => intro o ho t ht; exact ho t ht
    | cons i l ih =>
      intro o ho t ht
      refine ih _ ?_ t ht
      intro u hu
      simp only [Option.bind_eq_some_iff] at hu
      obtain ⟨v, hv, hu⟩ := hu
      have h1 := ho v hv
      have h2 := seat_rest _ _ _ _ _ _ hu
      simp only [h2, h1, and_self]
  exact key _ (some s) (by rintro u ⟨⟩; simp) t h

@[simp] theorem admitMining_rest (tag n : Nat) (s : State) :
    (admitMining tag n s).brd = s.brd ∧ (admitMining tag n s).evr = s.evr ∧ (admitMining tag n s).fnc = s.fnc ∧
    (admitMining tag n s).fuse = s.fuse ∧ (admitMining tag n s).fw = s.fw ∧ (admitMining tag n s).lat = s.lat ∧
    (admitMining tag n s).cfg = s.cfg ∧ (admitMining tag n s).hif = s.hif ∧ (admitMining tag n s).qps = s.qps ∧
    (admitMining tag n s).tags = s.tags ∧ (admitMining tag n s).cmds = s.cmds ∧ (admitMining tag n s).fetchSeq = s.fetchSeq ∧
    (admitMining tag n s).elog = s.elog ∧ (admitMining tag n s).elogSeq = s.elogSeq ∧ (admitMining tag n s).idx = s.idx ∧
    (admitMining tag n s).mods = s.mods ∧ (admitMining tag n s).flash = s.flash ∧ (admitMining tag n s).mem = s.mem ∧
    (admitMining tag n s).chd = s.chd ∧ (admitMining tag n s).side = s.side ∧ (admitMining tag n s).serial = s.serial ∧
    (admitMining tag n s).out = s.out ∧ (admitMining tag n s).free = s.free ∧ (admitMining tag n s).pending = s.pending := by
  fun_induction admitMining tag n s
  case case5 hs ih =>
    have h := seat_rest _ _ _ _ _ _ hs
    exact ⟨ih.1.trans h.1, ih.2.1.trans h.2.1, ih.2.2.1.trans h.2.2.1, ih.2.2.2.1.trans h.2.2.2.1, ih.2.2.2.2.1.trans h.2.2.2.2.1, ih.2.2.2.2.2.1.trans h.2.2.2.2.2.1, ih.2.2.2.2.2.2.1.trans h.2.2.2.2.2.2.1, ih.2.2.2.2.2.2.2.1.trans h.2.2.2.2.2.2.2.1, ih.2.2.2.2.2.2.2.2.1.trans h.2.2.2.2.2.2.2.2.1, ih.2.2.2.2.2.2.2.2.2.1.trans h.2.2.2.2.2.2.2.2.2.1, ih.2.2.2.2.2.2.2.2.2.2.1.trans h.2.2.2.2.2.2.2.2.2.2.1, ih.2.2.2.2.2.2.2.2.2.2.2.1.trans h.2.2.2.2.2.2.2.2.2.2.2.1, ih.2.2.2.2.2.2.2.2.2.2.2.2.1.trans h.2.2.2.2.2.2.2.2.2.2.2.2.1, ih.2.2.2.2.2.2.2.2.2.2.2.2.2.1.trans h.2.2.2.2.2.2.2.2.2.2.2.2.2.1, ih.2.2.2.2.2.2.2.2.2.2.2.2.2.2.1.trans h.2.2.2.2.2.2.2.2.2.2.2.2.2.2.1, ih.2.2.2.2.2.2.2.2.2.2.2.2.2.2.2.1.trans h.2.2.2.2.2.2.2.2.2.2.2.2.2.2.2.1, ih.2.2.2.2.2.2.2.2.2.2.2.2.2.2.2.2.1.trans h.2.2.2.2.2.2.2.2.2.2.2.2.2.2.2.2.1, ih.2.2.2.2.2.2.2.2.2.2.2.2.2.2.2.2.2.1.trans h.2.2.2.2.2.2.2.2.2.2.2.2.2.2.2.2.2.1, ih.2.2.2.2.2.2.2.2.2.2.2.2.2.2.2.2.2.2.1.trans h.2.2.2.2.2.2.2.2.2.2.2.2.2.2.2.2.2.2.1, ih.2.2.2.2.2.2.2.2.2.2.2.2.2.2.2.2.2.2.2.1.trans h.2.2.2.2.2.2.2.2.2.2.2.2.2.2.2.2.2.2.2.1, ih.2.2.2.2.2.2.2.2.2.2.2.2.2.2.2.2.2.2.2.2.1.trans h.2.2.2.2.2.2.2.2.2.2.2.2.2.2.2.2.2.2.2.2.1, ih.2.2.2.2.2.2.2.2.2.2.2.2.2.2.2.2.2.2.2.2.2.1.trans h.2.2.2.2.2.2.2.2.2.2.2.2.2.2.2.2.2.2.2.2.2.1, ih.2.2.2.2.2.2.2.2.2.2.2.2.2.2.2.2.2.2.2.2.2.2.1.trans h.2.2.2.2.2.2.2.2.2.2.2.2.2.2.2.2.2.2.2.2.2.2.1, ih.2.2.2.2.2.2.2.2.2.2.2.2.2.2.2.2.2.2.2.2.2.2.2.trans h.2.2.2.2.2.2.2.2.2.2.2.2.2.2.2.2.2.2.2.2.2.2.2⟩
  all_goals simp

@[simp] theorem cohortTiles_rest (f : Nat) (s : State) :
    (cohortTiles f s).brd = s.brd ∧ (cohortTiles f s).evr = s.evr ∧ (cohortTiles f s).fnc = s.fnc ∧ (cohortTiles f s).fuse = s.fuse ∧
    (cohortTiles f s).fw = s.fw ∧ (cohortTiles f s).lat = s.lat ∧ (cohortTiles f s).cfg = s.cfg ∧ (cohortTiles f s).hif = s.hif ∧
    (cohortTiles f s).qps = s.qps ∧ (cohortTiles f s).tags = s.tags ∧ (cohortTiles f s).cmds = s.cmds ∧
    (cohortTiles f s).fetchSeq = s.fetchSeq ∧ (cohortTiles f s).elog = s.elog ∧ (cohortTiles f s).elogSeq = s.elogSeq ∧
    (cohortTiles f s).facets = s.facets ∧ (cohortTiles f s).idx = s.idx ∧ (cohortTiles f s).mods = s.mods ∧
    (cohortTiles f s).flash = s.flash ∧ (cohortTiles f s).mem = s.mem ∧ (cohortTiles f s).chd = s.chd ∧ (cohortTiles f s).side = s.side ∧
    (cohortTiles f s).serial = s.serial ∧ (cohortTiles f s).out = s.out ∧ (cohortTiles f s).free = s.free ∧
    (cohortTiles f s).pending = s.pending := by
  unfold cohortTiles
  repeat' (first | (simp; done) | split | (dsimp only; split))

@[simp] theorem admitMinings_rest (f : Nat) (s : State) :
    (admitMinings f s).brd = s.brd ∧ (admitMinings f s).evr = s.evr ∧ (admitMinings f s).fnc = s.fnc ∧ (admitMinings f s).fuse = s.fuse ∧
    (admitMinings f s).fw = s.fw ∧ (admitMinings f s).lat = s.lat ∧ (admitMinings f s).cfg = s.cfg ∧ (admitMinings f s).hif = s.hif ∧
    (admitMinings f s).qps = s.qps ∧ (admitMinings f s).tags = s.tags ∧ (admitMinings f s).cmds = s.cmds ∧
    (admitMinings f s).fetchSeq = s.fetchSeq ∧ (admitMinings f s).elog = s.elog ∧ (admitMinings f s).elogSeq = s.elogSeq ∧
    (admitMinings f s).idx = s.idx ∧ (admitMinings f s).mods = s.mods ∧ (admitMinings f s).flash = s.flash ∧
    (admitMinings f s).mem = s.mem ∧ (admitMinings f s).chd = s.chd ∧ (admitMinings f s).side = s.side ∧
    (admitMinings f s).serial = s.serial ∧ (admitMinings f s).out = s.out ∧ (admitMinings f s).free = s.free ∧
    (admitMinings f s).pending = s.pending := by
  have key := @foldl_ind (fun u : State => u.brd = s.brd ∧ u.evr = s.evr ∧ u.fnc = s.fnc ∧ u.fuse = s.fuse ∧ u.fw = s.fw ∧ u.lat = s.lat ∧ u.cfg = s.cfg ∧ u.hif = s.hif ∧
      u.qps = s.qps ∧ u.tags = s.tags ∧ u.cmds = s.cmds ∧ u.fetchSeq = s.fetchSeq ∧ u.elog = s.elog ∧ u.elogSeq = s.elogSeq ∧
      u.idx = s.idx ∧ u.mods = s.mods ∧ u.flash = s.flash ∧ u.mem = s.mem ∧ u.chd = s.chd ∧ u.side = s.side ∧ u.serial = s.serial ∧
      u.out = s.out ∧ u.free = s.free ∧ u.pending = s.pending)
  unfold admitMinings
  repeat' (first | (simp; done) | split | (dsimp only; split) | refine key _ _ _ ?_ ?_ |
    (dsimp only; refine key _ _ _ ?_ ?_) | intro t x h | (simp [h]; done))

theorem admitAsked_rest (e : Nat) (ix : Index) (a : Asked) (after : State → State) (m : Adm)
    (h : ∀ t, (after t).brd = t.brd ∧ (after t).fnc = t.fnc ∧ (after t).fuse = t.fuse ∧ (after t).fw = t.fw ∧ (after t).lat = t.lat ∧
    (after t).cfg = t.cfg ∧ (after t).fetchSeq = t.fetchSeq ∧ (after t).idx = t.idx ∧ (after t).mods = t.mods ∧
    (after t).flash = t.flash ∧ (after t).side = t.side ∧ (after t).serial = t.serial ∧ (after t).pending = t.pending) :
    ((admitAsked e ix a after m).st).brd = m.st.brd ∧ ((admitAsked e ix a after m).st).fnc = m.st.fnc ∧
    ((admitAsked e ix a after m).st).fuse = m.st.fuse ∧ ((admitAsked e ix a after m).st).fw = m.st.fw ∧
    ((admitAsked e ix a after m).st).lat = m.st.lat ∧ ((admitAsked e ix a after m).st).cfg = m.st.cfg ∧
    ((admitAsked e ix a after m).st).fetchSeq = m.st.fetchSeq ∧ ((admitAsked e ix a after m).st).idx = m.st.idx ∧
    ((admitAsked e ix a after m).st).mods = m.st.mods ∧ ((admitAsked e ix a after m).st).flash = m.st.flash ∧
    ((admitAsked e ix a after m).st).side = m.st.side ∧ ((admitAsked e ix a after m).st).serial = m.st.serial ∧
    ((admitAsked e ix a after m).st).pending = m.st.pending := by
  unfold admitAsked
  dsimp only
  repeat' (first | (simp; done) | split)
  all_goals
    have h1 := seatAll_rest _ _ _ _ (by assumption)
    simp only [h, h1, and_self]

@[simp] theorem admitEntry_rest (m : Adm) (e : Nat) :
    ((admitEntry m e).st).brd = m.st.brd ∧ ((admitEntry m e).st).fnc = m.st.fnc ∧ ((admitEntry m e).st).fuse = m.st.fuse ∧
    ((admitEntry m e).st).fw = m.st.fw ∧ ((admitEntry m e).st).lat = m.st.lat ∧ ((admitEntry m e).st).cfg = m.st.cfg ∧
    ((admitEntry m e).st).fetchSeq = m.st.fetchSeq ∧ ((admitEntry m e).st).idx = m.st.idx ∧ ((admitEntry m e).st).mods = m.st.mods ∧
    ((admitEntry m e).st).flash = m.st.flash ∧ ((admitEntry m e).st).side = m.st.side ∧ ((admitEntry m e).st).serial = m.st.serial ∧
    ((admitEntry m e).st).pending = m.st.pending := by
  unfold admitEntry
  repeat' (first | (simp; done) | (refine admitAsked_rest _ _ _ _ _ ?_; intro t) | split)

@[simp] theorem admitFacet_rest (s : State) (f : Nat) :
    (admitFacet s f).brd = s.brd ∧ (admitFacet s f).fnc = s.fnc ∧ (admitFacet s f).fuse = s.fuse ∧ (admitFacet s f).fw = s.fw ∧
    (admitFacet s f).lat = s.lat ∧ (admitFacet s f).cfg = s.cfg ∧ (admitFacet s f).fetchSeq = s.fetchSeq ∧ (admitFacet s f).idx = s.idx ∧
    (admitFacet s f).mods = s.mods ∧ (admitFacet s f).flash = s.flash ∧ (admitFacet s f).side = s.side ∧
    (admitFacet s f).serial = s.serial ∧ (admitFacet s f).pending = s.pending := by
  have key : ∀ (l : List Nat) (m : Adm), ((l.foldl admitEntry m).st).brd = m.st.brd ∧ ((l.foldl admitEntry m).st).fnc = m.st.fnc ∧
    ((l.foldl admitEntry m).st).fuse = m.st.fuse ∧ ((l.foldl admitEntry m).st).fw = m.st.fw ∧ ((l.foldl admitEntry m).st).lat = m.st.lat ∧
    ((l.foldl admitEntry m).st).cfg = m.st.cfg ∧ ((l.foldl admitEntry m).st).fetchSeq = m.st.fetchSeq ∧
    ((l.foldl admitEntry m).st).idx = m.st.idx ∧ ((l.foldl admitEntry m).st).mods = m.st.mods ∧
    ((l.foldl admitEntry m).st).flash = m.st.flash ∧ ((l.foldl admitEntry m).st).side = m.st.side ∧
    ((l.foldl admitEntry m).st).serial = m.st.serial ∧ ((l.foldl admitEntry m).st).pending = m.st.pending := by
    intro l
    induction l with
    | nil => intro m; simp
    | cons a l ih => intro m; simp [ih]
  unfold admitFacet
  dsimp only
  split
  · simp
  split
  · simp
  · have h2 := key (facetOf s f).admission ⟨s, false, false, [], []⟩
    revert h2
    generalize List.foldl admitEntry _ _ = m
    intro h2
    split <;> simp [h2]

@[simp] theorem joinDomains_rest (s : State) :
    (joinDomains s).brd = s.brd ∧ (joinDomains s).evr = s.evr ∧ (joinDomains s).fnc = s.fnc ∧ (joinDomains s).fuse = s.fuse ∧
    (joinDomains s).fw = s.fw ∧ (joinDomains s).lat = s.lat ∧ (joinDomains s).cfg = s.cfg ∧ (joinDomains s).hif = s.hif ∧
    (joinDomains s).qps = s.qps ∧ (joinDomains s).tags = s.tags ∧ (joinDomains s).cmds = s.cmds ∧ (joinDomains s).fetchSeq = s.fetchSeq ∧
    (joinDomains s).elog = s.elog ∧ (joinDomains s).elogSeq = s.elogSeq ∧ (joinDomains s).idx = s.idx ∧ (joinDomains s).mods = s.mods ∧
    (joinDomains s).srch = s.srch ∧ (joinDomains s).flash = s.flash ∧ (joinDomains s).mem = s.mem ∧ (joinDomains s).side = s.side ∧
    (joinDomains s).serial = s.serial ∧ (joinDomains s).out = s.out ∧ (joinDomains s).free = s.free ∧
    (joinDomains s).pending = s.pending := by
  have key := @foldl_ind (fun u : State => u.brd = s.brd ∧ u.evr = s.evr ∧ u.fnc = s.fnc ∧ u.fuse = s.fuse ∧ u.fw = s.fw ∧ u.lat = s.lat ∧ u.cfg = s.cfg ∧ u.hif = s.hif ∧
      u.qps = s.qps ∧ u.tags = s.tags ∧ u.cmds = s.cmds ∧ u.fetchSeq = s.fetchSeq ∧ u.elog = s.elog ∧ u.elogSeq = s.elogSeq ∧
      u.idx = s.idx ∧ u.mods = s.mods ∧ u.srch = s.srch ∧ u.flash = s.flash ∧ u.mem = s.mem ∧ u.side = s.side ∧ u.serial = s.serial ∧
      u.out = s.out ∧ u.free = s.free ∧ u.pending = s.pending)
  unfold joinDomains
  repeat' (first | (simp; done) | split | (dsimp only; split) | refine key _ _ _ ?_ ?_ |
    (dsimp only; refine key _ _ _ ?_ ?_) | intro t x h | (simp [h]; done))

@[simp] theorem advanceEpoch_rest (s : State) (f : Nat) :
    (advanceEpoch s f).brd = s.brd ∧ (advanceEpoch s f).evr = s.evr ∧ (advanceEpoch s f).fnc = s.fnc ∧ (advanceEpoch s f).fuse = s.fuse ∧
    (advanceEpoch s f).fw = s.fw ∧ (advanceEpoch s f).lat = s.lat ∧ (advanceEpoch s f).cfg = s.cfg ∧ (advanceEpoch s f).hif = s.hif ∧
    (advanceEpoch s f).qps = s.qps ∧ (advanceEpoch s f).tags = s.tags ∧ (advanceEpoch s f).cmds = s.cmds ∧
    (advanceEpoch s f).fetchSeq = s.fetchSeq ∧ (advanceEpoch s f).elog = s.elog ∧ (advanceEpoch s f).elogSeq = s.elogSeq ∧
    (advanceEpoch s f).idx = s.idx ∧ (advanceEpoch s f).mods = s.mods ∧ (advanceEpoch s f).srch = s.srch ∧
    (advanceEpoch s f).mem = s.mem ∧ (advanceEpoch s f).chd = s.chd ∧ (advanceEpoch s f).side = s.side ∧
    (advanceEpoch s f).serial = s.serial ∧ (advanceEpoch s f).out = s.out ∧ (advanceEpoch s f).free = s.free ∧
    (advanceEpoch s f).pending = s.pending := by
  unfold advanceEpoch
  repeat' (first | (simp; done) | split | (dsimp only; split))

@[simp] theorem dropStale_rest (s : State) :
    (dropStale s).brd = s.brd ∧ (dropStale s).evr = s.evr ∧ (dropStale s).fnc = s.fnc ∧ (dropStale s).fuse = s.fuse ∧
    (dropStale s).fw = s.fw ∧ (dropStale s).lat = s.lat ∧ (dropStale s).cfg = s.cfg ∧ (dropStale s).hif = s.hif ∧
    (dropStale s).qps = s.qps ∧ (dropStale s).tags = s.tags ∧ (dropStale s).cmds = s.cmds ∧ (dropStale s).fetchSeq = s.fetchSeq ∧
    (dropStale s).elog = s.elog ∧ (dropStale s).elogSeq = s.elogSeq ∧ (dropStale s).facets = s.facets ∧ (dropStale s).idx = s.idx ∧
    (dropStale s).mods = s.mods ∧ (dropStale s).srch = s.srch ∧ (dropStale s).flash = s.flash ∧ (dropStale s).chd = s.chd ∧
    (dropStale s).side = s.side ∧ (dropStale s).serial = s.serial ∧ (dropStale s).out = s.out ∧ (dropStale s).free = s.free ∧
    (dropStale s).pending = s.pending := by
  unfold dropStale
  repeat' (first | (simp; done) | split | (dsimp only; split))

@[simp] theorem freeContexts_rest (s : State) :
    (freeContexts s).brd = s.brd ∧ (freeContexts s).evr = s.evr ∧ (freeContexts s).fnc = s.fnc ∧ (freeContexts s).fuse = s.fuse ∧
    (freeContexts s).fw = s.fw ∧ (freeContexts s).lat = s.lat ∧ (freeContexts s).cfg = s.cfg ∧ (freeContexts s).hif = s.hif ∧
    (freeContexts s).qps = s.qps ∧ (freeContexts s).tags = s.tags ∧ (freeContexts s).cmds = s.cmds ∧
    (freeContexts s).fetchSeq = s.fetchSeq ∧ (freeContexts s).elog = s.elog ∧ (freeContexts s).elogSeq = s.elogSeq ∧
    (freeContexts s).facets = s.facets ∧ (freeContexts s).idx = s.idx ∧ (freeContexts s).mods = s.mods ∧
    (freeContexts s).flash = s.flash ∧ (freeContexts s).mem = s.mem ∧ (freeContexts s).chd = s.chd ∧ (freeContexts s).side = s.side ∧
    (freeContexts s).serial = s.serial ∧ (freeContexts s).out = s.out ∧ (freeContexts s).free = s.free ∧
    (freeContexts s).pending = s.pending := by
  unfold freeContexts
  repeat' (first | (simp; done) | split | (dsimp only; split))

@[simp] theorem takeForce_rest (s : State) :
    (takeForce s).brd = s.brd ∧ (takeForce s).evr = s.evr ∧ (takeForce s).fnc = s.fnc ∧ (takeForce s).fuse = s.fuse ∧
    (takeForce s).fw = s.fw ∧ (takeForce s).lat = s.lat ∧ (takeForce s).cfg = s.cfg ∧ (takeForce s).hif = s.hif ∧
    (takeForce s).qps = s.qps ∧ (takeForce s).tags = s.tags ∧ (takeForce s).cmds = s.cmds ∧ (takeForce s).fetchSeq = s.fetchSeq ∧
    (takeForce s).elog = s.elog ∧ (takeForce s).elogSeq = s.elogSeq ∧ (takeForce s).idx = s.idx ∧ (takeForce s).srch = s.srch ∧
    (takeForce s).flash = s.flash ∧ (takeForce s).mem = s.mem ∧ (takeForce s).chd = s.chd ∧ (takeForce s).side = s.side ∧
    (takeForce s).serial = s.serial ∧ (takeForce s).out = s.out ∧ (takeForce s).free = s.free ∧ (takeForce s).pending = s.pending := by
  unfold takeForce
  repeat' (first | (simp; done) | split | (dsimp only; split))

@[simp] theorem stampFetches_rest (s : State) :
    (stampFetches s).brd = s.brd ∧ (stampFetches s).evr = s.evr ∧ (stampFetches s).fnc = s.fnc ∧ (stampFetches s).fuse = s.fuse ∧
    (stampFetches s).fw = s.fw ∧ (stampFetches s).lat = s.lat ∧ (stampFetches s).cfg = s.cfg ∧ (stampFetches s).hif = s.hif ∧
    (stampFetches s).qps = s.qps ∧ (stampFetches s).tags = s.tags ∧ (stampFetches s).fetchSeq = s.fetchSeq ∧
    (stampFetches s).elog = s.elog ∧ (stampFetches s).elogSeq = s.elogSeq ∧ (stampFetches s).facets = s.facets ∧
    (stampFetches s).idx = s.idx ∧ (stampFetches s).mods = s.mods ∧ (stampFetches s).srch = s.srch ∧ (stampFetches s).flash = s.flash ∧
    (stampFetches s).mem = s.mem ∧ (stampFetches s).chd = s.chd ∧ (stampFetches s).side = s.side ∧ (stampFetches s).serial = s.serial ∧
    (stampFetches s).out = s.out ∧ (stampFetches s).free = s.free ∧ (stampFetches s).pending = s.pending := by
  unfold stampFetches
  repeat' (first | (simp; done) | split | (dsimp only; split))

@[simp] theorem pauseFacets_rest (s : State) :
    (pauseFacets s).brd = s.brd ∧ (pauseFacets s).evr = s.evr ∧ (pauseFacets s).fnc = s.fnc ∧ (pauseFacets s).fuse = s.fuse ∧
    (pauseFacets s).fw = s.fw ∧ (pauseFacets s).lat = s.lat ∧ (pauseFacets s).cfg = s.cfg ∧ (pauseFacets s).hif = s.hif ∧
    (pauseFacets s).qps = s.qps ∧ (pauseFacets s).tags = s.tags ∧ (pauseFacets s).cmds = s.cmds ∧ (pauseFacets s).fetchSeq = s.fetchSeq ∧
    (pauseFacets s).elog = s.elog ∧ (pauseFacets s).elogSeq = s.elogSeq ∧ (pauseFacets s).idx = s.idx ∧ (pauseFacets s).mods = s.mods ∧
    (pauseFacets s).srch = s.srch ∧ (pauseFacets s).flash = s.flash ∧ (pauseFacets s).mem = s.mem ∧ (pauseFacets s).chd = s.chd ∧
    (pauseFacets s).side = s.side ∧ (pauseFacets s).serial = s.serial ∧ (pauseFacets s).out = s.out ∧ (pauseFacets s).free = s.free ∧
    (pauseFacets s).pending = s.pending := by
  have key := @foldl_ind (fun u : State => u.brd = s.brd ∧ u.evr = s.evr ∧ u.fnc = s.fnc ∧ u.fuse = s.fuse ∧ u.fw = s.fw ∧ u.lat = s.lat ∧ u.cfg = s.cfg ∧ u.hif = s.hif ∧
      u.qps = s.qps ∧ u.tags = s.tags ∧ u.cmds = s.cmds ∧ u.fetchSeq = s.fetchSeq ∧ u.elog = s.elog ∧ u.elogSeq = s.elogSeq ∧
      u.idx = s.idx ∧ u.mods = s.mods ∧ u.srch = s.srch ∧ u.flash = s.flash ∧ u.mem = s.mem ∧ u.chd = s.chd ∧ u.side = s.side ∧
      u.serial = s.serial ∧ u.out = s.out ∧ u.free = s.free ∧ u.pending = s.pending)
  unfold pauseFacets
  repeat' (first | (simp; done) | split | (dsimp only; split) | refine key _ _ _ ?_ ?_ |
    (dsimp only; refine key _ _ _ ?_ ?_) | intro t x h | (simp [h]; done))

@[simp] theorem serveFacet_rest (s : State) (f : Nat) :
    (serveFacet s f).brd = s.brd ∧ (serveFacet s f).fnc = s.fnc ∧ (serveFacet s f).fuse = s.fuse ∧ (serveFacet s f).fw = s.fw ∧
    (serveFacet s f).lat = s.lat ∧ (serveFacet s f).cfg = s.cfg ∧ (serveFacet s f).fetchSeq = s.fetchSeq ∧ (serveFacet s f).idx = s.idx ∧
    (serveFacet s f).mods = s.mods ∧ (serveFacet s f).flash = s.flash ∧ (serveFacet s f).side = s.side ∧
    (serveFacet s f).serial = s.serial ∧ (serveFacet s f).pending = s.pending := by
  unfold serveFacet
  repeat' (first | (simp; done) | split | (dsimp only; split))

@[simp] theorem closeStep_rest (s : State) :
    (closeStep s).brd = s.brd ∧ (closeStep s).evr = s.evr ∧ (closeStep s).fnc = s.fnc ∧ (closeStep s).fuse = s.fuse ∧
    (closeStep s).fw = s.fw ∧ (closeStep s).lat = s.lat ∧ (closeStep s).cfg = s.cfg ∧ (closeStep s).fetchSeq = s.fetchSeq ∧
    (closeStep s).side = s.side ∧ (closeStep s).serial = s.serial ∧ (closeStep s).pending = s.pending := by
  have key := @foldl_ind (fun u : State => u.brd = s.brd ∧ u.evr = s.evr ∧ u.fnc = s.fnc ∧ u.fuse = s.fuse ∧ u.fw = s.fw ∧ u.lat = s.lat ∧ u.cfg = s.cfg ∧
      u.fetchSeq = s.fetchSeq ∧ u.side = s.side ∧ u.serial = s.serial ∧ u.pending = s.pending)
  unfold closeStep
  repeat' (first | (simp; done) | split | (dsimp only; split) | refine key _ _ _ ?_ ?_ |
    (dsimp only; refine key _ _ _ ?_ ?_) | intro t x h | (simp [h]; done))

@[simp] theorem openStep_rest (s : State) :
    (openStep s).brd = s.brd ∧ (openStep s).fnc = s.fnc ∧ (openStep s).fuse = s.fuse ∧ (openStep s).fw = s.fw ∧ (openStep s).lat = s.lat ∧
    (openStep s).cfg = s.cfg ∧ (openStep s).fetchSeq = s.fetchSeq ∧ (openStep s).mods = s.mods ∧ (openStep s).side = s.side ∧
    (openStep s).serial = s.serial ∧ (openStep s).pending = s.pending := by
  have key := @foldl_ind (fun u : State => u.brd = s.brd ∧ u.fnc = s.fnc ∧ u.fuse = s.fuse ∧ u.fw = s.fw ∧ u.lat = s.lat ∧ u.cfg = s.cfg ∧ u.fetchSeq = s.fetchSeq ∧
      u.mods = s.mods ∧ u.side = s.side ∧ u.serial = s.serial ∧ u.pending = s.pending)
  unfold openStep
  repeat' (first | (simp; done) | split | (dsimp only; split) | refine key _ _ _ ?_ ?_ |
    (dsimp only; refine key _ _ _ ?_ ?_) | intro t x h | (simp [h]; done))

@[simp] theorem boundary_rest (s : State) :
    (boundary s).fnc = s.fnc ∧ (boundary s).fuse = s.fuse ∧ (boundary s).cfg = s.cfg ∧ (boundary s).fetchSeq = s.fetchSeq ∧
    (boundary s).side = s.side ∧ (boundary s).serial = s.serial ∧ (boundary s).pending = s.pending := by
  unfold boundary
  repeat' (first | (simp; done) | split | (dsimp only; split))

@[simp] theorem batchStep_rest (s : State) :
    (batchStep s).fnc = s.fnc ∧ (batchStep s).fuse = s.fuse ∧ (batchStep s).cfg = s.cfg ∧ (batchStep s).fetchSeq = s.fetchSeq ∧
    (batchStep s).side = s.side ∧ (batchStep s).serial = s.serial ∧ (batchStep s).pending = s.pending := by
  unfold batchStep
  repeat' (first | (simp; done) | split | (dsimp only; split))

@[simp] theorem chargeRunning_rest (s : State) :
    (chargeRunning s).brd = s.brd ∧ (chargeRunning s).evr = s.evr ∧ (chargeRunning s).fnc = s.fnc ∧ (chargeRunning s).fuse = s.fuse ∧
    (chargeRunning s).fw = s.fw ∧ (chargeRunning s).lat = s.lat ∧ (chargeRunning s).cfg = s.cfg ∧ (chargeRunning s).hif = s.hif ∧
    (chargeRunning s).qps = s.qps ∧ (chargeRunning s).tags = s.tags ∧ (chargeRunning s).cmds = s.cmds ∧
    (chargeRunning s).fetchSeq = s.fetchSeq ∧ (chargeRunning s).elog = s.elog ∧ (chargeRunning s).elogSeq = s.elogSeq ∧
    (chargeRunning s).idx = s.idx ∧ (chargeRunning s).mods = s.mods ∧ (chargeRunning s).mem = s.mem ∧ (chargeRunning s).chd = s.chd ∧
    (chargeRunning s).side = s.side ∧ (chargeRunning s).serial = s.serial ∧ (chargeRunning s).out = s.out ∧
    (chargeRunning s).free = s.free ∧ (chargeRunning s).pending = s.pending := by
  have key := @foldl_ind (fun u : State => u.brd = s.brd ∧ u.evr = s.evr ∧ u.fnc = s.fnc ∧ u.fuse = s.fuse ∧ u.fw = s.fw ∧ u.lat = s.lat ∧ u.cfg = s.cfg ∧ u.hif = s.hif ∧
      u.qps = s.qps ∧ u.tags = s.tags ∧ u.cmds = s.cmds ∧ u.fetchSeq = s.fetchSeq ∧ u.elog = s.elog ∧ u.elogSeq = s.elogSeq ∧
      u.idx = s.idx ∧ u.mods = s.mods ∧ u.mem = s.mem ∧ u.chd = s.chd ∧ u.side = s.side ∧ u.serial = s.serial ∧ u.out = s.out ∧
      u.free = s.free ∧ u.pending = s.pending)
  unfold chargeRunning
  repeat' (first | (simp; done) | split | (dsimp only; split) | refine key _ _ _ ?_ ?_ |
    (dsimp only; refine key _ _ _ ?_ ?_) | intro t x h | (simp [h]; done))

@[simp] theorem attributeEnergy_rest (s : State) :
    (attributeEnergy s).brd = s.brd ∧ (attributeEnergy s).evr = s.evr ∧ (attributeEnergy s).fnc = s.fnc ∧
    (attributeEnergy s).fuse = s.fuse ∧ (attributeEnergy s).fw = s.fw ∧ (attributeEnergy s).lat = s.lat ∧
    (attributeEnergy s).cfg = s.cfg ∧ (attributeEnergy s).hif = s.hif ∧ (attributeEnergy s).qps = s.qps ∧
    (attributeEnergy s).tags = s.tags ∧ (attributeEnergy s).cmds = s.cmds ∧ (attributeEnergy s).fetchSeq = s.fetchSeq ∧
    (attributeEnergy s).elog = s.elog ∧ (attributeEnergy s).elogSeq = s.elogSeq ∧ (attributeEnergy s).idx = s.idx ∧
    (attributeEnergy s).mods = s.mods ∧ (attributeEnergy s).flash = s.flash ∧ (attributeEnergy s).mem = s.mem ∧
    (attributeEnergy s).chd = s.chd ∧ (attributeEnergy s).side = s.side ∧ (attributeEnergy s).serial = s.serial ∧
    (attributeEnergy s).out = s.out ∧ (attributeEnergy s).free = s.free ∧ (attributeEnergy s).pending = s.pending := by
  have key := @foldl_ind (fun u : State => u.brd = s.brd ∧ u.evr = s.evr ∧ u.fnc = s.fnc ∧ u.fuse = s.fuse ∧ u.fw = s.fw ∧ u.lat = s.lat ∧ u.cfg = s.cfg ∧ u.hif = s.hif ∧
      u.qps = s.qps ∧ u.tags = s.tags ∧ u.cmds = s.cmds ∧ u.fetchSeq = s.fetchSeq ∧ u.elog = s.elog ∧ u.elogSeq = s.elogSeq ∧
      u.idx = s.idx ∧ u.mods = s.mods ∧ u.flash = s.flash ∧ u.mem = s.mem ∧ u.chd = s.chd ∧ u.side = s.side ∧ u.serial = s.serial ∧
      u.out = s.out ∧ u.free = s.free ∧ u.pending = s.pending)
  unfold attributeEnergy
  repeat' (first | (simp; done) | split | (dsimp only; split) | refine key _ _ _ ?_ ?_ |
    (dsimp only; refine key _ _ _ ?_ ?_) | intro t x h | (simp [h]; done))

@[simp] theorem refill_rest (s : State) :
    (refill s).brd = s.brd ∧ (refill s).evr = s.evr ∧ (refill s).fnc = s.fnc ∧ (refill s).fuse = s.fuse ∧ (refill s).fw = s.fw ∧
    (refill s).lat = s.lat ∧ (refill s).cfg = s.cfg ∧ (refill s).hif = s.hif ∧ (refill s).qps = s.qps ∧ (refill s).tags = s.tags ∧
    (refill s).cmds = s.cmds ∧ (refill s).fetchSeq = s.fetchSeq ∧ (refill s).elog = s.elog ∧ (refill s).elogSeq = s.elogSeq ∧
    (refill s).facets = s.facets ∧ (refill s).idx = s.idx ∧ (refill s).mods = s.mods ∧ (refill s).flash = s.flash ∧
    (refill s).mem = s.mem ∧ (refill s).chd = s.chd ∧ (refill s).side = s.side ∧ (refill s).serial = s.serial ∧ (refill s).out = s.out ∧
    (refill s).free = s.free ∧ (refill s).pending = s.pending := by
  unfold refill
  repeat' (first | (simp; done) | split | (dsimp only; split))

@[simp] theorem endTeardown_rest (s : State) (f : Nat) :
    (endTeardown s f).brd = s.brd ∧ (endTeardown s f).evr = s.evr ∧ (endTeardown s f).fnc = s.fnc ∧ (endTeardown s f).fuse = s.fuse ∧
    (endTeardown s f).fw = s.fw ∧ (endTeardown s f).lat = s.lat ∧ (endTeardown s f).cfg = s.cfg ∧
    (endTeardown s f).fetchSeq = s.fetchSeq ∧ (endTeardown s f).idx = s.idx ∧ (endTeardown s f).mods = s.mods ∧
    (endTeardown s f).flash = s.flash ∧ (endTeardown s f).mem = s.mem ∧ (endTeardown s f).chd = s.chd ∧ (endTeardown s f).side = s.side ∧
    (endTeardown s f).serial = s.serial ∧ (endTeardown s f).free = s.free ∧ (endTeardown s f).pending = s.pending := by
  unfold endTeardown
  repeat' (first | (simp; done) | split | (dsimp only; split))

@[simp] theorem snapshot_rest (s : State) :
    (snapshot s).brd = s.brd ∧ (snapshot s).evr = s.evr ∧ (snapshot s).fnc = s.fnc ∧ (snapshot s).fuse = s.fuse ∧ (snapshot s).fw = s.fw ∧
    (snapshot s).lat = s.lat ∧ (snapshot s).cfg = s.cfg ∧ (snapshot s).hif = s.hif ∧ (snapshot s).qps = s.qps ∧
    (snapshot s).tags = s.tags ∧ (snapshot s).cmds = s.cmds ∧ (snapshot s).fetchSeq = s.fetchSeq ∧ (snapshot s).elog = s.elog ∧
    (snapshot s).elogSeq = s.elogSeq ∧ (snapshot s).facets = s.facets ∧ (snapshot s).idx = s.idx ∧ (snapshot s).mods = s.mods ∧
    (snapshot s).flash = s.flash ∧ (snapshot s).mem = s.mem ∧ (snapshot s).chd = s.chd ∧ (snapshot s).side = s.side ∧
    (snapshot s).serial = s.serial ∧ (snapshot s).out = s.out ∧ (snapshot s).free = s.free ∧ (snapshot s).pending = s.pending := by
  unfold snapshot
  repeat' (first | (simp; done) | split | (dsimp only; split))

@[simp] theorem countStall_rest (l : Link) (s : State) :
    (countStall l s).brd = s.brd ∧ (countStall l s).evr = s.evr ∧ (countStall l s).fnc = s.fnc ∧ (countStall l s).fuse = s.fuse ∧
    (countStall l s).fw = s.fw ∧ (countStall l s).lat = s.lat ∧ (countStall l s).cfg = s.cfg ∧ (countStall l s).hif = s.hif ∧
    (countStall l s).qps = s.qps ∧ (countStall l s).tags = s.tags ∧ (countStall l s).cmds = s.cmds ∧
    (countStall l s).fetchSeq = s.fetchSeq ∧ (countStall l s).elog = s.elog ∧ (countStall l s).elogSeq = s.elogSeq ∧
    (countStall l s).facets = s.facets ∧ (countStall l s).idx = s.idx ∧ (countStall l s).mods = s.mods ∧ (countStall l s).srch = s.srch ∧
    (countStall l s).flash = s.flash ∧ (countStall l s).mem = s.mem ∧ (countStall l s).side = s.side ∧
    (countStall l s).serial = s.serial ∧ (countStall l s).out = s.out ∧ (countStall l s).free = s.free ∧
    (countStall l s).pending = s.pending := by
  have key := @foldl_ind (fun u : State => u.brd = s.brd ∧ u.evr = s.evr ∧ u.fnc = s.fnc ∧ u.fuse = s.fuse ∧ u.fw = s.fw ∧ u.lat = s.lat ∧ u.cfg = s.cfg ∧ u.hif = s.hif ∧
      u.qps = s.qps ∧ u.tags = s.tags ∧ u.cmds = s.cmds ∧ u.fetchSeq = s.fetchSeq ∧ u.elog = s.elog ∧ u.elogSeq = s.elogSeq ∧
      u.facets = s.facets ∧ u.idx = s.idx ∧ u.mods = s.mods ∧ u.srch = s.srch ∧ u.flash = s.flash ∧ u.mem = s.mem ∧ u.side = s.side ∧
      u.serial = s.serial ∧ u.out = s.out ∧ u.free = s.free ∧ u.pending = s.pending)
  unfold countStall
  repeat' (first | (simp; done) | split | (dsimp only; split) | refine key _ _ _ ?_ ?_ |
    (dsimp only; refine key _ _ _ ?_ ?_) | intro t x h | (simp [h]; done))

@[simp] theorem countStalls_rest (s : State) :
    (countStalls s).brd = s.brd ∧ (countStalls s).evr = s.evr ∧ (countStalls s).fnc = s.fnc ∧ (countStalls s).fuse = s.fuse ∧
    (countStalls s).fw = s.fw ∧ (countStalls s).lat = s.lat ∧ (countStalls s).cfg = s.cfg ∧ (countStalls s).hif = s.hif ∧
    (countStalls s).qps = s.qps ∧ (countStalls s).tags = s.tags ∧ (countStalls s).cmds = s.cmds ∧ (countStalls s).fetchSeq = s.fetchSeq ∧
    (countStalls s).elog = s.elog ∧ (countStalls s).elogSeq = s.elogSeq ∧ (countStalls s).facets = s.facets ∧
    (countStalls s).idx = s.idx ∧ (countStalls s).mods = s.mods ∧ (countStalls s).srch = s.srch ∧ (countStalls s).flash = s.flash ∧
    (countStalls s).mem = s.mem ∧ (countStalls s).side = s.side ∧ (countStalls s).serial = s.serial ∧ (countStalls s).out = s.out ∧
    (countStalls s).free = s.free ∧ (countStalls s).pending = s.pending := by
  have key := @foldl_ind (fun u : State => u.brd = s.brd ∧ u.evr = s.evr ∧ u.fnc = s.fnc ∧ u.fuse = s.fuse ∧ u.fw = s.fw ∧ u.lat = s.lat ∧ u.cfg = s.cfg ∧ u.hif = s.hif ∧
      u.qps = s.qps ∧ u.tags = s.tags ∧ u.cmds = s.cmds ∧ u.fetchSeq = s.fetchSeq ∧ u.elog = s.elog ∧ u.elogSeq = s.elogSeq ∧
      u.facets = s.facets ∧ u.idx = s.idx ∧ u.mods = s.mods ∧ u.srch = s.srch ∧ u.flash = s.flash ∧ u.mem = s.mem ∧ u.side = s.side ∧
      u.serial = s.serial ∧ u.out = s.out ∧ u.free = s.free ∧ u.pending = s.pending)
  unfold countStalls
  repeat' (first | (simp; done) | split | (dsimp only; split) | refine key _ _ _ ?_ ?_ |
    (dsimp only; refine key _ _ _ ?_ ?_) | intro t x h | (simp [h]; done))

@[simp] theorem countStacked_rest (s : State) :
    (countStacked s).brd = s.brd ∧ (countStacked s).evr = s.evr ∧ (countStacked s).fnc = s.fnc ∧ (countStacked s).fuse = s.fuse ∧
    (countStacked s).fw = s.fw ∧ (countStacked s).lat = s.lat ∧ (countStacked s).cfg = s.cfg ∧ (countStacked s).hif = s.hif ∧
    (countStacked s).qps = s.qps ∧ (countStacked s).tags = s.tags ∧ (countStacked s).cmds = s.cmds ∧
    (countStacked s).fetchSeq = s.fetchSeq ∧ (countStacked s).elog = s.elog ∧ (countStacked s).elogSeq = s.elogSeq ∧
    (countStacked s).facets = s.facets ∧ (countStacked s).idx = s.idx ∧ (countStacked s).mods = s.mods ∧ (countStacked s).srch = s.srch ∧
    (countStacked s).flash = s.flash ∧ (countStacked s).chd = s.chd ∧ (countStacked s).side = s.side ∧
    (countStacked s).serial = s.serial ∧ (countStacked s).out = s.out ∧ (countStacked s).pending = s.pending := by
  have key := @foldl_ind (fun u : State => u.brd = s.brd ∧ u.evr = s.evr ∧ u.fnc = s.fnc ∧ u.fuse = s.fuse ∧ u.fw = s.fw ∧ u.lat = s.lat ∧ u.cfg = s.cfg ∧ u.hif = s.hif ∧
      u.qps = s.qps ∧ u.tags = s.tags ∧ u.cmds = s.cmds ∧ u.fetchSeq = s.fetchSeq ∧ u.elog = s.elog ∧ u.elogSeq = s.elogSeq ∧
      u.facets = s.facets ∧ u.idx = s.idx ∧ u.mods = s.mods ∧ u.srch = s.srch ∧ u.flash = s.flash ∧ u.chd = s.chd ∧ u.side = s.side ∧
      u.serial = s.serial ∧ u.out = s.out ∧ u.pending = s.pending)
  unfold countStacked
  repeat' (first | (simp; done) | split | (dsimp only; split) | refine key _ _ _ ?_ ?_ |
    (dsimp only; refine key _ _ _ ?_ ?_) | intro t x h | (simp [h]; done))

@[simp] theorem countRow_rest (r : Nat × Nat × Nat × Nat) (s : State) :
    (countRow r s).brd = s.brd ∧ (countRow r s).evr = s.evr ∧ (countRow r s).fnc = s.fnc ∧ (countRow r s).fuse = s.fuse ∧
    (countRow r s).fw = s.fw ∧ (countRow r s).lat = s.lat ∧ (countRow r s).cfg = s.cfg ∧ (countRow r s).hif = s.hif ∧
    (countRow r s).qps = s.qps ∧ (countRow r s).tags = s.tags ∧ (countRow r s).cmds = s.cmds ∧ (countRow r s).fetchSeq = s.fetchSeq ∧
    (countRow r s).elog = s.elog ∧ (countRow r s).elogSeq = s.elogSeq ∧ (countRow r s).facets = s.facets ∧ (countRow r s).idx = s.idx ∧
    (countRow r s).mods = s.mods ∧ (countRow r s).srch = s.srch ∧ (countRow r s).flash = s.flash ∧ (countRow r s).chd = s.chd ∧
    (countRow r s).side = s.side ∧ (countRow r s).serial = s.serial ∧ (countRow r s).out = s.out ∧ (countRow r s).free = s.free ∧
    (countRow r s).pending = s.pending := by
  unfold countRow
  repeat' (first | (simp; done) | split | (dsimp only; split))

@[simp] theorem countRows_rest (s : State) :
    (countRows s).brd = s.brd ∧ (countRows s).evr = s.evr ∧ (countRows s).fnc = s.fnc ∧ (countRows s).fuse = s.fuse ∧
    (countRows s).fw = s.fw ∧ (countRows s).lat = s.lat ∧ (countRows s).cfg = s.cfg ∧ (countRows s).hif = s.hif ∧
    (countRows s).qps = s.qps ∧ (countRows s).tags = s.tags ∧ (countRows s).cmds = s.cmds ∧ (countRows s).fetchSeq = s.fetchSeq ∧
    (countRows s).elog = s.elog ∧ (countRows s).elogSeq = s.elogSeq ∧ (countRows s).facets = s.facets ∧ (countRows s).idx = s.idx ∧
    (countRows s).mods = s.mods ∧ (countRows s).srch = s.srch ∧ (countRows s).flash = s.flash ∧ (countRows s).chd = s.chd ∧
    (countRows s).side = s.side ∧ (countRows s).serial = s.serial ∧ (countRows s).out = s.out ∧ (countRows s).pending = s.pending := by
  have key := @foldl_ind (fun u : State => u.brd = s.brd ∧ u.evr = s.evr ∧ u.fnc = s.fnc ∧ u.fuse = s.fuse ∧ u.fw = s.fw ∧ u.lat = s.lat ∧ u.cfg = s.cfg ∧ u.hif = s.hif ∧
      u.qps = s.qps ∧ u.tags = s.tags ∧ u.cmds = s.cmds ∧ u.fetchSeq = s.fetchSeq ∧ u.elog = s.elog ∧ u.elogSeq = s.elogSeq ∧
      u.facets = s.facets ∧ u.idx = s.idx ∧ u.mods = s.mods ∧ u.srch = s.srch ∧ u.flash = s.flash ∧ u.chd = s.chd ∧ u.side = s.side ∧
      u.serial = s.serial ∧ u.out = s.out ∧ u.pending = s.pending)
  unfold countRows
  repeat' (first | (simp; done) | split | (dsimp only; split) | refine key _ _ _ ?_ ?_ |
    (dsimp only; refine key _ _ _ ?_ ?_) | intro t x h | (simp [h]; done))

@[simp] theorem countTurn_rest (s : State) :
    (countTurn s).brd = s.brd ∧ (countTurn s).evr = s.evr ∧ (countTurn s).fnc = s.fnc ∧ (countTurn s).fuse = s.fuse ∧
    (countTurn s).fw = s.fw ∧ (countTurn s).lat = s.lat ∧ (countTurn s).cfg = s.cfg ∧ (countTurn s).hif = s.hif ∧
    (countTurn s).qps = s.qps ∧ (countTurn s).tags = s.tags ∧ (countTurn s).cmds = s.cmds ∧ (countTurn s).fetchSeq = s.fetchSeq ∧
    (countTurn s).elog = s.elog ∧ (countTurn s).elogSeq = s.elogSeq ∧ (countTurn s).facets = s.facets ∧ (countTurn s).idx = s.idx ∧
    (countTurn s).mods = s.mods ∧ (countTurn s).srch = s.srch ∧ (countTurn s).flash = s.flash ∧ (countTurn s).chd = s.chd ∧
    (countTurn s).side = s.side ∧ (countTurn s).serial = s.serial ∧ (countTurn s).out = s.out ∧ (countTurn s).pending = s.pending := by
  unfold countTurn
  repeat' (first | (simp; done) | split | (dsimp only; split))

@[simp] theorem newTurn_rest (s : State) :
    (newTurn s).evr = s.evr ∧ (newTurn s).fnc = s.fnc ∧ (newTurn s).fuse = s.fuse ∧ (newTurn s).fw = s.fw ∧ (newTurn s).lat = s.lat ∧
    (newTurn s).cfg = s.cfg ∧ (newTurn s).fetchSeq = s.fetchSeq ∧ (newTurn s).idx = s.idx ∧ (newTurn s).mods = s.mods ∧
    (newTurn s).side = s.side ∧ (newTurn s).serial = s.serial ∧ (newTurn s).pending = s.pending := by
  have key := @foldl_ind (fun u : State => u.evr = s.evr ∧ u.fnc = s.fnc ∧ u.fuse = s.fuse ∧ u.fw = s.fw ∧ u.lat = s.lat ∧ u.cfg = s.cfg ∧ u.fetchSeq = s.fetchSeq ∧
      u.idx = s.idx ∧ u.mods = s.mods ∧ u.side = s.side ∧ u.serial = s.serial ∧ u.pending = s.pending)
  unfold newTurn
  repeat' (first | (simp; done) | split | (dsimp only; split) | refine key _ _ _ ?_ ?_ |
    (dsimp only; refine key _ _ _ ?_ ?_) | intro t x h | (simp [h]; done))

@[simp] theorem turnBoundary_rest (s : State) :
    (turnBoundary s).fnc = s.fnc ∧ (turnBoundary s).fuse = s.fuse ∧ (turnBoundary s).cfg = s.cfg ∧
    (turnBoundary s).fetchSeq = s.fetchSeq ∧ (turnBoundary s).side = s.side ∧ (turnBoundary s).serial = s.serial ∧
    (turnBoundary s).pending = s.pending := by
  unfold turnBoundary
  repeat' (first | (simp; done) | split | (dsimp only; split))

@[simp] theorem syncLost_rest (s : State) :
    (syncLost s).fnc = s.fnc ∧ (syncLost s).fuse = s.fuse ∧ (syncLost s).cfg = s.cfg ∧ (syncLost s).fetchSeq = s.fetchSeq ∧
    (syncLost s).side = s.side ∧ (syncLost s).serial = s.serial ∧ (syncLost s).pending = s.pending := by
  unfold syncLost
  repeat' (first | (simp; done) | split | (dsimp only; split))

@[simp] theorem syncPulse_rest (s : State) :
    (syncPulse s).fnc = s.fnc ∧ (syncPulse s).fuse = s.fuse ∧ (syncPulse s).cfg = s.cfg ∧ (syncPulse s).fetchSeq = s.fetchSeq ∧
    (syncPulse s).side = s.side ∧ (syncPulse s).serial = s.serial ∧ (syncPulse s).pending = s.pending := by
  unfold syncPulse
  repeat' (first | (simp; done) | split | (dsimp only; split))

@[simp] theorem syncIn_rest (s : State) :
    (syncIn s).fnc = s.fnc ∧ (syncIn s).fuse = s.fuse ∧ (syncIn s).cfg = s.cfg ∧ (syncIn s).fetchSeq = s.fetchSeq ∧
    (syncIn s).side = s.side ∧ (syncIn s).serial = s.serial ∧ (syncIn s).pending = s.pending := by
  unfold syncIn
  repeat' (first | (simp; done) | split | (dsimp only; split))

@[simp] theorem freeTurn_rest (s : State) :
    (freeTurn s).fnc = s.fnc ∧ (freeTurn s).fuse = s.fuse ∧ (freeTurn s).cfg = s.cfg ∧ (freeTurn s).fetchSeq = s.fetchSeq ∧
    (freeTurn s).side = s.side ∧ (freeTurn s).serial = s.serial ∧ (freeTurn s).pending = s.pending := by
  unfold freeTurn
  repeat' (first | (simp; done) | split | (dsimp only; split))

@[simp] theorem counted_rest (g : State → State) (s : State) :
    (counted g s).brd = (g s).brd ∧ (counted g s).evr = (g s).evr ∧ (counted g s).fnc = (g s).fnc ∧ (counted g s).fuse = (g s).fuse ∧
    (counted g s).fw = (g s).fw ∧ (counted g s).lat = (g s).lat ∧ (counted g s).cfg = (g s).cfg ∧ (counted g s).qps = (g s).qps ∧
    (counted g s).tags = (g s).tags ∧ (counted g s).cmds = (g s).cmds ∧ (counted g s).fetchSeq = (g s).fetchSeq ∧
    (counted g s).elog = (g s).elog ∧ (counted g s).elogSeq = (g s).elogSeq ∧ (counted g s).facets = (g s).facets ∧
    (counted g s).idx = (g s).idx ∧ (counted g s).mods = (g s).mods ∧ (counted g s).srch = (g s).srch ∧
    (counted g s).flash = (g s).flash ∧ (counted g s).mem = (g s).mem ∧ (counted g s).chd = (g s).chd ∧ (counted g s).side = (g s).side ∧
    (counted g s).serial = (g s).serial ∧ (counted g s).out = (g s).out ∧ (counted g s).free = (g s).free ∧
    (counted g s).pending = (g s).pending := by
  unfold counted
  simp

@[simp] theorem endPower_rest (target st : Nat) (tag : Nat) (s : State) :
    (endPower target st tag s).evr = s.evr ∧ (endPower target st tag s).fnc = s.fnc ∧ (endPower target st tag s).fuse = s.fuse ∧
    (endPower target st tag s).fw = s.fw ∧ (endPower target st tag s).lat = s.lat ∧ (endPower target st tag s).cfg = s.cfg ∧
    (endPower target st tag s).fetchSeq = s.fetchSeq ∧ (endPower target st tag s).facets = s.facets ∧
    (endPower target st tag s).idx = s.idx ∧ (endPower target st tag s).mods = s.mods ∧ (endPower target st tag s).srch = s.srch ∧
    (endPower target st tag s).flash = s.flash ∧ (endPower target st tag s).mem = s.mem ∧ (endPower target st tag s).chd = s.chd ∧
    (endPower target st tag s).side = s.side ∧ (endPower target st tag s).serial = s.serial ∧ (endPower target st tag s).free = s.free ∧
    (endPower target st tag s).pending = s.pending := by
  unfold endPower
  repeat' (first | (simp; done) | split | (dsimp only; split))

@[simp] theorem powerEntry_rest (s : State) :
    (powerEntry s).fnc = s.fnc ∧ (powerEntry s).fuse = s.fuse ∧ (powerEntry s).cfg = s.cfg ∧ (powerEntry s).fetchSeq = s.fetchSeq ∧
    (powerEntry s).side = s.side ∧ (powerEntry s).serial = s.serial ∧ (powerEntry s).pending = s.pending := by
  unfold powerEntry
  repeat' (first | (simp; done) | split | (dsimp only; split))

@[simp] theorem ps3Timeout_rest (s : State) :
    (ps3Timeout s).fnc = s.fnc ∧ (ps3Timeout s).fuse = s.fuse ∧ (ps3Timeout s).cfg = s.cfg ∧ (ps3Timeout s).fetchSeq = s.fetchSeq ∧
    (ps3Timeout s).side = s.side ∧ (ps3Timeout s).serial = s.serial ∧ (ps3Timeout s).pending = s.pending := by
  unfold ps3Timeout
  repeat' (first | (simp; done) | split | (dsimp only; split))

@[simp] theorem kaLapse_rest (f : Nat) (s : State) :
    (kaLapse f s).brd = s.brd ∧ (kaLapse f s).fnc = s.fnc ∧ (kaLapse f s).fuse = s.fuse ∧ (kaLapse f s).fw = s.fw ∧
    (kaLapse f s).lat = s.lat ∧ (kaLapse f s).cfg = s.cfg ∧ (kaLapse f s).tags = s.tags ∧ (kaLapse f s).cmds = s.cmds ∧
    (kaLapse f s).fetchSeq = s.fetchSeq ∧ (kaLapse f s).elog = s.elog ∧ (kaLapse f s).elogSeq = s.elogSeq ∧ (kaLapse f s).idx = s.idx ∧
    (kaLapse f s).mods = s.mods ∧ (kaLapse f s).srch = s.srch ∧ (kaLapse f s).flash = s.flash ∧ (kaLapse f s).mem = s.mem ∧
    (kaLapse f s).chd = s.chd ∧ (kaLapse f s).side = s.side ∧ (kaLapse f s).serial = s.serial ∧ (kaLapse f s).free = s.free ∧
    (kaLapse f s).pending = s.pending := by
  unfold kaLapse
  repeat' (first | (simp; done) | split | (dsimp only; split))

@[simp] theorem driveHot_rest (before after : State) :
    (driveHot before after).brd = after.brd ∧ (driveHot before after).evr = after.evr ∧ (driveHot before after).fnc = after.fnc ∧
    (driveHot before after).fuse = after.fuse ∧ (driveHot before after).fw = after.fw ∧ (driveHot before after).lat = after.lat ∧
    (driveHot before after).cfg = after.cfg ∧ (driveHot before after).hif = after.hif ∧ (driveHot before after).qps = after.qps ∧
    (driveHot before after).tags = after.tags ∧ (driveHot before after).cmds = after.cmds ∧
    (driveHot before after).fetchSeq = after.fetchSeq ∧ (driveHot before after).elog = after.elog ∧
    (driveHot before after).elogSeq = after.elogSeq ∧ (driveHot before after).facets = after.facets ∧
    (driveHot before after).idx = after.idx ∧ (driveHot before after).mods = after.mods ∧ (driveHot before after).srch = after.srch ∧
    (driveHot before after).flash = after.flash ∧ (driveHot before after).mem = after.mem ∧ (driveHot before after).chd = after.chd ∧
    (driveHot before after).side = after.side ∧ (driveHot before after).serial = after.serial ∧
    (driveHot before after).free = after.free ∧ (driveHot before after).pending = after.pending := by
  unfold driveHot
  repeat' (first | (simp; done) | split | (dsimp only; split))

@[simp] theorem reportClock_rest (n new : Nat) (t : Int) (before after : State) :
    (reportClock n new t before after).evr = after.evr ∧ (reportClock n new t before after).fnc = after.fnc ∧
    (reportClock n new t before after).fuse = after.fuse ∧ (reportClock n new t before after).fw = after.fw ∧
    (reportClock n new t before after).lat = after.lat ∧ (reportClock n new t before after).cfg = after.cfg ∧
    (reportClock n new t before after).hif = after.hif ∧ (reportClock n new t before after).qps = after.qps ∧
    (reportClock n new t before after).tags = after.tags ∧ (reportClock n new t before after).cmds = after.cmds ∧
    (reportClock n new t before after).fetchSeq = after.fetchSeq ∧ (reportClock n new t before after).elog = after.elog ∧
    (reportClock n new t before after).elogSeq = after.elogSeq ∧ (reportClock n new t before after).facets = after.facets ∧
    (reportClock n new t before after).idx = after.idx ∧ (reportClock n new t before after).mods = after.mods ∧
    (reportClock n new t before after).srch = after.srch ∧ (reportClock n new t before after).flash = after.flash ∧
    (reportClock n new t before after).mem = after.mem ∧ (reportClock n new t before after).chd = after.chd ∧
    (reportClock n new t before after).side = after.side ∧ (reportClock n new t before after).serial = after.serial ∧
    (reportClock n new t before after).out = after.out ∧ (reportClock n new t before after).free = after.free ∧
    (reportClock n new t before after).pending = after.pending := by
  unfold reportClock
  repeat' (first | (simp; done) | split | (dsimp only; split))

@[simp] theorem thermalReport_rest (n : Nat) (t : Int) (s : State) :
    (thermalReport n t s).fnc = s.fnc ∧ (thermalReport n t s).fuse = s.fuse ∧ (thermalReport n t s).cfg = s.cfg ∧
    (thermalReport n t s).fetchSeq = s.fetchSeq ∧ (thermalReport n t s).side = s.side ∧ (thermalReport n t s).serial = s.serial ∧
    (thermalReport n t s).pending = s.pending := by
  unfold thermalReport
  repeat' (first | (simp; done) | split | (dsimp only; split))

@[simp] theorem limiterEvent_rest (s : State) :
    (limiterEvent s).fnc = s.fnc ∧ (limiterEvent s).fuse = s.fuse ∧ (limiterEvent s).fw = s.fw ∧ (limiterEvent s).lat = s.lat ∧
    (limiterEvent s).cfg = s.cfg ∧ (limiterEvent s).qps = s.qps ∧ (limiterEvent s).tags = s.tags ∧ (limiterEvent s).cmds = s.cmds ∧
    (limiterEvent s).fetchSeq = s.fetchSeq ∧ (limiterEvent s).elog = s.elog ∧ (limiterEvent s).elogSeq = s.elogSeq ∧
    (limiterEvent s).facets = s.facets ∧ (limiterEvent s).idx = s.idx ∧ (limiterEvent s).mods = s.mods ∧ (limiterEvent s).srch = s.srch ∧
    (limiterEvent s).flash = s.flash ∧ (limiterEvent s).mem = s.mem ∧ (limiterEvent s).chd = s.chd ∧ (limiterEvent s).side = s.side ∧
    (limiterEvent s).serial = s.serial ∧ (limiterEvent s).free = s.free ∧ (limiterEvent s).pending = s.pending := by
  unfold limiterEvent
  repeat' (first | (simp; done) | split | (dsimp only; split))

@[simp] theorem lowerClock_rest (s : State) :
    (lowerClock s).evr = s.evr ∧ (lowerClock s).fnc = s.fnc ∧ (lowerClock s).fuse = s.fuse ∧ (lowerClock s).fw = s.fw ∧
    (lowerClock s).lat = s.lat ∧ (lowerClock s).cfg = s.cfg ∧ (lowerClock s).hif = s.hif ∧ (lowerClock s).qps = s.qps ∧
    (lowerClock s).tags = s.tags ∧ (lowerClock s).cmds = s.cmds ∧ (lowerClock s).fetchSeq = s.fetchSeq ∧ (lowerClock s).elog = s.elog ∧
    (lowerClock s).elogSeq = s.elogSeq ∧ (lowerClock s).facets = s.facets ∧ (lowerClock s).idx = s.idx ∧ (lowerClock s).mods = s.mods ∧
    (lowerClock s).srch = s.srch ∧ (lowerClock s).flash = s.flash ∧ (lowerClock s).mem = s.mem ∧ (lowerClock s).chd = s.chd ∧
    (lowerClock s).side = s.side ∧ (lowerClock s).serial = s.serial ∧ (lowerClock s).out = s.out ∧ (lowerClock s).free = s.free ∧
    (lowerClock s).pending = s.pending := by
  unfold lowerClock
  repeat' (first | (simp; done) | split | (dsimp only; split))

@[simp] theorem restoreClock_rest (s : State) :
    (restoreClock s).evr = s.evr ∧ (restoreClock s).fnc = s.fnc ∧ (restoreClock s).fuse = s.fuse ∧ (restoreClock s).fw = s.fw ∧
    (restoreClock s).lat = s.lat ∧ (restoreClock s).cfg = s.cfg ∧ (restoreClock s).hif = s.hif ∧ (restoreClock s).qps = s.qps ∧
    (restoreClock s).tags = s.tags ∧ (restoreClock s).cmds = s.cmds ∧ (restoreClock s).fetchSeq = s.fetchSeq ∧
    (restoreClock s).elog = s.elog ∧ (restoreClock s).elogSeq = s.elogSeq ∧ (restoreClock s).facets = s.facets ∧
    (restoreClock s).idx = s.idx ∧ (restoreClock s).mods = s.mods ∧ (restoreClock s).srch = s.srch ∧ (restoreClock s).flash = s.flash ∧
    (restoreClock s).mem = s.mem ∧ (restoreClock s).chd = s.chd ∧ (restoreClock s).side = s.side ∧ (restoreClock s).serial = s.serial ∧
    (restoreClock s).out = s.out ∧ (restoreClock s).free = s.free ∧ (restoreClock s).pending = s.pending := by
  unfold restoreClock
  repeat' (first | (simp; done) | split | (dsimp only; split))

@[simp] theorem limiterSample_rest (mV mA : Nat) (s : State) :
    (limiterSample mV mA s).fnc = s.fnc ∧ (limiterSample mV mA s).fuse = s.fuse ∧ (limiterSample mV mA s).cfg = s.cfg ∧
    (limiterSample mV mA s).fetchSeq = s.fetchSeq ∧ (limiterSample mV mA s).side = s.side ∧ (limiterSample mV mA s).serial = s.serial ∧
    (limiterSample mV mA s).pending = s.pending := by
  unfold limiterSample
  repeat' (first | (simp; done) | split | (dsimp only; split))

@[simp] theorem chatter_rest (n : Nat) (p : PinSt) (s : State) :
    (chatter n p s).brd = s.brd ∧ (chatter n p s).fnc = s.fnc ∧ (chatter n p s).fuse = s.fuse ∧ (chatter n p s).fw = s.fw ∧
    (chatter n p s).lat = s.lat ∧ (chatter n p s).cfg = s.cfg ∧ (chatter n p s).qps = s.qps ∧ (chatter n p s).tags = s.tags ∧
    (chatter n p s).cmds = s.cmds ∧ (chatter n p s).fetchSeq = s.fetchSeq ∧ (chatter n p s).elog = s.elog ∧
    (chatter n p s).elogSeq = s.elogSeq ∧ (chatter n p s).facets = s.facets ∧ (chatter n p s).idx = s.idx ∧
    (chatter n p s).mods = s.mods ∧ (chatter n p s).srch = s.srch ∧ (chatter n p s).flash = s.flash ∧ (chatter n p s).mem = s.mem ∧
    (chatter n p s).chd = s.chd ∧ (chatter n p s).side = s.side ∧ (chatter n p s).serial = s.serial ∧ (chatter n p s).free = s.free ∧
    (chatter n p s).pending = s.pending := by
  unfold chatter
  repeat' (first | (simp; done) | split | (dsimp only; split))

@[simp] theorem secondOver_rest (s : State) :
    (secondOver s).fnc = s.fnc ∧ (secondOver s).fuse = s.fuse ∧ (secondOver s).fw = s.fw ∧ (secondOver s).lat = s.lat ∧
    (secondOver s).cfg = s.cfg ∧ (secondOver s).qps = s.qps ∧ (secondOver s).tags = s.tags ∧ (secondOver s).cmds = s.cmds ∧
    (secondOver s).fetchSeq = s.fetchSeq ∧ (secondOver s).elog = s.elog ∧ (secondOver s).elogSeq = s.elogSeq ∧
    (secondOver s).facets = s.facets ∧ (secondOver s).idx = s.idx ∧ (secondOver s).mods = s.mods ∧ (secondOver s).srch = s.srch ∧
    (secondOver s).flash = s.flash ∧ (secondOver s).mem = s.mem ∧ (secondOver s).chd = s.chd ∧ (secondOver s).side = s.side ∧
    (secondOver s).serial = s.serial ∧ (secondOver s).free = s.free ∧ (secondOver s).pending = s.pending := by
  have key := @foldl_ind (fun u : State => u.fnc = s.fnc ∧ u.fuse = s.fuse ∧ u.fw = s.fw ∧ u.lat = s.lat ∧ u.cfg = s.cfg ∧ u.qps = s.qps ∧ u.tags = s.tags ∧ u.cmds = s.cmds ∧
      u.fetchSeq = s.fetchSeq ∧ u.elog = s.elog ∧ u.elogSeq = s.elogSeq ∧ u.facets = s.facets ∧ u.idx = s.idx ∧ u.mods = s.mods ∧
      u.srch = s.srch ∧ u.flash = s.flash ∧ u.mem = s.mem ∧ u.chd = s.chd ∧ u.side = s.side ∧ u.serial = s.serial ∧ u.free = s.free ∧
      u.pending = s.pending)
  unfold secondOver
  repeat' (first | (simp; done) | split | (dsimp only; split) | refine key _ _ _ ?_ ?_ |
    (dsimp only; refine key _ _ _ ?_ ?_) | intro t x h | (simp [h]; done))

@[simp] theorem freezeOver_rest (s : State) :
    (freezeOver s).brd = s.brd ∧ (freezeOver s).fnc = s.fnc ∧ (freezeOver s).fuse = s.fuse ∧ (freezeOver s).fw = s.fw ∧
    (freezeOver s).lat = s.lat ∧ (freezeOver s).cfg = s.cfg ∧ (freezeOver s).hif = s.hif ∧ (freezeOver s).qps = s.qps ∧
    (freezeOver s).tags = s.tags ∧ (freezeOver s).cmds = s.cmds ∧ (freezeOver s).fetchSeq = s.fetchSeq ∧ (freezeOver s).elog = s.elog ∧
    (freezeOver s).elogSeq = s.elogSeq ∧ (freezeOver s).facets = s.facets ∧ (freezeOver s).idx = s.idx ∧ (freezeOver s).mods = s.mods ∧
    (freezeOver s).srch = s.srch ∧ (freezeOver s).flash = s.flash ∧ (freezeOver s).mem = s.mem ∧ (freezeOver s).chd = s.chd ∧
    (freezeOver s).side = s.side ∧ (freezeOver s).serial = s.serial ∧ (freezeOver s).out = s.out ∧ (freezeOver s).free = s.free ∧
    (freezeOver s).pending = s.pending := by
  unfold freezeOver
  repeat' (first | (simp; done) | split | (dsimp only; split))

@[simp] theorem measureAux_rest (s : State) :
    (measureAux s).evr = s.evr ∧ (measureAux s).fnc = s.fnc ∧ (measureAux s).fuse = s.fuse ∧ (measureAux s).fw = s.fw ∧
    (measureAux s).lat = s.lat ∧ (measureAux s).cfg = s.cfg ∧ (measureAux s).hif = s.hif ∧ (measureAux s).qps = s.qps ∧
    (measureAux s).tags = s.tags ∧ (measureAux s).cmds = s.cmds ∧ (measureAux s).fetchSeq = s.fetchSeq ∧ (measureAux s).elog = s.elog ∧
    (measureAux s).elogSeq = s.elogSeq ∧ (measureAux s).facets = s.facets ∧ (measureAux s).idx = s.idx ∧ (measureAux s).mods = s.mods ∧
    (measureAux s).srch = s.srch ∧ (measureAux s).flash = s.flash ∧ (measureAux s).mem = s.mem ∧ (measureAux s).chd = s.chd ∧
    (measureAux s).side = s.side ∧ (measureAux s).serial = s.serial ∧ (measureAux s).out = s.out ∧ (measureAux s).pending = s.pending := by
  unfold measureAux
  repeat' (first | (simp; done) | split | (dsimp only; split))

@[simp] theorem refreshSensors_rest (s0 : State) :
    (refreshSensors s0).evr = s0.evr ∧ (refreshSensors s0).fnc = s0.fnc ∧ (refreshSensors s0).fuse = s0.fuse ∧
    (refreshSensors s0).fw = s0.fw ∧ (refreshSensors s0).lat = s0.lat ∧ (refreshSensors s0).cfg = s0.cfg ∧
    (refreshSensors s0).hif = s0.hif ∧ (refreshSensors s0).qps = s0.qps ∧ (refreshSensors s0).tags = s0.tags ∧
    (refreshSensors s0).cmds = s0.cmds ∧ (refreshSensors s0).fetchSeq = s0.fetchSeq ∧ (refreshSensors s0).elog = s0.elog ∧
    (refreshSensors s0).elogSeq = s0.elogSeq ∧ (refreshSensors s0).facets = s0.facets ∧ (refreshSensors s0).idx = s0.idx ∧
    (refreshSensors s0).mods = s0.mods ∧ (refreshSensors s0).srch = s0.srch ∧ (refreshSensors s0).flash = s0.flash ∧
    (refreshSensors s0).mem = s0.mem ∧ (refreshSensors s0).chd = s0.chd ∧ (refreshSensors s0).serial = s0.serial ∧
    (refreshSensors s0).out = s0.out ∧ (refreshSensors s0).pending = s0.pending := by
  unfold refreshSensors
  repeat' (first | (simp; done) | split | (dsimp only; split))

@[simp] theorem dayOver_rest (s : State) :
    (dayOver s).brd = s.brd ∧ (dayOver s).fnc = s.fnc ∧ (dayOver s).fuse = s.fuse ∧ (dayOver s).fw = s.fw ∧ (dayOver s).lat = s.lat ∧
    (dayOver s).cfg = s.cfg ∧ (dayOver s).qps = s.qps ∧ (dayOver s).tags = s.tags ∧ (dayOver s).cmds = s.cmds ∧
    (dayOver s).fetchSeq = s.fetchSeq ∧ (dayOver s).elog = s.elog ∧ (dayOver s).elogSeq = s.elogSeq ∧ (dayOver s).facets = s.facets ∧
    (dayOver s).idx = s.idx ∧ (dayOver s).mods = s.mods ∧ (dayOver s).srch = s.srch ∧ (dayOver s).mem = s.mem ∧ (dayOver s).chd = s.chd ∧
    (dayOver s).side = s.side ∧ (dayOver s).serial = s.serial ∧ (dayOver s).free = s.free ∧ (dayOver s).pending = s.pending := by
  unfold dayOver
  repeat' (first | (simp; done) | split | (dsimp only; split))

@[simp] theorem losePower_rest (s : State) :
    (losePower s).evr = s.evr ∧ (losePower s).fuse = s.fuse ∧ (losePower s).cfg = s.cfg ∧ (losePower s).side = s.side ∧
    (losePower s).serial = s.serial ∧ (losePower s).free = s.free ∧ (losePower s).pending = s.pending := by
  unfold losePower
  repeat' (first | (simp; done) | split | (dsimp only; split))

@[simp] theorem resetRecorder_rest (s : State) :
    (resetRecorder s).brd = s.brd ∧ (resetRecorder s).fnc = s.fnc ∧ (resetRecorder s).fuse = s.fuse ∧ (resetRecorder s).fw = s.fw ∧
    (resetRecorder s).lat = s.lat ∧ (resetRecorder s).cfg = s.cfg ∧ (resetRecorder s).hif = s.hif ∧ (resetRecorder s).qps = s.qps ∧
    (resetRecorder s).tags = s.tags ∧ (resetRecorder s).cmds = s.cmds ∧ (resetRecorder s).fetchSeq = s.fetchSeq ∧
    (resetRecorder s).elog = s.elog ∧ (resetRecorder s).elogSeq = s.elogSeq ∧ (resetRecorder s).facets = s.facets ∧
    (resetRecorder s).idx = s.idx ∧ (resetRecorder s).mods = s.mods ∧ (resetRecorder s).srch = s.srch ∧
    (resetRecorder s).flash = s.flash ∧ (resetRecorder s).mem = s.mem ∧ (resetRecorder s).chd = s.chd ∧ (resetRecorder s).side = s.side ∧
    (resetRecorder s).serial = s.serial ∧ (resetRecorder s).out = s.out ∧ (resetRecorder s).free = s.free ∧
    (resetRecorder s).pending = s.pending := by
  unfold resetRecorder
  repeat' (first | (simp; done) | split | (dsimp only; split))

@[simp] theorem powerDown_rest (s : State) :
    (powerDown s).evr = s.evr ∧ (powerDown s).fuse = s.fuse ∧ (powerDown s).cfg = s.cfg ∧ (powerDown s).side = s.side ∧
    (powerDown s).serial = s.serial ∧ (powerDown s).free = s.free ∧ (powerDown s).pending = s.pending := by
  unfold powerDown
  repeat' (first | (simp; done) | split | (dsimp only; split))

@[simp] theorem streamAll_rest (f n : Nat) (s : State) :
    (streamAll f n s).brd = s.brd ∧ (streamAll f n s).evr = s.evr ∧ (streamAll f n s).fnc = s.fnc ∧ (streamAll f n s).fuse = s.fuse ∧
    (streamAll f n s).fw = s.fw ∧ (streamAll f n s).lat = s.lat ∧ (streamAll f n s).cfg = s.cfg ∧ (streamAll f n s).hif = s.hif ∧
    (streamAll f n s).qps = s.qps ∧ (streamAll f n s).tags = s.tags ∧ (streamAll f n s).cmds = s.cmds ∧
    (streamAll f n s).fetchSeq = s.fetchSeq ∧ (streamAll f n s).elog = s.elog ∧ (streamAll f n s).elogSeq = s.elogSeq ∧
    (streamAll f n s).idx = s.idx ∧ (streamAll f n s).mods = s.mods ∧ (streamAll f n s).flash = s.flash ∧ (streamAll f n s).mem = s.mem ∧
    (streamAll f n s).chd = s.chd ∧ (streamAll f n s).side = s.side ∧ (streamAll f n s).serial = s.serial ∧
    (streamAll f n s).out = s.out ∧ (streamAll f n s).free = s.free ∧ (streamAll f n s).pending = s.pending := by
  have key := @foldl_ind (fun u : State => u.brd = s.brd ∧ u.evr = s.evr ∧ u.fnc = s.fnc ∧ u.fuse = s.fuse ∧ u.fw = s.fw ∧ u.lat = s.lat ∧ u.cfg = s.cfg ∧ u.hif = s.hif ∧
      u.qps = s.qps ∧ u.tags = s.tags ∧ u.cmds = s.cmds ∧ u.fetchSeq = s.fetchSeq ∧ u.elog = s.elog ∧ u.elogSeq = s.elogSeq ∧
      u.idx = s.idx ∧ u.mods = s.mods ∧ u.flash = s.flash ∧ u.mem = s.mem ∧ u.chd = s.chd ∧ u.side = s.side ∧ u.serial = s.serial ∧
      u.out = s.out ∧ u.free = s.free ∧ u.pending = s.pending)
  unfold streamAll
  repeat' (first | (simp; done) | split | (dsimp only; split) | refine key _ _ _ ?_ ?_ |
    (dsimp only; refine key _ _ _ ?_ ?_) | intro t x h | (simp [h]; done))

@[simp] theorem replayLog_rest (f : Nat) (s : State) :
    (replayLog f s).brd = s.brd ∧ (replayLog f s).evr = s.evr ∧ (replayLog f s).fnc = s.fnc ∧ (replayLog f s).fuse = s.fuse ∧
    (replayLog f s).fw = s.fw ∧ (replayLog f s).lat = s.lat ∧ (replayLog f s).cfg = s.cfg ∧ (replayLog f s).hif = s.hif ∧
    (replayLog f s).qps = s.qps ∧ (replayLog f s).tags = s.tags ∧ (replayLog f s).cmds = s.cmds ∧ (replayLog f s).fetchSeq = s.fetchSeq ∧
    (replayLog f s).elog = s.elog ∧ (replayLog f s).elogSeq = s.elogSeq ∧ (replayLog f s).idx = s.idx ∧ (replayLog f s).mods = s.mods ∧
    (replayLog f s).flash = s.flash ∧ (replayLog f s).mem = s.mem ∧ (replayLog f s).chd = s.chd ∧ (replayLog f s).side = s.side ∧
    (replayLog f s).serial = s.serial ∧ (replayLog f s).out = s.out ∧ (replayLog f s).free = s.free ∧
    (replayLog f s).pending = s.pending := by
  unfold replayLog
  repeat' (first | (simp; done) | split | (dsimp only; split))

@[simp] theorem refillTiers_rest (f : Nat) (s : State) :
    (refillTiers f s).brd = s.brd ∧ (refillTiers f s).evr = s.evr ∧ (refillTiers f s).fnc = s.fnc ∧ (refillTiers f s).fuse = s.fuse ∧
    (refillTiers f s).fw = s.fw ∧ (refillTiers f s).lat = s.lat ∧ (refillTiers f s).cfg = s.cfg ∧ (refillTiers f s).hif = s.hif ∧
    (refillTiers f s).qps = s.qps ∧ (refillTiers f s).tags = s.tags ∧ (refillTiers f s).cmds = s.cmds ∧
    (refillTiers f s).fetchSeq = s.fetchSeq ∧ (refillTiers f s).elog = s.elog ∧ (refillTiers f s).elogSeq = s.elogSeq ∧
    (refillTiers f s).idx = s.idx ∧ (refillTiers f s).mods = s.mods ∧ (refillTiers f s).flash = s.flash ∧ (refillTiers f s).chd = s.chd ∧
    (refillTiers f s).side = s.side ∧ (refillTiers f s).serial = s.serial ∧ (refillTiers f s).out = s.out ∧
    (refillTiers f s).free = s.free ∧ (refillTiers f s).pending = s.pending := by
  have key := @foldl_ind (fun u : State => u.brd = s.brd ∧ u.evr = s.evr ∧ u.fnc = s.fnc ∧ u.fuse = s.fuse ∧ u.fw = s.fw ∧ u.lat = s.lat ∧ u.cfg = s.cfg ∧ u.hif = s.hif ∧
      u.qps = s.qps ∧ u.tags = s.tags ∧ u.cmds = s.cmds ∧ u.fetchSeq = s.fetchSeq ∧ u.elog = s.elog ∧ u.elogSeq = s.elogSeq ∧
      u.idx = s.idx ∧ u.mods = s.mods ∧ u.flash = s.flash ∧ u.chd = s.chd ∧ u.side = s.side ∧ u.serial = s.serial ∧ u.out = s.out ∧
      u.free = s.free ∧ u.pending = s.pending)
  unfold refillTiers
  repeat' (first | (simp; done) | split | (dsimp only; split) | refine key _ _ _ ?_ ?_ |
    (dsimp only; refine key _ _ _ ?_ ?_) | intro t x h | (simp [h]; done))

@[simp] theorem recoverFacet_rest (f : Nat) (s : State) :
    (recoverFacet f s).brd = s.brd ∧ (recoverFacet f s).evr = s.evr ∧ (recoverFacet f s).fnc = s.fnc ∧ (recoverFacet f s).fuse = s.fuse ∧
    (recoverFacet f s).fw = s.fw ∧ (recoverFacet f s).lat = s.lat ∧ (recoverFacet f s).cfg = s.cfg ∧ (recoverFacet f s).hif = s.hif ∧
    (recoverFacet f s).qps = s.qps ∧ (recoverFacet f s).tags = s.tags ∧ (recoverFacet f s).cmds = s.cmds ∧
    (recoverFacet f s).fetchSeq = s.fetchSeq ∧ (recoverFacet f s).elog = s.elog ∧ (recoverFacet f s).elogSeq = s.elogSeq ∧
    (recoverFacet f s).mods = s.mods ∧ (recoverFacet f s).chd = s.chd ∧ (recoverFacet f s).side = s.side ∧
    (recoverFacet f s).serial = s.serial ∧ (recoverFacet f s).out = s.out ∧ (recoverFacet f s).free = s.free ∧
    (recoverFacet f s).pending = s.pending := by
  unfold recoverFacet
  repeat' (first | (simp; done) | split | (dsimp only; split))

@[simp] theorem startedUp_rest (s : State) :
    (startedUp s).evr = s.evr ∧ (startedUp s).fnc = s.fnc ∧ (startedUp s).fuse = s.fuse ∧ (startedUp s).fw = s.fw ∧
    (startedUp s).lat = s.lat ∧ (startedUp s).cfg = s.cfg ∧ (startedUp s).hif = s.hif ∧ (startedUp s).qps = s.qps ∧
    (startedUp s).tags = s.tags ∧ (startedUp s).cmds = s.cmds ∧ (startedUp s).fetchSeq = s.fetchSeq ∧ (startedUp s).elog = s.elog ∧
    (startedUp s).elogSeq = s.elogSeq ∧ (startedUp s).facets = s.facets ∧ (startedUp s).idx = s.idx ∧ (startedUp s).mods = s.mods ∧
    (startedUp s).srch = s.srch ∧ (startedUp s).flash = s.flash ∧ (startedUp s).mem = s.mem ∧ (startedUp s).chd = s.chd ∧
    (startedUp s).side = s.side ∧ (startedUp s).serial = s.serial ∧ (startedUp s).out = s.out ∧ (startedUp s).free = s.free ∧
    (startedUp s).pending = s.pending := by
  unfold startedUp
  repeat' (first | (simp; done) | split | (dsimp only; split))

@[simp] theorem rebuildFacet_rest (f : Nat) (s : State) :
    (rebuildFacet f s).fnc = s.fnc ∧ (rebuildFacet f s).fuse = s.fuse ∧ (rebuildFacet f s).cfg = s.cfg ∧
    (rebuildFacet f s).fetchSeq = s.fetchSeq ∧ (rebuildFacet f s).side = s.side ∧ (rebuildFacet f s).serial = s.serial ∧
    (rebuildFacet f s).pending = s.pending := by
  unfold rebuildFacet
  repeat' (first | (simp; done) | split | (dsimp only; split))

@[simp] theorem recoverStored_rest (s : State) :
    (recoverStored s).brd = s.brd ∧ (recoverStored s).evr = s.evr ∧ (recoverStored s).fnc = s.fnc ∧ (recoverStored s).fuse = s.fuse ∧
    (recoverStored s).fw = s.fw ∧ (recoverStored s).lat = s.lat ∧ (recoverStored s).cfg = s.cfg ∧ (recoverStored s).hif = s.hif ∧
    (recoverStored s).qps = s.qps ∧ (recoverStored s).tags = s.tags ∧ (recoverStored s).cmds = s.cmds ∧
    (recoverStored s).fetchSeq = s.fetchSeq ∧ (recoverStored s).elog = s.elog ∧ (recoverStored s).elogSeq = s.elogSeq ∧
    (recoverStored s).mods = s.mods ∧ (recoverStored s).chd = s.chd ∧ (recoverStored s).side = s.side ∧
    (recoverStored s).serial = s.serial ∧ (recoverStored s).out = s.out ∧ (recoverStored s).free = s.free ∧
    (recoverStored s).pending = s.pending := by
  have key := @foldl_ind (fun u : State => u.brd = s.brd ∧ u.evr = s.evr ∧ u.fnc = s.fnc ∧ u.fuse = s.fuse ∧ u.fw = s.fw ∧ u.lat = s.lat ∧ u.cfg = s.cfg ∧ u.hif = s.hif ∧
      u.qps = s.qps ∧ u.tags = s.tags ∧ u.cmds = s.cmds ∧ u.fetchSeq = s.fetchSeq ∧ u.elog = s.elog ∧ u.elogSeq = s.elogSeq ∧
      u.mods = s.mods ∧ u.chd = s.chd ∧ u.side = s.side ∧ u.serial = s.serial ∧ u.out = s.out ∧ u.free = s.free ∧ u.pending = s.pending)
  unfold recoverStored
  repeat' (first | (simp; done) | split | (dsimp only; split) | refine key _ _ _ ?_ ?_ |
    (dsimp only; refine key _ _ _ ?_ ?_) | intro t x h | (simp [h]; done))

@[simp] theorem bootCode1_rest (finds : BootFinds) (s : State) :
    (bootCode1 finds s).brd = s.brd ∧ (bootCode1 finds s).fuse = s.fuse ∧ (bootCode1 finds s).fw = s.fw ∧
    (bootCode1 finds s).lat = s.lat ∧ (bootCode1 finds s).cfg = s.cfg ∧ (bootCode1 finds s).qps = s.qps ∧
    (bootCode1 finds s).tags = s.tags ∧ (bootCode1 finds s).cmds = s.cmds ∧ (bootCode1 finds s).fetchSeq = s.fetchSeq ∧
    (bootCode1 finds s).elog = s.elog ∧ (bootCode1 finds s).elogSeq = s.elogSeq ∧ (bootCode1 finds s).facets = s.facets ∧
    (bootCode1 finds s).idx = s.idx ∧ (bootCode1 finds s).mods = s.mods ∧ (bootCode1 finds s).srch = s.srch ∧
    (bootCode1 finds s).flash = s.flash ∧ (bootCode1 finds s).mem = s.mem ∧ (bootCode1 finds s).chd = s.chd ∧
    (bootCode1 finds s).serial = s.serial ∧ (bootCode1 finds s).free = s.free ∧ (bootCode1 finds s).pending = s.pending := by
  unfold bootCode1
  repeat' (first | (simp; done) | split | (dsimp only; split))

@[simp] theorem startLinks_rest (s : State) :
    (startLinks s).brd = s.brd ∧ (startLinks s).evr = s.evr ∧ (startLinks s).fnc = s.fnc ∧ (startLinks s).fuse = s.fuse ∧
    (startLinks s).fw = s.fw ∧ (startLinks s).lat = s.lat ∧ (startLinks s).cfg = s.cfg ∧ (startLinks s).hif = s.hif ∧
    (startLinks s).qps = s.qps ∧ (startLinks s).tags = s.tags ∧ (startLinks s).cmds = s.cmds ∧ (startLinks s).fetchSeq = s.fetchSeq ∧
    (startLinks s).elog = s.elog ∧ (startLinks s).elogSeq = s.elogSeq ∧ (startLinks s).facets = s.facets ∧ (startLinks s).idx = s.idx ∧
    (startLinks s).mods = s.mods ∧ (startLinks s).srch = s.srch ∧ (startLinks s).flash = s.flash ∧ (startLinks s).mem = s.mem ∧
    (startLinks s).side = s.side ∧ (startLinks s).serial = s.serial ∧ (startLinks s).out = s.out ∧ (startLinks s).free = s.free ∧
    (startLinks s).pending = s.pending := by
  unfold startLinks
  repeat' (first | (simp; done) | split | (dsimp only; split))

@[simp] theorem fenceCell_rest (cause syndrome c : Nat) (s : State) :
    (fenceCell cause syndrome c s).brd = s.brd ∧ (fenceCell cause syndrome c s).fnc = s.fnc ∧
    (fenceCell cause syndrome c s).fuse = s.fuse ∧ (fenceCell cause syndrome c s).fw = s.fw ∧ (fenceCell cause syndrome c s).lat = s.lat ∧
    (fenceCell cause syndrome c s).cfg = s.cfg ∧ (fenceCell cause syndrome c s).qps = s.qps ∧
    (fenceCell cause syndrome c s).tags = s.tags ∧ (fenceCell cause syndrome c s).cmds = s.cmds ∧
    (fenceCell cause syndrome c s).fetchSeq = s.fetchSeq ∧ (fenceCell cause syndrome c s).elog = s.elog ∧
    (fenceCell cause syndrome c s).elogSeq = s.elogSeq ∧ (fenceCell cause syndrome c s).facets = s.facets ∧
    (fenceCell cause syndrome c s).idx = s.idx ∧ (fenceCell cause syndrome c s).mods = s.mods ∧
    (fenceCell cause syndrome c s).flash = s.flash ∧ (fenceCell cause syndrome c s).mem = s.mem ∧
    (fenceCell cause syndrome c s).chd = s.chd ∧ (fenceCell cause syndrome c s).side = s.side ∧
    (fenceCell cause syndrome c s).serial = s.serial ∧ (fenceCell cause syndrome c s).free = s.free ∧
    (fenceCell cause syndrome c s).pending = s.pending := by
  unfold fenceCell
  repeat' (first | (simp; done) | split | (dsimp only; split))

@[simp] theorem fenceBlock_rest (cause b : Nat) (s : State) :
    (fenceBlock cause b s).brd = s.brd ∧ (fenceBlock cause b s).fnc = s.fnc ∧ (fenceBlock cause b s).fuse = s.fuse ∧
    (fenceBlock cause b s).fw = s.fw ∧ (fenceBlock cause b s).lat = s.lat ∧ (fenceBlock cause b s).cfg = s.cfg ∧
    (fenceBlock cause b s).qps = s.qps ∧ (fenceBlock cause b s).tags = s.tags ∧ (fenceBlock cause b s).cmds = s.cmds ∧
    (fenceBlock cause b s).fetchSeq = s.fetchSeq ∧ (fenceBlock cause b s).elog = s.elog ∧ (fenceBlock cause b s).elogSeq = s.elogSeq ∧
    (fenceBlock cause b s).facets = s.facets ∧ (fenceBlock cause b s).idx = s.idx ∧ (fenceBlock cause b s).mods = s.mods ∧
    (fenceBlock cause b s).flash = s.flash ∧ (fenceBlock cause b s).mem = s.mem ∧ (fenceBlock cause b s).chd = s.chd ∧
    (fenceBlock cause b s).side = s.side ∧ (fenceBlock cause b s).serial = s.serial ∧ (fenceBlock cause b s).free = s.free ∧
    (fenceBlock cause b s).pending = s.pending := by
  unfold fenceBlock
  repeat' (first | (simp; done) | split | (dsimp only; split))

@[simp] theorem fenceRegion_rest (r : Nat) (s : State) :
    (fenceRegion r s).brd = s.brd ∧ (fenceRegion r s).fnc = s.fnc ∧ (fenceRegion r s).fuse = s.fuse ∧ (fenceRegion r s).fw = s.fw ∧
    (fenceRegion r s).lat = s.lat ∧ (fenceRegion r s).cfg = s.cfg ∧ (fenceRegion r s).qps = s.qps ∧ (fenceRegion r s).tags = s.tags ∧
    (fenceRegion r s).cmds = s.cmds ∧ (fenceRegion r s).fetchSeq = s.fetchSeq ∧ (fenceRegion r s).elog = s.elog ∧
    (fenceRegion r s).elogSeq = s.elogSeq ∧ (fenceRegion r s).facets = s.facets ∧ (fenceRegion r s).idx = s.idx ∧
    (fenceRegion r s).mods = s.mods ∧ (fenceRegion r s).flash = s.flash ∧ (fenceRegion r s).mem = s.mem ∧ (fenceRegion r s).chd = s.chd ∧
    (fenceRegion r s).side = s.side ∧ (fenceRegion r s).serial = s.serial ∧ (fenceRegion r s).pending = s.pending := by
  unfold fenceRegion
  repeat' (first | (simp; done) | split | (dsimp only; split))

@[simp] theorem selfTest_rest (finds : BootFinds) (s : State) :
    (selfTest finds s).brd = s.brd ∧ (selfTest finds s).fnc = s.fnc ∧ (selfTest finds s).fuse = s.fuse ∧ (selfTest finds s).fw = s.fw ∧
    (selfTest finds s).lat = s.lat ∧ (selfTest finds s).cfg = s.cfg ∧ (selfTest finds s).qps = s.qps ∧ (selfTest finds s).tags = s.tags ∧
    (selfTest finds s).cmds = s.cmds ∧ (selfTest finds s).fetchSeq = s.fetchSeq ∧ (selfTest finds s).elog = s.elog ∧
    (selfTest finds s).elogSeq = s.elogSeq ∧ (selfTest finds s).facets = s.facets ∧ (selfTest finds s).idx = s.idx ∧
    (selfTest finds s).mods = s.mods ∧ (selfTest finds s).flash = s.flash ∧ (selfTest finds s).mem = s.mem ∧
    (selfTest finds s).chd = s.chd ∧ (selfTest finds s).side = s.side ∧ (selfTest finds s).serial = s.serial ∧
    (selfTest finds s).pending = s.pending := by
  have key := @foldl_ind (fun u : State => u.brd = s.brd ∧ u.fnc = s.fnc ∧ u.fuse = s.fuse ∧ u.fw = s.fw ∧ u.lat = s.lat ∧ u.cfg = s.cfg ∧ u.qps = s.qps ∧ u.tags = s.tags ∧
      u.cmds = s.cmds ∧ u.fetchSeq = s.fetchSeq ∧ u.elog = s.elog ∧ u.elogSeq = s.elogSeq ∧ u.facets = s.facets ∧ u.idx = s.idx ∧
      u.mods = s.mods ∧ u.flash = s.flash ∧ u.mem = s.mem ∧ u.chd = s.chd ∧ u.side = s.side ∧ u.serial = s.serial ∧ u.pending = s.pending)
  unfold selfTest
  repeat' (first | (simp; done) | split | (dsimp only; split) | refine key _ _ _ ?_ ?_ |
    (dsimp only; refine key _ _ _ ?_ ?_) | intro t x h | (simp [h]; done))

@[simp] theorem startSlot_rest (finds : BootFinds) (s : State) :
    (startSlot finds s).brd = s.brd ∧ (startSlot finds s).fnc = s.fnc ∧ (startSlot finds s).fuse = s.fuse ∧
    (startSlot finds s).lat = s.lat ∧ (startSlot finds s).cfg = s.cfg ∧ (startSlot finds s).qps = s.qps ∧
    (startSlot finds s).tags = s.tags ∧ (startSlot finds s).cmds = s.cmds ∧ (startSlot finds s).fetchSeq = s.fetchSeq ∧
    (startSlot finds s).elog = s.elog ∧ (startSlot finds s).elogSeq = s.elogSeq ∧ (startSlot finds s).facets = s.facets ∧
    (startSlot finds s).idx = s.idx ∧ (startSlot finds s).mods = s.mods ∧ (startSlot finds s).srch = s.srch ∧
    (startSlot finds s).flash = s.flash ∧ (startSlot finds s).mem = s.mem ∧ (startSlot finds s).chd = s.chd ∧
    (startSlot finds s).side = s.side ∧ (startSlot finds s).serial = s.serial ∧ (startSlot finds s).pending = s.pending := by
  unfold startSlot
  repeat' (first | (simp; done) | split | (dsimp only; split))

@[simp] theorem freezeRoleless_rest (s : State) :
    (freezeRoleless s).brd = s.brd ∧ (freezeRoleless s).evr = s.evr ∧ (freezeRoleless s).fnc = s.fnc ∧ (freezeRoleless s).fuse = s.fuse ∧
    (freezeRoleless s).fw = s.fw ∧ (freezeRoleless s).lat = s.lat ∧ (freezeRoleless s).cfg = s.cfg ∧ (freezeRoleless s).hif = s.hif ∧
    (freezeRoleless s).tags = s.tags ∧ (freezeRoleless s).cmds = s.cmds ∧ (freezeRoleless s).fetchSeq = s.fetchSeq ∧
    (freezeRoleless s).elog = s.elog ∧ (freezeRoleless s).elogSeq = s.elogSeq ∧ (freezeRoleless s).idx = s.idx ∧
    (freezeRoleless s).mods = s.mods ∧ (freezeRoleless s).srch = s.srch ∧ (freezeRoleless s).flash = s.flash ∧
    (freezeRoleless s).mem = s.mem ∧ (freezeRoleless s).chd = s.chd ∧ (freezeRoleless s).side = s.side ∧
    (freezeRoleless s).serial = s.serial ∧ (freezeRoleless s).out = s.out ∧ (freezeRoleless s).free = s.free ∧
    (freezeRoleless s).pending = s.pending := by
  have key := @foldl_ind (fun u : State => u.brd = s.brd ∧ u.evr = s.evr ∧ u.fnc = s.fnc ∧ u.fuse = s.fuse ∧ u.fw = s.fw ∧ u.lat = s.lat ∧ u.cfg = s.cfg ∧ u.hif = s.hif ∧
      u.tags = s.tags ∧ u.cmds = s.cmds ∧ u.fetchSeq = s.fetchSeq ∧ u.elog = s.elog ∧ u.elogSeq = s.elogSeq ∧ u.idx = s.idx ∧
      u.mods = s.mods ∧ u.srch = s.srch ∧ u.flash = s.flash ∧ u.mem = s.mem ∧ u.chd = s.chd ∧ u.side = s.side ∧ u.serial = s.serial ∧
      u.out = s.out ∧ u.free = s.free ∧ u.pending = s.pending)
  unfold freezeRoleless
  repeat' (first | (simp; done) | split | (dsimp only; split) | refine key _ _ _ ?_ ?_ |
    (dsimp only; refine key _ _ _ ?_ ?_) | intro t x h | (simp [h]; done))

@[simp] theorem startUp_rest (finds : BootFinds) (s : State) :
    (startUp finds s).fuse = s.fuse ∧ (startUp finds s).tags = s.tags ∧ (startUp finds s).cmds = s.cmds ∧
    (startUp finds s).fetchSeq = s.fetchSeq ∧ (startUp finds s).elog = s.elog ∧ (startUp finds s).elogSeq = s.elogSeq ∧
    (startUp finds s).idx = s.idx ∧ (startUp finds s).flash = s.flash ∧ (startUp finds s).serial = s.serial ∧
    (startUp finds s).pending = s.pending := by
  unfold startUp
  repeat' (first | (simp; done) | split | (dsimp only; split))

@[simp] theorem powerUp_rest (finds : BootFinds) (s : State) :
    (powerUp finds s).fuse = s.fuse ∧ (powerUp finds s).tags = s.tags ∧ (powerUp finds s).cmds = s.cmds ∧
    (powerUp finds s).fetchSeq = s.fetchSeq ∧ (powerUp finds s).elog = s.elog ∧ (powerUp finds s).elogSeq = s.elogSeq ∧
    (powerUp finds s).idx = s.idx ∧ (powerUp finds s).flash = s.flash ∧ (powerUp finds s).serial = s.serial ∧
    (powerUp finds s).pending = s.pending := by
  unfold powerUp
  repeat' (first | (simp; done) | split | (dsimp only; split))

@[simp] theorem powerAlone_rest (s : State) :
    (powerAlone s).fuse = s.fuse ∧ (powerAlone s).tags = s.tags ∧ (powerAlone s).cmds = s.cmds ∧ (powerAlone s).fetchSeq = s.fetchSeq ∧
    (powerAlone s).elog = s.elog ∧ (powerAlone s).elogSeq = s.elogSeq ∧ (powerAlone s).idx = s.idx ∧ (powerAlone s).flash = s.flash ∧
    (powerAlone s).serial = s.serial ∧ (powerAlone s).pending = s.pending := by
  unfold powerAlone
  repeat' (first | (simp; done) | split | (dsimp only; split))


@[simp] theorem setPin_rest (pin : Pin) (p : PinSt) (s : State) :
    (setPin pin p s).evr = s.evr ∧ (setPin pin p s).fnc = s.fnc ∧ (setPin pin p s).fuse = s.fuse ∧ (setPin pin p s).fw = s.fw ∧
    (setPin pin p s).lat = s.lat ∧ (setPin pin p s).cfg = s.cfg ∧ (setPin pin p s).hif = s.hif ∧ (setPin pin p s).qps = s.qps ∧
    (setPin pin p s).tags = s.tags ∧ (setPin pin p s).cmds = s.cmds ∧ (setPin pin p s).fetchSeq = s.fetchSeq ∧
    (setPin pin p s).elog = s.elog ∧ (setPin pin p s).elogSeq = s.elogSeq ∧ (setPin pin p s).facets = s.facets ∧
    (setPin pin p s).idx = s.idx ∧ (setPin pin p s).mods = s.mods ∧ (setPin pin p s).srch = s.srch ∧ (setPin pin p s).flash = s.flash ∧
    (setPin pin p s).mem = s.mem ∧ (setPin pin p s).chd = s.chd ∧ (setPin pin p s).side = s.side ∧ (setPin pin p s).serial = s.serial ∧
    (setPin pin p s).out = s.out ∧ (setPin pin p s).free = s.free ∧ (setPin pin p s).pending = s.pending := by
  unfold setPin
  repeat' (first | (simp; done) | split | (dsimp only; split))




@[simp] theorem mainOn_rest (s : State) :
    (mainOn s).fuse = s.fuse ∧ (mainOn s).tags = s.tags ∧ (mainOn s).cmds = s.cmds ∧ (mainOn s).fetchSeq = s.fetchSeq ∧
    (mainOn s).elog = s.elog ∧ (mainOn s).elogSeq = s.elogSeq ∧ (mainOn s).idx = s.idx ∧ (mainOn s).flash = s.flash ∧
    (mainOn s).serial = s.serial ∧ (mainOn s).pending = s.pending := by
  unfold mainOn
  repeat' (first | (simp; done) | split | (dsimp only; split))

@[simp] theorem mainOff_rest (s : State) :
    (mainOff s).fuse = s.fuse ∧ (mainOff s).cfg = s.cfg ∧ (mainOff s).side = s.side ∧ (mainOff s).serial = s.serial ∧
    (mainOff s).free = s.free ∧ (mainOff s).pending = s.pending := by
  unfold mainOff
  repeat' (first | (simp; done) | split | (dsimp only; split))

@[simp] theorem auxOn_rest (s : State) :
    (auxOn s).fuse = s.fuse ∧ (auxOn s).tags = s.tags ∧ (auxOn s).cmds = s.cmds ∧ (auxOn s).fetchSeq = s.fetchSeq ∧
    (auxOn s).elog = s.elog ∧ (auxOn s).elogSeq = s.elogSeq ∧ (auxOn s).idx = s.idx ∧ (auxOn s).flash = s.flash ∧
    (auxOn s).serial = s.serial ∧ (auxOn s).pending = s.pending := by
  unfold auxOn
  repeat' (first | (simp; done) | split | (dsimp only; split))

@[simp] theorem tearRecord_rest (s : State) :
    (tearRecord s).brd = s.brd ∧ (tearRecord s).fnc = s.fnc ∧ (tearRecord s).fuse = s.fuse ∧ (tearRecord s).fw = s.fw ∧
    (tearRecord s).lat = s.lat ∧ (tearRecord s).cfg = s.cfg ∧ (tearRecord s).hif = s.hif ∧ (tearRecord s).qps = s.qps ∧
    (tearRecord s).tags = s.tags ∧ (tearRecord s).cmds = s.cmds ∧ (tearRecord s).fetchSeq = s.fetchSeq ∧ (tearRecord s).elog = s.elog ∧
    (tearRecord s).elogSeq = s.elogSeq ∧ (tearRecord s).facets = s.facets ∧ (tearRecord s).idx = s.idx ∧ (tearRecord s).mods = s.mods ∧
    (tearRecord s).srch = s.srch ∧ (tearRecord s).flash = s.flash ∧ (tearRecord s).mem = s.mem ∧ (tearRecord s).chd = s.chd ∧
    (tearRecord s).side = s.side ∧ (tearRecord s).serial = s.serial ∧ (tearRecord s).out = s.out ∧ (tearRecord s).pending = s.pending := by
  unfold tearRecord
  repeat' (first | (simp; done) | split | (dsimp only; split))

@[simp] theorem auxOff_rest (s : State) :
    (auxOff s).fuse = s.fuse ∧ (auxOff s).cfg = s.cfg ∧ (auxOff s).side = s.side ∧ (auxOff s).serial = s.serial ∧
    (auxOff s).pending = s.pending := by
  unfold auxOff
  repeat' (first | (simp; done) | split | (dsimp only; split))

@[simp] theorem tripAt_rest (n : Nat) (t : Int) (s : State) :
    (tripAt n t s).fuse = s.fuse ∧ (tripAt n t s).cfg = s.cfg ∧ (tripAt n t s).side = s.side ∧ (tripAt n t s).serial = s.serial ∧
    (tripAt n t s).free = s.free ∧ (tripAt n t s).pending = s.pending := by
  unfold tripAt
  repeat' (first | (simp; done) | split | (dsimp only; split))

@[simp] theorem markPartial_rest (xs : List Nat) (s : State) :
    (markPartial xs s).brd = s.brd ∧ (markPartial xs s).evr = s.evr ∧ (markPartial xs s).fnc = s.fnc ∧ (markPartial xs s).fuse = s.fuse ∧
    (markPartial xs s).fw = s.fw ∧ (markPartial xs s).lat = s.lat ∧ (markPartial xs s).cfg = s.cfg ∧ (markPartial xs s).hif = s.hif ∧
    (markPartial xs s).qps = s.qps ∧ (markPartial xs s).tags = s.tags ∧ (markPartial xs s).cmds = s.cmds ∧
    (markPartial xs s).fetchSeq = s.fetchSeq ∧ (markPartial xs s).elog = s.elog ∧ (markPartial xs s).elogSeq = s.elogSeq ∧
    (markPartial xs s).facets = s.facets ∧ (markPartial xs s).idx = s.idx ∧ (markPartial xs s).mods = s.mods ∧
    (markPartial xs s).flash = s.flash ∧ (markPartial xs s).mem = s.mem ∧ (markPartial xs s).chd = s.chd ∧
    (markPartial xs s).side = s.side ∧ (markPartial xs s).serial = s.serial ∧ (markPartial xs s).out = s.out ∧
    (markPartial xs s).free = s.free ∧ (markPartial xs s).pending = s.pending := by
  unfold markPartial
  repeat' (first | (simp; done) | split | (dsimp only; split))

@[simp] theorem emptyCell_rest (c : Nat) (s : State) :
    (emptyCell c s).brd = s.brd ∧ (emptyCell c s).evr = s.evr ∧ (emptyCell c s).fnc = s.fnc ∧ (emptyCell c s).fuse = s.fuse ∧
    (emptyCell c s).fw = s.fw ∧ (emptyCell c s).lat = s.lat ∧ (emptyCell c s).cfg = s.cfg ∧ (emptyCell c s).hif = s.hif ∧
    (emptyCell c s).qps = s.qps ∧ (emptyCell c s).tags = s.tags ∧ (emptyCell c s).cmds = s.cmds ∧ (emptyCell c s).fetchSeq = s.fetchSeq ∧
    (emptyCell c s).elog = s.elog ∧ (emptyCell c s).elogSeq = s.elogSeq ∧ (emptyCell c s).idx = s.idx ∧ (emptyCell c s).mods = s.mods ∧
    (emptyCell c s).flash = s.flash ∧ (emptyCell c s).chd = s.chd ∧ (emptyCell c s).side = s.side ∧ (emptyCell c s).serial = s.serial ∧
    (emptyCell c s).out = s.out ∧ (emptyCell c s).free = s.free ∧ (emptyCell c s).pending = s.pending := by
  unfold emptyCell
  repeat' (first | (simp; done) | split | (dsimp only; split))

@[simp] theorem putHead_rest (v : Sliver) (s : State) :
    (putHead v s).brd = s.brd ∧ (putHead v s).evr = s.evr ∧ (putHead v s).fnc = s.fnc ∧ (putHead v s).fuse = s.fuse ∧
    (putHead v s).fw = s.fw ∧ (putHead v s).lat = s.lat ∧ (putHead v s).cfg = s.cfg ∧ (putHead v s).hif = s.hif ∧
    (putHead v s).qps = s.qps ∧ (putHead v s).tags = s.tags ∧ (putHead v s).cmds = s.cmds ∧ (putHead v s).fetchSeq = s.fetchSeq ∧
    (putHead v s).elog = s.elog ∧ (putHead v s).elogSeq = s.elogSeq ∧ (putHead v s).facets = s.facets ∧ (putHead v s).idx = s.idx ∧
    (putHead v s).mods = s.mods ∧ (putHead v s).flash = s.flash ∧ (putHead v s).mem = s.mem ∧ (putHead v s).chd = s.chd ∧
    (putHead v s).side = s.side ∧ (putHead v s).serial = s.serial ∧ (putHead v s).out = s.out ∧ (putHead v s).free = s.free ∧
    (putHead v s).pending = s.pending := by
  have key := @foldl_ind (fun u : State => u.brd = s.brd ∧ u.evr = s.evr ∧ u.fnc = s.fnc ∧ u.fuse = s.fuse ∧ u.fw = s.fw ∧ u.lat = s.lat ∧ u.cfg = s.cfg ∧ u.hif = s.hif ∧
      u.qps = s.qps ∧ u.tags = s.tags ∧ u.cmds = s.cmds ∧ u.fetchSeq = s.fetchSeq ∧ u.elog = s.elog ∧ u.elogSeq = s.elogSeq ∧
      u.facets = s.facets ∧ u.idx = s.idx ∧ u.mods = s.mods ∧ u.flash = s.flash ∧ u.mem = s.mem ∧ u.chd = s.chd ∧ u.side = s.side ∧
      u.serial = s.serial ∧ u.out = s.out ∧ u.free = s.free ∧ u.pending = s.pending)
  unfold putHead
  repeat' (first | (simp; done) | split | (dsimp only; split) | refine key _ _ _ ?_ ?_ |
    (dsimp only; refine key _ _ _ ?_ ?_) | intro t x h | (simp [h]; done))

@[simp] theorem placeAgain_rest (r : Nat) (v : Sliver) (s : State) :
    (placeAgain r v s).brd = s.brd ∧ (placeAgain r v s).evr = s.evr ∧ (placeAgain r v s).fnc = s.fnc ∧ (placeAgain r v s).fuse = s.fuse ∧
    (placeAgain r v s).fw = s.fw ∧ (placeAgain r v s).lat = s.lat ∧ (placeAgain r v s).cfg = s.cfg ∧ (placeAgain r v s).hif = s.hif ∧
    (placeAgain r v s).qps = s.qps ∧ (placeAgain r v s).tags = s.tags ∧ (placeAgain r v s).cmds = s.cmds ∧
    (placeAgain r v s).fetchSeq = s.fetchSeq ∧ (placeAgain r v s).elog = s.elog ∧ (placeAgain r v s).elogSeq = s.elogSeq ∧
    (placeAgain r v s).idx = s.idx ∧ (placeAgain r v s).mods = s.mods ∧ (placeAgain r v s).flash = s.flash ∧
    (placeAgain r v s).mem = s.mem ∧ (placeAgain r v s).chd = s.chd ∧ (placeAgain r v s).side = s.side ∧
    (placeAgain r v s).serial = s.serial ∧ (placeAgain r v s).out = s.out ∧ (placeAgain r v s).free = s.free ∧
    (placeAgain r v s).pending = s.pending := by
  unfold placeAgain
  repeat' (first | (simp; done) | split | (dsimp only; split))

@[simp] theorem moveWalks_rest (p : Nat → Bool) (s : State) :
    (moveWalks p s).brd = s.brd ∧ (moveWalks p s).fnc = s.fnc ∧ (moveWalks p s).fuse = s.fuse ∧ (moveWalks p s).fw = s.fw ∧
    (moveWalks p s).lat = s.lat ∧ (moveWalks p s).cfg = s.cfg ∧ (moveWalks p s).fetchSeq = s.fetchSeq ∧ (moveWalks p s).idx = s.idx ∧
    (moveWalks p s).mods = s.mods ∧ (moveWalks p s).side = s.side ∧ (moveWalks p s).serial = s.serial ∧
    (moveWalks p s).pending = s.pending := by
  have key := @foldl_ind (fun u : State => u.brd = s.brd ∧ u.fnc = s.fnc ∧ u.fuse = s.fuse ∧ u.fw = s.fw ∧ u.lat = s.lat ∧ u.cfg = s.cfg ∧ u.fetchSeq = s.fetchSeq ∧
      u.idx = s.idx ∧ u.mods = s.mods ∧ u.side = s.side ∧ u.serial = s.serial ∧ u.pending = s.pending)
  unfold moveWalks
  repeat' (first | (simp; done) | split | (dsimp only; split) | refine key _ _ _ ?_ ?_ |
    (dsimp only; refine key _ _ _ ?_ ?_) | intro t x h | (simp [h]; done))

@[simp] theorem loseSlivers_rest (f : Nat) (s : State) :
    (loseSlivers f s).brd = s.brd ∧ (loseSlivers f s).fnc = s.fnc ∧ (loseSlivers f s).fuse = s.fuse ∧ (loseSlivers f s).fw = s.fw ∧
    (loseSlivers f s).lat = s.lat ∧ (loseSlivers f s).cfg = s.cfg ∧ (loseSlivers f s).fetchSeq = s.fetchSeq ∧
    (loseSlivers f s).idx = s.idx ∧ (loseSlivers f s).mods = s.mods ∧ (loseSlivers f s).side = s.side ∧
    (loseSlivers f s).serial = s.serial ∧ (loseSlivers f s).pending = s.pending := by
  have key := @foldl_ind (fun u : State => u.brd = s.brd ∧ u.fnc = s.fnc ∧ u.fuse = s.fuse ∧ u.fw = s.fw ∧ u.lat = s.lat ∧ u.cfg = s.cfg ∧ u.fetchSeq = s.fetchSeq ∧
      u.idx = s.idx ∧ u.mods = s.mods ∧ u.side = s.side ∧ u.serial = s.serial ∧ u.pending = s.pending)
  unfold loseSlivers
  repeat' (first | (simp; done) | split | (dsimp only; split) | refine key _ _ _ ?_ ?_ |
    (dsimp only; refine key _ _ _ ?_ ?_) | intro t x h | (simp [h]; done))

@[simp] theorem markFacet_rest (f : Nat) (s : State) :
    (markFacet f s).brd = s.brd ∧ (markFacet f s).evr = s.evr ∧ (markFacet f s).fnc = s.fnc ∧ (markFacet f s).fuse = s.fuse ∧
    (markFacet f s).fw = s.fw ∧ (markFacet f s).lat = s.lat ∧ (markFacet f s).cfg = s.cfg ∧ (markFacet f s).hif = s.hif ∧
    (markFacet f s).qps = s.qps ∧ (markFacet f s).tags = s.tags ∧ (markFacet f s).cmds = s.cmds ∧ (markFacet f s).fetchSeq = s.fetchSeq ∧
    (markFacet f s).elog = s.elog ∧ (markFacet f s).elogSeq = s.elogSeq ∧ (markFacet f s).facets = s.facets ∧
    (markFacet f s).idx = s.idx ∧ (markFacet f s).mods = s.mods ∧ (markFacet f s).flash = s.flash ∧ (markFacet f s).mem = s.mem ∧
    (markFacet f s).chd = s.chd ∧ (markFacet f s).side = s.side ∧ (markFacet f s).serial = s.serial ∧ (markFacet f s).out = s.out ∧
    (markFacet f s).free = s.free ∧ (markFacet f s).pending = s.pending := by
  unfold markFacet
  repeat' (first | (simp; done) | split | (dsimp only; split))

@[simp] theorem markLost_rest (before : State) (f : Nat) (s : State) :
    (markLost before f s).brd = s.brd ∧ (markLost before f s).evr = s.evr ∧ (markLost before f s).fnc = s.fnc ∧
    (markLost before f s).fuse = s.fuse ∧ (markLost before f s).fw = s.fw ∧ (markLost before f s).lat = s.lat ∧
    (markLost before f s).cfg = s.cfg ∧ (markLost before f s).hif = s.hif ∧ (markLost before f s).qps = s.qps ∧
    (markLost before f s).tags = s.tags ∧ (markLost before f s).cmds = s.cmds ∧ (markLost before f s).fetchSeq = s.fetchSeq ∧
    (markLost before f s).elog = s.elog ∧ (markLost before f s).elogSeq = s.elogSeq ∧ (markLost before f s).facets = s.facets ∧
    (markLost before f s).idx = s.idx ∧ (markLost before f s).mods = s.mods ∧ (markLost before f s).flash = s.flash ∧
    (markLost before f s).mem = s.mem ∧ (markLost before f s).chd = s.chd ∧ (markLost before f s).side = s.side ∧
    (markLost before f s).serial = s.serial ∧ (markLost before f s).out = s.out ∧ (markLost before f s).free = s.free ∧
    (markLost before f s).pending = s.pending := by
  unfold markLost
  repeat' (first | (simp; done) | split | (dsimp only; split))

@[simp] theorem checkRoles_rest (before : State) (f : Nat) (s : State) :
    (checkRoles before f s).brd = s.brd ∧ (checkRoles before f s).fnc = s.fnc ∧ (checkRoles before f s).fuse = s.fuse ∧
    (checkRoles before f s).fw = s.fw ∧ (checkRoles before f s).lat = s.lat ∧ (checkRoles before f s).cfg = s.cfg ∧
    (checkRoles before f s).fetchSeq = s.fetchSeq ∧ (checkRoles before f s).idx = s.idx ∧ (checkRoles before f s).mods = s.mods ∧
    (checkRoles before f s).side = s.side ∧ (checkRoles before f s).serial = s.serial ∧ (checkRoles before f s).pending = s.pending := by
  unfold checkRoles
  repeat' (first | (simp; done) | split | (dsimp only; split))

@[simp] theorem checkOwners_rest (before : State) (bs : List Nat) (s : State) :
    (checkOwners before bs s).brd = s.brd ∧ (checkOwners before bs s).fnc = s.fnc ∧ (checkOwners before bs s).fuse = s.fuse ∧
    (checkOwners before bs s).fw = s.fw ∧ (checkOwners before bs s).lat = s.lat ∧ (checkOwners before bs s).cfg = s.cfg ∧
    (checkOwners before bs s).fetchSeq = s.fetchSeq ∧ (checkOwners before bs s).idx = s.idx ∧ (checkOwners before bs s).mods = s.mods ∧
    (checkOwners before bs s).side = s.side ∧ (checkOwners before bs s).serial = s.serial ∧
    (checkOwners before bs s).pending = s.pending := by
  have key := @foldl_ind (fun u : State => u.brd = s.brd ∧ u.fnc = s.fnc ∧ u.fuse = s.fuse ∧ u.fw = s.fw ∧ u.lat = s.lat ∧ u.cfg = s.cfg ∧ u.fetchSeq = s.fetchSeq ∧
      u.idx = s.idx ∧ u.mods = s.mods ∧ u.side = s.side ∧ u.serial = s.serial ∧ u.pending = s.pending)
  unfold checkOwners
  repeat' (first | (simp; done) | split | (dsimp only; split) | refine key _ _ _ ?_ ?_ |
    (dsimp only; refine key _ _ _ ?_ ?_) | intro t x h | (simp [h]; done))

@[simp] theorem loseBlockFrom_rest (before : State) (cause b : Nat) (s : State) :
    (loseBlockFrom before cause b s).brd = s.brd ∧ (loseBlockFrom before cause b s).fnc = s.fnc ∧
    (loseBlockFrom before cause b s).fuse = s.fuse ∧ (loseBlockFrom before cause b s).fw = s.fw ∧
    (loseBlockFrom before cause b s).lat = s.lat ∧ (loseBlockFrom before cause b s).cfg = s.cfg ∧
    (loseBlockFrom before cause b s).fetchSeq = s.fetchSeq ∧ (loseBlockFrom before cause b s).idx = s.idx ∧
    (loseBlockFrom before cause b s).mods = s.mods ∧ (loseBlockFrom before cause b s).side = s.side ∧
    (loseBlockFrom before cause b s).serial = s.serial ∧ (loseBlockFrom before cause b s).pending = s.pending := by
  have key := @foldl_ind (fun u : State => u.brd = s.brd ∧ u.fnc = s.fnc ∧ u.fuse = s.fuse ∧ u.fw = s.fw ∧ u.lat = s.lat ∧ u.cfg = s.cfg ∧ u.fetchSeq = s.fetchSeq ∧
      u.idx = s.idx ∧ u.mods = s.mods ∧ u.side = s.side ∧ u.serial = s.serial ∧ u.pending = s.pending)
  unfold loseBlockFrom
  repeat' (first | (simp; done) | split | (dsimp only; split) | refine key _ _ _ ?_ ?_ |
    (dsimp only; refine key _ _ _ ?_ ?_) | intro t x h | (simp [h]; done))

@[simp] theorem loseBlock_rest (cause b : Nat) (s : State) :
    (loseBlock cause b s).brd = s.brd ∧ (loseBlock cause b s).fnc = s.fnc ∧ (loseBlock cause b s).fuse = s.fuse ∧
    (loseBlock cause b s).fw = s.fw ∧ (loseBlock cause b s).lat = s.lat ∧ (loseBlock cause b s).cfg = s.cfg ∧
    (loseBlock cause b s).fetchSeq = s.fetchSeq ∧ (loseBlock cause b s).idx = s.idx ∧ (loseBlock cause b s).mods = s.mods ∧
    (loseBlock cause b s).side = s.side ∧ (loseBlock cause b s).serial = s.serial ∧ (loseBlock cause b s).pending = s.pending := by
  unfold loseBlock
  repeat' (first | (simp; done) | split | (dsimp only; split))

@[simp] theorem dropClaims_rest (c : Nat) (s : State) :
    (dropClaims c s).brd = s.brd ∧ (dropClaims c s).evr = s.evr ∧ (dropClaims c s).fnc = s.fnc ∧ (dropClaims c s).fuse = s.fuse ∧
    (dropClaims c s).fw = s.fw ∧ (dropClaims c s).lat = s.lat ∧ (dropClaims c s).cfg = s.cfg ∧ (dropClaims c s).hif = s.hif ∧
    (dropClaims c s).qps = s.qps ∧ (dropClaims c s).tags = s.tags ∧ (dropClaims c s).cmds = s.cmds ∧
    (dropClaims c s).fetchSeq = s.fetchSeq ∧ (dropClaims c s).elog = s.elog ∧ (dropClaims c s).elogSeq = s.elogSeq ∧
    (dropClaims c s).facets = s.facets ∧ (dropClaims c s).idx = s.idx ∧ (dropClaims c s).mods = s.mods ∧
    (dropClaims c s).flash = s.flash ∧ (dropClaims c s).mem = s.mem ∧ (dropClaims c s).chd = s.chd ∧ (dropClaims c s).side = s.side ∧
    (dropClaims c s).serial = s.serial ∧ (dropClaims c s).out = s.out ∧ (dropClaims c s).free = s.free ∧
    (dropClaims c s).pending = s.pending := by
  unfold dropClaims
  repeat' (first | (simp; done) | split | (dsimp only; split))

@[simp] theorem loseCell_rest (cause syndrome c : Nat) (s : State) :
    (loseCell cause syndrome c s).brd = s.brd ∧ (loseCell cause syndrome c s).fnc = s.fnc ∧ (loseCell cause syndrome c s).fuse = s.fuse ∧
    (loseCell cause syndrome c s).fw = s.fw ∧ (loseCell cause syndrome c s).lat = s.lat ∧ (loseCell cause syndrome c s).cfg = s.cfg ∧
    (loseCell cause syndrome c s).fetchSeq = s.fetchSeq ∧ (loseCell cause syndrome c s).idx = s.idx ∧
    (loseCell cause syndrome c s).mods = s.mods ∧ (loseCell cause syndrome c s).side = s.side ∧
    (loseCell cause syndrome c s).serial = s.serial ∧ (loseCell cause syndrome c s).pending = s.pending := by
  have h : ∀ {β : Type} (p : State → β) (l : List Sliver) (t : State), (∀ v u, p (putHead v u) = p u) →
      p (l.foldr (fun v u => putHead v u) t) = p t := fun p l t h => foldr_proj p _ l t h
  unfold loseCell
  dsimp only
  repeat' (first | (simp; done) | split | refine And.intro ?_ ?_ | (simp; refine (foldr_proj _ _ _ _ ?_).trans ?_) | intro x t)

@[simp] theorem stuckCell_rest (c : Nat) (s : State) :
    (stuckCell c s).fnc = s.fnc ∧ (stuckCell c s).fuse = s.fuse ∧ (stuckCell c s).cfg = s.cfg ∧ (stuckCell c s).fetchSeq = s.fetchSeq ∧
    (stuckCell c s).side = s.side ∧ (stuckCell c s).serial = s.serial ∧ (stuckCell c s).pending = s.pending := by
  unfold stuckCell
  repeat' (first | (simp; done) | split | (dsimp only; split))

@[simp] theorem faultJobs_rest (f : Nat) (s : State) :
    (faultJobs f s).brd = s.brd ∧ (faultJobs f s).evr = s.evr ∧ (faultJobs f s).fnc = s.fnc ∧ (faultJobs f s).fuse = s.fuse ∧
    (faultJobs f s).fw = s.fw ∧ (faultJobs f s).lat = s.lat ∧ (faultJobs f s).cfg = s.cfg ∧ (faultJobs f s).fetchSeq = s.fetchSeq ∧
    (faultJobs f s).side = s.side ∧ (faultJobs f s).serial = s.serial ∧ (faultJobs f s).pending = s.pending := by
  unfold faultJobs
  repeat' (first | (simp; done) | split | (dsimp only; split))

@[simp] theorem loseRegion_rest (unit r : Nat) (s : State) :
    (loseRegion unit r s).brd = s.brd ∧ (loseRegion unit r s).fnc = s.fnc ∧ (loseRegion unit r s).fuse = s.fuse ∧
    (loseRegion unit r s).fw = s.fw ∧ (loseRegion unit r s).lat = s.lat ∧ (loseRegion unit r s).cfg = s.cfg ∧
    (loseRegion unit r s).fetchSeq = s.fetchSeq ∧ (loseRegion unit r s).side = s.side ∧ (loseRegion unit r s).serial = s.serial ∧
    (loseRegion unit r s).pending = s.pending := by
  have key := @foldl_ind (fun u : State => u.brd = s.brd ∧ u.fnc = s.fnc ∧ u.fuse = s.fuse ∧ u.fw = s.fw ∧ u.lat = s.lat ∧ u.cfg = s.cfg ∧ u.fetchSeq = s.fetchSeq ∧
      u.side = s.side ∧ u.serial = s.serial ∧ u.pending = s.pending)
  unfold loseRegion
  repeat' (first | (simp; done) | split | (dsimp only; split) | refine key _ _ _ ?_ ?_ |
    (dsimp only; refine key _ _ _ ?_ ?_) | intro t x h | (simp [h]; done))

@[simp] theorem applyFault_rest (unit r : Nat) (l : Load) (s : State) :
    (applyFault unit r l s).brd = s.brd ∧ (applyFault unit r l s).fnc = s.fnc ∧ (applyFault unit r l s).fuse = s.fuse ∧
    (applyFault unit r l s).fw = s.fw ∧ (applyFault unit r l s).cfg = s.cfg ∧ (applyFault unit r l s).fetchSeq = s.fetchSeq ∧
    (applyFault unit r l s).side = s.side ∧ (applyFault unit r l s).serial = s.serial ∧ (applyFault unit r l s).pending = s.pending := by
  have key := @foldl_ind (fun u : State => u.brd = s.brd ∧ u.fnc = s.fnc ∧ u.fuse = s.fuse ∧ u.fw = s.fw ∧ u.cfg = s.cfg ∧ u.fetchSeq = s.fetchSeq ∧ u.side = s.side ∧
      u.serial = s.serial ∧ u.pending = s.pending)
  unfold applyFault
  repeat' (first | (simp; done) | split | (dsimp only; split) | refine key _ _ _ ?_ ?_ |
    (dsimp only; refine key _ _ _ ?_ ?_) | intro t x h | (simp [h]; done))

@[simp] theorem regionFault_rest (unit r : Nat) (s : State) :
    (regionFault unit r s).brd = s.brd ∧ (regionFault unit r s).fnc = s.fnc ∧ (regionFault unit r s).fuse = s.fuse ∧
    (regionFault unit r s).fw = s.fw ∧ (regionFault unit r s).cfg = s.cfg ∧ (regionFault unit r s).fetchSeq = s.fetchSeq ∧
    (regionFault unit r s).side = s.side ∧ (regionFault unit r s).serial = s.serial ∧ (regionFault unit r s).pending = s.pending := by
  unfold regionFault
  repeat' (first | (simp; done) | split | (dsimp only; split))

@[simp] theorem goFatal_rest (unit : Nat) (s : State) :
    (goFatal unit s).fnc = s.fnc ∧ (goFatal unit s).fuse = s.fuse ∧ (goFatal unit s).fw = s.fw ∧ (goFatal unit s).lat = s.lat ∧
    (goFatal unit s).cfg = s.cfg ∧ (goFatal unit s).tags = s.tags ∧ (goFatal unit s).cmds = s.cmds ∧
    (goFatal unit s).fetchSeq = s.fetchSeq ∧ (goFatal unit s).elog = s.elog ∧ (goFatal unit s).elogSeq = s.elogSeq ∧
    (goFatal unit s).facets = s.facets ∧ (goFatal unit s).idx = s.idx ∧ (goFatal unit s).mods = s.mods ∧ (goFatal unit s).srch = s.srch ∧
    (goFatal unit s).flash = s.flash ∧ (goFatal unit s).mem = s.mem ∧ (goFatal unit s).chd = s.chd ∧ (goFatal unit s).side = s.side ∧
    (goFatal unit s).serial = s.serial ∧ (goFatal unit s).pending = s.pending := by
  unfold goFatal
  repeat' (first | (simp; done) | split | (dsimp only; split))

@[simp] theorem watchdogAt_rest (p : Nat) (s : State) :
    (watchdogAt p s).brd = s.brd ∧ (watchdogAt p s).fnc = s.fnc ∧ (watchdogAt p s).fuse = s.fuse ∧ (watchdogAt p s).fw = s.fw ∧
    (watchdogAt p s).lat = s.lat ∧ (watchdogAt p s).cfg = s.cfg ∧ (watchdogAt p s).tags = s.tags ∧ (watchdogAt p s).cmds = s.cmds ∧
    (watchdogAt p s).fetchSeq = s.fetchSeq ∧ (watchdogAt p s).elog = s.elog ∧ (watchdogAt p s).elogSeq = s.elogSeq ∧
    (watchdogAt p s).facets = s.facets ∧ (watchdogAt p s).idx = s.idx ∧ (watchdogAt p s).mods = s.mods ∧
    (watchdogAt p s).flash = s.flash ∧ (watchdogAt p s).chd = s.chd ∧ (watchdogAt p s).side = s.side ∧
    (watchdogAt p s).serial = s.serial ∧ (watchdogAt p s).pending = s.pending := by
  unfold watchdogAt
  repeat' (first | (simp; done) | split | (dsimp only; split))

@[simp] theorem checkIn_rest (p : Nat) (s : State) :
    (checkIn p s).brd = s.brd ∧ (checkIn p s).evr = s.evr ∧ (checkIn p s).fnc = s.fnc ∧ (checkIn p s).fuse = s.fuse ∧
    (checkIn p s).fw = s.fw ∧ (checkIn p s).lat = s.lat ∧ (checkIn p s).cfg = s.cfg ∧ (checkIn p s).hif = s.hif ∧
    (checkIn p s).tags = s.tags ∧ (checkIn p s).cmds = s.cmds ∧ (checkIn p s).fetchSeq = s.fetchSeq ∧ (checkIn p s).elog = s.elog ∧
    (checkIn p s).elogSeq = s.elogSeq ∧ (checkIn p s).facets = s.facets ∧ (checkIn p s).idx = s.idx ∧ (checkIn p s).mods = s.mods ∧
    (checkIn p s).flash = s.flash ∧ (checkIn p s).mem = s.mem ∧ (checkIn p s).chd = s.chd ∧ (checkIn p s).side = s.side ∧
    (checkIn p s).serial = s.serial ∧ (checkIn p s).out = s.out ∧ (checkIn p s).free = s.free ∧ (checkIn p s).pending = s.pending := by
  unfold checkIn
  repeat' (first | (simp; done) | split | (dsimp only; split))

@[simp] theorem rebuildFrame_rest (stack frame : Nat) (retired flash : Bool) (s : State) :
    (rebuildFrame stack frame retired flash s).brd = s.brd ∧ (rebuildFrame stack frame retired flash s).evr = s.evr ∧
    (rebuildFrame stack frame retired flash s).fnc = s.fnc ∧ (rebuildFrame stack frame retired flash s).fuse = s.fuse ∧
    (rebuildFrame stack frame retired flash s).fw = s.fw ∧ (rebuildFrame stack frame retired flash s).lat = s.lat ∧
    (rebuildFrame stack frame retired flash s).cfg = s.cfg ∧ (rebuildFrame stack frame retired flash s).hif = s.hif ∧
    (rebuildFrame stack frame retired flash s).qps = s.qps ∧ (rebuildFrame stack frame retired flash s).tags = s.tags ∧
    (rebuildFrame stack frame retired flash s).cmds = s.cmds ∧ (rebuildFrame stack frame retired flash s).fetchSeq = s.fetchSeq ∧
    (rebuildFrame stack frame retired flash s).elog = s.elog ∧ (rebuildFrame stack frame retired flash s).elogSeq = s.elogSeq ∧
    (rebuildFrame stack frame retired flash s).facets = s.facets ∧ (rebuildFrame stack frame retired flash s).idx = s.idx ∧
    (rebuildFrame stack frame retired flash s).mods = s.mods ∧ (rebuildFrame stack frame retired flash s).srch = s.srch ∧
    (rebuildFrame stack frame retired flash s).flash = s.flash ∧ (rebuildFrame stack frame retired flash s).chd = s.chd ∧
    (rebuildFrame stack frame retired flash s).side = s.side ∧ (rebuildFrame stack frame retired flash s).serial = s.serial ∧
    (rebuildFrame stack frame retired flash s).out = s.out ∧ (rebuildFrame stack frame retired flash s).free = s.free ∧
    (rebuildFrame stack frame retired flash s).pending = s.pending := by
  unfold rebuildFrame
  repeat' (first | (simp; done) | split | (dsimp only; split))

@[simp] theorem takeReplacement_rest (stack frame : Nat) (corrected : Bool) (s : State) :
    (takeReplacement stack frame corrected s).brd = s.brd ∧ (takeReplacement stack frame corrected s).evr = s.evr ∧
    (takeReplacement stack frame corrected s).fnc = s.fnc ∧ (takeReplacement stack frame corrected s).fuse = s.fuse ∧
    (takeReplacement stack frame corrected s).fw = s.fw ∧ (takeReplacement stack frame corrected s).lat = s.lat ∧
    (takeReplacement stack frame corrected s).cfg = s.cfg ∧ (takeReplacement stack frame corrected s).hif = s.hif ∧
    (takeReplacement stack frame corrected s).tags = s.tags ∧ (takeReplacement stack frame corrected s).cmds = s.cmds ∧
    (takeReplacement stack frame corrected s).fetchSeq = s.fetchSeq ∧ (takeReplacement stack frame corrected s).elog = s.elog ∧
    (takeReplacement stack frame corrected s).elogSeq = s.elogSeq ∧ (takeReplacement stack frame corrected s).idx = s.idx ∧
    (takeReplacement stack frame corrected s).mods = s.mods ∧ (takeReplacement stack frame corrected s).srch = s.srch ∧
    (takeReplacement stack frame corrected s).flash = s.flash ∧ (takeReplacement stack frame corrected s).chd = s.chd ∧
    (takeReplacement stack frame corrected s).side = s.side ∧ (takeReplacement stack frame corrected s).serial = s.serial ∧
    (takeReplacement stack frame corrected s).out = s.out ∧ (takeReplacement stack frame corrected s).free = s.free ∧
    (takeReplacement stack frame corrected s).pending = s.pending := by
  have key := @foldl_ind (fun u : State => u.brd = s.brd ∧ u.evr = s.evr ∧ u.fnc = s.fnc ∧ u.fuse = s.fuse ∧ u.fw = s.fw ∧ u.lat = s.lat ∧ u.cfg = s.cfg ∧ u.hif = s.hif ∧
      u.tags = s.tags ∧ u.cmds = s.cmds ∧ u.fetchSeq = s.fetchSeq ∧ u.elog = s.elog ∧ u.elogSeq = s.elogSeq ∧ u.idx = s.idx ∧
      u.mods = s.mods ∧ u.srch = s.srch ∧ u.flash = s.flash ∧ u.chd = s.chd ∧ u.side = s.side ∧ u.serial = s.serial ∧ u.out = s.out ∧
      u.free = s.free ∧ u.pending = s.pending)
  unfold takeReplacement
  repeat' (first | (simp; done) | split | (dsimp only; split) | refine key _ _ _ ?_ ?_ |
    (dsimp only; refine key _ _ _ ?_ ?_) | intro t x h | (simp [h]; done))

@[simp] theorem retireFrame_rest (stack row frame : Nat) (corrected : Bool) (s : State) :
    (retireFrame stack row frame corrected s).brd = s.brd ∧ (retireFrame stack row frame corrected s).fnc = s.fnc ∧
    (retireFrame stack row frame corrected s).fuse = s.fuse ∧ (retireFrame stack row frame corrected s).fw = s.fw ∧
    (retireFrame stack row frame corrected s).lat = s.lat ∧ (retireFrame stack row frame corrected s).cfg = s.cfg ∧
    (retireFrame stack row frame corrected s).tags = s.tags ∧ (retireFrame stack row frame corrected s).cmds = s.cmds ∧
    (retireFrame stack row frame corrected s).fetchSeq = s.fetchSeq ∧ (retireFrame stack row frame corrected s).elog = s.elog ∧
    (retireFrame stack row frame corrected s).elogSeq = s.elogSeq ∧ (retireFrame stack row frame corrected s).idx = s.idx ∧
    (retireFrame stack row frame corrected s).mods = s.mods ∧ (retireFrame stack row frame corrected s).srch = s.srch ∧
    (retireFrame stack row frame corrected s).flash = s.flash ∧ (retireFrame stack row frame corrected s).chd = s.chd ∧
    (retireFrame stack row frame corrected s).side = s.side ∧ (retireFrame stack row frame corrected s).serial = s.serial ∧
    (retireFrame stack row frame corrected s).free = s.free ∧ (retireFrame stack row frame corrected s).pending = s.pending := by
  unfold retireFrame
  repeat' (first | (simp; done) | split | (dsimp only; split))

@[simp] theorem partialCmd_rest (t : Nat) (s : State) :
    (partialCmd t s).brd = s.brd ∧ (partialCmd t s).evr = s.evr ∧ (partialCmd t s).fnc = s.fnc ∧ (partialCmd t s).fuse = s.fuse ∧
    (partialCmd t s).fw = s.fw ∧ (partialCmd t s).lat = s.lat ∧ (partialCmd t s).cfg = s.cfg ∧ (partialCmd t s).hif = s.hif ∧
    (partialCmd t s).qps = s.qps ∧ (partialCmd t s).tags = s.tags ∧ (partialCmd t s).cmds = s.cmds ∧
    (partialCmd t s).fetchSeq = s.fetchSeq ∧ (partialCmd t s).elog = s.elog ∧ (partialCmd t s).elogSeq = s.elogSeq ∧
    (partialCmd t s).facets = s.facets ∧ (partialCmd t s).idx = s.idx ∧ (partialCmd t s).mods = s.mods ∧
    (partialCmd t s).flash = s.flash ∧ (partialCmd t s).mem = s.mem ∧ (partialCmd t s).chd = s.chd ∧ (partialCmd t s).side = s.side ∧
    (partialCmd t s).serial = s.serial ∧ (partialCmd t s).out = s.out ∧ (partialCmd t s).free = s.free ∧
    (partialCmd t s).pending = s.pending := by
  unfold partialCmd
  repeat' (first | (simp; done) | split | (dsimp only; split))

@[simp] theorem loseRun_rest (stack channel frame : Nat) (s : State) :
    (loseRun stack channel frame s).brd = s.brd ∧ (loseRun stack channel frame s).evr = s.evr ∧
    (loseRun stack channel frame s).fnc = s.fnc ∧ (loseRun stack channel frame s).fuse = s.fuse ∧
    (loseRun stack channel frame s).fw = s.fw ∧ (loseRun stack channel frame s).lat = s.lat ∧
    (loseRun stack channel frame s).cfg = s.cfg ∧ (loseRun stack channel frame s).hif = s.hif ∧
    (loseRun stack channel frame s).qps = s.qps ∧ (loseRun stack channel frame s).tags = s.tags ∧
    (loseRun stack channel frame s).cmds = s.cmds ∧ (loseRun stack channel frame s).fetchSeq = s.fetchSeq ∧
    (loseRun stack channel frame s).elog = s.elog ∧ (loseRun stack channel frame s).elogSeq = s.elogSeq ∧
    (loseRun stack channel frame s).facets = s.facets ∧ (loseRun stack channel frame s).idx = s.idx ∧
    (loseRun stack channel frame s).mods = s.mods ∧ (loseRun stack channel frame s).flash = s.flash ∧
    (loseRun stack channel frame s).mem = s.mem ∧ (loseRun stack channel frame s).chd = s.chd ∧
    (loseRun stack channel frame s).side = s.side ∧ (loseRun stack channel frame s).serial = s.serial ∧
    (loseRun stack channel frame s).out = s.out ∧ (loseRun stack channel frame s).free = s.free ∧
    (loseRun stack channel frame s).pending = s.pending := by
  have key := @foldl_ind (fun u : State => u.brd = s.brd ∧ u.evr = s.evr ∧ u.fnc = s.fnc ∧ u.fuse = s.fuse ∧ u.fw = s.fw ∧ u.lat = s.lat ∧ u.cfg = s.cfg ∧ u.hif = s.hif ∧
      u.qps = s.qps ∧ u.tags = s.tags ∧ u.cmds = s.cmds ∧ u.fetchSeq = s.fetchSeq ∧ u.elog = s.elog ∧ u.elogSeq = s.elogSeq ∧
      u.facets = s.facets ∧ u.idx = s.idx ∧ u.mods = s.mods ∧ u.flash = s.flash ∧ u.mem = s.mem ∧ u.chd = s.chd ∧ u.side = s.side ∧
      u.serial = s.serial ∧ u.out = s.out ∧ u.free = s.free ∧ u.pending = s.pending)
  unfold loseRun
  repeat' (first | (simp; done) | split | (dsimp only; split) | refine key _ _ _ ?_ ?_ |
    (dsimp only; refine key _ _ _ ?_ ?_) | intro t x h | (simp [h]; done))

@[simp] theorem rowFailure_rest (stack channel bank row frame : Nat) (corrected : Bool) (s : State) :
    (rowFailure stack channel bank row frame corrected s).brd = s.brd ∧
    (rowFailure stack channel bank row frame corrected s).fnc = s.fnc ∧
    (rowFailure stack channel bank row frame corrected s).fuse = s.fuse ∧
    (rowFailure stack channel bank row frame corrected s).fw = s.fw ∧ (rowFailure stack channel bank row frame corrected s).lat = s.lat ∧
    (rowFailure stack channel bank row frame corrected s).cfg = s.cfg ∧
    (rowFailure stack channel bank row frame corrected s).tags = s.tags ∧
    (rowFailure stack channel bank row frame corrected s).cmds = s.cmds ∧
    (rowFailure stack channel bank row frame corrected s).fetchSeq = s.fetchSeq ∧
    (rowFailure stack channel bank row frame corrected s).elog = s.elog ∧
    (rowFailure stack channel bank row frame corrected s).elogSeq = s.elogSeq ∧
    (rowFailure stack channel bank row frame corrected s).idx = s.idx ∧
    (rowFailure stack channel bank row frame corrected s).mods = s.mods ∧
    (rowFailure stack channel bank row frame corrected s).flash = s.flash ∧
    (rowFailure stack channel bank row frame corrected s).chd = s.chd ∧
    (rowFailure stack channel bank row frame corrected s).side = s.side ∧
    (rowFailure stack channel bank row frame corrected s).serial = s.serial ∧
    (rowFailure stack channel bank row frame corrected s).free = s.free ∧
    (rowFailure stack channel bank row frame corrected s).pending = s.pending := by
  unfold rowFailure
  repeat' (first | (simp; done) | split | (dsimp only; split))

theorem chargeRebuild_rest (stack frame : Nat) (js : List Job) (s : State) (t : State) (h : chargeRebuild stack frame js s = some t) :
    t.brd = s.brd ∧ t.evr = s.evr ∧ t.fnc = s.fnc ∧ t.fuse = s.fuse ∧ t.fw = s.fw ∧ t.lat = s.lat ∧ t.cfg = s.cfg ∧ t.hif = s.hif ∧
    t.qps = s.qps ∧ t.tags = s.tags ∧ t.cmds = s.cmds ∧ t.fetchSeq = s.fetchSeq ∧ t.elog = s.elog ∧ t.elogSeq = s.elogSeq ∧
    t.idx = s.idx ∧ t.mods = s.mods ∧ t.mem = s.mem ∧ t.chd = s.chd ∧ t.side = s.side ∧ t.serial = s.serial ∧ t.out = s.out ∧
    t.free = s.free ∧ t.pending = s.pending := by
  unfold chargeRebuild at h
  repeat' (first | (cases h; done) | (cases h; simp; done) | (have hA := allJobs_rest _ _ _ _ _ _ h; simp [hA]; done) | (simp only [Option.map_eq_some_iff] at h; obtain ⟨c, -, rfl⟩ := h; simp; done) | split at h | dsimp only at h)

@[simp] theorem frameRebuilt_rest (frame : Nat) (s : State) :
    (frameRebuilt frame s).brd = s.brd ∧ (frameRebuilt frame s).evr = s.evr ∧ (frameRebuilt frame s).fnc = s.fnc ∧
    (frameRebuilt frame s).fuse = s.fuse ∧ (frameRebuilt frame s).fw = s.fw ∧ (frameRebuilt frame s).lat = s.lat ∧
    (frameRebuilt frame s).cfg = s.cfg ∧ (frameRebuilt frame s).hif = s.hif ∧ (frameRebuilt frame s).qps = s.qps ∧
    (frameRebuilt frame s).tags = s.tags ∧ (frameRebuilt frame s).cmds = s.cmds ∧ (frameRebuilt frame s).fetchSeq = s.fetchSeq ∧
    (frameRebuilt frame s).elog = s.elog ∧ (frameRebuilt frame s).elogSeq = s.elogSeq ∧ (frameRebuilt frame s).idx = s.idx ∧
    (frameRebuilt frame s).mods = s.mods ∧ (frameRebuilt frame s).chd = s.chd ∧ (frameRebuilt frame s).side = s.side ∧
    (frameRebuilt frame s).serial = s.serial ∧ (frameRebuilt frame s).out = s.out ∧ (frameRebuilt frame s).free = s.free ∧
    (frameRebuilt frame s).pending = s.pending := by
  unfold frameRebuilt
  repeat' (first | (simp; done) | split | (dsimp only; split) | (have hA := chargeRebuild_rest _ _ _ _ _ (by assumption); simp [hA]; done))

@[simp] theorem poison_rest (c : Consumer) (b : Nat) (s : State) :
    (poison c b s).brd = s.brd ∧ (poison c b s).evr = s.evr ∧ (poison c b s).fnc = s.fnc ∧ (poison c b s).fuse = s.fuse ∧
    (poison c b s).fw = s.fw ∧ (poison c b s).lat = s.lat ∧ (poison c b s).cfg = s.cfg ∧ (poison c b s).hif = s.hif ∧
    (poison c b s).qps = s.qps ∧ (poison c b s).tags = s.tags ∧ (poison c b s).cmds = s.cmds ∧ (poison c b s).fetchSeq = s.fetchSeq ∧
    (poison c b s).elog = s.elog ∧ (poison c b s).elogSeq = s.elogSeq ∧ (poison c b s).facets = s.facets ∧ (poison c b s).idx = s.idx ∧
    (poison c b s).mods = s.mods ∧ (poison c b s).flash = s.flash ∧ (poison c b s).chd = s.chd ∧ (poison c b s).side = s.side ∧
    (poison c b s).serial = s.serial ∧ (poison c b s).out = s.out ∧ (poison c b s).free = s.free ∧ (poison c b s).pending = s.pending := by
  unfold poison
  repeat' (first | (simp; done) | split | (dsimp only; split))

@[simp] theorem rebuildBlock_rest (c : Consumer) (b : Nat) (s : State) :
    (rebuildBlock c b s).brd = s.brd ∧ (rebuildBlock c b s).evr = s.evr ∧ (rebuildBlock c b s).fnc = s.fnc ∧
    (rebuildBlock c b s).fuse = s.fuse ∧ (rebuildBlock c b s).fw = s.fw ∧ (rebuildBlock c b s).lat = s.lat ∧
    (rebuildBlock c b s).cfg = s.cfg ∧ (rebuildBlock c b s).hif = s.hif ∧ (rebuildBlock c b s).qps = s.qps ∧
    (rebuildBlock c b s).tags = s.tags ∧ (rebuildBlock c b s).cmds = s.cmds ∧ (rebuildBlock c b s).fetchSeq = s.fetchSeq ∧
    (rebuildBlock c b s).elog = s.elog ∧ (rebuildBlock c b s).elogSeq = s.elogSeq ∧ (rebuildBlock c b s).facets = s.facets ∧
    (rebuildBlock c b s).idx = s.idx ∧ (rebuildBlock c b s).mods = s.mods ∧ (rebuildBlock c b s).srch = s.srch ∧
    (rebuildBlock c b s).flash = s.flash ∧ (rebuildBlock c b s).chd = s.chd ∧ (rebuildBlock c b s).side = s.side ∧
    (rebuildBlock c b s).serial = s.serial ∧ (rebuildBlock c b s).out = s.out ∧ (rebuildBlock c b s).free = s.free ∧
    (rebuildBlock c b s).pending = s.pending := by
  unfold rebuildBlock
  repeat' (first | (simp; done) | split | (dsimp only; split))

@[simp] theorem blockMismatch_rest (c : Consumer) (b : Nat) (crc : BitVec 32) (s : State) :
    (blockMismatch c b crc s).brd = s.brd ∧ (blockMismatch c b crc s).fnc = s.fnc ∧ (blockMismatch c b crc s).fuse = s.fuse ∧
    (blockMismatch c b crc s).fw = s.fw ∧ (blockMismatch c b crc s).lat = s.lat ∧ (blockMismatch c b crc s).cfg = s.cfg ∧
    (blockMismatch c b crc s).qps = s.qps ∧ (blockMismatch c b crc s).tags = s.tags ∧ (blockMismatch c b crc s).cmds = s.cmds ∧
    (blockMismatch c b crc s).fetchSeq = s.fetchSeq ∧ (blockMismatch c b crc s).elog = s.elog ∧
    (blockMismatch c b crc s).elogSeq = s.elogSeq ∧ (blockMismatch c b crc s).idx = s.idx ∧ (blockMismatch c b crc s).mods = s.mods ∧
    (blockMismatch c b crc s).flash = s.flash ∧ (blockMismatch c b crc s).chd = s.chd ∧ (blockMismatch c b crc s).side = s.side ∧
    (blockMismatch c b crc s).serial = s.serial ∧ (blockMismatch c b crc s).free = s.free ∧
    (blockMismatch c b crc s).pending = s.pending := by
  unfold blockMismatch
  repeat' (first | (simp; done) | split | (dsimp only; split))

@[simp] theorem stackError_rest (slice address : Nat) (p : StackPart) (s : State) :
    (stackError slice address p s).fnc = s.fnc ∧ (stackError slice address p s).fuse = s.fuse ∧ (stackError slice address p s).fw = s.fw ∧
    (stackError slice address p s).lat = s.lat ∧ (stackError slice address p s).cfg = s.cfg ∧
    (stackError slice address p s).tags = s.tags ∧ (stackError slice address p s).cmds = s.cmds ∧
    (stackError slice address p s).fetchSeq = s.fetchSeq ∧ (stackError slice address p s).elog = s.elog ∧
    (stackError slice address p s).elogSeq = s.elogSeq ∧ (stackError slice address p s).idx = s.idx ∧
    (stackError slice address p s).mods = s.mods ∧ (stackError slice address p s).flash = s.flash ∧
    (stackError slice address p s).chd = s.chd ∧ (stackError slice address p s).side = s.side ∧
    (stackError slice address p s).serial = s.serial ∧ (stackError slice address p s).pending = s.pending := by
  unfold stackError
  repeat' (first | (simp; done) | split | (dsimp only; split))

@[simp] theorem unitRebuilt_rest (u : Unit') (s : State) :
    (unitRebuilt u s).brd = s.brd ∧ (unitRebuilt u s).evr = s.evr ∧ (unitRebuilt u s).fnc = s.fnc ∧ (unitRebuilt u s).fuse = s.fuse ∧
    (unitRebuilt u s).fw = s.fw ∧ (unitRebuilt u s).lat = s.lat ∧ (unitRebuilt u s).cfg = s.cfg ∧ (unitRebuilt u s).hif = s.hif ∧
    (unitRebuilt u s).qps = s.qps ∧ (unitRebuilt u s).tags = s.tags ∧ (unitRebuilt u s).cmds = s.cmds ∧
    (unitRebuilt u s).fetchSeq = s.fetchSeq ∧ (unitRebuilt u s).elog = s.elog ∧ (unitRebuilt u s).elogSeq = s.elogSeq ∧
    (unitRebuilt u s).idx = s.idx ∧ (unitRebuilt u s).mods = s.mods ∧ (unitRebuilt u s).mem = s.mem ∧ (unitRebuilt u s).chd = s.chd ∧
    (unitRebuilt u s).side = s.side ∧ (unitRebuilt u s).serial = s.serial ∧ (unitRebuilt u s).out = s.out ∧
    (unitRebuilt u s).pending = s.pending := by
  unfold unitRebuilt
  repeat' (first | (simp; done) | split | (dsimp only; split))

@[simp] theorem blockRelocated_rest (ch d pl blk : Nat) (s : State) :
    (blockRelocated ch d pl blk s).brd = s.brd ∧ (blockRelocated ch d pl blk s).fnc = s.fnc ∧
    (blockRelocated ch d pl blk s).fuse = s.fuse ∧ (blockRelocated ch d pl blk s).fw = s.fw ∧ (blockRelocated ch d pl blk s).lat = s.lat ∧
    (blockRelocated ch d pl blk s).cfg = s.cfg ∧ (blockRelocated ch d pl blk s).qps = s.qps ∧
    (blockRelocated ch d pl blk s).tags = s.tags ∧ (blockRelocated ch d pl blk s).cmds = s.cmds ∧
    (blockRelocated ch d pl blk s).fetchSeq = s.fetchSeq ∧ (blockRelocated ch d pl blk s).elog = s.elog ∧
    (blockRelocated ch d pl blk s).elogSeq = s.elogSeq ∧ (blockRelocated ch d pl blk s).idx = s.idx ∧
    (blockRelocated ch d pl blk s).mods = s.mods ∧ (blockRelocated ch d pl blk s).chd = s.chd ∧
    (blockRelocated ch d pl blk s).side = s.side ∧ (blockRelocated ch d pl blk s).serial = s.serial ∧
    (blockRelocated ch d pl blk s).pending = s.pending := by
  unfold blockRelocated
  repeat' (first | (simp; done) | split | (dsimp only; split))

@[simp] theorem badDoorbell_rest (which q value : Nat) (s : State) :
    (badDoorbell which q value s).brd = s.brd ∧ (badDoorbell which q value s).fnc = s.fnc ∧ (badDoorbell which q value s).fuse = s.fuse ∧
    (badDoorbell which q value s).fw = s.fw ∧ (badDoorbell which q value s).lat = s.lat ∧ (badDoorbell which q value s).cfg = s.cfg ∧
    (badDoorbell which q value s).tags = s.tags ∧ (badDoorbell which q value s).cmds = s.cmds ∧
    (badDoorbell which q value s).fetchSeq = s.fetchSeq ∧ (badDoorbell which q value s).elog = s.elog ∧
    (badDoorbell which q value s).elogSeq = s.elogSeq ∧ (badDoorbell which q value s).facets = s.facets ∧
    (badDoorbell which q value s).idx = s.idx ∧ (badDoorbell which q value s).mods = s.mods ∧
    (badDoorbell which q value s).srch = s.srch ∧ (badDoorbell which q value s).flash = s.flash ∧
    (badDoorbell which q value s).mem = s.mem ∧ (badDoorbell which q value s).chd = s.chd ∧ (badDoorbell which q value s).side = s.side ∧
    (badDoorbell which q value s).serial = s.serial ∧ (badDoorbell which q value s).free = s.free ∧
    (badDoorbell which q value s).pending = s.pending := by
  unfold badDoorbell
  repeat' (first | (simp; done) | split | (dsimp only; split))

@[simp] theorem restartKa_rest (p : Qp) (s : State) :
    (restartKa p s).brd = s.brd ∧ (restartKa p s).evr = s.evr ∧ (restartKa p s).fnc = s.fnc ∧ (restartKa p s).fuse = s.fuse ∧
    (restartKa p s).fw = s.fw ∧ (restartKa p s).lat = s.lat ∧ (restartKa p s).cfg = s.cfg ∧ (restartKa p s).hif = s.hif ∧
    (restartKa p s).qps = s.qps ∧ (restartKa p s).tags = s.tags ∧ (restartKa p s).cmds = s.cmds ∧ (restartKa p s).fetchSeq = s.fetchSeq ∧
    (restartKa p s).elog = s.elog ∧ (restartKa p s).elogSeq = s.elogSeq ∧ (restartKa p s).idx = s.idx ∧ (restartKa p s).mods = s.mods ∧
    (restartKa p s).srch = s.srch ∧ (restartKa p s).flash = s.flash ∧ (restartKa p s).mem = s.mem ∧ (restartKa p s).chd = s.chd ∧
    (restartKa p s).side = s.side ∧ (restartKa p s).serial = s.serial ∧ (restartKa p s).out = s.out ∧ (restartKa p s).free = s.free ∧
    (restartKa p s).pending = s.pending := by
  unfold restartKa
  repeat' (first | (simp; done) | split | (dsimp only; split))

@[simp] theorem sqTail_rest (q v : Nat) (s : State) :
    (sqTail q v s).brd = s.brd ∧ (sqTail q v s).fnc = s.fnc ∧ (sqTail q v s).fuse = s.fuse ∧ (sqTail q v s).fw = s.fw ∧
    (sqTail q v s).lat = s.lat ∧ (sqTail q v s).cfg = s.cfg ∧ (sqTail q v s).tags = s.tags ∧ (sqTail q v s).cmds = s.cmds ∧
    (sqTail q v s).fetchSeq = s.fetchSeq ∧ (sqTail q v s).elog = s.elog ∧ (sqTail q v s).elogSeq = s.elogSeq ∧
    (sqTail q v s).idx = s.idx ∧ (sqTail q v s).mods = s.mods ∧ (sqTail q v s).srch = s.srch ∧ (sqTail q v s).flash = s.flash ∧
    (sqTail q v s).mem = s.mem ∧ (sqTail q v s).chd = s.chd ∧ (sqTail q v s).side = s.side ∧ (sqTail q v s).serial = s.serial ∧
    (sqTail q v s).free = s.free ∧ (sqTail q v s).pending = s.pending := by
  unfold sqTail
  repeat' (first | (simp; done) | split | (dsimp only; split))

@[simp] theorem cqHead_rest (q v : Nat) (s : State) :
    (cqHead q v s).brd = s.brd ∧ (cqHead q v s).fnc = s.fnc ∧ (cqHead q v s).fuse = s.fuse ∧ (cqHead q v s).fw = s.fw ∧
    (cqHead q v s).lat = s.lat ∧ (cqHead q v s).cfg = s.cfg ∧ (cqHead q v s).tags = s.tags ∧ (cqHead q v s).cmds = s.cmds ∧
    (cqHead q v s).fetchSeq = s.fetchSeq ∧ (cqHead q v s).elog = s.elog ∧ (cqHead q v s).elogSeq = s.elogSeq ∧
    (cqHead q v s).idx = s.idx ∧ (cqHead q v s).mods = s.mods ∧ (cqHead q v s).srch = s.srch ∧ (cqHead q v s).flash = s.flash ∧
    (cqHead q v s).mem = s.mem ∧ (cqHead q v s).chd = s.chd ∧ (cqHead q v s).side = s.side ∧ (cqHead q v s).serial = s.serial ∧
    (cqHead q v s).free = s.free ∧ (cqHead q v s).pending = s.pending := by
  unfold cqHead
  repeat' (first | (simp; done) | split | (dsimp only; split))

@[simp] theorem enableHif_rest (s : State) :
    (enableHif s).brd = s.brd ∧ (enableHif s).evr = s.evr ∧ (enableHif s).fnc = s.fnc ∧ (enableHif s).fuse = s.fuse ∧
    (enableHif s).fw = s.fw ∧ (enableHif s).lat = s.lat ∧ (enableHif s).cfg = s.cfg ∧ (enableHif s).tags = s.tags ∧
    (enableHif s).cmds = s.cmds ∧ (enableHif s).fetchSeq = s.fetchSeq ∧ (enableHif s).elog = s.elog ∧ (enableHif s).elogSeq = s.elogSeq ∧
    (enableHif s).facets = s.facets ∧ (enableHif s).idx = s.idx ∧ (enableHif s).mods = s.mods ∧ (enableHif s).srch = s.srch ∧
    (enableHif s).flash = s.flash ∧ (enableHif s).mem = s.mem ∧ (enableHif s).chd = s.chd ∧ (enableHif s).side = s.side ∧
    (enableHif s).serial = s.serial ∧ (enableHif s).out = s.out ∧ (enableHif s).free = s.free ∧ (enableHif s).pending = s.pending := by
  unfold enableHif
  repeat' (first | (simp; done) | split | (dsimp only; split))

@[simp] theorem disableHif_rest (s : State) :
    (disableHif s).fnc = s.fnc ∧ (disableHif s).fuse = s.fuse ∧ (disableHif s).cfg = s.cfg ∧ (disableHif s).fetchSeq = s.fetchSeq ∧
    (disableHif s).side = s.side ∧ (disableHif s).serial = s.serial ∧ (disableHif s).pending = s.pending := by
  unfold disableHif
  repeat' (first | (simp; done) | split | (dsimp only; split))

@[simp] theorem functionReset_rest (s : State) :
    (functionReset s).fnc = s.fnc ∧ (functionReset s).fuse = s.fuse ∧ (functionReset s).cfg = s.cfg ∧
    (functionReset s).fetchSeq = s.fetchSeq ∧ (functionReset s).side = s.side ∧ (functionReset s).serial = s.serial ∧
    (functionReset s).pending = s.pending := by
  unfold functionReset
  repeat' (first | (simp; done) | split | (dsimp only; split))

@[simp] theorem linkLost_rest (s : State) :
    (linkLost s).fnc = s.fnc ∧ (linkLost s).fuse = s.fuse ∧ (linkLost s).cfg = s.cfg ∧ (linkLost s).fetchSeq = s.fetchSeq ∧
    (linkLost s).side = s.side ∧ (linkLost s).serial = s.serial ∧ (linkLost s).pending = s.pending := by
  unfold linkLost
  repeat' (first | (simp; done) | split | (dsimp only; split))

@[simp] theorem releaseMsg_rest (v : Nat) (s : State) :
    (releaseMsg v s).brd = s.brd ∧ (releaseMsg v s).evr = s.evr ∧ (releaseMsg v s).fnc = s.fnc ∧ (releaseMsg v s).fuse = s.fuse ∧
    (releaseMsg v s).fw = s.fw ∧ (releaseMsg v s).lat = s.lat ∧ (releaseMsg v s).cfg = s.cfg ∧ (releaseMsg v s).qps = s.qps ∧
    (releaseMsg v s).tags = s.tags ∧ (releaseMsg v s).cmds = s.cmds ∧ (releaseMsg v s).fetchSeq = s.fetchSeq ∧
    (releaseMsg v s).elog = s.elog ∧ (releaseMsg v s).elogSeq = s.elogSeq ∧ (releaseMsg v s).facets = s.facets ∧
    (releaseMsg v s).idx = s.idx ∧ (releaseMsg v s).mods = s.mods ∧ (releaseMsg v s).srch = s.srch ∧ (releaseMsg v s).flash = s.flash ∧
    (releaseMsg v s).mem = s.mem ∧ (releaseMsg v s).chd = s.chd ∧ (releaseMsg v s).side = s.side ∧ (releaseMsg v s).serial = s.serial ∧
    (releaseMsg v s).free = s.free ∧ (releaseMsg v s).pending = s.pending := by
  unfold releaseMsg
  repeat' (first | (simp; done) | split | (dsimp only; split))

@[simp] theorem delayOver_rest (q : Nat) (s : State) :
    (delayOver q s).brd = s.brd ∧ (delayOver q s).evr = s.evr ∧ (delayOver q s).fnc = s.fnc ∧ (delayOver q s).fuse = s.fuse ∧
    (delayOver q s).fw = s.fw ∧ (delayOver q s).lat = s.lat ∧ (delayOver q s).cfg = s.cfg ∧ (delayOver q s).tags = s.tags ∧
    (delayOver q s).cmds = s.cmds ∧ (delayOver q s).fetchSeq = s.fetchSeq ∧ (delayOver q s).elog = s.elog ∧
    (delayOver q s).elogSeq = s.elogSeq ∧ (delayOver q s).facets = s.facets ∧ (delayOver q s).idx = s.idx ∧
    (delayOver q s).mods = s.mods ∧ (delayOver q s).srch = s.srch ∧ (delayOver q s).flash = s.flash ∧ (delayOver q s).mem = s.mem ∧
    (delayOver q s).chd = s.chd ∧ (delayOver q s).side = s.side ∧ (delayOver q s).serial = s.serial ∧ (delayOver q s).free = s.free ∧
    (delayOver q s).pending = s.pending := by
  unfold delayOver
  repeat' (first | (simp; done) | split | (dsimp only; split))

@[simp] theorem trained_rest (speed width : Nat) (s : State) :
    (trained speed width s).brd = s.brd ∧ (trained speed width s).evr = s.evr ∧ (trained speed width s).fnc = s.fnc ∧
    (trained speed width s).fuse = s.fuse ∧ (trained speed width s).fw = s.fw ∧ (trained speed width s).lat = s.lat ∧
    (trained speed width s).cfg = s.cfg ∧ (trained speed width s).qps = s.qps ∧ (trained speed width s).tags = s.tags ∧
    (trained speed width s).cmds = s.cmds ∧ (trained speed width s).fetchSeq = s.fetchSeq ∧ (trained speed width s).elog = s.elog ∧
    (trained speed width s).elogSeq = s.elogSeq ∧ (trained speed width s).facets = s.facets ∧ (trained speed width s).idx = s.idx ∧
    (trained speed width s).mods = s.mods ∧ (trained speed width s).srch = s.srch ∧ (trained speed width s).flash = s.flash ∧
    (trained speed width s).mem = s.mem ∧ (trained speed width s).chd = s.chd ∧ (trained speed width s).side = s.side ∧
    (trained speed width s).serial = s.serial ∧ (trained speed width s).out = s.out ∧ (trained speed width s).free = s.free ∧
    (trained speed width s).pending = s.pending := by
  unfold trained
  repeat' (first | (simp; done) | split | (dsimp only; split))

@[simp] theorem unmasked_rest (s : State) :
    (unmasked s).brd = s.brd ∧ (unmasked s).evr = s.evr ∧ (unmasked s).fnc = s.fnc ∧ (unmasked s).fuse = s.fuse ∧ (unmasked s).fw = s.fw ∧
    (unmasked s).lat = s.lat ∧ (unmasked s).cfg = s.cfg ∧ (unmasked s).qps = s.qps ∧ (unmasked s).tags = s.tags ∧
    (unmasked s).cmds = s.cmds ∧ (unmasked s).fetchSeq = s.fetchSeq ∧ (unmasked s).elog = s.elog ∧ (unmasked s).elogSeq = s.elogSeq ∧
    (unmasked s).facets = s.facets ∧ (unmasked s).idx = s.idx ∧ (unmasked s).mods = s.mods ∧ (unmasked s).srch = s.srch ∧
    (unmasked s).flash = s.flash ∧ (unmasked s).mem = s.mem ∧ (unmasked s).chd = s.chd ∧ (unmasked s).side = s.side ∧
    (unmasked s).serial = s.serial ∧ (unmasked s).free = s.free ∧ (unmasked s).pending = s.pending := by
  have key := @foldl_ind (fun u : State => u.brd = s.brd ∧ u.evr = s.evr ∧ u.fnc = s.fnc ∧ u.fuse = s.fuse ∧ u.fw = s.fw ∧ u.lat = s.lat ∧ u.cfg = s.cfg ∧ u.qps = s.qps ∧
      u.tags = s.tags ∧ u.cmds = s.cmds ∧ u.fetchSeq = s.fetchSeq ∧ u.elog = s.elog ∧ u.elogSeq = s.elogSeq ∧ u.facets = s.facets ∧
      u.idx = s.idx ∧ u.mods = s.mods ∧ u.srch = s.srch ∧ u.flash = s.flash ∧ u.mem = s.mem ∧ u.chd = s.chd ∧ u.side = s.side ∧
      u.serial = s.serial ∧ u.free = s.free ∧ u.pending = s.pending)
  unfold unmasked
  repeat' (first | (simp; done) | split | (dsimp only; split) | refine key _ _ _ ?_ ?_ |
    (dsimp only; refine key _ _ _ ?_ ?_) | intro t x h | (simp [h]; done))

@[simp] theorem configure_rest (w : CfgWrite) (s : State) :
    (configure w s).brd = s.brd ∧ (configure w s).evr = s.evr ∧ (configure w s).fnc = s.fnc ∧ (configure w s).fuse = s.fuse ∧
    (configure w s).fw = s.fw ∧ (configure w s).lat = s.lat ∧ (configure w s).cfg = s.cfg ∧ (configure w s).qps = s.qps ∧
    (configure w s).tags = s.tags ∧ (configure w s).cmds = s.cmds ∧ (configure w s).fetchSeq = s.fetchSeq ∧
    (configure w s).elog = s.elog ∧ (configure w s).elogSeq = s.elogSeq ∧ (configure w s).facets = s.facets ∧
    (configure w s).idx = s.idx ∧ (configure w s).mods = s.mods ∧ (configure w s).srch = s.srch ∧ (configure w s).flash = s.flash ∧
    (configure w s).mem = s.mem ∧ (configure w s).chd = s.chd ∧ (configure w s).side = s.side ∧ (configure w s).serial = s.serial ∧
    (configure w s).free = s.free ∧ (configure w s).pending = s.pending := by
  unfold configure
  repeat' (first | (simp; done) | split | (dsimp only; split))

@[simp] theorem zeroRead_rest (len : Nat) (s : State) :
    (zeroRead len s).brd = s.brd ∧ (zeroRead len s).evr = s.evr ∧ (zeroRead len s).fnc = s.fnc ∧ (zeroRead len s).fuse = s.fuse ∧
    (zeroRead len s).fw = s.fw ∧ (zeroRead len s).lat = s.lat ∧ (zeroRead len s).cfg = s.cfg ∧ (zeroRead len s).qps = s.qps ∧
    (zeroRead len s).tags = s.tags ∧ (zeroRead len s).cmds = s.cmds ∧ (zeroRead len s).fetchSeq = s.fetchSeq ∧
    (zeroRead len s).elog = s.elog ∧ (zeroRead len s).elogSeq = s.elogSeq ∧ (zeroRead len s).facets = s.facets ∧
    (zeroRead len s).idx = s.idx ∧ (zeroRead len s).mods = s.mods ∧ (zeroRead len s).srch = s.srch ∧ (zeroRead len s).flash = s.flash ∧
    (zeroRead len s).mem = s.mem ∧ (zeroRead len s).chd = s.chd ∧ (zeroRead len s).side = s.side ∧ (zeroRead len s).serial = s.serial ∧
    (zeroRead len s).free = s.free ∧ (zeroRead len s).pending = s.pending := by
  unfold zeroRead
  repeat' (first | (simp; done) | split | (dsimp only; split))

@[simp] theorem passCursor_rest (s : State) :
    (passCursor s).brd = s.brd ∧ (passCursor s).fnc = s.fnc ∧ (passCursor s).fuse = s.fuse ∧ (passCursor s).fw = s.fw ∧
    (passCursor s).lat = s.lat ∧ (passCursor s).cfg = s.cfg ∧ (passCursor s).hif = s.hif ∧ (passCursor s).qps = s.qps ∧
    (passCursor s).tags = s.tags ∧ (passCursor s).cmds = s.cmds ∧ (passCursor s).fetchSeq = s.fetchSeq ∧ (passCursor s).elog = s.elog ∧
    (passCursor s).elogSeq = s.elogSeq ∧ (passCursor s).facets = s.facets ∧ (passCursor s).idx = s.idx ∧ (passCursor s).mods = s.mods ∧
    (passCursor s).srch = s.srch ∧ (passCursor s).flash = s.flash ∧ (passCursor s).chd = s.chd ∧ (passCursor s).side = s.side ∧
    (passCursor s).serial = s.serial ∧ (passCursor s).out = s.out ∧ (passCursor s).free = s.free ∧ (passCursor s).pending = s.pending := by
  unfold passCursor
  repeat' (first | (simp; done) | split | (dsimp only; split))

@[simp] theorem readBar0_rest (off len : Nat) (s : State) :
    (readBar0 off len s).brd = s.brd ∧ (readBar0 off len s).fnc = s.fnc ∧ (readBar0 off len s).fuse = s.fuse ∧
    (readBar0 off len s).fw = s.fw ∧ (readBar0 off len s).lat = s.lat ∧ (readBar0 off len s).cfg = s.cfg ∧
    (readBar0 off len s).qps = s.qps ∧ (readBar0 off len s).tags = s.tags ∧ (readBar0 off len s).cmds = s.cmds ∧
    (readBar0 off len s).fetchSeq = s.fetchSeq ∧ (readBar0 off len s).elog = s.elog ∧ (readBar0 off len s).elogSeq = s.elogSeq ∧
    (readBar0 off len s).facets = s.facets ∧ (readBar0 off len s).idx = s.idx ∧ (readBar0 off len s).mods = s.mods ∧
    (readBar0 off len s).srch = s.srch ∧ (readBar0 off len s).flash = s.flash ∧ (readBar0 off len s).chd = s.chd ∧
    (readBar0 off len s).side = s.side ∧ (readBar0 off len s).serial = s.serial ∧ (readBar0 off len s).free = s.free ∧
    (readBar0 off len s).pending = s.pending := by
  unfold readBar0
  repeat' (first | (simp; done) | split | (dsimp only; split))

@[simp] theorem readBar2_rest (off len : Nat) (s : State) :
    (readBar2 off len s).brd = s.brd ∧ (readBar2 off len s).evr = s.evr ∧ (readBar2 off len s).fnc = s.fnc ∧
    (readBar2 off len s).fuse = s.fuse ∧ (readBar2 off len s).fw = s.fw ∧ (readBar2 off len s).lat = s.lat ∧
    (readBar2 off len s).cfg = s.cfg ∧ (readBar2 off len s).qps = s.qps ∧ (readBar2 off len s).tags = s.tags ∧
    (readBar2 off len s).cmds = s.cmds ∧ (readBar2 off len s).fetchSeq = s.fetchSeq ∧ (readBar2 off len s).elog = s.elog ∧
    (readBar2 off len s).elogSeq = s.elogSeq ∧ (readBar2 off len s).facets = s.facets ∧ (readBar2 off len s).idx = s.idx ∧
    (readBar2 off len s).mods = s.mods ∧ (readBar2 off len s).srch = s.srch ∧ (readBar2 off len s).flash = s.flash ∧
    (readBar2 off len s).mem = s.mem ∧ (readBar2 off len s).chd = s.chd ∧ (readBar2 off len s).side = s.side ∧
    (readBar2 off len s).serial = s.serial ∧ (readBar2 off len s).free = s.free ∧ (readBar2 off len s).pending = s.pending := by
  unfold readBar2
  repeat' (first | (simp; done) | split | (dsimp only; split))

@[simp] theorem readBar_rest (bar : Bar) (off len : Nat) (s : State) :
    (readBar bar off len s).brd = s.brd ∧ (readBar bar off len s).fnc = s.fnc ∧ (readBar bar off len s).fuse = s.fuse ∧
    (readBar bar off len s).fw = s.fw ∧ (readBar bar off len s).lat = s.lat ∧ (readBar bar off len s).cfg = s.cfg ∧
    (readBar bar off len s).qps = s.qps ∧ (readBar bar off len s).tags = s.tags ∧ (readBar bar off len s).cmds = s.cmds ∧
    (readBar bar off len s).fetchSeq = s.fetchSeq ∧ (readBar bar off len s).elog = s.elog ∧ (readBar bar off len s).elogSeq = s.elogSeq ∧
    (readBar bar off len s).facets = s.facets ∧ (readBar bar off len s).idx = s.idx ∧ (readBar bar off len s).mods = s.mods ∧
    (readBar bar off len s).srch = s.srch ∧ (readBar bar off len s).flash = s.flash ∧ (readBar bar off len s).chd = s.chd ∧
    (readBar bar off len s).side = s.side ∧ (readBar bar off len s).serial = s.serial ∧ (readBar bar off len s).free = s.free ∧
    (readBar bar off len s).pending = s.pending := by
  unfold readBar
  repeat' (first | (simp; done) | split | (dsimp only; split))

@[simp] theorem setupWrite_rest (g : Hif → Hif) (s : State) :
    (setupWrite g s).brd = s.brd ∧ (setupWrite g s).evr = s.evr ∧ (setupWrite g s).fnc = s.fnc ∧ (setupWrite g s).fuse = s.fuse ∧
    (setupWrite g s).fw = s.fw ∧ (setupWrite g s).lat = s.lat ∧ (setupWrite g s).cfg = s.cfg ∧ (setupWrite g s).qps = s.qps ∧
    (setupWrite g s).tags = s.tags ∧ (setupWrite g s).cmds = s.cmds ∧ (setupWrite g s).fetchSeq = s.fetchSeq ∧
    (setupWrite g s).elog = s.elog ∧ (setupWrite g s).elogSeq = s.elogSeq ∧ (setupWrite g s).facets = s.facets ∧
    (setupWrite g s).idx = s.idx ∧ (setupWrite g s).mods = s.mods ∧ (setupWrite g s).srch = s.srch ∧ (setupWrite g s).flash = s.flash ∧
    (setupWrite g s).mem = s.mem ∧ (setupWrite g s).chd = s.chd ∧ (setupWrite g s).side = s.side ∧ (setupWrite g s).serial = s.serial ∧
    (setupWrite g s).out = s.out ∧ (setupWrite g s).free = s.free ∧ (setupWrite g s).pending = s.pending := by
  unfold setupWrite
  repeat' (first | (simp; done) | split | (dsimp only; split))

@[simp] theorem ctrlWrite_rest (v : Nat) (s : State) :
    (ctrlWrite v s).fnc = s.fnc ∧ (ctrlWrite v s).fuse = s.fuse ∧ (ctrlWrite v s).cfg = s.cfg ∧ (ctrlWrite v s).fetchSeq = s.fetchSeq ∧
    (ctrlWrite v s).side = s.side ∧ (ctrlWrite v s).serial = s.serial ∧ (ctrlWrite v s).pending = s.pending := by
  unfold ctrlWrite
  repeat' (first | (simp; done) | split | (dsimp only; split))

@[simp] theorem acceptWrite_rest (v : Nat) (s : State) :
    (acceptWrite v s).fnc = s.fnc ∧ (acceptWrite v s).fuse = s.fuse ∧ (acceptWrite v s).cfg = s.cfg ∧
    (acceptWrite v s).fetchSeq = s.fetchSeq ∧ (acceptWrite v s).side = s.side ∧ (acceptWrite v s).serial = s.serial ∧
    (acceptWrite v s).pending = s.pending := by
  unfold acceptWrite
  repeat' (first | (simp; done) | split | (dsimp only; split))

@[simp] theorem writeBar0_rest (off size value : Nat) (s : State) :
    (writeBar0 off size value s).fnc = s.fnc ∧ (writeBar0 off size value s).fuse = s.fuse ∧ (writeBar0 off size value s).cfg = s.cfg ∧
    (writeBar0 off size value s).fetchSeq = s.fetchSeq ∧ (writeBar0 off size value s).side = s.side ∧
    (writeBar0 off size value s).serial = s.serial ∧ (writeBar0 off size value s).pending = s.pending := by
  unfold writeBar0
  repeat' (first | (simp; done) | split | (dsimp only; split))

@[simp] theorem writeBar2_rest (off size value : Nat) (s : State) :
    (writeBar2 off size value s).brd = s.brd ∧ (writeBar2 off size value s).fnc = s.fnc ∧ (writeBar2 off size value s).fuse = s.fuse ∧
    (writeBar2 off size value s).fw = s.fw ∧ (writeBar2 off size value s).lat = s.lat ∧ (writeBar2 off size value s).cfg = s.cfg ∧
    (writeBar2 off size value s).tags = s.tags ∧ (writeBar2 off size value s).cmds = s.cmds ∧
    (writeBar2 off size value s).fetchSeq = s.fetchSeq ∧ (writeBar2 off size value s).elog = s.elog ∧
    (writeBar2 off size value s).elogSeq = s.elogSeq ∧ (writeBar2 off size value s).idx = s.idx ∧
    (writeBar2 off size value s).mods = s.mods ∧ (writeBar2 off size value s).srch = s.srch ∧
    (writeBar2 off size value s).flash = s.flash ∧ (writeBar2 off size value s).mem = s.mem ∧ (writeBar2 off size value s).chd = s.chd ∧
    (writeBar2 off size value s).side = s.side ∧ (writeBar2 off size value s).serial = s.serial ∧
    (writeBar2 off size value s).free = s.free ∧ (writeBar2 off size value s).pending = s.pending := by
  unfold writeBar2
  repeat' (first | (simp; done) | split | (dsimp only; split))

@[simp] theorem writeBar_rest (bar : Bar) (off size value : Nat) (s : State) :
    (writeBar bar off size value s).fnc = s.fnc ∧ (writeBar bar off size value s).fuse = s.fuse ∧
    (writeBar bar off size value s).cfg = s.cfg ∧ (writeBar bar off size value s).fetchSeq = s.fetchSeq ∧
    (writeBar bar off size value s).side = s.side ∧ (writeBar bar off size value s).serial = s.serial ∧
    (writeBar bar off size value s).pending = s.pending := by
  unfold writeBar
  repeat' (first | (simp; done) | split | (dsimp only; split))

@[simp] theorem sbAnswer_rest (a : SbAnswer) (s : State) :
    (sbAnswer a s).brd = s.brd ∧ (sbAnswer a s).evr = s.evr ∧ (sbAnswer a s).fnc = s.fnc ∧ (sbAnswer a s).fuse = s.fuse ∧
    (sbAnswer a s).fw = s.fw ∧ (sbAnswer a s).lat = s.lat ∧ (sbAnswer a s).cfg = s.cfg ∧ (sbAnswer a s).hif = s.hif ∧
    (sbAnswer a s).qps = s.qps ∧ (sbAnswer a s).tags = s.tags ∧ (sbAnswer a s).cmds = s.cmds ∧ (sbAnswer a s).fetchSeq = s.fetchSeq ∧
    (sbAnswer a s).elog = s.elog ∧ (sbAnswer a s).elogSeq = s.elogSeq ∧ (sbAnswer a s).facets = s.facets ∧ (sbAnswer a s).idx = s.idx ∧
    (sbAnswer a s).mods = s.mods ∧ (sbAnswer a s).srch = s.srch ∧ (sbAnswer a s).flash = s.flash ∧ (sbAnswer a s).mem = s.mem ∧
    (sbAnswer a s).chd = s.chd ∧ (sbAnswer a s).side = s.side ∧ (sbAnswer a s).serial = s.serial ∧ (sbAnswer a s).free = s.free ∧
    (sbAnswer a s).pending = s.pending := by
  unfold sbAnswer
  repeat' (first | (simp; done) | split | (dsimp only; split))

@[simp] theorem pldm_rest (code : Nat) (d : Bytes) (s : State) :
    (pldm code d s).brd = s.brd ∧ (pldm code d s).evr = s.evr ∧ (pldm code d s).fnc = s.fnc ∧ (pldm code d s).fuse = s.fuse ∧
    (pldm code d s).fw = s.fw ∧ (pldm code d s).lat = s.lat ∧ (pldm code d s).cfg = s.cfg ∧ (pldm code d s).hif = s.hif ∧
    (pldm code d s).qps = s.qps ∧ (pldm code d s).tags = s.tags ∧ (pldm code d s).cmds = s.cmds ∧ (pldm code d s).fetchSeq = s.fetchSeq ∧
    (pldm code d s).elog = s.elog ∧ (pldm code d s).elogSeq = s.elogSeq ∧ (pldm code d s).facets = s.facets ∧
    (pldm code d s).idx = s.idx ∧ (pldm code d s).mods = s.mods ∧ (pldm code d s).srch = s.srch ∧ (pldm code d s).flash = s.flash ∧
    (pldm code d s).mem = s.mem ∧ (pldm code d s).chd = s.chd ∧ (pldm code d s).side = s.side ∧ (pldm code d s).serial = s.serial ∧
    (pldm code d s).free = s.free ∧ (pldm code d s).pending = s.pending := by
  unfold pldm
  repeat' (first | (simp; done) | split | (dsimp only; split))

@[simp] theorem setEid_rest (e : Byte) (s : State) :
    (setEid e s).brd = s.brd ∧ (setEid e s).evr = s.evr ∧ (setEid e s).fnc = s.fnc ∧ (setEid e s).fuse = s.fuse ∧ (setEid e s).fw = s.fw ∧
    (setEid e s).lat = s.lat ∧ (setEid e s).cfg = s.cfg ∧ (setEid e s).hif = s.hif ∧ (setEid e s).qps = s.qps ∧
    (setEid e s).tags = s.tags ∧ (setEid e s).cmds = s.cmds ∧ (setEid e s).fetchSeq = s.fetchSeq ∧ (setEid e s).elog = s.elog ∧
    (setEid e s).elogSeq = s.elogSeq ∧ (setEid e s).facets = s.facets ∧ (setEid e s).idx = s.idx ∧ (setEid e s).mods = s.mods ∧
    (setEid e s).srch = s.srch ∧ (setEid e s).flash = s.flash ∧ (setEid e s).mem = s.mem ∧ (setEid e s).chd = s.chd ∧
    (setEid e s).serial = s.serial ∧ (setEid e s).free = s.free ∧ (setEid e s).pending = s.pending := by
  unfold setEid
  repeat' (first | (simp; done) | split | (dsimp only; split))

@[simp] theorem setTerminus_rest (t : Byte) (s : State) :
    (setTerminus t s).brd = s.brd ∧ (setTerminus t s).evr = s.evr ∧ (setTerminus t s).fnc = s.fnc ∧ (setTerminus t s).fuse = s.fuse ∧
    (setTerminus t s).fw = s.fw ∧ (setTerminus t s).lat = s.lat ∧ (setTerminus t s).cfg = s.cfg ∧ (setTerminus t s).hif = s.hif ∧
    (setTerminus t s).qps = s.qps ∧ (setTerminus t s).tags = s.tags ∧ (setTerminus t s).cmds = s.cmds ∧
    (setTerminus t s).fetchSeq = s.fetchSeq ∧ (setTerminus t s).elog = s.elog ∧ (setTerminus t s).elogSeq = s.elogSeq ∧
    (setTerminus t s).facets = s.facets ∧ (setTerminus t s).idx = s.idx ∧ (setTerminus t s).mods = s.mods ∧
    (setTerminus t s).srch = s.srch ∧ (setTerminus t s).flash = s.flash ∧ (setTerminus t s).mem = s.mem ∧ (setTerminus t s).chd = s.chd ∧
    (setTerminus t s).serial = s.serial ∧ (setTerminus t s).free = s.free ∧ (setTerminus t s).pending = s.pending := by
  unfold setTerminus
  repeat' (first | (simp; done) | split | (dsimp only; split))

@[simp] theorem pldmVersion_rest (t : Byte) (s : State) :
    (pldmVersion t s).brd = s.brd ∧ (pldmVersion t s).evr = s.evr ∧ (pldmVersion t s).fnc = s.fnc ∧ (pldmVersion t s).fuse = s.fuse ∧
    (pldmVersion t s).fw = s.fw ∧ (pldmVersion t s).lat = s.lat ∧ (pldmVersion t s).cfg = s.cfg ∧ (pldmVersion t s).hif = s.hif ∧
    (pldmVersion t s).qps = s.qps ∧ (pldmVersion t s).tags = s.tags ∧ (pldmVersion t s).cmds = s.cmds ∧
    (pldmVersion t s).fetchSeq = s.fetchSeq ∧ (pldmVersion t s).elog = s.elog ∧ (pldmVersion t s).elogSeq = s.elogSeq ∧
    (pldmVersion t s).facets = s.facets ∧ (pldmVersion t s).idx = s.idx ∧ (pldmVersion t s).mods = s.mods ∧
    (pldmVersion t s).srch = s.srch ∧ (pldmVersion t s).flash = s.flash ∧ (pldmVersion t s).mem = s.mem ∧ (pldmVersion t s).chd = s.chd ∧
    (pldmVersion t s).side = s.side ∧ (pldmVersion t s).serial = s.serial ∧ (pldmVersion t s).free = s.free ∧
    (pldmVersion t s).pending = s.pending := by
  unfold pldmVersion
  repeat' (first | (simp; done) | split | (dsimp only; split))

@[simp] theorem pldmCmds_rest (t : Byte) (s : State) :
    (pldmCmds t s).brd = s.brd ∧ (pldmCmds t s).evr = s.evr ∧ (pldmCmds t s).fnc = s.fnc ∧ (pldmCmds t s).fuse = s.fuse ∧
    (pldmCmds t s).fw = s.fw ∧ (pldmCmds t s).lat = s.lat ∧ (pldmCmds t s).cfg = s.cfg ∧ (pldmCmds t s).hif = s.hif ∧
    (pldmCmds t s).qps = s.qps ∧ (pldmCmds t s).tags = s.tags ∧ (pldmCmds t s).cmds = s.cmds ∧ (pldmCmds t s).fetchSeq = s.fetchSeq ∧
    (pldmCmds t s).elog = s.elog ∧ (pldmCmds t s).elogSeq = s.elogSeq ∧ (pldmCmds t s).facets = s.facets ∧ (pldmCmds t s).idx = s.idx ∧
    (pldmCmds t s).mods = s.mods ∧ (pldmCmds t s).srch = s.srch ∧ (pldmCmds t s).flash = s.flash ∧ (pldmCmds t s).mem = s.mem ∧
    (pldmCmds t s).chd = s.chd ∧ (pldmCmds t s).side = s.side ∧ (pldmCmds t s).serial = s.serial ∧ (pldmCmds t s).free = s.free ∧
    (pldmCmds t s).pending = s.pending := by
  unfold pldmCmds
  repeat' (first | (simp; done) | split | (dsimp only; split))

@[simp] theorem getRecord_rest (h : Nat) (s : State) :
    (getRecord h s).brd = s.brd ∧ (getRecord h s).evr = s.evr ∧ (getRecord h s).fnc = s.fnc ∧ (getRecord h s).fuse = s.fuse ∧
    (getRecord h s).fw = s.fw ∧ (getRecord h s).lat = s.lat ∧ (getRecord h s).cfg = s.cfg ∧ (getRecord h s).hif = s.hif ∧
    (getRecord h s).qps = s.qps ∧ (getRecord h s).tags = s.tags ∧ (getRecord h s).cmds = s.cmds ∧ (getRecord h s).fetchSeq = s.fetchSeq ∧
    (getRecord h s).elog = s.elog ∧ (getRecord h s).elogSeq = s.elogSeq ∧ (getRecord h s).facets = s.facets ∧
    (getRecord h s).idx = s.idx ∧ (getRecord h s).mods = s.mods ∧ (getRecord h s).srch = s.srch ∧ (getRecord h s).flash = s.flash ∧
    (getRecord h s).mem = s.mem ∧ (getRecord h s).chd = s.chd ∧ (getRecord h s).side = s.side ∧ (getRecord h s).serial = s.serial ∧
    (getRecord h s).free = s.free ∧ (getRecord h s).pending = s.pending := by
  unfold getRecord
  repeat' (first | (simp; done) | split | (dsimp only; split))

@[simp] theorem readSensor_rest (n : Nat) (s : State) :
    (readSensor n s).brd = s.brd ∧ (readSensor n s).evr = s.evr ∧ (readSensor n s).fnc = s.fnc ∧ (readSensor n s).fuse = s.fuse ∧
    (readSensor n s).fw = s.fw ∧ (readSensor n s).lat = s.lat ∧ (readSensor n s).cfg = s.cfg ∧ (readSensor n s).hif = s.hif ∧
    (readSensor n s).qps = s.qps ∧ (readSensor n s).tags = s.tags ∧ (readSensor n s).cmds = s.cmds ∧
    (readSensor n s).fetchSeq = s.fetchSeq ∧ (readSensor n s).elog = s.elog ∧ (readSensor n s).elogSeq = s.elogSeq ∧
    (readSensor n s).facets = s.facets ∧ (readSensor n s).idx = s.idx ∧ (readSensor n s).mods = s.mods ∧ (readSensor n s).srch = s.srch ∧
    (readSensor n s).flash = s.flash ∧ (readSensor n s).mem = s.mem ∧ (readSensor n s).chd = s.chd ∧ (readSensor n s).side = s.side ∧
    (readSensor n s).serial = s.serial ∧ (readSensor n s).free = s.free ∧ (readSensor n s).pending = s.pending := by
  unfold readSensor
  repeat' (first | (simp; done) | split | (dsimp only; split))

@[simp] theorem readStates_rest (n : Nat) (s : State) :
    (readStates n s).brd = s.brd ∧ (readStates n s).evr = s.evr ∧ (readStates n s).fnc = s.fnc ∧ (readStates n s).fuse = s.fuse ∧
    (readStates n s).fw = s.fw ∧ (readStates n s).lat = s.lat ∧ (readStates n s).cfg = s.cfg ∧ (readStates n s).hif = s.hif ∧
    (readStates n s).qps = s.qps ∧ (readStates n s).tags = s.tags ∧ (readStates n s).cmds = s.cmds ∧
    (readStates n s).fetchSeq = s.fetchSeq ∧ (readStates n s).elog = s.elog ∧ (readStates n s).elogSeq = s.elogSeq ∧
    (readStates n s).facets = s.facets ∧ (readStates n s).idx = s.idx ∧ (readStates n s).mods = s.mods ∧ (readStates n s).srch = s.srch ∧
    (readStates n s).flash = s.flash ∧ (readStates n s).mem = s.mem ∧ (readStates n s).chd = s.chd ∧ (readStates n s).side = s.side ∧
    (readStates n s).serial = s.serial ∧ (readStates n s).free = s.free ∧ (readStates n s).pending = s.pending := by
  unfold readStates
  repeat' (first | (simp; done) | split | (dsimp only; split))


@[simp] theorem receiveBlock_rest (off : Nat) (bs : Bytes) (s : State) :
    (receiveBlock off bs s).brd = s.brd ∧ (receiveBlock off bs s).evr = s.evr ∧ (receiveBlock off bs s).fnc = s.fnc ∧
    (receiveBlock off bs s).fuse = s.fuse ∧ (receiveBlock off bs s).fw = s.fw ∧ (receiveBlock off bs s).lat = s.lat ∧
    (receiveBlock off bs s).cfg = s.cfg ∧ (receiveBlock off bs s).hif = s.hif ∧ (receiveBlock off bs s).qps = s.qps ∧
    (receiveBlock off bs s).tags = s.tags ∧ (receiveBlock off bs s).cmds = s.cmds ∧ (receiveBlock off bs s).fetchSeq = s.fetchSeq ∧
    (receiveBlock off bs s).elog = s.elog ∧ (receiveBlock off bs s).elogSeq = s.elogSeq ∧ (receiveBlock off bs s).facets = s.facets ∧
    (receiveBlock off bs s).idx = s.idx ∧ (receiveBlock off bs s).mods = s.mods ∧ (receiveBlock off bs s).srch = s.srch ∧
    (receiveBlock off bs s).flash = s.flash ∧ (receiveBlock off bs s).mem = s.mem ∧ (receiveBlock off bs s).chd = s.chd ∧
    (receiveBlock off bs s).serial = s.serial ∧ (receiveBlock off bs s).free = s.free ∧ (receiveBlock off bs s).pending = s.pending := by
  unfold receiveBlock
  repeat' (first | (simp; done) | split | (dsimp only; split))

@[simp] theorem storeBuffer_rest (v : Byte) (s : State) :
    (storeBuffer v s).brd = s.brd ∧ (storeBuffer v s).evr = s.evr ∧ (storeBuffer v s).fnc = s.fnc ∧ (storeBuffer v s).fuse = s.fuse ∧
    (storeBuffer v s).lat = s.lat ∧ (storeBuffer v s).cfg = s.cfg ∧ (storeBuffer v s).hif = s.hif ∧ (storeBuffer v s).qps = s.qps ∧
    (storeBuffer v s).tags = s.tags ∧ (storeBuffer v s).cmds = s.cmds ∧ (storeBuffer v s).fetchSeq = s.fetchSeq ∧
    (storeBuffer v s).elog = s.elog ∧ (storeBuffer v s).elogSeq = s.elogSeq ∧ (storeBuffer v s).facets = s.facets ∧
    (storeBuffer v s).idx = s.idx ∧ (storeBuffer v s).mods = s.mods ∧ (storeBuffer v s).srch = s.srch ∧
    (storeBuffer v s).flash = s.flash ∧ (storeBuffer v s).mem = s.mem ∧ (storeBuffer v s).chd = s.chd ∧
    (storeBuffer v s).serial = s.serial ∧ (storeBuffer v s).free = s.free ∧ (storeBuffer v s).pending = s.pending := by
  unfold storeBuffer
  repeat' (first | (simp; done) | split | (dsimp only; split))

@[simp] theorem promoteFacet_rest (s : State) (r : FacetRec) :
    (promoteFacet s r).brd = s.brd ∧ (promoteFacet s r).evr = s.evr ∧ (promoteFacet s r).fnc = s.fnc ∧ (promoteFacet s r).fuse = s.fuse ∧
    (promoteFacet s r).fw = s.fw ∧ (promoteFacet s r).lat = s.lat ∧ (promoteFacet s r).cfg = s.cfg ∧ (promoteFacet s r).hif = s.hif ∧
    (promoteFacet s r).qps = s.qps ∧ (promoteFacet s r).tags = s.tags ∧ (promoteFacet s r).cmds = s.cmds ∧
    (promoteFacet s r).fetchSeq = s.fetchSeq ∧ (promoteFacet s r).elog = s.elog ∧ (promoteFacet s r).elogSeq = s.elogSeq ∧
    (promoteFacet s r).idx = s.idx ∧ (promoteFacet s r).mods = s.mods ∧ (promoteFacet s r).chd = s.chd ∧
    (promoteFacet s r).side = s.side ∧ (promoteFacet s r).serial = s.serial ∧ (promoteFacet s r).out = s.out ∧
    (promoteFacet s r).free = s.free ∧ (promoteFacet s r).pending = s.pending := by
  unfold promoteFacet
  repeat' (first | (simp; done) | split | (dsimp only; split) | (have hA := allJobs_rest _ _ _ _ _ _ (by assumption); simp [hA]; done))

@[simp] theorem promotionCycle_rest (s : State) :
    (promotionCycle s).brd = s.brd ∧ (promotionCycle s).evr = s.evr ∧ (promotionCycle s).fnc = s.fnc ∧ (promotionCycle s).fuse = s.fuse ∧
    (promotionCycle s).fw = s.fw ∧ (promotionCycle s).lat = s.lat ∧ (promotionCycle s).cfg = s.cfg ∧ (promotionCycle s).hif = s.hif ∧
    (promotionCycle s).qps = s.qps ∧ (promotionCycle s).tags = s.tags ∧ (promotionCycle s).cmds = s.cmds ∧
    (promotionCycle s).fetchSeq = s.fetchSeq ∧ (promotionCycle s).elog = s.elog ∧ (promotionCycle s).elogSeq = s.elogSeq ∧
    (promotionCycle s).idx = s.idx ∧ (promotionCycle s).mods = s.mods ∧ (promotionCycle s).chd = s.chd ∧
    (promotionCycle s).side = s.side ∧ (promotionCycle s).serial = s.serial ∧ (promotionCycle s).out = s.out ∧
    (promotionCycle s).free = s.free ∧ (promotionCycle s).pending = s.pending := by
  have key := @foldl_ind (fun u : State => u.brd = s.brd ∧ u.evr = s.evr ∧ u.fnc = s.fnc ∧ u.fuse = s.fuse ∧ u.fw = s.fw ∧ u.lat = s.lat ∧ u.cfg = s.cfg ∧ u.hif = s.hif ∧
      u.qps = s.qps ∧ u.tags = s.tags ∧ u.cmds = s.cmds ∧ u.fetchSeq = s.fetchSeq ∧ u.elog = s.elog ∧ u.elogSeq = s.elogSeq ∧
      u.idx = s.idx ∧ u.mods = s.mods ∧ u.chd = s.chd ∧ u.side = s.side ∧ u.serial = s.serial ∧ u.out = s.out ∧ u.free = s.free ∧
      u.pending = s.pending)
  unfold promotionCycle
  repeat' (first | (simp; done) | split | (dsimp only; split) | refine key _ _ _ ?_ ?_ |
    (dsimp only; refine key _ _ _ ?_ ?_) | intro t x h | (simp [h]; done))

@[simp] theorem patrol_rest (hbm flash : Bool) (s : State) :
    (patrol hbm flash s).brd = s.brd ∧ (patrol hbm flash s).evr = s.evr ∧ (patrol hbm flash s).fnc = s.fnc ∧
    (patrol hbm flash s).fuse = s.fuse ∧ (patrol hbm flash s).fw = s.fw ∧ (patrol hbm flash s).lat = s.lat ∧
    (patrol hbm flash s).cfg = s.cfg ∧ (patrol hbm flash s).hif = s.hif ∧ (patrol hbm flash s).qps = s.qps ∧
    (patrol hbm flash s).tags = s.tags ∧ (patrol hbm flash s).cmds = s.cmds ∧ (patrol hbm flash s).fetchSeq = s.fetchSeq ∧
    (patrol hbm flash s).elog = s.elog ∧ (patrol hbm flash s).elogSeq = s.elogSeq ∧ (patrol hbm flash s).idx = s.idx ∧
    (patrol hbm flash s).mods = s.mods ∧ (patrol hbm flash s).chd = s.chd ∧ (patrol hbm flash s).side = s.side ∧
    (patrol hbm flash s).serial = s.serial ∧ (patrol hbm flash s).out = s.out ∧ (patrol hbm flash s).free = s.free ∧
    (patrol hbm flash s).pending = s.pending := by
  have key : ∀ (l : List FacetRec) (o : Option State), (∀ u, o = some u → (u).brd = s.brd ∧ (u).evr = s.evr ∧ (u).fnc = s.fnc ∧ (u).fuse = s.fuse ∧ (u).fw = s.fw ∧ (u).lat = s.lat ∧ (u).cfg = s.cfg ∧
    (u).hif = s.hif ∧ (u).qps = s.qps ∧ (u).tags = s.tags ∧ (u).cmds = s.cmds ∧ (u).fetchSeq = s.fetchSeq ∧ (u).elog = s.elog ∧
    (u).elogSeq = s.elogSeq ∧ (u).idx = s.idx ∧ (u).mods = s.mods ∧ (u).chd = s.chd ∧ (u).side = s.side ∧ (u).serial = s.serial ∧
    (u).out = s.out ∧ (u).free = s.free ∧ (u).pending = s.pending) →
      ∀ t, l.foldl (fun (acc : Option State) r => acc.bind fun t => allJobs r.facet 7 .ended (patrolJobs t hbm flash r.facet) t) o = some t →
      (t).brd = s.brd ∧ (t).evr = s.evr ∧ (t).fnc = s.fnc ∧ (t).fuse = s.fuse ∧ (t).fw = s.fw ∧ (t).lat = s.lat ∧ (t).cfg = s.cfg ∧
    (t).hif = s.hif ∧ (t).qps = s.qps ∧ (t).tags = s.tags ∧ (t).cmds = s.cmds ∧ (t).fetchSeq = s.fetchSeq ∧ (t).elog = s.elog ∧
    (t).elogSeq = s.elogSeq ∧ (t).idx = s.idx ∧ (t).mods = s.mods ∧ (t).chd = s.chd ∧ (t).side = s.side ∧ (t).serial = s.serial ∧
    (t).out = s.out ∧ (t).free = s.free ∧ (t).pending = s.pending := by
    intro l
    induction l with
    | nil => intro o ho t ht; exact ho t ht
    | cons r l ih =>
      intro o ho t ht
      refine ih _ ?_ t ht
      intro u hu
      simp only [Option.bind_eq_some_iff] at hu
      obtain ⟨v, hv, hu⟩ := hu
      simp only [allJobs_rest _ _ _ _ _ _ hu, ho v hv, and_self]
  unfold patrol
  split
  · simp
  · dsimp only
    split
    · simp
    · rename_i t hd
      have h := key s.cfg.facets (some s) (by rintro u ⟨⟩; simp) t hd
      repeat' (first | (simp [h]; done) | split)

@[simp] theorem lendEscapes_rest (r f seq n : Nat) (s : State) :
    (lendEscapes r f seq n s).brd = s.brd ∧ (lendEscapes r f seq n s).evr = s.evr ∧ (lendEscapes r f seq n s).fnc = s.fnc ∧
    (lendEscapes r f seq n s).fuse = s.fuse ∧ (lendEscapes r f seq n s).fw = s.fw ∧ (lendEscapes r f seq n s).lat = s.lat ∧
    (lendEscapes r f seq n s).cfg = s.cfg ∧ (lendEscapes r f seq n s).hif = s.hif ∧ (lendEscapes r f seq n s).qps = s.qps ∧
    (lendEscapes r f seq n s).tags = s.tags ∧ (lendEscapes r f seq n s).cmds = s.cmds ∧ (lendEscapes r f seq n s).fetchSeq = s.fetchSeq ∧
    (lendEscapes r f seq n s).elog = s.elog ∧ (lendEscapes r f seq n s).elogSeq = s.elogSeq ∧
    (lendEscapes r f seq n s).facets = s.facets ∧ (lendEscapes r f seq n s).idx = s.idx ∧ (lendEscapes r f seq n s).mods = s.mods ∧
    (lendEscapes r f seq n s).srch = s.srch ∧ (lendEscapes r f seq n s).flash = s.flash ∧ (lendEscapes r f seq n s).chd = s.chd ∧
    (lendEscapes r f seq n s).side = s.side ∧ (lendEscapes r f seq n s).serial = s.serial ∧ (lendEscapes r f seq n s).out = s.out ∧
    (lendEscapes r f seq n s).free = s.free ∧ (lendEscapes r f seq n s).pending = s.pending := by
  unfold lendEscapes
  repeat' (first | (simp; done) | split | (dsimp only; split))

@[simp] theorem serveStall_rest (w : Stall) (s : State) :
    (serveStall w s).brd = s.brd ∧ (serveStall w s).fnc = s.fnc ∧ (serveStall w s).fuse = s.fuse ∧ (serveStall w s).fw = s.fw ∧
    (serveStall w s).lat = s.lat ∧ (serveStall w s).cfg = s.cfg ∧ (serveStall w s).qps = s.qps ∧ (serveStall w s).tags = s.tags ∧
    (serveStall w s).cmds = s.cmds ∧ (serveStall w s).fetchSeq = s.fetchSeq ∧ (serveStall w s).elog = s.elog ∧
    (serveStall w s).elogSeq = s.elogSeq ∧ (serveStall w s).idx = s.idx ∧ (serveStall w s).mods = s.mods ∧
    (serveStall w s).srch = s.srch ∧ (serveStall w s).flash = s.flash ∧ (serveStall w s).chd = s.chd ∧ (serveStall w s).side = s.side ∧
    (serveStall w s).serial = s.serial ∧ (serveStall w s).free = s.free ∧ (serveStall w s).pending = s.pending := by
  unfold serveStall
  repeat' (first | (simp; done) | split | (dsimp only; split))

@[simp] theorem waitCheck_rest (w : Stall) (s : State) :
    (waitCheck w s).brd = s.brd ∧ (waitCheck w s).fnc = s.fnc ∧ (waitCheck w s).fuse = s.fuse ∧ (waitCheck w s).fw = s.fw ∧
    (waitCheck w s).lat = s.lat ∧ (waitCheck w s).cfg = s.cfg ∧ (waitCheck w s).qps = s.qps ∧ (waitCheck w s).tags = s.tags ∧
    (waitCheck w s).cmds = s.cmds ∧ (waitCheck w s).fetchSeq = s.fetchSeq ∧ (waitCheck w s).elog = s.elog ∧
    (waitCheck w s).elogSeq = s.elogSeq ∧ (waitCheck w s).idx = s.idx ∧ (waitCheck w s).mods = s.mods ∧ (waitCheck w s).srch = s.srch ∧
    (waitCheck w s).flash = s.flash ∧ (waitCheck w s).chd = s.chd ∧ (waitCheck w s).side = s.side ∧ (waitCheck w s).serial = s.serial ∧
    (waitCheck w s).free = s.free ∧ (waitCheck w s).pending = s.pending := by
  have key := @foldl_ind (fun u : State => u.brd = s.brd ∧ u.fnc = s.fnc ∧ u.fuse = s.fuse ∧ u.fw = s.fw ∧ u.lat = s.lat ∧ u.cfg = s.cfg ∧ u.qps = s.qps ∧ u.tags = s.tags ∧
      u.cmds = s.cmds ∧ u.fetchSeq = s.fetchSeq ∧ u.elog = s.elog ∧ u.elogSeq = s.elogSeq ∧ u.idx = s.idx ∧ u.mods = s.mods ∧
      u.srch = s.srch ∧ u.flash = s.flash ∧ u.chd = s.chd ∧ u.side = s.side ∧ u.serial = s.serial ∧ u.free = s.free ∧
      u.pending = s.pending)
  unfold waitCheck
  repeat' (first | (simp; done) | split | (dsimp only; split) | refine key _ _ _ ?_ ?_ |
    (dsimp only; refine key _ _ _ ?_ ?_) | intro t x h | (simp [h]; done))

@[simp] theorem latticeApply_rest (fault : Option Nat) (s : State) :
    (latticeApply fault s).fnc = s.fnc ∧ (latticeApply fault s).fuse = s.fuse ∧ (latticeApply fault s).fetchSeq = s.fetchSeq ∧
    (latticeApply fault s).side = s.side ∧ (latticeApply fault s).serial = s.serial ∧ (latticeApply fault s).pending = s.pending := by
  unfold latticeApply
  repeat' (first | (simp; done) | split | (dsimp only; split))

@[simp] theorem regionReshape_rest (liveMiB : Nat) (fault : Option Nat) (s : State) :
    (regionReshape liveMiB fault s).fnc = s.fnc ∧ (regionReshape liveMiB fault s).fuse = s.fuse ∧
    (regionReshape liveMiB fault s).fetchSeq = s.fetchSeq ∧ (regionReshape liveMiB fault s).side = s.side ∧
    (regionReshape liveMiB fault s).serial = s.serial ∧ (regionReshape liveMiB fault s).pending = s.pending := by
  unfold regionReshape
  repeat' (first | (simp; done) | split | (dsimp only; split))

@[simp] theorem scrubComplete_rest (f : Nat) (s : State) :
    (scrubComplete f s).brd = s.brd ∧ (scrubComplete f s).evr = s.evr ∧ (scrubComplete f s).fnc = s.fnc ∧
    (scrubComplete f s).fuse = s.fuse ∧ (scrubComplete f s).fw = s.fw ∧ (scrubComplete f s).lat = s.lat ∧
    (scrubComplete f s).cfg = s.cfg ∧ (scrubComplete f s).hif = s.hif ∧ (scrubComplete f s).qps = s.qps ∧
    (scrubComplete f s).tags = s.tags ∧ (scrubComplete f s).cmds = s.cmds ∧ (scrubComplete f s).fetchSeq = s.fetchSeq ∧
    (scrubComplete f s).elog = s.elog ∧ (scrubComplete f s).elogSeq = s.elogSeq ∧ (scrubComplete f s).idx = s.idx ∧
    (scrubComplete f s).mods = s.mods ∧ (scrubComplete f s).mem = s.mem ∧ (scrubComplete f s).chd = s.chd ∧
    (scrubComplete f s).side = s.side ∧ (scrubComplete f s).serial = s.serial ∧ (scrubComplete f s).out = s.out ∧
    (scrubComplete f s).free = s.free ∧ (scrubComplete f s).pending = s.pending := by
  unfold scrubComplete
  repeat' (first | (simp; done) | split | (dsimp only; split))

@[simp] theorem tick_rest (s : State) :
    (tick s).evr = s.evr ∧ (tick s).fnc = s.fnc ∧ (tick s).fuse = s.fuse ∧ (tick s).fw = s.fw ∧ (tick s).lat = s.lat ∧
    (tick s).cfg = s.cfg ∧ (tick s).hif = s.hif ∧ (tick s).qps = s.qps ∧ (tick s).tags = s.tags ∧ (tick s).cmds = s.cmds ∧
    (tick s).fetchSeq = s.fetchSeq ∧ (tick s).elog = s.elog ∧ (tick s).elogSeq = s.elogSeq ∧ (tick s).facets = s.facets ∧
    (tick s).idx = s.idx ∧ (tick s).mods = s.mods ∧ (tick s).srch = s.srch ∧ (tick s).flash = s.flash ∧ (tick s).mem = s.mem ∧
    (tick s).chd = s.chd ∧ (tick s).side = s.side ∧ (tick s).serial = s.serial ∧ (tick s).out = s.out ∧ (tick s).free = s.free ∧
    (tick s).pending = s.pending := by
  have key := @foldl_ind (fun u : State => u.evr = s.evr ∧ u.fnc = s.fnc ∧ u.fuse = s.fuse ∧ u.fw = s.fw ∧ u.lat = s.lat ∧ u.cfg = s.cfg ∧ u.hif = s.hif ∧ u.qps = s.qps ∧
      u.tags = s.tags ∧ u.cmds = s.cmds ∧ u.fetchSeq = s.fetchSeq ∧ u.elog = s.elog ∧ u.elogSeq = s.elogSeq ∧ u.facets = s.facets ∧
      u.idx = s.idx ∧ u.mods = s.mods ∧ u.srch = s.srch ∧ u.flash = s.flash ∧ u.mem = s.mem ∧ u.chd = s.chd ∧ u.side = s.side ∧
      u.serial = s.serial ∧ u.out = s.out ∧ u.free = s.free ∧ u.pending = s.pending)
  unfold tick
  repeat' (first | (simp; done) | split | (dsimp only; split) | refine key _ _ _ ?_ ?_ |
    (dsimp only; refine key _ _ _ ?_ ?_) | intro t x h | (simp [h]; done))

end Sys2Proof.Machine
end

