-- ==== Sys2Proof/Laws/Bounds.lean ====
section
/-! SUPPORT. Each operation on the whole state keeps the bounds of the recorder, the error log, the replacement pool and the clock,
and the canonical form of the sparse buffers. -/

set_option linter.unreachableTactic false
set_option linter.unusedTactic false
set_option linter.unusedSimpArgs false
set_option linter.unusedVariables false

namespace Sys2Proof.Machine

/-- The bounds, over the fields they are about. -/
structure Bnd (r : List EvRec) (l : List ErrEnt) (p mhz : Nat) (a b c : List Host.Cell) : Prop where
  recs : r.length ≤ 16384
  elog : l.length ≤ 256
  pool : p ≤ 64
  slow : 100 ≤ mhz
  fast : mhz ≤ 1400
  a : cellsWf 0 a = true
  b : cellsWf 0 b = true
  c : cellsWf 0 c = true

/-- The bounds of a state. -/
abbrev Bounded (s : State) : Prop := Bnd s.evr.recs s.elog s.mem.pool s.brd.coreMhz s.fw.staging s.side.buf s.hif.msixTable
theorem ite_b (c : Prop) [Decidable c] (a b : State) (ha : Bounded a) (hb : Bounded b) : Bounded (if c then a else b) := by
  split
  · exact ha
  · exact hb

theorem foldl_b {α : Type} (f : State → α → State) (l : List α) (s : State) (hs : Bounded s) (h : ∀ t x, Bounded t → Bounded (f t x)) :
    Bounded (l.foldl f s) := by
  induction l generalizing s with
  | nil => exact hs
  | cons a l ih => exact ih _ (h _ _ hs)

theorem countHealth_b (before after : State) (h : Bounded after) :
    Bounded (countHealth before after) := by
  unfold countHealth
  repeat' (first | with_reducible assumption | split | (dsimp only; split) | (with_reducible refine foldl_b _ _ _ ?_ ?_) | (intro t x ht) | (dsimp only))

theorem emit_b (o : Out) (s : State) (h : Bounded s) :
    Bounded (emit o s) := by
  unfold emit
  repeat' (first | with_reducible assumption | split | (dsimp only; split) | (with_reducible refine foldl_b _ _ _ ?_ ?_) | (intro t x ht) | (dsimp only))

theorem updFacet_b (f : Nat) (g : Facet → Facet) (s : State) (h : Bounded s) :
    Bounded (updFacet f g s) := by
  unfold updFacet
  repeat' (first | with_reducible assumption | split | (dsimp only; split) | (with_reducible refine foldl_b _ _ _ ?_ ?_) | (intro t x ht) | (dsimp only))

theorem updIdx_b (f slot : Nat) (g : Index → Index) (s : State) (h : Bounded s) :
    Bounded (updIdx f slot g s) := by
  unfold updIdx
  repeat' (first | with_reducible assumption | split | (dsimp only; split) | (with_reducible refine foldl_b _ _ _ ?_ ?_) | (intro t x ht) | (dsimp only))

theorem updMod_b (f slot : Nat) (g : ModelSlot → ModelSlot) (s : State) (h : Bounded s) :
    Bounded (updMod f slot g s) := by
  unfold updMod
  repeat' (first | with_reducible assumption | split | (dsimp only; split) | (with_reducible refine foldl_b _ _ _ ?_ ?_) | (intro t x ht) | (dsimp only))

theorem updQp_b (q : Nat) (g : Qp → Qp) (s : State) (h : Bounded s) :
    Bounded (updQp q g s) := by
  unfold updQp
  repeat' (first | with_reducible assumption | split | (dsimp only; split) | (with_reducible refine foldl_b _ _ _ ?_ ?_) | (intro t x ht) | (dsimp only))

theorem updCmd_b (t : Nat) (g : Cmd → Cmd) (s : State) (h : Bounded s) :
    Bounded (updCmd t g s) := by
  unfold updCmd
  repeat' (first | with_reducible assumption | split | (dsimp only; split) | (with_reducible refine foldl_b _ _ _ ?_ ?_) | (intro t x ht) | (dsimp only))

theorem updQuery_b (x : Nat) (g : Query → Query) (s : State) (h : Bounded s) :
    Bounded (updQuery x g s) := by
  unfold updQuery
  repeat' (first | with_reducible assumption | split | (dsimp only; split) | (with_reducible refine foldl_b _ _ _ ?_ ?_) | (intro t x ht) | (dsimp only))

theorem bump_b (f k n : Nat) (s : State) (h : Bounded s) :
    Bounded (bump f k n s) := by
  unfold bump
  repeat' (first | with_reducible assumption | split | (dsimp only; split) | with_reducible apply updFacet_b | (with_reducible refine foldl_b _ _ _ ?_ ?_) | (intro t x ht) | (dsimp only))

theorem bumpRas_b (k n : Nat) (s : State) (h : Bounded s) :
    Bounded (bumpRas k n s) := by
  unfold bumpRas
  repeat' (first | with_reducible assumption | split | (dsimp only; split) | (with_reducible refine foldl_b _ _ _ ?_ ?_) | (intro t x ht) | (dsimp only))

theorem badAccess_b (s : State) (h : Bounded s) :
    Bounded (badAccess s) := by
  unfold badAccess
  repeat' (first | with_reducible assumption | split | (dsimp only; split) | (with_reducible refine foldl_b _ _ _ ?_ ?_) | (intro t x ht) | (dsimp only))

theorem useFree_b (s : State) (h : Bounded s) :
    Bounded (useFree s) := by
  unfold useFree
  repeat' (first | with_reducible assumption | split | (dsimp only; split) | (with_reducible refine foldl_b _ _ _ ?_ ?_) | (intro t x ht) | (dsimp only))

theorem sendMsi_b (v : Nat) (s : State) (h : Bounded s) :
    Bounded (sendMsi v s) := by
  unfold sendMsi
  repeat' (first | with_reducible assumption | split | (dsimp only; split) | with_reducible apply emit_b | (with_reducible refine foldl_b _ _ _ ?_ ?_) | (intro t x ht) | (dsimp only))

theorem writeRec_len (r : EvRec) (e : Recorder) (h : e.recs.length ≤ 16384) : (writeRec r e).recs.length ≤ 16384 := by
  unfold writeRec
  dsimp only
  split <;> simp <;> omega

theorem mergeRec_len (r : EvRec) (e e' : Recorder) (h : e.recs.length ≤ 16384) (hm : mergeRec r e = some e') :
    e'.recs.length ≤ 16384 := by
  unfold mergeRec at hm
  split at hm
  · rename_i l hl
    split at hm
    · cases hm
      have : e.recs ≠ [] := by rintro hn; simp [hn] at hl
      have := List.length_pos_iff.mpr this
      simp; omega
    · cases hm
  · cases hm

theorem offerRec_len (r : EvRec) (lim : Option Nat) (key : Nat) (e : Recorder) (h : e.recs.length ≤ 16384) :
    (offerRec r lim key e).recs.length ≤ 16384 := by
  unfold offerRec
  split
  · exact mergeRec_len _ _ _ h ‹_›
  · split
    · exact writeRec_len _ _ h
    · split
      · exact h
      · exact writeRec_len _ _ h

theorem endFreeze_b (s : State) (h : Bounded s) : Bounded (endFreeze s) := by
  unfold endFreeze
  split
  · exact ⟨offerRec_len _ _ _ _ h.1, h.2, h.3, h.4, h.5, h.6, h.7, h.8⟩
  · exact h

theorem recordSev_b (code sev subject : Nat) (snap : List Nat) (s : State) (h : Bounded s) :
    Bounded (recordSev code sev subject snap s) := by
  unfold recordSev
  split
  · exact h
  · split
    · exact sendMsi_b _ _ h
    · have h1 := endFreeze_b s h
      exact sendMsi_b _ _ ⟨offerRec_len _ _ _ _ h1.1, h1.2, h1.3, h1.4, h1.5, h1.6, h1.7, h1.8⟩

theorem record_b (code subject : Nat) (snap : List Nat) (s : State) (h : Bounded s) :
    Bounded (record code subject snap s) := by
  unfold record
  repeat' (first | with_reducible assumption | split | (dsimp only; split) | with_reducible apply recordSev_b | (with_reducible refine foldl_b _ _ _ ?_ ?_) | (intro t x ht) | (dsimp only))

theorem freezeWhere_b (p : Qp → Bool) (cause : Nat) (s : State) (h : Bounded s) :
    Bounded (freezeWhere p cause s) := by
  unfold freezeWhere
  repeat' (first | with_reducible assumption | split | (dsimp only; split) | (with_reducible refine foldl_b _ _ _ ?_ ?_) | (intro t x ht) | (dsimp only))

theorem freezeFacet_b (f cause : Nat) (s : State) (h : Bounded s) :
    Bounded (freezeFacet f cause s) := by
  unfold freezeFacet
  repeat' (first | with_reducible assumption | split | (dsimp only; split) | with_reducible apply updFacet_b | with_reducible apply freezeWhere_b | (with_reducible refine foldl_b _ _ _ ?_ ?_) | (intro t x ht) | (dsimp only))

theorem signalQp_b (q : Nat) (s : State) (h : Bounded s) :
    Bounded (signalQp q s) := by
  unfold signalQp
  repeat' (first | with_reducible assumption | split | (dsimp only; split) | with_reducible apply updQp_b | with_reducible apply sendMsi_b | (with_reducible refine foldl_b _ _ _ ?_ ?_) | (intro t x ht) | (dsimp only))

theorem updTag_b (t : Nat) (g : TagWord → TagWord) (s : State) (h : Bounded s) :
    Bounded (updTag t g s) := by
  unfold updTag
  repeat' (first | with_reducible assumption | split | (dsimp only; split) | (with_reducible refine foldl_b _ _ _ ?_ ?_) | (intro t x ht) | (dsimp only))

theorem logError_b (c : Cmd) (st : Nat) (at' : ErrAt) (s : State) (h : Bounded s) : Bounded (logError c st at' s) :=
  ⟨h.1, by simp only [logError, List.length_take]; omega, h.3, h.4, h.5, h.6, h.7, h.8⟩

theorem post_b (c : Cmd) (st0 flags epoch : Nat) (result : Bytes) (at' : ErrAt) (s : State) (h : Bounded s) :
    Bounded (post c st0 flags epoch result at' s) := by
  unfold post
  repeat' (first | with_reducible assumption | split | (dsimp only; split) | with_reducible apply emit_b | with_reducible apply updQp_b | with_reducible apply signalQp_b | with_reducible apply updTag_b | with_reducible apply logError_b | (with_reducible refine foldl_b _ _ _ ?_ ?_) | (intro t x ht) | (dsimp only))

theorem finish_b (c : Cmd) (st flags epoch : Nat) (result : Bytes) (at' : ErrAt) (s : State) (h : Bounded s) :
    Bounded (finish c st flags epoch result at' s) := by
  unfold finish
  repeat' (first | with_reducible assumption | split | (dsimp only; split) | with_reducible apply post_b | (with_reducible refine foldl_b _ _ _ ?_ ?_) | (intro t x ht) | (dsimp only))

theorem succeed_b (c : Cmd) (result : Bytes) (s : State) (h : Bounded s) :
    Bounded (succeed c result s) := by
  unfold succeed
  repeat' (first | with_reducible assumption | split | (dsimp only; split) | with_reducible apply finish_b | (with_reducible refine foldl_b _ _ _ ?_ ?_) | (intro t x ht) | (dsimp only))

theorem refuse_b (c : Cmd) (st check detail fld : Nat) (s : State) (h : Bounded s) :
    Bounded (refuse c st check detail fld s) := by
  unfold refuse
  repeat' (first | with_reducible assumption | split | (dsimp only; split) | with_reducible apply finish_b | (with_reducible refine foldl_b _ _ _ ?_ ?_) | (intro t x ht) | (dsimp only))

theorem writeHost_b (c : Cmd) (a : Nat) (bs : Bytes) (s : State) (h : Bounded s) :
    Bounded (writeHost c a bs s) := by
  unfold writeHost
  repeat' (first | with_reducible assumption | split | (dsimp only; split) | with_reducible apply emit_b | with_reducible apply updCmd_b | with_reducible apply bumpRas_b | with_reducible apply record_b | (with_reducible refine foldl_b _ _ _ ?_ ?_) | (intro t x ht) | (dsimp only))

theorem setPhase_b (t : Nat) (p : CmdPhase) (s : State) (h : Bounded s) :
    Bounded (setPhase t p s) := by
  unfold setPhase
  repeat' (first | with_reducible assumption | split | (dsimp only; split) | with_reducible apply updCmd_b | with_reducible apply updTag_b | (with_reducible refine foldl_b _ _ _ ?_ ?_) | (intro t x ht) | (dsimp only))

theorem markChanged_b (f : Nat) (s : State) (h : Bounded s) :
    Bounded (markChanged f s) := by
  unfold markChanged
  repeat' (first | with_reducible assumption | split | (dsimp only; split) | with_reducible apply updFacet_b | (with_reducible refine foldl_b _ _ _ ?_ ?_) | (intro t x ht) | (dsimp only))

theorem trimCache_b (f : Nat) (s : State) (h : Bounded s) :
    Bounded (trimCache f s) := by
  unfold trimCache
  repeat' (first | with_reducible assumption | split | (dsimp only; split) | (with_reducible refine foldl_b _ _ _ ?_ ?_) | (intro t x ht) | (dsimp only))

theorem charge_b (u f cls ticks : Nat) (borrowed : Bool) (s : State) (h : Bounded s) :
    Bounded (charge u f cls ticks borrowed s) := by
  unfold charge
  repeat' (first | with_reducible assumption | split | (dsimp only; split) | with_reducible apply bump_b | (with_reducible refine foldl_b _ _ _ ?_ ?_) | (intro t x ht) | (dsimp only))

theorem chargeFree_b (u f cls : Nat) (s : State) (h : Bounded s) :
    Bounded (chargeFree u f cls s) := by
  unfold chargeFree
  repeat' (first | with_reducible assumption | split | (dsimp only; split) | with_reducible apply useFree_b | with_reducible apply charge_b | (with_reducible refine foldl_b _ _ _ ?_ ?_) | (intro t x ht) | (dsimp only))

theorem chargeTiles_b (e f cls ticks : Nat) (s : State) (h : Bounded s) :
    Bounded (chargeTiles e f cls ticks s) := by
  unfold chargeTiles
  repeat' (first | with_reducible assumption | split | (dsimp only; split) | with_reducible apply charge_b | (with_reducible refine foldl_b _ _ _ ?_ ?_) | (intro t x ht) | (dsimp only))

theorem chargeWork_b (f cls : Nat) (s : State) (h : Bounded s) :
    Bounded (chargeWork f cls s) := by
  unfold chargeWork
  repeat' (first | with_reducible assumption | split | (dsimp only; split) | with_reducible apply chargeTiles_b | (with_reducible refine foldl_b _ _ _ ?_ ?_) | (intro t x ht) | (dsimp only))

theorem takeBytes_b (r f cls n size : Nat) (s : State) (h : Bounded s) :
    Bounded (takeBytes r f cls n size s) := by
  unfold takeBytes
  repeat' (first | with_reducible assumption | split | (dsimp only; split) | with_reducible apply bump_b | (with_reducible refine foldl_b _ _ _ ?_ ?_) | (intro t x ht) | (dsimp only))

theorem takeBorrowed_b (r f n : Nat) (s : State) (h : Bounded s) :
    Bounded (takeBorrowed r f n s) := by
  unfold takeBorrowed
  repeat' (first | with_reducible assumption | split | (dsimp only; split) | with_reducible apply bump_b | (with_reducible refine foldl_b _ _ _ ?_ ?_) | (intro t x ht) | (dsimp only))

theorem chargeGrants_b (ch f cls n ticks : Nat) (s : State) (h : Bounded s) :
    Bounded (chargeGrants ch f cls n ticks s) := by
  unfold chargeGrants
  repeat' (first | with_reducible assumption | split | (dsimp only; split) | with_reducible apply charge_b | (with_reducible refine foldl_b _ _ _ ?_ ?_) | (intro t x ht) | (dsimp only))

theorem moveUnits_b (ch f cls n : Nat) (s : State) (h : Bounded s) :
    Bounded (moveUnits ch f cls n s) := by
  unfold moveUnits
  repeat' (first | with_reducible assumption | split | (dsimp only; split) | with_reducible apply takeBytes_b | with_reducible apply chargeGrants_b | (with_reducible refine foldl_b _ _ _ ?_ ?_) | (intro t x ht) | (dsimp only))

theorem flashRuns_b (f cls p n : Nat) (s : State) (h : Bounded s) :
    Bounded (flashRuns f cls p n s) := by
  unfold flashRuns
  repeat' (first | with_reducible assumption | split | (dsimp only; split) | with_reducible apply bump_b | with_reducible apply useFree_b | with_reducible apply moveUnits_b | (with_reducible refine foldl_b _ _ _ ?_ ?_) | (intro t x ht) | (dsimp only))

theorem readHbm_b (f slot key cls base : Nat) (r : Nat × Nat) (s : State) (h : Bounded s) :
    Bounded (readHbm f slot key cls base r s) := by
  unfold readHbm
  repeat' (first | with_reducible assumption | split | (dsimp only; split) | with_reducible apply bump_b | with_reducible apply takeBytes_b | with_reducible apply flashRuns_b | (with_reducible refine foldl_b _ _ _ ?_ ?_) | (intro t x ht) | (dsimp only))

theorem rotateTo_b (a x : Nat) (s : State) (h : Bounded s) :
    Bounded (rotateTo a x s) := by
  unfold rotateTo
  repeat' (first | with_reducible assumption | split | (dsimp only; split) | (with_reducible refine foldl_b _ _ _ ?_ ?_) | (intro t x ht) | (dsimp only))

theorem chargeCell_b (x : CellSt) (s : State) (h : Bounded s) :
    Bounded (chargeCell x s) := by
  unfold chargeCell
  repeat' (first | with_reducible assumption | split | (dsimp only; split) | with_reducible apply charge_b | (with_reducible refine foldl_b _ _ _ ?_ ?_) | (intro t x ht) | (dsimp only))

theorem chargeEngine_b (e : Engine) (s : State) (h : Bounded s) :
    Bounded (chargeEngine e s) := by
  unfold chargeEngine
  repeat' (first | with_reducible assumption | split | (dsimp only; split) | with_reducible apply charge_b | (with_reducible refine foldl_b _ _ _ ?_ ?_) | (intro t x ht) | (dsimp only))

theorem updDie_b (ch d : Nat) (g : Die → Die) (s : State) (h : Bounded s) :
    Bounded (updDie ch d g s) := by
  unfold updDie
  repeat' (first | with_reducible assumption | split | (dsimp only; split) | (with_reducible refine foldl_b _ _ _ ?_ ?_) | (intro t x ht) | (dsimp only))

theorem startPlane_b (ch d p : Nat) (s : State) (h : Bounded s) :
    Bounded (startPlane ch d p s) := by
  unfold startPlane
  repeat' (first | with_reducible assumption | split | (dsimp only; split) | with_reducible apply updDie_b | (with_reducible refine foldl_b _ _ _ ?_ ?_) | (intro t x ht) | (dsimp only))

theorem startPlanes_b (ch d : Nat) (s : State) (h : Bounded s) :
    Bounded (startPlanes ch d s) := by
  unfold startPlanes
  repeat' (first | with_reducible assumption | split | (dsimp only; split) | with_reducible apply updDie_b | with_reducible apply startPlane_b | (with_reducible refine foldl_b _ _ _ ?_ ?_) | (intro t x ht) | (dsimp only))

theorem putPage_b (u : Unit') (e word gen : Nat) (s : State) (h : Bounded s) :
    Bounded (putPage u e word gen s) := by
  unfold putPage
  repeat' (first | with_reducible assumption | split | (dsimp only; split) | with_reducible apply useFree_b | (with_reducible refine foldl_b _ _ _ ?_ ?_) | (intro t x ht) | (dsimp only))

theorem joinParity_b (u : Unit') (s : State) (h : Bounded s) :
    Bounded (joinParity u s) := by
  unfold joinParity
  repeat' (first | with_reducible assumption | split | (dsimp only; split) | (with_reducible refine foldl_b _ _ _ ?_ ?_) | (intro t x ht) | (dsimp only))

theorem writeUnit_b (u : Unit') (s : State) (h : Bounded s) :
    Bounded (writeUnit u s) := by
  unfold writeUnit
  repeat' (first | with_reducible assumption | split | (dsimp only; split) | with_reducible apply putPage_b | with_reducible apply joinParity_b | (with_reducible refine foldl_b _ _ _ ?_ ?_) | (intro t x ht) | (dsimp only))

theorem dropPages_b (p : Unit' → Bool) (s : State) (h : Bounded s) :
    Bounded (dropPages p s) := by
  unfold dropPages
  repeat' (first | with_reducible assumption | split | (dsimp only; split) | (with_reducible refine foldl_b _ _ _ ?_ ?_) | (intro t x ht) | (dsimp only))

theorem freePages_b (f floor : Nat) (s : State) (h : Bounded s) :
    Bounded (freePages f floor s) := by
  unfold freePages
  repeat' (first | with_reducible assumption | split | (dsimp only; split) | (with_reducible refine foldl_b _ _ _ ?_ ?_) | (intro t x ht) | (dsimp only))

theorem queueRead_b (ch d : Nat) (r : Read) (s : State) (h : Bounded s) :
    Bounded (queueRead ch d r s) := by
  unfold queueRead
  repeat' (first | with_reducible assumption | split | (dsimp only; split) | with_reducible apply updDie_b | with_reducible apply startPlanes_b | (with_reducible refine foldl_b _ _ _ ?_ ?_) | (intro t x ht) | (dsimp only))

theorem issueRead_b (u : Unit') (cls : Nat) (deadline : Option Nat) (p : Purpose) (s : State) (h : Bounded s) :
    Bounded (issueRead u cls deadline p s) := by
  unfold issueRead
  repeat' (first | with_reducible assumption | split | (dsimp only; split) | with_reducible apply queueRead_b | (with_reducible refine foldl_b _ _ _ ?_ ?_) | (intro t x ht) | (dsimp only))

theorem freeReadTag_b (ch : Nat) (s : State) (h : Bounded s) :
    Bounded (freeReadTag ch s) := by
  unfold freeReadTag
  repeat' (first | with_reducible assumption | split | (dsimp only; split) | with_reducible apply queueRead_b | (with_reducible refine foldl_b _ _ _ ?_ ?_) | (intro t x ht) | (dsimp only))

theorem startReads_b (s : State) (h : Bounded s) :
    Bounded (startReads s) := by
  unfold startReads
  repeat' (first | with_reducible assumption | split | (dsimp only; split) | with_reducible apply startPlanes_b | with_reducible apply freeReadTag_b | (with_reducible refine foldl_b _ _ _ ?_ ?_) | (intro t x ht) | (dsimp only))

theorem dropReads_b (p : Purpose → Bool) (s : State) (h : Bounded s) :
    Bounded (dropReads p s) := by
  unfold dropReads
  repeat' (first | with_reducible assumption | split | (dsimp only; split) | (with_reducible refine foldl_b _ _ _ ?_ ?_) | (intro t x ht) | (dsimp only))

theorem chargeDie_b (d : Die) (s : State) (h : Bounded s) :
    Bounded (chargeDie d s) := by
  unfold chargeDie
  repeat' (first | with_reducible assumption | split | (dsimp only; split) | with_reducible apply charge_b | (with_reducible refine foldl_b _ _ _ ?_ ?_) | (intro t x ht) | (dsimp only))

theorem chargeRead_b (ch f cls : Nat) (borrowed : Bool) (s : State) (h : Bounded s) :
    Bounded (chargeRead ch f cls borrowed s) := by
  unfold chargeRead
  repeat' (first | with_reducible assumption | split | (dsimp only; split) | with_reducible apply charge_b | with_reducible apply takeBytes_b | with_reducible apply takeBorrowed_b | (with_reducible refine foldl_b _ _ _ ?_ ?_) | (intro t x ht) | (dsimp only))

theorem queueSeg_b (ch d pl : Nat) (block : Option Nat) (cls facet : Nat) (w : SegWork) (s : State) (h : Bounded s) :
    Bounded (queueSeg ch d pl block cls facet w s) := by
  unfold queueSeg
  repeat' (first | with_reducible assumption | split | (dsimp only; split) | with_reducible apply updDie_b | (with_reducible refine foldl_b _ _ _ ?_ ?_) | (intro t x ht) | (dsimp only))

theorem writePages_b (us : List Unit') (s : State) (h : Bounded s) :
    Bounded (writePages us s) := by
  unfold writePages
  repeat' (first | with_reducible assumption | split | (dsimp only; split) | with_reducible apply joinParity_b | with_reducible apply writeUnit_b | (with_reducible refine foldl_b _ _ _ ?_ ?_) | (intro t x ht) | (dsimp only))

theorem queueCmdSeg_b (cls facet tag : Nat) (s : State) (h : Bounded s) :
    Bounded (queueCmdSeg cls facet tag s) := by
  unfold queueCmdSeg
  repeat' (first | with_reducible assumption | split | (dsimp only; split) | with_reducible apply useFree_b | with_reducible apply queueSeg_b | (with_reducible refine foldl_b _ _ _ ?_ ?_) | (intro t x ht) | (dsimp only))

theorem dropSegs_b (p : Seg → Bool) (s : State) (h : Bounded s) :
    Bounded (dropSegs p s) := by
  unfold dropSegs
  repeat' (first | with_reducible assumption | split | (dsimp only; split) | (with_reducible refine foldl_b _ _ _ ?_ ?_) | (intro t x ht) | (dsimp only))

theorem startSegment_b (ch d : Nat) (s : State) (h : Bounded s) :
    Bounded (startSegment ch d s) := by
  unfold startSegment
  repeat' (first | with_reducible assumption | split | (dsimp only; split) | with_reducible apply rotateTo_b | with_reducible apply updDie_b | (with_reducible refine foldl_b _ _ _ ?_ ?_) | (intro t x ht) | (dsimp only))

theorem readOperand_b (t : Tile) (s : State) (h : Bounded s) :
    Bounded (readOperand t s) := by
  unfold readOperand
  repeat' (first | with_reducible assumption | split | (dsimp only; split) | with_reducible apply readHbm_b | (with_reducible refine foldl_b _ _ _ ?_ ?_) | (intro t x ht) | (dsimp only))

theorem chargePiece_b (f cls : Nat) (w : SegWork) (j : Job) (borrowed : Bool) (s : State) (h : Bounded s) :
    Bounded (chargePiece f cls w j borrowed s) := by
  unfold chargePiece
  repeat' (first | with_reducible assumption | split | (dsimp only; split) | with_reducible apply bump_b | with_reducible apply charge_b | with_reducible apply takeBytes_b | with_reducible apply takeBorrowed_b | with_reducible apply queueSeg_b | (with_reducible refine foldl_b _ _ _ ?_ ?_) | (intro t x ht) | (dsimp only))

theorem grantPieces_b (f cls : Nat) (w : SegWork) (j : Job) (n : Nat) (s : State) (h : Bounded s) :
    Bounded (grantPieces f cls w j n s).2 := by
  induction n generalizing s with
  | zero => exact h
  | succ n ih =>
    unfold grantPieces
    split
    · exact ih _ (chargePiece_b _ _ _ _ _ _ h)
    · split
      · exact ih _ (chargePiece_b _ _ _ _ _ _ h)
      · exact h

theorem runJobs_b (f cls : Nat) (w : SegWork) (js : List Job) (s : State) (h : Bounded s) :
    Bounded (runJobs f cls w js s).2 := by
  induction js generalizing s with
  | nil => exact h
  | cons j js ih =>
    unfold runJobs
    dsimp only
    split
    · exact ih _ (grantPieces_b _ _ _ _ _ _ h)
    · exact grantPieces_b _ _ _ _ _ _ h

theorem allJobs_b (f cls : Nat) (w : SegWork) (js : List Job) (s : State) (t : State) (h : Bounded s) (e : allJobs f cls w js s = some t) : Bounded t := by
  unfold allJobs at e
  dsimp only at e
  split at e
  · cases e; exact runJobs_b _ _ _ _ _ h
  · cases e

theorem allJobs_getD_b (f cls : Nat) (w : SegWork) (js : List Job) (s : State) (d : State) (hd : Bounded d) (h : Bounded s) : Bounded ((allJobs f cls w js s).getD d) := by
  cases e : allJobs f cls w js s with
  | none => exact hd
  | some t => exact allJobs_b _ _ _ _ _ _ h e

theorem arm_b (x : Strm) (depth : Nat) (s : State) (h : Bounded s) :
    Bounded (arm x depth s) := by
  unfold arm
  repeat' (first | with_reducible assumption | split | (dsimp only; split) | (with_reducible refine foldl_b _ _ _ ?_ ?_) | (intro t x ht) | (dsimp only))

theorem armStream_b (c f cls size tier base count rate : Nat) (s : State) (h : Bounded s) :
    Bounded (armStream c f cls size tier base count rate s) := by
  unfold armStream
  repeat' (first | with_reducible assumption | split | (dsimp only; split) | with_reducible apply arm_b | (with_reducible refine foldl_b _ _ _ ?_ ?_) | (intro t x ht) | (dsimp only))

theorem armRuns_b (u : Consumer) (region dst f cls tier base runs rate : Nat) (s : State) (h : Bounded s) :
    Bounded (armRuns u region dst f cls tier base runs rate s) := by
  unfold armRuns
  repeat' (first | with_reducible assumption | split | (dsimp only; split) | with_reducible apply arm_b | (with_reducible refine foldl_b _ _ _ ?_ ?_) | (intro t x ht) | (dsimp only))

theorem armToMemory_b (f slot cls size base count : Nat) (s : State) (h : Bounded s) :
    Bounded (armToMemory f slot cls size base count s) := by
  unfold armToMemory
  repeat' (first | with_reducible assumption | split | (dsimp only; split) | with_reducible apply arm_b | (with_reducible refine foldl_b _ _ _ ?_ ?_) | (intro t x ht) | (dsimp only))

theorem escapesBack_b (r n : Nat) (s : State) (h : Bounded s) :
    Bounded (escapesBack r n s) := by
  unfold escapesBack
  repeat' (first | with_reducible assumption | split | (dsimp only; split) | (with_reducible refine foldl_b _ _ _ ?_ ?_) | (intro t x ht) | (dsimp only))

theorem lessLoan_b (r f seq n : Nat) (s : State) (h : Bounded s) :
    Bounded (lessLoan r f seq n s) := by
  unfold lessLoan
  repeat' (first | with_reducible assumption | split | (dsimp only; split) | (with_reducible refine foldl_b _ _ _ ?_ ?_) | (intro t x ht) | (dsimp only))

theorem popStream_b (u : Consumer) (bytes : Nat) (s : State) (h : Bounded s) :
    Bounded (popStream u bytes s) := by
  unfold popStream
  repeat' (first | with_reducible assumption | split | (dsimp only; split) | with_reducible apply escapesBack_b | with_reducible apply lessLoan_b | with_reducible apply refill_b | (with_reducible refine foldl_b _ _ _ ?_ ?_) | (intro t x ht) | (dsimp only))

theorem returnEscapes_b (p : Nat → Nat → Bool) (s : State) (h : Bounded s) :
    Bounded (returnEscapes p s) := by
  unfold returnEscapes
  repeat' (first | with_reducible assumption | split | (dsimp only; split) | with_reducible apply escapesBack_b | (with_reducible refine foldl_b _ _ _ ?_ ?_) | (intro t x ht) | (dsimp only))

theorem drainBy_b (u : Consumer) (s : State) (h : Bounded s) :
    Bounded (drainBy u s) := by
  unfold drainBy
  repeat' (first | with_reducible assumption | split | (dsimp only; split) | with_reducible apply returnEscapes_b | (with_reducible refine foldl_b _ _ _ ?_ ?_) | (intro t x ht) | (dsimp only))

theorem drainStream_b (c : Nat) (s : State) (h : Bounded s) :
    Bounded (drainStream c s) := by
  unfold drainStream
  repeat' (first | with_reducible assumption | split | (dsimp only; split) | with_reducible apply drainBy_b | (with_reducible refine foldl_b _ _ _ ?_ ?_) | (intro t x ht) | (dsimp only))

theorem closeStreams_b (p : Strm → Bool) (s : State) (h : Bounded s) :
    Bounded (closeStreams p s) := by
  unfold closeStreams
  repeat' (first | with_reducible assumption | split | (dsimp only; split) | with_reducible apply returnEscapes_b | (with_reducible refine foldl_b _ _ _ ?_ ?_) | (intro t x ht) | (dsimp only))

theorem poisonHandle_b (u : Consumer) (b : Nat) (s : State) (h : Bounded s) :
    Bounded (poisonHandle u b s) := by
  unfold poisonHandle
  repeat' (first | with_reducible assumption | split | (dsimp only; split) | (with_reducible refine foldl_b _ _ _ ?_ ?_) | (intro t x ht) | (dsimp only))

theorem storeChecks_b (f slot : Nat) (l : List ((Nat × Nat) × Bytes)) (s : State) (h : Bounded s) :
    Bounded (storeChecks f slot l s) := by
  unfold storeChecks
  repeat' (first | with_reducible assumption | split | (dsimp only; split) | (with_reducible refine foldl_b _ _ _ ?_ ?_) | (intro t x ht) | (dsimp only))

theorem keepChecks_b (f slot key : Nat) (s : State) (h : Bounded s) :
    Bounded (keepChecks f slot key s) := by
  unfold keepChecks
  repeat' (first | with_reducible assumption | split | (dsimp only; split) | with_reducible apply storeChecks_b | (with_reducible refine foldl_b _ _ _ ?_ ?_) | (intro t x ht) | (dsimp only))

theorem keepTables_b (f slot : Nat) (s : State) (h : Bounded s) :
    Bounded (keepTables f slot s) := by
  unfold keepTables
  repeat' (first | with_reducible assumption | split | (dsimp only; split) | with_reducible apply storeChecks_b | (with_reducible refine foldl_b _ _ _ ?_ ?_) | (intro t x ht) | (dsimp only))

theorem keepAll_b (f slot : Nat) (s : State) (h : Bounded s) :
    Bounded (keepAll f slot s) := by
  unfold keepAll
  repeat' (first | with_reducible assumption | split | (dsimp only; split) | with_reducible apply keepChecks_b | with_reducible apply keepTables_b | (with_reducible refine foldl_b _ _ _ ?_ ?_) | (intro t x ht) | (dsimp only))

theorem keepWeights_b (f slot : Nat) (s : State) (h : Bounded s) :
    Bounded (keepWeights f slot s) := by
  unfold keepWeights
  repeat' (first | with_reducible assumption | split | (dsimp only; split) | with_reducible apply storeChecks_b | (with_reducible refine foldl_b _ _ _ ?_ ?_) | (intro t x ht) | (dsimp only))

theorem floorAdvance_b (f : Nat) (s : State) (h : Bounded s) :
    Bounded (floorAdvance f s) := by
  unfold floorAdvance
  repeat' (first | with_reducible assumption | split | (dsimp only; split) | with_reducible apply updFacet_b | with_reducible apply freePages_b | (with_reducible refine foldl_b _ _ _ ?_ ?_) | (intro t x ht) | (dsimp only))

theorem issueUnits_b (ix : Index) (cls : Nat) (mk : List Nat → Purpose) (ids : List Nat) (tag : Nat) (s : State) (h : Bounded s) :
    Bounded (issueUnits ix cls mk ids tag s) := by
  unfold issueUnits
  repeat' (first | with_reducible assumption | split | (dsimp only; split) | with_reducible apply updCmd_b | with_reducible apply issueRead_b | (with_reducible refine foldl_b _ _ _ ?_ ?_) | (intro t x ht) | (dsimp only))

theorem issueMap_b (ix : Index) (cls tag : Nat) (ids : List Nat) (s : State) (h : Bounded s) :
    Bounded (issueMap ix cls tag ids s) := by
  unfold issueMap
  repeat' (first | with_reducible assumption | split | (dsimp only; split) | with_reducible apply updCmd_b | with_reducible apply issueRead_b | (with_reducible refine foldl_b _ _ _ ?_ ?_) | (intro t x ht) | (dsimp only))

theorem receiveLock_b (c : Cmd) (s : State) (h : Bounded s) :
    Bounded (receiveLock c s) := by
  unfold receiveLock
  repeat' (first | with_reducible assumption | split | (dsimp only; split) | with_reducible apply updCmd_b | with_reducible apply setPhase_b | with_reducible apply issueUnits_b | with_reducible apply issueMap_b | (with_reducible refine foldl_b _ _ _ ?_ ?_) | (intro t x ht) | (dsimp only))

theorem takeLock_b (c : Cmd) (s : State) (h : Bounded s) :
    Bounded (takeLock c s) := by
  unfold takeLock
  repeat' (first | with_reducible assumption | split | (dsimp only; split) | with_reducible apply allJobs_getD_b | with_reducible apply receiveLock_b | (with_reducible refine allJobs_b _ _ _ _ _ _ ?_ (by assumption)) | (with_reducible refine foldl_b _ _ _ ?_ ?_) | (intro t x ht) | (dsimp only))

theorem grantLocks_b (s : State) (h : Bounded s) :
    Bounded (grantLocks s) := by
  unfold grantLocks
  repeat' (first | with_reducible assumption | split | (dsimp only; split) | with_reducible apply takeLock_b | (with_reducible refine foldl_b _ _ _ ?_ ?_) | (intro t x ht) | (dsimp only))

theorem logPrograms_b (f epoch n : Nat) (s : State) (h : Bounded s) : Bounded (logPrograms f epoch n s) := by
  fun_induction logPrograms f epoch n s
  · exact h
  · rename_i ih
    exact ih (by with_reducible apply queueSeg_b; exact updFacet_b _ _ _ h)

theorem appendLog_b (f epoch units : Nat) (close : Bool) (s : State) (h : Bounded s) :
    Bounded (appendLog f epoch units close s) := by
  unfold appendLog
  repeat' (first | with_reducible assumption | split | (dsimp only; split) | with_reducible apply updFacet_b | with_reducible apply logPrograms_b | (with_reducible refine foldl_b _ _ _ ?_ ?_) | (intro t x ht) | (dsimp only))

theorem closeReady_b (f n : Nat) (s : State) (h : Bounded s) : Bounded (closeReady f n s) := by
  fun_induction closeReady f n s
  · exact h
  · rename_i ih
    exact ih (appendLog_b _ _ _ _ _ h)
  · exact h

theorem completeWrite_b (c : Cmd) (forced : Bool) (s : State) (h : Bounded s) :
    Bounded (completeWrite c forced s) := by
  unfold completeWrite
  repeat' (first | with_reducible assumption | split | (dsimp only; split) | with_reducible apply finish_b | (with_reducible refine foldl_b _ _ _ ?_ ?_) | (intro t x ht) | (dsimp only))

theorem epochClose_b (f : Nat) (s : State) (h : Bounded s) :
    Bounded (epochClose f s) := by
  unfold epochClose
  repeat' (first | with_reducible assumption | split | (dsimp only; split) | with_reducible apply updFacet_b | with_reducible apply completeWrite_b | (with_reducible refine foldl_b _ _ _ ?_ ?_) | (intro t x ht) | (dsimp only))

theorem logUnitDone_b (f epoch : Nat) (s : State) (h : Bounded s) :
    Bounded (logUnitDone f epoch s) := by
  unfold logUnitDone
  repeat' (first | with_reducible assumption | split | (dsimp only; split) | with_reducible apply updFacet_b | with_reducible apply closeReady_b | with_reducible apply epochClose_b | (with_reducible refine foldl_b _ _ _ ?_ ?_) | (intro t x ht) | (dsimp only))

theorem beginFlush_b (c : Cmd) (s : State) (h : Bounded s) :
    Bounded (beginFlush c s) := by
  unfold beginFlush
  repeat' (first | with_reducible assumption | split | (dsimp only; split) | with_reducible apply updCmd_b | with_reducible apply setPhase_b | (with_reducible refine foldl_b _ _ _ ?_ ?_) | (intro t x ht) | (dsimp only))

theorem flushes_b (s : State) (h : Bounded s) :
    Bounded (flushes s) := by
  unfold flushes
  repeat' (first | with_reducible assumption | split | (dsimp only; split) | with_reducible apply succeed_b | (with_reducible refine foldl_b _ _ _ ?_ ?_) | (intro t x ht) | (dsimp only))

theorem tryFetch_b (c : Cmd) (s : State) (h : Bounded s) :
    Bounded (tryFetch c s) := by
  unfold tryFetch
  repeat' (first | with_reducible assumption | split | (dsimp only; split) | with_reducible apply finish_b | with_reducible apply writeHost_b | (with_reducible refine foldl_b _ _ _ ?_ ?_) | (intro t x ht) | (dsimp only))

theorem fetches_b (s : State) (h : Bounded s) :
    Bounded (fetches s) := by
  unfold fetches
  repeat' (first | with_reducible assumption | split | (dsimp only; split) | with_reducible apply tryFetch_b | (with_reducible refine foldl_b _ _ _ ?_ ?_) | (intro t x ht) | (dsimp only))

theorem countSketch_b (s0 : State) (ix : Index) (gen cls : Nat) (v : Bytes) (s : State) (h : Bounded s) :
    Bounded (countSketch s0 ix gen cls v s) := by
  unfold countSketch
  repeat' (first | with_reducible assumption | split | (dsimp only; split) | with_reducible apply bump_b | (with_reducible refine foldl_b _ _ _ ?_ ?_) | (intro t x ht) | (dsimp only))

theorem countSketches_b (s0 : State) (ix : Index) (cls : Nat) (vs : List Stored) (s : State) (h : Bounded s) :
    Bounded (countSketches s0 ix cls vs s) := by
  unfold countSketches
  repeat' (first | with_reducible assumption | split | (dsimp only; split) | with_reducible apply countSketch_b | (with_reducible refine foldl_b _ _ _ ?_ ?_) | (intro t x ht) | (dsimp only))

theorem deleteIds_b (f epoch : Nat) (slot : Nat) (ids : List Nat) (s : State) (h : Bounded s) :
    Bounded (deleteIds f epoch slot ids s) := by
  unfold deleteIds
  repeat' (first | with_reducible assumption | split | (dsimp only; split) | with_reducible apply updFacet_b | with_reducible apply updIdx_b | (with_reducible refine foldl_b _ _ _ ?_ ?_) | (intro t x ht) | (dsimp only))

theorem migForward_b (f slot : Nat) (w : MigWrite) (s : State) (h : Bounded s) :
    Bounded (migForward f slot w s) := by
  unfold migForward
  repeat' (first | with_reducible assumption | split | (dsimp only; split) | (with_reducible refine foldl_b _ _ _ ?_ ?_) | (intro t x ht) | (dsimp only))

theorem noteFlushes_b (c : Cmd) (s : State) (h : Bounded s) :
    Bounded (noteFlushes c s) := by
  unfold noteFlushes
  repeat' (first | with_reducible assumption | split | (dsimp only; split) | (with_reducible refine foldl_b _ _ _ ?_ ?_) | (intro t x ht) | (dsimp only))

theorem applyWrite_b (ix : Index) (c : Cmd) (ids : List Nat) (s : State) (h : Bounded s) :
    Bounded (applyWrite ix c ids s) := by
  unfold applyWrite
  repeat' (first | with_reducible assumption | split | (dsimp only; split) | with_reducible apply updIdx_b | with_reducible apply updCmd_b | with_reducible apply useFree_b | with_reducible apply setPhase_b | with_reducible apply markChanged_b | with_reducible apply rotateTo_b | with_reducible apply writePages_b | with_reducible apply keepChecks_b | with_reducible apply appendLog_b | with_reducible apply completeWrite_b | with_reducible apply countSketches_b | with_reducible apply deleteIds_b | with_reducible apply migForward_b | with_reducible apply noteFlushes_b | (with_reducible refine foldl_b _ _ _ ?_ ?_) | (intro t x ht) | (dsimp only))

theorem waitRoom_b (c : Cmd) (s : State) (h : Bounded s) :
    Bounded (waitRoom c s) := by
  unfold waitRoom
  repeat' (first | with_reducible assumption | split | (dsimp only; split) | with_reducible apply updCmd_b | with_reducible apply updTag_b | with_reducible apply counted_b | (with_reducible refine foldl_b _ _ _ ?_ ?_) | (intro t x ht) | (dsimp only))

theorem countWait_b (c : Cmd) (n : Nat) (s : State) (h : Bounded s) :
    Bounded (countWait c n s) := by
  unfold countWait
  repeat' (first | with_reducible assumption | split | (dsimp only; split) | with_reducible apply updCmd_b | with_reducible apply bump_b | with_reducible apply waitRoom_b | (with_reducible refine foldl_b _ _ _ ?_ ?_) | (intro t x ht) | (dsimp only))

theorem commitWrite_b (c : Cmd) (s : State) (h : Bounded s) :
    Bounded (commitWrite c s) := by
  unfold commitWrite
  repeat' (first | with_reducible assumption | split | (dsimp only; split) | with_reducible apply finish_b | with_reducible apply allJobs_getD_b | with_reducible apply applyWrite_b | with_reducible apply waitRoom_b | with_reducible apply countWait_b | (with_reducible refine allJobs_b _ _ _ _ _ _ ?_ (by assumption)) | (with_reducible refine foldl_b _ _ _ ?_ ?_) | (intro t x ht) | (dsimp only))

theorem updCell_b (c : Nat) (g : CellSt → CellSt) (s : State) (h : Bounded s) :
    Bounded (updCell c g s) := by
  unfold updCell
  repeat' (first | with_reducible assumption | split | (dsimp only; split) | (with_reducible refine foldl_b _ _ _ ?_ ?_) | (intro t x ht) | (dsimp only))

theorem cellWork_b (role f cls : Nat) (s : State) (t : State) (h : Bounded s) (e : cellWork role f cls s = some t) : Bounded t := by
  unfold cellWork at e
  try extract_lets at e
  repeat' (first | (cases e; done) | (cases e; with_reducible exact h) | (simp only [Option.map_eq_some_iff] at e; obtain ⟨c, -, rfl⟩ := e) | split at e | (cases e) | with_reducible apply useFree_b | with_reducible apply charge_b | with_reducible assumption)

theorem cellWork_getD_b (role f cls : Nat) (s : State) (d : State) (hd : Bounded d) (h : Bounded s) : Bounded ((cellWork role f cls s).getD d) := by
  cases e : cellWork role f cls s with
  | none => exact hd
  | some t => exact cellWork_b _ _ _ _ _ h e

theorem drainRows_b (e : Nat) (ix : Index) (t : Tile) (s : State) (h : Bounded s) :
    Bounded (drainRows e ix t s) := by
  unfold drainRows
  repeat' (first | with_reducible assumption | split | (dsimp only; split) | with_reducible apply updQuery_b | with_reducible apply bump_b | (with_reducible refine foldl_b _ _ _ ?_ ?_) | (intro t x ht) | (dsimp only))

theorem placeSliver_b (v : Sliver) (s : State) (h : Bounded s) :
    Bounded (placeSliver v s) := by
  unfold placeSliver
  repeat' (first | with_reducible assumption | split | (dsimp only; split) | with_reducible apply updFacet_b | (with_reducible refine foldl_b _ _ _ ?_ ?_) | (intro t x ht) | (dsimp only))

theorem cutSlivers_b (v : Sliver) (n lo hi : Nat) (s : State) (h : Bounded s) : Bounded (cutSlivers v n lo hi s) := by
  fun_induction cutSlivers v n lo hi s
  · exact h
  · exact h
  · rename_i ih
    exact ih (placeSliver_b _ _ h)

theorem joinStarted_b (ix : Index) (q : Query) (key rank : Nat) (v : Sliver) (s : State) (h : Bounded s) :
    Bounded (joinStarted ix q key rank v s) := by
  unfold joinStarted
  repeat' (first | with_reducible assumption | split | (dsimp only; split) | with_reducible apply cutSlivers_b | (with_reducible refine foldl_b _ _ _ ?_ ?_) | (intro t x ht) | (dsimp only))

theorem visit_b (ix : Index) (q : Query) (key rank : Nat) (s : State) (h : Bounded s) :
    Bounded (visit ix q key rank s) := by
  unfold visit
  repeat' (first | with_reducible assumption | split | (dsimp only; split) | with_reducible apply joinStarted_b | (with_reducible refine foldl_b _ _ _ ?_ ?_) | (intro t x ht) | (dsimp only))

theorem startGroup_b (v : Sliver) (s : State) (h : Bounded s) :
    Bounded (startGroup v s) := by
  unfold startGroup
  repeat' (first | with_reducible assumption | split | (dsimp only; split) | with_reducible apply cellWork_getD_b | with_reducible apply cutSlivers_b | (with_reducible refine cellWork_b _ _ _ _ _ ?_ (by assumption)) | (with_reducible refine foldl_b _ _ _ ?_ ?_) | (intro t x ht) | (dsimp only))

theorem startGroups_b (s : State) (h : Bounded s) :
    Bounded (startGroups s) := by
  unfold startGroups
  repeat' (first | with_reducible assumption | split | (dsimp only; split) | with_reducible apply startGroup_b | (with_reducible refine foldl_b _ _ _ ?_ ?_) | (intro t x ht) | (dsimp only))

theorem visitAll_b (ix : Index) (q : Query) (s : State) (h : Bounded s) :
    Bounded (visitAll ix q s) := by
  unfold visitAll
  repeat' (first | with_reducible assumption | split | (dsimp only; split) | with_reducible apply visit_b | (with_reducible refine foldl_b _ _ _ ?_ ?_) | (intro t x ht) | (dsimp only))

theorem queueShadow_b (q : Query) (s : State) (h : Bounded s) :
    Bounded (queueShadow q s) := by
  unfold queueShadow
  repeat' (first | with_reducible assumption | split | (dsimp only; split) | with_reducible apply bump_b | (with_reducible refine foldl_b _ _ _ ?_ ?_) | (intro t x ht) | (dsimp only))

theorem armSliver_b (c : Nat) (v : Sliver) (s : State) (h : Bounded s) :
    Bounded (armSliver c v s) := by
  unfold armSliver
  repeat' (first | with_reducible assumption | split | (dsimp only; split) | with_reducible apply armStream_b | with_reducible apply cellWork_getD_b | (with_reducible refine cellWork_b _ _ _ _ _ ?_ (by assumption)) | (with_reducible refine foldl_b _ _ _ ?_ ?_) | (intro t x ht) | (dsimp only))

theorem rotatePath_b (c : Nat) (v : Sliver) (s : State) (h : Bounded s) :
    Bounded (rotatePath c v s) := by
  unfold rotatePath
  repeat' (first | with_reducible assumption | split | (dsimp only; split) | with_reducible apply rotateTo_b | (with_reducible refine foldl_b _ _ _ ?_ ?_) | (intro t x ht) | (dsimp only))

theorem startSliver_b (c : Nat) (v : Sliver) (borrowed : Bool) (s : State) (h : Bounded s) :
    Bounded (startSliver c v borrowed s) := by
  unfold startSliver
  repeat' (first | with_reducible assumption | split | (dsimp only; split) | with_reducible apply updCell_b | with_reducible apply armSliver_b | with_reducible apply rotatePath_b | (with_reducible refine foldl_b _ _ _ ?_ ?_) | (intro t x ht) | (dsimp only))

theorem nextStream_b (c : Nat) (s : State) (h : Bounded s) :
    Bounded (nextStream c s) := by
  unfold nextStream
  repeat' (first | with_reducible assumption | split | (dsimp only; split) | with_reducible apply drainStream_b | with_reducible apply armSliver_b | (with_reducible refine foldl_b _ _ _ ?_ ?_) | (intro t x ht) | (dsimp only))

theorem claimNext_b (c : Nat) (s : State) (h : Bounded s) :
    Bounded (claimNext c s) := by
  unfold claimNext
  repeat' (first | with_reducible assumption | split | (dsimp only; split) | (with_reducible refine foldl_b _ _ _ ?_ ?_) | (intro t x ht) | (dsimp only))

theorem grantCell_b (c : Nat) (s : State) (h : Bounded s) :
    Bounded (grantCell c s) := by
  unfold grantCell
  repeat' (first | with_reducible assumption | split | (dsimp only; split) | with_reducible apply rotateTo_b | with_reducible apply startSliver_b | with_reducible apply claimNext_b | (with_reducible refine foldl_b _ _ _ ?_ ?_) | (intro t x ht) | (dsimp only))

theorem grantCells_b (s : State) (h : Bounded s) :
    Bounded (grantCells s) := by
  unfold grantCells
  repeat' (first | with_reducible assumption | split | (dsimp only; split) | with_reducible apply grantCell_b | (with_reducible refine foldl_b _ _ _ ?_ ?_) | (intro t x ht) | (dsimp only))

theorem takeStolen_b (c : Nat) (v : Sliver) (borrowed : Bool) (s : State) (h : Bounded s) :
    Bounded (takeStolen c v borrowed s) := by
  unfold takeStolen
  repeat' (first | with_reducible assumption | split | (dsimp only; split) | with_reducible apply rotateTo_b | with_reducible apply startSliver_b | (with_reducible refine foldl_b _ _ _ ?_ ?_) | (intro t x ht) | (dsimp only))

theorem startTile_b (e : Nat) (t : Tile) (borrowed : Bool) (s : State) (h : Bounded s) :
    Bounded (startTile e t borrowed s) := by
  unfold startTile
  repeat' (first | with_reducible assumption | split | (dsimp only; split) | (with_reducible refine foldl_b _ _ _ ?_ ?_) | (intro t x ht) | (dsimp only))

theorem grantEngine_b (n : Nat) (s : State) (h : Bounded s) :
    Bounded (grantEngine n s) := by
  unfold grantEngine
  repeat' (first | with_reducible assumption | split | (dsimp only; split) | with_reducible apply rotateTo_b | with_reducible apply readOperand_b | with_reducible apply startTile_b | (with_reducible refine foldl_b _ _ _ ?_ ?_) | (intro t x ht) | (dsimp only))

theorem grantEngines_b (s : State) (h : Bounded s) :
    Bounded (grantEngines s) := by
  unfold grantEngines
  repeat' (first | with_reducible assumption | split | (dsimp only; split) | with_reducible apply grantEngine_b | (with_reducible refine foldl_b _ _ _ ?_ ?_) | (intro t x ht) | (dsimp only))

theorem countQuery_b (q : Query) (s : State) (h : Bounded s) :
    Bounded (countQuery q s) := by
  unfold countQuery
  repeat' (first | with_reducible assumption | split | (dsimp only; split) | with_reducible apply bump_b | (with_reducible refine foldl_b _ _ _ ?_ ?_) | (intro t x ht) | (dsimp only))

theorem endQueries_b (c : Cmd) (s : State) (h : Bounded s) :
    Bounded (endQueries c s) := by
  unfold endQueries
  repeat' (first | with_reducible assumption | split | (dsimp only; split) | with_reducible apply finish_b | with_reducible apply writeHost_b | (with_reducible refine foldl_b _ _ _ ?_ ?_) | (intro t x ht) | (dsimp only))

theorem finishQuery_b (q : Query) (s0 : State) (h : Bounded s0) :
    Bounded (finishQuery q s0) := by
  unfold finishQuery
  repeat' (first | with_reducible assumption | split | (dsimp only; split) | with_reducible apply updCmd_b | with_reducible apply bump_b | with_reducible apply writeHost_b | with_reducible apply chargeFree_b | with_reducible apply rotateTo_b | with_reducible apply countQuery_b | with_reducible apply endQueries_b | (with_reducible refine foldl_b _ _ _ ?_ ?_) | (intro t x ht) | (dsimp only))

theorem issueRerank_b (q : Query) (rs : List (Unit' × List Cand)) (s : State) (h : Bounded s) :
    Bounded (issueRerank q rs s) := by
  unfold issueRerank
  repeat' (first | with_reducible assumption | split | (dsimp only; split) | with_reducible apply updQuery_b | with_reducible apply issueRead_b | (with_reducible refine foldl_b _ _ _ ?_ ?_) | (intro t x ht) | (dsimp only))

theorem startRerank_b (ix : Index) (q : Query) (s0 : State) (h : Bounded s0) :
    Bounded (startRerank ix q s0) := by
  unfold startRerank
  repeat' (first | with_reducible assumption | split | (dsimp only; split) | with_reducible apply bump_b | with_reducible apply chargeFree_b | with_reducible apply issueRerank_b | with_reducible apply stage_b | (with_reducible refine foldl_b _ _ _ ?_ ?_) | (intro t x ht) | (dsimp only))

theorem tryFinish_b (x : Nat) (s : State) (h : Bounded s) :
    Bounded (tryFinish x s) := by
  unfold tryFinish
  repeat' (first | with_reducible assumption | split | (dsimp only; split) | with_reducible apply finishQuery_b | (with_reducible refine foldl_b _ _ _ ?_ ?_) | (intro t x ht) | (dsimp only))

theorem chipMerge_b (x : Nat) (s : State) (h : Bounded s) :
    Bounded (chipMerge x s) := by
  unfold chipMerge
  repeat' (first | with_reducible assumption | split | (dsimp only; split) | with_reducible apply startRerank_b | with_reducible apply tryFinish_b | (with_reducible refine foldl_b _ _ _ ?_ ?_) | (intro t x ht) | (dsimp only))

theorem waitingMerges_b (s : State) (h : Bounded s) :
    Bounded (waitingMerges s) := by
  unfold waitingMerges
  repeat' (first | with_reducible assumption | split | (dsimp only; split) | with_reducible apply tryFinish_b | with_reducible apply chipMerge_b | (with_reducible refine foldl_b _ _ _ ?_ ?_) | (intro t x ht) | (dsimp only))

theorem chargeStopped_b (gone : Nat → Bool) (s : State) (h : Bounded s) :
    Bounded (chargeStopped gone s) := by
  unfold chargeStopped
  repeat' (first | with_reducible assumption | split | (dsimp only; split) | with_reducible apply chargeCell_b | (with_reducible refine foldl_b _ _ _ ?_ ?_) | (intro t x ht) | (dsimp only))

theorem resumeCells_b (s : State) (h : Bounded s) :
    Bounded (resumeCells s) := by
  unfold resumeCells
  repeat' (first | with_reducible assumption | split | (dsimp only; split) | with_reducible apply nextStream_b | (with_reducible refine foldl_b _ _ _ ?_ ?_) | (intro t x ht) | (dsimp only))

theorem dropQueries_b (p : Query → Bool) (s : State) (h : Bounded s) :
    Bounded (dropQueries p s) := by
  unfold dropQueries
  repeat' (first | with_reducible assumption | split | (dsimp only; split) | with_reducible apply dropReads_b | with_reducible apply closeStreams_b | with_reducible apply nextStream_b | with_reducible apply chargeStopped_b | (with_reducible refine foldl_b _ _ _ ?_ ?_) | (intro t x ht) | (dsimp only))

theorem stopWork_b (c : Cmd) (s : State) (h : Bounded s) :
    Bounded (stopWork c s) := by
  unfold stopWork
  repeat' (first | with_reducible assumption | split | (dsimp only; split) | with_reducible apply updMod_b | with_reducible apply dropReads_b | with_reducible apply dropSegs_b | with_reducible apply closeStreams_b | with_reducible apply dropQueries_b | (with_reducible refine foldl_b _ _ _ ?_ ?_) | (intro t x ht) | (dsimp only))

theorem endCmd_b (st : Nat) (c : Cmd) (s : State) (h : Bounded s) :
    Bounded (endCmd st c s) := by
  unfold endCmd
  repeat' (first | with_reducible assumption | split | (dsimp only; split) | with_reducible apply bump_b | with_reducible apply finish_b | with_reducible apply stopWork_b | (with_reducible refine foldl_b _ _ _ ?_ ?_) | (intro t x ht) | (dsimp only))

theorem endAll_b (p : Cmd → Bool) (st : Nat) (s : State) (h : Bounded s) :
    Bounded (endAll p st s) := by
  unfold endAll
  repeat' (first | with_reducible assumption | split | (dsimp only; split) | with_reducible apply endCmd_b | (with_reducible refine foldl_b _ _ _ ?_ ?_) | (intro t x ht) | (dsimp only))

theorem dropAll_b (p : Cmd → Bool) (s : State) (h : Bounded s) :
    Bounded (dropAll p s) := by
  unfold dropAll
  repeat' (first | with_reducible assumption | split | (dsimp only; split) | with_reducible apply stopWork_b | (with_reducible refine foldl_b _ _ _ ?_ ?_) | (intro t x ht) | (dsimp only))

theorem endResumes_b (l : List (Nat × Nat)) (s : State) (h : Bounded s) :
    Bounded (endResumes l s) := by
  unfold endResumes
  repeat' (first | with_reducible assumption | split | (dsimp only; split) | with_reducible apply succeed_b | (with_reducible refine foldl_b _ _ _ ?_ ?_) | (intro t x ht) | (dsimp only))

theorem endDeletes_b (l : List (Nat × Nat × Nat)) (s : State) (h : Bounded s) :
    Bounded (endDeletes l s) := by
  unfold endDeletes
  repeat' (first | with_reducible assumption | split | (dsimp only; split) | with_reducible apply succeed_b | (with_reducible refine foldl_b _ _ _ ?_ ?_) | (intro t x ht) | (dsimp only))

theorem deleteProgress_b (q : Nat) (s : State) (h : Bounded s) :
    Bounded (deleteProgress q s) := by
  unfold deleteProgress
  repeat' (first | with_reducible assumption | split | (dsimp only; split) | with_reducible apply endDeletes_b | (with_reducible refine foldl_b _ _ _ ?_ ?_) | (intro t x ht) | (dsimp only))

theorem deletePairs_b (s : State) (h : Bounded s) :
    Bounded (deletePairs s) := by
  unfold deletePairs
  repeat' (first | with_reducible assumption | split | (dsimp only; split) | with_reducible apply deleteProgress_b | (with_reducible refine foldl_b _ _ _ ?_ ?_) | (intro t x ht) | (dsimp only))

theorem busyEnded_b (b : Busy) (s : State) (h : Bounded s) :
    Bounded (busyEnded b s) := by
  unfold busyEnded
  repeat' (first | with_reducible assumption | split | (dsimp only; split) | (with_reducible refine foldl_b _ _ _ ?_ ?_) | (intro t x ht) | (dsimp only))

theorem endStopped_b (s : State) (h : Bounded s) :
    Bounded (endStopped s) := by
  unfold endStopped
  repeat' (first | with_reducible assumption | split | (dsimp only; split) | with_reducible apply endAll_b | (with_reducible refine foldl_b _ _ _ ?_ ?_) | (intro t x ht) | (dsimp only))

theorem deletePair_b (c : Cmd) (s : State) (h : Bounded s) :
    Bounded (deletePair c s) := by
  unfold deletePair
  repeat' (first | with_reducible assumption | split | (dsimp only; split) | with_reducible apply updQp_b | with_reducible apply setPhase_b | with_reducible apply endAll_b | with_reducible apply endResumes_b | with_reducible apply deleteProgress_b | (with_reducible refine foldl_b _ _ _ ?_ ?_) | (intro t x ht) | (dsimp only))

theorem stopAborted_b (c : Cmd) (s : State) (h : Bounded s) :
    Bounded (stopAborted c s) := by
  unfold stopAborted
  repeat' (first | with_reducible assumption | split | (dsimp only; split) | with_reducible apply updCmd_b | with_reducible apply stopWork_b | with_reducible apply endCmd_b | (with_reducible refine foldl_b _ _ _ ?_ ?_) | (intro t x ht) | (dsimp only))

theorem abortCmd_b (c : Cmd) (s : State) (h : Bounded s) :
    Bounded (abortCmd c s) := by
  unfold abortCmd
  repeat' (first | with_reducible assumption | split | (dsimp only; split) | with_reducible apply updCmd_b | with_reducible apply updTag_b | with_reducible apply finish_b | with_reducible apply setPhase_b | with_reducible apply stopAborted_b | (with_reducible refine foldl_b _ _ _ ?_ ?_) | (intro t x ht) | (dsimp only))

theorem resumePair_b (c : Cmd) (s : State) (h : Bounded s) :
    Bounded (resumePair c s) := by
  unfold resumePair
  repeat' (first | with_reducible assumption | split | (dsimp only; split) | with_reducible apply updFacet_b | with_reducible apply updQp_b | with_reducible apply succeed_b | with_reducible apply setPhase_b | (with_reducible refine foldl_b _ _ _ ?_ ?_) | (intro t x ht) | (dsimp only))

theorem endDiscard_b (q : Nat) (s : State) (h : Bounded s) :
    Bounded (endDiscard q s) := by
  unfold endDiscard
  repeat' (first | with_reducible assumption | split | (dsimp only; split) | with_reducible apply updQp_b | with_reducible apply endResumes_b | (with_reducible refine foldl_b _ _ _ ?_ ?_) | (intro t x ht) | (dsimp only))

theorem interfaceReset_b (s : State) (h : Bounded s) :
    Bounded (interfaceReset s) := by
  unfold interfaceReset
  repeat' (first | with_reducible assumption | split | (dsimp only; split) | with_reducible apply dropAll_b | (with_reducible refine foldl_b _ _ _ ?_ ?_) | (intro t x ht) | (dsimp only))

theorem queueErases_b (f : Nat) (bs : List (Nat × Nat × Nat × Nat)) (s : State) (h : Bounded s) :
    Bounded (queueErases f bs s) := by
  unfold queueErases
  repeat' (first | with_reducible assumption | split | (dsimp only; split) | with_reducible apply useFree_b | with_reducible apply queueSeg_b | (with_reducible refine foldl_b _ _ _ ?_ ?_) | (intro t x ht) | (dsimp only))

theorem scrubOn_b (s : State) (f : Nat) (h : Bounded s) :
    Bounded (scrubOn s f) := by
  unfold scrubOn
  repeat' (first | with_reducible assumption | split | (dsimp only; split) | with_reducible apply updFacet_b | with_reducible apply runJobs_b | (with_reducible refine foldl_b _ _ _ ?_ ?_) | (intro t x ht) | (dsimp only))

theorem scrubsOn_b (s : State) (h : Bounded s) :
    Bounded (scrubsOn s) := by
  unfold scrubsOn
  repeat' (first | with_reducible assumption | split | (dsimp only; split) | with_reducible apply scrubOn_b | (with_reducible refine foldl_b _ _ _ ?_ ?_) | (intro t x ht) | (dsimp only))

theorem beginIdentify_b (c : Cmd) (s : State) (h : Bounded s) :
    Bounded (beginIdentify c s) := by
  unfold beginIdentify
  repeat' (first | with_reducible assumption | split | (dsimp only; split) | with_reducible apply succeed_b | with_reducible apply writeHost_b | (with_reducible refine foldl_b _ _ _ ?_ ?_) | (intro t x ht) | (dsimp only))

theorem beginGetLog_b (c : Cmd) (s : State) (h : Bounded s) :
    Bounded (beginGetLog c s) := by
  unfold beginGetLog
  repeat' (first | with_reducible assumption | split | (dsimp only; split) | with_reducible apply succeed_b | with_reducible apply writeHost_b | (with_reducible refine foldl_b _ _ _ ?_ ?_) | (intro t x ht) | (dsimp only))

theorem beginPower_b (c : Cmd) (s : State) (h : Bounded s) :
    Bounded (beginPower c s) := by
  unfold beginPower
  repeat' (first | with_reducible assumption | split | (dsimp only; split) | with_reducible apply countHealth_b | with_reducible apply setPhase_b | (with_reducible refine foldl_b _ _ _ ?_ ?_) | (intro t x ht) | (dsimp only))

theorem beginSetFeature_b (c : Cmd) (s : State) (h : Bounded s) :
    Bounded (beginSetFeature c s) := by
  unfold beginSetFeature
  repeat' (first | with_reducible assumption | split | (dsimp only; split) | with_reducible apply updFacet_b | with_reducible apply succeed_b | with_reducible apply setPhase_b | with_reducible apply beginPower_b | (with_reducible refine foldl_b _ _ _ ?_ ?_) | (intro t x ht) | (dsimp only))

theorem beginGetFeature_b (c : Cmd) (s : State) (h : Bounded s) :
    Bounded (beginGetFeature c s) := by
  unfold beginGetFeature
  repeat' (first | with_reducible assumption | split | (dsimp only; split) | with_reducible apply succeed_b | (with_reducible refine foldl_b _ _ _ ?_ ?_) | (intro t x ht) | (dsimp only))

theorem beginFwDownload_b (c : Cmd) (s : State) (h : Bounded s) : Bounded (beginFwDownload c s) := by
  unfold beginFwDownload
  split
  · exact setPhase_b _ _ _ h
  · refine succeed_b _ _ _ ?_
    exact ⟨h.recs, h.elog, h.pool, h.slow, h.fast, cellWrite_wf _ _ _ h.a, h.b, h.c⟩

theorem beginFwCommit_b (c : Cmd) (s : State) (h : Bounded s) :
    Bounded (beginFwCommit c s) := by
  unfold beginFwCommit
  repeat' (first | with_reducible assumption | split | (dsimp only; split) | with_reducible apply finish_b | with_reducible apply succeed_b | with_reducible apply setPhase_b | with_reducible apply queueCmdSeg_b | (with_reducible refine foldl_b _ _ _ ?_ ?_) | (intro t x ht) | (dsimp only))

theorem endFwCommit_b (c : Cmd) (s : State) (h : Bounded s) : Bounded (endFwCommit c s) := by
  have key : ∀ w : Firmware, w.staging = [] → Bounded { s with fw := w } := fun w hw =>
    ⟨h.recs, h.elog, h.pool, h.slow, h.fast, by rw [show ({ s with fw := w } : State).fw.staging = [] from hw]; rfl, h.b, h.c⟩
  unfold endFwCommit
  refine succeed_b _ _ _ (key _ ?_)
  dsimp only
  split
  · split <;> rfl
  · rfl
  · rfl

theorem beginCreateQp_b (c : Cmd) (s : State) (h : Bounded s) :
    Bounded (beginCreateQp c s) := by
  unfold beginCreateQp
  repeat' (first | with_reducible assumption | split | (dsimp only; split) | with_reducible apply updFacet_b | with_reducible apply succeed_b | with_reducible apply refuse_b | (with_reducible refine foldl_b _ _ _ ?_ ?_) | (intro t x ht) | (dsimp only))

theorem beginFacetCreate_b (c : Cmd) (s : State) (h : Bounded s) :
    Bounded (beginFacetCreate c s) := by
  unfold beginFacetCreate
  repeat' (first | with_reducible assumption | split | (dsimp only; split) | with_reducible apply updFacet_b | with_reducible apply succeed_b | (with_reducible refine foldl_b _ _ _ ?_ ?_) | (intro t x ht) | (dsimp only))

theorem forgetFacet_b (f : Nat) (s : State) (h : Bounded s) : Bounded (forgetFacet f s) := by
  unfold forgetFacet
  apply closeStreams_b
  exact ⟨h.recs, h.elog, h.pool, h.slow, h.fast, h.a, h.b, h.c⟩

theorem beginScrub_b (f : Nat) (s : State) (h : Bounded s) :
    Bounded (beginScrub f s) := by
  unfold beginScrub
  repeat' (first | with_reducible assumption | split | (dsimp only; split) | with_reducible apply updFacet_b | with_reducible apply dropPages_b | with_reducible apply dropSegs_b | with_reducible apply queueErases_b | with_reducible apply scrubOn_b | with_reducible apply forgetFacet_b | (with_reducible refine foldl_b _ _ _ ?_ ?_) | (intro t x ht) | (dsimp only))

theorem beginFacetDestroy_b (c : Cmd) (s : State) (h : Bounded s) :
    Bounded (beginFacetDestroy c s) := by
  unfold beginFacetDestroy
  repeat' (first | with_reducible assumption | split | (dsimp only; split) | with_reducible apply updFacet_b | with_reducible apply setPhase_b | with_reducible apply dropQueries_b | with_reducible apply endAll_b | with_reducible apply endResumes_b | with_reducible apply endDeletes_b | with_reducible apply beginScrub_b | (with_reducible refine foldl_b _ _ _ ?_ ?_) | (intro t x ht) | (dsimp only))

theorem beginIndexCreate_b (c : Cmd) (s : State) (h : Bounded s) :
    Bounded (beginIndexCreate c s) := by
  unfold beginIndexCreate
  repeat' (first | with_reducible assumption | split | (dsimp only; split) | with_reducible apply refuse_b | with_reducible apply setPhase_b | with_reducible apply queueCmdSeg_b | (with_reducible refine foldl_b _ _ _ ?_ ?_) | (intro t x ht) | (dsimp only))

theorem endIndexCreate_b (c : Cmd) (s : State) (h : Bounded s) :
    Bounded (endIndexCreate c s) := by
  unfold endIndexCreate
  repeat' (first | with_reducible assumption | split | (dsimp only; split) | with_reducible apply succeed_b | with_reducible apply keepAll_b | (with_reducible refine foldl_b _ _ _ ?_ ?_) | (intro t x ht) | (dsimp only))

theorem beginEvrControl_b (c : Cmd) (s : State) (h : Bounded s) : Bounded (beginEvrControl c s) := by
  unfold beginEvrControl
  refine succeed_b _ _ _ ?_
  split
  · split
    · exact h
    · exact h
  · exact endFreeze_b _ h
  · exact ⟨writeRec_len _ _ (Nat.zero_le _), h.elog, h.pool, h.slow, h.fast, h.a, h.b, h.c⟩

theorem setCode_b (slot code : Nat) (kind atReset : Bool) (s : State) (h : Bounded s) :
    Bounded (setCode slot code kind atReset s) := by
  unfold setCode
  repeat' (first | with_reducible assumption | split | (dsimp only; split) | (with_reducible refine foldl_b _ _ _ ?_ ?_) | (intro t x ht) | (dsimp only))

theorem beginLoad_b (c : Cmd) (s : State) (h : Bounded s) :
    Bounded (beginLoad c s) := by
  unfold beginLoad
  repeat' (first | with_reducible assumption | split | (dsimp only; split) | with_reducible apply finish_b | with_reducible apply setPhase_b | with_reducible apply setCode_b | (with_reducible refine foldl_b _ _ _ ?_ ?_) | (intro t x ht) | (dsimp only))

theorem applyCfg_b (cfg : ImageCfg) (img : List FormatRec) (s : State) (h : Bounded s) :
    Bounded (applyCfg cfg img s) := by
  unfold applyCfg
  repeat' (first | with_reducible assumption | split | (dsimp only; split) | with_reducible apply updFacet_b | with_reducible apply closeStreams_b | (with_reducible refine foldl_b _ _ _ ?_ ?_) | (intro t x ht) | (dsimp only))

theorem endLoad_b (l : Load) (reshapeUs : Nat) (s : State) (h : Bounded s) :
    Bounded (endLoad l reshapeUs s) := by
  unfold endLoad
  repeat' (first | with_reducible assumption | split | (dsimp only; split) | with_reducible apply succeed_b | with_reducible apply applyCfg_b | (with_reducible refine foldl_b _ _ _ ?_ ?_) | (intro t x ht) | (dsimp only))

theorem failLoad_b (l : Load) (s : State) (h : Bounded s) :
    Bounded (failLoad l s) := by
  unfold failLoad
  repeat' (first | with_reducible assumption | split | (dsimp only; split) | with_reducible apply finish_b | with_reducible apply setCode_b | (with_reducible refine foldl_b _ _ _ ?_ ?_) | (intro t x ht) | (dsimp only))

theorem bootCode_b (n : Nat) (failed : Bool) (s : State) (h : Bounded s) :
    Bounded (bootCode n failed s) := by
  unfold bootCode
  repeat' (first | with_reducible assumption | split | (dsimp only; split) | with_reducible apply setCode_b | (with_reducible refine foldl_b _ _ _ ?_ ?_) | (intro t x ht) | (dsimp only))

theorem bootCfg_b (cfg : ImageCfg) (st active : Nat) (s : State) (h : Bounded s) :
    Bounded (bootCfg cfg st active s) := by
  unfold bootCfg
  repeat' (first | with_reducible assumption | split | (dsimp only; split) | (with_reducible refine foldl_b _ _ _ ?_ ?_) | (intro t x ht) | (dsimp only))

theorem fallbackEvent_b (a code : Nat) (s : State) (h : Bounded s) :
    Bounded (fallbackEvent a code s) := by
  unfold fallbackEvent
  repeat' (first | with_reducible assumption | split | (dsimp only; split) | with_reducible apply record_b | (with_reducible refine foldl_b _ _ _ ?_ ?_) | (intro t x ht) | (dsimp only))

theorem bootLoad_b (s : State) (h : Bounded s) :
    Bounded (bootLoad s) := by
  unfold bootLoad
  repeat' (first | with_reducible assumption | split | (dsimp only; split) | with_reducible apply bootCode_b | with_reducible apply bootCfg_b | with_reducible apply fallbackEvent_b | (with_reducible refine foldl_b _ _ _ ?_ ?_) | (intro t x ht) | (dsimp only))

theorem issueVertex_b (ix : Index) (q : Query) (ns : List Nat) (s : State) (h : Bounded s) :
    Bounded (issueVertex ix q ns s) := by
  unfold issueVertex
  repeat' (first | with_reducible assumption | split | (dsimp only; split) | with_reducible apply bump_b | with_reducible apply issueRead_b | (with_reducible refine foldl_b _ _ _ ?_ ?_) | (intro t x ht) | (dsimp only))

theorem armWalk_b (ix : Index) (q : Query) (s : State) (h : Bounded s) :
    Bounded (armWalk ix q s) := by
  unfold armWalk
  repeat' (first | with_reducible assumption | split | (dsimp only; split) | with_reducible apply useFree_b | with_reducible apply armRuns_b | (with_reducible refine foldl_b _ _ _ ?_ ?_) | (intro t x ht) | (dsimp only))

theorem beginRound_b (ix : Index) (q : Query) (s : State) (h : Bounded s) :
    Bounded (beginRound ix q s) := by
  unfold beginRound
  repeat' (first | with_reducible assumption | split | (dsimp only; split) | with_reducible apply updQuery_b | with_reducible apply bump_b | with_reducible apply issueVertex_b | with_reducible apply armWalk_b | (with_reducible refine foldl_b _ _ _ ?_ ?_) | (intro t x ht) | (dsimp only))

theorem endWalk_b (q : Query) (cause : Nat) (s : State) (h : Bounded s) :
    Bounded (endWalk q cause s) := by
  unfold endWalk
  repeat' (first | with_reducible assumption | split | (dsimp only; split) | with_reducible apply updQuery_b | with_reducible apply closeStreams_b | with_reducible apply tryFinish_b | (with_reducible refine foldl_b _ _ _ ?_ ?_) | (intro t x ht) | (dsimp only))

theorem continueWalk_b (ix : Index) (first : Bool) (q : Query) (s : State) (h : Bounded s) :
    Bounded (continueWalk ix first q s) := by
  unfold continueWalk
  repeat' (first | with_reducible assumption | split | (dsimp only; split) | with_reducible apply beginRound_b | with_reducible apply endWalk_b | (with_reducible refine foldl_b _ _ _ ?_ ?_) | (intro t x ht) | (dsimp only))

theorem poisonRound_b (q : Query) (rs : List Nat) (s : State) (h : Bounded s) :
    Bounded (poisonRound q rs s) := by
  unfold poisonRound
  repeat' (first | with_reducible assumption | split | (dsimp only; split) | with_reducible apply poison_b | (with_reducible refine foldl_b _ _ _ ?_ ?_) | (intro t x ht) | (dsimp only))

theorem takeSketchRuns_b (ix : Index) (q : Query) (ns : List Nat) (s : State) (h : Bounded s) :
    Bounded (takeSketchRuns ix q ns s) := by
  unfold takeSketchRuns
  repeat' (first | with_reducible assumption | split | (dsimp only; split) | with_reducible apply readHbm_b | with_reducible apply poisonRound_b | (with_reducible refine foldl_b _ _ _ ?_ ?_) | (intro t x ht) | (dsimp only))

theorem hopRound_b (ix : Index) (q : Query) (borrowed : Bool) (s : State) (h : Bounded s) :
    Bounded (hopRound ix q borrowed s) := by
  unfold hopRound
  repeat' (first | with_reducible assumption | split | (dsimp only; split) | with_reducible apply updQuery_b | with_reducible apply useFree_b | with_reducible apply charge_b | with_reducible apply drainBy_b | with_reducible apply continueWalk_b | with_reducible apply takeSketchRuns_b | with_reducible apply poison_b | (with_reducible refine foldl_b _ _ _ ?_ ?_) | (intro t x ht) | (dsimp only))

theorem hopRoundAt_b (x : Nat) (s : State) (h : Bounded s) :
    Bounded (hopRoundAt x s) := by
  unfold hopRoundAt
  repeat' (first | with_reducible assumption | split | (dsimp only; split) | with_reducible apply rotateTo_b | with_reducible apply hopRound_b | (with_reducible refine foldl_b _ _ _ ?_ ?_) | (intro t x ht) | (dsimp only))

theorem moveWalk_b (x : Nat) (s : State) (h : Bounded s) :
    Bounded (moveWalk x s) := by
  unfold moveWalk
  repeat' (first | with_reducible assumption | split | (dsimp only; split) | with_reducible apply updFacet_b | with_reducible apply updQuery_b | with_reducible apply dropReads_b | with_reducible apply closeStreams_b | with_reducible apply issueVertex_b | with_reducible apply armWalk_b | with_reducible apply poison_b | (with_reducible refine foldl_b _ _ _ ?_ ?_) | (intro t x ht) | (dsimp only))

theorem startWalk_b (x : Nat) (s : State) (h : Bounded s) :
    Bounded (startWalk x s) := by
  unfold startWalk
  repeat' (first | with_reducible assumption | split | (dsimp only; split) | with_reducible apply continueWalk_b | (with_reducible refine foldl_b _ _ _ ?_ ?_) | (intro t x ht) | (dsimp only))

theorem stalledWalks_b (s : State) (h : Bounded s) :
    Bounded (stalledWalks s) := by
  unfold stalledWalks
  repeat' (first | with_reducible assumption | split | (dsimp only; split) | with_reducible apply moveWalk_b | with_reducible apply startWalk_b | (with_reducible refine foldl_b _ _ _ ?_ ?_) | (intro t x ht) | (dsimp only))

theorem takeSample_b (ix : Index) (q : Query) (s : State) (t : State) (h : Bounded s) (e : takeSample ix q s = some t) : Bounded t := by
  unfold takeSample at e
  try extract_lets at e
  repeat' (first | (cases e; done) | (cases e; with_reducible exact h) | (simp only [Option.map_eq_some_iff] at e; obtain ⟨c, -, rfl⟩ := e) | split at e | (cases e) | (with_reducible refine allJobs_b _ _ _ _ _ _ (cellWork_getD_b _ _ _ _ _ h h) e) | (with_reducible exact allJobs_b _ _ _ _ _ _ h e) | (with_reducible exact cellWork_b _ _ _ _ _ h e) | with_reducible assumption)

theorem beginScan_b (ix : Index) (q : Query) (s : State) (h : Bounded s) :
    Bounded (beginScan ix q s) := by
  unfold beginScan
  repeat' (first | with_reducible assumption | split | (dsimp only; split) | with_reducible apply updQuery_b | with_reducible apply visitAll_b | with_reducible apply queueShadow_b | with_reducible apply continueWalk_b | with_reducible apply stage_b | (with_reducible refine foldl_b _ _ _ ?_ ?_) | (intro t x ht) | (dsimp only))

theorem cohortFinish_b (f cohort : Nat) (s : State) (h : Bounded s) : Bounded (cohortFinish f cohort s) := by
  have key : ∀ (ix : Index) (q : Query) (t : State), Bounded t → Bounded (((takeSample ix q t).map (beginScan ix q)).getD t) := by
    intro ix q t ht
    cases e : takeSample ix q t with
    | none => exact ht
    | some u => exact beginScan_b _ _ _ (takeSample_b _ _ _ _ ht e)
  unfold cohortFinish
  dsimp only
  refine ite_b _ _ _ h (foldl_b _ _ _ (startGroups_b _ (foldl_b _ _ _ h ?_)) fun t x ht => chipMerge_b _ _ ht)
  intro t q ht
  split
  · exact key _ _ _ ht
  · exact ht

theorem waitingScans_b (s : State) (h : Bounded s) :
    Bounded (waitingScans s) := by
  unfold waitingScans
  repeat' (first | with_reducible assumption | split | (dsimp only; split) | with_reducible apply startGroups_b | with_reducible apply cohortFinish_b | (with_reducible refine foldl_b _ _ _ ?_ ?_) | (intro t x ht) | (dsimp only))

theorem drainSearch_b (e : Nat) (t : Tile) (s : State) (h : Bounded s) :
    Bounded (drainSearch e t s) := by
  unfold drainSearch
  repeat' (first | with_reducible assumption | split | (dsimp only; split) | with_reducible apply drainRows_b | with_reducible apply cohortFinish_b | (with_reducible refine foldl_b _ _ _ ?_ ?_) | (intro t x ht) | (dsimp only))

theorem updLink_b (l : Nat) (g : Link → Link) (s : State) (h : Bounded s) :
    Bounded (updLink l g s) := by
  unfold updLink
  repeat' (first | with_reducible assumption | split | (dsimp only; split) | (with_reducible refine foldl_b _ _ _ ?_ ?_) | (intro t x ht) | (dsimp only))

theorem bumpLink_b (l k n : Nat) (s : State) (h : Bounded s) :
    Bounded (bumpLink l k n s) := by
  unfold bumpLink
  repeat' (first | with_reducible assumption | split | (dsimp only; split) | with_reducible apply updLink_b | (with_reducible refine foldl_b _ _ _ ?_ ?_) | (intro t x ht) | (dsimp only))

theorem sendControl_b (l typ : Nat) (s : State) (h : Bounded s) :
    Bounded (sendControl l typ s) := by
  unfold sendControl
  repeat' (first | with_reducible assumption | split | (dsimp only; split) | with_reducible apply emit_b | with_reducible apply updLink_b | with_reducible apply bumpLink_b | (with_reducible refine foldl_b _ _ _ ?_ ?_) | (intro t x ht) | (dsimp only))

theorem sendData_b (l v : Nat) (p : Nat × Bytes × Nat) (s : State) (h : Bounded s) :
    Bounded (sendData l v p s) := by
  unfold sendData
  repeat' (first | with_reducible assumption | split | (dsimp only; split) | with_reducible apply emit_b | with_reducible apply updLink_b | with_reducible apply bumpLink_b | (with_reducible refine foldl_b _ _ _ ?_ ?_) | (intro t x ht) | (dsimp only))

theorem markWaits_b (l : Nat) (s : State) (h : Bounded s) :
    Bounded (markWaits l s) := by
  unfold markWaits
  repeat' (first | with_reducible assumption | split | (dsimp only; split) | with_reducible apply updLink_b | (with_reducible refine foldl_b _ _ _ ?_ ?_) | (intro t x ht) | (dsimp only))

theorem pumpLink_b (l n : Nat) (s : State) (h : Bounded s) : Bounded (pumpLink l n s) := by
  fun_induction pumpLink l n s
  case case1 => exact h
  case case2 => exact h
  case case3 => exact markWaits_b _ _ h
  case case4 => exact markWaits_b _ _ h
  case case5 => exact h
  case case6 ih => exact ih (sendData_b _ _ _ _ h)

theorem sendMsg_b (l : Nat) (m : ChordMsg) (s : State) (h : Bounded s) :
    Bounded (sendMsg l m s) := by
  unfold sendMsg
  repeat' (first | with_reducible assumption | split | (dsimp only; split) | with_reducible apply emit_b | with_reducible apply useFree_b | with_reducible apply updLink_b | with_reducible apply pumpLink_b | (with_reducible refine foldl_b _ _ _ ?_ ?_) | (intro t x ht) | (dsimp only))

theorem takeAck_b (l ack : Nat) (s : State) (h : Bounded s) :
    Bounded (takeAck l ack s) := by
  unfold takeAck
  repeat' (first | with_reducible assumption | split | (dsimp only; split) | with_reducible apply updLink_b | (with_reducible refine foldl_b _ _ _ ?_ ?_) | (intro t x ht) | (dsimp only))

theorem resend_b (l : Nat) (s : State) (h : Bounded s) :
    Bounded (resend l s) := by
  unfold resend
  repeat' (first | with_reducible assumption | split | (dsimp only; split) | with_reducible apply emit_b | with_reducible apply bumpLink_b | (with_reducible refine foldl_b _ _ _ ?_ ?_) | (intro t x ht) | (dsimp only))

theorem resync_b (l : Nat) (s : State) (h : Bounded s) :
    Bounded (resync l s) := by
  unfold resync
  repeat' (first | with_reducible assumption | split | (dsimp only; split) | with_reducible apply updLink_b | with_reducible apply resend_b | (with_reducible refine foldl_b _ _ _ ?_ ?_) | (intro t x ht) | (dsimp only))

theorem addCredits_b (l v n : Nat) (s : State) (h : Bounded s) :
    Bounded (addCredits l v n s) := by
  unfold addCredits
  repeat' (first | with_reducible assumption | split | (dsimp only; split) | with_reducible apply updLink_b | (with_reducible refine foldl_b _ _ _ ?_ ?_) | (intro t x ht) | (dsimp only))

theorem deliver_b (l : Nat) (b : Bytes) (s : State) (h : Bounded s) :
    Bounded (deliver l b s) := by
  unfold deliver
  repeat' (first | with_reducible assumption | split | (dsimp only; split) | with_reducible apply updLink_b | (with_reducible refine foldl_b _ _ _ ?_ ?_) | (intro t x ht) | (dsimp only))

theorem sendNak_b (l : Nat) (s : State) (h : Bounded s) :
    Bounded (sendNak l s) := by
  unfold sendNak
  repeat' (first | with_reducible assumption | split | (dsimp only; split) | with_reducible apply bumpLink_b | with_reducible apply sendControl_b | (with_reducible refine foldl_b _ _ _ ?_ ?_) | (intro t x ht) | (dsimp only))

theorem takeFlit_b (l : Nat) (b : Bytes) (s : State) (h : Bounded s) :
    Bounded (takeFlit l b s) := by
  unfold takeFlit
  repeat' (first | with_reducible assumption | split | (dsimp only; split) | with_reducible apply sendControl_b | with_reducible apply pumpLink_b | with_reducible apply takeAck_b | with_reducible apply resend_b | with_reducible apply resync_b | with_reducible apply addCredits_b | with_reducible apply deliver_b | (with_reducible refine foldl_b _ _ _ ?_ ?_) | (intro t x ht) | (dsimp only))

theorem receiveFlit_b (l : Nat) (b : Bytes) (s : State) (h : Bounded s) :
    Bounded (receiveFlit l b s) := by
  unfold receiveFlit
  repeat' (first | with_reducible assumption | split | (dsimp only; split) | with_reducible apply updLink_b | with_reducible apply bumpLink_b | with_reducible apply sendNak_b | with_reducible apply takeFlit_b | (with_reducible refine foldl_b _ _ _ ?_ ?_) | (intro t x ht) | (dsimp only))

theorem receiveNak_b (l ack : Nat) (s : State) (h : Bounded s) :
    Bounded (receiveNak l ack s) := by
  unfold receiveNak
  repeat' (first | with_reducible assumption | split | (dsimp only; split) | with_reducible apply bumpLink_b | with_reducible apply pumpLink_b | with_reducible apply takeAck_b | with_reducible apply resend_b | with_reducible apply resync_b | (with_reducible refine foldl_b _ _ _ ?_ ?_) | (intro t x ht) | (dsimp only))

theorem popDelivered_b (l v : Nat) (s : State) (h : Bounded s) :
    Bounded (popDelivered l v s) := by
  unfold popDelivered
  repeat' (first | with_reducible assumption | split | (dsimp only; split) | with_reducible apply updLink_b | (with_reducible refine foldl_b _ _ _ ?_ ?_) | (intro t x ht) | (dsimp only))

theorem updDom_b (q : Nat) (g : DomQ → DomQ) (s : State) (h : Bounded s) :
    Bounded (updDom q g s) := by
  unfold updDom
  repeat' (first | with_reducible assumption | split | (dsimp only; split) | (with_reducible refine foldl_b _ _ _ ?_ ?_) | (intro t x ht) | (dsimp only))

theorem loseChild_b (q l : Nat) (s : State) (h : Bounded s) :
    Bounded (loseChild q l s) := by
  unfold loseChild
  repeat' (first | with_reducible assumption | split | (dsimp only; split) | with_reducible apply bump_b | with_reducible apply updDom_b | (with_reducible refine foldl_b _ _ _ ?_ ?_) | (intro t x ht) | (dsimp only))

theorem dropChild_b (d : DomQ) (l : Nat) (s : State) (h : Bounded s) :
    Bounded (dropChild d l s) := by
  unfold dropChild
  repeat' (first | with_reducible assumption | split | (dsimp only; split) | with_reducible apply bump_b | with_reducible apply updLink_b | with_reducible apply sendMsg_b | with_reducible apply loseChild_b | (with_reducible refine foldl_b _ _ _ ?_ ?_) | (intro t x ht) | (dsimp only))

theorem castSent_b (d : DomQ) (l : Nat) (s : State) (h : Bounded s) :
    Bounded (castSent d l s) := by
  unfold castSent
  repeat' (first | with_reducible assumption | split | (dsimp only; split) | with_reducible apply updDom_b | (with_reducible refine foldl_b _ _ _ ?_ ?_) | (intro t x ht) | (dsimp only))

theorem castTo_b (d : DomQ) (s : State) (h : Bounded s) :
    Bounded (castTo d s) := by
  unfold castTo
  repeat' (first | with_reducible assumption | split | (dsimp only; split) | with_reducible apply updLink_b | with_reducible apply sendMsg_b | with_reducible apply dropChild_b | with_reducible apply castSent_b | (with_reducible refine foldl_b _ _ _ ?_ ?_) | (intro t x ht) | (dsimp only))

theorem endDomain_b (d : DomQ) (s : State) (h : Bounded s) :
    Bounded (endDomain d s) := by
  unfold endDomain
  repeat' (first | with_reducible assumption | split | (dsimp only; split) | with_reducible apply updCmd_b | with_reducible apply writeHost_b | with_reducible apply endQueries_b | (with_reducible refine foldl_b _ _ _ ?_ ?_) | (intro t x ht) | (dsimp only))

theorem tryGather_b (q : Nat) (s : State) (h : Bounded s) :
    Bounded (tryGather q s) := by
  unfold tryGather
  repeat' (first | with_reducible assumption | split | (dsimp only; split) | with_reducible apply sendMsg_b | with_reducible apply endDomain_b | (with_reducible refine foldl_b _ _ _ ?_ ?_) | (intro t x ht) | (dsimp only))

theorem beginDomain_b (c : Cmd) (s : State) (h : Bounded s) :
    Bounded (beginDomain c s) := by
  unfold beginDomain
  repeat' (first | with_reducible assumption | split | (dsimp only; split) | with_reducible apply bump_b | with_reducible apply setPhase_b | with_reducible apply castTo_b | with_reducible apply boundary_b | (with_reducible refine foldl_b _ _ _ ?_ ?_) | (intro t x ht) | (dsimp only))

theorem receiveCast_b (l : Nat) (c : Cast) (s0 : State) (h : Bounded s0) :
    Bounded (receiveCast l c s0) := by
  unfold receiveCast
  repeat' (first | with_reducible assumption | split | (dsimp only; split) | with_reducible apply bump_b | with_reducible apply popDelivered_b | with_reducible apply castTo_b | with_reducible apply tryGather_b | with_reducible apply boundary_b | (with_reducible refine foldl_b _ _ _ ?_ ?_) | (intro t x ht) | (dsimp only))

theorem receiveContrib_b (l : Nat) (c : Contrib) (s0 : State) (h : Bounded s0) :
    Bounded (receiveContrib l c s0) := by
  unfold receiveContrib
  repeat' (first | with_reducible assumption | split | (dsimp only; split) | with_reducible apply bump_b | with_reducible apply popDelivered_b | with_reducible apply updDom_b | with_reducible apply tryGather_b | (with_reducible refine foldl_b _ _ _ ?_ ?_) | (intro t x ht) | (dsimp only))

theorem receiveGap_b (q : Nat) (s : State) (h : Bounded s) :
    Bounded (receiveGap q s) := by
  unfold receiveGap
  repeat' (first | with_reducible assumption | split | (dsimp only; split) | (with_reducible refine foldl_b _ _ _ ?_ ?_) | (intro t x ht) | (dsimp only))

theorem slackExpiry_b (q l : Nat) (s : State) (h : Bounded s) :
    Bounded (slackExpiry q l s) := by
  unfold slackExpiry
  repeat' (first | with_reducible assumption | split | (dsimp only; split) | with_reducible apply dropChild_b | with_reducible apply tryGather_b | (with_reducible refine foldl_b _ _ _ ?_ ?_) | (intro t x ht) | (dsimp only))

theorem endOwn_b (d : DomQ) (s : State) (h : Bounded s) :
    Bounded (endOwn d s) := by
  unfold endOwn
  repeat' (first | with_reducible assumption | split | (dsimp only; split) | with_reducible apply countQuery_b | with_reducible apply dropQueries_b | with_reducible apply updDom_b | (with_reducible refine foldl_b _ _ _ ?_ ?_) | (intro t x ht) | (dsimp only))

theorem gatherCutoff_b (q : Nat) (s : State) (h : Bounded s) :
    Bounded (gatherCutoff q s) := by
  unfold gatherCutoff
  repeat' (first | with_reducible assumption | split | (dsimp only; split) | with_reducible apply loseChild_b | with_reducible apply tryGather_b | with_reducible apply endOwn_b | (with_reducible refine foldl_b _ _ _ ?_ ?_) | (intro t x ht) | (dsimp only))

theorem chordProgress_b (s : State) (h : Bounded s) :
    Bounded (chordProgress s) := by
  unfold chordProgress
  repeat' (first | with_reducible assumption | split | (dsimp only; split) | with_reducible apply castTo_b | with_reducible apply tryGather_b | (with_reducible refine foldl_b _ _ _ ?_ ?_) | (intro t x ht) | (dsimp only))

theorem sendTurn_b (s : State) (h : Bounded s) :
    Bounded (sendTurn s) := by
  unfold sendTurn
  repeat' (first | with_reducible assumption | split | (dsimp only; split) | with_reducible apply sendMsg_b | (with_reducible refine foldl_b _ _ _ ?_ ?_) | (intro t x ht) | (dsimp only))

theorem receiveTurn_b (turn : Nat) (s0 : State) (h : Bounded s0) :
    Bounded (receiveTurn turn s0) := by
  unfold receiveTurn
  repeat' (first | with_reducible assumption | split | (dsimp only; split) | with_reducible apply popDelivered_b | with_reducible apply sendTurn_b | (with_reducible refine foldl_b _ _ _ ?_ ?_) | (intro t x ht) | (dsimp only))

theorem linkGoesDown_b (l cause : Nat) (s : State) (h : Bounded s) :
    Bounded (linkGoesDown l cause s) := by
  unfold linkGoesDown
  repeat' (first | with_reducible assumption | split | (dsimp only; split) | with_reducible apply record_b | with_reducible apply updLink_b | with_reducible apply bumpLink_b | with_reducible apply loseChild_b | with_reducible apply dropChild_b | with_reducible apply tryGather_b | (with_reducible refine foldl_b _ _ _ ?_ ?_) | (intro t x ht) | (dsimp only))

theorem chordDown_b (l cause : Nat) (s : State) (h : Bounded s) :
    Bounded (chordDown l cause s) := by
  unfold chordDown
  repeat' (first | with_reducible assumption | split | (dsimp only; split) | with_reducible apply linkGoesDown_b | (with_reducible refine foldl_b _ _ _ ?_ ?_) | (intro t x ht) | (dsimp only))

theorem laneDrop_b (l : Nat) (errs : List Nat) (s : State) (h : Bounded s) :
    Bounded (laneDrop l errs s) := by
  unfold laneDrop
  repeat' (first | with_reducible assumption | split | (dsimp only; split) | with_reducible apply bumpRas_b | with_reducible apply record_b | with_reducible apply updLink_b | with_reducible apply bumpLink_b | with_reducible apply resend_b | with_reducible apply linkGoesDown_b | (with_reducible refine foldl_b _ _ _ ?_ ?_) | (intro t x ht) | (dsimp only))

theorem retrain_b (l : Nat) (s : State) (h : Bounded s) :
    Bounded (retrain l s) := by
  unfold retrain
  repeat' (first | with_reducible assumption | split | (dsimp only; split) | with_reducible apply updLink_b | (with_reducible refine foldl_b _ _ _ ?_ ?_) | (intro t x ht) | (dsimp only))

theorem trainingComplete_b (l lanes : Nat) (s : State) (h : Bounded s) :
    Bounded (trainingComplete l lanes s) := by
  unfold trainingComplete
  repeat' (first | with_reducible assumption | split | (dsimp only; split) | with_reducible apply updLink_b | with_reducible apply sendControl_b | with_reducible apply pumpLink_b | with_reducible apply sendTurn_b | (with_reducible refine foldl_b _ _ _ ?_ ?_) | (intro t x ht) | (dsimp only))

theorem dropIndex_b (f slot tag : Nat) (s : State) (h : Bounded s) :
    Bounded (dropIndex f slot tag s) := by
  unfold dropIndex
  repeat' (first | with_reducible assumption | split | (dsimp only; split) | with_reducible apply updIdx_b | with_reducible apply updCmd_b | with_reducible apply endAll_b | (with_reducible refine foldl_b _ _ _ ?_ ?_) | (intro t x ht) | (dsimp only))

theorem removeIndex_b (ix : Index) (tag : Nat) (s : State) (h : Bounded s) : Bounded (removeIndex ix tag s) := by
  have key : ∀ t, Bounded t → ∀ (c : Option Cmd), Bounded (match c with
      | some c => if c.op == .indexDrop then succeed c (leBytes 2 c.left) t else t
      | none => t) := by
    intro t ht c
    split
    · exact ite_b _ _ _ (succeed_b _ _ _ ht) ht
    · exact ht
  unfold removeIndex
  refine key _ (scrubOn_b _ _ (queueErases_b _ _ _ (dropSegs_b _ _ (updFacet_b _ _ _ (dropPages_b _ _ ?_))))) _
  exact ⟨h.recs, h.elog, h.pool, h.slow, h.fast, h.a, h.b, h.c⟩

theorem dropProgress_b (s : State) (h : Bounded s) :
    Bounded (dropProgress s) := by
  unfold dropProgress
  repeat' (first | with_reducible assumption | split | (dsimp only; split) | with_reducible apply removeIndex_b | (with_reducible refine foldl_b _ _ _ ?_ ?_) | (intro t x ht) | (dsimp only))

theorem startDrops_b (s : State) (h : Bounded s) :
    Bounded (startDrops s) := by
  unfold startDrops
  repeat' (first | with_reducible assumption | split | (dsimp only; split) | with_reducible apply setPhase_b | with_reducible apply dropIndex_b | (with_reducible refine foldl_b _ _ _ ?_ ?_) | (intro t x ht) | (dsimp only))

theorem updMig_b (g : Mig → Mig) (s : State) (h : Bounded s) :
    Bounded (updMig g s) := by
  unfold updMig
  repeat' (first | with_reducible assumption | split | (dsimp only; split) | (with_reducible refine foldl_b _ _ _ ?_ ?_) | (intro t x ht) | (dsimp only))

theorem sendMigCtrl_b (phase error : Nat) (s : State) (h : Bounded s) :
    Bounded (sendMigCtrl phase error s) := by
  unfold sendMigCtrl
  repeat' (first | with_reducible assumption | split | (dsimp only; split) | with_reducible apply sendMsg_b | (with_reducible refine foldl_b _ _ _ ?_ ?_) | (intro t x ht) | (dsimp only))

theorem migFail_b (error : Nat) (s : State) (h : Bounded s) :
    Bounded (migFail error s) := by
  unfold migFail
  repeat' (first | with_reducible assumption | split | (dsimp only; split) | with_reducible apply updIdx_b | with_reducible apply bump_b | with_reducible apply updMig_b | with_reducible apply publish_b | (with_reducible refine foldl_b _ _ _ ?_ ?_) | (intro t x ht) | (dsimp only))

theorem migLost_b (f : Nat) (s : State) (h : Bounded s) :
    Bounded (migLost f s) := by
  unfold migLost
  repeat' (first | with_reducible assumption | split | (dsimp only; split) | with_reducible apply bump_b | (with_reducible refine foldl_b _ _ _ ?_ ?_) | (intro t x ht) | (dsimp only))

theorem migGo_b (v : Word64) (s : State) (h : Bounded s) :
    Bounded (migGo v s) := by
  unfold migGo
  repeat' (first | with_reducible assumption | split | (dsimp only; split) | with_reducible apply updMig_b | with_reducible apply sendMigCtrl_b | with_reducible apply migLost_b | (with_reducible refine foldl_b _ _ _ ?_ ?_) | (intro t x ht) | (dsimp only))

theorem migArm_b (v : Word64) (s : State) (h : Bounded s) :
    Bounded (migArm v s) := by
  unfold migArm
  repeat' (first | with_reducible assumption | split | (dsimp only; split) | with_reducible apply updMig_b | with_reducible apply migLost_b | with_reducible apply publish_b | (with_reducible refine foldl_b _ _ _ ?_ ?_) | (intro t x ht) | (dsimp only))

theorem migCancelHere_b (s : State) (h : Bounded s) :
    Bounded (migCancelHere s) := by
  unfold migCancelHere
  repeat' (first | with_reducible assumption | split | (dsimp only; split) | with_reducible apply sendMigCtrl_b | with_reducible apply migFail_b | (with_reducible refine foldl_b _ _ _ ?_ ?_) | (intro t x ht) | (dsimp only))

theorem receiveOffer_b (l f slot : Nat) (geo : Geometry) (hbm flash : Nat) (s0 : State) (h : Bounded s0) :
    Bounded (receiveOffer l f slot geo hbm flash s0) := by
  unfold receiveOffer
  repeat' (first | with_reducible assumption | split | (dsimp only; split) | with_reducible apply sendMsg_b | with_reducible apply popDelivered_b | with_reducible apply updMig_b | with_reducible apply migFail_b | (with_reducible refine foldl_b _ _ _ ?_ ?_) | (intro t x ht) | (dsimp only))

theorem receiveAccept_b (l : Nat) (s0 : State) (h : Bounded s0) :
    Bounded (receiveAccept l s0) := by
  unfold receiveAccept
  repeat' (first | with_reducible assumption | split | (dsimp only; split) | with_reducible apply popDelivered_b | with_reducible apply updMig_b | (with_reducible refine foldl_b _ _ _ ?_ ?_) | (intro t x ht) | (dsimp only))

theorem receiveRefuse_b (l e : Nat) (s0 : State) (h : Bounded s0) :
    Bounded (receiveRefuse l e s0) := by
  unfold receiveRefuse
  repeat' (first | with_reducible assumption | split | (dsimp only; split) | with_reducible apply popDelivered_b | with_reducible apply migFail_b | (with_reducible refine foldl_b _ _ _ ?_ ?_) | (intro t x ht) | (dsimp only))

theorem migBoundary_b (s : State) (h : Bounded s) :
    Bounded (migBoundary s) := by
  unfold migBoundary
  repeat' (first | with_reducible assumption | split | (dsimp only; split) | with_reducible apply useFree_b | with_reducible apply allJobs_getD_b | with_reducible apply sendMsg_b | with_reducible apply updMig_b | with_reducible apply sendMigCtrl_b | with_reducible apply migFail_b | (with_reducible refine allJobs_b _ _ _ _ _ _ ?_ (by assumption)) | (with_reducible refine foldl_b _ _ _ ?_ ?_) | (intro t x ht) | (dsimp only))

theorem sendWrites_b (s : State) (h : Bounded s) :
    Bounded (sendWrites s) := by
  unfold sendWrites
  repeat' (first | with_reducible assumption | split | (dsimp only; split) | with_reducible apply updIdx_b | with_reducible apply sendMsg_b | with_reducible apply updMig_b | (with_reducible refine foldl_b _ _ _ ?_ ?_) | (intro t x ht) | (dsimp only))

theorem migProgress_b (s : State) (h : Bounded s) :
    Bounded (migProgress s) := by
  unfold migProgress
  repeat' (first | with_reducible assumption | split | (dsimp only; split) | with_reducible apply updMig_b | with_reducible apply sendMigCtrl_b | with_reducible apply sendWrites_b | (with_reducible refine foldl_b _ _ _ ?_ ?_) | (intro t x ht) | (dsimp only))

theorem receiveUnit_b (l : Nat) (p : MigPart) (s0 : State) (h : Bounded s0) :
    Bounded (receiveUnit l p s0) := by
  unfold receiveUnit
  repeat' (first | with_reducible assumption | split | (dsimp only; split) | with_reducible apply popDelivered_b | with_reducible apply updMig_b | (with_reducible refine foldl_b _ _ _ ?_ ?_) | (intro t x ht) | (dsimp only))

theorem receiveWrite_b (l : Nat) (w : MigWrite) (s0 : State) (h : Bounded s0) :
    Bounded (receiveWrite l w s0) := by
  unfold receiveWrite
  repeat' (first | with_reducible assumption | split | (dsimp only; split) | with_reducible apply popDelivered_b | with_reducible apply updMig_b | (with_reducible refine foldl_b _ _ _ ?_ ?_) | (intro t x ht) | (dsimp only))

theorem receiveCutOver_b (l : Nat) (s0 : State) (h : Bounded s0) :
    Bounded (receiveCutOver l s0) := by
  unfold receiveCutOver
  repeat' (first | with_reducible assumption | split | (dsimp only; split) | with_reducible apply popDelivered_b | with_reducible apply updMig_b | with_reducible apply publish_b | (with_reducible refine foldl_b _ _ _ ?_ ?_) | (intro t x ht) | (dsimp only))

theorem commitForwarded_b (f slot e : Nat) (w : MigWrite) (s : State) (h : Bounded s) :
    Bounded (commitForwarded f slot e w s) := by
  unfold commitForwarded
  repeat' (first | with_reducible assumption | split | (dsimp only; split) | with_reducible apply updIdx_b | with_reducible apply deleteIds_b | (with_reducible refine foldl_b _ _ _ ?_ ?_) | (intro t x ht) | (dsimp only))

theorem migPublish_b (s : State) (h : Bounded s) :
    Bounded (migPublish s) := by
  unfold migPublish
  repeat' (first | with_reducible assumption | split | (dsimp only; split) | with_reducible apply updFacet_b | with_reducible apply bump_b | with_reducible apply useFree_b | with_reducible apply markChanged_b | with_reducible apply writePages_b | with_reducible apply allJobs_getD_b | with_reducible apply keepAll_b | with_reducible apply appendLog_b | with_reducible apply updMig_b | with_reducible apply sendMigCtrl_b | with_reducible apply commitForwarded_b | with_reducible apply publish_b | (with_reducible refine allJobs_b _ _ _ _ _ _ ?_ (by assumption)) | (with_reducible refine foldl_b _ _ _ ?_ ?_) | (intro t x ht) | (dsimp only))

theorem receiveDone_b (l : Nat) (s0 : State) (h : Bounded s0) :
    Bounded (receiveDone l s0) := by
  unfold receiveDone
  repeat' (first | with_reducible assumption | split | (dsimp only; split) | with_reducible apply updIdx_b | with_reducible apply bump_b | with_reducible apply popDelivered_b | with_reducible apply dropIndex_b | with_reducible apply updMig_b | (with_reducible refine foldl_b _ _ _ ?_ ?_) | (intro t x ht) | (dsimp only))

theorem receiveCancel_b (l : Nat) (s0 : State) (h : Bounded s0) :
    Bounded (receiveCancel l s0) := by
  unfold receiveCancel
  repeat' (first | with_reducible assumption | split | (dsimp only; split) | with_reducible apply popDelivered_b | with_reducible apply migFail_b | (with_reducible refine foldl_b _ _ _ ?_ ?_) | (intro t x ht) | (dsimp only))

theorem migLinkLost_b (s : State) (h : Bounded s) :
    Bounded (migLinkLost s) := by
  unfold migLinkLost
  repeat' (first | with_reducible assumption | split | (dsimp only; split) | with_reducible apply migFail_b | (with_reducible refine foldl_b _ _ _ ?_ ?_) | (intro t x ht) | (dsimp only))

theorem armSlices_b (j : EncJob) (n : ModelNode) (s : State) (h : Bounded s) :
    Bounded (armSlices j n s) := by
  unfold armSlices
  repeat' (first | with_reducible assumption | split | (dsimp only; split) | with_reducible apply useFree_b | with_reducible apply armRuns_b | (with_reducible refine foldl_b _ _ _ ?_ ?_) | (intro t x ht) | (dsimp only))

theorem queueNode_b (m : ModelRec) (j : EncJob) (s : State) (h : Bounded s) :
    Bounded (queueNode m j s) := by
  unfold queueNode
  repeat' (first | with_reducible assumption | split | (dsimp only; split) | with_reducible apply armSlices_b | (with_reducible refine foldl_b _ _ _ ?_ ?_) | (intro t x ht) | (dsimp only))

theorem finishEncode_b (m : ModelRec) (j : EncJob) (c : Cmd) (s : State) (h : Bounded s) :
    Bounded (finishEncode m j c s) := by
  unfold finishEncode
  repeat' (first | with_reducible assumption | split | (dsimp only; split) | with_reducible apply bump_b | with_reducible apply finish_b | with_reducible apply writeHost_b | (with_reducible refine foldl_b _ _ _ ?_ ?_) | (intro t x ht) | (dsimp only))

theorem advanceEnc_b (m : ModelRec) (j0 : EncJob) (s : State) (h : Bounded s) :
    Bounded (advanceEnc m j0 s) := by
  unfold advanceEnc
  repeat' (first | with_reducible assumption | split | (dsimp only; split) | with_reducible apply bump_b | with_reducible apply closeStreams_b | with_reducible apply queueNode_b | with_reducible apply finishEncode_b | (with_reducible refine foldl_b _ _ _ ?_ ?_) | (intro t x ht) | (dsimp only))

theorem moveSlices_b (j : EncJob) (n : ModelNode) (round : Nat) (s : State) (h : Bounded s) :
    Bounded (moveSlices j n round s) := by
  unfold moveSlices
  repeat' (first | with_reducible assumption | split | (dsimp only; split) | with_reducible apply bump_b | with_reducible apply takeBytes_b | (with_reducible refine foldl_b _ _ _ ?_ ?_) | (intro t x ht) | (dsimp only))

theorem endRound_b (m : ModelRec) (n : ModelNode) (j : EncJob) (s : State) (h : Bounded s) :
    Bounded (endRound m n j s) := by
  unfold endRound
  repeat' (first | with_reducible assumption | split | (dsimp only; split) | with_reducible apply queueNode_b | with_reducible apply advanceEnc_b | (with_reducible refine foldl_b _ _ _ ?_ ?_) | (intro t x ht) | (dsimp only))

theorem drainNode_b (e : Nat) (t : Tile) (tag g st : Nat) (s : State) (h : Bounded s) :
    Bounded (drainNode e t tag g st s) := by
  unfold drainNode
  repeat' (first | with_reducible assumption | split | (dsimp only; split) | with_reducible apply bump_b | with_reducible apply drainBy_b | with_reducible apply moveSlices_b | with_reducible apply endRound_b | (with_reducible refine foldl_b _ _ _ ?_ ?_) | (intro t x ht) | (dsimp only))

theorem beginEnc_b (tag f slot cls adapter : Nat) (inputs : List (List (List F32))) (s : State) (h : Bounded s) :
    Bounded (beginEnc tag f slot cls adapter inputs s) := by
  unfold beginEnc
  repeat' (first | with_reducible assumption | split | (dsimp only; split) | with_reducible apply advanceEnc_b | (with_reducible refine foldl_b _ _ _ ?_ ?_) | (intro t x ht) | (dsimp only))

theorem admitEncodes_b (f : Nat) (s : State) (h : Bounded s) :
    Bounded (admitEncodes f s) := by
  unfold admitEncodes
  repeat' (first | with_reducible assumption | split | (dsimp only; split) | with_reducible apply finish_b | with_reducible apply setPhase_b | with_reducible apply beginEnc_b | (with_reducible refine foldl_b _ _ _ ?_ ?_) | (intro t x ht) | (dsimp only))

theorem beginTrain_b (c : Cmd) (ix : Index) (s : State) (h : Bounded s) :
    Bounded (beginTrain c ix s) := by
  unfold beginTrain
  repeat' (first | with_reducible assumption | split | (dsimp only; split) | with_reducible apply setPhase_b | with_reducible apply beginEnc_b | (with_reducible refine foldl_b _ _ _ ?_ ?_) | (intro t x ht) | (dsimp only))

theorem admitTrains_b (f : Nat) (s : State) (h : Bounded s) :
    Bounded (admitTrains f s) := by
  unfold admitTrains
  repeat' (first | with_reducible assumption | split | (dsimp only; split) | with_reducible apply finish_b | with_reducible apply beginTrain_b | (with_reducible refine foldl_b _ _ _ ?_ ?_) | (intro t x ht) | (dsimp only))

theorem beginReading_b (ix : Index) (c : Cmd) (j : TrainJob) (s : State) (h : Bounded s) :
    Bounded (beginReading ix c j s) := by
  unfold beginReading
  repeat' (first | with_reducible assumption | split | (dsimp only; split) | with_reducible apply issueRead_b | (with_reducible refine foldl_b _ _ _ ?_ ?_) | (intro t x ht) | (dsimp only))

theorem armTrain_b (ix : Index) (j : TrainJob) (s : State) (h : Bounded s) :
    Bounded (armTrain ix j s) := by
  unfold armTrain
  repeat' (first | with_reducible assumption | split | (dsimp only; split) | with_reducible apply useFree_b | with_reducible apply armRuns_b | with_reducible apply storeChecks_b | (with_reducible refine foldl_b _ _ _ ?_ ?_) | (intro t x ht) | (dsimp only))

theorem endTrain_b (c : Cmd) (j : TrainJob) (s : State) (h : Bounded s) :
    Bounded (endTrain c j s) := by
  unfold endTrain
  repeat' (first | with_reducible assumption | split | (dsimp only; split) | with_reducible apply updIdx_b | with_reducible apply updMod_b | with_reducible apply bump_b | with_reducible apply finish_b | with_reducible apply writeHost_b | with_reducible apply closeStreams_b | (with_reducible refine foldl_b _ _ _ ?_ ?_) | (intro t x ht) | (dsimp only))

theorem abortTrain_b (c : Cmd) (s : State) (h : Bounded s) :
    Bounded (abortTrain c s) := by
  unfold abortTrain
  repeat' (first | with_reducible assumption | split | (dsimp only; split) | with_reducible apply endCmd_b | (with_reducible refine foldl_b _ _ _ ?_ ?_) | (intro t x ht) | (dsimp only))

theorem stepGrant_b (c : Cmd) (ix : Index) (j : TrainJob) (n : Nat) (s : State) (t : State) (h : Bounded s) (e : stepGrant c ix j n s = some t) : Bounded t := by
  unfold stepGrant at e
  try extract_lets at e
  repeat' (first | (cases e; done) | (cases e; with_reducible exact h) | (simp only [Option.map_eq_some_iff] at e; obtain ⟨c, -, rfl⟩ := e) | split at e | (cases e) | (with_reducible exact allJobs_b _ _ _ _ _ _ h e) | with_reducible assumption)

theorem optimiserStep_b (tag : Nat) (s : State) (h : Bounded s) : Bounded (optimiserStep tag s) := by
  unfold optimiserStep
  repeat' (first | with_reducible assumption | split | (dsimp only; split) | with_reducible apply bump_b | with_reducible apply chargeWork_b | with_reducible apply endTrain_b | with_reducible apply abortTrain_b | (with_reducible refine stepGrant_b _ _ _ _ _ _ h (by assumption)) | (have hB := stepGrant_b _ _ _ _ _ _ h (by assumption); exact ⟨hB.recs, hB.elog, hB.pool, hB.slow, hB.fast, hB.a, hB.b, hB.c⟩) | (with_reducible refine foldl_b _ _ _ ?_ ?_) | (intro t x ht) | (dsimp only))

theorem trainProgress_b (s : State) (h : Bounded s) :
    Bounded (trainProgress s) := by
  unfold trainProgress
  repeat' (first | with_reducible assumption | split | (dsimp only; split) | with_reducible apply beginReading_b | with_reducible apply armTrain_b | with_reducible apply endTrain_b | with_reducible apply abortTrain_b | (with_reducible refine foldl_b _ _ _ ?_ ?_) | (intro t x ht) | (dsimp only))

theorem rerankBack_b (x : Nat) (cs : List Cand) (good : Bool) (s : State) (h : Bounded s) :
    Bounded (rerankBack x cs good s) := by
  unfold rerankBack
  repeat' (first | with_reducible assumption | split | (dsimp only; split) | with_reducible apply updQuery_b | with_reducible apply tryFinish_b | (with_reducible refine foldl_b _ _ _ ?_ ?_) | (intro t x ht) | (dsimp only))

theorem vertexBack_b (x : Nat) (ns : List Nat) (good : Bool) (s : State) (h : Bounded s) :
    Bounded (vertexBack x ns good s) := by
  unfold vertexBack
  repeat' (first | with_reducible assumption | split | (dsimp only; split) | with_reducible apply updQuery_b | (with_reducible refine foldl_b _ _ _ ?_ ?_) | (intro t x ht) | (dsimp only))

theorem mapBack_b (t id : Nat) (good : Bool) (s : State) (h : Bounded s) :
    Bounded (mapBack t id good s) := by
  unfold mapBack
  repeat' (first | with_reducible assumption | split | (dsimp only; split) | with_reducible apply updIdx_b | with_reducible apply updCmd_b | with_reducible apply issueUnits_b | (with_reducible refine foldl_b _ _ _ ?_ ?_) | (intro t x ht) | (dsimp only))

theorem mineBack_b (t : Nat) (cs : List Cand) (good : Bool) (s : State) (h : Bounded s) :
    Bounded (mineBack t cs good s) := by
  unfold mineBack
  repeat' (first | with_reducible assumption | split | (dsimp only; split) | (with_reducible refine foldl_b _ _ _ ?_ ?_) | (intro t x ht) | (dsimp only))

theorem readBack_b (p : Purpose) (good : Bool) (s : State) (h : Bounded s) :
    Bounded (readBack p good s) := by
  unfold readBack
  repeat' (first | with_reducible assumption | split | (dsimp only; split) | with_reducible apply updCmd_b | with_reducible apply rerankBack_b | with_reducible apply vertexBack_b | with_reducible apply mapBack_b | with_reducible apply mineBack_b | (with_reducible refine foldl_b _ _ _ ?_ ?_) | (intro t x ht) | (dsimp only))

theorem goneReads_b (s : State) (h : Bounded s) :
    Bounded (goneReads s) := by
  unfold goneReads
  repeat' (first | with_reducible assumption | split | (dsimp only; split) | with_reducible apply readBack_b | (with_reducible refine foldl_b _ _ _ ?_ ?_) | (intro t x ht) | (dsimp only))

theorem countGrant_b (q : Nat) (s : State) (h : Bounded s) :
    Bounded (countGrant q s) := by
  unfold countGrant
  repeat' (first | with_reducible assumption | split | (dsimp only; split) | with_reducible apply rotateTo_b | (with_reducible refine foldl_b _ _ _ ?_ ?_) | (intro t x ht) | (dsimp only))

theorem wake_b (o : Op) (s : State) (h : Bounded s) :
    Bounded (wake o s) := by
  unfold wake
  repeat' (first | with_reducible assumption | split | (dsimp only; split) | with_reducible apply countHealth_b | (with_reducible refine foldl_b _ _ _ ?_ ?_) | (intro t x ht) | (dsimp only))

theorem takeEntry_b (c : Cmd) (q : Qp) (s : State) (h : Bounded s) :
    Bounded (takeEntry c q s) := by
  unfold takeEntry
  repeat' (first | with_reducible assumption | split | (dsimp only; split) | with_reducible apply updQp_b | with_reducible apply useFree_b | with_reducible apply updTag_b | (with_reducible refine foldl_b _ _ _ ?_ ?_) | (intro t x ht) | (dsimp only))

theorem askData_b (c : Cmd) (addr len : Nat) (s : State) (h : Bounded s) :
    Bounded (askData c addr len s) := by
  unfold askData
  repeat' (first | with_reducible assumption | split | (dsimp only; split) | with_reducible apply emit_b | with_reducible apply updCmd_b | with_reducible apply setPhase_b | (with_reducible refine foldl_b _ _ _ ?_ ?_) | (intro t x ht) | (dsimp only))

theorem beginResketch_b (c : Cmd) (s : State) (h : Bounded s) :
    Bounded (beginResketch c s) := by
  unfold beginResketch
  repeat' (first | with_reducible assumption | split | (dsimp only; split) | with_reducible apply updIdx_b | with_reducible apply updCmd_b | with_reducible apply finish_b | with_reducible apply refuse_b | with_reducible apply setPhase_b | with_reducible apply markChanged_b | with_reducible apply keepTables_b | (with_reducible refine foldl_b _ _ _ ?_ ?_) | (intro t x ht) | (dsimp only))

theorem emptySlot_b (f slot : Nat) (s : State) (h : Bounded s) :
    Bounded (emptySlot f slot s) := by
  unfold emptySlot
  repeat' (first | with_reducible assumption | split | (dsimp only; split) | with_reducible apply updMod_b | (with_reducible refine foldl_b _ _ _ ?_ ?_) | (intro t x ht) | (dsimp only))

theorem beginModelLoad_b (c : Cmd) (s : State) (h : Bounded s) :
    Bounded (beginModelLoad c s) := by
  unfold beginModelLoad
  repeat' (first | with_reducible assumption | split | (dsimp only; split) | with_reducible apply refuse_b | with_reducible apply setPhase_b | with_reducible apply queueCmdSeg_b | with_reducible apply emptySlot_b | (with_reducible refine foldl_b _ _ _ ?_ ?_) | (intro t x ht) | (dsimp only))

theorem beginQuery_b (c : Cmd) (s : State) (h : Bounded s) :
    Bounded (beginQuery c s) := by
  unfold beginQuery
  repeat' (first | with_reducible assumption | split | (dsimp only; split) | with_reducible apply updFacet_b | with_reducible apply setPhase_b | with_reducible apply beginDomain_b | (with_reducible refine foldl_b _ _ _ ?_ ?_) | (intro t x ht) | (dsimp only))

theorem beginCmd_b (c : Cmd) (s : State) (h : Bounded s) :
    Bounded (beginCmd c s) := by
  unfold beginCmd
  repeat' (first | with_reducible assumption | split | (dsimp only; split) | with_reducible apply refuse_b | with_reducible apply setPhase_b | with_reducible apply beginFlush_b | with_reducible apply deletePair_b | with_reducible apply abortCmd_b | with_reducible apply resumePair_b | with_reducible apply beginIdentify_b | with_reducible apply beginGetLog_b | with_reducible apply beginSetFeature_b | with_reducible apply beginGetFeature_b | with_reducible apply beginFwDownload_b | with_reducible apply beginFwCommit_b | with_reducible apply beginCreateQp_b | with_reducible apply beginFacetCreate_b | with_reducible apply beginFacetDestroy_b | with_reducible apply beginIndexCreate_b | with_reducible apply beginEvrControl_b | with_reducible apply beginLoad_b | with_reducible apply beginResketch_b | with_reducible apply beginModelLoad_b | with_reducible apply beginQuery_b | (with_reducible refine foldl_b _ _ _ ?_ ?_) | (intro t x ht) | (dsimp only))

theorem acceptCmd_b (c : Cmd) (s : State) (h : Bounded s) :
    Bounded (acceptCmd c s) := by
  unfold acceptCmd
  repeat' (first | with_reducible assumption | split | (dsimp only; split) | with_reducible apply updMod_b | with_reducible apply askData_b | with_reducible apply beginCmd_b | (with_reducible refine foldl_b _ _ _ ?_ ?_) | (intro t x ht) | (dsimp only))

theorem checkCmd_b (c : Cmd) (s : State) (h : Bounded s) :
    Bounded (checkCmd c s) := by
  unfold checkCmd
  repeat' (first | with_reducible assumption | split | (dsimp only; split) | with_reducible apply finish_b | with_reducible apply acceptCmd_b | (with_reducible refine foldl_b _ _ _ ?_ ?_) | (intro t x ht) | (dsimp only))

theorem turnCmd_b (c : Cmd) (s : State) (h : Bounded s) :
    Bounded (turnCmd c s) := by
  unfold turnCmd
  repeat' (first | with_reducible assumption | split | (dsimp only; split) | with_reducible apply finish_b | with_reducible apply acceptCmd_b | (with_reducible refine foldl_b _ _ _ ?_ ?_) | (intro t x ht) | (dsimp only))

theorem startSerial_b (n : Nat) (s : State) (h : Bounded s) : Bounded (startSerial n s) := by
  fun_induction startSerial n s
  case case4 ih => exact ih (turnCmd_b _ _ (updCmd_b _ _ _ h))
  all_goals exact h

theorem startFirmware_b (s : State) (h : Bounded s) :
    Bounded (startFirmware s) := by
  unfold startFirmware
  repeat' (first | with_reducible assumption | split | (dsimp only; split) | with_reducible apply beginFwDownload_b | with_reducible apply beginFwCommit_b | (with_reducible refine foldl_b _ _ _ ?_ ?_) | (intro t x ht) | (dsimp only))

theorem startPower_b (s : State) (h : Bounded s) :
    Bounded (startPower s) := by
  unfold startPower
  repeat' (first | with_reducible assumption | split | (dsimp only; split) | with_reducible apply beginPower_b | (with_reducible refine foldl_b _ _ _ ?_ ?_) | (intro t x ht) | (dsimp only))

theorem startResketches_b (s : State) (h : Bounded s) :
    Bounded (startResketches s) := by
  unfold startResketches
  repeat' (first | with_reducible assumption | split | (dsimp only; split) | with_reducible apply beginResketch_b | (with_reducible refine foldl_b _ _ _ ?_ ?_) | (intro t x ht) | (dsimp only))

theorem trimCaches_b (s : State) (h : Bounded s) :
    Bounded (trimCaches s) := by
  unfold trimCaches
  repeat' (first | with_reducible assumption | split | (dsimp only; split) | with_reducible apply trimCache_b | (with_reducible refine foldl_b _ _ _ ?_ ?_) | (intro t x ht) | (dsimp only))

theorem settle_b (s : State) (h : Bounded s) : Bounded (settle s) := by
  unfold settle
  extract_lets s1 s2 s3
  have h1 : Bounded s1 := by
    with_reducible exact dropProgress_b _ (trainProgress_b _ (migProgress_b _ (chordProgress_b _ (deletePairs_b _ (endStopped_b _ (goneReads_b _ h))))))
  have h2 : Bounded s2 := by with_reducible exact startResketches_b _ (startPower_b _ (startFirmware_b _ (startSerial_b _ _ h1)))
  have h3 : Bounded s3 := by with_reducible exact waitingMerges_b _ (waitingScans_b _ (stalledWalks_b _ (grantLocks_b _ (fetches_b _ (flushes_b _ h2)))))
  with_reducible exact trimCaches_b _ (grantCells_b _ (grantEngines_b _ (resumeCells_b _ (fetches_b _ (goneReads_b _ (startReads_b _ h3))))))

theorem fetchEntry_b (row : Op) (e : Entry) (s : State) (h : Bounded s) :
    Bounded (fetchEntry row e s) := by
  unfold fetchEntry
  repeat' (first | with_reducible assumption | split | (dsimp only; split) | with_reducible apply updQp_b | with_reducible apply updCmd_b | with_reducible apply bump_b | with_reducible apply finish_b | with_reducible apply endDiscard_b | with_reducible apply countGrant_b | with_reducible apply wake_b | with_reducible apply takeEntry_b | with_reducible apply checkCmd_b | with_reducible apply settle_b | (with_reducible refine foldl_b _ _ _ ?_ ?_) | (intro t x ht) | (dsimp only))

theorem trainHeader_b (c : Cmd) (d : Bytes) (s : State) (h : Bounded s) :
    Bounded (trainHeader c d s) := by
  unfold trainHeader
  repeat' (first | with_reducible assumption | split | (dsimp only; split) | with_reducible apply updCmd_b | with_reducible apply refuse_b | with_reducible apply askData_b | (with_reducible refine foldl_b _ _ _ ?_ ?_) | (intro t x ht) | (dsimp only))

theorem haveData_b (c : Cmd) (d : Bytes) (s : State) (h : Bounded s) :
    Bounded (haveData c d s) := by
  unfold haveData
  repeat' (first | with_reducible assumption | split | (dsimp only; split) | with_reducible apply updCmd_b | with_reducible apply refuse_b | with_reducible apply emptySlot_b | with_reducible apply beginCmd_b | (with_reducible refine foldl_b _ _ _ ?_ ?_) | (intro t x ht) | (dsimp only))

theorem hostData_b (t : Nat) (d : Bytes) (poisoned : Bool) (s : State) (h : Bounded s) :
    Bounded (hostData t d poisoned s) := by
  unfold hostData
  repeat' (first | with_reducible assumption | split | (dsimp only; split) | with_reducible apply endCmd_b | with_reducible apply settle_b | with_reducible apply trainHeader_b | with_reducible apply haveData_b | (with_reducible refine foldl_b _ _ _ ?_ ?_) | (intro t x ht) | (dsimp only))

theorem readTimeout_b (tag : Nat) (s : State) (h : Bounded s) :
    Bounded (readTimeout tag s) := by
  unfold readTimeout
  repeat' (first | with_reducible assumption | split | (dsimp only; split) | with_reducible apply endCmd_b | with_reducible apply settle_b | (with_reducible refine foldl_b _ _ _ ?_ ?_) | (intro t x ht) | (dsimp only))

theorem countStreamed_b (f slot : Nat) (hbm : List (Nat × Nat × Nat × Nat)) (s : State) (h : Bounded s) :
    Bounded (countStreamed f slot hbm s) := by
  unfold countStreamed
  repeat' (first | with_reducible assumption | split | (dsimp only; split) | (with_reducible refine foldl_b _ _ _ ?_ ?_) | (intro t x ht) | (dsimp only))

theorem armMemory_b (f slot cls : Nat) (hbm : List (Nat × Nat × Nat × Nat)) (s : State) (h : Bounded s) :
    Bounded (armMemory f slot cls hbm s) := by
  unfold armMemory
  repeat' (first | with_reducible assumption | split | (dsimp only; split) | with_reducible apply rotateTo_b | with_reducible apply armToMemory_b | (with_reducible refine foldl_b _ _ _ ?_ ?_) | (intro t x ht) | (dsimp only))

theorem stage_b (f slot cls kind count : Nat) (mk : State → Index → Plan) (s : State) (h : Bounded s) :
    Bounded (stage f slot cls kind count mk s) := by
  unfold stage
  repeat' (first | with_reducible assumption | split | (dsimp only; split) | with_reducible apply updIdx_b | with_reducible apply useFree_b | with_reducible apply rotateTo_b | with_reducible apply runJobs_b | with_reducible apply settle_b | with_reducible apply countStreamed_b | with_reducible apply armMemory_b | (with_reducible refine foldl_b _ _ _ ?_ ?_) | (intro t x ht) | (dsimp only))

theorem goOn_b (f slot : Nat) (s : State) (h : Bounded s) :
    Bounded (goOn f slot s) := by
  unfold goOn
  repeat' (first | with_reducible assumption | split | (dsimp only; split) | with_reducible apply updIdx_b | with_reducible apply runJobs_b | with_reducible apply settle_b | (with_reducible refine foldl_b _ _ _ ?_ ?_) | (intro t x ht) | (dsimp only))

theorem endMemory_b (f slot : Nat) (s : State) (h : Bounded s) :
    Bounded (endMemory f slot s) := by
  unfold endMemory
  repeat' (first | with_reducible assumption | split | (dsimp only; split) | with_reducible apply closeStreams_b | (with_reducible refine foldl_b _ _ _ ?_ ?_) | (intro t x ht) | (dsimp only))

theorem writeAgain_b (f slot : Nat) (ix : Index) (p : Plan) (s : State) (h : Bounded s) :
    Bounded (writeAgain f slot ix p s) := by
  unfold writeAgain
  repeat' (first | with_reducible assumption | split | (dsimp only; split) | with_reducible apply updIdx_b | with_reducible apply runJobs_b | with_reducible apply settle_b | (with_reducible refine foldl_b _ _ _ ?_ ?_) | (intro t x ht) | (dsimp only))

theorem publishPlan_b (f slot : Nat) (p : Plan) (s : State) (h : Bounded s) (hp : ∀ t, Bounded t → Bounded (p.also t)) :
    Bounded (publishPlan f slot p s) := by
  have h1 := hp s h
  unfold publishPlan
  revert h1
  generalize p.also s = t
  intro h1
  dsimp only
  with_reducible refine settle_b _ (useFree_b _ (foldl_b _ _ _ (writePages_b _ _ (markChanged_b _ _ (endMemory_b _ _ _ (updIdx_b _ _ _ _ h1)))) ?_))
  intro t k ht
  with_reducible exact keepChecks_b _ _ _ _ ht

theorem publish_b (f slot : Nat) (ix : Index) (p : Plan) (s : State) (h : Bounded s) (hp : ∀ t, Bounded t → Bounded (p.also t)) :
    Bounded (publish f slot ix p s) := by
  unfold publish
  exact ite_b _ _ _ (publishPlan_b _ _ _ _ h hp) (writeAgain_b _ _ _ _ _ h)

theorem unstage_b (f slot : Nat) (s : State) (h : Bounded s) :
    Bounded (unstage f slot s) := by
  unfold unstage
  repeat' (first | with_reducible assumption | split | (dsimp only; split) | with_reducible apply updIdx_b | with_reducible apply settle_b | with_reducible apply endMemory_b | (with_reducible refine foldl_b _ _ _ ?_ ?_) | (intro t x ht) | (dsimp only))

theorem carryLost_b (e : Nat) (gone : Unit' → Bool) (pairs : List (Unit' × Unit')) (s : State) (h : Bounded s) :
    Bounded (carryLost e gone pairs s) := by
  unfold carryLost
  repeat' (first | with_reducible assumption | split | (dsimp only; split) | (with_reducible refine foldl_b _ _ _ ?_ ?_) | (intro t x ht) | (dsimp only))

theorem overflows_b (f slot left : Nat) (ls : List Nat) (s : State) (h : Bounded s) :
    Bounded (overflows f slot left ls s) := by
  unfold overflows
  repeat' (first | with_reducible assumption | split | (dsimp only; split) | with_reducible apply record_b | (with_reducible refine foldl_b _ _ _ ?_ ?_) | (intro t x ht) | (dsimp only))

theorem countMoved_b (s : State) (ix : Index) (cls : Nat) (live : List SideEnt) (t : State) (h : Bounded t) :
    Bounded (countMoved s ix cls live t) := by
  unfold countMoved
  repeat' (first | with_reducible assumption | split | (dsimp only; split) | with_reducible apply countSketch_b | (with_reducible refine foldl_b _ _ _ ?_ ?_) | (intro t x ht) | (dsimp only))

theorem movePlan_b (s : State) (ix : Index) (cls : Nat) (es : List SideEnt) (t : State) (h : Bounded t) : Bounded ((movePlan s ix cls es).also t) := by
  unfold movePlan
  dsimp only
  exact carryLost_b _ _ _ _ (overflows_b _ _ _ _ _ (countMoved_b _ _ _ _ _ h))

theorem rewritePlan_b (s : State) (ix : Index) (d : ListDir) (t : State) (h : Bounded t) : Bounded ((rewritePlan s ix d).also t) := by
  unfold rewritePlan
  dsimp only
  refine carryLost_b _ _ _ _ (updFacet_b _ _ _ ?_)
  exact ⟨h.recs, h.elog, h.pool, h.slow, h.fast, h.a, h.b, h.c⟩

theorem insertPlan_b (s : State) (ix : Index) (cls : Nat) (es : List SideEnt) (t : State) (h : Bounded t) : Bounded ((insertPlan s ix cls es).also t) := by
  unfold insertPlan
  dsimp only
  exact carryLost_b _ _ _ _ (foldl_b _ _ _ h fun t x ht => countSketch_b _ _ _ _ _ _ ht)

theorem sweepPlan_b (s : State) (ix : Index) (w : Sweep) (t : State) (h : Bounded t) : Bounded ((sweepPlan s ix w).also t) := by
  unfold sweepPlan
  dsimp only
  exact h

theorem renumberPlan_b (s : State) (ix : Index) (t : State) (h : Bounded t) : Bounded ((renumberPlan s ix).also t) := by
  unfold renumberPlan
  dsimp only
  exact carryLost_b _ _ _ _ (bump_b _ _ _ _ (updFacet_b _ _ _ h))

theorem listPlan_b (s : State) (ix : Index) (w : Transition) (d : ListDir) (t : State) (h : Bounded t) : Bounded ((listPlan s ix w d).also t) := by
  unfold listPlan
  dsimp only
  refine foldl_b _ _ _ ?_ fun t x ht => countSketch_b _ _ _ _ _ _ ht
  exact ⟨h.recs, h.elog, h.pool, h.slow, h.fast, h.a, h.b, h.c⟩

theorem chunkPlan_b (s : State) (ix : Index) (w : Transition) (t : State) (h : Bounded t) : Bounded ((chunkPlan s ix w).also t) := by
  unfold chunkPlan
  dsimp only
  exact foldl_b _ _ _ h fun t x ht => countSketch_b _ _ _ _ _ _ ht

theorem resketchPlan_b (s : State) (ix : Index) (w : Transition) (p : Plan) (t : State) (hp : resketchPlan s ix w = some p)
    (h : Bounded t) : Bounded (p.also t) := by
  unfold resketchPlan at hp
  split at hp
  · obtain ⟨d, -, rfl⟩ := Option.map_eq_some_iff.mp hp
    exact listPlan_b _ _ _ _ _ h
  · split at hp
    · cases hp
    · cases hp
      exact chunkPlan_b _ _ _ _ h

theorem compactionMove_b (f slot count : Nat) (s : State) (h : Bounded s) : Bounded (compactionMove f slot count s) := by
  unfold compactionMove
  repeat' (first | with_reducible assumption | (with_reducible refine publish_b _ _ _ _ _ ?_ fun t ht => movePlan_b _ _ _ _ _ ht) | split | (dsimp only; split) | with_reducible apply stage_b | with_reducible apply unstage_b | with_reducible apply updIdx_b | with_reducible apply settle_b | with_reducible apply goOn_b)

theorem listRewrite_b (f slot : Nat) (s : State) (h : Bounded s) : Bounded (listRewrite f slot s) := by
  unfold listRewrite
  repeat' (first | with_reducible assumption | (with_reducible refine publish_b _ _ _ _ _ ?_ fun t ht => rewritePlan_b _ _ _ _ ht) | split | (dsimp only; split) | with_reducible apply stage_b | with_reducible apply unstage_b | with_reducible apply updIdx_b | with_reducible apply settle_b | with_reducible apply goOn_b)

theorem graphInsert_b (f slot count : Nat) (s : State) (h : Bounded s) : Bounded (graphInsert f slot count s) := by
  unfold graphInsert
  repeat' (first | with_reducible assumption | (with_reducible refine publish_b _ _ _ _ _ ?_ fun t ht => insertPlan_b _ _ _ _ _ ht) | split | (dsimp only; split) | with_reducible apply stage_b | with_reducible apply unstage_b | with_reducible apply updIdx_b | with_reducible apply settle_b | with_reducible apply goOn_b)

theorem repairSweepUnit_b (f slot : Nat) (s : State) (h : Bounded s) : Bounded (repairSweepUnit f slot s) := by
  unfold repairSweepUnit
  repeat' (first | with_reducible assumption | (with_reducible refine publish_b _ _ _ _ _ ?_ fun t ht => sweepPlan_b _ _ _ _ ht) | split | (dsimp only; split) | with_reducible apply stage_b | with_reducible apply unstage_b | with_reducible apply updIdx_b | with_reducible apply settle_b | with_reducible apply goOn_b | (with_reducible refine allJobs_b _ _ _ _ _ _ ?_ (by assumption)))

theorem renumbering_b (f slot : Nat) (s : State) (h : Bounded s) : Bounded (renumbering f slot s) := by
  unfold renumbering
  repeat' (first | with_reducible assumption | (with_reducible refine publish_b _ _ _ _ _ ?_ fun t ht => renumberPlan_b _ _ _ ht) | split | (dsimp only; split) | with_reducible apply stage_b | with_reducible apply unstage_b | with_reducible apply updIdx_b | with_reducible apply settle_b | with_reducible apply goOn_b | with_reducible apply record_b | with_reducible apply bump_b)

theorem endTransition_b (f slot : Nat) (t : Transition) (s : State) (h : Bounded s) :
    Bounded (endTransition f slot t s) := by
  unfold endTransition
  repeat' (first | with_reducible assumption | split | (dsimp only; split) | with_reducible apply updIdx_b | with_reducible apply succeed_b | with_reducible apply markChanged_b | (with_reducible refine foldl_b _ _ _ ?_ ?_) | (intro t x ht) | (dsimp only))

theorem resketchStep_b (f slot : Nat) (s : State) (h : Bounded s) : Bounded (resketchStep f slot s) := by
  unfold resketchStep
  repeat' (first | with_reducible assumption | (with_reducible refine publish_b _ _ _ _ _ ?_ fun t ht => resketchPlan_b _ _ _ _ _ (by assumption) ht) | split | (dsimp only; split) | with_reducible apply stage_b | with_reducible apply unstage_b | with_reducible apply updIdx_b | with_reducible apply settle_b | with_reducible apply goOn_b | with_reducible apply endTransition_b)

theorem logCheckpoint_b (f : Nat) (s : State) (h : Bounded s) :
    Bounded (logCheckpoint f s) := by
  unfold logCheckpoint
  repeat' (first | with_reducible assumption | split | (dsimp only; split) | with_reducible apply updFacet_b | with_reducible apply useFree_b | with_reducible apply allJobs_getD_b | (with_reducible refine allJobs_b _ _ _ _ _ _ ?_ (by assumption)) | (with_reducible refine foldl_b _ _ _ ?_ ?_) | (intro t x ht) | (dsimp only))

theorem tileDrain_b (e : Nat) (s : State) (h : Bounded s) :
    Bounded (tileDrain e s) := by
  unfold tileDrain
  repeat' (first | with_reducible assumption | split | (dsimp only; split) | with_reducible apply charge_b | with_reducible apply busyEnded_b | with_reducible apply drainSearch_b | with_reducible apply drainNode_b | with_reducible apply settle_b | (with_reducible refine foldl_b _ _ _ ?_ ?_) | (intro t x ht) | (dsimp only))

theorem shadowFinish_b (f slot : Nat) (s : State) (h : Bounded s) :
    Bounded (shadowFinish f slot s) := by
  unfold shadowFinish
  repeat' (first | with_reducible assumption | split | (dsimp only; split) | with_reducible apply updFacet_b | with_reducible apply bump_b | with_reducible apply useFree_b | with_reducible apply record_b | with_reducible apply chargeWork_b | (with_reducible refine foldl_b _ _ _ ?_ ?_) | (intro t x ht) | (dsimp only))

theorem countSliver_b (s0 : State) (ix : Index) (v : Sliver) (s : State) (h : Bounded s) :
    Bounded (countSliver s0 ix v s) := by
  unfold countSliver
  repeat' (first | with_reducible assumption | split | (dsimp only; split) | with_reducible apply bump_b | (with_reducible refine foldl_b _ _ _ ?_ ?_) | (intro t x ht) | (dsimp only))

theorem endStream_b (c : Nat) (s : State) (h : Bounded s) :
    Bounded (endStream c s) := by
  unfold endStream
  repeat' (first | with_reducible assumption | split | (dsimp only; split) | with_reducible apply drainStream_b | with_reducible apply nextStream_b | (with_reducible refine foldl_b _ _ _ ?_ ?_) | (intro t x ht) | (dsimp only))

theorem commitMembers_b (c : Nat) (ix : Index) (v : Sliver) (s : State) (h : Bounded s) :
    Bounded (commitMembers c ix v s) := by
  unfold commitMembers
  repeat' (first | with_reducible assumption | split | (dsimp only; split) | (with_reducible refine foldl_b _ _ _ ?_ ?_) | (intro t x ht) | (dsimp only))

theorem endSliver_b (c : Nat) (ix : Index) (v : Sliver) (s : State) (h : Bounded s) :
    Bounded (endSliver c ix v s) := by
  unfold endSliver
  repeat' (first | with_reducible assumption | split | (dsimp only; split) | with_reducible apply rotateTo_b | with_reducible apply chargeCell_b | with_reducible apply updCell_b | with_reducible apply chipMerge_b | with_reducible apply countSliver_b | with_reducible apply endStream_b | with_reducible apply commitMembers_b | (with_reducible refine foldl_b _ _ _ ?_ ?_) | (intro t x ht) | (dsimp only))

theorem sliverFinish_b (c : Nat) (s : State) (h : Bounded s) :
    Bounded (sliverFinish c s) := by
  unfold sliverFinish
  repeat' (first | with_reducible assumption | split | (dsimp only; split) | with_reducible apply useFree_b | with_reducible apply runJobs_b | with_reducible apply updCell_b | with_reducible apply settle_b | with_reducible apply endSliver_b | (with_reducible refine foldl_b _ _ _ ?_ ?_) | (intro t x ht) | (dsimp only))

theorem heapFull_b (c : Nat) (s : State) (h : Bounded s) :
    Bounded (heapFull c s) := by
  unfold heapFull
  repeat' (first | with_reducible assumption | split | (dsimp only; split) | with_reducible apply popStream_b | with_reducible apply updCell_b | (with_reducible refine foldl_b _ _ _ ?_ ?_) | (intro t x ht) | (dsimp only))

theorem steal_b (c : Nat) (s : State) (h : Bounded s) :
    Bounded (steal c s) := by
  unfold steal
  repeat' (first | with_reducible assumption | split | (dsimp only; split) | with_reducible apply takeStolen_b | (with_reducible refine foldl_b _ _ _ ?_ ?_) | (intro t x ht) | (dsimp only))

theorem switchCell_b (c : Nat) (v : Sliver) (b : Bool) (s : State) (h : Bounded s) :
    Bounded (switchCell c v b s) := by
  unfold switchCell
  repeat' (first | with_reducible assumption | split | (dsimp only; split) | with_reducible apply bump_b | with_reducible apply useFree_b | with_reducible apply charge_b | with_reducible apply rotateTo_b | with_reducible apply chargeCell_b | with_reducible apply updCell_b | with_reducible apply startSliver_b | (with_reducible refine foldl_b _ _ _ ?_ ?_) | (intro t x ht) | (dsimp only))

theorem swapCell_b (c : Nat) (s : State) (h : Bounded s) :
    Bounded (swapCell c s) := by
  unfold swapCell
  repeat' (first | with_reducible assumption | split | (dsimp only; split) | with_reducible apply bump_b | with_reducible apply useFree_b | with_reducible apply charge_b | with_reducible apply chargeCell_b | with_reducible apply updCell_b | with_reducible apply nextStream_b | (with_reducible refine foldl_b _ _ _ ?_ ?_) | (intro t x ht) | (dsimp only))

theorem switchOf_b (s : State) (b : Nat) (p : Nat × Sliver) (t : State) (h : Bounded s) (e : switchOf s b p = some t) : Bounded t := by
  unfold switchOf at e
  try extract_lets at e
  repeat' (first | (cases e; done) | (cases e; with_reducible exact h) | (simp only [Option.map_eq_some_iff] at e; obtain ⟨c, -, rfl⟩ := e) | split at e | (cases e) | with_reducible apply switchCell_b | with_reducible apply swapCell_b | with_reducible assumption)

theorem cellSwitch_b (b : Nat) (s : State) (h : Bounded s) : Bounded (cellSwitch b s) := by
  unfold cellSwitch
  cases e : (switchable s b).findSome? (switchOf s b) with
  | none => exact h
  | some t =>
    obtain ⟨p, -, hp⟩ := List.exists_of_findSome?_eq_some e
    exact switchOf_b _ _ _ _ h hp

theorem giveUpSlivers_b (x : Nat) (s : State) (h : Bounded s) :
    Bounded (giveUpSlivers x s) := by
  unfold giveUpSlivers
  repeat' (first | with_reducible assumption | split | (dsimp only; split) | (with_reducible refine foldl_b _ _ _ ?_ ?_) | (intro t x ht) | (dsimp only))

theorem cutStage_b (q : Query) (s : State) (h : Bounded s) :
    Bounded (cutStage q s) := by
  unfold cutStage
  repeat' (first | with_reducible assumption | split | (dsimp only; split) | with_reducible apply bump_b | (with_reducible refine foldl_b _ _ _ ?_ ?_) | (intro t x ht) | (dsimp only))

theorem scanCheckpoint_b (x : Nat) (s : State) (h : Bounded s) :
    Bounded (scanCheckpoint x s) := by
  unfold scanCheckpoint
  repeat' (first | with_reducible assumption | split | (dsimp only; split) | with_reducible apply updQuery_b | with_reducible apply chipMerge_b | with_reducible apply settle_b | with_reducible apply stage_b | with_reducible apply giveUpSlivers_b | with_reducible apply cutStage_b | (with_reducible refine foldl_b _ _ _ ?_ ?_) | (intro t x ht) | (dsimp only))

theorem commitAt_b (tag : Nat) (s : State) (h : Bounded s) :
    Bounded (commitAt tag s) := by
  unfold commitAt
  repeat' (first | with_reducible assumption | split | (dsimp only; split) | with_reducible apply floorAdvance_b | with_reducible apply commitWrite_b | with_reducible apply settle_b | (with_reducible refine foldl_b _ _ _ ?_ ?_) | (intro t x ht) | (dsimp only))

theorem setCtrl_b (v : Word64) (s : State) (h : Bounded s) :
    Bounded (setCtrl v s) := by
  unfold setCtrl
  repeat' (first | with_reducible assumption | split | (dsimp only; split) | with_reducible apply updMig_b | (with_reducible refine foldl_b _ _ _ ?_ ?_) | (intro t x ht) | (dsimp only))

theorem setAccept_b (v : Word64) (s : State) (h : Bounded s) :
    Bounded (setAccept v s) := by
  unfold setAccept
  repeat' (first | with_reducible assumption | split | (dsimp only; split) | with_reducible apply updMig_b | (with_reducible refine foldl_b _ _ _ ?_ ?_) | (intro t x ht) | (dsimp only))

theorem noteReread_b (pl : Nat × Nat × Nat) (sp : Nat × Nat) (n : Nat) (s : State) (h : Bounded s) :
    Bounded (noteReread pl sp n s) := by
  unfold noteReread
  repeat' (first | with_reducible assumption | split | (dsimp only; split) | with_reducible apply bumpRas_b | with_reducible apply record_b | (with_reducible refine foldl_b _ _ _ ?_ ?_) | (intro t x ht) | (dsimp only))

theorem loseUnit_b (e : Nat) (u : Unit') (s : State) (h : Bounded s) :
    Bounded (loseUnit e u s) := by
  unfold loseUnit
  repeat' (first | with_reducible assumption | split | (dsimp only; split) | with_reducible apply bumpRas_b | with_reducible apply record_b | (with_reducible refine foldl_b _ _ _ ?_ ?_) | (intro t x ht) | (dsimp only))

theorem failUnit_b (e : Nat) (u : Unit') (s : State) (h : Bounded s) :
    Bounded (failUnit e u s) := by
  unfold failUnit
  repeat' (first | with_reducible assumption | split | (dsimp only; split) | with_reducible apply loseUnit_b | (with_reducible refine foldl_b _ _ _ ?_ ?_) | (intro t x ht) | (dsimp only))

theorem noteRead_b (pl : Nat × Nat × Nat) (e : Nat) (u : Unit') (r : ReadResult) (s : State) (h : Bounded s) :
    Bounded (noteRead pl e u r s) := by
  unfold noteRead
  repeat' (first | with_reducible assumption | split | (dsimp only; split) | with_reducible apply bumpRas_b | with_reducible apply noteReread_b | with_reducible apply loseUnit_b | with_reducible apply failUnit_b | (with_reducible refine foldl_b _ _ _ ?_ ?_) | (intro t x ht) | (dsimp only))

theorem countRead_b (ch d pl : Nat) (r : Read) (res : ReadResult) (s : State) (h : Bounded s) :
    Bounded (countRead ch d pl r res s) := by
  unfold countRead
  repeat' (first | with_reducible assumption | split | (dsimp only; split) | with_reducible apply bump_b | with_reducible apply chargeRead_b | with_reducible apply noteRead_b | (with_reducible refine foldl_b _ _ _ ?_ ?_) | (intro t x ht) | (dsimp only))

theorem leavePlane_b (ch d : Nat) (r : Read) (s : State) (h : Bounded s) :
    Bounded (leavePlane ch d r s) := by
  unfold leavePlane
  repeat' (first | with_reducible assumption | split | (dsimp only; split) | with_reducible apply updDie_b | with_reducible apply startPlanes_b | with_reducible apply freeReadTag_b | with_reducible apply busyEnded_b | (with_reducible refine foldl_b _ _ _ ?_ ?_) | (intro t x ht) | (dsimp only))

theorem readComplete_b (ch d pl : Nat) (res : ReadResult) (s : State) (h : Bounded s) :
    Bounded (readComplete ch d pl res s) := by
  unfold readComplete
  repeat' (first | with_reducible assumption | split | (dsimp only; split) | with_reducible apply readBack_b | with_reducible apply settle_b | with_reducible apply countRead_b | with_reducible apply leavePlane_b | (with_reducible refine foldl_b _ _ _ ?_ ?_) | (intro t x ht) | (dsimp only))

theorem spareCheck_b (s : State) (h : Bounded s) :
    Bounded (spareCheck s) := by
  unfold spareCheck
  repeat' (first | with_reducible assumption | split | (dsimp only; split) | with_reducible apply record_b | (with_reducible refine foldl_b _ _ _ ?_ ?_) | (intro t x ht) | (dsimp only))

theorem copyUnit_b (reads : List Job) (u : Unit') (s : State) (h : Bounded s) :
    Bounded (copyUnit reads u s) := by
  unfold copyUnit
  repeat' (first | with_reducible assumption | split | (dsimp only; split) | with_reducible apply useFree_b | with_reducible apply allJobs_getD_b | (with_reducible refine allJobs_b _ _ _ _ _ _ ?_ (by assumption)) | (with_reducible refine foldl_b _ _ _ ?_ ?_) | (intro t x ht) | (dsimp only))

theorem retireBlock_b (b : Nat × Nat × Nat × Nat) (cause : Nat) (s : State) (h : Bounded s) :
    Bounded (retireBlock b cause s) := by
  unfold retireBlock
  repeat' (first | with_reducible assumption | split | (dsimp only; split) | with_reducible apply bumpRas_b | with_reducible apply record_b | with_reducible apply spareCheck_b | (with_reducible refine foldl_b _ _ _ ?_ ?_) | (intro t x ht) | (dsimp only))

theorem leaveBlock_b (s : State) (b : Nat × Nat × Nat × Nat) (h : Bounded s) :
    Bounded (leaveBlock s b) := by
  unfold leaveBlock
  repeat' (first | with_reducible assumption | split | (dsimp only; split) | with_reducible apply copyUnit_b | with_reducible apply retireBlock_b | (with_reducible refine foldl_b _ _ _ ?_ ?_) | (intro t x ht) | (dsimp only))

theorem leaveBlocks_b (s : State) (h : Bounded s) :
    Bounded (leaveBlocks s) := by
  unfold leaveBlocks
  repeat' (first | with_reducible assumption | split | (dsimp only; split) | with_reducible apply leaveBlock_b | (with_reducible refine foldl_b _ _ _ ?_ ?_) | (intro t x ht) | (dsimp only))

theorem noteRebuilt_b (u : Unit') (old : Nat) (s : State) (h : Bounded s) :
    Bounded (noteRebuilt u old s) := by
  unfold noteRebuilt
  repeat' (first | with_reducible assumption | split | (dsimp only; split) | with_reducible apply bumpRas_b | with_reducible apply record_b | (with_reducible refine foldl_b _ _ _ ?_ ?_) | (intro t x ht) | (dsimp only))

theorem moveDone_b (u : Unit') (old word gen : Nat) (s : State) (h : Bounded s) :
    Bounded (moveDone u old word gen s) := by
  unfold moveDone
  repeat' (first | with_reducible assumption | split | (dsimp only; split) | with_reducible apply markChanged_b | with_reducible apply putPage_b | with_reducible apply joinParity_b | with_reducible apply leaveBlocks_b | with_reducible apply noteRebuilt_b | (with_reducible refine foldl_b _ _ _ ?_ ?_) | (intro t x ht) | (dsimp only))

theorem refreshPrefetch_b (s : State) (h : Bounded s) :
    Bounded (refreshPrefetch s) := by
  unfold refreshPrefetch
  repeat' (first | with_reducible assumption | split | (dsimp only; split) | (with_reducible refine foldl_b _ _ _ ?_ ?_) | (intro t x ht) | (dsimp only))

theorem weightsWritten_b (c : Cmd) (s : State) (h : Bounded s) :
    Bounded (weightsWritten c s) := by
  unfold weightsWritten
  repeat' (first | with_reducible assumption | split | (dsimp only; split) | with_reducible apply updMod_b | (with_reducible refine foldl_b _ _ _ ?_ ?_) | (intro t x ht) | (dsimp only))

theorem readySlot_b (m : ModelSlot) (s : State) (h : Bounded s) :
    Bounded (readySlot m s) := by
  unfold readySlot
  repeat' (first | with_reducible assumption | split | (dsimp only; split) | with_reducible apply updMod_b | with_reducible apply succeed_b | (with_reducible refine foldl_b _ _ _ ?_ ?_) | (intro t x ht) | (dsimp only))

theorem readySlots_b (s : State) (h : Bounded s) :
    Bounded (readySlots s) := by
  unfold readySlots
  repeat' (first | with_reducible assumption | split | (dsimp only; split) | with_reducible apply refreshPrefetch_b | with_reducible apply readySlot_b | (with_reducible refine foldl_b _ _ _ ?_ ?_) | (intro t x ht) | (dsimp only))

theorem writesDone_b (tag : Nat) (s : State) (h : Bounded s) :
    Bounded (writesDone tag s) := by
  unfold writesDone
  repeat' (first | with_reducible assumption | split | (dsimp only; split) | with_reducible apply endFwCommit_b | with_reducible apply endIndexCreate_b | with_reducible apply weightsWritten_b | (with_reducible refine foldl_b _ _ _ ?_ ?_) | (intro t x ht) | (dsimp only))

theorem writesFailed_b (tag : Nat) (s : State) (h : Bounded s) :
    Bounded (writesFailed tag s) := by
  unfold writesFailed
  repeat' (first | with_reducible assumption | split | (dsimp only; split) | with_reducible apply finish_b | with_reducible apply emptySlot_b | (with_reducible refine foldl_b _ _ _ ?_ ?_) | (intro t x ht) | (dsimp only))

theorem segDone_b (g : Seg) (s : State) (h : Bounded s) :
    Bounded (segDone g s) := by
  unfold segDone
  repeat' (first | with_reducible assumption | split | (dsimp only; split) | with_reducible apply logUnitDone_b | with_reducible apply scrubOn_b | with_reducible apply moveDone_b | with_reducible apply writesDone_b | (with_reducible refine foldl_b _ _ _ ?_ ?_) | (intro t x ht) | (dsimp only))

theorem leaveDie_b (ch d : Nat) (rest : Option Seg) (s : State) (h : Bounded s) :
    Bounded (leaveDie ch d rest s) := by
  unfold leaveDie
  repeat' (first | with_reducible assumption | split | (dsimp only; split) | with_reducible apply updDie_b | with_reducible apply startPlanes_b | with_reducible apply busyEnded_b | (with_reducible refine foldl_b _ _ _ ?_ ?_) | (intro t x ht) | (dsimp only))

theorem segmentComplete_b (ch d : Nat) (res : SegResult) (s : State) (h : Bounded s) :
    Bounded (segmentComplete ch d res s) := by
  unfold segmentComplete
  repeat' (first | with_reducible assumption | split | (dsimp only; split) | with_reducible apply bumpRas_b | with_reducible apply useFree_b | with_reducible apply moveUnits_b | with_reducible apply chargeDie_b | with_reducible apply settle_b | with_reducible apply spareCheck_b | with_reducible apply retireBlock_b | with_reducible apply leaveBlocks_b | with_reducible apply writesFailed_b | with_reducible apply segDone_b | with_reducible apply leaveDie_b | (with_reducible refine foldl_b _ _ _ ?_ ?_) | (intro t x ht) | (dsimp only))

theorem suspendSegment_b (ch d : Nat) (s : State) (h : Bounded s) :
    Bounded (suspendSegment ch d s) := by
  unfold suspendSegment
  repeat' (first | with_reducible assumption | split | (dsimp only; split) | with_reducible apply updDie_b | with_reducible apply startPlanes_b | with_reducible apply chargeDie_b | with_reducible apply busyEnded_b | with_reducible apply settle_b | (with_reducible refine foldl_b _ _ _ ?_ ?_) | (intro t x ht) | (dsimp only))

theorem nowRunning_b (tag n : Nat) (s : State) (h : Bounded s) :
    Bounded (nowRunning tag n s) := by
  unfold nowRunning
  repeat' (first | with_reducible assumption | split | (dsimp only; split) | with_reducible apply updCmd_b | with_reducible apply setPhase_b | (with_reducible refine foldl_b _ _ _ ?_ ?_) | (intro t x ht) | (dsimp only))

theorem seat_b (graph : Bool) (f cls : Nat) (mk : Nat → Nat → Query) (s t : State) (h : Bounded s)
    (e : seat graph f cls mk s = some t) : Bounded t := by
  unfold seat at e
  split at e
  · cases e
  · dsimp only at e
    split at e
    · simp only [Option.map_eq_some_iff] at e
      obtain ⟨w, -, rfl⟩ := e
      exact updFacet_b _ _ _ h
    · cases e
      exact h

theorem seatAll_b (s : State) (ix : Index) (a : Asked) (t : State) (h : Bounded s) (e : seatAll s ix a = some t) : Bounded t := by
  unfold seatAll at e
  have key : ∀ (l : List Nat) (o : Option State), (∀ u, o = some u → Bounded u) →
      ∀ t, l.foldl (fun (acc : Option State) i => acc.bind (seat (ix.geo.mode == 1) a.facet a.cls (askedQuery s ix a i))) o = some t →
      Bounded t := by
    intro l
    induction l with
    | nil => intro o ho t ht; exact ho t ht
    | cons i l ih =>
      intro o ho t ht
      refine ih _ ?_ t ht
      intro u hu
      simp only [Option.bind_eq_some_iff] at hu
      obtain ⟨v, hv, hu⟩ := hu
      exact seat_b _ _ _ _ _ _ (ho v hv) hu
  exact key _ (some s) (by rintro u ⟨⟩; exact h) t e

theorem admitAsked_b (e : Nat) (ix : Index) (a : Asked) (after : State → State) (m : Adm) (hm : Bounded m.st)
    (h : ∀ t, Bounded t → Bounded (after t)) : Bounded (admitAsked e ix a after m).st := by
  unfold admitAsked
  dsimp only
  repeat' (first | exact hm | exact h _ (seatAll_b _ _ _ _ hm (by assumption)) | split)

theorem admitEntry_b (m : Adm) (e : Nat) (hm : Bounded m.st) : Bounded (admitEntry m e).st := by
  unfold admitEntry
  repeat' (first | exact hm | split)
  · exact admitAsked_b _ _ _ _ _ hm fun t ht => nowRunning_b _ _ _ ht
  · exact tryGather_b _ _ (updDom_b _ _ _ hm)
  · exact admitAsked_b _ _ _ _ _ hm fun t ht => nowRunning_b _ _ _ ht

theorem admitMining_b (tag n : Nat) (s : State) (h : Bounded s) : Bounded (admitMining tag n s) := by
  fun_induction admitMining tag n s
  case case5 hs ih =>
    have ht := seat_b _ _ _ _ _ _ h hs
    exact ih ht
  all_goals exact h

theorem cohortTiles_b (f : Nat) (s : State) (h : Bounded s) :
    Bounded (cohortTiles f s) := by
  unfold cohortTiles
  repeat' (first | with_reducible assumption | split | (dsimp only; split) | (with_reducible refine foldl_b _ _ _ ?_ ?_) | (intro t x ht) | (dsimp only))

theorem admitMinings_b (f : Nat) (s : State) (h : Bounded s) :
    Bounded (admitMinings f s) := by
  unfold admitMinings
  repeat' (first | with_reducible assumption | split | (dsimp only; split) | with_reducible apply admitMining_b | (with_reducible refine foldl_b _ _ _ ?_ ?_) | (intro t x ht) | (dsimp only))

theorem admitFacet_b (s : State) (f : Nat) (h : Bounded s) : Bounded (admitFacet s f) := by
  have key : ∀ (l : List Nat) (m : Adm), Bounded m.st → Bounded (l.foldl admitEntry m).st := by
    intro l
    induction l with
    | nil => intro m hm; exact hm
    | cons a l ih => intro m hm; exact ih _ (admitEntry_b m a hm)
  unfold admitFacet
  dsimp only
  split
  · exact h
  split
  · exact cohortTiles_b _ _ (admitMinings_b _ _ h)
  · have h2 := key (facetOf s f).admission ⟨s, false, false, [], []⟩ h
    revert h2
    generalize List.foldl admitEntry _ _ = m
    intro h2
    refine cohortTiles_b _ _ (admitTrains_b _ _ (admitEncodes_b _ _ ?_))
    have h3 : Bounded (m.waited.foldl (fun t c => bump f (kCls c 9) 1 t) (updFacet f (fun y => { y with admission := m.rest }) m.st)) :=
      foldl_b _ _ _ (updFacet_b _ _ _ h2) fun t x ht => bump_b _ _ _ _ ht
    split
    · exact h3
    · exact admitMinings_b _ _ h3

theorem joinDomains_b (s : State) (h : Bounded s) :
    Bounded (joinDomains s) := by
  unfold joinDomains
  repeat' (first | with_reducible assumption | split | (dsimp only; split) | with_reducible apply updFacet_b | with_reducible apply updDom_b | (with_reducible refine foldl_b _ _ _ ?_ ?_) | (intro t x ht) | (dsimp only))

theorem advanceEpoch_b (s : State) (f : Nat) (h : Bounded s) :
    Bounded (advanceEpoch s f) := by
  unfold advanceEpoch
  repeat' (first | with_reducible assumption | split | (dsimp only; split) | with_reducible apply updFacet_b | with_reducible apply closeReady_b | (with_reducible refine foldl_b _ _ _ ?_ ?_) | (intro t x ht) | (dsimp only))

theorem dropStale_b (s : State) (h : Bounded s) :
    Bounded (dropStale s) := by
  unfold dropStale
  repeat' (first | with_reducible assumption | split | (dsimp only; split) | (with_reducible refine foldl_b _ _ _ ?_ ?_) | (intro t x ht) | (dsimp only))

theorem freeContexts_b (s : State) (h : Bounded s) :
    Bounded (freeContexts s) := by
  unfold freeContexts
  repeat' (first | with_reducible assumption | split | (dsimp only; split) | (with_reducible refine foldl_b _ _ _ ?_ ?_) | (intro t x ht) | (dsimp only))

theorem takeForce_b (s : State) (h : Bounded s) :
    Bounded (takeForce s) := by
  unfold takeForce
  repeat' (first | with_reducible assumption | split | (dsimp only; split) | (with_reducible refine foldl_b _ _ _ ?_ ?_) | (intro t x ht) | (dsimp only))

theorem stampFetches_b (s : State) (h : Bounded s) :
    Bounded (stampFetches s) := by
  unfold stampFetches
  repeat' (first | with_reducible assumption | split | (dsimp only; split) | (with_reducible refine foldl_b _ _ _ ?_ ?_) | (intro t x ht) | (dsimp only))

theorem pauseFacets_b (s : State) (h : Bounded s) :
    Bounded (pauseFacets s) := by
  unfold pauseFacets
  repeat' (first | with_reducible assumption | split | (dsimp only; split) | with_reducible apply updFacet_b | (with_reducible refine foldl_b _ _ _ ?_ ?_) | (intro t x ht) | (dsimp only))

theorem serveFacet_b (s : State) (f : Nat) (h : Bounded s) :
    Bounded (serveFacet s f) := by
  unfold serveFacet
  repeat' (first | with_reducible assumption | split | (dsimp only; split) | with_reducible apply rotateTo_b | with_reducible apply admitFacet_b | (with_reducible refine foldl_b _ _ _ ?_ ?_) | (intro t x ht) | (dsimp only))

theorem closeStep_b (s : State) (h : Bounded s) :
    Bounded (closeStep s) := by
  unfold closeStep
  repeat' (first | with_reducible assumption | split | (dsimp only; split) | with_reducible apply startDrops_b | with_reducible apply readySlots_b | with_reducible apply advanceEpoch_b | with_reducible apply dropStale_b | with_reducible apply freeContexts_b | with_reducible apply takeForce_b | with_reducible apply stampFetches_b | with_reducible apply pauseFacets_b | (with_reducible refine foldl_b _ _ _ ?_ ?_) | (intro t x ht) | (dsimp only))

theorem openStep_b (s : State) (h : Bounded s) :
    Bounded (openStep s) := by
  unfold openStep
  repeat' (first | with_reducible assumption | split | (dsimp only; split) | with_reducible apply floorAdvance_b | with_reducible apply scrubsOn_b | with_reducible apply migBoundary_b | with_reducible apply leaveBlocks_b | with_reducible apply joinDomains_b | with_reducible apply serveFacet_b | (with_reducible refine foldl_b _ _ _ ?_ ?_) | (intro t x ht) | (dsimp only))

theorem boundary_b (s : State) (h : Bounded s) :
    Bounded (boundary s) := by
  unfold boundary
  repeat' (first | with_reducible assumption | split | (dsimp only; split) | with_reducible apply migPublish_b | with_reducible apply settle_b | with_reducible apply closeStep_b | with_reducible apply openStep_b | (with_reducible refine foldl_b _ _ _ ?_ ?_) | (intro t x ht) | (dsimp only))

theorem batchStep_b (s : State) (h : Bounded s) :
    Bounded (batchStep s) := by
  unfold batchStep
  repeat' (first | with_reducible assumption | split | (dsimp only; split) | with_reducible apply boundary_b | (with_reducible refine foldl_b _ _ _ ?_ ?_) | (intro t x ht) | (dsimp only))

theorem chargeRunning_b (s : State) (h : Bounded s) :
    Bounded (chargeRunning s) := by
  unfold chargeRunning
  repeat' (first | with_reducible assumption | split | (dsimp only; split) | with_reducible apply chargeCell_b | with_reducible apply chargeEngine_b | with_reducible apply updDie_b | with_reducible apply chargeDie_b | with_reducible apply updCell_b | (with_reducible refine foldl_b _ _ _ ?_ ?_) | (intro t x ht) | (dsimp only))

theorem attributeEnergy_b (s : State) (h : Bounded s) :
    Bounded (attributeEnergy s) := by
  unfold attributeEnergy
  repeat' (first | with_reducible assumption | split | (dsimp only; split) | with_reducible apply updFacet_b | (with_reducible refine foldl_b _ _ _ ?_ ?_) | (intro t x ht) | (dsimp only))

theorem refill_b (s : State) (h : Bounded s) :
    Bounded (refill s) := by
  unfold refill
  repeat' (first | with_reducible assumption | split | (dsimp only; split) | (with_reducible refine foldl_b _ _ _ ?_ ?_) | (intro t x ht) | (dsimp only))

theorem endTeardown_b (s : State) (f : Nat) (h : Bounded s) :
    Bounded (endTeardown s f) := by
  unfold endTeardown
  repeat' (first | with_reducible assumption | split | (dsimp only; split) | with_reducible apply updFacet_b | with_reducible apply succeed_b | (with_reducible refine foldl_b _ _ _ ?_ ?_) | (intro t x ht) | (dsimp only))

theorem snapshot_b (s : State) (h : Bounded s) :
    Bounded (snapshot s) := by
  unfold snapshot
  repeat' (first | with_reducible assumption | split | (dsimp only; split) | (with_reducible refine foldl_b _ _ _ ?_ ?_) | (intro t x ht) | (dsimp only))

theorem countStall_b (l : Link) (s : State) (h : Bounded s) :
    Bounded (countStall l s) := by
  unfold countStall
  repeat' (first | with_reducible assumption | split | (dsimp only; split) | with_reducible apply updLink_b | with_reducible apply bumpLink_b | (with_reducible refine foldl_b _ _ _ ?_ ?_) | (intro t x ht) | (dsimp only))

theorem countStalls_b (s : State) (h : Bounded s) :
    Bounded (countStalls s) := by
  unfold countStalls
  repeat' (first | with_reducible assumption | split | (dsimp only; split) | with_reducible apply countStall_b | (with_reducible refine foldl_b _ _ _ ?_ ?_) | (intro t x ht) | (dsimp only))

theorem countStacked_b (s : State) (h : Bounded s) :
    Bounded (countStacked s) := by
  unfold countStacked
  repeat' (first | with_reducible assumption | split | (dsimp only; split) | with_reducible apply bumpRas_b | with_reducible apply useFree_b | (with_reducible refine foldl_b _ _ _ ?_ ?_) | (intro t x ht) | (dsimp only))

theorem countRow_b (r : Nat × Nat × Nat × Nat) (s : State) (h : Bounded s) :
    Bounded (countRow r s) := by
  unfold countRow
  repeat' (first | with_reducible assumption | split | (dsimp only; split) | with_reducible apply bumpRas_b | (with_reducible refine foldl_b _ _ _ ?_ ?_) | (intro t x ht) | (dsimp only))

theorem countRows_b (s : State) (h : Bounded s) :
    Bounded (countRows s) := by
  unfold countRows
  repeat' (first | with_reducible assumption | split | (dsimp only; split) | with_reducible apply useFree_b | with_reducible apply countRow_b | (with_reducible refine foldl_b _ _ _ ?_ ?_) | (intro t x ht) | (dsimp only))

theorem countTurn_b (s : State) (h : Bounded s) :
    Bounded (countTurn s) := by
  unfold countTurn
  repeat' (first | with_reducible assumption | split | (dsimp only; split) | with_reducible apply countStacked_b | with_reducible apply countRows_b | (with_reducible refine foldl_b _ _ _ ?_ ?_) | (intro t x ht) | (dsimp only))

theorem newTurn_b (s : State) (h : Bounded s) :
    Bounded (newTurn s) := by
  unfold newTurn
  repeat' (first | with_reducible assumption | split | (dsimp only; split) | with_reducible apply emit_b | with_reducible apply chargeRunning_b | with_reducible apply attributeEnergy_b | with_reducible apply refill_b | with_reducible apply endTeardown_b | with_reducible apply snapshot_b | with_reducible apply countStalls_b | with_reducible apply countTurn_b | (with_reducible refine foldl_b _ _ _ ?_ ?_) | (intro t x ht) | (dsimp only))

theorem turnBoundary_b (s : State) (h : Bounded s) :
    Bounded (turnBoundary s) := by
  unfold turnBoundary
  repeat' (first | with_reducible assumption | split | (dsimp only; split) | with_reducible apply boundary_b | with_reducible apply newTurn_b | (with_reducible refine foldl_b _ _ _ ?_ ?_) | (intro t x ht) | (dsimp only))

theorem syncLost_b (s : State) (h : Bounded s) :
    Bounded (syncLost s) := by
  unfold syncLost
  repeat' (first | with_reducible assumption | split | (dsimp only; split) | with_reducible apply record_b | with_reducible apply turnBoundary_b | (with_reducible refine foldl_b _ _ _ ?_ ?_) | (intro t x ht) | (dsimp only))

theorem syncPulse_b (s : State) (h : Bounded s) :
    Bounded (syncPulse s) := by
  unfold syncPulse
  repeat' (first | with_reducible assumption | split | (dsimp only; split) | with_reducible apply record_b | with_reducible apply turnBoundary_b | (with_reducible refine foldl_b _ _ _ ?_ ?_) | (intro t x ht) | (dsimp only))

theorem syncIn_b (s : State) (h : Bounded s) :
    Bounded (syncIn s) := by
  unfold syncIn
  repeat' (first | with_reducible assumption | split | (dsimp only; split) | with_reducible apply syncLost_b | with_reducible apply syncPulse_b | (with_reducible refine foldl_b _ _ _ ?_ ?_) | (intro t x ht) | (dsimp only))

theorem freeTurn_b (s : State) (h : Bounded s) :
    Bounded (freeTurn s) := by
  unfold freeTurn
  repeat' (first | with_reducible assumption | split | (dsimp only; split) | with_reducible apply turnBoundary_b | (with_reducible refine foldl_b _ _ _ ?_ ?_) | (intro t x ht) | (dsimp only))

theorem counted_b (g : State → State) (s : State) (h : Bounded s) (hg : ∀ t, Bounded t → Bounded (g t)) : Bounded (counted g s) :=
  countHealth_b _ _ (hg s h)

theorem Bounded.clock {s : State} (h : Bounded s) (b : Board) (h1 : 100 ≤ b.coreMhz) (h2 : b.coreMhz ≤ 1400) :
    Bounded { s with brd := b } := ⟨h.recs, h.elog, h.pool, h1, h2, h.a, h.b, h.c⟩

theorem fullClock_range (s : State) (h : Bounded s) : 100 ≤ fullClock s ∧ fullClock s ≤ 1400 := by
  have h1 := h.slow
  have h2 := h.fast
  unfold fullClock
  split <;> omega

theorem fullClocked_b (c : Bool) (s : State) (h : Bounded s) :
    100 ≤ (if c then fullClock s else s.brd.coreMhz) ∧ (if c then fullClock s else s.brd.coreMhz) ≤ 1400 := by
  have h1 := h.slow
  have h2 := h.fast
  split
  · exact fullClock_range s h
  · omega

theorem endPower_b (target st tag : Nat) (s : State) (h : Bounded s) : Bounded (endPower target st tag s) := by
  unfold endPower
  extract_lets b0 s1
  have h1 : Bounded s1 := countHealth_b _ _ (h.clock _ (fullClocked_b _ s h).1 (fullClocked_b _ s h).2)
  split
  · exact ite_b _ _ _ (succeed_b _ _ _ h1) (finish_b _ _ _ _ _ _ _ h1)
  · exact h1

theorem powerEntry_b (s : State) (h : Bounded s) :
    Bounded (powerEntry s) := by
  unfold powerEntry
  repeat' (first | with_reducible assumption | split | (dsimp only; split) | with_reducible apply settle_b | with_reducible apply endPower_b | (with_reducible refine foldl_b _ _ _ ?_ ?_) | (intro t x ht) | (dsimp only))

theorem ps3Timeout_b (s : State) (h : Bounded s) :
    Bounded (ps3Timeout s) := by
  unfold ps3Timeout
  repeat' (first | with_reducible assumption | split | (dsimp only; split) | with_reducible apply settle_b | with_reducible apply endPower_b | (with_reducible refine foldl_b _ _ _ ?_ ?_) | (intro t x ht) | (dsimp only))

theorem kaLapse_b (f : Nat) (s : State) (h : Bounded s) :
    Bounded (kaLapse f s) := by
  unfold kaLapse
  repeat' (first | with_reducible assumption | split | (dsimp only; split) | with_reducible apply record_b | with_reducible apply freezeFacet_b | (with_reducible refine foldl_b _ _ _ ?_ ?_) | (intro t x ht) | (dsimp only))

theorem driveHot_b (before after : State) (h : Bounded after) :
    Bounded (driveHot before after) := by
  unfold driveHot
  repeat' (first | with_reducible assumption | split | (dsimp only; split) | with_reducible apply emit_b | (with_reducible refine foldl_b _ _ _ ?_ ?_) | (intro t x ht) | (dsimp only))

theorem reportClock_b (n new : Nat) (t : Int) (before after : State) (h : Bounded after) :
    Bounded (reportClock n new t before after) := by
  have h1 := h.slow
  have h2 := h.fast
  unfold reportClock
  refine ite_b _ _ _ (ite_b _ _ _ ?_ h) (ite_b _ _ _ ?_ h)
  · refine h.clock _ ?_ ?_ <;> dsimp only <;> omega
  · exact h.clock _ (fullClock_range _ h).1 (fullClock_range _ h).2

theorem thermalReport_b (n : Nat) (t : Int) (s : State) (h : Bounded s) :
    Bounded (thermalReport n t s) := by
  unfold thermalReport
  repeat' (first | with_reducible assumption | split | (dsimp only; split) | with_reducible apply recordSev_b | with_reducible apply settle_b | with_reducible apply driveHot_b | with_reducible apply reportClock_b | (with_reducible refine foldl_b _ _ _ ?_ ?_) | (intro t x ht) | (dsimp only))

theorem limiterEvent_b (s : State) (h : Bounded s) :
    Bounded (limiterEvent s) := by
  unfold limiterEvent
  repeat' (first | with_reducible assumption | split | (dsimp only; split) | with_reducible apply record_b | (with_reducible refine foldl_b _ _ _ ?_ ?_) | (intro t x ht) | (dsimp only))

theorem lowerClock_b (s : State) (h : Bounded s) : Bounded (lowerClock s) := by
  have h1 := h.slow
  have h2 := h.fast
  unfold lowerClock
  repeat' (first | exact h | split | (refine h.clock _ ?_ ?_ <;> dsimp only <;> omega))

theorem restoreClock_b (s : State) (h : Bounded s) : Bounded (restoreClock s) := by
  unfold restoreClock
  split
  · exact h.clock _ h.slow h.fast
  · refine ite_b _ _ _ h (ite_b _ _ _ ?_ ?_)
    · exact h.clock _ (fullClock_range _ h).1 (fullClock_range _ h).2
    · exact h.clock _ h.slow h.fast

theorem limiterSample_b (mV mA : Nat) (s : State) (h : Bounded s) :
    Bounded (limiterSample mV mA s) := by
  unfold limiterSample
  repeat' (first | with_reducible assumption | split | (dsimp only; split) | with_reducible apply bumpRas_b | with_reducible apply settle_b | with_reducible apply limiterEvent_b | with_reducible apply lowerClock_b | with_reducible apply restoreClock_b | (with_reducible refine foldl_b _ _ _ ?_ ?_) | (intro t x ht) | (dsimp only))

theorem chatter_b (n : Nat) (p : PinSt) (s : State) (h : Bounded s) :
    Bounded (chatter n p s) := by
  unfold chatter
  repeat' (first | with_reducible assumption | split | (dsimp only; split) | with_reducible apply record_b | (with_reducible refine foldl_b _ _ _ ?_ ?_) | (intro t x ht) | (dsimp only))

theorem secondOver_b (s : State) (h : Bounded s) :
    Bounded (secondOver s) := by
  unfold secondOver
  repeat' (first | with_reducible assumption | split | (dsimp only; split) | with_reducible apply record_b | with_reducible apply chatter_b | (with_reducible refine foldl_b _ _ _ ?_ ?_) | (intro t x ht) | (dsimp only))

theorem freezeOver_b (s : State) (h : Bounded s) :
    Bounded (freezeOver s) := by
  unfold freezeOver
  repeat' (first | with_reducible assumption | split | (dsimp only; split) | with_reducible apply endFreeze_b | (with_reducible refine foldl_b _ _ _ ?_ ?_) | (intro t x ht) | (dsimp only))

theorem measureAux_b (s : State) (h : Bounded s) :
    Bounded (measureAux s) := by
  unfold measureAux
  repeat' (first | with_reducible assumption | split | (dsimp only; split) | with_reducible apply useFree_b | (with_reducible refine foldl_b _ _ _ ?_ ?_) | (intro t x ht) | (dsimp only))

theorem refreshSensors_b (s0 : State) (h : Bounded s0) :
    Bounded (refreshSensors s0) := by
  unfold refreshSensors
  repeat' (first | with_reducible assumption | split | (dsimp only; split) | with_reducible apply measureAux_b | (with_reducible refine foldl_b _ _ _ ?_ ?_) | (intro t x ht) | (dsimp only))

theorem dayOver_b (s : State) (h : Bounded s) :
    Bounded (dayOver s) := by
  unfold dayOver
  repeat' (first | with_reducible assumption | split | (dsimp only; split) | with_reducible apply spareCheck_b | (with_reducible refine foldl_b _ _ _ ?_ ?_) | (intro t x ht) | (dsimp only))

theorem losePower_b (s : State) (h : Bounded s) : Bounded (losePower s) := by
  unfold losePower
  refine driveHot_b _ _ ?_
  exact ⟨h.recs, Nat.zero_le _, show 64 ≤ 64 by omega, show 100 ≤ 1400 by omega, show 1400 ≤ 1400 by omega, rfl, h.b, rfl⟩

theorem resetRecorder_b (s : State) (h : Bounded s) :
    Bounded (resetRecorder s) := by
  unfold resetRecorder
  repeat' (first | with_reducible assumption | split | (dsimp only; split) | with_reducible apply endFreeze_b | (with_reducible refine foldl_b _ _ _ ?_ ?_) | (intro t x ht) | (dsimp only))

theorem powerDown_b (s : State) (h : Bounded s) :
    Bounded (powerDown s) := by
  unfold powerDown
  repeat' (first | with_reducible assumption | split | (dsimp only; split) | with_reducible apply losePower_b | (with_reducible refine foldl_b _ _ _ ?_ ?_) | (intro t x ht) | (dsimp only))

theorem streamAll_b (f n : Nat) (s : State) (h : Bounded s) :
    Bounded (streamAll f n s) := by
  unfold streamAll
  repeat' (first | with_reducible assumption | split | (dsimp only; split) | with_reducible apply bump_b | with_reducible apply moveUnits_b | (with_reducible refine foldl_b _ _ _ ?_ ?_) | (intro t x ht) | (dsimp only))

theorem replayLog_b (f : Nat) (s : State) (h : Bounded s) :
    Bounded (replayLog f s) := by
  unfold replayLog
  repeat' (first | with_reducible assumption | split | (dsimp only; split) | with_reducible apply streamAll_b | (with_reducible refine foldl_b _ _ _ ?_ ?_) | (intro t x ht) | (dsimp only))

theorem refillTiers_b (f : Nat) (s : State) (h : Bounded s) :
    Bounded (refillTiers f s) := by
  unfold refillTiers
  repeat' (first | with_reducible assumption | split | (dsimp only; split) | with_reducible apply keepAll_b | with_reducible apply keepWeights_b | with_reducible apply streamAll_b | (with_reducible refine foldl_b _ _ _ ?_ ?_) | (intro t x ht) | (dsimp only))

theorem recoverFacet_b (f : Nat) (s : State) (h : Bounded s) :
    Bounded (recoverFacet f s) := by
  unfold recoverFacet
  repeat' (first | with_reducible assumption | split | (dsimp only; split) | with_reducible apply updFacet_b | with_reducible apply replayLog_b | with_reducible apply refillTiers_b | (with_reducible refine foldl_b _ _ _ ?_ ?_) | (intro t x ht) | (dsimp only))

theorem startedUp_b (s : State) (h : Bounded s) :
    Bounded (startedUp s) := by
  unfold startedUp
  repeat' (first | with_reducible assumption | split | (dsimp only; split) | (with_reducible refine foldl_b _ _ _ ?_ ?_) | (intro t x ht) | (dsimp only))

theorem rebuildFacet_b (f : Nat) (s : State) (h : Bounded s) :
    Bounded (rebuildFacet f s) := by
  unfold rebuildFacet
  repeat' (first | with_reducible assumption | split | (dsimp only; split) | with_reducible apply settle_b | with_reducible apply recoverFacet_b | with_reducible apply startedUp_b | (with_reducible refine foldl_b _ _ _ ?_ ?_) | (intro t x ht) | (dsimp only))

theorem recoverStored_b (s : State) (h : Bounded s) :
    Bounded (recoverStored s) := by
  unfold recoverStored
  repeat' (first | with_reducible assumption | split | (dsimp only; split) | with_reducible apply recoverFacet_b | (with_reducible refine foldl_b _ _ _ ?_ ?_) | (intro t x ht) | (dsimp only))

theorem bootCode1_b (finds : BootFinds) (s : State) (h : Bounded s) : Bounded (bootCode1 finds s) := by
  unfold bootCode1
  extract_lets c0 c1 side
  split
  · exact ⟨h.recs, h.elog, h.pool, h.slow, h.fast, h.a, rfl, h.c⟩
  · refine record_b _ _ _ _ (record_b _ _ _ _ ?_)
    exact ⟨h.recs, h.elog, h.pool, h.slow, h.fast, h.a, rfl, h.c⟩

theorem startLinks_b (s : State) (h : Bounded s) :
    Bounded (startLinks s) := by
  unfold startLinks
  repeat' (first | with_reducible assumption | split | (dsimp only; split) | (with_reducible refine foldl_b _ _ _ ?_ ?_) | (intro t x ht) | (dsimp only))

theorem fenceCell_b (cause syndrome c : Nat) (s : State) (h : Bounded s) :
    Bounded (fenceCell cause syndrome c s) := by
  unfold fenceCell
  repeat' (first | with_reducible assumption | split | (dsimp only; split) | with_reducible apply record_b | (with_reducible refine foldl_b _ _ _ ?_ ?_) | (intro t x ht) | (dsimp only))

theorem fenceBlock_b (cause b : Nat) (s : State) (h : Bounded s) :
    Bounded (fenceBlock cause b s) := by
  unfold fenceBlock
  repeat' (first | with_reducible assumption | split | (dsimp only; split) | with_reducible apply record_b | (with_reducible refine foldl_b _ _ _ ?_ ?_) | (intro t x ht) | (dsimp only))

theorem fenceRegion_b (r : Nat) (s : State) (h : Bounded s) :
    Bounded (fenceRegion r s) := by
  unfold fenceRegion
  repeat' (first | with_reducible assumption | split | (dsimp only; split) | with_reducible apply useFree_b | with_reducible apply record_b | (with_reducible refine foldl_b _ _ _ ?_ ?_) | (intro t x ht) | (dsimp only))

theorem selfTest_b (finds : BootFinds) (s : State) (h : Bounded s) :
    Bounded (selfTest finds s) := by
  unfold selfTest
  repeat' (first | with_reducible assumption | split | (dsimp only; split) | with_reducible apply fenceCell_b | with_reducible apply fenceBlock_b | with_reducible apply fenceRegion_b | (with_reducible refine foldl_b _ _ _ ?_ ?_) | (intro t x ht) | (dsimp only))

theorem startSlot_b (finds : BootFinds) (s : State) (h : Bounded s) :
    Bounded (startSlot finds s) := by
  unfold startSlot
  repeat' (first | with_reducible assumption | split | (dsimp only; split) | with_reducible apply useFree_b | with_reducible apply record_b | (with_reducible refine foldl_b _ _ _ ?_ ?_) | (intro t x ht) | (dsimp only))

theorem freezeRoleless_b (s : State) (h : Bounded s) :
    Bounded (freezeRoleless s) := by
  unfold freezeRoleless
  repeat' (first | with_reducible assumption | split | (dsimp only; split) | with_reducible apply freezeFacet_b | (with_reducible refine foldl_b _ _ _ ?_ ?_) | (intro t x ht) | (dsimp only))

theorem startUp_b (finds : BootFinds) (s : State) (h : Bounded s) :
    Bounded (startUp finds s) := by
  unfold startUp
  repeat' (first | with_reducible assumption | split | (dsimp only; split) | with_reducible apply bootLoad_b | with_reducible apply startedUp_b | with_reducible apply bootCode1_b | with_reducible apply startLinks_b | with_reducible apply selfTest_b | with_reducible apply startSlot_b | with_reducible apply freezeRoleless_b | (with_reducible refine foldl_b _ _ _ ?_ ?_) | (intro t x ht) | (dsimp only))

theorem powerUp_b (finds : BootFinds) (s : State) (h : Bounded s) :
    Bounded (powerUp finds s) := by
  unfold powerUp
  repeat' (first | with_reducible assumption | split | (dsimp only; split) | with_reducible apply startUp_b | (with_reducible refine foldl_b _ _ _ ?_ ?_) | (intro t x ht) | (dsimp only))

theorem powerAlone_b (s : State) (h : Bounded s) :
    Bounded (powerAlone s) := by
  unfold powerAlone
  repeat' (first | with_reducible assumption | split | (dsimp only; split) | with_reducible apply useFree_b | with_reducible apply startUp_b | (with_reducible refine foldl_b _ _ _ ?_ ?_) | (intro t x ht) | (dsimp only))

theorem pinEffect_b (start : State → State) (hs : ∀ t, Bounded t → Bounded (start t)) (pin : Pin) (level : Bool) (s : State)
    (h : Bounded s) : Bounded (pinEffect start pin level s) := by
  unfold pinEffect
  split
  · refine ite_b _ _ _ (hs _ (driveHot_b _ _ (h.clock _ h.slow h.fast))) ?_
    exact resetRecorder_b _ (powerDown_b _ (h.clock _ h.slow h.fast))
  · extract_lets b0 s1
    have h1 : Bounded s1 := ite_b _ _ _ (h.clock _ (fullClock_range _ h).1 (fullClock_range _ h).2) h
    exact ite_b _ _ _ (record_b _ _ _ _ h1) h1
  · exact ite_b _ _ _ (syncPulse_b _ h) h

theorem setPin_b (pin : Pin) (p : PinSt) (s : State) (h : Bounded s) :
    Bounded (setPin pin p s) := by
  unfold setPin
  repeat' (first | with_reducible assumption | split | (dsimp only; split) | (with_reducible refine foldl_b _ _ _ ?_ ?_) | (intro t x ht) | (dsimp only))

theorem acceptLevel_b (start : State → State) (hs : ∀ t, Bounded t → Bounded (start t)) (pin : Pin) (level : Bool) (s : State)
    (h : Bounded s) : Bounded (acceptLevel start pin level s) := by
  unfold acceptLevel
  exact ite_b _ _ _ h (pinEffect_b _ hs _ _ _ (setPin_b _ _ _ h))

theorem lockOutOver_b (start : State → State) (hs : ∀ t, Bounded t → Bounded (start t)) (pin : Pin) (s : State)
    (h : Bounded s) : Bounded (lockOutOver start pin s) := by
  unfold lockOutOver
  dsimp only
  split
  · exact h
  · refine ite_b _ _ _ h ?_
    exact ite_b _ _ _ (setPin_b _ _ _ h) (acceptLevel_b _ hs _ _ _ (setPin_b _ _ _ h))

theorem filteredLevel_b (start : State → State) (hs : ∀ t, Bounded t → Bounded (start t)) (pin : Pin) (level : Bool) (s : State)
    (h : Bounded s) : Bounded (filteredLevel start pin level s) := by
  unfold filteredLevel
  refine ite_b _ _ _ h (ite_b _ _ _ (setPin_b _ _ _ h) (ite_b _ _ _ (setPin_b _ _ _ h) (acceptLevel_b _ hs _ _ _ h)))

theorem mainOn_b (s : State) (h : Bounded s) :
    Bounded (mainOn s) := by
  unfold mainOn
  repeat' (first | with_reducible assumption | split | (dsimp only; split) | with_reducible apply powerAlone_b | (with_reducible refine foldl_b _ _ _ ?_ ?_) | (intro t x ht) | (dsimp only))

theorem mainOff_b (s : State) (h : Bounded s) :
    Bounded (mainOff s) := by
  unfold mainOff
  repeat' (first | with_reducible assumption | split | (dsimp only; split) | with_reducible apply resetRecorder_b | with_reducible apply powerDown_b | (with_reducible refine foldl_b _ _ _ ?_ ?_) | (intro t x ht) | (dsimp only))

theorem auxOn_b (s : State) (h : Bounded s) : Bounded (auxOn s) := by
  unfold auxOn
  refine ite_b _ _ _ h ?_
  apply powerAlone_b
  apply measureAux_b
  exact ⟨h.recs, h.elog, h.pool, h.slow, h.fast, h.a, rfl, h.c⟩

theorem tearRecord_b (s : State) (h : Bounded s) : Bounded (tearRecord s) := by
  unfold tearRecord
  split
  · rename_i r crc hr hc
    have h0 : s.evr.recs ≠ [] := by rintro e; simp [e] at hr
    have h1 := List.length_pos_iff.mpr h0
    have h2 := h.recs
    apply useFree_b
    exact ⟨by simp; omega, h.elog, h.pool, h.slow, h.fast, h.a, h.b, h.c⟩
  · exact useFree_b _ h

theorem auxOff_b (s : State) (h : Bounded s) :
    Bounded (auxOff s) := by
  unfold auxOff
  repeat' (first | with_reducible assumption | split | (dsimp only; split) | with_reducible apply driveHot_b | with_reducible apply powerDown_b | with_reducible apply tearRecord_b | (with_reducible refine foldl_b _ _ _ ?_ ?_) | (intro t x ht) | (dsimp only))

theorem tripAt_b (n : Nat) (t : Int) (s : State) (h : Bounded s) :
    Bounded (tripAt n t s) := by
  unfold tripAt
  repeat' (first | with_reducible assumption | split | (dsimp only; split) | with_reducible apply record_b | with_reducible apply losePower_b | (with_reducible refine foldl_b _ _ _ ?_ ?_) | (intro t x ht) | (dsimp only))

theorem markPartial_b (xs : List Nat) (s : State) (h : Bounded s) :
    Bounded (markPartial xs s) := by
  unfold markPartial
  repeat' (first | with_reducible assumption | split | (dsimp only; split) | (with_reducible refine foldl_b _ _ _ ?_ ?_) | (intro t x ht) | (dsimp only))

theorem emptyCell_b (c : Nat) (s : State) (h : Bounded s) :
    Bounded (emptyCell c s) := by
  unfold emptyCell
  repeat' (first | with_reducible assumption | split | (dsimp only; split) | with_reducible apply chargeCell_b | with_reducible apply closeStreams_b | with_reducible apply updCell_b | (with_reducible refine foldl_b _ _ _ ?_ ?_) | (intro t x ht) | (dsimp only))

theorem putHead_b (v : Sliver) (s : State) (h : Bounded s) :
    Bounded (putHead v s) := by
  unfold putHead
  repeat' (first | with_reducible assumption | split | (dsimp only; split) | (with_reducible refine foldl_b _ _ _ ?_ ?_) | (intro t x ht) | (dsimp only))

theorem placeAgain_b (r : Nat) (v : Sliver) (s : State) (h : Bounded s) :
    Bounded (placeAgain r v s) := by
  unfold placeAgain
  repeat' (first | with_reducible assumption | split | (dsimp only; split) | with_reducible apply updFacet_b | with_reducible apply placeSliver_b | (with_reducible refine foldl_b _ _ _ ?_ ?_) | (intro t x ht) | (dsimp only))

theorem moveWalks_b (p : Nat → Bool) (s : State) (h : Bounded s) :
    Bounded (moveWalks p s) := by
  unfold moveWalks
  repeat' (first | with_reducible assumption | split | (dsimp only; split) | with_reducible apply endWalk_b | with_reducible apply moveWalk_b | (with_reducible refine foldl_b _ _ _ ?_ ?_) | (intro t x ht) | (dsimp only))

theorem loseSlivers_b (f : Nat) (s : State) (h : Bounded s) :
    Bounded (loseSlivers f s) := by
  unfold loseSlivers
  repeat' (first | with_reducible assumption | split | (dsimp only; split) | with_reducible apply chipMerge_b | with_reducible apply markPartial_b | (with_reducible refine foldl_b _ _ _ ?_ ?_) | (intro t x ht) | (dsimp only))

theorem markFacet_b (f : Nat) (s : State) (h : Bounded s) :
    Bounded (markFacet f s) := by
  unfold markFacet
  repeat' (first | with_reducible assumption | split | (dsimp only; split) | with_reducible apply markPartial_b | (with_reducible refine foldl_b _ _ _ ?_ ?_) | (intro t x ht) | (dsimp only))

theorem markLost_b (before : State) (f : Nat) (s : State) (h : Bounded s) :
    Bounded (markLost before f s) := by
  unfold markLost
  repeat' (first | with_reducible assumption | split | (dsimp only; split) | with_reducible apply markFacet_b | (with_reducible refine foldl_b _ _ _ ?_ ?_) | (intro t x ht) | (dsimp only))

theorem checkRoles_b (before : State) (f : Nat) (s : State) (h : Bounded s) :
    Bounded (checkRoles before f s) := by
  unfold checkRoles
  repeat' (first | with_reducible assumption | split | (dsimp only; split) | with_reducible apply freezeFacet_b | with_reducible apply loseSlivers_b | with_reducible apply markLost_b | (with_reducible refine foldl_b _ _ _ ?_ ?_) | (intro t x ht) | (dsimp only))

theorem checkOwners_b (before : State) (bs : List Nat) (s : State) (h : Bounded s) :
    Bounded (checkOwners before bs s) := by
  unfold checkOwners
  repeat' (first | with_reducible assumption | split | (dsimp only; split) | with_reducible apply checkRoles_b | (with_reducible refine foldl_b _ _ _ ?_ ?_) | (intro t x ht) | (dsimp only))

theorem loseBlockFrom_b (before : State) (cause b : Nat) (s : State) (h : Bounded s) :
    Bounded (loseBlockFrom before cause b s) := by
  unfold loseBlockFrom
  repeat' (first | with_reducible assumption | split | (dsimp only; split) | with_reducible apply bumpRas_b | with_reducible apply fenceBlock_b | with_reducible apply emptyCell_b | with_reducible apply placeAgain_b | with_reducible apply moveWalks_b | with_reducible apply checkOwners_b | (with_reducible refine foldl_b _ _ _ ?_ ?_) | (intro t x ht) | (dsimp only))

theorem loseBlock_b (cause b : Nat) (s : State) (h : Bounded s) :
    Bounded (loseBlock cause b s) := by
  unfold loseBlock
  repeat' (first | with_reducible assumption | split | (dsimp only; split) | with_reducible apply loseBlockFrom_b | (with_reducible refine foldl_b _ _ _ ?_ ?_) | (intro t x ht) | (dsimp only))

theorem dropClaims_b (c : Nat) (s : State) (h : Bounded s) :
    Bounded (dropClaims c s) := by
  unfold dropClaims
  repeat' (first | with_reducible assumption | split | (dsimp only; split) | (with_reducible refine foldl_b _ _ _ ?_ ?_) | (intro t x ht) | (dsimp only))

theorem loseCell_b (cause syndrome c : Nat) (s : State) (h : Bounded s) : Bounded (loseCell cause syndrome c s) := by
  have key : ∀ (l : List Sliver) (t : State), Bounded t → Bounded (l.foldr (fun v u => putHead v u) t) := by
    intro l t ht
    induction l with
    | nil => exact ht
    | cons v l ih => exact putHead_b _ _ ih
  unfold loseCell
  extract_lets held walks s1 s2 s3
  have h1 : Bounded s1 := bumpRas_b _ _ _ (fenceCell_b _ _ _ _ (dropClaims_b _ _ h))
  have h3 : Bounded s3 := moveWalks_b _ _ (ite_b _ _ _ h1 (key _ _ (emptyCell_b _ _ h1)))
  exact ite_b _ _ _ h (ite_b _ _ _ (loseBlockFrom_b _ _ _ _ h3) (checkOwners_b _ _ _ h3))

theorem stuckCell_b (c : Nat) (s : State) (h : Bounded s) :
    Bounded (stuckCell c s) := by
  unfold stuckCell
  repeat' (first | with_reducible assumption | split | (dsimp only; split) | with_reducible apply settle_b | with_reducible apply loseCell_b | (with_reducible refine foldl_b _ _ _ ?_ ?_) | (intro t x ht) | (dsimp only))

theorem faultJobs_b (f : Nat) (s : State) (h : Bounded s) :
    Bounded (faultJobs f s) := by
  unfold faultJobs
  repeat' (first | with_reducible assumption | split | (dsimp only; split) | with_reducible apply endAll_b | (with_reducible refine foldl_b _ _ _ ?_ ?_) | (intro t x ht) | (dsimp only))

theorem loseRegion_b (unit r : Nat) (s : State) (h : Bounded s) :
    Bounded (loseRegion unit r s) := by
  unfold loseRegion
  repeat' (first | with_reducible assumption | split | (dsimp only; split) | with_reducible apply useFree_b | with_reducible apply record_b | with_reducible apply freezeFacet_b | with_reducible apply chargeEngine_b | with_reducible apply placeSliver_b | with_reducible apply chipMerge_b | with_reducible apply busyEnded_b | with_reducible apply markPartial_b | with_reducible apply emptyCell_b | with_reducible apply moveWalks_b | with_reducible apply loseSlivers_b | with_reducible apply markLost_b | with_reducible apply faultJobs_b | (with_reducible refine foldl_b _ _ _ ?_ ?_) | (intro t x ht) | (dsimp only))

theorem applyFault_b (unit r : Nat) (l : Load) (s : State) (h : Bounded s) :
    Bounded (applyFault unit r l s) := by
  unfold applyFault
  repeat' (first | with_reducible assumption | split | (dsimp only; split) | with_reducible apply freezeFacet_b | with_reducible apply failLoad_b | with_reducible apply loseRegion_b | (with_reducible refine foldl_b _ _ _ ?_ ?_) | (intro t x ht) | (dsimp only))

theorem regionFault_b (unit r : Nat) (s : State) (h : Bounded s) :
    Bounded (regionFault unit r s) := by
  unfold regionFault
  repeat' (first | with_reducible assumption | split | (dsimp only; split) | with_reducible apply loseRegion_b | with_reducible apply applyFault_b | (with_reducible refine foldl_b _ _ _ ?_ ?_) | (intro t x ht) | (dsimp only))

theorem goFatal_b (unit : Nat) (s : State) (h : Bounded s) :
    Bounded (goFatal unit s) := by
  unfold goFatal
  repeat' (first | with_reducible assumption | split | (dsimp only; split) | with_reducible apply record_b | with_reducible apply freezeWhere_b | (with_reducible refine foldl_b _ _ _ ?_ ?_) | (intro t x ht) | (dsimp only))

theorem watchdogAt_b (p : Nat) (s : State) (h : Bounded s) :
    Bounded (watchdogAt p s) := by
  unfold watchdogAt
  repeat' (first | with_reducible assumption | split | (dsimp only; split) | with_reducible apply bumpRas_b | with_reducible apply useFree_b | with_reducible apply record_b | with_reducible apply freezeWhere_b | (with_reducible refine foldl_b _ _ _ ?_ ?_) | (intro t x ht) | (dsimp only))

theorem checkIn_b (p : Nat) (s : State) (h : Bounded s) :
    Bounded (checkIn p s) := by
  unfold checkIn
  repeat' (first | with_reducible assumption | split | (dsimp only; split) | with_reducible apply updQp_b | (with_reducible refine foldl_b _ _ _ ?_ ?_) | (intro t x ht) | (dsimp only))

theorem rebuildFrame_b (stack frame : Nat) (retired flash : Bool) (s : State) (h : Bounded s) :
    Bounded (rebuildFrame stack frame retired flash s) := by
  unfold rebuildFrame
  repeat' (first | with_reducible assumption | split | (dsimp only; split) | (with_reducible refine foldl_b _ _ _ ?_ ?_) | (intro t x ht) | (dsimp only))

theorem Bounded.memory {s : State} (h : Bounded s) (m : Mem) (hm : m.pool ≤ 64) : Bounded { s with mem := m } :=
  ⟨h.recs, h.elog, hm, h.slow, h.fast, h.a, h.b, h.c⟩

theorem takeReplacement_b (stack frame : Nat) (corrected : Bool) (s : State) (h : Bounded s) :
    Bounded (takeReplacement stack frame corrected s) := by
  have hp := h.pool
  unfold takeReplacement
  refine ite_b _ _ _ (foldl_b _ _ _ h fun t f ht => freezeFacet_b _ _ _ ht) (rebuildFrame_b _ _ _ _ _ ?_)
  exact h.memory _ (show s.mem.pool - 1 ≤ 64 by omega)

theorem retireFrame_b (stack row frame : Nat) (corrected : Bool) (s : State) (h : Bounded s) :
    Bounded (retireFrame stack row frame corrected s) := by
  have key : ∀ (p : Bool) (l : List Nat) (u : State), Bounded u →
      Bounded (if p then record 0x0203 0 l { u with mem := { u.mem with degraded := true } } else u) :=
    fun p l u hu => ite_b _ _ _ (record_b _ _ _ _ (hu.memory _ hu.pool)) hu
  unfold retireFrame
  exact ite_b _ _ _ h (takeReplacement_b _ _ _ _ (key _ _ _ (record_b _ _ _ _ (bumpRas_b _ _ _ (h.memory _ h.pool)))))

theorem partialCmd_b (t : Nat) (s : State) (h : Bounded s) :
    Bounded (partialCmd t s) := by
  unfold partialCmd
  repeat' (first | with_reducible assumption | split | (dsimp only; split) | with_reducible apply markPartial_b | (with_reducible refine foldl_b _ _ _ ?_ ?_) | (intro t x ht) | (dsimp only))

theorem loseRun_b (stack channel frame : Nat) (s : State) (h : Bounded s) :
    Bounded (loseRun stack channel frame s) := by
  unfold loseRun
  repeat' (first | with_reducible assumption | split | (dsimp only; split) | with_reducible apply markPartial_b | with_reducible apply partialCmd_b | (with_reducible refine foldl_b _ _ _ ?_ ?_) | (intro t x ht) | (dsimp only))

theorem rowFailure_b (stack channel bank row frame : Nat) (corrected : Bool) (s : State) (h : Bounded s) :
    Bounded (rowFailure stack channel bank row frame corrected s) := by
  unfold rowFailure
  repeat' (first | with_reducible assumption | split | (dsimp only; split) | with_reducible apply bumpRas_b | with_reducible apply record_b | with_reducible apply rebuildFrame_b | with_reducible apply retireFrame_b | with_reducible apply loseRun_b | (with_reducible refine foldl_b _ _ _ ?_ ?_) | (intro t x ht) | (dsimp only))

theorem chargeRebuild_b (stack frame : Nat) (js : List Job) (s : State) (t : State) (h : Bounded s) (e : chargeRebuild stack frame js s = some t) : Bounded t := by
  unfold chargeRebuild at e
  try extract_lets at e
  repeat' (first | (cases e; done) | (cases e; with_reducible exact h) | (simp only [Option.map_eq_some_iff] at e; obtain ⟨c, -, rfl⟩ := e) | split at e | (cases e) | (with_reducible exact allJobs_b _ _ _ _ _ _ h e) | with_reducible assumption)

theorem frameRebuilt_b (frame : Nat) (s : State) (h : Bounded s) : Bounded (frameRebuilt frame s) := by
  unfold frameRebuilt
  split
  · exact h
  · rename_i r hr
    extract_lets q more
    split
    · exact h
    · rename_i t ht
      extract_lets m
      have h1 : Bounded t := chargeRebuild_b _ _ _ _ _ h ht
      have hq : m.pool ≤ 64 := by
        have := h1.pool
        dsimp only [m]
        split
        · exact this
        · exact this
      refine h1.memory _ ?_
      dsimp only
      split
      · have hc := ‹more = true›
        have e : s.mem.pool = t.mem.pool := by simp [chargeRebuild_rest _ _ _ _ _ ht]
        have e2 : m.pool = t.mem.pool := by dsimp only [m]; split <;> rfl
        simp only [more, Bool.and_eq_true, decide_eq_true_eq] at hc
        omega
      · exact hq

theorem poison_b (c : Consumer) (b : Nat) (s : State) (h : Bounded s) :
    Bounded (poison c b s) := by
  unfold poison
  repeat' (first | with_reducible assumption | split | (dsimp only; split) | with_reducible apply poisonHandle_b | with_reducible apply updCell_b | with_reducible apply poisonRound_b | (with_reducible refine foldl_b _ _ _ ?_ ?_) | (intro t x ht) | (dsimp only))

theorem rebuildBlock_b (c : Consumer) (b : Nat) (s : State) (h : Bounded s) :
    Bounded (rebuildBlock c b s) := by
  unfold rebuildBlock
  repeat' (first | with_reducible assumption | split | (dsimp only; split) | with_reducible apply rebuildFrame_b | (with_reducible refine foldl_b _ _ _ ?_ ?_) | (intro t x ht) | (dsimp only))

theorem blockMismatch_b (c : Consumer) (b : Nat) (crc : BitVec 32) (s : State) (h : Bounded s) :
    Bounded (blockMismatch c b crc s) := by
  unfold blockMismatch
  repeat' (first | with_reducible assumption | split | (dsimp only; split) | with_reducible apply bump_b | with_reducible apply bumpRas_b | with_reducible apply record_b | with_reducible apply poison_b | with_reducible apply rebuildBlock_b | (with_reducible refine foldl_b _ _ _ ?_ ?_) | (intro t x ht) | (dsimp only))

theorem stackError_b (slice address : Nat) (p : StackPart) (s : State) (h : Bounded s) :
    Bounded (stackError slice address p s) := by
  unfold stackError
  repeat' (first | with_reducible assumption | split | (dsimp only; split) | with_reducible apply bump_b | with_reducible apply bumpRas_b | with_reducible apply record_b | with_reducible apply markPartial_b | with_reducible apply goFatal_b | with_reducible apply partialCmd_b | (with_reducible refine foldl_b _ _ _ ?_ ?_) | (intro t x ht) | (dsimp only))

theorem unitRebuilt_b (u : Unit') (s : State) (h : Bounded s) :
    Bounded (unitRebuilt u s) := by
  unfold unitRebuilt
  repeat' (first | with_reducible assumption | split | (dsimp only; split) | with_reducible apply copyUnit_b | (with_reducible refine foldl_b _ _ _ ?_ ?_) | (intro t x ht) | (dsimp only))

theorem blockRelocated_b (ch d pl blk : Nat) (s : State) (h : Bounded s) :
    Bounded (blockRelocated ch d pl blk s) := by
  unfold blockRelocated
  repeat' (first | with_reducible assumption | split | (dsimp only; split) | with_reducible apply leaveBlocks_b | (with_reducible refine foldl_b _ _ _ ?_ ?_) | (intro t x ht) | (dsimp only))

theorem badDoorbell_b (which q value : Nat) (s : State) (h : Bounded s) :
    Bounded (badDoorbell which q value s) := by
  unfold badDoorbell
  repeat' (first | with_reducible assumption | split | (dsimp only; split) | with_reducible apply updQp_b | with_reducible apply record_b | (with_reducible refine foldl_b _ _ _ ?_ ?_) | (intro t x ht) | (dsimp only))

theorem restartKa_b (p : Qp) (s : State) (h : Bounded s) :
    Bounded (restartKa p s) := by
  unfold restartKa
  repeat' (first | with_reducible assumption | split | (dsimp only; split) | with_reducible apply updFacet_b | (with_reducible refine foldl_b _ _ _ ?_ ?_) | (intro t x ht) | (dsimp only))

theorem sqTail_b (q v : Nat) (s : State) (h : Bounded s) :
    Bounded (sqTail q v s) := by
  unfold sqTail
  repeat' (first | with_reducible assumption | split | (dsimp only; split) | with_reducible apply updQp_b | with_reducible apply badDoorbell_b | with_reducible apply restartKa_b | (with_reducible refine foldl_b _ _ _ ?_ ?_) | (intro t x ht) | (dsimp only))

theorem cqHead_b (q v : Nat) (s : State) (h : Bounded s) :
    Bounded (cqHead q v s) := by
  unfold cqHead
  repeat' (first | with_reducible assumption | split | (dsimp only; split) | with_reducible apply updQp_b | with_reducible apply badDoorbell_b | with_reducible apply restartKa_b | (with_reducible refine foldl_b _ _ _ ?_ ?_) | (intro t x ht) | (dsimp only))

theorem enableHif_b (s : State) (h : Bounded s) :
    Bounded (enableHif s) := by
  unfold enableHif
  repeat' (first | with_reducible assumption | split | (dsimp only; split) | (with_reducible refine foldl_b _ _ _ ?_ ?_) | (intro t x ht) | (dsimp only))

theorem disableHif_b (s : State) (h : Bounded s) :
    Bounded (disableHif s) := by
  unfold disableHif
  repeat' (first | with_reducible assumption | split | (dsimp only; split) | with_reducible apply interfaceReset_b | with_reducible apply settle_b | (with_reducible refine foldl_b _ _ _ ?_ ?_) | (intro t x ht) | (dsimp only))

theorem functionReset_b (s : State) (h : Bounded s) :
    Bounded (functionReset s) := by
  unfold functionReset
  repeat' (first | with_reducible assumption | split | (dsimp only; split) | with_reducible apply interfaceReset_b | with_reducible apply settle_b | (with_reducible refine foldl_b _ _ _ ?_ ?_) | (intro t x ht) | (dsimp only))

theorem linkLost_b (s : State) (h : Bounded s) :
    Bounded (linkLost s) := by
  unfold linkLost
  repeat' (first | with_reducible assumption | split | (dsimp only; split) | with_reducible apply functionReset_b | (with_reducible refine foldl_b _ _ _ ?_ ?_) | (intro t x ht) | (dsimp only))

theorem releaseMsg_b (v : Nat) (s : State) (h : Bounded s) :
    Bounded (releaseMsg v s) := by
  unfold releaseMsg
  repeat' (first | with_reducible assumption | split | (dsimp only; split) | with_reducible apply sendMsi_b | (with_reducible refine foldl_b _ _ _ ?_ ?_) | (intro t x ht) | (dsimp only))

theorem delayOver_b (q : Nat) (s : State) (h : Bounded s) :
    Bounded (delayOver q s) := by
  unfold delayOver
  repeat' (first | with_reducible assumption | split | (dsimp only; split) | with_reducible apply signalQp_b | (with_reducible refine foldl_b _ _ _ ?_ ?_) | (intro t x ht) | (dsimp only))

theorem trained_b (speed width : Nat) (s : State) (h : Bounded s) :
    Bounded (trained speed width s) := by
  unfold trained
  repeat' (first | with_reducible assumption | split | (dsimp only; split) | (with_reducible refine foldl_b _ _ _ ?_ ?_) | (intro t x ht) | (dsimp only))

theorem unmasked_b (s : State) (h : Bounded s) :
    Bounded (unmasked s) := by
  unfold unmasked
  repeat' (first | with_reducible assumption | split | (dsimp only; split) | with_reducible apply sendMsi_b | (with_reducible refine foldl_b _ _ _ ?_ ?_) | (intro t x ht) | (dsimp only))

theorem configure_b (w : CfgWrite) (s : State) (h : Bounded s) :
    Bounded (configure w s) := by
  unfold configure
  repeat' (first | with_reducible assumption | split | (dsimp only; split) | with_reducible apply unmasked_b | (with_reducible refine foldl_b _ _ _ ?_ ?_) | (intro t x ht) | (dsimp only))

theorem zeroRead_b (len : Nat) (s : State) (h : Bounded s) :
    Bounded (zeroRead len s) := by
  unfold zeroRead
  repeat' (first | with_reducible assumption | split | (dsimp only; split) | with_reducible apply emit_b | with_reducible apply badAccess_b | (with_reducible refine foldl_b _ _ _ ?_ ?_) | (intro t x ht) | (dsimp only))

theorem passCursor_b (s : State) (h : Bounded s) :
    Bounded (passCursor s) := by
  unfold passCursor
  repeat' (first | with_reducible assumption | split | (dsimp only; split) | with_reducible apply bumpRas_b | (with_reducible refine foldl_b _ _ _ ?_ ?_) | (intro t x ht) | (dsimp only))

theorem readBar0_b (off len : Nat) (s : State) (h : Bounded s) :
    Bounded (readBar0 off len s) := by
  unfold readBar0
  repeat' (first | with_reducible assumption | split | (dsimp only; split) | with_reducible apply emit_b | with_reducible apply zeroRead_b | with_reducible apply passCursor_b | (with_reducible refine foldl_b _ _ _ ?_ ?_) | (intro t x ht) | (dsimp only))

theorem readBar2_b (off len : Nat) (s : State) (h : Bounded s) :
    Bounded (readBar2 off len s) := by
  unfold readBar2
  repeat' (first | with_reducible assumption | split | (dsimp only; split) | with_reducible apply emit_b | with_reducible apply zeroRead_b | (with_reducible refine foldl_b _ _ _ ?_ ?_) | (intro t x ht) | (dsimp only))

theorem readBar_b (bar : Bar) (off len : Nat) (s : State) (h : Bounded s) :
    Bounded (readBar bar off len s) := by
  unfold readBar
  repeat' (first | with_reducible assumption | split | (dsimp only; split) | with_reducible apply readBar0_b | with_reducible apply readBar2_b | (with_reducible refine foldl_b _ _ _ ?_ ?_) | (intro t x ht) | (dsimp only))

theorem setupWrite_b (g : Hif → Hif) (s : State) (h : Bounded s) (hg : ∀ x, (g x).msixTable = x.msixTable) :
    Bounded (setupWrite g s) := by
  unfold setupWrite
  split
  · exact badAccess_b _ h
  · refine ⟨h.recs, h.elog, h.pool, h.slow, h.fast, h.a, h.b, ?_⟩
    rw [show ({ s with hif := g s.hif } : State).hif.msixTable = s.hif.msixTable from hg _]
    exact h.c

theorem ctrlWrite_b (v : Nat) (s : State) (h : Bounded s) :
    Bounded (ctrlWrite v s) := by
  unfold ctrlWrite
  repeat' (first | with_reducible assumption | split | (dsimp only; split) | with_reducible apply migGo_b | with_reducible apply migCancelHere_b | with_reducible apply settle_b | with_reducible apply setCtrl_b | (with_reducible refine foldl_b _ _ _ ?_ ?_) | (intro t x ht) | (dsimp only))

theorem acceptWrite_b (v : Nat) (s : State) (h : Bounded s) :
    Bounded (acceptWrite v s) := by
  unfold acceptWrite
  repeat' (first | with_reducible assumption | split | (dsimp only; split) | with_reducible apply migArm_b | with_reducible apply migCancelHere_b | with_reducible apply settle_b | with_reducible apply setAccept_b | (with_reducible refine foldl_b _ _ _ ?_ ?_) | (intro t x ht) | (dsimp only))

theorem writeBar0_b (off size value : Nat) (s : State) (h : Bounded s) : Bounded (writeBar0 off size value s) := by
  unfold writeBar0
  extract_lets a v
  refine ite_b _ _ _ ⟨h.recs, h.elog, h.pool, h.slow, h.fast, h.a, h.b, h.c⟩ ?_
  refine ite_b _ _ _ (ite_b _ _ _ (enableHif_b _ h) (disableHif_b _ h)) ?_
  refine ite_b _ _ _ (setupWrite_b _ _ h fun _ => rfl) ?_
  refine ite_b _ _ _ (setupWrite_b _ _ h fun _ => rfl) ?_
  refine ite_b _ _ _ (setupWrite_b _ _ h fun _ => rfl) ?_
  refine ite_b _ _ _ ⟨h.recs, h.elog, h.pool, h.slow, h.fast, h.a, h.b, h.c⟩ ?_
  refine ite_b _ _ _ (ctrlWrite_b _ _ h) (ite_b _ _ _ (acceptWrite_b _ _ h) ?_)
  refine ite_b _ _ _ ⟨h.recs, h.elog, h.pool, h.slow, h.fast, h.a, h.b, h.c⟩ ?_
  refine ite_b _ _ _ ?_ (badAccess_b _ h)
  exact ⟨h.recs, h.elog, h.pool, h.slow, h.fast, h.a, h.b, cellWrite_wf _ _ _ h.c⟩

theorem writeBar2_b (off size value : Nat) (s : State) (h : Bounded s) :
    Bounded (writeBar2 off size value s) := by
  unfold writeBar2
  repeat' (first | with_reducible assumption | split | (dsimp only; split) | with_reducible apply badAccess_b | with_reducible apply sqTail_b | with_reducible apply cqHead_b | (with_reducible refine foldl_b _ _ _ ?_ ?_) | (intro t x ht) | (dsimp only))

theorem writeBar_b (bar : Bar) (off size value : Nat) (s : State) (h : Bounded s) :
    Bounded (writeBar bar off size value s) := by
  unfold writeBar
  repeat' (first | with_reducible assumption | split | (dsimp only; split) | with_reducible apply badAccess_b | with_reducible apply writeBar0_b | with_reducible apply writeBar2_b | (with_reducible refine foldl_b _ _ _ ?_ ?_) | (intro t x ht) | (dsimp only))

theorem sbAnswer_b (a : SbAnswer) (s : State) (h : Bounded s) :
    Bounded (sbAnswer a s) := by
  unfold sbAnswer
  repeat' (first | with_reducible assumption | split | (dsimp only; split) | with_reducible apply emit_b | (with_reducible refine foldl_b _ _ _ ?_ ?_) | (intro t x ht) | (dsimp only))

theorem pldm_b (code : Nat) (d : Bytes) (s : State) (h : Bounded s) :
    Bounded (pldm code d s) := by
  unfold pldm
  repeat' (first | with_reducible assumption | split | (dsimp only; split) | with_reducible apply sbAnswer_b | (with_reducible refine foldl_b _ _ _ ?_ ?_) | (intro t x ht) | (dsimp only))

theorem setEid_b (e : Byte) (s : State) (h : Bounded s) :
    Bounded (setEid e s) := by
  unfold setEid
  repeat' (first | with_reducible assumption | split | (dsimp only; split) | with_reducible apply sbAnswer_b | (with_reducible refine foldl_b _ _ _ ?_ ?_) | (intro t x ht) | (dsimp only))

theorem setTerminus_b (t : Byte) (s : State) (h : Bounded s) :
    Bounded (setTerminus t s) := by
  unfold setTerminus
  repeat' (first | with_reducible assumption | split | (dsimp only; split) | with_reducible apply pldm_b | (with_reducible refine foldl_b _ _ _ ?_ ?_) | (intro t x ht) | (dsimp only))

theorem pldmVersion_b (t : Byte) (s : State) (h : Bounded s) :
    Bounded (pldmVersion t s) := by
  unfold pldmVersion
  repeat' (first | with_reducible assumption | split | (dsimp only; split) | with_reducible apply pldm_b | (with_reducible refine foldl_b _ _ _ ?_ ?_) | (intro t x ht) | (dsimp only))

theorem pldmCmds_b (t : Byte) (s : State) (h : Bounded s) :
    Bounded (pldmCmds t s) := by
  unfold pldmCmds
  repeat' (first | with_reducible assumption | split | (dsimp only; split) | with_reducible apply pldm_b | (with_reducible refine foldl_b _ _ _ ?_ ?_) | (intro t x ht) | (dsimp only))

theorem getRecord_b (n : Nat) (s : State) (h : Bounded s) : Bounded (getRecord n s) := by
  unfold getRecord
  exact ite_b _ _ _ (pldm_b _ _ _ h) (pldm_b _ _ _ h)

theorem readSensor_b (n : Nat) (s : State) (h : Bounded s) :
    Bounded (readSensor n s) := by
  unfold readSensor
  repeat' (first | with_reducible assumption | split | (dsimp only; split) | with_reducible apply pldm_b | (with_reducible refine foldl_b _ _ _ ?_ ?_) | (intro t x ht) | (dsimp only))

theorem readStates_b (n : Nat) (s : State) (h : Bounded s) :
    Bounded (readStates n s) := by
  unfold readStates
  repeat' (first | with_reducible assumption | split | (dsimp only; split) | with_reducible apply pldm_b | (with_reducible refine foldl_b _ _ _ ?_ ?_) | (intro t x ht) | (dsimp only))

theorem recovery_b (f : State → State) (s : State) (h : Bounded s) (hf : ∀ t, Bounded t → Bounded (f t)) : Bounded (recovery f s) := by
  unfold recovery
  split
  · exact h
  · split
    · exact hf s h
    · exact sbAnswer_b _ _ h

theorem receiveBlock_b (off : Nat) (bs : Bytes) (s : State) (h : Bounded s) : Bounded (receiveBlock off bs s) := by
  unfold receiveBlock
  split
  · exact sbAnswer_b _ _ h
  · refine sbAnswer_b _ _ ?_
    exact ⟨h.recs, h.elog, h.pool, h.slow, h.fast, h.a, cellWrite_wf _ _ _ h.b, h.c⟩

theorem storeBuffer_b (v : Byte) (s : State) (h : Bounded s) :
    Bounded (storeBuffer v s) := by
  unfold storeBuffer
  repeat' (first | with_reducible assumption | split | (dsimp only; split) | with_reducible apply sbAnswer_b | (with_reducible refine foldl_b _ _ _ ?_ ?_) | (intro t x ht) | (dsimp only))

theorem promoteFacet_b (s : State) (r : FacetRec) (h : Bounded s) : Bounded (promoteFacet s r) := by
  unfold promoteFacet
  dsimp only
  refine ite_b _ _ _ h ?_
  split
  · exact h
  · have ht := allJobs_b _ _ _ _ _ _ h (by assumption)
    exact bump_b _ _ _ _ (bump_b _ _ _ _ (ht.memory _ ht.pool))

theorem promotionCycle_b (s : State) (h : Bounded s) :
    Bounded (promotionCycle s) := by
  unfold promotionCycle
  repeat' (first | with_reducible assumption | split | (dsimp only; split) | with_reducible apply promoteFacet_b | (with_reducible refine foldl_b _ _ _ ?_ ?_) | (intro t x ht) | (dsimp only))

theorem patrol_b (hbm flash : Bool) (s : State) (h : Bounded s) : Bounded (patrol hbm flash s) := by
  have key : ∀ (l : List FacetRec) (o : Option State), (∀ u, o = some u → Bounded u) →
      ∀ t, l.foldl (fun (acc : Option State) r => acc.bind fun t => allJobs r.facet 7 .ended (patrolJobs t hbm flash r.facet) t) o = some t →
      Bounded t := by
    intro l
    induction l with
    | nil => intro o ho t ht; exact ho t ht
    | cons r l ih =>
      intro o ho t ht
      refine ih _ ?_ t ht
      intro u hu
      simp only [Option.bind_eq_some_iff] at hu
      obtain ⟨v, hv, hu⟩ := hu
      exact allJobs_b _ _ _ _ _ _ (ho v hv) hu
  unfold patrol
  refine ite_b _ _ _ h ?_
  dsimp only
  split
  · exact h
  · rename_i t hd
    have ht := key s.cfg.facets (some s) (by rintro u ⟨⟩; exact h) t hd
    repeat' (first | exact ht | (exact ht.memory _ ht.pool) | split | exact ⟨ht.recs, ht.elog, ht.pool, ht.slow, ht.fast, ht.a, ht.b, ht.c⟩)

theorem lendEscapes_b (r f seq n : Nat) (s : State) (h : Bounded s) :
    Bounded (lendEscapes r f seq n s) := by
  unfold lendEscapes
  repeat' (first | with_reducible assumption | split | (dsimp only; split) | (with_reducible refine foldl_b _ _ _ ?_ ?_) | (intro t x ht) | (dsimp only))

theorem serveStall_b (w : Stall) (s : State) (h : Bounded s) :
    Bounded (serveStall w s) := by
  unfold serveStall
  repeat' (first | with_reducible assumption | split | (dsimp only; split) | with_reducible apply bump_b | with_reducible apply record_b | with_reducible apply lendEscapes_b | (with_reducible refine foldl_b _ _ _ ?_ ?_) | (intro t x ht) | (dsimp only))

theorem waitCheck_b (w : Stall) (s : State) (h : Bounded s) :
    Bounded (waitCheck w s) := by
  unfold waitCheck
  repeat' (first | with_reducible assumption | split | (dsimp only; split) | with_reducible apply serveStall_b | (with_reducible refine foldl_b _ _ _ ?_ ?_) | (intro t x ht) | (dsimp only))

theorem latticeApply_b (fault : Option Nat) (s : State) (h : Bounded s) :
    Bounded (latticeApply fault s) := by
  unfold latticeApply
  repeat' (first | with_reducible assumption | split | (dsimp only; split) | with_reducible apply endLoad_b | with_reducible apply settle_b | with_reducible apply recoverStored_b | with_reducible apply applyFault_b | (with_reducible refine foldl_b _ _ _ ?_ ?_) | (intro t x ht) | (dsimp only))

theorem regionReshape_b (liveMiB : Nat) (fault : Option Nat) (s : State) (h : Bounded s) :
    Bounded (regionReshape liveMiB fault s) := by
  unfold regionReshape
  repeat' (first | with_reducible assumption | split | (dsimp only; split) | with_reducible apply endLoad_b | with_reducible apply settle_b | with_reducible apply applyFault_b | (with_reducible refine foldl_b _ _ _ ?_ ?_) | (intro t x ht) | (dsimp only))

theorem scrubComplete_b (f : Nat) (s : State) (h : Bounded s) :
    Bounded (scrubComplete f s) := by
  unfold scrubComplete
  repeat' (first | with_reducible assumption | split | (dsimp only; split) | with_reducible apply updFacet_b | with_reducible apply scrubOn_b | (with_reducible refine foldl_b _ _ _ ?_ ?_) | (intro t x ht) | (dsimp only))

theorem tick_b (s : State) (h : Bounded s) :
    Bounded (tick s) := by
  unfold tick
  repeat' (first | with_reducible assumption | split | (dsimp only; split) | (with_reducible refine foldl_b _ _ _ ?_ ?_) | (intro t x ht) | (dsimp only))

end Sys2Proof.Machine
end

