-- ==== Sys2Proof/Laws/Charge.lean ====
section
/-! SUPPORT. What charging work can do to the search state (R210, R221 to R223): ticks and bytes spent, and nothing else. -/

namespace Sys2Proof.Machine

/-- Of the search state nothing changed but the ticks and bytes spent in the turn. -/
def Charged (s t : State) : Prop :=
  t.srch = { s.srch with turnTicks := t.srch.turnTicks, spent := t.srch.spent, bytes := t.srch.bytes }

namespace Charged

theorem refl (s : State) : Charged s s := rfl

theorem trans {s t u : State} (h : Charged s t) (k : Charged t u) : Charged s u := by
  unfold Charged at *; rw [k, h]

theorem of_eq {s t : State} (h : t.srch = s.srch) : Charged s t := by unfold Charged; rw [h]

theorem foldl {α : Type} (f : State → α → State) (h : ∀ s a, Charged s (f s a)) (l : List α) (s : State) :
    Charged s (l.foldl f s) := by
  induction l generalizing s with
  | nil => exact refl s
  | cons a l ih => exact (h s a).trans (ih _)

theorem queries {s t : State} (h : Charged s t) : t.srch.queries = s.srch.queries := by rw [h]
theorem cells {s t : State} (h : Charged s t) : t.srch.cells = s.srch.cells := by rw [h]
theorem engines {s t : State} (h : Charged s t) : t.srch.engines = s.srch.engines := by rw [h]
theorem tiles {s t : State} (h : Charged s t) : t.srch.tiles = s.srch.tiles := by rw [h]
theorem slivers {s t : State} (h : Charged s t) : t.srch.slivers = s.srch.slivers := by rw [h]
theorem shadows {s t : State} (h : Charged s t) : t.srch.shadows = s.srch.shadows := by rw [h]
theorem train {s t : State} (h : Charged s t) : t.srch.train = s.srch.train := by rw [h]
theorem enc {s t : State} (h : Charged s t) : t.srch.enc = s.srch.enc := by rw [h]

theorem cellOf {s t : State} (h : Charged s t) (c : Nat) : Machine.cellOf t c = Machine.cellOf s c := by
  unfold Machine.cellOf; rw [h.cells]

theorem queryOf {s t : State} (h : Charged s t) (x : Nat) : Machine.queryOf t x = Machine.queryOf s x := by
  unfold Machine.queryOf; rw [h.queries]

end Charged

variable {s t : State}

theorem bump_charged (f k n : Nat) (h : Charged s t) : Charged s (bump f k n t) := h.trans (.of_eq (by simp))

theorem useFree_charged (h : Charged s t) : Charged s (useFree t) := h.trans (.of_eq rfl)

theorem charge_charged (u f cls ticks : Nat) (b : Bool) (h : Charged s t) : Charged s (charge u f cls ticks b t) := by
  refine h.trans ?_
  unfold charge
  split
  · exact .refl t
  · simp [Charged]

theorem chargeFree_charged (u f cls : Nat) (h : Charged s t) : Charged s (chargeFree u f cls t) :=
  useFree_charged (charge_charged _ _ _ _ _ h)

theorem chargeTiles_charged (e f cls ticks : Nat) (h : Charged s t) : Charged s (chargeTiles e f cls ticks t) :=
  charge_charged _ _ _ _ _ (charge_charged _ _ _ _ _ h)

theorem chargeWork_charged (f cls : Nat) (h : Charged s t) : Charged s (chargeWork f cls t) :=
  h.trans (.foldl _ (fun u _ => chargeTiles_charged _ _ _ _ (.refl u)) _ _)

theorem chargeCell_charged (x : CellSt) (h : Charged s t) : Charged s (chargeCell x t) := by
  unfold chargeCell
  split
  · exact charge_charged _ _ _ _ _ h
  · exact h

theorem takeBytes_charged (r f cls n size : Nat) (h : Charged s t) : Charged s (takeBytes r f cls n size t) := by
  refine h.trans ?_
  unfold takeBytes
  by_cases hn : (n == 0) = true
  · simp [hn, Charged]
  · simp [hn, Charged]

theorem takeBorrowed_charged (r f n : Nat) (h : Charged s t) : Charged s (takeBorrowed r f n t) := by
  refine h.trans ?_
  unfold takeBorrowed
  by_cases hn : (n == 0) = true
  · simp [Charged]
  · simp [Charged]

theorem chargeGrants_charged (ch f cls n ticks : Nat) (h : Charged s t) : Charged s (chargeGrants ch f cls n ticks t) :=
  charge_charged _ _ _ _ _ (charge_charged _ _ _ _ _ h)

theorem moveUnits_charged (ch f cls n : Nat) (h : Charged s t) : Charged s (moveUnits ch f cls n t) :=
  takeBytes_charged _ _ _ _ _ (chargeGrants_charged _ _ _ _ _ h)

theorem flashRuns_charged (f cls p n : Nat) (h : Charged s t) : Charged s (flashRuns f cls p n t) :=
  (useFree_charged h).trans (.foldl _ (fun u _ => moveUnits_charged _ _ _ _ (bump_charged _ _ _ (.refl u))) _ _)

theorem readHbm_charged (f slot key cls base : Nat) (r : Nat × Nat) (h : Charged s t) : Charged s (readHbm f slot key cls base r t) := by
  refine h.trans (.foldl _ (fun u p => ?_) _ _)
  dsimp only
  split
  · exact flashRuns_charged _ _ _ _ (.refl u)
  · exact takeBytes_charged _ _ _ _ _ (bump_charged _ _ _ (.refl u))

theorem countSliver_charged (s0 : State) (ix : Index) (v : Sliver) (h : Charged s t) : Charged s (countSliver s0 ix v t) := by
  refine h.trans ?_
  unfold countSliver
  dsimp only
  split
  · exact bump_charged _ _ _ (.of_eq rfl)
  · exact .of_eq rfl

/-- A piece of work is charged, and its program may join a die's; the search state has only its ticks and bytes spent. -/
theorem chargePiece_charged (f cls : Nat) (w : SegWork) (j : Job) (b : Bool) (h : Charged s t) : Charged s (chargePiece f cls w j b t) := by
  refine h.trans ?_
  unfold chargePiece
  extract_lets s1 s2 s3
  have h1 : Charged t s1 := by
    dsimp only [s1]
    split
    · exact charge_charged _ _ _ _ _ (.refl t)
    · exact .refl t
  have h2 : Charged t s2 := by
    dsimp only [s2]
    split
    · split
      · exact takeBorrowed_charged _ _ _ h1
      · exact takeBytes_charged _ _ _ _ _ h1
    · exact h1
  have h3 : Charged t s3 := by
    dsimp only [s3]
    split
    · exact bump_charged _ _ _ h2
    · exact h2
  split
  · exact h3.trans (.of_eq (by simp))
  · exact h3

theorem grantPieces_charged (f cls : Nat) (w : SegWork) (j : Job) (n : Nat) (t : State) : Charged t (grantPieces f cls w j n t).2 := by
  induction n generalizing t with
  | zero => exact .refl t
  | succ n ih =>
    unfold grantPieces
    split
    · exact (chargePiece_charged _ _ _ _ _ (.refl t)).trans (ih _)
    · split
      · exact (chargePiece_charged _ _ _ _ _ (.refl t)).trans (ih _)
      · exact .refl t

/-- Whatever of some jobs is granted, the search state has only its ticks and bytes spent. -/
theorem runJobs_charged (f cls : Nat) (w : SegWork) (js : List Job) (t : State) : Charged t (runJobs f cls w js t).2 := by
  induction js generalizing t with
  | nil => exact .refl t
  | cons j js ih =>
    unfold runJobs
    dsimp only
    split
    · exact (grantPieces_charged _ _ _ _ _ t).trans (ih _)
    · exact grantPieces_charged _ _ _ _ _ t

theorem allJobs_charged (f cls : Nat) (w : SegWork) (js : List Job) (h : allJobs f cls w js s = some t) : Charged s t := by
  unfold allJobs at h
  dsimp only at h
  split at h
  · cases h
    exact runJobs_charged _ _ _ _ _
  · cases h

end Sys2Proof.Machine
end

