-- ==== Sys2Proof/Laws/Clock.lean ====
section
/-! SUPPORT. The operations that change the board but neither the clock nor the start of the turn. -/

set_option linter.unreachableTactic false
set_option linter.unusedTactic false
set_option linter.unusedSimpArgs false
set_option linter.unusedVariables false

namespace Sys2Proof.Machine

@[simp] theorem ite_brd_turnStart (c : Prop) [Decidable c] (a b : State) :
    (if c then a else b).brd.turnStart = if c then a.brd.turnStart else b.brd.turnStart := apply_ite (fun u : State => u.brd.turnStart) _ _ _

@[simp] theorem foldl_brd_turnStart {α : Type} (f : State → α → State) (l : List α) (s : State) (h : ∀ t x, (f t x).brd.turnStart = t.brd.turnStart) :
    (l.foldl f s).brd.turnStart = s.brd.turnStart := by
  induction l generalizing s with
  | nil => rfl
  | cons a l ih => rw [List.foldl_cons, ih, h]

@[simp] theorem ite_brd_clk (c : Prop) [Decidable c] (a b : State) :
    (if c then a else b).brd.clk = if c then a.brd.clk else b.brd.clk := apply_ite (fun u : State => u.brd.clk) _ _ _

@[simp] theorem foldl_brd_clk {α : Type} (f : State → α → State) (l : List α) (s : State) (h : ∀ t x, (f t x).brd.clk = t.brd.clk) :
    (l.foldl f s).brd.clk = s.brd.clk := by
  induction l generalizing s with
  | nil => rfl
  | cons a l ih => rw [List.foldl_cons, ih, h]


theorem clk_trans {a b c : State} (h : (b).brd.turnStart = a.brd.turnStart ∧ (b).brd.clk = a.brd.clk) (k : (c).brd.turnStart = b.brd.turnStart ∧ (c).brd.clk = b.brd.clk) : (c).brd.turnStart = a.brd.turnStart ∧ (c).brd.clk = a.brd.clk := by
  simp_all

theorem foldl_clk {α : Type} (f : State → α → State) (l : List α) (s t : State) (hs : (t).brd.turnStart = s.brd.turnStart ∧ (t).brd.clk = s.brd.clk)
    (h : ∀ t x, (f t x).brd.turnStart = t.brd.turnStart ∧ (f t x).brd.clk = t.brd.clk) : (l.foldl f t).brd.turnStart = s.brd.turnStart ∧ (l.foldl f t).brd.clk = s.brd.clk := by
  induction l generalizing t with
  | nil => exact hs
  | cons a l ih => exact ih _ (clk_trans hs (h t a))

theorem foldr_clk {α : Type} (f : α → State → State) (l : List α) (s t : State) (hs : (t).brd.turnStart = s.brd.turnStart ∧ (t).brd.clk = s.brd.clk)
    (h : ∀ x t, (f x t).brd.turnStart = t.brd.turnStart ∧ (f x t).brd.clk = t.brd.clk) : (l.foldr f t).brd.turnStart = s.brd.turnStart ∧ (l.foldr f t).brd.clk = s.brd.clk := by
  induction l with
  | nil => exact hs
  | cons a l ih => exact clk_trans ih (h a _)

@[simp] theorem interfaceReset_clk (s : State) : (interfaceReset s).brd.turnStart = s.brd.turnStart ∧ (interfaceReset s).brd.clk = s.brd.clk := by
  unfold interfaceReset
  repeat' (first | (simp; done) | split | (dsimp only; split))

@[simp] theorem beginPower_clk (c : Cmd) (s : State) : (beginPower c s).brd.turnStart = s.brd.turnStart ∧ (beginPower c s).brd.clk = s.brd.clk := by
  unfold beginPower
  repeat' (first | (simp; done) | split | (dsimp only; split))

@[simp] theorem beginSetFeature_clk (c : Cmd) (s : State) :
    (beginSetFeature c s).brd.turnStart = s.brd.turnStart ∧ (beginSetFeature c s).brd.clk = s.brd.clk := by
  unfold beginSetFeature
  repeat' (first | (simp; done) | split | (dsimp only; split))

@[simp] theorem wake_clk (o : Op) (s : State) : (wake o s).brd.turnStart = s.brd.turnStart ∧ (wake o s).brd.clk = s.brd.clk := by
  unfold wake
  repeat' (first | (simp; done) | split | (dsimp only; split))

@[simp] theorem beginCmd_clk (c : Cmd) (s : State) : (beginCmd c s).brd.turnStart = s.brd.turnStart ∧ (beginCmd c s).brd.clk = s.brd.clk := by
  unfold beginCmd
  repeat' (first | (simp; done) | split | (dsimp only; split))

@[simp] theorem acceptCmd_clk (c : Cmd) (s : State) : (acceptCmd c s).brd.turnStart = s.brd.turnStart ∧ (acceptCmd c s).brd.clk = s.brd.clk := by
  unfold acceptCmd
  repeat' (first | (simp; done) | split | (dsimp only; split))

@[simp] theorem checkCmd_clk (c : Cmd) (s : State) : (checkCmd c s).brd.turnStart = s.brd.turnStart ∧ (checkCmd c s).brd.clk = s.brd.clk := by
  unfold checkCmd
  repeat' (first | (simp; done) | split | (dsimp only; split))

@[simp] theorem turnCmd_clk (c : Cmd) (s : State) : (turnCmd c s).brd.turnStart = s.brd.turnStart ∧ (turnCmd c s).brd.clk = s.brd.clk := by
  unfold turnCmd
  repeat' (first | (simp; done) | split | (dsimp only; split))

@[simp] theorem startSerial_clk  (n0 : Nat) (s : State) :
    (startSerial n0 s).brd.turnStart = s.brd.turnStart ∧ (startSerial n0 s).brd.clk = s.brd.clk := by
  fun_induction startSerial n0 s <;> simp_all

@[simp] theorem startPower_clk (s : State) : (startPower s).brd.turnStart = s.brd.turnStart ∧ (startPower s).brd.clk = s.brd.clk := by
  unfold startPower
  repeat' (first | (simp; done) | split | (dsimp only; split))

@[simp] theorem settle_clk (s : State) : (settle s).brd.turnStart = s.brd.turnStart ∧ (settle s).brd.clk = s.brd.clk := by
  have h1 : (dropProgress (trainProgress (migProgress (chordProgress (deletePairs (endStopped (goneReads s))))))).brd.turnStart = s.brd.turnStart ∧
      (dropProgress (trainProgress (migProgress (chordProgress (deletePairs (endStopped (goneReads s))))))).brd.clk = s.brd.clk := by simp
  unfold settle
  revert h1
  generalize dropProgress (trainProgress (migProgress (chordProgress (deletePairs (endStopped (goneReads s)))))) = s1
  intro h1
  simp [h1]

@[simp] theorem fetchEntry_clk (row : Op) (e : Entry) (s : State) :
    (fetchEntry row e s).brd.turnStart = s.brd.turnStart ∧ (fetchEntry row e s).brd.clk = s.brd.clk := by
  unfold fetchEntry
  repeat' (first | (simp; done) | split | (dsimp only; split))

@[simp] theorem haveData_clk (c : Cmd) (d : Bytes) (s : State) :
    (haveData c d s).brd.turnStart = s.brd.turnStart ∧ (haveData c d s).brd.clk = s.brd.clk := by
  unfold haveData
  repeat' (first | (simp; done) | split | (dsimp only; split))

@[simp] theorem hostData_clk (t : Nat) (d : Bytes) (poisoned : Bool) (s : State) :
    (hostData t d poisoned s).brd.turnStart = s.brd.turnStart ∧ (hostData t d poisoned s).brd.clk = s.brd.clk := by
  unfold hostData
  repeat' (first | (simp; done) | split | (dsimp only; split))

@[simp] theorem readTimeout_clk (tag : Nat) (s : State) :
    (readTimeout tag s).brd.turnStart = s.brd.turnStart ∧ (readTimeout tag s).brd.clk = s.brd.clk := by
  unfold readTimeout
  repeat' (first | (simp; done) | split | (dsimp only; split))

@[simp] theorem stage_clk (f slot cls kind count : Nat) (mk : State → Index → Plan) (s : State) :
    (stage f slot cls kind count mk s).brd.turnStart = s.brd.turnStart ∧ (stage f slot cls kind count mk s).brd.clk = s.brd.clk := by
  unfold stage
  repeat' (first | (simp; done) | split | (dsimp only; split))

@[simp] theorem goOn_clk (f slot : Nat) (s : State) : (goOn f slot s).brd.turnStart = s.brd.turnStart ∧ (goOn f slot s).brd.clk = s.brd.clk := by
  unfold goOn
  repeat' (first | (simp; done) | split | (dsimp only; split))

@[simp] theorem writeAgain_clk (f slot : Nat) (ix : Index) (p : Plan) (s : State) :
    (writeAgain f slot ix p s).brd.turnStart = s.brd.turnStart ∧ (writeAgain f slot ix p s).brd.clk = s.brd.clk := by
  unfold writeAgain
  repeat' (first | (simp; done) | split | (dsimp only; split))

@[simp] theorem movePlan_brd (s : State) (ix : Index) (cls : Nat) (es : List SideEnt) (u : State) : ((movePlan s ix cls es).also u).brd = u.brd := by
  have key := @foldl_ind (fun v : State => v.brd = u.brd)
  unfold movePlan
  repeat' (first | (simp; done) | split | (dsimp only; split) | refine key _ _ _ ?_ ?_ |
    (dsimp only; refine key _ _ _ ?_ ?_) | intro t x h | (simp [h]; done))

@[simp] theorem rewritePlan_brd (s : State) (ix : Index) (d : ListDir) (u : State) : ((rewritePlan s ix d).also u).brd = u.brd := by
  have key := @foldl_ind (fun v : State => v.brd = u.brd)
  unfold rewritePlan
  repeat' (first | (simp; done) | split | (dsimp only; split) | refine key _ _ _ ?_ ?_ |
    (dsimp only; refine key _ _ _ ?_ ?_) | intro t x h | (simp [h]; done))

@[simp] theorem insertPlan_brd (s : State) (ix : Index) (cls : Nat) (es : List SideEnt) (u : State) : ((insertPlan s ix cls es).also u).brd = u.brd := by
  have key := @foldl_ind (fun v : State => v.brd = u.brd)
  unfold insertPlan
  repeat' (first | (simp; done) | split | (dsimp only; split) | refine key _ _ _ ?_ ?_ |
    (dsimp only; refine key _ _ _ ?_ ?_) | intro t x h | (simp [h]; done))

@[simp] theorem sweepPlan_brd (s : State) (ix : Index) (w : Sweep) (u : State) : ((sweepPlan s ix w).also u).brd = u.brd := by
  have key := @foldl_ind (fun v : State => v.brd = u.brd)
  unfold sweepPlan
  repeat' (first | (simp; done) | split | (dsimp only; split) | refine key _ _ _ ?_ ?_ |
    (dsimp only; refine key _ _ _ ?_ ?_) | intro t x h | (simp [h]; done))

@[simp] theorem renumberPlan_brd (s : State) (ix : Index) (u : State) : ((renumberPlan s ix).also u).brd = u.brd := by
  have key := @foldl_ind (fun v : State => v.brd = u.brd)
  unfold renumberPlan
  repeat' (first | (simp; done) | split | (dsimp only; split) | refine key _ _ _ ?_ ?_ |
    (dsimp only; refine key _ _ _ ?_ ?_) | intro t x h | (simp [h]; done))

@[simp] theorem listPlan_brd (s : State) (ix : Index) (t : Transition) (d : ListDir) (u : State) : ((listPlan s ix t d).also u).brd = u.brd := by
  have key := @foldl_ind (fun v : State => v.brd = u.brd)
  unfold listPlan
  repeat' (first | (simp; done) | split | (dsimp only; split) | refine key _ _ _ ?_ ?_ |
    (dsimp only; refine key _ _ _ ?_ ?_) | intro t x h | (simp [h]; done))

@[simp] theorem chunkPlan_brd (s : State) (ix : Index) (t : Transition) (u : State) : ((chunkPlan s ix t).also u).brd = u.brd := by
  have key := @foldl_ind (fun v : State => v.brd = u.brd)
  unfold chunkPlan
  repeat' (first | (simp; done) | split | (dsimp only; split) | refine key _ _ _ ?_ ?_ |
    (dsimp only; refine key _ _ _ ?_ ?_) | intro t x h | (simp [h]; done))

theorem resketchPlan_brd (s : State) (ix : Index) (t : Transition) (p : Plan) (h : resketchPlan s ix t = some p) (u : State) :
    (p.also u).brd = u.brd := by
  unfold resketchPlan at h
  split at h
  · obtain ⟨d, -, rfl⟩ := Option.map_eq_some_iff.mp h
    simp
  · split at h
    · cases h
    · cases h
      simp

theorem publishPlan_clk (f slot : Nat) (p : Plan) (s : State) :
    (publishPlan f slot p s).brd.turnStart = (p.also s).brd.turnStart ∧ (publishPlan f slot p s).brd.clk = (p.also s).brd.clk := by
  unfold publishPlan
  generalize p.also s = t
  simp

@[simp] theorem publish_clk (f slot : Nat) (ix : Index) (p : Plan) (s : State) (h : (p.also s).brd = s.brd) :
    (publish f slot ix p s).brd.turnStart = s.brd.turnStart ∧ (publish f slot ix p s).brd.clk = s.brd.clk := by
  unfold publish
  split
  · simp [publishPlan_clk, h]
  · simp

@[simp] theorem unstage_clk (f slot : Nat) (s : State) :
    (unstage f slot s).brd.turnStart = s.brd.turnStart ∧ (unstage f slot s).brd.clk = s.brd.clk := by
  unfold unstage
  repeat' (first | (simp; done) | split | (dsimp only; split))

@[simp] theorem compactionMove_clk (f slot count : Nat) (s : State) :
    (compactionMove f slot count s).brd.turnStart = s.brd.turnStart ∧ (compactionMove f slot count s).brd.clk = s.brd.clk := by
  unfold compactionMove
  repeat' (first | (simp; done) | split | (dsimp only; split))

@[simp] theorem listRewrite_clk (f slot : Nat) (s : State) :
    (listRewrite f slot s).brd.turnStart = s.brd.turnStart ∧ (listRewrite f slot s).brd.clk = s.brd.clk := by
  unfold listRewrite
  repeat' (first | (simp; done) | split | (dsimp only; split))

@[simp] theorem graphInsert_clk (f slot count : Nat) (s : State) :
    (graphInsert f slot count s).brd.turnStart = s.brd.turnStart ∧ (graphInsert f slot count s).brd.clk = s.brd.clk := by
  unfold graphInsert
  repeat' (first | (simp; done) | split | (dsimp only; split))

@[simp] theorem repairSweepUnit_clk (f slot : Nat) (s : State) :
    (repairSweepUnit f slot s).brd.turnStart = s.brd.turnStart ∧ (repairSweepUnit f slot s).brd.clk = s.brd.clk := by
  unfold repairSweepUnit
  repeat' (first | (simp; done) | split | (dsimp only; split))
  have h := allJobs_rest _ _ _ _ _ _ (by assumption)
  simp [h]

@[simp] theorem renumbering_clk (f slot : Nat) (s : State) :
    (renumbering f slot s).brd.turnStart = s.brd.turnStart ∧ (renumbering f slot s).brd.clk = s.brd.clk := by
  unfold renumbering
  repeat' (first | (simp; done) | split | (dsimp only; split))

@[simp] theorem resketchStep_clk (f slot : Nat) (s : State) :
    (resketchStep f slot s).brd.turnStart = s.brd.turnStart ∧ (resketchStep f slot s).brd.clk = s.brd.clk := by
  unfold resketchStep
  repeat' (first | (simp; done) | split)
  all_goals
    have h := resketchPlan_brd _ _ _ _ (by assumption) s
    simp [h]

@[simp] theorem tileDrain_clk (e : Nat) (s : State) : (tileDrain e s).brd.turnStart = s.brd.turnStart ∧ (tileDrain e s).brd.clk = s.brd.clk := by
  unfold tileDrain
  repeat' (first | (simp; done) | split | (dsimp only; split))

@[simp] theorem sliverFinish_clk (c : Nat) (s : State) :
    (sliverFinish c s).brd.turnStart = s.brd.turnStart ∧ (sliverFinish c s).brd.clk = s.brd.clk := by
  unfold sliverFinish
  repeat' (first | (simp; done) | split | (dsimp only; split))

@[simp] theorem scanCheckpoint_clk (x : Nat) (s : State) :
    (scanCheckpoint x s).brd.turnStart = s.brd.turnStart ∧ (scanCheckpoint x s).brd.clk = s.brd.clk := by
  unfold scanCheckpoint
  repeat' (first | (simp; done) | split | (dsimp only; split))

@[simp] theorem commitAt_clk (tag : Nat) (s : State) : (commitAt tag s).brd.turnStart = s.brd.turnStart ∧ (commitAt tag s).brd.clk = s.brd.clk := by
  unfold commitAt
  repeat' (first | (simp; done) | split | (dsimp only; split))

@[simp] theorem readComplete_clk (ch d pl : Nat) (res : ReadResult) (s : State) :
    (readComplete ch d pl res s).brd.turnStart = s.brd.turnStart ∧ (readComplete ch d pl res s).brd.clk = s.brd.clk := by
  unfold readComplete
  repeat' (first | (simp; done) | split | (dsimp only; split))

@[simp] theorem segmentComplete_clk (ch d : Nat) (res : SegResult) (s : State) :
    (segmentComplete ch d res s).brd.turnStart = s.brd.turnStart ∧ (segmentComplete ch d res s).brd.clk = s.brd.clk := by
  unfold segmentComplete
  repeat' (first | (simp; done) | split | (dsimp only; split))

@[simp] theorem suspendSegment_clk (ch d : Nat) (s : State) :
    (suspendSegment ch d s).brd.turnStart = s.brd.turnStart ∧ (suspendSegment ch d s).brd.clk = s.brd.clk := by
  unfold suspendSegment
  repeat' (first | (simp; done) | split | (dsimp only; split))

@[simp] theorem boundary_clk (s : State) : (boundary s).brd.turnStart = s.brd.turnStart ∧ (boundary s).brd.clk = s.brd.clk := by
  unfold boundary
  repeat' (first | (simp; done) | split | (dsimp only; split))

@[simp] theorem batchStep_clk (s : State) : (batchStep s).brd.turnStart = s.brd.turnStart ∧ (batchStep s).brd.clk = s.brd.clk := by
  unfold batchStep
  repeat' (first | (simp; done) | split | (dsimp only; split))

/-- A turn starts at the moment of its boundary. -/
@[simp] theorem newTurn_clk (s : State) : (newTurn s).brd.turnStart = now s ∧ (newTurn s).brd.clk = s.brd.clk := by
  unfold newTurn
  simp [now]

/-- A turn starts at the moment of its boundary. -/
@[simp] theorem turnBoundary_clk (s : State) : (turnBoundary s).brd.turnStart = now s ∧ (turnBoundary s).brd.clk = s.brd.clk := by
  unfold turnBoundary
  simp

@[simp] theorem syncLost_clk (s : State) : (syncLost s).brd.clk = s.brd.clk := by
  unfold syncLost
  repeat' (first | (simp; done) | split | (dsimp only; split))

@[simp] theorem syncPulse_clk (s : State) : (syncPulse s).brd.clk = s.brd.clk := by
  unfold syncPulse
  repeat' (first | (simp; done) | split | (dsimp only; split))

@[simp] theorem syncIn_clk (s : State) : (syncIn s).brd.clk = s.brd.clk := by
  unfold syncIn
  repeat' (first | (simp; done) | split | (dsimp only; split))

@[simp] theorem freeTurn_clk (s : State) : (freeTurn s).brd.clk = s.brd.clk := by
  unfold freeTurn
  repeat' (first | (simp; done) | split | (dsimp only; split))

@[simp] theorem endPower_clk (target st : Nat) (tag : Nat) (s : State) :
    (endPower target st tag s).brd.turnStart = s.brd.turnStart ∧ (endPower target st tag s).brd.clk = s.brd.clk := by
  unfold endPower
  repeat' (first | (simp; done) | split | (dsimp only; split))

@[simp] theorem powerEntry_clk (s : State) : (powerEntry s).brd.turnStart = s.brd.turnStart ∧ (powerEntry s).brd.clk = s.brd.clk := by
  unfold powerEntry
  repeat' (first | (simp; done) | split | (dsimp only; split))

@[simp] theorem ps3Timeout_clk (s : State) : (ps3Timeout s).brd.turnStart = s.brd.turnStart ∧ (ps3Timeout s).brd.clk = s.brd.clk := by
  unfold ps3Timeout
  repeat' (first | (simp; done) | split | (dsimp only; split))

@[simp] theorem reportClock_clk (n new : Nat) (t : Int) (before after : State) :
    (reportClock n new t before after).brd.turnStart = after.brd.turnStart ∧ (reportClock n new t before after).brd.clk = after.brd.clk := by
  unfold reportClock
  repeat' (first | (simp; done) | split | (dsimp only; split))

@[simp] theorem thermalReport_clk (n : Nat) (t : Int) (s : State) :
    (thermalReport n t s).brd.turnStart = s.brd.turnStart ∧ (thermalReport n t s).brd.clk = s.brd.clk := by
  unfold thermalReport
  repeat' (first | (simp; done) | split | (dsimp only; split))

@[simp] theorem limiterEvent_clk (s : State) : (limiterEvent s).brd.turnStart = s.brd.turnStart ∧ (limiterEvent s).brd.clk = s.brd.clk := by
  unfold limiterEvent
  repeat' (first | (simp; done) | split | (dsimp only; split))

@[simp] theorem lowerClock_clk (s : State) : (lowerClock s).brd.turnStart = s.brd.turnStart ∧ (lowerClock s).brd.clk = s.brd.clk := by
  unfold lowerClock
  repeat' (first | (simp; done) | split | (dsimp only; split))

@[simp] theorem restoreClock_clk (s : State) : (restoreClock s).brd.turnStart = s.brd.turnStart ∧ (restoreClock s).brd.clk = s.brd.clk := by
  unfold restoreClock
  repeat' (first | (simp; done) | split | (dsimp only; split))

@[simp] theorem limiterSample_clk (mV mA : Nat) (s : State) :
    (limiterSample mV mA s).brd.turnStart = s.brd.turnStart ∧ (limiterSample mV mA s).brd.clk = s.brd.clk := by
  unfold limiterSample
  repeat' (first | (simp; done) | split | (dsimp only; split))

@[simp] theorem secondOver_clk (s : State) : (secondOver s).brd.turnStart = s.brd.turnStart ∧ (secondOver s).brd.clk = s.brd.clk := by
  unfold secondOver
  repeat' (first | (simp; done) | split | (dsimp only; split) | (dsimp only; refine foldl_clk _ _ _ _ ?_ ?_) | (refine foldl_clk _ _ _ _ ?_ ?_) | intro t x)

@[simp] theorem measureAux_clk (s : State) : (measureAux s).brd.turnStart = s.brd.turnStart ∧ (measureAux s).brd.clk = s.brd.clk := by
  unfold measureAux
  repeat' (first | (simp; done) | split | (dsimp only; split))

@[simp] theorem refreshSensors_clk (s0 : State) :
    (refreshSensors s0).brd.turnStart = s0.brd.turnStart ∧ (refreshSensors s0).brd.clk = s0.brd.clk := by
  unfold refreshSensors
  repeat' (first | (simp; done) | split | (dsimp only; split))

@[simp] theorem startedUp_clk (s : State) : (startedUp s).brd.turnStart = s.brd.turnStart ∧ (startedUp s).brd.clk = s.brd.clk := by
  unfold startedUp
  repeat' (first | (simp; done) | split | (dsimp only; split))

@[simp] theorem rebuildFacet_clk (f : Nat) (s : State) :
    (rebuildFacet f s).brd.turnStart = s.brd.turnStart ∧ (rebuildFacet f s).brd.clk = s.brd.clk := by
  unfold rebuildFacet
  repeat' (first | (simp; done) | split | (dsimp only; split))

@[simp] theorem setPin_clk (pin : Pin) (p : PinSt) (s : State) :
    (setPin pin p s).brd.turnStart = s.brd.turnStart ∧ (setPin pin p s).brd.clk = s.brd.clk := by
  unfold setPin
  repeat' (first | (simp; done) | split | (dsimp only; split))

@[simp] theorem stuckCell_clk (c : Nat) (s : State) : (stuckCell c s).brd.turnStart = s.brd.turnStart ∧ (stuckCell c s).brd.clk = s.brd.clk := by
  unfold stuckCell
  repeat' (first | (simp; done) | split | (dsimp only; split))

@[simp] theorem goFatal_clk (unit : Nat) (s : State) : (goFatal unit s).brd.turnStart = s.brd.turnStart ∧ (goFatal unit s).brd.clk = s.brd.clk := by
  unfold goFatal
  repeat' (first | (simp; done) | split | (dsimp only; split))

@[simp] theorem stackError_clk (slice address : Nat) (p : StackPart) (s : State) :
    (stackError slice address p s).brd.turnStart = s.brd.turnStart ∧ (stackError slice address p s).brd.clk = s.brd.clk := by
  unfold stackError
  repeat' (first | (simp; done) | split | (dsimp only; split))

@[simp] theorem disableHif_clk (s : State) : (disableHif s).brd.turnStart = s.brd.turnStart ∧ (disableHif s).brd.clk = s.brd.clk := by
  unfold disableHif
  repeat' (first | (simp; done) | split | (dsimp only; split))

@[simp] theorem functionReset_clk (s : State) : (functionReset s).brd.turnStart = s.brd.turnStart ∧ (functionReset s).brd.clk = s.brd.clk := by
  unfold functionReset
  repeat' (first | (simp; done) | split | (dsimp only; split))

@[simp] theorem linkLost_clk (s : State) : (linkLost s).brd.turnStart = s.brd.turnStart ∧ (linkLost s).brd.clk = s.brd.clk := by
  unfold linkLost
  repeat' (first | (simp; done) | split | (dsimp only; split))

@[simp] theorem ctrlWrite_clk (v : Nat) (s : State) : (ctrlWrite v s).brd.turnStart = s.brd.turnStart ∧ (ctrlWrite v s).brd.clk = s.brd.clk := by
  unfold ctrlWrite
  repeat' (first | (simp; done) | split | (dsimp only; split))

@[simp] theorem acceptWrite_clk (v : Nat) (s : State) :
    (acceptWrite v s).brd.turnStart = s.brd.turnStart ∧ (acceptWrite v s).brd.clk = s.brd.clk := by
  unfold acceptWrite
  repeat' (first | (simp; done) | split | (dsimp only; split))

@[simp] theorem latticeApply_clk (fault : Option Nat) (s : State) :
    (latticeApply fault s).brd.turnStart = s.brd.turnStart ∧ (latticeApply fault s).brd.clk = s.brd.clk := by
  unfold latticeApply
  repeat' (first | (simp; done) | split | (dsimp only; split))

@[simp] theorem regionReshape_clk (liveMiB : Nat) (fault : Option Nat) (s : State) :
    (regionReshape liveMiB fault s).brd.turnStart = s.brd.turnStart ∧ (regionReshape liveMiB fault s).brd.clk = s.brd.clk := by
  unfold regionReshape
  repeat' (first | (simp; done) | split | (dsimp only; split))

@[simp] theorem tick_clk (s : State) : (tick s).brd.turnStart = s.brd.turnStart := by
  unfold tick
  repeat' (first | (simp; done) | split | (dsimp only; split))


end Sys2Proof.Machine
end

