-- ==== Sys2Proof/Laws/Tags.lean ====
section
/-! SUPPORT. Tags, new commands, and the bounds as the invariant of Safety. -/

namespace Sys2Proof.Machine

/-- A tag that the scan answers is held by no command. -/
theorem scanTag_free (s : State) (lo hi fuel t x : Nat) (h : scanTag s lo hi fuel t = some x) : tagHeld s x = false := by
  induction fuel generalizing t with
  | zero => cases h
  | succ n ih =>
    unfold scanTag at h
    split at h
    · exact ih _ h
    · rename_i hn
      cases h
      simpa using hn

/-- A scan that starts inside its range answers a tag of the range. -/
theorem scanTag_range (s : State) (lo hi fuel t x : Nat) (hl : lo ≤ t) (ht : t < hi) (h : scanTag s lo hi fuel t = some x) :
    lo ≤ x ∧ x < hi := by
  induction fuel generalizing t with
  | zero => cases h
  | succ n ih =>
    unfold scanTag at h
    split at h
    · by_cases h2 : t + 1 < hi
      · rw [if_pos h2] at h
        exact ih _ (by omega) h2 h
      · rw [if_neg h2] at h
        exact ih _ (le_refl _) (by omega) h
    · cases h
      exact ⟨hl, ht⟩

theorem freeTag_free (s : State) (b : Bool) (t : Nat) (h : freeTag s b = some t) : tagHeld s t = false := scanTag_free _ _ _ _ _ _ h

theorem freeTag_range (s : State) (b : Bool) (t : Nat) (h : freeTag s b = some t) : t < 65536 := by
  unfold freeTag at h
  cases b
  · have := Nat.mod_lt (Config.tagChoice s.free) (show 0 < 65472 by omega)
    exact (scanTag_range s 64 65536 _ _ t (by simp) (by simp; omega) h).2
  · have := Nat.mod_lt (Config.tagChoice s.free) (show 0 < 64 by omega)
    have := (scanTag_range s 0 64 _ _ t (by simp) (by simp; omega) h).2
    omega

/-- No command is found under a tag that none holds. -/
theorem cmdOf_of_not_held (s : State) (t : Nat) (h : tagHeld s t = false) : cmdOf s t = none := by
  unfold cmdOf
  rw [List.find?_eq_none]
  intro c hc
  simpa using (List.any_eq_false.mp h) c hc

end Sys2Proof.Machine

namespace Sys2Proof.Safety

open Sys2Proof.Machine

@[simp] theorem theCmd_tag (o : Op) (e : Entry) (s : State) (q : Qp) (t : Nat) : (theCmd o e s q t).tag = t := rfl

@[simp] theorem theCmd_op (o : Op) (e : Entry) (s : State) (q : Qp) (t : Nat) : (theCmd o e s q t).op = o := rfl

@[simp] theorem theCmd_qp (o : Op) (e : Entry) (s : State) (q : Qp) (t : Nat) : (theCmd o e s q t).qp = e.qp := rfl

theorem inv_iff_bounded (s : State) : Inv s ↔ Bounded s :=
  ⟨fun h => ⟨h.records, h.errors, h.pool, h.slow, h.fast, h.staging, h.recovery, h.msix⟩,
   fun h => ⟨h.recs, h.elog, h.pool, h.slow, h.fast, h.a, h.b, h.c⟩⟩

end Sys2Proof.Safety
end

