-- ==== Sys2Proof/Tests/Slice0.lean ====
section
/-! SUPPORT. Small tests: well-formedness, one step of each kind of command on a small state, and for each statement a state and
operands that meet its hypotheses. -/

namespace Sys2Proof.Tests

set_option Elab.async false

open Sys2Proof.Machine
open Sys2Proof.Safety

-- A small module: running, link up, the admin queue and pair 3 of facet 1.

def board : Board := { Board.reset with rst := PinSt.reset true, mainPower := true, phase := .running }

def facetRow : FacetRec := ⟨1, false, 2, 1, 64, 1, 1, 1, 16, 8, 0, 0⟩

/-- A cluster index of one list, and a graph index. -/
def geoC : Geometry := ⟨1, 0, 0, 0, 5, 0, 128, 16, 1, 1, 0, 64, 100⟩
def geoG : Geometry := ⟨1, 1, 1, 0, 5, 1, 128, 16, 0, 0, 4, 64, 100⟩

def modelRow : ModelRec := ⟨1, 0, 8, [], []⟩

def cfg1 : ImageCfg :=
  { ImageCfg.empty with facets := [facetRow], indexes := [geoC, geoG, { geoC with slot := 2 }], models := [modelRow],
                        budgets := [⟨1, 3, 64, 64, 0, 0, 0⟩, ⟨1, 4, 64, 64, 0, 0, 0⟩, ⟨1, 5, 64, 64, 0, 0, 0⟩, ⟨1, 6, 64, 64, 0, 0, 0⟩,
                          ⟨1, 7, 64, 64, 0, 0, 0⟩], id := 7 }

def mkIndex (g : Geometry) : Index :=
  { geo := g, coarse := [], fine := [], projs := [(0, .seed 1)], released := [], gen := 0, pendingProj := none, lists := [],
    starts := [], side := [], freed := [], head := 0, committed := 0, moves := [], map := [], cached := [], arrays := [], sweep := none, lastSweep := 0,
    sweptTo := 0, toReclaim := [], insertedSince := 0, renumDeferred := false, trans := none, dropping := none, held := false, staged := none, work := none }

def facet1 : Facet := { Facet.blank 1 with state := 1 }

def admin : Qp := { newQp 0 64 16 0x10000 0x20000 0 1 0 with sqTail := 1 }
def pair3 : Qp := { newQp 3 1 8 0x30000 0x40000 5 1 0 with sqTail := 1 }

def on : State :=
  { State.reset with
    brd := board, fnc := Fence.factory, cfg := cfg1, hif := { Hif.reset with enable := true, ready := true, linkUp := true, depth := 16 },
    qps := [admin, pair3], facets := [facet1], idx := [mkIndex geoC, mkIndex geoG] }

/-- The same with nothing on the admin queue: the fetch arbiter comes to pair 3. -/
def io : State := { on with qps := [{ admin with sqTail := 0 }, pair3] }

/-- An entry of a pair, with its data address and length, its result address and its area. -/
def ent (qp : Nat) (data : Word64) (len : BitVec 32) (res : Word64) (area : BitVec 256) : Entry :=
  ⟨qp, 0, 7, 0, data, len, 0, res, area, none⟩

-- Tags and checks without naming the free tag: the tag the free choice gives is a closed term nobody evaluates.

/-- The tag of the first free choice. -/
def pick (s : State) (q : Qp) : Nat :=
  if q.num == 0 then Config.tagChoice s.free % 64 else 64 + Config.tagChoice s.free % 65472

/-- No command of the pair's own range of tags is about. -/
def apart (s : State) (q : Qp) : Bool := s.cmds.all fun c => if q.num == 0 then 64 ≤ c.tag else c.tag < 64

theorem pick_apart (s : State) (q : Qp) (h : apart s q = true) : tagHeld s (pick s q) = false := by
  have ha := Nat.mod_lt (Config.tagChoice s.free) (show 0 < 64 by omega)
  unfold tagHeld pick
  rw [List.any_eq_false]
  intro c hc
  have := List.all_eq_true.mp h c hc
  by_cases hq : q.num = 0 <;> simp [hq] at this ⊢ <;> omega

theorem pick_free (s : State) (q : Qp) (h : apart s q = true) : freeTag s (q.num == 0) = some (pick s q) := by
  have ha := Nat.mod_lt (Config.tagChoice s.free) (show 0 < 64 by omega)
  have hh : tagHeld s (pick s q) = false := pick_apart s q h
  by_cases hq : q.num = 0 <;> simp only [pick, hq] at hh ⊢
  · obtain ⟨n, hn⟩ : ∃ n, min (64 - 0) (s.cmds.length + 1) = n + 1 := ⟨min 63 s.cmds.length, by omega⟩
    simp at hh
    simp [freeTag, hn, scanTag, hh]
  · simp [hq] at hh
    obtain ⟨n, hn⟩ : ∃ n, min 65472 (s.cmds.length + 1) = n + 1 := ⟨min 65471 s.cmds.length, by omega⟩
    simp [freeTag, scanTag, hn, hq, hh]

/-- The checks read of the pairs only which exist, of the commands only a twin's CID, and no tag, count, clock, pointer
or free value. -/
theorem earlyChecks_irrel (s : State) (qs : List Qp) (cs : List Cmd) (ts : List TagWord) (fr sq : Nat) (b : Board) (h : Hif) (r : Search)
    (c : Cmd)
    (hq : ∀ m, (qs.find? (·.num == m)).isSome = (s.qps.find? (·.num == m)).isSome)
    (hc : (cs.any fun o => o.tag != c.tag && o.qp == c.qp && o.cid == c.cid) =
      (s.cmds.any fun o => o.tag != c.tag && o.qp == c.qp && o.cid == c.cid)) :
    earlyChecks { s with qps := qs, cmds := cs, tags := ts, free := fr, fetchSeq := sq, brd := b, hif := h, srch := r } c = earlyChecks s c := by
  have hn : ∀ m, (qs.find? (·.num == m)).isNone = (s.qps.find? (·.num == m)).isNone := by
    intro m; have := hq m
    rw [← Option.not_isSome, ← Option.not_isSome, this]
  have ha : areaChecks { s with qps := qs, cmds := cs, tags := ts, free := fr, fetchSeq := sq, brd := b, hif := h, srch := r } c = areaChecks s c := by
    unfold areaChecks
    cases c.op <;> simp only [namesPair, qpOf, hq, hn] <;> rfl
  have h2 : checks2 { s with qps := qs, cmds := cs, tags := ts, free := fr, fetchSeq := sq, brd := b, hif := h, srch := r } c = checks2 s c := by
    unfold checks2
    rw [ha]
    simp only [hc]
  unfold earlyChecks
  rw [h2]
  rfl

theorem updFirst_present (g : Qp → Qp) (hg : ∀ x, (g x).num = x.num) (n m : Nat) (l : List Qp) :
    ((updFirst (·.num == n) g l).find? (·.num == m)).isSome = (l.find? (·.num == m)).isSome := by
  induction l with
  | nil => rfl
  | cons a l ih =>
    unfold updFirst
    split <;> simp only [List.find?_cons, hg] <;> cases (a.num == m) <;> first | rfl | exact ih

/-- No command about has the entry's pair and CID. -/
def noTwin (e : Entry) (s : State) : Bool := !s.cmds.any fun o => o.qp == e.qp && o.cid == e.cid.toNat

/-- Beside the fetch itself, the grant's turn and a wake from PS3 touch only the interface, the pointers and the power state. -/
theorem taken_shape (o : Op) (e : Entry) (s : State) (q : Qp) (t : Nat) : ∃ h r b, taken o e s q t =
    { takeEntry (theCmd o e s q t) q s with hif := h, srch := r, brd := b } := by
  have hg : ∀ u : State, ∃ h r, countGrant q.num u = { u with hif := h, srch := r } := by
    intro u
    have hr : ∀ (c : Bool), ∃ r, (if c then rotateTo arbFetch q.num u else u) = { u with srch := r } := by
      intro c
      cases c <;> exact ⟨_, rfl⟩
    exact ⟨_, _, by unfold countGrant; dsimp only; rw [(hr _).choose_spec]⟩
  have hw : ∀ u : State, ∃ h b, wake o u = { u with hif := h, brd := b } := by
    intro u
    unfold wake countHealth
    split
    · split <;> exact ⟨_, _, rfl⟩
    · exact ⟨_, _, rfl⟩
  obtain ⟨h, r, h1⟩ := hg (takeEntry (theCmd o e s q t) q s)
  obtain ⟨h', b, h2⟩ := hw (countGrant q.num (takeEntry (theCmd o e s q t) q s))
  exact ⟨h', r, b, by unfold taken; rw [h2, h1]⟩

theorem earlyChecks_taken (o : Op) (e : Entry) (s : State) (q : Qp) (t : Nat) (h : noTwin e s = true) :
    earlyChecks (taken o e s q t) (theCmd o e s q t) = earlyChecks s (theCmd o e s q 0) := by
  have hc : ∀ t, (s.cmds.any fun x => x.tag != t && x.qp == e.qp && x.cid == e.cid.toNat) = false := by
    intro t
    rw [List.any_eq_false]
    intro c hc
    unfold noTwin at h
    have := List.any_eq_false.mp (Bool.not_eq_true' _ |>.mp h) c hc
    simp_all
  have h0 : earlyChecks s (theCmd o e s q t) = earlyChecks s (theCmd o e s q 0) := by
    have : checks2 s (theCmd o e s q t) = checks2 s (theCmd o e s q 0) := by
      have h1 := hc t
      have h2 := hc 0
      unfold checks2 theCmd newCmd at *
      simp only [h1, h2]
      rfl
    unfold earlyChecks
    rw [this]
    rfl
  rw [← h0]
  obtain ⟨hf, r, b, hb⟩ := taken_shape o e s q t
  rw [hb]
  refine earlyChecks_irrel s _ _ _ _ _ _ _ _ _ (updFirst_present _ (by simp) _ · _) ?_
  simp [takeEntry, useFree, updTag, updQp, theCmd, newCmd, List.any_append]

/-- A command's opcode, or a byte that R263 assigns to none. -/
def known : Op → Bool
  | .other c => c < 256 && !assigned c
  | _ => true

/-- A pair with an entry to fetch, whatever tags are free. -/
def entryWaits (s : State) (q : Qp) : Bool := fetching s q && ringReady q && !tagPaused s q

/-- The arbiter comes to pair n, and every pair it looks at has a tag free whatever the free choice is. -/
def wins (s : State) (n : Nat) : Bool :=
  s.hif.grant.isNone && (s.qps.all fun q => !entryWaits s q || apart s q) &&
  (((sortBy (fun (a b : Qp) => turnKey s arbFetch 256 a.num ≤ turnKey s arbFetch 256 b.num) (s.qps.filter (entryWaits s))).head?).map (·.num) ==
    some n)

theorem wins_winner {s : State} {n : Nat} (h : wins s n = true) : fetchWinner s = some n := by
  simp only [wins, Bool.and_eq_true, Option.isNone_iff_eq_none, beq_iff_eq, List.all_eq_true] at h
  obtain ⟨⟨hg, ha⟩, hn⟩ := h
  have hf : s.qps.filter (fetchable s) = s.qps.filter (entryWaits s) := by
    apply List.filter_congr
    intro q hq
    have h1 := ha q hq
    unfold fetchable
    cases hw : entryWaits s q <;> simp only [entryWaits] at hw
    · simp [hw]
    · simp [entryWaits, hw] at h1
      simp [hw, pick_free s q h1]
  simp [fetchWinner, hg, hf, hn]

/-- Everything `Fetchable` asks for, as one check. -/
def canTake (o : Op) (e : Entry) (s : State) (q : Qp) : Bool :=
  (qpOf s e.qp == some q) && fetching s q && ringReady q && !tagPaused s q && apart s q && wins s q.num &&
  e.badOpcode.isNone && known o

/-- Everything `Fetched` asks for, and no twin. -/
def canFetch (o : Op) (e : Entry) (s : State) (q : Qp) : Bool :=
  canTake o e s q && q.discardTo.isNone && (!isSerial o || !s.cmds.any fun x => isSerial x.op) && noTwin e s

/-- And the early checks pass. -/
def passes (o : Op) (e : Entry) (s : State) (q : Qp) : Bool := canFetch o e s q && (earlyChecks s (theCmd o e s q 0)).isNone

theorem fetchable_of {o : Op} {e : Entry} {s : State} {q : Qp} (h : canTake o e s q = true) : Fetchable o e s q (pick s q) := by
  simp only [canTake, Bool.and_eq_true, Bool.not_eq_true', beq_iff_eq, Option.isNone_iff_eq_none] at h
  obtain ⟨⟨⟨⟨⟨⟨⟨h1, h2⟩, h3⟩, h4⟩, h6⟩, h8⟩, h9⟩, h10⟩ := h
  exact ⟨h1, h2, h3, h4, wins_winner h8, pick_free s q h6, h9, fun c hc => by subst hc; simpa [known] using h10⟩

theorem fetched_of {o : Op} {e : Entry} {s : State} {q : Qp} (h : canFetch o e s q = true) : Fetched o e s q (pick s q) := by
  simp only [canFetch, Bool.and_eq_true, Bool.not_eq_true', Bool.or_eq_true, Option.isNone_iff_eq_none] at h
  obtain ⟨⟨⟨h1, h5⟩, h7⟩, -⟩ := h
  exact ⟨fetchable_of h1, h5, fun hs => by simpa [hs] using h7⟩

theorem checked_of {o : Op} {e : Entry} {s : State} {q : Qp} (h : passes o e s q = true) :
    Fetched o e s q (pick s q) ∧ earlyChecks (taken o e s q (pick s q)) (theCmd o e s q (pick s q)) = none := by
  simp only [passes, Bool.and_eq_true] at h
  have ht : noTwin e s = true := by
    have := h.1
    simp only [canFetch, Bool.and_eq_true] at this
    exact this.2
  exact ⟨fetched_of h.1, by rw [earlyChecks_taken _ _ _ _ _ ht]; exact Option.isNone_iff_eq_none.mp h.2⟩

theorem accepted_of {o : Op} {e : Entry} {s : State} {q : Qp} (h : passes o e s q = true)
    (hi : inputLen (theCmd o e s q (pick s q)) = 0) : Accepted o e s q (pick s q) :=
  ⟨(checked_of h).1, (checked_of h).2, hi⟩


-- Grants whatever the free choices are: nothing that holds credit waits, and what is asked may borrow.

/-- Nothing waits for a grant, and the class may borrow. -/
def quiet (s : State) (cls : Nat) : Bool :=
  s.srch.tiles.isEmpty && s.flash.dies.isEmpty && (s.idx.all fun i => i.work.isNone) && (s.srch.cells.all fun c => c.run.all fun v => v.wait.isNone) &&
  mayGrant s cls true

theorem quiet_borrows {s : State} {cls : Nat} (h : quiet s cls = true) (j : Job) : jobBorrows s cls j = true := by
  simp only [quiet, Bool.and_eq_true, List.isEmpty_iff, List.all_eq_true, Option.isNone_iff_eq_none] at h
  obtain ⟨⟨⟨⟨ht, hd⟩, hi⟩, hc⟩, hm⟩ := h
  have hdie : ∀ ch k, (dieOf s ch k).reads = [] ∧ (dieOf s ch k).segs = [] := by intro ch k; simp [dieOf, hd, Die.blank]
  have hu : ∀ u, creditedOn s u = false := by
    intro u
    unfold creditedOn creditedWaits
    split
    · simp [hdie]
    · simp [ht]
  have hr : ∀ r, creditedAt s r = false := by
    intro r
    unfold creditedAt
    rw [Bool.or_eq_false_iff, List.any_eq_false, List.any_eq_false]
    refine ⟨fun i hx => by simp [hi i hx], fun c hx => ?_⟩
    cases hrun : c.run with
    | none => simp
    | some v =>
      have := hc c hx
      simp [hrun] at this
      simp [this]
  have h1 : j.unit.any (creditedOn s) = false := by cases j.unit <;> simp [hu]
  have h2 : j.res.any (creditedAt s) = false := by cases j.res <;> simp [hr]
  simp [jobBorrows, h1, h2, hm]

theorem quiet_piece {s : State} {cls : Nat} (f : Nat) (w : SegWork) (j : Job) (b : Bool) (hj : j.die = none) (h : quiet s cls = true) :
    quiet (chargePiece f cls w j b s) cls = true := by
  have hc := chargePiece_charged f cls w j b (.refl s)
  have hr := chargePiece_rest f cls w j b s
  have hf : (chargePiece f cls w j b s).flash = s.flash := by
    unfold chargePiece
    rw [hj]
    dsimp only
    repeat' (first | (simp; done) | split)
  have hm : mayGrant (chargePiece f cls w j b s) cls true = mayGrant s cls true := by
    simp only [mayGrant, ps2Selected, withheld, braked, hr.1]
  simpa only [quiet, hc.tiles, hc.cells, hf, hm, hr] using h

theorem quiet_pieces {s : State} {cls : Nat} (f : Nat) (w : SegWork) (j : Job) (hj : j.die = none) (n : Nat) (h : quiet s cls = true) :
    (grantPieces f cls w j n s).1 = 0 ∧ quiet (grantPieces f cls w j n s).2 cls = true := by
  induction n generalizing s with
  | zero => exact ⟨rfl, h⟩
  | succ n ih =>
    unfold grantPieces
    rw [quiet_borrows h j]
    split
    · exact ih (quiet_piece f w j false hj h)
    · exact ih (quiet_piece f w j true hj h)

/-- Work without programs is granted whole. -/
theorem quiet_runs {s : State} {cls : Nat} (f : Nat) (w : SegWork) (js : List Job) (hj : js.all (fun j => j.die.isNone) = true) (h : quiet s cls = true) :
    (runJobs f cls w js s).1 = [] := by
  induction js generalizing s with
  | nil => rfl
  | cons j js ih =>
    simp only [List.all_cons, Bool.and_eq_true, Option.isNone_iff_eq_none] at hj
    have := quiet_pieces f w j hj.1 j.n h
    simp only [runJobs, this.1, beq_self_eq_true, if_true]
    exact ih hj.2 this.2

theorem quiet_all {s : State} {cls : Nat} (f : Nat) (w : SegWork) (js : List Job) (hj : js.all (fun j => j.die.isNone) = true) (h : quiet s cls = true) :
    (allJobs f cls w js s).isSome = true := by simp [allJobs, quiet_runs f w js hj h]

/-- And a program behind it. -/
theorem quiet_last {s : State} {cls : Nat} (f : Nat) (w : SegWork) (js : List Job) (j : Job) (hj : js.all (fun j => j.die.isNone) = true) (hn : j.n = 1)
    (h : quiet s cls = true) : (runJobs f cls w (js ++ [j]) s).1 = [] := by
  induction js generalizing s with
  | nil =>
    simp only [List.nil_append, runJobs, hn, grantPieces, quiet_borrows h j]
    split <;> rfl
  | cons k js ih =>
    simp only [List.all_cons, Bool.and_eq_true, Option.isNone_iff_eq_none] at hj
    have := quiet_pieces f w k hj.1 k.n h
    simp only [List.cons_append, runJobs, this.1, beq_self_eq_true, if_true]
    exact ih hj.2 this.2

/-- Where a class is granted nothing, work waits. -/
theorem barred_none {s : State} {cls : Nat} (f : Nat) (w : SegWork) (j : Job) (js : List Job) (hn : j.n ≠ 0) (h : mayGrant s cls false = false) :
    (runJobs f cls w (j :: js) s).1 ≠ [] ∧ allJobs f cls w (j :: js) s = none := by
  have hb : mayGrant s cls true = false := by
    have : mayGrant s cls true = (mayGrant s cls false && !withheld s) := by simp [mayGrant]
    rw [this, h, Bool.false_and]
  obtain ⟨n, hn⟩ := Nat.exists_eq_succ_of_ne_zero hn
  have : grantPieces f cls w j j.n s = (n + 1, s) := by simp [hn, grantPieces, jobFunded, jobBorrows, h, hb]
  simp [allJobs, runJobs, this]

/-- A turn without budgets, and nothing may borrow: what asks anything waits. -/
def broke (s : State) : Bool := s.srch.budgets.isEmpty && withheld s

theorem broke_none {s : State} (f cls : Nat) (w : SegWork) (j : Job) (js : List Job) (hn : j.n ≠ 0) (hj : (j.unit.isSome || j.res.isSome) = true)
    (h : broke s = true) : (runJobs f cls w (j :: js) s).1 ≠ [] ∧ allJobs f cls w (j :: js) s = none := by
  simp only [broke, Bool.and_eq_true, List.isEmpty_iff] at h
  have ha : ∀ u, creditOf s u f cls = 0 := by
    intro u
    have : allotment s u f cls = 0 := by
      unfold allotment turnBudget
      simp [h.1]
    simp [creditOf, this]
  have hb : ∀ r, byteCredit s r f cls = 0 := by
    intro r
    unfold byteCredit turnBudget
    simp [h.1]
  have hm : mayGrant s cls true = false := by simp [mayGrant, h.2]
  have hf : jobFunded s f cls j = false := by
    unfold jobFunded
    cases hu : j.unit with
    | some u => simp [unitCredit, flashCredit, holdsCredit, ha]
    | none => cases hr : j.res with
      | some r => simp [resCredit, flashBytes, holdsBytes, hb]
      | none => simp [hu, hr] at hj
  obtain ⟨n, hn⟩ := Nat.exists_eq_succ_of_ne_zero hn
  have : grantPieces f cls w j j.n s = (n + 1, s) := by simp [hn, grantPieces, jobBorrows, hf, hm]
  simp [allJobs, runJobs, this]
-- The machine.

theorem witness_StepRunsFrontCommand : ({ on with pending := [.linkDown, .gap 3] } : State).pending = .linkDown :: [.gap 3] := rfl

theorem witness_EmptyQueueLetsTimePass : on.pending = [] := rfl

theorem witness_EveryStepKeepsTheBounds : Inv on ∧ ∃ t, step on = .next t := ⟨(inv_iff_bounded on).mpr
  ⟨by decide, by decide, by decide, by decide, by decide, by decide, by decide, by decide⟩, _, rfl⟩

theorem witness_OnlyResetsChangeTheFence : resets (.gap 3) = false ∧ ∃ t, exec (.gap 3) on = .next t := ⟨by decide, _, rfl⟩

-- Fetching and completing commands.

/-- A facet whose I/O pair has its last slot of 4,096 at the head. -/
def wrap : State := { on with qps := [{ admin with sqTail := 0 }, { pair3 with depth := 4096, sqHead := 4095, sqTail := 0 }] }

theorem witness_EntryIsFetchedUnderATag :
    Fetched .identify (ent 0 0 0 0x1000 0) on admin (pick on admin) ∧
    Fetched .flush (ent 3 0 0 0 0) wrap { pair3 with depth := 4096, sqHead := 4095, sqTail := 0 }
      (pick wrap { pair3 with depth := 4096, sqHead := 4095, sqTail := 0 }) ∧ (4095 < 4096 ∧ 4094 < 4096 ∧ 4094 ≠ 4095) :=
  ⟨fetched_of (by decide), fetched_of (by decide), by decide⟩

/-- GET_LOG of log 0, which R266 check 2 refuses at byte 0x20. -/
theorem witness_EntriesWaitOrFailACheck :
    (∀ q, qpOf on 9 = some q → ringReady q = false) ∧
    (∀ q, qpOf ({ on with qps := [admin, { pair3 with sqTail := 0 }] } : State) 3 = some q → ringReady q = false) ∧
    (∃ st w, earlyChecks (taken .getLog (ent 0 0 0 0x1000 0x800000000) on admin (pick on admin))
      (theCmd .getLog (ent 0 0 0 0x1000 0x800000000) on admin (pick on admin)) = some (st, w) ∧ w.field = 0x20) ∧
    Fetched .getLog (ent 0 0 0 0x1000 0x800000000) on admin (pick on admin) := by
  refine ⟨fun q h => (by cases h), fun q h => (by cases h; rfl), ⟨1, ⟨2, 0, 0x20⟩, ?_, rfl⟩, fetched_of (by decide)⟩
  rw [earlyChecks_taken _ _ _ _ _ (by decide)]
  decide

/-- An entry with opcode 0x11, which R263 assigns to no command. -/
theorem witness_EntriesWaitOrFailACheck_opcode :
    Fetched (.other 0x11) (ent 0 0 0 0 0) on admin (pick on admin) ∧
    earlyChecks (taken (.other 0x11) (ent 0 0 0 0 0) on admin (pick on admin)) (theCmd (.other 0x11) (ent 0 0 0 0 0) on admin (pick on admin)) =
      some (1, ⟨1, 0, 0⟩) := by
  refine ⟨fetched_of (by decide +kernel), ?_⟩
  rw [earlyChecks_taken _ _ _ _ _ (by decide)]
  decide +kernel

/-- Pair 3 while a RESUME_QP discards its entry. -/
def discarding : State := { on with qps := [{ admin with sqTail := 0 }, { pair3 with discardTo := some 1, resumer := some 9 }] }

/-- A LOAD_LATTICE is under way. -/
def serving : State := { on with qps := [admin, { pair3 with sqTail := 0 }], cmds := [{ newCmd on .loadLattice (ent 0 0x2000 4096 0 0) 0 64 with cid := 9 }] }

/-- An entry to be discarded, and a command of R41 behind another. -/
theorem witness_EntriesWaitOrFailACheck_held :
    (Fetchable .flush (ent 3 0 0 0 0) discarding { pair3 with discardTo := some 1, resumer := some 9 }
      (pick discarding { pair3 with discardTo := some 1, resumer := some 9 }) ∧
      ({ pair3 with discardTo := some 1, resumer := some 9 } : Qp).discardTo ≠ none) ∧
    (Fetchable .facetCreate (ent 0 0 0 0 1) serving admin (pick serving admin) ∧ admin.discardTo = none ∧ isSerial .facetCreate = true ∧
      (serving.cmds.any fun x => isSerial x.op) = true ∧
      check1 (theCmd .facetCreate (ent 0 0 0 0 1) serving admin (pick serving admin)) = true ∧
      (serving.cmds.any fun x => x.qp == 0 && x.cid == (ent 0 0 0 0 1).cid.toNat) = false ∧
      (serving.cmds.any fun x => x.tag == pick serving admin) = false) :=
  ⟨⟨fetchable_of (by decide +kernel), by decide +kernel⟩, fetchable_of (by decide +kernel), rfl, rfl, by decide +kernel, by decide +kernel,
   by decide +kernel, pick_apart serving admin (by decide +kernel)⟩

/-- The pair's tag on a state. -/
abbrev tagA (s : State) : Nat := pick s admin
abbrev tagI (s : State) : Nat := pick s pair3

/-- A loaded model slot and one that is empty. -/
def slot0 (n : Nat) : ModelSlot :=
  { facet := 1, slot := 0, state := n, weights := [], adapterRank := 0, adapter := [], newAdapter := none, prefetched := false,
    stackedBytes := 0, toReady := none, raw := [] }

/-- The module with one model in slot 0: a token table of one node. -/
def withModel : State :=
  { io with mods := [slot0 2], cfg := { cfg1 with models := [{ modelRow with nodes := [⟨6, 16, 0xFFFE, 0, [16, 2, 1, 1], 0⟩] }] } }

def eFwDownload : Entry := ent 0 0x2000 4096 0 0
def eLoadLattice : Entry := ent 0 0x2000 4096 0 0
/-- Centroids for slot 2: two rows of 16 bytes. -/
def eCreate : Entry := ent 0 0x2000 0 0 (0x201 + 32 * 2 ^ 128)
/-- k 1, r 1, nprobe 1. -/
def eQuery : Entry := ent 3 0x2000 64 0x1000 (1 * 2 ^ 16 + 1 * 2 ^ 32 + 1 * 2 ^ 48)
def eBatch : Entry := ent 3 0x2000 128 0x1000 (1 * 2 ^ 16 + 1 * 2 ^ 32 + 1 * 2 ^ 48 + 2 * 2 ^ 144)
def eInsert : Entry := ent 3 0x2000 32 0 0x10000
def eDelete : Entry := ent 3 0x2000 8 0 0x10000
def eRelabel : Entry := ent 3 0x2000 16 0 0x10000
def eFetch : Entry := ent 3 0x2000 8 0x1000 0x10000
/-- A TRAIN of W: M 1, one list mined, R 16, T 1, B 64, P 1, E 1, a temperature of 1.0. -/
def eTrain : Entry := ent 3 0x2000 32 0x1000 (0xFF00 + 2 ^ 16 + 2 ^ 32 + 2 ^ 64 + 16 * 2 ^ 80 + 2 ^ 96 + 64 * 2 ^ 112 + 2 ^ 128 + 2 ^ 136 + 0x3F800000 * 2 ^ 160)
/-- Tokens of one sequence with one token, answered in FP32. -/
def eEncode : Entry := ent 3 0x2000 12 0x1000 (16 * 2 ^ 32 + 2 ^ 48 + 2 ^ 64)
def eModel : Entry := ent 3 0x2000 0 0 (8 * 2 ^ 64)

theorem witness_DataCommandReadsTheHost_admin :
    (passes .fwDownload eFwDownload on admin && passes .loadLattice eLoadLattice on admin && passes .indexCreate eCreate on admin) = true ∧
    inputLen (theCmd .fwDownload eFwDownload on admin (tagA on)) ≠ 0 ∧ inputLen (theCmd .loadLattice eLoadLattice on admin (tagA on)) ≠ 0 ∧
    inputLen (theCmd .indexCreate eCreate on admin (tagA on)) ≠ 0 := by decide +kernel

theorem witness_DataCommandReadsTheHost_io :
    (passes .query eQuery io pair3 && passes .queryBatch eBatch io pair3 && passes .insert eInsert io pair3 &&
      passes .delete eDelete io pair3 && passes .labelUpdate eRelabel io pair3 && passes .fetch eFetch io pair3 &&
      passes .train eTrain io pair3 && passes .encode eEncode withModel pair3 && passes .modelLoad eModel withModel pair3) = true ∧
    (inputLen (theCmd .query eQuery io pair3 (tagI io)) ≠ 0 ∧ inputLen (theCmd .queryBatch eBatch io pair3 (tagI io)) ≠ 0 ∧
     inputLen (theCmd .insert eInsert io pair3 (tagI io)) ≠ 0 ∧ inputLen (theCmd .delete eDelete io pair3 (tagI io)) ≠ 0 ∧
     inputLen (theCmd .labelUpdate eRelabel io pair3 (tagI io)) ≠ 0 ∧ inputLen (theCmd .fetch eFetch io pair3 (tagI io)) ≠ 0 ∧
     inputLen (theCmd .train eTrain io pair3 (tagI io)) ≠ 0 ∧ inputLen (theCmd .encode eEncode withModel pair3 (tagI withModel)) ≠ 0) ∧
    (inputLen (theCmd .modelLoad eModel withModel pair3 (tagI withModel)) ≠ 0 ∧ (modOf withModel 1 0).isSome) := by decide +kernel

/-- One of the data commands with all hypotheses of the statement together. -/
theorem witness_DataCommandReadsTheHost :
    Fetched .modelLoad eModel withModel pair3 (tagI withModel) ∧
    earlyChecks (taken .modelLoad eModel withModel pair3 (tagI withModel)) (theCmd .modelLoad eModel withModel pair3 (tagI withModel)) = none :=
  checked_of (by decide +kernel)

def eIdentify : Entry := ent 0 0 0 0x1000 0
def eGetLog : Entry := ent 0 0 0 0x1000 0x800000001
def eGetKa : Entry := ent 0 0 0 0 0x102
/-- SET_FEATURE of a feature of a facet (0 for the module) with a value. -/
def eSet (feature facet value : Nat) : Entry := ent 0 0 0 0 (BitVec.ofNat 256 (feature + 256 * facet + value * 2 ^ 64))

theorem witness_ReportsAndFeaturesTakeEffect :
    Accepted .identify eIdentify on admin (tagA on) ∧ Accepted .getLog eGetLog on admin (tagA on) ∧
    Accepted .getFeature eGetKa on admin (tagA on) :=
  ⟨accepted_of (by decide +kernel) (by decide +kernel), accepted_of (by decide +kernel) (by decide +kernel),
   accepted_of (by decide +kernel) (by decide +kernel)⟩

/-- A power-state transition is being entered. -/
def changing : State := { on with brd := { board with trans := some ⟨5, 3, 0⟩ } }

/-- Each feature at the last value R272 allows. -/
theorem witness_ReportsAndFeaturesTakeEffect_set :
    (Accepted .setFeature (eSet 1 0 3) on admin (tagA on) ∧ (taken .setFeature (eSet 1 0 3) on admin (tagA on)).brd.trans = none ∧
      (theCmd .setFeature (eSet 1 0 3) on admin (tagA on)).ar 0 1 = 1) ∧
    (Accepted .setFeature (eSet 1 0 3) changing admin (tagA changing) ∧
      (taken .setFeature (eSet 1 0 3) changing admin (tagA changing)).brd.trans ≠ none) ∧
    (Accepted .setFeature (eSet 2 1 60000) on admin (tagA on) ∧ (theCmd .setFeature (eSet 2 1 60000) on admin (tagA on)).ar 0 1 = 2) ∧
    (Accepted .setFeature (eSet 3 1 6) on admin (tagA on) ∧ (theCmd .setFeature (eSet 3 1 6) on admin (tagA on)).ar 0 1 = 3) ∧
    (Accepted .setFeature (eSet 4 0 1) on admin (tagA on) ∧ (theCmd .setFeature (eSet 4 0 1) on admin (tagA on)).ar 0 1 = 4) := by
  refine ⟨⟨accepted_of ?_ ?_, ?_, ?_⟩, ⟨accepted_of ?_ ?_, ?_⟩, ⟨accepted_of ?_ ?_, ?_⟩, ⟨accepted_of ?_ ?_, ?_⟩, ⟨accepted_of ?_ ?_, ?_⟩⟩ <;>
    decide +kernel

def eCommit (slot action : Nat) : Entry := ent 0 0 0 0 (BitVec.ofNat 256 (slot + 256 * action))

/-- Selecting the delivered slot, selecting the empty one, and a boot configuration that the staging buffer does not hold. -/
theorem witness_FirmwareCommitSelectsOrWrites :
    (taken .fwCommit (eCommit 0 2) on admin (tagA on)).fw.committing = none ∧
    (Accepted .fwCommit (eCommit 1 2) on admin (tagA on) ∧ (on.fw.slots[1]?).any (·.valid) = false) ∧
    (Accepted .fwCommit (eCommit 0 2) on admin (tagA on) ∧ (on.fw.slots[0]?).any (·.valid) = true) ∧
    (Accepted .fwCommit (eCommit 0 3) on admin (tagA on) ∧ (theCmd .fwCommit (eCommit 0 3) on admin (tagA on)).ar 1 1 ≠ 2 ∧
      fwReason (theCmd .fwCommit (eCommit 0 3) on admin (tagA on)) (taken .fwCommit (eCommit 0 3) on admin (tagA on)) ≠ 0) := by
  refine ⟨?_, ⟨accepted_of ?_ ?_, ?_⟩, ⟨accepted_of ?_ ?_, ?_⟩, ⟨accepted_of ?_ ?_, ?_, ?_⟩⟩ <;> decide +kernel

/-- A signed image of one page in the staging buffer, whatever the format of Coravaper says it is. -/
def oneImage : State := { on with fw := { Firmware.reset with pages := [0] } }

/-- Writing the slot that does not run, when the image is signed, at level 1 and one page long. -/
theorem witness_FirmwareCommitSelectsOrWrites_write (hl : Config.fwStatedLength (staged oneImage 4096) = 4096)
    (hs : Config.fwSignatureOk (fenceBytes oneImage.fnc) (staged oneImage 4096) = true) (hc : Config.fwCompat (staged oneImage 4096) = 1) :
    Accepted .fwCommit (eCommit 1 1) oneImage admin (tagA oneImage) ∧
    (theCmd .fwCommit (eCommit 1 1) oneImage admin (tagA oneImage)).ar 1 1 ≠ 2 ∧
    fwReason (theCmd .fwCommit (eCommit 1 1) oneImage admin (tagA oneImage)) (taken .fwCommit (eCommit 1 1) oneImage admin (tagA oneImage)) = 0 := by
  have h1 : (theCmd .fwCommit (eCommit 1 1) oneImage admin (tagA oneImage)).ar 1 1 = 1 := by decide +kernel
  have h0 : (theCmd .fwCommit (eCommit 1 1) oneImage admin (tagA oneImage)).ar 0 1 = 1 := by decide +kernel
  refine ⟨accepted_of (by decide +kernel) (by decide +kernel), by rw [h1]; decide, ?_⟩
  have hf : ∀ n, staged (taken .fwCommit (eCommit 1 1) oneImage admin (tagA oneImage)) n = staged oneImage n := fun _ => rfl
  have hn : (taken .fwCommit (eCommit 1 1) oneImage admin (tagA oneImage)).fnc = oneImage.fnc := rfl
  have hw : (taken .fwCommit (eCommit 1 1) oneImage admin (tagA oneImage)).fw = oneImage.fw := rfl
  unfold fwReason
  rw [h1, h0]
  simp only [hf, hn, hw, hl, hs, hc]
  decide +kernel

/-- CREATE_QP of pair 4 for facet 1 with the least rings: depth 2, vector 1. -/
def eCreateQp : Entry := ent 0 0 0 0 (4 + 1 * 2 ^ 8 + 2 * 2 ^ 16 + 1 * 2 ^ 32 + 1 * 2 ^ 48 + 0x10000 * 2 ^ 64 + 0x20000 * 2 ^ 128)
def noPairs : State := { on with qps := [admin] }
def fullPairs : State := { on with qps := [admin, pair3, { pair3 with num := 5 }] }

/-- Pair 3 being deleted: engine 0 still runs a tile of its work. -/
def leaving : State := { on with qps := [admin, { pair3 with state := 3, stopping := [.tile 0] }] }

theorem witness_PairsAreMadeAndDeleted :
    (Accepted .createQp eCreateQp noPairs admin (tagA noPairs) ∧ (noPairs.qps.filter fun x => x.num != 0 && x.facet == 1).length = 0) ∧
    (Accepted .createQp eCreateQp on admin (tagA on) ∧ (on.qps.filter fun x => x.num != 0 && x.facet == 1).length = 1 ∧
      ((facetRec on 1).map (·.qpLimit)).getD 0 = 2) ∧
    (Accepted .createQp eCreateQp fullPairs admin (tagA fullPairs) ∧ (fullPairs.qps.filter fun x => x.num != 0 && x.facet == 1).length = 2) ∧
    (Accepted .deleteQp (ent 0 0 0 0 3) on admin (tagA on) ∧ (theCmd .deleteQp (ent 0 0 0 0 3) on admin (tagA on)).ar 0 1 = 3 ∧
      qpOf (taken .deleteQp (ent 0 0 0 0 3) on admin (tagA on)) 3 = some pair3 ∧ pair3.state ≠ 3 ∧
      pairBusy (taken .deleteQp (ent 0 0 0 0 3) on admin (tagA on)) 3 = []) ∧
    (Accepted .deleteQp (ent 0 0 0 0 3) leaving admin (tagA leaving) ∧
      qpOf (taken .deleteQp (ent 0 0 0 0 3) leaving admin (tagA leaving)) 3 = some { pair3 with state := 3, stopping := [.tile 0] }) := by
  refine ⟨⟨accepted_of ?_ ?_, ?_⟩, ⟨accepted_of ?_ ?_, ?_⟩, ⟨accepted_of ?_ ?_, ?_⟩, ⟨accepted_of ?_ ?_, ?_, ?_, ?_, ?_⟩, accepted_of ?_ ?_, ?_⟩ <;>
    decide +kernel

-- A FETCH of pair 3 that waits under tag 64.
def waiting : Cmd := { newCmd on .fetch eFetch 1 64 with cid := 9 }
def word64 : TagWord := ⟨64, 1, false, 3, 9, 1, 0⟩
def withCmd : State := { on with qps := [admin, { pair3 with sqTail := 0 }], cmds := [waiting], tags := [word64] }
def withHeld : State := { on with qps := [admin, { pair3 with sqTail := 0 }], cmds := [waiting], tags := [{ word64 with abortHeld := true }] }
/-- ABORT of tag 64 of pair 3, CID 9. -/
def eAbort : Entry := ent 0 0 0 0 (3 + 64 * 2 ^ 16 + 9 * 2 ^ 32)

/-- Another tag's word is not touched by the fetch. -/
theorem tagOf_taken (o : Op) (e : Entry) (s : State) (q : Qp) (t n : Nat) (w : TagWord) (hn : n ≠ t) (h : s.tags = [w]) (hw : w.tag = n) :
    tagOf (taken o e s q t) n = w := by
  have : w.tag ≠ t := by omega
  obtain ⟨hf, r, b, hb⟩ := taken_shape o e s q t
  rw [hb]
  simp [takeEntry, useFree, updTag, updQp, theCmd, newCmd, tagOf, h, hw, hn]

theorem witness_AbortAndResumeTakeEffect_none :
    Accepted .abort eAbort on admin (tagA on) ∧
    ((taken .abort eAbort on admin (tagA on)).cmds.find? fun x => x.tag == 64 && x.qp == 3 && x.cid == 9 && !isAdmin x.op) = none := by
  refine ⟨accepted_of (by decide +kernel) (by decide +kernel), ?_⟩
  have : (taken .abort eAbort on admin (tagA on)).cmds = [theCmd .abort eAbort on admin (tagA on)] := rfl
  rw [this, List.find?_eq_none]
  intro x hx
  cases List.mem_singleton.mp hx
  have : isAdmin .abort = true := by decide
  simp [this]

theorem tagA_lt (s : State) : tagA s < 64 := Nat.mod_lt _ (by omega)

theorem witness_AbortAndResumeTakeEffect_held :
    Accepted .abort eAbort withHeld admin (tagA withHeld) ∧
    ((taken .abort eAbort withHeld admin (tagA withHeld)).cmds.find? fun x =>
      x.tag == 64 && x.qp == 3 && x.cid == 9 && !isAdmin x.op) = some waiting ∧
    (tagOf (taken .abort eAbort withHeld admin (tagA withHeld)) 64).abortHeld = true := by
  have h := tagA_lt withHeld
  refine ⟨accepted_of (by decide +kernel) (by decide +kernel), by decide +kernel, ?_⟩
  rw [tagOf_taken _ _ _ _ _ _ _ (show 64 ≠ _ by omega) rfl rfl]

theorem witness_AbortAndResumeTakeEffect_caught :
    Accepted .abort eAbort withCmd admin (tagA withCmd) ∧
    ((taken .abort eAbort withCmd admin (tagA withCmd)).cmds.find? fun x =>
      x.tag == 64 && x.qp == 3 && x.cid == 9 && !isAdmin x.op) = some waiting ∧
    ((tagOf (taken .abort eAbort withCmd admin (tagA withCmd)) 64).abortHeld || waiting.phase == .committed ||
      pastStart (taken .abort eAbort withCmd admin (tagA withCmd)) waiting || !waiting.results.isEmpty) = false ∧
    ((taken .abort eAbort withCmd admin (tagA withCmd)).srch.train.any fun j => j.tag == 64 && j.phase == 3) = false := by
  have h := tagA_lt withCmd
  refine ⟨accepted_of (by decide +kernel) (by decide +kernel), by decide +kernel, ?_, by decide +kernel⟩
  rw [tagOf_taken _ _ _ _ _ _ _ (show 64 ≠ _ by omega) rfl rfl]
  decide

/-- Pair 3 frozen by a lapse, its facet FROZEN with it. -/
def stopped : Qp := { pair3 with state := 2, causes := [3] }
def withStopped : State := { on with qps := [admin, stopped], facets := [{ facet1 with state := 2 }] }
def eResume (discard : Nat) : Entry := ent 0 0 0 0 (BitVec.ofNat 256 (3 + 256 * discard))

/-- A pair that runs; a frozen one without and with discard; a frozen one of an ACTIVE facet. -/
theorem witness_AbortAndResumeTakeEffect_resume :
    (Accepted .resumeQp (eResume 0) on admin (tagA on) ∧ qpOf (taken .resumeQp (eResume 0) on admin (tagA on)) 3 = some pair3 ∧ pair3.state ≠ 2) ∧
    (Accepted .resumeQp (eResume 0) withStopped admin (tagA withStopped) ∧
      qpOf (taken .resumeQp (eResume 0) withStopped admin (tagA withStopped)) 3 = some stopped ∧ stopped.state = 2 ∧ shownCause stopped < 5 ∧
      (facetOf (taken .resumeQp (eResume 0) withStopped admin (tagA withStopped)) 1).state = 2) ∧
    (Accepted .resumeQp (eResume 1) withStopped admin (tagA withStopped) ∧
      (bit 0 ((theCmd .resumeQp (eResume 1) withStopped admin (tagA withStopped)).ar 1 1) && stopped.sqHead != stopped.sqTail) = true ∧
      stopped.discardTo = none) ∧
    (let s := { on with qps := [admin, { stopped with discardTo := some 1, resumer := some 9 }] }
     Accepted .resumeQp (eResume 1) s admin (tagA s) ∧
      (qpOf (taken .resumeQp (eResume 1) s admin (tagA s)) 3).map (·.discardTo) = some (some 1)) ∧
    (Accepted .resumeQp (eResume 0) { on with qps := [admin, stopped] } admin (tagA on) ∧ (facetOf on 1).state ≠ 2) := by
  refine ⟨⟨accepted_of ?_ ?_, ?_, ?_⟩, ⟨accepted_of ?_ ?_, ?_, ?_, ?_, ?_⟩, ⟨accepted_of ?_ ?_, ?_, ?_⟩, ⟨accepted_of ?_ ?_, ?_⟩,
    ⟨accepted_of ?_ ?_, ?_⟩⟩ <;> decide +kernel

def noFacets : State := { on with facets := [] }

theorem witness_FacetsAreCreatedAndDestroyed :
    Accepted .facetCreate (ent 0 0 0 0 1) noFacets admin (tagA noFacets) ∧ Accepted .facetDestroy (ent 0 0 0 0 1) on admin (tagA on) :=
  ⟨accepted_of (by decide +kernel) (by decide +kernel), accepted_of (by decide +kernel) (by decide +kernel)⟩

/-- A graph index declared in slot 3, on a module with room for it and on one without. -/
def roomy : State := { on with cfg := { cfg1 with indexes := [geoC, geoG, { geoG with slot := 3 }] } }
def tight : State := { on with cfg := { cfg1 with indexes := [geoC, geoG, { geoG with slot := 3 }], facets := [{ facetRow with hbm := 16 }] } }
def eGraph : Entry := ent 0 0 0 0 0x301

theorem witness_IndexCommandsBegin :
    (Accepted .indexCreate eGraph roomy admin (tagA roomy) ∧ geoOf roomy 1 3 = some { geoG with slot := 3 } ∧
      fixedCharge (taken .indexCreate eGraph roomy admin (tagA roomy)) { geoG with slot := 3 } ≤
        hbmFree (taken .indexCreate eGraph roomy admin (tagA roomy)) 1) ∧
    (Accepted .indexCreate eGraph tight admin (tagA tight) ∧ geoOf tight 1 3 = some { geoG with slot := 3 } ∧
      hbmFree (taken .indexCreate eGraph tight admin (tagA tight)) 1 <
        fixedCharge (taken .indexCreate eGraph tight admin (tagA tight)) { geoG with slot := 3 }) ∧
    Accepted .indexDrop (ent 0 0 0 0 1) on admin (tagA on) ∧ Accepted .flush (ent 3 0 0 0 0) io pair3 (tagI io) := by
  refine ⟨⟨accepted_of ?_ ?_, ?_, ?_⟩, ⟨accepted_of ?_ ?_, ?_, ?_⟩, accepted_of ?_ ?_, accepted_of ?_ ?_⟩ <;> decide +kernel

/-- Index 0 with a pending projection, and one with a transition under way beside. -/
def pendIx : Index := { mkIndex geoC with pendingProj := some [] }
def pending1 : State := { io with idx := [pendIx, mkIndex geoG] }
def moving1 : State := { io with idx := [{ pendIx with trans := some ⟨5, 1, 0, 0⟩ }, mkIndex geoG] }
def eResketch : Entry := ent 3 0 0 0 0

theorem witness_IndexCommandsBegin_resketch :
    (Accepted .resketch eResketch io pair3 (tagI io) ∧
      (theCmd .resketch eResketch io pair3 (tagI io)).index (taken .resketch eResketch io pair3 (tagI io)) = some (mkIndex geoC) ∧
      (mkIndex geoC).pendingProj = none) ∧
    (Accepted .resketch eResketch moving1 pair3 (tagI moving1) ∧
      (theCmd .resketch eResketch moving1 pair3 (tagI moving1)).index (taken .resketch eResketch moving1 pair3 (tagI moving1)) =
        some { pendIx with trans := some ⟨5, 1, 0, 0⟩ }) ∧
    (Accepted .resketch eResketch pending1 pair3 (tagI pending1) ∧
      (theCmd .resketch eResketch pending1 pair3 (tagI pending1)).index (taken .resketch eResketch pending1 pair3 (tagI pending1)) = some pendIx ∧
      pendIx.trans = none ∧
      ((pendIx.lists.map fun d => (curCopy d).pos.length).foldl max 0) * (pendIx.geo.sketchBits / 8 + 8) ≤
        hbmFree (taken .resketch eResketch pending1 pair3 (tagI pending1)) 1) := by
  refine ⟨⟨accepted_of ?_ ?_, ?_, ?_⟩, ⟨accepted_of ?_ ?_, ?_⟩, ⟨accepted_of ?_ ?_, ?_, ?_, ?_⟩⟩ <;> decide +kernel

/-- Facet 1's only region is out; the index is being migrated away; and neither. -/
theorem witness_IndexCommandsBegin_held :
    (let s := { pending1 with srch := { Search.reset with regionsOut := [0] } }
     Accepted .resketch eResketch s pair3 (tagI s) ∧ noRegion (taken .resketch eResketch s pair3 (tagI s)) 1 = true) ∧
    (let s := { pending1 with chd := { Chord.reset with mig := { Mig.reset with role := 1, phase := 4, ctrl := 1 } } }
     Accepted .resketch eResketch s pair3 (tagI s) ∧ noRegion (taken .resketch eResketch s pair3 (tagI s)) 1 = false ∧
     migHolds (taken .resketch eResketch s pair3 (tagI s)) 1 0 = true) ∧
    (noRegion (taken .resketch eResketch pending1 pair3 (tagI pending1)) 1 = false ∧
     migHolds (taken .resketch eResketch pending1 pair3 (tagI pending1)) 1 0 = false) := by
  refine ⟨⟨accepted_of ?_ ?_, ?_⟩, ⟨accepted_of ?_ ?_, ?_, ?_⟩, ?_⟩ <;> decide +kernel

def icy : State := { on with evr := { Recorder.reset with frozen := true, frozenCount := 3 } }

theorem witness_RecorderControlTakesEffect :
    (Accepted .evrControl (ent 0 0 0 0 0) on admin (tagA on) ∧ (taken .evrControl (ent 0 0 0 0 0) on admin (tagA on)).evr.frozen = false) ∧
    (Accepted .evrControl (ent 0 0 0 0 0) icy admin (tagA icy) ∧ (taken .evrControl (ent 0 0 0 0 0) icy admin (tagA icy)).evr.frozen = true) ∧
    (Accepted .evrControl (ent 0 0 0 0 1) icy admin (tagA icy) ∧ (theCmd .evrControl (ent 0 0 0 0 1) icy admin (tagA icy)).ar 0 1 = 1) ∧
    (Accepted .evrControl (ent 0 0 0 0 2) icy admin (tagA icy) ∧ (theCmd .evrControl (ent 0 0 0 0 2) icy admin (tagA icy)).ar 0 1 = 2) := by
  refine ⟨⟨accepted_of ?_ ?_, ?_⟩, ⟨accepted_of ?_ ?_, ?_⟩, ⟨accepted_of ?_ ?_, ?_⟩, ⟨accepted_of ?_ ?_, ?_⟩⟩ <;> decide +kernel

/-- The module with one command reading host data under tag 64. -/
def reader (o : Op) (e : Entry) : Cmd := { newCmd on o e 1 64 with phase := .reading }
def reads1 (o : Op) (e : Entry) : State := { withModel with cmds := [reader o e] }

def zeros (n : Nat) : Bytes := List.replicate n 0
/-- TRAIN's header with η 1.0 and one row of 16 bytes to follow. -/
def headT : Bytes := zeros 4 ++ [0, 0, 0x80, 0x3F] ++ zeros 8 ++ [16] ++ zeros 15
/-- One sequence of one token, token 0. -/
def oneToken : Bytes := [1] ++ zeros 11

/-- Every op that starts on its data, with data that passes check 5, and one byte less. -/
theorem witness_HostDataStartsOrEndsTheCommand :
    (cmdOf (reads1 .delete eDelete) 64 = some (reader .delete eDelete) ∧ (reader .delete eDelete).phase = .reading ∧
      (zeros 8).length = inputLen (reader .delete eDelete) ∧ check5 (reads1 .delete eDelete) (reader .delete eDelete) (zeros 8) = none ∧
      (zeros 7).length ≠ inputLen (reader .delete eDelete) ∧
      now (reads1 .delete eDelete) < (reader .delete eDelete).asked + 50000000) ∧
    (let s := { reads1 .delete eDelete with brd := { board with clk := 50000000 } }
     cmdOf s 64 = some (reader .delete eDelete) ∧ (reader .delete eDelete).asked + 50000000 ≤ now s) ∧
    (cmdOf (reads1 .train eTrain) 64 = some (reader .train eTrain) ∧ (reader .train eTrain).mark = 0 ∧
      headT.length = inputLen (reader .train eTrain) ∧ trainHeadData headT = none ∧ (readTrainHead headT).inputLen ≠ 0 ∧
      inWindows (reads1 .train eTrain) 3 1 false ((reader .train eTrain).dataAddr + 32) (readTrainHead headT).inputLen = true) ∧
    (cmdOf (reads1 .delete eDelete) 65 = none ∧ cmdOf ({ on with cmds := [{ reader .insert eInsert with phase := .turn }] } : State) 64 =
      some { reader .insert eInsert with phase := .turn }) ∧
    ((zeros 32).length = inputLen (reader .insert eInsert) ∧ check5 (reads1 .insert eInsert) (reader .insert eInsert) (zeros 32) = none) ∧
    ((zeros 16).length = inputLen (reader .labelUpdate eRelabel) ∧
      check5 (reads1 .labelUpdate eRelabel) (reader .labelUpdate eRelabel) (zeros 16) = none) ∧
    ((zeros 8).length = inputLen (reader .fetch eFetch) ∧ check5 (reads1 .fetch eFetch) (reader .fetch eFetch) (zeros 8) = none) ∧
    (oneToken.length = inputLen (reader .encode eEncode) ∧ check5 (reads1 .encode eEncode) (reader .encode eEncode) oneToken = none) ∧
    ((zeros 64).length = inputLen (reader .query eQuery) ∧ check5 (reads1 .query eQuery) (reader .query eQuery) (zeros 64) = none ∧
      domainRoot (reads1 .query eQuery) = false) ∧
    ((zeros 4096).length = inputLen (reader .fwDownload eFwDownload) ∧
      check5 (reads1 .fwDownload eFwDownload) (reader .fwDownload eFwDownload) (zeros 4096) = none ∧
      (reads1 .fwDownload eFwDownload).fw.committing = none ∧ cellsWf 0 (reads1 .fwDownload eFwDownload).fw.staging = true) := by
  decide +kernel

/-- The pair's CQ tail in its last slot, one before it, and the admin pair. -/
theorem witness_CompletionIsPostedOnce :
    (qpOf on waiting.qp = some pair3 ∧ waiting.qp ≠ 0 ∧ pair3.state ≠ 3 ∧ isError 12 = true ∧ isError 0 = false ∧ fenceHit on waiting.tag = false ∧
      pair3.cqTail + 1 ≠ pair3.depth) ∧
    (qpOf ({ on with qps := [admin, { pair3 with cqTail := 7 }] } : State) 3 = some { pair3 with cqTail := 7 } ∧ 7 + 1 = pair3.depth) := by
  decide +kernel

-- The host interface.

theorem witness_DoorbellsMoveOrFreeze :
    (on.hif.linkUp = true ∧ qpOf on 3 = some pair3 ∧ pair3.state ≠ 3 ∧ (7#32).toNat < pair3.depth ∧ pair3.depth ≤ (8#32).toNat) ∧
    (qpOf on 0 = some admin ∧ admin.state ≠ 3 ∧ (15#32).toNat < admin.depth) ∧
    (let p := { pair3 with cqTail := 4 }
     qpOf ({ on with qps := [admin, p] } : State) 3 = some p ∧
     ((4#32).toNat + p.depth - p.cqHead) % p.depth ≤ (p.cqTail + p.depth - p.cqHead) % p.depth ∧
     (p.cqTail + p.depth - p.cqHead) % p.depth < ((5#32).toNat + p.depth - p.cqHead) % p.depth) ∧
    (qpOf ({ on with qps := [admin, { pair3 with state := 3 }] } : State) 3 = some { pair3 with state := 3 }) ∧
    qpOf on 9 = none := by decide +kernel

/-- The interface not enabled, its admin rings set to the largest depth and to one past it. -/
def setUp (depth : Nat) : State := { on with qps := [], hif := { Hif.reset with linkUp := true, depth := depth } }

theorem witness_EnableAndResetsOfTheInterface :
    ((setUp 4096).hif.linkUp = true ∧ (setUp 4096).hif.enable = false ∧ (setUp 4096).hif.resetBusy = false ∧ (setUp 4096).fw.running < 2 ∧
      2 ≤ (setUp 4096).hif.depth ∧ inWindows (setUp 4096) 0 0 false 0 (64 * 4096) = true ∧ inWindows (setUp 4096) 0 0 true 0 (32 * 4096) = true ∧
      (setUp 4096).srch.expired.contains 0 = false ∧ (setUp 4096).brd.fatal = false) ∧
    ¬ (setUp 4097).hif.depth ≤ 4096 ∧ ¬ 2 ≤ (setUp 1).hif.depth ∧ on.hif.enable = true ∧ on.hif.linkUp = true := by decide +kernel

/-- MSI-X on, a message of vector 1 held since 0 ns and its interval of 1 µs just over. -/
def held1 : State :=
  { on with brd := { board with clk := 1000 },
            hif := { on.hif with msixOn := true, pendMsg := [1], lastMsg := [(1, 0)] },
            qps := [admin, { pair3 with toSignal := 1, signalSince := some 1000, vector := 5 }] }

theorem witness_InterruptsAndLinkSettings :
    (held1.hif.msixOn = true ∧ held1.hif.msixMask = false ∧ 1 ∈ held1.hif.pendMsg ∧
      (held1.hif.lastMsg.find? (·.1 == 1)) = some (1, 0) ∧ 0 + 1000 * held1.fnc.interval.getD 1 1 ≤ now held1) ∧
    (qpOf held1 3 = some { pair3 with toSignal := 1, signalSince := some 1000, vector := 5 } ∧ 1000 + 1000 * pair3.cDelay ≤ now held1 ∧
      held1.hif.lastMsg.find? (·.1 == 5) = none) ∧
    (on.brd.mainPower = true ∧ (64 ∈ [64, 32, 16] ∧ 4 ∈ [16, 8, 4]) ∧ on.hif.linkUp = true ∧ 512 ∈ [128, 256, 512] ∧
      4096 ∈ [128, 256, 512, 1024, 2048, 4096] ∧ on.hif.pendMsg = []) ∧
    (({ held1.hif with lastMsg := [] } : Hif).pendMsg = [1] ∧ ({ held1.hif with lastMsg := [] } : Hif).lastMsg = []) := by decide +kernel

/-- Doorbell pages, the MSI-X table, and reads whose last byte is at or before the record's CRC, or past it. -/
theorem witness_RegistersReadAndWrite :
    (on.hif.linkUp = true ∧ on.hif.enable = true ∧ (setUp 2).hif.enable = false ∧ (setUp 2).hif.linkUp = true) ∧
    (0xA0000 ≤ 0xA1FF8 ∧ 0xA1FF8 < 0xA2000) ∧ ((16 ≠ 4 ∧ 16 ≠ 8) ∧ 4 % 8 ≠ 0) ∧
    (cellsWf 0 on.hif.msixTable = true ∧ 0x100FF8 % 8 = 0 ∧ 0x100000 ≤ 0x100FF8 ∧ 0x100FF8 < 0x101000) ∧
    (0x80078 % 4 = 0 ∧ ¬ (0x80078 ≤ 0x8007C ∧ 0x80080 ≤ 0x80078 + 4)) ∧ (0x80078 % 8 = 0 ∧ 0x80078 ≤ 0x8007C ∧ 0x80080 ≤ 0x80078 + 8) ∧
    (0x1000000 ≤ 0x1000038 ∧ 0x1000038 % 64 + 8 ≤ 64) ∧ (0x1000000 ≤ 0x1000040 ∧ 64 < 0x1000040 % 64 + 65 ∧ 0xFFFFFF < 0x1000000) := by
  decide +kernel

/-- Every register that a statement about reset names reads as the spec's tables give it: here those of four blocks. -/
theorem test_reset_registers :
    bar0Reg State.reset 0x10030 = 65536 ∧ bar0Reg State.reset 0x10038 = 15360 + 1024 * 2 ^ 16 ∧ bar0Reg State.reset 0x50048 = 64 ∧
    bar0Reg State.reset 0x90018 = 1400 ∧ bar0Reg State.reset 0x90020 = 0xFFFFFFFF := by decide +kernel
theorem test_reset_zero :
    (([(0x30, 3), (0x10000, 5), (0x10040, 2), (0x20020, 3), (0x30000, 2), (0x30100, 40), (0x30400, 32), (0x40000, 4), (0x40100, 8),
       (0x50068, 1), (0x60008, 11), (0x60108, 11), (0x60208, 11), (0x60308, 11), (0x60400, 4), (0x70000, 1), (0x70100, 32), (0x70400, 40),
       (0x80000, 16), (0x90000, 1), (0x90040, 3)] : List (Nat × Nat)).all fun p =>
      (List.range p.2).all fun k => bar0Reg State.reset (p.1 + 8 * k) == 0) = true := by decide +kernel

-- Time.

/-- Pulses 102.4 µs apart: locked, or two in window before this one. -/
def pulsed (locked : Bool) (n t : Nat) : State :=
  { on with brd := { board with lastPulse := some 0, clk := t, aon := t, locked := locked, inWindow := n } }

theorem witness_TurnsAndStepsBegin_pulse :
    (let s := pulsed true 4 112639
     s.brd.aux5 = true ∧ s.brd.sync.accepted = false ∧ lockedOut s s.brd.sync = false ∧ clocked s = true ∧ s.brd.lastPulse = some 0 ∧
     s.brd.aon - 0 < 0xFFFFFFFF ∧ pulseMissing s = false ∧ s.brd.locked = true ∧ 92160 ≤ s.brd.aon - 0 ∧ s.brd.aon - 0 ≤ 112640) ∧
    (let s := pulsed true 4 92159
     s.brd.locked = true ∧ s.brd.aon - 0 < 92160 ∧ pulseMissing s = false ∧ clocked s = true) ∧
    (let s := pulsed false 2 92160
     s.brd.locked = false ∧ 2 ≤ s.brd.inWindow ∧ 92160 ≤ s.brd.aon - 0 ∧ s.brd.aon - 0 ≤ 112640 ∧ pulseMissing s = false) ∧
    (let s := pulsed false 1 112640
     s.brd.locked = false ∧ s.brd.inWindow < 2 ∧ s.brd.aon - 0 ≤ 112640 ∧ pulseMissing s = false) ∧
    (let s := pulsed false 1 92159
     s.brd.locked = false ∧ ¬ (92160 ≤ s.brd.aon - 0 ∧ s.brd.aon - 0 ≤ 112640)) ∧
    (let s := pulsed true 3 112640
     clocked s = true ∧ s.brd.locked = true ∧ s.brd.inWindow < 4 ∧ s.brd.lastPulse = some 0 ∧ 0 + 112640 ≤ s.brd.aon) := by decide +kernel

/-- A step at 25.6 µs and one tick before; a turn without a lock at 102.4 µs; a lock that ends at 112.64 µs. -/
def atTime (t : Nat) : State := { on with brd := { board with clk := t } }

theorem witness_TurnsAndStepsBegin_time :
    (clocked (atTime 25600) = true ∧ (atTime 25600).srch.stepNo < 3 ∧ 25600 * ((atTime 25600).srch.stepNo + 1) ≤ now (atTime 25600)) ∧
    now (atTime 25599) < 25600 ∧ (synced (atTime 102400) = false ∧ 0 + 102400 ≤ now (atTime 102400)) ∧ now (atTime 102399) < 0 + 102400 ∧
    (synced (pulsed true 4 112640) = true ∧ clocked (pulsed true 4 112640) = true ∧ 0 + 112640 ≤ now (pulsed true 4 112640)) := by decide +kernel

theorem witness_CreditAndEpochsAtBoundaries :
    (clocked (atTime 25600) = true ∧ (atTime 25600).srch.stepNo < 3 ∧
      (atTime 25600).brd.turnStart + 25600 * ((atTime 25600).srch.stepNo + 1) ≤ now (atTime 25600)) ∧
    (synced (atTime 102400) = false ∧ (atTime 102400).brd.turnStart + 102400 ≤ now (atTime 102400)) ∧
    (synced (pulsed true 4 112640) = true ∧ (pulsed true 4 112640).brd.turnStart + 112640 ≤ now (pulsed true 4 112640)) ∧
    (((0, 1, 0), 5) ∈ ({ on.srch with spent := [((0, 1, 0), 5)] } : Search).spent ∧ (facetOf on 1).teardown ≠ some 5) ∧
    (facetOf on facet1.num = facet1 ∧ facet1.changed = false ∧ facetOf ({ on with facets := [{ facet1 with changed := true }] } : State) 1 =
      { facet1 with changed := true }) ∧
    (facetOf ({ on with facets := [{ facet1 with s0Next := some 5 }] } : State) 1).s0Next = some 5 ∧
    (closeStep { on with cmds := [{ newCmd on .fetch eFetch 1 64 with phase := .running }] }).cmds.map (fun c => (c.op, c.phase)) =
      [(.fetch, .running)] ∧
    (on.cmds.all fun c => !(c.op == .indexDrop && c.phase == .waiting)) = true := by decide +kernel

-- Search.

def zeroVec : Bytes := zeros 16

/-- A query of index 0 in context 4 that scans, and a walk of graph index 1. -/
def scanQ : Query := { blankQuery 4 (.host 64 0) 1 0 with nprobe := 1, deadline := 100, vec := zeroVec, stage := .scan, sketches := [(0, 5)] }
def walkQ : Query := { blankQuery 4 (.host 64 0) 1 1 with stage := .walk, hops := 1, vec := zeroVec }

/-- A sliver of list 0 for it, on block 1. -/
def run1 (n : Nat) : Sliver :=
  { gid := 1, facet := 1, slot := 0, cls := 0, cohort := 0, rank := 0, key := 0, lo := 0, hi := 1, members := [4], block := 1, next := 0,
    fresh := false, heap := List.replicate n (4, ⟨1, 0, 0⟩), staged := [], poisoned := [], front := 0, queuedAt := 0,
    copy := false, claim := none, wait := none }

def cellRuns (c n : Nat) : CellSt := ⟨c, some (run1 n), 0, none, false, false, 0⟩

/-- Facet 1 on blocks 0 and 1, every cell with the role that scans lists. -/
def cfg2 : ImageCfg := { cfg1 with facets := [{ facetRow with mask := 3 }], roles := [⟨0, 0⟩, ⟨1, 0⟩] }

def searching : State :=
  { on with cfg := cfg2, brd := { board with clk := 75000 }, srch := { Search.reset with
      queries := [scanQ], budgets := cfg1.budgets, masks := [(1, 3)], slivers := [run1 0], cells := [cellRuns 4095 63], shadows := [⟨1, 0, 0, 1, zeroVec, [0]⟩],
      engines := [⟨0, some ⟨1, 0, 0, .coarse 0, [4], false, none, 0⟩, 0, false⟩, ⟨7, some ⟨1, 0, 0, .node 64 0 0, [], false, none, 0⟩, 0, false⟩] } }

theorem witness_TilesRoundsAndShadowsFinish :
    (∃ x t, searching.srch.engines.find? (·.num == 0) = some x ∧ x.run = some t ∧ ∀ tag g st, t.kind ≠ .node tag g st) ∧
    (∃ x t tag g st, searching.srch.engines.find? (·.num == 7) = some x ∧ x.run = some t ∧ t.kind = .node tag g st) ∧
    (searching.srch.shadows.find? (fun y => y.facet == 1 && y.slot == 0) = some ⟨1, 0, 0, 1, zeroVec, [0]⟩ ∧
      idxOf searching 1 0 = some (mkIndex geoC)) :=
  ⟨⟨_, _, rfl, rfl, fun _ _ _ h => nomatch h⟩, ⟨_, _, _, _, _, rfl, rfl, rfl⟩, by decide +kernel⟩

/-- A shadow of a class with ticks left on the facet's engine, and one of a class that has spent them. -/
theorem witness_TilesRoundsAndShadowsFinish_shadow :
    (let h : Shadow := ⟨1, 0, 3, 1, zeroVec, [0]⟩
     let s := { searching with srch := { searching.srch with weights := turnWeights searching, shadows := [h] } }
     s.srch.shadows.find? (fun y => y.facet == 1 && y.slot == 0) = some h ∧ idxOf s 1 0 = some (mkIndex geoC) ∧ shadowDue s h = true ∧
     shadowDue { s with srch := { s.srch with spent := [((unitEngine 0, 1, 3), 64)] } } h = false) := by decide +kernel

/-- A walker with a round that is in, one whose reads are still out, and one whose turn belongs to another walk. -/
theorem witness_TilesRoundsAndShadowsFinish_walk :
    (let s := { searching with srch := { searching.srch with queries := [walkQ] } }
     queryOf s 4 = some walkQ ∧ idxOf s 1 1 = some (mkIndex geoG) ∧ roundDue walkQ = true ∧ (walkGrant s walkQ.walker).map (·.1) = some walkQ) ∧
    (let q := { walkQ with reads := 1, sel := [7] }
     queryOf { searching with srch := { searching.srch with queries := [q] } } 4 = some q ∧ roundDue q = false) ∧
    (let s := { searching with srch := { searching.srch with queries := [walkQ, { walkQ with ctx := 5, cls := 1 }] } }
     (queryOf s 5).isSome = true ∧ ((walkGrant s walkQ.walker).map (·.1.ctx)) = some 4) := by decide +kernel

theorem witness_SliverFinishCommitsCandidates :
    (cellOf searching 4095).run = some (run1 63) ∧ idxOf searching 1 0 = some (mkIndex geoC) ∧ cellStands searching (cellOf searching 4095) = false ∧
    (∃ q ∈ searching.srch.queries, q.ctx ∈ (run1 63).members) := by decide +kernel

/-- While the limiter acts nothing is borrowed: a cell of a class without budget stands. -/
theorem witness_SliverFinishCommitsCandidates_stands :
    (let s := { searching with brd := { board with clk := 75000, limiter := true } }
     (cellOf s 4095).run = some (run1 63) ∧ cellStands s (cellOf s 4095) = true) := by decide +kernel

/-- A heap of exactly 64, an idle cell after 2 ticks, a cell that runs, and a block without an idle cell
where an apex sliver has waited a tick. -/
theorem witness_CellsStageStealAndSwitch :
    (let s := { searching with srch := { searching.srch with cells := [cellRuns 4095 64] } }
     (cellOf s 4095).run = some (run1 64) ∧ (s.srch.cells.any fun x => x.cell == 4095) = true ∧ idxOf s 1 0 = some (mkIndex geoC) ∧
     cellStands s (cellOf s 4095) = false ∧
     (((run1 64).heap ++ sliverCands s (mkIndex geoC) (run1 64) 7)[63]?).isSome = true) ∧
    (let s := { searching with brd := { board with clk := 200 } }
     cellIdle s 0 = true ∧ (stealFrom s 0).isSome) ∧ cellIdle searching 4095 = false ∧
    (let busy := (List.range 32).map fun n => (⟨32 + n, some { run1 0 with cls := 3 }, 0, none, false, false, 0⟩ : CellSt)
     let s := { searching with srch := { searching.srch with cells := busy, slivers := [{ run1 0 with gid := 2 }] } }
     ((switchable s 1).findSome? fun p => (switchTo s 1 p).map fun w => (p.1, w)).isSome ∧
     (cellOf s 32).run = some { run1 0 with cls := 3 }) := by
  decide +kernel

/-- A deadline of 100 µs, at its 75 µs and one nanosecond before. -/
theorem witness_CheckpointCutsTheScan :
    (queryOf searching 4 = some scanQ ∧ scanQ.deadline ≠ 0 ∧ scanQ.since + 750 * scanQ.deadline ≤ now searching ∧ scanQ.scanDone = false ∧
      bit 0 scanQ.cause = false ∧ scanQ.stage = .scan ∧ (searching.srch.slivers.any fun v => v.members.contains 4) = true) ∧
    (let s := { searching with brd := { board with clk := 74999 } }
     now s < scanQ.since + 750 * scanQ.deadline) := by decide +kernel

/-- Channel 63, die 3, plane 3: a read of unit 9 of list 0. -/
def unit9 : Unit' := ⟨1, 0, 0, 0, 9⟩
def read9 : Read := ⟨3, 0, none, 5, true, false, unit9, .fetch 64 []⟩
def reading63 (waits : List ((Nat × Nat) × Read)) : State :=
  { on with flash := { Flash.reset with dies := [⟨63, 3, [read9], [], none, false⟩], waits := waits } }
/-- A read of the same channel that waits for a tag, for another die. -/
def waits9 : Read := { read9 with order := 6, started := false }

/-- With nothing waiting and with a read that waits; a unit that is not lost, alone in its parity group and beside a failed one, and a lost one. -/
theorem witness_FlashReadAnswers :
    (((dieOf (reading63 []) 63 3).reads.find? fun y => y.plane == 3 && y.started) = some read9 ∧
      lostAt (reading63 []) (readEpoch (reading63 []) read9.purpose) read9.unit = false ∧ (reading63 []).flash.waits = [] ∧
      failedMates (reading63 []) read9.unit = []) ∧
    (((dieOf (reading63 [((63, 0), waits9)]) 63 3).reads.find? fun y => y.plane == 3 && y.started) = some read9 ∧
      (sortBy (fun a b : (Nat × Nat) × Read => readBefore a.2 b.2) ((reading63 [((63, 0), waits9)]).flash.waits.filter (·.1.1 == 63))).head? =
        some ((63, 0), waits9) ∧ ∀ x ∈ (reading63 [((63, 0), waits9)]).flash.waits, x.2.order ≠ read9.order) ∧
    (let s := { reading63 [] with flash := { (reading63 []).flash with
       groups := [⟨[unit9, { unit9 with unit := 8 }], 0⟩], rebuilding := [{ unit9 with unit := 8 }] } }
     failedMates s read9.unit ≠ [] ∧ lostAt s (readEpoch s read9.purpose) read9.unit = false) := by decide +kernel

-- Writes and background work.

/-- An INSERT of one zero vector, ID 0; a DELETE of ID 0. -/
def writing (o : Op) (e : Entry) (n : Nat) : Cmd := { newCmd on o e 1 64 with phase := .running, data := zeros n }
def writes1 (o : Op) (e : Entry) (n : Nat) (i : Index) : State := { on with cmds := [writing o e n], idx := [i, mkIndex geoG] }

/-- Index 0 with ID 0 live at the tail of a side list one short of its limit of 64. -/
def ent0 (a : Nat) : SideEnt := ⟨a, ⟨a, zeroVec, 0, 0⟩, 0, 0, false, false, 0, false⟩
def side63 : Index := { mkIndex geoC with side := (List.range 63).map ent0, committed := 63, map := (List.range 63).map fun a => (a, .side a) }

/-- An INSERT that fills the side list, and a DELETE. -/
theorem witness_WritesCommit :
    (let c := writing .insert { eInsert with area := 0x10000 } 0
     let c1 := { c with data := [63] ++ zeros 31 }
     let s := { on with cmds := [c1], idx := [side63, mkIndex geoG] }
     cmdOf s 64 = some c1 ∧ commitDue s c1 = true ∧ c1.index s = some side63 ∧ side63.held = false ∧ noRegion s c1.facet = false ∧
     insertRefusal s side63 c1 (c1.ids s) = none ∧ sideUsed side63 + newSide side63 c1 (c1.ids s) = side63.geo.sideLimit ∧
     pendCount (facetOf s c1.facet) + newPend side63 c1 (c1.ids s) ≤ 65536) ∧
    (let c := writing .delete eDelete 8
     let s := writes1 .delete eDelete 8 side63
     cmdOf s 64 = some c ∧ commitDue s c = true ∧ c.index s = some side63 ∧ sideUsed side63 + newSide side63 c (c.ids s) ≤ side63.geo.sideLimit ∧
     pendCount (facetOf s c.facet) + newPend side63 c (c.ids s) = 1 ∧ liveIds side63 (c.ids s) = [0]) := by decide +kernel

/-- A LABEL_UPDATE of ID 0, with its region and without. -/
theorem witness_WritesCommit_label :
    (let c := writing .labelUpdate eRelabel 16
     let s := writes1 .labelUpdate eRelabel 16 side63
     cmdOf s 64 = some c ∧ commitDue s c = true ∧ c.index s = some side63 ∧ noRegion s c.facet = false ∧ c.failedReads = [] ∧
     sideUsed side63 + newSide side63 c (c.ids s) ≤ side63.geo.sideLimit ∧ pendCount (facetOf s c.facet) + newPend side63 c (c.ids s) = 1 ∧
     (relabelled s side63 c).map (·.id) = [0]) ∧
    (let c := writing .labelUpdate eRelabel 16
     let s := { writes1 .labelUpdate eRelabel 16 side63 with srch := { Search.reset with regionsOut := [0] } }
     cmdOf s 64 = some c ∧ commitDue s c = true ∧ c.index s = some side63 ∧ c.op ≠ .delete ∧ noRegion s c.facet = true) := by decide +kernel

theorem witness_QueriesSeeWholeWrites :
    (let c := { writing .insert eInsert 0 with data := [63] ++ zeros 31 }
     let s := { on with cmds := [c], idx := [side63, mkIndex geoG] }
     cmdOf s 64 = some c ∧ c.op = .insert ∧ noRegion s c.facet = false ∧ commitDue s c = true ∧ c.index s = some side63 ∧ insertRefusal s side63 c (c.ids s) = none) ∧
    (let c := writing .delete eDelete 8
     let s := writes1 .delete eDelete 8 side63
     cmdOf s 64 = some c ∧ c.op = .delete ∧ commitDue s c = true ∧ c.index s = some side63) := by decide +kernel

def seg1 : Seg := ⟨0, none, 4, 1, .log 1 1, false, 0⟩
def segs (run : Option Seg) (reads : List Read) : State := { on with flash := { Flash.reset with dies := [⟨63, 3, reads, [seg1], run, false⟩] } }

theorem witness_FlashSegmentsRun :
    (let s := segs none []
     dieReady s 63 3 = true ∧
     grantAmong s (unitChannel 63) (fun x : Seg => (x.facet, x.cls)) (segFunded s 63) (dieOf s 63 3).segs = some (seg1, true) ∧
     creditedWaits s 63 = false) ∧
    (let s := segs none []
     let s := { s with cfg := { cfg1 with facets := [{ facetRow with mask := 3 }] }, srch := { Search.reset with budgets := [⟨1, 4, 0, 64, 0, 0, 500⟩] } }
     let s := { s with srch := { s.srch with weights := turnWeights s } }
     dieReady s 63 3 = true ∧
     grantAmong s (unitChannel 63) (fun x : Seg => (x.facet, x.cls)) (segFunded s 63) (dieOf s 63 3).segs = some (seg1, false)) ∧
    (let s := segs none [{ read9 with started := false }]
     let s := { s with srch := { Search.reset with budgets := [⟨1, 0, 0, 64, 0, 0, 500⟩] } }
     let s := { s with srch := { s.srch with weights := turnWeights s } }
     grantAmong s (unitChannel 63) (fun x : Seg => (x.facet, x.cls)) (segFunded s 63) (dieOf s 63 3).segs = some (seg1, true) ∧
     creditedWaits s 63 = true) ∧
    (let s := segs (some seg1) [{ read9 with started := false }]
     (dieOf s 63 3).run = some seg1 ∧ (dieOf s 63 3).suspended = false ∧ urgentWaits (dieOf s 63 3) = true ∧
     (s.flash.dies.any fun x => x.channel == 63 && x.die == 3) = true) := by decide +kernel

/-- A side list of two closed entries; a list of four positions with two of them dead. -/
def pos0 (t : Bool) : Pos := ⟨⟨0, zeroVec, 0, 0⟩, 0, t, 0⟩
def compactIx : Index :=
  { mkIndex geoC with fine := [zeroVec], coarse := [zeroVec], side := [ent0 0, ent0 1], committed := 2,
                      lists := [⟨0, some 0, some 0, [⟨0, 0, [pos0 true, pos0 false, pos0 true, pos0 false], 0, 0⟩]⟩] }
def compacting : State := { on with idx := [compactIx, mkIndex geoG] }

/-- A move of one entry and a rewrite, to begin and begun. -/
theorem witness_CompactionAndListRewrite :
    (idxOf compacting 1 0 = some compactIx ∧ compactIx.geo.mode = 0 ∧ compactIx.staged = none ∧ moveClass compacting compactIx = some 4 ∧
      mayStage compacting compactIx 4 = true ∧ facetOf compacting 1 = facet1 ∧
      movable compacting compactIx (batch compacting facet1 compactIx (min 1 1024)) ≠ []) ∧
    (compactClass compacting 1 = some 4 ∧ ∃ d ds, rewritable compacting (facetOf compacting 1) compactIx = d :: ds ∧
      listFree compacting (facetOf compacting 1) compactIx d = true) := ⟨by decide +kernel, by decide +kernel, _, _, rfl, by decide +kernel⟩

theorem witness_CompactionAndListRewrite_publish :
    (let ix := { compactIx with staged := some (0, 1) }
     let s := { on with idx := [ix, mkIndex geoG] }
     idxOf s 1 0 = some ix ∧ mayPublish s ix = true ∧ facetOf s 1 = facet1 ∧ (batch s facet1 ix 1).length = 1 ∧
     movable s ix (batch s facet1 ix 1) ≠ []) ∧
    (let ix := { compactIx with staged := some (1, 0) }
     let s := { on with idx := [ix, mkIndex geoG] }
     idxOf s 1 0 = some ix ∧ mayPublish s ix = true ∧ listFree s (facetOf s 1) ix (listOf ix 0) = true ∧
     copyFits s (facetOf s 1) ix (listOf ix 0) = true) := by decide +kernel

/-- A graph with an array of two nodes. -/
def node0 (n : Nat) (r : Bool) : Node := ⟨n, ⟨n, zeroVec, 0, 0⟩, [(0, [], 0)], [(0, 0, 0)], 0, false, 0, r⟩
def graphIx : Index := { mkIndex geoG with arrays := [⟨0, [node0 0 false, node0 1 true], [(0, 2)], [(0, [0])]⟩] }
def graphing : State := { on with idx := [mkIndex geoC, graphIx] }

/-- A side list of a whole graph unit of 4,096 live entries. -/
def unitSide : List SideEnt := (List.range 4096).map ent0
def unitIx : Index := { graphIx with side := unitSide, committed := 4096 }
def unitary : State := { on with idx := [unitIx] }

theorem unitary_batch : batch unitary facet1 unitIx 4096 = unitIx.side := by
  have hs : unitIx.side = unitSide := by simp only [unitIx]
  have hm : movedMark unitIx = 0 := by simp [movedMark, unitIx, graphIx, mkIndex]
  unfold batch
  rw [hs, hm]
  simp only [Nat.zero_le, decide_true, List.filter_true]
  rw [List.take_of_length_le (by simp [unitSide])]
  apply List.takeWhile_eq_self_iff.mpr
  intro e he
  obtain ⟨a, ha, rfl⟩ := List.mem_map.mp he
  have hl : a < 4096 := List.mem_range.mp ha
  have hc : unitIx.committed = 4096 := rfl
  have hp : openPend facet1 unitIx.geo.slot (.side a) = false := rfl
  have hi : idLocked unitary facet1.num unitIx.geo.slot a = false := rfl
  simp [ent0, hc, hl, hp, hi]

theorem unitary_unit : unitBatch unitary facet1 unitIx 4096 = unitIx.side := by
  have hd : drainMark unitary facet1.num unitIx.geo.slot = 0 := rfl
  simp only [unitBatch, hd, Nat.not_lt_zero, decide_false, if_false, unitary_batch]

theorem witness_GraphInsertAppendsNodes :
    (idxOf unitary 1 1 = some unitIx ∧ moveClass unitary unitIx = some 4 ∧ unitIx.geo.mode = 1 ∧ unitIx.staged = none ∧ mayStage unitary unitIx 4 = true) ∧
    facetOf unitary 1 = facet1 ∧ (unitBatch unitary facet1 unitIx 4096).length = 4096 ∧ unitWhole unitary facet1 unitIx 4 4096 = true :=
  ⟨⟨rfl, by decide +kernel, rfl, rfl, by decide +kernel⟩, rfl, by rw [unitary_unit]; simp only [unitIx]; simp [unitSide],
    by simp [unitWhole]⟩

/-- A last partial unit of two entries, programmed. -/
theorem witness_GraphInsertAppendsNodes_publish :
    (let ix := { graphIx with side := [ent0 0, ent0 1], committed := 2, staged := some (2, 2) }
     let s := { on with idx := [mkIndex geoC, ix] }
     idxOf s 1 1 = some ix ∧ mayPublish s ix = true ∧ ix.arrays ≠ [] ∧ (batch s (facetOf s 1) ix 2).length = 2) := by decide +kernel

/-- A unit without a deleted edge; one with an edge to a node that is gone, the sweep behind it; and that one programmed. -/
theorem witness_SweepAndRenumbering :
    (idxOf graphing 1 1 = some graphIx ∧ compactClass graphing 1 = some 4 ∧ graphIx.geo.mode = 1 ∧ graphIx.trans = none ∧ graphIx.arrays ≠ [] ∧
      graphIx.staged = none ∧ mayStage graphing graphIx 4 = true ∧ (sweepStep graphing graphIx (sweepOf facet1 graphIx)).2 = false ∧
      nextNode (curArray graphIx) ≤ perGraphUnit graphIx.geo * ((sweepOf facet1 graphIx).unit + 1)) ∧
    (let ix := { graphIx with arrays := [⟨0, (List.range 33).map fun n => node0 n false, [(0, 33)], [(0, [0])]⟩] }
     perGraphUnit ix.geo * ((sweepOf facet1 ix).unit + 1) < nextNode (curArray ix)) := by decide +kernel

def brokenIx (staged : Option (Nat × Nat)) : Index :=
  { graphIx with arrays := [⟨0, [{ node0 0 false with nbrs := [(0, [1], 0)] }, { node0 1 false with tomb := true, del := 1 }], [(0, 2)], [(0, [0])]⟩],
                 staged := staged }

theorem witness_SweepAndRenumbering_repair :
    (let s := { on with idx := [mkIndex geoC, brokenIx none], facets := [{ facet1 with epoch := 2, closed := 2 }] }
     idxOf s 1 1 = some (brokenIx none) ∧ mayStage s (brokenIx none) 4 = true ∧
     (sweepStep s (brokenIx none) (sweepOf (facetOf s 1) (brokenIx none))).2 = true) ∧
    (let s := { on with idx := [mkIndex geoC, brokenIx (some (3, 0))] }
     idxOf s 1 1 = some (brokenIx (some (3, 0))) ∧ mayPublish s (brokenIx (some (3, 0))) = true) := by decide +kernel

/-- Renumbering that is due, with the HBM for a second copy and without, and one that has been programmed. -/
theorem witness_SweepAndRenumbering_renumber :
    (renumberDue graphing graphIx = true ∧ arrayHbm graphIx.geo (nextNode (curArray graphIx)) ≤ hbmFree graphing 1) ∧
    (let s := { graphing with cfg := { cfg1 with facets := [{ facetRow with hbm := 16 }] } }
     hbmFree s 1 < arrayHbm graphIx.geo (nextNode (curArray graphIx)) ∧ mayStage s graphIx 4 = true ∧ renumberDue s graphIx = true) ∧
    (let ix := { graphIx with staged := some (4, 0) }
     let s := { on with idx := [mkIndex geoC, ix] }
     idxOf s 1 1 = some ix ∧ ix.trans = none ∧ mayPublish s ix = true) := by decide +kernel

/-- Nodes to re-sketch; all of them done; a list; no list left, with a side entry of the old generation. -/
theorem witness_ResketchStepsAndEnds :
    (let ix := { graphIx with trans := some ⟨5, 0, 0, 0⟩, gen := 1 }
     let s := { on with idx := [ix] }
     idxOf s 1 1 = some ix ∧ 0 ≤ (facetOf s 1).epoch ∧ ix.staged = none ∧ noRegion s 1 = false ∧ mayStage s ix 5 = true ∧
     transDone ix ⟨5, 0, 0, 0⟩ = false ∧ 0 < lengthAt (curArray ix) (2 ^ 48) ∧ ix.arrays ≠ []) ∧
    (let ix := { graphIx with trans := some ⟨5, 0, 0, 2⟩, gen := 1 }
     let s := { on with idx := [ix] }
     mayStage s ix 5 = true ∧ transDone ix ⟨5, 0, 0, 2⟩ = true ∧ cmdOf s 5 = none) ∧
    (let ix := { compactIx with trans := some ⟨5, 0, 0, 0⟩, gen := 1 }
     let s := { on with idx := [ix] }
     idxOf s 1 0 = some ix ∧ mayStage s ix 5 = true ∧ transDone ix ⟨5, 0, 0, 0⟩ = false ∧ nextList ix ⟨5, 0, 0, 0⟩ ≠ none) ∧
    (let ix := { compactIx with trans := some ⟨5, 0, 0, 0⟩, gen := 0 }
     let s := { on with idx := [ix] }
     idxOf s 1 0 = some ix ∧ mayStage s ix 5 = true ∧ transDone ix ⟨5, 0, 0, 0⟩ = false ∧ nextList ix ⟨5, 0, 0, 0⟩ = none) := by decide +kernel

/-- A chunk of nodes and a list that have been programmed; and RESKETCH's own command at the end of its transition. -/
theorem witness_ResketchStepsAndEnds_publish :
    (let ix := { graphIx with trans := some ⟨5, 0, 0, 0⟩, gen := 1, staged := some (5, 0) }
     let s := { on with idx := [ix] }
     idxOf s 1 1 = some ix ∧ mayPublish s ix = true ∧ ix.geo.mode = 1 ∧ 0 < lengthAt (curArray ix) (2 ^ 48)) ∧
    (let ix := { compactIx with trans := some ⟨5, 0, 0, 0⟩, gen := 1, staged := some (5, 0) }
     let s := { on with idx := [ix] }
     idxOf s 1 0 = some ix ∧ mayPublish s ix = true ∧ ix.geo.mode = 0 ∧ (nextList ix ⟨5, 0, 0, 0⟩).map (·.num) = some 0) ∧
    (let c := { newCmd on .resketch eResketch 1 64 with phase := .running }
     let ix := { graphIx with trans := some ⟨64, 0, 0, 2⟩, gen := 1 }
     let s := { on with idx := [ix], cmds := [c] }
     mayStage s ix 5 = true ∧ transDone ix ⟨64, 0, 0, 2⟩ = true ∧ cmdOf s 64 = some c ∧ c.op = .resketch) := by decide +kernel

theorem witness_MemoryAndFlashUpkeep :
    ((facetOf on 1).state ≠ 0 ∧ programsHeld on = false ∧ mayGrant on 4 false = true ∧ clocked on = true ∧ mayGrant on 7 false = true) ∧
    (let s := { on with brd := { board with psNow := 2 } }
     mayGrant s 4 false = false) ∧
    (let s := { on with brd := { board with opNs := 86400000000000 } }
     86400000000000 * (s.flash.dayNo + 1) ≤ s.brd.opNs ∧ on.brd.opNs < 86400000000000 * (on.flash.dayNo + 1)) ∧
    (let s := { on with mem := { Mem.reset with cycleTurns := 1024 } }
     clocked s = true ∧ 1024 ≤ s.mem.cycleTurns ∧ on.mem.cycleTurns < 1024) ∧
    (let s := { on with flash := { Flash.reset with rebuilding := [unit9], rereads := [(blockKey 63 3 3 16383, 9), (blockKey 0 0 0 0, 8)] } }
     unit9 ∈ s.flash.rebuilding ∧ 8 < s.flash.rereads.get (blockKey 63 3 3 16383) ∧ s.flash.rereads.get (blockKey 0 0 0 0) ≤ 8) := by decide +kernel

/-- The stream that feeds cell 4095, from a stacked copy. -/
def strm1 : Strm :=
  { user := .sliver 4095, region := 7, facet := 1, cls := 3, route := 0, persistent := false, toMemory := false, size := 512, tier := 1, base := 0,
    counts := [4], strides := [512], rate := 0, seq := 2, buffers := [], escapes := [], queue := [], taken := 0, waits := some 0 }
/-- A cycle through producer 5 that needs 16 buffers, or 17 of a pool of 8; one whose check comes in 1 ns; a sliver's block that has failed twice,
and one that has failed three times. -/
theorem witness_StreamsAreCheckedAndResent :
    (let w : Stall := ⟨7, 1, 2, 3, 5, 5, 16, 9⟩
     clocked on = true ∧ w.producer = w.otherProducer ∧ stallWaited on w = true ∧ (on.mem.stalls.all fun x => x.1.region != w.region) = true ∧
     olderStream w = (2, 16) ∧ 0 < min (on.mem.escapes.getD w.region 0) (min 16 16) ∧ 16 ≤ min (on.mem.escapes.getD w.region 0) (min 16 16)) ∧
    (let w : Stall := ⟨0, 1, 2, 3, 5, 5, 17, 9⟩
     let s := { on with mem := { Mem.reset with escapes := [8] } }
     stallWaited s w = true ∧ 0 < min (s.mem.escapes.getD w.region 0) (min 16 (olderStream w).2) ∧
     min (s.mem.escapes.getD w.region 0) (min 16 (olderStream w).2) < min 16 (olderStream w).2) ∧
    (let w : Stall := ⟨7, 1, 2, 3, 5, 5, 17, 9⟩
     let s := { on with brd := { board with clk := 399 }, mem := { Mem.reset with stalls := [({ w with need := 1 }, some 0)] } }
     clocked s = true ∧ (s.mem.stalls.any fun x => sameStall w x.1) = true ∧ (s.mem.stalls.all fun x => !stallDue s w.region x) = true) ∧
    (let w : Stall := ⟨7, 1, 2, 3, 5, 6, 16, 9⟩
     w.producer ≠ w.otherProducer) ∧
    (let s := { searching with srch := { searching.srch with resends := [((.sliver 4095, 0), 2), ((.sliver 4095, 1), 3)] } }
     consumerFacet s (.sliver 4095) < 64 ∧ look 0 (.sliver 4095, 0) s.srch.resends < 3 ∧ 3 ≤ look 0 (.sliver 4095, 1) s.srch.resends ∧
     storedCheck s (.sliver 4095) 0 ≠ some 5 ∧ storedCheck s (.sliver 4095) 1 ≠ some 5 ∧
     (let s := { s with mem := { Mem.reset with streams := [strm1], checks := [((1, 0, 0), [5])] } }
      storedCheck s (.sliver 4095) 0 = some 5)) ∧
    (let w : Stall := ⟨7, 1, 2, 3, 5, 5, 16, 9⟩
     let s := { on with brd := { board with clk := 400 }, mem := { Mem.reset with streams := [strm1] } }
     w.producer = w.otherProducer ∧ stallWaited s w = false ∧ stallWaited { s with brd := { board with clk := 401 } } w = true) := by
  decide +kernel

/-- A TRAIN with 128 triples and B 64: its first step, and the same on its way out, and with TRAIN's grants withheld. -/
def job (ending : Bool) : TrainJob :=
  { tag := 64, facet := 1, slot := 0, et := 0, phase := 3, nextMine := 0, vectors := [], lists := [], excluded := [], triples := [], reads := 0,
    failed := [], order := List.range 128, prng := 1, step := 0, epochNo := 0, w := [], v := [], loss := 0, startGen := 0, steps := 0,
    adapter := [], adapterV := [], acts := [], weights := [], encAd := (0, []), adapterSlot := none, ending := ending, partialFlag := false }
def trainer (ending : Bool) : State :=
  { on with cmds := [{ newCmd on .train eTrain 1 64 with phase := .running }], srch := { Search.reset with train := [job ending] } }

theorem witness_OptimiserStepsCount :
    (let s := trainer false
     s.srch.train.find? (·.tag == 64) = some (job false) ∧ (cmdOf s 64).isSome ∧ (((cmdOf s 64).map fun c => (c.index s).isSome)) = some true ∧
     mayGrant s 6 false = true ∧ (cmdOf s 64).map (fun c => decide (c.bb * ((job false).step + 1) < (job false).order.length)) = some true) ∧
    ((trainer true).srch.train.find? (·.tag == 64) = some (job true) ∧ (job true).ending = true ∧ (job true).phase = 3) ∧
    (let s := { trainer false with brd := { board with psNow := 2 } }
     mayGrant s 6 false = false) ∧
    (let j := { job false with step := 1 }
     (cmdOf (trainer false) 64).map (fun c => (decide (j.order.length ≤ c.bb * (j.step + 1)), decide (c.ee ≤ j.epochNo + 1), bit 0 (c.ar 2 1))) =
       some (true, true, true) ∧
     (cmdOf ({ trainer false with cmds := [{ newCmd on .train { eTrain with area := eTrain.area + 2 ^ 136 } 1 64 with phase := .running }] } : State) 64).map
       (fun c => (decide (j.order.length ≤ c.bb * (j.step + 1)), decide (j.epochNo + 1 < c.ee))) = some (true, true)) := by decide +kernel

-- Configuration, facets, power.

def load1 (part : Bool) : Load := ⟨5, [], cfg1, part, 1, 1⟩
def loading (part : Bool) : State := { on with lat := { Lat.reset with load := some (load1 part) }, facets := [{ facet1 with paused := true }] }

theorem witness_LatticeLoadsApplyOrFail :
    ((loading false).lat.load = some (load1 false) ∧ (load1 false).part = false ∧ drained (loading false) = true) ∧
    ((loading true).lat.load = some (load1 true) ∧ (load1 true).part = true ∧ loadFacets (loading true) (load1 true) = [1] ∧
      ((loadFacets (loading true) (load1 true)).all fun f => (facetOf (loading true) f).paused && facetIdle (loading true) f) = true) ∧
    (regionOwners (loading true) 0).map (·.facet) = [1] := by
  decide +kernel

/-- SET_FEATURE of PS3 as the only command, and with another one; 1 s after it was fetched. -/
def toPs3 (cs : List Cmd) : State :=
  { on with brd := { board with trans := some ⟨5, 3, 0⟩, clk := 1000000000 }, cmds := { newCmd on .setFeature (eSet 1 0 3) 0 5 with phase := .running } :: cs }

theorem witness_PowerStatesAndLimiter_state :
    ((toPs3 []).brd.trans = some ⟨5, 3, 0⟩ ∧ (cmdOf (toPs3 []) 5).isSome ∧ entryDone (toPs3 []) ⟨5, 3, 0⟩ = true) ∧
    (entryDone (toPs3 [waiting]) ⟨5, 3, 0⟩ = false ∧ 0 + 1000000000 ≤ now (toPs3 [waiting])) := by decide +kernel

/-- The factory caps are 820 W and 200 A: 821 W at 54 V; 10 ms well under the caps. -/
theorem witness_PowerStatesAndLimiter_limit :
    (on.brd.mainPower = true ∧ 1000 * on.fnc.power < 54000 * 15204 / 1000) ∧
    (on.brd.limiter = false ∧ on.brd.overSince = none ∧ on.brd.cleanSince = none ∧
      overCap { on with brd := { on.brd with mV := 54000, mA := 1000 } } = false) ∧
    (let s := { on with brd := { board with cleanSince := some 0, clk := 10000000 } }
     0 + 10000000 ≤ now s ∧ overCap { s with brd := { s.brd with mV := 54000, mA := 1000 } } = false ∧
     wellUnder { s with brd := { s.brd with mV := 54000, mA := 1000 } } = true ∧
     underAll { s with brd := { s.brd with mV := 54000, mA := 1000 } } = true ∧ clockHeld s = false) ∧
    (let s := { on with brd := { board with overSince := some 0, clk := 50000 } }
     (s.brd.overSince.any fun x => x + 50000 ≤ now s) = true ∧ 1000 * s.fnc.power < 54000 * 15204 / 1000) := by decide +kernel

-- Faults.

def kept (t : Nat) : State := { on with brd := { board with clk := t }, facets := [{ facet1 with kaMs := 10 }] }

theorem witness_TimersFreezeFacetsAndProcessors :
    (kaRuns (kept 10000000) 1 = true ∧ ((kept 10000000).qps.any fun q => q.num != 0 && q.facet == 1 && !q.causes.contains 3) = true ∧
      (facetOf (kept 10000000) 1).state = 1 ∧ 0 + 1000000 * (facetOf (kept 10000000) 1).kaMs ≤ now (kept 10000000)) ∧
    now (kept 9999999) < 0 + 1000000 * (facetOf (kept 9999999) 1).kaMs ∧
    (let s := { on with facets := [{ facet1 with state := 3, teardown := some 4 }] }
     (facetOf s 1).teardown = some 4 ∧ scrubLeft s 1 = false) ∧
    (facetOf ({ kept 10000000 with facets := [{ facet1 with kaMs := 10, state := 0 }] } : State) 1).state = 0 ∧
    kaRuns { kept 10000000 with facets := [{ facet1 with kaMs := 10, state := 0 }] } 1 = true ∧
    (clocked (kept 10000000) = true ∧ (kept 10000000).srch.expired.contains 7 = false ∧ look 0 7 (kept 10000000).srch.watch + 10000000 ≤ now (kept 10000000)) ∧
    (on.fw.running < 2 ∧
      ({ on with srch := { Search.reset with expired := [0] }, qps := [{ admin with state := 2, causes := [5] }] } : State).srch.expired.contains 0 = true) := by
  decide +kernel

theorem witness_FencesAndFatalErrors :
    clocked searching = true ∧ cellLive searching 4095 = true ∧ (cellOf searching 4095).run = some (run1 63) ∧
    (cellOf searching 4095).held + 4096000 / max 1 searching.brd.coreMhz ≤ now searching ∧ 127 ∉ searching.srch.blocksOut ∧
    7 ∉ searching.srch.regionsOut ∧ 7 ∈ ({ searching.srch with regionsOut := [7] } : Search).regionsOut := by decide +kernel

/-- A row remapped already: no spare for it again, with a frame in the pool and with none. -/
theorem witness_MemoryErrorsAreContained :
    (let s := { on with mem := { Mem.reset with remapped := [(7, 31, 0, 5)] } }
     clocked s = true ∧ ¬ (s.mem.remapped.contains (7, 31, 0, 5) = false ∧ 0 < sparesLeft s 7 31 0) ∧ 0 < s.mem.pool) ∧
    (let s := { on with mem := { Mem.reset with remapped := [(7, 31, 0, 5)], pool := 0 } }
     ¬ (s.mem.remapped.contains (7, 31, 0, 5) = false ∧ 0 < sparesLeft s 7 31 0) ∧ s.mem.pool = 0) ∧
    (let s := { on with mem := { Mem.reset with rebuilding := [(7, 9, true, false)], pool := 63 } }
     s.mem.rebuilding.find? (·.2.1 == 9) = some (7, 9, true, false) ∧ s.mem.pool < 64) := by
  refine ⟨⟨by decide +kernel, fun h => ?_, by decide +kernel⟩, ⟨fun h => ?_, by decide +kernel⟩, by decide +kernel⟩ <;> exact absurd h.1 (by decide +kernel)

/-- A row with a spare, where the bank has one; a frame that holds something of facet 1. -/
theorem witness_MemoryErrorsAreContained_spare (h : 0 < Config.spareRows 255 0) :
    on.mem.remapped.contains (7, 31, 0, 5) = false ∧ 0 < sparesLeft on 7 31 0 := ⟨by decide +kernel, by simpa [sparesLeft, on, State.reset, Mem.reset] using h⟩
theorem witness_MemoryErrorsAreContained_facets (h : 1 ∈ Config.frameFacets 7 9) : ∃ f ∈ frameHolders on 7 9, (facetOf on f).state = 1 := by
  refine ⟨1, ?_, by decide +kernel⟩
  have hc : on.mem.checks = [] := rfl
  have h1 : 1 ∈ (Config.frameFacets 7 9).filter (· < 64) := List.mem_filter.mpr ⟨h, by decide⟩
  simpa only [frameHolders, hc, List.filter_nil, List.map_nil, List.nil_append, mem_nub] using h1

/-- A cell that runs a sliver of the list whose copy fails, a query whose tag and context a part names. -/
theorem witness_MemoryErrorsAreContained_stacked :
    (searching.srch.cells.any fun x => x.run.any fun v => v.facet == 1 && v.slot == 0) = true ∧
    (searching.srch.queries.any fun q => ofTag 64 q) = true ∧ (trainer false).srch.train.find? (·.tag == 64) = some (job false) := by decide +kernel

/-- Sensor 8, the compute die, at its trip point, unchanged and changed, just below its throttle point and 2 °C below it. -/
theorem witness_TemperaturesRuleTheState :
    (on.brd.mainPower = true ∧ 9 < on.brd.thermal.length ∧ on.brd.thermal.length = on.brd.temps.length ∧ thermalNext 8 (on.brd.thermal.getD 8 0) 0 = 0 ∧
      thermalNext 8 (on.brd.thermal.getD 8 0) 110 ≠ 0 ∧ (points 8).getD 6 0 ≤ 120) ∧
    (2 ≤ thermalNext 8 (on.brd.thermal.getD 8 0) 106 ∧ ¬ 2 ≤ thermalNext 8 (on.brd.thermal.getD 8 0) 96) ∧
    (clockHeld on = false ∧ hotAlert on = false ∧ ({ on.brd with limiter := true } : Board).limiter = true) := by decide +kernel

-- Rails, pins and reset.

theorem witness_RailsAndModuleReset :
    (({ board with main54 := false } : Board).main54 = false ∧ board.main54 = true ∧ board.aux5 = true ∧ ({ board with aux5 := false } : Board).aux5 = false) ∧
    (let b := { Board.reset with rst := PinSt.reset true, main54 := false, phase := .off }
     b.main54 = false ∧ b.aux5 = true ∧ b.rst.accepted = true ∧ (if b.aux5 && b.phase == .off then RunPhase.held else b.phase) = .held) ∧
    (let b := { Board.reset with main54 := false, phase := .off }
     b.main54 = false ∧ ¬ (b.aux5 = true ∧ b.rst.accepted = true)) ∧
    (let b := { Board.reset with rst := PinSt.reset true, aux5 := false, phase := .off }
     b.aux5 = false ∧ b.main54 = true ∧ b.rst.accepted = true ∧ (if b.main54 && b.phase == .off then RunPhase.held else b.phase) = .held) ∧
    (let b := { Board.reset with aux5 := false, main54 := false, phase := .off }
     b.aux5 = false ∧ ¬ (b.main54 = true ∧ b.rst.accepted = true)) ∧
    (on.brd.aux5 = true ∧ on.brd.rst.accepted = true ∧ lockedOut on on.brd.rst = false) ∧
    (let s := { on with brd := { board with rst := { board.rst with lockEnd := some 1 } } }
     lockedOut s s.brd.rst = true) ∧ State.reset.brd.rst.accepted = false ∧ State.reset.brd.aux5 = true := by decide +kernel

/-- MOD_RST# asserted with both rails up, as after reset, and with MAIN_54V off. -/
theorem witness_ReleaseStartsTheModule :
    (State.reset.brd.aux5 = true ∧ State.reset.brd.rst.accepted = false ∧ lockedOut State.reset State.reset.brd.rst = false ∧
      State.reset.brd.main54 = true ∧ State.reset.brd.phase = .held) ∧
    (let s := { State.reset with brd := { Board.reset with main54 := false } }
     s.brd.aux5 = true ∧ s.brd.rst.accepted = false ∧ lockedOut s s.brd.rst = false ∧ s.brd.main54 = false) ∧
    (let s := State.reset
     fwStarts ⟨true, true, [], [], [], true, true⟩ s s.fw.selected = true ∧ fwStarts ⟨true, true, [], [], [], false, false⟩ s s.fw.selected = false ∧
     fwStarts ⟨true, true, [], [], [], false, false⟩ s (1 - s.fw.selected) = false) ∧
    (let s := { State.reset with fw := { Firmware.reset with selected := 1 } }
     fwStarts ⟨true, true, [], [], [], true, true⟩ s s.fw.selected = false ∧ fwStarts ⟨true, true, [], [], [], true, true⟩ s (1 - s.fw.selected) = true) := by decide +kernel

/-- A copy that boot code can read and that checks verifies; one that it cannot read does not. -/
theorem witness_ReleaseStartsTheModule_copies (fz : Fuses) (i j : BootImage) (h : checkBoot fz (bootBytes i) = .ok j) :
    (verifyCopy fz true (some i)).2 = some j.fence ∧ (verifyCopy fz false (some i)).2 = none := by
  simp [verifyCopy, h]

theorem witness_RebuildTakesTheClosedEpoch :
    (let s := { on with brd := { board with phase := .starting }, facets := [{ facet1 with rebuilt := false }] }
     s.brd.phase = .starting ∧ s.fw.running < 2 ∧ waitsRebuild s (facetOf s 1) = true) := by decide +kernel

def braking (accepted filtered : Bool) (e : Option Nat) : State :=
  { on with brd := { board with brake := { board.brake with accepted := accepted, filtered := filtered, lockEnd := e } } }

theorem witness_PinsAreFiltered :
    (on.brd.aux5 = true ∧ on.brd.rst.accepted = true ∧ on.brd.brake.accepted = true ∧ lockedOut on on.brd.brake = false) ∧
    ((braking false false none).brd.brake.accepted = false ∧ lockedOut (braking false false none) (braking false false none).brd.brake = false) ∧
    ((braking false true (some 1)).brd.brake.filtered ≠ false ∧ (braking false true (some 1)).brd.brake.accepted = false ∧
      lockedOut (braking false true (some 1)) (braking false true (some 1)).brd.brake = true) ∧
    ((braking false false (some 1)).brd.brake.filtered ≠ true ∧ (braking false false (some 1)).brd.brake.accepted ≠ true ∧ lockedOut (braking false false (some 1)) (braking false false (some 1)).brd.brake = true) ∧
    (on.brd.brake.filtered ≠ false ∧ on.brd.brake.accepted ≠ false) ∧
    ((braking true true (some 0)).brd.brake.lockEnd = some 0 ∧ 0 ≤ (braking true true (some 0)).brd.aon ∧ (braking true true (some 0)).brd.brake.filtered = true) ∧
    ((braking true false (some 0)).brd.brake.filtered ≠ (braking true false (some 0)).brd.brake.accepted) := by decide +kernel

theorem witness_AlwaysOnTimersFire :
    (let s := { icy with brd := { board with aon := 10000000000 } }
     s.brd.aux5 = true ∧ s.evr.frozen = true ∧ s.evr.freezeAt + 10000000000 ≤ s.brd.aon) ∧
    (let s := { icy with brd := { board with aon := 9999999999 } }
     s.evr.frozen = true ∧ s.brd.aon < s.evr.freezeAt + 10000000000) ∧
    (let s := { on with brd := { board with aon := 1000000000 } }
     s.brd.aux5 = true ∧ 1000000000 * (s.evr.secNo + 1) ≤ s.brd.aon ∧ s.side.refreshAt + 100000000 ≤ s.brd.aon) ∧
    (on.brd.aon < 1000000000 * (on.evr.secNo + 1) ∧ on.brd.aon < on.side.refreshAt + 100000000) := by decide +kernel

-- Chord links and domains.

def upLink1 : Link := { Link.reset 1 with st := 2, lanes := 4, fails := 0, rxNext := 7, replay := [(1, zeros 256), (2, zeros 256)] }
def linked (l : Link) : State := { on with chd := { Chord.reset with links := [Link.reset 0, l, Link.reset 2, Link.reset 3] } }

/-- A body of 252 bytes with a number in its last four. -/
theorem sealed_crc (b : Bytes) (n : Nat) (hb : b.length = 252) (hn : n < 2 ^ 32) :
    field 0xFC 4 (b ++ leBytes 4 n) = n ∧ (b ++ leBytes 4 n).take 0xFC = b := by
  have hl : leNat (leBytes 4 n) = n := by
    simp [leBytes, leNat]
    omega
  constructor
  · have ht : (leBytes 4 n).take 4 = leBytes 4 n := List.take_of_length_le (by simp)
    simp [field, slice, hb, ht, hl]
  · simp [hb]

/-- The body of a data flit of sequence n that is a whole message without payload. -/
def flitBody (n : Byte) : Bytes := [1, 0, n, 0, 0, 0, 0, 0, 0, 0, 3, 0] ++ zeros 240

theorem flitBody_length (n : Byte) : (flitBody n).length = 252 := by
  unfold flitBody zeros
  rw [List.length_append, List.length_replicate]
  rfl

/-- The body with its own CRC, or with the CRC off by one. -/
def dataFlit (n : Byte) (off : Nat) : Bytes := flitBody n ++ leBytes 4 (((crc32c (flitBody n)).toNat + off) % 2 ^ 32)

theorem dataFlit_good (n : Byte) : field 0xFC 4 (dataFlit n 0) = (crc32c ((dataFlit n 0).take 0xFC)).toNat := by
  have h := sealed_crc (flitBody n) (((crc32c (flitBody n)).toNat + 0) % 2 ^ 32) (flitBody_length n) (Nat.mod_lt _ (by decide))
  unfold dataFlit
  rw [h.1, h.2]
  omega

theorem dataFlit_bad (n : Byte) : field 0xFC 4 (dataFlit n 1) ≠ (crc32c ((dataFlit n 1).take 0xFC)).toNat := by
  have h := sealed_crc (flitBody n) (((crc32c (flitBody n)).toNat + 1) % 2 ^ 32) (flitBody_length n) (Nat.mod_lt _ (by decide))
  unfold dataFlit
  rw [h.1, h.2]
  omega

theorem witness_FlitsAreDeliveredInOrder :
    (linkUsable (linked upLink1) 1 = true ∧ (dataFlit 7 0).length = 256 ∧ (dataFlit 7 1).length = 256 ∧ ((dataFlit 7 0).getD 0 0).toNat = 1 ∧
      field 2 2 (dataFlit 7 0) = (linkOf (linked upLink1) 1).rxNext ∧ bit 0 (field 0x0A 2 (dataFlit 7 0)) = true ∧
      bit 1 (field 0x0A 2 (dataFlit 7 0)) = true ∧ field 2 2 (dataFlit 8 0) ≠ (linkOf (linked upLink1) 1).rxNext ∧
      ((linkOf (linked upLink1) 1).replay.filter fun r => !acked 1 r).length = 1 ∧ (linkOf (linked upLink1) 1).awaitAck = false) ∧
    (let x := linkOf (linked upLink1) 1
     (dataFlit 8 0).length = 256 ∧ x.replay.filter (fun r => !acked (field 4 2 (dataFlit 7 0)) r) = x.replay) ∧
    (linkUsable (linked { upLink1 with awaitAck := true }) 1 = true ∧ (linkOf (linked { upLink1 with awaitAck := true }) 1).awaitAck = true) ∧
    field 0xFC 4 (dataFlit 7 0) = (crc32c ((dataFlit 7 0).take 0xFC)).toNat ∧ field 0xFC 4 (dataFlit 8 0) = (crc32c ((dataFlit 8 0).take 0xFC)).toNat ∧
    field 0xFC 4 (dataFlit 7 1) ≠ (crc32c ((dataFlit 7 1).take 0xFC)).toNat :=
  ⟨by decide +kernel, by decide +kernel, by decide +kernel, dataFlit_good 7, dataFlit_good 8, dataFlit_bad 7⟩

theorem witness_LinksChangeState :
    (8 ≤ (linkOf (linked { upLink1 with fails := 8 }) 1).fails ∧ (linkOf (linked { upLink1 with fails := 8 }) 1).st = 2) ∧
    (8 ≤ (linkOf (linked { upLink1 with fails := 8, st := 3 }) 1).fails ∧ (linkOf (linked { upLink1 with st := 3 }) 1).st = 3) ∧
    (linkOf (linked { upLink1 with fails := 7 }) 1).fails < 8 ∧ (linkOf (linked { upLink1 with st := 1 }) 1).st = 1 ∧
    (let s := { linked { upLink1 with st := 4 } with brd := { board with clk := 1000000000 } }
     (linkOf s 1).st = 4 ∧ (linkOf s 1).tryAt + 1000000000 ≤ now s) ∧ (linkOf (linked upLink1) 1).st ≠ 4 := by decide +kernel

/-- Node 1 of a domain of three: its parent 0 on link 1, its child 2 on link 2. -/
def tree3 : Tree := ⟨1, 3, 1, [⟨0, 0xFFFF, 1, 0xFF, [1], [0]⟩, ⟨1, 0, 1, 1, [2], [2]⟩, ⟨2, 1, 0, 0, [], []⟩]⟩
def cast9 : Cast := ⟨1, 0, 0, 9, 0, 2, 100, eQuery.area, zeros 64⟩
def dom9 : DomQ :=
  { qid := 9, root := false, tag := noTag, facet := 1, slot := 0, cls := 0, k := 1, area := eQuery.area, records := zeros 64, boundary := 0,
    fetched := 0, d := 100, waitBoundary := true, unsent := [2], sending := [], waiting := [2], lost := [], own := none, ownRes := [], got := [], closed := false }
def joined (t : Nat) (d : List DomQ) : State :=
  let l := linked { upLink1 with replay := [] }
  { l with cfg := { cfg1 with tree := some tree3 }, brd := { board with clk := t }, chd := { l.chd with dom := d } }

theorem witness_CastsGapsAndTurns :
    (upLink (joined 0 []) = 1 ∧ (joined 0 []).chd.ignored.contains cast9.qid = false ∧ domOf (joined 0 []) cast9.qid = none ∧
      (areaCmd cast9.area).queries ≠ 0 ∧ shardMissing (joined 0 []) cast9.facet cast9.slot cast9.area = false ∧
      (∀ p ∈ childLinks (joined 0 []), (linkOf (joined 0 []) p.2).st ≠ 4)) ∧
    ((domOf (joined 0 [dom9]) cast9.qid).isSome = true ∧ 2 ≠ upLink (joined 0 [])) := by decide +kernel

/-- One batch step after the cast; one ns before the cut-off, at it, and 2 µs behind it; the child 2 is silent. -/
theorem witness_GathersEndWithoutTheSilent :
    (domOf (joined 0 [dom9]) 9 = some dom9 ∧ dom9.waiting.contains 2 = true ∧ dom9.own = none ∧ dom9.count ≠ 0 ∧ dom9.waiting.contains 3 = false) ∧
    (dom9.unsent.contains 2 = true ∧ boundaryTime (joined 25600 [dom9]) dom9.boundary + 25600 ≤ now (joined 25600 [dom9])) ∧
    (cutOff (joined 91000 [dom9]) dom9 ≤ now (joined 91000 [dom9]) ∧ now (joined 91000 [dom9]) < sendBy (joined 91000 [dom9]) dom9) ∧
    now (joined 90999 [dom9]) < cutOff (joined 90999 [dom9]) dom9 ∧
    (let s := joined 93000 [dom9]
     sendBy s dom9 ≤ now s ∧ (s.chd.dom.filter (·.qid == 9)).length = 1 ∧ dom9.root = false ∧ linkUsable s (upLink s) = true ∧ 0 < dom9.count ∧
     lostNodes s 2 = 1) := by decide +kernel

-- Migration.

/-- Link 1, slot 0, facet 1: copied when bit 14 is set. -/
def migr (role phase : Nat) (copy : Bool) : State :=
  { linked { upLink1 with replay := [] } with chd := { (linked { upLink1 with replay := [] }).chd with mig := { Mig.reset with
      role := role, phase := phase, ctrl := if copy then 0x5001 else 0x1001, accept := 0x1201, building := some (mkIndex geoC) } } }

theorem witness_MigrationRegistersAct :
    (migRunning (migr 1 4 false).chd.mig = true ∧ migRunning (migr 0 0 false).chd.mig = false) ∧
    (linkUsable (migr 0 0 false) ((0x11001#64).toNat / 4096 % 4) = true ∧ (usableIdx (migr 0 0 false) 1 0).isSome = true ∧
      (0x11001#64).toNat % 256 = 1 ∧ (0x11001#64).toNat / 256 % 16 = 0) ∧
    linkUsable (migr 0 0 false) ((0x12001#64).toNat / 4096 % 4) = false := by decide +kernel

/-- An offer of slot 2, for which the target is armed: taken, for another slot, and of an index too large. -/
theorem witness_MigrationTargetReceives :
    offerError (popDelivered 1 3 (migr 2 1 false)) 1 1 2 { geoC with slot := 2 } 0 0 = 0 ∧
    offerError (popDelivered 1 3 (migr 2 1 false)) 1 1 3 { geoC with slot := 3 } 0 0 = 1 ∧
    offerError (popDelivered 1 3 (migr 2 1 false)) 1 1 2 { geoC with slot := 2 } (2 ^ 40) 0 = 5 ∧
    ((migr 2 2 false).chd.mig.role = 2 ∧ migRunning (migr 2 2 false).chd.mig = true ∧ migLink (migr 2 2 false).chd.mig = 1 ∧
      (migr 2 2 false).chd.mig.phase = 2 ∧ (migr 2 2 false).chd.mig.building.isSome = true) ∧ (migr 2 3 false).chd.mig.phase = 3 ∧
    (let m := migr 2 4 false
     let s := { m with brd := { board with clk := 25600 }, chd := { m.chd with mig := { m.chd.mig with publish := true } } }
     s.chd.mig.role = 2 ∧ s.chd.mig.publish = true ∧ s.chd.mig.building = some (mkIndex geoC) ∧ s.chd.mig.writes = [] ∧ clocked s = true ∧
     s.srch.stepNo < 3 ∧ s.brd.turnStart + 25600 * (s.srch.stepNo + 1) ≤ now s ∧ s.facets.any (·.num == migFacet s.chd.mig) = true) := by
  decide +kernel

theorem witness_MigrationSourceEnds :
    ((migr 1 1 false).chd.mig.role = 1 ∧ migRunning (migr 1 1 false).chd.mig = true ∧ migLink (migr 1 1 false).chd.mig = 1 ∧
      (migr 1 1 false).chd.mig.phase = 1) ∧
    ((migr 1 4 true).chd.mig.phase = 4 ∧ bit 14 (migr 1 4 true).chd.mig.ctrl.toNat = true ∧ bit 14 (migr 1 4 false).chd.mig.ctrl.toNat = false ∧
      idxOf (migr 1 4 true) (migFacet (migr 1 4 true).chd.mig) (migSlot (migr 1 4 true).chd.mig) = some (mkIndex geoC)) ∧
    (let m := (migr 1 2 false).chd.mig
     let down := linked { upLink1 with st := 4, downAt := 5 }
     let s := fun (t : Nat) => ({ down with chd := { down.chd with mig := m }, brd := { board with clk := t } } : State)
     migRunning m = true ∧ linkUsable (s 10000000005) (migLink m) = false ∧
       (linkOf (s 10000000005) (migLink m)).downAt + 10000000000 ≤ now (s 10000000005) ∧
       now (s 10000000004) < (linkOf (s 10000000004) (migLink m)).downAt + 10000000000) ∧
    migRunning (migr 0 0 false).chd.mig = false := by decide +kernel

-- The sideband.

theorem witness_SidebandBaseCommandsAnswer :
    on.brd.aux5 = true ∧ ((1#8) ≠ 0 ∧ (0xFE#8) ≠ 0xFF) ∧ pldmCommands 1 = [] ∧ pldmCommands 4 ≠ [] ∧ (pldmCommands 4).contains 3 = false := by
  decide +kernel

theorem witness_SidebandReadingsAnswer : on.brd.aux5 = true ∧ on.side.sensors[13]? = some 0 ∧ on.side.sensors[14]? = none := by decide +kernel

def failed : State := { on with side := { Side.reset with bootFailed := true } }

/-- The last block that fits, and an empty buffer, which is too short. -/
theorem witness_RecoveryStoresAConfiguration :
    failed.brd.aux5 = true ∧ failed.side.bootFailed = true ∧ cellsWf 0 failed.side.buf = true ∧ (zeros 240).length ≤ 240 ∧ zeros 240 ≠ [] ∧
    65296 + (zeros 240).length ≤ 65536 ∧ 240 < (zeros 241).length ∧ 65536 < 65297 + (zeros 240).length ∧ verifyBuffer failed = (4, none) ∧
    on.side.bootFailed = false := by decide +kernel

/-- A buffer that was written whole and that checks verifies. -/
theorem witness_RecoveryStoresAConfiguration_good (f : BootImage) (b : List Host.Cell) (n : Nat) (hn : n % 2 ^ 7088 = 2 ^ 7088 - 1)
    (h : checkBoot failed.fuse (cellRead 0 7088 b) = .ok f) :
    verifyBuffer { failed with side := { failed.side with buf := b, got := n } } = (2, some f) := by
  have h' : checkBoot ({ failed with side := { failed.side with buf := b, got := n } } : State).fuse (cellRead 0 7088 b) = .ok f := h
  simp only [verifyBuffer, h', hn, bne_self_eq_false, Bool.false_eq_true, if_false]
theorem witness_RecoveryStoresAConfiguration_got : (2 ^ 65536 - 1) % 2 ^ 7088 = 2 ^ 7088 - 1 := by decide +kernel

-- Grants, and the forms that wait for them.

/-- The same with a read of the FETCH in service on channel 63. -/
def withRead : State := { withCmd with flash := { Flash.reset with dies := [⟨63, 3, [⟨3, 0, none, 5, true, false, ⟨1, 0, 0, 0, 9⟩, .fetch 64 []⟩], [], none, false⟩] } }

/-- Nothing of the command runs, and a read of it does. -/
theorem witness_AbortAndResumeTakeEffect_busy :
    busyOf (taken .abort eAbort withCmd admin (tagA withCmd)) 64 = [] ∧ Accepted .abort eAbort withRead admin (tagA withRead) ∧
    busyOf (taken .abort eAbort withRead admin (tagA withRead)) 64 = [.read 5] :=
  ⟨by decide +kernel, accepted_of (by decide +kernel) (by decide +kernel), by decide +kernel⟩

/-- Without a region left; and with a list of four positions and no HBM to re-sketch it in. -/
theorem witness_IndexCommandsBegin_refused :
    (let s := { pending1 with srch := { Search.reset with regionsOut := [0] } }
     Accepted .resketch eResketch s pair3 (tagI s) ∧ noRegion (taken .resketch eResketch s pair3 (tagI s)) 1 = true ∧
     migHolds (taken .resketch eResketch s pair3 (tagI s)) 1 0 = false ∧
     (theCmd .resketch eResketch s pair3 (tagI s)).index (taken .resketch eResketch s pair3 (tagI s)) = some pendIx ∧
     ((pendIx.lists.map fun d => (curCopy d).pos.length).foldl max 0) * (pendIx.geo.sketchBits / 8 + 8) ≤
        hbmFree (taken .resketch eResketch s pair3 (tagI s)) 1) ∧
    (let big := { pendIx with lists := [⟨0, some 0, some 0, [⟨0, 0, List.replicate 4 ⟨⟨0, [], 0, 0⟩, 0, false, 0⟩, 0, 0⟩]⟩] }
     let s := { io with idx := [big, mkIndex geoG], cfg := { cfg1 with facets := [{ facetRow with hbm := 0 }] } }
     Accepted .resketch eResketch s pair3 (tagI s) ∧ migHolds (taken .resketch eResketch s pair3 (tagI s)) 1 0 = false ∧
     (theCmd .resketch eResketch s pair3 (tagI s)).index (taken .resketch eResketch s pair3 (tagI s)) = some big ∧ big.trans = none ∧
     hbmFree (taken .resketch eResketch s pair3 (tagI s)) 1 <
       ((big.lists.map fun d => (curCopy d).pos.length).foldl max 0) * (big.geo.sketchBits / 8 + 8)) := by
  refine ⟨⟨accepted_of ?_ ?_, ?_, ?_, ?_, ?_⟩, ⟨accepted_of ?_ ?_, ?_, ?_, ?_, ?_⟩⟩ <;> decide +kernel

theorem hbmJobs_plain (s : State) (f slot key base : Nat) (r : Nat × Nat) : (hbmJobs s f slot key base r).all (fun j => j.die.isNone) = true := by
  unfold hbmJobs
  rw [List.all_flatMap, List.all_eq_true]
  intro p _
  dsimp only
  split <;> simp [flashJobs, unitJob, runJob]

theorem sliverJobs_plain (s : State) (c : Nat) (ix : Index) (v : Sliver) : (sliverJobs s c ix v).all (fun j => j.die.isNone) = true := by
  unfold sliverJobs
  dsimp only
  simp only [List.all_append, byteJobs, hbmJobs_plain, List.all_cons, List.all_nil, tickJob, Option.isNone_none, Bool.and_true]
  split
  · rfl
  · exact hbmJobs_plain _ _ _ _ _ _

/-- A sliver whose pieces are granted, and one on a borrowed cell that waits for one more while nothing is granted (PS3). -/
theorem witness_SliverFinishCommitsCandidates_pieces :
    (runJobs 1 0 .ended ((run1 63).wait.getD (sliverJobs searching 4095 (mkIndex geoC) (run1 63))) (useFree searching)).1 = [] ∧
    (let v := { run1 63 with wait := some [runJob 0 1 none] }
     let s := { searching with brd := { board with clk := 75000, psNow := 3 },
                               srch := { searching.srch with cells := [⟨4095, some v, 0, none, true, false, 0⟩] } }
     (cellOf s 4095).run = some v ∧ cellStands s (cellOf s 4095) = false ∧
     (runJobs 1 0 .ended (v.wait.getD (sliverJobs s 4095 (mkIndex geoC) v)) (useFree s)).1 ≠ []) :=
  ⟨quiet_runs _ _ _ (sliverJobs_plain _ _ _ _) (by decide +kernel), by decide +kernel, by decide +kernel, by decide +kernel⟩

/-- A cell that waits for a piece; a block of running cells that has something to switch to, with one context and with two, and one that has not. -/
theorem witness_CellsStageStealAndSwitch_switch :
    (let v := { run1 64 with wait := some [runJob 0 1 none] }
     let s := { searching with srch := { searching.srch with cells := [⟨4095, some v, 0, none, false, false, 0⟩] } }
     (cellOf s 4095).run = some v ∧ v.wait.isSome = true) ∧
    (let busy := (List.range 32).map fun n => (⟨32 + n, some { run1 0 with cls := 3 }, 0, none, false, false, 0⟩ : CellSt)
     let s := { searching with srch := { searching.srch with cells := busy, slivers := [{ run1 0 with gid := 2 }] } }
     (switchable s 1).find? (fun p => (switchOf s 1 p).isSome) = some (32, { run1 0 with cls := 3 }) ∧ (cellOf s 32).susp = none ∧
     switchTo s 1 (32, { run1 0 with cls := 3 }) = some ({ run1 0 with gid := 2 }, true)) ∧
    (let two : CellSt := ⟨32, some { run1 0 with cls := 3 }, 0, some { run1 0 with cls := 4 }, false, false, 0⟩
     let s := { searching with srch := { searching.srch with cells := [two], slivers := [], weights := turnWeights searching, spent := [((32, 1, 3), 256)] } }
     (switchable s 1).find? (fun p => (switchOf s 1 p).isSome) = some (32, { run1 0 with cls := 3 }) ∧
     (cellOf s 32).susp = some { run1 0 with cls := 4 } ∧ s.cfg.role 32 ≠ some 3) ∧
    (∀ p ∈ switchable searching 5, switchOf searching 5 p = none) := by decide +kernel

theorem writeJobs_plain (s : State) (ix : Index) (c : Cmd) : (writeJobs s ix c).all (fun j => j.die.isNone) = true := by
  unfold writeJobs
  dsimp only
  split <;> simp [ingestJob, tickJob, sketchJob]

/-- A write of each kind whose work is granted, and a DELETE in PS3, where nothing is. -/
theorem witness_WritesCommit_grants :
    (let c := { writing .insert eInsert 0 with data := [63] ++ zeros 31 }
     let s := { on with cmds := [c], idx := [side63, mkIndex geoG] }
     (allJobs c.facet 3 .ended (writeJobs s { side63 with work := none } c) s).isSome = true) ∧
    (let c := writing .delete eDelete 8
     let s := writes1 .delete eDelete 8 side63
     (allJobs c.facet 3 .ended (writeJobs s { side63 with work := none } c) s).isSome = true) ∧
    (let c := writing .labelUpdate eRelabel 16
     let s := writes1 .labelUpdate eRelabel 16 side63
     (allJobs c.facet 3 .ended (writeJobs s { side63 with work := none } c) s).isSome = true) ∧
    (let c := writing .delete eDelete 8
     let s := { writes1 .delete eDelete 8 side63 with brd := { board with psNow := 3 } }
     cmdOf s 64 = some c ∧ commitDue s c = true ∧ c.index s = some side63 ∧ sideUsed side63 + newSide side63 c (c.ids s) ≤ side63.geo.sideLimit ∧
     pendCount (facetOf s c.facet) + newPend side63 c (c.ids s) ≤ 65536 ∧
     allJobs c.facet 3 .ended (writeJobs s { side63 with work := none } c) s = none) := by
  refine ⟨quiet_all _ _ _ (writeJobs_plain _ _ _) (by decide +kernel), quiet_all _ _ _ (writeJobs_plain _ _ _) (by decide +kernel),
    quiet_all _ _ _ (writeJobs_plain _ _ _) (by decide +kernel), by decide +kernel, by decide +kernel, by decide +kernel, by decide +kernel,
    by decide +kernel, ?_⟩
  exact (barred_none _ _ _ [] (by decide) (by decide +kernel)).2

/-- A LABEL_UPDATE. -/
theorem witness_QueriesSeeWholeWrites_label :
    (let c := writing .labelUpdate eRelabel 16
     let s := writes1 .labelUpdate eRelabel 16 side63
     cmdOf s 64 = some c ∧ c.op = .labelUpdate ∧ noRegion s c.facet = false ∧ commitDue s c = true ∧ c.index s = some side63 ∧ side63.held = false ∧
     sideUsed side63 + newSide side63 c (c.ids s) ≤ side63.geo.sideLimit ∧ pendCount (facetOf s c.facet) + newPend side63 c (c.ids s) ≤ 65536) := by
  decide +kernel

/-- A change in progress, of some class, with pieces that are left and with some copies that are on flash. -/
def work1 (jobs : List Job) : Work := ⟨4, 0, [], [], jobs, []⟩
def left1 : Work := work1 [runJob 0 1 none]

/-- A move and a rewrite with a piece left, and with nothing that they publish on flash. -/
theorem witness_CompactionAndListRewrite_more :
    (let ix := { compactIx with staged := some (0, 1), work := some left1 }
     let s := { on with idx := [ix, mkIndex geoG] }
     idxOf s 1 0 = some ix ∧ jobsLeft ix = true) ∧
    (let ix := { compactIx with staged := some (1, 0), work := some left1 }
     let s := { on with idx := [ix, mkIndex geoG] }
     idxOf s 1 0 = some ix ∧ jobsLeft ix = true) ∧
    (let ix := { compactIx with staged := some (0, 1), work := some (work1 []) }
     let s := { on with idx := [ix, mkIndex geoG] }
     idxOf s 1 0 = some ix ∧ mayPublish s ix = true ∧ (batch s (facetOf s 1) ix 1).length = 1 ∧ movable s ix (batch s (facetOf s 1) ix 1) ≠ [] ∧
     written ix (movePlan s ix ((moveClass s ix).getD 4) (movable s ix (batch s (facetOf s 1) ix 1))) = false) ∧
    (let ix := { compactIx with staged := some (1, 0), work := some (work1 []) }
     let s := { on with idx := [ix, mkIndex geoG] }
     idxOf s 1 0 = some ix ∧ mayPublish s ix = true ∧ listFree s (facetOf s 1) ix (listOf ix 0) = true ∧ copyFits s (facetOf s 1) ix (listOf ix 0) = true ∧
     written ix (rewritePlan s ix (listOf ix 0)) = false) ∧
    (let ix := { compactIx with staged := some (0, 1) }
     let s := { on with idx := [ix, mkIndex geoG] }
     written ix (movePlan s ix ((moveClass s ix).getD 4) (movable s ix (batch s (facetOf s 1) ix 1))) = true) ∧
    (let ix := { compactIx with staged := some (1, 0) }
     let s := { on with idx := [ix, mkIndex geoG] }
     written ix (rewritePlan s ix (listOf ix 0)) = true) := by
  refine ⟨?_, ?_, ⟨?_, ?_, ?_, ?_, ?_⟩, ⟨?_, ?_, ?_, ?_, ?_⟩, rfl, rfl⟩ <;> decide +kernel

/-- A last partial unit with a piece left; one of an empty array with nothing of it on flash; and one with all of it. -/
theorem witness_GraphInsertAppendsNodes_more :
    (let ix := { graphIx with side := [ent0 0, ent0 1], committed := 2, staged := some (2, 2), work := some left1 }
     idxOf { on with idx := [mkIndex geoC, ix] } 1 1 = some ix ∧ jobsLeft ix = true) ∧
    (let ix := { graphIx with side := [ent0 0], committed := 1, staged := some (2, 1), work := some (work1 []), arrays := [⟨0, [], [], []⟩] }
     let s := { on with idx := [mkIndex geoC, ix] }
     idxOf s 1 1 = some ix ∧ mayPublish s ix = true ∧ (batch s (facetOf s 1) ix 1).length = 1 ∧
     written ix (insertPlan s ix ((moveClass s ix).getD 4) (batch s (facetOf s 1) ix 1)) = false) ∧
    (let ix := { graphIx with side := [ent0 0, ent0 1], committed := 2, staged := some (2, 2) }
     let s := { on with idx := [mkIndex geoC, ix] }
     written ix (insertPlan s ix ((moveClass s ix).getD 4) (batch s (facetOf s 1) ix 2)) = true) := by
  refine ⟨?_, ⟨?_, ?_, ?_, ?_⟩, rfl⟩ <;> decide +kernel

theorem pageJobs_plain (s : State) (us : List Unit') : (pageJobs s us).all (fun j => j.die.isNone) = true := by
  unfold pageJobs
  simp [unitJob]

/-- The read of a unit without deleted edges, granted and not; the work of the row with a piece left, with nothing on flash, and all of it. -/
theorem witness_SweepAndRenumbering_more :
    (allJobs 1 4 .ended (pageJobs graphing [⟨1, 1, 2, 0, 0⟩]) graphing).isSome = true ∧
    (let s := { graphing with brd := { board with limiter := true } }
     idxOf s 1 1 = some graphIx ∧ compactClass s 1 = some 4 ∧ mayStage s graphIx 4 = true ∧
     (sweepStep s graphIx (sweepOf (facetOf s 1) graphIx)).2 = false ∧ allJobs 1 4 .ended (pageJobs s [⟨1, 1, 2, 0, 0⟩]) s = none) ∧
    (let ix := { brokenIx (some (3, 0)) with work := some left1 }
     idxOf { on with idx := [mkIndex geoC, ix] } 1 1 = some ix ∧ jobsLeft ix = true) ∧
    (let ix := { brokenIx (some (3, 0)) with work := some (work1 []) }
     let s := { on with idx := [mkIndex geoC, ix] }
     idxOf s 1 1 = some ix ∧ mayPublish s ix = true ∧ written ix (sweepPlan s ix (sweepOf (facetOf s 1) ix)) = false) ∧
    (let s := { on with idx := [mkIndex geoC, brokenIx (some (3, 0))] }
     written (brokenIx (some (3, 0))) (sweepPlan s (brokenIx (some (3, 0))) (sweepOf (facetOf s 1) (brokenIx (some (3, 0))))) = true) := by
  refine ⟨quiet_all _ _ _ (pageJobs_plain _ _) (by decide +kernel), ⟨?_, ?_, ?_, ?_, ?_⟩, ?_, ⟨?_, ?_, ?_⟩, rfl⟩
  case refine_5 => exact (broke_none _ _ _ _ [] (by decide) rfl (by decide +kernel)).2
  all_goals decide +kernel

/-- A renumbering with a piece left, with nothing on flash, and all of it. -/
theorem witness_SweepAndRenumbering_again :
    (let ix := { graphIx with staged := some (4, 0), work := some left1 }
     idxOf { on with idx := [mkIndex geoC, ix] } 1 1 = some ix ∧ jobsLeft ix = true) ∧
    (let ix := { graphIx with staged := some (4, 0), work := some { work1 [] with order := [0] } }
     let s := { on with idx := [mkIndex geoC, ix] }
     idxOf s 1 1 = some ix ∧ mayPublish s ix = true ∧ written ix (renumberPlan s ix) = false) ∧
    (let ix := { graphIx with staged := some (4, 0) }
     written ix (renumberPlan { on with idx := [mkIndex geoC, ix] } ix) = true) := by
  refine ⟨?_, ⟨?_, ?_, ?_⟩, rfl⟩ <;> decide +kernel

/-- A list with a piece left, with nothing on flash, and all of it; and a chunk. -/
theorem witness_ResketchStepsAndEnds_more :
    (let ix := { compactIx with trans := some ⟨5, 0, 0, 0⟩, gen := 1, staged := some (5, 0), work := some left1 }
     idxOf { on with idx := [ix] } 1 0 = some ix ∧ jobsLeft ix = true) ∧
    (let ix := { compactIx with trans := some ⟨5, 0, 0, 0⟩, gen := 1, staged := some (5, 0), work := some (work1 []) }
     let s := { on with idx := [ix] }
     idxOf s 1 0 = some ix ∧ mayPublish s ix = true ∧ (resketchPlan s ix ⟨5, 0, 0, 0⟩).map (written ix) = some false) ∧
    (let ix := { compactIx with trans := some ⟨5, 0, 0, 0⟩, gen := 1, staged := some (5, 0) }
     (resketchPlan { on with idx := [ix] } ix ⟨5, 0, 0, 0⟩).map (written ix) = some true) ∧
    (let ix := { graphIx with trans := some ⟨5, 0, 0, 0⟩, gen := 1, staged := some (5, 0) }
     (resketchPlan { on with idx := [ix] } ix ⟨5, 0, 0, 0⟩).map (written ix) = some true) := by
  refine ⟨?_, ⟨?_, ?_, ?_⟩, ?_, ?_⟩ <;> decide +kernel

theorem patrolJobs_plain (s : State) (hbm flash : Bool) (f : Nat) : (patrolJobs s hbm flash f).all (fun j => j.die.isNone) = true := by
  unfold patrolJobs
  dsimp only
  rw [List.all_append, Bool.and_eq_true]
  constructor
  · split <;> simp [runJob]
  · split
    · rw [List.all_append, pageJobs_plain]
      simp [unitJob]
    · rfl

theorem patrol_one {s : State} (hbm flash : Bool) {r : FacetRec} (h : s.cfg.facets = [r]) :
    s.cfg.facets.foldl (fun (acc : Option State) r => acc.bind fun t => allJobs r.facet 7 .ended (patrolJobs t hbm flash r.facet) t) (some s) =
      allJobs r.facet 7 .ended (patrolJobs s hbm flash r.facet) s := by rw [h]; rfl

/-- A checkpoint that is granted and one that is not (PS2); a patrol pass that is granted, and one without budgets while nothing may borrow. -/
theorem witness_MemoryAndFlashUpkeep_grants :
    (allJobs 1 4 .ended [ingestJob on] on).isSome = true ∧
    (let s := { on with brd := { board with psNow := 2 } }
     allJobs 1 4 .ended [ingestJob s] s = none) ∧
    ((on.cfg.facets.foldl (fun (acc : Option State) r => acc.bind fun t => allJobs r.facet 7 .ended (patrolJobs t true true r.facet) t) (some on)).isSome = true) ∧
    (let s := { on with brd := { board with limiter := true } }
     clocked s = true ∧ mayGrant s 7 false = true ∧
     s.cfg.facets.foldl (fun (acc : Option State) r => acc.bind fun t => allJobs r.facet 7 .ended (patrolJobs t true false r.facet) t) (some s) = none) := by
  refine ⟨quiet_all _ _ _ rfl (by decide +kernel), (barred_none _ _ _ [] (by decide) (by decide +kernel)).2, ?_, by decide +kernel, by decide +kernel, ?_⟩
  · rw [patrol_one _ _ (r := facetRow) rfl]
    exact quiet_all _ _ _ (patrolJobs_plain _ _ _ _) (by decide +kernel)
  · rw [patrol_one _ _ (r := facetRow) rfl]
    have h : (patrolJobs { on with brd := { board with limiter := true } } true false facetRow.facet).head?.any
        (fun j => j.n != 0 && (j.unit.isSome || j.res.isSome)) = true := by decide +kernel
    cases hl : patrolJobs { on with brd := { board with limiter := true } } true false facetRow.facet with
    | nil => simp [hl] at h
    | cons j js =>
      simp only [hl, List.head?_cons, Option.any_some, Bool.and_eq_true, bne_iff_ne] at h
      exact (broke_none _ _ _ _ _ h.1 h.2 (by decide +kernel)).2

/-- A unit that has failed, none of it being copied, whose copy is granted; a copy's program; a block that is read no more. -/
theorem witness_MemoryAndFlashUpkeep_flash :
    (let s := { on with flash := { Flash.reset with rebuilding := [unit9] } }
     unit9 ∈ s.flash.rebuilding ∧ moving s unit9 (pageOf s unit9).1 = false ∧
     (allJobs 1 7 (.move unit9 (pageOf s unit9).1 (newPage s unit9) (pageOf s unit9).2) (groupJobs s unit9 ++ programJobs [placeOf s unit9]) (useFree s)).isSome = true) ∧
    (∃ g : Seg, g.work = .move unit9 (pageOf on unit9).1 5 0) ∧
    (let s := { on with flash := { Flash.reset with rereads := [(blockKey 63 3 3 16383, 9)] } }
     8 < s.flash.rereads.get (blockKey 63 3 3 16383) ∧ s.flash.leaving = [] ∧ unitsIn s (63, 3, 3, 16383) = [] ∧
     blockEmpty s (63, 3, 3, 16383) = true ∧ blockKey 63 3 3 16383 ∉ s.flash.bad) := by
  refine ⟨⟨by decide +kernel, by decide +kernel, ?_⟩, ⟨⟨0, none, 7, 1, .move unit9 (pageOf on unit9).1 5 0, false, 0⟩, rfl⟩, ?_, rfl, ?_, ?_, ?_⟩
  · simp only [allJobs, programJobs, List.map_cons, List.map_nil]
    rw [quiet_last]
    · rfl
    · simp [groupJobs, unitJob]
    · rfl
    · decide +kernel
  all_goals decide +kernel

/-- The stream tags leave room for the escapes. -/
theorem witness_StreamsAreCheckedAndResent_tags : tagsTaken on = 0 := by decide +kernel

theorem byteJobs_plain (s : State) (f slot key base off n : Nat) : (byteJobs s f slot key base off n).all (fun j => j.die.isNone) = true :=
  hbmJobs_plain _ _ _ _ _ _

/-- A step that is granted, and one that is not (PS2). -/
theorem witness_OptimiserStepsCount_grants :
    (∀ c n, (stepGrant c (mkIndex geoC) (job false) n (trainer false)).isSome = true) ∧
    (let s := { trainer false with brd := { board with psNow := 2 } }
     ∀ c n, stepGrant c (mkIndex geoC) (job false) n s = none) := by
  constructor
  · intro c n
    have : enginesOpen (trainer false) (job false).facet 6 = true := by decide +kernel
    simp only [stepGrant, this, if_true]
    exact quiet_all _ _ _ (byteJobs_plain _ _ _ _ _ _ _) (by decide +kernel)
  · intro s c n
    have : enginesOpen s (job false).facet 6 = false := by decide +kernel
    simp [stepGrant, this]

/-- A region of the load that is in use. -/
theorem witness_LatticeLoadsApplyOrFail_fence :
    clocked (loading true) = true ∧ bit 0 (load1 true).mask = true ∧ (loading true).srch.regionsOut.contains 0 = false ∧
    clocked (loading false) = true ∧ (loading false).srch.regionsOut.contains 0 = false := by decide +kernel

/-- A scrub whose erase still runs. -/
theorem witness_TimersFreezeFacetsAndProcessors_scrub :
    (let s := { on with facets := [{ facet1 with state := 3, teardown := some 4 }],
                        flash := { Flash.reset with dies := [⟨0, 0, [], [], some ⟨0, none, 7, 1, .scrub 1, false, 0⟩, false⟩] } }
     (facetOf s 1).teardown = some 4 ∧ scrubLeft (scrubOn s 1) 1 = true) := by decide +kernel

theorem rebuildJobs_plain (s : State) (stack : Nat) (flash : Bool) (into : Nat) :
    (rebuildJobs s stack flash into).all (fun j => j.die.isNone) = true := by
  unfold rebuildJobs
  split <;> simp [flashJobs, unitJob, runJob]

/-- A frame retired for the first time and again; rebuilds of both kinds that are granted, and one that is not (PS2). -/
theorem witness_MemoryErrorsAreContained_frames :
    (7, 9) ∉ on.mem.retired ∧ (7, 9) ∈ ({ Mem.reset with retired := [(7, 9)] } : Mem).retired ∧
    (∀ retired, let s := { on with mem := { Mem.reset with rebuilding := [(7, 9, retired, false)], pool := 63 } }
      s.mem.rebuilding.find? (·.2.1 == 9) = some (7, 9, retired, false) ∧ ∀ g, (chargeRebuild 7 9 (rebuildJobs s 7 false g) s).isSome = true) ∧
    (let s := { on with brd := { board with psNow := 2 }, mem := { Mem.reset with rebuilding := [(7, 9, true, false)], pool := 63 } }
     ∀ g, chargeRebuild 7 9 (rebuildJobs s 7 false g) s = none) := by
  refine ⟨by decide +kernel, by decide +kernel, fun retired => ⟨rfl, fun g => ?_⟩, fun g => ?_⟩
  · unfold chargeRebuild
    split
    · cases retired <;> decide +kernel
    · exact quiet_all _ _ _ (rebuildJobs_plain _ _ _ _) (by cases retired <;> decide +kernel)
  · unfold chargeRebuild
    split
    · decide +kernel
    · exact (barred_none _ _ _ _ (by decide) (by decide +kernel)).2

/-- Work of an ingest engine is granted while no tile waits and the class may borrow. -/
theorem ingest_granted (f cls : Nat) (w : SegWork) (s : State) (h : (s.srch.tiles.isEmpty && mayGrant s cls true) = true) :
    (allJobs f cls w [ingestJob s] s).isSome = true := by
  simp only [Bool.and_eq_true, List.isEmpty_iff] at h
  have hu : creditedOn s (unitIngest (Config.unitChoice s.free % 4)) = false := by
    have := Nat.mod_lt (Config.unitChoice s.free) (show 0 < 4 by omega)
    have hn : ¬ 6000 ≤ unitIngest (Config.unitChoice s.free % 4) := by unfold unitIngest; omega
    simp [creditedOn, hn, h.1]
  have hb : jobBorrows s cls (ingestJob s) = true := by simp [jobBorrows, ingestJob, tickJob, hu, h.2]
  have hn : (ingestJob s).n = 1 := rfl
  have : (runJobs f cls w [ingestJob s] s).1 = [] := by
    simp only [runJobs, hn, grantPieces, hb]
    split <;> rfl
  simp [allJobs, this]

/-- The target's publish, granted. -/
theorem witness_MigrationTargetReceives_publish :
    (let m := migr 2 4 false
     let s := { m with brd := { board with clk := 25600 }, chd := { m.chd with mig := { m.chd.mig with publish := true } } }
     let e' := commitEpoch (facetOf s 1)
     let ps := (s.chd.mig.pendNew.filter (·.till.isNone)).map fun (p : Pend) => { p with slot := 2, epoch := e', since := 0 }
     let s1 := appendLog 1 e' 1 false (markChanged 1 (updFacet 1 (fun x => { x with pend := x.pend ++ ps })
       { s with srch := { s.srch with stepNo := s.srch.stepNo + 1 }, idx := s.idx ++ [rebase e' (mkIndex geoC)] }))
     let us := (unitParts (mkIndex geoC)).filterMap (partUnit 1 2)
     (migFacet s.chd.mig = 1 ∧ migSlot s.chd.mig = 2) ∧
     (allJobs 1 4 (.unit 1 2) (programJobs (us.map (placeOf s1)) ++ [ingestJob s1]) s1).isSome = true) := by
  refine ⟨by decide +kernel, ?_⟩
  have h : (unitParts (mkIndex geoC)).filterMap (partUnit 1 2) = [] := by decide +kernel
  simp only [h]
  exact ingest_granted _ _ _ _ (by decide +kernel)

-- Well-formedness: one ill-formed term for each check.

theorem test_wf_pair_of_entry : WellFormed (.identify (ent 256 0 0 0 0)) = false ∧ WellFormed (.query (ent 256 0 0 0 0)) = false ∧
    WellFormed (.modelLoad (ent 255 0 0 0 0)) = true := by decide
theorem test_wf_pair_of_doorbell : WellFormed (.sqTailDoorbell 256 0) = false ∧ WellFormed (.cqHeadDoorbell 256 0) = false ∧
    WellFormed (.coalescingDelayExpiry 256) = false := by decide
theorem test_wf_migration_bits : WellFormed (.chdMigCtrlGo 0x20000) = false ∧ WellFormed (.chdMigCtrlCancel 0x10000) = false ∧
    WellFormed (.chdMigAcceptGo 0) = false ∧ WellFormed (.chdMigAcceptCancel 0x10000) = false := by decide
theorem test_wf_register : WellFormed (.registerWrite .bar0 0x3FFFFC 8 0) = false ∧ WellFormed (.registerWrite .bar2 0x4000000 1 0) = false ∧
    WellFormed (.registerWrite .bar0 0 3 0) = false ∧ WellFormed (.registerWrite .bar0 0x3FFFF8 8 0) = true := by decide
theorem test_wf_tag : WellFormed (.hostReadCompletion 65536 [] false) = false ∧ WellFormed (.hostReadTimeout 65536) = false ∧
    WellFormed (.commit 65536) = false ∧ WellFormed (.optimiserStep 65536) = false := by decide
theorem test_wf_vector : WellFormed (.msixIntervalExpiry 256) = false := by decide
theorem test_wf_engine : WellFormed (.tileDrain 8) = false := by decide
theorem test_wf_cell : WellFormed (.sliverFinish 4096) = false ∧ WellFormed (.heapFull 4096) = false ∧ WellFormed (.steal 4096) = false ∧
    WellFormed (.cellFenced 4096 0) = false ∧ WellFormed (.lostProgress 4096) = false := by decide
theorem test_wf_block : WellFormed (.cellSwitch 128) = false ∧ WellFormed (.blockFenced 128 0) = false ∧ WellFormed (.heartbeatLapse 128) = false := by
  decide
theorem test_wf_context : WellFormed (.scanCheckpoint 16384) = false ∧ WellFormed (.hopRound 16384) = false := by decide
theorem test_wf_region : WellFormed (.regionFenced 8 0) = false ∧ WellFormed (.waitForCheck ⟨8, 0, 0, 0, 0, 0, 0, 0⟩) = false ∧
    WellFormed (.waitForCheck ⟨0, 64, 0, 0, 0, 0, 0, 0⟩) = false := by decide
theorem test_wf_die : WellFormed (.flashReadComplete 64 0 0 .failed) = false ∧ WellFormed (.flashReadComplete 0 4 0 .failed) = false ∧
    WellFormed (.flashReadComplete 0 0 4 .failed) = false ∧ WellFormed (.flashSegmentStart 64 0) = false ∧
    WellFormed (.flashSegmentSuspend 0 4) = false ∧ WellFormed (.flashSegmentComplete 64 0 .done) = false ∧
    WellFormed (.flashBlockRetired 0 0 4 0) = false := by decide
theorem test_wf_facet : WellFormed (.sentinelShadowFinish 64 0) = false ∧ WellFormed (.logCheckpoint 64) = false ∧
    WellFormed (.facetScrubComplete 64) = false ∧ WellFormed (.keepAliveLapse 64) = false ∧ WellFormed (.tierRebuild 64) = false := by decide
theorem test_wf_slot : WellFormed (.compactionMove 64 0 1) = false ∧ WellFormed (.listRewrite 0 16) = false ∧ WellFormed (.repairSweepUnit 0 16) = false ∧
    WellFormed (.renumbering 64 0) = false ∧ WellFormed (.resketchStep 0 16) = false ∧ WellFormed (.flashUnitRebuilt 64 0 0 0 0) = false := by decide
theorem test_wf_batch : WellFormed (.compactionMove 1 0 0) = false ∧ WellFormed (.graphInsert 1 1 0) = false ∧ WellFormed (.graphInsert 1 16 1) = false := by
  decide
theorem test_wf_consumer : WellFormed (.streamBlockResend (.sliver 4096) ⟨0, 0⟩) = false ∧ WellFormed (.streamBlockResend (.walker 16384) ⟨0, 0⟩) = false ∧
    WellFormed (.streamBlockResend (.model 65536) ⟨0, 0⟩) = false := by decide
theorem test_wf_processor : WellFormed (.watchdog 8) = false ∧ WellFormed (.firmwareCheckIn 8) = false := by decide
theorem test_wf_row : WellFormed (.hbmRowFailure 8 0 0 0 0 true) = false ∧ WellFormed (.hbmRowFailure 0 32 0 0 0 true) = false := by decide
theorem test_wf_stacked : WellFormed (.stackedUncorrectable 8 0 .tagTable) = false ∧ WellFormed (.stackedUncorrectable 0 0 (.cacheCopy 0 16 0)) = false ∧
    WellFormed (.stackedUncorrectable 0 0 (.cacheCopy 0 0 1048576)) = false ∧ WellFormed (.stackedUncorrectable 0 0 (.scratchpad 65536)) = false ∧
    WellFormed (.stackedUncorrectable 0 0 (.streamBuffer 4096)) = false ∧ WellFormed (.stackedUncorrectable 0 0 (.mergeState 16384)) = false := by decide
theorem test_wf_sensor : WellFormed (.thermalState 10 0) = false ∧ WellFormed (.thermalTrip 10 0) = false := by decide
theorem test_wf_finds : WellFormed (.modRstRelease ⟨true, true, [4096], [], [], true, true⟩) = false ∧
    WellFormed (.modRstRelease ⟨true, true, [], [128], [], true, true⟩) = false ∧
    WellFormed (.modRstRelease ⟨true, true, [], [], [8], true, true⟩) = false := by decide
theorem test_wf_link : WellFormed (.nak 4 0) = false ∧ WellFormed (.nak 0 65536) = false ∧ WellFormed (.laneDrop 4 []) = false ∧
    WellFormed (.laneDrop 0 [1, 2, 3, 4, 5]) = false ∧ WellFormed (.chordDown 4 0) = false ∧ WellFormed (.retrain 4) = false ∧
    WellFormed (.trainingComplete 4 4) = false ∧ WellFormed (.trainingComplete 0 5) = false ∧ WellFormed (.multicastSlackExpiry 0 4) = false := by decide
theorem test_wf_flit : WellFormed (.flit 4 (zeros 256)) = false ∧ WellFormed (.flit 0 (zeros 255)) = false := by decide +kernel
theorem test_wf_turn : WellFormed (.turnSet (2 ^ 32)) = false := by decide
theorem test_wf_domain : WellFormed (.queryCast 4 cast9) = false ∧ WellFormed (.contribution 4 ⟨0, 0, 0, 0, 0, 0, 0, 0, 0, false, 0, []⟩) = false := by decide
theorem test_wf_migration : WellFormed (.migOffer 4 0 0 true geoC 0 0) = false ∧ WellFormed (.migOffer 0 64 0 true geoC 0 0) = false ∧
    WellFormed (.migAccept 4) = false ∧ WellFormed (.migRefuse 4 0) = false ∧ WellFormed (.migUnit 4 (.side 0 [])) = false ∧
    WellFormed (.migWrite 4 (.delete 0 [])) = false ∧ WellFormed (.migCutOver 4) = false ∧ WellFormed (.migDone 4) = false ∧
    WellFormed (.migCancel 4) = false := by decide
theorem test_wf_sideband : WellFormed (.unsupportedPldmCmd 4 2) = false ∧ WellFormed (.recoveryBlockWrite 0 []) = false ∧
    WellFormed (.recoveryBlockWrite 0 (zeros 241)) = false := by decide +kernel

-- Arithmetic with published check values.

/-- The check value of CRC-32C, for "123456789". -/
theorem test_crc32c : crc32c [0x31, 0x32, 0x33, 0x34, 0x35, 0x36, 0x37, 0x38, 0x39] = 0xE3069283 := by decide +kernel
/-- The check value of CRC-32. -/
theorem test_crc32 : crc32 [0x31, 0x32, 0x33, 0x34, 0x35, 0x36, 0x37, 0x38, 0x39] = 0xCBF43926 := by decide +kernel
/-- FIPS 180-4's example "abc". -/
theorem test_sha384 : sha384 [0x61, 0x62, 0x63] =
    0xcb00753f45a35e8bb5a03d699ac65007272c32ab0eded1631a8b605a43ff5bed8086072ba1e7cc2358baeca134c825a7 := by decide +kernel
/-- A signature of the digest 1 with private key 2 and nonce 3, worked out apart from the model; and the same for digest 2. -/
def key2 : BitVec 768 :=
  0x8d999057ba3d2d969260045c55b97f089025959a6f434d651d207d19fb96e9e4fe0e86ebe0e64f85b96a9c75295df618e80f1fa5b1b3cedb7bfe8dffd6dba74b275d875bc6cc43e904e505f256ab4255ffd43e94d39e22d61501e700a940e80
def sigR : Nat := 0x77a41d4606ffa1464793c7e5fdc7d98cb9d3910202dcd06bea4f240d3566da6b408bbae5026580d02d7e5c70500c831
def sigS : Nat := 0xafa6d68d959ffc0d9850d2feea92fe65dd137b601573de04595ad52c850912595d6c864065e4aa5a9fd7ff768bd94bc3
theorem test_ecdsa : ecdsaOk 1 sigR sigS key2 = true := by decide +kernel
theorem test_ecdsa_other : ecdsaOk 2 sigR sigS key2 = false := by decide +kernel

-- One step of a command each. Expected values are the spec's own tables and examples.

/-- The state a command leads to. -/
def went (i : Instr) (s : State) : State :=
  match exec i s with
  | .next t => t
  | _ => s

/-- A doorbell of a pair that does not exist is counted (R245). -/
theorem test_doorbell_unknown : (went (.sqTailDoorbell 9 0) on).hif.doorbellInvalid = 1 := by decide +kernel
/-- A tail at the depth freezes pair 3 with cause DOORBELL, 2 (R245, R256). -/
theorem test_doorbell_at_depth : (qpOf (went (.sqTailDoorbell 3 8) on) 3).map (·.causes) = some [2] := by decide +kernel
theorem test_cq_head_past_tail : (qpOf (went (.cqHeadDoorbell 3 1) on) 3).map (·.causes) = some [2] := by decide +kernel
/-- The admin depth 4,097 sets config_error (R243, R360). -/
theorem test_enable_depth : (went .hifCtrlEnable (setUp 4097)).hif.configError = true ∧ (went .hifCtrlEnable (setUp 4096)).hif.ready = true := by
  decide +kernel
theorem test_disable : (went .hifCtrlDisable on).qps = [] := by decide +kernel
theorem test_flr : (went .functionLevelReset on).hif.enable = false := by decide +kernel
theorem test_link_down : (went .linkDown on).hif.linkUp = false := by decide +kernel
/-- GEN_SCRATCH keeps what is written; GEN_PART_NUMBER, at 0, does not (R357, R359). -/
theorem test_scratch : (went (.registerWrite .bar0 0x40 8 0x1234) on).hif.scratch = 0x1234 := by decide +kernel
theorem test_read_only : (went (.registerWrite .bar0 0 8 0x1234) on).hif.badAccess = 1 := by decide +kernel
theorem test_misaligned : (went (.misalignedRead .bar0 4 8) on).out = [.readData (zeros 8)] := by decide +kernel
theorem test_crc_read_moves : (went (.evrWindowCrcRead true) on).evr.cursor = 1 := by decide +kernel
theorem test_link_up : (went (.pcieLinkUp 32 8) on).hif.width = 8 := by decide +kernel
theorem test_config : (went (.configurationWrite (.maxPayload 512)) on).hif.maxPayload = 512 ∧
    (went (.configurationWrite (.maxPayload 64)) on).hif.maxPayload = 128 := by decide +kernel
/-- A pulse 102.4 µs after the last: the third in window locks (R347). -/
theorem test_pulse_locks : (went .syncInPulse (pulsed false 2 102400)).brd.locked = true := by decide +kernel
theorem test_pulse_early : (went .syncInPulse (pulsed false 2 92159)).brd.inWindow = 0 := by decide +kernel
theorem test_step : (went .batchStepBoundary (atTime 25600)).srch.stepNo = 1 ∧ (went .batchStepBoundary (atTime 25599)).srch.stepNo = 0 := by
  decide +kernel
theorem test_free_turn_waits : (went .freeRunningTurn (atTime 102399)).srch.turn = 0 := by decide +kernel
/-- 112.64 µs behind the pulse that locked the lock ends, and a record says so (R348). -/
theorem test_sync_timeout : (went .syncTimeout (pulsed true 3 112640)).brd.locked = false ∧ (went .syncTimeout (pulsed true 3 112639)).brd.locked = true := by
  decide +kernel
/-- 10 ms without a check-in (R27). -/
theorem test_watchdog : (went (.watchdog 7) (kept 10000000)).srch.expired = [7] ∧ (went (.watchdog 7) (kept 9999999)).srch.expired = [] := by
  decide +kernel
theorem test_check_in : look 0 7 (went (.firmwareCheckIn 7) (kept 5)).srch.watch = 5 := by decide +kernel
theorem test_keep_alive : (facetOf (went (.keepAliveLapse 1) (kept 10000000)) 1).state = 2 := by decide +kernel
theorem test_fatal : (went (.chipFatal 3) on).qps.map (·.causes) = [[6], [6]] := by decide +kernel
/-- An HBM stack: a warning from 95 °C, kept at 92 °C, clear below it (R326). -/
theorem test_warning : (went (.thermalState 0 95) on).brd.thermal.getD 0 9 = 1 ∧
    (went (.thermalState 0 92) (went (.thermalState 0 95) on)).brd.thermal.getD 0 9 = 1 := by decide +kernel
theorem test_warning_clears : (went (.thermalState 0 91) (went (.thermalState 0 95) on)).brd.thermal.getD 0 9 = 0 := by decide +kernel
/-- The compute die trips at 115 °C. -/
theorem test_trip : (went (.thermalTrip 8 115) on).brd.mainPower = false ∧ (went (.thermalTrip 8 114) on).brd.mainPower = true := by decide +kernel
/-- 821 W against a cap of 820 W (R316, R318). -/
theorem test_limiter : (went (.powerLimiter 54000 15204) on).brd.limiter = true ∧ (went (.powerLimiter 54000 15185) on).brd.limiter = false := by
  decide +kernel
theorem test_cycle_count : (went .main54TurnOn { State.reset with brd := { Board.reset with main54 := false } }).brd.cycles = 1 := by decide +kernel
theorem test_reset_asserted : (went .modRstAssert on).brd.mainPower = false := by decide +kernel
theorem test_brake : braked (went .pwrBrakeAssert on) = true := by decide +kernel
theorem test_brake_counted : (went (.filteredLevelChange .pwrBrake false) (braking true true (some 1))).brd.brake.rej = 1 := by decide +kernel
/-- Training on three lanes is DEGRADED, 3 (R292). -/
theorem test_training : (linkOf (went (.trainingComplete 1 3) (linked { upLink1 with st := 1 })) 1).st = 3 := by decide +kernel
theorem test_lane_drop : (linkOf (went (.laneDrop 1 [0, 5, 0, 0]) (linked { upLink1 with fails := 8 })) 1).lanes = 3 := by decide +kernel
theorem test_retrain : (linkOf (went (.retrain 1) { linked { upLink1 with st := 4 } with brd := { board with clk := 1000000000 } }) 1).st = 1 := by
  decide +kernel
theorem test_turn_set : (went (.turnSet 0xFFFFFFFF) on).srch.turn = 0xFFFFFFFF := by decide +kernel
/-- No link: CHD_MIG_STATUS shows FAILED, 6, with error 9 (R312, R368). -/
theorem test_migration_no_link : (went (.chdMigCtrlGo 0x11001) on).chd.mig.phase = 6 ∧ (went (.chdMigCtrlGo 0x11001) on).chd.mig.error = 9 := by
  decide +kernel
theorem test_migration_cancel : (went (.chdMigCtrlCancel 0x20000) (migr 1 2 false)).chd.mig.error = 7 := by decide +kernel
theorem test_set_tid : (went (.setTid 5) on).side.tid = 5 ∧ (went (.setTid 0xFF) on).side.tid = 0 := by decide +kernel
theorem test_get_tid : (went .getTid { on with side := { Side.reset with tid := 9 } }).out = [.sideband (.pldm 0 [9])] := by decide +kernel
/-- The recovery port refuses before a failed boot, and takes a block after it (R352). -/
theorem test_recovery : (went (.recoveryBlockWrite 0 [1]) on).out = [.sideband .nack] ∧
    (went (.recoveryBlockWrite 0 [1]) failed).out = [.sideband .ack] := by decide +kernel
theorem test_heartbeat : (went (.heartbeatLapse 127) on).srch.blocksOut = [127] := by decide +kernel
/-- 8 re-reads do not retire a block (R324). -/
theorem test_block_kept :
    (went (.flashBlockRetired 0 0 0 5) { on with flash := { Flash.reset with rereads := [(blockKey 0 0 0 5, 8)] } }).flash.retired = 0 := by
  decide +kernel
/-- A pool of 64 escape buffers gives a stream the 16 it may have (R199, R217). -/
theorem test_escape : (went (.waitForCheck ⟨0, 1, 1, 2, 5, 5, 40, 40⟩) on).mem.escapes.getD 0 0 = 48 := by decide +kernel
/-- A facet in which something changed advances its epoch at the boundary (R77). -/
theorem test_epoch : (facetOf (went .batchStepBoundary { atTime 25600 with facets := [{ facet1 with changed := true }] }) 1).epoch = 1 := by
  decide +kernel

end Sys2Proof.Tests
end

section
/-! Facts that several statements share: states equal field by field, records and what they tell the host, freezes. -/

namespace Sys2Proof.Machine

open Sys2Proof.Safety

/-- Two states are one when all their fields are. -/
theorem State.ext_of_fields {s t : State} (brd : s.brd = t.brd) (evr : s.evr = t.evr) (fnc : s.fnc = t.fnc) (fuse : s.fuse = t.fuse)
    (fw : s.fw = t.fw) (lat : s.lat = t.lat) (cfg : s.cfg = t.cfg) (hif : s.hif = t.hif) (qps : s.qps = t.qps) (tags : s.tags = t.tags)
    (cmds : s.cmds = t.cmds) (fetchSeq : s.fetchSeq = t.fetchSeq) (elog : s.elog = t.elog) (elogSeq : s.elogSeq = t.elogSeq)
    (facets : s.facets = t.facets) (idx : s.idx = t.idx) (mods : s.mods = t.mods) (srch : s.srch = t.srch) (flash : s.flash = t.flash)
    (mem : s.mem = t.mem) (chd : s.chd = t.chd) (side : s.side = t.side) (serial : s.serial = t.serial) (out : s.out = t.out)
    (free : s.free = t.free) (pending : s.pending = t.pending) : s = t := by
  cases s; cases t; simp_all only

-- What a lookup reads after an operation that leaves its table alone.

theorem facetOf_congr {s t : State} (h : t.facets = s.facets) (f : Nat) : facetOf t f = facetOf s f := by unfold facetOf; rw [h]

theorem cellOf_congr {s t : State} (h : t.srch.cells = s.srch.cells) (c : Nat) : cellOf t c = cellOf s c := by unfold cellOf; rw [h]

-- Records and the messages of vector 0 (R239, R254, R330).

theorem told_of_eq {s t : State} (hout : t.out = s.out) (hhif : t.hif = s.hif) : Told s t :=
  ⟨⟨0, by simp [hout]⟩, by rw [hhif]⟩

theorem told_trans {s t u : State} (h : Told s t) (k : Told t u) : Told s u := by
  obtain ⟨⟨n, hn⟩, hh⟩ := h
  obtain ⟨⟨m, hm⟩, kh⟩ := k
  refine ⟨⟨n + m, ?_⟩, ?_⟩
  · rw [hm, hn, List.append_assoc, List.replicate_append_replicate]
  · rw [kh, hh]

theorem sendMsi_told (s : State) : Told s (sendMsi 0 s) := by
  unfold sendMsi
  split
  · exact told_of_eq rfl rfl
  · extract_lets due
    split
    · exact ⟨⟨1, rfl⟩, rfl⟩
    · exact ⟨⟨0, by simp⟩, rfl⟩

/-- An event puts out its message of vector 0 and nothing else. -/
theorem record_told (code subject : Nat) (snap : List Nat) (s : State) : Told s (record code subject snap s) := by
  unfold record recordSev
  split
  · exact told_of_eq rfl rfl
  · split
    · exact told_trans (told_of_eq rfl rfl) (sendMsi_told _)
    · exact told_trans (told_of_eq (by simp) (by simp)) (sendMsi_told _)

@[simp] theorem facetOf_record (code subject : Nat) (snap : List Nat) (s : State) (f : Nat) :
    facetOf (record code subject snap s) f = facetOf s f := facetOf_congr (by simp) f

-- Pairs and facets frozen (R47, R256).

theorem freezeWhere_qps (p : Qp → Bool) (cause : Nat) (s : State) :
    (freezeWhere p cause s).qps = s.qps.map fun q => if p q then freezeQp cause q else q := rfl

theorem freezeFacet_qps (f cause : Nat) (s : State) :
    (freezeFacet f cause s).qps = s.qps.map fun q => if q.num != 0 && q.facet == f then freezeQp cause q else q := by
  unfold freezeFacet
  dsimp only
  split <;> rfl

/-- A facet that is ACTIVE or FROZEN is FROZEN behind a freeze. -/
theorem freezeFacet_state (f cause : Nat) (s : State) (h : (facetOf s f).state = 1 ∨ (facetOf s f).state = 2) :
    (facetOf (freezeFacet f cause s) f).state = 2 := by
  unfold freezeFacet
  rw [if_pos (by simpa using h), facetOf_updFacet]
  exact fun _ => rfl

/-- A facet in any other state keeps it. -/
theorem freezeFacet_facets (f cause : Nat) (s : State) (h1 : (facetOf s f).state ≠ 1) (h2 : (facetOf s f).state ≠ 2) :
    (freezeFacet f cause s).facets = s.facets := by
  unfold freezeFacet
  rw [if_neg (by simp [h1, h2])]
  rfl

end Sys2Proof.Machine
end

section
/-! The timers: keep-alive, the scrub of a teardown, the watchdogs (R27, R236, R256, R258). -/

namespace Sys2Proof.Machine

open Sys2Proof.Safety

-- Keep-alive.

theorem kaLapse_due (f : Nat) (s : State) (runs : kaRuns s f = true)
    (frees : (s.qps.any fun q => q.num != 0 && q.facet == f && !q.causes.contains cauKeepAlive) = true)
    (due : (facetOf s f).kaSince + 1000000 * (facetOf s f).kaMs ≤ now s) :
    kaLapse f s = record 0x0603 f [(facetOf s f).kaMs] (freezeFacet f cauKeepAlive s) := by
  unfold kaLapse
  exact if_pos (by simp only [runs, frees, due, Bool.and_self, decide_true])

theorem kaLapse_early (f : Nat) (s : State) (h : now s < (facetOf s f).kaSince + 1000000 * (facetOf s f).kaMs) : kaLapse f s = s := by
  unfold kaLapse
  exact if_neg (by simp [h])

/-- A lapse that is due freezes the facet's pairs, and the facet where it can be FROZEN. -/
theorem keepAlive_freezes (f : Nat) (s : State) (runs : kaRuns s f = true)
    (frees : (s.qps.any fun q => q.num != 0 && q.facet == f && !q.causes.contains 3) = true)
    (due : (facetOf s f).kaSince + 1000000 * (facetOf s f).kaMs ≤ now s) :
    Answers (.keepAliveLapse f) s fun t => t = { s with qps := t.qps, facets := t.facets, evr := t.evr, hif := t.hif, out := t.out } ∧ Told s t ∧
      t.qps = s.qps.map (fun q => if q.num != 0 && q.facet == f then freezeQp 3 q else q) ∧
      ((facetOf s f).state = 1 ∨ (facetOf s f).state = 2 → (facetOf t f).state = 2) ∧
      ((facetOf s f).state ≠ 1 → (facetOf s f).state ≠ 2 → t.facets = s.facets) := by
  refine ⟨_, congrArg Host.Outcome.next (kaLapse_due f s runs frees due), ?_, ?_, ?_, fun h => ?_, fun h1 h2 => ?_⟩
  · apply State.ext_of_fields <;> simp
  · exact told_trans (told_of_eq (by simp) (by simp)) (record_told _ _ _ _)
  · simp [freezeFacet_qps, cauKeepAlive]
  · rw [facetOf_record]
    exact freezeFacet_state _ _ _ h
  · simpa using freezeFacet_facets f cauKeepAlive s h1 h2

-- The scrub of a teardown: its pieces are charged to the facet, whose counters alone change of all facets.

/-- Of the facets nothing changed but the counters of one. -/
def CountedOn (f : Nat) (s t : State) : Prop :=
  (∀ g, g ≠ f → facetOf t g = facetOf s g) ∧ facetOf t f = { facetOf s f with ctr := (facetOf t f).ctr }

section
variable {f : Nat} {s t : State}

theorem countedOn_of_eq (h : t.facets = s.facets) : CountedOn f s t :=
  ⟨fun g _ => facetOf_congr h g, by rw [facetOf_congr h]⟩

theorem countedOn_trans {u : State} (h : CountedOn f s t) (k : CountedOn f t u) : CountedOn f s u :=
  ⟨fun g hg => (k.1 g hg).trans (h.1 g hg), by rw [k.2, h.2]⟩

theorem bump_countedOn (k n : Nat) (h : CountedOn f s t) : CountedOn f s (bump f k n t) := by
  refine countedOn_trans h ⟨fun g hg => ?_, ?_⟩
  · exact facetOf_updFacet_ne f g _ t (fun _ => rfl) hg
  · unfold bump
    rw [facetOf_updFacet]
    exact fun _ => rfl

theorem charge_countedOn (u cls ticks : Nat) (b : Bool) (h : CountedOn f s t) : CountedOn f s (charge u f cls ticks b t) := by
  unfold charge
  split
  · exact h
  · exact bump_countedOn _ _ (bump_countedOn _ _ (bump_countedOn _ _ (countedOn_trans h (countedOn_of_eq rfl))))

theorem takeBytes_countedOn (r cls n size : Nat) (h : CountedOn f s t) : CountedOn f s (takeBytes r f cls n size t) := by
  unfold takeBytes
  extract_lets used k
  split
  · exact h
  · exact bump_countedOn _ _ (countedOn_trans h (countedOn_of_eq rfl))

/-- A piece of work counts for the facet that it is charged to. -/
theorem chargePiece_countedOn (cls : Nat) (w : SegWork) (j : Job) (b : Bool) (h : CountedOn f s t) :
    CountedOn f s (chargePiece f cls w j b t) := by
  unfold chargePiece
  extract_lets s1 s2 s3
  have ticks : CountedOn f s s1 := by
    dsimp only [s1]
    split
    · exact charge_countedOn _ _ _ _ h
    · exact h
  have bytes : CountedOn f s s2 := by
    dsimp only [s2]
    split
    · split
      · exact bump_countedOn _ _ ticks
      · exact takeBytes_countedOn _ _ _ _ ticks
    · exact ticks
  have entry : CountedOn f s s3 := by
    dsimp only [s3]
    split
    · exact bump_countedOn _ _ bytes
    · exact bytes
  split
  · exact countedOn_trans entry (countedOn_of_eq rfl)
  · exact entry

theorem grantPieces_countedOn (cls : Nat) (w : SegWork) (j : Job) (n : Nat) (h : CountedOn f s t) :
    CountedOn f s (grantPieces f cls w j n t).2 := by
  induction n generalizing t with
  | zero => exact h
  | succ n ih =>
    unfold grantPieces
    split
    · exact ih (chargePiece_countedOn _ _ _ _ h)
    · split
      · exact ih (chargePiece_countedOn _ _ _ _ h)
      · exact h

theorem runJobs_countedOn (cls : Nat) (w : SegWork) (js : List Job) (h : CountedOn f s t) : CountedOn f s (runJobs f cls w js t).2 := by
  induction js generalizing t with
  | nil => exact h
  | cons j js ih =>
    unfold runJobs
    extract_lets r
    split
    · exact ih (grantPieces_countedOn _ _ _ _ h)
    · exact grantPieces_countedOn _ _ _ _ h

end

/-- A scrub that goes on leaves the other facets as they are. -/
theorem scrubOn_facet_ne (s : State) (f g : Nat) (hg : g ≠ f) : facetOf (scrubOn s f) g = facetOf s g := by
  have jobs := (runJobs_countedOn 7 .ended (facetOf s f).scrub (countedOn_of_eq (f := f) (rfl : s.facets = s.facets))).1 g hg
  unfold scrubOn
  extract_lets r t
  have left : facetOf t g = facetOf s g := (facetOf_updFacet_ne f g _ _ (by intro; rfl) hg).trans jobs
  split
  · exact left
  · exact (facetOf_updFacet_ne f g _ _ (by intro; rfl) hg).trans left

theorem scrubOn_teardown (s : State) (f : Nat) : (facetOf (scrubOn s f) f).teardown = (facetOf s f).teardown := by
  have jobs := congrArg Facet.teardown (runJobs_countedOn 7 .ended (facetOf s f).scrub (countedOn_of_eq (f := f) (rfl : s.facets = s.facets))).2
  unfold scrubOn
  extract_lets r t
  have left : (facetOf t f).teardown = (facetOf s f).teardown :=
    (congrArg Facet.teardown (facetOf_updFacet f _ _ (by intro; rfl))).trans jobs
  split
  · exact left
  · exact (congrArg Facet.teardown (facetOf_updFacet f _ _ (by intro; rfl))).trans left

/-- Nothing is left of a scrub after a change of the facets that leaves nothing to zero. -/
theorem scrubLeft_updFacet (f : Nat) (g : Facet → Facet) (s : State) (keepsNum : ∀ x, (g x).num = x.num)
    (h : erasesLeft s f = false) (hg : ∀ x, (g x).scrub = []) : scrubLeft (updFacet f g s) f = false := by
  unfold scrubLeft
  rw [facetOf_updFacet f g s keepsNum, hg]
  simpa [erasesLeft] using h

/-- A scrub of which nothing is left changes only what its facet says of it. -/
theorem scrubOn_of_ended (s : State) (f : Nat) (h : scrubLeft s f = false) :
    ∃ facets, scrubOn s f = { s with facets := facets } ∧ scrubLeft (scrubOn s f) f = false := by
  obtain ⟨erases, zero⟩ : erasesLeft s f = false ∧ (facetOf s f).scrub = [] := by simpa [scrubLeft] using h
  have ended := scrubLeft_updFacet f (fun x => { x with scrub := [] }) s (fun _ => rfl) erases fun _ => rfl
  have run : scrubOn s f = updFacet f (fun x => { x with droppedFlash := 0, scrubHbm := 0 }) (updFacet f (fun x => { x with scrub := [] }) s) := by
    unfold scrubOn
    rw [zero]
    simp only [runJobs, ended, Bool.false_eq_true, if_false]
  refine ⟨_, run, ?_⟩
  rw [run]
  unfold scrubLeft at ended ⊢
  rw [facetOf_updFacet]
  · exact ended
  · exact fun _ => rfl

/-- A scrub that has run out lets its facet wait for the turn boundary. -/
theorem scrub_ends (f : Nat) (s : State) (stage : (facetOf s f).teardown = some 4) (ended : scrubLeft s f = false) :
    Answers (.facetScrubComplete f) s fun t => t = { s with facets := t.facets } ∧ (facetOf t f).teardown = some 5 := by
  obtain ⟨facets, hs, hleft⟩ := scrubOn_of_ended s f ended
  have run : scrubComplete f s = updFacet f (fun x => { x with teardown := some 5 }) (scrubOn s f) := by
    simp [scrubComplete, stage, hleft]
  refine ⟨_, congrArg Host.Outcome.next run, ?_, ?_⟩
  · rw [hs]; rfl
  · rw [facetOf_updFacet]
    exact fun _ => rfl

/-- A scrub of which something is left goes on, and its facet stays where it is. -/
theorem scrub_goes_on (f : Nat) (s : State) (stage : (facetOf s f).teardown = some 4) (left : scrubLeft (scrubOn s f) f = true) :
    Answers (.facetScrubComplete f) s fun t => (facetOf t f).teardown = some 4 ∧ t.idx = s.idx ∧ t.cmds = s.cmds ∧
      ∀ g, g ≠ f → facetOf t g = facetOf s g := by
  have run : scrubComplete f s = scrubOn s f := by simp [scrubComplete, stage, left]
  refine ⟨_, congrArg Host.Outcome.next run, (scrubOn_teardown s f).trans stage, ?_, ?_, fun g hg => scrubOn_facet_ne s f g hg⟩
  · simp
  · simp

-- The watchdogs.

/-- The pairs that an expired watchdog freezes: the admin queue for processor 0, else those of facets with a block in the processor's region. -/
def watched (s : State) (p : Nat) (q : Qp) : Bool :=
  if q.num == 0 then p == 0 else (facetRec s q.facet).any fun r => r.regions.contains p

/-- A watchdog that is due expires: its event, its count, and the pairs that it watches frozen. -/
theorem watchdogAt_due (p : Nat) (s : State) (on : clocked s = true) (fresh : s.srch.expired.contains p = false)
    (due : look 0 p s.srch.watch + 10000000 ≤ now s) :
    ∃ snap, watchdogAt p s = record 0x0105 p snap (bumpRas 31 1 (freezeWhere (watched s p) cauWatchdog
      { useFree s with srch := { s.srch with expired := s.srch.expired ++ [p] } })) := by
  have mine : (fun q : Qp => if q.num == 0 then p == 0 else ((facetRec s q.facet).map fun r => r.regions.contains p).getD false) = watched s p := by
    funext q
    unfold watched
    cases facetRec s q.facet <;> rfl
  unfold watchdogAt
  rw [mine]
  extract_lets last n d
  refine ⟨_, if_neg ?_⟩
  simp only [on, fresh, last, Bool.not_true, Bool.false_or, decide_eq_true_eq]
  omega

theorem watchdog_freezes (p : Nat) (s : State) (on : clocked s = true) (fresh : s.srch.expired.contains p = false)
    (due : look 0 p s.srch.watch + 10000000 ≤ now s) :
    Answers (.watchdog p) s fun t => p ∈ t.srch.expired ∧
      t.qps = s.qps.map (fun q =>
        if (if q.num == 0 then p == 0 else (facetRec s q.facet).any fun r => r.regions.contains p) then freezeQp 5 q else q) ∧
      Told s t ∧ t = { s with qps := t.qps, srch := { s.srch with expired := t.srch.expired }, mem := t.mem, evr := t.evr, hif := t.hif,
                              out := t.out, free := s.free + 1 } := by
  obtain ⟨snap, run⟩ := watchdogAt_due p s on fresh due
  refine ⟨_, congrArg Host.Outcome.next run, ?_, ?_, ?_, ?_⟩
  · simp
  · simp only [record_rest, bumpRas_rest, freezeWhere_qps]; rfl
  · exact told_trans (told_of_eq rfl rfl) (record_told _ _ _ _)
  · apply State.ext_of_fields <;> simp [useFree]

/-- A check-in of firmware that runs starts the watchdog again, and takes the cause off the admin queue where processor 0's had expired. -/
theorem checkIn_running (p : Nat) (s : State) (on : clocked s = true) (runs : s.fw.running < 2) :
    checkIn p s =
      let s1 := { s with srch := { s.srch with watch := put p (now s) s.srch.watch, expired := s.srch.expired.filter (· != p) } }
      if p == 0 && s.srch.expired.contains 0 then updQp 0 (clearCause cauWatchdog) s1 else s1 := by
  unfold checkIn
  refine if_neg ?_
  simp only [on, Bool.not_true, Bool.false_or, decide_eq_true_eq]
  omega

theorem clearCause_not_mem (cause : Nat) (q : Qp) : cause ∉ (clearCause cause q).causes := by
  simp [clearCause]

theorem checkIn_restarts (p : Nat) (s : State) (on : clocked s = true) (runs : s.fw.running < 2) :
    Answers (.firmwareCheckIn p) s fun t => look 0 p t.srch.watch = now s ∧ p ∉ t.srch.expired ∧
      (∀ q, p = 0 → s.srch.expired.contains 0 = true → qpOf t 0 = some q → 5 ∉ q.causes) ∧
      t = { s with qps := t.qps, srch := { s.srch with watch := t.srch.watch, expired := t.srch.expired } } := by
  refine ⟨_, congrArg Host.Outcome.next (checkIn_running p s on runs), ?_, ?_, fun q hp expired hq => ?_, ?_⟩
  · dsimp only
    split <;> exact look_put _ _ _ _
  · dsimp only
    split <;> simp
  · simp only [hp, expired, beq_self_eq_true, Bool.and_self, if_true] at hq
    rw [qpOf_updQp 0 (clearCause cauWatchdog) _ fun _ => rfl] at hq
    obtain ⟨q0, -, rfl⟩ := Option.map_eq_some_iff.mp hq
    exact clearCause_not_mem _ _
  · dsimp only
    split <;> rfl

/-- Settles O42: each timer's row runs its own function, whose due and undue cases are the lemmas above. -/
theorem timersFreezeFacetsAndProcessors : Obligations.TimersFreezeFacetsAndProcessors :=
  ⟨fun f s => ⟨keepAlive_freezes f s, fun early => congrArg Host.Outcome.next (kaLapse_early f s early), scrub_ends f s, scrub_goes_on f s⟩,
   fun p s on => ⟨watchdog_freezes p s on, checkIn_restarts p s on⟩⟩

end Sys2Proof.Machine
end

section
/-! Cells: what a sliver's grant to a cell, a full heap and a switch do (R14, R91, R209, R222, R227, R228). -/

namespace Sys2Proof.Machine

open Sys2Proof.Safety

-- A sorted list has the same members, so a grant answers one of the requests.

theorem mem_insertBy {α : Type} (le : α → α → Bool) (a x : α) (l : List α) : x ∈ insertBy le a l ↔ x = a ∨ x ∈ l := by
  induction l with
  | nil => simp [insertBy]
  | cons b l ih =>
    unfold insertBy
    split
    · rw [List.mem_cons, ih, List.mem_cons]
      tauto
    · exact List.mem_cons

theorem mem_sortBy {α : Type} (le : α → α → Bool) (x : α) (l : List α) : x ∈ sortBy le l ↔ x ∈ l := by
  have inserted : ∀ acc : List α, x ∈ l.foldl (fun acc a => insertBy le a acc) acc ↔ x ∈ acc ∨ x ∈ l := by
    induction l with
    | nil => simp
    | cons a l ih =>
      intro acc
      rw [List.foldl_cons, ih, mem_insertBy, List.mem_cons]
      tauto
  exact (inserted []).trans (by simp)

theorem mem_of_grantAmong {α : Type} {s : State} {u : Nat} {key : α → Nat × Nat} {bytes : α → Bool} {reqs : List α} {r : α × Bool}
    (h : grantAmong s u key bytes reqs = some r) : r.1 ∈ reqs := by
  unfold grantAmong at h
  extract_lets le ok at h
  split at h
  · rename_i a found
    cases h
    exact (mem_sortBy _ _ _).mp (List.mem_of_find?_eq_some found)
  · obtain ⟨a, found, rfl⟩ := Option.map_eq_some_iff.mp h
    exact (mem_sortBy _ _ _).mp (List.mem_of_find?_eq_some found)

theorem mem_of_grantedSliver {s : State} {c : Nat} {tail : Bool} {vs : List Sliver} {r : Sliver × Bool}
    (h : grantedSliver s c tail vs = some r) : r.1 ∈ vs := by
  unfold grantedSliver at h
  extract_lets pick fed at h
  have picked : ∀ p : Sliver → Bool, pick (fed.filter p) = some r → r.1 ∈ vs := by
    intro p hp
    have hr := mem_of_grantAmong hp
    have hf : r.1 ∈ fed.filter p := by
      split at hr
      · exact List.mem_reverse.mp hr
      · exact hr
    exact List.mem_of_mem_filter (List.mem_of_mem_filter hf)
  split at h
  · cases h
  · rcases Option.or_eq_some_iff.mp h with hp | ⟨-, hp⟩
    · exact picked _ hp
    · exact picked _ hp

/-- What a cell would switch to it may take. -/
theorem cellTakes_of_switchTo {s : State} {b : Nat} {p : Nat × Sliver} {r : Sliver × Bool} (h : switchTo s b p = some r) :
    cellTakes s p.1 r.1 = true := by
  unfold switchTo at h
  extract_lets q apex noIdle urgent funded at h
  have queued : r.1 ∈ q := by
    rcases Option.or_eq_some_iff.mp h with hu | ⟨-, hf⟩
    · dsimp only [urgent] at hu
      split at hu
      · exact List.mem_of_mem_filter (mem_of_grantedSliver hu)
      · cases hu
    · split at hf
      · exact List.mem_of_mem_filter (mem_of_grantedSliver hf)
      · cases hf
  have takes := (List.mem_filter.mp queued).2
  simp only [Bool.and_eq_true] at takes
  exact takes.2

/-- A cell that takes a sliver is no feeder cell (R90). -/
theorem role_of_cellTakes {s : State} {c : Nat} {v : Sliver} (h : cellTakes s c v = true) : s.cfg.role c ≠ some 3 := by
  simp only [cellTakes, Bool.and_eq_true, beq_iff_eq] at h
  rw [h.2]
  unfold keyRole
  split <;> simp

/-- The sliver that runs on a cell of a block that may switch. -/
theorem run_of_switchable {s : State} {b : Nat} {p : Nat × Sliver} (h : p ∈ switchable s b) : (cellOf s p.1).run = some p.2 := by
  obtain ⟨c, -, hc⟩ := List.mem_filterMap.mp ((mem_sortBy _ _ _).mp h)
  split at hc
  · obtain ⟨v, run, rfl⟩ := Option.map_eq_some_iff.mp hc
    exact run
  · cases hc

-- Arbiters: only pointers move.

/-- Of the search state nothing changed but the arbiters' pointers. -/
def Rotated (s t : State) : Prop := t.srch = { s.srch with rotate := t.srch.rotate }

namespace Rotated

theorem cells {s t : State} (h : Rotated s t) : t.srch.cells = s.srch.cells := by rw [h]
theorem slivers {s t : State} (h : Rotated s t) : t.srch.slivers = s.srch.slivers := by rw [h]
theorem spent {s t : State} (h : Rotated s t) : t.srch.spent = s.srch.spent := by rw [h]

end Rotated

theorem rotateTo_rotated (a x : Nat) {s t : State} (h : Rotated s t) : Rotated s (rotateTo a x t) := by
  unfold Rotated rotateTo at *
  rw [h]

theorem rotatePath_rotated (c : Nat) (v : Sliver) (s : State) : Rotated s (rotatePath c v s) := by
  unfold rotatePath
  extract_lets s1
  have desc : Rotated s s1 := rotateTo_rotated _ _ rfl
  split
  · exact rotateTo_rotated _ _ desc
  · exact foldl_ind (Rotated s) _ _ _ desc fun t g ht => rotateTo_rotated _ _ ht

-- Feeders: arming a stream charges a feeder cell (R209, R222).

theorem charge_spent_ne (u c f cls ticks : Nat) (b : Bool) (s : State) (hu : c ≠ u) (g k : Nat) :
    look 0 (c, g, k) (charge u f cls ticks b s).srch.spent = look 0 (c, g, k) s.srch.spent := by
  unfold charge
  split
  · rfl
  · refine look_put_ne _ _ _ _ _ fun e => hu ?_
    exact congrArg Prod.fst e

theorem role_of_mem_roleCells {s : State} {f role c : Nat} (h : c ∈ roleCells s f role) : s.cfg.role c = some role := by
  have live := (List.mem_filter.mp h).2
  simp only [Bool.and_eq_true, beq_iff_eq] at live
  exact live.2

/-- Work that is granted on cells of a role is charged to one of them. -/
theorem cellWork_cases {role f cls : Nat} {s t : State} (h : cellWork role f cls s = some t) :
    ∃ c n b, s.cfg.role c = some role ∧ t = useFree (charge c f cls n b s) := by
  unfold cellWork at h
  extract_lets cs k turn at h
  have inTurn : ∀ c ∈ turn, s.cfg.role c = some role := by
    intro c hc
    refine role_of_mem_roleCells (f := f) ?_
    rcases List.mem_append.mp hc with hd | ht
    · exact List.mem_of_mem_drop hd
    · exact List.mem_of_mem_take ht
  split at h
  · rename_i c found
    cases h
    exact ⟨c, _, _, inTurn c (List.mem_of_find?_eq_some found), rfl⟩
  · split at h
    · obtain ⟨c, first, rfl⟩ := Option.map_eq_some_iff.mp h
      exact ⟨c, _, _, inTurn c (List.mem_of_head? first), rfl⟩
    · cases h

theorem cellWork_charged (role f cls : Nat) (s : State) : Charged s ((cellWork role f cls s).getD s) := by
  cases h : cellWork role f cls s with
  | none => exact .refl s
  | some t =>
    obtain ⟨c, n, b, -, rfl⟩ := cellWork_cases h
    exact useFree_charged (charge_charged _ _ _ _ _ (.refl s))

theorem cellWork_spent (role f cls c : Nat) (s : State) (hc : s.cfg.role c ≠ some role) (g k : Nat) :
    look 0 (c, g, k) ((cellWork role f cls s).getD s).srch.spent = look 0 (c, g, k) s.srch.spent := by
  cases h : cellWork role f cls s with
  | none => rfl
  | some t =>
    obtain ⟨d, n, b, hd, rfl⟩ := cellWork_cases h
    exact charge_spent_ne _ _ _ _ _ _ _ (by rintro rfl; exact hc hd) _ _

theorem armSliver_charged (c : Nat) (v : Sliver) (s : State) : Charged s (armSliver c v s) := by
  unfold armSliver
  split
  · exact .refl s
  · exact (cellWork_charged _ _ _ _).trans (.of_eq rfl)

theorem armSliver_spent (c : Nat) (v : Sliver) (s : State) (hc : s.cfg.role c ≠ some 3) (g k : Nat) :
    look 0 (c, g, k) (armSliver c v s).srch.spent = look 0 (c, g, k) s.srch.spent := by
  unfold armSliver
  split
  · rfl
  · exact cellWork_spent 3 _ _ c s hc g k

theorem nextStream_of_run {c : Nat} {s : State} {v : Sliver} (h : (cellOf s c).run = some v) :
    nextStream c s = armSliver c v (drainStream c s) := by
  simp [nextStream, h]

theorem drainStream_srch (c : Nat) (s : State) : (drainStream c s).srch = s.srch := by
  simp [drainStream]

-- A sliver granted to a cell (R91).

/-- A sliver as it starts on a cell. -/
def startedSliver (s : State) (v : Sliver) : Sliver := { v with fresh := false, front := 0, copy := readsCopy s v, claim := none }

/-- Whether a sliver reads a stacked copy depends on the configuration, the copies, the indexes and the queries alone. -/
theorem readsCopy_congr {s t : State} (v : Sliver) (hcfg : t.cfg = s.cfg) (hmem : t.mem = s.mem) (hidx : t.idx = s.idx)
    (hq : t.srch.queries = s.srch.queries) : readsCopy t v = readsCopy s v := by
  simp only [readsCopy, fromStack, idxOf, facetRec, queryOf, hcfg, hmem, hidx, hq]

section
variable (c : Nat) (v : Sliver) (b : Bool) (s : State)

/-- The state in which the feeder arms the stream of a sliver that is granted to a cell. -/
def leavesQueue : State :=
  let close := fun (w : Sliver) => if w.gid == v.gid then { w with fresh := false } else w
  updCell c (fun x => { x with run := some (startedSliver s v), since := now s, held := now s, borrowed := b }) { s with srch := { s.srch with
    slivers := (s.srch.slivers.filter fun w => !(w.gid == v.gid && w.lo == v.lo)).map close,
    resends := s.srch.resends.filter fun r => r.1.1 != .sliver c } }

theorem startSliver_eq :
    startSliver c v b s = rotatePath c (startedSliver s v) (armSliver c (startedSliver s v) (leavesQueue c v b s)) := rfl

theorem cellOf_startSliver : cellOf (startSliver c v b s) c =
    { cellOf s c with run := some (startedSliver s v), since := now s, held := now s, borrowed := b } := by
  rw [startSliver_eq, cellOf_congr (rotatePath_rotated _ _ _).cells, (armSliver_charged _ _ _).cellOf, leavesQueue, cellOf_updCell]
  · rfl
  · exact fun _ => rfl

/-- A sliver that is granted has left its queue. -/
theorem startSliver_slivers : ∀ w ∈ (startSliver c v b s).srch.slivers, ¬ (w.gid = v.gid ∧ w.lo = v.lo) := by
  rw [startSliver_eq, (rotatePath_rotated _ _ _).slivers, (armSliver_charged _ _ _).slivers]
  intro w hw
  obtain ⟨x, hx, rfl⟩ := List.mem_map.mp hw
  have other := (List.mem_filter.mp hx).2
  split <;> simpa [-not_and, not_and_or] using other

/-- A grant to a cell that is no feeder charges the cell nothing. -/
theorem startSliver_spent (hc : s.cfg.role c ≠ some 3) (g k : Nat) :
    look 0 (c, g, k) (startSliver c v b s).srch.spent = look 0 (c, g, k) s.srch.spent := by
  rw [startSliver_eq, (rotatePath_rotated _ _ _).spent]
  exact armSliver_spent c _ (leavesQueue c v b s) hc g k

end

-- STEAL.

theorem steal_granted {c : Nat} {s : State} {v : Sliver} {b : Bool} (idle : cellIdle s c = true) (granted : stealFrom s c = some (v, b)) :
    steal c s = takeStolen c v b s := by
  simp [steal, idle, granted]

theorem steal_busy {c : Nat} {s : State} (h : cellIdle s c = false) : steal c s = s := by
  simp [steal, h]

theorem takeStolen_rotated (c : Nat) (v : Sliver) (b : Bool) (s : State) : Rotated (startSliver c v b s) (takeStolen c v b s) := by
  unfold takeStolen
  extract_lets s1
  have region : Rotated (startSliver c v b s) s1 := rotateTo_rotated _ _ rfl
  split
  · exact region
  · exact rotateTo_rotated _ _ region

theorem steal_starts (c : Nat) (v : Sliver) (b : Bool) (s : State) (idle : cellIdle s c = true) (granted : stealFrom s c = some (v, b)) :
    Answers (.steal c) s fun t => t = takeStolen c v b s ∧ (cellOf t c).run = some (startedSliver s v) ∧ (cellOf t c).since = now s ∧
      (cellOf t c).borrowed = b ∧ ∀ w ∈ t.srch.slivers, ¬ (w.gid = v.gid ∧ w.lo = v.lo) := by
  have rotated := takeStolen_rotated c v b s
  have cell := (cellOf_congr rotated.cells c).trans (cellOf_startSliver c v b s)
  refine ⟨_, congrArg Host.Outcome.next (steal_granted idle granted), rfl, ?_, ?_, ?_, ?_⟩
  · rw [cell]
  · rw [cell]
  · rw [cell]
  · rw [rotated.slivers]
    exact startSliver_slivers c v b s

-- HEAP_FULL.

/-- A cell that stands, or whose sliver waits for its pieces, meets no further candidate. -/
theorem heapFull_held {c : Nat} {s : State} {v : Sliver} (run : (cellOf s c).run = some v)
    (held : cellStands s (cellOf s c) = true ∨ v.wait.isSome = true) : heapFull c s = s := by
  have hold : (cellStands s (cellOf s c) || v.wait.isSome) = true := by simpa using held
  unfold heapFull
  simp only [run]
  split
  · rfl
  · split
    · rfl
    · exact if_pos hold

theorem heapFull_drains {c : Nat} {s : State} {v : Sliver} {ix : Index} {last : Nat × Cand} (run : (cellOf s c).run = some v)
    (index : idxOf s v.facet v.slot = some ix) (goes : cellStands s (cellOf s c) = false) (ready : v.wait = none)
    (full : (v.heap ++ sliverCands s ix v (c / 512))[63]? = some last) :
    ∃ n, heapFull c s = popStream (.sliver c) n
      (updCell c (fun x => { x with run := some (drainHeap last (v.heap ++ sliverCands s ix v (c / 512)) v) }) s) := by
  refine ⟨takenBytes s c ix v (drainHeap last (v.heap ++ sliverCands s ix v (c / 512)) v).next, ?_⟩
  simp [heapFull, run, index, full, goes, ready]

theorem popStream_srch (u : Consumer) (n : Nat) (s : State) : (popStream u n s).srch = s.srch := by simp

/-- What a heap that is full leaves on its cell and in the state. -/
theorem heapFull_stages (c : Nat) (s : State) (v : Sliver) (ix : Index) (last : Nat × Cand) (run : (cellOf s c).run = some v)
    (index : idxOf s v.facet v.slot = some ix) (goes : cellStands s (cellOf s c) = false) (ready : v.wait = none)
    (full : (v.heap ++ sliverCands s ix v (c / 512))[63]? = some last) :
    Answers (.heapFull c) s fun t => t = { s with srch := { s.srch with cells := t.srch.cells }, mem := t.mem } ∧
      ∃ v', (cellOf t c).run = some v' ∧
        v' = { v with staged := v.staged ++ (v.heap ++ sliverCands s ix v (c / 512)).take 64, heap := v'.heap, next := max v.next (last.2.pos + 1) } ∧
        (∀ p ∈ v'.heap, p.2.pos ≤ last.2.pos) := by
  obtain ⟨n, drained⟩ := heapFull_drains run index goes ready full
  refine ⟨_, congrArg Host.Outcome.next drained, ?_, drainHeap last (v.heap ++ sliverCands s ix v (c / 512)) v, ?_, rfl, ?_⟩
  · apply State.ext_of_fields <;> simp [updCell]
  · rw [cellOf_congr (congrArg Search.cells (popStream_srch _ _ _)), cellOf_updCell]
    exact fun _ => rfl
  · intro p hp
    simpa using (List.mem_filter.mp hp).2

-- CELL_SWITCH.

theorem findSome?_of_find? {α β : Type} (f : α → Option β) (l : List α) (a : α) (h : l.find? (fun x => (f x).isSome) = some a) :
    l.findSome? f = f a := by
  induction l with
  | nil => cases h
  | cons x l ih =>
    rw [List.find?_cons] at h
    rw [List.findSome?_cons]
    split at h <;> cases hx : f x <;> simp_all

theorem cellSwitch_none {b : Nat} {s : State} (h : ∀ p ∈ switchable s b, switchOf s b p = none) : cellSwitch b s = s := by
  rw [cellSwitch, List.findSome?_eq_none_iff.mpr h]
  rfl

/-- A switch is what the block's first cell that has something to switch to does. -/
theorem cellSwitch_first {b : Nat} {s t : State} {p : Nat × Sliver} (first : (switchable s b).find? (fun p => (switchOf s b p).isSome) = some p)
    (does : switchOf s b p = some t) : cellSwitch b s = t := by
  rw [cellSwitch, findSome?_of_find? _ _ _ first, does]
  rfl

/-- The charges of a switch away from a sliver: what it has taken so far, and the ticks of the switch to the class switched in (R222). -/
def switchPaid (c : Nat) (old v : Sliver) (b : Bool) (s : State) : State :=
  charge c v.facet (v.cls % 8) (switchTicks s old) b (bump v.facet (kSch (v.cls % 8) 5) 1 (chargeCell (cellOf s c) s))

section
variable (c : Nat) (old v : Sliver) (b : Bool) (s : State)

theorem switchPaid_charged : Charged s (switchPaid c old v b s) :=
  charge_charged _ _ _ _ _ (bump_charged _ _ _ (chargeCell_charged _ (.refl s)))

theorem startedSliver_switchPaid (w : Sliver) : startedSliver (switchPaid c old v b s) w = startedSliver s w := by
  unfold startedSliver
  rw [readsCopy_congr w (by simp [switchPaid]) (by simp [switchPaid]) (by simp [switchPaid]) (switchPaid_charged c old v b s).queries]

theorem now_switchPaid : now (switchPaid c old v b s) = now s := by simp [now, switchPaid]

variable {c old v s}

theorem switchCell_of_run (run : (cellOf s c).run = some old) :
    switchCell c v b s = rotateTo (arbBlock (cellBlock c)) (c % 32) (useFree (updCell c
      (fun y => { y with susp := some old, suspBorrowed := (cellOf s c).borrowed, since := now s + 100 * switchTicks s old })
      (startSliver c v b (switchPaid c old v b s)))) := by
  simp only [switchCell, run]
  rfl

/-- The cell behind a switch with one context: the old sliver suspended, the new one begun behind the switch. -/
theorem cellOf_switchCell (run : (cellOf s c).run = some old) : cellOf (switchCell c v b s) c = { cellOf s c with
    run := some (startedSliver s v), susp := some old, since := now s + 100 * switchTicks s old, borrowed := b,
    suspBorrowed := (cellOf s c).borrowed, held := now s } := by
  have armed := cellOf_startSliver c v b (switchPaid c old v b s)
  rw [startedSliver_switchPaid, now_switchPaid, (switchPaid_charged c old v b s).cellOf] at armed
  rw [switchCell_of_run b run, cellOf_congr (rotateTo_rotated _ _ rfl).cells, cellOf_congr (useFree_charged (.refl _)).cells, cellOf_updCell, armed]
  exact fun _ => rfl

theorem switchCell_slivers (run : (cellOf s c).run = some old) :
    ∀ w ∈ (switchCell c v b s).srch.slivers, ¬ (w.gid = v.gid ∧ w.lo = v.lo) := by
  rw [switchCell_of_run b run]
  exact startSliver_slivers c v b (switchPaid c old v b s)

/-- On the cell itself nothing is charged but the switch and what the suspended sliver has taken. -/
theorem switchCell_spent (run : (cellOf s c).run = some old) (hc : s.cfg.role c ≠ some 3) (g k : Nat) :
    look 0 (c, g, k) (switchCell c v b s).srch.spent = look 0 (c, g, k) (switchPaid c old v b s).srch.spent := by
  rw [switchCell_of_run b run]
  exact startSliver_spent c v b (switchPaid c old v b s) (by simpa [switchPaid] using hc) g k

/-- A cell with one context takes up a waiting sliver. -/
theorem cellSwitch_suspends (blk : Nat) (first : (switchable s blk).find? (fun p => (switchOf s blk p).isSome) = some (c, old))
    (single : (cellOf s c).susp = none) (next : switchTo s blk (c, old) = some (v, b)) :
    Answers (.cellSwitch blk) s fun t =>
      (cellOf t c).susp = some old ∧ (cellOf t c).suspBorrowed = (cellOf s c).borrowed ∧
      (cellOf t c).run = some (startedSliver s v) ∧ (cellOf t c).since = now s + 100 * switchTicks s old ∧ (cellOf t c).borrowed = b ∧
      (∀ w ∈ t.srch.slivers, ¬ (w.gid = v.gid ∧ w.lo = v.lo)) ∧
      (∀ f k, look 0 (c, f, k) t.srch.spent = look 0 (c, f, k) (switchPaid c old v b s).srch.spent) ∧
      t = { s with srch := t.srch, facets := t.facets, mem := t.mem, free := t.free } := by
  have run : (cellOf s c).run = some old := run_of_switchable (List.mem_of_find?_eq_some first)
  have does : switchOf s blk (c, old) = some (switchCell c v b s) := by simp [switchOf, single, next]
  have cell := cellOf_switchCell b (v := v) run
  refine ⟨_, congrArg Host.Outcome.next (cellSwitch_first first does), ?_, ?_, ?_, ?_, ?_, ?_, ?_, ?_⟩
  · rw [cell]
  · rw [cell]
  · rw [cell]
  · rw [cell]
  · rw [cell]
  · exact switchCell_slivers b run
  · exact switchCell_spent b run (role_of_cellTakes (cellTakes_of_switchTo next))
  · apply State.ext_of_fields <;> simp

/-- The cell's contexts changed places, before its stream is armed again. -/
def swapped (c : Nat) (old v : Sliver) (s : State) : State :=
  updCell c (fun y => { y with run := some v, susp := some old, borrowed := false, suspBorrowed := (cellOf s c).borrowed,
                               since := now s + 100 * switchTicks s old, held := now s }) (useFree (switchPaid c old v false s))

theorem cellOf_swapped : cellOf (swapped c old v s) c = { cellOf s c with
    run := some v, susp := some old, since := now s + 100 * switchTicks s old, borrowed := false,
    suspBorrowed := (cellOf s c).borrowed, held := now s } := by
  unfold swapped
  rw [cellOf_updCell, (useFree_charged (switchPaid_charged c old v false s)).cellOf]
  exact fun _ => rfl

theorem swapCell_of_contexts (run : (cellOf s c).run = some old) (susp : (cellOf s c).susp = some v) :
    swapCell c s = armSliver c v (drainStream c (swapped c old v s)) := by
  have again : (cellOf (swapped c old v s) c).run = some v := by rw [cellOf_swapped]
  rw [← nextStream_of_run again]
  simp only [swapCell, run, susp]
  rfl

theorem swapCell_charged (run : (cellOf s c).run = some old) (susp : (cellOf s c).susp = some v) :
    Charged (swapped c old v s) (swapCell c s) := by
  rw [swapCell_of_contexts run susp]
  exact (Charged.of_eq (drainStream_srch _ _)).trans (armSliver_charged _ _ _)

theorem swapCell_spent (run : (cellOf s c).run = some old) (susp : (cellOf s c).susp = some v) (hc : s.cfg.role c ≠ some 3) (g k : Nat) :
    look 0 (c, g, k) (swapCell c s).srch.spent = look 0 (c, g, k) (switchPaid c old v false s).srch.spent := by
  rw [swapCell_of_contexts run susp, armSliver_spent _ _ _ (by simpa [drainStream, swapped, switchPaid] using hc), drainStream_srch]
  rfl

/-- A cell with two contexts goes back to the suspended one. -/
theorem cellSwitch_goes_back (blk : Nat) (first : (switchable s blk).find? (fun p => (switchOf s blk p).isSome) = some (c, old))
    (susp : (cellOf s c).susp = some v) :
    Answers (.cellSwitch blk) s fun t =>
      (cellOf t c).susp = some old ∧ (cellOf t c).suspBorrowed = (cellOf s c).borrowed ∧
      (cellOf t c).run = some v ∧ (cellOf t c).since = now s + 100 * switchTicks s old ∧ (cellOf t c).borrowed = false ∧
      t.srch.slivers = s.srch.slivers ∧
      (s.cfg.role c ≠ some 3 → ∀ f k, look 0 (c, f, k) t.srch.spent = look 0 (c, f, k) (switchPaid c old v false s).srch.spent) ∧
      t = { s with srch := t.srch, facets := t.facets, mem := t.mem, free := t.free } := by
  have run : (cellOf s c).run = some old := run_of_switchable (List.mem_of_find?_eq_some first)
  have does : switchOf s blk (c, old) = some (swapCell c s) := by
    have some_does := List.find?_some first
    simp only [switchOf, susp, Option.isSome_some, if_true] at some_does ⊢
    split at some_does
    · exact if_pos ‹_›
    · cases some_does
  have charged := swapCell_charged run susp
  have cell := (charged.cellOf c).trans cellOf_swapped
  refine ⟨_, congrArg Host.Outcome.next (cellSwitch_first first does), ?_, ?_, ?_, ?_, ?_, ?_, ?_, ?_⟩
  · rw [cell]
  · rw [cell]
  · rw [cell]
  · rw [cell]
  · rw [cell]
  · exact charged.slivers.trans (switchPaid_charged c old v false s).slivers
  · exact swapCell_spent run susp
  · apply State.ext_of_fields <;> simp

end

/-- Settles O27: a full heap, a steal and a switch each by the lemmas about its own function. -/
theorem cellsStageStealAndSwitch : Obligations.CellsStageStealAndSwitch := by
  unfold Obligations.CellsStageStealAndSwitch
  intro started
  refine ⟨fun c s v ix run _ => ⟨fun held => ?_, fun index goes ready last full => ?_⟩, fun s => ⟨?_, ?_, ?_, ?_⟩⟩
  · exact congrArg Host.Outcome.next (heapFull_held run held)
  · exact heapFull_stages c s v ix last run index goes ready full
  · exact fun c v b idle granted => steal_starts c v b s idle granted
  · exact fun c busy => congrArg Host.Outcome.next (steal_busy busy)
  · exact fun blk none => congrArg Host.Outcome.next (cellSwitch_none none)
  · exact fun blk c old first => ⟨fun v b single next => cellSwitch_suspends b blk first single next,
      fun v susp => cellSwitch_goes_back blk first susp⟩

end Sys2Proof.Machine
end

section
/-! Fences: a cell, block or region that is fenced stays out of use whatever follows in its command (R15, R17, R18). -/

namespace Sys2Proof.Machine

open Sys2Proof.Safety

/-- The cells, blocks and regions out of use. -/
def partsOut (s : State) : List Nat × List Nat × List Nat := (s.srch.cellsOut, s.srch.blocksOut, s.srch.regionsOut)

theorem partsOut_congr {s t : State} (h : t.srch = s.srch) : partsOut t = partsOut s := by unfold partsOut; rw [h]

theorem cellsOut_of_partsOut {s t : State} (h : partsOut t = partsOut s) : t.srch.cellsOut = s.srch.cellsOut := congrArg (·.1) h

theorem blocksOut_of_partsOut {s t : State} (h : partsOut t = partsOut s) : t.srch.blocksOut = s.srch.blocksOut := congrArg (·.2.1) h

theorem regionsOut_of_partsOut {s t : State} (h : partsOut t = partsOut s) : t.srch.regionsOut = s.srch.regionsOut := congrArg (·.2.2) h

theorem Charged.partsOut {s t : State} (h : Charged s t) : Machine.partsOut t = Machine.partsOut s := by unfold Machine.partsOut; rw [h]

-- What follows a fence: charges, streams, walks, merges, ended commands. None of it puts a part out of use or back.

theorem chargeCell_partsOut (x : CellSt) (s : State) : partsOut (chargeCell x s) = partsOut s := (chargeCell_charged x (.refl s)).partsOut

theorem nextStream_partsOut (c : Nat) (s : State) : partsOut (nextStream c s) = partsOut s := by
  unfold nextStream
  split
  · rw [(armSliver_charged _ _ _).partsOut, partsOut_congr (drainStream_srch c s)]
  · exact partsOut_congr (drainStream_srch c s)

theorem closeStreams_partsOut (p : Strm → Bool) (s : State) : partsOut (closeStreams p s) = partsOut s := partsOut_congr (by simp)

theorem finishQuery_partsOut (q : Query) (s : State) : partsOut (finishQuery q s) = partsOut s := by
  have charged : partsOut (chargeFree unitChip q.facet (q.cls % 8) s) = partsOut s := (chargeFree_charged _ _ _ (.refl s)).partsOut
  rw [← charged]
  unfold finishQuery
  split
  · dsimp only
    split
    · rfl
    · split <;> simp [partsOut, rotateTo]
  · simp [partsOut, rotateTo]
  · simp [partsOut, rotateTo]

theorem tryFinish_partsOut (x : Nat) (s : State) : partsOut (tryFinish x s) = partsOut s := by
  unfold tryFinish
  split
  · split
    · exact finishQuery_partsOut _ s
    · rfl
  · rfl

theorem updQuery_partsOut (x : Nat) (g : Query → Query) (s : State) : partsOut (updQuery x g s) = partsOut s := rfl

theorem issueRerank_partsOut (q : Query) (rs : List (Unit' × List Cand)) (s : State) : partsOut (issueRerank q rs s) = partsOut s := by
  unfold issueRerank
  rw [foldl_proj partsOut _ _ _ fun t r => partsOut_congr (by simp)]
  rfl

theorem startRerank_partsOut (ix : Index) (q : Query) (s : State) : partsOut (startRerank ix q s) = partsOut s := by
  have charged : partsOut (chargeFree unitChip q.facet (q.cls % 8) s) = partsOut s := (chargeFree_charged _ _ _ (.refl s)).partsOut
  rw [← charged]
  unfold startRerank
  dsimp only
  split
  · exact issueRerank_partsOut _ _ _
  · split
    · rw [issueRerank_partsOut]
      exact partsOut_congr (by simp)
    · exact issueRerank_partsOut _ _ _

theorem chipMerge_partsOut (x : Nat) (s : State) : partsOut (chipMerge x s) = partsOut s := by
  unfold chipMerge
  split
  · rfl
  · split
    · rfl
    · split
      · rfl
      · rw [tryFinish_partsOut, startRerank_partsOut]

-- Walks (R119).

theorem endWalk_partsOut (q : Query) (cause : Nat) (s : State) : partsOut (endWalk q cause s) = partsOut s := by
  unfold endWalk
  rw [tryFinish_partsOut, updQuery_partsOut]
  exact partsOut_congr (by simp)

theorem moveWalk_partsOut (x : Nat) (s : State) : partsOut (moveWalk x s) = partsOut s := by
  unfold moveWalk
  split
  · rfl
  · split
    · rfl
    · dsimp only
      split
      · split
        · simp [partsOut, updQuery]
        · simp [partsOut, updQuery]
      · simp [partsOut, updQuery]

theorem moveWalks_partsOut (p : Nat → Bool) (s : State) : partsOut (moveWalks p s) = partsOut s := by
  unfold moveWalks
  refine foldl_proj partsOut _ _ _ fun t q => ?_
  split
  · split
    · exact endWalk_partsOut _ _ t
    · rfl
  · split
    · rfl
    · exact moveWalk_partsOut _ t

-- Slivers placed again or lost (R15, R17, R18).

theorem emptyCell_partsOut (c : Nat) (s : State) : partsOut (emptyCell c s) = partsOut s := by
  rw [← chargeCell_partsOut (cellOf s c) s]
  unfold emptyCell
  rw [closeStreams_partsOut]
  rfl

theorem placeSliver_partsOut (v : Sliver) (s : State) : partsOut (placeSliver v s) = partsOut s := by
  unfold placeSliver
  split <;> rfl

theorem placeAgain_partsOut (r : Nat) (v : Sliver) (s : State) : partsOut (placeAgain r v s) = partsOut s := by
  unfold placeAgain
  dsimp only
  split
  · rfl
  · split
    · rfl
    · exact placeSliver_partsOut _ s

theorem putHead_partsOut (v : Sliver) (s : State) : partsOut (putHead v s) = partsOut s := rfl

theorem loseSlivers_partsOut (f : Nat) (s : State) : partsOut (loseSlivers f s) = partsOut s := by
  unfold loseSlivers
  dsimp only
  rw [foldl_proj partsOut _ _ _ fun t x => chipMerge_partsOut x t]
  rfl

theorem markLost_partsOut (before : State) (f : Nat) (s : State) : partsOut (markLost before f s) = partsOut s := by
  unfold markLost
  split <;> rfl

theorem freezeFacet_partsOut (f cause : Nat) (s : State) : partsOut (freezeFacet f cause s) = partsOut s := partsOut_congr (by simp)

/-- A facet that loses what it needs freezes, and no part of the module with it. -/
theorem freezeLost_partsOut (before : State) (f cause : Nat) (s : State) :
    partsOut (freezeFacet f cause (loseSlivers f (markLost before f s))) = partsOut s := by
  rw [freezeFacet_partsOut, loseSlivers_partsOut, markLost_partsOut]

theorem checkOwners_partsOut (before : State) (bs : List Nat) (s : State) : partsOut (checkOwners before bs s) = partsOut s := by
  unfold checkOwners
  refine foldl_proj partsOut _ _ _ fun t r => ?_
  unfold checkRoles
  split
  · exact freezeLost_partsOut _ _ _ t
  · rfl

-- Commands that end (R234).

theorem dropQueries_partsOut (p : Query → Bool) (s : State) : partsOut (dropQueries p s) = partsOut s := by
  have charged : ∀ gone, partsOut (chargeStopped gone s) = partsOut s := fun gone => foldl_proj partsOut _ _ _ fun t c => chargeCell_partsOut _ t
  unfold dropQueries
  extract_lets out xs gone mine s1 walks
  rw [closeStreams_partsOut, foldl_proj partsOut _ _ _ fun t c => nextStream_partsOut c t, ← charged gone]
  rfl

theorem stopWork_partsOut (c : Cmd) (s : State) : partsOut (stopWork c s) = partsOut s := by
  rw [← dropQueries_partsOut (ofCmd s c.tag) s]
  unfold stopWork
  dsimp only
  split <;> simp [partsOut]

theorem endCmd_partsOut (st : Nat) (c : Cmd) (s : State) : partsOut (endCmd st c s) = partsOut s := by
  rw [← stopWork_partsOut c s]
  unfold endCmd
  split <;> exact partsOut_congr (by simp)

theorem faultJobs_partsOut (f : Nat) (s : State) : partsOut (faultJobs f s) = partsOut s := by
  unfold faultJobs
  split
  · exact foldl_proj partsOut _ _ _ fun t c => endCmd_partsOut _ c t
  · rfl

-- A cell and a block.

theorem fenceBlock_partsOut (cause b : Nat) (s : State) : partsOut (fenceBlock cause b s) =
    (s.srch.cellsOut, if s.srch.blocksOut.contains b then s.srch.blocksOut else s.srch.blocksOut ++ [b], s.srch.regionsOut) := by
  unfold fenceBlock
  split
  · rfl
  · simp [partsOut]

theorem fenceBlock_mem (cause b : Nat) (s : State) : b ∈ (fenceBlock cause b s).srch.blocksOut := by
  unfold fenceBlock
  split
  · exact List.contains_iff_mem.mp ‹_›
  · simp

theorem fenceCell_mem (cause syndrome c : Nat) (s : State) : c ∈ (fenceCell cause syndrome c s).srch.cellsOut := by
  unfold fenceCell
  split
  · exact List.contains_iff_mem.mp ‹_›
  · simp

/-- A block that is lost leaves out of use what its fence does. -/
theorem loseBlockFrom_partsOut (before : State) (cause b : Nat) (s : State) :
    partsOut (loseBlockFrom before cause b s) = partsOut (fenceBlock cause b s) := by
  unfold loseBlockFrom
  split
  · rename_i out
    rw [fenceBlock, if_pos out]
  · extract_lets cells held queued _ s1 s2 s3
    have fenced : partsOut s1 = partsOut (fenceBlock cause b s) := (fenceBlock_partsOut cause b _).trans (fenceBlock_partsOut cause b s).symm
    have emptied : partsOut s2 = partsOut s1 := foldl_proj partsOut _ _ _ fun t c => by
      split
      · exact emptyCell_partsOut c t
      · rfl
    have placed : partsOut s3 = partsOut s2 := foldl_proj partsOut _ _ _ fun t v => placeAgain_partsOut _ v t
    rw [checkOwners_partsOut, moveWalks_partsOut, placed, emptied, fenced]

theorem loseBlockFrom_mem (before : State) (cause b : Nat) (s : State) : b ∈ (loseBlockFrom before cause b s).srch.blocksOut := by
  rw [blocksOut_of_partsOut (loseBlockFrom_partsOut before cause b s)]
  exact fenceBlock_mem cause b s

theorem loseBlockFrom_cellsOut (before : State) (cause b : Nat) (s : State) :
    (loseBlockFrom before cause b s).srch.cellsOut = s.srch.cellsOut :=
  (cellsOut_of_partsOut (loseBlockFrom_partsOut before cause b s)).trans (congrArg (·.1) (fenceBlock_partsOut cause b s))

theorem loseCell_mem (cause syndrome c : Nat) (s : State) (live : cellLive s c = true) : c ∈ (loseCell cause syndrome c s).srch.cellsOut := by
  unfold loseCell
  rw [if_neg (by simp [live])]
  extract_lets held walks s1 s2 s3
  have fenced : c ∈ s1.srch.cellsOut := by
    simpa [s1] using fenceCell_mem cause syndrome c (dropClaims c s)
  have emptied : partsOut s2 = partsOut s1 := by
    dsimp only [s2]
    split
    · rfl
    · rw [foldr_proj partsOut _ _ _ fun v t => putHead_partsOut v t, emptyCell_partsOut]
  have moved : partsOut s3 = partsOut s1 := (moveWalks_partsOut _ _).trans emptied
  have out : c ∈ s3.srch.cellsOut := by
    rw [cellsOut_of_partsOut moved]
    exact fenced
  split
  · rw [loseBlockFrom_cellsOut]
    exact out
  · rw [cellsOut_of_partsOut (checkOwners_partsOut s [cellBlock c] s3)]
    exact out

/-- A cell that is out of use is not live. -/
theorem cellLive_of_out {s : State} {c : Nat} (h : c ∈ s.srch.cellsOut) : cellLive s c = false := by
  simp [cellLive, h]

-- A region.

/-- A region that is lost is out of use, and what follows its fence leaves it so. -/
theorem loseRegion_mem (unit r : Nat) (s : State) : r ∈ (loseRegion unit r s).srch.regionsOut := by
  unfold loseRegion
  split
  · exact List.contains_iff_mem.mp ‹_›
  · extract_lets xs queued here tile back s0 _ s1 s2 place s3 gone mask d s4 s5
    have fenced : r ∈ s1.srch.regionsOut := by simp [s1]
    have emptied : partsOut s2 = partsOut s1 := foldl_proj partsOut _ _ _ fun t c => emptyCell_partsOut c.cell t
    have placed : partsOut s3 = partsOut s2 := by
      dsimp only [s3]
      rw [moveWalks_partsOut]
      refine foldl_proj partsOut _ _ _ fun t v => ?_
      dsimp only [place]
      split
      · rfl
      · exact placeSliver_partsOut v t
    have recorded : partsOut s4 = partsOut s3 := partsOut_congr (by simp [s4])
    have frozen : partsOut s5 = partsOut s4 := foldl_proj partsOut _ _ _ fun t x => freezeLost_partsOut _ _ _ t
    have after : partsOut (xs.foldl (fun t x => chipMerge x t) ((regionOwners s r).foldl (fun t x => faultJobs x.facet t) s5)) = partsOut s1 := by
      rw [foldl_proj partsOut _ _ _ fun t x => chipMerge_partsOut x t, foldl_proj partsOut _ _ _ fun t (x : FacetRec) => faultJobs_partsOut x.facet t,
        frozen, recorded, placed, emptied]
    rw [regionsOut_of_partsOut after]
    exact fenced

theorem applyFault_mem (unit r : Nat) (l : Load) (s : State) : r ∈ (applyFault unit r l s).srch.regionsOut := by
  unfold applyFault
  extract_lets owners
  rw [foldl_proj (fun t => t.srch.regionsOut) _ _ _ fun t f => by simp]
  exact loseRegion_mem unit r (failLoad l s)

theorem regionFault_mem (unit r : Nat) (s : State) : r ∈ (regionFault unit r s).srch.regionsOut := by
  unfold regionFault
  split
  · split
    · exact List.contains_iff_mem.mp ‹_›
    · exact applyFault_mem unit r _ s
  · exact loseRegion_mem unit r s

/-- A region that is out already stays so, and nothing else happens. -/
theorem regionFault_of_out (unit r : Nat) (s : State) (out : r ∈ s.srch.regionsOut) : regionFault unit r s = s := by
  have out' : s.srch.regionsOut.contains r = true := List.contains_iff_mem.mpr out
  unfold regionFault
  split
  · exact if_pos out'
  · exact if_pos out'

-- The rows.

section
variable {s : State} (on : clocked s = true)
include on

theorem cellFenced_out (c w : Nat) (live : cellLive s c = true) :
    Settles (.cellFenced c w) s fun u => c ∈ u.srch.cellsOut ∧ cellLive u c = false :=
  have out := loseCell_mem 0 w c (bumpRas 1 1 s) live
  ⟨_, congrArg Host.Outcome.next (if_pos on), out, cellLive_of_out out⟩

theorem lostProgress_out (c : Nat) (v : Sliver) (live : cellLive s c = true) (run : (cellOf s c).run = some v)
    (stuck : (cellOf s c).held + 4096000 / max 1 s.brd.coreMhz ≤ now s) : Settles (.lostProgress c) s fun u => c ∈ u.srch.cellsOut :=
  ⟨_, congrArg Host.Outcome.next (if_pos (by simp [on, run, stuck])), loseCell_mem 1 0xFFFFFFFF c s live⟩

theorem blockFenced_out (b w : Nat) : Settles (.blockFenced b w) s fun u => b ∈ u.srch.blocksOut :=
  ⟨_, congrArg Host.Outcome.next (if_pos on), loseBlockFrom_mem s w b s⟩

theorem heartbeatLapse_out (b : Nat) : Settles (.heartbeatLapse b) s fun u => b ∈ u.srch.blocksOut :=
  ⟨_, congrArg Host.Outcome.next (if_pos on), loseBlockFrom_mem s 2 b s⟩

theorem regionFenced_out (r w : Nat) : Settles (.regionFenced r w) s fun u => r ∈ u.srch.regionsOut :=
  ⟨_, congrArg Host.Outcome.next (if_pos on), regionFault_mem w r s⟩

theorem regionFenced_again (r w : Nat) (out : r ∈ s.srch.regionsOut) : exec (.regionFenced r w) s = .next (settle s) :=
  congrArg Host.Outcome.next ((if_pos on).trans (congrArg settle (regionFault_of_out w r s out)))

/-- A chip fatal error is recorded, every pair freezes, and the board waits for its reset (R327). -/
theorem goFatal_clocked (unit : Nat) : ∃ snap, goFatal unit s =
    let s1 := record 0x0104 unit snap { s with free := s.free + 4 }
    freezeWhere (fun _ => true) cauFatal { s1 with brd := { s1.brd with fatal := true, fatalUnit := unit } } := by
  unfold goFatal
  rw [if_neg (by simp [on])]
  exact ⟨_, rfl⟩

theorem chipFatal_freezes (unit : Nat) :
    ∃ u, exec (.chipFatal unit) s = .next (countHealth s u) ∧ u.brd = { s.brd with fatal := true, fatalUnit := unit } ∧
      u.qps = s.qps.map (freezeQp 6) ∧ Told s u ∧
      u = { s with brd := u.brd, qps := u.qps, evr := u.evr, hif := u.hif, out := u.out, free := s.free + 4 } := by
  obtain ⟨snap, fatal⟩ := goFatal_clocked on unit
  refine ⟨_, congrArg (fun u => Host.Outcome.next (countHealth s u)) fatal, ?_, ?_, ?_, ?_⟩
  · simp
  · simp [freezeWhere_qps, cauFatal]
  · exact told_trans (record_told 0x0104 unit snap { s with free := s.free + 4 }) (told_of_eq rfl rfl)
  · apply State.ext_of_fields <;> simp

end

/-- Settles O43: a fence puts its part out of use, and the rest of its command changes no part in use; a fatal error by its record and freeze. -/
theorem fencesAndFatalErrors : Obligations.FencesAndFatalErrors :=
  ⟨fun _ on => ⟨cellFenced_out on, lostProgress_out on, fun b w _ => blockFenced_out on b w, fun b _ => heartbeatLapse_out on b,
    fun r w _ => regionFenced_out on r w, regionFenced_again on⟩,
   fun unit _ on => chipFatal_freezes on unit⟩

end Sys2Proof.Machine
end

section
/-! A loaded image: applied whole, or refused with the region's fence while the configuration stays (R42 to R46, R361). -/

namespace Sys2Proof.Machine

open Sys2Proof.Safety

-- Freezes never make a facet ACTIVE (R47).

theorem freezeFacet_not_active (f cause : Nat) (s : State) : (facetOf (freezeFacet f cause s) f).state ≠ 1 := by
  by_cases h : (facetOf s f).state = 1 ∨ (facetOf s f).state = 2
  · rw [freezeFacet_state f cause s h]
    decide
  · obtain ⟨h1, h2⟩ := not_or.mp h
    rw [facetOf_congr (freezeFacet_facets f cause s h1 h2)]
    exact h1

theorem facetOf_freezeFacet_ne {f g : Nat} (cause : Nat) (s : State) (hg : g ≠ f) : facetOf (freezeFacet f cause s) g = facetOf s g := by
  unfold freezeFacet
  dsimp only
  split
  · rw [facetOf_updFacet_ne f g _ _ (by intro; rfl) hg]
    rfl
  · rfl

theorem freezeFacet_keeps_not_active {g : Nat} (f cause : Nat) (s : State) (h : (facetOf s g).state ≠ 1) :
    (facetOf (freezeFacet f cause s) g).state ≠ 1 := by
  by_cases hg : g = f
  · subst hg
    exact freezeFacet_not_active g cause s
  · rw [facetOf_freezeFacet_ne cause s hg]
    exact h

theorem freezeFacets_keep_not_active {g : Nat} (cause : Nat) (fs : List Nat) (s : State) (h : (facetOf s g).state ≠ 1) :
    (facetOf (fs.foldl (fun t f => freezeFacet f cause t) s) g).state ≠ 1 :=
  foldl_ind (fun t => (facetOf t g).state ≠ 1) _ fs s h fun t f ht => freezeFacet_keeps_not_active f cause t ht

/-- Of facets frozen one after the other none is ACTIVE at the end. -/
theorem freezeFacets_not_active {g : Nat} (cause : Nat) (fs : List Nat) (s : State) (hg : g ∈ fs) :
    (facetOf (fs.foldl (fun t f => freezeFacet f cause t) s) g).state ≠ 1 := by
  induction fs generalizing s with
  | nil => cases hg
  | cons f fs ih =>
    rcases List.mem_cons.mp hg with rfl | later
    · exact freezeFacets_keep_not_active cause fs _ (freezeFacet_not_active g cause s)
    · exact ih _ later

-- A load that is applied (R42, R43, R361).

@[simp] theorem applyCfg_cfg (cfg : ImageCfg) (img : List FormatRec) (s : State) : (applyCfg cfg img s).cfg = cfg := by
  simp [applyCfg]

/-- The configuration in force and the LAT_ registers that the end of a load leaves. -/
structure Applied (l : Load) (reshapeUs : Nat) (s w : State) : Prop where
  load : w.lat.load = none
  st : w.lat.st = 0
  active : w.lat.active = l.target
  loads : w.lat.loads = s.lat.loads + 1
  reshape : l.part = true → w.lat.reshapeUs = reshapeUs
  cfg : w.cfg = l.cfg

theorem Applied.congr {l : Load} {us : Nat} {s w v : State} (h : Applied l us s w) (lat : v.lat = w.lat) (cfg : v.cfg = w.cfg) :
    Applied l us s v := by
  obtain ⟨load, st, active, loads, reshape, conf⟩ := h
  rw [← lat] at load st active loads reshape
  exact ⟨load, st, active, loads, reshape, cfg.trans conf⟩

/-- The completion of the LOAD_LATTICE, if it still runs, changes nothing of what the image gives. -/
theorem endLoad_applied (l : Load) (us : Nat) (s : State) : Applied l us s (endLoad l us s) := by
  unfold endLoad
  extract_lets s1 x slots lat s2
  have applied : Applied l us s s2 :=
    ⟨rfl, rfl, rfl, by simp [s2, s1], fun part => if_pos part, by simp [s2, s1]⟩
  split
  · exact applied.congr (by simp) (by simp)
  · exact applied

-- A load that fails (R46).

/-- The load ended as refused under the configuration in force, the region out of use, and its owners ACTIVE no more. -/
def Failed (r : Nat) (s w : State) : Prop :=
  w.lat.load = none ∧ w.cfg = s.cfg ∧ w.lat.refused = s.lat.refused + 1 ∧ w.srch.regionsOut.contains r = true ∧
    ∀ x ∈ regionOwners s r, (facetOf w x.facet).state ≠ 1

theorem failLoad_lat (l : Load) (s : State) : (failLoad l s).lat.load = none ∧ (failLoad l s).lat.refused = s.lat.refused + 1 := by
  unfold failLoad
  extract_lets s1 lat s2
  have refused : s2.lat.load = none ∧ s2.lat.refused = s.lat.refused + 1 := ⟨rfl, rfl⟩
  split
  · simpa using refused
  · exact refused

theorem applyFault_lat (unit r : Nat) (l : Load) (s : State) : (applyFault unit r l s).lat = (failLoad l s).lat := by
  simp [applyFault]

theorem applyFault_failed (unit r : Nat) (l : Load) (s : State) : Failed r s (applyFault unit r l s) := by
  obtain ⟨load, refused⟩ := failLoad_lat l s
  refine ⟨?_, by simp, ?_, List.contains_iff_mem.mpr (applyFault_mem unit r l s), fun x owns => ?_⟩
  · rw [applyFault_lat, load]
  · rw [applyFault_lat, refused]
  · exact freezeFacets_not_active cauFacetFault _ _ (List.mem_map_of_mem owns)

-- The load that is being applied (R42, R43), and its rows.

section
variable {s : State} {l : Load} (loading : s.lat.load = some l)
include loading

theorem applying_full (full : l.part = false) (idle : drained s = true) : applying s = some l := by
  simp [applying, loading, full, idle, Option.filter]

theorem applying_part (part : l.part = true) (quiet : ((loadFacets s l).all fun f => (facetOf s f).paused && facetIdle s f) = true) :
    applying s = some l := by
  unfold applying
  rw [loading, Option.filter_some, if_pos ((if_pos part).trans quiet)]

end

section
variable {s : State} {l : Load} (due : applying s = some l)
include due

theorem latticeApply_applies (full : l.part = false) : latticeApply none s = settle (recoverStored (endLoad l 0 s)) := by
  simp [latticeApply, due, full]

theorem latticeApply_fails (full : l.part = false) (r : Nat) : latticeApply (some r) s = settle (applyFault 0 r l s) := by
  simp [latticeApply, due, full]

theorem regionReshape_applies (part : l.part = true) (mib : Nat) :
    regionReshape mib none s = settle (endLoad l (reshapeTime mib) s) := by
  simp [regionReshape, due, part]

theorem regionReshape_fails (part : l.part = true) (mib r : Nat) :
    regionReshape mib (some r) s = settle (applyFault 0 r l s) := by
  simp [regionReshape, due, part]

/-- A fence in a region of the load that is not out yet fails the load (R46). -/
theorem regionFault_fails (unit r : Nat) (hit : (!l.part || bit r l.mask) = true) (inUse : s.srch.regionsOut.contains r = false) :
    regionFault unit r s = applyFault unit r l s := by
  have found : ((applying s).filter fun l => !l.part || bit r l.mask) = some l := by rw [due, Option.filter_some, if_pos hit]
  unfold regionFault
  rw [found]
  exact if_neg (Bool.eq_false_iff.mp inUse)

theorem latticeApply_configures (full : l.part = false) :
    ∃ w, exec (.latticeApply none) s = .next (countHealth s (settle w)) ∧ Applied l 0 s w :=
  ⟨_, congrArg (fun t => Host.Outcome.next (countHealth s t)) (latticeApply_applies due full),
    (endLoad_applied l 0 s).congr (by simp) (by simp)⟩

theorem latticeApply_refuses (full : l.part = false) (r : Nat) :
    ∃ w, exec (.latticeApply (some r)) s = .next (countHealth s (settle w)) ∧ Failed r s w :=
  ⟨_, congrArg (fun t => Host.Outcome.next (countHealth s t)) (latticeApply_fails due full r), applyFault_failed 0 r l s⟩

theorem regionReshape_configures (part : l.part = true) (mib : Nat) :
    ∃ w, exec (.regionReshape mib none) s = .next (countHealth s (settle w)) ∧ Applied l (reshapeTime mib) s w :=
  ⟨_, congrArg (fun t => Host.Outcome.next (countHealth s t)) (regionReshape_applies due part mib), endLoad_applied l _ s⟩

theorem regionReshape_refuses (part : l.part = true) (mib r : Nat) :
    ∃ w, exec (.regionReshape mib (some r)) s = .next (countHealth s (settle w)) ∧ Failed r s w :=
  ⟨_, congrArg (fun t => Host.Outcome.next (countHealth s t)) (regionReshape_fails due part mib r), applyFault_failed 0 r l s⟩

theorem regionFenced_refuses (on : clocked s = true) (unit r : Nat) (hit : (!l.part || bit r l.mask) = true)
    (inUse : s.srch.regionsOut.contains r = false) : Settles (.regionFenced r unit) s (Failed r s) :=
  ⟨_, congrArg Host.Outcome.next ((if_pos on).trans (congrArg settle (regionFault_fails due unit r hit inUse))), applyFault_failed unit r l s⟩

end

theorem reshapeTime_eq (mib : Nat) : reshapeTime mib = min 420 (180 + (5 * mib + 1) / 2) := by
  unfold reshapeTime cdiv
  omega

/-- Settles O40: each row by what the end or the failure of the load that it finds being applied leaves. -/
theorem latticeLoadsApplyOrFail : Obligations.LatticeLoadsApplyOrFail := by
  unfold Obligations.LatticeLoadsApplyOrFail
  intro s l loading failed quiesced
  refine ⟨fun full idle => ?_, fun part quiet => ?_⟩
  · have due := applying_full loading full idle
    refine ⟨?_, latticeApply_refuses due full, fun r unit on inUse => regionFenced_refuses due on unit r (by simp [full]) inUse⟩
    obtain ⟨w, next, applied⟩ := latticeApply_configures due full
    exact ⟨w, next, applied.load, applied.st, applied.active, applied.loads, applied.cfg⟩
  · have due := applying_part loading part quiet
    refine ⟨fun mib => ?_, regionReshape_refuses due part, fun r unit on hit inUse => regionFenced_refuses due on unit r (by simp [hit]) inUse⟩
    obtain ⟨w, next, applied⟩ := regionReshape_configures due part mib
    exact ⟨w, next, applied.load, applied.st, (applied.reshape part).trans (reshapeTime_eq mib), applied.loads, applied.cfg⟩

end Sys2Proof.Machine
end

section
/-! What of a facet stands: all but its counters, its log and its queue. What a write leaves of its facet and its index (R71, R74 to R77, R125). -/

namespace Sys2Proof.Machine

open Sys2Proof.Safety

-- A facet without what work only counts, logs or queues on it.

/-- A facet without its counters, its energy, its log and its admission queue. -/
def Facet.standing (x : Facet) : Facet := { x with ctr := [], energyNj := 0, log := [], logUnits := 0, admission := [] }

/-- What stands of every facet of a state. -/
def standing (s : State) : Nat → Facet := fun f => (facetOf s f).standing

theorem standing_congr {s t : State} (h : t.facets = s.facets) : standing t = standing s := by
  funext f
  unfold standing
  rw [facetOf_congr h]

theorem standing_updFacet (f : Nat) (g : Facet → Facet) (s : State) (h : ∀ x, (g x).standing = x.standing) :
    standing (updFacet f g s) = standing s := by
  have keepsNum : ∀ x, (g x).num = x.num := fun x => (congrArg Facet.num (h x) :)
  funext k
  unfold standing
  by_cases hk : k = f
  · rw [hk, facetOf_updFacet f g s keepsNum, h]
  · rw [facetOf_updFacet_ne f k g s keepsNum hk]

/-- A field that no charge, log record or queue changes. -/
theorem field_of_standing {α : Type} (k : Facet → α) {s t : State} (h : standing t = standing s) (f : Nat) (hk : ∀ x : Facet, k x.standing = k x) :
    k (facetOf t f) = k (facetOf s f) := by
  rw [← hk, ← hk (facetOf s f)]
  exact congrArg k (congrFun h f)

theorem CountedOn.standing_eq {f : Nat} {s t : State} (h : CountedOn f s t) : standing t = standing s := by
  obtain ⟨others, own⟩ := h
  funext k
  unfold standing
  by_cases hk : k = f
  · rw [hk, own]
    rfl
  · rw [others k hk]

theorem facetOf_markChanged (f : Nat) (s : State) : facetOf (markChanged f s) f = { facetOf s f with changed := true } :=
  facetOf_updFacet f _ s fun _ => rfl

theorem bump_standing (f k n : Nat) (s : State) : standing (bump f k n s) = standing s := standing_updFacet _ _ _ fun _ => rfl

theorem allJobs_standing {f cls : Nat} {w : SegWork} {js : List Job} {s t : State} (h : allJobs f cls w js s = some t) :
    standing t = standing s := by
  unfold allJobs at h
  dsimp only at h
  split at h
  · cases h
    exact (runJobs_countedOn cls w js (countedOn_of_eq rfl)).standing_eq
  · cases h

theorem logPrograms_standing (f epoch n : Nat) (s : State) : standing (logPrograms f epoch n s) = standing s := by
  induction n generalizing s with
  | zero => rfl
  | succ n ih =>
    unfold logPrograms
    rw [ih]
    exact (standing_congr (by simp)).trans (standing_updFacet f (fun x => { x with logUnits := (facetOf s f).logUnits + 1 }) s fun _ => rfl)

theorem appendLog_standing (f epoch units : Nat) (close : Bool) (s : State) : standing (appendLog f epoch units close s) = standing s :=
  (logPrograms_standing _ _ _ _).trans (standing_updFacet _ _ _ fun _ => rfl)

theorem countSketches_standing (s0 : State) (ix : Index) (cls : Nat) (vs : List Stored) (s : State) :
    standing (countSketches s0 ix cls vs s) = standing s :=
  foldl_proj standing _ _ _ fun t _ => (bump_standing _ _ _ _).trans (bump_standing _ _ _ t)

-- Location words (R73).

theorem eq_of_getD {α : Type} [Nontrivial α] {o p : Option α} (h : ∀ d, o.getD d = p.getD d) : o = p := by
  cases o with
  | none =>
    cases p with
    | none => rfl
    | some y => obtain ⟨d, hd⟩ := exists_ne y; exact absurd (h d) hd
  | some x =>
    cases p with
    | none => obtain ⟨d, hd⟩ := exists_ne x; exact absurd (h d).symm hd
    | some y => exact congrArg some (h x)

theorem locate_mapSet (id : Nat) (l : Loc) (ix : Index) (k : Nat) :
    locate (mapSet id l ix) k = if k = id then some l else locate ix k := by
  have : Nontrivial Loc := ⟨.side 0, .side 1, by simp⟩
  refine eq_of_getD fun d => ?_
  by_cases hk : k = id
  · rw [if_pos hk, hk]
    exact look_put d l id ix.map
  · rw [if_neg hk]
    exact look_put_ne d l id k ix.map hk

/-- The index without the location words of some IDs. -/
def unlisted (ids : List Nat) (ix : Index) : Index := ids.foldl (fun j id => mapDel id j) ix

theorem unlisted_eq (ids : List Nat) (ix : Index) :
    unlisted ids ix = { ix with map := (unlisted ids ix).map, cached := (unlisted ids ix).cached } := by
  induction ids generalizing ix with
  | nil => rfl
  | cons id ids ih => exact ih (mapDel id ix)

-- Entries at the tail of the side list (R71, R76, R125).

/-- The entries of some vectors from an append number on. -/
def sideEntries (epoch gen : Nat) : Nat → List Stored → List SideEnt
  | _, [] => []
  | a, v :: vs => ⟨a, v, epoch, gen, false, false, 0, false⟩ :: sideEntries epoch gen (a + 1) vs

theorem sideEntries_v (epoch gen a : Nat) (vs : List Stored) : (sideEntries epoch gen a vs).map (·.v) = vs := by
  induction vs generalizing a with
  | nil => rfl
  | cons v vs ih => simp [sideEntries, ih]

theorem sideEntries_epoch (epoch gen a : Nat) (vs : List Stored) :
    (sideEntries epoch gen a vs).map (·.epoch) = List.replicate vs.length epoch := by
  induction vs generalizing a with
  | nil => rfl
  | cons v vs ih => simp [sideEntries, ih, List.replicate_succ]

/-- A new entry is neither void nor deleted, and carries its epoch. -/
theorem of_mem_sideEntries {epoch gen a : Nat} {vs : List Stored} {v : SideEnt} (h : v ∈ sideEntries epoch gen a vs) :
    v.epoch = epoch ∧ v.void = false ∧ v.tomb = false ∧ v.v ∈ vs := by
  induction vs generalizing a with
  | nil => cases h
  | cons w vs ih =>
    rcases List.mem_cons.mp h with rfl | later
    · exact ⟨rfl, rfl, rfl, List.mem_cons_self⟩
    · obtain ⟨he, hv, ht, hm⟩ := ih later
      exact ⟨he, hv, ht, List.mem_cons_of_mem _ hm⟩

theorem nextApp_append (epoch : Nat) (v : Stored) (ix : Index) : nextApp (appendSide epoch [v] ix) = nextApp ix + 1 := by
  simp [appendSide, nextApp, mapSet]

theorem appendSide_eq (epoch : Nat) (vs : List Stored) (ix : Index) :
    appendSide epoch vs ix = { ix with
      side := ix.side ++ sideEntries epoch ix.gen (nextApp ix) vs, map := (appendSide epoch vs ix).map,
      cached := (appendSide epoch vs ix).cached, committed := (appendSide epoch vs ix).committed } := by
  induction vs generalizing ix with
  | nil => simp [appendSide, sideEntries]
  | cons v vs ih =>
    have step : appendSide epoch (v :: vs) ix = appendSide epoch vs (appendSide epoch [v] ix) := rfl
    have sides : ix.side ++ sideEntries epoch ix.gen (nextApp ix) (v :: vs) =
        (appendSide epoch [v] ix).side ++ sideEntries epoch ix.gen (nextApp ix + 1) vs := by
      simp [appendSide, mapSet, sideEntries]
    rw [step, sides, ← nextApp_append epoch v ix]
    exact ih (appendSide epoch [v] ix)

@[simp] theorem appendSide_geo (epoch : Nat) (vs : List Stored) (ix : Index) : (appendSide epoch vs ix).geo = ix.geo := by rw [appendSide_eq]

theorem appendSide_side (epoch : Nat) (vs : List Stored) (ix : Index) :
    (appendSide epoch vs ix).side = ix.side ++ sideEntries epoch ix.gen (nextApp ix) vs := by rw [appendSide_eq]

/-- The ID lies at an append number not below n. -/
def LiesFrom (n id : Nat) (ix : Index) : Prop := ∃ a, locate ix id = some (.side a) ∧ n ≤ a

theorem liesFrom_appended (epoch n : Nat) (v : Stored) (ix : Index) (hn : n ≤ nextApp ix) : LiesFrom n v.id (appendSide epoch [v] ix) :=
  ⟨nextApp ix, (locate_mapSet _ _ _ _).trans (if_pos rfl), hn⟩

/-- What lies there still does when more is appended. -/
theorem liesFrom_appendSide (epoch n id : Nat) (vs : List Stored) (ix : Index) (hn : n ≤ nextApp ix) (h : LiesFrom n id ix) :
    LiesFrom n id (appendSide epoch vs ix) := by
  induction vs generalizing ix with
  | nil => exact h
  | cons v vs ih =>
    refine ih (appendSide epoch [v] ix) (by rw [nextApp_append]; omega) ?_
    by_cases hv : id = v.id
    · rw [hv]
      exact liesFrom_appended epoch n v ix hn
    · obtain ⟨a, found, ha⟩ := h
      exact ⟨a, ((locate_mapSet _ _ _ _).trans (if_neg hv)).trans found, ha⟩

/-- Every appended vector's location word points at the tail. -/
theorem appended_liesFrom (epoch n : Nat) (vs : List Stored) (ix : Index) (hn : n ≤ nextApp ix) {v : Stored} (hv : v ∈ vs) :
    LiesFrom n v.id (appendSide epoch vs ix) := by
  induction vs generalizing ix with
  | nil => cases hv
  | cons w vs ih =>
    have hn' : n ≤ nextApp (appendSide epoch [w] ix) := by rw [nextApp_append]; omega
    rcases List.mem_cons.mp hv with rfl | later
    · exact liesFrom_appendSide epoch n v.id vs _ hn' (liesFrom_appended epoch n v ix hn)
    · exact ih _ hn' later

-- What a write leaves of its index and its facet.

theorem idxOf_congr {s t : State} (h : t.idx = s.idx) (f slot : Nat) : idxOf t f slot = idxOf s f slot := by unfold idxOf; rw [h]

theorem idxOf_slot {s : State} {f slot : Nat} {ix : Index} (h : idxOf s f slot = some ix) : ix.geo.slot = slot := by
  have := List.find?_some h
  simp only [Bool.and_eq_true, beq_iff_eq] at this
  exact this.2

theorem idxOf_of_usable {s : State} {f slot : Nat} {ix : Index} (h : usableIdx s f slot = some ix) : idxOf s f slot = some ix := by
  unfold usableIdx at h
  split at h
  · rename_i found
    split at h
    · rw [found, ← h]
    · cases h
  · cases h

/-- The pending deletes of some IDs from an epoch on (R74). -/
def pendsOf (ix : Index) (slot epoch : Nat) (ids : List Nat) : List Pend :=
  ids.filterMap fun i => (locate ix i).map fun l => ⟨slot, l, epoch, 0, none⟩

theorem deleteIds_idxOf {f slot : Nat} {s : State} {ix : Index} (h : idxOf s f slot = some ix) (epoch : Nat) (ids : List Nat) :
    idxOf (deleteIds f epoch slot ids s) f slot = some (unlisted ids ix) := by
  have geo : ∀ x : Index, (unlisted ids x).geo = x.geo := fun x => by rw [unlisted_eq]
  unfold deleteIds
  rw [h]
  exact (idxOf_updIdx f slot (unlisted ids) s geo).trans (by rw [h]; rfl)

theorem deleteIds_facet {f slot : Nat} {s : State} {ix : Index} (h : idxOf s f slot = some ix) (epoch : Nat) (ids : List Nat) :
    facetOf (deleteIds f epoch slot ids s) f = { facetOf s f with pend := (facetOf s f).pend ++ pendsOf ix slot epoch ids } := by
  unfold deleteIds
  rw [h]
  exact facetOf_updFacet f _ _ fun _ => rfl

/-- The write's index as its commit leaves it but for what it appends (R76). -/
def writeBase (c : Cmd) (live : List Nat) (ix : Index) : Index := if c.op == .insert then ix else unlisted live ix

/-- The index that a write leaves, of a facet that was x. -/
def afterWrite (c : Cmd) (live : List Nat) (ix : Index) (x : Facet) (vs : List Stored) : Index :=
  appendSide (x.epoch + 1) vs (writeBase c live ix)

/-- The pending deletes that a write makes (R74). -/
def writePends (c : Cmd) (live : List Nat) (ix : Index) (epoch : Nat) : List Pend :=
  if c.op == .insert then [] else pendsOf ix c.slot epoch live

/-- A write has taken effect on an index whose facet was x: its vectors are at the tail and its deletes pend, all at the next epoch. -/
structure Wrote (c : Cmd) (live : List Nat) (ix : Index) (x : Facet) (vs : List Stored) (u : State) : Prop where
  idx : idxOf u c.facet c.slot = some (afterWrite c live ix x vs)
  pend : (facetOf u c.facet).pend = x.pend ++ writePends c live ix (x.epoch + 1)
  epoch : (facetOf u c.facet).epoch = x.epoch
  changed : (facetOf u c.facet).changed = true

theorem Wrote.congr {c : Cmd} {live : List Nat} {ix : Index} {x : Facet} {vs : List Stored} {u v : State} (h : Wrote c live ix x vs u)
    (idx : v.idx = u.idx) (facets : standing v = standing u) : Wrote c live ix x vs v where
  idx := (idxOf_congr idx _ _).trans h.idx
  pend := (field_of_standing Facet.pend facets _ fun _ => rfl).trans h.pend
  epoch := (field_of_standing Facet.epoch facets _ fun _ => rfl).trans h.epoch
  changed := (field_of_standing Facet.changed facets _ fun _ => rfl).trans h.changed

/-- The deletes of a write, and then its appends. -/
theorem wrote_of_deletes {c : Cmd} {ix : Index} {x : Facet} {s : State} (h : idxOf s c.facet c.slot = some ix)
    (pend : (facetOf s c.facet).pend = x.pend) (epoch : (facetOf s c.facet).epoch = x.epoch) (live : List Nat) (vs : List Stored) :
    Wrote c live ix x vs (markChanged c.facet (updIdx c.facet c.slot (appendSide (x.epoch + 1) vs)
      (if c.op == .insert then s else noteFlushes c (deleteIds c.facet (x.epoch + 1) c.slot live s)))) := by
  have facet : ∀ t : State, facetOf (markChanged c.facet (updIdx c.facet c.slot (appendSide (x.epoch + 1) vs) t)) c.facet =
      { facetOf t c.facet with changed := true } := fun _ => facetOf_markChanged c.facet _
  have index : ∀ t : State, idxOf (markChanged c.facet (updIdx c.facet c.slot (appendSide (x.epoch + 1) vs) t)) c.facet c.slot =
      (idxOf t c.facet c.slot).map (appendSide (x.epoch + 1) vs) := fun t => idxOf_updIdx c.facet c.slot _ t (appendSide_geo _ vs)
  by_cases ins : (c.op == .insert) = true
  · constructor <;> simp [ins, facet, index, h, afterWrite, writeBase, writePends, pend, epoch]
  · have noted : facetOf (noteFlushes c (deleteIds c.facet (x.epoch + 1) c.slot live s)) c.facet = _ := deleteIds_facet h (x.epoch + 1) live
    have found : idxOf (noteFlushes c (deleteIds c.facet (x.epoch + 1) c.slot live s)) c.facet c.slot = _ :=
      deleteIds_idxOf h (x.epoch + 1) live
    constructor <;> simp [ins, facet, index, noted, found, afterWrite, writeBase, writePends, pend, epoch]

/-- A write that takes effect: nothing after its appends and deletes touches them. -/
theorem applyWrite_wrote {c : Cmd} {ix : Index} {x : Facet} {s : State} (h : idxOf s c.facet c.slot = some ix)
    (pend : (facetOf s c.facet).pend = x.pend) (epoch : (facetOf s c.facet).epoch = x.epoch) (jx : Index) (ids : List Nat) :
    Wrote c (liveIds jx ids) ix x (writeVectors s jx c) (applyWrite jx c ids s) := by
  unfold applyWrite
  extract_lets f e live vs s0 s1 s2 first s3 forced nf c' s4
  have he : e = x.epoch + 1 := congrArg (· + 1) epoch
  have counted : standing s0 = standing s := countSketches_standing s jx 3 vs s
  have wrote : Wrote c live ix x vs (markChanged f (updIdx f c.slot (appendSide e vs) s1)) := by
    dsimp only [s1]
    rw [he]
    exact wrote_of_deletes ((idxOf_congr (by simp [s0]) _ _).trans h) ((field_of_standing Facet.pend counted _ fun _ => rfl).trans pend)
      ((field_of_standing Facet.epoch counted _ fun _ => rfl).trans epoch) live vs
  have logged : Wrote c live ix x vs s3 := by
    refine wrote.congr (by simp [s3, s2]) ?_
    dsimp only [s3]
    rw [standing_congr (by simp : _ = (appendLog f e (cdiv vs.length (perUnit jx.geo) + 1) false
      (migForward f c.slot (migWriteOf c e live vs) s2)).facets), appendLog_standing]
    exact standing_congr (by simp [s2])
  split
  · exact logged.congr (by simp [s4]) (standing_congr (by simp [s4]))
  · exact logged.congr (by simp [s4]) (standing_congr (by simp [s4]))

end Sys2Proof.Machine
end

section
/-! COMMIT of an INSERT, a DELETE or a LABEL_UPDATE, and what queries see of it (R71, R74 to R78, R122 to R126, R223, R267). -/

namespace Sys2Proof.Machine

open Sys2Proof.Safety

-- The row.

section
variable {tag : Nat} {s : State} {c : Cmd} {ix : Index} (found : cmdOf s tag = some c) (due : commitDue s c = true)
  (index : c.index s = some ix) (free : ix.held = false)

include found due in
theorem commit_due : exec (.commit tag) s = .next (settle (floorAdvance c.facet (commitWrite c s))) := by
  have row : commitAt tag s = settle (floorAdvance c.facet (commitWrite c s)) := by simp [commitAt, found, due]
  exact congrArg Host.Outcome.next row

include index free in
theorem commitWrite_noRegion (op : c.op ≠ .delete) (out : noRegion s c.facet = true) :
    commitWrite c s = finish c 11 0 0 [] running0 s := by
  simp [commitWrite, index, free, out, op, stFacetFault]

include index free in
/-- A write that is not refused and has room commits once what it asks of the engines is granted. -/
theorem commitWrite_fits (region : noRegion s c.facet = false ∨ c.op = .delete)
    (accepted : c.op = .insert → insertRefusal s ix c (c.ids s) = none) (side : sideUsed ix + newSide ix c (c.ids s) ≤ ix.geo.sideLimit)
    (room : pendCount (facetOf s c.facet) + newPend ix c (c.ids s) ≤ 65536) :
    commitWrite c s = ((allJobs c.facet 3 .ended (writeJobs s { ix with work := none } c) s).map
      (applyWrite { ix with work := none } c (c.ids s))).getD s := by
  have faulted : (noRegion s c.facet && c.op != .delete) = false := by
    rcases region with region | op
    · simp [region]
    · simp [op]
  have refused : (if c.op == .insert then insertRefusal s ix c (c.ids s) else none) = none := by
    split
    · exact accepted (eq_of_beq ‹_›)
    · rfl
  unfold commitWrite
  simp only [index, free, faulted, refused, if_neg (Nat.not_lt.mpr side), if_neg (Nat.not_lt.mpr room), Bool.false_eq_true, if_false]
  cases allJobs c.facet 3 .ended _ s <;> rfl

include index in
theorem idxOf_of_index : idxOf s c.facet c.slot = some ix := idxOf_of_usable index

include found due index free in
/-- A granted write settles on its effect, behind which the floor moves on. -/
theorem commit_wrote {t : State} (region : noRegion s c.facet = false ∨ c.op = .delete)
    (accepted : c.op = .insert → insertRefusal s ix c (c.ids s) = none) (side : sideUsed ix + newSide ix c (c.ids s) ≤ ix.geo.sideLimit)
    (room : pendCount (facetOf s c.facet) + newPend ix c (c.ids s) ≤ 65536)
    (granted : allJobs c.facet 3 .ended (writeJobs s { ix with work := none } c) s = some t) :
    Settles (.commit tag) s fun w => ∃ u, w = floorAdvance c.facet u ∧
      Wrote c (liveIds ix (c.ids s)) ix (facetOf s c.facet) (writeVectors t { ix with work := none } c) u := by
  have jobs := allJobs_rest _ _ _ _ _ _ granted
  have idx : t.idx = s.idx := by simp [jobs]
  have facets := allJobs_standing granted
  refine ⟨_, commit_due found due, _, rfl, ?_⟩
  rw [commitWrite_fits index free region accepted side room, granted]
  exact applyWrite_wrote ((idxOf_congr idx _ _).trans (idxOf_of_index index)) (field_of_standing Facet.pend facets _ fun _ => rfl)
    (field_of_standing Facet.epoch facets _ fun _ => rfl) { ix with work := none } (c.ids s)

end

theorem writeBase_side (c : Cmd) (live : List Nat) (ix : Index) : (writeBase c live ix).side = ix.side := by
  unfold writeBase
  split
  · rfl
  · rw [unlisted_eq]

theorem nextApp_writeBase (c : Cmd) (live : List Nat) (ix : Index) : nextApp (writeBase c live ix) = nextApp ix := by
  unfold writeBase
  split
  · rfl
  · rw [unlisted_eq]
    rfl

-- What a relabelled vector is (R76).

/-- The work in progress on an index holds none of its vectors. -/
theorem found_of_idle (ix : Index) (w : Option Work) (id : Nat) :
    (locate { ix with work := w } id).bind (storedAt { ix with work := w }) = (locate ix id).bind (storedAt ix) := by
  have stored : ∀ l, storedAt { ix with work := w } l = storedAt ix l := fun l => by cases l <;> rfl
  rw [funext stored]
  rfl

/-- A LABEL_UPDATE's new entry: an entry of the command's data for a live ID, with its new label. -/
theorem of_mem_relabelled {s : State} {ix : Index} {c : Cmd} {v : Stored} (h : v ∈ relabelled s { ix with work := none } c) :
    ∃ k w, k < c.count ∧ v.id = field (16 * k) 8 c.data ∧ v.label = field (16 * k + 8) 8 c.data ∧
      (locate ix v.id).bind (storedAt ix) = some w ∧ (c.failedReads.contains v.id = false → v.vec = w.vec) := by
  obtain ⟨k, hk, made⟩ := List.mem_filterMap.mp h
  dsimp only at made
  split at made
  · cases made
  · rename_i w stored
    cases made
    exact ⟨k, w, List.mem_range.mp hk, rfl, rfl, (found_of_idle ix none _).symm.trans stored, fun ok => if_neg (Bool.eq_false_iff.mp ok)⟩

section
variable {c : Cmd} {live : List Nat} {ix : Index} {x : Facet} {vs : List Stored} {u : State} (h : Wrote c live ix x vs u)
include h

/-- The vectors stand at the tail with the next epoch, and the facet has changed. -/
theorem Wrote.appended :
    (idxOf u c.facet c.slot).map (fun i => i.side.map (·.v)) = some (ix.side.map (·.v) ++ vs) ∧
    (idxOf u c.facet c.slot).map (fun i => (i.side.drop ix.side.length).map (·.epoch)) = some (List.replicate vs.length (x.epoch + 1)) ∧
    (facetOf u c.facet).changed = true ∧ (facetOf u c.facet).epoch = x.epoch := by
  refine ⟨?_, ?_, h.changed, h.epoch⟩
  · simp [h.idx, afterWrite, appendSide_side, writeBase_side, sideEntries_v]
  · simp [h.idx, afterWrite, appendSide_side, writeBase_side, sideEntries_epoch]

theorem Wrote.pend_deletes (op : c.op ≠ .insert) : (facetOf u c.facet).pend = x.pend ++ pendsOf ix c.slot (x.epoch + 1) live := by
  rw [h.pend, writePends, if_neg (by simpa using op)]

theorem Wrote.liesFrom {v : Stored} (hv : v ∈ vs) :
    ∃ i a, idxOf u c.facet c.slot = some i ∧ locate i v.id = some (.side a) ∧ nextApp ix ≤ a := by
  obtain ⟨a, lies, ha⟩ := appended_liesFrom (x.epoch + 1) (nextApp ix) vs (writeBase c live ix) (nextApp_writeBase c live ix).ge hv
  exact ⟨_, a, h.idx, lies, ha⟩

end

/-- Settles O30: each write by what its effect leaves of its index and its facet. -/
theorem writesCommit : Obligations.WritesCommit := by
  unfold Obligations.WritesCommit
  intro tag s c ix found due index free x jx deletes appended
  refine ⟨fun op out => ?_, fun region accepted side room => ⟨fun waits => ?_, fun t granted => ?_⟩⟩
  · rw [commit_due found due, commitWrite_noRegion index free op out]
  · rw [commit_due found due, commitWrite_fits index free region accepted side room, waits]
    rfl
  obtain ⟨w, next, u, rfl, wrote⟩ := commit_wrote found due index free region accepted side room granted
  refine ⟨fun op => ?_, fun op => ?_, fun op => ⟨?_, fun v hv => of_mem_relabelled hv⟩⟩
  all_goals simp only [writeVectors, op] at wrote
  · exact ⟨_, next, u, rfl, wrote.appended⟩
  · refine ⟨_, next, u, rfl, wrote.pend_deletes (by simp [op]), ?_, wrote.changed⟩
    simp [wrote.idx, afterWrite, appendSide_side, writeBase_side, sideEntries]
  · exact ⟨_, next, u, rfl, wrote.appended, wrote.pend_deletes (by simp [op]), fun v hv => wrote.liesFrom hv⟩

-- What queries of an epoch see (R75, R77, R78, R140).

theorem pendingAt_append (x y : Facet) (ps : List Pend) (slot : Nat) (l : Loc) (e : Nat) (h : y.pend = x.pend ++ ps)
    (later : ∀ p ∈ ps, e < p.epoch) : pendingAt y slot l e = pendingAt x slot l e := by
  have none : (ps.any fun p => p.slot == slot && p.loc == l && p.epoch ≤ e && p.since ≤ e && p.till.all (e < ·)) = false := by
    rw [List.any_eq_false]
    intro p hp
    simp [Nat.not_le.mpr (later p hp)]
  unfold pendingAt
  rw [h, List.any_append, none, Bool.or_false]

theorem pendsOf_epoch {ix : Index} {slot epoch : Nat} {ids : List Nat} {p : Pend} (h : p ∈ pendsOf ix slot epoch ids) : p.epoch = epoch := by
  obtain ⟨i, -, made⟩ := List.mem_filterMap.mp h
  obtain ⟨l, -, rfl⟩ := Option.map_eq_some_iff.mp made
  rfl

theorem writePends_epoch {c : Cmd} {live : List Nat} {ix : Index} {epoch : Nat} {p : Pend} (h : p ∈ writePends c live ix epoch) :
    p.epoch = epoch := by
  unfold writePends at h
  split at h
  · cases h
  · exact pendsOf_epoch h

/-- What the records of an index are read from, besides its side list. -/
theorem writeBase_fields (c : Cmd) (live : List Nat) (ix : Index) :
    (writeBase c live ix).geo = ix.geo ∧ (writeBase c live ix).lists = ix.lists ∧ (writeBase c live ix).moves = ix.moves := by
  unfold writeBase
  split
  · exact ⟨rfl, rfl, rfl⟩
  · rw [unlisted_eq]
    exact ⟨rfl, rfl, rfl⟩

theorem movedAt_congr {i j : Index} (h : j.moves = i.moves) (a e : Nat) : movedAt j a e = movedAt i a e := by unfold movedAt; rw [h]

section
variable {x y : Facet} {i j : Index} (geo : j.geo = i.geo)
include geo

/-- The records of the lists follow from the lists and from the deletes pending in them. -/
theorem listRecords_congr (lists : j.lists = i.lists) (l e : Nat)
    (pend : ∀ p, pendingAt y i.geo.slot (.list l p) e = pendingAt x i.geo.slot (.list l p) e) : listRecords y j l e = listRecords x i l e := by
  have dir : listOf j l = listOf i l := by unfold listOf; rw [lists]
  unfold listRecords
  simp only [dir, geo, pend]

/-- Entries at the tail that carry a later epoch are not among the records of the side list. -/
theorem sideRecords_append {new : List SideEnt} (moves : j.moves = i.moves) (side : j.side = i.side ++ new) (e : Nat)
    (later : ∀ v ∈ new, e < v.epoch) (pend : ∀ l, pendingAt y i.geo.slot l e = pendingAt x i.geo.slot l e) :
    sideRecords y j e = sideRecords x i e := by
  have none : (new.filter fun s => s.epoch ≤ e && !s.void && !s.tomb && !movedAt i s.app e && !pendingAt x i.geo.slot (.side s.app) e) = [] := by
    rw [List.filter_eq_nil_iff]
    intro v hv
    simp [Nat.not_le.mpr (later v hv)]
  unfold sideRecords
  simp only [side, geo, pend, movedAt_congr moves, List.filter_append, none, List.append_nil]

end

section
variable {c : Cmd} {live : List Nat} {ix : Index} {x : Facet} {vs : List Stored} {u : State}

/-- The entries that it leaves at the tail. -/
def newEntries (c : Cmd) (live : List Nat) (ix : Index) (x : Facet) (vs : List Stored) : List SideEnt :=
  sideEntries (x.epoch + 1) (writeBase c live ix).gen (nextApp (writeBase c live ix)) vs

theorem afterWrite_side (c : Cmd) (live : List Nat) (ix : Index) (x : Facet) (vs : List Stored) :
    (afterWrite c live ix x vs).side = ix.side ++ newEntries c live ix x vs := by
  unfold afterWrite newEntries
  rw [appendSide_side, writeBase_side]

theorem afterWrite_tail (c : Cmd) (live : List Nat) (ix : Index) (x : Facet) (vs : List Stored) :
    (afterWrite c live ix x vs).side.drop ix.side.length = newEntries c live ix x vs := by
  rw [afterWrite_side, List.drop_left]

theorem afterWrite_fields (c : Cmd) (live : List Nat) (ix : Index) (x : Facet) (vs : List Stored) :
    (afterWrite c live ix x vs).geo = ix.geo ∧ (afterWrite c live ix x vs).lists = ix.lists ∧ (afterWrite c live ix x vs).moves = ix.moves := by
  unfold afterWrite
  rw [appendSide_eq]
  exact writeBase_fields c live ix

/-- From its epoch on each of its vectors is a record, unless it has been moved or deleted. -/
theorem afterWrite_joins {y : Facet} (slot : ix.geo.slot = c.slot) (e : Nat) (he : x.epoch < e) :
    ∀ v ∈ (afterWrite c live ix x vs).side.drop ix.side.length, movedAt (afterWrite c live ix x vs) v.app e = false →
      pendingAt y c.slot (.side v.app) e = false →
      v ∈ sideRecords y (afterWrite c live ix x vs) e := by
  intro v hv moved deleted
  obtain ⟨geo, -⟩ := afterWrite_fields c live ix x vs
  rw [afterWrite_tail] at hv
  obtain ⟨epoch, void, tomb, -⟩ := of_mem_sideEntries hv
  refine List.mem_filter.mpr ⟨?_, ?_⟩
  · rw [afterWrite_side]
    exact List.mem_append_right _ hv
  · simp only [geo, slot, moved, deleted, epoch, void, tomb]
    simpa using he

variable (h : Wrote c live ix x vs u)
include h

theorem Wrote.pendingAt_before (slot : Nat) (l : Loc) (e : Nat) (he : e ≤ x.epoch) :
    pendingAt (facetOf u c.facet) slot l e = pendingAt x slot l e :=
  pendingAt_append _ _ _ _ _ _ h.pend fun p hp => by rw [writePends_epoch hp]; omega

/-- At the epochs before its own a write is not seen at all. -/
theorem Wrote.records_before (e : Nat) (he : e ≤ x.epoch) :
    sideRecords (facetOf u c.facet) (afterWrite c live ix x vs) e = sideRecords x ix e ∧
      ∀ l, listRecords (facetOf u c.facet) (afterWrite c live ix x vs) l e = listRecords x ix l e := by
  obtain ⟨geo, lists, moves⟩ := afterWrite_fields c live ix x vs
  refine ⟨?_, fun l => ?_⟩
  · refine sideRecords_append geo moves (afterWrite_side c live ix x vs) e (fun v hv => ?_) fun l => h.pendingAt_before _ l e he
    obtain ⟨hv, -⟩ := of_mem_sideEntries hv
    omega
  · exact listRecords_congr geo lists l e fun p => h.pendingAt_before _ _ e he

/-- From its epoch on every live ID that it deletes is deleted where it was. -/
theorem Wrote.leaves (op : c.op ≠ .insert) (e : Nat) (he : x.epoch < e) (id : Nat) (hid : id ∈ live) (l : Loc) (at' : locate ix id = some l) :
    pendingAt (facetOf u c.facet) c.slot l e = true := by
  unfold pendingAt
  rw [h.pend_deletes op, List.any_append, Bool.or_eq_true]
  right
  refine List.any_eq_true.mpr ⟨⟨c.slot, l, x.epoch + 1, 0, none⟩, List.mem_filterMap.mpr ⟨id, hid, by rw [at']; rfl⟩, ?_⟩
  simpa using he

/-- An INSERT changes no list. -/
theorem Wrote.listRecords_insert (op : c.op = .insert) (e l : Nat) :
    listRecords (facetOf u c.facet) (afterWrite c live ix x vs) l e = listRecords x ix l e := by
  obtain ⟨geo, lists, -⟩ := afterWrite_fields c live ix x vs
  have pend : (facetOf u c.facet).pend = x.pend := by rw [h.pend]; simp [writePends, op]
  exact listRecords_congr geo lists l e fun p => by unfold pendingAt; rw [pend]

end

/-- Settles O31: before its epoch a write changes no record; from then on its entries are records and its deletes pend. -/
theorem queriesSeeWholeWrites : Obligations.QueriesSeeWholeWrites := by
  unfold Obligations.QueriesSeeWholeWrites
  intro tag s t c ix found due index free side room granted x asBefore joins leaves
  have slot : ix.geo.slot = c.slot := idxOf_slot (idxOf_of_index index)
  have wrote := fun region accepted => commit_wrote found due index free region accepted side room granted
  refine ⟨fun op region accepted => ?_, fun op => ?_, fun op region => ?_⟩
  · obtain ⟨w, next, u, rfl, made⟩ := wrote (.inl region) fun _ => accepted
    exact ⟨_, next, u, _, rfl, made.idx, made.records_before, afterWrite_joins slot, fun e l => made.listRecords_insert op e l⟩
  · obtain ⟨w, next, u, rfl, made⟩ := wrote (.inr op) (by simp [op])
    exact ⟨_, next, u, _, rfl, made.idx, made.records_before, made.leaves (by simp [op])⟩
  · obtain ⟨w, next, u, rfl, made⟩ := wrote (.inl region) (by simp [op])
    have vectors : writeVectors t { ix with work := none } c = relabelled t { ix with work := none } c := by simp only [writeVectors, op]
    have tail := afterWrite_tail c (liveIds ix (c.ids s)) ix x (writeVectors t { ix with work := none } c)
    refine ⟨_, next, u, _, rfl, made.idx, made.records_before, afterWrite_joins slot, made.leaves (by simp [op]), ?_, fun v hv => ?_⟩
    · exact (congrArg (List.map (·.v)) tail).trans ((sideEntries_v _ _ _ _).trans vectors)
    · obtain ⟨-, -, -, hv⟩ := of_mem_sideEntries (tail ▸ hv : v ∈ newEntries _ _ _ _ _)
      obtain ⟨k, w, hk, hid, hlabel, -⟩ := of_mem_relabelled (by rwa [vectors] at hv)
      exact ⟨k, hk, hid, hlabel⟩

end Sys2Proof.Machine
end

section
/-! Migration at the target: offers, what is received, and the publication (R310 to R312, R368). -/

namespace Sys2Proof.Machine

open Sys2Proof.Safety

-- Messages of a link change neither the migration nor what has been put out.

@[simp] theorem updLink_mig (l : Nat) (g : Link → Link) (s : State) : (updLink l g s).chd.mig = s.chd.mig := rfl

@[simp] theorem popDelivered_mig (l v : Nat) (s : State) : (popDelivered l v s).chd.mig = s.chd.mig := rfl

@[simp] theorem pumpLink_mig (l n : Nat) (s : State) : (pumpLink l n s).chd.mig = s.chd.mig := by
  fun_induction pumpLink l n s
  case case6 ih => exact ih
  all_goals rfl

@[simp] theorem sendMsg_mig (l : Nat) (m : ChordMsg) (s : State) : (sendMsg l m s).chd.mig = s.chd.mig := by
  unfold sendMsg
  extract_lets fs s1
  exact pumpLink_mig l _ s1

@[simp] theorem sendMigCtrl_mig (phase error : Nat) (s : State) : (sendMigCtrl phase error s).chd.mig = s.chd.mig := sendMsg_mig _ _ s

theorem pumpLink_out (l n : Nat) (s : State) : s.out <+: (pumpLink l n s).out := by
  fun_induction pumpLink l n s
  case case6 ih => exact (List.prefix_append _ _).trans ih
  all_goals exact List.prefix_refl _

/-- A message that is sent is among what the module puts out. -/
theorem mem_out_sendMsg (l : Nat) (m : ChordMsg) (s : State) : Out.chordMsg l (msgVc m) m ∈ (sendMsg l m s).out := by
  unfold sendMsg
  extract_lets fs s1
  exact (pumpLink_out l _ s1).subset (List.mem_append_right _ List.mem_cons_self)

theorem mem_out_sendMigCtrl (phase error : Nat) (s : State) :
    Out.chordMsg (migLink s.chd.mig) 3 (.migCtrl (migFacet s.chd.mig) (migSlot s.chd.mig) phase error) ∈ (sendMigCtrl phase error s).out :=
  mem_out_sendMsg _ _ s

theorem sendMigCtrl_standing (phase error : Nat) (s : State) : standing (sendMigCtrl phase error s) = standing s := standing_congr (by simp)

theorem updMig_standing (g : Mig → Mig) (s : State) : standing (updMig g s) = standing s := rfl

-- An offer (R310; log 44).

section
variable {l f slot : Nat} {geo : Geometry} {hbm flash : Nat} {s : State}

/-- An offer that is refused for more than its arming came for the target that is armed. -/
theorem role_of_offerError {u : State} (h : 2 ≤ offerError u l f slot geo hbm flash) : u.chd.mig.role = 2 := by
  by_contra other
  have : offerError u l f slot geo hbm flash = 1 := by
    unfold offerError
    exact if_pos (by simp [other])
  omega

theorem migFail_target (error : Nat) (u : State) (target : u.chd.mig.role = 2) :
    (migFail error u).idx = u.idx ∧ (migFail error u).chd.mig.phase = 6 ∧ (migFail error u).chd.mig.error = error := by
  unfold migFail
  extract_lets m s1
  have same : s1 = u := if_neg (by simp [m, target])
  rw [same]
  exact ⟨rfl, rfl, rfl⟩

theorem offer_accepted (h : offerError (popDelivered l 3 s) l f slot geo hbm flash = 0) (b : Bool) :
    Settles (.migOffer l f slot b geo hbm flash) s fun u => u.chd.mig.phase = 2 ∧ u.chd.mig.role = s.chd.mig.role ∧ u.idx = s.idx := by
  refine ⟨_, rfl, ?_⟩
  simp [receiveOffer, h, updMig]

theorem offer_unarmed (h : offerError (popDelivered l 3 s) l f slot geo hbm flash = 1) (b : Bool) :
    Settles (.migOffer l f slot b geo hbm flash) s fun u => u.chd.mig.error = 1 ∧ u.chd.mig.phase = s.chd.mig.phase := by
  refine ⟨_, rfl, ?_⟩
  simp [receiveOffer, h, updMig]

theorem offer_refused (h : 2 ≤ offerError (popDelivered l 3 s) l f slot geo hbm flash) (b : Bool) :
    Settles (.migOffer l f slot b geo hbm flash) s fun u =>
      u.chd.mig.error = offerError (popDelivered l 3 s) l f slot geo hbm flash ∧ u.chd.mig.phase = 6 ∧ u.idx = s.idx := by
  refine ⟨_, rfl, ?_⟩
  obtain ⟨idx, phase, error⟩ := migFail_target (offerError (popDelivered l 3 s) l f slot geo hbm flash) _ (role_of_offerError h)
  unfold receiveOffer
  extract_lets u e reply
  have h0 : (e == 0) = false := by simp [e, u]; omega
  have h1 : (e == 1) = false := by simp [e, u]; omega
  simp only [h0, h1, Bool.false_eq_true, if_false, reply, sendMsg_mig, sendMsg_rest]
  exact ⟨error, phase, by simp [idx, u, e]⟩

end

-- What the target receives (R311).

section
variable {l : Nat} {s : State} (target : s.chd.mig.role = 2) (runs : migRunning s.chd.mig = true) (link : migLink s.chd.mig = l)
include target runs link

theorem migHere_target (v : Nat) : migHere (popDelivered l v s) 2 l = true := by
  simp [migHere, target, runs, link]

theorem unit_received (phase : s.chd.mig.phase = 2) (p : MigPart) : Settles (.migUnit l p) s fun u => u.idx = s.idx ∧
    u.chd.mig = takePart p { s.chd.mig with
      units := s.chd.mig.units + (if (partUnit (migFacet s.chd.mig) (migSlot s.chd.mig) p).isSome then 1 else 0) } := by
  have taken : receiveUnit l p s = updMig (fun m => takePart p { m with
      units := m.units + (if (partUnit (migFacet s.chd.mig) (migSlot s.chd.mig) p).isSome then 1 else 0) }) (popDelivered l 2 s) :=
    if_pos (by simp [migHere_target target runs link, phase])
  refine ⟨_, rfl, ?_⟩
  rw [taken]
  exact ⟨rfl, rfl⟩

theorem write_received (phase : s.chd.mig.phase = 2 ∨ s.chd.mig.phase = 3) (w : MigWrite) : Settles (.migWrite l w) s fun u =>
    u.chd.mig = { s.chd.mig with phase := 3, writes := s.chd.mig.writes ++ [w] } ∧ u.idx = s.idx := by
  refine ⟨_, rfl, ?_⟩
  simp [receiveWrite, migHere_target target runs link, phase, updMig]

theorem cutOver_received (phase : s.chd.mig.phase = 2 ∨ s.chd.mig.phase = 3) (built : s.chd.mig.building.isSome = true) :
    Settles (.migCutOver l) s fun u => u.chd.mig = { s.chd.mig with phase := 4, publish := true } ∧ u.idx = s.idx := by
  refine ⟨_, rfl, ?_⟩
  simp [receiveCutOver, migHere_target target runs link, phase, built, updMig]

end

-- A boundary (R220, R347) and the publication there (R77, R311).

theorem batchStep_due (s : State) (on : clocked s = true) (step : s.srch.stepNo < 3)
    (due : s.brd.turnStart + 25600 * (s.srch.stepNo + 1) ≤ now s) :
    exec .batchStepBoundary s =
      .next (settle (openStep (closeStep (migPublish { s with srch := { s.srch with stepNo := s.srch.stepNo + 1 } })))) :=
  congrArg Host.Outcome.next (if_pos (by simp [on, step, due]))

/-- What a target that has no late writes publishes: the index and its deletes under the facet's next epoch, with the log record of it. -/
def published (ix0 : Index) (s : State) : State :=
  let f := migFacet s.chd.mig
  let e := commitEpoch (facetOf s f)
  let ps := (s.chd.mig.pendNew.filter (·.till.isNone)).map fun (p : Pend) => { p with slot := migSlot s.chd.mig, epoch := e, since := 0 }
  appendLog f e 1 false (markChanged f (updFacet f (fun x => { x with pend := x.pend ++ ps }) { s with idx := s.idx ++ [rebase e ix0] }))

/-- The programs that the publication waits for (R223). -/
def publishJobs (ix0 : Index) (s : State) : List Job :=
  let us := (unitParts ix0).filterMap (partUnit (migFacet s.chd.mig) (migSlot s.chd.mig))
  programJobs (us.map (placeOf (published ix0 s))) ++ [ingestJob (published ix0 s)]

section
variable {s t : State} {ix0 : Index} (target : s.chd.mig.role = 2) (publish : s.chd.mig.publish = true)
  (built : s.chd.mig.building = some ix0) (late : s.chd.mig.writes = [])
  (granted : allJobs (migFacet s.chd.mig) 4 (.unit (migFacet s.chd.mig) (migSlot s.chd.mig)) (publishJobs ix0 s) (published ix0 s) = some t)
include target publish built late granted

theorem migPublish_eq : migPublish s =
    updMig (fun x => { x with phase := 5, role := 0, building := none, pendNew := [], writes := [], publish := false })
      (sendMigCtrl 5 0 (bump (migFacet s.chd.mig) (kFct 20) 1 (useFree (keepAll (migFacet s.chd.mig) (migSlot s.chd.mig)
        (writePages ((unitParts ix0).filterMap (partUnit (migFacet s.chd.mig) (migSlot s.chd.mig))) t))))) := by
  unfold migPublish
  extract_lets m f sl e ps
  split
  · rename_i nothing
    exact absurd (nothing.symm.trans built) (by simp)
  · rename_i ix taken
    cases Option.some.inj (taken.symm.trans built)
    rw [if_neg (by simp [m, target, publish])]
    extract_lets s1 s2 s3 us
    have same : s3 = published ix0 s := by
      dsimp only [s3, s2, m]
      rw [late]
      rfl
    rw [same]
    have jobs : allJobs f 4 (.unit f sl) (programJobs (us.map (placeOf (published ix0 s))) ++ [ingestJob (published ix0 s)]) (published ix0 s) =
      some t := granted
    rw [jobs]

/-- Nothing behind the publication takes the index back; the target's migration is over and its peer hears so. -/
theorem migPublish_done :
    (migPublish s).idx = s.idx ++ [rebase (commitEpoch (facetOf s (migFacet s.chd.mig))) ix0] ∧
    (migPublish s).chd.mig.phase = 5 ∧ (migPublish s).chd.mig.role = 0 ∧ (migPublish s).chd.mig.building = none ∧
    (migPublish s).chd.mig.publish = false ∧ (facetOf (migPublish s) (migFacet s.chd.mig)).changed = true ∧
    Out.chordMsg (migLink s.chd.mig) 3 (.migCtrl (migFacet s.chd.mig) (migSlot s.chd.mig) 5 0) ∈ (migPublish s).out := by
  have rest := allJobs_rest _ _ _ _ _ _ granted
  have idx : t.idx = (published ix0 s).idx := by simp [rest]
  have chd : t.chd = (published ix0 s).chd := by simp [rest]
  have mig : t.chd.mig = s.chd.mig := by rw [chd]; simp [published]
  rw [migPublish_eq target publish built late granted]
  refine ⟨?_, rfl, rfl, rfl, rfl, ?_, ?_⟩
  · simp [updMig, sendMigCtrl, idx, published]
  · have told : (facetOf (published ix0 s) (migFacet s.chd.mig)).changed = true := by
      unfold published
      rw [field_of_standing Facet.changed (appendLog_standing _ _ _ _ _) _ fun _ => rfl]
      rw [facetOf_markChanged]
    rw [← told, ← field_of_standing Facet.changed (allJobs_standing granted) _ fun _ => rfl]
    refine field_of_standing Facet.changed ?_ _ fun _ => rfl
    rw [updMig_standing, sendMigCtrl_standing, bump_standing]
    exact standing_congr (by simp)
  · have answered : ∀ u : State, u.chd.mig = s.chd.mig →
        Out.chordMsg (migLink s.chd.mig) 3 (.migCtrl (migFacet s.chd.mig) (migSlot s.chd.mig) 5 0) ∈ (sendMigCtrl 5 0 u).out :=
      fun u hu => hu ▸ mem_out_sendMigCtrl 5 0 u
    simp only [updMig_rest]
    exact answered _ (by simpa using mig)

end

/-- Settles O56: offers, units, writes and the cut-over as they are received, and the publication at a boundary that grants its programs. -/
theorem migrationTargetReceives : Obligations.MigrationTargetReceives := by
  unfold Obligations.MigrationTargetReceives
  intro l f slot geo hbm flash b s u0 e mine
  refine ⟨fun h => offer_accepted h b, fun h => offer_unarmed h b, fun h => offer_refused h b, ?_, ?_, ?_, ?_⟩
  · exact fun ⟨target, runs, link⟩ phase p => unit_received target runs link phase p
  · exact fun ⟨target, runs, link⟩ phase w => write_received target runs link phase w
  · exact fun ⟨target, runs, link⟩ phase built => cutOver_received target runs link phase built
  · intro ix0 target publish built late on step due g sl e' ps s1 us granted
    obtain ⟨t, granted⟩ := Option.isSome_iff_exists.mp granted
    obtain ⟨idx, phase, role, building, ended, changed, out⟩ :=
      migPublish_done (s := { s with srch := { s.srch with stepNo := s.srch.stepNo + 1 } }) target publish built late granted
    exact ⟨_, batchStep_due s on step due, idx, phase, role, building, ended, fun _ => changed, out⟩

end Sys2Proof.Machine
end

section
/-! A turn's start: credit and debt, the epochs of teardowns, SYNC_OUT (R220, R221, R226, R236, R349). -/

namespace Sys2Proof.Machine

open Sys2Proof.Safety

-- Completions only add to what has been put out (R243, R254).

theorem sendMsi_out (v : Nat) (s : State) : s.out <+: (sendMsi v s).out := by
  unfold sendMsi
  split
  · exact List.prefix_refl _
  · extract_lets due
    split
    · exact List.prefix_append _ _
    · exact List.prefix_refl _

theorem signalQp_out (q : Nat) (s : State) : s.out <+: (signalQp q s).out := by
  unfold signalQp
  split
  · exact List.prefix_refl _
  · exact sendMsi_out _ (updQp q _ s)

theorem post_out (c : Cmd) (st0 flags epoch : Nat) (result : Bytes) (at' : ErrAt) (s : State) : s.out <+: (post c st0 flags epoch result at' s).out := by
  unfold post
  extract_lets st err s1 s2 s3 s4
  have logged : s2.out = s.out := by
    dsimp only [s2, s1]
    split <;> split <;> simp
  have completed : s2.out <+: s3.out := by
    dsimp only [s3]
    split
    · exact List.prefix_refl _
    · exact List.prefix_append _ _
  have signalled : s3.out <+: s4.out := by
    dsimp only [s4]
    split
    · split
      · exact signalQp_out _ _
      · exact List.prefix_refl _
    · exact List.prefix_refl _
  exact logged ▸ completed.trans signalled

theorem finish_out (c : Cmd) (st flags epoch : Nat) (result : Bytes) (at' : ErrAt) (s : State) :
    s.out <+: (finish c st flags epoch result at' s).out := by
  refine foldl_ind (fun t => s.out <+: t.out) _ _ _ (post_out c st flags epoch result at' s) fun t a h => ?_
  split
  · exact h.trans (post_out _ _ _ _ _ _ t)
  · exact h

theorem succeed_out (c : Cmd) (result : Bytes) (s : State) : s.out <+: (succeed c result s).out := finish_out _ _ _ _ _ _ s

-- Keyed tables.

theorem look_of_not_mem {κ α : Type} [BEq κ] [LawfulBEq κ] (d : α) (k : κ) (l : List (κ × α)) (h : k ∉ l.map (·.1)) : look d k l = d := by
  have none : l.find? (fun p => p.1 == k) = none :=
    List.find?_eq_none.mpr fun p hp hk => h (List.mem_map.mpr ⟨p, hp, eq_of_beq hk⟩)
  unfold look
  rw [none]
  rfl

/-- A table made of the values of some keys reads each of them, whichever are left out as 0. -/
theorem look_filterMap {κ : Type} [BEq κ] [LawfulBEq κ] (g : κ → Nat) (l : List κ) (k : κ) (h : k ∉ l → g k = 0) :
    look 0 k (l.filterMap fun j => if g j == 0 then none else some (j, g j)) = g k := by
  induction l with
  | nil => exact (h List.not_mem_nil).symm
  | cons j l ih =>
    by_cases hj : j = k
    · subst hj
      by_cases zero : g j = 0
      · have skip : (j :: l).filterMap (fun j => if g j == 0 then none else some (j, g j)) =
            l.filterMap fun j => if g j == 0 then none else some (j, g j) := List.filterMap_cons_none (by simp [zero])
        rw [skip]
        exact ih fun _ => zero
      · simp [look, zero]
    · have rest := ih fun hk => h (by simp [Ne.symm hj, hk])
      by_cases zero : g j = 0
      · simpa [List.filterMap_cons, zero] using rest
      · simpa [List.filterMap_cons, zero, look, hj] using rest

theorem look_filter {κ α : Type} [BEq κ] (d : α) (k : κ) (q : κ × α → Bool) (l : List (κ × α)) (h : ∀ p, (p.1 == k) = true → q p = true) :
    look d k (l.filter q) = look d k l := by
  have same : (fun p : κ × α => decide (q p = true ∧ (p.1 == k) = true)) = fun p => p.1 == k := by
    funext p
    cases hp : p.1 == k
    · simp
    · simp [h p hp]
  unfold look
  rw [List.find?_filter, same]

-- Debt (R226).

theorem turnDebt_look (s : State) (u f c : Nat) :
    look 0 (u, f, c) (turnDebt s) = look 0 (u, f, c) s.srch.spent + look 0 (u, f, c) s.srch.debt - allotment s u f c := by
  refine look_filterMap (fun k => look 0 k s.srch.spent + look 0 k s.srch.debt - allotment s k.1 k.2.1 k.2.2) _ (u, f, c) fun h => ?_
  rw [mem_nub, List.mem_append, not_or] at h
  obtain ⟨unspent, noDebt⟩ := h
  rw [look_of_not_mem 0 _ _ unspent, look_of_not_mem 0 _ _ noDebt, Nat.zero_add, Nat.zero_sub]

theorem attributeEnergy_srch (s : State) : (attributeEnergy s).srch =
    { s.srch with turnTicks := (attributeEnergy s).srch.turnTicks, idleNj := (attributeEnergy s).srch.idleNj } := by
  simp [attributeEnergy]

/-- The debt does not follow from the ticks that energy is attributed by, nor from the idle energy. -/
theorem attributeEnergy_turnDebt (s : State) : turnDebt (attributeEnergy s) = turnDebt s := by
  unfold turnDebt allotment turnBudget weightOf
  rw [attributeEnergy_srch]

-- Work charged up to the boundary (R222).

theorem charge_standing (u f cls ticks : Nat) (b : Bool) (s : State) : standing (charge u f cls ticks b s) = standing s :=
  (charge_countedOn u cls ticks b (countedOn_of_eq (f := f) rfl)).standing_eq

theorem chargeCell_standing (x : CellSt) (s : State) : standing (chargeCell x s) = standing s := by
  unfold chargeCell
  split
  · exact charge_standing _ _ _ _ _ s
  · rfl

theorem chargeEngine_standing (e : Engine) (s : State) : standing (chargeEngine e s) = standing s := by
  unfold chargeEngine
  split
  · exact charge_standing _ _ _ _ _ s
  · rfl

theorem chargeDie_standing (d : Die) (s : State) : standing (chargeDie d s) = standing s := by
  unfold chargeDie
  split
  · split
    · rfl
    · exact charge_standing _ _ _ _ _ s
  · rfl

theorem chargeEngine_charged (e : Engine) (s : State) : Charged s (chargeEngine e s) := by
  unfold chargeEngine
  split
  · exact charge_charged _ _ _ _ _ (.refl s)
  · exact .refl s

theorem chargeDie_charged (d : Die) (s : State) : Charged s (chargeDie d s) := by
  unfold chargeDie
  split
  · split
    · exact .refl s
    · exact charge_charged _ _ _ _ _ (.refl s)
  · exact .refl s

theorem chargeRunning_standing (s : State) : standing (chargeRunning s) = standing s := by
  unfold chargeRunning
  extract_lets s1 s2 search s3
  have cells : standing s1 = standing s := foldl_proj standing _ _ _ fun t c => (standing_congr rfl).trans (chargeCell_standing c t)
  have engines : standing s2 = standing s1 := foldl_proj standing _ _ _ fun t e => chargeEngine_standing e t
  refine Eq.trans (foldl_proj standing _ _ s3 fun t d => ?_) (engines.trans cells)
  exact (standing_congr rfl).trans (chargeDie_standing d t)

/-- Which step of which cohort and turn runs. -/
def stamps (s : State) : Nat × Nat := (s.srch.cohort, s.srch.turn)

theorem stamps_congr {s t : State} (h : t.srch = s.srch) : stamps t = stamps s := by unfold stamps; rw [h]

theorem Charged.stamps {s t : State} (h : Charged s t) : Machine.stamps t = Machine.stamps s := by unfold Machine.stamps; rw [h]

theorem chargeRunning_stamps (s : State) : stamps (chargeRunning s) = stamps s := by
  unfold chargeRunning
  extract_lets s1 s2 search s3
  have cells : stamps s1 = stamps s := foldl_proj stamps _ _ _ fun t c => Eq.trans rfl (chargeCell_charged c (.refl t)).stamps
  have engines : stamps s2 = stamps s1 := foldl_proj stamps _ _ _ fun t e => (chargeEngine_charged e t).stamps
  refine Eq.trans (foldl_proj stamps _ _ s3 fun t d => ?_) (engines.trans cells)
  exact (stamps_congr rfl).trans (chargeDie_charged d t).stamps

-- Teardowns that end with the turn (R236).

theorem endTeardown_other {s : State} {f : Nat} (h : (facetOf s f).teardown ≠ some 5) : endTeardown s f = s := by
  unfold endTeardown
  exact if_pos (by simpa using h)

theorem endTeardown_srch {s : State} {f : Nat} (h : (facetOf s f).teardown = some 5) : (endTeardown s f).srch =
    { s.srch with debt := s.srch.debt.filter (fun d => d.1.2.1 != f), spent := s.srch.spent.filter fun d => d.1.2.1 != f } := by
  unfold endTeardown
  rw [if_neg (by simp [h])]
  dsimp only
  split <;> simp

theorem endTeardown_facet_ne {s : State} {f g : Nat} (hg : g ≠ f) : facetOf (endTeardown s f) g = facetOf s g := by
  unfold endTeardown
  extract_lets x s1 search s2
  split
  · rfl
  · have first : facetOf s1 g = facetOf s g := facetOf_updFacet_ne f g _ s (by intro; rfl) hg
    have ended : facetOf s2 g = facetOf s g := (facetOf_congr rfl g).trans first
    split
    · exact (facetOf_congr (by simp) g).trans ended
    · exact ended

theorem endTeardown_out (s : State) (f : Nat) : s.out <+: (endTeardown s f).out := by
  unfold endTeardown
  extract_lets x s1 search s2
  split
  · exact List.prefix_refl _
  · show s2.out <+: _
    split
    · exact succeed_out _ _ _
    · exact List.prefix_refl _

/-- Teardowns that end leave the search state but for debts and what was spent, of which nothing comes about. -/
structure Forgot (s t : State) : Prop where
  srch : t.srch = { s.srch with debt := t.srch.debt, spent := t.srch.spent }
  unspent : s.srch.spent = [] → t.srch.spent = []
  debt : ∀ u f c, (facetOf s f).teardown ≠ some 5 → look 0 (u, f, c) t.srch.debt = look 0 (u, f, c) s.srch.debt
  teardown : ∀ f, (facetOf s f).teardown ≠ some 5 → (facetOf t f).teardown ≠ some 5
  out : s.out <+: t.out

theorem Forgot.refl (s : State) : Forgot s s := ⟨rfl, id, fun _ _ _ _ => rfl, fun _ => id, List.prefix_refl _⟩

theorem Forgot.trans {s t u : State} (h : Forgot s t) (k : Forgot t u) : Forgot s u where
  srch := by rw [k.srch, h.srch]
  unspent := k.unspent ∘ h.unspent
  debt n f c hf := (k.debt n f c (h.teardown f hf)).trans (h.debt n f c hf)
  teardown f := k.teardown f ∘ h.teardown f
  out := h.out.trans k.out

theorem endTeardown_forgot (s : State) (f : Nat) : Forgot s (endTeardown s f) := by
  by_cases h : (facetOf s f).teardown = some 5
  · have srch := endTeardown_srch h
    have other : ∀ g, (facetOf s g).teardown ≠ some 5 → g ≠ f := fun g hg same => hg (same ▸ h)
    refine ⟨?_, fun hs => ?_, fun u g c hg => ?_, fun g hg => ?_, endTeardown_out s f⟩
    · rw [srch]
    · rw [srch, hs]
      rfl
    · rw [srch]
      refine look_filter 0 (u, g, c) _ _ fun p hp => ?_
      rw [eq_of_beq hp]
      simpa using other g hg
    · rw [endTeardown_facet_ne (other g hg)]
      exact hg
  · rw [endTeardown_other h]
    exact .refl s

theorem endTeardowns_forgot (fs : List Nat) (s : State) : Forgot s (fs.foldl endTeardown s) :=
  foldl_ind (Forgot s) _ _ _ (.refl s) fun t f h => h.trans (endTeardown_forgot t f)

-- The turn's start.

/-- The turn that ends, accounted for. -/
def accounted (s : State) : State := countTurn (refill (countStalls (attributeEnergy (chargeRunning s))))

theorem accounted_srch (s : State) : (accounted s).srch = { (attributeEnergy (chargeRunning s)).srch with
    debt := turnDebt (countStalls (attributeEnergy (chargeRunning s))), spent := [], bytes := [] } := by
  simp [accounted, refill]

theorem accounted_debt (s : State) : (accounted s).srch.debt = turnDebt (chargeRunning s) := by
  have stalls : turnDebt (countStalls (attributeEnergy (chargeRunning s))) = turnDebt (attributeEnergy (chargeRunning s)) := by
    unfold turnDebt allotment turnBudget weightOf
    simp only [countStalls_rest]
  rw [accounted_srch, stalls, attributeEnergy_turnDebt]

theorem attributeEnergy_standing (s : State) : standing (attributeEnergy s) = standing s := by
  unfold attributeEnergy
  exact foldl_proj standing _ _ _ fun t p => standing_updFacet _ _ t fun _ => rfl

theorem accounted_standing (s : State) : standing (accounted s) = standing s := by
  unfold accounted
  rw [standing_congr (by simp : _ = (attributeEnergy (chargeRunning s)).facets), attributeEnergy_standing, chargeRunning_standing]

/-- Teardowns ended behind the accounts. -/
def tornDown (s : State) : State := ((accounted s).facets.map (·.num)).foldl endTeardown (accounted s)

theorem tornDown_forgot (s : State) : Forgot (accounted s) (tornDown s) := endTeardowns_forgot _ _

@[simp] theorem tornDown_brd (s : State) : (tornDown s).brd = s.brd := by simp [tornDown, accounted]

theorem newTurn_srch (s : State) : ∃ w b m n, (newTurn s).srch =
    { (tornDown s).srch with weights := w, budgets := b, masks := m, turn := ((tornDown s).srch.turn + 1) % 2 ^ 32, stepNo := 0, snap := n } :=
  ⟨_, _, _, _, rfl⟩

theorem newTurn_brd (s : State) : (newTurn s).brd = { s.brd with turnStart := now s } := by
  have brd : (newTurn s).brd = { (tornDown s).brd with turnStart := (tornDown s).brd.clk } := rfl
  rw [brd, tornDown_brd]
  rfl

theorem newTurn_out (s : State) : ∃ o, (newTurn s).out = s.out ++ o ++ [.syncOut] := by
  have out : (newTurn s).out = (tornDown s).out ++ [.syncOut] := rfl
  have kept : (accounted s).out = s.out := by simp [accounted]
  obtain ⟨o, ho⟩ := kept ▸ (tornDown_forgot s).out
  exact ⟨o, by rw [out, ho]⟩

/-- What a turn that starts has spent, owes and counts. -/
theorem newTurn_credit (s : State) : (newTurn s).srch.spent = [] ∧ (newTurn s).srch.bytes = [] ∧ (newTurn s).srch.stepNo = 0 ∧
    (newTurn s).srch.turn = (s.srch.turn + 1) % 2 ^ 32 ∧
    ∀ u f c, (facetOf s f).teardown ≠ some 5 → look 0 (u, f, c) (newTurn s).srch.debt =
      look 0 (u, f, c) (chargeRunning s).srch.spent + look 0 (u, f, c) (chargeRunning s).srch.debt - allotment (chargeRunning s) u f c := by
  have forgot := tornDown_forgot s
  have srch := accounted_srch s
  have turn : (accounted s).srch.turn = s.srch.turn := by
    rw [srch, attributeEnergy_srch]
    exact congrArg Prod.snd (chargeRunning_stamps s)
  obtain ⟨w, b, m, n, new⟩ := newTurn_srch s
  rw [new]
  refine ⟨forgot.unspent (by rw [srch]), ?_, rfl, ?_, fun u f c hf => ?_⟩
  · show (tornDown s).srch.bytes = []
    rw [forgot.srch, srch]
  · show ((tornDown s).srch.turn + 1) % 2 ^ 32 = _
    rw [forgot.srch, turn]
  · have kept : (facetOf (accounted s) f).teardown ≠ some 5 := by
      rw [field_of_standing Facet.teardown (accounted_standing s) f fun _ => rfl]
      exact hf
    rw [← turnDebt_look, ← accounted_debt]
    exact forgot.debt u f c kept

end Sys2Proof.Machine
end

section
/-! The step that ends: epochs, what takes force, contexts, FETCHes (R77, R84, R128, R167, R192, R278). -/

namespace Sys2Proof.Machine

open Sys2Proof.Safety

-- Epochs (R77).

/-- A facet whose epoch has advanced, if something committed in the step. -/
def advanced (x : Facet) : Facet := if x.changed then { x with epoch := x.epoch + 1, changed := false } else x

theorem advanced_epoch (x : Facet) : (advanced x).epoch = x.epoch + (if x.changed then 1 else 0) := by
  unfold advanced
  split <;> rfl

theorem advanced_changed (x : Facet) : (advanced x).changed = false := by
  unfold advanced
  split
  · rfl
  · exact Bool.eq_false_iff.mpr ‹_›

theorem advanced_s0 (x : Facet) : (advanced x).s0 = x.s0 ∧ (advanced x).s0Next = x.s0Next := by
  unfold advanced
  split <;> exact ⟨rfl, rfl⟩

theorem advanced_of_unchanged {x : Facet} (h : x.changed = false) : advanced x = x := if_neg (by simp [h])

theorem standing_advanced (x : Facet) : (advanced x).standing = advanced x.standing := by
  unfold advanced
  split
  · exact (if_pos ‹_›).symm
  · exact (if_neg ‹_›).symm

theorem closeReady_standing (f n : Nat) (s : State) : standing (closeReady f n s) = standing s := by
  fun_induction closeReady f n s
  case case2 ih => exact ih.trans (appendLog_standing _ _ _ _ _)
  all_goals rfl

theorem advanceEpoch_standing (s : State) (f g : Nat) :
    standing (advanceEpoch s f) g = if g = f then advanced (standing s g) else standing s g := by
  unfold advanceEpoch
  extract_lets x
  have changed : (standing s f).changed = x.changed := rfl
  split
  · rename_i h
    rw [closeReady_standing]
    by_cases hg : g = f
    · subst hg
      have own : facetOf (updFacet g (fun y => { y with epoch := y.epoch + 1, changed := false }) s) g = advanced x := by
        rw [advanced, if_pos h]
        exact facetOf_updFacet g _ s (by intro; rfl)
      rw [if_pos rfl]
      exact (congrArg Facet.standing own).trans (standing_advanced x)
    · rw [if_neg hg]
      exact congrArg Facet.standing (facetOf_updFacet_ne f g _ s (by intro; rfl) hg)
  · rename_i h
    split
    · rename_i hg
      subst hg
      exact (advanced_of_unchanged (changed.trans (Bool.eq_false_iff.mpr h))).symm
    · rfl

theorem advanceEpochs_standing (fs : List Nat) (s : State) (g : Nat) :
    standing (fs.foldl advanceEpoch s) g = if g ∈ fs then advanced (standing s g) else standing s g := by
  induction fs generalizing s with
  | nil => rfl
  | cons f fs ih =>
    rw [List.foldl_cons, ih, advanceEpoch_standing]
    by_cases hg : g = f
    · simp [hg, advanced_of_unchanged (advanced_changed _)]
    · simp [hg]

/-- A facet that is not listed has changed in nothing. -/
theorem facetOf_of_not_mem {s : State} {f : Nat} (h : f ∉ s.facets.map (·.num)) : facetOf s f = Facet.blank f := by
  have none : s.facets.find? (·.num == f) = none :=
    List.find?_eq_none.mpr fun x hx hf => h (List.mem_map.mpr ⟨x, hx, eq_of_beq hf⟩)
  unfold facetOf
  rw [none]
  rfl

/-- Every facet's epoch advances with its own changes alone. -/
theorem epochs_standing (s : State) (g : Nat) : standing ((s.facets.map (·.num)).foldl advanceEpoch s) g = advanced (standing s g) := by
  rw [advanceEpochs_standing]
  split
  · rfl
  · rename_i h
    refine (advanced_of_unchanged ?_).symm
    unfold standing
    rw [facetOf_of_not_mem h]
    rfl

-- INDEX_DROPs that take effect (R278): what they end leaves every facet standing.

theorem cellWork_standing (role f cls : Nat) (s : State) : standing ((cellWork role f cls s).getD s) = standing s := by
  cases h : cellWork role f cls s with
  | none => rfl
  | some t =>
    obtain ⟨c, n, b, -, rfl⟩ := cellWork_cases h
    exact (standing_congr rfl).trans (charge_standing _ _ _ _ _ _)

theorem armSliver_standing (c : Nat) (v : Sliver) (s : State) : standing (armSliver c v s) = standing s := by
  unfold armSliver
  split
  · rfl
  · refine Eq.trans (standing_congr ?_) (cellWork_standing 3 v.facet (v.cls % 8) s)
    simp

theorem nextStream_standing (c : Nat) (s : State) : standing (nextStream c s) = standing s := by
  have drained : standing (drainStream c s) = standing s := standing_congr (by simp)
  unfold nextStream
  split
  · exact (armSliver_standing _ _ _).trans drained
  · exact drained

theorem closeStreams_standing (p : Strm → Bool) (s : State) : standing (closeStreams p s) = standing s := standing_congr (by simp)

theorem dropReads_standing (p : Purpose → Bool) (s : State) : standing (dropReads p s) = standing s := standing_congr rfl

theorem finish_standing (c : Cmd) (st flags epoch : Nat) (result : Bytes) (at' : ErrAt) (s : State) :
    standing (finish c st flags epoch result at' s) = standing s := standing_congr (by simp)

theorem dropQueries_standing (p : Query → Bool) (s : State) : standing (dropQueries p s) = standing s := by
  have charged : ∀ gone, standing (chargeStopped gone s) = standing s := fun gone => foldl_proj standing _ _ _ fun t c => chargeCell_standing _ t
  unfold dropQueries
  extract_lets out xs gone mine s1 walks
  rw [closeStreams_standing, foldl_proj standing _ _ _ fun t c => nextStream_standing c t, dropReads_standing, ← charged gone]
  rfl

/-- A change of every facet that keeps what stands of it, its number with that. -/
theorem standing_map (g : Facet → Facet) {s t : State} (h : t.facets = s.facets.map g) (keeps : ∀ x, (g x).standing = x.standing) :
    standing t = standing s := by
  have keepsNum : ∀ x, (g x).num = x.num := fun x => (congrArg Facet.num (keeps x) :)
  funext f
  unfold standing facetOf
  rw [h, List.find?_map]
  have same : ((fun x : Facet => x.num == f) ∘ g) = fun x => x.num == f := funext fun x => by simp [keepsNum]
  rw [same]
  cases s.facets.find? fun x => x.num == f with
  | none => rfl
  | some x => exact keeps x

theorem stopWork_standing (c : Cmd) (s : State) : standing (stopWork c s) = standing s := by
  rw [← dropQueries_standing (ofCmd s c.tag) s]
  refine standing_map (fun x => { x with admission := x.admission.filter (· != c.tag) }) ?_ fun _ => rfl
  unfold stopWork
  dsimp only
  split <;> simp

theorem endCmd_standing (st : Nat) (c : Cmd) (s : State) : standing (endCmd st c s) = standing s := by
  unfold endCmd
  rw [finish_standing]
  split
  · rw [bump_standing, stopWork_standing]
  · exact stopWork_standing c s

theorem endAll_standing (p : Cmd → Bool) (st : Nat) (s : State) : standing (endAll p st s) = standing s :=
  foldl_proj standing _ _ _ fun t c => endCmd_standing st c t

theorem dropIndex_standing (f slot tag : Nat) (s : State) : standing (dropIndex f slot tag s) = standing s := by
  unfold dropIndex
  extract_lets held p n s1 s2 search
  exact (standing_congr rfl).trans (endAll_standing p stAborted s)

theorem startDrops_standing (s : State) : standing (startDrops s) = standing s :=
  foldl_proj standing _ _ _ fun t c => (dropIndex_standing _ _ _ _).trans (standing_congr (by simp))

theorem startDrops_none (s : State) (h : (s.cmds.all fun c => !(c.op == .indexDrop && c.phase == .waiting)) = true) : startDrops s = s := by
  have none : (s.cmds.filter fun c => c.op == .indexDrop && c.phase == .waiting) = [] := by
    rw [List.filter_eq_nil_iff]
    intro c hc
    exact Bool.eq_false_iff.mp ((Bool.not_eq_true' _).mp (List.all_eq_true.mp h c hc))
  unfold startDrops
  rw [none]
  rfl

-- What takes force (R167, R192), and FETCHes (R128).

/-- A facet's new stage-0 format in force. -/
def formed (x : Facet) : Facet :=
  match x.s0Next with
  | some n => { x with s0 := some n, s0Next := none }
  | none => x

theorem formed_fields (x : Facet) : (formed x).num = x.num ∧ (formed x).epoch = x.epoch ∧ (formed x).changed = x.changed ∧ (formed x).s0Next = none := by
  unfold formed
  split
  · exact ⟨rfl, rfl, rfl, rfl⟩
  · exact ⟨rfl, rfl, rfl, ‹_›⟩

theorem formed_s0 {x : Facet} {n : Nat} (h : x.s0Next = some n) : (formed x).s0 = some n := by
  unfold formed
  rw [h]

theorem takeForce_facets (s : State) : (takeForce s).facets = s.facets.map formed := rfl

theorem facetOf_takeForce (s : State) (f : Nat) : facetOf (takeForce s) f = formed (facetOf s f) := by
  have same : ((fun x : Facet => x.num == f) ∘ formed) = fun x => x.num == f := by
    funext x
    obtain ⟨num, -⟩ := formed_fields x
    simp [num]
  unfold facetOf
  rw [takeForce_facets, List.find?_map, same]
  cases s.facets.find? fun x => x.num == f <;> rfl

theorem takeForce_mods (s : State) : ((takeForce s).mods.all fun m => m.newAdapter.isNone) = true := by
  refine List.all_eq_true.mpr fun m hm => ?_
  obtain ⟨x, -, rfl⟩ := List.mem_map.mp hm
  split
  · rfl
  · rename_i none
    rw [none]
    rfl

/-- Of the running FETCHes none is left without an epoch. -/
theorem stampFetches_stamped (s : State) : ∀ c ∈ (stampFetches s).cmds, c.op = .fetch → c.phase = .running → c.ef.isSome = true := by
  intro c hc op phase
  obtain ⟨x, -, rfl⟩ := List.mem_map.mp hc
  split at op
  · rw [if_pos ‹_›]
    rfl
  · rename_i other
    rw [if_neg other] at phase ⊢
    rw [op, phase] at other
    simpa [Option.isSome_iff_ne_none] using other

/-- A paused facet is otherwise as it was (R43). -/
theorem pauseFacets_field {α : Type} (k : Facet → α) (s : State) (f : Nat) (hk : ∀ x : Facet, k { x with paused := true } = k x) :
    k (facetOf (pauseFacets s) f) = k (facetOf s f) := by
  unfold pauseFacets
  split
  · split
    · refine foldl_proj (fun t => k (facetOf t f)) _ _ s fun t g => ?_
      by_cases hf : f = g
      · rw [hf]
        exact (congrArg k (facetOf_updFacet g _ t (by intro; rfl))).trans (hk _)
      · exact congrArg k (facetOf_updFacet_ne g f _ t (by intro; rfl) hf)
    · rfl
  · rfl

-- The boundary's closing (R77, R84, R278).

/-- The step that ends with its epochs advanced and the contexts of what has completed freed. -/
def freed (s : State) : State := freeContexts (dropStale ((s.facets.map (·.num)).foldl advanceEpoch s))

/-- What was to take effect has: dropped indexes, models that are ready. -/
def effected (s : State) : State := readySlots (startDrops (freed s))

theorem closeStep_eq (s : State) : closeStep s = pauseFacets (stampFetches (takeForce (effected s))) := rfl

theorem effected_standing (s : State) (f : Nat) : standing (effected s) f = advanced (standing s f) := by
  have ready : standing (effected s) = standing (startDrops (freed s)) := standing_congr (by simp [effected])
  have contexts : standing (freed s) = standing ((s.facets.map (·.num)).foldl advanceEpoch s) := standing_congr (by simp [freed])
  rw [ready, startDrops_standing, contexts, epochs_standing]

theorem closeStep_field {α : Type} (k : Facet → α) (s : State) (f : Nat) (hk : ∀ x : Facet, k { x with paused := true } = k x) :
    k (facetOf (closeStep s) f) = k (formed (facetOf (effected s) f)) := by
  rw [closeStep_eq, pauseFacets_field k _ f hk, ← facetOf_takeForce]
  rfl

theorem closeStep_facet (s : State) (f : Nat) :
    (facetOf (closeStep s) f).epoch = (facetOf s f).epoch + (if (facetOf s f).changed then 1 else 0) ∧
    (facetOf (closeStep s) f).changed = false ∧ (facetOf (closeStep s) f).s0Next = none ∧
    ∀ n, (facetOf s f).s0Next = some n → (facetOf (closeStep s) f).s0 = some n := by
  obtain ⟨-, epoch, changed, s0Next⟩ := formed_fields (facetOf (effected s) f)
  have stands := effected_standing s f
  refine ⟨?_, ?_, ?_, fun n hn => ?_⟩
  · rw [closeStep_field Facet.epoch s f fun _ => rfl, epoch]
    exact (congrArg Facet.epoch stands).trans (advanced_epoch _)
  · rw [closeStep_field Facet.changed s f fun _ => rfl, changed]
    exact (congrArg Facet.changed stands).trans (advanced_changed _)
  · rw [closeStep_field Facet.s0Next s f fun _ => rfl, s0Next]
  · rw [closeStep_field Facet.s0 s f fun _ => rfl]
    exact formed_s0 ((congrArg Facet.s0Next stands).trans ((advanced_s0 _).2.trans hn))

theorem freed_freeing (s : State) :
    (freed s).srch.freeing = s.srch.freeing.filter fun p => p.2.2.any fun n => s.cmds.any (·.seq == n) := by
  have kept : ∀ t : State, t.srch = s.srch → t.cmds = s.cmds →
      (freeContexts t).srch.freeing = s.srch.freeing.filter fun p => p.2.2.any fun n => s.cmds.any (·.seq == n) := by
    intro t srch cmds
    unfold freeContexts
    rw [srch, cmds]
    refine List.filter_congr fun p _ => ?_
    cases p.2.2 <;> rfl
  exact kept _ (by simp) (by simp)

theorem closeStep_freeing (s : State) (h : (s.cmds.all fun c => !(c.op == .indexDrop && c.phase == .waiting)) = true) :
    (closeStep s).srch.freeing = s.srch.freeing.filter fun p => p.2.2.any fun n => s.cmds.any (·.seq == n) := by
  have cmds : (freed s).cmds = s.cmds := by simp [freed]
  rw [← freed_freeing, closeStep_eq, effected, startDrops_none _ (by rw [cmds]; exact h)]
  simp

theorem closeStep_mods (s : State) : ((closeStep s).mods.all fun m => m.newAdapter.isNone) = true := by
  have mods : (closeStep s).mods = (takeForce (effected s)).mods := by simp [closeStep_eq]
  rw [mods]
  exact takeForce_mods _

theorem closeStep_stamped (s : State) : ∀ c ∈ (closeStep s).cmds, c.op = .fetch → c.phase = .running → c.ef.isSome = true := by
  have cmds : (closeStep s).cmds = (stampFetches (takeForce (effected s))).cmds := by simp [closeStep_eq]
  rw [cmds]
  exact stampFetches_stamped _

end Sys2Proof.Machine
end

section
/-! The step that begins: a new cohort of the turn that runs (R83 to R85, R104, R182, R183), and boundaries (R220, R347, R348). -/

namespace Sys2Proof.Machine

open Sys2Proof.Safety

-- Admission changes neither the cohort nor the turn.

theorem seat_stamps {graph : Bool} {f cls : Nat} {mk : Nat → Nat → Query} {s t : State} (h : seat graph f cls mk s = some t) :
    stamps t = stamps s := by
  unfold seat at h
  split at h
  · cases h
  · dsimp only at h
    split at h
    · obtain ⟨w, -, rfl⟩ := Option.map_eq_some_iff.mp h
      rfl
    · cases h
      rfl

theorem seatAll_stamps {s t : State} {ix : Index} {a : Asked} (h : seatAll s ix a = some t) : stamps t = stamps s := by
  have seats : ∀ (l : List Nat) (o : Option State), (∀ u ∈ o, stamps u = stamps s) →
      ∀ u ∈ l.foldl (fun (acc : Option State) i => acc.bind (seat (ix.geo.mode == 1) a.facet a.cls (askedQuery s ix a i))) o,
        stamps u = stamps s := by
    intro l
    induction l with
    | nil => exact fun o ho => ho
    | cons i l ih =>
      refine fun o ho => ih _ fun u hu => ?_
      obtain ⟨v, hv, seated⟩ := Option.bind_eq_some_iff.mp hu
      exact (seat_stamps seated).trans (ho v hv)
  exact seats _ _ (fun u hu => by cases hu; rfl) t h

theorem admitAsked_stamps (e : Nat) (ix : Index) (a : Asked) (after : State → State) (m : Adm) (h : ∀ t, stamps (after t) = stamps t) :
    stamps (admitAsked e ix a after m).st = stamps m.st := by
  unfold admitAsked
  extract_lets wait
  cases (if a.cls == 0 then m.stopA else m.stopPB) with
  | true => rfl
  | false =>
    cases seated : seatAll m.st ix a with
    | some t => exact (h t).trans (seatAll_stamps seated)
    | none => cases a.cls == 0 <;> rfl

theorem nowRunning_stamps (tag n : Nat) (s : State) : stamps (nowRunning tag n s) = stamps s := stamps_congr (by simp)

theorem admitEntry_stamps (m : Adm) (e : Nat) : stamps (admitEntry m e).st = stamps m.st := by
  unfold admitEntry
  split
  · split
    · rfl
    · split
      · rfl
      · exact admitAsked_stamps _ _ _ _ m (nowRunning_stamps _ _)
  · split
    · rfl
    · split
      · rfl
      · split
        · exact stamps_congr (by simp)
        · split
          · rfl
          · exact admitAsked_stamps _ _ _ _ m (nowRunning_stamps _ _)

theorem admitEntries_stamps (l : List Nat) (m : Adm) : stamps (l.foldl admitEntry m).st = stamps m.st := by
  induction l generalizing m with
  | nil => rfl
  | cons e l ih => rw [List.foldl_cons, ih, admitEntry_stamps]

theorem admitMining_stamps (tag n : Nat) (s : State) : stamps (admitMining tag n s) = stamps s := by
  induction n generalizing s with
  | zero => rfl
  | succ n ih =>
    unfold admitMining
    split
    · split
      · rfl
      · split
        · rfl
        · split
          · rfl
          · rw [ih]
            rename_i t seated
            exact (rfl : _ = stamps t).trans (seat_stamps seated)
    · rfl

theorem admitMinings_stamps (f : Nat) (s : State) : stamps (admitMinings f s) = stamps s :=
  foldl_proj stamps _ _ _ fun t _ => admitMining_stamps _ _ t

theorem finish_stamps (c : Cmd) (st flags epoch : Nat) (result : Bytes) (at' : ErrAt) (s : State) :
    stamps (finish c st flags epoch result at' s) = stamps s := stamps_congr (by simp)

theorem queueNode_stamps (m : ModelRec) (j : EncJob) (s : State) : stamps (queueNode m j s) = stamps s := by
  unfold queueNode
  split
  · rfl
  · simp [stamps]

theorem advanceEnc_stamps (m : ModelRec) (j : EncJob) (s : State) : stamps (advanceEnc m j s) = stamps s := by
  unfold advanceEnc
  extract_lets j' encs s1 trains
  have closed : stamps s1 = stamps s := by simp [s1, encs, stamps]
  split
  · exact queueNode_stamps m j' s
  · split
    · exact closed
    · split
      · exact (stamps_congr (finishEncode_rest _ _ _ s1).2.2.2.2.2.2.2.2.2.1).trans closed
      · split
        · exact closed
        · exact (rfl : _ = stamps s1).trans closed

theorem beginEnc_stamps (tag f slot cls adapter : Nat) (inputs : List (List (List F32))) (s : State) :
    stamps (beginEnc tag f slot cls adapter inputs s) = stamps s := by
  unfold beginEnc
  split
  · exact (advanceEnc_stamps _ _ _).trans rfl
  · rfl

theorem setPhase_stamps (t : Nat) (p : CmdPhase) (s : State) : stamps (setPhase t p s) = stamps s := rfl

theorem admitEncodes_stamps (f : Nat) (s : State) : stamps (admitEncodes f s) = stamps s := by
  refine foldl_proj stamps _ _ s fun t c => ?_
  extract_lets busy
  split
  · split
    · exact finish_stamps _ _ _ _ _ _ t
    · split
      · exact beginEnc_stamps _ _ _ _ _ _ _
      · split
        · exact finish_stamps _ _ _ _ _ _ t
        · rfl
  · exact finish_stamps _ _ _ _ _ _ t

theorem beginTrain_stamps (c : Cmd) (ix : Index) (s : State) : stamps (beginTrain c ix s) = stamps s := by
  unfold beginTrain
  extract_lets tok seed g fresh j trains s1
  have begun : stamps s1 = stamps s := rfl
  split
  · exact (beginEnc_stamps _ _ _ _ _ _ s1).trans begun
  · exact begun

theorem admitTrains_stamps (f : Nat) (s : State) : stamps (admitTrains f s) = stamps s := by
  refine foldl_proj stamps _ _ s fun t c => ?_
  split
  · exact finish_stamps _ _ _ _ _ _ t
  · split
    · exact finish_stamps _ _ _ _ _ _ t
    · split
      · exact finish_stamps _ _ _ _ _ _ t
      · split
        · exact beginTrain_stamps _ _ t
        · rfl

theorem cohortTiles_stamps (f : Nat) (s : State) : stamps (cohortTiles f s) = stamps s := rfl

theorem admitFacet_stamps (s : State) (f : Nat) : stamps (admitFacet s f) = stamps s := by
  unfold admitFacet
  extract_lets x m s1 s2 s3
  split
  · rfl
  · split
    · exact admitMinings_stamps f s
    · have admitted : stamps s2 = stamps s :=
        (foldl_proj stamps _ _ s1 fun t c => stamps_congr (by simp)).trans (admitEntries_stamps x.admission _)
      have mined : stamps s3 = stamps s2 := by
        dsimp only [s3]
        split
        · rfl
        · exact admitMinings_stamps f s2
      rw [cohortTiles_stamps, admitTrains_stamps, admitEncodes_stamps, mined, admitted]

theorem serveFacet_stamps (s : State) (f : Nat) : stamps (serveFacet s f) = stamps s := by
  unfold serveFacet
  extract_lets t
  split
  · exact (rfl : _ = stamps t).trans (admitFacet_stamps s f)
  · exact admitFacet_stamps s f

-- What else a boundary opens.

theorem sendUnits_stamps (ps : List MigPart) (l : Nat) (m : MigPart → ChordMsg) (s : State) :
    stamps (ps.foldl (fun t p => sendMsg l (m p) t) s) = stamps s :=
  foldl_proj stamps _ _ s fun _ _ => stamps_congr (by simp)

theorem migBoundary_stamps (s : State) : stamps (migBoundary s) = stamps s := by
  unfold migBoundary
  extract_lets m
  split
  · rfl
  · split
    · simp [stamps]
    · extract_lets
      split
      · rfl
      · rename_i t granted
        exact (sendUnits_stamps _ _ _ _).trans ((rfl : _ = stamps t).trans (allJobs_charged _ _ _ _ granted).stamps)

theorem scrubOn_stamps (s : State) (f : Nat) : stamps (scrubOn s f) = stamps s := by
  unfold scrubOn
  extract_lets r t
  have scrubbed : stamps t = stamps s := (rfl : _ = stamps r.2).trans (runJobs_charged f 7 .ended _ s).stamps
  split
  · exact scrubbed
  · exact (rfl : _ = stamps t).trans scrubbed

theorem copyUnit_stamps (reads : List Job) (u : Unit') (s : State) : stamps (copyUnit reads u s) = stamps s := by
  unfold copyUnit
  extract_lets p
  split
  · rfl
  · cases granted : allJobs u.facet 7 (.move u p.1 (newPage s u) p.2) (reads ++ programJobs [placeOf s u]) (useFree s) with
    | none => rfl
    | some t => exact (allJobs_charged _ _ _ _ granted).stamps

theorem leaveBlock_stamps (s : State) (b : Nat × Nat × Nat × Nat) : stamps (leaveBlock s b) = stamps s := by
  unfold leaveBlock
  extract_lets t
  have copied : stamps t = stamps s := foldl_proj stamps _ _ s fun v u => copyUnit_stamps _ u v
  split
  · exact copied
  · split
    · exact (rfl : _ = stamps t).trans copied
    · exact (stamps_congr (by simp)).trans copied

theorem openStep_stamps (s : State) : (openStep s).srch.cohort = s.srch.cohort + 1 ∧ (openStep s).srch.turn = s.srch.turn := by
  have opened : stamps (openStep s) = (s.srch.cohort + 1, s.srch.turn) := by
    unfold openStep
    extract_lets begun s1 s2
    calc stamps _ = stamps (scrubsOn (s2.facets.foldl (fun t x => floorAdvance x.num t) s2)) :=
          foldl_proj stamps _ _ _ leaveBlock_stamps
      _ = stamps (s2.facets.foldl (fun t x => floorAdvance x.num t) s2) := foldl_proj stamps _ _ _ scrubOn_stamps
      _ = stamps s2 := foldl_proj stamps _ _ s2 fun _ _ => stamps_congr (by simp)
      _ = stamps ((facetOrder s1).foldl serveFacet s1) := migBoundary_stamps _
      _ = stamps s1 := foldl_proj stamps _ _ s1 serveFacet_stamps
      _ = _ := by simp [stamps, s1, begun]
  exact Prod.mk.inj opened

-- When boundaries come.

theorem freeTurn_due (s : State) (on : clocked s = true) (free : synced s = false) (due : s.brd.turnStart + 102400 ≤ now s) :
    exec .freeRunningTurn s = .next (settle (openStep (closeStep (migPublish (newTurn s))))) :=
  congrArg Host.Outcome.next (if_pos (by simp [on, free, due]))

/-- The state whose next turn starts without a pulse: the lock has ended, and event 0503 is recorded (R348). -/
def unlocked (s : State) : State :=
  record 0x0503 0 [0xFFFFFFFF] { s with brd := { s.brd with locked := false, inWindow := 0, syncInterval := 0xFFFFFFFF } }

theorem unlocked_brd (s : State) : (unlocked s).brd = { s.brd with locked := false, inWindow := 0, syncInterval := 0xFFFFFFFF } := by
  simp [unlocked]

theorem unlocked_eq (s : State) :
    unlocked s = { s with brd := (unlocked s).brd, evr := (unlocked s).evr, hif := (unlocked s).hif, out := (unlocked s).out } := by
  apply State.ext_of_fields <;> simp [unlocked]

theorem unlocked_told (s : State) : Told s (unlocked s) := told_trans (told_of_eq rfl rfl) (record_told 0x0503 0 [0xFFFFFFFF] _)

theorem syncTimeout_due (s : State) (on : clocked s = true) (held : synced s = true) (due : s.brd.turnStart + 112640 ≤ now s) :
    exec .syncTimeout s = .next (settle (openStep (closeStep (migPublish (newTurn (unlocked s)))))) := by
  have locked : s.brd.locked = true := by
    unfold synced at held
    simp_all
  have missing : pulseMissing s = true := by simp [pulseMissing, locked, held, due]
  refine congrArg Host.Outcome.next ((if_pos (by simp [on, missing])).trans ?_)
  exact if_pos held

/-- Settles O24: a new turn accounts for the last one's credit; what a step's end and its beginning do is read off their parts. -/
theorem creditAndEpochsAtBoundaries : Obligations.CreditAndEpochsAtBoundaries := by
  unfold Obligations.CreditAndEpochsAtBoundaries
  refine ⟨fun s on => ⟨batchStep_due s on, freeTurn_due s on, fun held due => ?_⟩, fun s => ?_, fun s f => ?_⟩
  · exact ⟨unlocked s, syncTimeout_due s on held due, unlocked_brd s, unlocked_eq s, unlocked_told s⟩
  · obtain ⟨spent, bytes, step, turn, debt⟩ := newTurn_credit s
    exact ⟨spent, bytes, step, turn, newTurn_brd s, newTurn_out s, debt⟩
  · obtain ⟨epoch, changed, next, format⟩ := closeStep_facet s f
    obtain ⟨cohort, turn⟩ := openStep_stamps s
    exact ⟨epoch, changed, closeStep_mods s, next, format, closeStep_stamped s, closeStep_freeing s, cohort, turn⟩

end Sys2Proof.Machine
end

section
/-! The end of a sliver and the scan checkpoint: what they give a sliver's members, and what becomes of the cell (R88, R93, R94, R98, R215, R227). -/

namespace Sys2Proof.Machine

-- The scan checkpoint.

theorem scanCheckpoint_undue {x : Nat} {s : State} {q : Query} (found : queryOf s x = some q)
    (undue : q.deadline = 0 ∨ now s < q.since + 750 * q.deadline ∨ q.scanDone = true) : scanCheckpoint x s = s := by
  have held : (q.deadline == 0 || now s < q.since + 750 * q.deadline || q.scanDone || bit 0 q.cause) = true := by
    rcases undue with h | h | h <;> simp [h]
  simp [scanCheckpoint, found, held]

/-- A query in its scan, its slivers cut (R98): of one of a domain, the result is partial where a stack of the module is throttled (R307). -/
def scanCut (s : State) (q : Query) : Query :=
  let dom := match q.origin with
    | .domain _ _ => true
    | _ => false
  { q with cause := orBits q.cause cScan, partialFlag := q.partialFlag || (dom && stackHot s) }

/-- The query cut and its waiting slivers given up, before it merges. -/
def checkpointCut (x : Nat) (q : Query) (s : State) : State := giveUpSlivers x (updQuery x (fun _ => scanCut s q) s)

theorem scanCheckpoint_due {x : Nat} {s : State} {q : Query} (found : queryOf s x = some q) (timed : q.deadline ≠ 0)
    (due : q.since + 750 * q.deadline ≤ now s) (unfinished : q.scanDone = false) (uncut : bit 0 q.cause = false) (scans : q.stage = .scan)
    (waits : (s.srch.slivers.any fun v => v.members.contains x) = true) :
    scanCheckpoint x s = settle (chipMerge x (checkpointCut x q s)) := by
  have goes : (q.deadline == 0 || now s < q.since + 750 * q.deadline || q.scanDone || bit 0 q.cause) = false := by
    simp [timed, due, unfinished, uncut]
  have past : inStage q = false := by simp [inStage, scans]
  simp only [scanCheckpoint, found, goes, past, waits, Bool.or_true, Bool.not_true, Bool.false_and, Bool.false_eq_true, if_false]
  rfl

/-- What is left of a sliver without some queries has none of them as a member. -/
theorem Sliver.members_of_without {gone : Nat → Bool} {v w : Sliver} (h : v.without gone = some w) : ∀ m ∈ w.members, gone m = false := by
  unfold Sliver.without at h
  dsimp only at h
  split at h
  · cases h
  · cases h
    intro m left
    simpa using (List.mem_filter.mp left).2

theorem giveUpSlivers_slivers (x : Nat) (s : State) : ((giveUpSlivers x s).srch.slivers.all fun v => !v.members.contains x) = true := by
  refine List.all_eq_true.mpr fun w hw => ?_
  obtain ⟨v, -, left⟩ := List.mem_filterMap.mp hw
  have other : x ∉ w.members := fun mem => by simpa using Sliver.members_of_without left x mem
  simpa using other

theorem queryOf_checkpointCut {x : Nat} {s : State} {q : Query} (found : queryOf s x = some q) :
    queryOf (checkpointCut x q s) x = some (scanCut s q) := by
  have ctx : q.ctx = x := by simpa using List.find?_some found
  have cut : queryOf (checkpointCut x q s) x = (queryOf s x).map fun _ => scanCut s q :=
    find?_updFirst _ _ s.srch.queries fun _ _ => by simpa [scanCut] using ctx
  rw [cut, found]
  rfl

/-- Settles O28: a checkpoint that is not due does nothing, and one that is due leaves the query cut and no sliver of it waiting. -/
theorem checkpointCutsTheScan : Obligations.CheckpointCutsTheScan := by
  unfold Obligations.CheckpointCutsTheScan
  intro x s q found
  refine ⟨fun undue => congrArg Host.Outcome.next (scanCheckpoint_undue found undue), fun timed due unfinished uncut scans waits => ?_⟩
  refine ⟨_, congrArg Host.Outcome.next (scanCheckpoint_due found timed due unfinished uncut scans waits), checkpointCut x q s, rfl, ?_, ?_, rfl⟩
  · exact giveUpSlivers_slivers x _
  · rw [queryOf_checkpointCut found]
    rfl

-- A sliver's members at its end.

/-- The candidates that a sliver's end gives at a region: those it has met, but for what a poisoned block hid, and those of its rest (R14, R215). -/
def endCands (s : State) (ix : Index) (v : Sliver) (region : Nat) : List (Nat × Cand) :=
  (v.staged ++ v.heap).filter (fun p => !poisonedRec ix.geo v p.2.pos) ++ sliverCands s ix v region

/-- A query after the end of a sliver on a cell (R88, R93, R101). -/
def committed (s : State) (c : Nat) (ix : Index) (v : Sliver) (q : Query) : Query :=
  if v.members.contains q.ctx then
    { commitSliver (c / 512) (endCands s ix v (c / 512)) q with
      scanned := q.scanned + (sliverCount s ix v q).1, partialFlag := q.partialFlag || (sliverCount s ix v q).2 }
  else q

theorem commitMembers_queries (c : Nat) (ix : Index) (v : Sliver) (s : State) :
    (commitMembers c ix v s).srch.queries = s.srch.queries.map (committed s c ix v) := rfl

section
variable {s : State} {c : Nat} {ix : Index} {v : Sliver} {q : Query}

theorem committed_ctx : (committed s c ix v q).ctx = q.ctx := by
  unfold committed
  split <;> rfl

theorem committed_of_not_mem (h : q.ctx ∉ v.members) : committed s c ix v q = q := if_neg (by simpa using h)

theorem committed_of_mem (h : q.ctx ∈ v.members) : committed s c ix v q =
    { commitSliver (c / 512) (endCands s ix v (c / 512)) q with
      scanned := q.scanned + (sliverCount s ix v q).1, partialFlag := q.partialFlag || (sliverCount s ix v q).2 } :=
  if_pos (by simpa using h)

end

theorem commitSliver_region (r : Nat) (cs : List (Nat × Cand)) (q : Query) :
    look [] r (commitSliver r cs q).regions =
      (sortBy candBefore (regionList q r ++ (cs.filter (·.1 == q.ctx)).map (·.2))).take q.r := look_put _ _ _ _

theorem commitSliver_other_region {r r' : Nat} (cs : List (Nat × Cand)) (q : Query) (h : r' ≠ r) :
    look [] r' (commitSliver r cs q).regions = look [] r' q.regions := look_put_ne _ _ _ _ _ h

-- The cell behind a sliver's end.

theorem mayGrant_congr {s t : State} (h : t.brd = s.brd) (cls : Nat) (b : Bool) : mayGrant t cls b = mayGrant s cls b := by
  simp only [mayGrant, ps2Selected, braked, withheld, h]

/-- A cell takes its suspended sliver up again where that may be granted, and is idle otherwise (R227). -/
theorem nextContext_contexts (s : State) (x : CellSt) :
    let back := x.susp.all fun v => mayGrant s (v.cls % 8) x.suspBorrowed
    (nextContext s x).run = (if back then x.susp else none) ∧ (nextContext s x).susp = (if back then none else x.susp) ∧
    (nextContext s x).since = now s := by
  intro back
  unfold nextContext
  by_cases h : back = true
  · simp [back, h]
  · simp [back, h]

theorem nextContext_cell (s : State) (x : CellSt) : (nextContext s x).cell = x.cell := by
  unfold nextContext
  split <;> rfl

theorem nextStream_charged (c : Nat) (s : State) : Charged s (nextStream c s) := by
  have drained : Charged s (drainStream c s) := .of_eq (drainStream_srch c s)
  unfold nextStream
  split
  · exact drained.trans (armSliver_charged _ _ _)
  · exact drained

theorem endStream_charged (c : Nat) (s : State) : Charged s (endStream c s) :=
  (Charged.of_eq (drainStream_srch c s)).trans (nextStream_charged c _)

/-- A sliver's members have its candidates, and the cell its next context; the cell is not charged yet. -/
def contextEnded (c : Nat) (ix : Index) (v : Sliver) (s : State) : State :=
  updCell c (nextContext s) (rotateTo arbMerge (c / 512) (commitMembers c ix (withLost s ix v) (countSliver s ix v s)))

/-- A sliver has ended on its cell, and no member has merged yet. -/
def sliverEnded (c : Nat) (ix : Index) (v : Sliver) (s : State) : State :=
  endStream c (chargeCell (cellOf s c) (contextEnded c ix v s))

section
variable (c : Nat) (ix : Index) (v : Sliver) (s : State)

theorem endSliver_eq : endSliver c ix v s = v.members.foldl (fun u m => chipMerge m u) (sliverEnded c ix v s) := rfl

theorem sliverEnded_charged : Charged (contextEnded c ix v s) (sliverEnded c ix v s) :=
  (chargeCell_charged _ (.refl _)).trans (endStream_charged c _)

theorem sliverEnded_queries :
    (sliverEnded c ix v s).srch.queries = s.srch.queries.map (committed (countSliver s ix v s) c ix (withLost s ix v)) :=
  calc (sliverEnded c ix v s).srch.queries = (contextEnded c ix v s).srch.queries := (sliverEnded_charged c ix v s).queries
    _ = (countSliver s ix v s).srch.queries.map _ := commitMembers_queries c ix (withLost s ix v) (countSliver s ix v s)
    _ = _ := by rw [(countSliver_charged s ix v (.refl s)).queries]

theorem cellOf_sliverEnded : cellOf (sliverEnded c ix v s) c = nextContext s (cellOf s c) := by
  rw [(sliverEnded_charged c ix v s).cellOf, contextEnded, cellOf_updCell _ _ _ (nextContext_cell s)]
  exact congrArg (nextContext s) ((countSliver_charged s ix v (.refl s)).cellOf c)

end

-- SLIVER_FINISH.

/-- What is left of the pieces that a sliver's end asks for, and the state in which the others are granted (R225). -/
def finishJobs (s : State) (c : Nat) (ix : Index) (v : Sliver) : List Job × State :=
  runJobs v.facet (v.cls % 8) .ended (v.wait.getD (sliverJobs s c ix v)) (useFree s)

section
variable {c : Nat} {s : State} {v : Sliver} {ix : Index}

theorem finishJobs_charged : Charged s (finishJobs s c ix v).2 := (useFree_charged (.refl s)).trans (runJobs_charged _ _ _ _ _)

theorem finishJobs_brd : (finishJobs s c ix v).2.brd = s.brd := by simp [finishJobs]

variable (run : (cellOf s c).run = some v) (index : idxOf s v.facet v.slot = some ix)
include run index

theorem sliverFinish_stands (stands : cellStands s (cellOf s c) = true) : sliverFinish c s = s := by
  simp [sliverFinish, run, index, stands]

theorem sliverFinish_waits (goes : cellStands s (cellOf s c) = false) (left : (finishJobs s c ix v).1 ≠ []) :
    sliverFinish c s = settle (updCell c (fun x => { x with run := some { v with wait := some (finishJobs s c ix v).1 } })
      (finishJobs s c ix v).2) := by
  unfold finishJobs at left
  simp [sliverFinish, run, index, goes, left, finishJobs]

theorem sliverFinish_ends (goes : cellStands s (cellOf s c) = false) (granted : (finishJobs s c ix v).1 = []) :
    sliverFinish c s = settle (endSliver c ix v (finishJobs s c ix v).2) := by
  unfold finishJobs at granted
  simp [sliverFinish, run, index, goes, granted, finishJobs]

end

/-- Settles O26: a cell that stands, a sliver that waits for its pieces and one that ends each by what SLIVER_FINISH does with it. -/
theorem sliverFinishCommitsCandidates : Obligations.SliverFinishCommitsCandidates := by
  unfold Obligations.SliverFinishCommitsCandidates
  intro c s v0 ix run index r z v cands back
  have cell : cellOf r.2 c = cellOf s c := finishJobs_charged.cellOf c
  have queries : r.2.srch.queries = s.srch.queries := finishJobs_charged.queries
  have brd : r.2.brd = s.brd := finishJobs_brd
  refine ⟨fun stands => congrArg Host.Outcome.next (sliverFinish_stands run index stands), fun goes left => ?_, fun goes granted => ?_⟩
  · refine ⟨_, congrArg Host.Outcome.next (sliverFinish_waits run index goes left), ?_, queries⟩
    rw [cellOf_updCell]
    · rfl
    · exact fun _ => rfl
  · obtain ⟨next, susp, since⟩ := nextContext_contexts r.2 (cellOf s c)
    simp only [mayGrant_congr brd] at next susp
    have ended : cellOf (sliverEnded c ix v0 r.2) c = nextContext r.2 (cellOf s c) := (cellOf_sliverEnded c ix v0 r.2).trans (by rw [cell])
    have up : (sliverEnded c ix v0 r.2).srch.queries = s.srch.queries.map (committed z c ix v) :=
      (sliverEnded_queries c ix v0 r.2).trans (by rw [queries])
    refine ⟨_, congrArg Host.Outcome.next (sliverFinish_ends run index goes granted), sliverEnded c ix v0 r.2, rfl, ?_, ?_, ?_, ?_, ?_, ?_⟩
    · rw [ended, next]
    · rw [ended, susp]
    · rw [ended, since]
      exact congrArg Board.clk brd
    · rw [up, List.map_map]
      exact List.map_congr_left fun q _ => committed_ctx
    · intro q hq other
      rw [up]
      exact List.mem_map.mpr ⟨q, hq, committed_of_not_mem other⟩
    · intro q hq member
      refine ⟨_, up ▸ List.mem_map_of_mem hq, committed_ctx, ?_⟩
      rw [committed_of_mem member]
      exact ⟨commitSliver_region _ _ _, fun r' h => commitSliver_other_region _ _ h, rfl, rfl, rfl, rfl⟩

end Sys2Proof.Machine
end

section
/-! Tiles that drain, hop rounds that end, and sentinel shadows (R108, R110, R119, R162, R164 to R166, R222, R223). -/

namespace Sys2Proof.Machine

-- TILE_DRAIN.

/-- An engine whose tile has ended: it is free, the tile's ticks are charged to its class, and nothing waits for the tile any more. -/
def tileEnded (n : Nat) (x : Engine) (t : Tile) (s : State) : State :=
  busyEnded (.tile n) (charge (unitEngine n) t.facet (t.cls % 8) (ticksSince s x.since) x.borrowed
    { s with srch := { s.srch with engines := updFirst (·.num == n) (fun y => { y with run := none }) s.srch.engines } })

theorem charge_engines (u f cls ticks : Nat) (b : Bool) (s : State) : (charge u f cls ticks b s).srch.engines = s.srch.engines :=
  (charge_charged u f cls ticks b (.refl s)).engines

section
variable {n : Nat} {s : State} {x : Engine} {t : Tile} (found : s.srch.engines.find? (·.num == n) = some x)
include found

theorem tileEnded_free : ((tileEnded n x t s).srch.engines.find? (·.num == n)).map (·.run) = some none := by
  have engines : (tileEnded n x t s).srch.engines = updFirst (·.num == n) (fun y => { y with run := none }) s.srch.engines := by
    simp only [tileEnded, busyEnded_rest, charge_engines]
  rw [engines, find?_updFirst, found]
  · rfl
  · exact fun _ h => h

theorem tileDrain_node {tag g st : Nat} (run : x.run = some t) (kind : t.kind = .node tag g st) :
    tileDrain n s = settle (drainNode n t tag g st (tileEnded n x t s)) := by
  simp only [tileDrain, found, run, kind]
  rfl

theorem tileDrain_search (run : x.run = some t) (kind : ∀ tag g st, t.kind ≠ .node tag g st) :
    tileDrain n s = settle (drainSearch n t (tileEnded n x t s)) := by
  simp only [tileDrain, found, run]
  rfl

end

-- HOP_ROUND.

/-- A hop round whose sketches the walker has fetched and whose work is charged (R110, R209, R222). -/
def roundTaken (ix : Index) (q : Query) (b : Bool) (s : State) : State :=
  let s1 := drainBy (.walker q.ctx) (takeSketchRuns ix q ((roundNodes ix q).map (·.num)) s)
  useFree (charge q.walker q.facet (q.cls % 8) (Config.workTicks s1.free q.walker) b s1)

/-- A query with the results of its round's matching nodes, before its neighbours go into Q (R108); `part` is its PARTIAL flag. -/
def gathered (q : Query) (part : Bool) : Query :=
  { q with found := q.found ++ q.arrived.filter (fun r => q.q.any fun e => e.node == r.cand.pos && e.matching),
           sel := [], failedSel := [], arrived := [], poison := [], partialFlag := part }

/-- A round's end gathers its matches, puts neighbours into Q, and the walk goes on or ends (R108). -/
theorem hopRound_continues (ix : Index) (q : Query) (b : Bool) (s : State) : ∃ part ns,
    hopRound ix q b s = continueWalk ix false (insertQ (facetOf s q.facet) ix (gathered q part) ns)
      (updQuery q.ctx (fun _ => insertQ (facetOf s q.facet) ix (gathered q part) ns) (roundTaken ix q b s)) := ⟨_, _, rfl⟩

theorem poisonRound_ctxs (q : Query) (rs : List Nat) (s : State) :
    (poisonRound q rs s).srch.queries.map (·.ctx) = s.srch.queries.map (·.ctx) := by
  unfold poisonRound
  extract_lets hit keep
  have keeps : ∀ y, (hit y).ctx = y.ctx := fun y => by dsimp only [hit]; split <;> rfl
  split
  · rfl
  · exact (List.map_map ..).trans (List.map_congr_left fun y _ => keeps y)

theorem takeSketchRuns_ctxs (ix : Index) (q : Query) (ns : List Nat) (s : State) :
    (takeSketchRuns ix q ns s).srch.queries.map (·.ctx) = s.srch.queries.map (·.ctx) := by
  unfold takeSketchRuns
  extract_lets g base rs live bad srch s1
  rw [poisonRound_ctxs, (Charged.foldl _ (fun t r => readHbm_charged _ _ _ _ _ _ (.refl t)) rs s1).queries]

theorem drainBy_srch (u : Consumer) (s : State) : (drainBy u s).srch = s.srch := by simp

theorem roundTaken_ctxs (ix : Index) (q : Query) (b : Bool) (s : State) :
    (roundTaken ix q b s).srch.queries.map (·.ctx) = s.srch.queries.map (·.ctx) := by
  unfold roundTaken
  extract_lets s1
  rw [(useFree_charged (charge_charged _ _ _ _ _ (.refl s1))).queries, drainBy_srch, takeSketchRuns_ctxs]

theorem roundTaken_rest (ix : Index) (q : Query) (b : Bool) (s : State) :
    (roundTaken ix q b s).cmds = s.cmds ∧ (roundTaken ix q b s).idx = s.idx := by simp [roundTaken]

/-- A context holds a query when it is among the queries' contexts. -/
theorem queryOf_isSome_iff (s : State) (x : Nat) : (queryOf s x).isSome = true ↔ x ∈ s.srch.queries.map (·.ctx) := by
  simp [queryOf]

theorem queryOf_replace {s : State} {x : Nat} {q : Query} (held : x ∈ s.srch.queries.map (·.ctx)) (ctx : q.ctx = x) :
    queryOf (updQuery x (fun _ => q) s) x = some q := by
  obtain ⟨y, hy⟩ := Option.isSome_iff_exists.mp ((queryOf_isSome_iff s x).mpr held)
  have upd : queryOf (updQuery x (fun _ => q) s) x = (queryOf s x).map fun _ => q :=
    find?_updFirst _ _ s.srch.queries fun _ _ => by simpa using ctx
  rw [upd, hy]
  rfl

/-- The end of a round leaves its query with what matched of the round's vertices, and no commands or indexes changed. -/
theorem hopRound_gathers (ix : Index) {q : Query} (b : Bool) {s : State} (held : q.ctx ∈ s.srch.queries.map (·.ctx)) : ∃ q2 u,
    hopRound ix q b s = continueWalk ix false q2 u ∧ queryOf u q.ctx = some q2 ∧ q2.hops = q.hops ∧ q2.sel = [] ∧ q2.arrived = [] ∧
      q2.poison = [] ∧ q2.found = q.found ++ q.arrived.filter (fun r => q.q.any fun e => e.node == r.cand.pos && e.matching) ∧
      u.cmds = s.cmds ∧ u.idx = s.idx := by
  obtain ⟨part, ns, continues⟩ := hopRound_continues ix q b s
  obtain ⟨cmds, idx⟩ := roundTaken_rest ix q b s
  exact ⟨_, _, continues, queryOf_replace (roundTaken_ctxs ix q b s ▸ held) rfl, rfl, rfl, rfl, rfl, rfl, cmds, idx⟩

section
variable {x : Nat} {s : State} {q : Query} (found : queryOf s x = some q)
include found

theorem ctx_of_queryOf : q.ctx = x := by simpa using List.find?_some found

theorem hopRoundAt_granted {ix : Index} {b : Bool} (index : idxOf s q.facet q.slot = some ix) (due : roundDue q = true)
    (granted : walkGrant s q.walker = some (q, b)) : hopRoundAt x s = hopRound ix q b (rotateTo q.walker q.facet s) := by
  simp [hopRoundAt, found, due, index, granted, ctx_of_queryOf found]

theorem hopRoundAt_waits
    (waits : roundDue q = false ∨ walkGrant s q.walker = none ∨ ∃ y b, walkGrant s q.walker = some (y, b) ∧ y.ctx ≠ x) :
    hopRoundAt x s = s := by
  simp only [hopRoundAt, found]
  obtain undue | none | ⟨y, b, granted, other⟩ := waits
  · simp [undue]
  · simp [none]
  · cases index : idxOf s q.facet q.slot with
    | none => simp
    | some ix => simp [granted, other]

end

-- SENTINEL_SHADOW_FINISH.

theorem chargeWork_standing (f cls : Nat) (s : State) : standing (chargeWork f cls s) = standing s :=
  foldl_proj standing _ _ _ fun _ _ => (charge_standing _ _ _ _ _ _).trans (charge_standing _ _ _ _ _ _)

theorem bump_window (f k n g : Nat) (s : State) : (facetOf (bump f k n s) g).window = (facetOf s g).window :=
  field_of_standing Facet.window (bump_standing f k n s) g fun _ => rfl

theorem record_window (code subject g : Nat) (snap : List Nat) (s : State) :
    (facetOf (record code subject snap s) g).window = (facetOf s g).window :=
  congrArg Facet.window (facetOf_congr (by simp) g)

/-- The format taken on past the drift leaves the window as it was. -/
theorem s0Next_window (f n : Nat) (s : State) :
    (facetOf (updFacet f (fun y => { y with s0Next := some n }) s) f).window = (facetOf s f).window := by
  rw [facetOf_updFacet]
  exact fun _ => rfl

theorem shadowFinish_waits {f slot : Nat} {s : State} {h : Shadow} {ix : Index}
    (found : s.srch.shadows.find? (fun y => y.facet == f && y.slot == slot) = some h) (index : idxOf s f slot = some ix)
    (undue : shadowDue s h = false) : shadowFinish f slot s = s := by
  simp [shadowFinish, found, index, undue]

/-- A shadow that may run leaves the queue, and its lists that are absent join the last 63 others of its facet (R166). -/
theorem shadowFinish_joins {f slot : Nat} {s : State} {h : Shadow} {ix : Index}
    (found : s.srch.shadows.find? (fun y => y.facet == f && y.slot == slot) = some h) (index : idxOf s f slot = some ix)
    (due : shadowDue s h = true) :
    (shadowFinish f slot s).srch.shadows = s.srch.shadows.erase h ∧ (facetOf (shadowFinish f slot s) f).window =
      ((facetOf s f).window ++ [(absentLists ix h, h.nprobe)]).drop ((facetOf s f).window.length + 1 - 64) := by
  simp -zeta only [shadowFinish, found, index, due, Bool.not_true, Bool.false_eq_true, if_false]
  extract_lets miss x win a n drift act past switch srch s1 s2
  have queue : s1.srch.shadows = s.srch.shadows.erase h := by
    simp only [s1, bump_rest, updFacet_rest]
    exact (chargeWork_charged _ _ (useFree_charged (.refl _))).shadows
  have window : (facetOf s1 f).window = win := by
    simp only [s1, bump_window]
    rw [facetOf_updFacet]
    exact fun _ => rfl
  have queue2 : s2.srch.shadows = s.srch.shadows.erase h := by simpa [s2] using queue
  have window2 : (facetOf s2 f).window = win := by simp only [s2, record_window, bump_window, window]
  split
  · split
    · exact ⟨by simpa using queue2, by rw [bump_window, s0Next_window, window2]⟩
    · exact ⟨queue2, window2⟩
  · exact ⟨queue, window⟩

/-- Settles O25: a tile's engine is free and charged before its result drains; a granted round gathers what matches, another waits; a shadow
that may run joins its facet's window. -/
theorem tilesRoundsAndShadowsFinish : Obligations.TilesRoundsAndShadowsFinish := by
  unfold Obligations.TilesRoundsAndShadowsFinish
  refine ⟨fun n s x t found run => ⟨tileEnded_free found, fun tag g st kind => ?_, fun kind => ?_⟩, ?_, ?_, ?_⟩
  · exact congrArg Host.Outcome.next (tileDrain_node found run kind)
  · exact congrArg Host.Outcome.next (tileDrain_search found run kind)
  · intro x s q ix b found index due granted s0
    obtain rfl := ctx_of_queryOf found
    refine ⟨congrArg (fun u => Host.Outcome.next (settle u)) (hopRoundAt_granted found index due granted), hopRound_gathers ix b ?_⟩
    exact (queryOf_isSome_iff s0 q.ctx).mp (Option.isSome_of_eq_some found)
  · intro x s q found waits
    exact congrArg (fun u => Host.Outcome.next (settle u)) (hopRoundAt_waits found waits)
  · intro f slot s h ix found index
    refine ⟨fun due => ⟨_, rfl, shadowFinish_joins found index due⟩, fun undue => ?_⟩
    exact congrArg Host.Outcome.next (shadowFinish_waits found index undue)

end Sys2Proof.Machine
end

section
/-! Work on an index in pieces: what beginning it, going on with it and publishing it leave (R138, R195, R214, R223, R225; log 46). -/

namespace Sys2Proof.Machine

open Sys2Proof.Safety

-- What the pieces of such work leave alone.

/-- The indexes, the commands, the lists' stacked copies and what stands of the facets are as they were. -/
structure Apart (s t : State) : Prop where
  idx : t.idx = s.idx
  cmds : t.cmds = s.cmds
  stale : t.mem.stale = s.mem.stale
  copies : t.mem.copies = s.mem.copies
  facets : standing t = standing s

theorem Apart.refl (s : State) : Apart s s := ⟨rfl, rfl, rfl, rfl, rfl⟩

theorem Apart.trans {s t u : State} (h : Apart s t) (k : Apart t u) : Apart s u :=
  ⟨k.idx.trans h.idx, k.cmds.trans h.cmds, k.stale.trans h.stale, k.copies.trans h.copies, k.facets.trans h.facets⟩

theorem Apart.foldl {α : Type} (f : State → α → State) (h : ∀ t a, Apart t (f t a)) (l : List α) (s : State) : Apart s (l.foldl f s) :=
  foldl_ind (Apart s) f l s (.refl s) fun t a k => k.trans (h t a)

theorem apart_of_eq {s t : State} (idx : t.idx = s.idx) (cmds : t.cmds = s.cmds) (mem : t.mem = s.mem) (facets : t.facets = s.facets) :
    Apart s t := ⟨idx, cmds, by rw [mem], by rw [mem], standing_congr facets⟩

theorem Apart.epoch {s t : State} (h : Apart s t) (f : Nat) : (facetOf t f).epoch = (facetOf s f).epoch :=
  field_of_standing Facet.epoch h.facets f fun _ => rfl

theorem Apart.changed {s t : State} (h : Apart s t) (f : Nat) : (facetOf t f).changed = (facetOf s f).changed :=
  field_of_standing Facet.changed h.facets f fun _ => rfl

theorem useFree_apart (s : State) : Apart s (useFree s) := ⟨rfl, rfl, rfl, rfl, rfl⟩

theorem bump_apart (f k n : Nat) (s : State) : Apart s (bump f k n s) := ⟨rfl, rfl, rfl, rfl, bump_standing f k n s⟩

theorem countSketch_apart (s0 : State) (ix : Index) (gen cls : Nat) (v : Bytes) (s : State) : Apart s (countSketch s0 ix gen cls v s) :=
  (bump_apart _ _ _ s).trans (bump_apart _ _ _ _)

theorem runJobs_apart (f cls : Nat) (w : SegWork) (js : List Job) (s : State) : Apart s (runJobs f cls w js s).2 :=
  ⟨by simp, by simp, by simp, by simp, (runJobs_countedOn cls w js (countedOn_of_eq rfl)).standing_eq⟩

theorem allJobs_apart {f cls : Nat} {w : SegWork} {js : List Job} {s t : State} (h : allJobs f cls w js s = some t) : Apart s t := by
  unfold allJobs at h
  dsimp only at h
  split at h
  · cases h
    exact runJobs_apart f cls w js s
  · cases h

theorem armMemory_apart (f slot cls : Nat) (hbm : List (Nat × Nat × Nat × Nat)) (s : State) : Apart s (armMemory f slot cls hbm s) := by
  unfold armMemory
  split
  · exact ⟨rfl, rfl, rfl, rfl, rfl⟩
  · exact .refl s

theorem returnEscapes_apart (p : Nat → Nat → Bool) (s : State) : Apart s (returnEscapes p s) := by
  have back := Apart.foldl (fun t (g : Nat × Nat × Nat × Nat) => escapesBack g.1 g.2.2.2 t) (fun _ _ => ⟨rfl, rfl, rfl, rfl, rfl⟩)
    (s.mem.grants.filter fun g => p g.2.1 g.2.2.1) s
  exact ⟨back.idx, back.cmds, back.stale, back.copies, back.facets⟩

theorem closeStreams_apart (p : Strm → Bool) (s : State) : Apart s (closeStreams p s) := by
  unfold closeStreams
  extract_lets gone s1
  have escapes : Apart s s1 := by
    dsimp only [s1]
    split
    · exact .refl s
    · exact returnEscapes_apart _ s
  exact ⟨escapes.idx, escapes.cmds, escapes.stale, escapes.copies, escapes.facets⟩

theorem keepChecks_apart (f slot key : Nat) (s : State) : Apart s (keepChecks f slot key s) := by
  unfold keepChecks
  split
  · exact .refl s
  · exact ⟨rfl, rfl, rfl, rfl, rfl⟩

theorem writePages_apart (us : List Unit') (s : State) : Apart s (writePages us s) := apart_of_eq (by simp) (by simp) (by simp) (by simp)

/-- What a row answers when its work settles. -/
theorem settles_of_run {i : Instr} {s : State} {t : State} {p : State → Prop} (run : exec i s = .next t) (h : ∃ u, t = settle u ∧ p u) :
    Settles i s p := by
  obtain ⟨u, settled, hu⟩ := h
  exact ⟨u, run.trans (congrArg Host.Outcome.next settled), hu⟩

theorem jobsLeft_of_mayPublish {s : State} {ix : Index} (may : mayPublish s ix = true) : jobsLeft ix = false := by
  simp only [mayPublish, Bool.and_eq_true, Bool.not_eq_true'] at may
  exact may.1.2

-- The index that a lookup finds.

theorem idxOf_facet {s : State} {f slot : Nat} {ix : Index} (h : idxOf s f slot = some ix) : ix.geo.facet = f := by
  have key := List.find?_some h
  simp only [Bool.and_eq_true, beq_iff_eq] at key
  exact key.1

/-- An index replaced by another of the same facet and slot. -/
theorem idxOf_updIdx_of_geo {s t : State} {f slot : Nat} {ix : Index} (found : idxOf s f slot = some ix) (idx : t.idx = s.idx) (g : Index → Index)
    (geo : ∀ i, (g i).geo = i.geo ∨ (g i).geo = ix.geo) : idxOf (updIdx f slot g t) f slot = some (g ix) := by
  have keeps : ∀ i : Index, (i.geo.facet == f && i.geo.slot == slot) = true → ((g i).geo.facet == f && (g i).geo.slot == slot) = true := by
    intro i hi
    rcases geo i with h | h <;> rw [h]
    · exact hi
    · simp [idxOf_facet found, idxOf_slot found]
  have : idxOf (updIdx f slot g t) f slot = (idxOf t f slot).map g := find?_updFirst _ g t.idx keeps
  rw [this, idxOf_congr idx, found]
  rfl

section
variable {f slot : Nat} {s : State} {ix : Index} (found : idxOf s f slot = some ix)
include found

-- Work that begins, goes on, or is written again.

/-- A change begun: its kind and its pieces are noted on its index, under an order of the nodes where it renumbers them. -/
theorem stage_begins (cls kind n : Nat) (mk : State → Index → Plan) : ∃ w u, stage f slot cls kind n mk s = settle u ∧
    w.order = (if kind == 4 then newOrder (curArray ix) else []) ∧ idxOf u f slot = some { ix with staged := some (kind, n), work := some w } ∧
    (facetOf u f).changed = (facetOf s f).changed ∧ (facetOf u f).epoch = (facetOf s f).epoch ∧ u.cmds = s.cmds ∧
    u.mem.stale = s.mem.stale := by
  simp -zeta only [stage, found]
  extract_lets w ix1 p first s1 r
  have streamed : Apart s (countStreamed f slot p.hbm (useFree s)) := ⟨rfl, rfl, rfl, rfl, rfl⟩
  have armed : Apart s s1 := streamed.trans (armMemory_apart f slot cls p.hbm _)
  have turned : Apart s (rotateTo arbIngest ((liveRegions s f).headD 0) s1) := armed.trans ⟨rfl, rfl, rfl, rfl, rfl⟩
  have run : Apart s r.2 := turned.trans (runJobs_apart _ _ _ _ _)
  exact ⟨_, _, rfl, rfl, idxOf_updIdx_of_geo found run.idx _ fun _ => .inl rfl, run.changed f, run.epoch f, run.cmds, run.stale⟩

theorem stage_begun (cls kind n : Nat) (mk : State → Index → Plan) : ∃ u, stage f slot cls kind n mk s = settle u ∧
    Begun f slot ix kind n s u ∧ u.mem.stale = s.mem.stale := by
  obtain ⟨w, u, run, -, index, changed, epoch, cmds, stale⟩ := stage_begins found cls kind n mk
  exact ⟨u, run, ⟨⟨w, index⟩, changed, epoch, cmds⟩, stale⟩

/-- Work of which only the pieces change has gone on. -/
theorem wentOn_of_apart {t : State} (h : Apart s t) (w : Work) : WentOn f slot ix s (updIdx f slot (fun i => { i with work := some w }) t) :=
  ⟨⟨w, idxOf_updIdx_of_geo found h.idx _ fun _ => .inl rfl⟩, h.changed f, h.epoch f, h.cmds⟩

theorem goOn_wentOn (left : jobsLeft ix = true) : ∃ u, goOn f slot s = settle u ∧ WentOn f slot ix s u := by
  cases work : ix.work with
  | none => simp [jobsLeft, work] at left
  | some w =>
    simp -zeta only [goOn, found, Option.bind_some, work]
    extract_lets e moved r
    exact ⟨_, rfl, wentOn_of_apart found (runJobs_apart _ _ _ _ _) _⟩

theorem publish_writes_again {p : Plan} (stale : written ix p = false) : ∃ u, publish f slot ix p s = settle u ∧ WentOn f slot ix s u := by
  cases work : ix.work with
  | none => simp [written, work] at stale
  | some w =>
    simp -zeta only [publish, stale, writeAgain, work, Bool.false_eq_true, if_false]
    extract_lets new at' r
    exact ⟨_, rfl, wentOn_of_apart found (runJobs_apart _ _ _ _ _) _⟩

end

-- Work that is published.

/-- A node whose bytes a change has zeroed in the units it wrote, when it was reclaimed (R146). -/
def zeroNode (us : List Unit') (g : Geometry) (n : Node) : Node :=
  if n.reclaimed && us.any fun u => u.structure' == 2 && u.unit == n.num / perGraphUnit g
  then { n with v := ⟨0, List.replicate n.v.vec.length 0, 0, n.v.sketch⟩ } else n

theorem curArray_zeroReclaimed (us : List Unit') (ix : Index) :
    curArray (zeroReclaimed us ix) = { curArray ix with nodes := (curArray ix).nodes.map (zeroNode us ix.geo) } := by
  unfold curArray zeroReclaimed
  cases ix.arrays with
  | nil => rfl
  | cons a as => rfl

/-- Of a node only its stored vector is zeroed, and that of a live one stays. -/
theorem zeroNode_keeps (us : List Unit') (g : Geometry) (n : Node) : zeroNode us g n = { n with v := (zeroNode us g n).v } := by
  unfold zeroNode
  split <;> rfl

theorem zeroNode_of_live (us : List Unit') (g : Geometry) {n : Node} (live : n.reclaimed = false) : zeroNode us g n = n := by
  simp [zeroNode, live]

/-- Where no graph unit is written, nothing is zeroed. -/
theorem zeroNode_of_units (us : List Unit') (g : Geometry) (n : Node) (none : ∀ u ∈ us, u.structure' ≠ 2) : zeroNode us g n = n := by
  have : (us.any fun u => u.structure' == 2 && u.unit == n.num / perGraphUnit g) = false :=
    List.any_eq_false.mpr fun u hu => by simp [none u hu]
  simp [zeroNode, this]

/-- The index that a change leaves, with its work done. -/
def Plan.index (p : Plan) : Index := { zeroReclaimed p.writes p.new with staged := none, work := none }

@[simp] theorem Plan.index_rest (p : Plan) : p.index.geo = p.new.geo ∧ p.index.gen = p.new.gen ∧ p.index.lists = p.new.lists ∧
    p.index.side = p.new.side ∧ p.index.moves = p.new.moves ∧ p.index.sweep = p.new.sweep ∧ p.index.lastSweep = p.new.lastSweep ∧
    p.index.insertedSince = p.new.insertedSince ∧ p.index.trans = p.new.trans ∧ p.index.staged = none :=
  ⟨rfl, rfl, rfl, rfl, rfl, rfl, rfl, rfl, rfl, rfl⟩

theorem curArray_index (p : Plan) :
    curArray p.index = { curArray p.new with nodes := (curArray p.new).nodes.map (zeroNode p.writes p.new.geo) } := curArray_zeroReclaimed _ _

/-- A change whose units are on flash as it is to be published is published: its index stands as it says, and the facet has changed. Of the rest
there is what goes with it. -/
theorem publish_published {f slot : Nat} {s : State} {ix : Index} (found : idxOf s f slot = some ix) {p : Plan} (done : written ix p = true)
    (geo : p.new.geo = ix.geo) (idx : (p.also s).idx = s.idx) : ∃ u, publish f slot ix p s = settle u ∧ idxOf u f slot = some p.index ∧
      (facetOf u f).changed = true ∧ u.cmds = (p.also s).cmds ∧ u.mem.stale = (p.also s).mem.stale ∧ u.mem.copies = (p.also s).mem.copies := by
  simp -zeta only [publish, done, if_true, publishPlan]
  extract_lets new s1
  have ended : Apart s1 (endMemory f slot s1) := closeStreams_apart _ s1
  have pages := writePages_apart p.writes (markChanged f (endMemory f slot s1))
  have wrote := (pages.trans (Apart.foldl (fun t k => keepChecks f slot k t) (fun t k => keepChecks_apart f slot k t) p.keys _)).trans
    (useFree_apart _)
  refine ⟨_, rfl, ?_, ?_, wrote.cmds.trans ended.cmds, wrote.stale.trans ended.stale, wrote.copies.trans ended.copies⟩
  · rw [idxOf_congr (wrote.idx.trans ended.idx)]
    exact idxOf_updIdx_of_geo found idx _ fun _ => .inr geo
  · rw [wrote.changed f, facetOf_markChanged]

end Sys2Proof.Machine
end

section
/-! Compaction: a side list's batch moved to its lists, and a list copied without its tombstones (R63, R64, R138, R139, R142, R201). -/

namespace Sys2Proof.Machine

open Sys2Proof.Safety

-- What moving entries leaves of an index.

/-- An index whose entries have been moved: its marks, its geometry and its generation stand, and its side list has at most grown (R64). -/
structure Moved (i j : Index) : Prop where
  moves : j.moves = i.moves
  side : i.side <+: j.side
  gen : j.gen = i.gen
  geo : j.geo = i.geo

theorem moveEnt_moved (s : State) (e : Nat) (v : SideEnt) (acc : Index × List Nat) : Moved acc.1 (moveEnt s e v acc).1 := by
  unfold moveEnt
  extract_lets l a
  split
  · exact ⟨rfl, List.prefix_refl _, rfl, rfl⟩
  · exact ⟨rfl, List.prefix_append _ _, rfl, rfl⟩

theorem moveEnts_moved (s : State) (e : Nat) (vs : List SideEnt) (acc : Index × List Nat) :
    Moved acc.1 (vs.foldl (fun acc v => moveEnt s e v acc) acc).1 := by
  induction vs generalizing acc with
  | nil => exact ⟨rfl, List.prefix_refl _, rfl, rfl⟩
  | cons v vs ih =>
    have first := moveEnt_moved s e v acc
    have rest := ih (moveEnt s e v acc)
    exact ⟨rest.moves.trans first.moves, first.side.trans rest.side, rest.gen.trans first.gen, rest.geo.trans first.geo⟩

/-- A move's index: the batch is passed at the facet's next epoch. -/
theorem movePlan_new (s : State) (ix : Index) (cls : Nat) (es : List SideEnt) : ∃ j, Moved ix j ∧ (movePlan s ix cls es).new =
    { j with moves := j.moves ++ [⟨movedMark ix, ((es.getLast?).map fun e => e.app + 1).getD 0, commitEpoch (facetOf s ix.geo.facet)⟩] } :=
  ⟨_, moveEnts_moved s _ _ (ix, []), rfl⟩

/-- A copy of a list without its tombstones: in front of its old ones, with the old stacked copy to go. -/
theorem rewritePlan_also_mem (s : State) (ix : Index) (d : ListDir) (t : State) : ((rewritePlan s ix d).also t).mem =
    { t.mem with stale := t.mem.stale ++ [((ix.geo.facet, ix.geo.slot, d.num), commitEpoch (facetOf s ix.geo.facet))] } := by
  simp [rewritePlan]

section
variable {f slot : Nat} {s : State} {ix : Index} (found : idxOf s f slot = some ix)
include found

/-- A batch published: its index, with the mark past it. -/
theorem movePlan_published (cls : Nat) {es : List SideEnt} (done : written ix (movePlan s ix cls es) = true) :
    ∃ u, publish f slot ix (movePlan s ix cls es) s = settle u ∧ ∃ i, idxOf u f slot = some i ∧ i.staged = none ∧
      i.moves = ix.moves ++ [⟨movedMark ix, ((es.getLast?).map fun e => e.app + 1).getD 0, (facetOf s f).epoch + 1⟩] ∧
      (facetOf u f).changed = true ∧ ix.side <+: i.side ∧ i.gen = ix.gen ∧ i.geo = ix.geo ∧ u.cmds = s.cmds := by
  obtain ⟨j, moved, new⟩ := movePlan_new s ix cls es
  obtain ⟨u, run, index, changed, cmds, -, -⟩ := publish_published found done (by rw [new]; exact moved.geo) (by simp [movePlan])
  refine ⟨u, run, _, index, by simp, ?_, changed, ?_, ?_, ?_, cmds.trans (by simp [movePlan])⟩
  · simp [new, moved.moves, idxOf_facet found, commitEpoch]
  · simpa [new] using moved.side
  · simpa [new] using moved.gen
  · simpa [new] using moved.geo

/-- A list's copy published, in front of its old ones. -/
theorem rewritePlan_published {d : ListDir} (done : written ix (rewritePlan s ix d) = true) :
    ∃ u, publish f slot ix (rewritePlan s ix d) s = settle u ∧ ∃ i, idxOf u f slot = some i ∧ i.staged = none ∧
      i.lists = updFirst (·.num == d.num) (fun y => { y with copies := ⟨(facetOf s f).epoch + 1, (curCopy d).gen,
        (keptPos (facetOf s f) ix d).map (·.1), (newBases s d.num).1, (newBases s d.num).2⟩ :: y.copies }) ix.lists ∧
      u.mem.stale = s.mem.stale ++ [((f, slot, d.num), (facetOf s f).epoch + 1)] ∧ u.mem.copies = s.mem.copies ∧
      i.side = ix.side ∧ (facetOf u f).changed = true := by
  obtain rfl := idxOf_facet found
  obtain rfl := idxOf_slot found
  obtain ⟨u, run, index, changed, -, stale, copies⟩ := publish_published found done rfl (by simp [rewritePlan])
  rw [rewritePlan_also_mem] at stale copies
  exact ⟨u, run, _, index, rfl, rfl, stale, copies, rfl, changed⟩

variable (mode : ix.geo.mode = 0)
include mode

-- COMPACTION_MOVE.

theorem compactionMove_idle {cls n : Nat} {es : List SideEnt} (idle : ix.staged = none) (cl : moveClass s ix = some cls)
    (may : mayStage s ix cls = true) (goes : movable s ix (batch s (facetOf s f) ix (min n 1024)) = es) (some' : es ≠ []) :
    exec (.compactionMove f slot n) s = .next (stage f slot cls 0 es.length (fun t i => movePlan t i cls es) s) :=
  congrArg Host.Outcome.next (by simp [compactionMove, found, mode, idle, cl, may, goes, some'])

theorem compactionMove_left {k : Nat} (staged : ix.staged = some (0, k)) (left : jobsLeft ix = true) (n : Nat) :
    exec (.compactionMove f slot n) s = .next (goOn f slot s) :=
  congrArg Host.Outcome.next (by simp [compactionMove, found, mode, staged, left])

theorem compactionMove_done {k : Nat} {es : List SideEnt} (staged : ix.staged = some (0, k)) (may : mayPublish s ix = true)
    (whole : (batch s (facetOf s f) ix k).length = k) (goes : movable s ix (batch s (facetOf s f) ix k) = es) (some' : es ≠ []) (n : Nat) :
    exec (.compactionMove f slot n) s = .next (publish f slot ix (movePlan s ix ((moveClass s ix).getD 4) es) s) :=
  congrArg Host.Outcome.next (by simp [compactionMove, found, mode, staged, jobsLeft_of_mayPublish may, may, whole, goes, some'])

-- LIST_REWRITE.

theorem listRewrite_idle {cls : Nat} {d : ListDir} {ds : List ListDir} (idle : ix.staged = none) (cl : compactClass s f = some cls)
    (first : rewritable s (facetOf s f) ix = d :: ds) (unlocked : listFree s (facetOf s f) ix d = true) (may : mayStage s ix cls = true) :
    exec (.listRewrite f slot) s = .next (stage f slot cls 1 d.num (fun t i => rewritePlan t i d) s) :=
  congrArg Host.Outcome.next (by simp [listRewrite, found, mode, idle, cl, first, unlocked, may])

theorem listRewrite_left {n : Nat} (staged : ix.staged = some (1, n)) (left : jobsLeft ix = true) :
    exec (.listRewrite f slot) s = .next (goOn f slot s) :=
  congrArg Host.Outcome.next (by simp [listRewrite, found, mode, staged, left])

theorem listRewrite_done {n : Nat} (staged : ix.staged = some (1, n)) (may : mayPublish s ix = true)
    (unlocked : listFree s (facetOf s f) ix (listOf ix n) = true) (fits : copyFits s (facetOf s f) ix (listOf ix n) = true) :
    exec (.listRewrite f slot) s = .next (publish f slot ix (rewritePlan s ix (listOf ix n)) s) :=
  congrArg Host.Outcome.next (by simp [listRewrite, found, mode, staged, jobsLeft_of_mayPublish may, may, unlocked, fits])

end

/-- Settles O33: a row's work begins, goes on, is written again or is published, as the index's state says. -/
theorem compactionAndListRewrite : Obligations.CompactionAndListRewrite := by
  unfold Obligations.CompactionAndListRewrite
  refine ⟨fun f slot n s ix found mode => ⟨?_, ?_, ?_⟩, fun f slot s ix found mode => ⟨?_, ?_, ?_⟩⟩
  · intro cls idle cl may es some'
    obtain ⟨u, run, begun, -⟩ := stage_begun found cls 0 es.length fun t i => movePlan t i cls es
    exact settles_of_run (compactionMove_idle found mode idle cl may rfl some') ⟨u, run, begun⟩
  · intro k staged left
    exact settles_of_run (compactionMove_left found mode staged left n) (goOn_wentOn found left)
  · intro k staged may whole es p some'
    have run := compactionMove_done found mode staged may whole rfl some' n
    exact ⟨fun again => settles_of_run run (publish_writes_again found again), fun done => settles_of_run run (movePlan_published found _ done)⟩
  · intro cls d ds idle cl first unlocked may
    exact settles_of_run (listRewrite_idle found mode idle cl first unlocked may) (stage_begun found cls 1 d.num _)
  · intro n staged left
    exact settles_of_run (listRewrite_left found mode staged left) (goOn_wentOn found left)
  · intro n staged may d unlocked fits
    have run := listRewrite_done found mode staged may unlocked fits
    exact ⟨fun again => settles_of_run run (publish_writes_again found again), fun done => settles_of_run run (rewritePlan_published found done)⟩

end Sys2Proof.Machine
end

section
/-! Graph inserts: a unit's live entries become the next nodes of the array, in order (R106, R143, R144). -/

namespace Sys2Proof.Machine

open Sys2Proof.Safety

-- The next number of a node array is past every node's.

theorem le_foldl_next (ns : List Node) (m : Nat) : m ≤ ns.foldl (fun m n => max m (n.num + 1)) m := by
  induction ns generalizing m with
  | nil => exact le_refl m
  | cons n ns ih => exact (le_max_left _ _).trans (ih _)

theorem num_lt_foldl_next (ns : List Node) (m : Nat) {n : Node} (h : n ∈ ns) : n.num < ns.foldl (fun m n => max m (n.num + 1)) m := by
  induction ns generalizing m with
  | nil => cases h
  | cons a ns ih =>
    rcases List.mem_cons.mp h with rfl | h
    · exact (le_max_right m _).trans (le_foldl_next ns _)
    · exact ih _ h

theorem num_lt_nextNode {a : NodeArray} {n : Node} (h : n ∈ a.nodes) : n.num < nextNode a := num_lt_foldl_next a.nodes _ h

theorem nextNode_append (a : NodeArray) (g : Node → Node) (keeps : ∀ n, (g n).num = n.num) (n : Node) :
    nextNode { a with nodes := a.nodes.map g ++ [n] } = max (nextNode a) (n.num + 1) := by
  simp only [nextNode, lengthAt, List.foldl_append, List.foldl_map, keeps, List.foldl_cons, List.foldl_nil]

-- What the firmware's choices are restricted to.

theorem length_restrict_le (n : Nat) (allowed choice : List Nat) : (restrict n allowed choice).length ≤ n := List.length_take_le _ _

theorem mem_of_restrict {n m : Nat} {allowed choice : List Nat} (h : m ∈ restrict n allowed choice) : m ∈ allowed :=
  List.contains_iff_mem.mp (List.mem_filter.mp (List.mem_of_mem_take h)).2

theorem length_insertBy {α : Type} (le : α → α → Bool) (a : α) (l : List α) : (insertBy le a l).length = l.length + 1 := by
  induction l with
  | nil => rfl
  | cons b l ih => unfold insertBy; split <;> simp [ih]

theorem length_sortBy {α : Type} (le : α → α → Bool) (l : List α) : (sortBy le l).length = l.length := by
  have grows : ∀ (l acc : List α), (l.foldl (fun acc a => insertBy le a acc) acc).length = acc.length + l.length := by
    intro l
    induction l with
    | nil => exact fun _ => rfl
    | cons a l ih =>
      intro acc
      rw [List.foldl_cons, ih, length_insertBy, List.length_cons]
      omega
  exact (grows l []).trans (Nat.zero_add _)

-- Entries inserted one after another.

/-- A node inserted at an epoch: it is live, and its neighbours, at most the degree, are among given nodes. -/
structure Inserted (lives : List Nat) (e degree : Nat) (n : Node) : Prop where
  birth : n.birth = e
  live : n.reclaimed = false
  few : (curNbrs n).length ≤ degree
  among : ∀ m ∈ curNbrs n, m ∈ lives

/-- An index whose array has grown by vectors: behind the nodes of before stand new ones with them, in order and under the next numbers. -/
structure Grown (lives : List Nat) (e : Nat) (ix : Index) (vs : List Stored) (j : Index) : Prop where
  geo : j.geo = ix.geo
  held : j.arrays ≠ []
  next : nextNode (curArray j) = nextNode (curArray ix) + vs.length
  nodes : ∃ olds news, (curArray j).nodes = olds ++ news ∧ olds.length = (curArray ix).nodes.length ∧ news.map (·.v) = vs ∧
    news.map (·.num) = (List.range vs.length).map (nextNode (curArray ix) + ·) ∧ ∀ n ∈ news, Inserted lives e ix.geo.degree n

theorem newNode_inserted (s : State) (ix : Index) (e num : Nat) (was : NodeArray) (lives : List Nat) (v : Stored) :
    Inserted lives e ix.geo.degree (newNode s ix e num was lives v) :=
  ⟨rfl, rfl, length_restrict_le _ _ _, fun _ => mem_of_restrict⟩

theorem backEdge_num (degree e num : Nat) (n : Node) : (backEdge degree e num n).num = n.num := by
  unfold backEdge
  dsimp only
  split <;> rfl

/-- An insert appends its node; of the others it gives some among the live ones a back edge. -/
theorem curArray_insertNode (s : State) (x : Facet) (e : Nat) (was : NodeArray) (lives : List Nat) (v : Stored) (j : Index) :
    ∃ g : Node → Node, (∀ n, (g n).num = n.num) ∧ (∀ n, n.num ∉ lives → g n = n) ∧ curArray (insertNode s x e was lives v j) =
      { curArray j with nodes := (curArray j).nodes.map g ++ [newNode s j e (nextNode (curArray j)) was lives v] } := by
  refine ⟨_, fun n => ?_, fun n other => ?_, rfl⟩
  · split
    · exact backEdge_num _ _ _ n
    · rfl
  · refine if_neg fun chosen => other ?_
    obtain ⟨back, -⟩ := Bool.and_eq_true_iff.mp chosen
    exact mem_of_restrict (List.contains_iff_mem.mp back)

section
variable {lives : List Nat} {e : Nat} {ix j : Index} {vs : List Stored}

theorem insertNode_grown (s : State) (x : Facet) (was : NodeArray) (v : Stored) (below : ∀ m ∈ lives, m < nextNode (curArray ix))
    (h : Grown lives e ix vs j) : Grown lives e ix (vs ++ [v]) (insertNode s x e was lives v j) := by
  obtain ⟨g, keeps, others, array⟩ := curArray_insertNode s x e was lives v j
  obtain ⟨olds, news, nodes, len, vecs, nums, inserted⟩ := h.nodes
  have same : news.map g = news := by
    refine List.map_congr_left (fun n hn => others n fun hl => ?_) |>.trans (List.map_id _)
    have num : n.num ∈ (List.range vs.length).map (nextNode (curArray ix) + ·) := nums ▸ List.mem_map_of_mem hn
    obtain ⟨k, -, hk⟩ := List.mem_map.mp num
    have := below n.num hl
    omega
  refine ⟨h.geo, List.cons_ne_nil _ _, ?_, olds.map g, news ++ [newNode s j e (nextNode (curArray j)) was lives v], ?_, ?_, ?_, ?_, ?_⟩
  · rw [array, nextNode_append _ _ keeps, List.length_append, h.next]
    simp only [newNode, List.length_singleton]
    omega
  · simp [array, nodes, same]
  · simp [len]
  · simp [vecs, newNode]
  · simp [nums, List.range_succ, newNode, h.next]
  · intro n hn
    rcases List.mem_append.mp hn with hn | hn
    · exact inserted n hn
    · obtain rfl := List.mem_singleton.mp hn
      exact h.geo ▸ newNode_inserted s j e _ was lives v

theorem insertNodes_grown (s : State) (x : Facet) (was : NodeArray) (below : ∀ m ∈ lives, m < nextNode (curArray ix)) (es : List SideEnt)
    (h : Grown lives e ix vs j) :
    Grown lives e ix (vs ++ es.map (·.v)) (es.foldl (fun i v => insertNode s x e was lives v.v i) j) := by
  induction es generalizing vs j with
  | nil => simpa using h
  | cons v es ih => simpa using ih (insertNode_grown s x was v.v below h)

theorem Grown.refl (held : ix.arrays ≠ []) : Grown lives e ix [] ix := ⟨rfl, held, rfl, (curArray ix).nodes, [], by simp⟩

end

-- The insert of a unit.

/-- The nodes that a unit's new nodes choose their neighbours among. -/
def liveNums (x : Facet) (ix : Index) : List Nat := ((curArray ix).nodes.filter fun n => !nodeGone x ix n).map (·.num)

theorem liveNums_below (x : Facet) (ix : Index) : ∀ m ∈ liveNums x ix, m < nextNode (curArray ix) := by
  intro m hm
  obtain ⟨n, hn, rfl⟩ := List.mem_map.mp hm
  exact num_lt_nextNode (List.mem_filter.mp hn).1

theorem curArray_mapHead (f : NodeArray → NodeArray) {ix j : Index} (held : ix.arrays ≠ [])
    (arrays : j.arrays = (ix.arrays.take 1).map f ++ ix.arrays.drop 1) : curArray j = f (curArray ix) := by
  unfold curArray
  rw [arrays]
  cases h : ix.arrays with
  | nil => exact absurd h held
  | cons a as => rfl

/-- An inserted unit: its nodes, and the length and the entry set published with them. -/
theorem insertPlan_new (s : State) (ix : Index) (cls : Nat) (es : List SideEnt) (held : ix.arrays ≠ []) :
    let x := facetOf s ix.geo.facet
    ∃ j ns, Grown (liveNums x ix) (x.epoch + 1) ix ((es.filter fun v => !sideDead x ix v).map (·.v)) j ∧
      (insertPlan s ix cls es).new.geo = ix.geo ∧ curArray (insertPlan s ix cls es).new = { curArray j with
        lengths := (x.epoch + 1, nextNode (curArray j)) :: (curArray j).lengths, entries := (x.epoch + 1, ns) :: (curArray j).entries } ∧
      ns.length ≤ 64 ∧ ∀ m ∈ ns, ∃ w ∈ (curArray j).nodes, w.num = m := by
  intro x
  have grown := insertNodes_grown (e := x.epoch + 1) s x (curArray ix) (liveNums_below x ix) (es.filter fun v => !sideDead x ix v) (.refl held)
  rw [List.nil_append] at grown
  have array := curArray_mapHead (j := (insertPlan s ix cls es).new) _ grown.held rfl
  refine ⟨_, _, grown, grown.geo, array, ?_, fun m hm => ?_⟩
  · rw [length_sortBy]
    exact length_restrict_le _ _ _
  · obtain ⟨w, hw, num⟩ := List.mem_map.mp (mem_of_restrict ((mem_sortBy _ _ _).mp hm))
    exact ⟨w, (List.mem_filter.mp hw).1, num⟩

theorem map_zeroNode_of_live (us : List Unit') (g : Geometry) {ns : List Node} (live : ∀ n ∈ ns, n.reclaimed = false) :
    ns.map (zeroNode us g) = ns := (List.map_congr_left fun n hn => zeroNode_of_live us g (live n hn)).trans (List.map_id _)

section
variable {f slot : Nat} {s : State} {ix : Index} (found : idxOf s f slot = some ix)
include found

/-- A unit published: its live entries stand as the array's last nodes. -/
theorem insertPlan_published {cls : Nat} {es : List SideEnt} (held : ix.arrays ≠ []) (done : written ix (insertPlan s ix cls es) = true) :
    let x := facetOf s f
    let live := es.filter fun v => !sideDead x ix v
    let old := (curArray ix).nodes
    let from' := nextNode (curArray ix)
    ∃ u, publish f slot ix (insertPlan s ix cls es) s = settle u ∧ ∃ i, idxOf u f slot = some i ∧ i.staged = none ∧
      (curArray i).nodes.length = old.length + live.length ∧ ((curArray i).nodes.drop old.length).map (·.v) = live.map (·.v) ∧
      ((curArray i).nodes.drop old.length).map (·.num) = (List.range live.length).map (from' + ·) ∧
      (∀ v ∈ (curArray i).nodes.drop old.length, v.birth = x.epoch + 1 ∧ (curNbrs v).length ≤ ix.geo.degree ∧
        ∀ m ∈ curNbrs v, ∃ w ∈ old, w.num = m ∧ nodeGone x ix w = false) ∧
      (curArray i).lengths.head? = some (x.epoch + 1, from' + live.length) ∧
      (∃ ns, (curArray i).entries.head? = some (x.epoch + 1, ns) ∧ ns.length ≤ 64 ∧ ∀ m ∈ ns, ∃ w ∈ (curArray i).nodes, w.num = m) ∧
      (facetOf u f).changed = true := by
  obtain rfl := idxOf_facet found
  intro x live old from'
  obtain ⟨j, ns, grown, geo, array, few, entries⟩ := insertPlan_new s ix cls es held
  obtain ⟨u, run, index, changed, -⟩ := publish_published found done geo (by simp [insertPlan])
  obtain ⟨olds, news, nodes, len, vecs, nums, inserted⟩ := grown.nodes
  have published := curArray_index (insertPlan s ix cls es)
  rw [array, geo] at published
  have all' : (curArray (insertPlan s ix cls es).index).nodes = olds.map (zeroNode (insertPlan s ix cls es).writes ix.geo) ++ news := by
    rw [published, nodes, List.map_append, map_zeroNode_of_live _ _ fun n hn => (inserted n hn).live]
  have new : (curArray (insertPlan s ix cls es).index).nodes.drop old.length = news := by
    rw [all']
    exact List.drop_left' (by simpa using len)
  refine ⟨u, run, _, index, by simp, ?_, ?_, ?_, ?_, ?_, ⟨ns, ?_, few, ?_⟩, changed⟩
  · have count := congrArg List.length vecs
    simp only [List.length_map] at count
    rw [all', List.length_append, List.length_map, len, count]
  · rw [new, vecs]
  · rw [new, nums, List.length_map]
  · rw [new]
    intro v hv
    refine ⟨(inserted v hv).birth, (inserted v hv).few, fun m hm => ?_⟩
    obtain ⟨w, hw, num⟩ := List.mem_map.mp ((inserted v hv).among m hm)
    exact ⟨w, (List.mem_filter.mp hw).1, num, by simpa using (List.mem_filter.mp hw).2⟩
  · rw [published, grown.next, List.length_map]
    rfl
  · rw [published]
    rfl
  · intro m hm
    obtain ⟨w, hw, num⟩ := entries m hm
    rw [published]
    refine ⟨_, List.mem_map_of_mem hw, ?_⟩
    rw [zeroNode_keeps]
    exact num

variable (mode : ix.geo.mode = 1)
include mode

-- GRAPH_INSERT.

theorem graphInsert_idle {cls n : Nat} {es : List SideEnt} (idle : ix.staged = none) (cl : moveClass s ix = some cls)
    (may : mayStage s ix cls = true) (next : unitBatch s (facetOf s f) ix (min n 4096) = es) (some' : es ≠ [])
    (whole : unitWhole s (facetOf s f) ix cls es.length = true) :
    exec (.graphInsert f slot n) s = .next (stage f slot cls 2 es.length (fun t i => insertPlan t i cls es) s) :=
  congrArg Host.Outcome.next (by simp [graphInsert, found, mode, idle, cl, may, next, some', whole])

theorem graphInsert_left {k : Nat} (staged : ix.staged = some (2, k)) (left : jobsLeft ix = true) (n : Nat) :
    exec (.graphInsert f slot n) s = .next (goOn f slot s) :=
  congrArg Host.Outcome.next (by simp [graphInsert, found, mode, staged, left])

theorem graphInsert_done {k : Nat} {es : List SideEnt} (staged : ix.staged = some (2, k)) (may : mayPublish s ix = true)
    (next : batch s (facetOf s f) ix k = es) (whole : es.length = k) (n : Nat) :
    exec (.graphInsert f slot n) s = .next (publish f slot ix (insertPlan s ix ((moveClass s ix).getD 4) es) s) :=
  congrArg Host.Outcome.next (by simp [graphInsert, found, mode, staged, jobsLeft_of_mayPublish may, may, next, whole])

end

/-- Settles O34: a unit's insert begins, goes on, is written again or is published; its entries are inserted one after another. -/
theorem graphInsertAppendsNodes : Obligations.GraphInsertAppendsNodes := by
  unfold Obligations.GraphInsertAppendsNodes
  intro f slot n s ix found mode x
  refine ⟨?_, ?_, ?_⟩
  · intro cls idle cl may es some' whole
    obtain ⟨u, run, begun, -⟩ := stage_begun found cls 2 es.length fun t i => insertPlan t i cls es
    exact settles_of_run (graphInsert_idle found mode idle cl may rfl some' whole) ⟨u, run, begun⟩
  · intro k staged left
    exact settles_of_run (graphInsert_left found mode staged left n) (goOn_wentOn found left)
  · intro k staged may held whole
    have run := graphInsert_done found mode staged may rfl whole n
    exact ⟨fun again => settles_of_run run (publish_writes_again found again), fun done => settles_of_run run (insertPlan_published found held done)⟩

end Sys2Proof.Machine
end

section
/-! Repair sweeps and renumbering: what a sweep's unit keeps, and the array published under its new numbers (R138, R145, R146, R206, R207). -/

namespace Sys2Proof.Machine

open Sys2Proof.Safety

-- A sweep's step.

/-- A repair changes the neighbours of a node and nothing else. -/
theorem repairNode_keeps (x : Facet) (ix : Index) (e n : Nat) (v : Node) : repairNode x ix e n v = { v with nbrs := (repairNode x ix e n v).nbrs } := by
  unfold repairNode
  extract_lets
  split <;> rfl

/-- An index whose array has each node under its number, and the vectors that are not reclaimed as they were. -/
def SameVectors (ix i : Index) : Prop :=
  (curArray i).nodes.map (·.num) = (curArray ix).nodes.map (·.num) ∧
    ((curArray i).nodes.filter (!·.reclaimed)).map (·.v) = ((curArray ix).nodes.filter (!·.reclaimed)).map (·.v)

theorem sameVectors_of_map {ix i : Index} (g : Node → Node) (nodes : (curArray i).nodes = (curArray ix).nodes.map g)
    (num : ∀ n, (g n).num = n.num) (reclaimed : ∀ n, (g n).reclaimed = n.reclaimed) (v : ∀ n, n.reclaimed = false → (g n).v = n.v) :
    SameVectors ix i := by
  unfold SameVectors
  rw [nodes, List.filter_map, List.map_map, List.map_map]
  refine ⟨List.map_congr_left fun n _ => num n, ?_⟩
  have live : ((!·.reclaimed) ∘ g : Node → Bool) = (!·.reclaimed) := funext fun n => congrArg not (reclaimed n)
  rw [live]
  exact List.map_congr_left fun n hn => v n (by simpa using (List.mem_filter.mp hn).2)

theorem SameVectors.trans {i j k : Index} (h : SameVectors i j) (h' : SameVectors j k) : SameVectors i k :=
  ⟨h'.1.trans h.1, h'.2.trans h.2⟩

theorem index_sameVectors (p : Plan) : SameVectors p.new p.index := by
  refine sameVectors_of_map (zeroNode p.writes p.new.geo) (by rw [curArray_index]) ?_ ?_ fun n live => by rw [zeroNode_of_live _ _ live]
  all_goals
    intro n
    rw [zeroNode_keeps]

/-- A sweep that has passed its unit stands at the next one, or has ended with the last. -/
def SweptTo (ix : Index) (w : Sweep) (i : Index) : Prop :=
  (nextNode (curArray ix) ≤ perGraphUnit ix.geo * (w.unit + 1) → i.sweep = none ∧ i.lastSweep = w.num) ∧
    (perGraphUnit ix.geo * (w.unit + 1) < nextNode (curArray ix) → i.sweep = some { w with unit := w.unit + 1 })

theorem sweepStep_sweptTo (s : State) (ix : Index) (w : Sweep) : SweptTo ix w (sweepStep s ix w).1 := by
  unfold sweepStep
  extract_lets x e a q fix nodes changed ix1 last
  refine ⟨fun all' => ?_, fun more => ?_⟩
  · rw [if_pos (show last from all')]
    exact ⟨rfl, rfl⟩
  · rw [if_neg (show ¬ last from Nat.not_le.mpr more)]

theorem sweepStep_keeps (s : State) (ix : Index) (w : Sweep) : (sweepStep s ix w).1.geo = ix.geo ∧ (sweepStep s ix w).1.staged = ix.staged ∧
    SameVectors ix (sweepStep s ix w).1 := by
  unfold sweepStep
  extract_lets x e a q fix nodes changed ix1 last
  have fixed : ∀ n, fix n = { n with nbrs := (fix n).nbrs } := by
    intro n
    dsimp only [fix]
    split
    · exact repairNode_keeps _ _ _ _ _
    · rfl
  have same : SameVectors ix ix1 := by
    refine sameVectors_of_map fix rfl ?_ ?_ fun n _ => by rw [fixed]
    all_goals
      intro n
      rw [fixed]
  split
  · exact ⟨rfl, rfl, same⟩
  · exact ⟨rfl, rfl, same⟩

section
variable {f slot : Nat} {s : State} {ix : Index} (found : idxOf s f slot = some ix)
include found

/-- A sweep's unit published, as its step left it. -/
theorem sweepPlan_published {w : Sweep} (done : written ix (sweepPlan s ix w) = true) :
    ∃ u, publish f slot ix (sweepPlan s ix w) s = settle u ∧ ∃ i, idxOf u f slot = some i ∧ i.staged = none ∧ SameVectors ix i ∧ SweptTo ix w i ∧
      (facetOf u f).changed = true := by
  obtain ⟨geo, -, same⟩ := sweepStep_keeps s ix w
  obtain ⟨u, run, index, changed, -⟩ := publish_published found done geo rfl
  exact ⟨u, run, _, index, by simp, same.trans (index_sameVectors _), sweepStep_sweptTo s ix w, changed⟩

variable (mode : ix.geo.mode = 1)
include mode

-- REPAIR_SWEEP_UNIT.

section
variable {cls : Nat} {w : Sweep} (steady : ix.trans = none) (idle : ix.staged = none) (cl : compactClass s f = some cls)
  (may : mayStage s ix cls = true) (next : sweepOf (facetOf s f) ix = w)
include steady idle cl may next

theorem repairSweepUnit_repairs (repair : (sweepStep s ix w).2 = true) : exec (.repairSweepUnit f slot) s = .next
    (stage f slot cls 3 w.unit (fun t i => sweepPlan t i w) (updIdx f slot (fun i => { i with sweep := some w }) s)) :=
  congrArg Host.Outcome.next (by simp [repairSweepUnit, found, mode, steady, idle, cl, may, next, repair])

theorem repairSweepUnit_passes (none' : (sweepStep s ix w).2 = false) {t : State}
    (read : allJobs f cls .ended (pageJobs s [⟨f, slot, 2, 0, w.unit⟩]) s = some t) :
    exec (.repairSweepUnit f slot) s = .next (settle (updIdx f slot (fun _ => (sweepStep s ix w).1) t)) :=
  congrArg Host.Outcome.next (by simp [repairSweepUnit, found, mode, steady, idle, cl, may, next, none', read])

theorem repairSweepUnit_waits (none' : (sweepStep s ix w).2 = false)
    (read : allJobs f cls .ended (pageJobs s [⟨f, slot, 2, 0, w.unit⟩]) s = none) : exec (.repairSweepUnit f slot) s = .next s :=
  congrArg Host.Outcome.next (by simp [repairSweepUnit, found, mode, steady, idle, cl, may, next, none', read])

end

theorem repairSweepUnit_left {k : Nat} (staged : ix.staged = some (3, k)) (left : jobsLeft ix = true) :
    exec (.repairSweepUnit f slot) s = .next (goOn f slot s) :=
  congrArg Host.Outcome.next (by simp [repairSweepUnit, found, mode, staged, left])

theorem repairSweepUnit_done {k : Nat} (steady : ix.trans = none) (staged : ix.staged = some (3, k)) (may : mayPublish s ix = true) :
    exec (.repairSweepUnit f slot) s = .next (publish f slot ix (sweepPlan s ix (sweepOf (facetOf s f) ix)) s) :=
  congrArg Host.Outcome.next (by simp [repairSweepUnit, found, mode, steady, staged, jobsLeft_of_mayPublish may, may])

-- RENUMBERING.

theorem renumbering_deferred (idle : ix.staged = none) (may : mayStage s ix 4 = true) (due : renumberDue s ix = true)
    (short : hbmFree s f < arrayHbm ix.geo (nextNode (curArray ix))) : exec (.renumbering f slot) s = .next
      (record 0x0904 (subj [f, slot]) [cdiv (arrayHbm ix.geo (nextNode (curArray ix))) (2 ^ 20)]
        (bump f (kFct 15) 1 (updIdx f slot (fun i => { i with renumDeferred := true }) s))) :=
  congrArg Host.Outcome.next (by simp [renumbering, found, mode, idle, may, due, short])

theorem renumbering_begins (idle : ix.staged = none) (may : mayStage s ix 4 = true) (due : renumberDue s ix = true)
    (fits : arrayHbm ix.geo (nextNode (curArray ix)) ≤ hbmFree s f) :
    exec (.renumbering f slot) s = .next (stage f slot 4 4 0 renumberPlan s) :=
  congrArg Host.Outcome.next (by simp [renumbering, found, mode, idle, may, due, fits])

theorem renumbering_left {k : Nat} (staged : ix.staged = some (4, k)) (left : jobsLeft ix = true) :
    exec (.renumbering f slot) s = .next (goOn f slot s) :=
  congrArg Host.Outcome.next (by simp [renumbering, found, mode, staged, left])

theorem renumbering_done {k : Nat} (steady : ix.trans = none) (staged : ix.staged = some (4, k)) (may : mayPublish s ix = true) :
    exec (.renumbering f slot) s = .next (publish f slot ix (renumberPlan s ix) s) :=
  congrArg Host.Outcome.next (by simp [renumbering, found, mode, steady, staged, jobsLeft_of_mayPublish may, may])

omit mode

theorem renumbering_tells (need : Nat) :
    let t := record 0x0904 (subj [f, slot]) [cdiv need (2 ^ 20)]
      (bump f (kFct 15) 1 (updIdx f slot (fun i => { i with renumDeferred := true }) s))
    idxOf t f slot = some { ix with renumDeferred := true } ∧
      t = { s with idx := t.idx, facets := t.facets, evr := t.evr, hif := t.hif, out := t.out } ∧ Told s t := by
  intro t
  have noted := idxOf_updIdx_of_geo found rfl (fun i => { i with renumDeferred := true }) fun _ => .inl rfl
  refine ⟨(idxOf_congr (by simp [t]) f slot).trans noted, ?_, told_trans (told_of_eq rfl rfl) (record_told _ _ _ _)⟩
  apply State.ext_of_fields <;> simp [t, updIdx]

/-- The array published whole under its new numbers, in front of the old one. -/
theorem renumberPlan_published (done : written ix (renumberPlan s ix) = true) :
    let a := renumber ((facetOf s f).epoch + 1) ((ix.work.map (·.order)).getD (newOrder (curArray ix))) (curArray ix)
    ∃ u, publish f slot ix (renumberPlan s ix) s = settle u ∧ ∃ i, idxOf u f slot = some i ∧ i.staged = none ∧ i.arrays.drop 1 = ix.arrays ∧
      (curArray i).pub = a.pub ∧ (curArray i).lengths = a.lengths ∧ (curArray i).entries = a.entries ∧
      (curArray i).nodes.map (fun n => (n.num, n.nbrs, n.sketches)) = a.nodes.map (fun n => (n.num, n.nbrs, n.sketches)) ∧
      i.insertedSince = 0 ∧ (facetOf u f).changed = true := by
  obtain rfl := idxOf_facet found
  intro a
  obtain ⟨u, run, index, changed, -⟩ := publish_published found done rfl (by simp [renumberPlan])
  have array : curArray (renumberPlan s ix).new = a := rfl
  have published := curArray_index (renumberPlan s ix)
  rw [array] at published
  refine ⟨u, run, _, index, rfl, rfl, by rw [published], by rw [published], by rw [published], ?_, rfl, changed⟩
  rw [published, List.map_map]
  refine List.map_congr_left fun n _ => ?_
  rw [Function.comp_apply, zeroNode_keeps]

end

/-- Settles O35: a sweep's unit and a renumbering each begin, wait, go on, are written again or are published, as the index's state says. -/
theorem sweepAndRenumbering : Obligations.SweepAndRenumbering := by
  unfold Obligations.SweepAndRenumbering
  refine ⟨fun f slot s ix found mode steady held => ?_, fun f slot s ix found mode => ?_⟩
  · intro w last passed
    refine ⟨fun cls idle cl may => ⟨fun repair => ?_, fun none' granted => ?_, fun none' waits => ?_⟩, fun k staged left => ?_, fun k staged may => ?_⟩
    · have marked : idxOf (updIdx f slot (fun i => { i with sweep := some w }) s) f slot = some { ix with sweep := some w } :=
        idxOf_updIdx_of_geo found rfl _ fun _ => .inl rfl
      obtain ⟨u, run, begun, -⟩ := stage_begun marked cls 3 w.unit fun t i => sweepPlan t i w
      exact settles_of_run (repairSweepUnit_repairs found mode steady idle cl may rfl repair) ⟨u, run, begun⟩
    · obtain ⟨t, read⟩ := Option.isSome_iff_exists.mp granted
      have apart := allJobs_apart read
      obtain ⟨geo, staged, same⟩ := sweepStep_keeps s ix w
      obtain ⟨ended, stands⟩ := sweepStep_sweptTo s ix w
      refine ⟨_, repairSweepUnit_passes found mode steady idle cl may rfl none' read, ⟨_, ?_, staged.trans idle, same.1, same.2, ended, stands⟩, ?_⟩
      · exact idxOf_updIdx_of_geo found apart.idx _ fun _ => .inr geo
      · exact apart.changed f
    · exact repairSweepUnit_waits found mode steady idle cl may rfl none' waits
    · exact settles_of_run (repairSweepUnit_left found mode staged left) (goOn_wentOn found left)
    · have run := repairSweepUnit_done found mode steady staged may
      refine ⟨fun again => settles_of_run run (publish_writes_again found again), fun done => ?_⟩
      obtain ⟨u, settled, i, index, staged, same, ⟨ended, stands⟩, changed⟩ := sweepPlan_published found done
      exact settles_of_run run ⟨u, settled, ⟨i, index, staged, same.1, same.2, ended, stands⟩, changed⟩
  · intro need
    refine ⟨fun idle may due => ⟨fun short => ?_, fun fits => ?_⟩, fun k staged left => ?_, fun k staged steady may => ?_⟩
    · exact ⟨_, renumbering_deferred found mode idle may due short, renumbering_tells found need⟩
    · obtain ⟨w, u, run, order, index, changed, -⟩ := stage_begins found 4 4 0 renumberPlan
      exact settles_of_run (renumbering_begins found mode idle may due fits) ⟨u, run, w, order, index, changed⟩
    · exact settles_of_run (renumbering_left found mode staged left) (goOn_wentOn found left)
    · intro a
      have run := renumbering_done found mode steady staged may
      exact ⟨fun again => settles_of_run run (publish_writes_again found again), fun done => settles_of_run run (renumberPlan_published found done)⟩

end Sys2Proof.Machine
end

section
/-! Re-sketches: a list or a chunk of nodes published under the new generation, and the end of a transition (R147 to R151, R288). -/

namespace Sys2Proof.Machine

open Sys2Proof.Safety

-- What goes with a re-sketch only counts sketches, and lets a list's stacked copy go.

theorem countSketches_apart {α : Type} (s0 : State) (ix : Index) (gen cls : Nat) (vec : α → Bytes) (l : List α) (s : State) :
    Apart s (l.foldl (fun u a => countSketch s0 ix gen cls (vec a) u) s) :=
  Apart.foldl _ (fun _ a => countSketch_apart s0 ix gen cls (vec a) _) l s

theorem listPlan_also_idx (s : State) (ix : Index) (w : Transition) (d : ListDir) (t : State) : ((listPlan s ix w d).also t).idx = t.idx :=
  (countSketches_apart s ix ix.gen 5 (fun p : Pos => p.v.vec) _ _).idx

theorem listPlan_also_stale (s : State) (ix : Index) (w : Transition) (d : ListDir) (t : State) : ((listPlan s ix w d).also t).mem.stale =
    t.mem.stale ++ [((ix.geo.facet, ix.geo.slot, d.num), commitEpoch (facetOf s ix.geo.facet))] :=
  (countSketches_apart s ix ix.gen 5 (fun p : Pos => p.v.vec) _ _).stale

theorem chunkPlan_also_idx (s : State) (ix : Index) (w : Transition) (t : State) : ((chunkPlan s ix w).also t).idx = t.idx :=
  (countSketches_apart s ix ix.gen 5 (fun n : Node => n.v.vec) _ t).idx

-- The units of a re-sketch hold sketch records, never vectors.

theorem tierUnits_structure {ix : Index} {key start n : Nat} : ∀ u ∈ tierUnits ix key start n, u.structure' ≠ 2 := by
  intro u hu
  unfold tierUnits at hu
  extract_lets at hu
  split at hu
  · cases hu
  · obtain ⟨i, -, rfl⟩ := List.mem_map.mp hu
    simp

/-- A change that writes no graph unit leaves the array as it says. -/
theorem curArray_index_of_units (p : Plan) (none' : ∀ u ∈ p.writes, u.structure' ≠ 2) : curArray p.index = curArray p.new := by
  have same : (curArray p.new).nodes.map (zeroNode p.writes p.new.geo) = (curArray p.new).nodes :=
    (List.map_congr_left fun n _ => zeroNode_of_units _ _ n none').trans (List.map_id _)
  rw [curArray_index, same]

-- What comes next in a transition.

theorem resketchPlan_list {s : State} {ix : Index} {w : Transition} {d : ListDir} (mode : ix.geo.mode = 0) (next : nextList ix w = some d) :
    resketchPlan s ix w = some (listPlan s ix w d) := by simp [resketchPlan, mode, next]

theorem resketchPlan_chunk {s : State} {ix : Index} {w : Transition} (mode : ix.geo.mode ≠ 0) (next : w.next < lengthAt (curArray ix) (2 ^ 48)) :
    resketchPlan s ix w = some (chunkPlan s ix w) := by
  rw [resketchPlan, if_neg (by simpa using mode), if_neg (Nat.not_le.mpr next)]

theorem resketchPlan_none {s : State} {ix : Index} {w : Transition} (mode : ix.geo.mode = 0) (next : nextList ix w = none) :
    resketchPlan s ix w = none := by simp [resketchPlan, mode, next]

theorem resketchPlan_some {s : State} {ix : Index} {w : Transition}
    (left : ix.geo.mode = 0 ∧ nextList ix w ≠ none ∨ ix.geo.mode ≠ 0 ∧ w.next < lengthAt (curArray ix) (2 ^ 48)) :
    ∃ p, resketchPlan s ix w = some p := by
  rcases left with ⟨mode, next⟩ | ⟨mode, next⟩
  · obtain ⟨d, hd⟩ := Option.ne_none_iff_exists'.mp next
    exact ⟨_, resketchPlan_list mode hd⟩
  · exact ⟨_, resketchPlan_chunk mode next⟩

section
variable {f slot : Nat} {s : State} {ix : Index} {w : Transition} (found : idxOf s f slot = some ix)
include found

/-- A list published under the new generation. -/
theorem listPlan_published {d : ListDir} (done : written ix (listPlan s ix w d) = true) :
    ∃ u, publish f slot ix (listPlan s ix w d) s = settle u ∧ (∃ i, idxOf u f slot = some i ∧ i.staged = none ∧
      i.trans = some { w with next := d.num + 1 } ∧
      i.lists = updFirst (·.num == d.num) (resketchList s ((facetOf s f).epoch + 1) ix) ix.lists ∧ i.side = ix.side) ∧
      u.mem.stale = s.mem.stale ++ [((f, slot, d.num), (facetOf s f).epoch + 1)] ∧ (facetOf u f).changed = true := by
  obtain rfl := idxOf_facet found
  obtain rfl := idxOf_slot found
  obtain ⟨u, run, index, changed, -, stale, -⟩ := publish_published found done rfl (listPlan_also_idx s ix w d s)
  exact ⟨u, run, ⟨_, index, rfl, rfl, rfl, rfl⟩, stale.trans (listPlan_also_stale s ix w d s), changed⟩

/-- A chunk of nodes published under the new generation. -/
theorem chunkPlan_published (held : ix.arrays ≠ []) (done : written ix (chunkPlan s ix w) = true) :
    ∃ u, publish f slot ix (chunkPlan s ix w) s = settle u ∧ ∃ i, idxOf u f slot = some i ∧ i.staged = none ∧
      i.trans = some { w with next := w.next + 65536 } ∧ (curArray i).nodes.map (·.v) = (curArray ix).nodes.map (·.v) ∧
      (facetOf u f).changed = true ∧ (curArray i).nodes.map (·.sketches) = (curArray ix).nodes.map (fun n =>
        if w.next ≤ n.num ∧ n.num < w.next + 65536 then ((facetOf s f).epoch + 1, ix.gen, (sketchUnder s ix ix.gen n.v.vec).1) :: n.sketches
        else n.sketches) := by
  obtain rfl := idxOf_facet found
  obtain ⟨u, run, index, changed, -⟩ := publish_published found done rfl (chunkPlan_also_idx s ix w s)
  have array : curArray (chunkPlan s ix w).index = resketchChunk s ((facetOf s ix.geo.facet).epoch + 1) w.next ix (curArray ix) :=
    (curArray_index_of_units _ tierUnits_structure).trans (curArray_mapHead _ held rfl)
  refine ⟨u, run, _, index, rfl, rfl, ?_, changed, ?_⟩
  all_goals
    rw [array, resketchChunk, List.map_map]
    refine List.map_congr_left fun n _ => ?_
    simp only [Function.comp_apply, Bool.and_eq_true, decide_eq_true_eq]
    split <;> rfl

/-- A transition's end: the old W is released at the facet's next epoch, and the RESKETCH that is left completes. -/
theorem endTransition_ends : ∃ u, (∀ c, cmdOf s w.tag = some c → c.op = .resketch →
      endTransition f slot w s = succeed c (leBytes 4 ix.gen ++ leBytes 6 w.es ++ leBytes 6 ((facetOf s f).epoch + 1)) u) ∧
    (cmdOf s w.tag = none → endTransition f slot w s = u) ∧
    idxOf u f slot = some { ix with trans := none, released := ix.released ++ [(w.old, (facetOf s f).epoch + 1)] } ∧ (facetOf u f).changed = true := by
  simp -zeta only [endTransition, found]
  extract_lets e s1
  have cmd : cmdOf s1 w.tag = cmdOf s w.tag := rfl
  refine ⟨s1, fun c tag op => ?_, fun tag => ?_, ?_, ?_⟩
  · simp [cmd, tag, op, e, commitEpoch]
  · simp [cmd, tag]
  · exact idxOf_updIdx_of_geo found rfl _ fun _ => .inl rfl
  · rw [facetOf_markChanged]

variable (trans : ix.trans = some w) (since : w.es ≤ (facetOf s f).epoch)
include trans since

-- RESKETCH_STEP.

section
variable (idle : ix.staged = none) (region : noRegion s f = false) (may : mayStage s ix 5 = true)
include idle region may

theorem resketchStep_ends (done : transDone ix w = true) : exec (.resketchStep f slot) s = .next (settle (endTransition f slot w s)) :=
  congrArg Host.Outcome.next (by simp [resketchStep, found, trans, since, idle, region, may, done])

theorem resketchStep_begins (left : transDone ix w = false) {p : Plan} (next : resketchPlan s ix w = some p) :
    exec (.resketchStep f slot) s = .next (stage f slot 5 5 w.next (fun u i => (resketchPlan u i w).getD (noPlan i)) s) :=
  congrArg Host.Outcome.next (by simp [resketchStep, found, trans, since, idle, region, may, left, next])

theorem resketchStep_stands (left : transDone ix w = false) (mode : ix.geo.mode = 0) (next : nextList ix w = none) :
    exec (.resketchStep f slot) s =
      .next (settle (updIdx f slot (fun i => { i with trans := some { w with next := listCount ix.geo } }) s)) :=
  congrArg Host.Outcome.next (by simp [resketchStep, found, trans, since, idle, region, may, left, mode, resketchPlan_none mode next])

end

theorem resketchStep_left {k : Nat} (staged : ix.staged = some (5, k)) (left : jobsLeft ix = true) :
    exec (.resketchStep f slot) s = .next (goOn f slot s) :=
  congrArg Host.Outcome.next (by simp [resketchStep, found, trans, since, staged, left])

theorem resketchStep_done {k : Nat} {p : Plan} (staged : ix.staged = some (5, k)) (may : mayPublish s ix = true)
    (plan : resketchPlan s ix w = some p) : exec (.resketchStep f slot) s = .next (publish f slot ix p s) :=
  congrArg Host.Outcome.next (by simp [resketchStep, found, trans, since, staged, jobsLeft_of_mayPublish may, may, plan])

end

/-- Settles O36: a transition ends, begins its next list or chunk, stands behind the last list, goes on, writes again or publishes, as its index's
state says. -/
theorem resketchStepsAndEnds : Obligations.ResketchStepsAndEnds := by
  unfold Obligations.ResketchStepsAndEnds
  intro f slot s ix w found trans since e far
  refine ⟨fun idle region may => ⟨fun done => ?_, fun left more => ?_, fun left mode next => ?_⟩, fun k staged left => ?_,
    fun k p staged may plan again => ?_, fun k p staged may plan done => ⟨fun d mode next => ?_, fun mode next held => ?_⟩⟩
  · exact ⟨_, resketchStep_ends found trans since idle region may done, endTransition_ends found⟩
  · obtain ⟨p, plan⟩ := resketchPlan_some (s := s) more
    obtain ⟨u, run, begun, -⟩ := stage_begun found 5 5 w.next fun u i => (resketchPlan u i w).getD (noPlan i)
    exact settles_of_run (resketchStep_begins found trans since idle region may left plan) ⟨u, run, begun⟩
  · exact resketchStep_stands found trans since idle region may left mode next
  · exact settles_of_run (resketchStep_left found trans since staged left) (goOn_wentOn found left)
  · exact settles_of_run (resketchStep_done found trans since staged may plan) (publish_writes_again found again)
  · have run := resketchStep_done found trans since staged may plan
    obtain rfl := Option.some_inj.mp (plan.symm.trans (resketchPlan_list mode next))
    exact settles_of_run run (listPlan_published found done)
  · have run := resketchStep_done found trans since staged may plan
    obtain rfl := Option.some_inj.mp (plan.symm.trans (resketchPlan_chunk (by simp [mode]) next))
    exact settles_of_run run (chunkPlan_published found held done)

end Sys2Proof.Machine
end

section
/-! The rails and MOD_RST#: what a loss of main power leaves, and what the last of them to come up starts (R137, R316, R331 to R333, R339 to R342). -/

namespace Sys2Proof.Machine

open Sys2Proof.Safety

-- What a loss of main power leaves.

theorem quiet_of_eq {s t : State} (h : t.out = s.out) : Quiet s t := ⟨[], by simp [h], by simp⟩

theorem quiet_trans {s t u : State} (h : Quiet s t) (k : Quiet t u) : Quiet s u := by
  obtain ⟨ms, hms, low⟩ := h
  obtain ⟨ns, hns, low'⟩ := k
  refine ⟨ms ++ ns, by rw [hns, hms, List.append_assoc], fun o ho => ?_⟩
  exact (List.mem_append.mp ho).elim (low o) (low' o)

/-- HOT_ALERT# that goes low at most is all that is told of it. -/
theorem driveHot_quiet {s t : State} (out : t.out = s.out) (high : hotAlert t = true → hotAlert s = true) : Quiet s (driveHot s t) := by
  unfold driveHot
  split
  · exact quiet_of_eq out
  · next differ =>
    have low : hotAlert t = false := by
      cases ht : hotAlert t
      · rfl
      · simp [high ht, ht] at differ
    exact ⟨[.hotAlert false], by simp [emit, low, out], by simp⟩

/-- Without main power every sensor is NORMAL: what still holds HOT_ALERT# is the trip, which held it before. -/
theorem losePower_quiet (s : State) : Quiet s (losePower s) := by
  refine driveHot_quiet rfl fun high => ?_
  have latch : s.brd.hotLatch = true := by simpa [hotAlert, keptBoard] using high
  simp [hotAlert, latch]

theorem powerDown_quiet (s : State) : Quiet s (powerDown s) := quiet_trans (losePower_quiet s) (quiet_of_eq rfl)

@[simp] theorem losePower_brd (s : State) : (losePower s).brd = keptBoard s.brd := by simp [losePower]

@[simp] theorem powerDown_brd (s : State) :
    (powerDown s).brd = { keptBoard s.brd with phase := if s.brd.main54 && s.brd.aux5 then .held else .off } := by
  simp [powerDown, phaseOff, keptBoard]

@[simp] theorem powerDown_interface (s : State) : (powerDown s).cmds = [] ∧ (powerDown s).qps = [] ∧ (powerDown s).tags = [] ∧
    (powerDown s).fnc = Fence.reset ∧ (powerDown s).hif = Hif.reset := by simp [powerDown, losePower]

@[simp] theorem powerDown_stored (s : State) : (powerDown s).idx = s.idx.map keptIndex ∧ (powerDown s).facets = s.facets.map keptFacet ∧
    (powerDown s).flash.pages = s.flash.pages ∧ (powerDown s).flash.lost = s.flash.lost ∧
    (powerDown s).fw = { s.fw with staging := [], pages := [], committing := none } := by simp [powerDown, losePower]

/-- Main power is lost: commands end without completions, the host is told nothing, the fence set-up is clear, and flash and fuses keep what they
hold. -/
def PowerLost (s u : State) : Prop :=
  u.brd.mainPower = false ∧ u.cmds = [] ∧ u.qps = [] ∧ u.tags = [] ∧ u.fnc = Fence.reset ∧ u.hif = Hif.reset ∧
    Quiet s u ∧ u.idx = s.idx.map keptIndex ∧ u.facets = s.facets.map keptFacet ∧ u.flash.pages = s.flash.pages ∧ u.flash.lost = s.flash.lost ∧
    u.fw.slots = s.fw.slots ∧ u.fw.boot0 = s.fw.boot0 ∧ u.fw.boot1 = s.fw.boot1 ∧ u.fuse = s.fuse

theorem powerDown_lost (s : State) : PowerLost s (powerDown s) := by
  simp [PowerLost, powerDown_quiet, keptBoard]

/-- The loss is the same whatever happened just before on the board, in the recorder or to the free values. -/
theorem PowerLost.of_before {s t u : State} (h : PowerLost t u) (idx : t.idx = s.idx) (facets : t.facets = s.facets) (flash : t.flash = s.flash)
    (fw : t.fw = s.fw) (fuse : t.fuse = s.fuse) (out : t.out = s.out) : PowerLost s u := by
  unfold PowerLost Quiet at *
  rwa [idx, facets, flash, fw, fuse, out] at h

theorem resetRecorder_lost {s u : State} (h : PowerLost s u) : PowerLost s (resetRecorder u) := by
  simpa [PowerLost, Quiet] using h

-- MAIN_54V and AUX_5V off, MOD_RST# asserted.

theorem mainOff_loses {s : State} (on : s.brd.main54 = true) : (mainOff s).brd.main54 = false ∧ (mainOff s).brd.phase = .off ∧
    PowerLost s (mainOff s) := by
  have run : mainOff s = resetRecorder (powerDown { s with brd := { s.brd with main54 := false } }) := by simp [mainOff, on]
  rw [run]
  refine ⟨by simp [keptBoard], by simp, resetRecorder_lost ?_⟩
  exact (powerDown_lost _).of_before rfl rfl rfl rfl rfl rfl

/-- Of the records at most the newest is torn. -/
theorem tearRecord_keeps (s : State) : (tearRecord s).evr.recs.dropLast = s.evr.recs.dropLast ∧
    (tearRecord s).evr.recs.map (·.seq) = s.evr.recs.map (·.seq) ∧ (tearRecord s).evr.frozen = s.evr.frozen := by
  unfold tearRecord
  split
  · next r crc last _ =>
    obtain ⟨rs, recs⟩ := List.getLast?_eq_some_iff.mp last
    simp [useFree, recs]
  · exact ⟨rfl, rfl, rfl⟩

/-- AUX_5V gone, and main power not yet: a freeze has ended without a summary. -/
def auxGone (s : State) : State :=
  tearRecord { s with
    brd := { s.brd with aux5 := false },
    evr := { s.evr with frozen := false, frozenCount := 0, frozenSev := 0, overwritten := 0, suppressed := 0,
                        cursor := ((s.evr.recs.head?).map (·.seq)).getD s.evr.next, secNew := [], secSup := [], secNo := 0 } }

/-- The state with no trip latched: HOT_ALERT# goes low, where nothing else holds it. -/
def unlatched (s : State) : State := driveHot s { s with brd := { s.brd with hotLatch := false } }

@[simp] theorem unlatched_brd (s : State) : (unlatched s).brd = { s.brd with hotLatch := false } := by simp [unlatched]

@[simp] theorem unlatched_evr (s : State) : (unlatched s).evr = s.evr := by simp [unlatched]

theorem unlatched_quiet (s : State) : Quiet s (unlatched s) := by
  refine driveHot_quiet rfl fun high => ?_
  have hot : s.brd.thermal.any (1 ≤ ·) = true := by simpa only [hotAlert, Bool.false_or] using high
  rw [hotAlert, hot, Bool.or_true]

theorem unlatched_lost {s u : State} (h : PowerLost s u) : PowerLost s (unlatched u) := by
  obtain ⟨power, cmds, qps, tags, fnc, hif, told, rest⟩ := h
  refine ⟨by simpa using power, ?_, ?_, ?_, ?_, ?_, quiet_trans told (unlatched_quiet u), ?_⟩
  all_goals simpa [unlatched]

theorem auxOff_on {s : State} (on : s.brd.aux5 = true) : auxOff s = unlatched (powerDown (auxGone s)) := by
  simp [auxOff, on, unlatched, auxGone]

theorem auxOff_loses {s : State} (on : s.brd.aux5 = true) : (auxOff s).brd.aux5 = false ∧ (auxOff s).brd.phase = .off ∧ PowerLost s (auxOff s) ∧
    (auxOff s).evr.frozen = false ∧ (auxOff s).evr.recs.dropLast = s.evr.recs.dropLast ∧
    (auxOff s).evr.recs.map (·.seq) = s.evr.recs.map (·.seq) := by
  have brd : (auxGone s).brd = { s.brd with aux5 := false } := by simp [auxGone]
  have lost : PowerLost s (powerDown (auxGone s)) := (powerDown_lost _).of_before (by simp [auxGone]) (by simp [auxGone]) (by simp [auxGone])
    (by simp [auxGone]) (by simp [auxGone]) (by simp [auxGone])
  have evr : (unlatched (powerDown (auxGone s))).evr = (auxGone s).evr := by simp
  obtain ⟨recs, seqs, frozen⟩ := tearRecord_keeps { s with
    brd := { s.brd with aux5 := false },
    evr := { s.evr with frozen := false, frozenCount := 0, frozenSev := 0, overwritten := 0, suppressed := 0,
                        cursor := ((s.evr.recs.head?).map (·.seq)).getD s.evr.next, secNew := [], secSup := [], secNo := 0 } }
  rw [auxOff_on on, evr]
  exact ⟨by simp [brd, keptBoard], by simp [brd], unlatched_lost lost, frozen, recs, seqs⟩

theorem modRst_held {s : State} (held : s.brd.rst.accepted = false ∨ lockedOut s s.brd.rst = true) : acceptLevel id .modRst false s = s := by
  rcases held with h | h <;> simp [acceptLevel, pinOf, h]

theorem modRst_loses {s : State} (aux : s.brd.aux5 = true) (high : s.brd.rst.accepted = true) (unlocked : lockedOut s s.brd.rst = false) :
    let u := acceptLevel id .modRst false s
    PowerLost s u ∧ u.brd.rst.accepted = false ∧ u.brd.phase = (if s.brd.main54 then .held else .off) ∧
      u.brd.rst.lockEnd = some (s.brd.aon + 10000) ∧ u.brd.rst.acc = 0 ∧ u.brd.brake.acc = 0 ∧ u.brd.sync.acc = 0 := by
  have run : acceptLevel id .modRst false s = resetRecorder (powerDown
      { s with brd := { s.brd with rst := acceptEdge s s.brd.rst false, phase := .off } }) := by
    simp [acceptLevel, pinOf, pinEffect, setPin, aux, high, unlocked]
  intro u
  rw [show u = _ from run]
  refine ⟨resetRecorder_lost ((powerDown_lost _).of_before rfl rfl rfl rfl rfl rfl), ?_⟩
  simp [keptBoard, aux, acceptEdge, clearEdges]

-- The last of both rails and MOD_RST# up.

theorem bootCode1_locks (finds : BootFinds) (s : State) : (bootCode1 finds s).fnc.lock = true := by
  unfold bootCode1
  dsimp only
  split
  · rfl
  · simp only [record_rest]
    rfl

/-- A start has main power, no fatal state, and the fence set-up locked. -/
def Started (u : State) : Prop := u.brd.mainPower = true ∧ u.brd.fatal = false ∧ u.fnc.lock = true

theorem startedUp_started {s : State} (h : Started s) : Started (startedUp s) := by
  unfold startedUp
  split
  · exact h
  · exact h

theorem startUp_started (finds : BootFinds) (s : State) : Started (startUp finds s) := by
  unfold startUp
  extract_lets board b lat s0 s1 mem s2 s3 s4
  have brd : s2.brd = b := by simp [s2, s1, s0]
  have fnc : s2.fnc.lock = true := by simp [s2, s1, bootCode1_locks]
  split
  · exact ⟨by rw [brd], by rw [brd], fnc⟩
  · exact startedUp_started ⟨by simp [s4, s3, brd, b], by simp [s4, s3, brd, b], by simpa [s4, s3] using fnc⟩

theorem powerAlone_starts {s : State} (h : mayStart s = true) : Started (powerAlone s) := by
  simp only [powerAlone, h, if_true]
  exact startUp_started _ _

theorem powerAlone_waits {s : State} (h : ¬ mayStart s = true) : powerAlone s = s := by simp [powerAlone, h]

theorem mayStart_iff (s : State) : mayStart s = true ↔
    s.brd.main54 = true ∧ s.brd.aux5 = true ∧ s.brd.rst.accepted = true ∧ s.brd.phase = .held := by
  simp [mayStart, and_assoc]

theorem mainOn_off {s : State} (off : s.brd.main54 = false) : mainOn s = powerAlone { s with brd := { s.brd with
    main54 := true, cycles := (s.brd.cycles + 1) % 2 ^ 32, phase := if s.brd.aux5 && s.brd.phase == .off then .held else s.brd.phase } } := by
  simp [mainOn, off]

/-- The always-on side as AUX_5V finds it, before the start that may follow. -/
def auxFresh (s : State) : State :=
  measureAux { s with
    brd := { s.brd with
      aux5 := true, aon := 0, lastPulse := none, rst := { PinSt.reset s.brd.rst.accepted with filtered := s.brd.rst.filtered },
      brake := { PinSt.reset s.brd.brake.accepted with filtered := s.brd.brake.filtered },
      sync := { PinSt.reset s.brd.sync.accepted with filtered := s.brd.sync.filtered },
      phase := if s.brd.main54 && s.brd.phase == .off then .held else s.brd.phase },
    side := { Side.reset with bootFailed := s.side.bootFailed } }

theorem auxOn_off {s : State} (off : s.brd.aux5 = false) : auxOn s = powerAlone (auxFresh s) := by simp [auxOn, off, auxFresh]

/-- A command that leaves its state as it was has nothing counted. -/
theorem counted_of_eq {g : State → State} {s : State} (h : g s = s) : counted g s = s := by simp [counted, countHealth, h]

/-- Settles O46: each edge of a rail or of MOD_RST# by what it loses, starts or leaves. -/
theorem railsAndModuleReset : Obligations.RailsAndModuleReset := by
  unfold Obligations.RailsAndModuleReset
  intro lost starts
  refine ⟨fun s => ⟨fun off => ?_, fun on => ?_, fun on => ?_, fun off => ?_, fun on => ?_, fun on => ?_⟩, fun s aux => ⟨?_, ?_, ?_⟩⟩
  · intro b
    have run : exec .main54TurnOn s = .next (countHealth s (powerAlone { s with brd := b })) :=
      congrArg (fun u => Host.Outcome.next (countHealth s u)) (mainOn_off off)
    refine ⟨fun ⟨aux, high, phase⟩ => ⟨_, run, powerAlone_starts ((mayStart_iff _).mpr ⟨rfl, aux, high, phase⟩)⟩, fun waits => ?_⟩
    rw [run, powerAlone_waits]
    exact fun may => waits ((mayStart_iff _).mp may).2
  · exact congrArg Host.Outcome.next (counted_of_eq (by simp [mainOn, on]))
  · exact ⟨_, rfl, mainOff_loses on⟩
  · intro phase
    have run : exec .aux5TurnOn s = .next (countHealth s (powerAlone (auxFresh s))) :=
      congrArg (fun u => Host.Outcome.next (countHealth s u)) (auxOn_off off)
    refine ⟨fun ⟨main, high, held⟩ => ⟨_, run, powerAlone_starts ((mayStart_iff _).mpr ⟨main, rfl, high, held⟩)⟩, fun waits => ?_⟩
    have down : ¬ mayStart (auxFresh s) = true := fun may => by
      obtain ⟨main, -, rest⟩ := (mayStart_iff (auxFresh s)).mp may
      exact waits ⟨main, rest⟩
    rw [powerAlone_waits down] at run
    exact ⟨_, run, rfl, rfl, rfl, rfl, rfl, rfl, rfl, rfl⟩
  · exact congrArg Host.Outcome.next (counted_of_eq (by simp [auxOn, on]))
  · exact ⟨_, rfl, auxOff_loses on⟩
  · exact fun high unlocked => ⟨_, rfl, modRst_loses aux high unlocked⟩
  · exact fun _ locked => congrArg Host.Outcome.next (counted_of_eq (modRst_held (.inr locked)))
  · exact fun low => congrArg Host.Outcome.next (counted_of_eq (modRst_held (.inl low)))

end Sys2Proof.Machine
end

section
/-! A facet's replay and rebuild while the module starts (R136, R137, R341). -/

namespace Sys2Proof.Machine

open Sys2Proof.Safety

-- A facet put in place of the one of its number.

theorem num_facetOf (s : State) (f : Nat) : (facetOf s f).num = f := by
  unfold facetOf
  cases h : s.facets.find? (·.num == f) with
  | none => rfl
  | some x => simpa using List.find?_some h

theorem facetOf_put {f : Nat} {x : Facet} (num : x.num = f) (s : State) : facetOf (updFacet f (fun _ => x) s) f = x := by
  unfold facetOf updFacet
  dsimp only
  split
  · next any =>
    obtain ⟨a, mem, ha⟩ := List.any_eq_true.mp any
    obtain ⟨b, found⟩ := Option.isSome_iff_exists.mp (List.find?_isSome (p := fun y : Facet => y.num == f) |>.mpr ⟨a, mem, ha⟩)
    rw [find?_updFirst _ _ _ fun _ _ => by simpa using num, found]
    rfl
  · next any =>
    have none : s.facets.find? (·.num == f) = none := by simpa using any
    simp [List.find?_append, none, num]

theorem facetOf_put_ne {f g : Nat} {x : Facet} (num : x.num = f) (s : State) (hg : g ≠ f) :
    facetOf (updFacet f (fun _ => x) s) g = facetOf s g := by
  unfold facetOf updFacet
  rw [find?_upd_ne (fun y : Facet => y.num == f) (fun y : Facet => y.num == g) (fun _ => x) s.facets (Facet.blank f)]
  · intro a ha
    have own : a.num = f := by simpa using ha
    simp [own, num, Ne.symm hg]
  · simp [num, Ne.symm hg]

-- The reads of the replay and of the refill count on the facet alone.

theorem moveUnits_countedOn {f : Nat} {s t : State} (ch cls n : Nat) (h : CountedOn f s t) : CountedOn f s (moveUnits ch f cls n t) :=
  takeBytes_countedOn _ _ _ _ (charge_countedOn _ _ _ _ (charge_countedOn _ _ _ _ h))

theorem streamAll_countedOn {f : Nat} {s t : State} (n : Nat) (h : CountedOn f s t) : CountedOn f s (streamAll f n t) :=
  foldl_ind (CountedOn f s) _ _ _ (bump_countedOn _ _ h) fun _ ch k => moveUnits_countedOn ch 7 _ k

theorem refillTiers_countedOn {f : Nat} {s t : State} (h : CountedOn f s t) : CountedOn f s (refillTiers f t) := by
  unfold refillTiers
  extract_lets lists
  have kept : CountedOn f s lists := foldl_ind (CountedOn f s) _ _ _ (streamAll_countedOn _ h) fun u i k =>
    countedOn_trans k (countedOn_of_eq (by simp))
  exact foldl_ind (CountedOn f s) _ _ _ kept fun u m k => countedOn_trans k (countedOn_of_eq (by simp))

/-- The facet as its replay leaves it: at its closed epoch, in forced durability. -/
def replayed (x : Facet) : Facet := { x with epoch := x.closed, pend := recoverPends x.closed x.pend, forced := true, rebuilt := true }

theorem recoverFacet_facets (f : Nat) (s : State) :
    facetOf (recoverFacet f s) f = { replayed (facetOf s f) with ctr := (facetOf (recoverFacet f s) f).ctr } ∧
      ∀ g, g ≠ f → facetOf (recoverFacet f s) g = facetOf s g := by
  have num : (replayed (facetOf s f)).num = f := num_facetOf s f
  obtain ⟨others, own⟩ : CountedOn f (updFacet f (fun _ => replayed (facetOf s f)) s) (recoverFacet f s) :=
    refillTiers_countedOn (streamAll_countedOn _ (countedOn_of_eq rfl))
  rw [facetOf_put num] at own
  exact ⟨own, fun g hg => (others g hg).trans (facetOf_put_ne num s hg)⟩

@[simp] theorem startedUp_facets (s : State) : (startedUp s).facets = s.facets := by
  unfold startedUp
  split
  · rfl
  · rfl

theorem waitsRebuild_congr {s t : State} (cfg : t.cfg = s.cfg) : waitsRebuild t = waitsRebuild s := by
  funext x
  simp [waitsRebuild, declared, cfg]

/-- A module that starts with its firmware runs once no facet waits. -/
theorem startedUp_runs_iff {s : State} (starting : s.brd.phase = .starting) (fw : s.fw.running < 2) :
    (startedUp s).brd.phase = .running ↔ s.facets.any (waitsRebuild s) = false := by
  unfold startedUp
  cases waiting : s.facets.any (waitsRebuild s) <;> simp [starting, fw]

/-- Settles O48: the replay leaves the facet at its closed epoch; what is read and kept again after it only counts. -/
theorem rebuildTakesTheClosedEpoch : Obligations.RebuildTakesTheClosedEpoch := by
  unfold Obligations.RebuildTakesTheClosedEpoch
  intro f s starting fw waits
  have run : rebuildFacet f s = settle (startedUp (recoverFacet f s)) := by simp [rebuildFacet, starting, fw, waits]
  obtain ⟨own, others⟩ := recoverFacet_facets f s
  have same (g : Nat) : facetOf (startedUp (recoverFacet f s)) g = facetOf (recoverFacet f s) g := facetOf_congr (startedUp_facets _) g
  refine ⟨startedUp (recoverFacet f s), congrArg (fun u => Host.Outcome.next (countHealth s u)) run, ?_, ?_, ?_, ?_, fun g hg => ?_⟩
  · rw [same, own]; rfl
  · rw [same, own]; rfl
  · rw [same, own]; rfl
  · rw [startedUp_runs_iff (by simpa using starting) (by simpa using fw), startedUp_facets, waitsRebuild_congr (s := s) (by simp)]
  · rw [same, others g hg]

end Sys2Proof.Machine
end

section
/-! Upkeep of memory and flash: checkpoints, promotion and patrol, and what work in pieces does to flash (R136, R200, R219, R322). -/

namespace Sys2Proof.Machine

open Sys2Proof.Safety

-- What every piece keeps, work in pieces keeps.

theorem grantPieces_ind {P : State → Prop} {f cls : Nat} {w : SegWork} {j : Job} (piece : ∀ b t, P t → P (chargePiece f cls w j b t)) (n : Nat)
    {s : State} (h : P s) : P (grantPieces f cls w j n s).2 := by
  induction n generalizing s with
  | zero => exact h
  | succ n ih =>
    unfold grantPieces
    split
    · exact ih (piece false s h)
    · split
      · exact ih (piece true s h)
      · exact h

theorem runJobs_ind {P : State → Prop} {f cls : Nat} {w : SegWork} {js : List Job} (piece : ∀ j ∈ js, ∀ b t, P t → P (chargePiece f cls w j b t))
    {s : State} (h : P s) : P (runJobs f cls w js s).2 := by
  induction js generalizing s with
  | nil => exact h
  | cons j js ih =>
    have granted := grantPieces_ind (piece j (by simp)) j.n h
    unfold runJobs
    dsimp only
    split
    · exact ih (fun k hk => piece k (List.mem_cons_of_mem j hk)) granted
    · exact granted

theorem allJobs_eq_some_iff {f cls : Nat} {w : SegWork} {js : List Job} {s t : State} :
    allJobs f cls w js s = some t ↔ (runJobs f cls w js s).1 = [] ∧ (runJobs f cls w js s).2 = t := by simp [allJobs]

theorem allJobs_ind {P : State → Prop} {f cls : Nat} {w : SegWork} {js : List Job} {s t : State} (granted : allJobs f cls w js s = some t)
    (piece : ∀ j ∈ js, ∀ b u, P u → P (chargePiece f cls w j b u)) (h : P s) : P t := by
  obtain ⟨-, rfl⟩ := allJobs_eq_some_iff.mp granted
  exact runJobs_ind piece h

-- What a piece does to flash: one with a die joins its programs.

theorem charge_flash (u f cls ticks : Nat) (b : Bool) (s : State) : (charge u f cls ticks b s).flash = s.flash := by simp

theorem takeBytes_flash (r f cls n size : Nat) (s : State) : (takeBytes r f cls n size s).flash = s.flash := by simp

/-- A piece is charged; one with a die and a unit then waits on the die. -/
theorem chargePiece_charges (f cls : Nat) (w : SegWork) (j : Job) (b : Bool) (s : State) : ∃ t, t.flash = s.flash ∧
    (j.die = none ∨ j.unit = none → chargePiece f cls w j b s = t) ∧
    ∀ d u, j.die = some d → j.unit = some u → chargePiece f cls w j b s = queueSeg (u - 6000) d.1 d.2 none cls f w t := by
  unfold chargePiece
  extract_lets s1 s2 s3
  have ticks : s1.flash = s.flash := by
    dsimp only [s1]
    split
    · exact charge_flash _ _ _ _ _ s
    · rfl
  have bytes : s2.flash = s1.flash := by
    dsimp only [s2]
    split
    · split
      · rfl
      · exact takeBytes_flash _ _ _ _ _ s1
    · rfl
  have counted : s3.flash = s2.flash := by
    dsimp only [s3]
    split
    · rfl
    · rfl
  refine ⟨s3, counted.trans (bytes.trans ticks), fun none => ?_, fun d u die unit => by simp only [die, unit]⟩
  rcases none with h | h
  · simp only [h]
  · split
    · next unit => cases h.symm.trans unit
    · rfl

/-- Of flash nothing changed but what waits on the dies. -/
def DiesOnly (s t : State) : Prop := t.flash = { s.flash with dies := t.flash.dies }

theorem DiesOnly.of_eq {s t : State} (h : t.flash = s.flash) : DiesOnly s t := by unfold DiesOnly; rw [h]

theorem DiesOnly.trans {s t u : State} (h : DiesOnly s t) (k : DiesOnly t u) : DiesOnly s u := by
  unfold DiesOnly at *
  rw [k, h]

theorem chargePiece_flash {f cls : Nat} {w : SegWork} {j : Job} (plain : j.die = none) (b : Bool) (s : State) :
    (chargePiece f cls w j b s).flash = s.flash := by
  obtain ⟨t, flash, run, -⟩ := chargePiece_charges f cls w j b s
  rw [run (.inl plain), flash]

theorem chargePiece_diesOnly (f cls : Nat) (w : SegWork) (j : Job) (b : Bool) (s : State) : DiesOnly s (chargePiece f cls w j b s) := by
  obtain ⟨t, flash, alone, programs⟩ := chargePiece_charges f cls w j b s
  cases die : j.die with
  | none => exact .of_eq (by rw [alone (.inl die), flash])
  | some d =>
    cases unit : j.unit with
    | none => exact .of_eq (by rw [alone (.inr unit), flash])
    | some u =>
      rw [programs d u die unit]
      exact (DiesOnly.of_eq flash).trans rfl

theorem allJobs_diesOnly {f cls : Nat} {w : SegWork} {js : List Job} {s t : State} (granted : allJobs f cls w js s = some t) : DiesOnly s t :=
  allJobs_ind (P := DiesOnly s) granted (fun j _ b u h => h.trans (chargePiece_diesOnly f cls w j b u)) (.of_eq rfl)

/-- Work without a program leaves flash as it is. -/
theorem allJobs_flash {f cls : Nat} {w : SegWork} {js : List Job} {s t : State} (granted : allJobs f cls w js s = some t)
    (plain : ∀ j ∈ js, j.die = none) : t.flash = s.flash :=
  allJobs_ind (P := fun u => u.flash = s.flash) granted (fun j hj b u h => (chargePiece_flash (plain j hj) b u).trans h) rfl

@[simp] theorem runJob_die (r n : Nat) (entry : Option Nat) : (runJob r n entry).die = none := rfl

@[simp] theorem tickJob_die (u ticks : Nat) : (tickJob u ticks).die = none := rfl

-- What work in pieces leaves of the rest of the module.

/-- Nothing changed but what the facets count, what credit has been spent, the memory's own state and flash. -/
def Upkept (s t : State) : Prop :=
  t = { s with facets := t.facets, srch := t.srch, flash := t.flash, mem := t.mem } ∧ Charged s t ∧
    ∀ f, facetOf t f = { facetOf s f with ctr := (facetOf t f).ctr }

theorem Upkept.of_memory {s t : State} (h : t = { s with flash := t.flash, mem := t.mem }) : Upkept s t := by
  rw [h]
  exact ⟨rfl, rfl, fun _ => rfl⟩

theorem Upkept.trans {s t u : State} (h : Upkept s t) (k : Upkept t u) : Upkept s u := by
  obtain ⟨state, spent, facets⟩ := h
  obtain ⟨state', spent', facets'⟩ := k
  refine ⟨?_, ?_, fun f => ?_⟩
  · rw [state', state]
  · unfold Charged at *
    rw [spent', spent]
  · rw [facets' f, facets f]

theorem CountedOn.counts {f : Nat} {s t : State} (h : CountedOn f s t) (g : Nat) : facetOf t g = { facetOf s g with ctr := (facetOf t g).ctr } := by
  obtain ⟨others, own⟩ := h
  by_cases hg : g = f
  · rw [hg]; exact own
  · rw [others g hg]

theorem allJobs_countedOn {f cls : Nat} {w : SegWork} {js : List Job} {s t : State} (granted : allJobs f cls w js s = some t) : CountedOn f s t := by
  obtain ⟨-, rfl⟩ := allJobs_eq_some_iff.mp granted
  exact runJobs_countedOn cls w js (countedOn_of_eq rfl)

theorem allJobs_leaves {f cls : Nat} {w : SegWork} {js : List Job} {s t : State} (granted : allJobs f cls w js s = some t) :
    t = { s with facets := t.facets, srch := t.srch, flash := t.flash } := by
  have rest := allJobs_rest _ _ _ _ _ _ granted
  apply State.ext_of_fields <;> simp [rest]

theorem allJobs_mem {f cls : Nat} {w : SegWork} {js : List Job} {s t : State} (granted : allJobs f cls w js s = some t) : t.mem = s.mem := by
  rw [allJobs_leaves granted]

theorem allJobs_upkept {f cls : Nat} {w : SegWork} {js : List Job} {s t : State} (granted : allJobs f cls w js s = some t) : Upkept s t := by
  refine ⟨?_, allJobs_charged _ _ _ _ granted, (allJobs_countedOn granted).counts⟩
  rw [allJobs_leaves granted]

-- LOG_CHECKPOINT.

/-- The checkpoint's own facet, with the state on flash as of its closed epoch. -/
def checkpointed (x : Facet) : Facet :=
  { x with forced := false, ckptEpoch := x.closed, logFrom := (x.log.map (·.first)).foldl min x.logUnits }

theorem logCheckpoint_granted {f : Nat} {s t : State} (state : (facetOf s f).state ≠ 0) (free : programsHeld s = false)
    (granted : allJobs f 4 .ended [ingestJob s] s = some t) : logCheckpoint f s = useFree (updFacet f checkpointed t) := by
  simp only [logCheckpoint, granted, beq_eq_false_iff_ne.mpr state, free, Bool.or_false, Bool.false_eq_true, if_false]
  rfl

theorem logCheckpoint_waits {f : Nat} {s : State} (withheld : allJobs f 4 .ended [ingestJob s] s = none) : logCheckpoint f s = s := by
  simp [logCheckpoint, withheld]

-- Promotion.

theorem hbmJobs_reads {s : State} {f slot key base : Nat} {r : Nat × Nat} {j : Job} (h : j ∈ hbmJobs s f slot key base r) : j.die = none := by
  unfold hbmJobs at h
  obtain ⟨p, -, hj⟩ := List.mem_flatMap.mp h
  dsimp only at hj
  split at hj
  · obtain ⟨_, -, rfl⟩ := List.mem_map.mp hj
    rfl
  · rw [List.mem_singleton.mp hj, runJob_die]

theorem promotionJobs_reads {s : State} {p : (Index × Nat) × Nat} {j : Job} (h : j ∈ promotionJobs s p) : j.die = none := by
  unfold promotionJobs at h
  rcases List.mem_append.mp h with hj | hj
  · exact hbmJobs_reads hj
  · rw [List.mem_singleton.mp hj, runJob_die]

/-- Promotion changes of the memory's own state what stands in stacked memory, and of flash nothing. -/
def Promoted (s t : State) : Prop := Upkept s t ∧ t.flash = s.flash ∧
  t.mem = { s.mem with copies := t.mem.copies, slices := t.mem.slices, listBytes := t.mem.listBytes }

theorem Promoted.refl (s : State) : Promoted s s := ⟨.of_memory rfl, rfl, rfl⟩

theorem Promoted.trans {s t u : State} (h : Promoted s t) (k : Promoted t u) : Promoted s u := by
  obtain ⟨rest, flash, mem⟩ := h
  obtain ⟨rest', flash', mem'⟩ := k
  refine ⟨rest.trans rest', flash'.trans flash, ?_⟩
  rw [mem', mem]

theorem bump_promoted (f k n : Nat) (s : State) : Promoted s (bump f k n s) :=
  ⟨⟨rfl, rfl, (bump_countedOn k n (countedOn_of_eq rfl)).counts⟩, rfl, rfl⟩

theorem promoteFacet_promoted (s : State) (r : FacetRec) : Promoted s (promoteFacet s r) := by
  unfold promoteFacet
  extract_lets f chosen new slices old same up down
  split
  · exact .refl s
  · split
    · exact .refl s
    · next t granted =>
      have flash := allJobs_flash granted fun j hj => by
        obtain ⟨p, -, hp⟩ := List.mem_flatMap.mp hj
        exact promotionJobs_reads hp
      have reads : Promoted s t := ⟨allJobs_upkept granted, flash, by rw [allJobs_mem granted]⟩
      refine reads.trans (.trans ?_ ((bump_promoted f (kFct 9) down _).trans (bump_promoted f (kFct 8) up _)))
      exact ⟨.of_memory rfl, rfl, rfl⟩

theorem promotionCycle_due {s : State} (clock : clocked s = true) (due : 1024 ≤ s.mem.cycleTurns) : promotionCycle s =
    s.cfg.facets.foldl promoteFacet { s with mem := { s.mem with cycleTurns := 0 } } := by simp [promotionCycle, clock, due]

theorem promotionCycle_early {s : State} (early : s.mem.cycleTurns < 1024) : promotionCycle s = s := by
  simp [promotionCycle, Nat.not_le.mpr early]

theorem promotionCycle_promotes {s : State} (clock : clocked s = true) (due : 1024 ≤ s.mem.cycleTurns) :
    Promoted { s with mem := { s.mem with cycleTurns := 0 } } (promotionCycle s) := by
  rw [promotionCycle_due clock due]
  exact foldl_ind (Promoted _) promoteFacet s.cfg.facets _ (.refl _) fun t r h => h.trans (promoteFacet_promoted t r)

-- Patrol scrub.

theorem foldl_bind_none {α : Type} (k : State → α → Option State) (l : List α) :
    l.foldl (fun acc a => acc.bind fun t => k t a) none = none := by
  induction l with
  | nil => rfl
  | cons a l ih => exact ih

/-- What each granted step keeps, all of them keep. -/
theorem foldl_bind_ind {α : Type} {P : State → Prop} {k : State → α → Option State} (step : ∀ t a u, P t → k t a = some u → P u) {l : List α}
    {s u : State} (h : P s) (done : l.foldl (fun acc a => acc.bind fun t => k t a) (some s) = some u) : P u := by
  induction l generalizing s with
  | nil =>
    cases done
    exact h
  | cons a l ih =>
    rw [List.foldl_cons, Option.bind_some] at done
    cases first : k s a with
    | none => rw [first, foldl_bind_none] at done; cases done
    | some t =>
      rw [first] at done
      exact ih (step s a t h first) done

theorem pageJobs_reads {s : State} {us : List Unit'} {j : Job} (h : j ∈ pageJobs s us) : j.die = none := by
  obtain ⟨_, -, rfl⟩ := List.mem_map.mp h
  rfl

theorem patrolJobs_reads {s : State} {hbm flash : Bool} {f : Nat} {j : Job} (h : j ∈ patrolJobs s hbm flash f) : j.die = none := by
  simp only [patrolJobs, List.mem_append, List.mem_ite_nil_right] at h
  rcases h with ⟨-, hj⟩ | ⟨-, hj | hj⟩
  · obtain ⟨_, -, rfl⟩ := List.mem_map.mp hj
    rfl
  · exact pageJobs_reads hj
  · obtain ⟨_, -, rfl⟩ := List.mem_map.mp hj
    rfl

/-- The reads of a patrol pass, facet by facet. -/
def patrolReads (hbm flash : Bool) (s : State) : Option State :=
  s.cfg.facets.foldl (fun (acc : Option State) r => acc.bind fun t => allJobs r.facet 7 .ended (patrolJobs t hbm flash r.facet) t) (some s)

/-- A patrol pass noted: what it found is to be looked for again. -/
def patrolled (hbm flash : Bool) (t : State) : State :=
  { t with
    flash := { t.flash with rereads := if flash then [] else t.flash.rereads },
    mem := { t.mem with hbmPasses := t.mem.hbmPasses + (if hbm then 1 else 0), rowErrs := if hbm then [] else t.mem.rowErrs,
                        flashPasses := t.mem.flashPasses + (if flash then 1 else 0) } }

theorem patrolReads_kept {hbm flash : Bool} {s t : State} (reads : patrolReads hbm flash s = some t) :
    Upkept s t ∧ t.flash = s.flash ∧ t.mem = s.mem := by
  refine foldl_bind_ind (P := fun u => Upkept s u ∧ u.flash = s.flash ∧ u.mem = s.mem) ?_ ⟨.of_memory rfl, rfl, rfl⟩ reads
  intro u r v ⟨rest, flash, mem⟩ granted
  exact ⟨rest.trans (allJobs_upkept granted), (allJobs_flash granted fun _ => patrolJobs_reads).trans flash, (allJobs_mem granted).trans mem⟩

section
variable {hbm flash : Bool} {s : State} (clock : clocked s = true) (may : mayGrant s 7 false = true)
include clock may

theorem patrol_withheld (withheld : patrolReads hbm flash s = none) : patrol hbm flash s = s := by
  unfold patrolReads at withheld
  simp [patrol, clock, may, withheld]

theorem patrol_done {t : State} (reads : patrolReads hbm flash s = some t) : patrol hbm flash s = patrolled hbm flash t := by
  unfold patrolReads at reads
  cases hbm <;> cases flash <;> simp [patrol, clock, may, reads, patrolled]

end

end Sys2Proof.Machine
end

section
/-! Flash units that are rebuilt and blocks that are left: their copies, and the switch of the page map (R195, R319, R323, R324; logs 13, 109). -/

namespace Sys2Proof.Machine

open Sys2Proof.Safety

-- A program that is granted waits on its die.

theorem mem_updFirst {α : Type} {p : α → Bool} (g : α → α) {l : List α} (h : l.any p = true) : ∃ a, g a ∈ updFirst p g l := by
  induction l with
  | nil => simp at h
  | cons a l ih =>
    unfold updFirst
    split
    · exact ⟨a, by simp⟩
    · next ha =>
      obtain ⟨b, hb⟩ := ih (by simpa [ha] using h)
      exact ⟨b, List.mem_cons_of_mem a hb⟩

theorem mem_updDie (ch d : Nat) (g : Die → Die) (s : State) : ∃ x, g x ∈ (updDie ch d g s).flash.dies := by
  unfold updDie
  dsimp only
  split
  · next any => exact mem_updFirst g any
  · exact ⟨Die.blank ch d, by simp⟩

/-- A program of a class and of some work waits on a die. -/
def Programs (w : SegWork) (cls : Nat) (s : State) : Prop := ∃ d ∈ s.flash.dies, ∃ g ∈ d.segs, g.work = w ∧ g.cls = cls

theorem queueSeg_programs (ch d pl : Nat) (block : Option Nat) (cls f : Nat) (w : SegWork) (s : State) :
    Programs w cls (queueSeg ch d pl block cls f w s) := by
  obtain ⟨x, mem⟩ := mem_updDie ch d (fun y => { y with segs := y.segs ++ [⟨pl, block, cls, f, w, false, 0⟩] }) s
  exact ⟨_, mem, ⟨pl, block, cls, f, w, false, 0⟩, by simp, rfl, rfl⟩

theorem runJobs_append {f cls : Nat} {w : SegWork} {js ks : List Job} {s : State} (done : (runJobs f cls w (js ++ ks) s).1 = []) :
    runJobs f cls w (js ++ ks) s = runJobs f cls w ks (runJobs f cls w js s).2 := by
  induction js generalizing s with
  | nil => rfl
  | cons j js ih =>
    simp only [List.cons_append, runJobs] at done ⊢
    split at done
    · next none => simp only [none, if_true, ih done]
    · cases done

/-- A job of one piece is done with its piece. -/
theorem allJobs_single {f cls : Nat} {w : SegWork} {j : Job} (one : j.n = 1) {s t : State} (granted : allJobs f cls w [j] s = some t) :
    ∃ b, t = chargePiece f cls w j b s := by
  obtain ⟨done, rfl⟩ := allJobs_eq_some_iff.mp granted
  simp only [runJobs, one, grantPieces] at done ⊢
  split at done
  · next funded => exact ⟨false, by simp [funded]⟩
  · next funded =>
    split at done
    · next borrows => exact ⟨true, by simp [funded, borrows]⟩
    · cases done

/-- The program of one page, with its place. -/
def programJob (p : Nat × Nat × Nat) : Job := { unitJob p.1 1 none with die := some p.2 }

theorem allJobs_programs {f cls : Nat} {w : SegWork} {js : List Job} {p : Nat × Nat × Nat} {s t : State}
    (granted : allJobs f cls w (js ++ programJobs [p]) s = some t) : Programs w cls t := by
  obtain ⟨done, rfl⟩ := allJobs_eq_some_iff.mp granted
  have last : runJobs f cls w (js ++ programJobs [p]) s = runJobs f cls w [programJob p] (runJobs f cls w js s).2 := runJobs_append done
  rw [last] at done ⊢
  obtain ⟨b, run⟩ := allJobs_single rfl (allJobs_eq_some_iff.mpr ⟨done, rfl⟩)
  obtain ⟨u, -, -, programs⟩ := chargePiece_charges f cls w (programJob p) b (runJobs f cls w js s).2
  rw [run, programs p.2 _ rfl rfl]
  exact queueSeg_programs _ _ _ _ _ _ _ u

-- A unit's copy.

/-- The program that a unit's copy is on its new page. -/
def copyWork (s : State) (u : Unit') : SegWork := .move u (pageOf s u).1 (newPage s u) (pageOf s u).2

theorem copyUnit_granted {reads : List Job} {u : Unit'} {s t : State} (still : moving s u (pageOf s u).1 = false)
    (granted : allJobs u.facet 7 (copyWork s u) (reads ++ programJobs [placeOf s u]) (useFree s) = some t) : copyUnit reads u s = t := by
  unfold copyWork at granted
  simp [copyUnit, still, granted]

/-- A copy is begun with all its pieces granted, or not at all. -/
theorem copyUnit_cases (reads : List Job) (u : Unit') (s : State) : copyUnit reads u s = s ∨
    ∃ t, allJobs u.facet 7 (copyWork s u) (reads ++ programJobs [placeOf s u]) (useFree s) = some t ∧ copyUnit reads u s = t := by
  cases still : moving s u (pageOf s u).1 with
  | true => exact .inl (by simp [copyUnit, still])
  | false =>
    cases granted : allJobs u.facet 7 (copyWork s u) (reads ++ programJobs [placeOf s u]) (useFree s) with
    | none =>
      unfold copyWork at granted
      exact .inl (by simp [copyUnit, granted])
    | some t => exact .inr ⟨t, rfl, copyUnit_granted still granted⟩

theorem copyUnit_diesOnly (reads : List Job) (u : Unit') (s : State) : DiesOnly s (copyUnit reads u s) := by
  rcases copyUnit_cases reads u s with same | ⟨t, granted, run⟩
  · exact .of_eq (by rw [same])
  · rw [run]
    exact (DiesOnly.of_eq rfl : DiesOnly s (useFree s)).trans (allJobs_diesOnly granted)

theorem copyUnit_standing (reads : List Job) (u : Unit') (s : State) : standing (copyUnit reads u s) = standing s := by
  rcases copyUnit_cases reads u s with same | ⟨t, granted, run⟩
  · rw [same]
  · rw [run]
    exact (allJobs_standing granted).trans rfl

-- Spare capacity, and a block retired.

theorem spareCheck_told (s : State) : Told s (spareCheck s) := by
  unfold spareCheck
  split
  · exact told_trans (told_of_eq rfl rfl) (record_told _ _ _ _)
  · exact told_of_eq rfl rfl

/-- Spare low is noted once in an operating day. -/
theorem spareCheck_flash (s : State) : (spareCheck s).flash =
    { s.flash with spareDayDone := s.flash.spareDayDone || decide (s.flash.sparePm < 50) } := by
  unfold spareCheck
  split
  · next low =>
    simp only [Bool.and_eq_true, decide_eq_true_eq] at low
    simp [low.1]
  · next high =>
    have same : (s.flash.spareDayDone || decide (s.flash.sparePm < 50)) = s.flash.spareDayDone := by
      cases h : s.flash.spareDayDone <;> simp_all
    rw [same]

/-- The key of a block in flash's tables. -/
def keyOf (b : Nat × Nat × Nat × Nat) : Nat := blockKey b.1 b.2.1 b.2.2.1 b.2.2.2

/-- A block out of use: the spare reserve that is left is noted, and the block is on its list until it is empty (log 13). -/
def outOfUse (b : Nat × Nat × Nat × Nat) (s : State) : State :=
  let rest := s.flash.leaving.filter (· != b)
  { s with flash := { s.flash with
    retired := s.flash.retired + 1, sparePm := min s.flash.sparePm (Config.sparePermille (s.flash.retired + 1)),
    bad := nub (s.flash.bad ++ [keyOf b]), leaving := if blockEmpty s b then rest else rest ++ [b] } }

theorem retireBlock_records (b : Nat × Nat × Nat × Nat) (cause : Nat) (s : State) : retireBlock b cause s =
    spareCheck (record 0x0304 (subj [b.1, b.2.1, b.2.2.1]) [b.2.2.2, cause, (outOfUse b s).flash.sparePm] (bumpRas 19 1 (outOfUse b s))) := rfl

theorem retireBlock_flash (b : Nat × Nat × Nat × Nat) (cause : Nat) (s : State) :
    ∃ day, (retireBlock b cause s).flash = { (outOfUse b s).flash with spareDayDone := day } := by
  rw [retireBlock_records, spareCheck_flash]
  simp only [record_rest, bumpRas_rest]
  exact ⟨_, rfl⟩

theorem retireBlock_told (b : Nat × Nat × Nat × Nat) (cause : Nat) (s : State) : Told s (retireBlock b cause s) := by
  have counted : Told s (bumpRas 19 1 (outOfUse b s)) := told_of_eq rfl rfl
  rw [retireBlock_records]
  exact told_trans counted (told_trans (record_told _ _ _ _) (spareCheck_told _))

-- What leaving a block keeps.

/-- A block is being left, or is already out of use. -/
def Left (s : State) (b : Nat × Nat × Nat × Nat) : Prop := b ∈ s.flash.leaving ∨ keyOf b ∈ s.flash.bad

/-- The page map, what is to be rebuilt and the re-reads stand; a block that was left stays so, and the spare reserve has not grown. -/
structure Leaves (s t : State) : Prop where
  pages : t.flash.pages = s.flash.pages
  rebuilding : t.flash.rebuilding = s.flash.rebuilding
  rereads : t.flash.rereads = s.flash.rereads
  spare : t.flash.sparePm ≤ s.flash.sparePm
  left : ∀ b, Left s b → Left t b
  facets : standing t = standing s
  told : Told s t

theorem Leaves.refl (s : State) : Leaves s s := ⟨rfl, rfl, rfl, Nat.le_refl _, fun _ h => h, rfl, told_of_eq rfl rfl⟩

theorem Leaves.trans {s t u : State} (h : Leaves s t) (k : Leaves t u) : Leaves s u :=
  ⟨k.pages.trans h.pages, k.rebuilding.trans h.rebuilding, k.rereads.trans h.rereads, k.spare.trans h.spare, fun b hb => k.left b (h.left b hb),
    k.facets.trans h.facets, told_trans h.told k.told⟩

theorem copyUnit_leaves (reads : List Job) (u : Unit') (s : State) : Leaves s (copyUnit reads u s) := by
  have flash : (copyUnit reads u s).flash = _ := copyUnit_diesOnly reads u s
  refine ⟨?_, ?_, ?_, ?_, fun b => ?_, copyUnit_standing reads u s, told_of_eq (by simp) (by simp)⟩
  · rw [flash]
  · rw [flash]
  · rw [flash]
  · rw [flash]
  · unfold Left
    rw [flash]
    exact id

/-- A block that leaves the list is out of use. -/
theorem left_of_filter {s t : State} {b : Nat × Nat × Nat × Nat} (out : keyOf b ∈ t.flash.bad) (bad : s.flash.bad ⊆ t.flash.bad)
    (leaving : s.flash.leaving.filter (· != b) ⊆ t.flash.leaving) (c : Nat × Nat × Nat × Nat) : Left s c → Left t c := by
  rintro (h | h)
  · by_cases hc : c = b
    · exact .inr (hc ▸ out)
    · exact .inl (leaving (by simp [h, hc]))
  · exact .inr (bad h)

theorem retireBlock_leaves (b : Nat × Nat × Nat × Nat) (cause : Nat) (s : State) : Leaves s (retireBlock b cause s) := by
  obtain ⟨day, flash⟩ := retireBlock_flash b cause s
  refine ⟨by rw [flash]; rfl, by rw [flash]; rfl, by rw [flash]; rfl, ?_, ?_, standing_congr (by simp), retireBlock_told b cause s⟩
  · rw [flash]
    exact Nat.min_le_left _ _
  · refine left_of_filter (b := b) ?_ (fun k hk => ?_) fun c hc => ?_
    · simp [flash, outOfUse, mem_nub]
    · simp [flash, outOfUse, mem_nub, hk]
    · rw [flash]
      dsimp only [outOfUse]
      split
      · exact hc
      · exact List.mem_append_left _ hc

theorem leaveBlock_leaves (s : State) (b : Nat × Nat × Nat × Nat) : Leaves s (leaveBlock s b) := by
  unfold leaveBlock
  extract_lets t
  have copies : Leaves s t := foldl_ind (Leaves s) _ _ _ (.refl s) fun v u h => h.trans (copyUnit_leaves _ u v)
  split
  · exact copies
  · split
    · next out =>
      refine copies.trans ⟨rfl, rfl, rfl, Nat.le_refl _, ?_, rfl, told_of_eq rfl rfl⟩
      exact left_of_filter (b := b) (by simpa [keyOf] using out) (List.Subset.refl _) (List.Subset.refl _)
    · exact copies.trans (retireBlock_leaves b 0 t)

theorem leaveBlocks_leaves (s : State) : Leaves s (leaveBlocks s) :=
  foldl_ind (Leaves s) leaveBlock _ _ (.refl s) fun t b h => h.trans (leaveBlock_leaves t b)

/-- An empty block that is alone on its list is retired. -/
theorem leaveBlocks_retires {s : State} {b : Nat × Nat × Nat × Nat} (alone : s.flash.leaving = [b]) (unread : unitsIn s b = [])
    (empty : blockEmpty s b = true) (fresh : keyOf b ∉ s.flash.bad) : leaveBlocks s = retireBlock b 0 s := by
  have new : blockKey b.1 b.2.1 b.2.2.1 b.2.2.2 ∉ s.flash.bad := fresh
  simp [leaveBlocks, alone, leaveBlock, unread, empty, new]

-- FLASH_BLOCK_RETIRED.

/-- A block is on its list, with its re-reads to be counted anew. -/
def leftBlock (b : Nat × Nat × Nat × Nat) (s : State) : State := { s with flash := { s.flash with
  rereads := s.flash.rereads.filter (·.1 != keyOf b), leaving := nub (s.flash.leaving ++ [b]) } }

theorem blockRelocated_due {ch d pl blk : Nat} {s : State} (due : 8 < s.flash.rereads.get (blockKey ch d pl blk)) :
    blockRelocated ch d pl blk s = leaveBlocks (leftBlock (ch, d, pl, blk) s) := by
  simp [blockRelocated, Nat.not_le.mpr due, leftBlock, keyOf]

theorem blockRelocated_early {ch d pl blk : Nat} {s : State} (early : s.flash.rereads.get (blockKey ch d pl blk) ≤ 8) :
    blockRelocated ch d pl blk s = s := by simp [blockRelocated, early]

theorem blockRelocated_touches (ch d pl blk : Nat) (s : State) : blockRelocated ch d pl blk s =
    { s with flash := (blockRelocated ch d pl blk s).flash, mem := (blockRelocated ch d pl blk s).mem, evr := (blockRelocated ch d pl blk s).evr,
             hif := (blockRelocated ch d pl blk s).hif, out := (blockRelocated ch d pl blk s).out, facets := (blockRelocated ch d pl blk s).facets,
             srch := (blockRelocated ch d pl blk s).srch, free := (blockRelocated ch d pl blk s).free } := by
  apply State.ext_of_fields <;> simp

/-- The re-reads are counted anew, the block is left, the spare reserve has not grown, and the host is told at most of an event. -/
theorem leftBlock_leaves (b : Nat × Nat × Nat × Nat) (s : State) :
    let t := leaveBlocks (leftBlock b s)
    t.flash.rereads = s.flash.rereads.filter (·.1 != keyOf b) ∧ Left t b ∧ t.flash.sparePm ≤ s.flash.sparePm ∧ Told s t := by
  have leaves := leaveBlocks_leaves (leftBlock b s)
  exact ⟨leaves.rereads, leaves.left b (.inl (by simp [leftBlock, mem_nub])), leaves.spare, told_trans (told_of_eq rfl rfl) leaves.told⟩

theorem leftBlock_retires {b : Nat × Nat × Nat × Nat} {s : State} (none : s.flash.leaving = []) (unread : unitsIn s b = [])
    (empty : blockEmpty s b = true) (fresh : keyOf b ∉ s.flash.bad) :
    let t := leaveBlocks (leftBlock b s)
    t.flash.retired = s.flash.retired + 1 ∧ keyOf b ∈ t.flash.bad := by
  intro t
  have alone : (leftBlock b s).flash.leaving = [b] := by simp [leftBlock, none, nub]
  have run : t = retireBlock b 0 (leftBlock b s) := leaveBlocks_retires alone unread empty fresh
  obtain ⟨day, flash⟩ := retireBlock_flash b 0 (leftBlock b s)
  rw [run, flash]
  exact ⟨rfl, (mem_nub _ _).mpr (by simp)⟩

-- The end of a copy's program.

/-- The page map names the copy from the unit's next epoch on, and the unit's facet has changed. -/
def switched (u : Unit') (word gen : Nat) (s : State) : State :=
  markChanged u.facet (joinParity u (putPage u (commitEpoch (facetOf s u.facet)) word gen s))

theorem joinParity_flash (u : Unit') (s : State) : (joinParity u s).flash.pages = s.flash.pages ∧
    (joinParity u s).flash.rebuilding = s.flash.rebuilding := by
  unfold joinParity
  extract_lets chOf close l
  split
  · exact ⟨rfl, rfl⟩
  · split
    · exact ⟨rfl, rfl⟩
    · exact ⟨rfl, rfl⟩

theorem switched_names (u : Unit') (word gen : Nat) (s : State) : (u, commitEpoch (facetOf s u.facet), word, gen) ∈ (switched u word gen s).flash.pages ∧
    (switched u word gen s).flash.rebuilding = s.flash.rebuilding ∧ (facetOf (switched u word gen s) u.facet).changed = true := by
  obtain ⟨pages, rebuilding⟩ := joinParity_flash u (putPage u (commitEpoch (facetOf s u.facet)) word gen s)
  refine ⟨?_, rebuilding, by rw [switched, facetOf_markChanged]⟩
  have named : (u, commitEpoch (facetOf s u.facet), word, gen) ∈ (putPage u (commitEpoch (facetOf s u.facet)) word gen s).flash.pages :=
    (mem_insertBy _ _ _ _).mpr (.inl rfl)
  exact pages ▸ named

theorem noteRebuilt_flash (u : Unit') (old : Nat) (s : State) :
    (noteRebuilt u old s).flash = { s.flash with rebuilding := s.flash.rebuilding.erase u } := by simp [noteRebuilt]

/-- The copy's unit is rebuilt, if it waited for that. -/
def notedRebuilt (u : Unit') (old : Nat) (waits : Bool) (s : State) : State := if waits then noteRebuilt u old s else s

theorem notedRebuilt_keeps {u : Unit'} {old : Nat} {s : State} :
    let t := notedRebuilt u old (s.flash.rebuilding.contains u) s
    t.flash.pages = s.flash.pages ∧ t.flash.rebuilding = s.flash.rebuilding.erase u ∧ t.facets = s.facets ∧ t.idx = s.idx := by
  unfold notedRebuilt
  split
  · simp [noteRebuilt_flash]
  · next out => exact ⟨rfl, (List.erase_of_not_mem (by simpa using out)).symm, rfl, rfl⟩

theorem moveDone_switches (u : Unit') (word gen : Nat) (s : State) : moveDone u (pageOf s u).1 word gen s =
    leaveBlocks (notedRebuilt u (pageOf s u).1 (s.flash.rebuilding.contains u) (switched u word gen s)) := by
  simp only [moveDone, bne_self_eq_false, Bool.false_eq_true, if_false]
  rfl

theorem moveDone_published (u : Unit') (word gen : Nat) (s : State) :
    let t := moveDone u (pageOf s u).1 word gen s
    (u, commitEpoch (facetOf s u.facet), word, gen) ∈ t.flash.pages ∧ t.flash.rebuilding = s.flash.rebuilding.erase u ∧
      (facetOf t u.facet).changed = true ∧ t.idx = s.idx := by
  intro t
  obtain ⟨named, rebuilding, changed⟩ := switched_names u word gen s
  have noted := notedRebuilt_keeps (u := u) (old := (pageOf s u).1) (s := switched u word gen s)
  rw [rebuilding] at noted
  obtain ⟨pages, rebuilt, facets, -⟩ := noted
  have run : t = leaveBlocks (notedRebuilt u (pageOf s u).1 (s.flash.rebuilding.contains u) (switched u word gen s)) := moveDone_switches u word gen s
  have leaves := leaveBlocks_leaves (notedRebuilt u (pageOf s u).1 (s.flash.rebuilding.contains u) (switched u word gen s))
  refine ⟨?_, ?_, ?_, by simp [t]⟩
  · rw [run, leaves.pages, pages]
    exact named
  · rw [run, leaves.rebuilding, rebuilt]
  · rw [run, field_of_standing Facet.changed leaves.facets _ fun _ => rfl, facetOf_congr facets, changed]

-- OPERATING_DAY_END.

/-- A new operating day, with spare low to be noted again. -/
def nextDay (s : State) : State := { s with flash := { s.flash with spareDayDone := false, dayNo := s.brd.opNs / 86400000000000 } }

theorem dayOver_due {s : State} (due : 86400000000000 * (s.flash.dayNo + 1) ≤ s.brd.opNs) : dayOver s = spareCheck (nextDay s) := by
  simp [dayOver, Nat.not_lt.mpr due, nextDay]

theorem dayOver_early {s : State} (early : s.brd.opNs < 86400000000000 * (s.flash.dayNo + 1)) : dayOver s = s := by simp [dayOver, early]

theorem spareCheck_touches (s : State) : spareCheck s =
    { s with flash := (spareCheck s).flash, evr := (spareCheck s).evr, hif := (spareCheck s).hif, out := (spareCheck s).out } := by
  apply State.ext_of_fields <;> simp

end Sys2Proof.Machine
end

section
/-! The rows that keep up memory and flash (O37). -/

namespace Sys2Proof.Machine

open Sys2Proof.Safety

/-- A row that answers with a state of its own. -/
theorem answers_of_run {i : Instr} {s t : State} {p : State → Prop} (run : exec i s = .next t) (h : p t) : Answers i s p := ⟨t, run, h⟩

theorem logCheckpoint_answers {f : Nat} {s : State} (state : (facetOf s f).state ≠ 0) (free : programsHeld s = false)
    (granted : (allJobs f 4 .ended [ingestJob s] s).isSome = true) :
    Answers (.logCheckpoint f) s fun t => t = { s with facets := t.facets, srch := t.srch, free := t.free } ∧
      (facetOf t f).forced = false ∧ (facetOf t f).ckptEpoch = (facetOf s f).closed ∧ (facetOf t f).log = (facetOf s f).log ∧
      (facetOf t f).logFrom = ((facetOf s f).log.map (·.first)).foldl min (facetOf s f).logUnits ∧
      (facetOf t f).epoch = (facetOf s f).epoch ∧ (facetOf t f).closed = (facetOf s f).closed := by
  obtain ⟨u, hu⟩ := Option.isSome_iff_exists.mp granted
  obtain ⟨-, own⟩ := allJobs_countedOn hu
  have flash : u.flash = s.flash := allJobs_flash hu (by simp [ingestJob])
  have after : facetOf (useFree (updFacet f checkpointed u)) f = checkpointed (facetOf u f) := facetOf_updFacet f _ u fun _ => rfl
  refine answers_of_run (congrArg Host.Outcome.next (logCheckpoint_granted state free hu)) ⟨?_, ?_⟩
  · rw [allJobs_leaves hu, flash]
    rfl
  · rw [after, own]
    exact ⟨rfl, rfl, rfl, rfl, rfl, rfl⟩

theorem ingestJob_barred {f : Nat} {s : State} (barred : mayGrant s 4 false = false) : allJobs f 4 .ended [ingestJob s] s = none := by
  have borrows : mayGrant s 4 true = false := by
    simp only [mayGrant, Bool.false_and, Bool.not_false, Bool.and_true] at barred ⊢
    rw [barred, Bool.false_and]
  simp [allJobs, runJobs, ingestJob, tickJob, grantPieces, jobFunded, jobBorrows, barred, borrows]

theorem promotionCycle_answers {s : State} (clock : clocked s = true) (due : 1024 ≤ s.mem.cycleTurns) :
    Answers .promotionCycle s fun t => Upkept s t ∧ t.flash = s.flash ∧
      t.mem = { s.mem with copies := t.mem.copies, slices := t.mem.slices, listBytes := t.mem.listBytes, cycleTurns := 0 } := by
  obtain ⟨rest, flash, mem⟩ := promotionCycle_promotes clock due
  exact answers_of_run rfl ⟨(Upkept.of_memory rfl).trans rest, flash, mem⟩

theorem patrolScrub_answers {hbm flash : Bool} {s : State} (clock : clocked s = true) (may : mayGrant s 7 false = true)
    (granted : (patrolReads hbm flash s).isSome = true) : Answers (.patrolScrub hbm flash) s fun t => Upkept s t ∧
      t.flash = { s.flash with rereads := if flash then [] else s.flash.rereads } ∧
      t.mem = { s.mem with hbmPasses := s.mem.hbmPasses + (if hbm then 1 else 0), rowErrs := if hbm then [] else s.mem.rowErrs,
                           flashPasses := s.mem.flashPasses + (if flash then 1 else 0) } := by
  obtain ⟨u, hu⟩ := Option.isSome_iff_exists.mp granted
  obtain ⟨rest, onFlash, mem⟩ := patrolReads_kept hu
  refine answers_of_run (congrArg Host.Outcome.next (patrol_done clock may hu)) ⟨rest.trans (.of_memory rfl), ?_, ?_⟩
  · rw [← onFlash]
    rfl
  · rw [← mem]
    rfl

theorem unitRebuilt_answers {u : Unit'} {s : State} (waits : u ∈ s.flash.rebuilding) (still : moving s u (pageOf s u).1 = false)
    (granted : (allJobs u.facet 7 (copyWork s u) (groupJobs s u ++ programJobs [placeOf s u]) (useFree s)).isSome = true) :
    Answers (.flashUnitRebuilt u.facet u.slot u.structure' u.list u.unit) s fun t =>
      t.flash.rebuilding = s.flash.rebuilding ∧ t.flash.pages = s.flash.pages ∧ Programs (copyWork s u) 7 t ∧
        t = { s with flash := t.flash, facets := t.facets, srch := t.srch, free := t.free } := by
  obtain ⟨t, ht⟩ := Option.isSome_iff_exists.mp granted
  have run : unitRebuilt u s = t := by simp [unitRebuilt, waits, copyUnit_granted still ht]
  have flash : DiesOnly s t := (DiesOnly.of_eq rfl : DiesOnly s (useFree s)).trans (allJobs_diesOnly ht)
  unfold DiesOnly at flash
  refine answers_of_run (congrArg Host.Outcome.next run) ⟨by rw [flash], by rw [flash], allJobs_programs ht, ?_⟩
  rw [allJobs_leaves ht]
  rfl

theorem unitRebuilt_idle {u : Unit'} {s : State} (idle : u ∉ s.flash.rebuilding) : unitRebuilt u s = s := by simp [unitRebuilt, idle]

theorem flashBlockRetired_answers {ch d pl blk : Nat} {s : State} (due : 8 < s.flash.rereads.get (blockKey ch d pl blk)) :
    Answers (.flashBlockRetired ch d pl blk) s fun t =>
      t.flash.rereads = s.flash.rereads.filter (·.1 != blockKey ch d pl blk) ∧
      ((ch, d, pl, blk) ∈ t.flash.leaving ∨ blockKey ch d pl blk ∈ t.flash.bad) ∧ t.flash.sparePm ≤ s.flash.sparePm ∧
      (s.flash.leaving = [] → unitsIn s (ch, d, pl, blk) = [] → blockEmpty s (ch, d, pl, blk) = true → blockKey ch d pl blk ∉ s.flash.bad →
        t.flash.retired = s.flash.retired + 1 ∧ blockKey ch d pl blk ∈ t.flash.bad) ∧
      t = { s with flash := t.flash, mem := t.mem, evr := t.evr, hif := t.hif, out := t.out, facets := t.facets, srch := t.srch, free := t.free } ∧
      Told s t := by
  obtain ⟨rereads, left, spare, told⟩ := leftBlock_leaves (ch, d, pl, blk) s
  refine answers_of_run rfl ⟨?_, ?_, ?_, ?_, blockRelocated_touches ch d pl blk s, ?_⟩ <;> rw [blockRelocated_due due]
  · exact rereads
  · exact left
  · exact spare
  · exact leftBlock_retires
  · exact told

theorem operatingDayEnd_answers {s : State} (due : 86400000000000 * (s.flash.dayNo + 1) ≤ s.brd.opNs) : Answers .operatingDayEnd s fun t =>
    t.flash = { s.flash with spareDayDone := decide (s.flash.sparePm < 50), dayNo := s.brd.opNs / 86400000000000 } ∧
    t = { s with flash := t.flash, evr := t.evr, hif := t.hif, out := t.out } ∧ Told s t := by
  refine answers_of_run (congrArg Host.Outcome.next (dayOver_due due)) ⟨?_, spareCheck_touches (nextDay s), ?_⟩
  · rw [spareCheck_flash]
    rfl
  · exact told_trans (told_of_eq rfl rfl) (spareCheck_told (nextDay s))

theorem segDone_move {u : Unit'} {old word gen : Nat} {g : Seg} (work : g.work = .move u old word gen) (s : State) :
    segDone g s = moveDone u old word gen s := by simp [segDone, work]

/-- Settles O37: each row by what it answers when it is due and granted, and by the state it leaves when it is not. -/
theorem memoryAndFlashUpkeep : Obligations.MemoryAndFlashUpkeep := by
  unfold Obligations.MemoryAndFlashUpkeep
  intro upkeep
  refine ⟨fun s => ⟨?_, ?_, ?_, ?_, ?_, ?_⟩, fun s => ⟨?_, ?_, ?_, ?_, ?_, ?_⟩⟩
  · exact fun f state free granted => logCheckpoint_answers state free granted
  · exact fun f withheld => congrArg Host.Outcome.next (logCheckpoint_waits withheld)
  · exact fun f barred => congrArg Host.Outcome.next (logCheckpoint_waits (ingestJob_barred barred))
  · exact fun clock due => promotionCycle_answers clock due
  · exact fun early => congrArg Host.Outcome.next (promotionCycle_early early)
  · intro hbm flash clock may reads
    exact ⟨fun none => congrArg Host.Outcome.next (patrol_withheld clock may none), fun granted => patrolScrub_answers clock may granted⟩
  · intro f sl st l n u old work
    exact ⟨fun idle => congrArg Host.Outcome.next (unitRebuilt_idle idle), fun waits still granted => unitRebuilt_answers waits still granted⟩
  · intro u word gen g work
    rw [segDone_move work]
    exact moveDone_published u word gen s
  · exact fun ch d pl blk due => flashBlockRetired_answers due
  · exact fun ch d pl blk early => congrArg Host.Outcome.next (blockRelocated_early early)
  · exact fun due => operatingDayEnd_answers due
  · exact fun early => congrArg Host.Outcome.next (dayOver_early early)

end Sys2Proof.Machine
end

section
/-! Optimiser steps of a TRAIN: the triples a step takes, the job it leaves, and the end behind the last epoch (R182, R185 to R189, R223). -/

namespace Sys2Proof.Machine

open Sys2Proof.Safety

-- What a step computes: W, v, the adapter and the loss, and no other field of the job.

/-- The triples of a job's next step: the next B of its order, or what is left of it (R186). -/
def stepTriples (c : Cmd) (j : TrainJob) : List (Nat × Cand × Cand) :=
  ((j.order.drop (c.bb * j.step)).take c.bb).filterMap fun i => j.triples[i]?

/-- What a job's next step computes (R185 to R187): an epoch's loss begins anew with its first step. -/
def stepResult (ix : Index) (c : Cmd) (s : State) (j : TrainJob) : TrainJob × Nat :=
  trainStep ix c (((j.adapterSlot.bind (modelRec s j.facet)).map (·.nodes)).getD []) (if j.step == 0 then { j with loss := 0 } else j)
    (stepTriples c j)

/-- A job within an epoch, one step on from j; r is what the step computed. -/
def midEpoch (j r : TrainJob) : TrainJob := { r with step := j.step + 1, steps := j.steps + 1 }

/-- A job at the start of the next epoch, with a new order (R187); r is what the last step of j's epoch computed. -/
def nextEpoch (j r : TrainJob) : TrainJob :=
  let o := epochOrder j.prng j.triples.length
  { r with step := 0, epochNo := j.epochNo + 1, steps := j.steps + 1, order := o.2, prng := o.1 }

theorem trainStep_names (ix : Index) (c : Cmd) (nodes : List ModelNode) (j : TrainJob) (ts : List (Nat × Cand × Cand)) :
    (trainStep ix c nodes j ts).1.tag = j.tag ∧ (trainStep ix c nodes j ts).1.facet = j.facet ∧ (trainStep ix c nodes j ts).1.slot = j.slot :=
  ⟨rfl, rfl, rfl⟩

theorem stepResult_names (ix : Index) (c : Cmd) (s : State) (j : TrainJob) :
    (stepResult ix c s j).1.tag = j.tag ∧ (stepResult ix c s j).1.facet = j.facet ∧ (stepResult ix c s j).1.slot = j.slot := by
  obtain ⟨tag, facet, slot⟩ := trainStep_names ix c (((j.adapterSlot.bind (modelRec s j.facet)).map (·.nodes)).getD [])
    (if j.step == 0 then { j with loss := 0 } else j) (stepTriples c j)
  refine ⟨tag.trans ?_, facet.trans ?_, slot.trans ?_⟩ <;> split <;> rfl

-- The state that a granted step leaves.

theorem stepGrant_charged {c : Cmd} {ix : Index} {j : TrainJob} {n : Nat} {s t : State} (granted : stepGrant c ix j n s = some t) :
    Charged s t := by
  unfold stepGrant at granted
  split at granted
  · exact allJobs_charged _ _ _ _ granted
  · cases granted

/-- A state in which a step of facet f's TRAIN is counted and charged (R182, R222), with the job as the step leaves it. -/
def stepTaken (tag f sats : Nat) (j : TrainJob) (s : State) : State :=
  chargeWork f 6 <| bump f (kCls 6 14) sats <| bump f (kCls 6 29) 1
    { s with free := s.free + 1, srch := { s.srch with train := updFirst (·.tag == tag) (fun _ => j) s.srch.train } }

theorem stepTaken_rest (tag f sats : Nat) (j : TrainJob) (s : State) : (stepTaken tag f sats j s).cmds = s.cmds ∧
    (stepTaken tag f sats j s).idx = s.idx ∧ (stepTaken tag f sats j s).mods = s.mods := by simp [stepTaken]

theorem stepTaken_train (tag f sats : Nat) (j : TrainJob) (s : State) :
    (stepTaken tag f sats j s).srch.train = updFirst (·.tag == tag) (fun _ => j) s.srch.train :=
  (chargeWork_charged f 6 (bump_charged _ _ _ (bump_charged _ _ _ (.refl _)))).train

/-- A granted step replaces its TRAIN's job, and changes no command, index or model slot. -/
theorem stepTaken_leaves {c : Cmd} {ix : Index} {j k : TrainJob} {n tag : Nat} {s t : State} (granted : stepGrant c ix j n s = some t)
    (found : s.srch.train.find? (·.tag == tag) = some j) (same : k.tag = j.tag) (f sats : Nat) :
    (stepTaken tag f sats k t).srch.train.find? (·.tag == tag) = some k ∧ (stepTaken tag f sats k t).cmds = s.cmds ∧
      (stepTaken tag f sats k t).idx = s.idx ∧ (stepTaken tag f sats k t).mods = s.mods := by
  obtain ⟨cmds, idx, mods⟩ := stepTaken_rest tag f sats k t
  have rest := stepGrant_rest _ _ _ _ _ _ granted
  have named : (j.tag == tag) = true := List.find?_some (p := fun x : TrainJob => x.tag == tag) found
  refine ⟨?_, by simp [cmds, rest], by simp [idx, rest], by simp [mods, rest]⟩
  rw [stepTaken_train, (stepGrant_charged granted).train, find?_updFirst _ _ _ fun _ _ => by rw [same]; exact named, found]
  rfl

-- OPTIMISER_STEP.

/-- What follows on a step's grant: it goes on in its epoch, or begins the next one, or behind the last one ends the TRAIN (R187, R189);
r is what the step computed. -/
def stepOn (tag : Nat) (c : Cmd) (j : TrainJob) (r : TrainJob × Nat) (t : State) : State :=
  if j.order.length ≤ c.bb * (j.step + 1) then
    if c.ee ≤ j.epochNo + 1 then endTrain c (nextEpoch j r.1) (stepTaken tag j.facet r.2 (nextEpoch j r.1) t)
    else stepTaken tag j.facet r.2 (nextEpoch j r.1) t
  else stepTaken tag j.facet r.2 (midEpoch j r.1) t

section
variable {tag : Nat} {s : State} {j : TrainJob} {c : Cmd} {ix : Index} (found : s.srch.train.find? (·.tag == tag) = some j)
  (cmd : cmdOf s tag = some c) (index : c.index s = some ix) (phase : j.phase = 3)
include found cmd index phase

/-- A step ends an ending TRAIN, goes on with what is granted to it, and waits where nothing is (R182, R223). -/
theorem optimiserStep_eq {r : TrainJob × Nat} (result : stepResult ix c s j = r) :
    optimiserStep tag s =
      if j.ending = true then abortTrain c s else (stepGrant c ix j (stepTriples c j).length s).elim s (stepOn tag c j r) := by
  unfold optimiserStep
  rw [found, cmd]
  dsimp only
  rw [if_neg (by simp [phase]), index]
  dsimp only
  split
  · rfl
  · simp only [stepTriples]
    cases granted : stepGrant c ix j (((j.order.drop (c.bb * j.step)).take c.bb).filterMap fun i => j.triples[i]?).length s with
    | none => rfl
    | some t =>
      simp only [stepResult, stepTriples] at result
      dsimp only [Option.elim]
      rw [result]
      unfold stepOn
      by_cases last : j.order.length ≤ c.bb * (j.step + 1)
      · by_cases done : c.ee ≤ j.epochNo + 1 <;> simp [last, done, nextEpoch, stepTaken]
      · simp [last, midEpoch, stepTaken]

theorem exec_optimiserStep_ending (ending : j.ending = true) : exec (.optimiserStep tag) s = .next (settle (abortTrain c s)) := by
  have run := optimiserStep_eq found cmd index phase rfl
  rw [if_pos ending] at run
  exact congrArg (Host.Outcome.next <| settle ·) run

variable (goes : j.ending = false)
include goes

theorem exec_optimiserStep_waits (withheld : stepGrant c ix j (stepTriples c j).length s = none) :
    exec (.optimiserStep tag) s = .next (settle s) := by
  have run := optimiserStep_eq found cmd index phase rfl
  rw [if_neg (by simp [goes]), withheld] at run
  exact congrArg (Host.Outcome.next <| settle ·) run

theorem exec_optimiserStep_granted {t : State} (granted : stepGrant c ix j (stepTriples c j).length s = some t) :
    exec (.optimiserStep tag) s = .next (settle (stepOn tag c j (stepResult ix c s j) t)) := by
  have run := optimiserStep_eq found cmd index phase rfl
  rw [if_neg (by simp [goes]), granted] at run
  exact congrArg (Host.Outcome.next <| settle ·) run

end

-- The end of a TRAIN.

/-- An index with the W that a TRAIN has learned as its pending projection (R189). -/
def learnedProj (j : TrainJob) (i : Index) : Index := { i with pendingProj := some (bfCodes j.w) }

/-- A TRAIN of W leaves what it has learned as the pending projection of its index (R189). -/
theorem endTrain_pendingProj {c : Cmd} (trains : bit 0 (c.ar 2 1) = true) {j : TrainJob} {f slot : Nat} (facet : j.facet = f)
    (at' : j.slot = slot) {u : State} (created : (idxOf u f slot).isSome = true) :
    (idxOf (endTrain c j u) f slot).map (·.pendingProj) = some (some (bfCodes j.w)) := by
  subst facet at'
  obtain ⟨i, created⟩ := Option.isSome_iff_exists.mp created
  have idx : (endTrain c j u).idx = (updIdx j.facet j.slot (learnedProj j) u).idx := by
    simp only [endTrain, trains, if_true, finish_rest, writeHost_rest, bump_rest, closeStreams_rest, apply_ite State.idx, ite_self]
    cases j.adapterSlot <;> rfl
  rw [idxOf_congr idx, idxOf_updIdx _ _ (learnedProj j) _ fun _ => rfl, created]
  rfl

/-- Settles O39: an ending and a waiting step by what the row does with them, a granted one by how far the job's order and epochs reach. -/
theorem optimiserStepsCount : Obligations.OptimiserStepsCount := by
  unfold Obligations.OptimiserStepsCount
  intro tag s j c ix found cmd index phase ts nodes r o more next
  obtain ⟨tagged, facet, slot⟩ := stepResult_names ix c s j
  refine ⟨exec_optimiserStep_ending found cmd index phase, exec_optimiserStep_waits found cmd index phase, fun goes granted => ?_⟩
  obtain ⟨t, granted⟩ := Option.isSome_iff_exists.mp granted
  have run := exec_optimiserStep_granted found cmd index phase goes granted
  have taken := fun (k : TrainJob) (same : k.tag = j.tag) => stepTaken_leaves granted found same j.facet (stepResult ix c s j).2
  refine ⟨fun within => ?_, fun last further => ?_, fun last done => ?_, fun u trains created => ?_⟩
  · obtain ⟨train, cmds, idx, -⟩ := taken (midEpoch j (stepResult ix c s j).1) tagged
    rw [stepOn, if_neg (Nat.not_le.mpr within)] at run
    exact ⟨_, run, train, cmds, idx⟩
  · obtain ⟨train, cmds, idx, -⟩ := taken (nextEpoch j (stepResult ix c s j).1) tagged
    rw [stepOn, if_pos last, if_neg (Nat.not_le.mpr further)] at run
    exact ⟨_, run, train, cmds, idx⟩
  · obtain ⟨-, cmds, idx, mods⟩ := taken (nextEpoch j (stepResult ix c s j).1) tagged
    rw [stepOn, if_pos last, if_pos done] at run
    exact ⟨_, run, _, rfl, cmds, idx, mods⟩
  · exact endTrain_pendingProj trains (j := nextEpoch j (stepResult ix c s j).1) facet slot created

end Sys2Proof.Machine
end

section
/-! Flash dies: what a change to one die leaves of the others, and what starting reads leaves of all of them (R204, R205, R212). -/

namespace Sys2Proof.Machine

-- One die changed.

theorem dieOf_congr {s t : State} (h : t.flash.dies = s.flash.dies) (ch d : Nat) : dieOf t ch d = dieOf s ch d := by unfold dieOf; rw [h]

/-- An update of a die that leaves it where it is. -/
def KeepsPlace (g : Die → Die) : Prop := ∀ x, (g x).channel = x.channel ∧ (g x).die = x.die

theorem dieOf_updDie_ne {ch d c e : Nat} {g : Die → Die} (place : KeepsPlace g) (s : State) (other : ¬ (c = ch ∧ e = d)) :
    dieOf (updDie ch d g s) c e = dieOf s c e := by
  unfold dieOf updDie
  dsimp only
  rw [find?_upd_ne _ (fun x : Die => x.channel == c && x.die == e) g s.flash.dies (Die.blank ch d)]
  · intro a here
    simp only [Bool.and_eq_true, beq_iff_eq] at here
    have away : (a.channel == c && a.die == e) = false := by
      rw [here.1, here.2, Bool.and_eq_false_iff, beq_eq_false_iff_ne, beq_eq_false_iff_ne]
      omega
    rw [(place a).1, (place a).2]
    exact ⟨away, away⟩
  · rw [(place _).1, (place _).2]
    simp only [Die.blank, Bool.and_eq_false_iff, beq_eq_false_iff_ne]
    omega

/-- A change that keeps some fact of the die itself keeps it of every die. -/
theorem dieOf_updDie_keeps {α : Type} (k : Die → α) {ch d : Nat} {g : Die → Die} (place : KeepsPlace g) {s : State}
    (keeps : k (g (dieOf s ch d)) = k (dieOf s ch d)) (c e : Nat) : k (dieOf (updDie ch d g s) c e) = k (dieOf s c e) := by
  by_cases own : c = ch ∧ e = d
  · obtain ⟨rfl, rfl⟩ := own
    rw [dieOf_updDie _ _ _ _ place, keeps]
  · rw [dieOf_updDie_ne place s own]

theorem updDie_diesOnly (ch d : Nat) (g : Die → Die) (s : State) : DiesOnly s (updDie ch d g s) := rfl

-- Starting reads marks them; nothing else of a die changes.

/-- A read as it was issued, whether or not it has been started since. -/
def Read.issued (r : Read) : Read := { r with started := false, borrowed := false }

/-- A die with its reads as they were issued. -/
def Die.issued (d : Die) : Die := { d with reads := d.reads.map Read.issued }

theorem startPlane_issued (ch d p : Nat) (s : State) (c e : Nat) : (dieOf (startPlane ch d p s) c e).issued = (dieOf s c e).issued := by
  unfold startPlane
  dsimp only
  split
  · rfl
  · split
    · next r b _ =>
      refine dieOf_updDie_keeps Die.issued ?_ ?_ c e
      · exact fun _ => ⟨rfl, rfl⟩
      · simp only [Die.issued]
        rw [updFirst_map]
        exact fun _ => rfl
    · rfl

theorem startPlane_diesOnly (ch d p : Nat) (s : State) : DiesOnly s (startPlane ch d p s) := by
  unfold startPlane
  dsimp only
  split
  · exact .of_eq rfl
  · split
    · exact updDie_diesOnly _ _ _ s
    · exact .of_eq rfl

/-- The state in which a die's planes start their reads: a suspended segment that may go on has resumed. -/
def resumed (ch d : Nat) (s : State) : State :=
  if (dieOf s ch d).suspended && mayResume s (dieOf s ch d) then updDie ch d (resumeSeg (now s)) s else s

theorem resumeSeg_place (t : Nat) : KeepsPlace (resumeSeg t) := by
  intro x
  unfold resumeSeg
  split
  · exact ⟨rfl, rfl⟩
  · exact ⟨rfl, rfl⟩

theorem resumeSeg_reads (t : Nat) (x : Die) : (resumeSeg t x).reads = x.reads := by
  unfold resumeSeg
  split
  · rfl
  · rfl

theorem resumed_diesOnly (ch d : Nat) (s : State) : DiesOnly s (resumed ch d s) := by
  unfold resumed
  split
  · exact updDie_diesOnly _ _ _ s
  · exact .of_eq rfl

theorem startPlanes_diesOnly (ch d : Nat) (s : State) : DiesOnly s (startPlanes ch d s) :=
  foldl_ind (DiesOnly s) _ _ _ (resumed_diesOnly ch d s) fun t p h => h.trans (startPlane_diesOnly ch d p t)

/-- Planes that start reads leave every die as it is but for what has been started. -/
theorem startPlanes_issued (ch d : Nat) (s : State) (c e : Nat) :
    (dieOf (startPlanes ch d s) c e).issued = (dieOf (resumed ch d s) c e).issued :=
  foldl_ind (fun t => (dieOf t c e).issued = (dieOf (resumed ch d s) c e).issued) _ _ _ rfl fun t p h =>
    (startPlane_issued ch d p t c e).trans h

/-- Where no segment resumes, nothing of a die changes but which of its reads have been started. -/
theorem startPlanes_issued_of_stays {ch d : Nat} {s : State} (stays : resumeSeg (now s) (dieOf s ch d) = dieOf s ch d) (c e : Nat) :
    (dieOf (startPlanes ch d s) c e).issued = (dieOf s c e).issued := by
  rw [startPlanes_issued]
  unfold resumed
  split
  · exact dieOf_updDie_keeps Die.issued (resumeSeg_place _) (congrArg Die.issued stays) c e
  · rfl

theorem startPlanes_reads (ch d : Nat) (s : State) (c e : Nat) :
    (dieOf (startPlanes ch d s) c e).reads.map Read.issued = (dieOf s c e).reads.map Read.issued := by
  have started : (dieOf (startPlanes ch d s) c e).issued.reads = (dieOf (resumed ch d s) c e).issued.reads :=
    congrArg Die.reads (startPlanes_issued ch d s c e)
  refine started.trans (congrArg (List.map Read.issued) ?_)
  unfold resumed
  split
  · exact dieOf_updDie_keeps Die.reads (resumeSeg_place _) (resumeSeg_reads _ _) c e
  · rfl

-- Tags of a channel in use (R212).

/-- The reads of a die that hold a tag of a channel. -/
def tagsOn (ch : Nat) (x : Die) : Nat := if x.channel == ch then x.reads.length else 0

theorem tagsUsed_eq_sum (s : State) (ch : Nat) : tagsUsed s ch = (s.flash.dies.map (tagsOn ch)).sum := by
  unfold tagsUsed
  induction s.flash.dies with
  | nil => rfl
  | cons x l ih =>
    rw [List.map_cons, List.sum_cons, ← ih]
    cases here : x.channel == ch
    · simp [tagsOn, here]
    · simp [tagsOn, here]

theorem sum_updFirst_lt {α : Type} {p : α → Bool} {g : α → α} {k : α → Nat} {l : List α} {a : α} (found : l.find? p = some a)
    (less : k (g a) < k a) : ((updFirst p g l).map k).sum < (l.map k).sum := by
  induction l with
  | nil => cases found
  | cons b l ih =>
    cases here : p b
    · have later : l.find? p = some a := by simpa [here] using found
      simpa [updFirst, here] using ih later
    · obtain rfl : b = a := by simpa [here] using found
      simpa [updFirst, here] using less

theorem tagsUsed_updDie {ch d : Nat} {g : Die → Die} (place : KeepsPlace g) (length : ∀ x, (g x).reads.length = x.reads.length) (s : State)
    (c : Nat) : tagsUsed (updDie ch d g s) c = tagsUsed s c := by
  have same : ∀ x, tagsOn c (g x) = tagsOn c x := fun x => by rw [tagsOn, tagsOn, (place x).1, length x]
  have unused : tagsOn c (Die.blank ch d) = 0 := by simp [tagsOn, Die.blank]
  simp only [tagsUsed_eq_sum, updDie]
  split
  · rw [updFirst_map _ _ _ _ same]
  · simp [same, unused]

/-- A die that loses reads frees tags of its channel. -/
theorem tagsUsed_updDie_lt {ch d : Nat} {g : Die → Die} (place : KeepsPlace g) {s : State}
    (less : (g (dieOf s ch d)).reads.length < (dieOf s ch d).reads.length) : tagsUsed (updDie ch d g s) ch < tagsUsed s ch := by
  cases found : s.flash.dies.find? (fun x => x.channel == ch && x.die == d) with
  | none => simp [dieOf, found, Die.blank] at less
  | some a =>
    have die : dieOf s ch d = a := by simp [dieOf, found]
    have here : (a.channel == ch && a.die == d) = true := List.find?_some (p := fun x : Die => x.channel == ch && x.die == d) found
    have listed : (s.flash.dies.any fun x => x.channel == ch && x.die == d) = true :=
      List.any_eq_true.mpr ⟨a, List.mem_of_find?_eq_some found, here⟩
    have channel : a.channel = ch := by simpa using (Bool.and_eq_true_iff.mp here).1
    simp only [tagsUsed_eq_sum, updDie, listed, if_true]
    refine sum_updFirst_lt found ?_
    rw [die] at less
    simpa [tagsOn, (place a).1, channel] using less

theorem startPlane_tagsUsed (ch d p : Nat) (s : State) (c : Nat) : tagsUsed (startPlane ch d p s) c = tagsUsed s c := by
  unfold startPlane
  dsimp only
  split
  · rfl
  · split
    · refine tagsUsed_updDie ?_ ?_ s c
      · exact fun _ => ⟨rfl, rfl⟩
      · exact fun _ => updFirst_length _ _ _
    · rfl

theorem startPlanes_tagsUsed (ch d : Nat) (s : State) (c : Nat) : tagsUsed (startPlanes ch d s) c = tagsUsed s c := by
  have before : tagsUsed (resumed ch d s) c = tagsUsed s c := by
    unfold resumed
    split
    · exact tagsUsed_updDie (resumeSeg_place _) (fun x => by rw [resumeSeg_reads]) s c
    · rfl
  exact foldl_ind (fun t => tagsUsed t c = tagsUsed s c) _ _ _ before fun t p h => (startPlane_tagsUsed ch d p t c).trans h

end Sys2Proof.Machine
end

section
/-! The end of a flash read: its tag, its decoding, and what it leaves (R205, R211, R212, R323, R324). -/

namespace Sys2Proof.Machine

open Sys2Proof.Safety

-- A read queued (R205, R212).

/-- A queued read stands behind those of its die; every die's other reads stay. -/
theorem queueRead_reads (ch d : Nat) (r : Read) (s : State) (c e : Nat) : (dieOf (queueRead ch d r s) c e).reads.map Read.issued =
    (dieOf s c e).reads.map Read.issued ++ (if c = ch ∧ e = d then [r.issued] else []) := by
  have place : KeepsPlace fun x => { x with reads := x.reads ++ [r] } := fun _ => ⟨rfl, rfl⟩
  unfold queueRead
  rw [startPlanes_reads]
  split
  · next own =>
    obtain ⟨rfl, rfl⟩ := own
    rw [dieOf_updDie _ _ _ _ place, List.map_append]
    rfl
  · next other => rw [dieOf_updDie_ne place s other, List.append_nil]

theorem queueRead_diesOnly (ch d : Nat) (r : Read) (s : State) : DiesOnly s (queueRead ch d r s) :=
  (updDie_diesOnly ch d _ s).trans (startPlanes_diesOnly ch d _)

/-- The reads of a channel that wait for a tag, in the order of R205. -/
def tagWaits (s : State) (ch : Nat) : List ((Nat × Nat) × Read) :=
  sortBy (fun a b : (Nat × Nat) × Read => readBefore a.2 b.2) (s.flash.waits.filter (·.1.1 == ch))

/-- The state without a wait for a tag. -/
def waitOver (x : (Nat × Nat) × Read) (s : State) : State :=
  { s with flash := { s.flash with waits := s.flash.waits.filter fun y => y.2.order != x.2.order } }

theorem freeReadTag_none {ch : Nat} {s : State} (none : tagWaits s ch = []) : freeReadTag ch s = s := by
  unfold tagWaits at none
  simp [freeReadTag, none]

theorem freeReadTag_first {ch : Nat} {s : State} {x : (Nat × Nat) × Read} (first : (tagWaits s ch).head? = some x) :
    freeReadTag ch s = queueRead x.1.1 x.1.2 x.2 (waitOver x s) := by
  unfold tagWaits at first
  simp only [freeReadTag, first]
  rfl

theorem mem_waits_of_first {ch : Nat} {s : State} {x : (Nat × Nat) × Read} (first : (tagWaits s ch).head? = some x) : x ∈ s.flash.waits :=
  List.mem_of_mem_filter ((mem_sortBy _ _ _).mp (List.mem_of_mem_head? first))

/-- Of flash a free tag changes the dies and what waits for one. -/
theorem freeReadTag_flash (ch : Nat) (s : State) :
    (freeReadTag ch s).flash = { s.flash with dies := (freeReadTag ch s).flash.dies, waits := (freeReadTag ch s).flash.waits } := by
  cases first : (tagWaits s ch).head? with
  | none => rw [freeReadTag_none (List.head?_eq_none_iff.mp first)]
  | some x =>
    have queued : DiesOnly (waitOver x s) (queueRead x.1.1 x.1.2 x.2 (waitOver x s)) := queueRead_diesOnly _ _ _ _
    unfold DiesOnly at queued
    rw [freeReadTag_first first, queued]
    rfl

-- The plane that a read leaves.

/-- A die whose queue a read has left. -/
def Die.without (r : Read) (x : Die) : Die := { x with reads := x.reads.filter fun y => y.order != r.order }

/-- A read out of its die's queue, and nothing waits for its end (R205, R259). -/
def readGone (ch d : Nat) (r : Read) (s : State) : State := busyEnded (.read r.order) (updDie ch d (Die.without r) s)

theorem leavePlane_eq (ch d : Nat) (r : Read) (s : State) : leavePlane ch d r s = startPlanes ch d (freeReadTag ch (readGone ch d r s)) := rfl

theorem dieOf_readGone (ch d : Nat) (r : Read) (s : State) : dieOf (readGone ch d r s) ch d = (dieOf s ch d).without r :=
  dieOf_updDie ch d (Die.without r) s fun _ => ⟨rfl, rfl⟩

/-- A read that leaves frees its tag. -/
theorem readGone_frees {ch d : Nat} {r : Read} {s : State} (queued : r ∈ (dieOf s ch d).reads) :
    tagsUsed (readGone ch d r s) ch < tagsUsed s ch :=
  tagsUsed_updDie_lt (g := Die.without r) (fun _ => ⟨rfl, rfl⟩) (List.length_filter_lt_length_iff_exists.mpr ⟨r, queued, by simp⟩)

theorem exists_issued {rs : List Read} {r : Read} (h : r.issued ∈ rs.map Read.issued) :
    ∃ y ∈ rs, y.order = r.order ∧ y.unit = r.unit ∧ y.purpose = r.purpose := by
  obtain ⟨y, mem, same⟩ := List.mem_map.mp h
  simp only [Read.issued, Read.mk.injEq] at same
  exact ⟨y, mem, by simp [same]⟩

theorem leavePlane_reads (ch d : Nat) (r : Read) (s : State) (c e : Nat) : (dieOf (leavePlane ch d r s) c e).reads.map Read.issued =
    (dieOf (freeReadTag ch (readGone ch d r s)) c e).reads.map Read.issued := startPlanes_reads ch d _ c e

/-- The read has left its die's queue, unless one that waits goes by the same order. -/
theorem leavePlane_leaves {ch d : Nat} {r : Read} {s : State} (distinct : ∀ x ∈ s.flash.waits, x.2.order ≠ r.order) :
    ∀ y ∈ (dieOf (leavePlane ch d r s) ch d).reads, y.order ≠ r.order := by
  have left : ∀ z ∈ (dieOf (readGone ch d r s) ch d).reads.map Read.issued, z.order ≠ r.order := by
    rw [dieOf_readGone]
    exact List.forall_mem_map.mpr fun y mem => by simpa [Read.issued] using (List.mem_filter.mp mem).2
  have after : ∀ z ∈ (dieOf (leavePlane ch d r s) ch d).reads.map Read.issued, z.order ≠ r.order := by
    rw [leavePlane_reads]
    cases first : (tagWaits (readGone ch d r s) ch).head? with
    | none =>
      rw [freeReadTag_none (List.head?_eq_none_iff.mp first)]
      exact left
    | some x =>
      have waited : x.2.order ≠ r.order := distinct x (mem_waits_of_first first)
      rw [freeReadTag_first first, queueRead_reads]
      intro z mem
      rcases List.mem_append.mp mem with old | new
      · exact left z old
      · split at new
        · rw [List.mem_singleton.mp new]
          exact waited
        · cases new
  exact fun y mem => after y.issued (List.mem_map_of_mem mem)

/-- Without a read that waits for it, the tag is free. -/
theorem leavePlane_frees {ch d : Nat} {r : Read} {s : State} (queued : r ∈ (dieOf s ch d).reads) (none : tagWaits s ch = []) :
    tagsUsed (leavePlane ch d r s) ch < tagsUsed s ch ∧ (leavePlane ch d r s).flash.waits = s.flash.waits := by
  have same : freeReadTag ch (readGone ch d r s) = readGone ch d r s := freeReadTag_none none
  have planes : DiesOnly (readGone ch d r s) (startPlanes ch d (readGone ch d r s)) := startPlanes_diesOnly ch d _
  unfold DiesOnly at planes
  rw [leavePlane_eq, same, startPlanes_tagsUsed]
  refine ⟨readGone_frees queued, ?_⟩
  rw [planes]
  rfl

/-- The first of the reads that wait takes the tag. -/
theorem leavePlane_passes {ch d : Nat} {r : Read} {s : State} {x : (Nat × Nat) × Read} (first : (tagWaits s ch).head? = some x) :
    (leavePlane ch d r s).flash.waits = s.flash.waits.filter (fun y => y.2.order != x.2.order) ∧
      ∃ y ∈ (dieOf (leavePlane ch d r s) x.1.1 x.1.2).reads, y.order = x.2.order ∧ y.unit = x.2.unit ∧ y.purpose = x.2.purpose := by
  have takes : freeReadTag ch (readGone ch d r s) = queueRead x.1.1 x.1.2 x.2 (waitOver x (readGone ch d r s)) := freeReadTag_first first
  have flash : DiesOnly (waitOver x (readGone ch d r s)) (leavePlane ch d r s) := by
    rw [leavePlane_eq, takes]
    exact (queueRead_diesOnly _ _ _ _).trans (startPlanes_diesOnly ch d _)
  refine ⟨congrArg Flash.waits flash, exists_issued ?_⟩
  rw [leavePlane_reads, takes, queueRead_reads, if_pos ⟨rfl, rfl⟩]
  exact List.mem_append_right _ (List.mem_singleton.mpr rfl)

/-- What is lost and what is to be rebuilt stays. -/
theorem leavePlane_units (ch d : Nat) (r : Read) (s : State) :
    (leavePlane ch d r s).flash.lost = s.flash.lost ∧ (leavePlane ch d r s).flash.rebuilding = s.flash.rebuilding := by
  have planes : DiesOnly (freeReadTag ch (readGone ch d r s)) (leavePlane ch d r s) := startPlanes_diesOnly ch d _
  unfold DiesOnly at planes
  rw [planes, freeReadTag_flash]
  exact ⟨rfl, rfl⟩

theorem leavePlane_waiters (ch d : Nat) (r : Read) (s : State) :
    (leavePlane ch d r s).qps = (busyEnded (.read r.order) s).qps ∧ (leavePlane ch d r s).cmds = (busyEnded (.read r.order) s).cmds := by
  simp only [leavePlane_eq, startPlanes_rest, freeReadTag_rest]
  exact ⟨rfl, rfl⟩

-- Units that fail and units that are lost (R324).

/-- Of flash only the re-reads, what is lost and what is to be rebuilt have changed. -/
def Decoded (s t : State) : Prop :=
  t.flash = { s.flash with rereads := t.flash.rereads, lost := t.flash.lost, rebuilding := t.flash.rebuilding }

theorem Decoded.of_eq {s t : State} (h : t.flash = s.flash) : Decoded s t := by unfold Decoded; rw [h]

theorem Decoded.trans {s t u : State} (h : Decoded s t) (k : Decoded t u) : Decoded s u := by
  unfold Decoded at *
  rw [k, h]

theorem noteReread_flash (pl : Nat × Nat × Nat) (sp : Nat × Nat) (n : Nat) (s : State) : (noteReread pl sp n s).flash =
    { s.flash with rereads := s.flash.rereads.bump (blockKey pl.1 pl.2.1 pl.2.2 sp.1) 1 } := by simp [noteReread]

theorem loseUnit_flash (e : Nat) (u : Unit') (s : State) : (loseUnit e u s).flash =
    { s.flash with lost := nub (s.flash.lost ++ [(u, pageEpoch s e u, none)]), rebuilding := s.flash.rebuilding.erase u } := by simp [loseUnit]

theorem noteReread_decoded (pl : Nat × Nat × Nat) (sp : Nat × Nat) (n : Nat) (s : State) : Decoded s (noteReread pl sp n s) := by
  unfold Decoded
  rw [noteReread_flash]

theorem loseUnit_decoded (e : Nat) (u : Unit') (s : State) : Decoded s (loseUnit e u s) := by
  unfold Decoded
  rw [loseUnit_flash]

theorem failUnit_decoded (e : Nat) (u : Unit') (s : State) : Decoded s (failUnit e u s) := by
  unfold failUnit
  dsimp only
  split
  · rfl
  · exact foldl_ind (Decoded s) _ _ _ (loseUnit_decoded e u s) fun t v h => h.trans (loseUnit_decoded _ v t)

theorem pageEpoch_le (s : State) (e : Nat) (u : Unit') : pageEpoch s e u ≤ e := by
  unfold pageEpoch
  cases found : s.flash.pages.find? (fun p => p.1 == u && p.2.1 ≤ e) with
  | none => exact Nat.zero_le e
  | some p =>
    have named := List.find?_some found
    simp only [Bool.and_eq_true, decide_eq_true_eq] at named
    exact named.2

theorem loseUnit_lost (e : Nat) (u : Unit') (s : State) : lostAt (loseUnit e u s) e u = true := by
  unfold lostAt
  rw [loseUnit_flash]
  refine List.any_eq_true.mpr ⟨(u, pageEpoch s e u, none), (mem_nub _ _).mpr (by simp), ?_⟩
  simp [pageEpoch_le]

theorem loseUnit_keeps_lost {e e' : Nat} {u v : Unit'} {s : State} (lost : lostAt s e v = true) : lostAt (loseUnit e' u s) e v = true := by
  obtain ⟨m, mem, marks⟩ := List.any_eq_true.mp lost
  unfold lostAt
  rw [loseUnit_flash]
  exact List.any_eq_true.mpr ⟨m, (mem_nub _ _).mpr (List.mem_append_left _ mem), marks⟩

theorem lostAt_congr {s t : State} (h : t.flash.lost = s.flash.lost) (e : Nat) (u : Unit') : lostAt t e u = lostAt s e u := by
  unfold lostAt; rw [h]

/-- A failed unit whose group is whole is to be rebuilt. -/
theorem failUnit_rebuilds {e : Nat} {u : Unit'} {s : State} (alone : failedMates s u = []) : u ∈ (failUnit e u s).flash.rebuilding := by
  simp [failUnit, alone, mem_nub]

/-- With a second failure in its group a failed unit is lost. -/
theorem failUnit_lost {e : Nat} {u : Unit'} {s : State} (mates : failedMates s u ≠ []) : lostAt (failUnit e u s) e u = true := by
  unfold failUnit
  dsimp only
  rw [if_neg (by simpa using mates)]
  exact foldl_ind (fun t => lostAt t e u = true) _ _ _ (loseUnit_lost e u s) fun _ _ => loseUnit_keeps_lost

/-- A failed read is counted before its unit is judged. -/
def reread (pl : Nat × Nat × Nat) (e : Nat) (u : Unit') (s : State) : State := bumpRas 11 1 (noteReread pl (spotAt s e u) 2 s)

theorem failedMates_reread (pl : Nat × Nat × Nat) (e : Nat) (u : Unit') (s : State) : failedMates (reread pl e u s) u = failedMates s u := by
  simp only [failedMates, parityMates, lostAt, reread, bumpRas_rest, noteReread_flash]

theorem noteRead_decoded (pl : Nat × Nat × Nat) (e : Nat) (u : Unit') (res : ReadResult) (s : State) : Decoded s (noteRead pl e u res s) := by
  have counted : Decoded s (reread pl e u s) := (noteReread_decoded pl _ 2 s).trans (.of_eq rfl)
  cases res with
  | ok n =>
    cases n with
    | zero => exact .of_eq rfl
    | succ n => exact (noteReread_decoded pl _ _ s).trans (.of_eq rfl)
  | failed => exact counted.trans (failUnit_decoded e u _)
  | lost => exact counted.trans (loseUnit_decoded e u _)

theorem noteRead_rebuilds {pl : Nat × Nat × Nat} {e : Nat} {u : Unit'} {s : State} (alone : failedMates s u = []) :
    u ∈ (noteRead pl e u .failed s).flash.rebuilding :=
  failUnit_rebuilds (s := reread pl e u s) ((failedMates_reread pl e u s).trans alone)

theorem noteRead_lost {pl : Nat × Nat × Nat} {e : Nat} {u : Unit'} {res : ReadResult} {s : State}
    (fails : res = .failed ∧ failedMates s u ≠ [] ∨ res = .lost) : lostAt (noteRead pl e u res s) e u = true := by
  rcases fails with ⟨rfl, mates⟩ | rfl
  · have mates' : failedMates (reread pl e u s) u ≠ [] := by rwa [failedMates_reread]
    exact failUnit_lost mates'
  · exact loseUnit_lost e u (reread pl e u s)

-- A read counted (R211, R224).

theorem chargeRead_charged (ch f cls : Nat) (b : Bool) (s : State) : Charged s (chargeRead ch f cls b s) := by
  unfold chargeRead
  dsimp only
  split
  · exact takeBorrowed_charged _ _ _ (charge_charged _ _ _ _ _ (.refl s))
  · exact takeBytes_charged _ _ _ _ _ (charge_charged _ _ _ _ _ (.refl s))

/-- A read charged, as it is when its decoding counts. -/
def paidRead (ch : Nat) (r : Read) (s : State) : State := chargeRead ch r.unit.facet (readClass s r) r.borrowed s

theorem paidRead_flash (ch : Nat) (r : Read) (s : State) : (paidRead ch r s).flash = s.flash := by simp [paidRead]

theorem failedMates_congr {s t : State} (h : t.flash = s.flash) (u : Unit') : failedMates t u = failedMates s u := by
  simp only [failedMates, parityMates, lostAt, h]

theorem countRead_eq (ch d pl : Nat) (r : Read) (res : ReadResult) (s : State) : countRead ch d pl r res s =
    bump r.unit.facet (kFct 4) 4096 (noteRead (ch, d, pl) (readEpoch s r.purpose) r.unit res (paidRead ch r s)) := rfl

theorem countRead_flash (ch d pl : Nat) (r : Read) (res : ReadResult) (s : State) : (countRead ch d pl r res s).flash =
    (noteRead (ch, d, pl) (readEpoch s r.purpose) r.unit res (paidRead ch r s)).flash := rfl

theorem countRead_decoded (ch d pl : Nat) (r : Read) (res : ReadResult) (s : State) : Decoded s (countRead ch d pl r res s) :=
  ((Decoded.of_eq (paidRead_flash ch r s)).trans (noteRead_decoded _ _ _ res _)).trans (.of_eq (countRead_flash ch d pl r res s))

theorem countRead_queries (ch d pl : Nat) (r : Read) (res : ReadResult) (s : State) :
    (countRead ch d pl r res s).srch.queries = s.srch.queries := by
  have srch : (countRead ch d pl r res s).srch = (paidRead ch r s).srch := by simp [countRead_eq]
  rw [srch]
  exact (chargeRead_charged _ _ _ _ s).queries

-- FLASH_READ_COMPLETE.

/-- A read's data as it comes back: that of a unit lost before is not counted (R324; log 60). -/
def arrived (ch d pl : Nat) (r : Read) (res : ReadResult) (s : State) : State :=
  if lostAt s (readEpoch s r.purpose) r.unit then s else countRead ch d pl r res s

/-- Nothing of the flash queues, of what waits, and of the searches has changed with the data. -/
theorem arrived_leaves (ch d pl : Nat) (r : Read) (res : ReadResult) (s : State) : Decoded s (arrived ch d pl r res s) ∧
    (arrived ch d pl r res s).idx = s.idx ∧ (arrived ch d pl r res s).qps = s.qps ∧ (arrived ch d pl r res s).cmds = s.cmds ∧
    (arrived ch d pl r res s).srch.queries = s.srch.queries := by
  unfold arrived
  split
  · exact ⟨.of_eq rfl, rfl, rfl, rfl, rfl⟩
  · exact ⟨countRead_decoded ch d pl r res s, by simp, by simp, by simp, countRead_queries ch d pl r res s⟩

theorem Decoded.dieOf {s t : State} (h : Decoded s t) (ch d : Nat) : Machine.dieOf t ch d = Machine.dieOf s ch d := by
  unfold Decoded at h
  exact dieOf_congr (by rw [h]) ch d

theorem Decoded.waits {s t : State} (h : Decoded s t) : t.flash.waits = s.flash.waits := by
  unfold Decoded at h
  rw [h]

theorem Decoded.tagsUsed {s t : State} (h : Decoded s t) (ch : Nat) : Machine.tagsUsed t ch = Machine.tagsUsed s ch := by
  unfold Decoded at h
  unfold Machine.tagsUsed
  rw [h]

theorem Decoded.tagWaits {s t : State} (h : Decoded s t) (ch : Nat) : Machine.tagWaits t ch = Machine.tagWaits s ch := by
  unfold Machine.tagWaits
  rw [h.waits]

/-- A read answers with data when its unit decodes and was not lost before. -/
def decodes (res : ReadResult) : Bool := match res with
  | .ok _ => true
  | _ => false

theorem exec_flashReadComplete {ch d pl : Nat} {res : ReadResult} {s : State} {r : Read}
    (found : ((dieOf s ch d).reads.find? fun y => y.plane == pl && y.started) = some r) : exec (.flashReadComplete ch d pl res) s =
      .next (settle (readBack r.purpose (decodes res && !lostAt s (readEpoch s r.purpose) r.unit)
        (leavePlane ch d r (arrived ch d pl r res s)))) := by
  have run : readComplete ch d pl res s = settle (readBack r.purpose (decodes res && !lostAt s (readEpoch s r.purpose) r.unit)
      (leavePlane ch d r (arrived ch d pl r res s))) := by
    cases res with
    | ok n => simp only [readComplete, found, decodes, Bool.true_and]; rfl
    | failed => simp only [readComplete, found, decodes, Bool.false_and]; rfl
    | lost => simp only [readComplete, found, decodes, Bool.false_and]; rfl
  exact congrArg Host.Outcome.next run

section
variable {ch d pl : Nat} {r : Read} {s : State} (whole : lostAt s (readEpoch s r.purpose) r.unit = false)
include whole

theorem arrived_whole (res : ReadResult) : arrived ch d pl r res s = countRead ch d pl r res s := by simp [arrived, whole]

/-- A unit that fails alone in its group is to be rebuilt. -/
theorem arrived_rebuilds (alone : failedMates s r.unit = []) : r.unit ∈ (arrived ch d pl r .failed s).flash.rebuilding := by
  rw [arrived_whole whole, countRead_flash]
  exact noteRead_rebuilds ((failedMates_congr (paidRead_flash ch r s) _).trans alone)

/-- A second failure in a group, and a unit that cannot be read, are lost. -/
theorem arrived_lost {res : ReadResult} (fails : res = .failed ∧ failedMates s r.unit ≠ [] ∨ res = .lost) :
    lostAt (arrived ch d pl r res s) (readEpoch s r.purpose) r.unit = true := by
  rw [arrived_whole whole, lostAt_congr (congrArg Flash.lost (countRead_flash ch d pl r res s))]
  refine noteRead_lost ?_
  rwa [failedMates_congr (paidRead_flash ch r s)]

end

/-- Settles O29: by what the read's data leaves, what its plane leaves behind it, and what its decoding does with its unit. -/
theorem flashReadAnswers : Obligations.FlashReadAnswers := by
  unfold Obligations.FlashReadAnswers
  intro ch d pl res s r found gone waits
  obtain ⟨decoded, idx, qps, cmds, queries⟩ := arrived_leaves ch d pl r res s
  obtain ⟨lost, rebuilding⟩ := leavePlane_units ch d r (arrived ch d pl r res s)
  obtain ⟨pairs, commands⟩ := leavePlane_waiters ch d r (arrived ch d pl r res s)
  have queued : r ∈ (dieOf (arrived ch d pl r res s) ch d).reads := decoded.dieOf ch d ▸ List.mem_of_find?_eq_some found
  have waiting : tagWaits (arrived ch d pl r res s) ch = waits := decoded.tagWaits ch
  refine ⟨_, exec_flashReadComplete found, leavePlane ch d r (arrived ch d pl r res s), rfl, fun distinct => ?_, fun none => ?_, fun x first => ?_,
    fun failed whole alone => ?_, fun fails whole => ?_, ?_, ?_, ?_, ?_⟩
  · exact leavePlane_leaves (decoded.waits ▸ distinct)
  · have frees := leavePlane_frees queued (waiting.trans none)
    rwa [decoded.tagsUsed, decoded.waits] at frees
  · have passes := leavePlane_passes (r := r) (d := d) ((congrArg List.head? waiting).trans first)
    rwa [decoded.waits] at passes
  · rw [rebuilding]
    exact failed ▸ arrived_rebuilds whole alone
  · rw [lostAt_congr lost]
    exact arrived_lost whole fails
  · simpa using idx
  · rw [pairs, busyEnded, busyEnded, qps]
  · rw [commands, busyEnded, busyEnded, cmds]
  · simpa using queries

end Sys2Proof.Machine
end

section
/-! Program and erase segments: their start, their suspend point, and their end (R205, R222, R223, R225, R226, R259). -/

namespace Sys2Proof.Machine

open Sys2Proof.Safety

-- FLASH_SEGMENT_START.

/-- A die on which the waiting segment at some place of its queue has started. -/
def Die.seated (g : Seg) (i : Nat) (b : Bool) (t : Nat) (x : Die) : Die :=
  { x with segs := x.segs.eraseIdx i, run := some { g with borrowed := b, since := t }, suspended := false }

section
variable {ch d : Nat} {s : State} {g : Seg} {b : Bool}
  (granted : grantAmong s (unitChannel ch) (fun x : Seg => (x.facet, x.cls)) (segFunded s ch) (dieOf s ch d).segs = some (g, b))
include granted

theorem startSegment_grants (ready : dieReady s ch d = true) (credited : b = true → creditedWaits s ch = false) : startSegment ch d s =
    rotateTo (unitChannel ch) g.facet (updDie ch d (Die.seated g ((dieOf s ch d).segs.idxOf g) b (now s)) s) := by
  have grants : (b && creditedWaits s ch) = false := by
    cases b
    · rfl
    · exact credited rfl
  simp only [startSegment, ready, granted, grants]
  rfl

/-- The granted segment leaves the die's queue and runs from now on. -/
theorem startSegment_seats (ready : dieReady s ch d = true) (credited : b = true → creditedWaits s ch = false) :
    dieOf (startSegment ch d s) ch d =
      (dieOf s ch d).seated g ((dieOf s ch d).segs.idxOf g) b (now s) := by
  rw [startSegment_grants granted ready credited]
  exact dieOf_updDie ch d (Die.seated g ((dieOf s ch d).segs.idxOf g) b (now s)) s fun _ => ⟨rfl, rfl⟩

end

/-- A borrowed grant waits behind the requests with credit. -/
theorem startSegment_waits {ch d : Nat} {s : State} {g : Seg}
    (granted : grantAmong s (unitChannel ch) (fun x : Seg => (x.facet, x.cls)) (segFunded s ch) (dieOf s ch d).segs = some (g, true))
    (credited : creditedWaits s ch = true) : startSegment ch d s = s := by
  simp [startSegment, granted, credited]

-- FLASH_SEGMENT_SUSPEND.

/-- A die whose running segment has been suspended. -/
def Die.suspend (g : Seg) (t : Nat) (x : Die) : Die := { x with suspended := true, run := some { g with since := t } }

theorem dieOf_chargeDie (x : Die) (s : State) (ch d : Nat) : dieOf (chargeDie x s) ch d = dieOf s ch d :=
  dieOf_congr (by simp) ch d

theorem chargeDie_cmds (x : Die) (s : State) : (chargeDie x s).cmds = s.cmds := by simp

theorem cmds_busyEnded_congr {s t : State} (h : t.cmds = s.cmds) (b : Busy) : (busyEnded b t).cmds = (busyEnded b s).cmds := by
  simp only [busyEnded, h]

theorem segments_of_issued {x y : Die} (same : x.issued = y.issued) : x.run = y.run ∧ x.suspended = y.suspended ∧ x.segs = y.segs := by
  simp only [Die.issued, Die.mk.injEq] at same
  obtain ⟨-, -, -, segs, run, suspended⟩ := same
  exact ⟨run, suspended, segs⟩

/-- A suspended segment does not resume while an urgent read waits. -/
theorem resumeSeg_of_urgent {x : Die} (urgent : urgentWaits x = true) (t : Nat) : resumeSeg t x = x := by simp [resumeSeg, urgent]

theorem resumeSeg_of_running {x : Die} (runs : x.suspended = false) (t : Nat) : resumeSeg t x = x := by simp [resumeSeg, runs]

/-- A die whose segment stops: nothing waits for the segment any more, and the planes start reads (R205, R259). -/
def stopsOn (ch d : Nat) (k : Die → Die) (s : State) : State := startPlanes ch d (busyEnded (.segment ch d) (updDie ch d k s))

/-- Where nothing resumes, the die is left as the segment leaves it, but for the reads that have been started. -/
theorem stopsOn_leaves {ch d : Nat} {k : Die → Die} (place : KeepsPlace k) {s : State}
    (stays : ∀ t, resumeSeg t (k (dieOf s ch d)) = k (dieOf s ch d)) :
    (dieOf (stopsOn ch d k s) ch d).issued = (k (dieOf s ch d)).issued ∧ (stopsOn ch d k s).idx = s.idx ∧
      (stopsOn ch d k s).cmds = (busyEnded (.segment ch d) s).cmds := by
  have die : dieOf (busyEnded (.segment ch d) (updDie ch d k s)) ch d = k (dieOf s ch d) := dieOf_updDie ch d k s place
  have cmds : (stopsOn ch d k s).cmds = (busyEnded (.segment ch d) (updDie ch d k s)).cmds := by simp only [stopsOn, startPlanes_rest]
  refine ⟨?_, by simp [stopsOn], cmds.trans rfl⟩
  rw [← die] at stays ⊢
  exact startPlanes_issued_of_stays (stays _) ch d

theorem suspendSegment_yields {ch d : Nat} {s : State} {g : Seg} (run : (dieOf s ch d).run = some g) (runs : (dieOf s ch d).suspended = false)
    (urgent : urgentWaits (dieOf s ch d) = true) : suspendSegment ch d s =
      settle (stopsOn ch d (Die.suspend g (now s)) (chargeDie (dieOf s ch d) s)) := by
  simp only [suspendSegment, run, runs, urgent]
  rfl

theorem exec_flashSegmentSuspend {ch d : Nat} {s : State} {g : Seg} (run : (dieOf s ch d).run = some g)
    (runs : (dieOf s ch d).suspended = false) (urgent : urgentWaits (dieOf s ch d) = true) :
    Settles (.flashSegmentSuspend ch d) s fun t =>
      (dieOf t ch d).run = some { g with since := now s } ∧ (dieOf t ch d).suspended = true ∧
      (dieOf t ch d).segs = (dieOf s ch d).segs ∧ t.idx = s.idx ∧ t.cmds = (busyEnded (.segment ch d) s).cmds := by
  obtain ⟨die, idx, cmds⟩ := stopsOn_leaves (ch := ch) (d := d) (k := Die.suspend g (now s)) (s := chargeDie (dieOf s ch d) s)
    (fun _ => ⟨rfl, rfl⟩) (by rw [dieOf_chargeDie]; exact resumeSeg_of_urgent urgent)
  rw [dieOf_chargeDie] at die
  rw [cmds_busyEnded_congr (chargeDie_cmds _ s)] at cmds
  obtain ⟨stopped, suspended, segs⟩ := segments_of_issued die
  exact ⟨_, congrArg Host.Outcome.next (suspendSegment_yields run runs urgent), stopped, suspended, segs, idx.trans (by simp), cmds⟩

-- FLASH_SEGMENT_COMPLETE.

/-- A die that its segment has left, with what waits for the next one at the head of its queue. -/
def Die.vacant (keep : List Seg) (x : Die) : Die := { x with run := none, segs := keep ++ x.segs }

/-- What is left of a segment that has left its die (R205, R225). -/
def keptSeg (rest : Option Seg) : List Seg := ((rest.filter fun g => g.work != .ended).map fun g => { g with borrowed := false, since := 0 }).toList

section
variable {ch d : Nat} {s : State} {g : Seg} (run : (dieOf s ch d).run = some g) (runs : (dieOf s ch d).suspended = false)
include runs

/-- The die that a segment has left when its time is charged. -/
theorem leaveDie_charged (rest : Option Seg) :
    let u := leaveDie ch d rest (chargeDie (dieOf s ch d) s)
    (dieOf u ch d).run = none ∧ (dieOf u ch d).segs = keptSeg rest ++ (dieOf s ch d).segs ∧ u.cmds = (busyEnded (.segment ch d) s).cmds := by
  obtain ⟨die, -, cmds⟩ := stopsOn_leaves (ch := ch) (d := d) (k := Die.vacant (keptSeg rest)) (s := chargeDie (dieOf s ch d) s)
    (fun _ => ⟨rfl, rfl⟩) (by rw [dieOf_chargeDie]; exact resumeSeg_of_running runs)
  rw [dieOf_chargeDie] at die
  rw [cmds_busyEnded_congr (chargeDie_cmds _ s)] at cmds
  obtain ⟨vacant, -, segs⟩ := segments_of_issued die
  exact ⟨vacant, segs, cmds⟩

include run

theorem segmentComplete_done : segmentComplete ch d .done s =
    settle (segDone g (moveUnits ch g.facet g.cls (sentUnits s g.work) (leaveDie ch d none (chargeDie (dieOf s ch d) s)))) := by
  simp only [segmentComplete, run, runs]
  rfl

theorem segmentComplete_more : segmentComplete ch d .more s = settle (leaveDie ch d (some g) (chargeDie (dieOf s ch d) s)) := by
  simp only [segmentComplete, run, runs]
  rfl

/-- The last segment leaves its die without one, and what its work was for is done. -/
theorem exec_flashSegmentComplete_done : Settles (.flashSegmentComplete ch d .done) s fun w => ∃ u, w = segDone g u ∧
    (dieOf u ch d).run = none ∧ (dieOf u ch d).segs = (dieOf s ch d).segs ∧ u.idx = s.idx ∧ u.cmds = (busyEnded (.segment ch d) s).cmds := by
  obtain ⟨vacant, segs, cmds⟩ := leaveDie_charged runs none
  have dies : ∀ u : State, (moveUnits ch g.facet g.cls (sentUnits s g.work) u).flash.dies = u.flash.dies := fun u => by simp
  refine ⟨_, congrArg Host.Outcome.next (segmentComplete_done run runs), _, rfl, ?_, ?_, by simp, ?_⟩
  · rw [dieOf_congr (dies _), vacant]
  · rw [dieOf_congr (dies _), segs]
    rfl
  · simpa using cmds

/-- A segment with more to come waits at the head of its die's queue. -/
theorem exec_flashSegmentComplete_more (goes : g.work ≠ .ended) : Settles (.flashSegmentComplete ch d .more) s fun u =>
    (dieOf u ch d).run = none ∧ (dieOf u ch d).segs = { g with borrowed := false, since := 0 } :: (dieOf s ch d).segs ∧ u.idx = s.idx ∧
    u.cmds = (busyEnded (.segment ch d) s).cmds := by
  obtain ⟨vacant, segs, cmds⟩ := leaveDie_charged runs (some g)
  have kept : keptSeg (some g) = [{ g with borrowed := false, since := 0 }] := by simp [keptSeg, goes]
  rw [kept] at segs
  exact ⟨_, congrArg Host.Outcome.next (segmentComplete_more run runs), vacant, segs, by simp, cmds⟩

end

/-- Settles O32: a start by its grant, a suspension by the urgent read that waits, an end by what the segment leaves behind it on its die. -/
theorem flashSegmentsRun : Obligations.FlashSegmentsRun := by
  unfold Obligations.FlashSegmentsRun
  refine ⟨⟨fun ch d s b g ready granted credited => ?_, fun ch d s g granted credited => ?_, fun ch d s g run runs urgent _ => ?_⟩,
    fun ch d s g run runs => ⟨?_, fun goes => ?_⟩⟩
  · have die := startSegment_seats granted ready credited
    refine ⟨_, rfl, ?_, ?_, ?_, ?_, by simp, by simp⟩ <;> rw [die]
    · rfl
    · rfl
    · exact List.eraseIdx_idxOf_eq_erase g _
    · rfl
  · exact congrArg Host.Outcome.next (startSegment_waits granted credited)
  · exact exec_flashSegmentSuspend run runs urgent
  · exact exec_flashSegmentComplete_done run runs
  · exact exec_flashSegmentComplete_more run runs goes

end Sys2Proof.Machine
end

section
/-! Streams: the wait-for check and its escape buffers, and blocks that fail their check (R212, R214, R215, R217). -/

namespace Sys2Proof.Machine

open Sys2Proof.Safety

-- WAIT_FOR_CHECK.

theorem updFirst_append_none {α : Type} {p : α → Bool} (g : α → α) {l : List α} {a : α} (none : ∀ x ∈ l, p x = false)
    (own : p a = true) : updFirst p g (l ++ [a]) = l ++ [g a] := by
  induction l with
  | nil => simp [updFirst, own]
  | cons x l ih =>
    have later := ih fun y hy => none y (List.mem_cons_of_mem x hy)
    simp [updFirst, none x (by simp), later]

/-- The escape buffers that a stall is granted: what its older stream needs, as far as the limit, the pool and the stream tags allow. -/
def escapesFor (w : Stall) (s : State) : Nat :=
  min (min (s.mem.escapes.getD w.region 0) ((4096 - tagsTaken s) / 2)) (min 16 (olderStream w).2)

/-- The escape buffers lent, counted and recorded. -/
def escapesLent (w : Stall) (n : Nat) (s : State) : State :=
  record 0x0902 w.facet [w.region, n, (olderStream w).1]
    (bump w.facet (kFct 13) n (bump w.facet (kFct 12) 1 (lendEscapes w.region w.facet (olderStream w).1 n s)))

/-- The stalls behind a service of one of them: over with all it needed, or to be served again. -/
def stallsLeft (w : Stall) (n t : Nat) (l : List (Stall × Option Nat)) : List (Stall × Option Nat) :=
  if min 16 (olderStream w).2 ≤ n then l.filter fun x => !sameStall w x.1
  else updFirst (fun x => sameStall w x.1) (fun x => (lessNeed n x.1, some t)) l

/-- The state with other stalls. -/
def withStalls (l : List (Stall × Option Nat)) (s : State) : State := { s with mem := { s.mem with stalls := l } }

theorem serveStall_lends {w : Stall} {s : State} (grants : 0 < escapesFor w s) : serveStall w s =
    withStalls (stallsLeft w (escapesFor w s) (now s) s.mem.stalls) (escapesLent w (escapesFor w s) s) := by
  have nonzero : (escapesFor w s == 0) = false := by simpa using Nat.ne_of_gt grants
  have lent : serveStall w s = withStalls (stallsLeft w (escapesFor w s) (now s)
      (if escapesFor w s == 0 then s else escapesLent w (escapesFor w s) s).mem.stalls)
      (if escapesFor w s == 0 then s else escapesLent w (escapesFor w s) s) := rfl
  rw [lent, nonzero]
  simp [escapesLent, lendEscapes]

theorem escapesLent_mem (w : Stall) (n : Nat) (s : State) :
    (escapesLent w n s).mem = (lendEscapes w.region w.facet (olderStream w).1 n s).mem := by simp [escapesLent]

theorem escapesLent_told (w : Stall) (n : Nat) (s : State) : Told s (escapesLent w n s) := by
  refine told_trans (told_of_eq ?_ ?_) (record_told _ _ _ _)
  · simp
  · simp

theorem withStalls_told (l : List (Stall × Option Nat)) (s : State) : Told s (withStalls l s) := told_of_eq rfl rfl

section
variable {w : Stall} {s : State}

theorem waitCheck_passes (h : w.producer ≠ w.otherProducer ∨ stallWaited s w = false) : waitCheck w s = s := by
  rcases h with other | early
  · simp [waitCheck, other]
  · simp [waitCheck, early]

theorem waitCheck_cycle (clock : clocked s = true) (cycle : w.producer = w.otherProducer) (waited : stallWaited s w = true) :
    waitCheck w s = ((noteStall w s.mem.stalls).filter (stallDue s w.region)).foldl (fun t x => serveStall x.1 t)
      (withStalls (noteStall w s.mem.stalls) s) := by
  simp only [waitCheck, clock, cycle, waited, bne_self_eq_false]
  rfl

/-- A stream that is stalled already is not served before its check is due again. -/
theorem waitCheck_early (known : (s.mem.stalls.any fun x => sameStall w x.1) = true)
    (early : (s.mem.stalls.all fun x => !stallDue s w.region x) = true) (clock : clocked s = true) (cycle : w.producer = w.otherProducer) :
    waitCheck w s = s := by
  cases waited : stallWaited s w with
  | false => exact waitCheck_passes (.inr waited)
  | true =>
    have same : noteStall w s.mem.stalls = s.mem.stalls := by simp [noteStall, known]
    have none : s.mem.stalls.filter (stallDue s w.region) = [] := by
      rw [List.filter_eq_nil_iff]
      exact fun x mem => by simpa using List.all_eq_true.mp early x mem
    rw [waitCheck_cycle clock cycle waited, same, none]
    rfl

variable (new : (s.mem.stalls.all fun x => x.1.region != w.region) = true)
include new

theorem other_of_new {x : Stall × Option Nat} (mem : x ∈ s.mem.stalls) : x.1.region ≠ w.region := by
  simpa using List.all_eq_true.mp new x mem

theorem not_sameStall_of_new {x : Stall × Option Nat} (mem : x ∈ s.mem.stalls) : sameStall w x.1 = false := by
  have other := other_of_new new mem
  simp [sameStall, Ne.symm other]

theorem noteStall_new : noteStall w s.mem.stalls = s.mem.stalls ++ [(w, none)] := by
  have unknown : (s.mem.stalls.any fun x => sameStall w x.1) = false :=
    List.any_eq_false.mpr fun x mem => by simp [not_sameStall_of_new new mem]
  simp [noteStall, unknown]

/-- Of the region's stalls the new one alone is due. -/
theorem waitCheck_serves (clock : clocked s = true) (cycle : w.producer = w.otherProducer) (waited : stallWaited s w = true) :
    waitCheck w s = serveStall w (withStalls (s.mem.stalls ++ [(w, none)]) s) := by
  have others : s.mem.stalls.filter (stallDue s w.region) = [] := by
    rw [List.filter_eq_nil_iff]
    exact fun x mem => by simp [stallDue, other_of_new new mem]
  have own : stallDue s w.region (w, none) = true := by simp [stallDue]
  rw [waitCheck_cycle clock cycle waited, noteStall_new new, List.filter_append, others]
  simp [own]

/-- With all that it needs, the new stall is over. -/
theorem stallsLeft_over {n : Nat} (enough : min 16 (olderStream w).2 ≤ n) (t : Nat) :
    stallsLeft w n t (s.mem.stalls ++ [(w, none)]) = s.mem.stalls := by
  have kept : (s.mem.stalls.filter fun x => !sameStall w x.1) = s.mem.stalls :=
    List.filter_eq_self.mpr fun x mem => by simp [not_sameStall_of_new new mem]
  have own : sameStall w w = true := by simp [sameStall]
  rw [stallsLeft, if_pos enough, List.filter_append, kept]
  simp [own]

/-- With less, it waits for its next service with the rest of its need. -/
theorem stallsLeft_waits {n : Nat} (short : n < min 16 (olderStream w).2) (t : Nat) :
    stallsLeft w n t (s.mem.stalls ++ [(w, none)]) = s.mem.stalls ++ [(lessNeed n w, some t)] := by
  rw [stallsLeft, if_neg (Nat.not_le.mpr short)]
  exact updFirst_append_none _ (fun x mem => not_sameStall_of_new new mem) (by simp [sameStall])

theorem exec_waitForCheck (clock : clocked s = true) (cycle : w.producer = w.otherProducer) (waited : stallWaited s w = true)
    (grants : 0 < escapesFor w s) : exec (.waitForCheck w) s =
      .next (withStalls (stallsLeft w (escapesFor w s) (now s) (s.mem.stalls ++ [(w, none)]))
        (escapesLent w (escapesFor w s) (withStalls (s.mem.stalls ++ [(w, none)]) s))) :=
  congrArg Host.Outcome.next ((waitCheck_serves new clock cycle waited).trans
    (serveStall_lends (s := withStalls (s.mem.stalls ++ [(w, none)]) s) grants))

end

-- STREAM_BLOCK_RESEND.

section
variable {c : Consumer} {b : Nat} {crc : BitVec 32} {s : State}

theorem blockMismatch_stored (stored : storedCheck s c b = some crc) : blockMismatch c b crc s = s := by simp [blockMismatch, stored]

variable (facet : consumerFacet s c < 64) (fails : storedCheck s c b ≠ some crc)
include facet fails

/-- A failure that is re-sent: the block's resends are counted. -/
theorem blockMismatch_resends (few : look 0 (c, b) s.srch.resends < 3) : blockMismatch c b crc s =
    bump (consumerFacet s c) (kFct 10) 1 { bumpRas 27 1 s with
      srch := { s.srch with resends := put (c, b) (look 0 (c, b) s.srch.resends + 1) s.srch.resends } } := by
  simp only [blockMismatch, Nat.not_le.mpr facet, decide_false, beq_eq_false_iff_ne.mpr fails, few, if_true]
  rfl

/-- What a failure behind the third resend leaves before the block is poisoned: it is recorded and counted, and its resends are forgotten. -/
def givenUp (c : Consumer) (b : Nat) (s : State) : State :=
  let d := streamFacts s c b
  let t := record 0x0205 (consumerFacet s c) [d.1, d.2.1, consumerTier s c, d.2.2 % 2 ^ 32, d.2.2 / 2 ^ 32] (bumpRas 27 1 s)
  bump (consumerFacet s c) (kFct 11) 1 { t with srch := { t.srch with resends := t.srch.resends.filter (·.1 != (c, b)) } }

theorem blockMismatch_poisons (many : 3 ≤ look 0 (c, b) s.srch.resends) :
    blockMismatch c b crc s = rebuildBlock c b (poison c b (givenUp c b s)) := by
  simp only [blockMismatch, Nat.not_le.mpr facet, decide_false, beq_eq_false_iff_ne.mpr fails, Nat.not_lt.mpr many, if_false]
  rfl

end

theorem givenUp_told (c : Consumer) (b : Nat) (s : State) : Told s (givenUp c b s) := by
  have counted : Told s (bumpRas 27 1 s) := told_of_eq rfl rfl
  exact told_trans (told_trans counted (record_told _ _ _ _)) (told_of_eq rfl rfl)

theorem givenUp_resends (c : Consumer) (b : Nat) (s : State) : (givenUp c b s).srch.resends = s.srch.resends.filter (·.1 != (c, b)) := by
  simp [givenUp]

theorem givenUp_touches (c : Consumer) (b : Nat) (s : State) : givenUp c b s =
    { s with mem := (givenUp c b s).mem, facets := (givenUp c b s).facets, evr := (givenUp c b s).evr, hif := (givenUp c b s).hif,
             out := (givenUp c b s).out, srch := { s.srch with resends := (givenUp c b s).srch.resends } } := by
  apply State.ext_of_fields <;> simp [givenUp]

/-- Settles O38: a check by the new stall that it serves, a failing block by how often it has been re-sent. -/
theorem streamsAreCheckedAndResent : Obligations.StreamsAreCheckedAndResent := by
  unfold Obligations.StreamsAreCheckedAndResent
  refine ⟨fun w s => ?_, fun c b crc s facet => ⟨fun stored => ?_, fun fails few => ?_, fun fails many => ?_⟩⟩
  · intro pool o n
    refine ⟨fun clock cycle waited new grants => ?_, fun clock cycle known early => ?_, fun passes => ?_⟩
    · refine ⟨_, exec_waitForCheck new clock cycle waited grants, ?_, ?_, fun enough => ?_, fun short => ?_, ?_, ?_⟩
      · exact congrArg Mem.escapes (escapesLent_mem w n _)
      · exact congrArg Mem.grants (escapesLent_mem w n _)
      · exact stallsLeft_over new enough _
      · exact stallsLeft_waits new short _
      · apply State.ext_of_fields <;> simp [withStalls, escapesLent, lendEscapes]
      · exact told_trans (withStalls_told _ s) (told_trans (escapesLent_told w n _) (withStalls_told _ _))
    · exact congrArg Host.Outcome.next (waitCheck_early known early clock cycle)
    · exact congrArg Host.Outcome.next (waitCheck_passes passes)
  · exact congrArg Host.Outcome.next (blockMismatch_stored stored)
  · exact answers_of_run (congrArg Host.Outcome.next (blockMismatch_resends facet fails few)) ⟨look_put _ _ _ _, rfl⟩
  · refine answers_of_run (congrArg Host.Outcome.next (blockMismatch_poisons facet fails many)) ⟨givenUp c b s, rfl, ?_, givenUp_told c b s,
      givenUp_touches c b s⟩
    rw [givenUp_resends]
    simp

end Sys2Proof.Machine
end

section
/-! Memory faults: failing HBM rows, frames retired and rebuilt, and uncorrectable errors in stacked memory (R198, R319 to R322). -/

namespace Sys2Proof.Machine

open Sys2Proof.Safety

-- Faults that touch the memory's own state alone.

/-- Nothing changed but the memory's own state, and what an event records and tells. -/
def MemoryOnly (s t : State) : Prop := t = { s with mem := t.mem, evr := t.evr, hif := t.hif, out := t.out }

theorem MemoryOnly.of_mem {s t : State} (h : t = { s with mem := t.mem }) : MemoryOnly s t := by
  unfold MemoryOnly
  rw [h]

theorem MemoryOnly.trans {s t u : State} (h : MemoryOnly s t) (k : MemoryOnly t u) : MemoryOnly s u := by
  unfold MemoryOnly at *
  rw [k, h]

theorem record_memoryOnly (code subject : Nat) (snap : List Nat) (s : State) : MemoryOnly s (record code subject snap s) := by
  apply State.ext_of_fields <;> simp

-- What carries PARTIAL (R101, R198, R321).

/-- Of the search state only flags of queries, ENCODEs and TRAINs have changed, and nothing else of the module. -/
def Flagged (s t : State) : Prop :=
  t = { s with srch := { s.srch with queries := t.srch.queries, enc := t.srch.enc, train := t.srch.train } }

theorem Flagged.trans {s t u : State} (h : Flagged s t) (k : Flagged t u) : Flagged s u := by
  unfold Flagged at *
  rw [k, h]

theorem markPartial_flagged (xs : List Nat) (s : State) : Flagged s (markPartial xs s) := rfl

theorem partialCmd_flagged (t : Nat) (s : State) : Flagged s (partialCmd t s) := rfl

theorem loseRun_flagged (stack ch frame : Nat) (s : State) : Flagged s (loseRun stack ch frame s) :=
  foldl_ind (Flagged s) _ _ _ (markPartial_flagged _ s) fun t n h => h.trans (partialCmd_flagged n t)

/-- The queries of some contexts carry PARTIAL. -/
def Marked (xs : List Nat) (s : State) : Prop := ∀ q ∈ s.srch.queries, q.ctx ∈ xs → q.partialFlag = true

theorem markPartial_marked (xs : List Nat) (s : State) : Marked xs (markPartial xs s) := by
  intro q mem ctx
  obtain ⟨p, -, rfl⟩ := List.mem_map.mp mem
  split
  · rfl
  · next out =>
    rw [if_neg out] at ctx
    exact absurd (List.contains_iff_mem.mpr ctx) out

/-- A query that carries PARTIAL keeps it. -/
theorem markPartial_keeps {xs : List Nat} (ys : List Nat) {s : State} (h : Marked xs s) : Marked xs (markPartial ys s) := by
  intro q mem ctx
  obtain ⟨p, was, rfl⟩ := List.mem_map.mp mem
  split
  · rfl
  · next out =>
    rw [if_neg out] at ctx
    exact h p was ctx

theorem loseRun_marked (stack ch frame : Nat) (s : State) : Marked (contextsAt stack ch frame) (loseRun stack ch frame s) :=
  foldl_ind (Marked (contextsAt stack ch frame)) _ _ _ (markPartial_marked _ s) fun _ _ h => markPartial_keeps _ h

/-- The queries of a command carry PARTIAL behind an error in what it read. -/
theorem partialCmd_queries {t : Nat} {s : State} {q : Query} (mem : q ∈ (partialCmd t s).srch.queries) (own : ofTag t q = true) :
    q.partialFlag = true := by
  obtain ⟨p, was, rfl⟩ := List.mem_map.mp mem
  split
  · rfl
  · next out =>
    rw [if_neg out] at own
    exact absurd (List.contains_iff_mem.mpr (List.mem_map_of_mem (List.mem_filter.mpr ⟨was, own⟩))) out

theorem partialCmd_enc {t : Nat} {s : State} {j : EncJob} (found : (partialCmd t s).srch.enc.find? (·.tag == t) = some j) :
    j.partialFlag = true := by
  have flagged : (partialCmd t s).srch.enc.find? (·.tag == t) = (s.srch.enc.find? (·.tag == t)).map fun j => { j with partialFlag := true } :=
    find?_updFirst _ _ _ fun _ h => h
  obtain ⟨k, -, rfl⟩ := Option.map_eq_some_iff.mp (flagged.symm.trans found)
  rfl

theorem partialCmd_train {t : Nat} {s : State} {j : TrainJob} (found : (partialCmd t s).srch.train.find? (·.tag == t) = some j) :
    j.partialFlag = true := by
  have flagged : (partialCmd t s).srch.train.find? (·.tag == t) = (s.srch.train.find? (·.tag == t)).map fun j => { j with partialFlag := true } :=
    find?_updFirst _ _ _ fun _ h => h
  obtain ⟨k, -, rfl⟩ := Option.map_eq_some_iff.mp (flagged.symm.trans found)
  rfl

-- A row's failure counted (R319, R321, R369).

/-- The state once what a failing row takes with it carries PARTIAL: an uncorrectable one alone takes something. -/
def rowLoses (k : Bool) (stack ch frame : Nat) (s : State) : State := if k then s else loseRun stack ch frame s

theorem rowLoses_flagged (k : Bool) (stack ch frame : Nat) (s : State) : Flagged s (rowLoses k stack ch frame s) := by
  cases k
  · exact loseRun_flagged stack ch frame s
  · rfl

/-- A failing row with its errors and its failure counted. -/
def rowCounted (stack ch bank row frame : Nat) (k : Bool) (s : State) : State :=
  let s0 := if k then bumpRas 8 (4 - look 0 (stack, ch, bank, row) s.mem.rowErrs) s else bumpRas 9 1 (loseRun stack ch frame s)
  bumpRas 25 1 { s0 with mem := { s0.mem with rowErrs := s0.mem.rowErrs.filter (·.1 != (stack, ch, bank, row)) } }

/-- Beside what it takes with it, a row's failure only counts. -/
theorem rowCounted_counts (stack ch bank row frame : Nat) (k : Bool) (s : State) :
    rowCounted stack ch bank row frame k s = { rowLoses k stack ch frame s with mem := (rowCounted stack ch bank row frame k s).mem } ∧
    (rowCounted stack ch bank row frame k s).mem =
      { s.mem with ras := (rowCounted stack ch bank row frame k s).mem.ras, rowErrs := (rowCounted stack ch bank row frame k s).mem.rowErrs } := by
  cases k
  · have mem : (loseRun stack ch frame s).mem = s.mem := by simp
    refine ⟨rfl, ?_⟩
    rw [← mem]
    rfl
  · exact ⟨rfl, rfl⟩

/-- A row remapped, with its frame to be rebuilt in place. -/
def rowRemapped (stack ch bank row frame : Nat) (k : Bool) (s : State) : State :=
  bumpRas 14 1 (rebuildFrame stack frame false (!k) { s with mem := { s.mem with
    remapped := s.mem.remapped ++ [(stack, ch, bank, row)], softRepairs := s.mem.softRepairs + 1 } })

theorem rowRemapped_told (stack ch bank row frame : Nat) (k : Bool) (s : State) : Told s (rowRemapped stack ch bank row frame k s) :=
  told_of_eq rfl rfl

theorem rowRemapped_mem (stack ch bank row frame : Nat) (k : Bool) (s : State) : (rowRemapped stack ch bank row frame k s).mem =
    { s.mem with remapped := s.mem.remapped ++ [(stack, ch, bank, row)], softRepairs := s.mem.softRepairs + 1,
                 rebuilding := s.mem.rebuilding ++ [(stack, frame, false, !k)], ras := s.mem.ras.bump 14 1 } := rfl

section
variable {stack ch bank row frame : Nat} {k : Bool} {s : State} (clock : clocked s = true)
include clock

/-- A row of a bank with a spare is remapped and recorded. -/
theorem rowFailure_remaps (fresh : s.mem.remapped.contains (stack, ch, bank, row) = false) (spare : 0 < sparesLeft s stack ch bank) :
    rowFailure stack ch bank row frame k s =
      record 0x0201 (subj [stack, ch, bank]) [row, if k then 4 else 1, sparesLeft s stack ch bank - 1]
        (rowRemapped stack ch bank row frame k (rowCounted stack ch bank row frame k s)) := by
  simp only [rowFailure, clock, fresh, spare]
  rfl

/-- Without a spare its frame goes. -/
theorem rowFailure_retires (none : ¬ (s.mem.remapped.contains (stack, ch, bank, row) = false ∧ 0 < sparesLeft s stack ch bank)) :
    rowFailure stack ch bank row frame k s = retireFrame stack row frame k (rowCounted stack ch bank row frame k s) := by
  have out : (!s.mem.remapped.contains (stack, ch, bank, row) && decide (0 < sparesLeft s stack ch bank)) = false := by
    rw [Bool.eq_false_iff]
    simpa using none
  simp only [rowFailure, clock, out]
  rfl

end

-- A frame retired (R320, R322).

/-- A frame on the list of those retired. -/
def frameGone (stack frame : Nat) (s : State) : State :=
  bumpRas 15 1 { s with mem := { s.mem with retired := s.mem.retired ++ [(stack, frame)] } }

/-- The number of frames retired, with one more. -/
def goneCount (stack frame : Nat) (s : State) : Nat := (frameGone stack frame s).mem.retired.length

/-- A frame retired, with its record. -/
def frameNoted (stack row frame : Nat) (k : Bool) (s : State) : State :=
  record 0x0202 frame [stack, row, flagBit 0 (!k), goneCount stack frame s] (frameGone stack frame s)

/-- The capacity is degraded (R322). -/
def degraded (s : State) : State := { s with mem := { s.mem with degraded := true } }

/-- A frame retired and recorded, before its replacement is taken. -/
def frameRetired (stack row frame : Nat) (k : Bool) (s : State) : State :=
  let t := frameNoted stack row frame k s
  if goneCount stack frame s == 4096 then record 0x0203 0 [goneCount stack frame s, hbmBytes t / 2 ^ 20] (degraded t) else t

theorem retireFrame_again {stack row frame : Nat} {k : Bool} {s : State} (again : (stack, frame) ∈ s.mem.retired) :
    retireFrame stack row frame k s = s := by simp [retireFrame, again]

theorem retireFrame_first {stack row frame : Nat} {k : Bool} {s : State} (first : (stack, frame) ∉ s.mem.retired) :
    retireFrame stack row frame k s = takeReplacement stack frame k (frameRetired stack row frame k s) := by
  unfold retireFrame
  rw [if_neg (by simpa using first)]
  rfl

theorem frameRetired_memoryOnly (stack row frame : Nat) (k : Bool) (s : State) : MemoryOnly s (frameRetired stack row frame k s) := by
  apply State.ext_of_fields <;> simp [frameRetired, degraded, frameNoted, frameGone]

theorem goneCount_eq (stack frame : Nat) (s : State) : goneCount stack frame s = s.mem.retired.length + 1 := by
  simp [goneCount, frameGone, bumpRas]

theorem frameNoted_mem (stack row frame : Nat) (k : Bool) (s : State) : (frameNoted stack row frame k s).mem =
    { s.mem with ras := s.mem.ras.bump 15 1, retired := s.mem.retired ++ [(stack, frame)] } := by
  simp [frameNoted, frameGone, bumpRas]

theorem frameRetired_mem (stack row frame : Nat) (k : Bool) (s : State) : (frameRetired stack row frame k s).mem =
    { s.mem with ras := s.mem.ras.bump 15 1, retired := s.mem.retired ++ [(stack, frame)],
                 degraded := s.mem.degraded || (s.mem.retired.length + 1 == 4096) } := by
  unfold frameRetired
  rw [goneCount_eq]
  split
  · next last => simp [degraded, frameNoted_mem, last]
  · next more => rw [frameNoted_mem, Bool.eq_false_iff.mpr more, Bool.or_false]

theorem frameNoted_told (stack row frame : Nat) (k : Bool) (s : State) : Told s (frameNoted stack row frame k s) :=
  told_trans (told_of_eq rfl rfl : Told s (frameGone stack frame s)) (record_told _ _ _ _)

theorem frameRetired_told (stack row frame : Nat) (k : Bool) (s : State) : Told s (frameRetired stack row frame k s) := by
  have noted := frameNoted_told stack row frame k s
  unfold frameRetired
  split
  · exact told_trans noted (told_trans (told_of_eq rfl rfl : Told _ (degraded _)) (record_told _ _ _ _))
  · exact noted

theorem takeReplacement_rebuilds {stack frame : Nat} {k : Bool} {s : State} (left : 0 < s.mem.pool) : takeReplacement stack frame k s =
    rebuildFrame stack frame true (!k) { s with mem := { s.mem with pool := s.mem.pool - 1 } } := by
  simp [takeReplacement, Nat.ne_of_gt left]

theorem takeReplacement_freezes {stack frame : Nat} {k : Bool} {s : State} (empty : s.mem.pool = 0) : takeReplacement stack frame k s =
    (frameHolders s stack frame).foldl (fun t f => freezeFacet f cauFacetFault t) s := by simp [takeReplacement, empty]

theorem frameHolders_congr {s t : State} (cfg : t.cfg = s.cfg) (checks : t.mem.checks = s.mem.checks) (moved : t.mem.moved = s.mem.moved)
    (stack frame : Nat) : frameHolders t stack frame = frameHolders s stack frame := by
  have holds : inFrame t stack frame = inFrame s stack frame := by
    funext c
    simp only [inFrame, frameAt, frameStack, shareStacks, cfg, moved]
  simp only [frameHolders, checks, holds]

-- Facets frozen one after the other (R256, R322).

/-- A pair of some facets is frozen with a cause. -/
def PairFrozen (cause : Nat) (fs : List Nat) (q : Qp) : Prop := q.num ≠ 0 → q.facet ∈ fs → cause ∈ q.causes ∧ q.state ≠ 1

theorem freezeQp_frozen (cause : Nat) (q : Qp) : cause ∈ (freezeQp cause q).causes ∧ (freezeQp cause q).state ≠ 1 := by
  unfold freezeQp
  constructor
  · dsimp only
    split
    · next known => exact List.contains_iff_mem.mp known
    · exact List.mem_cons_self
  · dsimp only
    split
    · decide
    · decide

theorem freezeFacets_qps (cause : Nat) (fs : List Nat) (s : State) :
    (fs.foldl (fun t f => freezeFacet f cause t) s).qps.length = s.qps.length ∧
    ∀ gs : List Nat, (∀ q ∈ s.qps, PairFrozen cause gs q) →
      ∀ q ∈ (fs.foldl (fun t f => freezeFacet f cause t) s).qps, PairFrozen cause (gs ++ fs) q := by
  induction fs generalizing s with
  | nil => exact ⟨rfl, fun gs h => by simpa using h⟩
  | cons f fs ih =>
    obtain ⟨length, frozen⟩ := ih (freezeFacet f cause s)
    refine ⟨length.trans (by simp [freezeFacet_qps]), fun gs h => ?_⟩
    have next : ∀ q ∈ (freezeFacet f cause s).qps, PairFrozen cause (gs ++ [f]) q := by
      rw [freezeFacet_qps]
      intro q mem
      obtain ⟨p, was, rfl⟩ := List.mem_map.mp mem
      split
      · exact fun _ _ => freezeQp_frozen cause p
      · next other =>
        intro num own
        rcases List.mem_append.mp own with before | now
        · exact h p was num before
        · exact absurd (List.mem_singleton.mp now) (by simpa [num] using other)
    have later := frozen (gs ++ [f]) next
    rwa [List.append_assoc] at later

/-- Freezing facets changes facets and pairs alone. -/
theorem freezeFacets_touches (cause : Nat) (fs : List Nat) (s : State) :
    let t := fs.foldl (fun t f => freezeFacet f cause t) s
    t = { s with facets := t.facets, qps := t.qps } := by
  refine foldl_ind (fun t => t = { s with facets := t.facets, qps := t.qps }) _ _ _ rfl fun t f h => ?_
  have one : freezeFacet f cause t = { t with facets := (freezeFacet f cause t).facets, qps := (freezeFacet f cause t).qps } := by
    apply State.ext_of_fields <;> simp
  rw [one, h]

-- HBM_ROW_FAILURE.

section
variable {stack ch bank row frame : Nat} {k : Bool} {s : State}

theorem rowCounted_memoryOnly :
    MemoryOnly (rowLoses k stack ch frame s) (rowCounted stack ch bank row frame k s) :=
  .of_mem (rowCounted_counts stack ch bank row frame k s).1

theorem rowCounted_told : Told s (rowCounted stack ch bank row frame k s) := by
  have flagged : Flagged s (rowLoses k stack ch frame s) := rowLoses_flagged k stack ch frame s
  unfold Flagged at flagged
  rw [(rowCounted_counts stack ch bank row frame k s).1, flagged]
  exact told_of_eq rfl rfl

theorem exec_hbmRowFailure {u : State} (run : rowFailure stack ch bank row frame k s = u) :
    exec (.hbmRowFailure stack ch bank row frame k) s = .next (countHealth s u) :=
  congrArg (fun v => Host.Outcome.next (countHealth s v)) run

theorem rowFailure_remapped (clock : clocked s = true) (fresh : s.mem.remapped.contains (stack, ch, bank, row) = false)
    (spare : 0 < sparesLeft s stack ch bank) :
    ∃ u, exec (.hbmRowFailure stack ch bank row frame k) s = .next (countHealth s u) ∧
      u.mem.remapped = s.mem.remapped ++ [(stack, ch, bank, row)] ∧ u.mem.softRepairs = s.mem.softRepairs + 1 ∧
      u.mem.rebuilding = s.mem.rebuilding ++ [(stack, frame, false, !k)] ∧ u.mem.retired = s.mem.retired ∧ Told s u ∧
      MemoryOnly (rowLoses k stack ch frame s) u := by
  have counted := (rowCounted_counts stack ch bank row frame k s).2
  have remapped : MemoryOnly (rowCounted stack ch bank row frame k s)
      (rowRemapped stack ch bank row frame k (rowCounted stack ch bank row frame k s)) := .of_mem rfl
  have mem := rowRemapped_mem stack ch bank row frame k (rowCounted stack ch bank row frame k s)
  rw [counted] at mem
  refine ⟨_, exec_hbmRowFailure (rowFailure_remaps clock fresh spare), ?_, ?_, ?_, ?_, ?_, ?_⟩
  · simp [mem]
  · simp [mem]
  · simp [mem]
  · simp [mem]
  · exact told_trans rowCounted_told (told_trans (rowRemapped_told _ _ _ _ _ _ _) (record_told _ _ _ _))
  · exact rowCounted_memoryOnly.trans (remapped.trans (record_memoryOnly _ _ _ _))

/-- What retiring a row's frame leaves before its replacement is taken. -/
def rowGone (stack ch bank row frame : Nat) (k : Bool) (s : State) : State :=
  frameRetired stack row frame k (rowCounted stack ch bank row frame k s)

theorem rowGone_told : Told s (rowGone stack ch bank row frame k s) := told_trans rowCounted_told (frameRetired_told _ _ _ _ _)

theorem rowGone_memoryOnly : MemoryOnly (rowLoses k stack ch frame s) (rowGone stack ch bank row frame k s) :=
  rowCounted_memoryOnly.trans (frameRetired_memoryOnly _ _ _ _ _)

/-- The frame is on the list of those retired, and the 4,096th degrades the capacity; pool, rebuilds and data stay. -/
theorem rowGone_mem : (rowGone stack ch bank row frame k s).mem =
    { s.mem with ras := (rowGone stack ch bank row frame k s).mem.ras, rowErrs := (rowGone stack ch bank row frame k s).mem.rowErrs,
                 retired := s.mem.retired ++ [(stack, frame)], degraded := s.mem.degraded || (s.mem.retired.length + 1 == 4096) } := by
  have mem := frameRetired_mem stack row frame k (rowCounted stack ch bank row frame k s)
  rw [(rowCounted_counts stack ch bank row frame k s).2] at mem
  unfold rowGone
  rw [mem]

section
variable (clock : clocked s = true) (noSpare : ¬ (s.mem.remapped.contains (stack, ch, bank, row) = false ∧ 0 < sparesLeft s stack ch bank))
include clock noSpare

theorem rowFailure_first (first : (stack, frame) ∉ s.mem.retired) :
    rowFailure stack ch bank row frame k s = takeReplacement stack frame k (rowGone stack ch bank row frame k s) := by
  rw [rowFailure_retires clock noSpare, retireFrame_first]
  · rfl
  · rwa [(rowCounted_counts stack ch bank row frame k s).2]

/-- With a frame in the pool the retired one is rebuilt there. -/
theorem rowFailure_replaced (first : (stack, frame) ∉ s.mem.retired) (left : 0 < s.mem.pool) :
    ∃ u, exec (.hbmRowFailure stack ch bank row frame k) s = .next (countHealth s u) ∧
      (u.mem.retired = s.mem.retired ++ [(stack, frame)] ∧ u.mem.degraded = (s.mem.degraded || (s.mem.retired.length + 1 == 4096)) ∧ Told s u) ∧
      u.mem.pool = s.mem.pool - 1 ∧ u.mem.rebuilding = s.mem.rebuilding ++ [(stack, frame, true, !k)] ∧
      MemoryOnly (rowLoses k stack ch frame s) u := by
  have mem := rowGone_mem (stack := stack) (ch := ch) (bank := bank) (row := row) (frame := frame) (k := k) (s := s)
  have pool : (rowGone stack ch bank row frame k s).mem.pool = s.mem.pool := by rw [mem]
  have rebuilding : (rowGone stack ch bank row frame k s).mem.rebuilding = s.mem.rebuilding := by rw [mem]
  have run := (rowFailure_first (k := k) clock noSpare first).trans (takeReplacement_rebuilds (pool ▸ left))
  refine ⟨_, exec_hbmRowFailure run, ⟨?_, ?_, ?_⟩, ?_, ?_, ?_⟩
  · exact congrArg Mem.retired mem
  · exact congrArg Mem.degraded mem
  · exact told_trans rowGone_told (told_of_eq rfl rfl)
  · exact congrArg (· - 1) pool
  · exact congrArg (· ++ [(stack, frame, true, !k)]) rebuilding
  · exact rowGone_memoryOnly.trans (.of_mem rfl)

/-- With an empty pool every facet that has data in the frame freezes. -/
theorem rowFailure_freezes (first : (stack, frame) ∉ s.mem.retired) (empty : s.mem.pool = 0) :
    ∃ u, exec (.hbmRowFailure stack ch bank row frame k) s = .next (countHealth s u) ∧
      (u.mem.retired = s.mem.retired ++ [(stack, frame)] ∧ u.mem.degraded = (s.mem.degraded || (s.mem.retired.length + 1 == 4096)) ∧ Told s u) ∧
      u.mem.pool = 0 ∧ u.mem.rebuilding = s.mem.rebuilding ∧ (∀ f ∈ frameHolders s stack frame, (facetOf u f).state ≠ 1) ∧
      u.qps.length = s.qps.length ∧ (∀ q ∈ u.qps, PairFrozen cauFacetFault (frameHolders s stack frame) q) ∧
      u = { rowLoses k stack ch frame s with mem := u.mem, facets := u.facets, qps := u.qps, evr := u.evr, hif := u.hif, out := u.out } := by
  have mem := rowGone_mem (stack := stack) (ch := ch) (bank := bank) (row := row) (frame := frame) (k := k) (s := s)
  have gone : rowGone stack ch bank row frame k s = _ := rowGone_memoryOnly
  have flagged : rowLoses k stack ch frame s = _ := rowLoses_flagged k stack ch frame s
  have cfg : (rowGone stack ch bank row frame k s).cfg = s.cfg := by rw [gone, flagged]
  have qps : (rowGone stack ch bank row frame k s).qps = s.qps := by rw [gone, flagged]
  have pool : (rowGone stack ch bank row frame k s).mem.pool = 0 := by rw [mem, empty]
  have holders : frameHolders (rowGone stack ch bank row frame k s) stack frame = frameHolders s stack frame :=
    frameHolders_congr cfg (by rw [mem]) (by rw [mem]) stack frame
  have run := (rowFailure_first (k := k) clock noSpare first).trans (takeReplacement_freezes pool)
  rw [holders] at run
  have touches := freezeFacets_touches cauFacetFault (frameHolders s stack frame) (rowGone stack ch bank row frame k s)
  obtain ⟨length, frozen⟩ := freezeFacets_qps cauFacetFault (frameHolders s stack frame) (rowGone stack ch bank row frame k s)
  refine ⟨_, exec_hbmRowFailure run, ⟨?_, ?_, ?_⟩, ?_, ?_, ?_, ?_, ?_, ?_⟩
  · rw [touches, mem]
  · rw [touches, mem]
  · rw [touches]
    exact told_trans rowGone_told (told_of_eq rfl rfl)
  · rw [touches, pool]
  · rw [touches, mem]
  · exact fun f mem => freezeFacets_not_active cauFacetFault _ _ mem
  · rw [length, qps]
  · exact frozen [] fun _ _ _ none => absurd none List.not_mem_nil
  · rw [touches, gone]

/-- A frame that has been retired before is only counted. -/
theorem rowFailure_again (again : (stack, frame) ∈ s.mem.retired) :
    ∃ u, exec (.hbmRowFailure stack ch bank row frame k) s = .next (countHealth s u) ∧
      u = { rowLoses k stack ch frame s with mem := u.mem } ∧ u.mem = { s.mem with ras := u.mem.ras, rowErrs := u.mem.rowErrs } := by
  have counts := rowCounted_counts stack ch bank row frame k s
  have known : (stack, frame) ∈ (rowCounted stack ch bank row frame k s).mem.retired := by rwa [counts.2]
  exact ⟨_, exec_hbmRowFailure ((rowFailure_retires clock noSpare).trans (retireFrame_again known)), counts⟩

end

end

-- FRAME_REBUILD (R219, R320, R321).

theorem rebuildJobs_reads {s : State} {stack into : Nat} {flash : Bool} {j : Job} (h : j ∈ rebuildJobs s stack flash into) : j.die = none := by
  rcases List.mem_append.mp h with read | written
  · split at read
    · obtain ⟨i, -, rfl⟩ := List.mem_map.mp read
      rfl
    · rw [List.mem_singleton.mp read]
      rfl
  · rw [List.mem_singleton.mp written]
    rfl

/-- The work of a rebuild is charged, and counts for the facets, where it is granted. -/
theorem chargeRebuild_charges {stack frame into : Nat} {src : Nat} {flash : Bool} {s t : State}
    (granted : chargeRebuild stack frame (rebuildJobs s src flash into) s = some t) :
    t = { s with facets := t.facets, srch := t.srch } ∧ Charged s t := by
  unfold chargeRebuild at granted
  split at granted
  · split at granted
    · cases granted
      exact ⟨rfl, .refl s⟩
    · cases granted
  · have leaves := allJobs_leaves granted
    rw [allJobs_flash granted fun j hj => rebuildJobs_reads hj] at leaves
    exact ⟨leaves, allJobs_charged _ _ _ _ granted⟩

/-- The frame that a rebuild fills: the retired one's replacement, or the frame itself. -/
def rebuildInto (s : State) (r : Nat × Nat × Bool × Bool) : Nat × Nat := if r.2.2.1 then nextFrame s else (r.1, r.2.1)

/-- The pool is refilled behind the rebuild of a retired frame, from what no facet has charged (R322). -/
def refillsPool (s : State) (r : Nat × Nat × Bool × Bool) : Bool := r.2.2.1 && s.mem.pool < 64 && 65536 ≤ uncharged s

/-- The memory with a retired frame's structures in its replacement. -/
def movedMem (s : State) (r : Nat × Nat × Bool × Bool) (m : Mem) : Mem := if r.2.2.1 then moveFrame (r.1, r.2.1) (rebuildInto s r) m else m

/-- The memory behind a rebuild. -/
def rebuiltMem (s : State) (r : Nat × Nat × Bool × Bool) (m : Mem) : Mem :=
  { movedMem s r m with rebuilding := (movedMem s r m).rebuilding.erase r,
                        pool := if refillsPool s r then (movedMem s r m).pool + 1 else (movedMem s r m).pool }

theorem movedMem_keeps (s : State) (r : Nat × Nat × Bool × Bool) (m : Mem) : movedMem s r m = { m with moved := (movedMem s r m).moved } := by
  unfold movedMem
  split
  · rfl
  · rfl

theorem movedMem_moved {s : State} {r : Nat × Nat × Bool × Bool} (m : Mem) : (r.2.2.1 = false → (movedMem s r m).moved = m.moved) ∧
    (r.2.2.1 = true → ((r.1, r.2.1), nextFrame s) ∈ (movedMem s r m).moved) := by
  refine ⟨fun own => ?_, fun retired => ?_⟩
  · simp [movedMem, own]
  · simp [movedMem, rebuildInto, retired, moveFrame]

section
variable {frame : Nat} {s : State} {r : Nat × Nat × Bool × Bool} (listed : s.mem.rebuilding.find? (·.2.1 == frame) = some r)
include listed

theorem frameRebuilt_waits (withheld : chargeRebuild r.1 r.2.1 (rebuildJobs s r.1 r.2.2.2 (rebuildInto s r).1) s = none) :
    frameRebuilt frame s = s := by
  unfold rebuildInto at withheld
  simp only [frameRebuilt, listed, withheld]

theorem frameRebuilt_done {t : State} (granted : chargeRebuild r.1 r.2.1 (rebuildJobs s r.1 r.2.2.2 (rebuildInto s r).1) s = some t) :
    frameRebuilt frame s = { t with mem := rebuiltMem s r t.mem } := by
  unfold rebuildInto at granted
  simp only [frameRebuilt, listed, granted]
  rfl

/-- A granted rebuild leaves the list; behind a retirement the structures use the replacement, and the pool may be refilled. -/
theorem frameRebuild_answers (granted : (chargeRebuild r.1 r.2.1 (rebuildJobs s r.1 r.2.2.2 (rebuildInto s r).1) s).isSome = true) :
    Answers (.frameRebuild frame) s fun t => t = { s with mem := t.mem, facets := t.facets, srch := t.srch } ∧
      t.mem.rebuilding = s.mem.rebuilding.erase r ∧ t.srch.queries = s.srch.queries ∧
      (r.2.2.1 = false → t.mem.moved = s.mem.moved) ∧ (r.2.2.1 = true → ((r.1, r.2.1), nextFrame s) ∈ t.mem.moved) ∧
      t.mem.pool = s.mem.pool + (if refillsPool s r then 1 else 0) := by
  obtain ⟨t, paid⟩ := Option.isSome_iff_exists.mp granted
  obtain ⟨leaves, charged⟩ := chargeRebuild_charges paid
  have mem : t.mem = s.mem := by rw [leaves]
  have keeps := movedMem_keeps s r s.mem
  obtain ⟨own, replaced⟩ := movedMem_moved (s := s) (r := r) s.mem
  have run := frameRebuilt_done listed paid
  rw [mem] at run
  refine answers_of_run (congrArg Host.Outcome.next run) ⟨?_, ?_, charged.queries, own, replaced, ?_⟩
  · rw [leaves]
  · have rebuilding : (movedMem s r s.mem).rebuilding = s.mem.rebuilding := by rw [keeps]
    exact congrArg (·.erase r) rebuilding
  · have pool : (movedMem s r s.mem).pool = s.mem.pool := by rw [keeps]
    simp only [rebuiltMem, pool]
    split
    · rfl
    · rfl

end

-- STACKED_UNCORRECTABLE (R319).

/-- An error in stacked memory recorded and counted. -/
def stackNoted (n a : Nat) (p : StackPart) (s : State) : State :=
  bumpRas (stackFacts s p).2.2 1 (record 0x0204 n [a, (stackFacts s p).1, (stackFacts s p).2.1] s)

theorem stackNoted_memoryOnly (n a : Nat) (p : StackPart) (s : State) : MemoryOnly s (stackNoted n a p s) :=
  (record_memoryOnly _ _ _ s).trans (.of_mem rfl)

theorem stackNoted_told (n a : Nat) (p : StackPart) (s : State) : Told s (stackNoted n a p s) :=
  told_trans (record_told _ _ _ s) (told_of_eq rfl rfl)

theorem stackNoted_copies (n a : Nat) (p : StackPart) (s : State) : (stackNoted n a p s).mem.copies = s.mem.copies := by
  simp [stackNoted, bumpRas]

/-- A sliver reads HBM where it read a list's copy that has gone (R201, R319). -/
def readsHbm (f sl l : Nat) (v : Sliver) : Sliver := if v.facet == f && v.slot == sl && v.key == l then { v with copy := false } else v

theorem readsHbm_copy {f sl l : Nat} {v : Sliver} (facet : (readsHbm f sl l v).facet = f) (slot : (readsHbm f sl l v).slot = sl)
    (key : (readsHbm f sl l v).key = l) : (readsHbm f sl l v).copy = false := by
  unfold readsHbm at *
  split
  · rfl
  · next other =>
    rw [if_neg other] at facet slot key
    exact absurd (by simp [facet, slot, key]) other

/-- A cell whose slivers read HBM where they read the copy. -/
def cellReadsHbm (f sl l : Nat) (c : CellSt) : CellSt := { c with run := c.run.map (readsHbm f sl l), susp := c.susp.map (readsHbm f sl l) }

/-- The state without a list's copy. -/
def copyGone (f sl l : Nat) (s : State) : State :=
  bumpRas 26 1 { s with
    srch := { s.srch with cells := s.srch.cells.map (cellReadsHbm f sl l) },
    mem := { s.mem with copies := s.mem.copies.filter fun c => !(c.1 == f && c.2.1 == sl && c.2.2.1 == l) } }

section
variable {s : State} (clock : clocked s = true) (n a : Nat)
include clock

theorem stackError_cacheCopy (f sl l : Nat) : stackError n a (.cacheCopy f sl l) s = copyGone f sl l (stackNoted n a (.cacheCopy f sl l) s) := by
  simp only [stackError, clock]
  rfl

theorem stackError_scratchpad (t : Nat) : stackError n a (.scratchpad t) s = partialCmd t (stackNoted n a (.scratchpad t) s) := by
  simp only [stackError, clock]
  rfl

theorem stackError_mergeState (x : Nat) : stackError n a (.mergeState x) s = markPartial [x] (stackNoted n a (.mergeState x) s) := by
  simp only [stackError, clock]
  rfl

theorem stackError_tagTable : stackError n a .tagTable s = goFatal 1 (stackNoted n a .tagTable s) := by
  simp only [stackError, clock]
  rfl

end

theorem exec_stackedUncorrectable {n a : Nat} {p : StackPart} {s u : State} (run : stackError n a p s = u) :
    exec (.stackedUncorrectable n a p) s = .next (countHealth s u) := congrArg (fun v => Host.Outcome.next (countHealth s v)) run

section
variable {s : State} (clock : clocked s = true) (n a : Nat)
include clock

/-- A cache copy goes, and what read it reads HBM. -/
theorem stackedUncorrectable_cacheCopy (f sl l : Nat) :
    ∃ u, exec (.stackedUncorrectable n a (.cacheCopy f sl l)) s = .next (countHealth s u) ∧
      u.mem.copies = s.mem.copies.filter (fun c => !(c.1 == f && c.2.1 == sl && c.2.2.1 == l)) ∧
      (∀ x ∈ u.srch.cells, ∀ v, x.run = some v → v.facet = f → v.slot = sl → v.key = l → v.copy = false) ∧ Told s u ∧
      u = { s with mem := u.mem, evr := u.evr, hif := u.hif, out := u.out, srch := { s.srch with cells := u.srch.cells } } := by
  have noted : stackNoted n a (.cacheCopy f sl l) s = _ := stackNoted_memoryOnly n a (.cacheCopy f sl l) s
  refine ⟨_, exec_stackedUncorrectable (stackError_cacheCopy clock n a f sl l), ?_, ?_, ?_, ?_⟩
  · exact congrArg (List.filter _) (stackNoted_copies n a _ s)
  · intro x mem v run facet slot key
    obtain ⟨c, -, rfl⟩ := List.mem_map.mp mem
    obtain ⟨w, -, rfl⟩ := Option.map_eq_some_iff.mp run
    exact readsHbm_copy facet slot key
  · exact told_trans (stackNoted_told n a _ s) (told_of_eq rfl rfl)
  · rw [noted]
    rfl

/-- What read scratchpad or weights carries PARTIAL. -/
theorem stackedUncorrectable_scratchpad (t : Nat) :
    ∃ u, exec (.stackedUncorrectable n a (.scratchpad t)) s = .next (countHealth s u) ∧
      (∀ q ∈ u.srch.queries, ofTag t q = true → q.partialFlag = true) ∧
      (∀ j, u.srch.enc.find? (·.tag == t) = some j → j.partialFlag = true) ∧
      (∀ j, u.srch.train.find? (·.tag == t) = some j → j.partialFlag = true) ∧ Told s u ∧
      u = { s with mem := u.mem, evr := u.evr, hif := u.hif, out := u.out,
                   srch := { s.srch with queries := u.srch.queries, enc := u.srch.enc, train := u.srch.train } } := by
  have noted : stackNoted n a (.scratchpad t) s = _ := stackNoted_memoryOnly n a (.scratchpad t) s
  have flagged : Flagged _ _ := partialCmd_flagged t (stackNoted n a (.scratchpad t) s)
  refine ⟨_, exec_stackedUncorrectable (stackError_scratchpad clock n a t), ?_, ?_, ?_, ?_, ?_⟩
  · exact fun q mem own => partialCmd_queries mem own
  · exact fun j found => partialCmd_enc found
  · exact fun j found => partialCmd_train found
  · exact told_trans (stackNoted_told n a _ s) (told_of_eq rfl rfl)
  · unfold Flagged at flagged
    rw [flagged, noted]

/-- What read merge state carries PARTIAL. -/
theorem stackedUncorrectable_mergeState (x : Nat) :
    ∃ u, exec (.stackedUncorrectable n a (.mergeState x)) s = .next (countHealth s u) ∧
      u.srch.queries = s.srch.queries.map (fun q => if q.ctx == x then { q with partialFlag := true } else q) ∧ Told s u ∧
      u = { s with mem := u.mem, evr := u.evr, hif := u.hif, out := u.out, srch := { s.srch with queries := u.srch.queries } } := by
  have noted : stackNoted n a (.mergeState x) s = _ := stackNoted_memoryOnly n a (.mergeState x) s
  refine ⟨_, exec_stackedUncorrectable (stackError_mergeState clock n a x), ?_, ?_, ?_⟩
  · simp [markPartial, stackNoted]
  · exact told_trans (stackNoted_told n a _ s) (told_of_eq rfl rfl)
  · rw [noted]
    rfl

/-- An error in the tag table is fatal. -/
theorem stackedUncorrectable_tagTable :
    ∃ u, exec (.stackedUncorrectable n a .tagTable) s = .next (countHealth s u) ∧ u.brd.fatal = true ∧ u.brd.fatalUnit = 1 ∧
      u.qps = s.qps.map (freezeQp cauFatal) := by
  have noted : stackNoted n a .tagTable s = _ := stackNoted_memoryOnly n a .tagTable s
  have on : clocked (stackNoted n a .tagTable s) = true := by rw [noted]; exact clock
  have qps : (stackNoted n a .tagTable s).qps = s.qps := by rw [noted]
  obtain ⟨snap, fatal⟩ := goFatal_clocked on 1
  refine ⟨_, exec_stackedUncorrectable ((stackError_tagTable clock n a).trans fatal), rfl, rfl, ?_⟩
  simp [freezeWhere_qps, qps]

end

/-- Settles O44: a row by its spare and its frame, a rebuild by its grant, an error in stacked memory by the part that it lies in. -/
theorem memoryErrorsAreContained : Obligations.MemoryErrorsAreContained := by
  unfold Obligations.MemoryErrorsAreContained
  refine ⟨fun stack ch bank row frame k s clock => ?_, fun n a s clock => ⟨?_, ?_, ?_, ?_⟩⟩
  · intro spare s0 first retired
    refine ⟨fun uncorrected => ?_, fun spared => ?_, fun noSpare first left => ?_, fun noSpare first empty => ?_, fun noSpare again => ?_,
      fun r listed => ?_⟩
    · have lost : s0 = loseRun stack ch frame s := by simp [s0, uncorrected]
      rw [lost]
      exact ⟨loseRun_marked stack ch frame s, loseRun_flagged stack ch frame s⟩
    · exact rowFailure_remapped clock spared.1 spared.2
    · exact rowFailure_replaced clock noSpare first left
    · exact rowFailure_freezes clock noSpare first empty
    · exact rowFailure_again clock noSpare (Decidable.not_not.mp again)
    · exact ⟨fun withheld => congrArg Host.Outcome.next (frameRebuilt_waits listed withheld), fun granted => frameRebuild_answers listed granted⟩
  · exact fun f sl l => stackedUncorrectable_cacheCopy clock n a f sl l
  · exact fun t => stackedUncorrectable_scratchpad clock n a t
  · exact fun x => stackedUncorrectable_mergeState clock n a x
  · exact stackedUncorrectable_tagTable clock n a

end Sys2Proof.Machine
end

section
/-! An idle step (log 1): what 100 ns change, and what they leave. -/

namespace Sys2Proof.Machine

theorem step_of_empty {s : State} (empty : s.pending = []) : step s = .next (tick s) := by simp [step, empty]

/-- The always-on clock counts while AUX_5V is up, whatever main power and MOD_RST# are (R330). -/
theorem tick_aon (s : State) : (tick s).brd.aon = s.brd.aon + (if s.brd.aux5 then 100 else 0) := by
  cases aux : s.brd.aux5 <;> simp [tick, aux]

/-- The module's own clock counts while main power is on and MOD_RST# is released (R328). -/
theorem tick_moduleClock (s : State) :
    (tick s).brd.clk = s.brd.clk + (if s.brd.mainPower && s.brd.rst.accepted then 100 else 0) := by
  cases up : s.brd.mainPower && s.brd.rst.accepted <;> simp [tick, up]

theorem tick_only_board (s : State) : tick s = { s with brd := (tick s).brd } := rfl

theorem tick_only_clocks (s : State) :
    (tick s).brd = { s.brd with
      aon := (tick s).brd.aon, clk := (tick s).brd.clk, opNs := (tick s).brd.opNs, thermalNs := (tick s).brd.thermalNs } := rfl

/-- Settles O2: the tick is the step, each clock counts by its own condition, and only the four time counters of the board can differ. -/
theorem emptyQueueLetsTimePass : Obligations.EmptyQueueLetsTimePass := by
  unfold Obligations.EmptyQueueLetsTimePass
  intro s empty
  have next : step s = .next { s with brd := (tick s).brd } := (step_of_empty empty).trans (congrArg Host.Outcome.next (tick_only_board s))
  exact ⟨(tick s).brd, next, tick_aon s, tick_moduleClock s, tick_only_clocks s⟩

end Sys2Proof.Machine
end

section
/-! Facts that the statements about the host interface share: lookups that read a table left alone, and the pair a lookup finds. -/

namespace Sys2Proof.Machine

theorem qpOf_congr {s t : State} (h : t.qps = s.qps) (n : Nat) : qpOf t n = qpOf s n := by unfold qpOf; rw [h]

theorem tagOf_congr {s t : State} (h : t.tags = s.tags) (n : Nat) : tagOf t n = tagOf s n := by unfold tagOf; rw [h]

theorem cmdOf_congr {s t : State} (h : t.cmds = s.cmds) (n : Nat) : cmdOf t n = cmdOf s n := by unfold cmdOf; rw [h]

theorem num_of_qpOf {s : State} {n : Nat} {p : Qp} (pair : qpOf s n = some p) : p.num = n := by simpa using List.find?_some pair

theorem tag_of_cmdOf {s : State} {t : Nat} {c : Cmd} (found : cmdOf s t = some c) : c.tag = t := by simpa using List.find?_some found

-- Messages (R254, R317).

/-- A vector's interval has passed since its last message (R317). -/
def msgDue (v : Nat) (s : State) : Bool :=
  match s.hif.lastMsg.find? (·.1 == v) with
  | some p => p.2 + 1000 * s.fnc.interval.getD v 1 ≤ now s
  | none => true

/-- A message that goes out, its pending bit with it. -/
def msgSent (v : Nat) (s : State) : State := { s with
  out := s.out ++ [.msix v],
  hif := { s.hif with lastMsg := put v (now s) s.hif.lastMsg, pendMsg := s.hif.pendMsg.filter (· != v) } }

/-- A message that is held with its pending bit. -/
def msgHeld (v : Nat) (s : State) : State := { s with hif := { s.hif with pendMsg := nub (s.hif.pendMsg ++ [v]) } }

theorem sendMsi_eq (v : Nat) (s : State) : sendMsi v s =
    if !s.hif.msixOn || !s.hif.linkUp then s else if msgDue v s && !s.hif.msixMask then msgSent v s else msgHeld v s := rfl

theorem sendMsi_out_cases (v : Nat) (s : State) : (sendMsi v s).out = s.out ∨ (sendMsi v s).out = s.out ++ [.msix v] := by
  rw [sendMsi_eq]
  split_ifs
  · exact .inl rfl
  · exact .inr rfl
  · exact .inl rfl

theorem sendMsi_due {v : Nat} {s : State} (up : s.hif.linkUp = true) (on : s.hif.msixOn = true) (bare : s.hif.msixMask = false)
    (due : ∀ p, s.hif.lastMsg.find? (·.1 == v) = some p → p.2 + 1000 * s.fnc.interval.getD v 1 ≤ now s) : sendMsi v s = msgSent v s := by
  have passed : msgDue v s = true := by
    unfold msgDue
    split
    · simpa using due _ ‹_›
    · rfl
  simp [sendMsi_eq, up, on, bare, passed]

/-- What an interrupt has been sent for is no longer counted (R254). -/
def Qp.signalled (x : Qp) : Qp := { x with toSignal := 0, signalSince := none }

theorem signalQp_of_pair {s : State} {n : Nat} {p : Qp} (pair : qpOf s n = some p) :
    signalQp n s = sendMsi p.vector (updQp n Qp.signalled s) := by
  unfold signalQp
  rw [pair]
  rfl

theorem qpOf_signalQp {s : State} {n : Nat} {p : Qp} (pair : qpOf s n = some p) : qpOf (signalQp n s) n = some p.signalled := by
  have sent : (sendMsi p.vector (updQp n Qp.signalled s)).qps = (updQp n Qp.signalled s).qps := by simp
  rw [signalQp_of_pair pair, qpOf_congr sent, qpOf_updQp n Qp.signalled s fun _ => rfl, pair]
  rfl

end Sys2Proof.Machine
end

section
/-! Completions (R243, R244, R248, R255, R317): the pair, the ring and the tag behind one completion. -/

namespace Sys2Proof.Machine

open Sys2Proof.Safety

/-- A pair with one more completion in its ring (R243, R244): the CQ tail moves on, and the phase flips as it wraps. -/
def Qp.posted (at' : Nat) (x : Qp) : Qp := { x with
  cqTail := if x.cqTail + 1 == x.depth then 0 else x.cqTail + 1,
  phase := if x.cqTail + 1 == x.depth then !x.phase else x.phase,
  inFlight := x.inFlight - 1, toSignal := x.toSignal + 1,
  signalSince := some (x.signalSince.getD at') }

/-- The state with a failed command in the error log and its I/O pair frozen (R255, R268). -/
def failureNoted (c : Cmd) (st : Nat) (w : ErrAt) (s : State) : State :=
  let s1 := if isError st then logError c st w s else s
  if isError st && c.qp != 0 then updQp c.qp (freezeQp cauCommand) s1 else s1

/-- The pair of a command that has completed with a status, before its completion is in the ring. -/
def Qp.failed (st : Nat) (p : Qp) (n : Nat) : Qp := if isError st && n != 0 then freezeQp cauCommand p else p

theorem Qp.failed_ring (st : Nat) (p : Qp) (n : Nat) :
    p.failed st n = { p with state := (p.failed st n).state, causes := (p.failed st n).causes } := by
  unfold Qp.failed
  split <;> rfl

/-- An error freezes an I/O pair that is not being deleted (R255), and nothing else does. -/
theorem Qp.failed_state (st : Nat) (p : Qp) (n : Nat) :
    (isError st = true → n ≠ 0 → p.state ≠ 3 → (p.failed st n).state = 2 ∧ 1 ∈ (p.failed st n).causes) ∧
    (isError st = false → (p.failed st n).state = p.state ∧ (p.failed st n).causes = p.causes) := by
  refine ⟨fun failed io kept => ?_, fun fine => ?_⟩
  · have frozen : p.failed st n = freezeQp cauCommand p := by simp [Qp.failed, failed, io]
    rw [frozen]
    refine ⟨by simp [freezeQp, kept], ?_⟩
    unfold freezeQp
    dsimp only
    split
    · exact List.contains_iff_mem.mp ‹_›
    · exact List.mem_cons_self
  · have same : p.failed st n = p := by simp [Qp.failed, fine]
    rw [same]
    exact ⟨rfl, rfl⟩

/-- The completion entry of a command (R248). -/
def cplOf (c : Cmd) (st flags epoch : Nat) (res : Bytes) (p : Qp) : Cpl :=
  { result := padTo 16 res, epoch := epoch, tag := c.tag, sqHead := p.sqHead, qp := c.qp,
    flags := flags + (if isError st then flLog else 0), cid := c.cid, phase := p.phase, status := st }

/-- A command's status once the fence has been asked (R317; log 55). -/
def finalStatus (c : Cmd) (st0 : Nat) (s : State) : Nat := if fenceHit s c.tag then stWindow else st0

/-- The state with a command's completion in the ring of its pair (R243), before its interrupt. -/
def entered (c : Cmd) (st flags epoch : Nat) (res : Bytes) (w : ErrAt) (p : Qp) (s : State) : State :=
  let q := p.failed st c.qp
  updQp c.qp (Qp.posted (now s)) (emit (.completion (q.cqBase + 32 * q.cqTail) (cplOf c st flags epoch res q)) (failureNoted c st w s))

section
variable {c : Cmd} {st : Nat} {w : ErrAt} {s : State} {p : Qp} (pair : qpOf s c.qp = some p)

theorem failureNoted_log : (failureNoted c st w s).cmds = s.cmds ∧ (failureNoted c st w s).out = s.out ∧
    (isError st = true → (failureNoted c st w s).elog.length = min 256 (s.elog.length + 1) ∧
      (failureNoted c st w s).elogSeq = s.elogSeq + 1) := by
  unfold failureNoted
  cases failed : isError st
  · simp
  · have length : ((⟨s.elogSeq + 1, now s / 1000, st, c.qp, opcode c.op, c.cid, c.tag, c.facet, w.check, w.detail, w.field,
      (facetOf s c.facet).epoch⟩ :: s.elog).take 256).length = min 256 (s.elog.length + 1) := by rw [List.length_take, List.length_cons]
    cases io : c.qp != 0 <;> exact ⟨rfl, rfl, fun _ => ⟨length, rfl⟩⟩

include pair

theorem qpOf_failureNoted : qpOf (failureNoted c st w s) c.qp = some (p.failed st c.qp) := by
  have logged : qpOf (if isError st then logError c st w s else s) c.qp = some p := by
    rw [← pair]
    exact qpOf_congr (by split <;> simp) _
  unfold failureNoted Qp.failed
  extract_lets s1
  split
  · rw [qpOf_updQp c.qp (freezeQp cauCommand) s1 fun _ => rfl, logged]
    rfl
  · exact logged

theorem qpOf_entered (flags epoch : Nat) (res : Bytes) :
    qpOf (entered c st flags epoch res w p s) c.qp = some ((p.failed st c.qp).posted (now s)) := by
  unfold entered
  rw [qpOf_updQp c.qp (Qp.posted (now s)) _ fun _ => rfl, qpOf_congr (emit_rest _ _).2.2.2.2.2.2.2.2.1, qpOf_failureNoted pair]
  rfl

/-- What a completion does (R243, R248, R254): the failure is noted, the entry is in the ring, an interrupt may follow; then the tag's word and
the command are done with. -/
theorem post_eq (st0 flags epoch : Nat) (res : Bytes) : ∃ u, (u = entered c (finalStatus c st0 s) flags epoch res w p s ∨
      u = signalQp c.qp (entered c (finalStatus c st0 s) flags epoch res w p s)) ∧
    post c st0 flags epoch res w s = updTag c.tag (fun t => { t with state := 4, status := finalStatus c st0 s })
      { u with cmds := u.cmds.filter fun x => x.tag != c.tag } := by
  have noted : qpOf (failureNoted c (finalStatus c st0 s) w s) c.qp = some (p.failed (finalStatus c st0 s) c.qp) := qpOf_failureNoted pair
  have inRing := qpOf_entered (w := w) (st := finalStatus c st0 s) pair flags epoch res
  unfold post
  extract_lets st err s1 s2 s3 s4
  have ring : s3 = entered c (finalStatus c st0 s) flags epoch res w p s := by
    have failed : s2 = failureNoted c (finalStatus c st0 s) w s := rfl
    dsimp only [s3]
    rw [failed, noted]
    rfl
  refine ⟨s4, ?_, rfl⟩
  dsimp only [s4]
  rw [ring, inRing]
  dsimp only
  split
  · exact .inr rfl
  · exact .inl rfl

/-- What a completion in the ring, signalled or not, has put out and left of the pair. -/
theorem entered_signalled (flags epoch : Nat) (res : Bytes) {u : State}
    (stage : u = entered c st flags epoch res w p s ∨ u = signalQp c.qp (entered c st flags epoch res w p s)) :
    (∃ more, (more = [] ∨ more = [.msix p.vector]) ∧
      u.out = s.out ++ .completion (p.cqBase + 32 * p.cqTail) (cplOf c st flags epoch res p) :: more) ∧
    u.cmds = s.cmds ∧
    (∃ p', qpOf u c.qp = some p' ∧ p'.cqTail = (if p.cqTail + 1 = p.depth then 0 else p.cqTail + 1) ∧
      p'.phase = (if p.cqTail + 1 = p.depth then !p.phase else p.phase) ∧ p'.inFlight = p.inFlight - 1 ∧ p'.sqHead = p.sqHead ∧
      p'.state = (p.failed st c.qp).state ∧ p'.causes = (p.failed st c.qp).causes) ∧
    (isError st = true → u.elog.length = min 256 (s.elog.length + 1) ∧ u.elogSeq = s.elogSeq + 1) := by
  obtain ⟨cmds, out, logged⟩ := failureNoted_log (c := c) (st := st) (w := w) (s := s)
  have inRing := qpOf_entered (w := w) (st := st) pair flags epoch res
  have ring := p.failed_ring st c.qp
  have put' : (entered c st flags epoch res w p s).out =
      s.out ++ [.completion (p.cqBase + 32 * p.cqTail) (cplOf c st flags epoch res p)] := by
    rw [← out]
    dsimp only [entered, updQp, emit]
    rw [ring]
    rfl
  have kept : (entered c st flags epoch res w p s).cmds = s.cmds := cmds
  have logged' : isError st = true → (entered c st flags epoch res w p s).elog.length = min 256 (s.elog.length + 1) ∧
      (entered c st flags epoch res w p s).elogSeq = s.elogSeq + 1 := logged
  rcases stage with rfl | rfl
  · refine ⟨⟨[], .inl rfl, put'⟩, kept, ⟨_, inRing, ?_, ?_, ?_⟩, logged⟩
    all_goals rw [ring]; simp [Qp.posted]
  · refine ⟨?_, by simp [kept], ⟨_, qpOf_signalQp inRing, ?_, ?_, ?_⟩, fun failed => by simpa using logged' failed⟩
    · rw [signalQp_of_pair inRing, ring]
      rcases sendMsi_out_cases p.vector (updQp c.qp Qp.signalled (entered c st flags epoch res w p s)) with held | sent
      · exact ⟨[], .inl rfl, held.trans put'⟩
      · exact ⟨[.msix p.vector], .inr rfl, (sent.trans (congrArg (· ++ [Out.msix p.vector]) put')).trans (by simp)⟩
    all_goals rw [ring]; simp [Qp.posted, Qp.signalled]

end

/-- Settles O18: a completion read off stage by stage, the failure noted, the entry in the ring, the interrupt, the tag. -/
theorem completionIsPostedOnce : Obligations.CompletionIsPostedOnce := by
  unfold Obligations.CompletionIsPostedOnce
  intro c st0 flags epoch res w s p pair
  extract_lets st v wraps
  obtain ⟨u, stage, done⟩ := post_eq (w := w) pair st0 flags epoch res
  obtain ⟨⟨more, sent, out⟩, cmds, ⟨p', pair', behind⟩, logged⟩ := entered_signalled pair flags epoch res stage
  have word : tagOf v c.tag = { tagOf { u with cmds := u.cmds.filter fun x => x.tag != c.tag } c.tag with state := 4, status := st } := by
    dsimp only [v]
    rw [done]
    exact tagOf_updTag c.tag (fun t => { t with state := 4, status := st }) _ fun _ => rfl
  have vout : v.out = u.out := (congrArg State.out done :)
  have vcmds : v.cmds = u.cmds.filter fun x => x.tag != c.tag := (congrArg State.cmds done :)
  have vpair : qpOf v c.qp = some p' := (qpOf_congr ((congrArg State.qps done :)) c.qp).trans pair'
  have velog : v.elog = u.elog ∧ v.elogSeq = u.elogSeq := ⟨(congrArg State.elog done :), (congrArg State.elogSeq done :)⟩
  obtain ⟨tail, phase, inFlight, head, state, causes⟩ := behind
  obtain ⟨frozen, kept⟩ := p.failed_state st c.qp
  refine ⟨⟨more, sent, vout.trans out⟩, ?_, by rw [word], by rw [word], ⟨p', vpair, tail, phase, inFlight, head, ?_, ?_⟩, ?_⟩
  · simp [vcmds]
  · rw [state, causes]
    exact frozen
  · rw [state, causes]
    exact kept
  · rw [velog.1, velog.2]
    exact logged

end Sys2Proof.Machine
end

section
/-! Doorbells (R243, R245, R254 to R256, R258): a value that is taken, one that is ignored and counted. -/

namespace Sys2Proof.Machine

open Sys2Proof.Safety

/-- One more doorbell value ignored (R245, R360). -/
def doorbellCounted (s : State) : State := { s with hif := { s.hif with doorbellInvalid := (s.hif.doorbellInvalid + 1) % 2 ^ 64 } }

theorem sendMsi_doorbellCounted (v : Nat) (s : State) : sendMsi v (doorbellCounted s) = doorbellCounted (sendMsi v s) := by
  have on : (doorbellCounted s).hif.msixOn = s.hif.msixOn := rfl
  have up : (doorbellCounted s).hif.linkUp = s.hif.linkUp := rfl
  have mask : (doorbellCounted s).hif.msixMask = s.hif.msixMask := rfl
  have due : msgDue v (doorbellCounted s) = msgDue v s := rfl
  rw [sendMsi_eq, sendMsi_eq, on, up, mask, due]
  split_ifs <;> rfl

theorem endFreeze_doorbellCounted (s : State) : endFreeze (doorbellCounted s) = doorbellCounted (endFreeze s) := by
  have evr : (doorbellCounted s).evr = s.evr := rfl
  unfold endFreeze
  rw [evr]
  split_ifs <;> rfl

/-- An event's record does not look at the doorbell counter, so either may come first. -/
theorem record_doorbellCounted (code subject : Nat) (snap : List Nat) (s : State) :
    record code subject snap (doorbellCounted s) = doorbellCounted (record code subject snap s) := by
  have brd : (doorbellCounted s).brd = s.brd := rfl
  have evr : (doorbellCounted s).evr = s.evr := rfl
  unfold record recordSev
  rw [brd, evr, endFreeze_doorbellCounted]
  split_ifs
  · rfl
  · exact sendMsi_doorbellCounted 0 { s with evr := { s.evr with
      frozenCount := (s.evr.frozenCount + 1) % 2 ^ 32, frozenSev := max s.evr.frozenSev (eventRow code).1 } }
  · exact sendMsi_doorbellCounted 0 { endFreeze s with evr := _ }

section
variable {n v : Nat} {s : State} {p : Qp}

/-- An ignored value of an I/O pair (R245, R256): counted, recorded, and the pair freezes. -/
theorem badDoorbell_io (which : Nat) (io : n ≠ 0) (pair : qpOf s n = some p) :
    badDoorbell which n v s = updQp n (freezeQp 2) (doorbellCounted (record 0x0602 n [which, v, p.depth] s)) := by
  unfold badDoorbell
  rw [pair, if_neg (by simpa using io)]
  exact congrArg _ (record_doorbellCounted ..)

/-- A doorbell of no pair (R245). -/
theorem badDoorbell_none (which : Nat) (none' : qpOf s n = none) :
    badDoorbell which n v s = doorbellCounted (record 0x0602 n [which, v, 0] s) := by
  have counted : record 0x0602 n [which, v, 0] (doorbellCounted s) = doorbellCounted (record 0x0602 n [which, v, 0] s) :=
    record_doorbellCounted ..
  have absent : ∀ q ∈ (doorbellCounted (record 0x0602 n [which, v, 0] s)).qps, (q.num == n) = false := by
    have same : (doorbellCounted (record 0x0602 n [which, v, 0] s)).qps = s.qps := by simp [doorbellCounted]
    rw [same]
    simpa [qpOf] using none'
  unfold badDoorbell
  rw [none']
  split
  · exact counted
  · refine (congrArg (updQp n (freezeQp 2)) counted).trans ?_
    unfold updQp
    rw [updFirst_none _ _ _ absent]

/-- What a frozen pair and the counters hold behind an ignored value. -/
theorem badDoorbell_freezes (which : Nat) (io : n ≠ 0) (pair : qpOf s n = some p) :
    badDoorbell which n v s = { doorbellCounted (record 0x0602 n [which, v, p.depth] s) with qps := (badDoorbell which n v s).qps } ∧
    qpOf (badDoorbell which n v s) n = some (freezeQp 2 p) ∧ ∀ m, m ≠ n → qpOf (badDoorbell which n v s) m = qpOf s m := by
  have same : (doorbellCounted (record 0x0602 n [which, v, p.depth] s)).qps = s.qps := by simp [doorbellCounted]
  rw [badDoorbell_io which io pair]
  refine ⟨rfl, ?_, fun m hm => ?_⟩
  · rw [qpOf_updQp n (freezeQp 2) _ fun _ => rfl, qpOf_congr same, pair]
    rfl
  · rw [qpOf_updQp_ne n m (freezeQp 2) _ (fun _ => rfl) hm, qpOf_congr same]

/-- A valid value (R245, R258): it is taken, no other pair changes, and the keep-alive timer of an I/O pair's facet starts again. -/
theorem restartKa_updQp (g : Qp → Qp) (num : ∀ x, (g x).num = x.num) (pair : qpOf s n = some p) :
    let t := restartKa p (updQp n g s)
    t = { s with qps := t.qps, facets := t.facets } ∧ qpOf t n = some (g p) ∧ (∀ m, m ≠ n → qpOf t m = qpOf s m) ∧
      (n ≠ 0 → (facetOf t p.facet).kaSince = now s) ∧ (n = 0 → t = { s with qps := t.qps }) := by
  intro t
  have qps : t.qps = (updQp n g s).qps := by dsimp only [t]; unfold restartKa; split <;> rfl
  have number : p.num = n := num_of_qpOf pair
  refine ⟨?_, ?_, fun m hm => ?_, fun io => ?_, fun admin => ?_⟩
  · dsimp only [t]
    unfold restartKa
    split <;> rfl
  · rw [qpOf_congr qps, qpOf_updQp _ _ _ num, pair]
    rfl
  · rw [qpOf_congr qps, qpOf_updQp_ne _ _ _ _ num hm]
  · dsimp only [t]
    unfold restartKa
    rw [if_neg (by simpa [number] using io), facetOf_updFacet _ _ _ (by exact fun _ => rfl)]
    rfl
  · dsimp only [t]
    unfold restartKa
    rw [if_pos (by simp [number, admin])]
    rfl

section
variable (up : s.hif.linkUp = true) (pair : qpOf s n = some p) (kept : p.state ≠ 3)
include up pair kept

theorem sqTail_valid (valid : v < p.depth) : sqTail n v s = restartKa p (updQp n (fun x => { x with sqTail := v }) s) := by
  simp [sqTail, up, pair, kept, valid]

theorem sqTail_invalid (invalid : p.depth ≤ v) : sqTail n v s = badDoorbell 0 n v s := by
  simp [sqTail, up, pair, kept, Nat.not_lt.mpr invalid]

theorem cqHead_valid (valid : v < p.depth) (released : (v + p.depth - p.cqHead) % p.depth ≤ (p.cqTail + p.depth - p.cqHead) % p.depth) :
    cqHead n v s = restartKa p (updQp n (fun x => { x with cqHead := v }) s) := by
  have depth : p.depth ≠ 0 := by omega
  have ok : cqHeadOk p v = true := by simp [cqHeadOk, ringCount, depth, valid, released]
  simp [cqHead, up, pair, kept, ok]

theorem cqHead_invalid (invalid : p.depth ≤ v ∨
      (p.depth ≠ 0 ∧ (p.cqTail + p.depth - p.cqHead) % p.depth < (v + p.depth - p.cqHead) % p.depth)) :
    cqHead n v s = badDoorbell 1 n v s := by
  have bad : cqHeadOk p v = false := by
    rcases invalid with past | ⟨depth, past⟩
    · simp [cqHeadOk, past]
    · simp [cqHeadOk, ringCount, depth, past]
  simp [cqHead, up, pair, kept, bad]

end
end

/-- Settles O19: a valid value moves its ring, an invalid one is counted and freezes its pair, as the equations of the two doorbells say. -/
theorem doorbellsMoveOrFreeze : Obligations.DoorbellsMoveOrFreeze := by
  unfold Obligations.DoorbellsMoveOrFreeze
  intro counted
  refine ⟨fun n v s p up pair kept => ⟨fun valid io => ?_, fun valid admin => ?_, fun invalid io => ?_⟩, fun n v s p up pair kept => ?_,
    fun n v s p pair deleted => ?_, fun n v s up none' => ?_⟩
  · obtain ⟨rest, moved, others, timer, _⟩ := restartKa_updQp (fun x => { x with sqTail := v.toNat }) (fun _ => rfl) pair
    exact answers_of_run (congrArg Host.Outcome.next (sqTail_valid up pair kept valid)) ⟨rest, moved, others, timer io⟩
  · obtain ⟨_, moved, _, _, rest⟩ := restartKa_updQp (fun x => { x with sqTail := v.toNat }) (fun _ => rfl) pair
    exact answers_of_run (congrArg Host.Outcome.next (sqTail_valid up pair kept valid)) ⟨rest admin, moved⟩
  · exact answers_of_run (congrArg Host.Outcome.next (sqTail_invalid up pair kept invalid)) (badDoorbell_freezes 0 io pair)
  · intro held asked
    refine ⟨fun valid released => ?_, fun invalid io => ?_⟩
    · obtain ⟨rest, moved, _, timer, _⟩ := restartKa_updQp (fun x => { x with cqHead := v.toNat }) (fun _ => rfl) pair
      exact answers_of_run (congrArg Host.Outcome.next (cqHead_valid up pair kept valid released)) ⟨rest, moved, timer⟩
    · exact answers_of_run (congrArg Host.Outcome.next (cqHead_invalid up pair kept invalid)) (badDoorbell_freezes 1 io pair)
  · have sq : sqTail n v.toNat s = s := by simp [sqTail, pair, deleted]
    have cq : cqHead n v.toNat s = s := by simp [cqHead, pair, deleted]
    exact ⟨congrArg Host.Outcome.next sq, congrArg Host.Outcome.next cq⟩
  · have sq : sqTail n v.toNat s = badDoorbell 0 n v.toNat s := by simp [sqTail, up, none']
    have cq : cqHead n v.toNat s = badDoorbell 1 n v.toNat s := by simp [cqHead, up, none']
    exact ⟨congrArg Host.Outcome.next (sq.trans (badDoorbell_none 0 none')), congrArg Host.Outcome.next (cq.trans (badDoorbell_none 1 none'))⟩

end Sys2Proof.Machine
end

section
/-! The host interface set up and reset (R239, R242, R254, R256, R360). -/

namespace Sys2Proof.Machine

open Sys2Proof.Safety

-- The admin queue made (R242).

/-- Freeze causes change the state of a pair and its causes, and nothing else. -/
theorem freezes_fold (causes : List Nat) (p : Qp) :
    causes.foldl (fun p c => freezeQp c p) p = { p with
      state := (causes.foldl (fun p c => freezeQp c p) p).state, causes := (causes.foldl (fun p c => freezeQp c p) p).causes } := by
  induction causes generalizing p with
  | nil => rfl
  | cons c cs ih =>
    rw [List.foldl_cons, ih]
    rfl

theorem adminQp_ring (s : State) : adminQp s = { newQp 0 0 s.hif.depth s.hif.sqBase.toNat s.hif.cqBase.toNat 0 1 0 with
    state := (adminQp s).state, causes := (adminQp s).causes } := freezes_fold _ _

theorem adminQp_runs {s : State} (watched : s.srch.expired.contains 0 = false) (sound : s.brd.fatal = false) : (adminQp s).state = 1 := by
  have none' : adminCauses s = [] := by
    unfold adminCauses
    rw [watched, sound]
    rfl
  rw [adminQp, none']
  rfl

section
variable {s : State} (up : s.hif.linkUp = true) (off : s.hif.enable = false) (idle : s.hif.resetBusy = false) (fw : s.fw.running < 2)
include up off idle fw

theorem enableHif_ready (ok : adminRingsOk s = true) :
    enableHif s = { s with hif := { s.hif with enable := true, ready := true }, qps := s.qps ++ [adminQp s] } := by
  simp [enableHif, up, off, idle, Nat.not_le.mpr fw, ok]

theorem enableHif_refused (bad : adminRingsOk s = false) : enableHif s = { s with hif := { s.hif with enable := true, configError := true } } := by
  simp [enableHif, up, off, idle, Nat.not_le.mpr fw, bad]

end

theorem adminRingsOk_iff (s : State) : adminRingsOk s = true ↔ 2 ≤ s.hif.depth ∧ s.hif.depth ≤ 4096 ∧
    inWindows s 0 0 false s.hif.sqBase.toNat (64 * s.hif.depth) = true ∧
    inWindows s 0 0 true s.hif.cqBase.toNat (32 * s.hif.depth) = true := by
  simp [adminRingsOk, and_assoc]

-- The reset (R239).

/-- The interface as its reset leaves it: nothing of the host's is left, and nothing is put out for what was under way. -/
def InterfaceCleared (s u : State) : Prop :=
  u.qps = [] ∧ u.cmds = [] ∧ (u.tags.all fun w => w.state == 0) = true ∧
  u.hif = { s.hif with enable := false, ready := false, configError := false, resetBusy := false, grant := none, pendMsg := [] } ∧
  u.out = s.out ∧ u.lat.load = none ∧ u.evr = s.evr

theorem interfaceReset_clears (s : State) : InterfaceCleared s (interfaceReset s) := by
  refine ⟨rfl, rfl, ?_, ?_, by simp, rfl, by simp⟩
  all_goals simp [interfaceReset]

theorem functionReset_up {s : State} (up : s.hif.linkUp = true) : functionReset s = settle (interfaceReset s) := if_pos up

/-- Settles O20: enabling by whether the admin rings are valid, and every reset by the one that they share. -/
theorem enableAndResetsOfTheInterface : Obligations.EnableAndResetsOfTheInterface := by
  unfold Obligations.EnableAndResetsOfTheInterface
  refine ⟨fun s up off idle fw => ?_, fun s up => ?_⟩
  · intro ok
    refine ⟨fun valid => ?_, fun invalid => ?_⟩
    · have ready := enableHif_ready up off idle fw ((adminRingsOk_iff s).mpr valid)
      have ring := adminQp_ring s
      refine answers_of_run (congrArg Host.Outcome.next ready) ⟨rfl, rfl, adminQp s, rfl, ?_⟩
      refine ⟨?_, ?_, ?_, ?_, ?_, ?_, ?_, ?_, adminQp_runs⟩
      all_goals rw [ring]; rfl
    · have bad : adminRingsOk s = false := Bool.eq_false_iff.mpr fun h => invalid ((adminRingsOk_iff s).mp h)
      exact congrArg Host.Outcome.next (enableHif_refused up off idle fw bad)
  · intro cleared
    have clears : cleared (interfaceReset s) := interfaceReset_clears s
    have reset := functionReset_up up
    refine ⟨fun on => ⟨interfaceReset s, ?_, clears⟩, ⟨interfaceReset s, congrArg Host.Outcome.next reset, clears⟩,
      ⟨interfaceReset s, congrArg Host.Outcome.next reset, clears⟩, interfaceReset s, ?_, clears⟩
    · have disable : disableHif s = settle (interfaceReset s) := by simp [disableHif, up, on]
      exact congrArg Host.Outcome.next disable
    · have lost : linkLost s = { settle (interfaceReset s) with hif := { (settle (interfaceReset s)).hif with linkUp := false } } := by
        unfold linkLost
        rw [reset]
      exact congrArg Host.Outcome.next lost

end Sys2Proof.Machine
end

section
/-! Messages that are held and go out, and the settings of the link and the configuration space (R238, R254, R317). -/

namespace Sys2Proof.Machine

open Sys2Proof.Safety

theorem releaseMsg_due {v : Nat} {s : State} (up : s.hif.linkUp = true) (on : s.hif.msixOn = true) (bare : s.hif.msixMask = false)
    (held : v ∈ s.hif.pendMsg)
    (due : ∀ p, s.hif.lastMsg.find? (·.1 == v) = some p → p.2 + 1000 * s.fnc.interval.getD v 1 ≤ now s) : releaseMsg v s = msgSent v s := by
  have waits : s.hif.pendMsg.contains v = true := by simpa using held
  rw [releaseMsg, if_pos waits, sendMsi_due up on bare due]

theorem delayOver_due {n since : Nat} {s : State} {p : Qp} (pair : qpOf s n = some p) (counting : p.signalSince = some since)
    (unsignalled : 0 < p.toSignal) (passed : since + 1000 * p.cDelay ≤ now s) : delayOver n s = signalQp n s := by
  simp [delayOver, pair, counting, unsignalled, passed]

/-- A message that only the mask held goes out with the mask's end (R317). -/
theorem unmasked_single {v : Nat} {s : State} (up : s.hif.linkUp = true) (on : s.hif.msixOn = true) (bare : s.hif.msixMask = false)
    (held : s.hif.pendMsg = [v]) (fresh : s.hif.lastMsg = []) : unmasked s = { s with
      out := s.out ++ [.msix v], hif := { s.hif with lastMsg := [(v, now s)], pendMsg := [] } } := by
  have sent : sendMsi v s = msgSent v s := sendMsi_due up on bare fun p found => by simp [fresh] at found
  unfold unmasked
  rw [held, List.foldl_cons, List.foldl_nil, sent]
  simp [msgSent, held, fresh, put]

theorem unmasked_none {s : State} (none' : s.hif.pendMsg = []) : unmasked s = s := by rw [unmasked, none']; rfl

/-- Settles O21: a held message and a coalescing delay by what sends it when it is due, each setting by its own arm. -/
theorem interruptsAndLinkSettings : Obligations.InterruptsAndLinkSettings := by
  unfold Obligations.InterruptsAndLinkSettings
  refine ⟨⟨fun v s up on bare held due => congrArg Host.Outcome.next (releaseMsg_due up on bare held due), ?_⟩,
    fun s => ⟨fun speed width power speeds widths => ?_, fun up => ⟨fun b => ?_, fun b => ?_, fun n sizes => ?_, fun n sizes => ?_,
      fun b none' => ?_, fun v held on fresh => ?_⟩⟩⟩
  · intro n since s p pair counting unsignalled passed up on bare due
    have sent : sendMsi p.vector (updQp n Qp.signalled s) = msgSent p.vector (updQp n Qp.signalled s) := sendMsi_due up on bare due
    refine answers_of_run (congrArg Host.Outcome.next (delayOver_due pair counting unsignalled passed)) ⟨?_, qpOf_signalQp pair⟩
    rw [signalQp_of_pair pair, sent]
    rfl
  · have ok : linkModeOk speed width = true := by
      rw [linkModeOk, List.contains_iff_mem.mpr speeds, List.contains_iff_mem.mpr widths]
      rfl
    have takes : trained speed width s = { s with hif := { s.hif with linkUp := true, speed := speed, width := width } } := by
      simp [trained, power, ok]
    exact congrArg Host.Outcome.next takes
  all_goals
    have linked : ¬ (!s.hif.linkUp) = true := by simp [up]
    refine congrArg Host.Outcome.next (?_ : configure _ s = _)
    refine (if_neg linked).trans ?_
  · rfl
  · rfl
  · exact if_pos (List.contains_iff_mem.mpr sizes)
  · exact if_pos (List.contains_iff_mem.mpr sizes)
  · exact unmasked_none none'
  · exact unmasked_single (s := { s with hif := { s.hif with msixMask := false } }) up on rfl held fresh

end Sys2Proof.Machine
end

section
/-! The registers of BAR0 and the windows of BAR2 (R240, R241, R249, R332, R357 to R362): which writes are stored, what reads answer. -/

namespace Sys2Proof.Machine

open Sys2Proof.Safety

/-- Eight bytes written replace the whole register. -/
theorem mergeWord_word (old off : Nat) (v : Word64) : mergeWord old off 8 v.toNat = v.toNat := Nat.mod_eq_of_lt v.isLt

/-- An aligned word's bytes are the register's (R10). -/
theorem wordBytes_word (w : Nat → Nat) {off : Nat} (aligned : off % 8 = 0) : wordBytes w off 8 = leBytes 8 (w off) := by
  have lo : off / 8 * 8 = off := by omega
  simp [wordBytes, slice, lo]

/-- The CRC read of the record at the cursor (R332): answered, and the cursor moves on. -/
def crcPassed (d : Bytes) (s : State) : State := { (if tornRead s then bumpRas 13 1 s else s) with
  out := s.out ++ [.readData d], evr := { s.evr with cursor := (s.evr.cursor + 1) % 2 ^ 32 } }

theorem passCursor_emit (d : Bytes) (s : State) : passCursor (emit (.readData d) s) = crcPassed d s := by
  have torn : tornRead (emit (.readData d) s) = tornRead s := rfl
  unfold passCursor crcPassed
  rw [torn]
  split <;> rfl

section
variable {s : State} (up : s.hif.linkUp = true)
include up

-- Writes.

theorem writeBar_aligned {off size value : Nat} (aligned : bar0Aligned off size = true) :
    writeBar .bar0 off size value s = writeBar0 off size value s := by simp [writeBar, up, aligned]

theorem writeBar_misaligned {off size value : Nat} (bad : bar0Aligned off size = false) : writeBar .bar0 off size value s = badAccess s := by
  simp [writeBar, up, bad]

omit up in
/-- A word written where no register of its own and no MSI-X table stands (R357, R371). -/
theorem writeBar0_unwritable {off : Nat} (v : Word64) (aligned : off % 8 = 0) (block : 0xA0000 ≤ off) (below : off < 0xA2000) :
    writeBar0 off 8 v.toNat s = badAccess s := by
  have base : off / 8 * 8 = off := by omega
  unfold writeBar0
  simp only [base, beq_iff_eq, Bool.and_eq_true, decide_eq_true_eq]
  repeat rw [if_neg (by omega)]

omit up in
/-- A word written to the MSI-X table (R240). -/
theorem writeBar0_msix {off : Nat} (v : Word64) (aligned : off % 8 = 0) (from' : 0x100000 ≤ off) (below : off < 0x101000) :
    writeBar0 off 8 v.toNat s =
      { s with hif := { s.hif with msixTable := cellWrite (off - 0x100000) (leBytes 8 v.toNat) s.hif.msixTable } } := by
  have base : off / 8 * 8 = off := by omega
  unfold writeBar0
  simp only [base, beq_iff_eq, Bool.and_eq_true, decide_eq_true_eq, mergeWord_word]
  iterate 9 rw [if_neg (by omega)]
  rw [if_pos ⟨from', below⟩]

-- Reads.

theorem readBar_bar0 (off len : Nat) : readBar .bar0 off len s = readBar0 off len s := by simp [readBar, up]

theorem readBar_bar2 (off len : Nat) : readBar .bar2 off len s = readBar2 off len s := by simp [readBar, up]

end

theorem bar0Aligned_iff (off len : Nat) : bar0Aligned off len = true ↔ (len = 4 ∨ len = 8) ∧ off % len = 0 := by simp [bar0Aligned]

theorem bar0Aligned_false {off len : Nat} (bad : (len ≠ 4 ∧ len ≠ 8) ∨ off % len ≠ 0) : bar0Aligned off len = false := by
  rw [Bool.eq_false_iff, ne_eq, bar0Aligned_iff]
  tauto

theorem readsCrc_iff (off len : Nat) : readsCrc off len = true ↔ off ≤ 0x8007C ∧ 0x80080 ≤ off + len := by simp [readsCrc]

theorem readBar0_plain {off len : Nat} (s : State) (aligned : bar0Aligned off len = true) (other : readsCrc off len = false) :
    readBar0 off len s = emit (.readData (wordBytes (bar0Reg s) off len)) s := by simp [readBar0, aligned, other]

theorem readBar0_crc {off len : Nat} (s : State) (aligned : bar0Aligned off len = true) (crc : readsCrc off len = true) :
    readBar0 off len s = crcPassed (wordBytes (bar0Reg s) off len) s := by
  rw [readBar0, aligned, crc]
  exact passCursor_emit _ s

/-- Settles O22: a write by the register that stands at its offset, a read by what its bytes cover. -/
theorem registersReadAndWrite : Obligations.RegistersReadAndWrite := by
  unfold Obligations.RegistersReadAndWrite
  refine ⟨fun v s up => ?_, fun s up => ?_⟩
  · intro counts
    have stored : ∀ {off : Nat} {t : State}, off % 8 = 0 → writeBar0 off 8 v.toNat s = t → exec (.registerWrite .bar0 off 8 v) s = .next t :=
      fun aligned store => congrArg Host.Outcome.next ((writeBar_aligned up ((bar0Aligned_iff _ _).mpr ⟨.inr rfl, aligned⟩)).trans store)
    have refused : ∀ off size, (size ≠ 4 ∧ size ≠ 8) ∨ off % size ≠ 0 → exec (.registerWrite .bar0 off size v) s = .next counts :=
      fun off size bad => congrArg Host.Outcome.next (writeBar_misaligned up (bar0Aligned_false bad))
    refine ⟨stored rfl ?_, stored rfl ?_, stored rfl ?_, fun off' => stored rfl ?_, fun on => stored rfl ?_, fun off from' below => ?_, refused,
      fun off wf aligned from' below => ?_⟩
    · simp [writeBar0, mergeWord_word]
    · simp [writeBar0, mergeWord_word]
    · simp [writeBar0, mergeWord_word]
    · simp [writeBar0, mergeWord_word, setupWrite, off']
    · simp [writeBar0, setupWrite, on, badAccess, counts]
    · by_cases aligned : off % 8 = 0
      · exact stored aligned (writeBar0_unwritable v aligned from' below)
      · exact refused off 8 (.inr aligned)
    · refine answers_of_run (stored aligned (writeBar0_msix v aligned from' below)) ⟨rfl, ?_, fun a outside => ?_⟩
      · simpa using cellRead_cellWrite (off - 0x100000) (leBytes 8 v.toNat) s.hif.msixTable wf
      · exact cellGet_cellWrite_out _ a _ _ wf (by simpa using outside)
  · intro counts answers passed
    have bar0 : ∀ {off len : Nat} {t : State}, readBar0 off len s = t → readBar .bar0 off len s = t := fun read => (readBar_bar0 up _ _).trans read
    have bar2 : ∀ {off len : Nat} {t : State}, readBar2 off len s = t → exec (.misalignedRead .bar2 off len) s = .next t :=
      fun read => congrArg Host.Outcome.next ((readBar_bar2 up _ _).trans read)
    refine ⟨congrArg Host.Outcome.next (bar0 (readBar0_crc s rfl rfl)), congrArg Host.Outcome.next (bar0 (readBar0_crc s rfl rfl)),
      fun off len size aligned other => ?_, fun off len size aligned from' upto => ?_, fun off len window line => bar2 ?_,
      fun off aligned => wordBytes_word _ aligned, fun off len bad => ?_, fun off len window across => bar2 ?_, fun off len pages => bar2 ?_⟩
    · have plain : readsCrc off len = false := Bool.eq_false_iff.mpr fun h => other ((readsCrc_iff off len).mp h)
      exact congrArg Host.Outcome.next (bar0 (readBar0_plain s ((bar0Aligned_iff _ _).mpr ⟨size, aligned⟩) plain))
    · exact congrArg Host.Outcome.next (bar0 (readBar0_crc s ((bar0Aligned_iff _ _).mpr ⟨size, aligned⟩) ((readsCrc_iff off len).mpr ⟨from', upto⟩)))
    · have within : mirrorRead off len = true := by simp [mirrorRead]; omega
      rw [readBar2, if_neg (Nat.not_lt.mpr window), if_pos within]
      rfl
    · have zeros : readBar0 off len s = zeroRead len s := by simp [readBar0, bar0Aligned_false bad]
      exact congrArg Host.Outcome.next (bar0 zeros)
    · have crossing : mirrorRead off len = false := by simp [mirrorRead]; omega
      rw [readBar2, if_neg (Nat.not_lt.mpr window), crossing]
      rfl
    · exact if_pos pages

end Sys2Proof.Machine
end

section
/-! Power states and the power limiter (R261, R262, R318, R326, R345). -/

namespace Sys2Proof.Machine

open Sys2Proof.Safety

-- Power states (R261, R262).

/-- The module in a power state, its transition over (R262); PS0 gives back the clock that nothing holds. -/
def poweredTo (n : Nat) (s : State) : State := { s with brd := { s.brd with
  trans := none, psNow := n, psSel := n, coreMhz := if n = 0 ∧ s.brd.limiter = false ∧ clockHeld s = false then 1400 else s.brd.coreMhz } }

theorem endPower_clock (n : Nat) (s : State) : (if n == 0 && !s.brd.limiter then fullClock s else s.brd.coreMhz) =
    if n = 0 ∧ s.brd.limiter = false ∧ clockHeld s = false then 1400 else s.brd.coreMhz := by
  cases lim : s.brd.limiter <;> cases held : clockHeld s <;> simp [fullClock, held]

/-- A transition's end with its SET_FEATURE still there: it completes behind the state's entry. -/
theorem endPower_eq {s : State} {tag : Nat} {c : Cmd} (holds : cmdOf s tag = some c) (n st : Nat) : endPower n st tag s =
    if st == stOk then succeed c (leBytes 8 n) (countHealth s (poweredTo n s)) else finish c st 0 0 [] running0 (countHealth s (poweredTo n s)) := by
  have found : cmdOf (countHealth s (poweredTo n s)) tag = some c := (cmdOf_congr (by simp [poweredTo]) tag).trans holds
  unfold endPower
  simp only [endPower_clock]
  split
  next c' found' =>
    cases Option.some.inj (found.symm.trans found')
    rfl
  next none' => cases found.symm.trans none'

section
variable {s : State} {w : PsTrans} (runs : s.brd.trans = some w)
include runs

theorem powerEntry_done (done : entryDone s w = true) : powerEntry s = settle (endPower w.target stOk w.tag s) := by simp [powerEntry, runs, done]

theorem powerEntry_waits (waits : entryDone s w = false) : powerEntry s = s := by simp [powerEntry, runs, waits]

theorem ps3Timeout_due (ps3 : w.target = 3) (due : w.since + 1000000000 ≤ now s) : ps3Timeout s = settle (endPower 2 stBusy w.tag s) := by
  simp [ps3Timeout, runs, ps3, due]

end

-- The limiter (R318).

/-- The average of a sample taken (R318). -/
def metered (mV mA : Nat) (s : State) : State := { s with brd := { s.brd with mV := mV, mA := mA } }

/-- The limiter acting, counted when it begins (R318, R369). -/
def limiting (s : State) : State := { s with
  brd := { s.brd with limiter := true, limitAt := if s.brd.limiter then s.brd.limitAt else none },
  mem := if s.brd.limiter then s.mem else (bumpRas 21 1 s).mem }

theorem limiting_eq (s : State) :
    (if s.brd.limiter then s else bumpRas 21 1 { s with brd := { s.brd with limiter := true, limitAt := none } }) = limiting s := by
  cases acts : s.brd.limiter
  · simp [limiting, acts, bumpRas]
  · have brd : { s.brd with limiter := true } = s.brd := by rw [← acts]
    simp only [limiting, acts, if_true]
    exact congrArg (fun b => { s with brd := b }) brd.symm

theorem limiterSample_over {mV mA : Nat} {s : State} (power : s.brd.mainPower = true) (above : overLocked (metered mV mA s) = true) :
    limiterSample mV mA s = limiterEvent (lowerClock (limiting (metered mV mA s))) := by
  have on : (!s.brd.mainPower) = false := by simp [power]
  unfold limiterSample
  rw [on]
  exact (if_pos above).trans (congrArg (fun u => limiterEvent (lowerClock u)) (limiting_eq (metered mV mA s)))

/-- What a sample under every cap does where the limiter does not act (R318). -/
def belowCaps (s : State) : State :=
  if !(s.brd.limiter || s.brd.overSince.isSome || s.brd.cleanSince.isSome) then s
  else if wellUnder s then settle (restoreClock s)
  else { s with brd := { s.brd with cleanSince := none } }

theorem limiterSample_under {mV mA : Nat} {s : State} (power : s.brd.mainPower = true) (idle : s.brd.limiter = false)
    (under : overCap (metered mV mA s) = false) : limiterSample mV mA s = belowCaps (metered mV mA s) := by
  have on : ¬ (!s.brd.mainPower) = true := by simp [power]
  have cap : ¬ overCap (metered mV mA s) = true := by simp [under]
  have locked : ¬ overLocked (metered mV mA s) = true := fun h => cap (by simp [overCap, h])
  have quiet : (if (metered mV mA s).brd.limiter then limiterEvent (metered mV mA s) else metered mV mA s) = metered mV mA s :=
    if_neg (by simp [metered, idle])
  exact (if_neg on).trans ((if_neg locked).trans ((if_neg cap).trans (congrArg belowCaps quiet)))

theorem restoreClock_eq {since : Nat} {s : State} (clean : s.brd.cleanSince = some since) (due : since + 10000000 ≤ now s) :
    restoreClock s = if underAll s then
        { s with brd := { s.brd with coreMhz := fullClock s, limiter := false, overSince := none, cleanSince := none, limitAt := none } }
      else { s with brd := { s.brd with limiter := false, overSince := none, limitAt := none } } := by
  simp [restoreClock, clean, Nat.not_lt.mpr due]

/-- 10 ms well under both caps (R318; log 48): the limiter ends, and the clock comes back where no lower cap and no temperature holds it. -/
theorem restoreClock_due {mV mA since : Nat} {s : State} (clean : s.brd.cleanSince = some since) (due : since + 10000000 ≤ now s) :
    let u := restoreClock (metered mV mA s)
    u.brd.coreMhz = (if underAll (metered mV mA s) = true ∧ clockHeld s = false then 1400 else s.brd.coreMhz) ∧
      u = { s with brd := u.brd } := by
  intro u
  have ends := restoreClock_eq (s := metered mV mA s) clean due
  dsimp only [u]
  rw [ends]
  by_cases under : underAll (metered mV mA s) = true
  · rw [if_pos under]
    refine ⟨?_, rfl⟩
    cases held : clockHeld s
    · exact (if_neg (Bool.eq_false_iff.mp held)).trans (if_pos ⟨under, rfl⟩).symm
    · exact (if_pos held).trans (if_neg (by simp)).symm
  · rw [if_neg under]
    exact ⟨(if_neg fun h => under h.1).symm, rfl⟩

theorem limiterEvent_told (s : State) : Told s (limiterEvent s) ∧ (limiterEvent s).brd = { s.brd with limitAt := (limiterEvent s).brd.limitAt } := by
  unfold limiterEvent
  split
  · exact ⟨told_of_eq rfl rfl, rfl⟩
  · refine ⟨told_trans (told_of_eq rfl rfl) (record_told ..), ?_⟩
    simp

theorem lowerClock_brd (s : State) : (lowerClock s).brd = { s.brd with
    coreMhz := if s.brd.overSince.any fun x => x + 50000 ≤ now s then max 100 (s.brd.coreMhz - 100) else s.brd.coreMhz,
    overSince := (lowerClock s).brd.overSince, cleanSince := none } := by
  unfold lowerClock
  split
  next first => simp [first]
  next t since =>
    by_cases due : t + 50000 ≤ now s
    · simp [since, due]
    · simp [since, due]

/-- A sample above the locked cap (R318): the limiter acts, and the clock is a step lower where the last step was 50 µs ago. -/
theorem overSample_acts (mV mA : Nat) (s : State) :
    let u := limiterEvent (lowerClock (limiting (metered mV mA s)))
    u.brd.limiter = true ∧ u.brd.mV = mV ∧ u.brd.mA = mA ∧
      u.brd.coreMhz = (if s.brd.overSince.any fun x => x + 50000 ≤ now s then max 100 (s.brd.coreMhz - 100) else s.brd.coreMhz) ∧
      Told s u ∧ u = { s with brd := u.brd, mem := u.mem, evr := u.evr, hif := u.hif, out := u.out } := by
  intro u
  obtain ⟨told, brd⟩ := limiterEvent_told (lowerClock (limiting (metered mV mA s)))
  have acts : u.brd = { (lowerClock (limiting (metered mV mA s))).brd with limitAt := u.brd.limitAt } := brd
  rw [lowerClock_brd] at acts
  have before : Told s (lowerClock (limiting (metered mV mA s))) := told_of_eq (by simp [limiting, metered]) (by simp [limiting, metered])
  refine ⟨by rw [acts]; rfl, by rw [acts]; rfl, by rw [acts]; rfl, by rw [acts]; rfl, told_trans before told, ?_⟩
  apply State.ext_of_fields <;> simp [u, limiting, metered]

/-- Settles O41: a transition's end by whether its entry is done, a sample by the caps it is over or under. -/
theorem powerStatesAndLimiter : Obligations.PowerStatesAndLimiter := by
  unfold Obligations.PowerStatesAndLimiter
  refine ⟨fun s w c runs holds => ?_, fun mV mA s power => ?_⟩
  · intro goes
    refine ⟨fun done => ?_, fun waits => ?_, fun ps3 due => ?_⟩
    · have ends : powerEntry s = settle (succeed c (leBytes 8 w.target) (countHealth s (goes w.target))) := by
        rw [powerEntry_done runs done, endPower_eq holds]
        rfl
      exact congrArg (fun u => Host.Outcome.next (countHealth s u)) ends
    · exact congrArg (fun u => Host.Outcome.next (countHealth s u)) (powerEntry_waits runs waits)
    · have ends : ps3Timeout s = settle (finish c 5 0 0 [] running0 (countHealth s (goes 2))) := by
        rw [ps3Timeout_due runs ps3 due, endPower_eq holds]
        rfl
      exact congrArg (fun u => Host.Outcome.next (countHealth s u)) ends
  · refine ⟨fun above => ?_, fun idle fresh dirty under => ?_, fun since idle clean due under well => ?_⟩
    · have locked : overLocked (metered mV mA s) = true := by simp [overLocked, mainMw, metered, above]
      exact ⟨_, congrArg (fun u => Host.Outcome.next (countHealth s u)) (limiterSample_over power locked), overSample_acts mV mA s⟩
    · have reads : limiterSample mV mA s = metered mV mA s := by
        rw [limiterSample_under power idle under]
        exact if_pos (by simp [metered, idle, fresh, dirty])
      exact congrArg (fun u => Host.Outcome.next (countHealth s u)) reads
    · have ends : limiterSample mV mA s = settle (restoreClock (metered mV mA s)) := by
        rw [limiterSample_under power idle under]
        exact (if_neg (by simp [metered, clean])).trans (if_pos well)
      exact ⟨_, congrArg (fun u => Host.Outcome.next (countHealth s u)) ends, restoreClock_due clean due⟩

end Sys2Proof.Machine
end

section
/-! Fetching an entry (R229, R244, R251, R252, R266): what a fetch takes, and where the entry's command goes from there. -/

namespace Sys2Proof.Machine

open Sys2Proof.Safety

-- The row of a command and the entry that spells it (R263; log 1).

/-- The row that fetches a command: an opcode of no command is fetched as IDENTIFY's entry (log 1). -/
def rowOf : Op → Op
  | .other _ => .identify
  | o => o

/-- The entry as its row takes it, with the opcode that R263 does not assign. -/
def entryOf : Op → Entry → Entry
  | .other c, e => { e with badOpcode := some (BitVec.ofNat 8 c) }
  | _, e => e

theorem entryOf_eq (o : Op) (e : Entry) : entryOf o e = { e with badOpcode := (entryOf o e).badOpcode } := by cases o <;> rfl

theorem exec_cmdInstr (o : Op) (e : Entry) (s : State) : exec (cmdInstr o e) s = .next (fetchEntry (rowOf o) (entryOf o e) s) := by
  cases o <;> rfl

theorem entryOp_entryOf {o : Op} {e : Entry} (plain : e.badOpcode = none) (unassigned : ∀ c, o = .other c → c < 256 ∧ assigned c = false) :
    entryOp (rowOf o) (entryOf o e) = o := by
  cases o with
  | other c =>
    obtain ⟨byte, free⟩ := unassigned c rfl
    have code : (BitVec.ofNat 8 c).toNat = c := Nat.mod_eq_of_lt byte
    simp [entryOp, entryOf, code, free]
  | _ => simp [entryOp, entryOf, rowOf, plain]

-- What a fetch takes.

/-- The pair of an entry that is fetched (R243, R251): its slot maps to the tag, the head moves on, and one more command is in flight. -/
def Qp.fetched (t : Nat) (x : Qp) : Qp := { x with
  slotTags := put x.sqHead t x.slotTags, sqHead := if x.sqHead + 1 == x.depth then 0 else x.sqHead + 1, inFlight := x.inFlight + 1 }

section
variable (o : Op) (e : Entry) (s : State) (q : Qp) (t : Nat)

@[simp] theorem taken_cmds : (taken o e s q t).cmds = s.cmds ++ [theCmd o e s q t] := by
  simp only [taken, wake_rest, countGrant_rest]
  rfl

@[simp] theorem taken_now : now (taken o e s q t) = now s := by
  simp only [now, taken, wake_clk, countGrant_rest, takeEntry_rest]

theorem taken_tags : (taken o e s q t).tags =
    (updTag t (fun w => ⟨t, 1, false, e.qp, e.cid.toNat, (w.use + 1) % 65536, 0⟩) s).tags := by
  simp only [taken, wake_rest, countGrant_rest]
  rfl

theorem taken_qps : (taken o e s q t).qps = (updQp q.num (Qp.fetched t) s).qps := by
  simp only [taken, wake_rest, countGrant_rest]
  rfl

theorem qpOf_taken (pair : qpOf s e.qp = some q) : qpOf (taken o e s q t) e.qp = some (q.fetched t) := by
  have held : q.num = e.qp := num_of_qpOf pair
  rw [qpOf_congr (taken_qps o e s q t), held, qpOf_updQp e.qp (Qp.fetched t) s fun _ => rfl, pair]
  rfl

/-- Of a free tag, the fetch makes the one command that holds it. -/
theorem cmdOf_taken (free : tagHeld s t = false) : cmdOf (taken o e s q t) t = some (theCmd o e s q t) := by
  have none' : s.cmds.find? (fun x => x.tag == t) = none := cmdOf_of_not_held s t free
  simp [cmdOf, none', List.find?_append]

end

-- Where a fetched command goes (R41, R257, R266).

section
variable {o : Op} {e : Entry} {s : State} {q : Qp} {t : Nat}

/-- A command of R41 that passes check 1 and has no twin waits for its turn while another one is held (log 19). -/
def waitsItsTurn (c : Cmd) (u : State) : Bool :=
  (u.cmds.any fun x => x.tag != c.tag && isSerial x.op) && isSerial c.op && check1 c &&
    !u.cmds.any fun x => x.tag != c.tag && x.qp == c.qp && x.cid == c.cid

/-- What becomes of an entry that has been fetched, before what can go on then does. -/
def handled (c : Cmd) (q : Qp) (u : State) : State :=
  if q.discardTo.isSome then
    endDiscard q.num (finish c stAborted 0 0 [] running0 (updQp q.num (fun x => { x with discarded := x.discarded + 1 }) u))
  else if waitsItsTurn c u then updCmd c.tag (fun _ => { c with phase := .turn }) u
  else checkCmd c u

theorem exec_fetchable (h : Fetchable o e s q t) :
    exec (cmdInstr o e) s = .next (settle (handled (theCmd o e s q t) q (taken o e s q t))) := by
  obtain ⟨pair, on, ready, share, turn, tag, plain, unassigned⟩ := h
  have known := entryOp_entryOf plain unassigned
  rw [exec_cmdInstr]
  refine congrArg Host.Outcome.next ?_
  rw [entryOf_eq] at known ⊢
  simp only [fetchEntry, pair, on, ready, share, turn, tag, known, Bool.not_true, Bool.or_self, bne_self_eq_false, Bool.false_eq_true, if_false]
  simp only [handled, apply_ite settle]
  rfl

theorem handled_of_kept {c : Cmd} {u : State} (kept : q.discardTo = none) :
    handled c q u = if waitsItsTurn c u then updCmd c.tag (fun _ => { c with phase := .turn }) u else checkCmd c u := by
  simp [handled, kept]

/-- With no command of R41 held but the one that is fetched, nothing waits for a turn. -/
theorem not_waitsItsTurn {c : Cmd} {u : State} {l : List Cmd} (cmds : u.cmds = l ++ [c])
    (alone : isSerial c.op = true → (l.any fun x => isSerial x.op) = false) : waitsItsTurn c u = false := by
  cases serial : isSerial c.op with
  | false => simp [waitsItsTurn, serial]
  | true =>
    have others : (u.cmds.any fun x => x.tag != c.tag && isSerial x.op) = false := by
      have none' := alone serial
      simp only [List.any_eq_false] at none'
      simpa [cmds] using fun x held _ => by simpa using none' x held
    simp [waitsItsTurn, others]

theorem exec_fetched (h : Fetched o e s q t) :
    exec (cmdInstr o e) s = .next (settle (checkCmd (theCmd o e s q t) (taken o e s q t))) := by
  have atOnce := not_waitsItsTurn (taken_cmds o e s q t) h.alone
  rw [exec_fetchable h.toFetchable, handled_of_kept h.kept, atOnce]
  rfl

theorem exec_accepted (h : Accepted o e s q t) (plain : o ≠ .modelLoad) :
    exec (cmdInstr o e) s = .next (settle (beginCmd (theCmd o e s q t) (taken o e s q t))) := by
  rw [exec_fetched h.fetched, checkCmd, h.checks]
  simp [acceptCmd, h.noData, plain]

theorem exec_begins {v : State} (h : Accepted o e s q t) (plain : o ≠ .modelLoad)
    (begins : beginCmd (theCmd o e s q t) (taken o e s q t) = v) : exec (cmdInstr o e) s = .next (settle v) := by
  rw [exec_accepted h plain, begins]

end

-- Phases, and what a command asks of the host (R238, R246, R252).

theorem cmdOf_setPhase (t : Nat) (p : CmdPhase) (s : State) : cmdOf (setPhase t p s) t = (cmdOf s t).map fun x => { x with phase := p } :=
  cmdOf_updCmd t (fun x => { x with phase := p }) s fun _ => rfl

theorem cmdOf_setPhase_of_found {t : Nat} {s : State} {c : Cmd} (found : cmdOf s t = some c) (p : CmdPhase) :
    cmdOf (setPhase t p s) t = some { c with phase := p } := by
  rw [cmdOf_setPhase, found]
  rfl

theorem cmdOf_replaced {s : State} {t : Nat} {x c : Cmd} (found : cmdOf s t = some x) (same : c.tag = t) :
    cmdOf (updCmd t (fun _ => c) s) t = some c := by
  rw [cmdOf_replace t c s same, found]
  rfl

theorem askData_out (c : Cmd) (a n : Nat) (s : State) : (askData c a n s).out = s.out ++ [.hostRead c.tag a n] := by simp [askData, emit]

theorem cmdOf_askData (c : Cmd) (a n : Nat) (s : State) :
    cmdOf (askData c a n s) c.tag = (cmdOf s c.tag).map fun x => { x with asked := now s, phase := .reading } := by
  have asks : cmdOf (updCmd c.tag (fun x => { x with asked := now s }) s) c.tag = (cmdOf s c.tag).map fun x => { x with asked := now s } :=
    cmdOf_updCmd c.tag (fun x => { x with asked := now s }) s fun _ => rfl
  calc cmdOf (askData c a n s) c.tag
    _ = (cmdOf (updCmd c.tag (fun x => { x with asked := now s }) s) c.tag).map fun x => { x with phase := .reading } := cmdOf_setPhase c.tag .reading _
    _ = (cmdOf s c.tag).map fun x => { x with asked := now s, phase := .reading } := by rw [asks, Option.map_map]; rfl

end Sys2Proof.Machine
end

section
/-! A fetched entry in its slot-tag map (R251), and O7. -/

namespace Sys2Proof.Machine

open Sys2Proof.Safety

/-- What software reads in the mirror window for SQ slot j of a pair (R251). -/
def slotTag (s : State) (n j : Nat) : Nat := pairWord s n (0x2000 + j / 4 * 8) / 2 ^ (16 * (j % 4)) % 65536

/-- One of the four halves of a word made of 16-bit values. -/
theorem quarter (f : Nat → Nat) {i : Nat} (small : i < 4) :
    ((List.range 4).map fun j => 2 ^ (16 * j) * (f j % 65536)).sum / 2 ^ (16 * i) % 65536 = f i % 65536 := by
  simp only [List.range_succ, List.range_zero, List.nil_append, List.map_cons, List.map_nil, List.cons_append, List.sum_cons, List.sum_nil]
  interval_cases i <;> omega

theorem slotTag_eq {s : State} {n j : Nat} {p : Qp} (pair : qpOf s n = some p) (slot : j < 4096) :
    slotTag s n j = look 0 j p.slotTags % 65536 := by
  have lo : 0x2000 ≤ 0x2000 + j / 4 * 8 := by omega
  have hi : 0x2000 + j / 4 * 8 < 0x4000 := by omega
  have first : (0x2000 + j / 4 * 8 - 0x2000) / 2 = 4 * (j / 4) := by omega
  have notHead : (0x2000 + j / 4 * 8 == 0) = false := by simp
  have notState : (0x2000 + j / 4 * 8 == 8) = false := by simp; omega
  have place : 4 * (j / 4) + j % 4 = j := by omega
  simp only [slotTag, pairWord, pair, notHead, notState, lo, hi, first, decide_true, Bool.and_self, if_true, Bool.false_eq_true, if_false]
  rw [quarter (fun k => look 0 (4 * (j / 4) + k) p.slotTags) (Nat.mod_lt j (by decide)), place]

/-- The state word of a tag replaced by one of the same tag. -/
theorem tagOf_updTag_of_held {t : Nat} {g : TagWord → TagWord} {s : State} (same : ∀ x, x.tag = t → (g x).tag = t) :
    tagOf (updTag t g s) t = g (tagOf s t) := by
  cases held : s.tags.find? fun x => x.tag == t with
  | none =>
    have fresh : (s.tags.any fun x => x.tag == t) = false := by simpa using held
    simp [tagOf, updTag, fresh, held, List.find?_append, same]
  | some w =>
    have there : (s.tags.any fun x => x.tag == t) = true := List.any_eq_true.mpr ⟨w, List.mem_of_find?_eq_some held, by simpa using List.find?_some held⟩
    have word := find?_updFirst (fun x : TagWord => x.tag == t) g s.tags (by simpa using same)
    simp [tagOf, updTag, there, word, held]

/-- Settles O7, by what the fetch takes and by the slot-tag map's words in the mirror window. -/
theorem entryIsFetchedUnderATag : Obligations.EntryIsFetchedUnderATag := by
  unfold Obligations.EntryIsFetchedUnderATag
  intro o e s q t h
  have now' := qpOf_taken o e s q t h.pair
  have small : t < 65536 := freeTag_range s _ t h.tag
  refine ⟨exec_fetched h, taken_cmds o e s q t, ?_, ?_, fun slot => ?_, fun j slot apart => ?_⟩
  · exact (tagOf_congr (taken_tags o e s q t) t).trans (tagOf_updTag_of_held fun _ _ => rfl)
  · simpa [Qp.fetched] using now'
  · exact (slotTag_eq now' slot).trans (by simp [Qp.fetched, look_put, Nat.mod_eq_of_lt small])
  · calc slotTag (taken o e s q t) e.qp j
      _ = look 0 j (put q.sqHead t q.slotTags) % 65536 := slotTag_eq now' slot
      _ = look 0 j q.slotTags % 65536 := by rw [look_put_ne 0 t q.sqHead j q.slotTags apart]
      _ = slotTag s e.qp j := (slotTag_eq h.pair slot).symm

end Sys2Proof.Machine
end

section
/-! Entries that wait or fail a check (R41, R244, R257, R266): O8. -/

namespace Sys2Proof.Machine

open Sys2Proof.Safety

section
variable {o : Op} {e : Entry} {s : State} {q : Qp} {t : Nat}

/-- An entry whose pair is not ready for it stays in its ring (R243, R244, R256). -/
theorem exec_unready (closed : ∀ q, qpOf s e.qp = some q → ringReady q = false) : exec (cmdInstr o e) s = .next s := by
  rw [exec_cmdInstr, entryOf_eq]
  refine congrArg Host.Outcome.next ?_
  unfold fetchEntry
  cases pair : qpOf s e.qp with
  | none => rfl
  | some q => simp [closed q pair]

/-- A failed check completes the command with its status (R266). -/
theorem exec_fails_check {st : Nat} {w : ErrAt} (h : Fetched o e s q t) (fails : earlyChecks (taken o e s q t) (theCmd o e s q t) = some (st, w)) :
    exec (cmdInstr o e) s = .next (settle (finish (theCmd o e s q t) st 0 0 [] w (taken o e s q t))) := by
  rw [exec_fetched h, checkCmd, fails]

/-- An entry that is discarded is one more of its pair's (R257). -/
theorem exec_discarded (h : Fetchable o e s q t) (discards : q.discardTo ≠ none) :
    exec (cmdInstr o e) s = .next (settle (endDiscard e.qp (finish (theCmd o e s q t) stAborted 0 0 [] running0
      (updQp e.qp (fun x => { x with discarded := x.discarded + 1 }) (taken o e s q t))))) := by
  have some' : q.discardTo.isSome = true := Option.isSome_iff_ne_none.mpr discards
  rw [exec_fetchable h, handled, some', num_of_qpOf h.pair]
  rfl

/-- The new command waits for its turn if one of R41 is held, of which none has its tag, and no command its CID on its pair (log 19). -/
theorem waitsItsTurn_taken (serial : isSerial o = true) (held : (s.cmds.any fun x => isSerial x.op) = true)
    (first : check1 (theCmd o e s q t) = true) (single : (s.cmds.any fun x => x.qp == e.qp && x.cid == e.cid.toNat) = false)
    (free : (s.cmds.any fun x => x.tag == t) = false) : waitsItsTurn (theCmd o e s q t) (taken o e s q t) = true := by
  simp only [List.any_eq_false, Bool.and_eq_true, beq_iff_eq, not_and] at single free
  have after : (s.cmds.any fun x => x.tag != t && isSerial x.op) = true := by
    obtain ⟨x, mem, kind⟩ := List.any_eq_true.mp held
    exact List.any_eq_true.mpr ⟨x, mem, by simp [free x mem, kind]⟩
  have noTwin : (s.cmds.any fun x => x.tag != t && x.qp == e.qp && x.cid == e.cid.toNat) = false := by
    simpa using fun x mem _ => single x mem
  have cid : (theCmd o e s q t).cid = e.cid.toNat := rfl
  simp [waitsItsTurn, after, noTwin, serial, first, cid]

end

/-- Settles O8: what is not ready, fails a check, is discarded or waits its turn, each by what the fetch does with it. -/
theorem entriesWaitOrFailACheck : Obligations.EntriesWaitOrFailACheck := by
  unfold Obligations.EntriesWaitOrFailACheck
  refine ⟨fun o e s => exec_unready, fun o e s q t st w => exec_fails_check, fun o e s q t h discards => ?_,
    fun o e s q t h kept serial held first single free => ?_⟩
  · have counted := qpOf_updQp e.qp (fun x => { x with discarded := x.discarded + 1 }) (taken o e s q t) fun _ => rfl
    have pair := qpOf_taken o e s q t h.pair
    exact ⟨_, exec_discarded h discards, _, rfl, rfl, _, pair, by rw [counted, pair]; rfl⟩
  · have waits := waitsItsTurn_taken serial held first single free
    have run := exec_fetchable h
    rw [handled_of_kept kept, waits, if_pos rfl] at run
    refine settles_of_run run ⟨_, rfl, ?_, rfl, ?_⟩
    · exact cmdOf_replaced (cmdOf_taken o e s q t free) rfl
    · simp [updCmd]

end Sys2Proof.Machine
end

section
/-! Host data and the read that never returns (R238, R266, R273, R287): O17. -/

namespace Sys2Proof.Machine

open Sys2Proof.Safety

/-- A command with its data, which has all arrived. -/
def Cmd.loaded (c : Cmd) (d : Bytes) : Cmd := { c with data := d, phase := .waiting }

/-- A command stands in the state's table with its data. -/
def withData (c : Cmd) (d : Bytes) (s : State) : State := updCmd c.tag (fun _ => c.loaded d) s

section
variable {t : Nat} {d : Bytes} {b : Bool} {s : State} {c : Cmd}

/-- No command waits for the answer of a read. -/
theorem exec_unasked (unasked : ∀ c, cmdOf s t = some c → c.phase ≠ .reading) :
    exec (.hostReadCompletion t d b) s = .next s ∧ exec (.hostReadTimeout t) s = .next s := by
  have data : hostData t d b s = s := by
    unfold hostData
    cases found : cmdOf s t with
    | none => rfl
    | some c => simp [unasked c found]
  have time : readTimeout t s = s := by
    unfold readTimeout
    cases found : cmdOf s t with
    | none => rfl
    | some c => simp [unasked c found]
  exact ⟨congrArg Host.Outcome.next data, congrArg Host.Outcome.next time⟩

section
variable (found : cmdOf s t = some c) (reading : c.phase = .reading)
include found reading

theorem hostData_poisoned : hostData t d true s = settle (endCmd 3 c s) := by
  simp [hostData, found, reading, stHostData]

theorem readTimeout_eq : readTimeout t s = if c.asked + 50000000 ≤ now s then settle (endCmd 3 c s) else s := by
  simp [readTimeout, found, reading, stHostData]

theorem hostData_short (other : c.op ≠ .train) (short : d.length ≠ inputLen c) : hostData t d false s = s := by
  simp [hostData, found, reading, askedLen, other, short]

theorem hostData_checked (other : c.op ≠ .train) (whole : d.length = inputLen c) (good : check5 s c d = none) :
    hostData t d false s = settle (beginCmd (c.loaded d) (withData c d s)) := by
  simp [hostData, found, reading, askedLen, other, whole, haveData, good, Cmd.loaded, withData]

theorem hostData_header (trains : c.op = .train) (first : c.mark = 0) (whole : d.length = inputLen c) (good : trainHeadData d = none)
    (more : (readTrainHead d).inputLen ≠ 0) (inside : inWindows s c.qp c.facet false (c.dataAddr + 32) (readTrainHead d).inputLen = true) :
    hostData t d false s = settle (askData { c with data := d, mark := 1 } (c.dataAddr + 32) (readTrainHead d).inputLen
      (updCmd c.tag (fun _ => { c with data := d, mark := 1 }) s)) := by
  simp [hostData, found, reading, askedLen, trains, first, whole, trainHeader, inside, good, more]

end

/-- INSERT, DELETE, LABEL_UPDATE, FETCH and ENCODE wait once their data is there. -/
theorem beginCmd_waits {c : Cmd} (waits : c.op ∈ [.insert, .delete, .labelUpdate, .fetch, .encode]) : beginCmd c s = setPhase c.tag .waiting s := by
  simp only [List.mem_cons, List.not_mem_nil, or_false] at waits
  unfold beginCmd
  rcases waits with h | h | h | h | h <;> rw [h]

theorem beginCmd_query {c : Cmd} (asks : c.op = .query ∨ c.op = .queryBatch) : beginCmd c s = beginQuery c s := by
  unfold beginCmd
  rcases asks with h | h <;> rw [h]

/-- Below a root, a query joins its facet's admission queue (R83, R230). -/
theorem beginQuery_joins (alone : domainRoot s = false) :
    beginQuery c s = setPhase c.tag .waiting (updFacet c.facet (fun x => { x with admission := x.admission ++ [c.tag] }) s) := by
  simp [beginQuery, alone]

/-- The staging buffer with a download in it (R273). -/
def downloaded (c : Cmd) (s : State) : State :=
  { s with fw := { s.fw with
    staging := cellWrite (c.ar 0 4) c.data s.fw.staging,
    pages := nub (s.fw.pages ++ (List.range (c.dataLen / 4096)).map fun i => c.ar 0 4 / 4096 + i) } }

theorem beginCmd_fwDownload {c : Cmd} (loads : c.op = .fwDownload) (free : s.fw.committing = none) :
    beginCmd c s = succeed c [] (downloaded c s) := by
  unfold beginCmd
  rw [loads]
  simp [beginFwDownload, free, downloaded]

end

/-- Settles O17: an answer without its question changes nothing; any other one goes by its length, its check and its command. -/
theorem hostDataStartsOrEndsTheCommand : Obligations.HostDataStartsOrEndsTheCommand := by
  unfold Obligations.HostDataStartsOrEndsTheCommand
  refine ⟨fun t d b s => exec_unasked, fun t d s c found reading => ?_⟩
  have held : c.tag = t := tag_of_cmdOf found
  subst held
  have loaded : cmdOf (withData c d s) c.tag = some (c.loaded d) := cmdOf_replaced found rfl
  have run := fun (other : c.op ≠ .train) (whole : d.length = inputLen c) (good : check5 s c d = none) =>
    congrArg Host.Outcome.next (β := Host.Outcome State Fault Refusal) (hostData_checked found reading other whole good)
  refine ⟨congrArg Host.Outcome.next (hostData_poisoned found reading), fun late => ?_, fun early => ?_, run,
    fun other short => congrArg Host.Outcome.next (hostData_short found reading other short), fun trains first whole good more inside => ?_,
    fun waits whole good => ?_, fun asks whole good alone => ?_, fun loads whole good free wf => ?_⟩
  · exact congrArg Host.Outcome.next ((readTimeout_eq found reading).trans (if_pos late))
  · exact congrArg Host.Outcome.next ((readTimeout_eq found reading).trans (if_neg (by omega)))
  · have header := cmdOf_replaced (c := { c with data := d, mark := 1 }) found rfl
    have asked := cmdOf_askData { c with data := d, mark := 1 } (c.dataAddr + 32) (readTrainHead d).inputLen
      (updCmd c.tag (fun _ => { c with data := d, mark := 1 }) s)
    rw [header] at asked
    exact ⟨_, congrArg Host.Outcome.next (hostData_header found reading trains first whole good more inside), askData_out .., by rw [asked]; rfl,
      by rw [asked]; rfl⟩
  · have other : c.op ≠ .train := by rintro trains; simp [trains] at waits
    have begun := run other whole good
    rw [beginCmd_waits (c := c.loaded d) waits] at begun
    have waiting := cmdOf_setPhase_of_found loaded .waiting
    exact ⟨_, begun, congrArg (Option.map (·.phase)) waiting, congrArg (Option.map (·.data)) waiting, rfl, rfl, rfl⟩
  · have other : c.op ≠ .train := by rintro trains; simp [trains] at asks
    have begun := run other whole good
    rw [beginCmd_query (c := c.loaded d) asks, beginQuery_joins (s := withData c d s) alone] at begun
    have joined : cmdOf (updFacet c.facet (fun x => { x with admission := x.admission ++ [c.tag] }) (withData c d s)) c.tag = some (c.loaded d) := loaded
    exact ⟨_, begun, congrArg (Option.map (·.phase)) (cmdOf_setPhase_of_found joined .waiting), rfl⟩
  · have other : c.op ≠ .train := by rintro trains; simp [trains] at loads
    have begun := run other whole good
    rw [beginCmd_fwDownload (s := withData c d s) (c := c.loaded d) loads free] at begun
    exact ⟨_, begun, _, rfl, cellRead_cellWrite _ d _ wf, fun a out => cellGet_cellWrite_out _ a d _ wf out, rfl, rfl⟩

end Sys2Proof.Machine
end

section
/-! ABORT and RESUME_QP (R256 to R260): O13. -/

namespace Sys2Proof.Machine

open Sys2Proof.Safety

-- ABORT (R259, R260).

/-- The command an ABORT names: its tag, its pair and its CID, of an I/O command. -/
def named (c x : Cmd) : Bool := x.tag == c.ar 2 2 && x.qp == c.ar 0 1 && x.cid == c.ar 4 2 && !isAdmin x.op

/-- A command that an ABORT no longer catches: another ABORT holds it, it is committed, or it is past the start of its writes (R259, R260). -/
def uncatchable (s : State) (t : Nat) (x : Cmd) : Bool :=
  (tagOf s t).abortHeld || x.phase == .committed || pastStart s x || !x.results.isEmpty

/-- The tag of an ABORT's command holds the abort; the command knows of its ABORT, which waits for it. -/
def caught (c : Cmd) (s : State) : State :=
  updTag (c.ar 2 2) (fun w => { w with abortHeld := true })
    (updCmd (c.ar 2 2) (fun y => { y with aborters := y.aborters ++ [c.tag] }) (setPhase c.tag .waiting s))

section
variable {c x : Cmd} {s : State}

theorem abortCmd_of_none (none' : s.cmds.find? (named c) = none) : abortCmd c s = finish c 0 8 0 [] running0 s := by
  unfold named at none'
  rw [abortCmd, none']
  rfl

theorem abortCmd_of_some (hit : s.cmds.find? (named c) = some x) : abortCmd c s =
    if uncatchable s (c.ar 2 2) x then finish c 0 8 0 [] running0 s
    else if (s.srch.train.any fun j => j.tag == c.ar 2 2 && j.phase == 3) then
      { caught c s with srch := { s.srch with train := updFirst (·.tag == c.ar 2 2) (fun j => { j with ending := true }) s.srch.train } }
    else stopAborted { x with aborters := x.aborters ++ [c.tag] } (caught c s) := by
  unfold named at hit
  rw [abortCmd, hit]
  rfl

theorem tag_of_named (hit : s.cmds.find? (named c) = some x) : x.tag = c.ar 2 2 := by
  have fits := List.find?_some hit
  simp only [named, Bool.and_eq_true, beq_iff_eq] at fits
  obtain ⟨⟨⟨tag, -⟩, -⟩, -⟩ := fits
  exact tag

theorem abortHeld_caught : (tagOf (caught c s) (c.ar 2 2)).abortHeld = true := by
  rw [caught, tagOf_updTag (c.ar 2 2) (fun w => { w with abortHeld := true }) _ fun _ => rfl]

/-- The caught command still stands under its tag. -/
theorem cmdOf_caught (hit : s.cmds.find? (named c) = some x) : (cmdOf (caught c s) (c.ar 2 2)).isSome = true := by
  have stands : (cmdOf s (c.ar 2 2)).isSome = true :=
    List.find?_isSome.mpr ⟨x, List.mem_of_find?_eq_some hit, by simpa using tag_of_named hit⟩
  have waits : (cmdOf (setPhase c.tag .waiting s) (c.ar 2 2)).isSome = true := by
    by_cases same : c.ar 2 2 = c.tag
    · rw [same] at stands ⊢
      rwa [cmdOf_setPhase, Option.isSome_map]
    · have other := cmdOf_updCmd_ne c.tag (c.ar 2 2) (fun x => { x with phase := .waiting }) s (fun _ => rfl) same
      exact (congrArg Option.isSome other).trans stands
  have told := cmdOf_updCmd (c.ar 2 2) (fun y => { y with aborters := y.aborters ++ [c.tag] }) (setPhase c.tag .waiting s) fun _ => rfl
  exact (congrArg Option.isSome told).trans (by rw [Option.isSome_map, waits])

/-- Work of a stopped command runs to its end: it is in phase ENDING until the last of it has ended (R259). -/
theorem stopAborted_busy (stands : (cmdOf s x.tag).isSome = true) (busy : busyOf s x.tag ≠ []) :
    (cmdOf (stopAborted x s) x.tag).map (·.phase) = some .ending ∧ (cmdOf (stopAborted x s) x.tag).map (·.busy) = some (busyOf s x.tag) ∧
      (stopAborted x s).tags = s.tags ∧ (stopAborted x s).out = s.out := by
  obtain ⟨y, there⟩ := Option.isSome_iff_exists.mp stands
  have kept : cmdOf (stopWork x s) x.tag = some y := (cmdOf_congr (by simp) _).trans there
  have ends : stopAborted x s = updCmd x.tag (fun y => { y with phase := .ending, busy := busyOf s x.tag }) (stopWork x s) := by
    simp [stopAborted, busy]
  have phase := cmdOf_updCmd x.tag (fun y => { y with phase := .ending, busy := busyOf s x.tag }) (stopWork x s) fun _ => rfl
  rw [ends, phase, kept]
  simp

theorem stopAborted_idle (idle : busyOf s x.tag = []) : stopAborted x s = endCmd 7 x s := by
  simp [stopAborted, idle, stAborted]

end

section
variable {c x : Cmd} {s : State} (hit : s.cmds.find? (named c) = some x) (early : uncatchable s (c.ar 2 2) x = false)
  (steps : (s.srch.train.any fun j => j.tag == c.ar 2 2 && j.phase == 3) = false)
include hit early steps

theorem abortCmd_of_caught : abortCmd c s = stopAborted { x with aborters := x.aborters ++ [c.tag] } (caught c s) := by
  rw [abortCmd_of_some hit, early, steps]
  rfl

theorem abortCmd_idle (idle : busyOf s (c.ar 2 2) = []) :
    abortCmd c s = endCmd 7 { x with aborters := x.aborters ++ [c.tag] } (caught c s) := by
  rw [← tag_of_named hit] at idle
  exact (abortCmd_of_caught hit early steps).trans (stopAborted_idle idle)

theorem abortCmd_busy (busy : busyOf s (c.ar 2 2) ≠ []) :
    (cmdOf (abortCmd c s) (c.ar 2 2)).map (·.phase) = some .ending ∧
      (cmdOf (abortCmd c s) (c.ar 2 2)).map (·.busy) = some (busyOf s (c.ar 2 2)) ∧
      (tagOf (abortCmd c s) (c.ar 2 2)).abortHeld = true ∧ (abortCmd c s).out = s.out := by
  have number := tag_of_named hit
  have stands := cmdOf_caught hit
  have held := abortHeld_caught (c := c) (s := s)
  rw [← number] at busy stands held ⊢
  obtain ⟨phase, work, tags, out⟩ := stopAborted_busy (x := { x with aborters := x.aborters ++ [c.tag] }) (s := caught c s) stands busy
  rw [abortCmd_of_caught hit early steps, tagOf_congr tags]
  exact ⟨phase, work, held, out⟩

end

-- RESUME_QP (R256, R257).

theorem updFirst_congr_found {α : Type} {p : α → Bool} {f g : α → α} {l : List α} {a : α} (found : l.find? p = some a) (same : f a = g a) :
    updFirst p f l = updFirst p g l := by
  induction l with
  | nil => rfl
  | cons b l ih =>
    cases fits : p b with
    | true =>
      obtain rfl : b = a := by simpa [fits] using found
      simp [updFirst, fits, same]
    | false => simpa [updFirst, fits] using ih (by simpa [fits] using found)

theorem updQp_congr_found {s : State} {n : Nat} {p : Qp} {f g : Qp → Qp} (pair : qpOf s n = some p) (same : f p = g p) :
    updQp n f s = updQp n g s :=
  congrArg (fun l => { s with qps := l }) (updFirst_congr_found pair same)

/-- A pair that runs again (R256). -/
def Qp.running (x : Qp) : Qp := { x with state := 1, causes := [] }

/-- A FROZEN facet that is ACTIVE again, with a new keep-alive interval (R257; log 31). -/
def Facet.thawed (ns : Nat) (x : Facet) : Facet :=
  { x with state := 1, cause := 0, forced := x.forced || x.cause == cauFacetFault, kaSince := ns }

/-- A frozen pair set running, and its facet with it if that was FROZEN. -/
def pairResumed (n f : Nat) (s : State) : State :=
  if (facetOf s f).state == 2 then updFacet f (Facet.thawed (now s)) (updQp n Qp.running s) else updQp n Qp.running s

section
variable {s : State} {n f : Nat} {p : Qp}

theorem pairResumed_rest : pairResumed n f s = { s with qps := (pairResumed n f s).qps, facets := (pairResumed n f s).facets } := by
  unfold pairResumed
  split <;> rfl

theorem pairResumed_qps : (pairResumed n f s).qps = (updQp n Qp.running s).qps := by
  unfold pairResumed
  split <;> rfl

theorem qpOf_pairResumed (pair : qpOf s n = some p) : qpOf (pairResumed n f s) n = some p.running := by
  rw [qpOf_congr pairResumed_qps, qpOf_updQp n Qp.running s fun _ => rfl, pair]
  rfl

theorem facetOf_pairResumed (frozen : (facetOf s f).state = 2) : facetOf (pairResumed n f s) f = (facetOf s f).thawed (now s) := by
  have thawed := facetOf_updFacet f (Facet.thawed (now s)) (updQp n Qp.running s) fun _ => rfl
  rw [pairResumed, frozen]
  exact thawed

theorem pairResumed_facets (other : (facetOf s f).state ≠ 2) : (pairResumed n f s).facets = s.facets := by
  simp [pairResumed, other]

end

/-- A RESUME_QP asks for a discard, and entries wait on the pair (R257). -/
def discards (c : Cmd) (p : Qp) : Bool := bit 0 (c.ar 1 1) && p.sqHead != p.sqTail

/-- A pair whose entries up to the tail are ended for a RESUME_QP (R257), behind a discard that already runs. -/
def Qp.discarding (tail done t : Nat) (x : Qp) : Qp :=
  if x.discardTo.isSome then { x with moreResumes := x.moreResumes ++ [(tail, t, done)] }
  else { x with discardTo := some tail, resumer := some t, discarded := 0 }

section
variable {c : Cmd} {s : State} {p : Qp}

theorem resumePair_running (pair : qpOf s (c.ar 0 1) = some p) (runs : p.state ≠ 2) : resumePair c s = succeed c (leBytes 2 0) s := by
  simp [resumePair, pair, runs]

theorem resumePair_frozen (pair : qpOf s (c.ar 0 1) = some p) (frozen : p.state = 2) (mild : shownCause p < 5) :
    resumePair c s =
      if discards c p then setPhase c.tag .running (updQp (c.ar 0 1) (Qp.discarding p.sqTail p.discarded c.tag) (pairResumed (c.ar 0 1) p.facet s))
      else succeed c (leBytes 2 0) (pairResumed (c.ar 0 1) p.facet s) := by
  have notFatal : (shownCause p == cauFatal) = false := by simp [cauFatal]; omega
  have notWatchdog : (shownCause p == cauWatchdog) = false := by simp [cauWatchdog]; omega
  simp only [resumePair, pair, frozen, notFatal, notWatchdog, bne_self_eq_false, Bool.false_and, Bool.or_self, Bool.false_eq_true, if_false]
  rfl

end

/-- Settles O13: an ABORT by what it finds under the tag that it names, a RESUME_QP by its pair's state and by what is to be discarded. -/
theorem abortAndResumeTakeEffect : Obligations.AbortAndResumeTakeEffect := by
  unfold Obligations.AbortAndResumeTakeEffect
  refine ⟨fun e s q t h => ?_, fun e s q t p h => ?_⟩
  · have run := fun {v : State} => exec_begins (v := v) h (by decide)
    intro c u n hit
    refine ⟨fun none' => ?_, fun x some' late => ?_, fun x some' early steps => ?_⟩
    · exact run (abortCmd_of_none none')
    · exact run ((abortCmd_of_some some').trans (if_pos late))
    · refine ⟨fun idle => ?_, fun busy => ?_⟩
      · exact ⟨_, run rfl, _, abortCmd_idle some' early steps idle, abortHeld_caught⟩
      · exact ⟨_, run rfl, abortCmd_busy some' early steps busy⟩
  · have run := fun {v : State} => exec_begins (v := v) h (by decide)
    intro c u n pair
    refine ⟨fun runs => ?_, fun frozen mild => ?_⟩
    · exact run (resumePair_running pair runs)
    · have resumes := run (resumePair_frozen pair frozen mild)
      have runs := qpOf_pairResumed (f := p.facet) pair
      refine settles_of_run resumes ⟨_, rfl, pairResumed n p.facet u, pairResumed_rest, runs, fun cold => ?_, pairResumed_facets,
        fun none' => if_neg (Bool.eq_false_iff.mp none'), fun some' first => ?_, fun some' behind => ?_⟩
      · rw [facetOf_pairResumed cold]
        exact ⟨rfl, taken_now .resumeQp e s q t⟩
      · refine (if_pos some').trans (congrArg (setPhase t .running) (updQp_congr_found runs ?_))
        simp [Qp.discarding, Qp.running, first]
      · refine (if_pos some').trans (congrArg (setPhase t .running) (updQp_congr_found runs ?_))
        have more : p.discardTo.isSome = true := Option.isSome_iff_ne_none.mpr behind
        simp [Qp.discarding, Qp.running, more]

end Sys2Proof.Machine
end

section
/-! Host data that a fetched command asks for (R170, R176, R238, R252, R264): O9. -/

namespace Sys2Proof.Machine

open Sys2Proof.Safety

section
variable (o : Op) (e : Entry) (s : State) (q : Qp) (t : Nat)

@[simp] theorem taken_out : (taken o e s q t).out = s.out := by simp [taken]

@[simp] theorem taken_idx : (taken o e s q t).idx = s.idx := by simp [taken]

theorem modOf_taken (f slot : Nat) : modOf (taken o e s q t) f slot = modOf s f slot := by
  have mods : (taken o e s q t).mods = s.mods := by simp [taken]
  unfold modOf
  rw [mods]

end

/-- A TRAIN of the adapter of a MODEL_LOAD's slot ends at its next step (R170). -/
def adapterEnds (c : Cmd) (j : TrainJob) : TrainJob :=
  if j.facet == c.facet && j.adapterSlot == some c.model then { j with ending := true } else j

/-- A MODEL_LOAD that is accepted has its slot LOADING, and the TRAIN of the slot's adapter will end (R170, R176). -/
def slotTaken (c : Cmd) (s : State) : State :=
  if c.op == .modelLoad then
    updMod c.facet c.model (fun m => { m with state := 1 }) { s with srch := { s.srch with train := s.srch.train.map (adapterEnds c) } }
  else s

section
variable {c : Cmd} {s : State}

theorem slotTaken_rest : (slotTaken c s).out = s.out ∧ (slotTaken c s).cmds = s.cmds := by
  unfold slotTaken
  split <;> exact ⟨rfl, rfl⟩

theorem modOf_slotTaken (loads : c.op = .modelLoad) :
    modOf (slotTaken c s) c.facet c.model = (modOf s c.facet c.model).map fun m => { m with state := 1 } := by
  rw [slotTaken, if_pos (by simp [loads])]
  exact modOf_updMod c.facet c.model (fun m => { m with state := 1 }) _ fun _ => ⟨rfl, rfl⟩

theorem modOf_askData (a n f slot : Nat) : modOf (askData c a n s) f slot = modOf s f slot := by
  have mods : (askData c a n s).mods = s.mods := by simp
  unfold modOf
  rw [mods]

theorem checkCmd_asks (checks : earlyChecks s c = none) (data : inputLen c ≠ 0) :
    checkCmd c s = askData c c.dataAddr (inputLen c) (slotTaken c s) := by
  rw [checkCmd, checks]
  exact if_neg (by simpa using data)

/-- A tag whose command reads host data is WAITING (R252). -/
theorem tagOf_askData (a n : Nat) : (tagOf (askData c a n s) c.tag).state = 1 := by
  have word := tagOf_updTag c.tag (fun x => { x with state := 1 })
    (updCmd c.tag (fun x => { x with phase := .reading }) (updCmd c.tag (fun x => { x with asked := now s }) s)) fun _ => rfl
  exact congrArg TagWord.state word

end

/-- Settles O9: every data command asks for its data with the one read of askData, a MODEL_LOAD once its slot is taken. -/
theorem dataCommandReadsTheHost : Obligations.DataCommandReadsTheHost := by
  unfold Obligations.DataCommandReadsTheHost
  intro o e s q t h checks data
  have run := exec_fetched h
  rw [checkCmd_asks checks data] at run
  obtain ⟨out, cmds⟩ := slotTaken_rest (c := theCmd o e s q t) (s := taken o e s q t)
  have held : cmdOf (slotTaken (theCmd o e s q t) (taken o e s q t)) t = some (theCmd o e s q t) :=
    (cmdOf_congr cmds t).trans (cmdOf_taken o e s q t (freeTag_free s _ t h.tag))
  refine ⟨_, run, ?_, ?_, tagOf_askData _ _, fun loads m slot => ?_⟩
  · rw [askData_out, out, taken_out]
    rfl
  · exact (congrArg (Option.map (·.phase)) (cmdOf_askData _ _ _ _)).trans (by rw [show (theCmd o e s q t).tag = t from rfl, held])
  · have taken' : modOf (taken o e s q t) (theCmd o e s q t).facet (theCmd o e s q t).model = some m := (modOf_taken o e s q t _ _).trans slot
    rw [modOf_askData, modOf_slotTaken (c := theCmd o e s q t) loads, taken']
    rfl

end Sys2Proof.Machine
end

section
/-! IDENTIFY, GET_LOG, GET_FEATURE and SET_FEATURE (R167, R258, R262, R270 to R272, R375): O10. -/

namespace Sys2Proof.Machine

open Sys2Proof.Safety

/-- The page that an IDENTIFY names (R270). -/
def identifyPage (c : Cmd) (s : State) : Bytes :=
  if c.ar 0 1 = 0 then identifyModule s else if c.ar 0 1 = 1 then identifyFacet s (c.ar 1 1) else identifyIndex s (c.ar 1 1) (c.ar 2 1)

/-- The value of the feature that a GET_FEATURE names (R272, R375). -/
def featureValue (c : Cmd) (s : State) : Nat :=
  if c.ar 0 1 = 1 then s.brd.psSel else if c.ar 0 1 = 2 then (facetOf s (c.ar 1 1)).kaMs
  else if c.ar 0 1 = 3 then (facetOf s (c.ar 1 1)).s0Next.getD (s0Of s (c.ar 1 1)) else if s.hif.testMode then 1 else 0

section
variable (c : Cmd) (s : State)

theorem beginIdentify_eq : beginIdentify c s = succeed c [] (writeHost c c.resultAddr (padTo 4096 (identifyPage c s)) s) := by
  unfold beginIdentify identifyPage
  dsimp only
  split
  · next module => rw [if_pos module]
  · next facet => rw [if_neg (by omega), if_pos facet]
  · next noModule noFacet => rw [if_neg noModule, if_neg noFacet]

theorem beginGetFeature_eq : beginGetFeature c s = succeed c (leBytes 8 (featureValue c s)) s := by
  unfold beginGetFeature featureValue
  dsimp only
  split
  · next power => rw [if_pos power]
  · next alive => rw [if_neg (by omega), if_pos alive]
  · next format => rw [if_neg (by omega), if_neg (by omega), if_pos format]
  · next noPower noAlive noFormat => rw [if_neg noPower, if_neg noAlive, if_neg noFormat]; rfl

end

section
variable {c : Cmd} {s : State}

theorem beginSetFeature_power (power : c.ar 0 1 = 1) (idle : s.brd.trans = none) : beginSetFeature c s = beginPower c s := by
  simp [beginSetFeature, power, idle]

/-- One power-state transition at a time (R262). -/
theorem beginSetFeature_queues (power : c.ar 0 1 = 1) (busy : s.brd.trans ≠ none) :
    beginSetFeature c s = setPhase c.tag .waiting { s with brd := { s.brd with psQueue := s.brd.psQueue ++ [c.tag] } } := by
  have runs : s.brd.trans.isSome = true := Option.isSome_iff_ne_none.mpr busy
  simp [beginSetFeature, power, runs]

theorem beginSetFeature_keepAlive (alive : c.ar 0 1 = 2) : beginSetFeature c s =
    succeed c (leBytes 8 (c.ar 8 8)) (updFacet (c.ar 1 1) (fun x => { x with kaMs := c.ar 8 8, kaSince := now s }) s) := by
  simp [beginSetFeature, alive]

theorem beginSetFeature_format (format : c.ar 0 1 = 3) : beginSetFeature c s =
    succeed c (leBytes 8 (c.ar 8 8)) (updFacet (c.ar 1 1) (fun x => { x with s0Next := some (c.ar 8 8) }) s) := by
  simp [beginSetFeature, format]

theorem beginSetFeature_testMode (test : c.ar 0 1 = 4) : beginSetFeature c s =
    succeed c (leBytes 8 (c.ar 8 8)) { s with hif := { s.hif with testMode := c.ar 8 8 == 1 } } := by
  simp [beginSetFeature, test]

end

/-- Settles O10: a report by the page or the value that it names, a feature by its number. -/
theorem reportsAndFeaturesTakeEffect : Obligations.ReportsAndFeaturesTakeEffect := by
  unfold Obligations.ReportsAndFeaturesTakeEffect
  refine ⟨fun e s q t => ⟨fun h => ?_, fun h => ?_, fun h => ?_⟩, fun e s q t h => ?_⟩
  · exact exec_begins h (by decide) (beginIdentify_eq _ _)
  · exact exec_begins h (by decide) rfl
  · exact exec_begins h (by decide) (beginGetFeature_eq _ _)
  · have run := fun {v : State} => exec_begins (v := v) h (by decide)
    intro c u v f
    refine ⟨fun power idle => run (beginSetFeature_power power idle), fun power busy => run (beginSetFeature_queues power busy),
      fun alive => ?_, fun format => run (beginSetFeature_format format), fun test => run (beginSetFeature_testMode test)⟩
    have time : now u = now s := taken_now .setFeature e s q t
    rw [← time]
    exact run (beginSetFeature_keepAlive alive)

end Sys2Proof.Machine
end

section
/-! FW_COMMIT (R273; logs 28, 30, 100): O11. -/

namespace Sys2Proof.Machine

open Sys2Proof.Safety

section
variable {c : Cmd} {s : State} (free : s.fw.committing = none)

/-- A selection has one reason to fail: the slot holds no valid image. -/
theorem fwReason_select (select : c.ar 1 1 = 2) : fwReason c s = if (s.fw.slots[c.ar 0 1]?).any (·.valid) then 0 else 5 := by
  unfold fwReason
  rw [select]
  dsimp only
  cases s.fw.slots[c.ar 0 1]? <;> rfl

include free

theorem beginFwCommit_refused (reason : fwReason c s ≠ 0) :
    beginFwCommit c s = finish c 10 0 0 (leBytes 2 (fwReason c s)) ⟨6, fwReason c s, 0xFFFFFFFF⟩ s := by
  simp [beginFwCommit, free, reason, stFirmware, fwResult]

theorem beginFwCommit_selects (reason : fwReason c s = 0) (select : c.ar 1 1 = 2) :
    beginFwCommit c s = succeed c (leBytes 2 0) { s with fw := { s.fw with selected := c.ar 0 1 } } := by
  simp [beginFwCommit, free, reason, select, fwResult]

theorem beginFwCommit_writes (reason : fwReason c s = 0) (other : c.ar 1 1 ≠ 2) : beginFwCommit c s =
    queueCmdSeg 3 64 c.tag (setPhase c.tag .running { s with fw := { s.fw with committing := some c.tag } }) := by
  simp [beginFwCommit, free, reason, other]

end

/-- Settles O11: an FW_COMMIT is refused with its reason, selects a slot, or begins its writes. -/
theorem firmwareCommitSelectsOrWrites : Obligations.FirmwareCommitSelectsOrWrites := by
  unfold Obligations.FirmwareCommitSelectsOrWrites
  intro e s q t h c u ok free
  have run := fun {v : State} => exec_begins (v := v) h (by decide)
  refine ⟨fun select bad => ?_, fun select good => ?_, fun _ reason => run (beginFwCommit_refused free reason),
    fun other reason => run (beginFwCommit_writes free reason other)⟩
  · have reason : fwReason c u = 5 := (fwReason_select select).trans (if_neg (Bool.eq_false_iff.mp bad))
    have refused := beginFwCommit_refused free (c := c) (by rw [reason]; decide)
    rw [reason] at refused
    exact run refused
  · exact run (beginFwCommit_selects free ((fwReason_select select).trans (if_pos good)) select)

end Sys2Proof.Machine
end

section
/-! EVR_CONTROL (R279, R333, R334): O16. -/

namespace Sys2Proof.Machine

open Sys2Proof.Safety

/-- EVR_CONTROL's completion: the records held, and the events counted while frozen (R279). -/
def recorderAnswer (c : Cmd) (s : State) : State :=
  succeed c (leBytes 2 s.evr.recs.length ++ leBytes 2 0 ++ leBytes 4 s.evr.frozenCount) s

/-- The recorder with one record in it, which says that it was cleared (R334). -/
def recorderCleared (s : State) : Recorder :=
  writeRec (makeRec s 0x0F03 1 0 [s.evr.recs.length, ((s.evr.recs.getLast?).map (·.seq)).getD 0]) { s.evr with recs := [] }

section
variable {c : Cmd} {s : State}

theorem beginEvrControl_freezes (freeze : c.ar 0 1 = 0) (runs : s.evr.frozen = false) : beginEvrControl c s = recorderAnswer c
    { s with evr := { s.evr with frozen := true, freezeAt := s.brd.aon, frozenCount := 0, frozenSev := 0 } } := by
  simp [beginEvrControl, freeze, runs, recorderAnswer]

theorem beginEvrControl_frozen (freeze : c.ar 0 1 = 0) (frozen : s.evr.frozen = true) : beginEvrControl c s = recorderAnswer c s := by
  simp [beginEvrControl, freeze, frozen, recorderAnswer]

theorem beginEvrControl_unfreezes (unfreeze : c.ar 0 1 = 1) : beginEvrControl c s = recorderAnswer c (endFreeze s) := by
  simp [beginEvrControl, unfreeze, recorderAnswer]

theorem beginEvrControl_clears (clear : c.ar 0 1 = 2) : beginEvrControl c s = recorderAnswer c { s with evr := recorderCleared s } := by
  simp [beginEvrControl, clear, recorderAnswer, recorderCleared]

/-- An empty ring has room for the record, which alone it then holds; the freeze is not the ring's. -/
theorem recorderCleared_leaves : (recorderCleared s).recs.map (·.code) = [0x0F03] ∧ (recorderCleared s).frozen = s.evr.frozen ∧
    (recorderCleared s).frozenCount = s.evr.frozenCount :=
  ⟨rfl, rfl, rfl⟩

end

/-- Settles O16: a freeze by whether the recorder is frozen, an unfreeze and a clear by what they leave of it. -/
theorem recorderControlTakesEffect : Obligations.RecorderControlTakesEffect := by
  unfold Obligations.RecorderControlTakesEffect
  intro e s q t h c u answer
  have run := fun {v : State} => exec_begins (v := v) h (by decide)
  refine ⟨fun freeze runs => run (beginEvrControl_freezes freeze runs), fun freeze frozen => run (beginEvrControl_frozen freeze frozen),
    fun unfreeze => run (beginEvrControl_unfreezes unfreeze), fun clear => ?_⟩
  exact ⟨_, run (beginEvrControl_clears clear), _, rfl, rfl, recorderCleared_leaves⟩

end Sys2Proof.Machine
end

section
/-! Commands that end, and what their completions leave of the pairs (R234, R243, R260). -/

namespace Sys2Proof.Machine

open Sys2Proof.Safety

-- The commands: a completion takes its own away, and brings none.

theorem post_cmds (c : Cmd) (st0 flags epoch : Nat) (result : Bytes) (w : ErrAt) (s : State) :
    (post c st0 flags epoch result w s).cmds = s.cmds.filter fun x => x.tag != c.tag := by
  unfold post
  extract_lets st err s1 s2 s3 s4
  have failed : s2.cmds = s.cmds := by
    dsimp only [s2, s1]
    split <;> split <;> rfl
  have entered : s3.cmds = s2.cmds := by
    dsimp only [s3]
    split <;> rfl
  have signalled : s4.cmds = s3.cmds := by
    dsimp only [s4]
    split
    · split <;> simp
    · rfl
  exact congrArg (List.filter fun x => x.tag != c.tag) (signalled.trans (entered.trans failed))

theorem finish_cmds (c : Cmd) (st flags epoch : Nat) (result : Bytes) (w : ErrAt) (s : State) :
    (finish c st flags epoch result w s).cmds ⊆ s.cmds.filter fun x => x.tag != c.tag := by
  refine foldl_ind (fun t => t.cmds ⊆ s.cmds.filter fun x => x.tag != c.tag) _ _ _ (by rw [post_cmds]; exact List.Subset.refl _) fun t a h => ?_
  split
  · rw [post_cmds]
    exact List.Subset.trans (List.filter_subset_self _ ) h
  · exact h

theorem succeed_cmds (c : Cmd) (result : Bytes) (s : State) : (succeed c result s).cmds ⊆ s.cmds :=
  List.Subset.trans (finish_cmds _ _ _ _ _ _ s) (List.filter_subset_self _)

theorem endCmd_cmds (st : Nat) (c : Cmd) (s : State) : (endCmd st c s).cmds ⊆ s.cmds.filter fun x => x.tag != c.tag := by
  have ended := finish_cmds c st 0 (endEpoch c) [] running0
    (if c.op == .train && (st == stAborted || st == stDeleted) then bump c.facet (kCls 6 26) 1 (stopWork c s) else stopWork c s)
  simpa [endCmd] using ended

theorem endCmds_cmds (st : Nat) (l : List Cmd) (s : State) :
    ∀ x ∈ (l.foldl (fun t c => endCmd st c t) s).cmds, x ∈ s.cmds ∧ ∀ c ∈ l, x.tag ≠ c.tag := by
  induction l generalizing s with
  | nil => simp
  | cons c l ih =>
    intro x mem
    obtain ⟨before, others⟩ := ih (endCmd st c s) x mem
    have kept := endCmd_cmds st c s before
    simp only [List.mem_filter, bne_iff_ne] at kept
    exact ⟨kept.1, List.forall_mem_cons.mpr ⟨kept.2, others⟩⟩

/-- Of the commands that are ended together, none is left. -/
theorem endAll_cmds (p : Cmd → Bool) (st : Nat) (s : State) : (endAll p st s).cmds ⊆ s.cmds.filter fun x => !p x := by
  intro x mem
  obtain ⟨before, others⟩ := endCmds_cmds st _ s x mem
  refine List.mem_filter.mpr ⟨before, ?_⟩
  cases picked : p x
  · rfl
  · exact absurd rfl (others x (List.mem_filter.mpr ⟨before, picked⟩))

theorem endResumes_cmds (l : List (Nat × Nat)) (s : State) : (endResumes l s).cmds ⊆ s.cmds := by
  refine foldl_ind (fun t => t.cmds ⊆ s.cmds) _ _ _ (List.Subset.refl _) fun t r h => ?_
  split
  · exact List.Subset.trans (succeed_cmds _ _ t) h
  · exact h

theorem endDeletes_cmds (l : List (Nat × Nat × Nat)) (s : State) : (endDeletes l s).cmds ⊆ s.cmds := by
  refine foldl_ind (fun t => t.cmds ⊆ s.cmds) _ _ _ (List.Subset.refl _) fun t r h => ?_
  split
  · exact List.Subset.trans (succeed_cmds _ _ t) h
  · exact h

theorem deleteProgress_cmds (n : Nat) (s : State) : (deleteProgress n s).cmds ⊆ s.cmds := by
  unfold deleteProgress
  split
  · exact List.Subset.refl _
  · split
    · exact endDeletes_cmds _ _
    · exact List.Subset.refl _

-- The pairs: a completion leaves whose a pair is, whether it is being deleted, and what it then waits for.

/-- What no completion changes of a pair. -/
structure PairCore where
  num : Nat
  facet : Nat
  leaving : Bool
  stopping : List Busy

/-- What of a pair outlasts a completion. -/
def Qp.core (x : Qp) : PairCore := ⟨x.num, x.facet, x.state == 3, x.stopping⟩

/-- That of all pairs, in their order. -/
def cores (s : State) : List PairCore := s.qps.map Qp.core

theorem cores_congr {s t : State} (h : t.qps = s.qps) : cores t = cores s := congrArg (List.map Qp.core) h

theorem updQp_cores (n : Nat) {g : Qp → Qp} (s : State) (keeps : ∀ x, (g x).core = x.core) : cores (updQp n g s) = cores s :=
  updFirst_map _ g Qp.core s.qps keeps

theorem freezeQp_core (cause : Nat) (x : Qp) : (freezeQp cause x).core = x.core := by
  have state : ((freezeQp cause x).state == 3) = (x.state == 3) := by
    unfold freezeQp
    cases x.state == 3 <;> simp
  exact congrArg (fun b => (⟨x.num, x.facet, b, x.stopping⟩ : PairCore)) state

theorem signalQp_cores (n : Nat) (s : State) : cores (signalQp n s) = cores s := by
  cases pair : qpOf s n with
  | none => simp [signalQp, pair]
  | some p =>
    have sent : (sendMsi p.vector (updQp n Qp.signalled s)).qps = (updQp n Qp.signalled s).qps := by simp
    rw [signalQp_of_pair pair, cores_congr sent, updQp_cores n (g := Qp.signalled) s fun _ => rfl]

theorem post_cores (c : Cmd) (st0 flags epoch : Nat) (result : Bytes) (w : ErrAt) (s : State) :
    cores (post c st0 flags epoch result w s) = cores s := by
  unfold post
  extract_lets st err s1 s2 s3 s4
  have logged : cores s1 = cores s := by
    dsimp only [s1]
    split <;> rfl
  have failed : cores s2 = cores s1 := by
    dsimp only [s2]
    split
    · exact updQp_cores _ _ (freezeQp_core cauCommand)
    · rfl
  have entered : cores s3 = cores s2 := by
    dsimp only [s3]
    split
    · rfl
    · exact updQp_cores _ _ fun _ => rfl
  have signalled : cores s4 = cores s3 := by
    dsimp only [s4]
    split
    · split
      · exact signalQp_cores _ _
      · rfl
    · rfl
  exact signalled.trans (entered.trans (failed.trans logged))

theorem finish_cores (c : Cmd) (st flags epoch : Nat) (result : Bytes) (w : ErrAt) (s : State) :
    cores (finish c st flags epoch result w s) = cores s := by
  unfold finish
  rw [foldl_proj cores, post_cores]
  intro t a
  split
  · exact post_cores ..
  · rfl

theorem endCmd_cores (st : Nat) (c : Cmd) (s : State) : cores (endCmd st c s) = cores s := by
  unfold endCmd
  rw [finish_cores]
  exact cores_congr (by simp)

theorem endAll_cores (p : Cmd → Bool) (st : Nat) (s : State) : cores (endAll p st s) = cores s :=
  foldl_proj cores _ _ _ fun t c => endCmd_cores st c t

theorem endResumes_cores (l : List (Nat × Nat)) (s : State) : cores (endResumes l s) = cores s := by
  refine foldl_proj cores _ _ _ fun t r => ?_
  split
  · exact finish_cores ..
  · rfl

theorem endDeletes_cores (l : List (Nat × Nat × Nat)) (s : State) : cores (endDeletes l s) = cores s := by
  refine foldl_proj cores _ _ _ fun t r => ?_
  split
  · exact finish_cores ..
  · rfl

theorem qpOf_core {s t : State} (h : cores t = cores s) (n : Nat) : (qpOf t n).map Qp.core = (qpOf s n).map Qp.core := by
  have found : ∀ u : State, (cores u).find? (fun x => x.num == n) = (qpOf u n).map Qp.core := fun _ => List.find?_map
  rw [← found, ← found, h]

end Sys2Proof.Machine
end

section
/-! CREATE_QP and DELETE_QP (R234, R242, R250, R258, R275; logs 62, 99): O12. -/

namespace Sys2Proof.Machine

open Sys2Proof.Safety

-- CREATE_QP.

/-- The pairs of a facet, which its limit counts (R275). -/
def pairsHeld (s : State) (f : Nat) : Nat := (s.qps.filter fun x => x.num != 0 && x.facet == f).length

/-- How many pairs a facet may have (R275); none if it has no record. -/
def pairLimit (s : State) (f : Nat) : Nat := ((facetRec s f).map (·.qpLimit)).getD 0

/-- The pair that a CREATE_QP makes (R275). -/
def Cmd.pair (c : Cmd) : Qp := newQp (c.ar 0 1) (c.ar 1 1) (c.ar 2 2) (c.ar 8 8) (c.ar 16 8) (c.ar 4 2) (c.ar 6 1) (c.ar 7 1)

/-- A facet's first pair starts its keep-alive timer (R258). -/
def firstPair (f : Nat) (s : State) : State :=
  if pairsHeld s f == 0 then updFacet f (fun x => { x with kaSince := now s }) s else s

/-- A state with one more pair. -/
def pairMade (c : Cmd) (s : State) : State := { firstPair (c.ar 1 1) s with qps := s.qps ++ [c.pair] }

section
variable {c : Cmd} {s : State}

theorem firstPair_facets_only (f : Nat) : firstPair f s = { s with facets := (firstPair f s).facets } := by
  unfold firstPair
  split <;> rfl

theorem beginCreateQp_makes (room : pairsHeld s (c.ar 1 1) < pairLimit s (c.ar 1 1)) : beginCreateQp c s = succeed c [] (pairMade c s) := by
  have qps : (firstPair (c.ar 1 1) s).qps = s.qps := by rw [firstPair_facets_only]
  rw [pairMade, ← qps]
  exact if_neg (Nat.not_le.mpr room)

theorem beginCreateQp_full (full : pairLimit s (c.ar 1 1) ≤ pairsHeld s (c.ar 1 1)) :
    beginCreateQp c s = finish c 4 0 0 [] ⟨6, 0, 0xFFFFFFFF⟩ s := if_pos full

theorem pairMade_rest : pairMade c s = { s with qps := (pairMade c s).qps, facets := (pairMade c s).facets } := by
  rw [pairMade, firstPair_facets_only]

theorem pairMade_first (first : pairsHeld s (c.ar 1 1) = 0) : (facetOf (pairMade c s) (c.ar 1 1)).kaSince = now s := by
  have starts : firstPair (c.ar 1 1) s = updFacet (c.ar 1 1) (fun x => { x with kaSince := now s }) s := by simp [firstPair, first]
  have since := facetOf_updFacet (c.ar 1 1) (fun x => { x with kaSince := now s }) s fun _ => rfl
  rw [pairMade, starts]
  exact congrArg Facet.kaSince since

theorem pairMade_later (later : pairsHeld s (c.ar 1 1) ≠ 0) : (pairMade c s).facets = s.facets := by
  simp [pairMade, firstPair, later]

end

-- DELETE_QP.

/-- A pair that is being deleted, with its DELETE_QP and the work that it waits for; its discards have ended. -/
def Qp.leave (d : Nat × Nat × Nat) (busy : List Busy) (x : Qp) : Qp :=
  { x with state := 3, deleters := [d], stopping := busy, resumer := none, discardTo := none, moreResumes := [] }

/-- A DELETE_QP runs: its pair is being deleted. -/
def pairLeaves (c : Cmd) (p : Qp) (s : State) : State :=
  updQp (c.ar 0 1) (Qp.leave (c.tag, (s.cmds.filter fun x => x.qp == c.ar 0 1 && !abortHolds s x).length, ringCount p.depth p.sqHead p.sqTail)
    (pairBusy s (c.ar 0 1))) (setPhase c.tag .running s)

/-- The commands of the pair have ended then, and with them its discards (R234, R260). -/
def pairEnded (c : Cmd) (p : Qp) (s : State) : State :=
  endResumes (resumes p) (endAll (fun x => x.qp == c.ar 0 1) stDeleted
    (endAll (fun x => x.qp == c.ar 0 1 && abortHolds s x) stAborted (pairLeaves c p s)))

section
variable {c : Cmd} {s : State} {p : Qp}

theorem deletePair_again (pair : qpOf s (c.ar 0 1) = some p) (leaving : p.state = 3) : deletePair c s =
    updQp (c.ar 0 1) (fun x => { x with deleters := x.deleters ++ [(c.tag, 0, 0)] }) (setPhase c.tag .running s) := by
  simp [deletePair, pair, leaving]

theorem deletePair_first (pair : qpOf s (c.ar 0 1) = some p) (stands : p.state ≠ 3) :
    deletePair c s = deleteProgress (c.ar 0 1) (pairEnded c p s) := by
  rw [deletePair, pair]
  exact if_neg (by simpa using stands)

theorem pairEnded_cmds : ∀ x ∈ (pairEnded c p s).cmds, x.qp ≠ c.ar 0 1 := by
  intro x mem
  have left := endAll_cmds _ _ _ (endResumes_cmds _ _ mem)
  simpa using (List.mem_filter.mp left).2

/-- No completion of these takes the pair out of state 3, or what it waits for away. -/
theorem pairEnded_pair (pair : qpOf s (c.ar 0 1) = some p) :
    ∃ y, qpOf (pairEnded c p s) (c.ar 0 1) = some y ∧ y.state = 3 ∧ y.stopping = pairBusy s (c.ar 0 1) := by
  have running : (setPhase c.tag .running s).qps = s.qps := by simp
  have leaves : ∃ d, qpOf (pairLeaves c p s) (c.ar 0 1) = some (p.leave d (pairBusy s (c.ar 0 1))) := by
    refine ⟨(c.tag, (s.cmds.filter fun x => x.qp == c.ar 0 1 && !abortHolds s x).length, ringCount p.depth p.sqHead p.sqTail),
      (qpOf_updQp (c.ar 0 1) _ _ ?_).trans ?_⟩
    · exact fun _ => rfl
    · rw [qpOf_congr running, pair]
      rfl
  obtain ⟨d, left⟩ := leaves
  have same : cores (pairEnded c p s) = cores (pairLeaves c p s) := by
    rw [pairEnded, endResumes_cores, endAll_cores, endAll_cores]
  have core := qpOf_core same (c.ar 0 1)
  rw [left] at core
  obtain ⟨y, found, kept⟩ := Option.map_eq_some_iff.mp core
  have leaving := congrArg PairCore.leaving kept
  exact ⟨y, found, by simpa [Qp.core, Qp.leave] using leaving, congrArg PairCore.stopping kept⟩

end

section
variable {s : State} {n : Nat} {p : Qp} (pair : qpOf s n = some p) (leaving : p.state = 3)
include pair leaving

/-- Once nothing of its work runs, the pair is gone (R234). -/
theorem deleteProgress_idle (idle : p.stopping = []) : qpOf (deleteProgress n s) n = none := by
  have ends : deleteProgress n s = endDeletes p.deleters { s with qps := s.qps.filter fun x => x.num != n } := by
    simp [deleteProgress, pair, leaving, idle]
  have gone : qpOf { s with qps := s.qps.filter fun x => x.num != n } n = none := by simp [qpOf]
  have core := qpOf_core (endDeletes_cores p.deleters { s with qps := s.qps.filter fun x => x.num != n }) n
  rw [gone] at core
  rw [ends]
  exact Option.map_eq_none_iff.mp core

theorem deleteProgress_busy (busy : p.stopping ≠ []) : deleteProgress n s = s := by
  simp [deleteProgress, pair, leaving, busy]

end

/-- Settles O12: a CREATE_QP by the room that its facet has, a DELETE_QP by whether its pair is being deleted and what its work still runs. -/
theorem pairsAreMadeAndDeleted : Obligations.PairsAreMadeAndDeleted := by
  unfold Obligations.PairsAreMadeAndDeleted
  refine ⟨fun e s q t h => ?_, fun e s q t p h => ?_⟩
  · have run := fun {v : State} => exec_begins (v := v) h (by decide)
    intro c u f held limit
    refine ⟨fun room => ?_, fun full => run (beginCreateQp_full full)⟩
    exact ⟨_, run (beginCreateQp_makes room), _, rfl, pairMade_rest, rfl,
      fun first => (pairMade_first first).trans (taken_now .createQp e s q t), pairMade_later⟩
  · have run := fun {v : State} => exec_begins (v := v) h (by decide)
    intro n u pair
    refine ⟨fun stands _ => ?_, fun leaving => run (deletePair_again pair leaving)⟩
    obtain ⟨y, found, leaving, busy⟩ := pairEnded_pair (c := theCmd .deleteQp e s q t) pair
    refine ⟨_, run (deletePair_first pair stands), ?_, fun idle => deleteProgress_idle found leaving (busy.trans idle), fun y' left => ?_⟩
    · exact List.all_eq_true.mpr fun x mem => bne_iff_ne.mpr (pairEnded_cmds x (deleteProgress_cmds _ _ mem))
    · by_cases idle : y.stopping = []
      · rw [deleteProgress_idle found leaving idle] at left
        cases left
      · rw [deleteProgress_busy found leaving idle, found] at left
        cases left
        exact ⟨leaving, idle⟩

end Sys2Proof.Machine
end

section
/-! FACET_CREATE and FACET_DESTROY (R47, R77, R236, R258, R276, R365; log 62): O14. -/

namespace Sys2Proof.Machine

open Sys2Proof.Safety

-- FACET_CREATE.

theorem updFirst_congr_on {α : Type} {p : α → Bool} {g h : α → α} {l : List α} (same : ∀ a, p a = true → g a = h a) :
    updFirst p g l = updFirst p h l := by
  induction l with
  | nil => rfl
  | cons a l ih =>
    cases fits : p a with
    | true => simp [updFirst, fits, same a fits]
    | false => simpa [updFirst, fits] using ih

/-- A facet's change counts for what it does to a facet of that number. -/
theorem updFacet_congr_on {f : Nat} {g h : Facet → Facet} {s : State} (same : ∀ x, x.num = f → g x = h x) : updFacet f g s = updFacet f h s := by
  have first : updFirst (·.num == f) g s.facets = updFirst (·.num == f) h s.facets :=
    updFirst_congr_on fun x fits => same x (by simpa using fits)
  rw [updFacet, updFacet, first, same (Facet.blank f) rfl]

/-- A facet that has been created: ACTIVE and blank but for its stage-0 formats (R47, R77, R276). -/
def Facet.created (x : Facet) : Facet := { Facet.blank x.num with state := 1, s0 := x.s0, s0Next := x.s0Next }

theorem beginFacetCreate_eq (c : Cmd) (s : State) : beginFacetCreate c s = succeed c [] (updFacet c.facet Facet.created s) :=
  congrArg (succeed c []) (updFacet_congr_on fun x num => by rw [Facet.created, num])

-- FACET_DESTROY: the commands, the pairs and the queries of the facet.

/-- A facet's pairs. -/
def pairsOf (s : State) (f : Nat) : List Qp := s.qps.filter fun q => q.num != 0 && q.facet == f

/-- A facet's commands have ended, and with them what waits on its pairs (R236, R257, R275). -/
def facetEnded (f : Nat) (s : State) : State :=
  (pairsOf s f).foldl (fun t p => endDeletes p.deleters (endResumes (resumes p) t)) (endAll (fun x => !isAdmin x.op && x.facet == f) stDeleted s)

/-- The facet's queries are out of search and its pairs are gone then. -/
def facetEmptied (f : Nat) (s : State) : State :=
  { dropQueries (fun q => q.facet == f) (facetEnded f s) with
    qps := (dropQueries (fun q => q.facet == f) (facetEnded f s)).qps.filter fun q => !((pairsOf s f).map (·.num)).contains q.num }

/-- A facet that is being destroyed, for a FACET_DESTROY, with all its commands and pairs gone. -/
def facetLeft (c : Cmd) (s : State) : State :=
  updFacet c.facet (fun x => { x with destroyTag := some c.tag }) (facetEmptied c.facet (updFacet c.facet (fun x => { x with state := 3 }) s))

theorem beginFacetDestroy_eq (c : Cmd) (s : State) :
    beginFacetDestroy c s = setPhase c.tag .running (beginScrub c.facet (facetLeft c s)) := rfl

section
variable (f : Nat) (s : State)

theorem facetEnded_standing : standing (facetEnded f s) = standing s :=
  (foldl_proj standing _ _ _ fun _ _ => standing_congr (by simp)).trans (endAll_standing _ _ s)

theorem facetEmptied_standing : standing (facetEmptied f s) = standing s := by
  have quiet : (facetEmptied f s).facets = (dropQueries (fun q => q.facet == f) (facetEnded f s)).facets := rfl
  rw [standing_congr quiet, dropQueries_standing, facetEnded_standing]

theorem facetEmptied_cmds : ∀ x ∈ (facetEmptied f s).cmds, (isAdmin x.op || x.facet != f) = true := by
  have fewer : (facetEnded f s).cmds ⊆ (endAll (fun x => !isAdmin x.op && x.facet == f) stDeleted s).cmds :=
    foldl_ind (fun t => t.cmds ⊆ (endAll (fun x => !isAdmin x.op && x.facet == f) stDeleted s).cmds) _ _ _ (List.Subset.refl _)
      fun t p h => List.Subset.trans (endDeletes_cmds _ _) (List.Subset.trans (endResumes_cmds _ _) h)
  intro x mem
  have kept : x ∈ (facetEnded f s).cmds := by simpa [facetEmptied] using mem
  have left := (List.mem_filter.mp (endAll_cmds _ _ _ (fewer kept))).2
  simpa [Bool.or_eq_true, imp_iff_not_or] using left

theorem facetEnded_cores : cores (facetEnded f s) = cores s :=
  (foldl_proj cores _ _ _ fun _ _ => (endDeletes_cores _ _).trans (endResumes_cores _ _)).trans (endAll_cores _ _ s)

/-- A pair that is left was there before, under its number and for its facet. -/
theorem facetEmptied_qps : ∀ x ∈ (facetEmptied f s).qps, (x.num == 0 || x.facet != f) = true := by
  intro x mem
  obtain ⟨there, other⟩ := List.mem_filter.mp mem
  have kept : cores (dropQueries (fun q => q.facet == f) (facetEnded f s)) = cores s := (cores_congr (by simp)).trans (facetEnded_cores f s)
  have core : x.core ∈ cores s := kept ▸ List.mem_map_of_mem there
  obtain ⟨y, before, same⟩ := List.mem_map.mp core
  have num : y.num = x.num := congrArg PairCore.num same
  have facet : y.facet = x.facet := congrArg PairCore.facet same
  by_contra mine
  obtain ⟨io, owned⟩ : x.num ≠ 0 ∧ x.facet = f := by simpa using mine
  have listed : y ∈ pairsOf s f := List.mem_filter.mpr ⟨before, by simp [num, facet, io, owned]⟩
  have number : x.num ∈ (pairsOf s f).map (·.num) := num ▸ List.mem_map_of_mem listed
  simp [number] at other

end

-- FACET_DESTROY: the scrub (R236).

theorem mem_updFirst_of_mem {α : Type} {p : α → Bool} {g : α → α} {l : List α} {a : α} (mem : a ∈ l) :
    a ∈ updFirst p g l ∨ g a ∈ updFirst p g l := by
  induction l with
  | nil => cases mem
  | cons b l ih =>
    unfold updFirst
    split
    · rcases List.mem_cons.mp mem with rfl | rest
      · exact .inr List.mem_cons_self
      · exact .inl (List.mem_cons_of_mem _ rest)
    · rcases List.mem_cons.mp mem with rfl | rest
      · exact .inl List.mem_cons_self
      · exact (ih rest).imp (List.mem_cons_of_mem _) (List.mem_cons_of_mem _)

section
variable {w : SegWork} {cls : Nat} {s : State}

theorem Programs.congr {t : State} (h : t.flash = s.flash) (waits : Programs w cls s) : Programs w cls t := by
  unfold Programs
  rw [h]
  exact waits

/-- What waits on a die waits there still when one more program does. -/
theorem Programs.queueSeg {ch d pl : Nat} {block : Option Nat} {k f : Nat} {work : SegWork} (waits : Programs w cls s) :
    Programs w cls (queueSeg ch d pl block k f work s) := by
  obtain ⟨x, die, g, seg, same⟩ := waits
  unfold Machine.queueSeg updDie
  dsimp only
  split
  · rcases mem_updFirst_of_mem die with kept | longer
    · exact ⟨x, kept, g, seg, same⟩
    · exact ⟨_, longer, g, List.mem_append_left _ seg, same⟩
  · exact ⟨x, List.mem_append_left _ die, g, seg, same⟩

theorem Programs.chargePiece {f k : Nat} {work : SegWork} {j : Job} {b : Bool} (waits : Programs w cls s) :
    Programs w cls (chargePiece f k work j b s) := by
  obtain ⟨t, flash, plain, programs⟩ := chargePiece_charges f k work j b s
  cases die : j.die with
  | none => exact plain (.inl die) ▸ waits.congr flash
  | some d =>
    cases unit : j.unit with
    | none => exact plain (.inr unit) ▸ waits.congr flash
    | some u => exact programs d u die unit ▸ (waits.congr flash).queueSeg

theorem Programs.scrubOn {f : Nat} (waits : Programs w cls s) : Programs w cls (scrubOn s f) := by
  have ran : Programs w cls (runJobs f 7 .ended (facetOf s f).scrub s).2 := runJobs_ind (fun _ _ _ _ h => h.chargePiece) waits
  unfold Machine.scrubOn
  extract_lets r t
  split <;> exact ran.congr rfl

theorem queueErases_programs {f : Nat} {bs : List (Nat × Nat × Nat × Nat)} (blocks : bs ≠ []) : Programs (.scrub f) 7 (queueErases f bs s) := by
  cases bs with
  | nil => exact absurd rfl blocks
  | cons b bs => exact foldl_ind (Programs (.scrub f) 7) _ bs _ (queueSeg_programs ..) fun t a h => h.queueSeg

end

/-- Where a facet's log lies is a block of its own, whatever else it holds. -/
theorem otherBlocks_ne_nil (s : State) (f : Nat) : otherBlocks s f ≠ [] := by simp [otherBlocks]

/-- A facet with nothing left but what its scrub is to zero and to erase (R236). -/
def Facet.scrubbing (f : Nat) (s : State) (x : Facet) : Facet := { x with
  pend := [], log := [], window := [], admission := [], teardown := some 4, scrub := zeroJobs s f, scrubHbm := hbmCharged s f,
  droppedFlash := flashCharged s f }

/-- A facet whose scrub is queued, before any of it is granted. -/
def scrubQueued (f : Nat) (s : State) : State :=
  let emptied := dropSegs (fun g => g.facet == f && g.work != .scrub f) <| dropPages (·.facet == f) <| forgetFacet f { s with
    idx := s.idx.filter fun i => !(i.geo.facet == f), mods := s.mods.map fun m => if m.facet == f then ModelSlot.empty f m.slot m.raw else m }
  queueErases f (blocksHeld s (·.facet == f) (s.idx.filter fun i => i.geo.facet == f) ++ otherBlocks s f) <|
    updFacet f (Facet.scrubbing f s) emptied

section
variable (f : Nat) (s : State)

theorem beginScrub_eq : beginScrub f s = scrubOn (scrubQueued f s) f := rfl

theorem beginScrub_idx : (beginScrub f s).idx = s.idx.filter fun i => !(i.geo.facet == f) := by simp [beginScrub_eq, scrubQueued]

theorem beginScrub_programs : Programs (.scrub f) 7 (beginScrub f s) :=
  (queueErases_programs (List.append_ne_nil_of_right_ne_nil _ (otherBlocks_ne_nil s f))).scrubOn

/-- A scrub that goes on counts its work and changes what is left of it, of its facet. -/
theorem facetOf_scrubOn : ∃ ctr scrub flash hbm, facetOf (scrubOn s f) f =
    { facetOf s f with ctr := ctr, scrub := scrub, droppedFlash := flash, scrubHbm := hbm } := by
  have jobs := (runJobs_countedOn 7 .ended (facetOf s f).scrub (countedOn_of_eq (f := f) (rfl : s.facets = s.facets))).2
  unfold scrubOn
  extract_lets r t
  have left : facetOf t f = { facetOf r.2 f with scrub := r.1 } := facetOf_updFacet f _ _ (by intro; rfl)
  rw [jobs] at left
  split
  · exact ⟨_, _, _, _, left⟩
  · exact ⟨_, _, _, _, (facetOf_updFacet f _ _ (by intro; rfl)).trans (by rw [left])⟩

theorem facetOf_scrubQueued : facetOf (scrubQueued f s) f = (facetOf s f).scrubbing f s := by
  unfold scrubQueued
  extract_lets emptied
  have same : emptied.facets = s.facets := by simp [emptied]
  have queued : ∀ bs t, (queueErases f bs t).facets = t.facets := by simp
  rw [facetOf_congr (queued _ _), facetOf_updFacet f (Facet.scrubbing f s) emptied fun _ => rfl,
    facetOf_congr same]

theorem facetOf_beginScrub : (facetOf (beginScrub f s) f).state = (facetOf s f).state ∧
    (facetOf (beginScrub f s) f).destroyTag = (facetOf s f).destroyTag ∧ (facetOf (beginScrub f s) f).teardown = some 4 := by
  obtain ⟨_, _, _, _, on⟩ := facetOf_scrubOn f (scrubQueued f s)
  rw [beginScrub_eq, on, facetOf_scrubQueued]
  exact ⟨rfl, rfl, rfl⟩

end

theorem setPhase_all {q : Cmd → Bool} (same : ∀ x p, q { x with phase := p } = q x) (t : Nat) (p : CmdPhase) (s : State) :
    (setPhase t p s).cmds.all q = s.cmds.all q := by
  rw [List.all_eq_not_any_not, List.all_eq_not_any_not]
  exact congrArg _ (any_updFirst _ _ _ s.cmds fun x => by rw [same])

theorem facetOf_facetLeft (c : Cmd) (s : State) :
    (facetOf (facetLeft c s) c.facet).state = 3 ∧ (facetOf (facetLeft c s) c.facet).destroyTag = some c.tag := by
  have left : facetOf (facetLeft c s) c.facet = { facetOf (facetEmptied c.facet (updFacet c.facet (fun x => { x with state := 3 }) s)) c.facet with
      destroyTag := some c.tag } := facetOf_updFacet c.facet _ _ fun _ => rfl
  have state : (facetOf (updFacet c.facet (fun x => { x with state := 3 }) s) c.facet).state = 3 :=
    congrArg Facet.state (facetOf_updFacet c.facet (fun x => { x with state := 3 }) s fun _ => rfl)
  have kept := field_of_standing Facet.state (facetEmptied_standing c.facet (updFacet c.facet (fun x => { x with state := 3 }) s)) c.facet
    fun _ => rfl
  rw [left]
  exact ⟨kept.trans state, rfl⟩

-- What a FACET_DESTROY leaves.

section
variable (c : Cmd) (s : State)

theorem beginFacetDestroy_facet : (facetOf (beginFacetDestroy c s) c.facet).state = 3 ∧
    (facetOf (beginFacetDestroy c s) c.facet).teardown = some 4 ∧ (facetOf (beginFacetDestroy c s) c.facet).destroyTag = some c.tag := by
  obtain ⟨state, tag⟩ := facetOf_facetLeft c s
  obtain ⟨stateKept, tagKept, teardown⟩ := facetOf_beginScrub c.facet (facetLeft c s)
  have same : (beginFacetDestroy c s).facets = (beginScrub c.facet (facetLeft c s)).facets := by simp [beginFacetDestroy_eq]
  rw [facetOf_congr same]
  exact ⟨stateKept.trans state, teardown, tagKept.trans tag⟩

theorem beginFacetDestroy_qps : ((beginFacetDestroy c s).qps.all fun x => x.num == 0 || x.facet != c.facet) = true := by
  have left : (beginFacetDestroy c s).qps = (facetEmptied c.facet (updFacet c.facet (fun x => { x with state := 3 }) s)).qps := by
    simp [beginFacetDestroy_eq, facetLeft]
  rw [left]
  exact List.all_eq_true.mpr (facetEmptied_qps c.facet _)

theorem beginFacetDestroy_idx : ((beginFacetDestroy c s).idx.all fun i => i.geo.facet != c.facet) = true := by
  have left : (beginFacetDestroy c s).idx = (facetLeft c s).idx.filter fun i => !(i.geo.facet == c.facet) := by
    simp [beginFacetDestroy_eq, beginScrub_idx]
  rw [left]
  exact List.all_eq_true.mpr fun i mem => by simpa using (List.mem_filter.mp mem).2

theorem beginFacetDestroy_cmds : ((beginFacetDestroy c s).cmds.all fun x => isAdmin x.op || x.facet != c.facet) = true := by
  have left : (beginScrub c.facet (facetLeft c s)).cmds = (facetEmptied c.facet (updFacet c.facet (fun x => { x with state := 3 }) s)).cmds := by
    simp [facetLeft]
  rw [beginFacetDestroy_eq, setPhase_all fun _ _ => rfl, left]
  exact List.all_eq_true.mpr (facetEmptied_cmds c.facet _)

theorem beginFacetDestroy_scrubs :
    ((beginFacetDestroy c s).flash.dies.any fun d => d.segs.any fun g => g.work == .scrub c.facet && g.cls == 7) = true := by
  have same : (beginFacetDestroy c s).flash = (beginScrub c.facet (facetLeft c s)).flash := by simp [beginFacetDestroy_eq]
  obtain ⟨d, die, g, seg, work, cls⟩ := beginScrub_programs c.facet (facetLeft c s)
  rw [same]
  exact List.any_eq_true.mpr ⟨d, die, List.any_eq_true.mpr ⟨g, seg, by simp [work, cls]⟩⟩

end

/-- Settles O14: a created facet is the blank one, ACTIVE; of a destroyed one the commands and pairs go first, then its scrub is queued. -/
theorem facetsAreCreatedAndDestroyed : Obligations.FacetsAreCreatedAndDestroyed := by
  unfold Obligations.FacetsAreCreatedAndDestroyed
  refine ⟨fun e s q t h => ?_, fun e s q t h => ?_⟩
  · have run := exec_begins h (by decide) (beginFacetCreate_eq _ _)
    intro c u
    have created : facetOf (updFacet c.facet Facet.created u) c.facet = (facetOf u c.facet).created :=
      facetOf_updFacet c.facet Facet.created u fun _ => rfl
    refine ⟨_, run, _, rfl, rfl, ?_, ?_, ?_, ?_, fun f other => facetOf_updFacet_ne c.facet f Facet.created u (fun _ => rfl) other⟩
    all_goals rw [created]; rfl
  · have run : exec (.facetDestroy e) s = .next (settle (beginFacetDestroy (theCmd .facetDestroy e s q t) (taken .facetDestroy e s q t))) :=
      exec_begins h (by decide) rfl
    obtain ⟨state, teardown, tag⟩ := beginFacetDestroy_facet (theCmd .facetDestroy e s q t) (taken .facetDestroy e s q t)
    exact ⟨_, run, state, teardown, tag, beginFacetDestroy_qps _ _, beginFacetDestroy_idx _ _, beginFacetDestroy_cmds _ _,
      beginFacetDestroy_scrubs _ _⟩

end Sys2Proof.Machine
end

section
/-! INDEX_CREATE, INDEX_DROP, FLUSH and RESKETCH as they begin (R79, R135, R147, R267, R277, R278, R286, R288, R311; logs 56, 100): O15. -/

namespace Sys2Proof.Machine

open Sys2Proof.Safety

-- INDEX_CREATE.

section
variable {c : Cmd} {s : State} {g : Geometry} (declared : geoOf s c.facet (c.ar 1 1) = some g)
include declared

theorem beginIndexCreate_fits (fits : fixedCharge s g ≤ hbmFree s c.facet) :
    beginIndexCreate c s = queueCmdSeg 3 c.facet c.tag (setPhase c.tag .running s) := by
  rw [beginIndexCreate, declared]
  exact if_neg (Nat.not_lt.mpr fits)

theorem beginIndexCreate_full (full : hbmFree s c.facet < fixedCharge s g) :
    beginIndexCreate c s = finish c 4 0 0 [] ⟨6, 0, 0xFFFFFFFF⟩ s := by
  rw [beginIndexCreate, declared]
  exact if_pos full

end

-- FLUSH.

theorem cmdOf_beginFlush {c : Cmd} {s : State} (held : cmdOf s c.tag = some c) : cmdOf (beginFlush c s) c.tag = some { c with
    phase := .running, mark := ((facetOf s c.facet).log.map (·.epoch)).foldl max 0,
    left := (facetOf s c.facet).pendFreed + pendCount (facetOf s c.facet), drain := (idxsOf s c.facet).map fun i => (i.geo.slot, i.committed) } := by
  refine (cmdOf_updCmd c.tag _ _ ?_).trans ?_
  · exact fun _ => rfl
  · rw [cmdOf_setPhase_of_found held]
    rfl

theorem taken_facets (o : Op) (e : Entry) (s : State) (q : Qp) (t : Nat) : (taken o e s q t).facets = s.facets := by
  have woken : ∀ u : State, (wake o u).facets = u.facets := fun u => by
    unfold wake
    split <;> simp
  simp [taken, woken]

-- RESKETCH.

/-- HBM that a re-sketch of an index takes: new sketches of its longest list, or of a chunk of 65,536 nodes (R147). -/
def sketchRoom (ix : Index) : Nat :=
  (if ix.geo.mode = 0 then (ix.lists.map fun d => (curCopy d).pos.length).foldl max 0 else 65536) * (ix.geo.sketchBits / 8 + 8)

/-- An index whose RESKETCH has committed (R147, R190): its pending projection is generation g + 1, in use from an epoch on. -/
def Index.resketched (tag fmt es : Nat) (w : List (BitVec 16)) (ix : Index) : Index := { ix with
  pendingProj := none, gen := ix.gen + 1, projs := ix.projs ++ [(ix.gen + 1, .learned fmt w)], starts := ix.starts ++ [(ix.gen + 1, es)],
  trans := some ⟨tag, es, ix.gen, 0⟩ }

/-- A RESKETCH has committed for an epoch: its index has a new generation, and its facet a change to publish (R77, R147). -/
def resketchBegun (c : Cmd) (fmt es : Nat) (w : List (BitVec 16)) (s : State) : State :=
  keepTables c.facet c.slot (markChanged c.facet (setPhase c.tag .running (updCmd c.tag (fun x => { x with epoch := es })
    (updIdx c.facet c.slot (Index.resketched c.tag fmt es w) s))))

section
variable {c : Cmd} {s : State} {ix : Index}

section
variable (found : c.index s = some ix)
include found

/-- A RESKETCH waits while its index is being migrated away (R311). -/
theorem beginResketch_held (moves : migHolds s c.facet c.slot = true) : beginResketch c s = setPhase c.tag .waiting s := by
  rw [beginResketch, found]
  exact if_pos moves

variable (stays : migHolds s c.facet c.slot = false)
include stays

theorem beginResketch_unready (none' : ix.pendingProj = none) : beginResketch c s = finish c 1 0 0 [] ⟨6, 0, 0x20⟩ s := by
  rw [beginResketch, found]
  exact (if_neg (Bool.eq_false_iff.mp stays)).trans (by rw [none']; rfl)

/-- With a pending projection, the conditions follow in this order: no transition, room, a region that is left. -/
theorem beginResketch_pending {w : List (BitVec 16)} (some' : ix.pendingProj = some w) : beginResketch c s =
    if ix.trans.isSome then finish c 5 0 0 [] ⟨6, 0, 0xFFFFFFFF⟩ s
    else if hbmFree s c.facet < sketchRoom ix then finish c 4 0 0 [] ⟨6, 0, 0xFFFFFFFF⟩ s
    else if noRegion s c.facet then finish c 11 0 0 [] running0 s
    else resketchBegun c (stageFormat s c.facet 1 ix.geo.storage).1 (commitEpoch (facetOf s c.facet)) w s := by
  have room : sketchRoom ix = if ix.geo.mode == 0 then (ix.lists.map fun d => (curCopy d).pos.length).foldl max 0 * (ix.geo.sketchBits / 8 + 8)
      else 65536 * (ix.geo.sketchBits / 8 + 8) := by
    unfold sketchRoom
    simp only [beq_iff_eq, ite_mul]
  rw [beginResketch, found, room]
  exact (if_neg (Bool.eq_false_iff.mp stays)).trans (by rw [some']; rfl)

end

section
variable (fmt es : Nat) (w : List (BitVec 16))

theorem idxOf_resketchBegun (created : idxOf s c.facet c.slot = some ix) :
    idxOf (resketchBegun c fmt es w s) c.facet c.slot = some (Index.resketched c.tag fmt es w ix) := by
  have idx : (resketchBegun c fmt es w s).idx = (updIdx c.facet c.slot (Index.resketched c.tag fmt es w) s).idx := by
    simp [resketchBegun, markChanged]
  have changed := idxOf_updIdx c.facet c.slot (Index.resketched c.tag fmt es w) s fun _ => rfl
  rw [created] at changed
  exact (congrArg (List.find? fun i : Index => i.geo.facet == c.facet && i.geo.slot == c.slot) idx).trans changed

theorem changed_resketchBegun : (facetOf (resketchBegun c fmt es w s) c.facet).changed = true := by
  have kept : ∀ t, (keepTables c.facet c.slot t).facets = t.facets := by simp
  rw [resketchBegun, facetOf_congr (kept _), facetOf_markChanged]

theorem cmdOf_resketchBegun (held : cmdOf s c.tag = some c) : (cmdOf (resketchBegun c fmt es w s) c.tag).map (·.epoch) = some es := by
  have stamped := cmdOf_updCmd c.tag (fun x => { x with epoch := es }) (updIdx c.facet c.slot (Index.resketched c.tag fmt es w) s) fun _ => rfl
  have same : cmdOf (updIdx c.facet c.slot (Index.resketched c.tag fmt es w) s) c.tag = some c := held
  rw [same] at stamped
  have cmds : (resketchBegun c fmt es w s).cmds = (setPhase c.tag .running (updCmd c.tag (fun x => { x with epoch := es })
      (updIdx c.facet c.slot (Index.resketched c.tag fmt es w) s))).cmds := by
    simp [resketchBegun, markChanged]
  rw [cmdOf_congr cmds, cmdOf_setPhase_of_found stamped]
  rfl

end

end

/-- Settles O15: an INDEX_CREATE by the room for its charge, a FLUSH by what it notes, a RESKETCH by its conditions in their order. -/
theorem indexCommandsBegin : Obligations.IndexCommandsBegin := by
  unfold Obligations.IndexCommandsBegin
  refine ⟨fun e s q t => ⟨fun h g => ?_, fun h => ?_, fun h => ?_⟩, fun e s q t ix h => ?_⟩
  · have run := fun {v : State} => exec_begins (v := v) h (by decide)
    exact fun declared => ⟨fun fits => run (beginIndexCreate_fits declared fits), fun full => run (beginIndexCreate_full declared full)⟩
  · exact exec_begins h (by decide) rfl
  · intro c u
    have noted : cmdOf (beginFlush c u) t = _ := cmdOf_beginFlush (cmdOf_taken .flush e s q t (freeTag_free s _ t h.fetched.tag))
    refine ⟨beginFlush c u, exec_begins h (by decide) rfl, ?_, ?_, ?_, ?_, ?_, ?_⟩
    · rw [noted]; rfl
    · rw [noted]; rfl
    · rw [noted]; rfl
    · exact (by simp : (beginFlush c u).facets = u.facets).trans (taken_facets .flush e s q t)
    · exact (by simp : (beginFlush c u).idx = u.idx).trans (taken_idx .flush e s q t)
    · exact (by simp : (beginFlush c u).out = u.out).trans (taken_out .flush e s q t)
  · have run := fun {v : State} => exec_begins (v := v) h (by decide)
    intro c u found need
    refine ⟨fun moves => run (beginResketch_held found moves), fun stays => ?_⟩
    have begins := fun {w} => beginResketch_pending found stays (w := w)
    refine ⟨fun none' => run (beginResketch_unready found stays none'), fun w some' moving => run ((begins some').trans (if_pos moving)),
      fun w some' still short => ?_, fun w some' still room dead => ?_, fun w some' still room live => ?_⟩
    all_goals
      have first := begins some'
      rw [still] at first
    · exact run (first.trans (if_pos short))
    · exact run (first.trans ((if_neg (Nat.not_lt.mpr room)).trans (if_pos dead)))
    · have committed := first.trans ((if_neg (Nat.not_lt.mpr room)).trans (if_neg (Bool.eq_false_iff.mp live)))
      exact ⟨_, run committed, idxOf_resketchBegun _ _ w (idxOf_of_index found), changed_resketchBegun _ _ w,
        cmdOf_resketchBegun _ _ w (cmdOf_taken .resketch e s q t (freeTag_free s _ t h.fetched.tag))⟩

end Sys2Proof.Machine
end

section
/-! Every command answers, and what it keeps whatever it is: the queue, fuses and serial number; the fence set-up where nothing resets
the module (R239, R314, R316); the bounds (R268, R318, R320, R326, R331). -/

namespace Sys2Proof.Machine

open Sys2Proof.Safety

-- The filtered pins (R344): whatever moves a pin writes its filter, and runs the effect of a level where one is accepted.

/-- The state with the filter of a pin written, and no more than the effect of one level after it. -/
def PinMoved (start : State → State) (pin : Pin) (s t : State) : Prop :=
  ∃ p, t = setPin pin p s ∨ ∃ level, t = pinEffect start pin level (setPin pin p s)

theorem setPin_pinOf (pin : Pin) (s : State) : setPin pin (pinOf s pin) s = s := by cases pin <;> rfl

theorem setPin_setPin (pin : Pin) (p p' : PinSt) (s : State) : setPin pin p (setPin pin p' s) = setPin pin p s := by cases pin <;> rfl

theorem PinMoved.still (start : State → State) (pin : Pin) (s : State) : PinMoved start pin s s :=
  ⟨pinOf s pin, .inl (setPin_pinOf pin s).symm⟩

theorem PinMoved.of_setPin {start : State → State} {pin : Pin} {p : PinSt} {s t : State} (h : PinMoved start pin (setPin pin p s) t) :
    PinMoved start pin s t := by
  simpa only [PinMoved, setPin_setPin] using h

theorem acceptLevel_moves (start : State → State) (pin : Pin) (level : Bool) (s : State) :
    PinMoved start pin s (acceptLevel start pin level s) := by
  unfold acceptLevel
  extract_lets p
  split
  · exact .still start pin s
  · exact ⟨_, .inr ⟨level, rfl⟩⟩

theorem lockOutOver_moves (start : State → State) (pin : Pin) (s : State) : PinMoved start pin s (lockOutOver start pin s) := by
  unfold lockOutOver
  extract_lets p s1
  split
  · exact .still start pin s
  · split_ifs
    · exact .still start pin s
    · exact ⟨_, .inl rfl⟩
    · exact (acceptLevel_moves start pin p.filtered s1).of_setPin

theorem filteredLevel_moves (start : State → State) (pin : Pin) (level : Bool) (s : State) :
    PinMoved start pin s (filteredLevel start pin level s) := by
  unfold filteredLevel
  extract_lets p
  split_ifs
  · exact .still start pin s
  · exact ⟨_, .inl rfl⟩
  · exact ⟨_, .inl rfl⟩
  · exact acceptLevel_moves start pin level s

-- The queue, the fuses and the serial number.

/-- The queue of commands, the fuses and the serial number stay as they were. -/
def Untouched (s t : State) : Prop := t.pending = s.pending ∧ t.fuse = s.fuse ∧ t.serial = s.serial

theorem pinEffect_untouched {start : State → State} (starts : ∀ t, Untouched t (start t)) (pin : Pin) (level : Bool) (s : State) :
    Untouched s (pinEffect start pin level s) := by
  cases pin with
  | modRst =>
    cases level with
    | true => simpa [Untouched, pinEffect] using starts (driveHot s { s with brd := { s.brd with hotLatch := false } })
    | false => simp [Untouched, pinEffect]
  | pwrBrake => simp only [Untouched, pinEffect]; split_ifs <;> simp
  | syncIn => cases level <;> simp [Untouched, pinEffect]

theorem PinMoved.untouched {start : State → State} {pin : Pin} {s t : State} (h : PinMoved start pin s t)
    (starts : ∀ t, Untouched t (start t)) : Untouched s t := by
  obtain ⟨p, rfl | ⟨level, rfl⟩⟩ := h
  · simp [Untouched]
  · simpa [Untouched] using pinEffect_untouched starts pin level (setPin pin p s)

theorem counted_untouched {g : State → State} {s : State} (h : Untouched s (g s)) : Untouched s (counted g s) := by
  simpa [Untouched] using h

theorem recovery_untouched {f : State → State} (keeps : ∀ t, Untouched t (f t)) (s : State) : Untouched s (recovery f s) := by
  unfold recovery
  split_ifs
  · exact ⟨rfl, rfl, rfl⟩
  · exact keeps s
  · simp [Untouched]

theorem exec_untouched (i : Instr) (s : State) : ∃ t, exec i s = .next t ∧ Untouched s t := by
  cases i
  case modRstAssert => exact ⟨_, rfl, counted_untouched ((acceptLevel_moves _ _ _ _).untouched fun _ => ⟨rfl, rfl, rfl⟩)⟩
  case modRstRelease => exact ⟨_, rfl, counted_untouched ((acceptLevel_moves _ _ _ _).untouched fun _ => by simp [Untouched])⟩
  case pwrBrakeAssert => exact ⟨_, rfl, counted_untouched ((acceptLevel_moves _ _ _ _).untouched fun _ => ⟨rfl, rfl, rfl⟩)⟩
  case pwrBrakeRelease =>
    have kept := (acceptLevel_moves id .pwrBrake true s).untouched fun _ => ⟨rfl, rfl, rfl⟩
    exact ⟨_, rfl, counted_untouched (by simpa [Untouched] using kept)⟩
  case lockOutEnd => exact ⟨_, rfl, counted_untouched ((lockOutOver_moves _ _ _).untouched fun _ => by simp [Untouched])⟩
  case filteredLevelChange => exact ⟨_, rfl, counted_untouched ((filteredLevel_moves _ _ _ _).untouched fun _ => by simp [Untouched])⟩
  case recoveryBlockWrite => exact ⟨_, rfl, recovery_untouched (fun _ => by simp [Untouched]) s⟩
  case recoveryStore => exact ⟨_, rfl, recovery_untouched (fun _ => by simp [Untouched]) s⟩
  case recoveryStatus => exact ⟨_, rfl, recovery_untouched (fun _ => by simp [Untouched]) s⟩
  all_goals exact ⟨_, rfl, by simp [Untouched]⟩

/-- Settles O3: each command's own function leaves the queue, the fuses and the serial number as they are. -/
theorem commandsAnswerAndKeepTheQueue : Obligations.CommandsAnswerAndKeepTheQueue := by
  unfold Obligations.CommandsAnswerAndKeepTheQueue
  exact exec_untouched

/-- Settles O1: the definition of a step, with the queue's front known. -/
theorem stepRunsFrontCommand : Obligations.StepRunsFrontCommand := by
  unfold Obligations.StepRunsFrontCommand
  intro i rest s queue
  simp only [step, queue]

-- The fence set-up.

theorem PinMoved.fnc {start : State → State} {pin : Pin} {s t : State} (h : PinMoved start pin s t) (other : pin ≠ .modRst) : t.fnc = s.fnc := by
  obtain ⟨p, rfl | ⟨level, rfl⟩⟩ := h
  · simp
  · cases pin with
    | modRst => exact absurd rfl other
    | pwrBrake => simp only [pinEffect]; split_ifs <;> simp
    | syncIn => cases level <;> simp [pinEffect]

theorem recovery_fnc {f : State → State} (keeps : ∀ t, (f t).fnc = t.fnc) (s : State) : (recovery f s).fnc = s.fnc := by
  unfold recovery
  split_ifs
  · rfl
  · exact keeps s
  · simp

theorem exec_fnc {i : Instr} (harmless : resets i = false) (s : State) : ∃ t, exec i s = .next t ∧ t.fnc = s.fnc := by
  cases i
  case modRstAssert | modRstRelease | main54TurnOff | aux5TurnOff | main54TurnOn | aux5TurnOn | thermalTrip => cases harmless
  case pwrBrakeAssert => exact ⟨_, rfl, by simpa using (acceptLevel_moves id .pwrBrake false s).fnc (by decide)⟩
  case pwrBrakeRelease => exact ⟨_, rfl, by simpa using (acceptLevel_moves id .pwrBrake true s).fnc (by decide)⟩
  case lockOutEnd pin =>
    have other : pin ≠ .modRst := fun reset => by subst reset; cases harmless
    exact ⟨_, rfl, by simpa using (lockOutOver_moves powerAlone pin s).fnc other⟩
  case filteredLevelChange pin level =>
    have other : pin ≠ .modRst := fun reset => by subst reset; cases harmless
    exact ⟨_, rfl, by simpa using (filteredLevel_moves powerAlone pin level s).fnc other⟩
  case recoveryBlockWrite => exact ⟨_, rfl, recovery_fnc (fun _ => by simp) s⟩
  case recoveryStore => exact ⟨_, rfl, recovery_fnc (fun _ => by simp) s⟩
  case recoveryStatus => exact ⟨_, rfl, recovery_fnc (fun _ => by simp) s⟩
  all_goals exact ⟨_, rfl, by simp⟩

/-- Settles O6: a command that is no reset runs a function that writes the fence set-up nowhere. -/
theorem onlyResetsChangeTheFence : Obligations.OnlyResetsChangeTheFence := by
  unfold Obligations.OnlyResetsChangeTheFence
  intro i s t harmless run
  obtain ⟨u, answer, kept⟩ := exec_fnc harmless s
  cases run.symm.trans answer
  exact kept

-- The bounds.

theorem counted_bounded {g : State → State} {s : State} (h : Bounded (g s)) : Bounded (counted g s) := countHealth_b _ _ h

/-- Every command keeps the bounds: its own function does. -/
theorem exec_bounded {s : State} (h : Bounded s) (i : Instr) : ∃ t, exec i s = .next t ∧ Bounded t := by
  cases i with
  | identify | getLog | setFeature | getFeature | fwDownload | fwCommit | createQp | deleteQp | abort
  | resumeQp | loadLattice | facetCreate | facetDestroy | indexCreate | indexDrop | evrControl | query
  | queryBatch | insert | delete | labelUpdate | fetch | flush | train | resketch | encode | modelLoad => exact ⟨_, rfl, fetchEntry_b _ _ _ h⟩
  | sqTailDoorbell => exact ⟨_, rfl, sqTail_b _ _ _ h⟩
  | cqHeadDoorbell => exact ⟨_, rfl, cqHead_b _ _ _ h⟩
  | hifCtrlEnable => exact ⟨_, rfl, enableHif_b _ h⟩
  | hifCtrlDisable => exact ⟨_, rfl, disableHif_b _ h⟩
  | chdMigCtrlGo => exact ⟨_, rfl, settle_b _ (migGo_b _ _ h)⟩
  | chdMigCtrlCancel => exact ⟨_, rfl, settle_b _ (migCancelHere_b _ (setCtrl_b _ _ h))⟩
  | chdMigAcceptGo => exact ⟨_, rfl, settle_b _ (migArm_b _ _ h)⟩
  | chdMigAcceptCancel => exact ⟨_, rfl, settle_b _ (migCancelHere_b _ (setAccept_b _ _ h))⟩
  | evrWindowCrcRead => exact ⟨_, rfl, ite_b _ _ _ (readBar_b _ _ _ _ h) (readBar_b _ _ _ _ h)⟩
  | registerWrite => exact ⟨_, rfl, writeBar_b _ _ _ _ _ h⟩
  | functionLevelReset | hotReset => exact ⟨_, rfl, functionReset_b _ h⟩
  | linkDown => exact ⟨_, rfl, linkLost_b _ h⟩
  | hostReadCompletion => exact ⟨_, rfl, hostData_b _ _ _ _ h⟩
  | hostReadTimeout => exact ⟨_, rfl, readTimeout_b _ _ h⟩
  | msixIntervalExpiry => exact ⟨_, rfl, releaseMsg_b _ _ h⟩
  | coalescingDelayExpiry => exact ⟨_, rfl, delayOver_b _ _ h⟩
  | batchStepBoundary => exact ⟨_, rfl, batchStep_b _ h⟩
  | syncInPulse => exact ⟨_, rfl, syncIn_b _ h⟩
  | syncTimeout => exact ⟨_, rfl, syncLost_b _ h⟩
  | freeRunningTurn => exact ⟨_, rfl, freeTurn_b _ h⟩
  | tileDrain => exact ⟨_, rfl, tileDrain_b _ _ h⟩
  | sentinelShadowFinish => exact ⟨_, rfl, shadowFinish_b _ _ _ h⟩
  | sliverFinish => exact ⟨_, rfl, sliverFinish_b _ _ h⟩
  | heapFull => exact ⟨_, rfl, heapFull_b _ _ h⟩
  | steal => exact ⟨_, rfl, steal_b _ _ h⟩
  | cellSwitch => exact ⟨_, rfl, cellSwitch_b _ _ h⟩
  | scanCheckpoint => exact ⟨_, rfl, scanCheckpoint_b _ _ h⟩
  | flashReadComplete => exact ⟨_, rfl, readComplete_b _ _ _ _ _ h⟩
  | hopRound => exact ⟨_, rfl, settle_b _ (hopRoundAt_b _ _ h)⟩
  | commit => exact ⟨_, rfl, commitAt_b _ _ h⟩
  | flashSegmentStart => exact ⟨_, rfl, startSegment_b _ _ _ h⟩
  | flashSegmentSuspend => exact ⟨_, rfl, suspendSegment_b _ _ _ h⟩
  | flashSegmentComplete => exact ⟨_, rfl, segmentComplete_b _ _ _ _ h⟩
  | compactionMove => exact ⟨_, rfl, compactionMove_b _ _ _ _ h⟩
  | listRewrite => exact ⟨_, rfl, listRewrite_b _ _ _ h⟩
  | graphInsert => exact ⟨_, rfl, graphInsert_b _ _ _ _ h⟩
  | repairSweepUnit => exact ⟨_, rfl, repairSweepUnit_b _ _ _ h⟩
  | renumbering => exact ⟨_, rfl, renumbering_b _ _ _ h⟩
  | resketchStep => exact ⟨_, rfl, resketchStep_b _ _ _ h⟩
  | logCheckpoint => exact ⟨_, rfl, logCheckpoint_b _ _ h⟩
  | optimiserStep => exact ⟨_, rfl, settle_b _ (optimiserStep_b _ _ h)⟩
  | promotionCycle => exact ⟨_, rfl, promotionCycle_b _ h⟩
  | patrolScrub => exact ⟨_, rfl, patrol_b _ _ _ h⟩
  | waitForCheck => exact ⟨_, rfl, waitCheck_b _ _ h⟩
  | streamBlockResend => exact ⟨_, rfl, blockMismatch_b _ _ _ _ h⟩
  | latticeApply => exact ⟨_, rfl, counted_bounded (latticeApply_b _ _ h)⟩
  | regionReshape => exact ⟨_, rfl, counted_bounded (regionReshape_b _ _ _ h)⟩
  | facetScrubComplete => exact ⟨_, rfl, scrubComplete_b _ _ h⟩
  | powerStateEntry => exact ⟨_, rfl, counted_bounded (powerEntry_b _ h)⟩
  | ps3EntryTimeout => exact ⟨_, rfl, counted_bounded (ps3Timeout_b _ h)⟩
  | keepAliveLapse => exact ⟨_, rfl, kaLapse_b _ _ h⟩
  | watchdog => exact ⟨_, rfl, watchdogAt_b _ _ h⟩
  | firmwareCheckIn => exact ⟨_, rfl, checkIn_b _ _ h⟩
  | cellFenced => exact ⟨_, rfl, ite_b _ _ _ (settle_b _ (loseCell_b _ _ _ _ (bumpRas_b _ _ _ h))) h⟩
  | lostProgress => exact ⟨_, rfl, stuckCell_b _ _ h⟩
  | blockFenced | heartbeatLapse => exact ⟨_, rfl, ite_b _ _ _ (settle_b _ (loseBlock_b _ _ _ h)) h⟩
  | regionFenced => exact ⟨_, rfl, ite_b _ _ _ (settle_b _ (regionFault_b _ _ _ h)) h⟩
  | chipFatal => exact ⟨_, rfl, counted_bounded (goFatal_b _ _ h)⟩
  | hbmRowFailure => exact ⟨_, rfl, counted_bounded (rowFailure_b _ _ _ _ _ _ _ h)⟩
  | frameRebuild => exact ⟨_, rfl, frameRebuilt_b _ _ h⟩
  | stackedUncorrectable => exact ⟨_, rfl, counted_bounded (stackError_b _ _ _ _ h)⟩
  | flashUnitRebuilt => exact ⟨_, rfl, unitRebuilt_b _ _ h⟩
  | flashBlockRetired => exact ⟨_, rfl, blockRelocated_b _ _ _ _ _ h⟩
  | thermalState => exact ⟨_, rfl, counted_bounded (thermalReport_b _ _ _ h)⟩
  | thermalTrip => exact ⟨_, rfl, counted_bounded (driveHot_b _ _ (tripAt_b _ _ _ h))⟩
  | powerLimiter => exact ⟨_, rfl, counted_bounded (limiterSample_b _ _ _ h)⟩
  | main54TurnOn => exact ⟨_, rfl, counted_bounded (mainOn_b _ h)⟩
  | main54TurnOff => exact ⟨_, rfl, counted_bounded (mainOff_b _ h)⟩
  | aux5TurnOn => exact ⟨_, rfl, counted_bounded (auxOn_b _ h)⟩
  | aux5TurnOff => exact ⟨_, rfl, counted_bounded (auxOff_b _ h)⟩
  | modRstAssert => exact ⟨_, rfl, counted_bounded (acceptLevel_b _ (fun _ => id) _ _ _ h)⟩
  | modRstRelease => exact ⟨_, rfl, counted_bounded (acceptLevel_b _ (powerUp_b _) _ _ _ h)⟩
  | tierRebuild => exact ⟨_, rfl, counted_bounded (rebuildFacet_b _ _ h)⟩
  | pwrBrakeAssert => exact ⟨_, rfl, counted_bounded (acceptLevel_b _ (fun _ => id) _ _ _ h)⟩
  | pwrBrakeRelease =>
    have kept := acceptLevel_b id (fun _ => id) .pwrBrake true s h
    exact ⟨_, rfl, counted_bounded (settle_b _ kept)⟩
  | lockOutEnd => exact ⟨_, rfl, counted_bounded (lockOutOver_b _ powerAlone_b _ _ h)⟩
  | secondEnd => exact ⟨_, rfl, secondOver_b _ h⟩
  | freezeTimeout => exact ⟨_, rfl, freezeOver_b _ h⟩
  | sensorRefresh => exact ⟨_, rfl, refreshSensors_b _ h⟩
  | flit => exact ⟨_, rfl, settle_b _ (receiveFlit_b _ _ _ h)⟩
  | nak => exact ⟨_, rfl, settle_b _ (receiveNak_b _ _ _ h)⟩
  | laneDrop => exact ⟨_, rfl, settle_b _ (laneDrop_b _ _ _ h)⟩
  | chordDown => exact ⟨_, rfl, settle_b _ (chordDown_b _ _ _ h)⟩
  | retrain => exact ⟨_, rfl, settle_b _ (retrain_b _ _ h)⟩
  | trainingComplete => exact ⟨_, rfl, settle_b _ (trainingComplete_b _ _ _ h)⟩
  | queryCast => exact ⟨_, rfl, settle_b _ (receiveCast_b _ _ _ h)⟩
  | contribution => exact ⟨_, rfl, settle_b _ (receiveContrib_b _ _ _ h)⟩
  | gap => exact ⟨_, rfl, settle_b _ (receiveGap_b _ _ h)⟩
  | turnSet => exact ⟨_, rfl, settle_b _ (receiveTurn_b _ _ h)⟩
  | multicastSlackExpiry => exact ⟨_, rfl, settle_b _ (slackExpiry_b _ _ _ h)⟩
  | gatherCutoff => exact ⟨_, rfl, settle_b _ (gatherCutoff_b _ _ h)⟩
  | migOffer => exact ⟨_, rfl, settle_b _ (receiveOffer_b _ _ _ _ _ _ _ h)⟩
  | migAccept => exact ⟨_, rfl, settle_b _ (receiveAccept_b _ _ h)⟩
  | migRefuse => exact ⟨_, rfl, settle_b _ (receiveRefuse_b _ _ _ h)⟩
  | migUnit => exact ⟨_, rfl, settle_b _ (receiveUnit_b _ _ _ h)⟩
  | migWrite => exact ⟨_, rfl, settle_b _ (receiveWrite_b _ _ _ h)⟩
  | migCutOver => exact ⟨_, rfl, settle_b _ (receiveCutOver_b _ _ h)⟩
  | migDone => exact ⟨_, rfl, settle_b _ (receiveDone_b _ _ h)⟩
  | migCancel => exact ⟨_, rfl, settle_b _ (receiveCancel_b _ _ h)⟩
  | migrationTimeout => exact ⟨_, rfl, settle_b _ (migLinkLost_b _ h)⟩
  | setEndpointId => exact ⟨_, rfl, setEid_b _ _ h⟩
  | getEndpointId | getMctpVersionSupport | getMessageTypeSupport => exact ⟨_, rfl, sbAnswer_b _ _ h⟩
  | getTid => exact ⟨_, rfl, pldm_b _ _ _ h⟩
  | setTid => exact ⟨_, rfl, setTerminus_b _ _ h⟩
  | getPldmVersion => exact ⟨_, rfl, pldmVersion_b _ _ h⟩
  | getPldmTypes => exact ⟨_, rfl, pldm_b _ _ _ h⟩
  | getPldmCommands => exact ⟨_, rfl, pldmCmds_b _ _ h⟩
  | getPdrRepositoryInfo => exact ⟨_, rfl, pldm_b _ _ _ h⟩
  | getPdr => exact ⟨_, rfl, getRecord_b _ _ h⟩
  | getSensorReading => exact ⟨_, rfl, readSensor_b _ _ h⟩
  | getStateSensorReadings => exact ⟨_, rfl, readStates_b _ _ h⟩
  | getFruRecordTableMetadata | getFruRecordTable => exact ⟨_, rfl, pldm_b _ _ _ h⟩
  | unsupportedPldmCmd => exact ⟨_, rfl, ite_b _ _ _ h (pldm_b _ _ _ h)⟩
  | recoveryBlockWrite => exact ⟨_, rfl, recovery_b _ _ h (receiveBlock_b _ _)⟩
  | recoveryStore => exact ⟨_, rfl, recovery_b _ _ h (storeBuffer_b _)⟩
  | recoveryStatus => exact ⟨_, rfl, recovery_b _ _ h fun _ => sbAnswer_b _ _⟩
  | filteredLevelChange => exact ⟨_, rfl, counted_bounded (filteredLevel_b _ powerAlone_b _ _ _ h)⟩
  | misalignedRead => exact ⟨_, rfl, readBar_b _ _ _ _ h⟩
  | pcieLinkUp => exact ⟨_, rfl, trained_b _ _ _ h⟩
  | configurationWrite => exact ⟨_, rfl, configure_b _ _ h⟩
  | operatingDayEnd => exact ⟨_, rfl, dayOver_b _ h⟩

/-- Settles O4: the tick and each command's own function keep the bounds. -/
theorem everyStepKeepsTheBounds : Obligations.EveryStepKeepsTheBounds := by
  unfold Obligations.EveryStepKeepsTheBounds
  intro s t inv run
  rw [inv_iff_bounded] at inv ⊢
  cases queue : s.pending with
  | nil =>
    rw [step_of_empty queue] at run
    cases run
    exact tick_b s inv
  | cons i rest =>
    obtain ⟨u, answer, bounded⟩ := exec_bounded (s := { s with pending := rest }) inv i
    simp only [step, queue, answer] at run
    cases run
    exact bounded

end Sys2Proof.Machine
end

section
/-! The registers at reset (R332, R357, R359 to R361, R363, R365, R367 to R371). -/

namespace Sys2Proof.Machine

open Sys2Proof.Safety

-- Bytes that are all zero, and the numbers read from them.

/-- Every byte is zero. -/
def Zeros (bs : Bytes) : Prop := ∀ b ∈ bs, b = 0

theorem Zeros.replicate (n : Nat) : Zeros (List.replicate n 0) := fun _ => List.eq_of_mem_replicate

theorem Zeros.append {as bs : Bytes} (ha : Zeros as) (hb : Zeros bs) : Zeros (as ++ bs) := fun b h =>
  (List.mem_append.mp h).elim (ha b) (hb b)

theorem Zeros.flatten_replicate {bs : Bytes} (h : Zeros bs) (n : Nat) : Zeros (List.replicate n bs).flatten := fun b hb => by
  obtain ⟨l, hl, hb⟩ := List.mem_flatten.mp hb
  exact h b (List.eq_of_mem_replicate hl ▸ hb)

theorem Zeros.padTo {bs : Bytes} (h : Zeros bs) (n : Nat) : Zeros (padTo n bs) := fun b hb =>
  h.append (.replicate _) b (List.mem_of_mem_take hb)

theorem Zeros.leBytes (n : Nat) : Zeros (leBytes n 0) := by
  induction n with
  | zero => exact .replicate 0
  | succ n ih => exact (Zeros.replicate 1).append ih

theorem Zeros.leNat {bs : Bytes} (h : Zeros bs) : leNat bs = 0 := by
  induction bs with
  | nil => rfl
  | cons b bs ih =>
    have first : b = 0 := h b List.mem_cons_self
    simp [Machine.leNat, first, ih fun x hx => h x (List.mem_cons_of_mem _ hx)]

theorem Zeros.field {bs : Bytes} (h : Zeros bs) (off len : Nat) : field off len bs = 0 :=
  Zeros.leNat fun b hb => h b (List.mem_of_mem_drop (List.mem_of_mem_take hb))

/-- A fence set-up of zeros is a block of zero bytes (R371). -/
theorem fenceBytes_reset : Zeros (fenceBytes Fence.reset) := by
  have windows : ∀ n, Zeros (List.replicate n (leBytes 8 0 ++ leBytes 8 0)).flatten := ((Zeros.leBytes 8).append (.leBytes 8)).flatten_replicate
  have caps : Zeros (leBytes 1 0 ++ (List.replicate 4 (leBytes 1 0)).flatten ++ leBytes 3 0) :=
    ((Zeros.leBytes 1).append ((Zeros.leBytes 1).flatten_replicate 4)).append (.leBytes 3)
  have key : Zeros (padTo 0x80 (leBytes 96 0).reverse) := Zeros.padTo (fun b hb => Zeros.leBytes 96 b (List.mem_reverse.mp hb)) _
  simp only [fenceBytes, Fence.reset, List.map_replicate, BitVec.ofNat_eq_ofNat, BitVec.toNat_ofNat, Nat.zero_mod, flagBit,
    Bool.false_eq_true, if_false]
  exact ((((((((windows 256).padTo _).append ((windows 4).padTo _)).append (caps.padTo _)).append (.leBytes 8)).append (.leBytes 8)).append
    (.replicate _)).append (((Zeros.leBytes 8).flatten_replicate 256).padTo _)).append ((key.flatten_replicate 3).padTo _) |>.append (.leBytes 8)

theorem fence_reads_zero {off : Nat} (lo : 0xA0000 ≤ off) (hi : off < 0xB0000) : bar0Reg State.reset off = 0 := by
  have block : off / 0x10000 = 0xA := by omega
  have reg : fncReg State.reset (off % 0x10000) = 0 := by
    unfold fncReg
    split
    · exact fenceBytes_reset.field _ _
    · rfl
  simpa only [bar0Reg, block] using reg

theorem reset_inv : Inv State.reset :=
  ⟨by decide, by decide, by decide, by decide, by decide, rfl, rfl, rfl⟩

/-- Settles O5: the tables' values are the reset state's own, evaluated; a block of the fence set-up's 6,792 bytes reads zero because all are. -/
theorem resetMeetsTheBoundsAndClearsRegisters : Obligations.ResetMeetsTheBoundsAndClearsRegisters := by
  unfold Obligations.ResetMeetsTheBoundsAndClearsRegisters
  dsimp only
  have windows : (State.reset.fnc.win.all fun w => w.base == 0 && w.len == 0) = true :=
    List.all_eq_true.mpr fun w hw => by rw [List.eq_of_mem_replicate hw]; rfl
  refine ⟨reset_inv, ⟨rfl, windows, rfl, rfl, rfl, rfl, rfl, rfl⟩, ?_⟩
  refine ⟨rfl, rfl, fun off lo hi _ => fence_reads_zero lo hi, rfl, rfl, rfl, rfl, rfl, rfl, rfl, rfl, rfl, rfl, rfl, rfl, ?_, rfl, rfl, rfl, rfl,
    rfl, rfl, rfl, rfl, rfl⟩
  intro n hn
  interval_cases n <;> rfl

end Sys2Proof.Machine
end

section
/-! The sideband: MCTP control, PLDM and the recovery port (R350 to R352). -/

namespace Sys2Proof.Machine

open Sys2Proof.Safety

section
variable {s : State} (aux : s.brd.aux5 = true)
include aux

theorem sbAnswer_up (a : SbAnswer) : sbAnswer a s = { s with out := s.out ++ [.sideband a] } := if_pos aux

theorem pldm_up (code : Nat) (d : Bytes) : pldm code d s = { s with out := s.out ++ [.sideband (.pldm code d)] } := sbAnswer_up aux _

-- IDs that are set (R350, R351).

theorem setEid_named {e : Byte} (named : eidOk e = true) :
    setEid e s = { s with out := s.out ++ [.sideband (.mctp [0, 0, e, 0])], side := { s.side with eid := e } } := by
  simp [setEid, aux, named, sbAnswer, emit]

theorem setEid_refused {e : Byte} (reserved : eidOk e = false) : setEid e s = { s with out := s.out ++ [.sideband (.mctp [2])] } := by
  simp [setEid, aux, reserved, sbAnswer, emit]

theorem setTerminus_named {t : Byte} (named : eidOk t = true) :
    setTerminus t s = { s with out := s.out ++ [.sideband (.pldm 0 [])], side := { s.side with tid := t } } := by
  simp [setTerminus, aux, named, pldm, sbAnswer, emit]

theorem setTerminus_refused {t : Byte} (reserved : eidOk t = false) :
    setTerminus t s = { s with out := s.out ++ [.sideband (.pldm 2 [])] } := by
  simp [setTerminus, aux, reserved, pldm, sbAnswer, emit]

-- The recovery port (R352).

theorem recovery_failed (f : State → State) (failed : s.side.bootFailed = true) : recovery f s = f s := by simp [recovery, aux, failed]

theorem recovery_refused (f : State → State) (started : s.side.bootFailed = false) :
    recovery f s = { s with out := s.out ++ [.sideband .nack] } := by
  simp [recovery, aux, started, sbAnswer, emit]

theorem receiveBlock_fits {off : Nat} {bs : Bytes} (some' : bs ≠ []) (short : bs.length ≤ 240) (inside : off + bs.length ≤ 65536) :
    receiveBlock off bs s = { s with
      out := s.out ++ [.sideband .ack],
      side := { s.side with buf := cellWrite off bs s.side.buf, got := s.side.got ||| (2 ^ bs.length - 1) <<< off, status := 1 } } := by
  have fits : ¬ (bs.isEmpty || 240 < bs.length || 65536 < off + bs.length) = true := by simp [some', short, inside]
  exact (if_neg fits).trans (if_pos aux)

theorem receiveBlock_refused {off : Nat} {bs : Bytes} (bad : bs = [] ∨ 240 < bs.length ∨ 65536 < off + bs.length) :
    receiveBlock off bs s = { s with out := s.out ++ [.sideband .nack] } := by
  have refused : (bs.isEmpty || 240 < bs.length || 65536 < off + bs.length) = true := by simpa [or_assoc] using bad
  exact (if_pos refused).trans (sbAnswer_up aux _)

theorem storeBuffer_verifies {n : Nat} {f : BootImage} (image : verifyBuffer s = (n, some f)) : storeBuffer 1 s = { s with
    out := s.out ++ [.sideband .ack], side := { s.side with status := n }, fw := { s.fw with boot0 := some f, boot1 := some f } } := by
  simp [storeBuffer, image, sbAnswer, aux, emit]

theorem storeBuffer_fails {n : Nat} (image : verifyBuffer s = (n, none)) : storeBuffer 1 s = { s with
    out := s.out ++ [.sideband .ack], side := { s.side with status := n } } := by
  simp [storeBuffer, image, sbAnswer, aux, emit]

end

theorem eidOk_iff (e : Byte) : eidOk e = true ↔ e ≠ 0 ∧ e ≠ 0xFF := by simp [eidOk]

theorem eidOk_eq_false_iff (e : Byte) : eidOk e = false ↔ e = 0 ∨ e = 0xFF := by
  rw [← Bool.not_eq_true, eidOk_iff, not_and_or, not_not, not_not]

/-- Settles O58: every answer is the row's own with AUX_5V up; an ID is stored or refused by whether it names one. -/
theorem sidebandBaseCommandsAnswer : Obligations.SidebandBaseCommandsAnswer := by
  unfold Obligations.SidebandBaseCommandsAnswer
  intro s aux ans
  have mctp : ∀ d, Host.Outcome.next (sbAnswer (.mctp d) s) = (.next (ans (.mctp d)) : Host.Outcome State Fault Refusal) :=
    fun d => congrArg _ (sbAnswer_up aux _)
  have told : ∀ n d, Host.Outcome.next (pldm n d s) = (.next (ans (.pldm n d)) : Host.Outcome State Fault Refusal) :=
    fun n d => congrArg _ (pldm_up aux n d)
  refine ⟨?_, ?_, mctp _, fun t => mctp _, mctp _, told _ _, ?_, ?_, ?_, ?_, told _ _, ?_⟩
  · exact fun e low high => congrArg _ (setEid_named aux ((eidOk_iff e).mpr ⟨low, high⟩))
  · exact fun e reserved => congrArg _ (setEid_refused aux ((eidOk_eq_false_iff e).mpr reserved))
  · exact fun t low high => congrArg _ (setTerminus_named aux ((eidOk_iff t).mpr ⟨low, high⟩))
  · exact fun t reserved => congrArg _ (setTerminus_refused aux ((eidOk_eq_false_iff t).mpr reserved))
  · intro t unsupported
    have version : pldmVersion t s = pldm 0x83 [] s := by simp [pldmVersion, unsupported]
    have commands : pldmCmds t s = pldm 0x83 [] s := by simp [pldmCmds, unsupported]
    exact ⟨(congrArg _ version).trans (told _ _), (congrArg _ commands).trans (told _ _)⟩
  · intro t supported
    have version : pldmVersion t s = pldm 0 _ s := if_neg (by simpa using supported)
    have commands : pldmCmds t s = pldm 0 _ s := if_neg (by simpa using supported)
    exact ⟨⟨_, (congrArg _ version).trans (told _ _)⟩, (congrArg _ commands).trans (told _ _)⟩
  · intro t c absent
    have refused : (if (pldmCommands t).contains c then s else pldm 5 [] s) = pldm 5 [] s := if_neg (by simpa using absent)
    exact (congrArg _ refused).trans (told _ _)

/-- Settles O59: every answer is the row's own with AUX_5V up; a reading, a record or a state is answered or refused by whether it exists. -/
theorem sidebandReadingsAnswer : Obligations.SidebandReadingsAnswer := by
  unfold Obligations.SidebandReadingsAnswer
  intro s aux ans
  have told : ∀ n d, Host.Outcome.next (pldm n d s) = (.next (ans n d) : Host.Outcome State Fault Refusal) :=
    fun n d => congrArg _ (pldm_up aux n d)
  refine ⟨⟨_, told _ _⟩, fun h known => ?_, fun h unknown => ?_, fun n v reading => ?_, fun n none' => ?_, ?_, fun n other => ?_, ⟨_, told _ _⟩,
    told _ _⟩
  · have record : getRecord h s = pldm 0 _ s := if_neg (by split <;> omega)
    exact ⟨_, (congrArg _ record).trans (told _ _)⟩
  · have record : getRecord h s = pldm 0x82 [] s := if_pos (by split <;> simp_all)
    exact (congrArg _ record).trans (told _ _)
  · have answer : readSensor n s = pldm 0 ([5, sensorState s n, 0, 0, 0, 0] ++ leBytes 4 (BitVec.ofInt 32 v).toNat) s := by
      simp [readSensor, reading]
    exact (congrArg _ answer).trans (told _ _)
  · have answer : readSensor n s = pldm 0x80 [] s := by simp [readSensor, none']
    exact (congrArg _ answer).trans (told _ _)
  · exact ⟨_, told _ _, by simp [List.range_succ]⟩
  · have answer : readStates n s = pldm 0x80 [] s := if_pos (by simpa using other)
    exact (congrArg _ answer).trans (told _ _)

/-- Settles O60: a block by whether it fits, a STORE by whether the buffer verifies, and nothing but a refusal before a failed boot. -/
theorem recoveryStoresAConfiguration : Obligations.RecoveryStoresAConfiguration := by
  unfold Obligations.RecoveryStoresAConfiguration
  intro s aux ans
  have run : ∀ {f t}, s.side.bootFailed = true → f s = t → recovery f s = t := fun failed h => (recovery_failed aux _ failed).trans h
  refine ⟨?_, ?_, ?_, ?_, ?_, ?_⟩
  · intro off bs failed canonical some' short inside
    refine ⟨_, congrArg Host.Outcome.next (run failed (receiveBlock_fits aux some' short inside)), rfl, ?_, rfl, ?_⟩
    · exact cellRead_cellWrite off bs _ canonical
    · exact fun a outside => cellGet_cellWrite_out off a bs _ canonical outside
  · exact fun off bs failed bad => congrArg _ (run failed (receiveBlock_refused aux bad))
  · exact fun f failed image => congrArg _ (run failed (storeBuffer_verifies aux image))
  · exact fun n failed image => congrArg _ (run failed (storeBuffer_fails aux image))
  · exact fun failed => congrArg _ (run failed (sbAnswer_up aux _))
  · exact fun started => ⟨fun _ _ => congrArg _ (recovery_refused aux _ started), fun _ => congrArg _ (recovery_refused aux _ started),
      congrArg _ (recovery_refused aux _ started)⟩

end Sys2Proof.Machine
end

section
/-! The always-on controller's timers: the recorder's second, the limit of a freeze, the sensors' refresh (R329, R330, R333, R351, R370). -/

namespace Sys2Proof.Machine

open Sys2Proof.Safety

-- The second's end (R329, R330, R344).

theorem chatter_told (n : Nat) (p : PinSt) (s : State) : Told s (chatter n p s) := by
  unfold chatter
  split
  · exact told_of_eq rfl rfl
  · exact record_told _ _ _ s

theorem suppressed_told (codes : Ctr) (s : State) : Told s (codes.foldl (fun t p => record 0x0F01 p.1 [p.2] t) s) :=
  foldl_ind (Told s) _ codes s (told_of_eq rfl rfl) fun _ _ told => told_trans told (record_told _ _ _ _)

/-- The state behind the records of a second's end: of each pin that chattered, and of each code that was suppressed. -/
def secondRecorded (s : State) : State :=
  let s1 := chatter 2 s.brd.sync (chatter 1 s.brd.brake (chatter 0 s.brd.rst s))
  s1.evr.secSup.foldl (fun t p => record 0x0F01 p.1 [p.2] t) s1

theorem secondRecorded_told (s : State) : Told s (secondRecorded s) :=
  told_trans (told_trans (told_trans (chatter_told _ _ _) (chatter_told _ _ _)) (chatter_told _ _ _)) (suppressed_told _ _)

theorem secondOver_due {s : State} (aux : s.brd.aux5 = true) (due : 1000000000 * (s.evr.secNo + 1) ≤ s.brd.aon) :
    secondOver s = { secondRecorded s with
      evr := { (secondRecorded s).evr with secNew := [], secSup := [], secNo := s.brd.aon / 1000000000 },
      brd := { (secondRecorded s).brd with
        rst := newSecond (secondRecorded s).brd.rst, brake := newSecond (secondRecorded s).brd.brake, sync := newSecond (secondRecorded s).brd.sync } } :=
  if_neg (by simp [aux, due])

theorem secondOver_early {s : State} (early : s.brd.aon < 1000000000 * (s.evr.secNo + 1)) : secondOver s = s := if_pos (by simp [early])

theorem secondOver_told {s : State} (aux : s.brd.aux5 = true) (due : 1000000000 * (s.evr.secNo + 1) ≤ s.brd.aon) : Told s (secondOver s) := by
  rw [secondOver_due aux due]
  exact secondRecorded_told s

theorem secondOver_frame (s : State) :
    secondOver s = { s with brd := (secondOver s).brd, evr := (secondOver s).evr, hif := (secondOver s).hif, out := (secondOver s).out } := by
  apply State.ext_of_fields <;> simp

-- The end of a freeze (R333).

/-- The FREEZE_SUMMARY of the running freeze. -/
def freezeSummary (s : State) : EvRec := makeRec s 0x0F02 1 0 [s.evr.frozenCount, s.evr.frozenSev]

theorem endFreeze_frozen {s : State} (frozen : s.evr.frozen = true) :
    endFreeze s = { s with evr := offerRec (freezeSummary s) none 0 { s.evr with frozen := false } } := if_pos frozen

theorem writeRec_last (r : EvRec) (e : Recorder) : (writeRec r e).frozen = e.frozen ∧
    ((writeRec r e).recs.getLast?).map (·.code) = some r.code := by
  unfold writeRec
  extract_lets r'
  split
  · exact ⟨rfl, by simp [r', EvRec.seal]⟩
  · exact ⟨rfl, by simp [r', EvRec.seal]⟩

/-- A record without a limit joins the last record of its code or becomes the last one, frozen or not (R330). -/
theorem offerRec_unlimited (r : EvRec) (key : Nat) (e : Recorder) : (offerRec r none key e).frozen = e.frozen ∧
    ((offerRec r none key e).recs.getLast?).map (·.code) = some r.code := by
  unfold offerRec
  split
  · next e' merged =>
    unfold mergeRec at merged
    split at merged
    · next l _ =>
      split at merged
      · next same =>
        cases merged
        simp only [Bool.and_eq_true, beq_iff_eq, and_assoc] at same
        exact ⟨rfl, by simp [EvRec.seal, same.1]⟩
      · cases merged
    · cases merged
  · exact writeRec_last r e

theorem freezeOver_due {s : State} (aux : s.brd.aux5 = true) (frozen : s.evr.frozen = true) (due : s.evr.freezeAt + 10000000000 ≤ s.brd.aon) :
    freezeOver s = { s with evr := offerRec (freezeSummary s) none 0 { s.evr with frozen := false } } :=
  (if_pos (by simp [aux, frozen, due])).trans (endFreeze_frozen frozen)

theorem freezeOver_early {s : State} (early : s.brd.aon < s.evr.freezeAt + 10000000000) : freezeOver s = s := if_neg (by simp [early])

-- The sensors' refresh (R351).

theorem refreshSensors_due {s : State} (aux : s.brd.aux5 = true) (due : s.side.refreshAt + 100000000 ≤ s.brd.aon) :
    refreshSensors s = { measureAux s with side := { s.side with
      sensors := readings (measureAux s), healthBits := healthWord s % 64, refreshAt := s.brd.aon } } :=
  if_neg (by simp [aux, due])

theorem refreshSensors_early {s : State} (early : s.brd.aon < s.side.refreshAt + 100000000) : refreshSensors s = s := if_pos (by simp [early])

/-- Settles O50: each timer by whether its time has come; a second's end by its records, a freeze's end by its summary. -/
theorem alwaysOnTimersFire : Obligations.AlwaysOnTimersFire := by
  unfold Obligations.AlwaysOnTimersFire
  intro s aux
  refine ⟨fun due => ?_, fun early => ?_, fun frozen due => ?_, fun _ early => ?_, fun due => ⟨?_, rfl⟩, fun early => ?_⟩
  · have run := secondOver_due aux due
    refine ⟨_, rfl, ?_, ?_, ?_, ?_, ?_, ?_, secondOver_told aux due, secondOver_frame s⟩
    all_goals simp [run, newSecond]
  · exact congrArg _ (secondOver_early early)
  · obtain ⟨ended, last⟩ := offerRec_unlimited (freezeSummary s) 0 { s.evr with frozen := false }
    exact ⟨_, congrArg Host.Outcome.next (freezeOver_due aux frozen due), ended, rfl, last⟩
  · exact congrArg _ (freezeOver_early early)
  · exact congrArg _ (refreshSensors_due aux due)
  · exact congrArg _ (refreshSensors_early early)

end Sys2Proof.Machine
end

section
/-! SYNC_IN and the boundaries (R84, R220, R347, R348; log 47). -/

namespace Sys2Proof.Machine

open Sys2Proof.Safety

-- A pulse that is seen.

/-- A board that has seen a pulse, `gap` ns behind the last one. -/
def Board.pulsed (b : Board) (gap : Nat) : Board := { b with lastPulse := some b.aon, syncInterval := gap }

/-- The interval of two pulses is in window (R347). -/
abbrev InPulseWindow (gap : Nat) : Prop := 92160 ≤ gap ∧ gap ≤ 112640

/-- A pulse behind another one, by the lock, the window and how many pulses in window came before it (R347, R348). -/
theorem syncPulse_eq {s : State} {p : Nat} (runs : clocked s = true) (last : s.brd.lastPulse = some p) (near : s.brd.aon - p < 0xFFFFFFFF) :
    let b := s.brd.pulsed (s.brd.aon - p)
    syncPulse s =
      if s.brd.locked then
        if InPulseWindow (s.brd.aon - p) then turnBoundary { s with brd := { b with inWindow := 4 } }
        else record 0x0503 0 [s.brd.aon - p] { s with brd := { b with locked := false, inWindow := 0 } }
      else if InPulseWindow (s.brd.aon - p) then
        if 2 ≤ s.brd.inWindow then { s with brd := { b with locked := true, inWindow := 3 } }
        else { s with brd := { b with inWindow := s.brd.inWindow + 1 } }
      else { s with brd := { b with inWindow := 0 } } := by
  intro b
  have short : min (s.brd.aon - p) 0xFFFFFFFF = s.brd.aon - p := Nat.min_eq_left near.le
  have window : (decide (92160 ≤ s.brd.aon - p) && decide (s.brd.aon - p ≤ 112640)) = decide (InPulseWindow (s.brd.aon - p)) :=
    (Bool.decide_and _ _).symm
  unfold syncPulse
  simp only [runs, last, Option.map_some, Option.getD_some, Option.any_some, short, window]
  by_cases good : InPulseWindow (s.brd.aon - p)
  · simp only [decide_eq_true good, if_pos good, Bool.not_true, Bool.false_eq_true, if_true, if_false]
    rfl
  · simp only [decide_eq_false good, if_neg good, Bool.not_false, Bool.not_true, Bool.false_eq_true, if_true, if_false]
    rfl

/-- The state with a rising edge of SYNC_IN taken by the filter. -/
def syncEdge (s : State) : State := { s with brd := { s.brd with sync := acceptEdge s s.brd.sync true } }

theorem syncLost_none {s : State} (none' : pulseMissing s = false) : syncLost s = s := if_neg (by simp [none'])

theorem syncIn_edge {s : State} (aux : s.brd.aux5 = true) (low : s.brd.sync.accepted = false) (unlocked : lockedOut s s.brd.sync = false)
    (intime : pulseMissing s = false) : syncIn s = syncPulse (syncEdge s) := by
  unfold syncIn
  rw [if_neg (by simp [aux, low, unlocked]), syncLost_none intime]
  rfl

-- The steps of a turn, and turns without pulses.

section
variable {s : State}

theorem batchStep_early (early : 3 ≤ s.srch.stepNo ∨ now s < s.brd.turnStart + 25600 * (s.srch.stepNo + 1)) : batchStep s = s :=
  if_neg (by simp only [Bool.and_eq_true, decide_eq_true_eq]; omega)

theorem freeTurn_early (early : synced s = true ∨ now s < s.brd.turnStart + 102400) : freeTurn s = s := by
  refine if_neg ?_
  rcases early with pulses | early
  · simp [pulses]
  · simp [early]

theorem syncLost_missing (runs : clocked s = true) (missing : pulseMissing s = true) :
    syncLost s = if synced s then turnBoundary (unlocked s) else unlocked s :=
  if_pos (by simp [runs, missing])

/-- While pulses start the turns, the last turn's start is what the next one is missed from. -/
theorem pulseMissing_synced (pulses : synced s = true) : pulseMissing s = decide (s.brd.turnStart + 112640 ≤ now s) := by
  have locked : s.brd.locked = true := by
    simp only [synced, Bool.and_eq_true] at pulses
    exact pulses.1
  simp [pulseMissing, locked, pulses]

theorem pulseMissing_locked {p : Nat} (locked : s.brd.locked = true) (waits : synced s = false) (last : s.brd.lastPulse = some p) :
    pulseMissing s = decide (p + 112640 ≤ s.brd.aon) := by
  simp [pulseMissing, locked, waits, last]

theorem pulseMissing_free (free : s.brd.locked = false) : pulseMissing s = false := by simp [pulseMissing, free]

end

/-- Settles O23: a pulse by the lock and the window, a step and a turn by whether their time has come, a timeout by what was to start the turn. -/
theorem turnsAndStepsBegin : Obligations.TurnsAndStepsBegin := by
  unfold Obligations.TurnsAndStepsBegin
  refine ⟨fun s p aux low unlocked runs last near intime => ?_, fun s runs => ?_⟩
  · intro edge seen good
    have pulse := (syncIn_edge aux low unlocked intime).trans (syncPulse_eq (s := syncEdge s) runs last near)
    refine ⟨fun locked good => ?_, fun locked bad => ?_, fun free good third => ?_, fun free good few => ?_, fun free bad => ?_⟩
    · exact congrArg Host.Outcome.next (pulse.trans ((if_pos locked).trans (if_pos good)))
    · exact congrArg Host.Outcome.next (pulse.trans ((if_pos locked).trans (if_neg bad)))
    · exact congrArg Host.Outcome.next (pulse.trans ((if_neg (by simp [syncEdge, free])).trans ((if_pos good).trans (if_pos third))))
    · exact congrArg Host.Outcome.next (pulse.trans ((if_neg (by simp [syncEdge, free])).trans ((if_pos good).trans (if_neg (Nat.not_le.mpr few)))))
    · exact congrArg Host.Outcome.next (pulse.trans ((if_neg (by simp [syncEdge, free])).trans (if_neg bad)))
  · refine ⟨batchStep_due s runs, fun early => ?_, fun pulses => ?_, freeTurn_due s runs, fun early => ?_, ⟨syncTimeout_due s runs, ?_⟩,
      fun pulses early => ?_, fun free => ?_⟩
    · exact congrArg Host.Outcome.next (batchStep_early early)
    · exact congrArg Host.Outcome.next (freeTurn_early (.inl pulses))
    · exact congrArg Host.Outcome.next (freeTurn_early (.inr early))
    · intro p locked few last due
      have waits : synced s = false := by simp [synced, few]
      have missing : pulseMissing s = true := by simp [pulseMissing_locked locked waits last, due]
      exact congrArg Host.Outcome.next ((syncLost_missing runs missing).trans (if_neg (by simp [waits])))
    · exact congrArg Host.Outcome.next (syncLost_none (by simp [pulseMissing_synced pulses, early]))
    · exact congrArg Host.Outcome.next (syncLost_none (pulseMissing_free free))

end Sys2Proof.Machine
end

section
/-! PWR_BRAKE# and the pins' filter (R344, R345, R370; log 48). -/

namespace Sys2Proof.Machine

open Sys2Proof.Safety

/-- The state with an edge of PWR_BRAKE# taken by the filter. -/
def brakeEdge (level : Bool) (s : State) : State := { s with brd := { s.brd with brake := acceptEdge s s.brd.brake level } }

/-- The CORE clock behind an edge: a release gives it back, unless the limiter runs or something else holds it down (R345). -/
def brakeClock (level : Bool) (s : State) : Nat := if level && !s.brd.limiter then fullClock (brakeEdge level s) else s.brd.coreMhz

/-- An edge of PWR_BRAKE# taken, with its event. -/
def brakeTaken (level : Bool) (s : State) : State :=
  record 0x0502 0 [flagBit 0 (!level), mainMw s]
    { brakeEdge level s with brd := { (brakeEdge level s).brd with coreMhz := brakeClock level s } }

theorem brakeTaken_brd (level : Bool) (s : State) : (brakeTaken level s).brd =
    { s.brd with brake := acceptEdge s s.brd.brake level, coreMhz := brakeClock level s } := by
  simp [brakeTaken, brakeEdge]

theorem brakeTaken_told (level : Bool) (s : State) : Told s (brakeTaken level s) := told_trans (told_of_eq rfl rfl) (record_told _ _ _ _)

theorem brakeTaken_frame (level : Bool) (s : State) : brakeTaken level s =
    { s with brd := (brakeTaken level s).brd, evr := (brakeTaken level s).evr, hif := (brakeTaken level s).hif, out := (brakeTaken level s).out } := by
  apply State.ext_of_fields <;> simp [brakeTaken, brakeEdge]

theorem braked_brakeTaken {s : State} (high : s.brd.rst.accepted = true) (level : Bool) : braked (brakeTaken level s) = !level := by
  simp [braked, brakeTaken_brd, acceptEdge, high]

theorem clockHeld_congr {s t : State} (thermal : t.brd.thermal = s.brd.thermal) (brake : braked t = braked s) : clockHeld t = clockHeld s := by
  simp [clockHeld, thermal, brake]

theorem brakeClock_press (s : State) : brakeClock false s = s.brd.coreMhz := rfl

theorem brakeClock_release (s : State) :
    brakeClock true s = if s.brd.limiter = true ∨ clockHeld (brakeTaken true s) = true then s.brd.coreMhz else 1400 := by
  have held : clockHeld (brakeTaken true s) = clockHeld (brakeEdge true s) :=
    clockHeld_congr (by simp [brakeTaken_brd, brakeEdge]) (by simp [braked, brakeTaken_brd, brakeEdge])
  unfold brakeClock fullClock
  rw [held]
  have same : (brakeEdge true s).brd.coreMhz = s.brd.coreMhz := rfl
  cases s.brd.limiter <;> simp [same]

section
variable {s : State} (aux : s.brd.aux5 = true) (high : s.brd.rst.accepted = true)
include aux high

theorem acceptLevel_brake (start : State → State) {level : Bool} (change : s.brd.brake.accepted ≠ level) (unlocked : lockedOut s s.brd.brake = false) :
    acceptLevel start .pwrBrake level s = brakeTaken level s := by
  have edge : acceptLevel start .pwrBrake level s = pinEffect start .pwrBrake level (brakeEdge level s) :=
    if_neg (by simp [pinOf, aux, change, unlocked])
  have effect : pinEffect start .pwrBrake level (brakeEdge level s) = record 0x0502 0 [flagBit 0 (!level), mainMw s] _ := if_pos high
  rw [edge, effect, brakeTaken, brakeClock]
  congr 1
  cases level <;> cases limiter : s.brd.limiter <;> simp [brakeEdge, limiter, high]

omit high in
theorem lockOutOver_brake (start : State → State) {e : Nat} (runs : s.brd.brake.lockEnd = some e) (ended : e ≤ s.brd.aon) :
    let s1 := { s with brd := { s.brd with brake := { s.brd.brake with lockEnd := none } } }
    lockOutOver start .pwrBrake s =
      if s.brd.brake.filtered = s.brd.brake.accepted then s1 else acceptLevel start .pwrBrake s.brd.brake.filtered s1 := by
  simp [lockOutOver, pinOf, setPin, runs, aux, ended]

omit high in
theorem filteredLevel_brake (start : State → State) {b : Bool} (change : s.brd.brake.filtered ≠ b) :
    let noted := { s.brd.brake with filtered := b }
    filteredLevel start .pwrBrake b s =
      if lockedOut s s.brd.brake then
        if b = s.brd.brake.accepted then { s with brd := { s.brd with brake := noted } }
        else { s with brd := { s.brd with brake := { noted with
          rej := (s.brd.brake.rej + 1) % 2 ^ 32, secRej := s.brd.brake.secRej + 1 } } }
      else acceptLevel start .pwrBrake b s := by
  cases locked : lockedOut s s.brd.brake
  · simp [filteredLevel, pinOf, aux, change, locked]
  · simp [filteredLevel, pinOf, setPin, aux, change, locked]

end

/-- Settles O49: an edge by the lock-out, a filtered level and the lock-out's end by whether the level differs from the accepted one. -/
theorem pinsAreFiltered : Obligations.PinsAreFiltered := by
  unfold Obligations.PinsAreFiltered
  intro s aux high took
  refine ⟨fun off unlocked => ?_, fun on unlocked => ?_, fun b change same locked => ?_, fun b change differs locked => ?_,
    fun b change differs unlocked => ?_, fun e runs ended same => ?_, fun e runs ended differs => ?_⟩
  · have taken := acceptLevel_brake aux high id (level := false) (by simp [off]) unlocked
    refine ⟨_, congrArg (fun u => Host.Outcome.next (countHealth s u)) taken, ?_, braked_brakeTaken high false, brakeTaken_told _ _,
      brakeTaken_frame _ _⟩
    rw [brakeTaken_brd, brakeClock_press]
    rfl
  · have taken := acceptLevel_brake aux high id (level := true) (by simp [on]) unlocked
    refine ⟨_, congrArg (fun u => Host.Outcome.next (countHealth s (settle u))) taken, ?_, ?_, braked_brakeTaken high true, brakeTaken_told _ _,
      brakeTaken_frame _ _⟩
    · rw [brakeTaken_brd]
      rfl
    · rw [← brakeClock_release, brakeTaken_brd]
  · exact congrArg (fun u => Host.Outcome.next (countHealth s u))
      ((filteredLevel_brake aux powerAlone change).trans ((if_pos locked).trans (if_pos same.symm)))
  · exact congrArg (fun u => Host.Outcome.next (countHealth s u))
      ((filteredLevel_brake aux powerAlone change).trans ((if_pos locked).trans (if_neg (Ne.symm differs))))
  · have taken := (filteredLevel_brake aux powerAlone change).trans (if_neg (by simp [unlocked]))
    refine ⟨_, congrArg (fun u => Host.Outcome.next (countHealth s u)) (taken.trans (acceptLevel_brake aux high powerAlone differs unlocked)), ?_⟩
    rw [brakeTaken_brd]
    rfl
  · exact congrArg (fun u => Host.Outcome.next (countHealth s u)) ((lockOutOver_brake aux powerAlone runs ended).trans (if_pos same))
  · let s1 := { s with brd := { s.brd with brake := { s.brd.brake with lockEnd := none } } }
    have taken : lockOutOver powerAlone .pwrBrake s = brakeTaken s.brd.brake.filtered s1 :=
      ((lockOutOver_brake aux powerAlone runs ended).trans (if_neg differs)).trans
        (acceptLevel_brake (s := s1) aux high powerAlone (Ne.symm differs) rfl)
    refine ⟨_, congrArg (fun u => Host.Outcome.next (countHealth s u)) taken, ?_⟩
    rw [brakeTaken_brd]
    rfl

end Sys2Proof.Machine
end

section
/-! Temperatures: the state of a sensor, the CORE clock under it, HOT_ALERT# and the trip (R326, R327, R329, R346; log 48). -/

namespace Sys2Proof.Machine

open Sys2Proof.Safety

section
variable (n : Nat) (t : Int) (s : State)

/-- The state with a sensor's temperature, and the thermal state that it leads to. -/
def thermalNoted : State := { s with brd := { s.brd with
  temps := s.brd.temps.set n t, thermal := s.brd.thermal.set n (thermalNext n (s.brd.thermal.getD n 0) t) } }

/-- The same with the CORE clock that follows from it (R326). -/
def thermalClocked : State := reportClock n (thermalNext n (s.brd.thermal.getD n 0) t) t s (thermalNoted n t s)

/-- A report writes the board's clock and no other part of the state. -/
theorem reportClock_clock (new : Nat) (before after : State) :
    ∃ mhz, reportClock n new t before after = { after with brd := { after.brd with coreMhz := mhz } } := by
  unfold reportClock
  split_ifs
  all_goals exact ⟨_, rfl⟩

theorem reportClock_throttled {new : Nat} (die : n = 8) (hot : 2 ≤ new) (before after : State) :
    (reportClock n new t before after).brd.coreMhz = if 103 < t then max 100 (after.brd.coreMhz - 100) else after.brd.coreMhz := by
  unfold reportClock
  rw [if_pos (by simp [die, hot])]
  split <;> rfl

theorem reportClock_other {new : Nat} (other : ¬ (n = 8 ∧ 2 ≤ new)) {before after : State}
    (still : clockHeld before = false ∨ after.brd.limiter = true) : reportClock n new t before after = after := by
  unfold reportClock
  rw [if_neg (by simpa using other), if_neg (by simpa [or_iff_not_imp_left] using still)]

theorem thermalClocked_frame : thermalClocked n t s = { s with brd := (thermalClocked n t s).brd } := by
  obtain ⟨mhz, clocked⟩ := reportClock_clock n t (thermalNext n (s.brd.thermal.getD n 0) t) s (thermalNoted n t s)
  rw [thermalClocked, clocked]
  rfl

/-- A board under a report: the sensor's temperature and state, and the clock that a throttled die lowers and nothing else does (R326). -/
def ThermalBoard (b : Board) : Prop :=
  let new := thermalNext n (s.brd.thermal.getD n 0) t
  (n = 8 → 2 ≤ new → b.coreMhz = if 103 < t then max 100 (s.brd.coreMhz - 100) else s.brd.coreMhz) ∧
  (¬ (n = 8 ∧ 2 ≤ new) → clockHeld s = false ∨ s.brd.limiter = true → b.coreMhz = s.brd.coreMhz) ∧
  b = { s.brd with temps := s.brd.temps.set n t, thermal := s.brd.thermal.set n new, coreMhz := b.coreMhz }

theorem thermalClocked_board : ThermalBoard n t s (thermalClocked n t s).brd := by
  refine ⟨fun die hot => reportClock_throttled n t die hot s _, fun other still => ?_, ?_⟩
  · exact congrArg (·.brd.coreMhz) (reportClock_other n t other (after := thermalNoted n t s) still)
  · obtain ⟨mhz, clocked⟩ := reportClock_clock n t (thermalNext n (s.brd.thermal.getD n 0) t) s (thermalNoted n t s)
    rw [thermalClocked, clocked]
    rfl

theorem driveHot_out (before after : State) : (driveHot before after).out =
    after.out ++ (if hotAlert after = hotAlert before then [] else [.hotAlert (hotAlert after)]) := by
  unfold driveHot
  by_cases same : hotAlert before = hotAlert after
  · simp [same]
  · simp [same, Ne.symm same, emit]

theorem hotAlert_congr {u v : State} (brd : u.brd = v.brd) : hotAlert u = hotAlert v := by rw [hotAlert, brd, hotAlert]

/-- A report's event, and HOT_ALERT# behind it. -/
def thermalTold : State :=
  let old := s.brd.thermal.getD n 0
  let new := thermalNext n old t
  recordSev 0x0401 (max 1 new) n [tempWord t, new, old] (thermalClocked n t s)

theorem thermalReport_on (on : s.brd.mainPower = true) : thermalReport n t s =
    if thermalNext n (s.brd.thermal.getD n 0) t = s.brd.thermal.getD n 0 then thermalClocked n t s else settle (driveHot s (thermalTold n t s)) := by
  unfold thermalReport
  rw [if_neg (by simp [on])]
  simp only [beq_iff_eq]
  rfl

theorem thermalTold_brd : (driveHot s (thermalTold n t s)).brd = (thermalClocked n t s).brd := by simp [thermalTold]

theorem thermalTold_board : ThermalBoard n t s (driveHot s (thermalTold n t s)).brd := by
  rw [thermalTold_brd]
  exact thermalClocked_board n t s

theorem thermalTold_frame (s : State) : let u := driveHot s (thermalTold n t s)
    u = { s with brd := u.brd, evr := u.evr, hif := u.hif, out := u.out } := by
  apply State.ext_of_fields <;> simp [thermalTold, thermalClocked, thermalNoted]

-- The thermal trip (R327).

/-- The state at the trip, with its event, before main power goes. -/
def tripped : State :=
  let s1 := { s with brd := { s.brd with temps := s.brd.temps.set n t } }
  let s2 := record 0x0402 n (tempWord t :: stackTemps s1) s1
  { s2 with brd := { s2.brd with hotLatch := true } }

/-- The state behind it: main power lost, and the module fatal. -/
def tripLost : State := { losePower (tripped n t s) with
  brd := { (losePower (tripped n t s)).brd with phase := .tripped, fatal := true } }

theorem tripLost_brd : (tripLost n t s).brd =
    { keptBoard { s.brd with temps := s.brd.temps.set n t, hotLatch := true } with phase := .tripped, fatal := true } := by
  simp [tripLost, tripped]

variable {n t s}

theorem tripAt_hot (on : s.brd.mainPower = true) (hot : (points n).getD 6 0 ≤ t) : tripAt n t s = tripLost n t s :=
  if_neg (by simpa [on] using hot)

/-- HOT_ALERT# that goes high is driven last. -/
theorem driveHot_rises {before after : State} (low : hotAlert before = false) (high : hotAlert after = true) :
    (driveHot before after).out.getLast? = some (.hotAlert true) := by
  simp [driveHot_out, low, high]

end

/-- Settles O45: a report by whether the state changes; a trip loses main power with the latch set, which drives HOT_ALERT#. -/
theorem temperaturesRuleTheState : Obligations.TemperaturesRuleTheState := by
  unfold Obligations.TemperaturesRuleTheState
  intro n t s on _ _ old new clock
  have told : ∀ {u}, thermalReport n t s = u → exec (.thermalState n t) s = .next (countHealth s u) :=
    congrArg fun u => Host.Outcome.next (countHealth s u)
  refine ⟨fun same => ?_, fun differs => ?_, fun hot => ?_⟩
  · exact ⟨_, told ((thermalReport_on n t s on).trans (if_pos same)), thermalClocked_frame n t s, thermalClocked_board n t s⟩
  · refine ⟨_, told ((thermalReport_on n t s on).trans (if_neg differs)), thermalTold_board n t s, ?_⟩
    have alert : hotAlert (driveHot s (thermalTold n t s)) = hotAlert (thermalTold n t s) := by simp [hotAlert]
    rw [thermalTold_brd, ← thermalClocked_frame, alert]
    refine ⟨by simp [thermalTold, new, old], by simp [thermalTold, new, old], driveHot_out s _, ?_⟩
    rw [← thermalTold_brd]
    exact thermalTold_frame n t s
  · refine ⟨_, congrArg (fun u => Host.Outcome.next (countHealth s (driveHot s u))) (tripAt_hot on hot), ?_⟩
    have brd : (driveHot s (tripLost n t s)).brd = (tripLost n t s).brd := by simp
    rw [brd, tripLost_brd]
    refine ⟨rfl, rfl, rfl, rfl, by simp [tripLost, losePower], by simp [tripLost, losePower], fun low => driveHot_rises low ?_⟩
    simp [hotAlert, tripLost_brd, keptBoard]

end Sys2Proof.Machine
end

section
/-! MOD_RST# released (R273, R315, R316, R340, R341, R346, R352; log 50). -/

namespace Sys2Proof.Machine

open Sys2Proof.Safety

-- The start-up, by its parts.

section
variable (finds : BootFinds) (s : State)

/-- The state in which boot code runs: main power on, clocks at zero. -/
def startBoard : State := { s with
  brd := { s.brd with mainPower := true, phase := .starting, fatal := false, fatalUnit := 0, clk := 0, turnStart := 0 },
  lat := { s.lat with loads := 0, refused := 0, reshapeUs := 0 } }

/-- The state in which firmware starts: the fence set-up written, links training, the parts tested. -/
def selfTested : State :=
  let t := selfTest finds (startLinks (bootCode1 finds (startBoard s)))
  { t with mem := { t.mem with softRepairs := 0, degraded := 4096 ≤ t.mem.retired.length } }

/-- What follows the start of firmware: the lattice, the facets and the search engine's weights, where a slot started. -/
def firmwareRuns : State :=
  if 2 ≤ s.fw.running then s
  else
    let t := freezeRoleless (bootLoad { s with facets := s.facets.map wakeFacet })
    startedUp { t with srch := { t.srch with weights := turnWeights t, budgets := t.cfg.budgets, masks := turnMasks t } }

theorem startUp_eq : startUp finds s = firmwareRuns (startSlot finds (selfTested finds s)) := rfl

theorem startedUp_brd : ∃ p, (startedUp s).brd = { s.brd with phase := p } := by
  unfold startedUp
  split
  · exact ⟨_, rfl⟩
  · exact ⟨s.brd.phase, rfl⟩

theorem firmwareRuns_keeps : (firmwareRuns s).fnc = s.fnc ∧ (firmwareRuns s).side = s.side ∧ (firmwareRuns s).fw = s.fw ∧
    ∃ p, (firmwareRuns s).brd = { s.brd with phase := p } := by
  unfold firmwareRuns
  split
  · exact ⟨rfl, rfl, rfl, s.brd.phase, rfl⟩
  · extract_lets t
    obtain ⟨p, brd⟩ := startedUp_brd { t with srch := { t.srch with weights := turnWeights t, budgets := t.cfg.budgets, masks := turnMasks t } }
    have kept : t.brd = s.brd := by simp [t]
    exact ⟨by simp [t], by simp [t], by simp [t], p, brd.trans (by rw [kept])⟩

-- Boot code (R273, R315, R352).

theorem bootCode1_side : (bootCode1 finds s).side.buf = [] ∧ (bootCode1 finds s).side.got = 0 := by
  unfold bootCode1
  extract_lets c0 c1 old side
  split
  · exact ⟨rfl, rfl⟩
  · simp [side]

variable {finds s}

theorem bootCode1_verified {f : Fence}
    (first : (verifyCopy s.fuse finds.copy0 s.fw.boot0).2.or (verifyCopy s.fuse finds.copy1 s.fw.boot1).2 = some f) :
    (bootCode1 finds s).fnc = { f with lock := true } ∧ (bootCode1 finds s).side.bootFailed = false := by
  simp [bootCode1, first]

theorem bootCode1_failed (none0 : (verifyCopy s.fuse finds.copy0 s.fw.boot0).2 = none) (none1 : (verifyCopy s.fuse finds.copy1 s.fw.boot1).2 = none) :
    (bootCode1 finds s).fnc = failedFence ∧ (bootCode1 finds s).side.bootFailed = true := by
  simp [bootCode1, none0, none1]

/-- The closed set-up of R315: no window, no link, the lowest caps. -/
theorem failedFence_closed : (failedFence.win.all fun w => w.len == 0) = true ∧ failedFence.links % 16 = 0 ∧ failedFence.power = 250 ∧
    failedFence.current = 60 :=
  ⟨List.all_eq_true.mpr fun w hw => by rw [List.eq_of_mem_replicate hw]; rfl, rfl, rfl, rfl⟩

variable (finds s)

/-- Which slot runs: the selected one, else the other one, else none (R273; log 50). -/
theorem startSlot_running : (startSlot finds s).fw.running =
    if fwStarts finds s s.fw.selected then s.fw.selected else if fwStarts finds s (1 - s.fw.selected) then 1 - s.fw.selected else 2 := by
  unfold startSlot
  extract_lets a fw rev n
  split
  · rfl
  · simp [n, a, useFree]

theorem selfTested_fw : (selfTested finds s).fw = s.fw := by simp [selfTested, startBoard]

theorem fwStarts_congr {s t : State} (fw : t.fw = s.fw) (n : Nat) : fwStarts finds t n = fwStarts finds s n := by rw [fwStarts, fw, fwStarts]

theorem startUp_running : (startUp finds s).fw.running =
    if fwStarts finds s s.fw.selected then s.fw.selected else if fwStarts finds s (1 - s.fw.selected) then 1 - s.fw.selected else 2 := by
  obtain ⟨-, -, fw, -⟩ := firmwareRuns_keeps (startSlot finds (selfTested finds s))
  rw [startUp_eq, fw, startSlot_running, selfTested_fw]
  simp only [fwStarts_congr finds (selfTested_fw finds s)]

/-- What boot code has written and the board's pins stay through the rest of the start-up. -/
theorem startUp_keeps : (startUp finds s).fnc = (bootCode1 finds (startBoard s)).fnc ∧
    (startUp finds s).side = (bootCode1 finds (startBoard s)).side ∧
    (startUp finds s).brd.rst = s.brd.rst ∧ (startUp finds s).brd.hotLatch = s.brd.hotLatch := by
  obtain ⟨fnc, side, -, p, brd⟩ := firmwareRuns_keeps (startSlot finds (selfTested finds s))
  rw [startUp_eq, fnc, side, brd]
  simp [selfTested, startBoard]

end

-- The release.

/-- The state with the rising edge of MOD_RST# taken by the filter. -/
def rstEdge (s : State) : State := { s with brd := { s.brd with rst := acceptEdge s s.brd.rst true } }

theorem modRst_released {s : State} (aux : s.brd.aux5 = true) (low : s.brd.rst.accepted = false) (unlocked : lockedOut s s.brd.rst = false)
    (start : State → State) : acceptLevel start .modRst true s = start (unlatched (rstEdge s)) :=
  if_neg (by simp [pinOf, aux, low, unlocked])

theorem unlatched_only (s : State) : unlatched s = { s with brd := (unlatched s).brd, out := (unlatched s).out } := by
  apply State.ext_of_fields <;> simp [unlatched]

/-- Settles O47: with both rails up the start-up by its parts, without MAIN_54V only the latch and the pin. -/
theorem releaseStartsTheModule : Obligations.ReleaseStartsTheModule := by
  unfold Obligations.ReleaseStartsTheModule
  intro finds s aux low unlocked v0 v1
  have released := modRst_released aux low unlocked (powerUp finds)
  have brd := unlatched_brd (rstEdge s)
  have may : mayStart (unlatched (rstEdge s)) = true ↔ s.brd.main54 = true ∧ s.brd.phase = .held := by
    simp [mayStart_iff, rstEdge, acceptEdge, aux]
  refine ⟨fun main held => ?_, fun down => ?_⟩
  · let w := unlatched (rstEdge s)
    have starts : acceptLevel (powerUp finds) .modRst true s = startUp finds w := released.trans (if_pos (may.mpr ⟨main, held⟩))
    obtain ⟨power, fatal, lock⟩ := startUp_started finds w
    obtain ⟨fnc, side, rst, latch⟩ := startUp_keeps finds w
    obtain ⟨buf, got⟩ := bootCode1_side finds (startBoard w)
    have fw : w.fw = s.fw := by simp [w, unlatched, rstEdge]
    have fuse : w.fuse = s.fuse := by simp [w, unlatched, rstEdge]
    have slot := startUp_running finds w
    simp only [fwStarts_congr finds fw, fw] at slot
    have copy : ∀ readable, verifyCopy (startBoard w).fuse readable = verifyCopy s.fuse readable := fun _ => by rw [show (startBoard w).fuse = _ from fuse]
    refine ⟨_, congrArg (fun u => Host.Outcome.next (countHealth s u)) starts, power, fatal, by rw [rst, brd]; rfl, by rw [latch, brd], lock,
      side ▸ buf, side ▸ got, fun f first => ?_, fun none0 none1 => ?_, fun selected => ?_, fun other passes => ?_, fun other fails => ?_⟩
    · rw [fnc, side]
      exact bootCode1_verified (by simpa only [startBoard, fuse, fw] using first)
    · rw [fnc, side]
      obtain ⟨fence, failed⟩ := bootCode1_failed (finds := finds) (s := startBoard w) (by simpa only [startBoard, fuse, fw] using none0)
        (by simpa only [startBoard, fuse, fw] using none1)
      rw [fence]
      exact ⟨failed, failedFence_closed⟩
    · rw [slot, if_pos selected]
    · rw [slot, if_neg (by simp [other]), if_pos passes]
    · rw [slot, if_neg (by simp [other]), if_neg (by simp [fails])]
  · have stays : acceptLevel (powerUp finds) .modRst true s = unlatched (rstEdge s) :=
      released.trans (if_neg fun starts => by simpa [down] using may.mp starts)
    refine ⟨_, congrArg (fun u => Host.Outcome.next (countHealth s u)) stays, by rw [brd]; rfl, by rw [brd]; rfl, by rw [brd],
      unlatched_quiet (rstEdge s), ?_⟩
    exact unlatched_only (rstEdge s)

end Sys2Proof.Machine
end

section
/-! Migration: the registers CHD_MIG_CTRL and CHD_MIG_ACCEPT, and the source's side of it (R309 to R312, R368). -/

namespace Sys2Proof.Machine

open Sys2Proof.Safety

-- A migration that fails, and one that fails at its go.

theorem migFail_mig (error : Nat) (s : State) : (migFail error s).chd.mig = { s.chd.mig with
    phase := 6, error := error, role := 0, start := false, building := none, pendNew := [], writes := [], publish := false } := by
  unfold migFail
  extract_lets m s1
  have same : s1.chd = s.chd := by
    unfold s1
    split <;> rfl
  exact congrArg (fun (c : Chord) => ({ c.mig with
    phase := 6, error := error, role := 0, start := false, building := none, pendNew := [], writes := [], publish := false } : Mig)) same

/-- What a failure leaves in the registers. -/
theorem migFail_ends (error : Nat) (s : State) : (migFail error s).chd.mig.phase = 6 ∧ (migFail error s).chd.mig.error = error ∧
    (migFail error s).chd.mig.role = 0 ∧ (migFail error s).chd.mig.building = none := by
  rw [migFail_mig]
  exact ⟨rfl, rfl, rfl, rfl⟩

@[simp] theorem migLost_mig (f : Nat) (s : State) : (migLost f s).chd.mig = s.chd.mig := by
  unfold migLost
  split <;> rfl

-- The registers.

section
variable (v : Word64) {s : State}

theorem migGo_busy (running : migRunning s.chd.mig = true) : migGo v s = updMig (fun x => { x with error := 8 }) s :=
  if_pos running

theorem migArm_busy (running : migRunning s.chd.mig = true) : migArm v s = updMig (fun x => { x with error := 8 }) s :=
  if_pos running

section
variable (idle : migRunning s.chd.mig = false)
include idle

theorem go_offers (usable : linkUsable s (v.toNat / 4096 % 4) = true)
    (created : (usableIdx s (v.toNat % 256) (v.toNat / 256 % 16)).isSome = true) :
    Settles (.chdMigCtrlGo v) s fun u => u.chd.mig.phase = 1 ∧ u.chd.mig.role = 1 ∧ u.chd.mig.error = 0 ∧ u.chd.mig.units = 0 ∧
      u.chd.mig.ctrl.toNat = v.toNat % 2 ^ 15 ∧ u.idx = s.idx := by
  refine ⟨_, rfl, ?_⟩
  have fits : v.toNat % 32768 < 18446744073709551616 := by omega
  have some' : (usableIdx s (v.toNat % 256) (v.toNat / 256 % 16)).isNone = false := by simpa using created
  simp [migGo, idle, usable, some', updMig, fits]

theorem go_without_link (down : linkUsable s (v.toNat / 4096 % 4) = false) :
    Settles (.chdMigCtrlGo v) s fun u => u.chd.mig.phase = 6 ∧ u.chd.mig.error = 9 := by
  refine ⟨_, rfl, ?_⟩
  simp [migGo, idle, down, updMig]

theorem arm_accepts (usable : linkUsable s (v.toNat / 4096 % 4) = true) :
    Settles (.chdMigAcceptGo v) s fun u => u.chd.mig.phase = 1 ∧ u.chd.mig.role = 2 ∧ u.chd.mig.target = true ∧
      u.chd.mig.accept.toNat = v.toNat % 2 ^ 14 ∧ u.idx = s.idx := by
  refine ⟨_, rfl, ?_⟩
  have fits : v.toNat % 16384 < 18446744073709551616 := by omega
  simp [migArm, idle, usable, updMig, fits]

theorem arm_without_link (down : linkUsable s (v.toNat / 4096 % 4) = false) :
    Settles (.chdMigAcceptGo v) s fun u => u.chd.mig.phase = 6 ∧ u.chd.mig.error = 9 := by
  refine ⟨_, rfl, ?_⟩
  simp [migArm, idle, down, updMig]

end

/-- A cancel on either side ends the migration that runs with error 7 (R312). -/
theorem migCancelHere_ends (running : migRunning s.chd.mig = true) :
    (migCancelHere s).chd.mig.phase = 6 ∧ (migCancelHere s).chd.mig.error = 7 ∧ (migCancelHere s).chd.mig.building = none := by
  obtain ⟨phase, error, -, building⟩ := migFail_ends 7 (sendMigCtrl 6 7 s)
  rw [show migCancelHere s = migFail 7 (sendMigCtrl 6 7 s) from if_pos running]
  exact ⟨phase, error, building⟩

end

/-- Settles O55: go and arm by whether a migration runs and the link is usable; a cancel keeps a running migration's fields and fails it. -/
theorem migrationRegistersAct : Obligations.MigrationRegistersAct := by
  unfold Obligations.MigrationRegistersAct
  intro v s m l busy
  refine ⟨fun running => ?_, fun running => ?_, fun idle usable created => go_offers v idle usable created,
    fun idle down => go_without_link v idle down, fun idle usable => arm_accepts v idle usable,
    fun idle down => arm_without_link v idle down, fun running => ⟨_, rfl, ?_⟩, fun running => ⟨_, rfl, ?_⟩⟩
  · exact congrArg (fun u => Host.Outcome.next (settle u)) (migGo_busy v running)
  · exact congrArg (fun u => Host.Outcome.next (settle u)) (migArm_busy v running)
  · rw [show setCtrl v s = s from if_pos running]
    exact migCancelHere_ends running
  · rw [show setAccept v s = s from if_pos running]
    exact migCancelHere_ends running

-- The source.

/-- What the end of a command leaves alone: the migration's registers, and which indexes are there. -/
def migAndGeos (s : State) : Mig × List Geometry := (s.chd.mig, s.idx.map (·.geo))

theorem stopResketch_geo (tag : Nat) (s : State) (ix : Index) : (stopResketch tag s ix).geo = ix.geo := by
  unfold stopResketch
  split
  · split_ifs <;> rfl
  · rfl

theorem stopWork_migAndGeos (c : Cmd) (s : State) : migAndGeos (stopWork c s) = migAndGeos s := by
  have geos (u : State) : (s.idx.map (stopResketch c.tag u)).map (·.geo) = s.idx.map (·.geo) := by
    rw [List.map_map]
    exact List.map_congr_left fun ix _ => stopResketch_geo c.tag u ix
  unfold stopWork migAndGeos
  extract_lets s1 node s2 srch chd u
  have mig : u.chd.mig = s.chd.mig := by simp [u, chd, s1]
  have idx : u.idx = s.idx.map (stopResketch c.tag s1) := by simp [u, s1]
  split <;> exact Prod.ext mig ((congrArg (List.map (·.geo)) idx).trans (geos s1))

theorem endCmd_migAndGeos (st : Nat) (c : Cmd) (s : State) : migAndGeos (endCmd st c s) = migAndGeos s := by
  rw [← stopWork_migAndGeos c s]
  unfold endCmd migAndGeos
  simp only [finish_rest]
  split <;> simp only [bump_rest]

theorem endAll_migAndGeos (p : Cmd → Bool) (st : Nat) (s : State) : migAndGeos (endAll p st s) = migAndGeos s :=
  foldl_proj migAndGeos _ _ _ fun t c => endCmd_migAndGeos st c t

theorem idxOf_isSome_of_geos {s t : State} (same : t.idx.map (·.geo) = s.idx.map (·.geo)) (f slot : Nat) :
    (idxOf t f slot).isSome = (idxOf s f slot).isSome := by
  have byGeo (u : State) : (idxOf u f slot).isSome = (u.idx.map (·.geo)).any fun g => g.facet == f && g.slot == slot := by
    rw [idxOf, Bool.eq_iff_iff, List.find?_isSome, List.any_map, List.any_eq_true]
    rfl
  rw [byGeo, byGeo, same]

theorem dropIndex_mig (f slot tag : Nat) (s : State) : (dropIndex f slot tag s).chd.mig = s.chd.mig :=
  congrArg Prod.fst (endAll_migAndGeos _ _ s)

/-- A dropped index stays, marked with the tag of the command that drops it (R278). -/
theorem idxOf_dropIndex_dropping (f slot tag : Nat) (s : State) (there : (idxOf s f slot).isSome = true) :
    (idxOf (dropIndex f slot tag s) f slot).map (·.dropping) = some (some tag) := by
  have still (p : Cmd → Bool) : (idxOf (endAll p stAborted s) f slot).isSome = true :=
    (idxOf_isSome_of_geos (congrArg Prod.snd (endAll_migAndGeos p stAborted s)) f slot).trans there
  unfold dropIndex
  extract_lets held p n s1 s2 search
  have found : idxOf s2 f slot = _ := idxOf_updIdx f slot _ (endAll p stAborted s) fun _ => rfl
  obtain ⟨ix, hix⟩ := Option.isSome_iff_exists.mp (still p)
  exact congrArg (Option.map (·.dropping)) ((idxOf_congr rfl f slot).trans (found.trans (congrArg _ hix)))

/-- An index that no migration holds writes to. -/
def Index.unheld (ix : Index) : Index := { ix with held := false }

/-- The state in which the source's migration has ended with the target's done, before the index goes on or leaves (R311 step 5). -/
def migEnded (l : Nat) (s : State) : State :=
  bump (migFacet s.chd.mig) (kFct 20) 1 (updMig (fun x => { x with phase := 5, role := 0, writes := [] }) (popDelivered l 3 s))

theorem idxOf_migEnded (l : Nat) (s : State) (f slot : Nat) : idxOf (migEnded l s) f slot = idxOf s f slot := rfl

section
variable {l : Nat} {s : State} (role : s.chd.mig.role = 1) (running : migRunning s.chd.mig = true) (link : migLink s.chd.mig = l)
include role running link

theorem migHere_source : migHere (popDelivered l 3 s) 1 l = true := by
  simp [migHere, role, running, link]

theorem accept_starts (offered : s.chd.mig.phase = 1) :
    Settles (.migAccept l) s fun u => u.chd.mig = { s.chd.mig with start := true } ∧ u.idx = s.idx := by
  refine ⟨_, rfl, ?_⟩
  rw [show receiveAccept l s = updMig (fun x => { x with start := true }) (popDelivered l 3 s) from
    if_pos (by simp [migHere_source role running link, offered])]
  exact ⟨rfl, rfl⟩

theorem refuse_ends (offered : s.chd.mig.phase = 1) (e : Nat) :
    Settles (.migRefuse l e) s fun u => u.chd.mig.phase = 6 ∧ u.chd.mig.error = e ∧ u.chd.mig.role = 0 := by
  refine ⟨_, rfl, ?_⟩
  obtain ⟨phase, error, role', -⟩ := migFail_ends e (popDelivered l 3 s)
  rw [show receiveRefuse l e s = migFail e (popDelivered l 3 s) from if_pos (by simp [migHere_source role running link, offered])]
  exact ⟨phase, error, role'⟩

theorem receiveDone_of_here (cut : s.chd.mig.phase = 4) : receiveDone l s =
    if bit 14 s.chd.mig.ctrl.toNat then updIdx (migFacet s.chd.mig) (migSlot s.chd.mig) Index.unheld (migEnded l s)
    else dropIndex (migFacet s.chd.mig) (migSlot s.chd.mig) noTag (migEnded l s) :=
  if_neg (by simp [migHere_source role running link, cut])

theorem done_copy (cut : s.chd.mig.phase = 4) (copy : bit 14 s.chd.mig.ctrl.toNat = true) {ix : Index}
    (found : idxOf s (migFacet s.chd.mig) (migSlot s.chd.mig) = some ix) :
    Settles (.migDone l) s fun u => u.chd.mig.phase = 5 ∧ u.chd.mig.role = 0 ∧
      idxOf u (migFacet s.chd.mig) (migSlot s.chd.mig) = some { ix with held := false } := by
  refine ⟨_, rfl, ?_⟩
  rw [receiveDone_of_here role running link cut, if_pos copy]
  refine ⟨rfl, rfl, (idxOf_updIdx _ _ Index.unheld _ fun _ => rfl).trans ?_⟩
  rw [idxOf_migEnded, found]
  rfl

theorem done_move (cut : s.chd.mig.phase = 4) (move : bit 14 s.chd.mig.ctrl.toNat = false) {ix : Index}
    (found : idxOf s (migFacet s.chd.mig) (migSlot s.chd.mig) = some ix) :
    Settles (.migDone l) s fun u => u.chd.mig.phase = 5 ∧ u.chd.mig.role = 0 ∧
      (idxOf u (migFacet s.chd.mig) (migSlot s.chd.mig)).map (·.dropping) = some (some noTag) := by
  refine ⟨_, rfl, ?_⟩
  rw [receiveDone_of_here role running link cut, if_neg (by simp [move])]
  have mig := dropIndex_mig (migFacet s.chd.mig) (migSlot s.chd.mig) noTag (migEnded l s)
  refine ⟨congrArg Mig.phase mig, congrArg Mig.role mig, idxOf_dropIndex_dropping _ _ _ _ ?_⟩
  rw [idxOf_migEnded, found]
  rfl

end

theorem cancel_received {l : Nat} {s : State} (running : migRunning s.chd.mig = true) (link : migLink s.chd.mig = l) :
    Settles (.migCancel l) s fun u => u.chd.mig.phase = 6 ∧ u.chd.mig.error = 7 := by
  refine ⟨_, rfl, ?_⟩
  obtain ⟨phase, error, -⟩ := migFail_ends 7 (popDelivered l 3 s)
  rw [show receiveCancel l s = migFail 7 (popDelivered l 3 s) from if_pos (by simp [running, link])]
  exact ⟨phase, error⟩

section
variable {s : State}

theorem migLinkLost_fails (running : migRunning s.chd.mig = true) (down : linkUsable s (migLink s.chd.mig) = false)
    (late : (linkOf s (migLink s.chd.mig)).downAt + 10000000000 ≤ now s) :
    Settles .migrationTimeout s fun u => u.chd.mig.phase = 6 ∧ u.chd.mig.error = 6 := by
  obtain ⟨phase, error, -⟩ := migFail_ends 6 s
  refine ⟨_, rfl, ?_⟩
  rw [show migLinkLost s = migFail 6 s from if_pos (by simp [running, down, late])]
  exact ⟨phase, error⟩

theorem migLinkLost_not_due (other : migRunning s.chd.mig = false ∨ linkUsable s (migLink s.chd.mig) = true ∨
    now s < (linkOf s (migLink s.chd.mig)).downAt + 10000000000) : migLinkLost s = s := by
  refine if_neg fun lost => ?_
  simp only [Bool.and_eq_true, Bool.not_eq_true', decide_eq_true_eq] at lost
  obtain ⟨⟨running, down⟩, late⟩ := lost
  rcases other with idle | usable | early
  · exact absurd running (by simp [idle])
  · exact absurd usable (by simp [down])
  · exact absurd late (Nat.not_le.mpr early)

end

/-- Settles O57: each message of the target by the phase it belongs to; the index goes on or is dropped by the mode bit (R311 step 5). -/
theorem migrationSourceEnds : Obligations.MigrationSourceEnds := by
  unfold Obligations.MigrationSourceEnds
  intro l s m mine
  exact ⟨fun ⟨role, running, link⟩ => accept_starts role running link, fun ⟨role, running, link⟩ => refuse_ends role running link,
    fun ⟨role, running, link⟩ cut copy ix found => done_copy role running link cut copy found,
    fun ⟨role, running, link⟩ cut move ix found => done_move role running link cut move found, cancel_received, migLinkLost_fails,
    fun other => congrArg (fun u => Host.Outcome.next (settle u)) (migLinkLost_not_due other)⟩

end Sys2Proof.Machine
end

section
/-! Chord links: what every message leaves of them, and how they change state (R291 to R297). -/

namespace Sys2Proof.Machine

open Sys2Proof.Safety

-- What of a link flits and messages leave alone.

/-- A link's state: whether it is up, on how many lanes, and how often in a row the next flit has failed. -/
structure LinkMode where
  num : Nat
  st : Nat
  lanes : Nat
  fails : Nat

def Link.mode (x : Link) : LinkMode := ⟨x.num, x.st, x.lanes, x.fails⟩

/-- The states of all links, in their order. -/
def modes (s : State) : List LinkMode := s.chd.links.map Link.mode

theorem modes_congr {s t : State} (h : t.chd = s.chd) : modes t = modes s := congrArg (fun c : Chord => c.links.map Link.mode) h

theorem linkOf_mode {s t : State} (same : modes t = modes s) (l : Nat) : (linkOf t l).mode = (linkOf s l).mode := by
  have byMode (u : State) : (linkOf u l).mode = ((modes u).find? (·.num == l)).getD (Link.reset l).mode := by
    unfold modes linkOf
    rw [List.find?_map]
    exact (Option.getD_map Link.mode (Link.reset l) (u.chd.links.find? (·.num == l))).symm
  rw [byMode, byMode, same]

theorem linkOf_st {s t : State} (same : modes t = modes s) (l : Nat) : (linkOf t l).st = (linkOf s l).st :=
  congrArg LinkMode.st (linkOf_mode same l)

theorem linkUsable_congr {s t : State} (same : modes t = modes s) (l : Nat) : linkUsable t l = linkUsable s l :=
  congrArg (fun n : Nat => n == 2 || n == 3) (linkOf_st same l)

/-- A link that is not in its reset state is one of the module's. -/
theorem links_any_of_st {s : State} {l : Nat} (h : (linkOf s l).st ≠ 0) : s.chd.links.any (·.num == l) = true := by
  by_contra absent
  have none : s.chd.links.find? (·.num == l) = none := by simpa using absent
  exact h (by simp [linkOf, none, Link.reset])

theorem links_any_of_usable {s : State} {l : Nat} (h : linkUsable s l = true) : s.chd.links.any (·.num == l) = true :=
  links_any_of_st fun zero => by simp [linkUsable, zero] at h

theorem updLink_modes (l : Nat) {g : Link → Link} (s : State) (keeps : ∀ x, (g x).mode = x.mode) : modes (updLink l g s) = modes s :=
  updFirst_map _ g Link.mode s.chd.links keeps

@[simp] theorem record_modes (code subject : Nat) (snap : List Nat) (s : State) : modes (record code subject snap s) = modes s :=
  modes_congr (by simp)

@[simp] theorem bumpRas_modes (k n : Nat) (s : State) : modes (bumpRas k n s) = modes s := modes_congr (by simp)

/-- The state of a link that has been changed and then only sent on. -/
theorem linkOf_mode_of_updLink {s t : State} {l : Nat} (g : Link → Link) (same : modes t = modes (updLink l g s))
    (keepsNum : ∀ x, (g x).num = x.num) (there : s.chd.links.any (·.num == l) = true) : (linkOf t l).mode = (g (linkOf s l)).mode :=
  (linkOf_mode same l).trans (congrArg Link.mode (linkOf_updLink l g s keepsNum there))

@[simp] theorem bumpLink_modes (l k n : Nat) (s : State) : modes (bumpLink l k n s) = modes s := updLink_modes l s fun _ => rfl

@[simp] theorem popDelivered_modes (l v : Nat) (s : State) : modes (popDelivered l v s) = modes s := updLink_modes l s fun _ => rfl

@[simp] theorem sendControl_modes (l typ : Nat) (s : State) : modes (sendControl l typ s) = modes s :=
  (bumpLink_modes l 0 1 _).trans (updLink_modes l _ fun _ => rfl)

@[simp] theorem sendData_modes (l v : Nat) (p : Nat × Bytes × Nat) (s : State) : modes (sendData l v p s) = modes s :=
  (bumpLink_modes l 0 1 _).trans (updLink_modes l _ fun _ => rfl)

@[simp] theorem markWaits_modes (l : Nat) (s : State) : modes (markWaits l s) = modes s := updLink_modes l s fun _ => rfl

@[simp] theorem pumpLink_modes (l n : Nat) (s : State) : modes (pumpLink l n s) = modes s := by
  fun_induction pumpLink l n s
  case case6 ih => exact ih.trans (sendData_modes l _ _ _)
  all_goals simp

@[simp] theorem sendMsg_modes (l : Nat) (m : ChordMsg) (s : State) : modes (sendMsg l m s) = modes s := by
  unfold sendMsg
  extract_lets fs s1
  exact (pumpLink_modes l _ s1).trans (updLink_modes l _ fun _ => rfl)

@[simp] theorem resend_modes (l : Nat) (s : State) : modes (resend l s) = modes s := by
  unfold resend
  extract_lets rs
  rw [bumpLink_modes, bumpLink_modes]
  exact foldl_proj modes _ _ _ fun t r => modes_congr (by simp)

@[simp] theorem loseChild_modes (q l : Nat) (s : State) : modes (loseChild q l s) = modes s := by
  unfold loseChild
  split
  · rfl
  · split
    · rfl
    · exact congrArg (List.map Link.mode) (by simp [updDom])

@[simp] theorem dropChild_modes (d : DomQ) (l : Nat) (s : State) : modes (dropChild d l s) = modes s := by
  unfold dropChild
  extract_lets cut
  rw [modes_congr (s := sendMsg l (.gap d.facet d.slot d.cls d.qid) (loseChild d.qid l cut)) (by simp), sendMsg_modes, loseChild_modes]
  unfold cut
  split
  · exact updLink_modes l s fun _ => rfl
  · rfl

@[simp] theorem endDomain_modes (d : DomQ) (s : State) : modes (endDomain d s) = modes s := modes_congr (by simp)

@[simp] theorem tryGather_modes (q : Nat) (s : State) : modes (tryGather q s) = modes s := by
  unfold tryGather
  split
  · rfl
  · split
    · rfl
    · split
      · exact endDomain_modes _ _
      · exact foldl_proj modes _ _ _ fun t p => by split <;> simp

@[simp] theorem sendTurn_modes (s : State) : modes (sendTurn s) = modes s :=
  foldl_proj modes _ _ _ fun t p => by split <;> simp

-- Links that drop lanes, go down, retrain and train (R292, R295).

/-- A link that has dropped a lane (R295). -/
def Link.dropped (x : Link) : Link := { x with st := 3, lanes := 3, fails := 0 }

/-- A link that has gone DOWN at a time, up till then if it was usable (R295). -/
def Link.downed (usable : Bool) (at' : Nat) (x : Link) : Link := { x with
  st := 4, fails := 0, downAt := if usable then at' else x.downAt, tryAt := at',
  txq := x.txq.filter fun p => outlives p.1 p.2.1, rxPart := x.rxPart.filter fun p => 2 ≤ p.1 }

/-- A link that has trained on so many lanes (R292, R295). -/
def Link.trained (lanes : Nat) (x : Link) : Link :=
  { x with st := if lanes == 4 then 2 else 3, lanes := lanes, awaitAck := !x.replay.isEmpty }

/-- A link that trains again since a time (R292). -/
def Link.retrained (at' : Nat) (x : Link) : Link := { x with st := 1, tryAt := at' }

section
variable {l : Nat} {s : State}

theorem linkGoesDown_st (there : (linkOf s l).st ≠ 0) (c : Nat) : (linkOf (linkGoesDown l c s) l).st = 4 := by
  have same : modes (linkGoesDown l c s) = modes (updLink l (Link.downed (linkUsable s l) (now s)) s) := by
    unfold linkGoesDown
    extract_lets x s1
    refine (foldl_proj modes _ _ s1 fun t d => (tryGather_modes _ _).trans ?_).trans ((record_modes _ _ _ _).trans (bumpLink_modes l 6 1 _))
    split <;> simp
  exact congrArg LinkMode.st (linkOf_mode_of_updLink _ same (fun _ => rfl) (links_any_of_st there))

/-- A link that fails the eighth time in a row, and is usable, does not wait. -/
theorem laneDrop_acts (failing : 8 ≤ (linkOf s l).fails) (usable : linkUsable s l = true) :
    ¬ ((decide ((linkOf s l).fails < 8) || !linkUsable s l) = true) := by
  simp [usable, failing]

theorem laneDrop_up (failing : 8 ≤ (linkOf s l).fails) (up : (linkOf s l).st = 2) (errs : List Nat) :
    (linkOf (laneDrop l errs s) l).mode = (linkOf s l).dropped.mode := by
  have same : modes (laneDrop l errs s) = modes (updLink l Link.dropped s) := by
    unfold laneDrop
    extract_lets x top lane
    rw [if_neg (laneDrop_acts failing (by simp [linkUsable, up])), if_neg (by simp [x, up])]
    exact (resend_modes _ _).trans ((bumpRas_modes _ _ _).trans ((record_modes _ _ _ _).trans (bumpLink_modes l 5 1 _)))
  exact linkOf_mode_of_updLink _ same (fun _ => rfl) (links_any_of_st (by simp [up]))

theorem laneDrop_degraded (failing : 8 ≤ (linkOf s l).fails) (degraded : (linkOf s l).st = 3) (errs : List Nat) :
    laneDrop l errs s = linkGoesDown l 0 s :=
  (if_neg (laneDrop_acts failing (by simp [linkUsable, degraded]))).trans (if_pos (by simp [degraded]))

theorem retrain_due (down : (linkOf s l).st = 4) (due : (linkOf s l).tryAt + 1000000000 ≤ now s) :
    retrain l s = updLink l (Link.retrained (now s)) s :=
  if_pos (by simp [down, due])

theorem retrain_not_due (early : (linkOf s l).st ≠ 4 ∨ now s < (linkOf s l).tryAt + 1000000000) : retrain l s = s := by
  refine if_neg fun due => ?_
  simp only [Bool.and_eq_true, beq_iff_eq, decide_eq_true_eq] at due
  omega

theorem trainingComplete_mode (training : (linkOf s l).st = 1) {lanes : Nat} (enough : 3 ≤ lanes) :
    (linkOf (trainingComplete l lanes s) l).mode = ((linkOf s l).trained lanes).mode := by
  have same : modes (trainingComplete l lanes s) = modes (updLink l (Link.trained lanes) s) := by
    unfold trainingComplete
    extract_lets x s1 root s2
    rw [if_neg (by simp [x, training]; omega), pumpLink_modes]
    have turned : modes s2 = modes s1 := by
      unfold s2
      split
      · exact sendTurn_modes s1
      · rfl
    exact turned.trans (sendControl_modes l 0 _)
  exact linkOf_mode_of_updLink _ same (fun _ => rfl) (links_any_of_st (by simp [training]))

end

/-- Settles O52: each command writes the link's state once, and what it sends or records behind that leaves the state alone. -/
theorem linksChangeState : Obligations.LinksChangeState := by
  unfold Obligations.LinksChangeState
  intro l s
  refine ⟨fun errs failing up => ⟨_, rfl, ?_⟩, fun errs failing degraded => ⟨_, rfl, ?_⟩, fun errs few => ?_, fun c low high => ⟨_, rfl, ?_⟩,
    fun down due => ⟨_, rfl, ?_⟩, fun early => congrArg (fun u => Host.Outcome.next (settle u)) (retrain_not_due early),
    fun training => ⟨_, rfl, ?_⟩, fun training => ⟨_, rfl, ?_⟩⟩
  · have mode := laneDrop_up failing up errs
    exact ⟨congrArg LinkMode.st mode, congrArg LinkMode.lanes mode, congrArg LinkMode.fails mode⟩
  · rw [laneDrop_degraded failing degraded]
    exact linkGoesDown_st (by simp [degraded]) 0
  · exact congrArg (fun u => Host.Outcome.next (settle u)) (if_pos (by simp [few]))
  · rw [show chordDown l c s = linkGoesDown l c s from if_neg (by simp; omega)]
    exact linkGoesDown_st (by omega) c
  · rw [retrain_due down due]
    have training := linkOf_updLink l (Link.retrained (now s)) s (fun _ => rfl) (links_any_of_st (by simp [down]))
    exact ⟨congrArg Link.st training, rfl⟩
  · have mode := trainingComplete_mode training (lanes := 4) (by decide)
    exact ⟨congrArg LinkMode.st mode, congrArg LinkMode.lanes mode⟩
  · have mode := trainingComplete_mode training (lanes := 3) (by decide)
    exact ⟨congrArg LinkMode.st mode, congrArg LinkMode.lanes mode⟩

end Sys2Proof.Machine
end

section
/-! Domain queries at a node: casts from the parent, GAP and TURN_SET (R299, R303, R304). -/

namespace Sys2Proof.Machine

open Sys2Proof.Safety

-- Messages of a link leave the domain queries alone.

@[simp] theorem updLink_dom (l : Nat) (g : Link → Link) (s : State) : (updLink l g s).chd.dom = s.chd.dom := rfl

@[simp] theorem popDelivered_dom (l v : Nat) (s : State) : (popDelivered l v s).chd.dom = s.chd.dom := rfl

@[simp] theorem pumpLink_dom (l n : Nat) (s : State) : (pumpLink l n s).chd.dom = s.chd.dom := by
  fun_induction pumpLink l n s
  case case6 ih => exact ih
  all_goals rfl

@[simp] theorem sendMsg_dom (l : Nat) (m : ChordMsg) (s : State) : (sendMsg l m s).chd.dom = s.chd.dom := by
  unfold sendMsg
  extract_lets fs s1
  exact pumpLink_dom l _ s1

theorem domOf_congr {s t : State} (h : t.chd.dom = s.chd.dom) (q : Nat) : domOf t q = domOf s q := by unfold domOf; rw [h]

theorem domOf_qid {s : State} {q : Nat} {d : DomQ} (h : domOf s q = some d) : d.qid = q := by
  simpa using List.find?_some h

/-- A gather that still waits for the node's own part goes on. -/
theorem tryGather_waits {s : State} {q : Nat} {d : DomQ} (found : domOf s q = some d) (own : d.own = none) (count : d.count ≠ 0) :
    tryGather q s = s := by
  unfold tryGather
  rw [found]
  exact if_pos (by simp [own, Ne.symm count])

-- Copies put on the links: of a domain query only the children that still wait for theirs change.

/-- A domain query without the children that its copy is still to go to. -/
def DomQ.core (d : DomQ) : DomQ := { d with unsent := [], sending := [] }

def domCores (s : State) : List DomQ := s.chd.dom.map DomQ.core

theorem domCores_congr {s t : State} (h : t.chd.dom = s.chd.dom) : domCores t = domCores s := congrArg (List.map DomQ.core) h

theorem domOf_core {s t : State} (same : domCores t = domCores s) (q : Nat) : (domOf t q).map DomQ.core = (domOf s q).map DomQ.core := by
  have byCore (u : State) : (domOf u q).map DomQ.core = (domCores u).find? (·.qid == q) := by
    unfold domCores
    rw [List.find?_map]
    rfl
  rw [byCore, byCore, same]

theorem castSent_domCores (d : DomQ) (l : Nat) (s : State) : domCores (castSent d l s) = domCores s := by
  unfold castSent
  split <;> exact updFirst_map _ _ DomQ.core s.chd.dom fun _ => rfl

theorem castSent_modes (d : DomQ) (l : Nat) (s : State) : modes (castSent d l s) = modes s := by
  unfold castSent
  split <;> rfl

/-- A query cast while no child's link is DOWN: nobody is dropped. -/
theorem castTo_domCores {d : DomQ} {s : State} (fresh : d.sending = []) (up : ∀ l ∈ d.unsent, (linkOf s l).st ≠ 4) :
    domCores (castTo d s) = domCores s := by
  unfold castTo
  extract_lets b dRel c
  refine (List.foldlRecOn (motive := fun t => domCores t = domCores s ∧ modes t = modes s) d.unsent _ ⟨rfl, rfl⟩ ?_).1
  intro t ⟨cores, states⟩ l mem
  have notDown : ¬ ((linkOf t l).st == 4) = true := by simpa [linkOf_st states l] using up l mem
  dsimp only
  rw [if_neg notDown, if_neg (by simp [fresh])]
  split_ifs
  · exact ⟨cores, states⟩
  · exact ⟨cores, (updLink_modes l (g := fun y => { y with waited := nub (y.waited ++ [1]) }) t fun _ => rfl).trans states⟩
  · exact ⟨cores, states⟩
  · exact ⟨(castSent_domCores ..).trans ((domCores_congr (sendMsg_dom ..)).trans cores),
      (castSent_modes ..).trans ((sendMsg_modes ..).trans states)⟩

section
variable {s : State} {l : Nat} {c : Cast}

theorem receiveCast_ignored (h : s.chd.ignored.contains c.qid = true ∨ (domOf s c.qid).isSome = true ∨ l ≠ upLink s) :
    receiveCast l c s = popDelivered l 1 s := by
  refine if_pos ?_
  change (l != upLink s || s.chd.ignored.contains c.qid || (domOf s c.qid).isSome) = true
  rcases h with told | held | other
  · rw [told, Bool.or_true, Bool.true_or]
  · simp [held]
  · simp [other]

/-- The domain query that a node holds for a cast which it can answer (R303). -/
def heldCast (s : State) (c : Cast) : DomQ :=
  { qid := c.qid, root := false, tag := noTag, facet := c.facet, slot := c.slot, cls := c.cls, k := (areaCmd c.area).k, area := c.area,
    records := c.records, boundary := 4 * c.turn + c.step,
    fetched := boundaryTime s (4 * c.turn + c.step) + c.dRel - 1000 * totalD s c.facet c.cls (areaCmd c.area).deadline,
    d := totalD s c.facet c.cls (areaCmd c.area).deadline, waitBoundary := true, unsent := (childLinks s).map (·.2), sending := [],
    waiting := (childLinks s).map (·.2), lost := [], own := none, ownRes := [], got := [], closed := false }

/-- A new cast from the parent joins the domain queries and is forwarded. -/
theorem receiveCast_new (parent : l = upLink s) (untold : s.chd.ignored.contains c.qid = false) (new : domOf s c.qid = none)
    (answers : shardMissing s c.facet c.slot c.area = false) :
    ∃ t, receiveCast l c s = tryGather c.qid (castTo (heldCast s c) t) ∧ t.chd.dom = s.chd.dom ++ [heldCast s c] ∧ modes t = modes s := by
  have fresh : ¬ (l != upLink s || s.chd.ignored.contains c.qid || (domOf s c.qid).isSome) = true := by
    rw [untold, new]
    simp [parent]
  unfold receiveCast
  extract_lets s1 a b lost d ls q chd
  have held : q = heldCast s c := by
    simp only [q, show lost = false from answers]
    rfl
  rw [held]
  refine ⟨_, if_neg fresh, rfl, ?_⟩
  exact popDelivered_modes l 1 s

theorem receiveCast_held (parent : l = upLink s) (untold : s.chd.ignored.contains c.qid = false) (new : domOf s c.qid = none)
    (queries : (areaCmd c.area).queries ≠ 0) (answers : shardMissing s c.facet c.slot c.area = false)
    (up : ∀ p ∈ childLinks s, (linkOf s p.2).st ≠ 4) :
    ∃ d, domOf (receiveCast l c s) c.qid = some d ∧ d.root = false ∧ d.boundary = 4 * c.turn + c.step ∧
      d.waitBoundary = true ∧ d.records = c.records ∧ d.waiting = (childLinks s).map (·.2) := by
  obtain ⟨t, received, doms, states⟩ := receiveCast_new parent untold new answers
  have added : domOf t c.qid = some (heldCast s c) := by
    have none' : s.chd.dom.find? (·.qid == c.qid) = none := new
    unfold domOf
    rw [doms, List.find?_append, none']
    simp [heldCast]
  have allUp : ∀ l ∈ (heldCast s c).unsent, (linkOf t l).st ≠ 4 := by
    intro l mem
    obtain ⟨p, child, rfl⟩ := List.mem_map.mp mem
    rw [linkOf_st states]
    exact up p child
  have kept := domOf_core (castTo_domCores rfl allUp) c.qid
  rw [added] at kept
  obtain ⟨d, found, core⟩ := Option.map_eq_some_iff.mp kept
  have waits : tryGather c.qid (castTo (heldCast s c) t) = castTo (heldCast s c) t :=
    tryGather_waits found (congrArg DomQ.own core) fun zero => queries ((congrArg DomQ.count core).symm.trans zero)
  rw [received, waits]
  exact ⟨d, found, congrArg DomQ.root core, congrArg DomQ.boundary core, congrArg DomQ.waitBoundary core, congrArg DomQ.records core,
    congrArg DomQ.waiting core⟩

end

/-- Settles O53: a copy is new and from the parent, or it is dropped; a new one is held, and while no child's link is DOWN nobody is given up. -/
theorem castsGapsAndTurns : Obligations.CastsGapsAndTurns := by
  unfold Obligations.CastsGapsAndTurns
  intro s
  refine ⟨fun l c parent untold new queries answers up => ⟨_, rfl, receiveCast_held parent untold new queries answers up⟩,
    fun l c h => congrArg (fun u => Host.Outcome.next (settle u)) (receiveCast_ignored h), fun q => rfl, fun n => ⟨_, rfl, ?_⟩⟩
  simp [receiveTurn]

end Sys2Proof.Machine
end

section
/-! Gathers: contributions, children given up, and the cut-off (R301, R304 to R306). -/

namespace Sys2Proof.Machine

open Sys2Proof.Safety

-- What puts nothing out, and messages that only add to what is put out.

theorem sendMsg_out (l : Nat) (m : ChordMsg) (s : State) : s.out <+: (sendMsg l m s).out := by
  unfold sendMsg
  extract_lets fs s1
  exact (List.prefix_append _ _).trans (pumpLink_out l _ s1)

section
variable {s : State} {q : Nat} {d : DomQ} (found : domOf s q = some d)
include found

-- Contributions (R305, R306).

theorem receiveContrib_unawaited {l : Nat} {c : Contrib} (qid : c.qid = q) (silent : d.waiting.contains l = false) :
    receiveContrib l c s = bump c.facet 1019 1 (popDelivered l 0 s) := by
  have here : domOf (popDelivered l 0 s) c.qid = some d := qid ▸ found
  unfold receiveContrib
  extract_lets s1
  rw [here]
  exact if_pos (by rw [silent]; rfl)

theorem receiveContrib_awaited {l : Nat} {c : Contrib} (qid : c.qid = q) (awaited : d.waiting.contains l = true) (own : d.own = none)
    (count : d.count ≠ 0) : (domOf (receiveContrib l c s) q).map (·.got) = some (d.got ++ [c]) := by
  have here : domOf (popDelivered l 0 s) c.qid = some d := qid ▸ found
  unfold receiveContrib
  extract_lets s1
  rw [here]
  dsimp only
  rw [if_neg (by rw [awaited]; decide)]
  have joined := domOf_updDom c.qid (fun y => { y with
    got := d.got ++ [c], waiting := if ((d.got ++ [c]).filter fun p => p.src == c.src).length == d.count then y.waiting.filter (· != l) else y.waiting })
    s1 fun _ => rfl
  rw [here] at joined
  rw [tryGather_waits joined own count, ← qid, joined]
  rfl

-- A child given up (R304, R305).

end

/-- A child as a gather keeps it once it is given up: its link, its node, and the nodes of its subtree. -/
def goneChild (s : State) (l : Nat) : Nat × Nat × Nat := (l, (((childLinks s).find? (·.2 == l)).map (·.1)).getD 0xFFFF, lostNodes s l)

theorem childLinks_congr {s t : State} (h : t.cfg = s.cfg) : childLinks t = childLinks s := by
  unfold childLinks ownTreeNode
  rw [h]

theorem upLink_congr {s t : State} (h : t.cfg = s.cfg) : upLink t = upLink s := by
  unfold upLink ownTreeNode
  rw [h]

theorem goneChild_congr {s t : State} (h : t.cfg = s.cfg) : goneChild t = goneChild s := by
  funext l
  unfold goneChild lostNodes
  rw [childLinks_congr h, h]

/-- A domain query without the children on some links, which are counted missing. -/
def DomQ.without (s : State) (ls : List Nat) (d : DomQ) : DomQ := { d with
  unsent := d.unsent.filter (!ls.contains ·), sending := d.sending.filter (!ls.contains ·), waiting := d.waiting.filter (!ls.contains ·),
  lost := d.lost ++ ls.map (goneChild s) }

theorem without_congr {s t : State} (h : t.cfg = s.cfg) : DomQ.without t = DomQ.without s := by
  funext ls d
  unfold DomQ.without
  rw [goneChild_congr h]

theorem without_nil (s : State) (d : DomQ) : d.without s [] = d := by
  simp [DomQ.without]

theorem without_cons (s : State) (l : Nat) (ls : List Nat) (d : DomQ) : (d.without s [l]).without s ls = d.without s (l :: ls) := by
  simp [DomQ.without, List.filter_filter, Bool.and_comm]

/-- Nodes of the children on some links of whom no part of a query has come. -/
def silentNodes (s : State) (d : DomQ) (ls : List Nat) (i : Nat) : Nat :=
  ((ls.filter fun l => !d.got.any fun p => p.src == (goneChild s l).2.1 && p.sub == i).map (lostNodes s)).sum

theorem silentNodes_perm {s : State} {d : DomQ} {ls ms : List Nat} (perm : ls.Perm ms) (i : Nat) : silentNodes s d ls i = silentNodes s d ms i :=
  ((perm.filter _).map _).sum_eq

theorem missing_without (s : State) (ls : List Nat) (d : DomQ) (i : Nat) : (d.without s ls).missing i = d.missing i + silentNodes s d ls i := by
  have nodes : (goneChild s · |>.2.2) = lostNodes s := rfl
  simp [DomQ.missing, DomQ.without, silentNodes, List.filter_map, Function.comp_def, ← nodes]

section
variable {s : State} {q : Nat} {d : DomQ} (found : domOf s q = some d)
include found

theorem loseChild_done {l : Nat} (done : d.waiting.contains l = false) : loseChild q l s = s := by
  unfold loseChild
  rw [found]
  exact if_pos (by rw [done]; rfl)

theorem loseChild_waiting {l : Nat} (waits : d.waiting.contains l = true) :
    ∃ n, loseChild q l s = bump d.facet (kFct 18) n (updDom q (DomQ.without s [l]) s) := by
  have removed : (fun y : DomQ => { y with
      unsent := y.unsent.filter (· != l), sending := y.sending.filter (· != l), waiting := y.waiting.filter (· != l),
      lost := y.lost ++ [goneChild s l] }) = DomQ.without s [l] := by
    funext y
    have alone : (fun x : Nat => !([l].contains x)) = (· != l) := by
      funext x
      simp [bne, Bool.beq_eq_decide_eq]
    simp only [DomQ.without, alone, List.map_cons, List.map_nil]
  unfold loseChild
  rw [found]
  exact ⟨_, (if_neg (by rw [waits]; decide)).trans (congrArg (fun g => bump d.facet _ _ (updDom q g s)) removed)⟩

theorem domOf_loseChild {l : Nat} (waits : d.waiting.contains l = true) : domOf (loseChild q l s) q = some (d.without s [l]) := by
  obtain ⟨n, lost⟩ := loseChild_waiting found waits
  rw [lost]
  refine (domOf_congr (s := updDom q (DomQ.without s [l]) s) rfl q).trans ?_
  rw [domOf_updDom q (DomQ.without s [l]) s fun _ => rfl, found]
  rfl

/-- Children given up one after the other: each that is waited for is counted missing once. -/
theorem domOf_loseChildren (ws : List Nat) : ∃ ls : List Nat, ls.Nodup ∧ (∀ x, x ∈ ls ↔ x ∈ ws ∧ x ∈ d.waiting) ∧
    domOf (ws.foldl (fun t l => loseChild q l t) s) q = some (d.without s ls) := by
  induction ws generalizing s d with
  | nil => exact ⟨[], List.nodup_nil, by simp, by rw [without_nil]; exact found⟩
  | cons w ws ih =>
    cases waits : d.waiting.contains w with
    | false =>
      obtain ⟨ls, nodup, mem, kept⟩ := ih found
      refine ⟨ls, nodup, fun x => (mem x).trans ?_, by rw [List.foldl_cons, loseChild_done found waits]; exact kept⟩
      have absent : w ∉ d.waiting := by simpa using waits
      grind
    | true =>
      obtain ⟨ls, nodup, mem, kept⟩ := ih (domOf_loseChild found waits)
      have waiting (x : Nat) : x ∈ (d.without s [w]).waiting ↔ x ∈ d.waiting ∧ x ≠ w := by simp [DomQ.without]
      have there : w ∈ d.waiting := by simpa using waits
      refine ⟨w :: ls, List.nodup_cons.mpr ⟨fun h => ((waiting w).mp ((mem w).mp h).2).2 rfl, nodup⟩, fun x => ?_, ?_⟩
      · rw [List.mem_cons, mem x, waiting x]
        grind
      · rw [List.foldl_cons, kept, without_congr (s := s) (by simp), without_cons]

/-- With all children that it waits for given up, a gather waits for none. -/
theorem domOf_loseWaiting : ∃ ls : List Nat, ls.Perm d.waiting.dedup ∧ (d.without s ls).waiting = [] ∧
    domOf (d.waiting.foldl (fun t l => loseChild q l t) s) q = some (d.without s ls) := by
  obtain ⟨ls, nodup, mem, kept⟩ := domOf_loseChildren found d.waiting
  have same (x : Nat) : x ∈ ls ↔ x ∈ d.waiting := (mem x).trans and_self_iff
  refine ⟨ls, (List.perm_ext_iff_of_nodup nodup (List.nodup_dedup _)).mpr fun x => (same x).trans List.mem_dedup.symm, ?_, kept⟩
  exact List.filter_eq_nil_iff.mpr fun x hx => by simp [(same x).mpr hx]

-- A copy that could not be sent (R304).

theorem dropChild_gives_up {l : Nat} (waits : d.waiting.contains l = true) : domOf (dropChild d l s) q = some (d.without s [l]) ∧
    Out.chordMsg l 3 (.gap d.facet d.slot d.cls q) ∈ (dropChild d l s).out := by
  have qid := domOf_qid found
  unfold dropChild
  extract_lets cut
  have cutDom : cut.chd.dom = s.chd.dom := by
    unfold cut
    split <;> rfl
  have cutCfg : cut.cfg = s.cfg := by
    unfold cut
    split <;> rfl
  rw [qid]
  refine ⟨(domOf_congr (s := loseChild q l cut) (by simp) q).trans ?_, mem_out_sendMsg l (.gap d.facet d.slot d.cls q) _⟩
  exact (domOf_loseChild ((domOf_congr cutDom q).trans found) waits).trans (by rw [without_congr cutCfg])

theorem slackExpiry_gives_up {l : Nat} (held : d.unsent.contains l = true) (waits : d.waiting.contains l = true)
    (late : boundaryTime s d.boundary + 25600 ≤ now s) (own : d.own = none) (count : d.count ≠ 0) :
    slackExpiry q l s = dropChild d l s := by
  unfold slackExpiry
  rw [found]
  have due : ¬ ((!d.unsent.contains l || decide (now s < boundaryTime s d.boundary + 25600)) = true) := by
    rw [held]
    simpa using late
  exact (if_neg due).trans (tryGather_waits (dropChild_gives_up found waits).1 own count)

-- The cut-off (R305).

end

/-- A domain query whose own part has ended as it stood. -/
def DomQ.ended (own : List Contrib) (d : DomQ) : DomQ := { d with own := some own, closed := true, waitBoundary := false }

theorem endOwn_chd (d : DomQ) (s : State) : (endOwn d s).chd = (updDom d.qid (DomQ.ended (ownSoFar s d)) s).chd := by
  unfold endOwn
  extract_lets own s1
  have counted : s1.chd = s.chd := foldl_proj (·.chd) _ _ _ fun t y => by simp
  exact congrArg (fun c : Chord => { c with dom := updFirst (·.qid == d.qid) (DomQ.ended own) c.dom })
    ((show (dropQueries (ofDomain d.qid) s1).chd = s1.chd by simp).trans counted)

theorem endOwn_modes (d : DomQ) (s : State) : modes (endOwn d s) = modes s := modes_congr (s := updDom _ _ s) (endOwn_chd d s)

section
variable {s : State} {q : Nat} {d : DomQ} (found : domOf s q = some d)
include found

theorem gatherCutoff_early (early : now s < cutOff s d) : gatherCutoff q s = s := by
  unfold gatherCutoff
  rw [found]
  exact if_pos early

theorem gatherCutoff_waits (due : cutOff s d ≤ now s) (early : now s < sendBy s d) :
    gatherCutoff q s = tryGather q (d.waiting.foldl (fun t l => loseChild q l t) s) := by
  unfold gatherCutoff
  rw [found]
  exact (if_neg (Nat.not_lt.mpr due)).trans (congrArg (tryGather q) (if_pos early))

theorem gatherCutoff_ends (due : sendBy s d ≤ now s) :
    gatherCutoff q s = tryGather q (endOwn d (d.waiting.foldl (fun t l => loseChild q l t) s)) := by
  have past : cutOff s d ≤ now s := Nat.le_trans (Nat.le_add_right _ 2000) due
  unfold gatherCutoff
  rw [found]
  exact (if_neg (Nat.not_lt.mpr past)).trans (congrArg (tryGather q) (if_neg (Nat.not_lt.mpr due)))

theorem domOf_endOwn (x : DomQ) (qid : x.qid = q) : domOf (endOwn x s) q = some (d.ended (ownSoFar s x)) := by
  rw [domOf_congr (congrArg Chord.dom (endOwn_chd x s)), qid, domOf_updDom q (DomQ.ended _) s fun _ => rfl, found]
  rfl

end

/-- A part sent up, where the link to the parent carries flits. -/
def sendPart (t : State) (p : Contrib) : State := if linkUsable t (upLink t) then sendMsg (upLink t) (.contrib p) t else t

/-- The state without a domain query that has ended. -/
def gatherClosed (q : Nat) (s : State) : State := { s with chd := { s.chd with dom := s.chd.dom.filter (·.qid != q) } }

theorem domOf_gatherClosed {q : Nat} {s t : State} (h : t.chd.dom = (gatherClosed q s).chd.dom) : domOf t q = none := by
  refine (domOf_congr h q).trans ?_
  simp [domOf, gatherClosed]

@[simp] theorem sendPart_dom (t : State) (p : Contrib) : (sendPart t p).chd.dom = t.chd.dom := by
  unfold sendPart
  split <;> simp

/-- A gather that waits for nobody and has all its own parts ends, and its parts go up or complete the root's command (R306). -/
theorem tryGather_ends {s : State} {q : Nat} {d : DomQ} (found : domOf s q = some d) (nobody : d.waiting = [])
    (all : (d.own.map (·.length)).getD 0 = d.count) : tryGather q s =
      if d.root then endDomain d (gatherClosed q s) else ((List.range d.count).map (mergePart s d)).foldl sendPart (gatherClosed q s) := by
  unfold tryGather
  rw [found]
  exact if_neg (by simp [nobody, all])

theorem domOf_tryGather_ends {s : State} {q : Nat} {d : DomQ} (found : domOf s q = some d) (nobody : d.waiting = [])
    (all : (d.own.map (·.length)).getD 0 = d.count) : domOf (tryGather q s) q = none := by
  rw [tryGather_ends found nobody all]
  split
  · exact domOf_gatherClosed (s := s) (by simp)
  · exact domOf_gatherClosed (s := s) (foldl_proj (·.chd.dom) _ _ _ sendPart_dom)

theorem sendParts_out (ps : List Contrib) (s : State) : s.out <+: (ps.foldl sendPart s).out :=
  foldl_ind (fun t => s.out <+: t.out) _ _ _ (List.prefix_refl _) fun t p kept => by
    unfold sendPart
    split
    · exact kept.trans (sendMsg_out ..)
    · exact kept

/-- Parts sent up a usable link are all put out. -/
theorem mem_out_sendParts (ps : List Contrib) {s : State} {l : Nat} (up : upLink s = l) (usable : linkUsable s l = true) :
    ∀ p ∈ ps, Out.chordMsg l 0 (.contrib p) ∈ (ps.foldl sendPart s).out := by
  induction ps generalizing s with
  | nil => simp
  | cons first ps ih =>
    have sent : sendPart s first = sendMsg l (.contrib first) s := by
      unfold sendPart
      rw [up]
      exact if_pos usable
    rw [List.foldl_cons, sent]
    refine List.forall_mem_cons.mpr ⟨(sendParts_out ps _).subset (mem_out_sendMsg l (.contrib first) s), ih ?_ ?_⟩
    · rw [upLink_congr (s := s) (by simp), up]
    · rw [linkUsable_congr (sendMsg_modes ..), usable]

theorem missing_mergePart (s : State) (d : DomQ) (i : Nat) : d.missing i ≤ (mergePart s d i).missing := Nat.le_add_left ..

theorem partial_mergePart (s : State) (d : DomQ) (i : Nat) (some' : 0 < (mergePart s d i).missing) : (mergePart s d i).partialFlag = true := by
  have : decide (0 < (mergePart s d i).missing) = true := decide_eq_true some'
  exact Bool.or_eq_true_iff.mpr (.inl this)

/-- A node's gather that ends sends a part of each query up (R306). -/
theorem tryGather_sends {s : State} {q : Nat} {d : DomQ} (found : domOf s q = some d) (nobody : d.waiting = [])
    (all : (d.own.map (·.length)).getD 0 = d.count) (node : d.root = false) {l : Nat} (up : upLink s = l) (usable : linkUsable s l = true)
    {i : Nat} (low : i < d.count) : ∃ p, Out.chordMsg l 0 (.contrib p) ∈ (tryGather q s).out ∧ p.qid = q ∧ p.sub = i ∧
      d.missing i ≤ p.missing ∧ (0 < d.missing i → p.partialFlag = true) := by
  have least := missing_mergePart s d i
  rw [tryGather_ends found nobody all, if_neg (by simp [node])]
  refine ⟨mergePart s d i, ?_, domOf_qid found, rfl, least, fun some' => partial_mergePart s d i (Nat.lt_of_lt_of_le some' least)⟩
  exact mem_out_sendParts (s := gatherClosed q s) _ up usable _ (List.mem_map_of_mem (List.mem_range.mpr low))

section
variable {s : State} {q : Nat} {d : DomQ} (found : domOf s q = some d)
include found

/-- Two microseconds before the node's time every child still silent is counted missing, and the gather goes on. -/
theorem gatherCutoff_counts_silent (due : cutOff s d ≤ now s) (early : now s < sendBy s d) (own : d.own = none) (count : d.count ≠ 0) :
    ∃ d', domOf (gatherCutoff q s) q = some d' ∧ d'.waiting = [] ∧ (∀ l ∈ d.waiting, goneChild s l ∈ d'.lost) ∧
      (∀ i, d'.missing i = d.missing i + silentNodes s d d.waiting.dedup i) ∧ d'.got = d.got ∧ d'.own = none := by
  obtain ⟨ls, perm, nobody, kept⟩ := domOf_loseWaiting found
  rw [gatherCutoff_waits found due early, tryGather_waits kept own count]
  refine ⟨_, kept, nobody, fun l waits => List.mem_append_right _ (List.mem_map_of_mem ?_), fun i => ?_, rfl, own⟩
  · exact perm.mem_iff.mpr (List.mem_dedup.mpr waits)
  · rw [missing_without, silentNodes_perm perm]

/-- At the node's time the gather has ended: of the queries' parts each goes up with the silent children's nodes missing (R305, R306). -/
theorem gatherCutoff_sends (due : sendBy s d ≤ now s) : domOf (gatherCutoff q s) q = none ∧
    (d.root = false → linkUsable s (upLink s) = true → ∀ i, i < d.count →
      ∃ p, Out.chordMsg (upLink s) 0 (.contrib p) ∈ (gatherCutoff q s).out ∧ p.qid = q ∧ p.sub = i ∧
        silentNodes s d d.waiting.dedup i ≤ p.missing ∧ (0 < silentNodes s d d.waiting.dedup i → p.partialFlag = true)) := by
  obtain ⟨ls, perm, nobody, kept⟩ := domOf_loseWaiting found
  have states : modes (d.waiting.foldl (fun t l => loseChild q l t) s) = modes s := foldl_proj modes _ _ _ fun t l => loseChild_modes q l t
  have cfg : (d.waiting.foldl (fun t l => loseChild q l t) s).cfg = s.cfg := foldl_proj (·.cfg) _ _ _ fun t l => by simp
  rw [gatherCutoff_ends found due]
  generalize d.waiting.foldl (fun t l => loseChild q l t) s = s1 at kept states cfg
  have ended := domOf_endOwn kept d (domOf_qid found)
  have all : (((d.without s ls).ended (ownSoFar s1 d)).own.map (·.length)).getD 0 = ((d.without s ls).ended (ownSoFar s1 d)).count := by
    simp [DomQ.ended, ownSoFar, DomQ.count, DomQ.without]
  refine ⟨domOf_tryGather_ends ended nobody all, fun node usable i low => ?_⟩
  have up : upLink (endOwn d s1) = upLink s := upLink_congr ((show (endOwn d s1).cfg = s1.cfg by simp).trans cfg)
  have carries : linkUsable (endOwn d s1) (upLink s) = true := (linkUsable_congr ((endOwn_modes d s1).trans states) _).trans usable
  obtain ⟨p, sent, qid, sub, least, flagged⟩ := tryGather_sends ended nobody all node up carries low
  have silent : ((d.without s ls).ended (ownSoFar s1 d)).missing i = d.missing i + silentNodes s d d.waiting.dedup i :=
    (missing_without s ls d i).trans (by rw [silentNodes_perm perm])
  rw [silent] at least flagged
  exact ⟨p, sent, qid, sub, by omega, fun some' => flagged (by omega)⟩

end

/-- Settles O54: a gather changes only by parts that join it and children given up once each; at C_d nobody is awaited, so it ends. -/
theorem gathersEndWithoutTheSilent : Obligations.GathersEndWithoutTheSilent := by
  unfold Obligations.GathersEndWithoutTheSilent
  intro s q d found gone silent alone
  refine ⟨fun l c qid awaited own count => ⟨_, rfl, receiveContrib_awaited found qid awaited own count⟩,
    fun l c qid unawaited => congrArg (fun u => Host.Outcome.next (settle u)) (receiveContrib_unawaited found qid unawaited),
    fun l held waits late own count => ⟨_, rfl, ?_⟩,
    fun early => congrArg (fun u => Host.Outcome.next (settle u)) (gatherCutoff_early found early),
    fun due early own count => ⟨_, rfl, gatherCutoff_counts_silent found due early own count⟩,
    fun due _ => ⟨_, rfl, (gatherCutoff_sends found due).1⟩,
    fun due _ node usable i low => ⟨_, rfl, (gatherCutoff_sends found due).2 node usable i low⟩⟩
  obtain ⟨kept, told⟩ := dropChild_gives_up found waits
  rw [slackExpiry_gives_up found held waits late own count]
  exact ⟨told, _, kept, rfl, by simp [DomQ.without], by simp [DomQ.without]⟩

end Sys2Proof.Machine
end

section
/-! Flits: what is sent in answer, what is delivered, and what a NAK resends (R293 to R296; log 80). -/

namespace Sys2Proof.Machine

open Sys2Proof.Safety

-- What a change of the links leaves of one link, whether it is there or not.

theorem linkOf_updLink_rel {R : Link → Link → Prop} (refl : ∀ x, R x x) (l : Nat) {g : Link → Link} (s : State)
    (num : ∀ x, (g x).num = x.num) (step : ∀ x, R x (g x)) : R (linkOf s l) (linkOf (updLink l g s) l) := by
  unfold linkOf updLink
  rw [find?_updFirst _ g s.chd.links fun a ha => by simpa [num a] using ha]
  cases s.chd.links.find? (·.num == l) with
  | none => exact refl _
  | some x => exact step x

theorem linkOf_updLink_keeps {β : Type} (k : Link → β) (l : Nat) {g : Link → Link} (s : State) (num : ∀ x, (g x).num = x.num)
    (keeps : ∀ x, k (g x) = k x) : k (linkOf (updLink l g s) l) = k (linkOf s l) :=
  linkOf_updLink_rel (R := fun x y => k y = k x) (fun _ => rfl) l s num keeps

theorem linkOf_congr {s t : State} (h : t.chd.links = s.chd.links) (l : Nat) : linkOf t l = linkOf s l := by unfold linkOf; rw [h]

/-- What a link has received, and whether the next flit has failed. -/
structure LinkInbound where
  fails : Nat
  rxNext : Nat
  delivered : List (Nat × Bytes)

def Link.inbound (x : Link) : LinkInbound := ⟨x.fails, x.rxNext, x.delivered⟩

theorem inbound_eq_iff {x y : Link} : y.inbound = x.inbound ↔ y.fails = x.fails ∧ y.rxNext = x.rxNext ∧ y.delivered = x.delivered := by
  unfold Link.inbound
  rw [LinkInbound.mk.injEq]

/-- A link that has sent on: its replay buffer has only grown, and it waits for a first ack as before. -/
structure LinkFollows (x y : Link) : Prop where
  awaitAck : y.awaitAck = x.awaitAck
  replay : x.replay <+: y.replay

theorem LinkFollows.refl (x : Link) : LinkFollows x x := ⟨rfl, List.prefix_refl _⟩

theorem LinkFollows.trans {x y z : Link} (first : LinkFollows x y) (second : LinkFollows y z) : LinkFollows x z :=
  ⟨second.awaitAck.trans first.awaitAck, first.replay.trans second.replay⟩

/-- What sending on a link keeps: all it has received, and the flits to replay. -/
def SendsOn (l : Nat) (s u : State) : Prop := (linkOf u l).inbound = (linkOf s l).inbound ∧ LinkFollows (linkOf s l) (linkOf u l)

theorem SendsOn.refl (l : Nat) (s : State) : SendsOn l s s := ⟨rfl, .refl _⟩

theorem SendsOn.trans {l : Nat} {s t u : State} (first : SendsOn l s t) (second : SendsOn l t u) : SendsOn l s u :=
  ⟨second.1.trans first.1, first.2.trans second.2⟩

theorem updLink_sendsOn (l : Nat) {g : Link → Link} (s : State) (num : ∀ x, (g x).num = x.num) (inbound : ∀ x, (g x).inbound = x.inbound)
    (follows : ∀ x, LinkFollows x (g x)) : SendsOn l s (updLink l g s) :=
  ⟨linkOf_updLink_keeps Link.inbound l s num inbound, linkOf_updLink_rel LinkFollows.refl l s num follows⟩

theorem bumpLink_sendsOn (l k n : Nat) (s : State) : SendsOn l s (bumpLink l k n s) :=
  updLink_sendsOn l s (fun _ => rfl) (fun _ => rfl) fun _ => ⟨rfl, List.prefix_refl _⟩

theorem markWaits_sendsOn (l : Nat) (s : State) : SendsOn l s (markWaits l s) :=
  updLink_sendsOn l s (fun _ => rfl) (fun _ => rfl) fun _ => ⟨rfl, List.prefix_refl _⟩

theorem sendControl_sendsOn (l typ : Nat) (s : State) : SendsOn l s (sendControl l typ s) := by
  unfold sendControl
  extract_lets x cr
  refine SendsOn.trans (t := updLink l _ (emit _ s)) ?_ (bumpLink_sendsOn l 0 1 _)
  exact updLink_sendsOn l (emit _ s) (fun _ => rfl) (fun _ => rfl) fun _ => ⟨rfl, List.prefix_refl _⟩

theorem sendData_sendsOn (l v : Nat) (p : Nat × Bytes × Nat) (s : State) : SendsOn l s (sendData l v p s) := by
  unfold sendData
  extract_lets x cr b
  refine SendsOn.trans (t := updLink l _ (emit _ s)) ?_ (bumpLink_sendsOn l 0 1 _)
  exact updLink_sendsOn l (emit _ s) (fun _ => rfl) (fun _ => rfl) fun x => ⟨rfl, List.prefix_append _ _⟩

theorem pumpLink_sendsOn (l n : Nat) (s : State) : SendsOn l s (pumpLink l n s) := by
  fun_induction pumpLink l n s
  case case3 => exact markWaits_sendsOn l _
  case case4 => exact markWaits_sendsOn l _
  case case6 ih => exact (sendData_sendsOn l _ _ _).trans ih
  all_goals exact SendsOn.refl l _

theorem resend_sendsOn (l : Nat) (s : State) : SendsOn l s (resend l s) := by
  have emitted : ∀ (rs : List (Nat × Bytes)), (rs.foldl (fun t r => emit (.chordFlit l r.2) t) s).chd = s.chd := fun rs =>
    foldl_proj (·.chd) _ _ _ fun _ _ => rfl
  have same := linkOf_congr (congrArg Chord.links (emitted (linkOf s l).replay)) l
  refine SendsOn.trans ?_ ((bumpLink_sendsOn l 0 _ _).trans (bumpLink_sendsOn l 4 _ _))
  exact ⟨congrArg Link.inbound same, by rw [same]; exact .refl _⟩

theorem resend_out (l : Nat) (s : State) : (resend l s).out = s.out ++ (linkOf s l).replay.map fun r => Out.chordFlit l r.2 := by
  have emitted (rs : List (Nat × Bytes)) (t : State) :
      (rs.foldl (fun t r => emit (.chordFlit l r.2) t) t).out = t.out ++ rs.map fun r => Out.chordFlit l r.2 := by
    induction rs generalizing t with
    | nil => simp
    | cons r rs ih => exact (ih (emit (.chordFlit l r.2) t)).trans (List.append_assoc t.out _ _)
  exact emitted _ s

-- A NAK sent (R294).

/-- A link without what flits that carry no data change of it: its counters, its failures, and the credits that it still has to return. -/
def Link.still (x : Link) : Link := { x with ctr := [], fails := 0, returned := [] }

theorem bumpLink_still (l k n : Nat) (s : State) : (linkOf (bumpLink l k n s) l).still = (linkOf s l).still :=
  linkOf_updLink_keeps Link.still l s (fun _ => rfl) fun _ => rfl

theorem bumpLink_returned (l k n : Nat) (s : State) : (linkOf (bumpLink l k n s) l).returned = (linkOf s l).returned :=
  linkOf_updLink_keeps Link.returned l s (fun _ => rfl) fun _ => rfl

theorem sendNak_still (l : Nat) (s : State) : (linkOf (sendNak l s) l).still = (linkOf s l).still := by
  unfold sendNak sendControl
  extract_lets x cr
  rw [bumpLink_still, bumpLink_still]
  exact linkOf_updLink_keeps Link.still l (emit _ s) (fun _ => rfl) fun _ => rfl

theorem sendNak_fails (l : Nat) (s : State) : (linkOf (sendNak l s) l).fails = (linkOf s l).fails :=
  congrArg LinkInbound.fails ((sendControl_sendsOn l 2 s).trans (bumpLink_sendsOn l 3 1 _)).1

/-- A flit is answered with a NAK, and nothing else comes of it (R294). -/
def NakSent (l : Nat) (s u : State) : Prop :=
  let x := linkOf s l
  u.out = s.out ++ [.chordFlit l (flitBytes 2 0 0 (lastGood x) (creditReturn x).1 (creditReturn x).2 0 [])] ∧ (linkOf u l).rxNext = x.rxNext ∧
  (linkOf u l).delivered = x.delivered ∧ (linkOf u l).replay = x.replay ∧ (linkOf u l).credits = x.credits ∧
  u = { s with chd := { s.chd with links := u.chd.links }, out := u.out }

/-- A NAK for a link of which counters and failures alone have changed. -/
theorem nakSent_of_counted {l : Nat} {s t : State} (frame : t = { s with chd := { s.chd with links := t.chd.links } })
    (same : (linkOf t l).still = (linkOf s l).still) (returned : (linkOf t l).returned = (linkOf s l).returned) :
    NakSent l s (sendNak l t) := by
  have still := (sendNak_still l t).trans same
  have rxNext : (linkOf t l).rxNext = (linkOf s l).rxNext := (congrArg Link.rxNext same :)
  have out : (sendNak l t).out = t.out ++ [.chordFlit l (flitBytes 2 0 0 (lastGood (linkOf t l)) (creditReturn (linkOf t l)).1
    (creditReturn (linkOf t l)).2 0 [])] := rfl
  have good : lastGood (linkOf t l) = lastGood (linkOf s l) := by rw [lastGood, rxNext, lastGood]
  have credit : creditReturn (linkOf t l) = creditReturn (linkOf s l) := by rw [creditReturn, returned, creditReturn]
  refine ⟨?_, (congrArg Link.rxNext still :), (congrArg Link.delivered still :), (congrArg Link.replay still :), (congrArg Link.credits still :), ?_⟩
  · rw [out, good, credit, frame]
  · change ({ t with chd := { t.chd with links := (sendNak l t).chd.links }, out := (sendNak l t).out } : State) = _
    rw [frame]

/-- A flit failed once more: it counts when it is the next one (R295; log 80). -/
def Link.failed (again : Bool) (x : Link) : Link := { x with fails := x.fails + flagBit 0 again }

section
variable {l : Nat} {b : Bytes} {s : State} (usable : linkUsable s l = true) (size : b.length = 256)
include usable size

theorem receiveFlit_bad (bad : field 0xFC 4 b ≠ (crc32c (b.take 0xFC)).toNat) : NakSent l s (receiveFlit l b s) ∧
    (linkOf (receiveFlit l b s) l).fails = (linkOf s l).fails + if (b.getD 0 0).toNat = 1 ∧ field 2 2 b = (linkOf s l).rxNext then 1 else 0 := by
  let again := (b.getD 0 0).toNat == 1 && field 2 2 b == (linkOf s l).rxNext
  have answer : receiveFlit l b s = sendNak l (bumpLink l 2 1 (updLink l (Link.failed again) s)) := by
    unfold receiveFlit
    extract_lets x
    rw [if_neg (by simp [usable, size]), if_pos (by simpa using bad)]
    rfl
  have still : (linkOf (updLink l (Link.failed again) s) l).still = (linkOf s l).still := linkOf_updLink_keeps Link.still l s (fun _ => rfl) fun _ => rfl
  have returned : (linkOf (updLink l (Link.failed again) s) l).returned = (linkOf s l).returned :=
    linkOf_updLink_keeps Link.returned l s (fun _ => rfl) fun _ => rfl
  have counts : flagBit 0 again = if (b.getD 0 0).toNat = 1 ∧ field 2 2 b = (linkOf s l).rxNext then 1 else 0 := by
    simp only [flagBit, again, Bool.and_eq_true, beq_iff_eq, pow_zero]
  rw [answer]
  refine ⟨nakSent_of_counted rfl ((bumpLink_still l 2 1 _).trans still) ((bumpLink_returned l 2 1 _).trans returned), ?_⟩
  rw [sendNak_fails, ← counts]
  refine (congrArg LinkInbound.fails (bumpLink_sendsOn l 2 1 _).1).trans ?_
  exact congrArg Link.fails (linkOf_updLink l (Link.failed again) s (fun _ => rfl) (links_any_of_usable usable))

theorem receiveFlit_out_of_order (good : field 0xFC 4 b = (crc32c (b.take 0xFC)).toNat) (data : (b.getD 0 0).toNat = 1)
    (other : field 2 2 b ≠ (linkOf s l).rxNext) :
    NakSent l s (receiveFlit l b s) ∧ (linkOf (receiveFlit l b s) l).fails = (linkOf s l).fails := by
  have answer : receiveFlit l b s = sendNak l (bumpLink l 1 1 s) := by
    have late : outOfOrder (linkOf s l) b = true := Bool.and_eq_true_iff.mpr ⟨by rw [data]; rfl, bne_iff_ne.mpr other⟩
    unfold receiveFlit
    extract_lets x
    rw [if_neg (by simp [usable, size]), if_neg (by simp [good]), if_pos late]
  rw [answer]
  refine ⟨nakSent_of_counted rfl (bumpLink_still l 1 1 s) (bumpLink_returned l 1 1 s), (sendNak_fails l _).trans ?_⟩
  exact congrArg LinkInbound.fails (bumpLink_sendsOn l 1 1 s).1

end

-- Acks, and the first one after a training (R294; log 80).

/-- A link whose peer has acknowledged flits. -/
def Link.ackedTo (ack : Nat) (x : Link) : Link := { x with replay := x.replay.filter fun r => !acked ack r }

/-- The flits of a link that outlive a DOWN, under the next sequence numbers (R295; log 80). -/
def Link.again (x : Link) : List (Nat × Bytes) :=
  ((x.replay.filter fun r => outlives (r.2.getD 1 0).toNat (r.2.drop 0x0C)).zipIdx).map fun r =>
    renumbered x (((x.replay.head?).map (·.1)).getD x.txSeq + r.2) r.1.2

section
variable {l : Nat} {s : State}

theorem linkOf_takeAck (there : s.chd.links.any (·.num == l) = true) (ack : Nat) : linkOf (takeAck l ack s) l = (linkOf s l).ackedTo ack :=
  (linkOf_congr (s := updLink l (Link.ackedTo ack) s) rfl l).trans (linkOf_updLink l (Link.ackedTo ack) s (fun _ => rfl) there)

@[simp] theorem takeAck_modes (l ack : Nat) (s : State) : modes (takeAck l ack s) = modes s :=
  updLink_modes l (g := Link.ackedTo ack) s fun _ => rfl

theorem resync_done (done : (linkOf s l).awaitAck = false) : resync l s = s := if_pos (by simp [done])

theorem resync_awaiting (awaiting : (linkOf s l).awaitAck = true) : ∃ g : Link → Link, resync l s = resend l (updLink l g s) ∧
    ∀ y, (g y).awaitAck = false ∧ (g y).replay = (linkOf s l).again ∧ (g y).inbound = y.inbound ∧ (g y).mode = y.mode :=
  ⟨_, if_neg (by simp [awaiting]), fun _ => ⟨rfl, rfl, rfl, rfl⟩⟩

theorem resync_keeps (l : Nat) (s : State) : modes (resync l s) = modes s ∧ (linkOf (resync l s) l).inbound = (linkOf s l).inbound := by
  cases state : (linkOf s l).awaitAck with
  | false =>
    rw [resync_done state]
    exact ⟨rfl, rfl⟩
  | true =>
    obtain ⟨g, again, of_g⟩ := resync_awaiting state
    have num (y : Link) : (g y).num = y.num := congrArg LinkMode.num (of_g y).2.2.2
    rw [again, resend_modes, (resend_sendsOn l _).1]
    exact ⟨updLink_modes l s fun y => (of_g y).2.2.2, linkOf_updLink_keeps Link.inbound l s num fun y => (of_g y).2.2.1⟩

-- A NAK received (R294, R313).

/-- A link that has received one flit more. -/
def Link.received (x : Link) : Link := { x with ctr := x.ctr.bump 1 1 }

section
variable (usable : linkUsable s l = true) (ack : Nat)
include usable

theorem linkOf_acked : linkOf (takeAck l ack (bumpLink l 1 1 s)) l = ((linkOf s l).received).ackedTo ack := by
  rw [linkOf_takeAck (links_any_of_usable ((linkUsable_congr (bumpLink_modes l 1 1 s) l).trans usable))]
  exact congrArg (Link.ackedTo ack) (linkOf_updLink l Link.received s (fun _ => rfl) (links_any_of_usable usable))

/-- A NAK sends again all that is then in the replay buffer, before anything else. -/
theorem receiveNak_resends {u : State} {rs : List (Nat × Bytes)} (after : u = resync l (takeAck l ack (bumpLink l 1 1 s)))
    (replay : rs <+: (linkOf u l).replay) : SendsOn l u (receiveNak l ack s) ∧
      (u.out ++ rs.map fun r => Out.chordFlit l r.2) <+: (receiveNak l ack s).out := by
  have answer : receiveNak l ack s = pumpLink l ((linkOf (resend l u) l).txq.length + 1) (resend l u) := by
    rw [after]
    exact if_pos usable
  rw [answer]
  refine ⟨(resend_sendsOn l u).trans (pumpLink_sendsOn l _ _), List.IsPrefix.trans ?_ (pumpLink_out l _ _)⟩
  rw [resend_out, List.prefix_append_right_inj]
  exact replay.map _

theorem receiveNak_known (known : (linkOf s l).awaitAck = false) :
    (s.out ++ ((linkOf s l).replay.filter fun r => !acked ack r).map fun r => Out.chordFlit l r.2) <+: (receiveNak l ack s).out ∧
    ((linkOf s l).replay.filter fun r => !acked ack r) <+: (linkOf (receiveNak l ack s) l).replay := by
  have link := linkOf_acked usable ack
  have settled : resync l (takeAck l ack (bumpLink l 1 1 s)) = takeAck l ack (bumpLink l 1 1 s) := resync_done (by rw [link]; exact known)
  have replay : ((linkOf s l).replay.filter fun r => !acked ack r) <+: (linkOf (takeAck l ack (bumpLink l 1 1 s)) l).replay := by
    rw [link]
    exact List.prefix_refl _
  obtain ⟨sends, out⟩ := receiveNak_resends usable ack settled.symm replay
  exact ⟨out, replay.trans sends.2.replay⟩

theorem receiveNak_after_training (awaiting : (linkOf s l).awaitAck = true) :
    (linkOf (receiveNak l ack s) l).awaitAck = false ∧
    (s.out ++ (((linkOf s l).ackedTo ack).again).map fun r => Out.chordFlit l r.2) <+: (receiveNak l ack s).out ∧
    ((linkOf s l).ackedTo ack).again <+: (linkOf (receiveNak l ack s) l).replay := by
  have link := linkOf_acked usable ack
  obtain ⟨g, again, of_g⟩ := resync_awaiting (s := takeAck l ack (bumpLink l 1 1 s)) (l := l) (by rw [link]; exact awaiting)
  have there : (takeAck l ack (bumpLink l 1 1 s)).chd.links.any (·.num == l) = true :=
    links_any_of_usable ((linkUsable_congr ((takeAck_modes ..).trans (bumpLink_modes ..)) l).trans usable)
  have changed := linkOf_updLink l g _ (fun y => congrArg LinkMode.num (of_g y).2.2.2) there
  obtain ⟨known, replay, -, -⟩ := of_g (linkOf (takeAck l ack (bumpLink l 1 1 s)) l)
  rw [← changed] at known replay
  have same : (linkOf (takeAck l ack (bumpLink l 1 1 s)) l).again = ((linkOf s l).ackedTo ack).again := by
    rw [link]
    rfl
  rw [same] at replay
  obtain ⟨-, follows⟩ := resend_sendsOn l (updLink l g (takeAck l ack (bumpLink l 1 1 s)))
  have kept := follows.replay
  rw [replay] at kept
  obtain ⟨sends, out⟩ := receiveNak_resends usable ack again.symm kept
  refine ⟨sends.2.awaitAck.trans (follows.awaitAck.trans known), ?_, kept.trans sends.2.replay⟩
  refine List.IsPrefix.trans ?_ ((List.prefix_append _ _).trans out)
  rw [resend_out, replay]
  exact List.prefix_refl _

end

end

-- A data flit in order (R294, R298).

theorem takeAck_inbound (l ack : Nat) (s : State) : (linkOf (takeAck l ack s) l).inbound = (linkOf s l).inbound :=
  linkOf_updLink_keeps Link.inbound l (g := Link.ackedTo ack) s (fun _ => rfl) fun _ => rfl

theorem addCredits_keeps (l v n : Nat) (s : State) : modes (addCredits l v n s) = modes s ∧ SendsOn l s (addCredits l v n s) :=
  ⟨updLink_modes l s fun _ => rfl, updLink_sendsOn l s (fun _ => rfl) (fun _ => rfl) fun _ => ⟨rfl, List.prefix_refl _⟩⟩

section
variable {l : Nat} {s : State}

/-- A data flit in order moves the sequence on, and one that is a whole message is delivered. -/
theorem linkOf_deliver (there : s.chd.links.any (·.num == l) = true) (b : Bytes) :
    (linkOf (deliver l b s) l).fails = 0 ∧ (linkOf (deliver l b s) l).rxNext = ((linkOf s l).rxNext + 1) % 65536 ∧
    (linkOf (deliver l b s) l).replay = (linkOf s l).replay ∧
    (bit 0 (field 0x0A 2 b) = true → bit 1 (field 0x0A 2 b) = true →
      (linkOf (deliver l b s) l).delivered = (linkOf s l).delivered ++ [((b.getD 1 0).toNat % 4, slice 0x0C (field 8 2 b) b)]) := by
  unfold deliver
  extract_lets v pay fl
  rw [linkOf_updLink (hl := there)]
  · refine ⟨rfl, rfl, rfl, fun starts ends => ?_⟩
    simp [fl, starts, ends, v, pay]
  · exact fun _ => rfl

/-- What a data flit's ack and credits do before it is delivered. -/
def flitTaken (l : Nat) (b : Bytes) (s : State) : State :=
  addCredits l (field 6 1 b % 4) (field 7 1 b) (resync l (takeAck l (field 4 2 b) s))

theorem flitTaken_modes (l : Nat) (b : Bytes) (s : State) : modes (flitTaken l b s) = modes s :=
  (addCredits_keeps ..).1.trans ((resync_keeps ..).1.trans (takeAck_modes ..))

theorem flitTaken_inbound (l : Nat) (b : Bytes) (s : State) : (linkOf (flitTaken l b s) l).inbound = (linkOf s l).inbound :=
  (addCredits_keeps ..).2.1.trans ((resync_keeps ..).2.trans (takeAck_inbound ..))

theorem flitTaken_replay (there : s.chd.links.any (·.num == l) = true) (known : (linkOf s l).awaitAck = false) (b : Bytes) :
    (linkOf s l).replay.filter (fun r => !acked (field 4 2 b) r) <+: (linkOf (flitTaken l b s) l).replay := by
  have link := linkOf_takeAck there (field 4 2 b)
  have settled : resync l (takeAck l (field 4 2 b) s) = takeAck l (field 4 2 b) s := resync_done (by rw [link]; exact known)
  have follows := (addCredits_keeps l (field 6 1 b % 4) (field 7 1 b) (takeAck l (field 4 2 b) s)).2.2.replay
  rw [link] at follows
  unfold flitTaken
  rw [settled]
  exact follows

/-- What is sent behind a data flit's delivery leaves the delivery as it is. -/
theorem takeFlit_delivers (data : (b.getD 0 0).toNat = 1) : SendsOn l (deliver l b (flitTaken l b s)) (takeFlit l b s) := by
  unfold takeFlit
  extract_lets typ s1 s2 s3
  have delivered : s2 = deliver l b (flitTaken l b s) := by
    unfold s2
    rw [show typ = 1 from data]
    rfl
  have pumped : SendsOn l (deliver l b (flitTaken l b s)) s3 := delivered ▸ pumpLink_sendsOn l _ s2
  split
  · exact pumped.trans (sendControl_sendsOn l 0 s3)
  · exact pumped

theorem receiveFlit_in_order {b : Bytes} (usable : linkUsable s l = true) (size : b.length = 256)
    (good : field 0xFC 4 b = (crc32c (b.take 0xFC)).toNat) (data : (b.getD 0 0).toNat = 1) (next : field 2 2 b = (linkOf s l).rxNext) :
    let u := receiveFlit l b s
    (linkOf u l).fails = 0 ∧ (linkOf u l).rxNext = ((linkOf s l).rxNext + 1) % 65536 ∧
    ((linkOf s l).awaitAck = false → (linkOf s l).replay.filter (fun r => !acked (field 4 2 b) r) <+: (linkOf u l).replay) ∧
    (bit 0 (field 0x0A 2 b) = true → bit 1 (field 0x0A 2 b) = true →
      (linkOf u l).delivered = (linkOf s l).delivered ++ [((b.getD 1 0).toNat % 4, slice 0x0C (field 8 2 b) b)]) := by
  have answer : receiveFlit l b s = takeFlit l b (bumpLink l 1 1 s) := by
    have onTime : ¬ outOfOrder (linkOf s l) b = true := fun late => bne_iff_ne.mp (Bool.and_eq_true_iff.mp late).2 next
    unfold receiveFlit
    extract_lets x
    rw [if_neg (by simp [usable, size]), if_neg (by simp [good]), if_neg onTime]
  have counted := linkOf_updLink l Link.received s (fun _ => rfl) (links_any_of_usable usable)
  have there : (bumpLink l 1 1 s).chd.links.any (·.num == l) = true :=
    links_any_of_usable ((linkUsable_congr (bumpLink_modes l 1 1 s) l).trans usable)
  have thereTaken : (flitTaken l b (bumpLink l 1 1 s)).chd.links.any (·.num == l) = true :=
    links_any_of_usable ((linkUsable_congr ((flitTaken_modes ..).trans (bumpLink_modes ..)) l).trans usable)
  obtain ⟨-, rxBefore, before⟩ := inbound_eq_iff.mp ((flitTaken_inbound l b _).trans (bumpLink_sendsOn l 1 1 s).1)
  obtain ⟨fails, rxNext, replay, delivered⟩ := linkOf_deliver thereTaken b
  obtain ⟨kept, follows⟩ := takeFlit_delivers (l := l) (s := bumpLink l 1 1 s) data
  obtain ⟨failsKept, rxKept, deliveredKept⟩ := inbound_eq_iff.mp kept
  intro u
  unfold u
  rw [answer]
  refine ⟨failsKept.trans fails, by rw [rxKept, rxNext, rxBefore], fun known => ?_, fun starts ends => ?_⟩
  · have acks := flitTaken_replay there ((congrArg Link.awaitAck counted :).trans known) b
    rw [show (linkOf (bumpLink l 1 1 s) l).replay = (linkOf s l).replay from (congrArg Link.replay counted :), ← replay] at acks
    exact acks.trans follows.replay
  · rw [deliveredKept, delivered starts ends, before]

end

/-- Settles O51: a bad or late flit is answered with a NAK alone; one in order is acknowledged, resynchronised and delivered before anything
is sent; a NAK resends the replay buffer, which after a training holds what outlives a DOWN. -/
theorem flitsAreDeliveredInOrder : Obligations.FlitsAreDeliveredInOrder := by
  unfold Obligations.FlitsAreDeliveredInOrder
  refine ⟨fun l b s usable size => ⟨fun bad => ⟨_, rfl, receiveFlit_bad usable size bad⟩,
      fun good data other => ⟨_, rfl, receiveFlit_out_of_order usable size good data other⟩,
      fun good data next => ⟨_, rfl, receiveFlit_in_order usable size good data next⟩⟩,
    fun l ack s usable => ⟨fun known => ⟨_, rfl, receiveNak_known usable ack known⟩,
      fun awaiting => ⟨_, rfl, receiveNak_after_training usable ack awaiting⟩⟩⟩

end Sys2Proof.Machine
end
